-- ==== Sys2Proof/Word.lean ====
section
/-!
DEFINITION. The word types of the WJ16 and their plainest arithmetic: bytes, little- and big-endian
numbers over byte lists, and fields of a number (00_scope.md, Table 0-4).
-/

namespace Sys2Proof

abbrev Byte := BitVec 8
abbrev W16 := BitVec 16
abbrev W32 := BitVec 32
abbrev W64 := BitVec 64
abbrev W128 := BitVec 128

/-- The bytes of a value, in the order in which the spec writes them. -/
abbrev Bytes := List Byte

/-- Bits [lo + w - 1 : lo] of a natural number. -/
def bits (x lo w : Nat) : Nat := (x >>> lo) % 2 ^ w

/-- Bit i of a natural number. -/
def bitOf (x i : Nat) : Bool := x.testBit i

/-- Little-endian number held by a byte list. -/
def leNat : Bytes → Nat
  | [] => 0
  | b :: bs => b.toNat + 256 * leNat bs

/-- The low n bytes of a number, least significant first. -/
def toLE : Nat → Nat → Bytes
  | 0, _ => []
  | n + 1, v => BitVec.ofNat 8 v :: toLE n (v / 256)

/-- Big-endian number held by a byte list. -/
def beNat (bs : Bytes) : Nat := bs.foldl (fun a b => a * 256 + b.toNat) 0

/-- The low n bytes of a number, most significant first. -/
def toBE (n v : Nat) : Bytes := (toLE n v).reverse

/-- Byte i of a list, 0 beyond its end. -/
def byteAt (bs : Bytes) (i : Nat) : Byte := bs.getD i 0

/-- n bytes of a list from offset o, 0 beyond its end. -/
def slice (bs : Bytes) (o n : Nat) : Bytes := (List.range n).map fun k => byteAt bs (o + k)

/-- Little-endian field of n bytes at offset o. -/
def fieldLE (bs : Bytes) (o n : Nat) : Nat := leNat (slice bs o n)

/-- Big-endian field of n bytes at offset o. -/
def fieldBE (bs : Bytes) (o n : Nat) : Nat := beNat (slice bs o n)

/-- A list cut or zero-padded to n bytes. -/
def padTo (n : Nat) (bs : Bytes) : Bytes := slice bs 0 n

/-- A byte list with src written over it at offset o; the length does not change. -/
def overwrite (bs : Bytes) (o : Nat) (src : Bytes) : Bytes :=
  (List.range bs.length).map fun k =>
    if o ≤ k ∧ k < o + src.length then byteAt src (k - o) else byteAt bs k

/-- The signed value of the low w bits of a number. -/
def sext (w x : Nat) : Int := (BitVec.ofNat w x).toInt

/-- The low w bits of an integer, two's complement. -/
def wrapInt (w : Nat) (x : Int) : Nat := (BitVec.ofInt w x).toNat

/-- A Bool as a bit. -/
def b2n (b : Bool) : Nat := if b then 1 else 0

/-- A number with bits [lo + w - 1 : lo] replaced by v. -/
def setBits (x lo w v : Nat) : Nat :=
  x - (bits x lo w) * 2 ^ lo + (v % 2 ^ w) * 2 ^ lo

/-- A number with bit i set. -/
def setBit (x i : Nat) : Nat := x ||| 2 ^ i

/-- A number with bit i cleared. -/
def clearBit (x i : Nat) : Nat := setBits x i 1 0

end Sys2Proof
end

