-- ==== Sys2Proof/Config.lean ====
section
/-!
DEFINITION. What one part or one board fixes, and the free values: the values the spec leaves open
after which the machine goes on. A free value has no body; nothing in Lean can evaluate it.
-/

namespace Sys2Proof

/-- The places where the spec leaves a value open (notes/assumptions, log entries 5 and 6). -/
inductive FreeTag where
  /-- the published angle between two edges, words or frames, R49, R55, R56, R57 -/
  | interp
  /-- one step of the SRF-PLL: angle and frequency after a frame, R56 -/
  | pll
  /-- the 8-byte login challenge from the hardware random source, R95 -/
  | challenge
  /-- a decoded JPEG sample: entropy decoding and inverse DCT are ISO/IEC 10918-1's, R156, R158 -/
  | jpegSample
  /-- a vector lane whose operation Table 5-4 names but does not define -/
  | vaLane
  /-- an accumulator lane addressed by DWMAC from a bundle, R228 -/
  | dwLane
  /-- the lane a VMOVACC moves, Table 5-4 -/
  | vmovacc
  /-- a floating-point result whose NaN payload or class mask is not stated, R335 -/
  | fpNan
  /-- a Luaca-Q lane whose rule Table 10-8 does not state -/
  | qLane
  /-- the result of a shift whose count is not below its width, R335 -/
  | shift
  /-- how far a hart issues words of a path that a branch does not take, and which of their loads go out, R372 -/
  | speculation
  /-- which line a full cache set evicts, Table 10-2 -/
  | victim
  /-- the amount a cycle counter advances by, Tables 5-13, 6-9, 9-9, 10-16 -/
  | cycles
  /-- the reading of a register the spec gives no layout for: SP_CTL, the registers of the JDUs, of the MACs and
  of the Loft controller -/
  | register
  /-- bytes the device fetched for a descriptor, R218 -/
  | rdbytes
  /-- a byte of flash after a reset struck its sector, R529 -/
  | flashStruck
  /-- bytes read from another chip by a unit that does not wait for them one by one, log 56 -/
  | remoteByte
  /-- which of two readings of an operand form the part takes, log 46 -/
  | form
  /-- contents of a field the spec calls reserved, or of a detail byte it does not name -/
  | unspecified
  deriving DecidableEq, Repr

/-- A fresh free value: the n-th draw of its kind (State.free counts the draws). -/
opaque Config.freeValue : FreeTag → Nat → Nat

/-- A free value that depends on the operands it is applied to. -/
opaque Config.freeOf : FreeTag → List Nat → Nat

/-- Dimensions of the machine a chip is built into, each minus 1 (R410): the board's wiring, which the
spec leaves to the machine (log 55). -/
opaque Config.machineDim : Fin 3 → Fin 4

/-- A dimension of the machine is a torus, not a mesh (R410, log 55). -/
opaque Config.machineTorus : Fin 3 → Bool

/-- The customer logic that serves CP4 + k is attached to SHL7, else to SHL6: the board's wiring (R350, R401,
log 86). -/
opaque Config.attachOn7 : Fin 4 → Bool

namespace Config

/-- Vendor ID, product code and revision number (R5, Table 0-7). -/
def vendorId : Nat := 0x00000A51
def productCode : Nat := 0x00004A16
def revisionNumber : Nat := 0x00020001

/-- Fitted DRAM in GiB on the board (R391: 4 to 64); DESIGN CHOICE, log 8. -/
def fittedGiB : Nat := 64

/-- Geometry of the L1 data caches (Table 10-2): 32 KiB, 4-way, 64-byte lines. -/
def l1Sets : Nat := 128
def l1Ways : Nat := 4

/-- Geometry of the L2 (Table 10-2): 512 KiB, 8-way, 64-byte lines. -/
def l2Sets : Nat := 1024
def l2Ways : Nat := 8

end Config

end Sys2Proof
end

