-- ==== Sys2Proof/Syntax.lean ====
section
/-!
DEFINITION. The commands of the block: one constructor of Instr for each row of spec/opcode_table.json,
with the operands that the outside gives (levels, frames, written values, the party that writes). The
table gives its rows no fields; the operands are the model's (log 1).
-/

namespace Sys2Proof

abbrev CoreId := Fin 16
abbrev HartId := Fin 2
abbrev QueueId := Fin 8
abbrev PhtSlotId := Fin 64
abbrev SrcId := Fin 4
abbrev DomId := Fin 18
abbrev ChipId := Fin 64
abbrev ShlId := Fin 8
abbrev TwId := Fin 6
abbrev CanPort := Fin 2

/-- A dictionary session: one client node on one CAN port, or the host mailbox (R94). -/
inductive Session where
  | can (port : CanPort) (node : BitVec 7)
  | host
  deriving DecidableEq, Repr

/-- Who asks for a plane reset: a write of 0x2702 by a session, or a RESET_REQ message (R524). -/
inductive ResetBy where
  | object (s : Session)
  | mailbox
  deriving DecidableEq, Repr

/-- Who writes a Cleat B register (R24, Table 1-14). -/
inductive Poster where
  | mc (h : HartId)
  | host
  deriving DecidableEq, Repr

/-- Who writes a register: a Mast hart, a Spar core, the MGC, or the PCIe host at an offset of BAR0. -/
inductive RegParty where
  | mast (h : HartId)
  | spar (c : CoreId)
  | mgc
  | host
  deriving DecidableEq, Repr

/-- What a client asks of the dictionary server (R98 to R100); a request of another specifier, such as that of a
block transfer, is unknown (Table 3-2, R102). -/
inductive SdoOp where
  | read (segmented : Bool)
  | write (total : Nat) (data : Bytes)
  | unknown
  deriving DecidableEq, Repr

/-- How a Trim command was given (R325): through CP1 from a hart, or by a write to a Trim register. -/
inductive TrimVia where
  | cp1 (h : HartId)
  | reg
  deriving DecidableEq, Repr

/-- What ended a wait for a coprocessor or a routed access: data or an abort code. -/
inductive Answer where
  | data (d : Bytes)
  | abort (code : Nat)
  deriving DecidableEq, Repr

/-- What a two-wire transfer met on the bus (R439). -/
inductive TwEnd where
  | acked (read : Bytes)
  /-- no target acknowledges the address: the first one, or the one after the repeated START -/
  | nackAddr (second : Bool)
  | nackData (acked : Nat)
  deriving DecidableEq, Repr

/-- What a memory access of the scrubber or of a Mast cache met. -/
inductive EccKind where
  | none
  | corrected
  | uncorrectable
  deriving DecidableEq, Repr

/-- A Spar core's own error (R205). -/
inductive TcmErr where
  | corrected
  | uncorrectable (offset : Nat)
  | macParity
  deriving DecidableEq, Repr

/-- What the debug access port asks (R508). -/
inductive DapOp where
  | halt (h : HartId)
  | step (h : HartId)
  | resume (h : HartId)
  | readReg (h : HartId) (r : Fin 32)
  | writeReg (h : HartId) (r : Fin 32) (v : W64)
  | readMem (addr n : Nat)
  | writeMem (addr : Nat) (data : Bytes)
  | readMgc (addr n : Nat)
  deriving DecidableEq, Repr

/-- A CSI-2 packet as received: the count of header bits in error, the data type, the virtual channel,
the bytes of a long packet and whether its CRC holds (R151, R152). -/
structure CsiPacket where
  headerErrs : Nat
  dataType : BitVec 6
  vc : Fin 4
  payload : Bytes
  crcOk : Bool
  deriving DecidableEq, Repr

/-- A CSI-2 short packet, a frame start or end: the count of header bits in error and the virtual channel
(R152, R153). -/
structure CsiShort where
  headerErrs : Nat
  vc : Fin 4
  deriving DecidableEq, Repr

/-- Which routed access an answer or a timeout is of: whose envelope, to which chip (R128, log 167). -/
structure RoutedAccess where
  sess : Session
  chip : ChipId
  deriving DecidableEq, Repr

/-- What the partner of a Shroud link tells in CONFIG (Table 11-5): chip, serial, port, kind, width, pools. -/
structure ShlPartner where
  chip : ChipId
  serial : BitVec 80
  port : ShlId
  attach : Bool
  width : Nat
  pools : List Nat
  deriving DecidableEq, Repr

/-- A HELLO record (R420). -/
structure HelloRec where
  chip : ChipId
  serial : BitVec 80
  healthy : Bool
  deriving DecidableEq, Repr

/-- A management record the fabric agent carries (R423). -/
inductive MgmtRec where
  | heartbeat (chip : ChipId)
  | headHeartbeat
  | nmt (state : Nat)
  | envelope (src : ChipId) (service : Bool) (data : Bytes)
  | members (mask : W64) (head : ChipId) (node : BitVec 7) (routes : List Nat)
  deriving DecidableEq, Repr

/-- The commands and events of the block, in the order of the table. -/
inductive Instr where
  | por (vddAonMv vddOtpMv vddioAMv vddioBMv : Nat)
  | pinReset (lowNs : Nat)
  | resetNRelease (mode : BitVec 3) (nodeId : BitVec 7) (fabId : BitVec 6) (testEn : Bool)
  | mwdt
  | wdtKick
  | refclkLoss
  | bootRom
  | mgcBoot
  | nodeBoot
  | cprRequest (by_ : ResetBy)
  | dprRequest (by_ : ResetBy)
  | cprDprRequest (by_ : ResetBy)
  | cprRelease
  | dprEnd
  | c2mWrite (v : W32)
  | m2cReadIndexWrite (v : W32)
  | dictRsp
  | imageUpdate
  | appReg
  | appUnreg
  | actReq
  | actStationApply
  | actRsp
  | reefReq
  | reefRsp (d : DomId)
  | emcyReq
  | ctlFault
  | clbPostWrite (q : QueueId) (by_ : Poster) (v : W32)
  | clbReadWrite (q : QueueId) (by_ : Poster) (v : W32)
  | clbCfgWrite (q : QueueId) (by_ : Poster) (v : W32)
  | hostPost (q : QueueId) (job : Bytes)
  | faultReport (unit cls : Byte) (code : W16) (detail : W64)
  | fence (unit : Byte) (code : W16)
  | fenceTakesEffect (unit : Byte)
  | clcLostClear (s : Session) (v : W64)
  | phaseBusRecord
  | quadEdge (src : CanPort) (a b : Bool) (samples : Nat)
  | indexPulse (src : CanPort) (samples : Nat)
  | indexMissing (src : CanPort)
  | ssiWord (w : W32)
  | mainsFrame (a b c : Int)
  | mainsZcEdge (samples period : Nat)
  | mainsLockLoss
  | sourceStall (src : SrcId)
  | ntSyncExpiry
  | slotFire (n : PhtSlotId)
  | phaseOutPulseEnd (n : SrcId)
  | slotFallback (n : PhtSlotId)
  | slotArm (n : PhtSlotId) (by_ : RegParty) (cfg : W32)
  | slotTargetCommit (n : PhtSlotId) (inc : Bool) (hi : W32)
  | phaseEventArrive (c : CoreId) (n : PhtSlotId)
  | phtRdyWrite (v : W32)
  | deadlinePhaseCross (tag : W16)
  | deadlineExpire (tag : W16)
  | nmtStart (node : Byte)
  | nmtStop (node : Byte)
  | nmtEnterPreOperational (node : Byte)
  | nmtResetCommunication (node : Byte)
  | nmtResetNode (node : Byte)
  | loginChallenge (s : Session)
  | loginResponse (s : Session) (rsp : Bytes)
  | loginLockoutEnd (port : CanPort)
  | challengeExpire (s : Session)
  | sessionLogout (s : Session) (v : Byte)
  | sessionIdleTimeout (s : Session)
  | sdoRequest (port : CanPort) (dst client : Byte) (index : W16) (sub : Byte) (op : SdoOp)
  | sdoSegment (port : CanPort) (client : Byte) (toggle : Bool) (data : Bytes)
  | sdoSegmentTimeout (port : CanPort)
  | dictReqTimeout (tag : W16)
  | rpdoReceive (port : CanPort) (canId : BitVec 11) (data : Bytes)
  | syncReceive (port : CanPort) (canId : BitVec 11) (counter : Nat)
  | tpdoEventTimer (n : Fin 16)
  | tpdoInhibitEnd (n : Fin 16)
  | heartbeatProduce
  | heartbeatReceive (port : CanPort) (node : BitVec 7) (state : Byte)
  | heartbeatConsumerTimeout (entry : Fin 8)
  | canBusOff (port : CanPort)
  | canErrorPassive (port : CanPort)
  | canRxOverrun (port : CanPort)
  | timeReceive (port : CanPort) (canId : BitVec 11) (value : Bytes)
  | emcySend
  | pollDue (entry : Fin 96)
  | pollResponse (port : CanPort) (a : Answer)
  | pollTimeout (port : CanPort)
  | hmbDoorbell (v : W32)
  | hmbResponse
  | routeEnvelope (s : Session) (chip : ChipId) (data : Bytes)
  | routeAnswer (r : RoutedAccess) (a : Answer)
  | routeTimeout (r : RoutedAccess)
  | ingressRecord (e : CanPort) (rec_ : Bytes)
  | sframeFragment (e : CanPort)
  | rtpPacket (e : CanPort)
  | assemblyTimeout (ctx : BitVec 12)
  | csiFrameStart (rx : SrcId) (p : CsiShort)
  | csiPacket (rx : SrcId) (p : CsiPacket)
  | csiFrameEnd (rx : SrcId) (p : CsiShort)
  | twPollDue (ctx : BitVec 12)
  | twPollDone (ctx : BitVec 12)
  | capAcq (by_ : RegParty) (ctx : BitVec 12)
  | capPush (by_ : RegParty) (rec_ : Bytes)
  | hostSlotTimeout (ctx : BitVec 12) (slot : Byte)
  | capRel (v : W32)
  | capRoiCommit (ctx : BitVec 12) (hi : W32)
  | contextWrite (ctx : BitVec 12) (field : Fin 16) (v : W64)
  | jpegDecodeStart (j : CanPort)
  | jpegRowDecoded (j : CanPort)
  | jpegDecodeEnd (j : CanPort)
  | alignWindowClose (g : Fin 64) (waited : Bool)
  | alignSetOffer (g : Fin 64)
  | sourceLossTimeout (ctx : BitVec 12)
  | bundleIssue (c : CoreId)
  | waitphResume (c : CoreId)
  | sparInterrupt (c : CoreId)
  | tileSuspend (c : CoreId) (rows : Nat)
  | tileComplete (c : CoreId)
  | sparWatchdog (c : CoreId)
  | tcmError (c : CoreId) (e : TcmErr)
  | spCntclr (c : CoreId) (v : W32)
  | eeDescriptor
  | eeDescriptorEnd
  | eeError (mac : Bool)
  | planLoad (p : PhtSlotId) (v : W32)
  | planCoreLoad (c : CoreId)
  | jobTake
  | courseDispatch
  | courseStealLocal
  | prefetchCancelDone (c : CoreId)
  | haloWaitExpiry (c : CoreId)
  | courseCommit (c : Fin 17)
  | commitCopyDone
  | jobComplete (tag : W16)
  | courseRecall (c : CoreId)
  | remoteStealRequest
  | steal (thief : ChipId) (core : Fin 16) (hashes : List (PhtSlotId × W64))
  | stealresp (peer : ChipId) (course : Option Bytes)
  | remotePullDone (ok : Bool) (tag : W16) (group : Fin 64) (course : Nat)
  | trimLoad (via : TrimVia)
  | trimLoadDone
  | trimRun (via : TrimVia)
  | trimReplay (via : TrimVia)
  | trimAbort (via : TrimVia)
  | trimStatus (h : HartId)
  | trimEnergy (h : HartId)
  | trimRdreg (h : HartId)
  | trimWrreg (h : HartId)
  | trimSweepStart
  | trimGroupStep
  | trimSweepEnd
  | trimx (peer : ChipId) (rec_ : Bytes)
  | trimPeerTimeout
  | trimFinal
  | trimRunEnd
  | trimReclaimStop
  | trimUncorrectable
  | pairIssue (h : HartId)
  | mastLoad (h : HartId)
  | mastStore (h : HartId)
  | storeBufferDrain (h : HartId)
  | storeError (h : HartId)
  | integerOp (h : HartId)
  | mulDivOp (h : HartId)
  | fpOp (h : HartId)
  | branch (h : HartId)
  | jal (h : HartId)
  | jalr (h : HartId)
  | lr (h : HartId)
  | sc (h : HartId)
  | tasB (h : HartId)
  | reservationExpire (h : HartId)
  | cwswp (h : HartId)
  | cwset (h : HartId)
  | cwclr (h : HartId)
  | cwswpi (h : HartId)
  | cwseti (h : HartId)
  | cwclri (h : HartId)
  | sysreq (h : HartId)
  | dbrk (h : HartId)
  | rets (h : HartId)
  | waiti (h : HartId)
  | retm (h : HartId)
  | mastFence (h : HartId)
  | ifence (h : HartId)
  | dclCln (h : HartId)
  | dclInv (h : HartId)
  | dclFls (h : HartId)
  | dclZro (h : HartId)
  | iclInv (h : HartId)
  | qld (h : HartId)
  | qst (h : HartId)
  | qOp (h : HartId)
  | cp0Post (h : HartId)
  | cp0Qstat (h : HartId)
  | cp0Doorbell (h : HartId)
  | cp2Rdreg (h : HartId)
  | cp2Wrreg (h : HartId)
  | cp2Ntstep (h : HartId)
  | cp2Rdnow (h : HartId)
  | cpx (h : HartId)
  | cpxresp (tag : BitVec 12) (a : Answer)
  | mastTrap (h : HartId)
  | mastInterrupt (h : HartId)
  | mcIpi (v : W32)
  | mcHartctlRun1 (v : W32)
  | cleanAll (v : W32)
  | flushAll (v : W32)
  | cmoDone
  | mastCacheEcc (h : HartId) (line : Nat) (l2 : Bool) (k : EccKind)
  | ddrInit (v : W32)
  | ddrReady
  | dramScrub (line : Nat) (k : EccKind)
  | dramRefresh (channel : CanPort) (tooHot : Bool)
  | dramSelfRefreshExit
  | hostBar4Access (offset : Nat) (write : Option Bytes) (n : Nat)
  | pcieMsixRaise (v : W32)
  | msixUnmask (vec : Fin 32)
  | pciePerst (level : Bool)
  | portDetect (p : ShlId) (detected : Bool)
  | portEqDone (p : ShlId)
  | portAlign (p : ShlId) (locked : Bool)
  | portConfig (p : ShlId) (partner : ShlPartner)
  | portRetrain (p : ShlId)
  | portRetrainDone (p : ShlId)
  | portDown (p : ShlId)
  | portDownEnd (p : ShlId)
  | flitReceive (p : ShlId) (flit : Bytes)
  | nakReceive (p : ShlId) (flit : Bytes)
  | replayTimeout (p : ShlId)
  | remoteResponseTimeout (tag : BitVec 12)
  | homeReservationExpire (chip : ChipId) (hart : HartId)
  | fabricGo (v : W32)
  | hello (r : HelloRec)
  | fabricElection
  | fabricHeartbeat
  | chipLossTimeout (c : ChipId)
  | lost (c : ChipId)
  | headHeartbeatTimeout
  | join (r : HelloRec)
  | mgmt (r : MgmtRec)
  | twCommand (n : TwId) (v : W32)
  | twTransferObject (s : Session) (n : CanPort) (data : Bytes)
  | twTransferStart (n : TwId)
  | twTransferEnd (n : TwId) (e : TwEnd)
  | twArbLost (n : TwId) (byte bit : Nat) (addrByte : Byte)
  | twArbRetry (n : TwId)
  | twTargetAddress (n : TwId) (addrByte : Byte)
  | twTargetWriteByte (n : TwId) (b : Byte)
  | twTargetReadByte (n : TwId) (ack : Bool)
  | twStop (n : TwId) (restart : Bool)
  | twWindowInternalWrite (n : TwId) (offset : Byte) (data : Bytes)
  | twBusFree (n : TwId)
  | twEnableWrite (n : TwId) (v : W32)
  | twDoze (n : CanPort)
  | twDozeWake (n : CanPort) (addrByte : Byte)
  | twSleep (n : TwId)
  | twSleepWake (n : TwId) (addrByte : Byte)
  | twBusTimeout (n : TwId)
  | twSclFault (n : TwId)
  | twRecovery (n : TwId) (freed : Bool)
  | twReenable (s : Session) (n : TwId) (v : Byte)
  | twSdaLow (n : TwId)
  | twSdaRise (n : TwId)
  | autoDemandRaise (d : Fin 9)
  | autoDemandDrop (d : Fin 9)
  | reefGrant
  | reefDomainReady (d : DomId)
  | reefGrantTimeout (d : DomId)
  | reefReclaimAck (d : DomId)
  | reefTransitReturn
  | reefReclaimTimeout (d : DomId)
  | reefBudgetWrite (s : Session) (v : W16)
  | thermalSample (temps : List Int)
  | otpStage (s : Session) (data : Bytes)
  | otpProgram (s : Session) (v : Byte)
  | otpProgramEnd (failedCell : Option Nat)
  | otpKeyProgram (s : Session) (data : Bytes)
  | mastDebugLock (s : Session) (v : W16)
  | mastSvnWrite (s : Session) (v : Byte)
  | flashOffset (s : Session) (v : W32)
  | flashProgram (s : Session) (data : Bytes)
  | flashErase (s : Session) (v : W16)
  | dapWindowWrite (s : Session) (data : Bytes)
  | dapAccess (op : DapOp)
  | tapBypass (tdi : Bool)
  | tapIdcode
  | tapSamplePreload (boundary : List Bool)
  | tapExtest
  | pertActivate (s : Session) (k : Fin 8) (data : Bytes)
  | pertDisable (s : Session) (k : Fin 8) (data : Bytes)
  | pertExpire (k : Fin 8)
  | ioEdge (pin : Fin 32) (level : Bool)
  | registerWrite (by_ : RegParty) (addr : Nat) (v : W64)
  | twStartDetected (n : TwId)
  | busOffRecovery (port : CanPort)
  | flashUpdateDone (verifyOk : Bool)
  | otpKeyProgramEnd (verifyOk : Bool)
  | resetReq
  deriving DecidableEq, Repr

end Sys2Proof
end

