-- ==== Sys2Proof/Machine/Crypto.lean ====
section
/-!
DEFINITION. The checks and digests that the spec names by their standards: CRC-32C with the parameters of
14_otp_boot_protection.md, the CRC-16 of Table 4-5, SHA-256 (FIPS 180-4), HMAC-SHA-256 (RFC 2104) and
ECDSA P-256 verification (FIPS 186-4). PRESUMED from those standards (log 9).
-/

namespace Sys2Proof.Machine

/-! ## CRCs -/

/-- One bit step of a reflected CRC-32C register. -/
def crc32cBit (c : Nat) : Nat := if c % 2 = 1 then Nat.xor (c / 2) 0x82F63B78 else c / 2

/-- The register after one byte. -/
def crc32cByte (c : Nat) (b : Byte) : Nat :=
  let x := Nat.xor c b.toNat
  crc32cBit (crc32cBit (crc32cBit (crc32cBit (crc32cBit (crc32cBit (crc32cBit (crc32cBit x)))))))

/-- CRC-32C: polynomial 0x1EDC6F41 reflected, initial and final XOR all ones. -/
def crc32c (bs : Bytes) : Nat := Nat.xor (bs.foldl crc32cByte 0xFFFFFFFF) 0xFFFFFFFF

/-- One bit step of the CRC-16 register, most significant bit first. -/
def crc16Bit (c : Nat) : Nat :=
  if 0x8000 ≤ c then Nat.xor (c * 2) 0x1021 % 65536 else c * 2 % 65536

def crc16Byte (c : Nat) (b : Byte) : Nat :=
  let x := Nat.xor c (b.toNat * 256)
  crc16Bit (crc16Bit (crc16Bit (crc16Bit (crc16Bit (crc16Bit (crc16Bit (crc16Bit x)))))))

/-- CRC-16: polynomial 0x1021, initial 0xFFFF, no reflection, no final XOR. -/
def crc16 (bs : Bytes) : Nat := bs.foldl crc16Byte 0xFFFF

/-! ## SHA-256 -/

/-- The largest number below 2^n whose k-th power does not exceed x, found bit by bit from the top. -/
def rootFloor (k x : Nat) : Nat → Nat → Nat
  | 0, r => r
  | n + 1, r => rootFloor k x n (if (r + 2 ^ n) ^ k ≤ x then r + 2 ^ n else r)

/-- The first 32 bits of the fractional part of the k-th root of p (FIPS 180-4, 4.2.2 and 5.3.3). -/
def rootFraction (k p : Nat) : W32 := BitVec.ofNat 32 (rootFloor k (p * 2 ^ (32 * k)) 37 0)

/-- The first 64 primes: the numbers to 311 without a proper divisor among the primes to 17. -/
def shaPrimes : List Nat :=
  (List.range 312).filter fun n => decide (2 ≤ n) && [2, 3, 5, 7, 11, 13, 17].all fun d => decide (n = d) || decide (n % d ≠ 0)

/-- The round constants, from the cube roots of these primes. -/
def shaK : List W32 := shaPrimes.map (rootFraction 3)

/-- The initial hash value, from the square roots of the first eight. -/
def shaH0 : List W32 := (shaPrimes.take 8).map (rootFraction 2)

/-- Rotate right. -/
def ror (x : W32) (n : Nat) : W32 := x.rotateRight n

/-- The eight working words. -/
structure ShaState where
  a : W32
  b : W32
  c : W32
  d : W32
  e : W32
  f : W32
  g : W32
  h : W32
  deriving DecidableEq, Repr

/-- One round with constant k and schedule word w. -/
def shaRound (t : ShaState) (k w : W32) : ShaState :=
  let s1 := ror t.e 6 ^^^ ror t.e 11 ^^^ ror t.e 25
  let ch := (t.e &&& t.f) ^^^ (~~~ t.e &&& t.g)
  let t1 := t.h + s1 + ch + k + w
  let s0 := ror t.a 2 ^^^ ror t.a 13 ^^^ ror t.a 22
  let maj := (t.a &&& t.b) ^^^ (t.a &&& t.c) ^^^ (t.b &&& t.c)
  { a := t1 + s0 + maj, b := t.a, c := t.b, d := t.c, e := t.d + t1, f := t.e, g := t.f, h := t.g }

/-- The rounds of a block: the schedule window holds the next 16 words. -/
def shaRounds : List W32 → List W32 → ShaState → ShaState
  | [], _, t => t
  | k :: ks, w, t =>
    let w0 := w.getD 0 0
    let w1 := w.getD 1 0
    let w9 := w.getD 9 0
    let w14 := w.getD 14 0
    let x0 := ror w1 7 ^^^ ror w1 18 ^^^ (w1 >>> 3)
    let x1 := ror w14 17 ^^^ ror w14 19 ^^^ (w14 >>> 10)
    shaRounds ks (w.tail ++ [w0 + x0 + w9 + x1]) (shaRound t k w0)

/-- The hash value after one 64-byte block. -/
def shaBlock (h : ShaState) (blk : Bytes) : ShaState :=
  let w := (List.range 16).map fun i => BitVec.ofNat 32 (fieldBE blk (4 * i) 4)
  let t := shaRounds shaK w h
  { a := h.a + t.a, b := h.b + t.b, c := h.c + t.c, d := h.d + t.d,
    e := h.e + t.e, f := h.f + t.f, g := h.g + t.g, h := h.h + t.h }

/-- n blocks of a padded message. -/
def shaBlocks : Nat → Bytes → ShaState → ShaState
  | 0, _, h => h
  | n + 1, bs, h => shaBlocks n (bs.drop 64) (shaBlock h (bs.take 64))

/-- The 32-byte SHA-256 digest. -/
def sha256 (msg : Bytes) : Bytes :=
  let l := msg.length
  let z := (119 - l % 64) % 64
  let p := msg ++ [0x80] ++ List.replicate z 0 ++ toBE 8 (8 * l)
  let w := fun i => shaH0.getD i 0
  let h := shaBlocks (p.length / 64) p
    { a := w 0, b := w 1, c := w 2, d := w 3, e := w 4, f := w 5, g := w 6, h := w 7 }
  [h.a, h.b, h.c, h.d, h.e, h.f, h.g, h.h].flatMap fun x => toBE 4 x.toNat

/-- HMAC-SHA-256 with a key of at most 64 bytes. -/
def hmacSha256 (key msg : Bytes) : Bytes :=
  let k := padTo 64 (if key.length ≤ 64 then key else sha256 key)
  sha256 (k.map (· ^^^ 0x5C) ++ sha256 (k.map (· ^^^ 0x36) ++ msg))

/-! ## ECDSA P-256 -/

def p256p : Nat := 0xFFFFFFFF00000001000000000000000000000000FFFFFFFFFFFFFFFFFFFFFFFF
def p256n : Nat := 0xFFFFFFFF00000000FFFFFFFFFFFFFFFFBCE6FAADA7179E84F3B9CAC2FC632551
def p256b : Nat := 0x5AC635D8AA3A93E7B3EBBD55769886BC651D06B0CC53B0F63BCE3C3E27D2604B
def p256gx : Nat := 0x6B17D1F2E12C4247F8BCE6E563A440F277037D812DEB33A0F4A13945D898C296
def p256gy : Nat := 0x4FE342E2FE1A7F9B8EE7EB4A7C0F9E162BCE33576B315ECECBB6406837BF51F5

/-- b^e mod m over n bits of the exponent. -/
def powMod (m : Nat) : Nat → Nat → Nat → Nat
  | 0, _, _ => 1 % m
  | n + 1, b, e =>
    let r := powMod m n (b * b % m) (e / 2)
    if e % 2 = 1 then r * b % m else r

/-- Inverse modulo a prime. -/
def invMod (m x : Nat) : Nat := powMod m 256 (x % m) (m - 2)

def subMod (m a b : Nat) : Nat := (a % m + (m - b % m)) % m

/-- A point in Jacobian coordinates; z = 0 is the point at infinity. -/
structure JPoint where
  x : Nat
  y : Nat
  z : Nat
  deriving DecidableEq, Repr

/-- Doubling on y² = x³ - 3x + b. -/
def jDouble (p : JPoint) : JPoint :=
  let m := p256p
  let d := p.z * p.z % m
  let g := p.y * p.y % m
  let b := p.x * g % m
  let a := 3 * (subMod m p.x d) * (p.x + d) % m
  let x := subMod m (a * a) (8 * b)
  { x := x, z := subMod m (subMod m ((p.y + p.z) * (p.y + p.z)) g) d,
    y := subMod m (a * (subMod m (4 * b) x)) (8 * g * g) }

/-- Addition. -/
def jAdd (p q : JPoint) : JPoint :=
  let m := p256p
  if p.z = 0 then q
  else if q.z = 0 then p
  else
    let z1 := p.z * p.z % m
    let z2 := q.z * q.z % m
    let u1 := p.x * z2 % m
    let u2 := q.x * z1 % m
    let s1 := p.y * q.z * z2 % m
    let s2 := q.y * p.z * z1 % m
    if u1 = u2 then (if s1 = s2 then jDouble p else { x := 1, y := 1, z := 0 })
    else
      let h := subMod m u2 u1
      let r := subMod m s2 s1
      let hh := h * h % m
      let hhh := h * hh % m
      let v := u1 * hh % m
      let x := subMod m (subMod m (r * r) hhh) (2 * v)
      { x := x, y := subMod m (r * (subMod m v x)) (s1 * hhh), z := h * p.z * q.z % m }

/-- k times a point, over n bits of k, low bit first. -/
def jMul : Nat → Nat → JPoint → JPoint → JPoint
  | 0, _, _, acc => acc
  | n + 1, k, p, acc => jMul n (k / 2) (jDouble p) (if k % 2 = 1 then jAdd acc p else acc)

/-- The point lies on the curve with coordinates below p. -/
def onCurve (x y : Nat) : Bool :=
  decide (x < p256p) && decide (y < p256p) &&
    (y * y % p256p == (x * x % p256p * x + subMod p256p p256b (3 * x)) % p256p)

/-- ECDSA P-256: the signature (r, s) over a digest verifies under a public key. -/
def ecdsaVerify (qx qy r s : Nat) (digest : Bytes) : Bool :=
  let n := p256n
  if r = 0 ∨ n ≤ r ∨ s = 0 ∨ n ≤ s ∨ onCurve qx qy = false then false
  else
    let w := invMod n s
    let o : JPoint := { x := 1, y := 1, z := 0 }
    let g := jMul 256 (beNat digest * w % n) { x := p256gx, y := p256gy, z := 1 } o
    let q := jMul 256 (r * w % n) { x := qx, y := qy, z := 1 } o
    let a := jAdd g q
    if a.z = 0 then false
    else
      let zi := invMod p256p a.z
      a.x * (zi * zi % p256p) % p256p % n == r

end Sys2Proof.Machine
end

