-- ==== Sys2Proof/Machine/Tbl.lean ====
section
/-!
DEFINITION. Tables: a list of (key, value) pairs in one canonical form, keys strictly rising and no
entry equal to what an unlisted key reads as. Memory and every register file too large to list
(contexts, scale registers, coupling stores, OTP cells, dictionary values) is such a table.
-/

namespace Sys2Proof.Machine

abbrev Tbl (α : Type) := List (Nat × α)

/-- The value at key k, dflt k when the table lists none. -/
def Tbl.read {α : Type} (dflt : Nat → α) : Tbl α → Nat → α
  | [], k => dflt k
  | (j, v) :: t, k => if k = j then v else Tbl.read dflt t k

/-- The table with key k removed (keys rising). -/
def Tbl.remove {α : Type} : Tbl α → Nat → Tbl α
  | [], _ => []
  | (j, v) :: t, k => if k = j then t else if k < j then (j, v) :: t else (j, v) :: Tbl.remove t k

/-- The table with key k set to v (keys rising). -/
def Tbl.insert {α : Type} : Tbl α → Nat → α → Tbl α
  | [], k, v => [(k, v)]
  | (j, w) :: t, k, v =>
    if k = j then (k, v) :: t
    else if k < j then (k, v) :: (j, w) :: t
    else (j, w) :: Tbl.insert t k v

/-- The table after writing v at key k, in canonical form. -/
def Tbl.write {α : Type} [DecidableEq α] (dflt : Nat → α) (t : Tbl α) (k : Nat) (v : α) : Tbl α :=
  if v = dflt k then Tbl.remove t k else Tbl.insert t k v

/-- Every key of the table is above b, the keys rise, and no entry is its key's default. -/
def Tbl.wfFrom {α : Type} [DecidableEq α] (dflt : Nat → α) : Nat → Tbl α → Bool
  | _, [] => true
  | b, (k, v) :: t => decide (b ≤ k) && decide (v ≠ dflt k) && Tbl.wfFrom dflt (k + 1) t

/-- The canonical form. -/
def Tbl.wf {α : Type} [DecidableEq α] (dflt : Nat → α) (t : Tbl α) : Bool := Tbl.wfFrom dflt 0 t

end Sys2Proof.Machine
end

