-- ==== Sys2Proof/Machine/PartsPht.lean ====
section
/-!
DEFINITION. The parts of the state that the phase timebase and the CANopen node hold
(02_phase_timing.md, 03_object_dictionary.md).
-/

namespace Sys2Proof.Machine

/-- One phase source (R44 to R59, Tables 2-9 to 2-11). -/
structure PhtSrc where
  /-- PHT_SRCn_CFG, PHT_SRCn_STALL.US, PHT_SRCn_IDX -/
  cfg : W32
  stallUs : BitVec 24
  idx : W32
  /-- STATE: 0 OK, 1 STALLED, 2 UNLOCKED, 3 ABSENT -/
  state : BitVec 2
  dir : Bool
  slip : Bool
  qerr : W16
  /-- the published phase, R45, and the internal angle with 16 fractional bits, R46 -/
  pub : BitVec 40
  ang : BitVec 56
  /-- PH_HI as latched by the last read of PH_LO, Table 2-9 -/
  phHi : Byte
  /-- accepted levels of A and B, R47 -/
  lvlA : Bool
  lvlB : Bool
  /-- the last edge, word or frame: its exact internal angle -/
  lastAng : BitVec 56
  /-- size of the last step: an edge for PS0/PS1, the difference of two words for PS2, a cycle for PS3 in
  zero-cross mode, 0 when no speed is known (R49, R51, R55, R57) -/
  step : Int
  /-- local times of that edge or word and of the last correction of the angle, and clk_pht cycles from the edge
  or word before it: the last interval, which gives the speed (R49, R52, R55, R57) -/
  edgeAt : Nat
  stepAt : Nat
  interval : Nat
  /-- an index was accepted since the source was enabled; net edges since it (signed), and edges in one
  direction without an index (R52, R53) -/
  idxSeen : Bool
  idxEdges : Int
  oneWay : Nat
  /-- edges in the present direction since the direction changed (R51) -/
  sameDir : Nat
  /-- edges or changed words in one direction since the stall (R59) -/
  sinceStall : Nat
  /-- PS2: last word, and the run of all-0 or all-1 words (R55) -/
  word : Option W32
  badRun : Nat
  /-- PS3: PLL frequency in 2^-16 counts per record of four cycles; in ADC mode the internal angle at which
  the present run of frames with |v_q|/|v_dq| below LOCK_TH began, and the local time since which it exceeds
  UNLOCK_TH; in zero-cross mode the run of periods, its shortest and longest (R56, R57) -/
  freq : Nat
  lockFrom : Option (BitVec 56)
  overFrom : Option Nat
  lockCnt : Nat
  minPeriod : Nat
  maxPeriod : Nat
  deriving DecidableEq, Repr

/-- One compare slot (R61 to R65, Tables 2-12, 2-13). -/
structure PhtSlot where
  cfg : W32
  tgtLo : W32
  tgt : BitVec 40
  incLo : W32
  inc : BitVec 40
  fbDelay : W32
  dlNs : W32
  dlPh : BitVec 24
  fired : Bool
  cause : Bool
  behind : Bool
  miss : BitVec 5
  /-- a crossing seen and not yet fired: true for an upward one (log 20) -/
  hit : Option Bool
  /-- cores whose domain was powered at the firing and which the event has not yet reached (R36) -/
  flying : W16
  deriving DecidableEq, Repr

/-- One PHASE_OUT driver (R68). -/
structure PhtOut where
  cfg : W32
  /-- the pin drives its active level -/
  active : Bool
  deriving DecidableEq, Repr

/-- A phase-bus record (R35): bit n of its source status is 1 while PSn is not OK (log 151). -/
structure PhRecord where
  phases : Vector (BitVec 40) 4
  nt : W64
  status : BitVec 4
  deriving DecidableEq, Repr

/-- What Table 2-4 adds in a stamp to the record it is taken from: two status bits and a direction for each
source, NT_SYNC and the record's sequence number, all of the moment of the record (log 151). -/
structure PhSide where
  status : Byte
  dirs : Byte
  seq : W16
  deriving DecidableEq, Repr

/-- One slip event (R52, R53): source, kind (true MISSING), correction in counts, edge count, time. -/
structure Slip where
  src : SrcId
  missing : Bool
  correction : Int
  edges : Int
  nt : W64
  deriving DecidableEq, Repr

/-- The phase timebase. -/
structure Pht where
  srcs : Vector PhtSrc 4
  slots : Vector PhtSlot 64
  outs : Vector PhtOut 4
  ssiCfg : W32
  ssiTim : W32
  mainsCfg : W32
  pllGain : W32
  pllLock : W32
  pllAmp : W32
  /-- network time: 64 bits of ns and 32 fractional bits, R60 -/
  nt : BitVec 96
  /-- NT_INC, 2.32 fixed point -/
  ntInc : BitVec 34
  ntSync : Bool
  ntHoldMs : W16
  /-- NT_HI latched by a read of NT_LO, and NT_LO staged for a write of NT_HI (log 21) -/
  ntHiLatch : W32
  ntLoStage : W32
  rdy : W16
  record : PhRecord
  side : PhSide
  /-- clk_pht cycles since the device reset: local time -/
  cycles : Nat
  /-- the last 16 slips, newest first, and their count (0x2402) -/
  slips : List Slip
  slipCount : W32
  /-- 0x2410:01 to 08 -/
  late : Vector W32 8
  deriving DecidableEq, Repr

/-- NMT state (R89, R90). -/
inductive Nmt where
  | initialisation
  | preOperational
  | operational
  | stopped
  deriving DecidableEq, Repr

/-- A session's rank and challenge (R94, R95). -/
structure Sess where
  who : Session
  service : Bool
  challenge : Option Bytes
  deriving DecidableEq, Repr

/-- The transfer open on a server channel (R98, R99). -/
structure Xfer where
  client : Byte
  index : W16
  sub : Byte
  /-- a download (the client writes) of this total length, else an upload -/
  down : Option Nat
  /-- bytes taken so far, or bytes still to be sent -/
  data : Bytes
  toggle : Bool
  /-- the answer of Mast firmware, a member or a two-wire transfer is awaited -/
  waiting : Bool
  /-- the client asked for the value in segments -/
  seg : Bool
  deriving DecidableEq, Repr

/-- Who waits for the answer of a dictionary access. -/
inductive Origin where
  | sess (s : Session)
  | chip (c : ChipId)
  /-- a session's envelope for the chip's own ID, R129 -/
  | own (s : Session)
  /-- the client went away or aborted its transfer: the answer is dropped -/
  | gone
  deriving DecidableEq, Repr

/-- An outstanding DICT_REQ (R105, R106). -/
structure DictReq where
  tag : W16
  origin : Origin
  index : W16
  sub : Byte
  /-- the data of a write, none for a read -/
  data : Option Bytes
  deriving DecidableEq, Repr

/-- A registered control-held object (R103). -/
structure Reg where
  index : W16
  highest : Byte
  access : BitVec 3
  rank : BitVec 2
  map : Bool
  size : W16
  dtype : W16
  deriving DecidableEq, Repr

/-- Run-time state of a PDO (R111). -/
structure TpdoRt where
  changed : Bool
  inhibited : Bool
  syncs : Nat
  /-- the SYNC start value has been met since the PDO became valid -/
  started : Bool
  deriving DecidableEq, Repr

/-- State of a poll entry (R122 to R124). -/
structure PollRt where
  st : BitVec 2
  overruns : W16
  fails : Nat
  due : Bool
  deriving DecidableEq, Repr

/-- Host mailbox (Table 3-11). -/
structure Hmb where
  req : Bytes
  rsp : Bytes
  busy : Bool
  done : Bool
  err : Bool
  seq : Byte
  irqEn : Bool
  deriving DecidableEq, Repr

/-- The CANopen node, the dictionary and its paths (ch. 03). -/
structure Node where
  nmt : Nmt
  /-- 0x2000:01: 0 standalone, 1 head, 2 member, 3 fabric-orphan -/
  mode : BitVec 2
  nodeId : BitVec 7
  nodeFromOtp : Bool
  /-- port settings in force: network port, FD per port, bit rates (R87) -/
  netPort : CanPort
  fd : Vector Bool 2
  rates : Vector W16 2
  busOff : Vector Bool 2
  /-- values of MGC-held objects written since their default was set, key index × 256 + sub -/
  od : Tbl Bytes
  sessions : List Sess
  /-- local times of the login failures of each port, and the lockouts (R96) -/
  loginFails : Vector (List Nat) 2
  locked : Vector Bool 2
  chans : Vector (Option Xfer) 2
  regs : List Reg
  /-- images of control-held objects with MAP = 1, key index × 256 + sub (R108) -/
  images : Tbl Bytes
  reqs : List DictReq
  nextTag : W16
  emcyQ : List Bytes
  history : List W32
  /-- 0x1001 and the record as last seen for mapped MGC-held values (R111) -/
  seenErr : Byte
  seenRec : PhRecord
  seenSide : PhSide
  stats : Vector W32 6
  tpdos : Vector TpdoRt 16
  /-- synchronous RPDOs waiting for the next SYNC -/
  rpdos : Vector (Option Bytes) 16
  /-- heartbeat consumers that have timed out and not been heard since -/
  consumers : Vector Bool 8
  polls : Vector PollRt 96
  /-- the client request outstanding on each port, by entry -/
  client : Vector (Option (Fin 96)) 2
  hmb : Hmb
  /-- routed accesses outstanding: whose envelope, which chip, whether a read (R128) -/
  routed : List (Session × ChipId × Bool)
  /-- values held for sessions after a read envelope -/
  held : List (Session × ChipId × Bytes)
  deriving DecidableEq, Repr

/-- A source after a device reset: ABSENT, FILT = 8, phase 0 (Tables 2-8, 2-10, 2-11); the fields the
spec gives no reset value are 0 (log 10). -/
def PhtSrc.reset : PhtSrc :=
  { cfg := 0x10, stallUs := 0, idx := 0, state := 3, dir := false, slip := false, qerr := 0, pub := 0,
    ang := 0, phHi := 0, lvlA := false, lvlB := false, lastAng := 0, step := 0, edgeAt := 0, stepAt := 0,
    interval := 0, idxSeen := false, idxEdges := 0,
    oneWay := 0, sameDir := 0, sinceStall := 0, word := none, badRun := 0, freq := 0,
    lockFrom := none, overFrom := none, lockCnt := 0,
    minPeriod := 0, maxPeriod := 0 }

/-- A slot after a device reset (Tables 2-12, 2-13; log 10). -/
def PhtSlot.reset : PhtSlot :=
  { cfg := 0, tgtLo := 0, tgt := 0, incLo := 0, inc := 0, fbDelay := 0, dlNs := 0, dlPh := 0,
    fired := false, cause := false, behind := false, miss := 0, hit := none, flying := 0 }

/-- The record broadcast after a device reset: all sources ABSENT (0x2401 default 3). -/
def PhRecord.reset : PhRecord := { phases := Vector.replicate 4 0, nt := 0, status := 0xF }

def PhSide.reset : PhSide := { status := 0xFF, dirs := 0, seq := 0 }

/-- The phase timebase after a device reset; NT_INC is nominal (R60). -/
def Pht.reset : Pht :=
  { srcs := Vector.replicate 4 PhtSrc.reset, slots := Vector.replicate 64 PhtSlot.reset,
    outs := Vector.replicate 4 { cfg := 0, active := false },
    ssiCfg := 0, ssiTim := 0, mainsCfg := 0, pllGain := 0, pllLock := 0, pllAmp := 0,
    nt := 0, ntInc := 0x280000000, ntSync := false, ntHoldMs := 0, ntHiLatch := 0, ntLoStage := 0,
    rdy := 0, record := PhRecord.reset, side := PhSide.reset, cycles := 0, slips := [], slipCount := 0,
    late := Vector.replicate 8 0 }

/-- The host mailbox after reset (Table 3-11). -/
def Hmb.reset : Hmb :=
  { req := List.replicate 448 0, rsp := List.replicate 448 0, busy := false, done := false,
    err := false, seq := 0, irqEn := false }

/-- The node after a device reset, before R89 runs: INITIALISATION, every object at its default. -/
def Node.reset : Node :=
  { nmt := .initialisation, mode := 0, nodeId := 0, nodeFromOtp := false, netPort := 0,
    fd := Vector.replicate 2 true, rates := Vector.replicate 2 0x0302,
    busOff := Vector.replicate 2 false, od := [], sessions := [],
    loginFails := Vector.replicate 2 [], locked := Vector.replicate 2 false,
    chans := Vector.replicate 2 none, regs := [], images := [], reqs := [], nextTag := 1,
    emcyQ := [], history := [], seenErr := 0, seenRec := PhRecord.reset, seenSide := PhSide.reset,
    stats := Vector.replicate 6 0,
    tpdos := Vector.replicate 16 { changed := false, inhibited := false, syncs := 0, started := false },
    rpdos := Vector.replicate 16 none, consumers := Vector.replicate 8 false,
    polls := Vector.replicate 96 { st := 0, overruns := 0, fails := 0, due := false },
    client := Vector.replicate 2 none, hmb := Hmb.reset, routed := [], held := [] }

end Sys2Proof.Machine
end

