-- ==== Sys2Proof/Machine/PartsCap.lean ====
section
/-!
DEFINITION. The parts of the state that the input pipeline holds (04_streams_and_input.md).
-/

namespace Sys2Proof.Machine

/-- State of a slot (R138). -/
inductive SlotSt where
  | free
  | filling
  | ready
  | held
  deriving DecidableEq, Repr

/-- What CAP keeps of a slot: its state, the admission count of its sample, the stamp, SENSE_NT when the
sender gave one, the alignment set it is in (0 none), and whether its decoding has ended. -/
structure CapSlot where
  st : SlotSt
  order : Nat
  stamp : Bytes
  sense : Option W64
  group : Nat
  decoded : Bool
  /-- the sample is complete and its headers parsed: it has been READY (R139, R170) -/
  done : Bool
  /-- taken by a read of CAP_ACQ (R155) -/
  host : Bool
  deriving DecidableEq, Repr

/-- A Huffman table: codes of each length 1 to 16, and the symbols in code order (ISO/IEC 10918-1). -/
structure HuffTab where
  counts : List Nat
  syms : List Nat
  deriving DecidableEq, Repr

/-- The tables of one component: quantisation in zigzag order, DC and AC codes. -/
structure CompTab where
  quant : List Nat
  dc : HuffTab
  ac : HuffTab
  deriving DecidableEq, Repr

/-- What the headers of a frame say (R148, R156): source size, MCU size in source pixels, offset of the
entropy-coded data, MCUs in a restart interval (0 for none) and the components' tables. -/
structure JpegInfo where
  width : Nat
  height : Nat
  mcuW : Nat
  mcuH : Nat
  scan : Nat
  restart : Nat
  tabs : List CompTab
  /-- what the scan needs lies in a gap: nothing of it can be decoded -/
  lost : Bool
  deriving DecidableEq, Repr

def JpegInfo.comps (i : JpegInfo) : Nat := i.tabs.length

/-- What the packets of an RTP/JPEG frame say (R148): type, Q, restart interval, the quantisation tables of the
first packet. -/
structure RtpParams where
  ty : Nat
  q : Nat
  restart : Nat
  tables : Option Bytes
  deriving DecidableEq, Repr

/-- An open sample (R145, R150). -/
structure CapAsm where
  /-- slot it fills, none when diverted to the host -/
  slot : Option Nat
  seq : W32
  /-- SAMPLE_LEN, or the end of the marker packet of an RTP frame once known -/
  len : Option Nat
  frags : List Nat
  /-- byte ranges received: (offset, length) -/
  ranges : List (Nat × Nat)
  /-- bytes of a diverted sample -/
  buf : Tbl Byte
  stamp : Bytes
  sense : Option W64
  /-- the header written at its admission (Table 4-4) -/
  hdr : Bytes
  rtp : RtpParams
  /-- status of a diverted sample that its packets have shown to be bad, else 0 (R148, R149, R173) -/
  bad : Nat
  deriving DecidableEq, Repr

/-- A stream context (Table 4-3). -/
structure Ctx where
  cfg : W32
  match1 : W32
  match2 : W32
  geom : W32
  buf : W64
  slotSize : W32
  tofs : W32
  tens : W32
  roi : W32
  roisz : W32
  timers : W32
  split : W32
  /-- 0 OFF, 1 WAITING, 2 OK, 3 SOURCE_LOST -/
  st : BitVec 3
  admitted : W32
  ovr : W32
  slots : List CapSlot
  asm : Option CapAsm
  /-- key of the newest sample admitted (R145, R150) -/
  newest : Option W32
  /-- key of the last sample discarded at admission: what follows of it is ignored (R140, R147) -/
  refused : Option W32
  /-- CAP_ROIn: low word staged, value committed, admissions since the last commit (R164) -/
  roiStage : W32
  roiNow : Option W64
  roiAge : Nat
  /-- a two-wire read is due on the context's port or running (R154) -/
  twDue : Bool
  /-- PERT kind 6: frames decoded since the last flipped one (R541) -/
  flipCount : Nat
  deriving DecidableEq, Repr

/-- An open alignment window (R167): group and key of its reference sample. -/
structure AWindow where
  group : Nat
  key : Nat
  deriving DecidableEq, Repr

/-- A closed set that waits for its samples to be READY (R170): (context, slot) pairs, a member missing. -/
structure ASet where
  group : Nat
  key : Nat
  members : List (Nat × Nat)
  missing : Bool
  deriving DecidableEq, Repr

/-- A set offered to jobs (R170, R275). -/
structure ASetOffered where
  group : Nat
  seq : W32
  members : List (Nat × Nat)
  deriving DecidableEq, Repr

/-- A frame in or waiting for a JDU (R157): context, slot, compressed length, GAP ranges as (offset, length), its
headers and the rows done. -/
structure JduJob where
  ctx : Nat
  slot : Nat
  len : Nat
  gaps : List (Nat × Nat)
  info : JpegInfo
  row : Nat
  /-- byte flipped by PERT kind 6: offset and mask -/
  flip : Option (Nat × Byte)
  deriving DecidableEq, Repr

/-- A CSI-2 frame in progress (R153). -/
structure CsiFrame where
  rx : SrcId
  vc : SrcId
  ctx : Nat
  slot : Nat
  lines : Nat
  embedded : Nat
  damaged : Nat
  /-- damaged ranges: first line, lines, kind (R160) -/
  ranges : List (Nat × Nat × Nat)
  deriving DecidableEq, Repr

/-- A split group's ring (R172 to R174). -/
structure SplitRt where
  host : Bool
  wr : W32
  rd : W32
  drops : W16
  deriving DecidableEq, Repr

/-- CAP, the CSI-2 receivers and the JDUs. -/
structure Cap where
  ctxs : Tbl Ctx
  sfPort : W16
  rtpLo : W16
  rtpHi : W16
  /-- 0x4001:01 to 08 -/
  stats : Vector W32 8
  splitIrq : Bool
  unsupported : Bool
  /-- ingress records buffered per MAC with the stamp of their arrival (R136, R137, R142) -/
  ingress : Vector (List (Bytes × Bytes)) 2
  pushBuf : Bytes
  /-- 0x4010, 0x4020, 0x4021, 0x4040 by sub-index -/
  norms : Tbl Bytes
  aligns : Tbl Bytes
  alignLost : Tbl W32
  splits : Tbl Bytes
  splitRt : Vector SplitRt 8
  windows : List AWindow
  sets : List ASet
  offered : List ASetOffered
  /-- CAP_AGRPg_LAST by group -/
  lastSet : Tbl W32
  csi : List CsiFrame
  /-- frames that wait for a JDU, in admission order, and the two JDUs -/
  jpegQ : List JduJob
  jdu : Vector (Option JduJob) 2
  deriving DecidableEq, Repr

/-- A context that nothing has written: disabled, every field 0 (log 38). -/
def Ctx.reset : Ctx :=
  { cfg := 0, match1 := 0, match2 := 0, geom := 0, buf := 0, slotSize := 0, tofs := 0, tens := 0,
    roi := 0, roisz := 0, timers := 0, split := 0, st := 0, admitted := 0, ovr := 0, slots := [],
    asm := none, newest := none, refused := none, roiStage := 0, roiNow := none, roiAge := 0, twDue := false,
    flipCount := 0 }

/-- The input pipeline after a data-plane reset, with the object defaults of Table 4-11. -/
def Cap.reset : Cap :=
  { ctxs := [], sfPort := 0xB798, rtpLo := 0x138C, rtpHi := 0x139B, stats := Vector.replicate 8 0,
    splitIrq := false, unsupported := false, ingress := Vector.replicate 2 [],
    pushBuf := List.replicate 16 0, norms := [], aligns := [], alignLost := [], splits := [],
    splitRt := Vector.replicate 8 { host := false, wr := 0, rd := 0, drops := 0 },
    windows := [], sets := [], offered := [], lastSet := [], csi := [], jpegQ := [],
    jdu := Vector.replicate 2 none }

end Sys2Proof.Machine
end

