-- ==== Sys2Proof/Machine/PartsCtl.lean ====
section
/-!
DEFINITION. The parts of the state that the DRAM controller, the PCIe endpoint, the Shroud ports and the
fabric agent hold (11_memory_and_fabric.md).
-/

namespace Sys2Proof.Machine

/-- DRAM controller and Loft counters (R389 to R395, Table 11-14). -/
structure Ddr where
  cfg : BitVec 8
  ready : Bool
  /-- INIT was written and training runs -/
  busy : Bool
  /-- exit from self-refresh in progress after a grant from RET (R395) -/
  exiting : Bool
  scrubHours : Byte
  corrected : W64
  uncorrectable : W64
  lastBad : W64
  loftCorrected : W32
  loftUncorrectable : W32
  deriving DecidableEq, Repr

/-- PCIe endpoint (R397 to R399, Table 11-17). -/
structure Pcie where
  ap4 : BitVec 13
  /-- the data link layer is active, its speed and width codes -/
  up : Bool
  speed : BitVec 3
  width : BitVec 3
  /-- MSI-X table entries; bit 96 is the mask -/
  msix : Vector W128 32
  pend : W32
  deriving DecidableEq, Repr

/-- State of a Shroud port (Table 11-5). -/
inductive PortSt where
  | off
  | detect
  | eq
  | align
  | config
  | active
  | retrain
  | down
  deriving DecidableEq, Repr

/-- A Shroud port (R400 to R409, Tables 11-5 to 11-9, 11-15). The eight pools are indexed VC × 2 + class. -/
structure ShlPort where
  en : Bool
  x2ok : Bool
  st : PortSt
  /-- 0 none, 1 x2, 2 x4 -/
  width : BitVec 2
  degraded : Bool
  replayRc : W16
  partner : Option ShlPartner
  /-- local times of the retrains of the last second -/
  retrainAt : List Nat
  nextSeq : BitVec 12
  /-- unacknowledged flits with their sequence numbers, oldest first -/
  replay : List (BitVec 12 × Bytes)
  expSeq : BitVec 12
  nakSent : Bool
  noProgress : Nat
  /-- credits held for sending -/
  credits : Vector Nat 8
  /-- slots freed whose credits are still to be returned -/
  owed : Vector Nat 8
  /-- credit returns held back by PERT kind 1: pool, slots, local time of release (R541) -/
  late : List (Fin 8 × Nat × Nat)
  /-- messages waiting for credits, room in the replay buffer or the link, oldest first, each with the
  port and pool whose slots it still holds (none for the chip's own) -/
  txq : List (Option (ShlId × Fin 8) × Bytes)
  crcErrors : W32
  replays : W32
  retrains : W32
  downs : W32
  deriving DecidableEq, Repr

/-- What an initiator waits for over Shroud (R415). -/
inductive RemWait where
  /-- a load, atomic or fetch of a hart; what it does with the data stands in the hart -/
  | mast (h : HartId)
  | mastStore (h : HartId) (addr : Nat)
  /-- an operation of CP4 to CP7 with its FUNCT, and the register it returns to, none for x0 (R349) -/
  | cp (h : HartId) (n : Fin 8) (fn : Nat) (rd : Option (Fin 32))
  /-- a speculative load that has been cancelled (R372) -/
  | dropped (h : HartId)
  | sparLoad (c : CoreId)
  | sparStore (c : CoreId) (addr : Nat)
  /-- a store of another data-plane unit (Trim, CSC, EE) by its initiator number -/
  | unitStore (init : Nat)
  | steal
  deriving DecidableEq, Repr

/-- How a remote request ended: the bytes of its response, or the cause of its ERR or timeout. -/
inductive RemRes where
  | data (d : Bytes)
  | err (cause : Nat)
  deriving DecidableEq, Repr

/-- A request an instruction has sent to another chip and waits for; the instruction executes once all its
requests are answered (log 60): tag, message kind, home, offset, operation or length, what came back. -/
structure RemBuf where
  tag : BitVec 12
  kind : Nat
  home : ChipId
  off : Nat
  op : Nat
  res : Option RemRes
  deriving DecidableEq, Repr

/-- An outstanding remote request (R415). -/
structure Remote where
  tag : BitVec 12
  home : ChipId
  wait : RemWait
  deriving DecidableEq, Repr

/-- The fabric agent and the remote side of the chip (R410 to R428, Tables 11-13, 11-16). -/
structure Fab where
  expect : BitVec 7
  go : Bool
  fabWait : BitVec 6
  rspTo : W16
  /-- 0 none, 1 head, 2 member, 3 fabric-orphan -/
  role : BitVec 2
  routes : Vector (BitVec 4) 64
  head : Option ChipId
  members : W64
  lost : W64
  machineNode : BitVec 7
  hellos : List HelloRec
  remotes : List Remote
  nextTag : BitVec 12
  /-- home reservations: (chip, hart, granule) -/
  homeRes : List (ChipId × HartId × Nat)
  deriving DecidableEq, Repr

/-- DDR_CFG.ECC_EN and DDR_SCRUB.HOURS have reset values; the rest is 0 (Table 11-14). -/
def Ddr.reset : Ddr :=
  { cfg := 0x20, ready := false, busy := false, exiting := false, scrubHours := 24, corrected := 0,
    uncorrectable := 0, lastBad := 0, loftCorrected := 0, loftUncorrectable := 0 }

/-- MSI-X vectors are masked after reset (PCI; log 39). -/
def Pcie.reset : Pcie :=
  { ap4 := 0, up := false, speed := 0, width := 0, msix := Vector.replicate 32 (BitVec.ofNat 128 (2 ^ 96)),
    pend := 0 }

def ShlPort.reset : ShlPort :=
  { en := true, x2ok := true, st := .off, width := 0, degraded := false, replayRc := 0, partner := none,
    retrainAt := [], nextSeq := 0, replay := [], expSeq := 0, nakSent := false, noProgress := 0,
    credits := Vector.replicate 8 0, owed := Vector.replicate 8 0, late := [], txq := [],
    crcErrors := 0, replays := 0, retrains := 0, downs := 0 }

def Fab.reset : Fab :=
  { expect := 0, go := false, fabWait := 2, rspTo := 20, role := 0, routes := Vector.replicate 64 0xF,
    head := none, members := 0, lost := 0, machineNode := 0, hellos := [], remotes := [], nextTag := 0,
    homeRes := [] }

end Sys2Proof.Machine
end

