-- ==== Sys2Proof/Machine/PartsMgmt.lean ====
section
/-!
DEFINITION. The parts of the state that the management plane holds: the device's reset and pin
conditions, boot, OTP, ACT, Reef, PERT, the Cleats and the health record
(01_planes.md, 13_reef_power.md, 14_otp_boot_protection.md, 15_reset_faults_test.md, 16_electrical_package.md).
-/

namespace Sys2Proof.Machine

/-- Where the device stands between its reset and the run of its MGC firmware (R500, R501, R554). -/
inductive DevPhase where
  /-- RESET_N low or POR asserted -/
  | inReset
  /-- RESET_N released, or the reset after an MWDT ended: the boot ROM runs next -/
  | rom
  /-- the boot ROM stopped with FAULT_N low, R483, R500 -/
  | romStopped
  /-- boundary-scan mode until the next device reset, R554 -/
  | boundaryScan
  /-- MGC firmware started, its boot (R501) not yet done -/
  | mgcStarted
  /-- MGC firmware runs and Cleat D is locked -/
  | running
  deriving DecidableEq, Repr

/-- The TAP's instruction (R554). -/
inductive TapIr where
  | bypass
  | idcode
  | samplePreload
  | extest
  deriving DecidableEq, Repr

/-- State of a plane, 0x2003 (Table 1-11). -/
inductive PlaneState where
  | off
  | reset
  | run
  deriving DecidableEq, Repr

/-- Conditions of the device as a whole (ch. 15, ch. 16). -/
structure Dev where
  phase : DevPhase
  /-- every clock stopped by the loss of REFCLK_25, R557 -/
  clocksStopped : Bool
  /-- FAULT_N's level when the clocks stopped (ch. 16 Corners) -/
  faultNHeld : Bool
  /-- straps captured at the last release of RESET_N, R553 -/
  strapMode : BitVec 3
  strapNode : BitVec 7
  strapFab : BitVec 6
  /-- TEST_EN sampled at that release, R554 -/
  testEn : Bool
  /-- the banks' voltage modes, set at the release of POR, R558 -/
  bankA33 : Bool
  bankB33 : Bool
  /-- VDD_OTP as the monitor sees it, in mV, R491, R551 -/
  vddOtpMv : Nat
  /-- PCIE_PERST_N, R564 -/
  perstN : Bool
  tapIr : TapIr
  tapBypassBit : Bool
  /-- the boundary register as last sampled or preloaded -/
  tapBoundary : List Bool
  deriving DecidableEq, Repr

/-- Boot and plane resets (ch. 14, ch. 15). -/
structure Boot where
  /-- MGC slot booted, its VERSION, SVN and ADV (R500, R504) -/
  mgcSlot : Fin 2
  mgcVersion : W32
  mgcSvn : Nat
  mgcAdv : Bool
  /-- Mast slot booted, none for 0xFF, with VERSION, SVN, ENTRY (R501) -/
  mastSlot : Option (Fin 2)
  mastVersion : W32
  mastSvn : Nat
  mastEntry : Nat
  mastUnsigned : Bool
  /-- the Mast image stands checked and held in L2, so the control plane may be released (R501, R522) -/
  mastHeld : Bool
  /-- control plane state, 0x2003:02 -/
  control : PlaneState
  /-- a control-plane reset is running (Table 15-3) -/
  cprActive : Bool
  /-- a data-plane reset is running, and the TAGs of the RESET_REQs that asked for it (R524, R525, R527) -/
  dprTags : List W16
  dprActive : Bool
  /-- clk_aon cycles since the last service of the management watchdog, R523 -/
  wdCount : Nat
  /-- reset record 0x2703 (R526) -/
  lastDevice : Nat
  lastPlane : Byte
  pinCount : W32
  mwdtCount : W32
  cprCount : W32
  dprCount : W32
  /-- flash update, 0x2220 (R505) -/
  flashOfs : W32
  flashStatus : Nat
  /-- the flash operation in progress: first byte, bytes to program, or none for an erase -/
  flashBusy : Option (Nat × Option Bytes)
  /-- a DAP session per hart (R508) -/
  dapHalt0 : Bool
  dapHalt1 : Bool
  deriving DecidableEq, Repr

/-- What the OTP controller programs at the moment (R492, R484): the cells still to be set, as
(byte offset, bit), in the order of R492. -/
inductive OtpBusy where
  | idle
  | generation (slot : Nat) (cells : List (Nat × Nat))
  | key (cells : List (Nat × Nat))
  deriving DecidableEq, Repr

/-- OTP array and settings generations (R483 to R495). -/
structure Otp where
  cells : Tbl Byte
  /-- generation in use, none for 0xFF -/
  inUse : Option Nat
  record : Bytes
  mismatch : Bool
  exhausted : Bool
  noValid : Bool
  keyReplaced : Bool
  /-- the service key in use (R484) -/
  serviceKey : Bytes
  staged : Bytes
  status : Nat
  busy : OtpBusy
  deriving DecidableEq, Repr

/-- Access control table (R510 to R518). -/
structure Act where
  bank0 : Tbl W128
  bank1 : Tbl W128
  /-- live bank number, ACT_STAT.BANK -/
  bank : Bool
  pend : Bool
  /-- the table the check stations apply: the live bank as of the last applied change (R514) -/
  force : Tbl W128
  /-- the ACT_RSP that waits for PEND = 0: TAG and payload -/
  rsp : Option (W16 × Bytes)
  log : List Bytes
  denials : W32
  /-- local time of the last EMCY 0xFF08 -/
  emcyAt : Option Nat
  deriving DecidableEq, Repr

/-- Power state of a domain (R465). -/
inductive PState where
  | off
  | ret
  | gated
  | thr
  | run
  deriving DecidableEq, Repr

/-- Class of a grant (R466, Table 13-9). -/
inductive GClass where
  | bulk
  | work
  | phase
  | control
  deriving DecidableEq, Repr

/-- Grant record of one domain (Table 13-9). -/
structure DomRec where
  state : PState
  cls : GClass
  units : Nat
  /-- reclaim asserted, and its target state (R473) -/
  reclaim : Option PState
  /-- granted upward and not yet reported ready (R468, R478) -/
  waking : Bool
  /-- the domain wakes from OFF, so its rail brings up no other (R478) -/
  fromOff : Bool
  floor : PState
  /-- a REEF_REQ superseded the auto grant (R470) -/
  superseded : Bool
  /-- TAG of the REEF_REQ to answer when ready or acknowledged (R468) -/
  rspTag : Option W16
  deriving DecidableEq, Repr

/-- A waiting request (R468 to R471). -/
structure ReefWait where
  dom : DomId
  target : PState
  cls : GClass
  tag : W16
  auto : Bool
  /-- local time at which it first fitted, when PERT kind 7 holds it back (R541) -/
  fitAt : Option Nat
  /-- WAIT = 0: it waits for a reclaim of its domain to end, or for the perturbation, and for nothing else (R468) -/
  once : Bool
  deriving DecidableEq, Repr

/-- The Reef controller (ch. 13). -/
structure Reef where
  budget : BitVec 10
  pinmax : BitVec 10
  /-- a budget or derating change to be applied in the next arbiter cycle -/
  effNext : Nat
  eff : Nat
  free : Int
  transit : Int
  level : Nat
  railSp : Nat
  railSoc : Nat
  railShl : Nat
  doms : Vector DomRec 18
  queue : List ReefWait
  demand : Vector Bool 9
  autoMask : BitVec 9
  autoIdle : W16
  grantTo : Byte
  reclaimTo : W16
  temps : List Int
  tmax : Int
  tDerate : Int
  tCrit : Int
  /-- consecutive 1 ms samples with Tmax at or below T_DERATE + L - 3 (R480) -/
  coolMs : Nat
  critical : Bool
  /-- EMCY 0xFF70 was raised for this cut or derating step (R477 step 5) -/
  cut70 : Bool
  grants : W32
  reclaims : W32
  refusals : W32
  forcedOff : W32
  deficits : W32
  deriving DecidableEq, Repr

/-- Perturbation block (R538 to R541). Index 0 of the vectors is not used. -/
structure Pert where
  params : Vector Bytes 8
  active : Vector Bool 8
  /-- PRNG of kind 3, R541 -/
  prng : W32
  deriving DecidableEq, Repr

/-- A Cleat A message (R16): kind, tag, payload. -/
structure Msg where
  kind : Byte
  tag : W16
  payload : Bytes
  deriving DecidableEq, Repr

/-- Cleat A (R16 to R20). The ring entries lie in memory (Table 11-3). -/
structure CleatA where
  c2mWr : BitVec 7
  c2mRd : BitVec 7
  m2cWr : BitVec 7
  m2cRd : BitVec 7
  c2mFull : Bool
  restart : Bool
  /-- messages the MGC holds back while the M2C ring is full (R18) -/
  backlog : List Msg
  /-- host lane, 8 entries each way: request records and response records -/
  hostReq : List Bytes
  hostRsp : List Bytes
  accepted : W32
  fullEvents : W32
  unknown : W32
  deriving DecidableEq, Repr

/-- A job's deadline (R76 to R79). -/
inductive Deadline where
  | none
  | time (nt : W64)
  /-- phase then time: source (4 is NT), phase to cross upward, DL_NS -/
  | phase (src : Fin 5) (tgt : BitVec 40) (ns : W32)
  /-- its source left OK before the crossing (R79) -/
  | lost
  deriving DecidableEq, Repr

/-- One job queue of Cleat B (Tables 1-14 to 1-16). -/
structure Queue where
  owner : BitVec 2
  en : Bool
  irqEn : Bool
  post : BitVec 9
  done : BitVec 9
  read : BitVec 9
  ovf : Bool
  ownerErr : Bool
  readErr : Bool
  /-- jobs the CSC has taken, counted from the index at reset: next job to take -/
  taken : BitVec 9
  /-- completed jobs that DONE has not passed yet, as indices (R23) -/
  completed : List (BitVec 9)
  /-- indices of posted jobs whose release slot fired since they were posted, with the deadline that the
  firing and the slot's DL fields give (R75, R76) -/
  released : List (BitVec 9 × Deadline)
  deriving DecidableEq, Repr

/-- A Cleat C fault report (R28). -/
structure Report where
  unit : Byte
  cls : Byte
  code : W16
  detail : W64
  nt : W32
  deriving DecidableEq, Repr

/-- Cleat C (R28 to R31). -/
structure CleatC where
  fifo : List Report
  lost : BitVec 40
  /-- fence lines asserted, by UNIT -/
  lines : BitVec 40
  /-- fences in effect, by UNIT -/
  fenced : BitVec 40
  /-- CODE of the fault behind each asserted line, by UNIT -/
  codes : Tbl W16
  deriving DecidableEq, Repr

/-- Cleat D (R32 to R34). -/
structure CleatD where
  snapshot : Bytes
  lock : Bool
  deriving DecidableEq, Repr

/-- A standing condition: the EMCY code, its byte 3, and the detail byte 4 that tells two conditions
of one code apart (R119, Table 15-7). -/
structure Standing where
  code : W16
  unit : Byte
  key : Nat
  deriving DecidableEq, Repr

/-- The health record (R531 to R534, Table 15-11). -/
structure Health where
  standing : List Standing
  coreMask : W16
  unitMask : W16
  /-- 0x2705:01 to 06 -/
  reports : Vector W32 6
  /-- local times of the last rate-limited EMCYs: (code, key, time) -/
  lastRaised : List (W16 × Nat × Nat)
  deriving DecidableEq, Repr

/-- Device conditions with RESET_N low right after the power-on reset; straps not yet captured. -/
def Dev.reset : Dev :=
  { phase := .inReset, clocksStopped := false, faultNHeld := false, strapMode := 0, strapNode := 0,
    strapFab := 0, testEn := false, bankA33 := false, bankB33 := false, vddOtpMv := 1800,
    perstN := false, tapIr := .bypass, tapBypassBit := false, tapBoundary := [] }

/-- Boot and plane-reset state after a POR (Tables 1-11, 14-14, 15-11). -/
def Boot.reset : Boot :=
  { mgcSlot := 0, mgcVersion := 0, mgcSvn := 0, mgcAdv := false, mastSlot := none, mastVersion := 0,
    mastSvn := 0, mastEntry := 0, mastUnsigned := false, mastHeld := false, control := .off,
    cprActive := false, dprTags := [], dprActive := false, wdCount := 0, lastDevice := 1, lastPlane := 0, pinCount := 0,
    mwdtCount := 0, cprCount := 0, dprCount := 0, flashOfs := 0, flashStatus := 0, flashBusy := none,
    dapHalt0 := false, dapHalt1 := false }

def Act.reset : Act :=
  { bank0 := [], bank1 := [], bank := false, pend := false, force := [], rsp := none, log := [], denials := 0,
    emcyAt := none }

/-- A domain that holds no grant. -/
def DomRec.reset : DomRec :=
  { state := .off, cls := .bulk, units := 0, reclaim := none, waking := false, fromOff := false,
    floor := .off, superseded := false, rspTag := none }

/-- The reclaim floor of a domain by Table 13-1, before FLOOR is rewritten; RUN for PD11 and PD17, which have none. -/
def floorOf (d : DomId) : PState :=
  if d.val ≤ 10 then .gated else if d.val = 14 then .ret else if d.val = 11 ∨ d.val = 17 then .run else .off

/-- Reef after a device reset (Tables 13-8, 13-9). -/
def Reef.reset : Reef :=
  { budget := 480, pinmax := 240, effNext := 480, eff := 480, free := 480, transit := 0, level := 0,
    railSp := 400, railSoc := 160, railShl := 48, doms := Vector.ofFn fun d : DomId => { DomRec.reset with floor := floorOf d },
    queue := [], demand := Vector.replicate 9 false, autoMask := 0, autoIdle := 200, grantTo := 10,
    reclaimTo := 1000, temps := List.replicate 8 25, tmax := 25, tDerate := 105, tCrit := 112,
    coolMs := 0, critical := false, cut70 := false, grants := 0, reclaims := 0, refusals := 0,
    forcedOff := 0, deficits := 0 }

def Pert.reset : Pert :=
  { params := Vector.replicate 8 (List.replicate 16 0), active := Vector.replicate 8 false, prng := 0 }

/-- Cleat A with both rings and the host lane empty (Tables 1-11 to 1-13). -/
def CleatA.reset : CleatA :=
  { c2mWr := 0, c2mRd := 0, m2cWr := 0, m2cRd := 0, c2mFull := false, restart := false, backlog := [],
    hostReq := [], hostRsp := [], accepted := 0, fullEvents := 0, unknown := 0 }

/-- A job queue after a device reset (Tables 1-14 to 1-16). -/
def Queue.reset : Queue :=
  { owner := 0, en := false, irqEn := false, post := 0, done := 0, read := 0, ovf := false,
    ownerErr := false, readErr := false, taken := 0, completed := [], released := [] }

def CleatC.reset : CleatC := { fifo := [], lost := 0, lines := 0, fenced := 0, codes := [] }

def CleatD.reset : CleatD := { snapshot := List.replicate 64 0, lock := false }

def Health.reset : Health :=
  { standing := [], coreMask := 0, unitMask := 0, reports := Vector.replicate 6 0, lastRaised := [] }

end Sys2Proof.Machine
end

