-- ==== Sys2Proof/Machine/PartsData.lean ====
section
/-!
DEFINITION. The parts of the state that the Spar cores, the Eaves engine and the course scheduler hold
(05_spar_cores.md, 06_operators.md, 07_quantisation.md, 08_courses.md).
-/

namespace Sys2Proof.Machine

/-- One accumulator lane: 40-bit value, 6-bit wrap count, clamp bit (R189). -/
structure Lane where
  v : BitVec 40
  w : BitVec 6
  c : Bool
  deriving DecidableEq, Repr

def Lane.zero : Lane := { v := 0, w := 0, c := false }

/-- A circular buffer descriptor (Table 5-1). -/
structure Circ where
  base : BitVec 48
  len : BitVec 24
  deriving DecidableEq, Repr

/-- One hardware loop level: bundle index of its start and its end, count (Table 5-1). -/
structure HwLoop where
  start : BitVec 15
  stop : BitVec 15
  count : W32
  deriving DecidableEq, Repr

/-- TILE_STATE (Table 5-17). -/
structure TileState where
  active : Bool
  susp : Bool
  row : BitVec 15
  pass : BitVec 5
  ws : Bool
  desc : BitVec 14
  deriving DecidableEq, Repr

/-- A course by the tag of its overlap buffer: job tag, frame, group, course index (R273), and the chip
whose CSC is its home. -/
structure CourseTag where
  home : ChipId
  job : W16
  frame : W16
  group : Fin 64
  course : BitVec 12
  deriving DecidableEq, Repr

/-- What a Spar core waits for. -/
inductive SpWait where
  | none
  /-- WAITPH for a slot, with its IW bit; `due` once the event has arrived and the clock restarts -/
  | ph (slot : PhtSlotId) (iw due : Bool)
  /-- WAITOB WAIT: the tag awaited, destination registers, whether HALO_WAIT has expired without leave
  to recompute (R276) -/
  | ob (tag : CourseTag) (rd rs : Fin 32) (unbounded : Bool)
  deriving DecidableEq, Repr

/-- What a sequencer has fetched for its descriptor (R218): bytes whose every fetch R219 orders, and the fetches
(address, bytes) that it may repeat or keep. -/
structure Fetched where
  exact : Nat
  reads : List (Nat × Nat)
  deriving DecidableEq, Repr

def Fetched.zero : Fetched := { exact := 0, reads := [] }

/-- A Spar core (R180, Tables 5-1, 5-12 to 5-18). -/
structure SparCore where
  v : Vector (BitVec 512) 32
  /-- lanes of each accumulator; lanes beyond the list's end are zero -/
  acc : Vector (List Lane) 8
  d : Vector W32 16
  a : Vector (BitVec 48) 16
  cb : Vector Circ 8
  p : Vector W64 8
  loops : Vector HwLoop 2
  /-- shadow set of a0-a7, cb0-cb3, p0-p7 and the loop registers (R195) -/
  shA : Vector (BitVec 48) 8
  shCb : Vector Circ 4
  shP : Vector W64 8
  shLoops : Vector HwLoop 2
  /-- ITCM byte offset of the next bundle -/
  pc : W32
  /-- issues left of the bundle that RPT repeats, 0 when none -/
  rptLeft : Nat
  /-- SP_STAT.STATE: 0 idle, 1 running, 2 halted on plan fault, 3 fenced -/
  state : BitVec 2
  satUnsure : Bool
  wait : SpWait
  fcode : W16
  ie : BitVec 5
  gie : Bool
  /-- interrupt lines pending, IRQ0 to IRQ4 -/
  irq : BitVec 5
  /-- an interrupt that could be taken waits, or has waited, for the end of an RPT (R185) -/
  irqRpt : Bool
  inHandler : Bool
  /-- a WAITPH with IW = 0 has ended: no interrupt before the next bundle has issued (R201) -/
  irqHold : Bool
  ivec : W64
  epc : W64
  estat : W32
  rptlim : W32
  wdt : W32
  tile : TileState
  /-- the descriptor as the sequencer read it at its start (R212) -/
  tdesc : Bytes
  /-- what it has fetched since that start (R218) -/
  fetched : Fetched
  wsSrc : Vector (BitVec 48) 2
  /-- contents of WS0 and WS1; bytes beyond the list's end are zero -/
  stage : Vector Bytes 2
  /-- scale register file, 2,048 entries (R240) -/
  srf : Tbl W32
  /-- phase pending bits (R69) -/
  pend : W64
  /-- CYC, ISSUE, MAC_ACT -/
  cnt64 : Vector W64 3
  /-- STL_DEP, STL_FETCH, STL_OB, STL_PH, SAT_POS, SAT_NEG, SAT_UNS, PH_OVR, SP_ECC, IRQ -/
  cnt32 : Vector W32 10
  /-- what the bundle at pc has asked of other chips (log 60) -/
  rem : List RemBuf
  /-- course registers CRS_JOB to CRS_OUT (Table 8-9) -/
  crs : Vector W64 8
  /-- plan slot whose code and SRF table the core holds (R262) -/
  plan : Option PhtSlotId
  /-- the course it runs, the order number of its dispatch, and the course pre-assigned to it -/
  cur : Option CourseTag
  started : Nat
  pre : Option CourseTag
  /-- DONE was executed and waits to be accepted (R280) -/
  done : Bool
  /-- a DONE waits for the stores the core has issued (R272) -/
  closing : Bool
  /-- a recall is to be carried out (R285): true when the course is re-queued -/
  recallTo : Option Bool
  /-- a plan fault is to be followed by a reinitialisation before the next course (R284) -/
  reinit : Bool
  deriving DecidableEq, Repr

/-- The Eaves engine (R229 to R233, Tables 6-8, 6-9). -/
structure Ee where
  state : BitVec 2
  rndIgn : Bool
  satUnsure : Bool
  mode : Bool
  fcode : W16
  cyc : W64
  macAct : W64
  desc : W32
  acc : Vector (List Lane) 16
  /-- address of the descriptor handed over and not yet started, of the one that runs -/
  offered : Option Nat
  running : Option Nat
  edesc : Bytes
  /-- the course it runs; its descriptor has ended -/
  cur : Option CourseTag
  done : Bool
  deriving DecidableEq, Repr

/-- A layer group as the CSC checked it (Table 8-7). -/
structure Group where
  eaves : Bool
  remoteOk : Bool
  src : Byte
  haloMax : Byte
  oh : W16
  ch : W16
  recompRows : W16
  haloWait : W16
  inSy : W16
  inLead : Byte
  inTrail : Byte
  entry : W32
  altEntry : W32
  obBytes : W32
  stgBytes : W32
  dst : W64
  outPitch : W32
  outBstr : W64
  outNb : W16
  pfBytes : BitVec 20
  pfOfs : BitVec 12
  deriving DecidableEq, Repr

/-- A plan slot (R261, Tables 8-6, 8-12). -/
structure PlanSlot where
  image : BitVec 48
  /-- 0 EMPTY, 1 LOADED, 2 INVALID -/
  state : BitVec 2
  codeOff : W32
  codeLen : W32
  srfOff : W32
  srfN : W32
  rptLimit : W16
  haloWait : W16
  hash : W64
  groups : List Group
  deriving DecidableEq, Repr

/-- Where a course of an active job stands. -/
inductive CourseSt where
  | unassigned
  /-- pre-assigned to a core (R269) -/
  | preassigned (core : CoreId)
  /-- owned by a core, or by the Eaves engine (none) -/
  | running (core : Option CoreId)
  /-- owned by a core of another chip (R293) -/
  | remote (chip : ChipId) (core : CoreId)
  /-- committed, its copy not complete -/
  | committed
  | visible
  /-- recalled and not re-queued -/
  | dropped
  deriving DecidableEq, Repr

structure Course where
  st : CourseSt
  /-- ran or runs with NOPUB = 1 -/
  nopub : Bool
  stolen : Bool
  /-- this run's WAIT ended with RECOMPUTE (R273) -/
  recomp : Bool
  /-- re-queued: first in its job's order (R286, R287) -/
  first : Bool
  /-- staging region, 0 to 33; 35 for a course whose rows are pulled from another chip -/
  region : Nat
  deriving DecidableEq, Repr

/-- An active job (R263 to R268, R283). -/
structure Job where
  tag : W16
  queue : QueueId
  idx : BitVec 9
  plan : PhtSlotId
  drop : Bool
  remoteOk : Bool
  runaheadOff : Bool
  prio : BitVec 3
  hrm : Byte
  ink : Byte
  src : W16
  inBase : W64
  outBase : W64
  arg : W64
  frame : W16
  hwait : W16
  /-- input slots held: (context, slot), in member order -/
  held : List (Nat × Nat)
  deadline : Deadline
  expired : Bool
  degraded : Bool
  recomputed : Bool
  remoteRan : Bool
  unbounded : Bool
  /-- STATUS that ends the job before its courses are done: 6, 5, 4 or 2 -/
  stop : Option (BitVec 3)
  /-- fault CODE, core and course of a PLAN_FAULT -/
  fault : W32
  /-- the courses, by group -/
  groups : List (List Course)
  deriving DecidableEq, Repr

/-- State of an overlap buffer descriptor (R273). -/
inductive ObSt where
  | writing
  | ready
  | dead
  deriving DecidableEq, Repr

structure Obd where
  tag : CourseTag
  st : ObSt
  closed : Bool
  readers : List CoreId
  /-- the producing core, none for the Eaves engine -/
  producer : Option CoreId
  addr : Nat
  size : Nat
  deriving DecidableEq, Repr

/-- A committed course whose staged rows are to be copied (R281), oldest first; the rows are sent, and stores to
another chip are not yet acknowledged. -/
structure Copy where
  tag : CourseTag
  region : Nat
  sent : Bool
  deriving DecidableEq, Repr

/-- The course scheduler (R261 to R297, Table 8-12). -/
structure Csc where
  en : Bool
  starve : W16
  unbounded : Bool
  obPool : BitVec 48
  obSize : W32
  stg : BitVec 48
  stgSize : W32
  peers : BitVec 24
  npeer : BitVec 4
  plans : Vector PlanSlot 64
  lastTag : W16
  jobs : List Job
  obds : List Obd
  copies : List Copy
  /-- staging regions of fenced units, not used again before a data-plane reset (R288) -/
  deadRegions : List Nat
  /-- prefetch cancellations to be processed: victim and the tag its prefetch registered for (R270) -/
  cancels : List (CoreId × Option CourseTag)
  /-- dispatches made: orders the starts of courses -/
  seq : Nat
  /-- peer number to ask next, and the steal request outstanding: (tag, peer) -/
  nextPeer : Nat
  steal : Option (BitVec 12 × ChipId)
  /-- 0x4100:02 to 0B -/
  stats : Vector W32 10
  /-- 0x4310 and 0x4318: jobs completed and last completion record of each queue -/
  jobsDone : Vector W32 8
  lastDone : Vector W64 8
  deriving DecidableEq, Repr

def TileState.zero : TileState := { active := false, susp := false, row := 0, pass := 0, ws := false, desc := 0 }
def HwLoop.zero : HwLoop := { start := 0, stop := 0, count := 0 }
def Circ.zero : Circ := { base := 0, len := 0 }

/-- A Spar core after a data-plane reset: SP_RPTLIM.LIMIT 128, SP_WDT.LIMIT 2^24, everything else 0
(Tables 5-14 to 5-18; registers without a stated reset value 0, log 45). -/
def SparCore.reset : SparCore :=
  { v := Vector.replicate 32 0, acc := Vector.replicate 8 [], d := Vector.replicate 16 0,
    a := Vector.replicate 16 0, cb := Vector.replicate 8 Circ.zero, p := Vector.replicate 8 0,
    loops := Vector.replicate 2 HwLoop.zero, shA := Vector.replicate 8 0,
    shCb := Vector.replicate 4 Circ.zero, shP := Vector.replicate 8 0,
    shLoops := Vector.replicate 2 HwLoop.zero, pc := 0, rptLeft := 0, state := 0, satUnsure := false,
    wait := .none, fcode := 0, ie := 0, gie := false, irq := 0, irqRpt := false, inHandler := false, irqHold := false,
    ivec := 0, epc := 0, estat := 0, rptlim := 128, wdt := 0x1000000, tile := TileState.zero, tdesc := [],
    fetched := Fetched.zero,
    wsSrc := Vector.replicate 2 0, stage := Vector.replicate 2 [], srf := [], pend := 0,
    cnt64 := Vector.replicate 3 0, cnt32 := Vector.replicate 10 0, rem := [],
    crs := Vector.replicate 8 0, plan := none, cur := none, started := 0, pre := none, done := false, closing := false,
    recallTo := none, reinit := false }

def Ee.reset : Ee :=
  { state := 0, rndIgn := false, satUnsure := false, mode := false, fcode := 0, cyc := 0, macAct := 0,
    desc := 0, acc := Vector.replicate 16 [], offered := none, running := none, edesc := [], cur := none, done := false }

def PlanSlot.reset : PlanSlot :=
  { image := 0, state := 0, codeOff := 0, codeLen := 0, srfOff := 0, srfN := 0, rptLimit := 0,
    haloWait := 0, hash := 0, groups := [] }

def Csc.reset : Csc :=
  { en := false, starve := 1024, unbounded := false, obPool := 0, obSize := 0, stg := 0, stgSize := 0,
    peers := 0, npeer := 0, plans := Vector.replicate 64 PlanSlot.reset, lastTag := 0, jobs := [],
    obds := [], copies := [], deadRegions := [], cancels := [], seq := 0, nextPeer := 0, steal := none,
    stats := Vector.replicate 10 0, jobsDone := Vector.replicate 8 0, lastDone := Vector.replicate 8 0 }

end Sys2Proof.Machine
end

