-- ==== Sys2Proof/Machine/PartsIo.lean ====
section
/-!
DEFINITION. The part of the state that the IO block holds (16_electrical_package.md, Table 16-15).
-/

namespace Sys2Proof.Machine

/-- The IO block: levels put on its balls from outside, and its registers. -/
structure Io where
  /-- level that the board, or the ball's pull, puts on each ball that is not driven -/
  ext : W32
  outv : W32
  oe : W32
  pull : W64
  irqEn : W32
  irqMode : W64
  irqStat : W32
  deriving DecidableEq, Repr

/-- The IO block after a device reset: every ball an input with its pull-down (Tables 16-6, 16-15). -/
def Io.reset : Io :=
  { ext := 0, outv := 0, oe := 0, pull := 0x5555555555555555, irqEn := 0, irqMode := 0, irqStat := 0 }

end Sys2Proof.Machine
end

