-- ==== Sys2Proof/Machine/PartsMast.lean ====
section
/-!
DEFINITION. The parts of the state that the Mast harts and their memory system hold (10_mast_cores.md).
-/

namespace Sys2Proof.Machine

/-- A reservation: a 64-byte granule of local memory, or of another chip (R344, R345, R417). -/
inductive Resv where
  | own (granule : Nat)
  | remote (home : ChipId) (granule : Nat)
  deriving DecidableEq, Repr

/-- One buffered store (R368): address as issued, bytes, DEVICE region, privilege it was checked at. -/
structure SbEntry where
  addr : Nat
  bytes : Bytes
  device : Bool
  sup : Bool
  deriving DecidableEq, Repr

/-- One hart (R331, Tables 10-1, 10-13 to 10-16). -/
structure Hart where
  x : Vector W64 32
  f : Vector W64 32
  /-- q0-q31 of separate mode; in overlay mode the q registers lie in f (R355) -/
  q : Vector W128 32
  pc : W64
  /-- S level -/
  sup : Bool
  fpRound : BitVec 3
  fpFlags : BitVec 5
  ie : Bool
  pie : Bool
  plv : Bool
  ucl : Bool
  ien : W64
  /-- SV_IPEND bit 0 -/
  soft : Bool
  vec : Bool
  vecBase : W64
  cpen : Byte
  scr : W64
  epc : W64
  info : W64
  cause : BitVec 18
  tcmp : W64
  qMode : Bool
  qSat : Bool
  cntCyc : W64
  cntOps : W64
  resv : Option Resv
  /-- store buffer, oldest first -/
  sb : List SbEntry
  /-- WAITI stalls issue (R363) -/
  waiti : Bool
  /-- FENCE or IFENCE stalls issue until what precedes it is complete; true for stores (R366) -/
  fence : Bool
  /-- what the word at pc has asked of other chips (log 60) -/
  rem : List RemBuf
  /-- a CP4-CP7 operation that returns rd and has not come back, and the count of those without rd -/
  cpWait : Option (Fin 32)
  cpOut : Nat
  /-- an operation without rd that ended with an ERROR: CP number and FUNCT; the next word boundary traps (R350) -/
  cpErr : Option (Nat × Nat)
  deriving DecidableEq, Repr

/-- A line held by the caches: its bytes, dirty, and in which L1 data and instruction caches it is
(Table 10-2; the L2 is inclusive and all are coherent, R373; log 61). -/
structure CLine where
  data : Bytes
  dirty : Bool
  inD0 : Bool
  inD1 : Bool
  inI0 : Bool
  inI1 : Bool
  /-- a line of the Mast image, not evicted until the first write of MC_CMO.FLUSH_ALL (R501) -/
  held : Bool
  deriving DecidableEq, Repr

/-- The Mast cores' shared part (Table 10-17). -/
structure Mast where
  harts : Vector Hart 2
  /-- the L2's lines by line number -/
  cache : Tbl (Option CLine)
  run1 : Bool
  irqRoute : W32
  sterr : Vector W64 2
  /-- a CLEAN_ALL or FLUSH_ALL in progress: true for FLUSH_ALL -/
  cmo : Option Bool
  eccL1 : W16
  eccL2 : W16
  /-- interrupt sources that are events and stay pending until taken: bit n is code n (log 62) -/
  events : W16
  deriving DecidableEq, Repr

def Hart.reset : Hart :=
  { x := Vector.replicate 32 0, f := Vector.replicate 32 0, q := Vector.replicate 32 0, pc := 0, sup := true,
    fpRound := 0, fpFlags := 0, ie := false, pie := false, plv := true, ucl := false, ien := 0,
    soft := false, vec := false, vecBase := 0, cpen := 0, scr := 0, epc := 0, info := 0, cause := 0,
    tcmp := 0, qMode := false, qSat := false, cntCyc := 0, cntOps := 0, resv := none, sb := [],
    waiti := false, fence := false, rem := [], cpWait := none, cpOut := 0, cpErr := none }

def Mast.reset : Mast :=
  { harts := Vector.replicate 2 Hart.reset, cache := [], run1 := false, irqRoute := 0,
    sterr := Vector.replicate 2 0, cmo := none, eccL1 := 0, eccL2 := 0, events := 0 }

end Sys2Proof.Machine
end

