-- ==== Sys2Proof/Machine/PartsTrim.lean ====
section
/-!
DEFINITION. The part of the state that the Trim unit holds (09_trim.md).
-/

namespace Sys2Proof.Machine

/-- An exchange or journal record: KIND, source part, payload entries N, apply sweep, source sweep, payload
(Table 9-3). -/
structure TrimRec where
  kind : Nat
  part : Byte
  n : Nat
  apply : Nat
  src : W32
  payload : Bytes
  deriving DecidableEq, Repr

/-- Where a run stands. -/
inductive TrimPhase where
  /-- between sweeps: the next one waits for its records (R315, R316) -/
  | between
  /-- in a sweep, with the next group step -/
  | sweep (g : Nat)
  /-- the last sweep has ended (R318) -/
  | final
  deriving DecidableEq, Repr

/-- The Trim unit (R300 to R330, Tables 9-1, 9-6, 9-7, 9-9). -/
structure Trim where
  status : BitVec 4
  cmdErr : Bool
  jfull : Bool
  cause : Byte
  step : Nat
  sweep : W32
  energy : BitVec 48
  descA : BitVec 48
  jlen : W32
  jrun : W32
  irqEn : Bool
  cyc : W64
  flips : W64
  xwait : W64
  xrec : W32
  /-- the descriptor as LOAD read it, none when its read was refused -/
  prob : Option Bytes
  /-- couplings of the upper triangles, key block × 65536 + 256 × i + j -/
  dense : Tbl W16
  bias : Tbl W32
  sparse : List W64
  initSpins : BitVec 4096
  clamp : BitVec 4096
  sched : List W64
  perm : Bytes
  /-- the run is a replay -/
  replay : Bool
  rng : Vector W64 256
  spins : BitVec 4096
  /-- spins as they were before the last group step: what other blocks' fields know (R307) -/
  seen : BitVec 4096
  /-- spins at the end of the last completed sweep (R319) -/
  last : BitVec 4096
  /-- the copy table: remote spins, key chip × 4096 + spin -/
  copies : Tbl Bool
  phase : TrimPhase
  /-- sweeps done of the present step, steps completed -/
  stepSweeps : Nat
  steps : Nat
  recE : List W64
  /-- the best so far: step, energy, state (R313) -/
  best : Option (Nat × Int × BitVec 4096)
  /-- per peer: boundary values last sent, source sweep last applied (none before its INIT, -1 after it),
  FINAL applied -/
  sent : Vector (BitVec 4096) 8
  applied : Vector (Option Int) 8
  finals : Vector Bool 8
  finalSent : Bool
  /-- records arrived whole and not yet applied, and the bytes of those still arriving, by chip -/
  rx : List (Byte × TrimRec)
  rxPart : Tbl Bytes
  /-- the run is to end at the next sweep boundary, or has ended and its results are to be written, with
  this status -/
  stopReq : Option (BitVec 4)
  ending : Option (BitVec 4)
  /-- journal records of a replay after START, the END that closes them, apply sweep of the last one -/
  jrecs : List TrimRec
  jEnd : Option TrimRec
  jLast : Nat
  /-- JRUN of the run, in a replay that of the run it repeats (R320, R324) -/
  runOf : W32
  /-- runs completed, runs ended abnormally, replays (0x4203) -/
  stats : Vector W32 3
  deriving DecidableEq, Repr

/-- Trim after a data-plane reset (Table 9-9; log 84). -/
def Trim.reset : Trim :=
  { status := 0, cmdErr := false, jfull := false, cause := 0, step := 0, sweep := 0, energy := 0, descA := 0,
    jlen := 0, jrun := 0, irqEn := false, cyc := 0, flips := 0, xwait := 0, xrec := 0, prob := none,
    dense := [], bias := [], sparse := [], initSpins := 0, clamp := 0, sched := [], perm := [],
    replay := false, rng := Vector.replicate 256 0, spins := 0, seen := 0, last := 0, copies := [],
    phase := .between, stepSweeps := 0, steps := 0, recE := List.replicate 64 0, best := none,
    sent := Vector.replicate 8 0, applied := Vector.replicate 8 none, finals := Vector.replicate 8 false,
    finalSent := false, rx := [], rxPart := [], stopReq := none, ending := none, jrecs := [], jEnd := none,
    jLast := 0, runOf := 0, stats := Vector.replicate 3 0 }

end Sys2Proof.Machine
end

