-- ==== Sys2Proof/Machine/PartsTw.lean ====
section
/-!
DEFINITION. The part of the state that a two-wire port holds (12_two_wire.md).
-/

namespace Sys2Proof.Machine

/-- Who asked for a controller transfer: TWn_CMD, object 0x2505, or a stream context. -/
inductive TwOrigin where
  | cmd
  | obj (o : Origin)
  | ctx (n : Nat)
  deriving DecidableEq, Repr

/-- A controller transfer (R437). -/
structure TwXfer where
  origin : TwOrigin
  addr : BitVec 7
  wdata : Bytes
  rlen : Nat
  deriving DecidableEq, Repr

/-- The transfer in progress: attempts made, NACKed addresses, losses that count against RETRY, whether it
waits for a retry after a lost arbitration, and the stamp of its START. -/
structure TwCur where
  x : TwXfer
  attempts : Nat
  nacks : Nat
  losses : Nat
  waiting : Bool
  stamp : Bytes
  deriving DecidableEq, Repr

/-- The target transfer in progress (R443, R444, R446). -/
structure TwTarget where
  read : Bool
  /-- in a write, the next byte sets the pointer; in a read, no byte has gone unacknowledged yet -/
  first : Bool
  firstPtr : Byte
  lastPtr : Byte
  count : W16
  deriving DecidableEq, Repr

/-- A two-wire port (R431 to R463, Table 12-8). -/
structure TwPort where
  cfg : BitVec 24
  tim : W32
  taddr : BitVec 7
  /-- MODE, GF and TWn_TIM in force (R434) -/
  modeNow : BitVec 2
  gfNow : BitVec 4
  timNow : W32
  busy : Bool
  cmdBusy : Bool
  done : Bool
  arbLost : Bool
  timeout : Bool
  fault : Bool
  fcause : BitVec 2
  sdaLow : Bool
  wake : Bool
  winWr : Bool
  torn : Bool
  cmdAddr : BitVec 7
  wlen : Byte
  rlen : Byte
  result : BitVec 4
  bytes : Byte
  attempts : BitVec 4
  arbByte : Byte
  arbBit : BitVec 4
  arbAttempt : BitVec 4
  arbCount : W16
  winFirst : Byte
  winLast : Byte
  winCount : W16
  wprot : W16
  nackCnt : W16
  timeoutCnt : W16
  recovCnt : W16
  wakeCnt : W16
  txbuf : Bytes
  rxbuf : Bytes
  win : Bytes
  ptr : Byte
  /-- transfers, NACKs, arbitration losses, timeouts, recoveries, wakes (0x2507) -/
  stats : Vector W32 6
  /-- transfers due, oldest first, and the one in progress -/
  queue : List TwXfer
  cur : Option TwCur
  target : Option TwTarget
  /-- internal window writes that wait (R445) -/
  deferred : List (Byte × Bytes)
  /-- asleep or dozing, and the local time at which a doze began to gate the clock -/
  asleep : Bool
  gateAt : Option Nat
  /-- SCL has been low for TO_MS once (R456) -/
  sclLow : Bool
  /-- polls that ended, oldest first: context, stamp, bytes read (none when it failed) -/
  polled : List (Nat × Bytes × Option Bytes)
  /-- what 0x2505 reads: RESULT, BYTES, attempts, 0, data; and the port condition of 0x2500 -/
  objRes : Bytes
  cond : Byte
  deriving DecidableEq, Repr

/-- A port after its reset: the bus counts as busy (R435, Table 12-8; buffers and window 0). -/
def TwPort.reset : TwPort :=
  { cfg := 0x190600, tim := 0x326E220C, taddr := 0, modeNow := 0, gfNow := 0, timNow := 0x326E220C,
    busy := true, cmdBusy := false, done := false, arbLost := false, timeout := false, fault := false,
    fcause := 0, sdaLow := false, wake := false, winWr := false, torn := false, cmdAddr := 0, wlen := 0,
    rlen := 0, result := 0, bytes := 0, attempts := 0, arbByte := 0, arbBit := 0, arbAttempt := 0,
    arbCount := 0, winFirst := 0, winLast := 0, winCount := 0, wprot := 0, nackCnt := 0, timeoutCnt := 0,
    recovCnt := 0, wakeCnt := 0, txbuf := List.replicate 64 0, rxbuf := List.replicate 64 0,
    win := List.replicate 256 0, ptr := 0, stats := Vector.replicate 6 0, queue := [], cur := none,
    target := none, deferred := [], asleep := false, gateAt := none, sclLow := false, polled := [],
    objRes := [], cond := 0 }

end Sys2Proof.Machine
end

