-- ==== Sys2Proof/Machine/State.lean ====
section
/-!
DEFINITION. The state of the block: every register, FIFO, buffer, counter, mode and pin the spec gives
it, the queue of waiting commands, the reasons a command can stop the run, and the state after reset.
-/

namespace Sys2Proof.Machine

/-- What leaves the block, oldest first (log 3). -/
inductive Output where
  /-- a CAN frame of the node: NMT, EMCY, PDO or heartbeat (R89, R113, R115, R118) -/
  | can (port : CanPort) (cobId : Nat) (data : Bytes)
  /-- the answer to a dictionary client (R98 to R102) -/
  | dict (s : Session) (a : Answer)
  /-- a request of the USDO client to a sensor node (R122) -/
  | poll (port : CanPort) (node : Byte) (index : W16) (sub : Byte)
  /-- an MSI-X vector sent to the host (R399) -/
  | msix (vec : Fin 32)
  /-- a flit sent on a Shroud port (R403) -/
  | flit (port : ShlId) (data : Bytes)
  /-- an operation sent to customer logic over an ATTACH link (R350) -/
  | attach (port : ShlId) (h : HartId) (data : Bytes)
  /-- a byte or condition a two-wire port drives: START, address, data, STOP (R437) -/
  | tw (n : TwId) (data : Bytes)
  /-- what the debug port answers (R508) -/
  | dap (a : Answer)
  /-- bits shifted out of the TAP (R554) -/
  | tdo (b : List Bool)
  /-- a notice to the control plane: NMT, budget, fence, OTP, fabric or RESTART with the values it
  carries; the ring entry's payload is a free function of them (R20, log 7) -/
  | notice (kind : Nat) (values : List Nat)
  /-- what a command that reads or writes a register gives back to its sender (log 3) -/
  | answer (a : Answer)
  /-- a read value given to the host over PCIe (R396, R398) -/
  | host (a : Answer)
  deriving DecidableEq, Repr

/-- Why a run stops. -/
inductive Fault where
  /-- PIN_RESET with a pulse from 100 ns to below 1 µs, which R552 forbids ("must not be applied") and
  gives no effect. Raised by execPinReset. Safe: the model stops where the part may do either. -/
  | resetPulse
  deriving DecidableEq, Repr

/-- Why a command has no meaning. -/
inductive Refusal where
  /-- The command has no meaning yet; raised by the arms of exec only. Safe. -/
  | notModelled (mnemonic : String)
  deriving DecidableEq, Repr

structure State where
  /-- the commands waiting, first in, first out -/
  pending : List Instr
  /-- the model's own: how many free values have been drawn (log 5) -/
  free : Nat
  /-- the model's own: what has left the block, oldest first (log 3) -/
  out : List Output
  /-- memory by local physical address (Table 11-2; log 2) -/
  mem : Tbl Byte
  dev : Dev
  boot : Boot
  otp : Otp
  act : Act
  reef : Reef
  pert : Pert
  cleatA : CleatA
  cleatB : Vector Queue 8
  cleatC : CleatC
  cleatD : CleatD
  health : Health
  pht : Pht
  node : Node
  cap : Cap
  ddr : Ddr
  pcie : Pcie
  shl : Vector ShlPort 8
  fab : Fab
  spar : Vector SparCore 16
  ee : Ee
  csc : Csc
  mast : Mast
  trim : Trim
  tw : Vector TwPort 6
  io : Io
  deriving DecidableEq, Repr

/-- OTP cells of the part this model stands for, as shipped: the serial number of R497's example with its
GRADE 1 and so FABRIC_EN 1 (R4), the factory CRC, MGC_DBG_LOCK (R506), and generation 0 with an all-default record
(R486); ROOT_HASH that of RFC 6979's P-256 example key, every other key and hash 0 (log 115). -/
def Otp.shipped : Tbl Byte :=
  [(0x0, 0xE9), (0x1, 0xB1), (0x2, 0x04), (0x4, 0xD1), (0x5, 0x2B), (0x6, 0x71), (0x7, 0x7C), (0x8, 0x2A),
   (0x9, 0x13), (0xA, 0x01), (0x10, 0xD6), (0x11, 0xC2), (0x12, 0x3E), (0x13, 0x27), (0x14, 0x44),
   (0x15, 0xA8), (0x16, 0x40), (0x17, 0xCB), (0x18, 0x3A), (0x19, 0x5A), (0x1A, 0x14), (0x1B, 0xB6),
   (0x1C, 0x55), (0x1D, 0x4C), (0x1E, 0xCE), (0x1F, 0x7C), (0x20, 0x07), (0x22, 0x57), (0x23, 0xC4),
   (0x24, 0xE3), (0x25, 0x29), (0x26, 0x8C), (0x27, 0xB9), (0x28, 0x35), (0x29, 0x77), (0x2A, 0xDE),
   (0x2B, 0x68), (0x2C, 0x7E), (0x2D, 0xEC), (0x2E, 0xE6), (0x2F, 0x59), (0xFC, 0xA2), (0xFD, 0x2A),
   (0xFE, 0xE2), (0xFF, 0x87), (0x140, 0x0F), (0x200, 0x01), (0x240, 0x01), (0x280, 0x65), (0x281, 0x04),
   (0x282, 0xC6), (0x283, 0x77), (0x284, 0x5A), (0x285, 0x3C), (0x286, 0xC3), (0x287, 0xA5)]

/-- The machine right after a power-on reset, RESET_N still low. -/
def State.reset : State :=
  { pending := [], free := 0, out := [], mem := [], dev := Dev.reset, boot := Boot.reset,
    otp := { cells := Otp.shipped, inUse := none, record := [], mismatch := false, exhausted := false,
             noValid := false, keyReplaced := false, serviceKey := [], staged := [], status := 0,
             busy := .idle },
    act := Act.reset, reef := Reef.reset, pert := Pert.reset, cleatA := CleatA.reset,
    cleatB := Vector.replicate 8 Queue.reset, cleatC := CleatC.reset, cleatD := CleatD.reset,
    health := Health.reset, pht := Pht.reset, node := Node.reset,
    cap := Cap.reset, ddr := Ddr.reset, pcie := Pcie.reset, shl := Vector.replicate 8 ShlPort.reset,
    fab := Fab.reset, spar := Vector.replicate 16 SparCore.reset, ee := Ee.reset, csc := Csc.reset,
    mast := Mast.reset, trim := Trim.reset,
    tw := Vector.replicate 6 TwPort.reset, io := Io.reset }

end Sys2Proof.Machine
end

