-- ==== Sys2Proof/Machine/Flags.lean ====
section
/-!
DEFINITION. Flag computations: the error register 0x1001, the Cleat A and Cleat B status words, and the
phase-source status bits of a stamp.
-/

namespace Sys2Proof.Machine

/-- The bit of 0x1001 that a standing code sets (Table 15-7, column Bit). -/
def standingBit (code : W16) : Nat :=
  match code.toNat with
  | 0x8130 => 4 | 0xFF01 => 7 | 0xFF03 => 4 | 0xFF10 => 7 | 0xFF11 => 7 | 0xFF13 => 7
  | 0xFF21 => 7 | 0xFF23 => 7 | 0xFF27 => 3 | 0xFF30 => 7 | 0xFF40 => 4 | 0xFF41 => 4
  | 0xFF60 => 7 | 0xFF71 => 3 | 0xFF73 => 3 | 0xFF80 => 4 | 0xFF82 => 4
  | _ => 0

/-- The error register 0x1001 (R533): bit 0 while anything stands, bit n while a condition naming n does. -/
def errorRegister (h : Health) : Byte :=
  h.standing.foldl (fun r c => r ||| BitVec.ofNat 8 (2 ^ standingBit c.code) ||| 1) 0

/-- Occupied entries of a Cleat A ring. -/
def ringUsed (wr rd : BitVec 7) : Nat := (wr - rd).toNat

/-- CLA_STAT (Table 1-13). -/
def claStat (a : CleatA) : Nat :=
  b2n a.c2mFull + 2 * b2n (a.m2cWr ≠ a.m2cRd) + 4 * b2n a.restart

/-- The three terms of R21. -/
def Queue.posted (q : Queue) : Nat := (q.post - q.done).toNat
def Queue.unread (q : Queue) : Nat := (q.done - q.read).toNat
def Queue.freeSlots (q : Queue) : Nat := 256 - (q.post - q.read).toNat

/-- CLB_Qn_STAT (Table 1-16). -/
def clbStat (q : Queue) : Nat :=
  q.freeSlots + 2 ^ 16 * b2n q.ovf + 2 ^ 17 * b2n q.ownerErr + 2 ^ 18 * b2n q.readErr

/-- CLB_Qn_CFG (Table 1-14). -/
def clbCfg (q : Queue) : Nat := q.owner.toNat + 4 * b2n q.en + 8 * b2n q.irqEn

/-- Status byte of a stamp: two bits per source (Table 2-4). -/
def phtStatus (p : Pht) : Byte :=
  BitVec.ofNat 8 ((p.srcs.toList.map fun x => x.state.toNat).foldr (fun a b => a + 4 * b) 0)

/-- Source status of a phase-bus record: bit n is 1 while PSn is not OK (R35, log 151). -/
def phtLost (p : Pht) : BitVec 4 :=
  BitVec.ofNat 4 ((p.srcs.toList.map fun x => b2n (x.state != 0)).foldr (fun a b => a + 2 * b) 0)

/-- Direction bits of a stamp (Table 2-4, offset 0x1D). -/
def phtDirs (p : Pht) : Byte :=
  BitVec.ofNat 8 ((p.srcs.toList.map fun x => b2n x.dir).foldr (fun a b => a + 2 * b) 0
    + 16 * b2n p.ntSync)

end Sys2Proof.Machine
end

