-- ==== Sys2Proof/Machine/Ops.lean ====
section
/-!
DEFINITION. The operations every family shares: vectors, free values, outputs, memory, local time,
EMCYs and standing conditions, Cleat A messages, and the conditions under which a plane runs.
-/

namespace Sys2Proof.Machine

/-- A vector with element i replaced. -/
def vput {α : Type} {n : Nat} (v : Vector α n) (i : Fin n) (x : α) : Vector α n :=
  v.set i.val x i.isLt

/-- A vector with element i changed by f. -/
def vmod {α : Type} {n : Nat} (v : Vector α n) (i : Fin n) (f : α → α) : Vector α n :=
  vput v i (f (v.get i))

/-! ## Free values and outputs -/

/-- A fresh free value of a kind. -/
def drawn (s : State) (t : FreeTag) : Nat := Config.freeValue t s.free

/-- The state after one draw. -/
def afterDraw (s : State) : State := { s with free := s.free + 1 }

/-- The state with an output added. -/
def emit (s : State) (o : Output) : State := { s with out := s.out ++ [o] }

/-! ## Memory by local physical address (Tables 11-2 to 11-4) -/

def dramBase : Nat := 0
def loftBase : Nat := 0x10000000000
def tcmBase : Nat := 0x11000000000
def periBase : Nat := 0x18000000000
def mgmtBase : Nat := 0x1F000000000
def flashBase : Nat := 0x1F010000000
def flashSize : Nat := 0x10000000
def c2mRing : Nat := 0x18000001000
def m2cRing : Nat := 0x18000002000
def clbSlots : Nat := 0x18000050000

/-- First byte of SPn's data TCM and of its instruction TCM. -/
def dtcmBase (c : Nat) : Nat := tcmBase + c * 0x200000
def itcmBase (c : Nat) : Nat := tcmBase + c * 0x200000 + 0x100000

/-- What an unlisted address reads as: erased flash in the flash window, else 0 (log 2). -/
def memDflt (a : Nat) : Byte := if flashBase ≤ a ∧ a < flashBase + flashSize then 0xFF else 0

/-- One byte of memory. -/
def memRead (m : Tbl Byte) (a : Nat) : Byte := Tbl.read memDflt m a

/-- Memory with one byte written. -/
def memWrite (m : Tbl Byte) (a : Nat) (b : Byte) : Tbl Byte := Tbl.write memDflt m a b

/-- n bytes of memory from address a. -/
def memReadN (m : Tbl Byte) (a : Nat) : Nat → Bytes
  | 0 => []
  | n + 1 => memRead m a :: memReadN m (a + 1) n

/-- Memory with a byte list written from address a. -/
def memWriteN (m : Tbl Byte) (a : Nat) : Bytes → Tbl Byte
  | [] => m
  | b :: bs => memWriteN (memWrite m a b) (a + 1) bs

/-- Memory with every byte from lo up to but not including hi gone back to what an unlisted address
reads as. -/
def memClear (m : Tbl Byte) (lo hi : Nat) : Tbl Byte := m.filter fun c => !(lo ≤ c.1 && c.1 < hi)

/-- Little-endian number of n bytes at address a. -/
def memLE (m : Tbl Byte) (a n : Nat) : Nat := leNat (memReadN m a n)

def State.rd (s : State) (a n : Nat) : Bytes := memReadN s.mem a n
def State.rdLE (s : State) (a n : Nat) : Nat := memLE s.mem a n
def State.wr (s : State) (a : Nat) (bs : Bytes) : State := { s with mem := memWriteN s.mem a bs }
def State.wrLE (s : State) (a n v : Nat) : State := s.wr a (toLE n v)

/-! ## Time -/

/-- clk_pht cycles in a second (Table 1-7). -/
def cyclesPerSecond : Nat := 400000000

/-- Network time in ns (R60). -/
def ntNow (p : Pht) : W64 := p.nt.extractLsb' 32 64

/-! ## Which planes run -/

/-- MGC firmware runs: booted, clocks not stopped (R13, R557). -/
def mgcUp (s : State) : Bool := s.dev.phase == .running && !s.dev.clocksStopped

/-- The PHT runs: the device is out of reset and its clock runs. -/
def phtUp (s : State) : Bool :=
  !s.dev.clocksStopped && (s.dev.phase == .running || s.dev.phase == .mgcStarted)

/-- The control plane runs firmware (R33, R90). -/
def ctlUp (s : State) : Bool := mgcUp s && s.boot.control == .run

/-- The record of a power domain. -/
def domOf (s : State) (d : DomId) : DomRec := s.reef.doms.get d

/-- A domain is granted and ready: its units are powered and clocked (R465). -/
def domUp (s : State) (d : DomId) : Bool :=
  mgcUp s && !(domOf s d).waking &&
    ((domOf s d).state == .run || (domOf s d).state == .thr || (domOf s d).state == .gated)

/-- The domain is granted and its clocks run (R465: RUN or THR). -/
def domRuns (s : State) (d : DomId) : Bool :=
  mgcUp s && !(domOf s d).waking && ((domOf s d).state == .run || (domOf s d).state == .thr)

/-- The PCIe link is up: the endpoint is granted and PCIE_PERST_N is high (R564; log 95). -/
def pcieUp (s : State) : Bool := s.pcie.up && s.dev.perstN && domUp s 17

/-- Power domain of a Spar core: PD0 to PD7, two cores each (Table 1-2). -/
def sparDom (c : CoreId) : DomId := ⟨c.val / 2, by have := c.isLt; omega⟩

/-- A unit of R28 is fenced (R31). -/
def unitFenced (s : State) (u : Nat) : Bool := s.cleatC.fenced.getLsbD u

/-! ## Cleat A (R16 to R20) -/

/-- Address of an entry of a ring by index. -/
def ringEntry (base : Nat) (idx : BitVec 7) : Nat := base + (idx.toNat % 64) * 64

/-- The 64 bytes of one entry. -/
def entryBytes (kind : Byte) (more : Bool) (tag : W16) (chunk : Bytes) : Bytes :=
  padTo 64 ([kind, if more then 1 else 0] ++ toLE 2 tag.toNat ++ toLE 2 chunk.length ++ [0, 0] ++ chunk)

/-- A payload cut into chunks of 56 bytes; an empty payload is one empty chunk. -/
def chunk56 : Nat → Bytes → List Bytes
  | 0, p => [p.take 56]
  | n + 1, p => if p.length ≤ 56 then [p] else p.take 56 :: chunk56 n (p.drop 56)

/-- The entries of a message, at most 16 (R16). -/
def msgEntries (m : Msg) : List Bytes :=
  let cs := chunk56 15 m.payload
  (cs.zipIdx).map fun (c, i) => entryBytes m.kind (decide (i + 1 < cs.length)) m.tag c

/-- Memory after entries are written into a ring from an index. -/
def writeEntries (base : Nat) (m : Tbl Byte) (idx : BitVec 7) : List Bytes → Tbl Byte
  | [] => m
  | e :: es => writeEntries base (memWriteN m (ringEntry base idx) e) (idx + 1) es

/-- The M2C ring takes a message if it has room for it whole. -/
def m2cPut (s : State) (m : Msg) : Option State :=
  let es := msgEntries m
  if ringUsed s.cleatA.m2cWr s.cleatA.m2cRd + es.length ≤ 64 then
    some { s with mem := writeEntries m2cRing s.mem s.cleatA.m2cWr es,
                  cleatA.m2cWr := s.cleatA.m2cWr + BitVec.ofNat 7 es.length }
  else none

/-- The MGC sends a message; while the ring is full it holds it back, and the refused write counts as a
FULL event (R18, log 22). -/
def m2cSend (s : State) (m : Msg) : State :=
  if s.cleatA.backlog.isEmpty then
    match m2cPut s m with
    | some t => t
    | none => { s with cleatA.backlog := [m], cleatA.fullEvents := s.cleatA.fullEvents + 1 }
  else { s with cleatA.backlog := s.cleatA.backlog ++ [m] }

/-- Messages held back go into the ring as far as there is room. -/
def m2cRetry : List Msg → State → State
  | [], s => { s with cleatA.backlog := [] }
  | m :: ms, s =>
    match m2cPut s m with
    | some t => m2cRetry ms t
    | none => { s with cleatA.backlog := m :: ms }

/-- NOTICE types; their encoding in the payload is open (log 7). -/
def noticeNmt : Nat := 1
def noticeBudget : Nat := 2
def noticeFence : Nat := 3
def noticeOtp : Nat := 4
def noticeFabric : Nat := 5
def noticeRestart : Nat := 6

/-- A NOTICE message: type and values, its payload bytes a free function of them (Table 1-5, log 7). -/
def noticeMsg (kind : Nat) (values : List Nat) : Msg :=
  { kind := 0x90, tag := 0, payload := toLE 56 (Config.freeOf .unspecified (kind :: values)) }

/-- The MGC sends a NOTICE; while the control plane is off it is not queued (R20). -/
def notice (s : State) (kind : Nat) (values : List Nat) : State :=
  if s.boot.control == .run then
    m2cSend (emit s (.notice kind values)) (noticeMsg kind values)
  else s

/-- The message at the head of the C2M ring and its number of entries, if it is whole. A message whose sixteenth
entry still has MORE = 1 ends there, and a LEN above 56 counts as 56: R16 gives no effect to either (log 162). -/
def headFrom (s : State) (idx : BitVec 7) : Nat → Nat → Option (Bytes × Nat)
  | 0, _ => none
  | fuel + 1, used =>
    if used = 0 then none
    else
      let e := memReadN s.mem (ringEntry c2mRing idx) 64
      let p := slice e 8 (min 56 (fieldLE e 4 2))
      if (byteAt e 1).getLsbD 0 then
        match headFrom s (idx + 1) fuel (used - 1) with
        | some (q, n) => some (p ++ q, n + 1)
        | none => if fuel = 0 then some (p, 1) else none
      else some (p, 1)

/-- The whole message at the head of the C2M ring. -/
def c2mHead (s : State) : Option (Msg × Nat) :=
  let e := memReadN s.mem (ringEntry c2mRing s.cleatA.c2mRd) 8
  match headFrom s s.cleatA.c2mRd 16 (ringUsed s.cleatA.c2mWr s.cleatA.c2mRd) with
  | some (p, n) => some ({ kind := byteAt e 0, tag := BitVec.ofNat 16 (fieldLE e 2 2), payload := p }, n)
  | none => none

/-- The kinds that cross from the control plane (Table 1-5). -/
def c2mKnown (k : Byte) : Bool := decide (1 ≤ k.toNat) && decide (k.toNat ≤ 8)

/-- The MGC drops messages of unlisted kinds from the head of the ring and counts them (R19). -/
def dropUnknown : Nat → State → State
  | 0, s => s
  | n + 1, s =>
    match c2mHead s with
    | some (m, k) =>
      if c2mKnown m.kind then s
      else dropUnknown n { s with cleatA.c2mRd := s.cleatA.c2mRd + BitVec.ofNat 7 k,
                                  cleatA.unknown := s.cleatA.unknown + 1 }
    | none => s

/-- The MGC takes the head message if p holds of it: the message, and the state without it. -/
def takeMsgIf (s : State) (p : Msg → Bool) : Option (Msg × State) :=
  match c2mHead s with
  | some (m, k) =>
    if mgcUp s && p m then
      some (m, dropUnknown 64 { s with cleatA.c2mRd := s.cleatA.c2mRd + BitVec.ofNat 7 k,
                                       cleatA.accepted := s.cleatA.accepted + 1 })
    else none
  | none => none

/-- The MGC takes the head message if it is of this kind. -/
def takeMsg (s : State) (kind : Byte) : Option (Msg × State) := takeMsgIf s fun m => m.kind == kind

/-! ## EMCYs (R118 to R120, R533 to R535) -/

/-- The 16 bytes of an EMCY: code, error register, unit, four bytes of detail, network time (R118). -/
def emcyBytes (s : State) (code : Nat) (unit : Byte) (detail : Bytes) : Bytes :=
  toLE 2 code ++ [errorRegister s.health, unit] ++ padTo 4 detail ++ toLE 8 (ntNow s.pht).toNat

/-- An EMCY or error reset enters the 32-entry queue, or is counted as dropped (R120). -/
def emcyQueue (s : State) (frame : Bytes) : State :=
  if s.node.emcyQ.length < 32 then { s with node.emcyQ := s.node.emcyQ ++ [frame] }
  else { s with node.stats := vmod s.node.stats 3 (· + 1) }

/-- An EMCY enters the error history as sub-index 1, at most 16 kept (R534). -/
def emcyHistory (s : State) (code : Nat) (unit : Byte) (detail : Bytes) : State :=
  { s with node.history :=
      (BitVec.ofNat 32 (code % 65536 + 65536 * unit.toNat + 2 ^ 24 * (byteAt detail 0).toNat)
        :: s.node.history).take 16 }

/-- An EMCY that stands for no condition. -/
def raiseEmcy (s : State) (code : Nat) (unit : Byte) (detail : Bytes) : State :=
  emcyQueue (emcyHistory s code unit detail) (emcyBytes s code unit detail)

/-- A condition stands. -/
def stands (s : State) (code key : Nat) : Bool :=
  s.health.standing.any fun c => c.code.toNat == code && c.key == key

/-- A standing condition begins: it is recorded and its EMCY raised; one that stands already is not
raised again (R119, R535). -/
def raiseStanding (s : State) (code : Nat) (unit : Byte) (key : Nat) (detail : Bytes) : State :=
  if stands s code key then s
  else
    raiseEmcy { s with health.standing :=
        s.health.standing ++ [{ code := BitVec.ofNat 16 code, unit := unit, key := key }] }
      code unit detail

/-- The error reset of a condition: code 0 in bytes 0-1, the condition's byte 3, its code in bytes 4-5. -/
def errorReset (s : State) (code : Nat) (unit : Byte) : State :=
  emcyQueue s (emcyBytes s 0 unit (toLE 2 code))

/-- A standing condition ends with its error reset (R119). -/
def clearStanding (s : State) (code key : Nat) : State :=
  match s.health.standing.find? (fun c => c.code.toNat == code && c.key == key) with
  | none => s
  | some c =>
    errorReset { s with health.standing :=
      s.health.standing.filter fun c => !(c.code.toNat == code && c.key == key) } code c.unit

/-- Every standing condition of a code ends, each with its error reset. -/
def clearAllOf (s : State) (code : Nat) : State :=
  (s.health.standing.filter (fun c => c.code.toNat == code)).foldl
    (fun t c => clearStanding t code c.key) s

/-- An EMCY at most once per second for one code and key (R80, R140, R141, R517). -/
def raiseLimited (s : State) (code key : Nat) (unit : Byte) (detail : Bytes) : State :=
  if s.health.lastRaised.any fun e =>
      e.1.toNat == code && e.2.1 == key && decide (s.pht.cycles < e.2.2 + cyclesPerSecond)
  then s
  else
    raiseEmcy { s with health.lastRaised :=
        (s.health.lastRaised.filter fun e => !(e.1.toNat == code && e.2.1 == key))
          ++ [(BitVec.ofNat 16 code, key, s.pht.cycles)] } code unit detail

end Sys2Proof.Machine
end

