-- ==== Sys2Proof/Machine/Pht.lean ====
section
/-!
DEFINITION. The phase timebase: sources, network time, compare slots, PHASE_OUT and their registers
(02_phase_timing.md). Firing a slot reaches other units in Slot.lean.
-/

namespace Sys2Proof.Machine

/-! ## Fields of the source registers (Tables 2-9, 2-10) -/

def PhtSrc.en (x : PhtSrc) : Bool := x.cfg.getLsbD 0
def PhtSrc.filt (x : PhtSrc) : Nat := bits x.cfg.toNat 1 8
def PhtSrc.idxEn (x : PhtSrc) : Bool := x.cfg.getLsbD 9
def PhtSrc.rev (x : PhtSrc) : Bool := x.cfg.getLsbD 10
/-- Lines per revolution: the field holds lines - 1. -/
def PhtSrc.lines (x : PhtSrc) : Nat := bits x.cfg.toNat 11 16 + 1
def PhtSrc.idxAngle (x : PhtSrc) : Nat := bits x.idx.toNat 0 24
def PhtSrc.idxTol (x : PhtSrc) : Nat := bits x.idx.toNat 24 4

/-- INC_E = round(2^40 / (4 × LINES)), ties to even, in units of 2^-16 counts (R48). -/
def incE (lines : Nat) : Nat :=
  let d := 4 * lines
  let q := 2 ^ 40 / d
  let r := 2 ^ 40 % d
  if 2 * r > d ∨ (2 * r = d ∧ q % 2 = 1) then q + 1 else q

/-- A level or pulse seen for this many cycles passes the filter (R47). -/
def filtered (x : PhtSrc) (samples : Nat) : Bool := decide (x.filt + 1 ≤ samples)

/-- The published phase of an internal angle: truncated toward minus infinity (R46). -/
def pubOf (a : BitVec 56) : BitVec 40 := a.extractLsb' 16 40

/-! ## Crossings (R61) -/

/-- The crossing that a movement from old to new makes of a TARGET: some true upward, some false
downward, none otherwise. EDGE 3 is not described and never fires (log 23). -/
def crossing (edge : Nat) (tgt old new : BitVec 40) : Option Bool :=
  let dp := (tgt - old).toInt
  let dc := (tgt - new).toInt
  if (edge = 0 ∨ edge = 2) ∧ dp > 0 ∧ dc ≤ 0 then some true
  else if (edge = 1 ∨ edge = 2) ∧ dp < 0 ∧ dc ≥ 0 then some false
  else none

def PhtSlot.arm (t : PhtSlot) : Bool := t.cfg.getLsbD 0
def PhtSlot.src (t : PhtSlot) : Nat := bits t.cfg.toNat 1 3
def PhtSlot.edge (t : PhtSlot) : Nat := bits t.cfg.toNat 4 2
def PhtSlot.periodic (t : PhtSlot) : Bool := t.cfg.getLsbD 6
def PhtSlot.fbEn (t : PhtSlot) : Bool := t.cfg.getLsbD 7
def PhtSlot.fbCond (t : PhtSlot) : Bool := t.cfg.getLsbD 8
def PhtSlot.dlMode (t : PhtSlot) : Nat := bits t.cfg.toNat 9 2
def PhtSlot.irqEn (t : PhtSlot) : Bool := t.cfg.getLsbD 11

/-- A slot after its source (0-3, or 4 for NT) moved: an armed slot notes the crossing, which SLOT_FIRE
then fires (log 20). A slot on NT ignores downward movement (R61). -/
def PhtSlot.see (t : PhtSlot) (src : Nat) (old new : BitVec 40) : PhtSlot :=
  if t.arm && t.src == src && t.hit.isNone then
    match crossing t.edge t.tgt old new with
    | some up => if src = 4 ∧ up = false then t else { t with hit := some up }
    | none => t
  else t

/-- Every slot after a source moved. -/
def Pht.seeAll (p : Pht) (src : Nat) (old new : BitVec 40) : Pht :=
  { p with slots := p.slots.map fun t => t.see src old new }

/-- A source takes a new record x whose published phase may have moved. -/
def Pht.move (p : Pht) (n : SrcId) (x : PhtSrc) : Pht :=
  Pht.seeAll { p with srcs := vput p.srcs n x } n.val (p.srcs.get n).pub x.pub

/-- The current phase a slot compares with: a source's published phase, or NT's low 40 bits (log 23). -/
def Pht.phaseOf (p : Pht) (src : Nat) : BitVec 40 :=
  if h : src < 4 then (p.srcs.get ⟨src, h⟩).pub
  else (ntNow p).extractLsb' 0 40

/-! ## Slips, stalls and recovery -/

/-- A slip event enters the log of 16 and raises EMCY 0xFF12 (R52, R53). -/
def logSlip (s : State) (n : SrcId) (missing : Bool) (corr edges : Int) : State :=
  let e : Slip := { src := n, missing := missing, correction := corr, edges := edges, nt := ntNow s.pht }
  raiseEmcy { s with pht.slips := (e :: s.pht.slips).take 16,
                     pht.slipCount := s.pht.slipCount + 1,
                     pht.srcs := vmod s.pht.srcs n fun x => { x with slip := true } }
    0xFF12 0x80 [BitVec.ofNat 8 n.val, if missing then 1 else 0]

/-- No enabled source is out of OK (log 24: a source with EN = 0 is not counted). -/
def allSourcesOk (p : Pht) : Bool := p.srcs.toList.all fun x => !x.en || x.state == 0

/-- Once every enabled source is OK, the standing source conditions end with their error resets (R59). -/
def sourcesRecovered (s : State) : State :=
  if allSourcesOk s.pht then clearAllOf (clearAllOf (clearAllOf s 0xFF10) 0xFF11) 0xFF13 else s

/-- State of a source after an edge or changed word: STALLED needs two in one direction (R59). -/
def afterEvent (x : PhtSrc) (same : Bool) : PhtSrc :=
  if x.state = 1 then
    let k := if same then x.sinceStall + 1 else 1
    if k ≥ 2 then { x with state := 0, sinceStall := 0 } else { x with sinceStall := k }
  else x

/-! ## Quadrature (R47 to R53) -/

/-- A accepted before B is forward, and REV turns it round (log 25). -/
def quadForward (x : PhtSrc) (a : Bool) : Bool := (xor a x.lvlB) != x.rev

/-- A source after one legal edge in direction fwd at local time now. -/
def edgeStep (x : PhtSrc) (fwd a b : Bool) (now : Nat) : PhtSrc :=
  let inc : Int := if fwd then incE x.lines else - (incE x.lines : Int)
  let ang := x.lastAng + BitVec.ofInt 56 inc
  let same := decide (x.dir = !fwd) && decide (x.sameDir > 0)
  let k := if same then min 2 (x.sameDir + 1) else 1
  afterEvent { x with
    lvlA := a, lvlB := b, lastAng := ang, ang := ang, pub := pubOf ang, dir := !fwd, sameDir := k,
    step := if k ≥ 2 then inc else 0, edgeAt := now, stepAt := now, interval := now - x.edgeAt,
    idxEdges := x.idxEdges + (if fwd then 1 else -1),
    oneWay := if same then x.oneWay + 1 else 1 } same

/-- QUAD_EDGE: accepted levels of A and B on PS0 or PS1 (R47, R48). A step in which both change counts
in QERR and leaves the phase unchanged; QERR past 0xFFFF goes on from 0 (log 153). -/
def execQuadEdge (src : CanPort) (a b : Bool) (samples : Nat) (s : State) :
    Host.Outcome State Fault Refusal :=
  let n : SrcId := ⟨src.val, by have := src.isLt; omega⟩
  let x := s.pht.srcs.get n
  if !(phtUp s && x.en && filtered x samples) then .next s
  else if a ≠ x.lvlA ∧ b ≠ x.lvlB then
    .next { s with pht.srcs := vput s.pht.srcs n { x with lvlA := a, lvlB := b, qerr := x.qerr + 1 } }
  else if a = x.lvlA ∧ b = x.lvlB then .next s
  else
    .next (sourcesRecovered { s with pht := s.pht.move n (edgeStep x (quadForward x a) a b s.pht.cycles) })

/-- The 40-bit phase with this angle whose revolution count makes the change from cur smallest; a change
of exactly half a revolution goes backward (R52, log 26). -/
def snapTo (cur : BitVec 40) (angle : Nat) : BitVec 40 :=
  cur + BitVec.ofInt 40 ((BitVec.ofNat 24 angle - cur.extractLsb' 0 24).toInt)

/-- INDEX_PULSE: the angle becomes IDX_ANGLE; the count of edges since the last index may make a slip (R52).
The count is the magnitude of the net signed one, and the first index after enabling makes no slip (log 154). -/
def execIndexPulse (src : CanPort) (samples : Nat) (s : State) : Host.Outcome State Fault Refusal :=
  let n : SrcId := ⟨src.val, by have := src.isLt; omega⟩
  let x := s.pht.srcs.get n
  if !(phtUp s && x.en && x.idxEn && filtered x samples) then .next s
  else
    let ph := snapTo x.pub x.idxAngle
    let ang : BitVec 56 := ph ++ (0 : BitVec 16)
    let slip := x.idxSeen &&
      decide ((Int.natAbs ((x.idxEdges.natAbs : Int) - 4 * x.lines)) > x.idxTol)
    let y := { x with pub := ph, ang := ang, lastAng := ang, stepAt := s.pht.cycles, idxSeen := true, idxEdges := 0, oneWay := 0 }
    let t := { s with pht := s.pht.move n y }
    .next (if slip then logSlip t n false (ph - x.pub).toInt x.idxEdges else t)

/-- INDEX_MISSING: 4 × LINES + IDX_TOL edges passed in one direction without an index (R53). The count starts
anew after the slip, whose correction is 0 (log 155). -/
def execIndexMissing (src : CanPort) (s : State) : Host.Outcome State Fault Refusal :=
  let n : SrcId := ⟨src.val, by have := src.isLt; omega⟩
  let x := s.pht.srcs.get n
  if phtUp s && x.en && x.idxEn && decide (4 * x.lines + x.idxTol ≤ x.oneWay) then
    .next (logSlip { s with pht.srcs := vput s.pht.srcs n { x with oneWay := 0 } } n true 0 x.oneWay)
  else .next s

/-! ## SSI (R54, R55) -/

/-- Gray to binary: bit i is the parity of bits i and above. -/
def grayToBin : Nat → Nat → Nat
  | 0, _ => 0
  | n + 1, g => Nat.xor g (grayToBin n (g / 2))

/-- The fields of a decoded word: single-turn value, multi-turn value, error bit. -/
structure SsiFields where
  single : Nat
  multi : Nat
  err : Bool
  deriving DecidableEq, Repr

def ssiWlen (p : Pht) : Nat := bits p.ssiCfg.toNat 0 5 + 1
def ssiSt (p : Pht) : Nat := bits p.ssiCfg.toNat 10 5 + 1
def ssiMt (p : Pht) : Nat := bits p.ssiCfg.toNat 15 5

/-- R54 steps 1 to 4. -/
def ssiDecode (p : Pht) (w : W32) : SsiFields :=
  let raw := w.toNat % 2 ^ ssiWlen p
  let v := if p.ssiCfg.getLsbD 26 then grayToBin (ssiWlen p) raw else raw
  let pos := bits p.ssiCfg.toNat 5 5
  { single := bits v pos (ssiSt p), multi := bits v (pos + ssiSt p) (ssiMt p),
    err := p.ssiCfg.getLsbD 25 && bitOf v (bits p.ssiCfg.toNat 20 5) }

/-- A word in which every bit is 0 or every bit is 1 (R55). -/
def ssiFlat (p : Pht) (w : W32) : Bool :=
  let raw := w.toNat % 2 ^ ssiWlen p
  raw == 0 || raw == 2 ^ ssiWlen p - 1

/-- The phase a valid word gives (R54 step 5, and the wrap rule for MT = 0). -/
def ssiPhase (p : Pht) (x : PhtSrc) (f : SsiFields) : BitVec 40 :=
  let angle := (f.single * 2 ^ (24 - ssiSt p)) % 2 ^ 24
  if ssiMt p = 0 then
    let rev := x.lastAng.extractLsb' 40 16
    let rev' := match x.word with
      | none => rev
      | some _ =>
        let last := (x.lastAng.extractLsb' 16 24).toNat
        if angle > last ∧ angle - last > 2 ^ 23 then rev - 1
        else if last > angle ∧ last - angle > 2 ^ 23 then rev + 1 else rev
    rev' ++ BitVec.ofNat 24 angle
  else BitVec.ofNat 16 f.multi ++ BitVec.ofNat 24 angle

/-- PS2 in error: ABSENT and EMCY 0xFF13 (R55). The words before it are forgotten, so the first valid word after
it is held against none for a wrap (R54; log 156). -/
def ssiError (s : State) (x : PhtSrc) : State :=
  raiseStanding { s with pht.srcs := vput s.pht.srcs 2 { x with state := 3, step := 0, word := none } }
    0xFF13 0x80 2 [2]

/-- PS2 after a valid word, which gives the speed up to the next one (R55). An ABSENT source whose error has
passed is OK again (log 27). -/
def ssiValid (p : Pht) (x : PhtSrc) (w : W32) (f : SsiFields) : PhtSrc :=
  let ph := ssiPhase p x f
  let ang : BitVec 56 := ph ++ (0 : BitVec 16)
  let d := (ang - x.lastAng).toInt
  let changed := decide (d ≠ 0)
  let same := changed && (decide (d < 0) == x.dir) && decide (x.sinceStall > 0)
  let y := { x with word := some w, pub := ph, ang := ang, lastAng := ang,
                    dir := if changed then decide (d < 0) else x.dir,
                    step := if x.word.isSome then d else 0, edgeAt := p.cycles, stepAt := p.cycles,
                    interval := p.cycles - x.edgeAt,
                    state := if x.state = 3 then 0 else x.state }
  if changed then afterEvent y same else y

/-- SSI_WORD: one word read from the encoder. -/
def execSsiWord (w : W32) (s : State) : Host.Outcome State Fault Refusal :=
  let x := s.pht.srcs.get 2
  if !(phtUp s && x.en) then .next s
  else
    let f := ssiDecode s.pht w
    let run := if ssiFlat s.pht w then x.badRun + 1 else 0
    let x := { x with badRun := run }
    if f.err ∨ run ≥ 2 then .next (ssiError s x)
    else .next (sourcesRecovered { s with pht := s.pht.move 2 (ssiValid s.pht x w f) })

/-! ## Mains (R56, R57) -/

def mainsZc (p : Pht) : Bool := p.mainsCfg.getLsbD 0
def lockCyc (p : Pht) : Nat := bits p.pllLock.toNat 16 4

/-- PLL frequencies at the 40 Hz and 70 Hz clamps, in 2^-16 counts per phase-bus record of 10 ns. -/
def freqLo : Nat := 439805
def freqHi : Nat := 769658

/-- A frequency held within the clamps of 40 and 70 Hz (R56). -/
def clampFreq (n : Nat) : Nat := max freqLo (min freqHi n)

/-- |v_dq|² × 9 of a frame: the Clarke amplitude, which the Park transform keeps (R56). -/
def mainsAmp9 (a b c : Int) : Int := (2 * a - b - c) ^ 2 + 3 * (b - c) ^ 2

/-- |v_dq| ≥ AMP_MIN. -/
def mainsAmpOk (p : Pht) (a b c : Int) : Bool :=
  decide (9 * (bits p.pllAmp.toNat 0 16 : Int) ^ 2 ≤ mainsAmp9 a b c)

/-- LOCK_TH and UNLOCK_TH in units of 2^-16, and UNLOCK_US in clk_pht cycles (Table 2-9). -/
def lockTh (p : Pht) : Nat := bits p.pllLock.toNat 0 8 * 256
def unlockTh (p : Pht) : Nat := bits p.pllLock.toNat 8 8 * 256
def unlockCycles (p : Pht) : Nat := bits p.pllLock.toNat 20 12 * 4000

/-- PS3 loses lock: frequency frozen, UNLOCKED, EMCY 0xFF11 (R56). -/
def mainsUnlock (s : State) : State :=
  let x := s.pht.srcs.get 3
  raiseStanding { s with pht.srcs := vput s.pht.srcs 3 { x with state := 2, lockCnt := 0, lockFrom := none, overFrom := none } }
    0xFF11 0x80 3 [3]

/-- What the PLL makes of a frame: |v_q|/|v_dq| in units of 2^-16, the PI filter's frequency, whether the
sequence is negative, and its estimate of the angle. The standard arithmetic is named and its rounding and the
angle estimate are not given: free functions of the frame, the angle, the frequency and the gains (log 157). -/
structure PllStep where
  ratio : Nat
  freq : Nat
  neg : Bool
  ang : BitVec 56
  deriving DecidableEq, Repr

def pllStep (p : Pht) (x : PhtSrc) (a b c : Int) : PllStep :=
  let k := fun (i : Nat) => Config.freeOf .pll
    [i, wrapInt 24 a, wrapInt 24 b, wrapInt 24 c, x.ang.toNat, x.freq, p.pllGain.toNat]
  { ratio := k 0 % 65537, freq := clampFreq (k 1), neg := decide (k 2 % 2 = 1), ang := BitVec.ofNat 56 (k 3) }

/-- Since when the ratio has exceeded UNLOCK_TH. -/
def overSince (p : Pht) (x : PhtSrc) (r : Nat) : Option Nat :=
  if unlockTh p < r then some (x.overFrom.getD p.cycles) else none

/-- A locked PLL that has to unlock: amplitude, a clamped frequency, or UNLOCK_TH exceeded for UNLOCK_US (R56). -/
def pllLoses (p : Pht) (x : PhtSrc) (y : PllStep) (ampOk : Bool) : Bool :=
  !ampOk || decide (y.freq ≤ freqLo) || decide (freqHi ≤ y.freq) ||
    (match overSince p x y.ratio with
     | some t => decide (t + unlockCycles p ≤ p.cycles)
     | none => false)

/-- Where the run of frames below LOCK_TH began; AMP_MIN counts with it (R56). -/
def lockSince (p : Pht) (x : PhtSrc) (r : Nat) (ampOk : Bool) : Option (BitVec 56) :=
  if ampOk && decide (r < lockTh p) then some (x.lockFrom.getD x.ang) else none

/-- The run has lasted LOCK_CYC mains cycles. -/
def pllLocks (p : Pht) (x : PhtSrc) (r : Nat) (ampOk : Bool) : Bool :=
  match lockSince p x r ampOk with
  | some a => decide (lockCyc p * 2 ^ 40 ≤ (x.ang - a).toNat)
  | none => false

/-- MAINS_FRAME: an ADC frame. Locked, it moves the frequency, which the angle integrates; what takes the lock
away freezes it. Unlocked, frames do not move the angle until they lock the PLL again (R56). -/
def execMainsFrame (a b c : Int) (s : State) : Host.Outcome State Fault Refusal :=
  let p := s.pht
  let x := p.srcs.get 3
  if !(phtUp s && x.en && !mainsZc p) then .next s
  else
    let y := pllStep p x a b c
    let ok := mainsAmpOk p a b c
    if x.state = 0 then
      if pllLoses p x y ok then .next (mainsUnlock s)
      else .next { s with pht.srcs := vput p.srcs 3 { x with freq := y.freq, dir := y.neg, overFrom := overSince p x y.ratio } }
    else if pllLocks p x y.ratio ok then
      .next (sourcesRecovered { s with pht := p.move 3 { x with
        state := 0, ang := y.ang, lastAng := y.ang, pub := pubOf y.ang, freq := y.freq, dir := y.neg,
        lockFrom := none, overFrom := none } })
    else .next { s with pht.srcs := vput p.srcs 3 { x with lockFrom := lockSince p x y.ratio ok } }

/-- The period is that of 40 to 70 Hz, in clk_pht cycles. -/
def periodOk (n : Nat) : Bool := decide (5714286 ≤ n) && decide (n ≤ 10000000)

/-- The run of periods within ±2 % of one another: its length, shortest and longest (R57, log 28). -/
def periodRun (x : PhtSrc) (n : Nat) : Nat × Nat × Nat :=
  if !periodOk n then (0, 0, 0)
  else
    let lo := min x.minPeriod n
    let hi := max x.maxPeriod n
    if x.lockCnt > 0 ∧ hi * 100 ≤ lo * 102 then (x.lockCnt + 1, lo, hi) else (1, n, n)

/-- Advance of an angle in one clk_pht cycle for a step of d in an interval of n cycles: the quotient, one more
or not by a free value where it is no whole number (R49; log 158). An interval below one cycle counts as one. -/
def rateOf (d n : Nat) : Nat :=
  let q := d / max 1 n
  if d % max 1 n = 0 then q else q + Config.freeOf .interp [d, n] % 2

/-- Frequency of a period in 2^-16 counts per record of 4 cycles. -/
def freqOfPeriod (n : Nat) : Nat := 4 * rateOf (2 ^ 40) n

/-- MAINS_ZC_EDGE: a rising zero-cross edge, its period in clk_pht cycles (R57). While UNLOCKED an edge leaves the
angle until the lock is reached, and LOCK_CYC = 0 asks for one period (log 159). -/
def execMainsZcEdge (samples period : Nat) (s : State) : Host.Outcome State Fault Refusal :=
  let x := s.pht.srcs.get 3
  if !(phtUp s && x.en && mainsZc s.pht && filtered x samples) then .next s
  else
    let (k, lo, hi) := periodRun x period
    let x := { x with lockCnt := k, minPeriod := lo, maxPeriod := hi }
    let locked := decide (max 1 (lockCyc s.pht) ≤ k)
    if x.state = 0 ∧ !periodOk period then
      .next (mainsUnlock { s with pht.srcs := vput s.pht.srcs 3 x })
    else if x.state = 0 ∨ locked then
      let ph := snapTo x.pub x.idxAngle
      let ang : BitVec 56 := ph ++ (0 : BitVec 16)
      .next (sourcesRecovered { s with pht := s.pht.move 3 { x with state := 0, ang := ang, lastAng := ang, pub := ph, step := 2 ^ 40, stepAt := s.pht.cycles, interval := period, freq := freqOfPeriod period } })
    else .next { s with pht.srcs := vput s.pht.srcs 3 x }

/-- MAINS_LOCK_LOSS: one of the conditions of R56 holds, or no edge came within 1.5 periods (R57). -/
def execMainsLockLoss (s : State) : Host.Outcome State Fault Refusal :=
  let x := s.pht.srcs.get 3
  if phtUp s && x.en && x.state == 0 then .next (mainsUnlock s) else .next s

/-- SOURCE_STALL: STALL.US without an edge or changed word (R58). PS3 loses lock instead; STALL.US = 0
lies below its limit and detects nothing (log 29). -/
def execSourceStall (n : SrcId) (s : State) : Host.Outcome State Fault Refusal :=
  let x := s.pht.srcs.get n
  if phtUp s && x.en && x.state == 0 && decide (n.val ≠ 3) && decide (x.stallUs ≠ 0) then
    let y := { x with state := 1, pub := pubOf x.lastAng, ang := x.lastAng, step := 0, sinceStall := 0 }
    .next (raiseStanding { s with pht := s.pht.move n y } 0xFF10 0x80 n.val [BitVec.ofNat 8 n.val])
  else .next s

/-! ## Network time (R60) -/

def ntNominal : Nat := 0x280000000
def ntIncLo : Nat := 10732049531
def ntIncHi : Nat := 10742786949

/-- NT_INC clamped to nominal ± 500 ppm (R60, R353). -/
def clampNtInc (v : Nat) : BitVec 34 := BitVec.ofNat 34 (max ntIncLo (min ntIncHi v))

/-- The counter takes a new value; slots on NT see the movement. -/
def Pht.setNt (p : Pht) (v : BitVec 96) : Pht :=
  let q := { p with nt := v }
  q.seeAll 4 ((ntNow p).extractLsb' 0 40) ((ntNow q).extractLsb' 0 40)

/-- The counter is stepped by a signed offset in ns (CP2 NTSTEP), which disciplines it (log 30). -/
def Pht.stepNt (p : Pht) (d : Int) : Pht :=
  { p.setNt (p.nt + BitVec.ofInt 96 (d * 2 ^ 32)) with ntSync := true }

/-- NT_SYNC_EXPIRY: no discipline within NT_HOLD_MS. -/
def execNtSyncExpiry (s : State) : Host.Outcome State Fault Refusal :=
  if phtUp s then .next { s with pht.ntSync := false } else .next s

/-! ## The phase-bus record (R35, R49, R55, R57) -/

/-- The internal angle of a source at local time now, interpolated from its last edge or word at the rate of the
last interval and never past the next expected one (R49, R55, R57); edges further apart than 2^26 cycles are not
interpolated (R81). -/
def interpAngle (n : SrcId) (x : PhtSrc) (now : Nat) : BitVec 56 :=
  if 2 ^ 26 < x.interval ∧ n.val ≠ 2 then x.ang
  else
    let d := min x.step.natAbs (rateOf x.step.natAbs x.interval * (now - x.stepAt))
    if 0 ≤ x.step then x.lastAng + BitVec.ofNat 56 d else x.lastAng - BitVec.ofNat 56 d

/-- A source at local time now: PS3 at the PLL's or the frozen frequency (R56), an OK source with a speed
interpolated (R49 to R51, R55, R57), any other where it stands. -/
def interpolated (p : Pht) (n : SrcId) (x : PhtSrc) (now : Nat) : PhtSrc :=
  if !x.en then x
  else if n.val = 3 ∧ (x.state = 2 ∨ (x.state = 0 ∧ !mainsZc p)) then
    let ang := x.ang + BitVec.ofNat 56 x.freq
    { x with ang := ang, pub := pubOf ang }
  else if x.state = 0 ∧ x.step ≠ 0 then
    let ang := interpAngle n x now
    { x with ang := ang, pub := pubOf ang }
  else x

/-- One source's advance over four clk_pht cycles. -/
def advanceSource (s : State) (n : SrcId) : State :=
  { s with pht := s.pht.move n (interpolated s.pht n (s.pht.srcs.get n) (s.pht.cycles + 4)) }

/-- The record that the PHT broadcasts now (R35, Table 2-4). -/
def newRecord (p : Pht) : PhRecord :=
  { phases := p.srcs.map (fun x => x.pub), nt := ntNow p, status := phtLost p }

/-- What a stamp takes beside it (Table 2-4). -/
def newSide (p : Pht) : PhSide := { status := phtStatus p, dirs := phtDirs p, seq := p.side.seq + 1 }

/-- Four clk_pht cycles: sources advance, NT adds NT_INC four times, the record is broadcast. -/
def phtAdvance (s : State) : State :=
  let s := advanceSource (advanceSource (advanceSource (advanceSource s 0) 1) 2) 3
  let p := s.pht.setNt (s.pht.nt + BitVec.ofNat 96 (4 * s.pht.ntInc.toNat))
  { s with pht := { p with record := newRecord p, side := newSide p, cycles := p.cycles + 4 } }

/-! ## Slots (R62 to R65) -/

/-- TARGET after a firing: plus INC, and further INCs while it lies behind the current phase; the number
of further ones (R62). An INC of 0 lies outside its limit and moves nothing. -/
def advanceTarget (up : Bool) (tgt inc cur : BitVec 40) : BitVec 40 × Nat :=
  if inc = 0 then (tgt, 0)
  else
    let t := if up then tgt + inc else tgt - inc
    let behind := if up then (cur - t).toInt else (t - cur).toInt
    if behind > 0 then
      let k := (behind.toNat + inc.toNat - 1) / inc.toNat
      (if up then t + BitVec.ofNat 40 (k * inc.toNat) else t - BitVec.ofNat 40 (k * inc.toNat), k)
    else (t, 0)

/-- A slot after it fires: FIRED, CAUSE, TARGET and MISS when periodic, disarmed when one-shot. -/
def PhtSlot.fire (t : PhtSlot) (up fallback : Bool) (cur : BitVec 40) : PhtSlot :=
  let u := { t with fired := true, cause := fallback, hit := none }
  if t.periodic then
    let (g, k) := advanceTarget up t.tgt t.inc cur
    { u with tgt := g, miss := BitVec.ofNat 5 (min 31 (t.miss.toNat + k)) }
  else { u with cfg := t.cfg &&& 0xFFFFFFFE }

def PhtOut.slot (o : PhtOut) : Nat := bits o.cfg.toNat 0 6
def PhtOut.mode (o : PhtOut) : Nat := bits o.cfg.toNat 6 2

/-- A PHASE_OUT driver on an event of its slot: PULSE drives the active level, TOGGLE changes level. -/
def PhtOut.event (o : PhtOut) (n : Nat) : PhtOut :=
  if o.slot = n then
    if o.mode = 1 then { o with active := true }
    else if o.mode = 2 then { o with active := !o.active } else o
  else o

/-- PHASE_OUT_PULSE_END: a pulse of PW × 10 ns ends. -/
def execPhaseOutPulseEnd (n : SrcId) (s : State) : Host.Outcome State Fault Refusal :=
  let o := s.pht.outs.get n
  if phtUp s && o.active && decide (o.mode = 1) then
    .next { s with pht.outs := vput s.pht.outs n { o with active := false } }
  else .next s

/-- Which parties reach PHT registers: Mast harts through CP2, and the MGC (R37, R44). -/
def phtReach (s : State) : RegParty → Bool
  | .mast _ => ctlUp s
  | .mgc => mgcUp s
  | .spar _ => false
  | .host => false

/-- A slot's CFG is written; arming takes the current phase as previous phase and sets BEHIND when
TARGET is equal to it or behind it in the direction of EDGE (R63, R64). EITHER has no direction, so only a TARGET
equal to the phase is behind (log 160). -/
def PhtSlot.writeCfg (t : PhtSlot) (cfg : W32) (cur : BitVec 40) : PhtSlot :=
  let u := { t with cfg := cfg &&& 0xFFF }
  if u.arm && !t.arm then
    let d := (t.tgt - cur).toInt
    let behind := match u.edge with
      | 0 => decide (d ≤ 0)
      | 1 => decide (d ≥ 0)
      | _ => decide (d = 0)
    { u with hit := none, behind := t.behind || behind }
  else if !u.arm then { u with hit := none } else u

def slotWriteCfg (p : Pht) (n : PhtSlotId) (cfg : W32) : Pht :=
  let t := p.slots.get n
  { p with slots := vput p.slots n (t.writeCfg cfg (p.phaseOf (bits cfg.toNat 1 3))) }

/-- SLOT_ARM: a write of PHT_SLOTs_CFG. -/
def execSlotArm (n : PhtSlotId) (by_ : RegParty) (cfg : W32) (s : State) :
    Host.Outcome State Fault Refusal :=
  if phtUp s && phtReach s by_ then .next { s with pht := slotWriteCfg s.pht n cfg } else .next s

/-- The staged low word and the written high word enter TARGET or INC whole (R64). -/
def slotCommit (t : PhtSlot) (inc : Bool) (hi : W32) : PhtSlot :=
  if inc then { t with inc := hi.extractLsb' 0 8 ++ t.incLo }
  else { t with tgt := hi.extractLsb' 0 8 ++ t.tgtLo }

/-- SLOT_TARGET_COMMIT: a write of TGT_HI or INC_HI. -/
def execSlotTargetCommit (n : PhtSlotId) (inc : Bool) (hi : W32) (s : State) :
    Host.Outcome State Fault Refusal :=
  if phtUp s && ctlUp s then
    .next { s with pht.slots := vmod s.pht.slots n fun t => slotCommit t inc hi }
  else .next s

/-- A control-plane reset disarms all slots and drives each PHASE_OUT inactive (R67). -/
def phtDisarm (p : Pht) : Pht :=
  { p with slots := p.slots.map fun t => { t with cfg := t.cfg &&& 0xFFFFFFFE, hit := none },
           outs := p.outs.map fun o => { o with active := false } }

/-! ## Registers (Table 2-9) -/

/-- PHT_SRCn_CFG written. Enabling starts tracking: OK at once for PS0 to PS2 and UNLOCKED for PS3, index
history afresh; disabling makes the source ABSENT (Table 2-10, log 29). -/
def srcWriteCfg (x : PhtSrc) (n : Nat) (v : W32) : PhtSrc :=
  let y := { x with cfg := v &&& 0x07FFFFFF }
  if !y.en then { y with state := 3, step := 0, sameDir := 0, lockFrom := none, overFrom := none }
  else if !x.en then
    { y with state := if n = 3 then 2 else 0, step := 0, sameDir := 0, idxSeen := false, idxEdges := 0,
             oneWay := 0, word := none, badRun := 0, lockCnt := 0, lockFrom := none, overFrom := none, lastAng := x.ang }
  else y

/-- PHT_SRCn_STAT (Table 2-11). -/
def srcStat (x : PhtSrc) : Nat :=
  x.state.toNat + 4 * b2n x.dir + 8 * b2n x.slip + 65536 * x.qerr.toNat

/-- Slot STAT byte (Table 2-13). -/
def slotStat (t : PhtSlot) : Nat :=
  b2n t.fired + 2 * b2n t.cause + 4 * b2n t.behind + 8 * t.miss.toNat

/-- A read of a source register: the value and the state (PH_LO latches PH_HI, QERR clears). -/
def srcRead (p : Pht) (n : SrcId) (off : Nat) : Nat × Pht :=
  let x := p.srcs.get n
  match off with
  | 0x00 => (x.cfg.toNat, p)
  | 0x04 => (x.stallUs.toNat, p)
  | 0x08 => (x.idx.toNat, p)
  | 0x0C => (srcStat x, { p with srcs := vput p.srcs n { x with qerr := 0 } })
  | 0x10 => (x.pub.toNat % 2 ^ 32,
      { p with srcs := vput p.srcs n { x with phHi := x.pub.extractLsb' 32 8 } })
  | 0x14 => (x.phHi.toNat, p)
  | _ => (0, p)

/-- A read of a slot register; MISS clears when read. -/
def slotRead (p : Pht) (n : PhtSlotId) (off : Nat) : Nat × Pht :=
  let t := p.slots.get n
  match off with
  | 0x00 => (t.cfg.toNat, p)
  | 0x04 => (t.tgt.toNat % 2 ^ 32, p)
  | 0x08 => (t.tgt.toNat / 2 ^ 32, p)
  | 0x0C => (t.inc.toNat % 2 ^ 32, p)
  | 0x10 => (t.inc.toNat / 2 ^ 32, p)
  | 0x14 => (t.fbDelay.toNat, p)
  | 0x18 => (t.dlNs.toNat, p)
  | 0x1C => (t.dlPh.toNat + 2 ^ 24 * slotStat t, { p with slots := vput p.slots n { t with miss := 0 } })
  | _ => (0, p)

/-- A read of a PHT register. NT_LO latches NT_HI as PH_LO does; NT_INC reads its low 32 bits (log 30). -/
def phtRead (p : Pht) (off : Nat) : Nat × Pht :=
  if off < 0x80 then srcRead p (Fin.ofNat 4 (off / 0x20)) (off % 0x20)
  else if 0x400 ≤ off ∧ off < 0xC00 then slotRead p (Fin.ofNat 64 ((off - 0x400) / 0x20)) (off % 0x20)
  else match off with
  | 0x80 => (p.ssiCfg.toNat, p)
  | 0x84 => (p.ssiTim.toNat, p)
  | 0x90 => (p.mainsCfg.toNat, p)
  | 0x94 => (p.pllGain.toNat, p)
  | 0x98 => (p.pllLock.toNat, p)
  | 0x9C => (p.pllAmp.toNat, p)
  | 0xA0 => ((ntNow p).toNat % 2 ^ 32, { p with ntHiLatch := (ntNow p).extractLsb' 32 32 })
  | 0xA4 => (p.ntHiLatch.toNat, p)
  | 0xA8 => (p.ntInc.toNat % 2 ^ 32, p)
  | 0xAC => (b2n p.ntSync + 65536 * p.ntHoldMs.toNat, p)
  | 0xC0 => ((p.outs.get 0).cfg.toNat, p)
  | 0xC4 => ((p.outs.get 1).cfg.toNat, p)
  | 0xC8 => ((p.outs.get 2).cfg.toNat, p)
  | 0xCC => ((p.outs.get 3).cfg.toNat, p)
  | 0xD0 => (p.rdy.toNat, p)
  | _ => (0, p)

/-- A write of a slot register. -/
def slotWrite (p : Pht) (n : PhtSlotId) (off : Nat) (v : W32) : Pht :=
  let t := p.slots.get n
  match off with
  | 0x00 => slotWriteCfg p n v
  | 0x04 => { p with slots := vput p.slots n { t with tgtLo := v } }
  | 0x08 => { p with slots := vput p.slots n (slotCommit t false v) }
  | 0x0C => { p with slots := vput p.slots n { t with incLo := v } }
  | 0x10 => { p with slots := vput p.slots n (slotCommit t true v) }
  | 0x14 => { p with slots := vput p.slots n { t with fbDelay := v } }
  | 0x18 => { p with slots := vput p.slots n { t with dlNs := v } }
  | 0x1C => { p with slots := vput p.slots n { t with dlPh := v.extractLsb' 0 24, fired := t.fired && !v.getLsbD 24, behind := t.behind && !v.getLsbD 26 } }
  | _ => p

/-- A write of a source register. -/
def srcWrite (p : Pht) (n : SrcId) (off : Nat) (v : W32) : Pht :=
  let x := p.srcs.get n
  match off with
  | 0x00 => { p with srcs := vput p.srcs n (srcWriteCfg x n.val v) }
  | 0x04 => { p with srcs := vput p.srcs n { x with stallUs := v.extractLsb' 0 24 } }
  | 0x08 => { p with srcs := vput p.srcs n { x with idx := v &&& 0x0FFFFFFF } }
  | 0x0C => { p with srcs := vput p.srcs n { x with slip := x.slip && !v.getLsbD 3 } }
  | _ => p

/-- PHT_OUTn_CFG written: MODE 0 drives the inactive level. -/
def outWrite (p : Pht) (n : SrcId) (v : W32) : Pht :=
  let o := p.outs.get n
  { p with outs := vput p.outs n { o with cfg := v &&& 0xFFFF01FF, active := if bits v.toNat 6 2 = 0 then false else o.active } }

/-- A write of a PHT register other than PHT_RDY (R70, Slot.lean). Writing NT_INC implies the bits above
the register as in the nominal value, and clamps; writing NT_HI sets the counter (R60, log 30). -/
def phtWrite (p : Pht) (off : Nat) (v : W32) : Pht :=
  if off < 0x80 then srcWrite p (Fin.ofNat 4 (off / 0x20)) (off % 0x20) v
  else if 0x400 ≤ off ∧ off < 0xC00 then
    slotWrite p (Fin.ofNat 64 ((off - 0x400) / 0x20)) (off % 0x20) v
  else match off with
  | 0x80 => { p with ssiCfg := v &&& 0x07FFFFFF }
  | 0x84 => { p with ssiTim := v }
  | 0x90 => { p with mainsCfg := v &&& 0x001FFFFF }
  | 0x94 => { p with pllGain := v }
  | 0x98 => { p with pllLock := v }
  | 0x9C => { p with pllAmp := v &&& 0xFFFF }
  | 0xA0 => { p with ntLoStage := v }
  | 0xA4 => { p.setNt (v ++ p.ntLoStage ++ (0 : W32)) with ntSync := true }
  | 0xA8 => { p with ntInc := clampNtInc (2 ^ 33 + v.toNat), ntSync := true }
  | 0xAC => { p with ntHoldMs := v.extractLsb' 16 16 }
  | 0xC0 => outWrite p 0 v
  | 0xC4 => outWrite p 1 v
  | 0xC8 => outWrite p 2 v
  | 0xCC => outWrite p 3 v
  | _ => p

end Sys2Proof.Machine
end

