-- ==== Sys2Proof/Machine/Node.lean ====
section
/-!
DEFINITION. The CANopen node below the dictionary: frames, communication-area values, sessions and
login, PDOs, heartbeat, SYNC, TIME and EMCY sending, the USDO client (03_object_dictionary.md).
-/

namespace Sys2Proof.Machine

/-! ## Node state and frames -/

/-- Both CAN controllers are silent: node ID 0, fabric member or fabric-orphan (R86, R127). -/
def nodeSilent (n : Node) : Bool := n.nodeId == 0 || n.mode == 2 || n.mode == 3

/-- State code of NMT and heartbeat messages (CiA 301, R84). -/
def nmtCode : Nmt → Nat
  | .initialisation => 0x00
  | .preOperational => 0x7F
  | .operational => 0x05
  | .stopped => 0x04

/-- A frame is sent on a port unless the node is silent or the port is bus-off. -/
def sendCan (s : State) (port : CanPort) (cob : Nat) (data : Bytes) : State :=
  if nodeSilent s.node || s.node.busOff.get port then s else emit s (.can port cob data)

/-- USDO, PDO and EMCY services run (Table 3-3). -/
def nmtServes (n : Node) : Bool := n.nmt == .preOperational || n.nmt == .operational

/-! ## Communication-area values (Tables 3-8, 3-9) -/

def odKey (index sub : Nat) : Nat := index * 256 + sub

/-- Default COB-ID of PDO n: the predefined CAN-ID of the first four, marked invalid (Table 3-8). -/
def pdoCobDefault (base n : Nat) (node : BitVec 7) : Bytes :=
  toLE 4 (if n < 4 then 2 ^ 31 + base + 0x100 * n + node.toNat else 2 ^ 31)

/-- Default of an MGC-held object of the communication area, none when it holds no value here. Defaults
of a PDO's type, inhibit time, event timer and SYNC start are not given: 0 (log 32). -/
def commDefault (node : BitVec 7) (index sub : Nat) : Option Bytes :=
  if index = 0x1005 ∧ sub = 0 then some (toLE 4 0x80)
  else if index = 0x1012 ∧ sub = 0 then some (toLE 4 0x80000100)
  else if index = 0x1014 ∧ sub = 0 then some (toLE 4 (0x80 + node.toNat))
  else if index = 0x1015 ∧ sub = 0 then some (toLE 2 0)
  else if index = 0x1016 ∧ 1 ≤ sub ∧ sub ≤ 8 then some (toLE 4 0)
  else if index = 0x1017 ∧ sub = 0 then some (toLE 2 1000)
  else if index = 0x1019 ∧ sub = 0 then some (toLE 1 0)
  else if index = 0x1029 ∧ sub = 1 then some (toLE 1 0)
  else if 0x1400 ≤ index ∧ index ≤ 0x140F ∧ 1 ≤ sub ∧ sub ≤ 5 then
    some (match sub with
      | 1 => pdoCobDefault 0x200 (index - 0x1400) node
      | 2 => toLE 1 0
      | 4 => toLE 1 0
      | _ => toLE 2 0)
  else if 0x1800 ≤ index ∧ index ≤ 0x180F ∧ 1 ≤ sub ∧ sub ≤ 6 then
    some (match sub with
      | 1 => pdoCobDefault 0x180 (index - 0x1800) node
      | 2 => toLE 1 0
      | 4 => toLE 1 0
      | 6 => toLE 1 0
      | _ => toLE 2 0)
  else if (0x1600 ≤ index ∧ index ≤ 0x160F) ∨ (0x1A00 ≤ index ∧ index ≤ 0x1A0F) then
    (if sub = 0 then some (toLE 1 0) else if sub ≤ 0x40 then some (toLE 4 0) else none)
  else if index = 0x2005 ∧ 1 ≤ sub ∧ sub ≤ 5 then
    some (match sub with
      | 1 => toLE 1 0
      | 2 => toLE 1 1
      | 3 => toLE 1 1
      | _ => toLE 2 0x0302)
  else if index = 0x2006 ∧ 1 ≤ sub ∧ sub ≤ 2 then some (toLE 2 0)
  else if index = 0x2008 ∧ sub = 0 then some (List.replicate 14 0)
  else if index = 0x4080 ∧ 1 ≤ sub ∧ sub ≤ 96 then some (List.replicate 12 0)
  else if index = 0x4081 ∧ sub = 0 then some (toLE 2 100)
  else none

/-- The value of an object the node holds: as written, or its default. The table lists no entry for a
value not written since its default was set. -/
def odGet (n : Node) (index sub : Nat) : Bytes :=
  match Tbl.read (fun _ => []) n.od (odKey index sub) with
  | [] => (commDefault n.nodeId index sub).getD []
  | v => v

def odNat (n : Node) (index sub : Nat) : Nat := leNat (odGet n index sub)

/-- The node with an object's value written. -/
def odSet (n : Node) (index sub : Nat) (v : Bytes) : Node :=
  { n with od := Tbl.write (fun _ => []) n.od (odKey index sub) v }

/-- Values restored to default in a range of indices. -/
def odForget (n : Node) (p : Nat → Bool) : Node :=
  { n with od := n.od.filter fun e => !p (e.1 / 256) }

/-! ## NMT (R89, R90) -/

/-- Boot-up: heartbeat with state 0x00 on the network port, then PRE-OPERATIONAL with its NOTICE (R89 steps 2
and 3, Table 3-3). A silent node stays in INITIALISATION (R86). -/
def bootUp (s : State) : State :=
  if nodeSilent s.node then { s with node.nmt := .initialisation }
  else
    let t := sendCan s s.node.netPort (0x700 + s.node.nodeId.toNat) [0]
    notice { t with node.nmt := .preOperational } noticeNmt [nmtCode .preOperational]

/-- A new NMT state with its NOTICE; STOPPED ends open transfers without answer (Table 3-3). -/
def nmtEnter (s : State) (st : Nmt) : State :=
  let t := if st = .stopped then { s with node.chans := Vector.replicate 2 none } else s
  notice { t with node.nmt := st } noticeNmt [nmtCode st]

/-- An NMT command reaches the node: not silent, out of INITIALISATION, for its node ID or for all. -/
def nmtFor (s : State) (node : Byte) : Bool :=
  mgcUp s && !nodeSilent s.node && s.node.nmt != .initialisation
    && !s.node.busOff.get s.node.netPort
    && (node == 0 || node.toNat == s.node.nodeId.toNat)

/-- The port settings as written come into force (R87). -/
def applyPorts (n : Node) : Node :=
  { n with netPort := Fin.ofNat 2 (odNat n 0x2005 1),
           fd := Vector.ofFn fun (p : Fin 2) => decide (odNat n 0x2005 (2 + p.val) = 1),
           rates := Vector.ofFn fun (p : Fin 2) => BitVec.ofNat 16 (odNat n 0x2005 (4 + p.val)) }

/-- The origin of an access whose session no longer waits. -/
def Origin.leave (goes : Session → Bool) : Origin → Origin
  | .sess x => if goes x then .gone else .sess x
  | .own x => if goes x then .gone else .own x
  | o => o

/-- A two-wire transfer whose session no longer waits for it. -/
def TwXfer.leave (goes : Session → Bool) (x : TwXfer) : TwXfer :=
  match x.origin with
  | .obj o => { x with origin := .obj (o.leave goes) }
  | _ => x

/-- What sessions still wait for, from Mast firmware, a member or a two-wire bus, is answered to no one. -/
def forget (s : State) (goes : Session → Bool) : State :=
  { s with node.reqs := s.node.reqs.map fun r => { r with origin := r.origin.leave goes },
           node.routed := s.node.routed.filter fun r => !goes r.1,
           tw := s.tw.map fun p => { p with
             queue := p.queue.map fun x => x.leave goes,
             cur := p.cur.map fun c => { c with x := c.x.leave goes } } }

/-- The open transfers end without answer (Table 3-3, STOPPED). -/
def forgetChans (s : State) : State :=
  { forget s (fun x => match x with
      | .can _ _ => true
      | .host => false) with node.chans := Vector.replicate 2 none }

/-- Sessions end: those of CAN clients, and with host the host mailbox's. -/
def endSessions (s : State) (host : Bool) : State :=
  let goes : Session → Bool := fun x => match x with
    | .can _ _ => true
    | .host => host
  let s := forget s goes
  { s with node.sessions := s.node.sessions.filter fun x => !goes x.who,
           node.held := s.node.held.filter fun x => !goes x.1,
           node.chans := Vector.replicate 2 none }

/-- PDO run-time state starts afresh. -/
def pdoRestart (n : Node) : Node :=
  { n with tpdos := n.tpdos.map fun _ => { changed := false, inhibited := false, syncs := 0, started := false },
           rpdos := Vector.replicate 16 none }

/-- What Reset Communication restores (Table 3-3, R97): transfers abort without answer, CAN sessions end and the
host mailbox's drops to open rank, the settings written to 0x2005 come into force, 0x1000-0x1FFF and
0x2005-0x2006 go back to their defaults (log 33). With 0x1016 its timed-out consumers end (R119). -/
def restoreComm (s : State) : State :=
  let s := clearAllOf (endSessions s false) 0x8130
  let n := applyPorts s.node
  let n := pdoRestart (odForget n fun i => (decide (0x1000 ≤ i) && decide (i ≤ 0x1FFF)) || i == 0x2005 || i == 0x2006)
  { s with node := { n with
    history := [], consumers := Vector.replicate 8 false,
    sessions := n.sessions.map fun x => { x with service := false } } }

/-- Reset communication on this node (Table 3-3): what it restores, then R89 from its step 2. -/
def resetComm (s : State) : State :=
  let s := restoreComm s
  bootUp { s with node.nmt := .initialisation }

/-! ## Sessions and login (R94 to R97) -/

def sessPort : Session → Option CanPort
  | .can p _ => some p
  | .host => none

def findSess (n : Node) (w : Session) : Option Sess := n.sessions.find? fun x => x.who == w

/-- The session of a client, created at open rank on its first access; none when its port already has
four (R94, R130; log 34). -/
def openSess (n : Node) (w : Session) : Option Node :=
  if (findSess n w).isSome then some n
  else
    match w with
    | .host => some { n with sessions := n.sessions ++ [{ who := w, service := false, challenge := none }] }
    | .can p _ =>
      if (n.sessions.filter fun x => sessPort x.who == some p).length < 4 then
        some { n with sessions := n.sessions ++ [{ who := w, service := false, challenge := none }] }
      else none

/-- The session has service rank. -/
def isService (n : Node) (w : Session) : Bool := (n.sessions.find? fun x => x.who == w).any fun x => x.service

def modSess (n : Node) (w : Session) (f : Sess → Sess) : Node :=
  { n with sessions := n.sessions.map fun x => if x.who = w then f x else x }

/-- A read of 0x2010: a fresh challenge, bound to the session (R95). -/
def newChallenge (s : State) (w : Session) : Bytes × State :=
  let c := toLE 8 (drawn s .challenge)
  (c, afterDraw { s with node := modSess s.node w fun x => { x with challenge := some c } })

/-- Login failures of a port within the last 60 s. -/
def recentFails (s : State) (p : CanPort) : List Nat :=
  (s.node.loginFails.get p).filter fun t => decide (s.pht.cycles < t + 60 * cyclesPerSecond)

/-- A failed login: counted; the fifth on a port within 60 s locks it and raises EMCY 0xFF01 (R96). -/
def loginFail (s : State) (w : Session) : State :=
  let t := { s with node.stats := vmod s.node.stats 2 (· + 1) }
  match sessPort w with
  | none => t
  | some p =>
    let f := recentFails s p ++ [s.pht.cycles]
    if f.length ≥ 5 then
      raiseStanding { t with node.loginFails := vput t.node.loginFails p [],
                             node.locked := vput t.node.locked p true }
        0xFF01 0xFF p.val [BitVec.ofNat 8 p.val]
    else { t with node.loginFails := vput t.node.loginFails p f }

def loginLocked (n : Node) (w : Session) : Bool :=
  match sessPort w with
  | some p => n.locked.get p
  | none => false

/-- Abort codes (Table 3-4). -/
def abRank : Nat := 0x06010000
def abLength : Nat := 0x06070010
def abRange : Nat := 0x06090030
def abState : Nat := 0x08000022
def abSub : Nat := 0x06090011
def abNone : Nat := 0x06020000
def abWo : Nat := 0x06010001
def abRo : Nat := 0x06010002
def abLate : Nat := 0x08000020
def abUnknown : Nat := 0x05040001
def abToggle : Nat := 0x05030000
def abTimeout : Nat := 0x05040000

/-- A write of 0x2011: the abort code, 0 for none, and the state. -/
def loginRespond (s : State) (w : Session) (rsp : Bytes) : Nat × State :=
  if loginLocked s.node w then (0x08000022, s)
  else
    match (findSess s.node w).bind (fun x => x.challenge) with
    | none => (0x08000000, loginFail s w)
    | some c =>
      if rsp = (hmacSha256 s.otp.serviceKey c).take 8 then
        (0, { s with node := modSess s.node w fun x => { x with service := true, challenge := none } })
      else (0x08000000, loginFail s w)

/-- A write of 0x2012: 0 logs out, anything else is out of range. -/
def logoutWrite (s : State) (w : Session) (v : Nat) : Nat × State :=
  if v = 0 then (0, { s with node := modSess s.node w fun x => { x with service := false } })
  else (0x06090030, s)

/-- A session is served: the host mailbox's while PCIe is up, a CAN client's while USDO runs on a port that
is not silent or bus-off (Table 3-3, R86, R126). -/
def sessServed (s : State) : Session → Bool
  | .host => pcieUp s
  | .can p _ => nmtServes s.node && !nodeSilent s.node && !s.node.busOff.get p

/-! ## Answers -/

/-- A DICT_RSP-layout record for the host mailbox (R105, R125). -/
def hmbRecord (index sub : Nat) (a : Answer) : Bytes :=
  match a with
  | .data d =>
    if d.length ≤ 440 then toLE 2 index ++ [BitVec.ofNat 8 sub, 0] ++ toLE 4 d.length ++ d
    else toLE 2 index ++ [BitVec.ofNat 8 sub, 1] ++ toLE 4 0x05040005
  | .abort c => toLE 2 index ++ [BitVec.ofNat 8 sub, 1] ++ toLE 4 c

/-- The server's answer to a write: none, or an abort code. -/
def codeAnswer (code : Nat) : Answer := if code = 0 then .data [] else .abort code

/-- An answer leaves: the host's record into the host lane, which holds 8 (R43); a CAN client's frame while its
session is served, so that a silent or bus-off port sends none (R86, R127). -/
def answerOut (s : State) (w : Session) (index sub : Nat) (a : Answer) : State :=
  match w with
  | .host =>
    if s.cleatA.hostRsp.length < 8 then { s with cleatA.hostRsp := s.cleatA.hostRsp ++ [hmbRecord index sub a] }
    else s
  | .can _ _ => if sessServed s w then emit s (.dict w a) else s

/-- The transfer open on a channel is client c's. -/
def Xfer.of (x : Xfer) (c : BitVec 7) : Bool := x.client.setWidth 7 == c

/-- The answer to a session's access closes its transfer; a CAN client that asked for segments gets an upload
opened in its place. A client whose transfer is no longer open gets none (R98). -/
def answerSess (s : State) (w : Session) (index sub : Nat) (a : Answer) : State :=
  match w with
  | .host => answerOut s w index sub a
  | .can p c =>
    match s.node.chans.get p with
    | none => s
    | some x =>
      let close := { s with node.chans := vput s.node.chans p none }
      if !x.of c then s
      else
        match a with
        | .data d =>
          if x.seg ∧ x.down = none then
            answerOut { s with node.chans := vput s.node.chans p (some { x with waiting := false, data := d }) }
              w index sub (.data [])
          else answerOut close w index sub a
        | .abort _ => answerOut close w index sub a

/-! ## Accesses that come as commands of their own -/

/-- The transfer of an access that is asked and answered whole. -/
def wholeXfer (c : BitVec 7) (index sub : Nat) : Xfer :=
  { client := c.setWidth 8, index := BitVec.ofNat 16 index, sub := BitVec.ofNat 8 sub, down := none, data := [],
    toggle := false, waiting := true, seg := false }

/-- The way of a session's access is free: no other client's transfer is open on its port's channel (R98), or the
host mailbox is not BUSY (R126). -/
def accessFree (s : State) : Session → Bool
  | .host => !s.node.hmb.busy
  | .can p c => (s.node.chans.get p).all fun x => x.of c

/-- A session's access stands open: it has the channel of its port, and a transfer of its own that was open has
ended without answer (R98); the host's makes the mailbox BUSY (R125). -/
def opened (s : State) (w : Session) (index sub : Nat) : State :=
  match w with
  | .host => { s with node.hmb.busy := true }
  | .can p c =>
    let s := forget s (· == w)
    { s with node.chans := vput s.node.chans p (some (wholeXfer c index sub)) }

/-- A session's access begins. Its session exists from then on; a port takes four (R94, R130; log 34). Where
another client's transfer is open it is refused (R98); to a mailbox that is BUSY it sets ERR (R126). -/
def openAccess (s : State) (w : Session) (index sub : Nat) (f : State → State) :
    Host.Outcome State Fault Refusal :=
  if !mgcUp s || !sessServed s w then .next s
  else
    match openSess s.node w with
    | none => .next (answerOut s w index sub (.abort abState))
    | some n =>
      let s := { s with node := n }
      if accessFree s w then .next (f (opened s w index sub))
      else
        match w with
        | .host => .next { s with node.hmb.err := true }
        | .can _ _ => .next (answerOut s w index sub (.abort abState))

/-- A write to a service-rank object that comes as a command of its own (R93): f answers an abort code, 0 for
none, and the state. -/
def objCmd (s : State) (w : Session) (index sub : Nat) (f : State → Nat × State) :
    Host.Outcome State Fault Refusal :=
  openAccess s w index sub fun s =>
    if isService s.node w then
      let (c, t) := f s
      answerSess t w index sub (codeAnswer c)
    else answerSess s w index sub (.abort abRank)

/-! ## Frames of EMCY, heartbeat, TIME -/

/-- EMCY_SEND: the oldest queued EMCY leaves on the network port, 16 bytes on an FD port and 8 on a
classic one (R118, R120). -/
def execEmcySend (s : State) : Host.Outcome State Fault Refusal :=
  match s.node.emcyQ with
  | [] => .next s
  | e :: es =>
    if mgcUp s && nmtServes s.node && !nodeSilent s.node && !s.node.busOff.get s.node.netPort then
      let cob := odNat s.node 0x1014 0
      let t := { s with node.emcyQ := es }
      if bitOf cob 31 then .next t
      else .next (sendCan t s.node.netPort (cob % 0x800) (if s.node.fd.get s.node.netPort then e else e.take 8))
    else .next s

/-- HEARTBEAT_PRODUCE: every 0x1017 ms, 0 disabling it (R115). -/
def execHeartbeatProduce (s : State) : Host.Outcome State Fault Refusal :=
  if mgcUp s && s.node.nmt != .initialisation && decide (odNat s.node 0x1017 0 ≠ 0) then
    .next (sendCan s s.node.netPort (0x700 + s.node.nodeId.toNat) [BitVec.ofNat 8 (nmtCode s.node.nmt)])
  else .next s

/-- TIME_RECEIVE: stored with the network time of its reception (R117). -/
def execTimeReceive (port : CanPort) (canId : BitVec 11) (value : Bytes) (s : State) :
    Host.Outcome State Fault Refusal :=
  let cob := odNat s.node 0x1012 0
  if mgcUp s && nmtServes s.node && !nodeSilent s.node && decide (port = s.node.netPort)
      && bitOf cob 31 && decide (canId.toNat = cob % 0x800) then
    .next { s with node := odSet s.node 0x2008 0 (padTo 6 value ++ toLE 8 (ntNow s.pht).toNat) }
  else .next s

/-- What 0x1029:01 asks on a communication error: 0 PRE-OPERATIONAL from OPERATIONAL, 1 nothing,
2 STOPPED (R115, R116). -/
def commErrorState (n : Node) : Option Nmt :=
  match odNat n 0x1029 1 with
  | 0 => if n.nmt = .operational then some .preOperational else none
  | 2 => if n.nmt = .initialisation ∨ n.nmt = .stopped then none else some .stopped
  | _ => none

/-- CAN_ERROR_PASSIVE (R116). -/
def execCanErrorPassive (port : CanPort) (s : State) : Host.Outcome State Fault Refusal :=
  if mgcUp s && !nodeSilent s.node then .next (raiseEmcy s 0x8120 0xFF [BitVec.ofNat 8 port.val])
  else .next s

/-- CAN_RX_OVERRUN (R116). -/
def execCanRxOverrun (port : CanPort) (s : State) : Host.Outcome State Fault Refusal :=
  if mgcUp s && !nodeSilent s.node then .next (raiseEmcy s 0x8110 0xFF [BitVec.ofNat 8 port.val])
  else .next s

/-- CAN_BUS_OFF: the port stops, its transfer ends, and its service sessions drop to open rank (R97, R116). -/
def execCanBusOff (port : CanPort) (s : State) : Host.Outcome State Fault Refusal :=
  if mgcUp s && !nodeSilent s.node then
    let s := forget s fun x => sessPort x == some port
    .next { s with node := { s.node with
      busOff := vput s.node.busOff port true,
      chans := vput s.node.chans port none,
      sessions := s.node.sessions.map fun x => if sessPort x.who = some port then { x with service := false } else x } }
  else .next s

/-- The heartbeat consumer entry watches this node. -/
def consumes (n : Node) (e : Fin 8) (node : BitVec 7) : Bool :=
  let v := odNat n 0x1016 (e.val + 1)
  decide (bits v 0 16 ≠ 0) && decide (bits v 16 8 = node.toNat) && decide (node ≠ 0)

/-- HEARTBEAT_RECEIVE: a consumed node is heard; its timeout condition clears (R115, R119). -/
def execHeartbeatReceive (port : CanPort) (node : BitVec 7) (_state : Byte) (s : State) :
    Host.Outcome State Fault Refusal :=
  if mgcUp s && !nodeSilent s.node && s.node.nmt != .initialisation && decide (port = s.node.netPort)
      && (List.finRange 8).any (fun e => consumes s.node e node) then
    .next (clearStanding { s with node.consumers := Vector.ofFn fun e => if consumes s.node e node then false else s.node.consumers.get e }
      0x8130 node.toNat)
  else .next s

/-! ## PDOs (R109 to R113) -/

/-- Bytes of a CANopen FD frame that carries n bytes. -/
def fdPad (n : Nat) : Nat :=
  if n ≤ 8 then n else if n ≤ 12 then 12 else if n ≤ 16 then 16 else if n ≤ 20 then 20
  else if n ≤ 24 then 24 else if n ≤ 32 then 32 else if n ≤ 48 then 48 else 64

/-- A mapping entry: index, sub-index, bytes. -/
structure MapEntry where
  index : Nat
  sub : Nat
  len : Nat
  deriving DecidableEq, Repr

def mapEntry (v : Nat) : MapEntry := { index := bits v 16 16, sub := bits v 8 8, len := bits v 0 8 / 8 }

/-- The entries of a PDO mapping object. -/
def mapping (n : Node) (index : Nat) : List MapEntry :=
  (List.range (odNat n index 0)).map fun i => mapEntry (odNat n index (i + 1))

def mapLen (es : List MapEntry) : Nat := (es.map fun e => e.len).foldl (· + ·) 0

/-- The value a TPDO takes for an entry: an MGC-held value, or the MGC's image (R109, R110). -/
def mappedValue (s : State) (e : MapEntry) : Bytes :=
  padTo e.len (
    if e.index = 0x1001 then [errorRegister s.health]
    else if e.index = 0x2400 ∧ 1 ≤ e.sub ∧ e.sub ≤ 4 then toLE 8 (s.pht.phaseOf (e.sub - 1)).toNat
    else if e.index = 0x2400 ∧ e.sub = 5 then toLE 8 (ntNow s.pht).toNat
    else if e.index = 0x2401 ∧ 1 ≤ e.sub ∧ e.sub ≤ 4 then
      let x := s.pht.srcs.get (Fin.ofNat 4 (e.sub - 1))
      [BitVec.ofNat 8 (x.state.toNat + 4 * b2n x.dir)]
    else Tbl.read (fun _ => []) s.node.images (odKey e.index e.sub))

def tpdoCob (n : Node) (i : Fin 16) : Nat := odNat n (0x1800 + i.val) 1
def rpdoCob (n : Node) (i : Fin 16) : Nat := odNat n (0x1400 + i.val) 1
def tpdoType (n : Node) (i : Fin 16) : Nat := odNat n (0x1800 + i.val) 2
def rpdoType (n : Node) (i : Fin 16) : Nat := odNat n (0x1400 + i.val) 2
def tpdoPort (n : Node) (i : Fin 16) : CanPort := if bitOf (odNat n 0x2006 1) i.val then 1 else 0
def rpdoPort (n : Node) (i : Fin 16) : CanPort := if bitOf (odNat n 0x2006 2) i.val then 1 else 0

/-- A TPDO is sent now: OPERATIONAL, valid, padded on an FD port (R113). A mapping of more than 8 bytes
cannot leave a classic port and is not sent (log 35). -/
def sendTpdo (s : State) (i : Fin 16) : State :=
  let n := s.node
  let es := mapping n (0x1A00 + i.val)
  let data := es.flatMap (mappedValue s)
  let port := tpdoPort n i
  let fd := n.fd.get port
  let t := { s with node.tpdos := vmod n.tpdos i fun r => { r with changed := false } }
  if n.nmt = .operational ∧ !bitOf (tpdoCob n i) 31 ∧ (fd ∨ data.length ≤ 8) then
    sendCan t port (tpdoCob n i % 0x800) (if fd then padTo (fdPad data.length) data else data)
  else t

/-- A value of a TPDO changed: an event-driven one leaves at once, or after its inhibit time (R111). -/
def tpdoChanged (s : State) (i : Fin 16) : State :=
  let ty := tpdoType s.node i
  let s := { s with node.tpdos := vmod s.node.tpdos i fun r => { r with changed := true } }
  if 254 ≤ ty ∧ !(s.node.tpdos.get i).inhibited then
    let t := sendTpdo s i
    { t with node.tpdos := vmod t.node.tpdos i fun r => { r with inhibited := decide (odNat t.node (0x1800 + i.val) 3 ≠ 0) } }
  else s

/-- The TPDOs of a type for which ty holds that map an entry for which p holds see a change. -/
def tpdoScan (s : State) (ty : Nat → Bool) (p : MapEntry → Bool) : State :=
  (List.finRange 16).foldl (fun t i =>
    if t.node.nmt == .operational && !bitOf (tpdoCob t.node i) 31 && ty (tpdoType t.node i)
        && (mapping t.node (0x1A00 + i.val)).any p
    then tpdoChanged t i else t) s

/-- The MGC compares its mapped values with those it last saw, at each phase-bus record: a change sends
event-driven TPDOs alone, type 0 following image changes only (R111, log 36). -/
def tpdoMgcScan (s : State) : State :=
  let old := s.node.seenRec
  let oldErr := s.node.seenErr
  let new := s.pht.record
  let oldSide := s.node.seenSide
  let side := s.pht.side
  let err := errorRegister s.health
  let s := { s with node.seenRec := new, node.seenSide := side, node.seenErr := err }
  tpdoScan s (fun ty => decide (254 ≤ ty)) fun e =>
    (e.index == 0x1001 && oldErr != err)
      || (e.index == 0x2400 && e.sub == 5 && old.nt != new.nt)
      || (e.index == 0x2400 && decide (1 ≤ e.sub) && decide (e.sub ≤ 4)
            && old.phases.get (Fin.ofNat 4 (e.sub - 1)) != new.phases.get (Fin.ofNat 4 (e.sub - 1)))
      || (e.index == 0x2401 && decide (1 ≤ e.sub) && decide (e.sub ≤ 4)
            && (bits oldSide.status.toNat (2 * (e.sub - 1)) 2 != bits side.status.toNat (2 * (e.sub - 1)) 2
              || bitOf oldSide.dirs.toNat (e.sub - 1) != bitOf side.dirs.toNat (e.sub - 1)))

/-- A write to a control-held object from an RPDO or the USDO client: a DICT_REQ with TAG 0; to an object
not registered it is dropped and counted (R108, R110; ch. 03 Corners). -/
def tag0Write (s : State) (index sub : Nat) (v : Bytes) : State :=
  if s.node.regs.any fun r => r.index.toNat == index then
    m2cSend s { kind := 0x81, tag := 0, payload := toLE 2 index ++ [BitVec.ofNat 8 sub, 1] ++ toLE 4 v.length ++ v }
  else { s with node.stats := vmod s.node.stats 5 (· + 1) }

/-- The entries of an RPDO applied to its bytes; dummy entries 0x0002-0x0007 only take room (R109). -/
def applyEntries : List MapEntry → Bytes → State → State
  | [], _, s => s
  | e :: es, d, s =>
    let t := if 2 ≤ e.index ∧ e.index ≤ 7 then s else tag0Write s e.index e.sub (padTo e.len d)
    applyEntries es (d.drop e.len) t

def applyRpdo (s : State) (i : Fin 16) (data : Bytes) : State :=
  applyEntries (mapping s.node (0x1600 + i.val)) data s

/-- One RPDO of the port and CAN-ID takes a frame. -/
def rpdoTake (s : State) (i : Fin 16) (port : CanPort) (data : Bytes) : State :=
  let l := mapLen (mapping s.node (0x1600 + i.val))
  let pad := if s.node.fd.get port then fdPad l else l
  if data.length < l then raiseEmcy s 0x8210 0xFF (toLE 2 (i.val + 1))
  else
    let s := if data.length > pad then raiseEmcy s 0x8220 0xFF (toLE 2 (i.val + 1)) else s
    if rpdoType s.node i ≤ 240 then { s with node.rpdos := vput s.node.rpdos i (some data) }
    else applyRpdo s i data

/-- RPDO_RECEIVE. On a classic port a frame of more than 8 bytes is an FD frame, which is ignored (R87). -/
def execRpdoReceive (port : CanPort) (canId : BitVec 11) (data : Bytes) (s : State) :
    Host.Outcome State Fault Refusal :=
  if mgcUp s && s.node.nmt == .operational && !nodeSilent s.node && !s.node.busOff.get port
      && (s.node.fd.get port || decide (data.length ≤ 8)) then
    .next ((List.finRange 16).foldl (fun t i =>
      if !bitOf (rpdoCob t.node i) 31 && decide (rpdoCob t.node i % 0x800 = canId.toNat)
          && decide (rpdoPort t.node i = port)
      then rpdoTake t i port data else t) s)
  else .next s

/-- One TPDO at a SYNC: type 0 after a change, type n at every nth (R111); a SYNC start value makes the
SYNC with that counter the first (CiA 301, log 35). -/
def tpdoSync (counter : Nat) (s : State) (i : Fin 16) : State :=
  let n := s.node
  let ty := tpdoType n i
  let r := n.tpdos.get i
  if bitOf (tpdoCob n i) 31 then s
  else if ty = 0 then (if r.changed then sendTpdo s i else s)
  else if ty ≤ 240 then
    let start := odNat n (0x1800 + i.val) 6
    if r.started ∨ start = 0 ∨ odNat n 0x1019 0 = 0 ∨ counter = start then
      let k := r.syncs + 1
      let t := { s with node.tpdos := vput n.tpdos i { r with started := true, syncs := if k ≥ ty then 0 else k } }
      if k ≥ ty then sendTpdo t i else t
    else s
  else s

/-- One synchronous RPDO waiting for a SYNC is applied. -/
def rpdoSync (s : State) (i : Fin 16) : State :=
  match s.node.rpdos.get i with
  | some d => applyRpdo { s with node.rpdos := vput s.node.rpdos i none } i d
  | none => s

/-- SYNC_RECEIVE: due TPDOs are sent and waiting RPDOs applied (R111). -/
def execSyncReceive (port : CanPort) (canId : BitVec 11) (counter : Nat) (s : State) :
    Host.Outcome State Fault Refusal :=
  if mgcUp s && s.node.nmt == .operational && !nodeSilent s.node && decide (port = s.node.netPort)
      && decide (canId.toNat = odNat s.node 0x1005 0 % 0x800) then
    .next ((List.finRange 16).foldl rpdoSync ((List.finRange 16).foldl (tpdoSync counter) s))
  else .next s

/-- TPDO_EVENT_TIMER: an event-driven TPDO whose event timer runs is sent. -/
def execTpdoEventTimer (i : Fin 16) (s : State) : Host.Outcome State Fault Refusal :=
  if mgcUp s && s.node.nmt == .operational && decide (254 ≤ tpdoType s.node i)
      && decide (odNat s.node (0x1800 + i.val) 5 ≠ 0) && !bitOf (tpdoCob s.node i) 31 then
    .next (tpdoChanged s i)
  else .next s

/-- TPDO_INHIBIT_END: one TPDO carries what changed during the inhibit time. -/
def execTpdoInhibitEnd (i : Fin 16) (s : State) : Host.Outcome State Fault Refusal :=
  let r := s.node.tpdos.get i
  if mgcUp s && r.inhibited then
    let t := { s with node.tpdos := vput s.node.tpdos i { r with inhibited := false } }
    .next (if r.changed then tpdoChanged t i else t)
  else .next s

/-! ## USDO client (R122 to R124) -/

/-- A poll entry's fields (Table 3-10). -/
def pollBytes (n : Node) (e : Fin 96) : Bytes := odGet n 0x4080 (e.val + 1)
def pollPort (n : Node) (e : Fin 96) : CanPort := if (byteAt (pollBytes n e) 1).getLsbD 0 then 1 else 0
def pollEnabled (n : Node) (e : Fin 96) : Bool := (byteAt (pollBytes n e) 1).getLsbD 7

/-- The client request of an entry is sent. -/
def pollSend (s : State) (e : Fin 96) : State :=
  let b := pollBytes s.node e
  let p := pollPort s.node e
  emit { s with node.client := vput s.node.client p (some e) }
    (.poll p (byteAt b 0) (BitVec.ofNat 16 (fieldLE b 2 2)) (byteAt b 4))

/-- The first due entry of a free port is served, in entry order (R123). -/
def pollServe (s : State) (p : CanPort) : State :=
  if (s.node.client.get p).isSome then s
  else
    match (List.finRange 96).find? fun e =>
        (s.node.polls.get e).due && pollEnabled s.node e && decide (pollPort s.node e = p) with
    | some e => pollSend { s with node.polls := vmod s.node.polls e fun r => { r with due := false } } e
    | none => s

def pollRuns (s : State) : Bool := mgcUp s && nmtServes s.node && !nodeSilent s.node

/-- POLL_DUE: an entry's period starts; one still unserved counts an overrun (R123). -/
def execPollDue (e : Fin 96) (s : State) : Host.Outcome State Fault Refusal :=
  if pollRuns s && pollEnabled s.node e then
    let r := s.node.polls.get e
    let t := { s with node.polls := vput s.node.polls e { r with due := true, overruns := if r.due then r.overruns + 1 else r.overruns, st := if r.st = 0 then 1 else r.st } }
    .next (pollServe t (pollPort s.node e))
  else .next s

/-- A request fails, by a timeout or the server's abort: it is retried; RETRIES + 1 failures in a row make the
entry LOST, and polling goes on with its next period, whose request is retried again as often (R124). -/
def pollFail (s : State) (port : CanPort) (e : Fin 96) : State :=
  let r := s.node.polls.get e
  let retries := bits (byteAt (pollBytes s.node e) 5).toNat 0 4
  if r.fails + 1 > retries then
    let t := { s with node.client := vput s.node.client port none,
                      node.polls := vput s.node.polls e { r with st := 3, fails := 0 } }
    pollServe (raiseStanding t 0xFF03 0xFF (e.val + 1) (toLE 2 (e.val + 1))) port
  else
    pollSend { s with node.polls := vput s.node.polls e { r with st := if r.st = 3 then 3 else 2, fails := r.fails + 1 } } e

/-- A request succeeds: the value goes to the entry's target as a TAG 0 write, after 8 bytes of network time, and
LOST clears (R122, R124). -/
def pollDone (s : State) (port : CanPort) (e : Fin 96) (value : Bytes) : State :=
  let b := pollBytes s.node e
  let t := { s with node.client := vput s.node.client port none,
                    node.polls := vmod s.node.polls e fun r => { r with st := 1, fails := 0 } }
  let t := tag0Write t (fieldLE b 8 2) (byteAt b 10).toNat (toLE 8 (ntNow s.pht).toNat ++ value.take 64)
  pollServe (clearStanding t 0xFF03 (e.val + 1)) port

/-- POLL_RESPONSE: the sensor node's value, or its abort. -/
def execPollResponse (port : CanPort) (a : Answer) (s : State) : Host.Outcome State Fault Refusal :=
  match s.node.client.get port with
  | none => .next s
  | some e =>
    if pollRuns s then
      .next (match a with
        | .data value => pollDone s port e value
        | .abort _ => pollFail s port e)
    else .next s

/-- POLL_TIMEOUT: no answer within 0x4081 ms. -/
def execPollTimeout (port : CanPort) (s : State) : Host.Outcome State Fault Refusal :=
  match s.node.client.get port with
  | none => .next s
  | some e => .next (if pollRuns s then pollFail s port e else s)

end Sys2Proof.Machine
end

