-- ==== Sys2Proof/Machine/Apps.lean ====
section
/-!
DEFINITION. Registration and images of control-held objects (R103, R104, R108).
-/

namespace Sys2Proof.Machine

/-- A registration record of 8 bytes (R103). -/
def regOf (b : Bytes) : Reg :=
  let f := (byteAt b 3).toNat
  { index := BitVec.ofNat 16 (fieldLE b 0 2), highest := byteAt b 2, access := BitVec.ofNat 3 f,
    rank := BitVec.ofNat 2 (f / 8), map := bitOf f 5, size := BitVec.ofNat 16 (fieldLE b 4 2),
    dtype := BitVec.ofNat 16 (fieldLE b 6 2) }

/-- Fields in range: access 0-5, rank 0-1, bits [7:6] zero, size 1-888. -/
def regFieldsOk (b : Bytes) : Bool :=
  let f := (byteAt b 3).toNat
  let z := fieldLE b 4 2
  decide (f % 8 ≤ 5) && decide (f / 8 % 4 ≤ 1) && decide (f / 64 = 0) && decide (1 ≤ z) && decide (z ≤ 888)

/-- Objects of 0x4000-0x43FF that the MGC itself serves: the USDO client (log 37). -/
def mgcClientIndex (i : Nat) : Bool := decide (0x4080 ≤ i) && decide (i ≤ 0x4082)

/-- Why a registration record is refused, 0 for accepted (R104). -/
def regRefuse (regs : List Reg) (b : Bytes) : Nat :=
  let i := fieldLE b 0 2
  if i < 0x2800 ∨ 0x43FF < i then 1
  else if mgcClientIndex i || regs.any (fun r => r.index.toNat == i) then 2
  else if regFieldsOk b then 0 else 3

/-- Records taken in order up to the first refused one: accepted, first refused index, reason. -/
def regAll : Nat → Bytes → List Reg → Nat → (Nat × Nat × Nat) × List Reg
  | 0, _, rs, k => ((k, 0, 0), rs)
  | n + 1, b, rs, k =>
    match regRefuse rs b with
    | 0 => regAll n (b.drop 8) (rs ++ [regOf b]) (k + 1)
    | e => ((k, fieldLE b 0 2, e), rs)

/-- Records withdrawn in order; an index that is not registered is refused as a bad field (log 37). -/
def unregAll : Nat → Bytes → List Reg → Nat → (Nat × Nat × Nat) × List Reg
  | 0, _, rs, k => ((k, 0, 0), rs)
  | n + 1, b, rs, k =>
    let i := fieldLE b 0 2
    if i < 0x2800 ∨ 0x43FF < i then ((k, i, 1), rs)
    else if rs.any (fun r => r.index.toNat == i) then
      unregAll n (b.drop 8) (rs.filter fun r => r.index.toNat != i) (k + 1)
    else ((k, i, 3), rs)

/-- A message of 1 to 111 whole records. -/
def recordsOk (p : Bytes) : Bool :=
  decide (p.length % 8 = 0) && decide (1 ≤ p.length / 8) && decide (p.length / 8 ≤ 111)

/-- APP_REG_RSP (R104). -/
def appRsp (s : State) (tag : W16) (r : Nat × Nat × Nat) : State :=
  m2cSend s { kind := 0x82, tag := tag,
              payload := [BitVec.ofNat 8 r.1, 0] ++ toLE 2 r.2.1 ++ [BitVec.ofNat 8 r.2.2] }

/-- APP_REG. -/
def execAppReg (s : State) : Host.Outcome State Fault Refusal :=
  match takeMsg s 0x02 with
  | none => .next s
  | some (m, t) =>
    if recordsOk m.payload then
      let (r, rs) := regAll (m.payload.length / 8) m.payload t.node.regs 0
      .next (appRsp { t with node.regs := rs } m.tag r)
    else .next (appRsp t m.tag (0, fieldLE m.payload 0 2, 3))

/-- APP_UNREG: the images of withdrawn objects go with them. -/
def execAppUnreg (s : State) : Host.Outcome State Fault Refusal :=
  match takeMsg s 0x03 with
  | none => .next s
  | some (m, t) =>
    if recordsOk m.payload then
      let (r, rs) := unregAll (m.payload.length / 8) m.payload t.node.regs 0
      .next (appRsp { t with
        node.regs := rs,
        node.images := t.node.images.filter fun e => rs.any fun g => g.index.toNat == e.1 / 256 } m.tag r)
    else .next (appRsp t m.tag (0, fieldLE m.payload 0 2, 3))

/-- IMAGE_UPDATE: a DICT_RSP with TAG 0 and status 0 replaces the image of an object registered with
MAP = 1, and TPDOs that map it see a change (R108, R111). -/
def execImageUpdate (s : State) : Host.Outcome State Fault Refusal :=
  match takeMsgIf s fun m => m.kind == 0x01 && m.tag == 0 && byteAt m.payload 3 == 0 with
  | none => .next s
  | some (m, t) =>
    let i := fieldLE m.payload 0 2
    let sub := (byteAt m.payload 2).toNat
    let v := slice m.payload 8 (min 888 (fieldLE m.payload 4 4))
    if t.node.regs.any fun r => r.index.toNat == i && r.map then
      let t := { t with node.images := Tbl.write (fun _ => []) t.node.images (odKey i sub) v }
      .next (tpdoScan t (fun _ => true) fun e => e.index == i && e.sub == sub)
    else .next t

end Sys2Proof.Machine
end

