-- ==== Sys2Proof/Machine/Ram.lean ====
section
/-!
DEFINITION. The access control table's check (R510 to R518) and accesses to memory proper: DRAM, Loft,
TCMs, Cleat A ring entries and Cleat B slots (R381 to R395). Registers are reached in Bus.lean.
-/

namespace Sys2Proof.Machine

/-- Why a transaction ends in a bus error (R15, R382, R386, R389, R393, R425, R518). -/
inductive BusErr where
  | unmapped
  | planeOff
  | shroud
  | noRoute
  | ecc
  | act
  deriving DecidableEq, Repr

/-! ## ACT entries (Table 14-10) -/

def actBase (e : W128) : Nat := bits e.toNat 0 29 * 4096
def actPages (e : W128) : Nat := bits e.toNat 32 29
def actMask (e : W128) (bit : Nat) : Bool := e.getLsbD (64 + bit)

/-- An entry covers an address and names an initiator. -/
def actCovers (e : W128) (init a : Nat) : Bool :=
  decide (actBase e ≤ a) && decide (a < actBase e + actPages e * 4096) && actMask e init

/-- The governing entry of a byte: the highest-numbered that covers it and names the initiator (R510). -/
def actGovern (t : Tbl W128) (init a : Nat) : Option (Nat × W128) :=
  t.foldl (fun g e => if actCovers e.2 init a then some e else g) none

/-- Kinds of access, numbered as the denial log numbers them (R518). -/
def accLoad : Nat := 0
def accStore : Nat := 1
def accFetch : Nat := 2
def accAtomic : Nat := 3
def accQst : Nat := 4

/-- What an entry allows (R510). -/
def actAllows (e : W128) (acc : Nat) : Bool :=
  let r := e.getLsbD 96
  let w := e.getLsbD 97
  match acc with
  | 0 => r
  | 1 => w
  | 2 => e.getLsbD 98
  | 3 => r && w
  | _ => w && e.getLsbD 100

/-- The first byte of a transaction that is denied, with its governing entry's number or 0xFFFF. -/
def actDenied (t : Tbl W128) (init acc a : Nat) : Nat → Option (Nat × Nat)
  | 0 => none
  | n + 1 =>
    match actGovern t init a with
    | none => some (a, 0xFFFF)
    | some (k, e) => if actAllows e acc then actDenied t init acc (a + 1) n else some (a, k)

/-- A transaction is DEVICE when any of its bytes is governed by a DEVICE entry (R511). -/
def actDevice (t : Tbl W128) (init a : Nat) : Nat → Bool
  | 0 => false
  | n + 1 =>
    (match actGovern t init a with
      | some (_, e) => e.getLsbD 101
      | none => false) || actDevice t init (a + 1) n

/-- A denial: a 16-byte record in the log of 16, a count, and EMCY 0xFF08 at most once per second (R518). -/
def actDeny (s : State) (init acc entry a : Nat) : State :=
  let r : Bytes := [BitVec.ofNat 8 init, BitVec.ofNat 8 acc] ++ toLE 2 entry ++ toLE 6 a ++ [0, 0]
    ++ toLE 4 ((ntNow s.pht).toNat % 2 ^ 32)
  let l := s.act.log ++ [r]
  raiseLimited { s with act.log := l.drop (l.length - 16), act.denials := s.act.denials + 1 }
    0xFF08 0 0xFF [BitVec.ofNat 8 init]

/-- The ACT's answer to a transaction of n bytes: allowed, or the state with the denial recorded. No
initiator but the MGC reaches management space (R383). -/
def actCheck (s : State) (init acc a n : Nat) : Option State :=
  if mgmtBase ≤ a then some (actDeny s init acc 0xFFFF a)
  else
    match actDenied s.act.force init acc a n with
    | none => none
    | some (b, k) => some (actDeny s init acc k b)

/-- UNIT of an initiator whose check station a fence closes (R31); none for the others. -/
def initUnit (init : Nat) : Option Nat :=
  if init < 16 then some init
  else if init = 16 then some 0x10
  else if init = 18 then some 0x13
  else if init = 19 then some 0x18
  else if init = 20 then some 0x19
  else none

def initFenced (s : State) (init : Nat) : Bool :=
  match initUnit init with
  | some u => unitFenced s u
  | none => false

/-! ## Memory regions -/

/-- Usable DRAM bytes (R392). -/
def dramUsable (s : State) : Nat :=
  let f := Config.fittedGiB * 2 ^ 30
  if s.ddr.cfg.getLsbD 5 then f / 8 * 7 else f

def loftSize : Nat := 0x1800000
def loftHalf : Nat := 0xC00000

/-- An address lies in memory proper (not in a register block). -/
def isRam (a : Nat) : Bool :=
  decide (a < periBase) || (decide (c2mRing ≤ a) && decide (a < m2cRing + 0x1000))
    || (decide (clbSlots ≤ a) && decide (a < clbSlots + 0x20000))

/-- Why n bytes of memory proper at a cannot be reached, none when they can (R15, R382, R388, R392, R395). -/
def ramErr (s : State) (a n : Nat) : Option BusErr :=
  let last := a + (n - 1)
  if a < loftBase then
    if dramUsable s ≤ last then some .unmapped
    else if domUp s 14 && s.ddr.ready && !s.ddr.exiting then none else some .planeOff
  else if a < tcmBase then
    let o := last - loftBase
    if loftSize ≤ o then some .unmapped
    else if !domUp s 12 then some .planeOff
    else if loftHalf ≤ o && !domUp s 13 then some .planeOff else none
  else if a < periBase then
    let o := (a - tcmBase) % 0x200000
    let c := (a - tcmBase) / 0x200000
    if 16 ≤ c then some .unmapped
    else if o + n ≤ 0x100000 ∨ (0x100000 ≤ o ∧ o + n ≤ 0x120000) then
      (if domUp s (sparDom (Fin.ofNat 16 c)) then none else some .planeOff)
    else some .unmapped
  else if c2mRing ≤ a ∧ last < m2cRing + 0x1000 then none
  else if clbSlots ≤ a ∧ last < clbSlots + 0x20000 then
    (if domUp s 11 then none else some .planeOff)
  else some .unmapped

/-- A granule of 64 bytes is touched by n bytes at a. -/
def touches (granule a n : Nat) : Bool := decide (granule * 64 < a + n) && decide (a < granule * 64 + 64)

/-- A write of n bytes at a, by whatever initiator, ends the home reservations on the granules it touches
(R417). -/
def noteHomeWrite (s : State) (a n : Nat) : State :=
  { s with fab.homeRes := s.fab.homeRes.filter fun r => !touches r.2.2 a n }

/-- A hart's reservation is lost. -/
def dropResv (s : State) (h : HartId) : State :=
  { s with mast.harts := vmod s.mast.harts h fun x => { x with resv := none } }

/-- A write of n bytes at a by a hart, the PCIe endpoint or an Ethernet MAC ends the harts' reservations on
the granules it touches (R345). -/
def noteMastWrite (s : State) (a n : Nat) : State :=
  { s with mast.harts := s.mast.harts.map fun x =>
      match x.resv with
      | some (.own g) => if touches g a n then { x with resv := none } else x
      | _ => x }

/-- A checked read of memory proper by an initiator. -/
def ramRead (s : State) (init a n : Nat) : Except BusErr Bytes × State :=
  if initFenced s init then (.error .act, s)
  else
    match actCheck s init accLoad a n with
    | some t => (.error .act, t)
    | none =>
      match ramErr s a n with
      | some e => (.error e, s)
      | none => (.ok (s.rd a n), s)

/-- A checked write of memory proper by an initiator; a refused write changes no byte. -/
def ramWrite (s : State) (init a : Nat) (bs : Bytes) : Option BusErr × State :=
  if initFenced s init then (some .act, s)
  else
    match actCheck s init accStore a bs.length with
    | some t => (some .act, t)
    | none =>
      match ramErr s a bs.length with
      | some e => (some e, s)
      | none => (none, noteHomeWrite (s.wr a bs) a bs.length)

/-! ## The ACT's own registers and changes (R513, R514) -/

def actLive (a : Act) : Tbl W128 := if a.bank then a.bank1 else a.bank0
def actShadow (a : Act) : Tbl W128 := if a.bank then a.bank0 else a.bank1

/-- A live entry is written whole; the stations have not applied it yet. -/
def actWriteLive (a : Act) (k : Nat) (e : W128) : Act :=
  let b := if a.bank then { a with bank1 := Tbl.write (fun _ => 0) a.bank1 k e }
           else { a with bank0 := Tbl.write (fun _ => 0) a.bank0 k e }
  { b with pend := true }

def actWriteShadow (a : Act) (k : Nat) (e : W128) : Act :=
  if a.bank then { a with bank0 := Tbl.write (fun _ => 0) a.bank0 k e }
  else { a with bank1 := Tbl.write (fun _ => 0) a.bank1 k e }

/-- COMMIT swaps the banks. -/
def actCommit (a : Act) : Act := { a with bank := !a.bank, pend := true }

/-- COPY copies the live bank into the shadow bank. -/
def actCopy (a : Act) : Act := if a.bank then { a with bank0 := a.bank1 } else { a with bank1 := a.bank0 }

/-- Every station has applied the pending change. -/
def actApply (a : Act) : Act := { a with force := actLive a, pend := false }

/-! ## Cleat C reports and fences (R28 to R31) -/

/-- CLC_LOST after a lost report; the bits of unused codes 0x1C-0x1F are never set. -/
def lostBit (lost : BitVec 40) (unit : Byte) : BitVec 40 :=
  if unit.toNat < 40 ∧ ¬ (0x1C ≤ unit.toNat ∧ unit.toNat ≤ 0x1F) then lost ||| (1#40 <<< unit.toNat) else lost

/-- A report enters the FIFO, or sets its unit's bit of CLC_LOST when the FIFO is full (R29). -/
def cleatCPut (s : State) (r : Report) : State :=
  if s.cleatC.fifo.length < 32 then { s with cleatC.fifo := s.cleatC.fifo ++ [r] }
  else { s with cleatC.lost := lostBit s.cleatC.lost r.unit }

/-- The fence sequencer asserts a unit's line (R30). -/
def fenceLine (s : State) (unit : Nat) : State :=
  { s with cleatC.lines := s.cleatC.lines ||| (1#40 <<< unit) }

end Sys2Proof.Machine
end

