-- ==== Sys2Proof/Machine/Jpeg.lean ====
section
/-!
DEFINITION. JPEG headers (R148, R156), pixels and normalisation (R162, R163), and the bytes of a tensor row.
-/

namespace Sys2Proof.Machine

/-! ## Markers (ISO/IEC 10918-1) -/

/-- The next marker from an offset on: where it stands and its code. Stuffed zeros and fill bytes are passed. -/
def nextMarker (bs : Bytes) : Nat → Nat → Option (Nat × Nat)
  | 0, _ => none
  | fuel + 1, i =>
    let m := (byteAt bs (i + 1)).toNat
    if bs.length ≤ i + 1 then none
    else if byteAt bs i = 0xFF ∧ m ≠ 0 ∧ m ≠ 0xFF then some (i, m)
    else nextMarker bs fuel (i + 1)

def isRst (m : Nat) : Bool := decide (0xD0 ≤ m) && decide (m ≤ 0xD7)

/-- A byte lies in one of the ranges. -/
def inRanges (gs : List (Nat × Nat)) (i : Nat) : Bool := gs.any fun g => decide (g.1 ≤ i) && decide (i < g.1 + g.2)

/-- The bytes with those of missing ranges as 0, so that no marker is seen there. -/
def maskGaps (bs : Bytes) (gs : List (Nat × Nat)) : Bytes :=
  bs.zipIdx.map fun p => if inRanges gs p.2 then 0 else p.1

/-! ## Headers -/

/-- Outcome of parsing: the headers, or the status UNSUPPORTED 3 or CORRUPT 5. -/
inductive JpegParse where
  | ok (i : JpegInfo)
  | bad (status : Nat)
  deriving DecidableEq, Repr

/-- A component of a frame header: identifier, sampling factors, quantisation table. -/
structure SofComp where
  id : Nat
  samp : Nat
  tq : Nat
  deriving DecidableEq, Repr

/-- What the segments so far have set. -/
structure JpegHead where
  quants : List (Nat × List Nat)
  huffs : List (Nat × HuffTab)
  restart : Nat
  size : Nat × Nat
  comps : List SofComp
  deriving DecidableEq, Repr

def JpegHead.empty : JpegHead := { quants := [], huffs := [], restart := 0, size := (0, 0), comps := [] }

/-- A frame header's components: 1, or 3 with Cb and Cr 1×1 and Y 1×1, 2×1 or 2×2; 8-bit samples and a height,
since DNL is not supported (R156). -/
def sofInfo (seg : Bytes) (hd : JpegHead) : Option JpegHead :=
  let h := fieldBE seg 1 2
  let n := (byteAt seg 5).toNat
  let cs := (List.range n).map fun i =>
    ({ id := (byteAt seg (6 + 3 * i)).toNat, samp := (byteAt seg (7 + 3 * i)).toNat,
       tq := (byteAt seg (8 + 3 * i)).toNat } : SofComp)
  let s : Nat → Nat := fun i => (cs.map fun c => c.samp).getD i 0
  if (byteAt seg 0).toNat ≠ 8 ∨ seg.length < 6 + 3 * n ∨ h = 0 ∨ hd.comps ≠ [] then none
  else if n = 1 ∨ (n = 3 ∧ s 1 = 0x11 ∧ s 2 = 0x11 ∧ (s 0 = 0x11 ∨ s 0 = 0x21 ∨ s 0 = 0x22)) then
    some { hd with size := (fieldBE seg 3 2, h), comps := cs }
  else none

/-- Quantisation tables of a DQT segment, of 8 or 16 bits: status 0, or CORRUPT. -/
def dqtTables : Nat → Bytes → JpegHead → Nat × JpegHead
  | 0, _, hd => (0, hd)
  | fuel + 1, seg, hd =>
    match seg with
    | [] => (0, hd)
    | b :: t =>
      let w := b.toNat / 16 + 1
      if 2 < w ∨ 3 < b.toNat % 16 ∨ t.length < 64 * w then (5, hd)
      else
        dqtTables fuel (t.drop (64 * w))
          { hd with quants := (b.toNat % 16, (List.range 64).map fun i => fieldBE t (w * i) w) :: hd.quants }

/-- Huffman tables of a DHT segment, up to 4 DC and 4 AC (R156); the key is the class and number of DHT. -/
def dhtTables : Nat → Bytes → JpegHead → Nat × JpegHead
  | 0, _, hd => (0, hd)
  | fuel + 1, seg, hd =>
    match seg with
    | [] => (0, hd)
    | b :: t =>
      let counts := (t.take 16).map fun x => x.toNat
      let n := counts.foldl (· + ·) 0
      if 1 < b.toNat / 16 ∨ 3 < b.toNat % 16 then (3, hd)
      else if t.length < 16 + n then (5, hd)
      else
        dhtTables fuel (t.drop (16 + n))
          { hd with huffs := (b.toNat, { counts := counts, syms := (slice t 16 n).map fun x => x.toNat }) :: hd.huffs }

/-- The tables that a scan header names for one component, none when one is missing. -/
def compTab (hd : JpegHead) (seg : Bytes) (n : Nat) (c : SofComp) : Option CompTab := do
  let k ← (List.range n).find? fun k => (byteAt seg (1 + 2 * k)).toNat == c.id
  let sel := (byteAt seg (2 + 2 * k)).toNat
  let q ← hd.quants.lookup c.tq
  let dc ← hd.huffs.lookup (sel / 16)
  let ac ← hd.huffs.lookup (16 + sel % 16)
  pure { quant := q, dc := dc, ac := ac }

/-- The headers complete at a scan header: one interleaved scan of every component, its tables all present. -/
def sosInfo (hd : JpegHead) (seg : Bytes) (scan : Nat) : JpegParse :=
  let n := (byteAt seg 0).toNat
  let s := match hd.comps with
    | c :: _ :: _ => c.samp
    | _ => 0x11
  if hd.comps = [] then .bad 5
  else if n ≠ hd.comps.length then .bad 3
  else
    match hd.comps.mapM (compTab hd seg n) with
    | none => .bad 5
    | some ts => .ok { width := hd.size.1, height := hd.size.2, mcuW := 8 * (s / 16), mcuH := 8 * (s % 16),
                       scan := scan, restart := hd.restart, tabs := ts, lost := false }

/-- The headers as far as the frame header, when the scan header lies in a gap. -/
def lostInfo (hd : JpegHead) (scan : Nat) : JpegParse :=
  let s := match hd.comps with
    | c :: _ :: _ => c.samp
    | _ => 0x11
  if hd.comps = [] then .bad 5
  else
    .ok { width := hd.size.1, height := hd.size.2, mcuW := 8 * (s / 16), mcuH := 8 * (s % 16), scan := scan,
          restart := hd.restart, lost := true,
          tabs := hd.comps.map fun _ => { quant := [], dc := { counts := [], syms := [] }, ac := { counts := [], syms := [] } } }

/-- Segments from an offset on, up to the first scan. A gap before the SOS marker gives CORRUPT (R146). -/
def jpegMarkers (bs : Bytes) (gaps : List (Nat × Nat)) : Nat → Nat → JpegHead → JpegParse
  | 0, _, _ => .bad 5
  | fuel + 1, o, hd =>
    let m := (byteAt bs (o + 1)).toNat
    if bs.length < o + 4 ∨ byteAt bs o ≠ 0xFF then .bad 5
    else if m = 0xFF then jpegMarkers bs gaps fuel (o + 1) hd
    else
      let len := fieldBE bs (o + 2) 2
      let seg := slice bs (o + 4) (len - 2)
      let next := o + 2 + len
      if m = 0xDA ∧ gaps.any (fun g => decide (g.1 < next) && decide (o + 2 ≤ g.1)) then lostInfo hd (o + 2)
      else if len < 2 ∨ bs.length < next then .bad 5
      else if m = 0xC0 ∨ m = 0xC1 then
        match sofInfo seg hd with
        | some i => jpegMarkers bs gaps fuel next i
        | none => .bad 3
      else if m = 0xDA then sosInfo hd seg next
      else if m = 0xDB then
        match dqtTables seg.length seg hd with
        | (0, i) => jpegMarkers bs gaps fuel next i
        | (e, _) => .bad e
      else if m = 0xC4 then
        match dhtTables seg.length seg hd with
        | (0, i) => jpegMarkers bs gaps fuel next i
        | (e, _) => .bad e
      else if m = 0xDD then jpegMarkers bs gaps fuel next { hd with restart := fieldBE seg 0 2 }
      else if m = 0xFE ∨ (0xE0 ≤ m ∧ m ≤ 0xEF) then jpegMarkers bs gaps fuel next hd
      else .bad 3

/-- Where the first SOS marker stands, found by the lengths of the segments before it. -/
def sosAt (bs : Bytes) : Nat → Nat → Option Nat
  | 0, _ => none
  | fuel + 1, o =>
    let m := (byteAt bs (o + 1)).toNat
    if bs.length < o + 2 ∨ byteAt bs o ≠ 0xFF then none
    else if m = 0xFF then sosAt bs fuel (o + 1)
    else if m = 0xDA then some o
    else if bs.length < o + 4 ∨ fieldBE bs (o + 2) 2 < 2 then none
    else sosAt bs fuel (o + 2 + fieldBE bs (o + 2) 2)

/-- What follows the first scan: a second scan or a DNL marker is UNSUPPORTED (R156). -/
def tailStatus (bs : Bytes) : Nat → Nat → Nat
  | 0, _ => 0
  | fuel + 1, o =>
    match nextMarker bs bs.length o with
    | none => 0
    | some (p, m) =>
      if m = 0xD9 then 0
      else if m = 0xDA ∨ m = 0xDC then 3
      else if isRst m then tailStatus bs fuel (p + 2)
      else tailStatus bs fuel (p + 2 + fieldBE bs (p + 2) 2)

/-- The headers of a JPEG stream with its missing ranges (R146, R156). -/
def jpegParse (data : Bytes) (gaps : List (Nat × Nat)) : JpegParse :=
  let known := match gaps with
    | [] => data.length
    | g :: gs => gs.foldl (fun m x => min m x.1) g.1
  let bs := maskGaps data gaps
  if gaps ≠ [] ∧ sosAt (data.take known) data.length 2 = none then .bad 5
  else if byteAt bs 0 ≠ 0xFF ∨ byteAt bs 1 ≠ 0xD8 then .bad 5
  else
    match jpegMarkers bs gaps bs.length 2 JpegHead.empty with
    | .bad e => .bad e
    | .ok i => if tailStatus bs bs.length i.scan = 3 then .bad 3 else .ok i

/-! ## RTP/JPEG tables (RFC 2435) -/

/-- The luminance quantisers that Q scales, in zigzag order. -/
def rtpLuma : List Nat :=
  [16, 11, 12, 14, 12, 10, 16, 14, 13, 14, 18, 17, 16, 19, 24, 40] ++
  [26, 24, 22, 22, 24, 49, 35, 37, 29, 40, 58, 51, 61, 60, 57, 51] ++
  [56, 55, 64, 72, 92, 78, 64, 68, 87, 69, 55, 56, 80, 109, 81, 87] ++
  [95, 98, 103, 104, 103, 62, 77, 113, 121, 112, 100, 120, 92, 101, 103, 99]

/-- The chrominance quantisers. -/
def rtpChroma : List Nat :=
  [17, 18, 18, 24, 21, 24, 47, 26, 26, 47, 99, 66, 56, 66] ++ List.replicate 50 99

/-- The quantisers for Q 1-99. -/
def rtpQuant (base : List Nat) (q : Nat) : List Nat :=
  let f := if q < 50 then 5000 / q else 200 - 2 * q
  base.map fun x => max 1 (min 255 ((x * f + 50) / 100))

/-- n numbers from a on. -/
def upFrom (a n : Nat) : List Nat := (List.range n).map fun i => a + i

/-- The typical Huffman tables of ISO/IEC 10918-1 Annex K, which RFC 2435 prescribes. -/
def stdLumaDc : HuffTab := { counts := [0, 1, 5] ++ List.replicate 6 1 ++ List.replicate 7 0, syms := upFrom 0 12 }

def stdChromaDc : HuffTab := { counts := [0, 3] ++ List.replicate 9 1 ++ List.replicate 5 0, syms := upFrom 0 12 }

def stdLumaAc : HuffTab :=
  { counts := [0, 2, 1, 3, 3, 2, 4, 3, 5, 5, 4, 4, 0, 0, 1, 125],
    syms := [0x01, 0x02, 0x03, 0x00, 0x04, 0x11, 0x05, 0x12, 0x21, 0x31, 0x41, 0x06, 0x13, 0x51, 0x61, 0x07] ++
      [0x22, 0x71, 0x14, 0x32, 0x81, 0x91, 0xA1, 0x08, 0x23, 0x42, 0xB1, 0xC1, 0x15, 0x52, 0xD1, 0xF0] ++
      [0x24, 0x33, 0x62, 0x72, 0x82, 0x09, 0x0A] ++ upFrom 0x16 5 ++ upFrom 0x25 6 ++ upFrom 0x34 7 ++
      (upFrom 4 5).flatMap (fun h => upFrom (16 * h + 3) 8) ++ (upFrom 9 5).flatMap (fun h => upFrom (16 * h + 2) 9) ++
      upFrom 0xE1 10 ++ upFrom 0xF1 10 }

def stdChromaAc : HuffTab :=
  { counts := [0, 2, 1, 2, 4, 4, 3, 4, 7, 5, 4, 4, 0, 1, 2, 119],
    syms := [0x00, 0x01, 0x02, 0x03, 0x11, 0x04, 0x05, 0x21, 0x31, 0x06, 0x12, 0x41, 0x51, 0x07, 0x61, 0x71] ++
      [0x13, 0x22, 0x32, 0x81, 0x08, 0x14, 0x42, 0x91, 0xA1, 0xB1, 0xC1, 0x09, 0x23, 0x33, 0x52, 0xF0] ++
      [0x15, 0x62, 0x72, 0xD1, 0x0A, 0x16, 0x24, 0x34, 0xE1, 0x25, 0xF1] ++ upFrom 0x17 4 ++ upFrom 0x26 5 ++
      upFrom 0x35 6 ++ (upFrom 4 4).flatMap (fun h => upFrom (16 * h + 3) 8) ++
      (upFrom 8 6).flatMap (fun h => upFrom (16 * h + 2) 9) ++ upFrom 0xE2 9 ++ upFrom 0xF2 9 }

/-- The headers of an RTP frame: types 0 and 64 are 4:2:2, 1 and 65 are 4:2:0; its scan starts at byte 0 (R148).
Without the tables of a lost first packet nothing can be decoded. -/
def rtpInfo (w h : Nat) (p : RtpParams) : JpegInfo :=
  let quants : List Nat := match p.tables with
    | some t => t.map fun (x : Byte) => x.toNat
    | none => rtpQuant rtpLuma p.q ++ rtpQuant rtpChroma p.q
  let luma : CompTab := { quant := quants.take 64, dc := stdLumaDc, ac := stdLumaAc }
  let chroma : CompTab := { quant := (quants.drop 64).take 64, dc := stdChromaDc, ac := stdChromaAc }
  { width := w, height := h, mcuW := 16, mcuH := if p.ty % 2 = 0 then 8 else 16, scan := 0, restart := p.restart,
    tabs := [luma, chroma, chroma], lost := decide (128 ≤ p.q) && p.tables.isNone }

/-! ## Pixels -/

/-- Clamp to 0-255. -/
def clamp8 (x : Int) : Nat := (max 0 (min 255 x)).toNat

/-- R162: red, green, blue of a YCbCr pixel. -/
def ycc2rgb (y cb cr : Nat) : List Nat :=
  let b : Int := (cb : Int) - 128
  let r : Int := (cr : Int) - 128
  [clamp8 (y + (359 * r + 128) / 256), clamp8 (y - (88 * b + 183 * r - 128) / 256),
   clamp8 (y + (454 * b + 128) / 256)]

/-- Channels a pixel produces under COLOUR: 0 RGB, 1 YCbCr, 2 Y, 3 raw. -/
def colourOf (colour y cb cr : Nat) : List Nat :=
  match colour with
  | 0 => ycc2rgb y cb cr
  | 1 => [y, cb, cr]
  | _ => [y]

/-- Division by 2^n, rounded half to even. -/
def roundHalfEven (t : Int) (n : Nat) : Int :=
  let d : Int := 2 ^ n
  let q := t / d
  let r := t % d
  if 2 * r > d ∨ (2 * r = d ∧ q % 2 = 1) then q + 1 else q

/-- Saturation to a signed byte. -/
def satS8 (x : Int) : Int := max (-128) (min 127 x)

/-- R163: one channel normalised with the six bytes of its set. -/
def normalise (p : Bytes) (x : Nat) : Byte :=
  let t := ((x : Int) - (byteAt p 0).toNat) * sext 16 (fieldLE p 2 2)
  let q := roundHalfEven t (bits (byteAt p 1).toNat 0 4) + (byteAt p 4).toInt
  BitVec.ofInt 8 (satS8 q)

/-- The bytes of one pixel in a layout of 16 or 32 channels. -/
def pixelBytes (norm : Bytes) (lanes : Nat) (ch : List Nat) : Bytes :=
  padTo lanes (ch.zipIdx.map fun (x, c) => normalise (slice norm (6 * c) 6) x)

/-- A raw row of CSI-2 pixels as numbers (MIPI CSI-2 packing of RAW8, RAW10, RAW12). -/
def rawPixels (dt : Nat) (bs : Bytes) : List Nat :=
  if dt = 0x2A then bs.map fun b => b.toNat
  else if dt = 0x2B then
    (List.range (bs.length / 5 * 4)).map fun i =>
      (byteAt bs (i / 4 * 5 + i % 4)).toNat * 4 + bits (byteAt bs (i / 4 * 5 + 4)).toNat (2 * (i % 4)) 2
  else
    (List.range (bs.length / 3 * 2)).map fun i =>
      (byteAt bs (i / 2 * 3 + i % 2)).toNat * 16 + bits (byteAt bs (i / 2 * 3 + 2)).toNat (4 * (i % 2)) 4

/-- A weighted mean of whole numbers, whose rounding the spec does not state: down or up, left open (log 6). -/
def roundOpen (num den : Nat) (args : List Nat) : Nat :=
  num / den + (if num % den = 0 then 0 else Config.freeOf .jpegSample (num :: den :: args) % 2)

/-- A chroma value at pixel x of a YUV422 row: replicated, or by centred linear interpolation (the stages before
R162). -/
def chromaAt (ups : Bool) (cs : List Nat) (x : Nat) : Nat :=
  let i := x / 2
  let c := cs.getD i 128
  let nb := if x % 2 = 0 then cs.getD (i - 1) c else cs.getD (i + 1) c
  if ups then roundOpen (3 * c + nb) 4 [x % 2] else c

/-- A YUV422 8-bit row (U Y V Y) as (y, cb, cr) triples. -/
def yuvPixels (ups : Bool) (bs : Bytes) : List (Nat × Nat × Nat) :=
  let n := bs.length / 4 * 2
  let us := (List.range (bs.length / 4)).map fun i => (byteAt bs (4 * i)).toNat
  let vs := (List.range (bs.length / 4)).map fun i => (byteAt bs (4 * i + 2)).toNat
  (List.range n).map fun x => ((byteAt bs (2 * x + 1)).toNat, chromaAt ups us x, chromaAt ups vs x)

end Sys2Proof.Machine
end

