-- ==== Sys2Proof/Machine/JpegScan.lean ====
section
/-!
DEFINITION. The scan of a JPEG frame as a JDU decodes it: Huffman codes, restart intervals, damage, dequantised
blocks, the inverse DCT and the samples of the scaled image (R156, R158 to R160, R166; ISO/IEC 10918-1).
-/

namespace Sys2Proof.Machine

/-! ## Bits and codes -/

/-- Entropy-coded bytes without their stuffed zeros. -/
def unstuff : Bytes → Bytes
  | [] => []
  | [b] => [b]
  | b :: c :: t => if b = 0xFF ∧ c = 0 then b :: unstuff t else b :: unstuff (c :: t)

/-- The bits of bytes, most significant first. -/
def bitList (bs : Bytes) : List Bool := bs.flatMap fun b => (List.range 8).map fun i => b.getLsbD (7 - i)

/-- Why decoding stops: a code no table has, or no bits left. -/
inductive ScanStop where
  | badCode
  | noBits
  deriving DecidableEq, Repr

/-- The next symbol: codes of each length in turn, the first code of a length and its symbol's place. -/
def huffWalk (syms : List Nat) : List Nat → Nat → Nat → Nat → List Bool → Except ScanStop (Nat × List Bool)
  | [], _, _, _, _ => .error .badCode
  | _ :: _, _, _, _, [] => .error .noBits
  | n :: ns, code, first, place, b :: bs =>
    let code := 2 * code + b2n b
    if code < first + n then
      match syms[place + (code - first)]? with
      | some v => .ok (v, bs)
      | none => .error .badCode
    else huffWalk syms ns code (2 * (first + n)) (place + n) bs

def huffSym (h : HuffTab) (bs : List Bool) : Except ScanStop (Nat × List Bool) := huffWalk h.syms h.counts 0 0 0 bs

/-- The next n bits as a number. -/
def takeBits (n : Nat) (bs : List Bool) : Except ScanStop (Nat × List Bool) :=
  if bs.length < n then .error .noBits else .ok ((bs.take n).foldl (fun a b => 2 * a + b2n b) 0, bs.drop n)

/-- The value of n additional bits: those below half the range are negative. -/
def extended (n v : Nat) : Int := if n = 0 then 0 else if v < 2 ^ (n - 1) then (v : Int) - 2 ^ n + 1 else v

/-! ## Blocks and MCUs -/

/-- AC coefficients after those decoded so far, in zigzag order, up to 64 in all. -/
def acCoefs (h : HuffTab) : Nat → List Int → List Bool → Except ScanStop (List Int × List Bool)
  | 0, cs, bs => .ok (cs, bs)
  | fuel + 1, cs, bs =>
    if 64 ≤ cs.length then .ok (cs, bs)
    else do
      let (rs, bs) ← huffSym h bs
      let run := rs / 16
      let n := rs % 16
      if n = 0 ∧ run = 0 then .ok (cs, bs)
      else if n = 0 ∧ run ≠ 15 then .error .badCode
      else if 64 ≤ cs.length + run then .error .badCode
      else do
        let (v, bs) ← takeBits n bs
        acCoefs h fuel (cs ++ List.replicate run 0 ++ [extended n v]) bs

/-- One block: its dequantised coefficients in zigzag order and the next DC prediction. -/
def decodeBlock (t : CompTab) (pred : Int) (bs : List Bool) : Except ScanStop (List Int × Int × List Bool) := do
  let (n, bs) ← huffSym t.dc bs
  if 15 < n then .error .badCode
  else do
    let (v, bs) ← takeBits n bs
    let dc := pred + extended n v
    let (cs, bs) ← acCoefs t.ac 63 [dc] bs
    pure ((cs.zip t.quant).map fun p => p.1 * p.2, dc, bs)

/-- Blocks of one component in an MCU. -/
def decodeBlocks (t : CompTab) : Nat → Int → List Bool → Except ScanStop (List (List Int) × Int × List Bool)
  | 0, pred, bs => .ok ([], pred, bs)
  | n + 1, pred, bs => do
    let (b, pred, bs) ← decodeBlock t pred bs
    let (rest, pred, bs) ← decodeBlocks t n pred bs
    pure (b :: rest, pred, bs)

/-- The blocks of an MCU, component by component, each with the blocks it has there and its prediction. -/
def decodeMcu : List (CompTab × Nat × Int) → List Bool → Except ScanStop (List (List Int) × List Int × List Bool)
  | [], bs => .ok ([], [], bs)
  | (t, n, pred) :: cs, bs => do
    let (b, p, bs) ← decodeBlocks t n pred bs
    let (rest, ps, bs) ← decodeMcu cs bs
    pure (b ++ rest, p :: ps, bs)

/-- What became of an MCU: its blocks, skipped (R166), or damaged with its kind (R159): 1 HUFF, 2 RST, 3 TRUNC,
4 GAP. -/
inductive McuRes where
  | ok (blocks : List (List Int))
  | skipped
  | bad (kind : Nat)
  deriving DecidableEq, Repr

/-- Up to n MCUs of a restart interval, and what stopped them short. -/
def decodeMcus (comps : List (CompTab × Nat)) : Nat → List Int → List Bool → List McuRes × Option ScanStop
  | 0, _, _ => ([], none)
  | n + 1, preds, bs =>
    match decodeMcu (comps.zip preds |>.map fun p => (p.1.1, p.1.2, p.2)) bs with
    | .error e => ([], some e)
    | .ok (b, preds, bs) =>
      let (rest, e) := decodeMcus comps n preds bs
      (.ok b :: rest, e)

/-! ## The scan -/

/-- Blocks of each component in an MCU: Y has one for each 8×8 of the MCU, the others one. -/
def JpegInfo.blocks (i : JpegInfo) : List (CompTab × Nat) :=
  i.tabs.zipIdx.map fun p => (p.1, if p.2 = 0 then i.mcuW / 8 * (i.mcuH / 8) else 1)

def JpegInfo.mcuCols (i : JpegInfo) : Nat := (i.width + i.mcuW - 1) / i.mcuW
def JpegInfo.mcuRows (i : JpegInfo) : Nat := (i.height + i.mcuH - 1) / i.mcuH

/-- The next correct restart marker from an offset on, where interval k + 1 should start: the intervals its number
says were lost, and the offset after it. A number that would pass the last interval is not correct (log 170). -/
def resync (bs : Bytes) (k left : Nat) : Nat → Nat → Option (Nat × Nat)
  | 0, _ => none
  | fuel + 1, p =>
    match nextMarker bs bs.length p with
    | none => none
    | some (o, m) =>
      if isRst m then
        let d := (m - 0xD0 + 8 - k % 8) % 8
        if d < left then some (d, o + 2) else resync bs k left fuel (o + 2)
      else none

/-- The restart intervals of a scan, from interval k at an offset on; skip says which are not decoded (R166).
Damage runs from the first damaged MCU to the next correct restart marker (R159). -/
def scanFrom (bs : Bytes) (gaps : List (Nat × Nat)) (i : JpegInfo) (skip : Nat → Nat → Bool) (total per count : Nat) :
    Nat → Nat → Nat → List McuRes
  | 0, _, _ => []
  | fuel + 1, k, pos =>
    let n := min per (total - k * per)
    let mk := nextMarker bs bs.length pos
    let stop := match mk with
      | some (o, _) => o
      | none => bs.length
    let gap := gaps.find? fun g => decide (pos < g.1 + g.2)
      && (decide (g.1 < stop) || (mk.isNone && decide (g.1 ≤ stop)))
    let cut := match gap with
      | some g => g.1
      | none => stop
    let body :=
      if skip (k * per) n then List.replicate n .skipped
      else
        let (good, err) := decodeMcus i.blocks n (i.tabs.map fun _ => 0) (bitList (unstuff (slice bs pos (cut - pos))))
        let kind := if err = some .badCode then 1 else if gap.isSome then 4
          else if mk.any fun m => isRst m.2 then 2 else 3
        good ++ List.replicate (n - good.length) (.bad kind)
    let rest := total - k * per - n
    if rest = 0 then body
    else
      let from_ := match gap with
        | some g => g.1 + g.2
        | none => stop
      match resync bs k (count - (k + 1)) bs.length from_ with
      | none => body ++ List.replicate rest (.bad (if gap.isSome then 4 else 3))
      | some (d, p) =>
        body ++ List.replicate (min rest (d * per)) (.bad (if gap.isSome then 4 else 2))
          ++ scanFrom bs gaps i skip total per count fuel (k + 1 + d) p

/-- Every MCU of a frame in raster order. -/
def decodeScan (data : Bytes) (gaps : List (Nat × Nat)) (i : JpegInfo) (skip : Nat → Nat → Bool) : List McuRes :=
  let total := i.mcuCols * i.mcuRows
  let per := if i.restart = 0 then total else i.restart
  let count := if per = 0 then 0 else (total + per - 1) / per
  let sorted := gaps.mergeSort fun a b => decide (a.1 ≤ b.1)
  if i.lost then List.replicate total (.bad 4)
  else
    scanFrom (maskGaps data gaps) sorted i (fun a n => decide (i.restart ≠ 0) && skip a n) total per count count 0 i.scan

/-- Damaged ranges in raster order: first MCU, MCUs, kind. -/
def damageRanges (rs : List McuRes) : List (Nat × Nat × Nat) :=
  (rs.zipIdx.foldl (fun (l : List (Nat × Nat × Nat)) p =>
    match p.1, l with
    | .bad k, (a, n, j) :: t => if j = k ∧ a + n = p.2 then (a, n + 1, j) :: t else (p.2, 1, k) :: l
    | .bad k, [] => [(p.2, 1, k)]
    | _, _ => l) []).reverse

/-- Damaged MCUs. -/
def damageCount (rs : List McuRes) : Nat := ((damageRanges rs).map fun r => r.2.1).foldl (· + ·) 0

/-- An error record: MCU row or line, MCU column, count, kind (Table 4-4); a longer range has the largest count
(log 170). -/
def errorRecord (row col count kind : Nat) : Bytes := toLE 2 row ++ toLE 2 col ++ toLE 2 (min 65535 count) ++ [BitVec.ofNat 8 kind, 0]

/-- The first six damaged ranges (R160). -/
def damageRecords (i : JpegInfo) (rs : List McuRes) : Bytes :=
  padTo 48 (((damageRanges rs).take 6).flatMap fun r => errorRecord (r.1 / i.mcuCols) (r.1 % i.mcuCols) r.2.1 r.2.2)

/-! ## Inverse DCT and samples -/

/-- Row and column frequencies of the zigzag order. -/
def zigzag : List (Nat × Nat) :=
  (List.range 15).flatMap fun d =>
    ((List.range (d + 1)).map fun a => if d % 2 = 0 then (d - a, a) else (a, d - a)).filter fun p =>
      decide (p.1 < 8) && decide (p.2 < 8)

/-- cos(k π / 16) in units of 2^-14. -/
def cos16 (k : Nat) : Int :=
  let q : Nat → Int := fun j => [16384, 16069, 15137, 13623, 11585, 9102, 6270, 3196, 0].getD j 0
  let j := k % 32
  if j ≤ 8 then q j else if j ≤ 16 then - q (16 - j) else if j ≤ 24 then - q (j - 16) else q (32 - j)

/-- The weight of frequency u at position x of an inverse DCT of n points. -/
def idctWeight (n u x : Nat) : Int := if u = 0 then cos16 4 else cos16 ((2 * x + 1) * u * (8 / n))

/-- A sample of a block by an inverse DCT of n points: the reduced one takes the n × n lowest frequencies (R158).
Its precision is left open to one unit (log 6). -/
def idctSample (n : Nat) (cs : List Int) (x y : Nat) : Nat :=
  let sum := (cs.zip zigzag).foldl (fun (a : Int) p =>
    if p.2.1 < n ∧ p.2.2 < n then a + p.1 * idctWeight n p.2.1 y * idctWeight n p.2.2 x else a) 0
  let e := Config.freeOf .jpegSample (n :: x :: y :: cs.map fun c => wrapInt 32 c) % 3
  clamp8 (128 + (sum + 2 ^ 29) / 2 ^ 30 + (e - 1))

/-- A component's sample at a place of its own grid, when its MCU was decoded. -/
def planeSample (i : JpegInfo) (rs : List McuRes) (n k x y : Nat) : Option Nat :=
  let h := if k = 0 then i.mcuW / 8 else 1
  let v := if k = 0 then i.mcuH / 8 else 1
  match rs[y / (n * v) * i.mcuCols + x / (n * h)]? with
  | some (.ok blocks) =>
    let b := if k = 0 then y % (n * v) / n * h + x % (n * h) / n else i.mcuW / 8 * (i.mcuH / 8) + (k - 1)
    some (idctSample n (blocks.getD b []) (x % n) (y % n))
  | _ => none

/-- The neighbour of a chroma sample on the side of pixel x, within the grid. -/
def chromaNeighbour (x f size : Nat) : Nat :=
  if f = 1 then x else min (size - 1) (if x % 2 = 0 then x / 2 - 1 else x / 2 + 1)

/-- A component's sample at pixel (x, y) of the scaled image: chroma by replication or centred linear
interpolation. A neighbour in a damaged or skipped MCU has no value the spec gives: it is left open. -/
def pixelSample (i : JpegInfo) (rs : List McuRes) (n : Nat) (ups : Bool) (k x y : Nat) : Nat :=
  if k = 0 then (planeSample i rs n 0 x y).getD 128
  else
    let fx := i.mcuW / 8
    let fy := i.mcuH / 8
    let own := (planeSample i rs n k (x / fx) (y / fy)).getD 128
    if ups then
      let nx := chromaNeighbour x fx (n * i.mcuCols)
      let ny := chromaNeighbour y fy (n * i.mcuRows)
      let at_ := fun a b => (planeSample i rs n k a b).getD (Config.freeOf .jpegSample [k, a, b] % 256)
      roundOpen (9 * own + 3 * at_ nx (y / fy) + 3 * at_ (x / fx) ny + at_ nx ny) 16 [k, x, y]
    else own

end Sys2Proof.Machine
end

