-- ==== Sys2Proof/Machine/Cap.lean ====
section
/-!
DEFINITION. CAP, the CSI-2 receivers and the JDUs (04_streams_and_input.md).
-/

namespace Sys2Proof.Machine

/-! ## Contexts and slots -/

def capBase : Nat := 0x18000200000

def ctxOf (s : State) (n : Nat) : Ctx := Tbl.read (fun _ => Ctx.reset) s.cap.ctxs n

def ctxPut (s : State) (n : Nat) (c : Ctx) : State :=
  { s with cap.ctxs := Tbl.write (fun _ => Ctx.reset) s.cap.ctxs n c }

def Ctx.en (c : Ctx) : Bool := c.cfg.getLsbD 0
def Ctx.kind (c : Ctx) : Nat := bits c.cfg.toNat 1 3
def Ctx.port (c : Ctx) : Nat := bits c.cfg.toNat 4 4
def Ctx.conceal (c : Ctx) : Nat := bits c.cfg.toNat 8 2
def Ctx.dropOld (c : Ctx) : Bool := c.cfg.getLsbD 10
def Ctx.roiEn (c : Ctx) : Bool := c.cfg.getLsbD 11
def Ctx.scale (c : Ctx) : Nat := bits c.cfg.toNat 12 2
def Ctx.ups (c : Ctx) : Bool := c.cfg.getLsbD 14
def Ctx.nslots (c : Ctx) : Nat := bits c.cfg.toNat 16 8
def Ctx.agrp (c : Ctx) : Nat := bits c.cfg.toNat 24 6
def Ctx.width (c : Ctx) : Nat := bits c.geom.toNat 0 16
def Ctx.height (c : Ctx) : Nat := bits c.geom.toNat 16 16
def Ctx.lanes (c : Ctx) : Nat := if c.tens.getLsbD 0 then 32 else 16
def Ctx.colour (c : Ctx) : Nat := bits c.tens.toNat 1 2
def Ctx.nset (c : Ctx) : Nat := bits c.tens.toNat 3 5
def Ctx.rawsh (c : Ctx) : Nat := bits c.tens.toNat 8 4
def Ctx.tpitch (c : Ctx) : Nat := bits c.tens.toNat 12 20 * 64
def Ctx.lossMs (c : Ctx) : Nat := bits c.timers.toNat 0 16
def Ctx.roiDecay (c : Ctx) : Nat := bits c.timers.toNat 28 4
def Ctx.sgrp (c : Ctx) : Nat := bits c.split.toNat 0 3
/-- Kinds that hold a JPEG stream. -/
def Ctx.isJpeg (c : Ctx) : Bool := c.kind == 1 || c.kind == 2 || c.kind == 6
/-- Slots in a state. -/
def Ctx.count (c : Ctx) (x : SlotSt) : Nat := (c.slots.filter fun t => t.st == x).length

/-- Address of a slot. -/
def Ctx.slotAddr (c : Ctx) (k : Nat) : Nat := c.buf.toNat + k * c.slotSize.toNat

/-- A slot that holds nothing. -/
def CapSlot.empty : CapSlot :=
  { st := .free, order := 0, stamp := [], sense := none, group := 0, decoded := false, done := false, host := false }

def slotAt (c : Ctx) (k : Nat) : CapSlot := c.slots.getD k CapSlot.empty

def slotSet (c : Ctx) (k : Nat) (t : CapSlot) : Ctx := { c with slots := c.slots.set k t }

def slotMod (s : State) (n k : Nat) (f : CapSlot → CapSlot) : State :=
  let c := ctxOf s n
  ctxPut s n (slotSet c k (f (slotAt c k)))

/-- CAP takes samples: PD9 and PD12 granted and clocked, CAP not fenced (R133, R532). -/
def capUp (s : State) : Bool := domRuns s 9 && domRuns s 12 && !unitFenced s 0x13

def capStat (s : State) (i : Fin 8) : State := { s with cap.stats := vmod s.cap.stats i (· + 1) }

/-- CAP writes memory under its own initiator bit. -/
def capStore (s : State) (a : Nat) (bs : Bytes) : State := (ramWrite s 18 a bs).2

/-- A JDU writes memory under theirs. -/
def jduStore (s : State) (a : Nat) (bs : Bytes) : State := (ramWrite s 17 a bs).2

/-- Bytes at an offset of a slot, as CAP stores them. -/
def slotStore (s : State) (n k off : Nat) (bs : Bytes) : State :=
  capStore s ((ctxOf s n).slotAddr k + off) bs

/-! ## Stamps (Table 2-4) -/

/-- The 32-byte stamp taken from the newest phase-bus record (R73, R74). -/
def stampOf (r : PhRecord) (x : PhSide) : Bytes :=
  toLE 8 r.nt.toNat ++ r.phases.toList.flatMap (fun p => toLE 5 p.toNat) ++ [x.status, x.dirs] ++ toLE 2 x.seq.toNat

def stampNow (s : State) : Bytes := stampOf s.pht.record s.pht.side

/-- The stamp of an Ethernet sample: the record's MAC receive timestamp is its network time (R136, Table 4-5), the
phases are those of the newest phase-bus record (log 171). -/
def stampAt (s : State) (nt : Nat) : Bytes := toLE 8 nt ++ (stampNow s).drop 8

def stampNt (st : Bytes) : Nat := fieldLE st 0 8
def stampPhase (st : Bytes) (src : Nat) : Nat := fieldLE st (8 + 5 * src) 5
def stampOk (st : Bytes) (src : Nat) : Bool := bits (byteAt st 0x1C).toNat (2 * src) 2 == 0

/-! ## ROI (R164, R165) -/

/-- Size of the source image at the decoded scale, rounded up (log 40). -/
def decodedSize (c : Ctx) : Nat × Nat :=
  let d := if c.isJpeg then 2 ^ c.scale else 1
  ((c.width + d - 1) / d, (c.height + d - 1) / d)

/-- A ROI: x0, y0, w, h. -/
structure Roi where
  x0 : Nat
  y0 : Nat
  w : Nat
  h : Nat
  deriving DecidableEq, Repr

def roiOf (v : Nat) : Roi := { x0 := bits v 0 16, y0 := bits v 16 16, w := bits v 32 16, h := bits v 48 16 }

/-- A ROI clipped to the image, the row pitch and the slot (R165). -/
def roiClip (c : Ctx) (r : Roi) : Roi :=
  let (iw, ih) := decodedSize c
  { r with w := min r.w (min (iw - r.x0) (c.tpitch / c.lanes)),
           h := min r.h (min (ih - r.y0) (if c.tpitch = 0 then 0 else (c.slotSize.toNat - c.tofs.toNat) / c.tpitch)) }

/-- The whole image at the decoded scale. -/
def roiImage (c : Ctx) : Roi := { x0 := 0, y0 := 0, w := (decodedSize c).1, h := (decodedSize c).2 }

/-- The whole image, clipped as a ROI is. -/
def roiWhole (c : Ctx) : Roi := roiClip c (roiImage c)

/-- The ROI in force at an admission: committed, or the record's default, or the whole image. -/
def roiInForce (c : Ctx) : Roi :=
  if !c.roiEn then roiWhole c
  else
    let dflt := roiOf (c.roi.toNat + c.roisz.toNat * 2 ^ 32)
    let r := match c.roiNow with
      | some v => if c.roiDecay ≠ 0 ∧ c.roiDecay ≤ c.roiAge then dflt else roiOf v.toNat
      | none => dflt
    let k := roiClip c r
    if k.w = 0 ∨ k.h = 0 then roiWhole c else k

def roiBytes (r : Roi) : Bytes := toLE 2 r.x0 ++ toLE 2 r.y0 ++ toLE 2 r.w ++ toLE 2 r.h

/-! ## Alignment keys (R167, R168) -/

def alignCfg (s : State) (g : Nat) : Bytes := padTo 16 (Tbl.read (fun _ => []) s.cap.aligns g)
def alignEn (b : Bytes) : Bool := (byteAt b 0).getLsbD 0
def alignPhase (b : Bytes) : Bool := (byteAt b 0).getLsbD 1
def alignPartial (b : Bytes) : Bool := (byteAt b 0).getLsbD 2
def alignSrc (b : Bytes) : Nat := bits (byteAt b 0).toNat 3 3 % 4
def alignRef (b : Bytes) : Nat := fieldLE b 2 2 % 4096
def alignW (b : Bytes) : Nat := fieldLE b 4 8

/-- A sample's key: SENSE_NT or the stamp's time, or the phase of ALIGN_SRC. -/
def alignKey (b : Bytes) (t : CapSlot) : Nat :=
  if alignPhase b then stampPhase t.stamp (alignSrc b)
  else match t.sense with
    | some v => v.toNat
    | none => stampNt t.stamp

/-- Signed distance of a key from s. -/
def keyDist (b : Bytes) (key s : Nat) : Int :=
  if alignPhase b then (BitVec.ofNat 40 key - BitVec.ofNat 40 s).toInt else (key : Int) - s

/-- Groups whose reference context this is. -/
def refGroups (s : State) (n : Nat) : List Nat :=
  (s.cap.aligns.filter fun e => alignEn (padTo 16 e.2) && alignRef (padTo 16 e.2) == n).map fun e => e.1

/-! ## Split groups (R172 to R174) -/

def splitCfg (s : State) (g : Nat) : Bytes := padTo 24 (Tbl.read (fun _ => []) s.cap.splits g)

/-- Backlog of a group: READY and HELD slots over its contexts, which are those of KINDs 0 to 2 (R172). -/
def splitBacklog (s : State) (g : Nat) : Nat :=
  ((s.cap.ctxs.filter fun e => decide (e.2.kind ≤ 2) && e.2.sgrp == g).map fun e => e.2.count .ready + e.2.count .held).foldl (· + ·) 0

/-- The group's state at an admission, true for HOST (R172). -/
def splitDecide (s : State) (g : Nat) : Bool :=
  let b := splitCfg s g
  let now := (s.cap.splitRt.get (Fin.ofNat 8 g)).host
  match (byteAt b 0).toNat with
  | 1 => false
  | 2 => true
  | _ =>
    let bl := splitBacklog s g
    if !now && decide (fieldLE b 2 2 ≤ bl) then true
    else if now && decide (bl ≤ fieldLE b 4 2) then false else now

/-- One entry of a host ring: 128-byte header and data, padded to 64 bytes, after a PAD header when it
would straddle the end; dropped when it does not fit (R174). A tail of 64 bytes takes the first half of the PAD
header, which its status lies in, so that nothing straddles the end (log 172). -/
def hostRingPut (s : State) (g : Nat) (hdr data : Bytes) : State :=
  let i : Fin 8 := Fin.ofNat 8 g
  let b := splitCfg s g
  let base := fieldLE b 8 8
  let size := fieldLE b 16 4
  let rt := s.cap.splitRt.get i
  let len := (128 + data.length + 63) / 64 * 64
  let wr := rt.wr.toNat
  let tail := size - wr
  let pad := if len ≤ tail then 0 else tail
  let used := if size = 0 then 0 else (wr + size - rt.rd.toNat) % size
  if size = 0 ∨ size ≤ used + pad + len then
    raiseLimited { s with cap.splitRt := vput s.cap.splitRt i { rt with drops := rt.drops + 1 } }
      0xFF33 g 0x13 (toLE 2 g)
  else
    let s := if pad = 0 then s else capStore s (base + wr) (padTo (min 128 pad) (List.replicate 0x24 0 ++ [2, 0]))
    let at_ := if pad = 0 then wr else 0
    let s := capStore s (base + at_) (hdr ++ padTo (len - 128) data)
    { s with cap.splitRt := vput s.cap.splitRt i { rt with wr := BitVec.ofNat 32 ((at_ + len) % size) },
             cap.splitIrq := true }

/-! ## Admission (R139 to R142) -/

/-- The slot a new sample takes: the lowest FREE one, or the oldest READY one outside every alignment set
when DROP_OLD = 1 (R140; log 41). -/
def pickSlot (c : Ctx) : Option Nat :=
  match c.slots.findIdx? (fun t => t.st == .free) with
  | some k => some k
  | none =>
    if c.dropOld then
      let olds := (c.slots.zipIdx.filter fun p => p.1.st == .ready && p.1.group == 0)
      (olds.foldl (fun (b : Option (Nat × Nat)) p =>
        match b with
        | none => some (p.1.order, p.2)
        | some (o, k) => if p.1.order < o then some (p.1.order, p.2) else some (o, k)) none).map fun x => x.2
    else none

/-- A sample that finds no slot is discarded and counted (R140). -/
def overrun (s : State) (n : Nat) : State :=
  let c := ctxOf s n
  raiseLimited (ctxPut s n { c with ovr := c.ovr + 1 }) 0xFF32 n 0x13 (toLE 2 n)

/-- The 128-byte header written at admission (Table 4-4). -/
def slotHeader (c : Ctx) (stamp : Bytes) (sense : Option W64) (roi : Roi) (flags : Nat) : Bytes :=
  padTo 128 (stamp ++ toLE 4 c.admitted.toNat ++ toLE 2 0
    ++ [BitVec.ofNat 8 (flags + b2n sense.isSome + 2 * b2n (decide (roi ≠ roiImage c))), 0]
    ++ toLE 8 (match sense with | some v => v.toNat | none => 0) ++ toLE 4 0 ++ toLE 4 0 ++ roiBytes roi)

/-- A reference sample opens the windows of its groups (R167). -/
def openWindows (s : State) (n : Nat) (t : CapSlot) : State :=
  { s with cap.windows := s.cap.windows ++
      ((refGroups s n).map fun g => ({ group := g, key := alignKey (alignCfg s g) t } : AWindow)) }

/-- Every admission: the context is OK again (R175), and a reference sample opens its windows; a host sample does
so when its push gives it its stamp (R142, R167). -/
def noteAdmission (s : State) (n : Nat) (t : CapSlot) : State :=
  let c := ctxOf s n
  let s := ctxPut s n { c with st := 2, admitted := c.admitted + 1, roiAge := c.roiAge + 1 }
  let s := clearStanding s 0xFF30 n
  if t.host then s else openWindows s n t

/-- A sample is admitted to a slot: FILLING, stamped, its header written (R139, R142). -/
def admitFrame (s : State) (n k : Nat) (stamp : Bytes) (sense : Option W64) (host : Bool) : State :=
  let c := ctxOf s n
  let t : CapSlot := { st := .filling, order := c.admitted.toNat, stamp := stamp, sense := sense,
                       group := 0, decoded := false, done := false, host := host }
  let hdr := slotHeader c stamp sense (roiInForce c) 0
  let s := capStore (ctxPut s n (slotSet c k t)) (c.slotAddr k) hdr
  noteAdmission s n t

/-- A sample is admitted, or discarded when no slot can be taken; the slot taken. -/
def tryAdmit (s : State) (n : Nat) (stamp : Bytes) (sense : Option W64) (host : Bool) :
    Option Nat × State :=
  match pickSlot (ctxOf s n) with
  | some k => (some k, admitFrame s n k stamp sense host)
  | none => (none, overrun s n)

/-- A slot returns to FREE, leaving any set it was in; what was still filling it is abandoned (log 149). -/
def slotFree (s : State) (n k : Nat) : State :=
  let t := slotMod s n k fun _ => CapSlot.empty
  let c := ctxOf t n
  let t := match c.asm with
    | some a => if a.slot = some k then ctxPut t n { c with asm := none } else t
    | none => t
  { t with
    cap.csi := t.cap.csi.filter fun f => !(f.ctx == n && f.slot == k)
    cap.sets := t.cap.sets.map fun x =>
      if (n, k) ∈ x.members then { x with members := x.members.filter (· ≠ (n, k)), missing := true } else x }

/-- A sample's bad status is counted (R141): UNSUPPORTED 3, which raises an EMCY, GEOM 4, CORRUPT 5, INCOMPLETE 6. -/
def noteBad (s : State) (n status : Nat) : State :=
  let s := capStat s 4
  if status = 3 then
    raiseLimited { s with cap.unsupported := true } 0xFF31 n 0x13 (toLE 2 n)
  else s

/-- A sample of bad status never becomes READY: its slot returns to FREE (R141). -/
def slotBad (s : State) (n k status : Nat) : State := noteBad (slotFree s n k) n status

/-- A complete sample becomes READY, or stays HELD in its alignment set (R139, R170). -/
def slotReady (s : State) (n k : Nat) : State :=
  slotMod s n k fun t => { t with st := if t.st = .filling then .ready else t.st, done := true }

/-! ## Byte coverage -/

/-- The furthest end of the ranges that cover a position. -/
def coverEnd (rs : List (Nat × Nat)) (pos : Nat) : Nat :=
  rs.foldl (fun e r => if r.1 ≤ pos ∧ e < r.1 + r.2 then r.1 + r.2 else e) pos

/-- First byte from pos on that no range covers. -/
def firstGap (rs : List (Nat × Nat)) : Nat → Nat → Nat
  | 0, pos => pos
  | f + 1, pos =>
    let e := coverEnd rs pos
    if e = pos then pos else firstGap rs f e

/-- Every byte below len is covered. -/
def covered (rs : List (Nat × Nat)) (len : Nat) : Bool := decide (len ≤ firstGap rs rs.length 0)

/-- The uncovered ranges below len. -/
def gapsOf (rs : List (Nat × Nat)) (len : Nat) : Nat → Nat → List (Nat × Nat)
  | 0, _ => []
  | f + 1, pos =>
    let p := firstGap rs rs.length pos
    if len ≤ p then []
    else
      let nxt := rs.foldl (fun m r => if p < r.1 ∧ r.1 < m then r.1 else m) len
      (p, nxt - p) :: gapsOf rs len f nxt

/-! ## Ends of samples -/

/-- A JPEG frame with a good header waits for a JDU (R157). -/
def jpegQueue (s : State) (n k len : Nat) (gaps : List (Nat × Nat)) (info : JpegInfo) : State :=
  { s with cap.jpegQ := s.cap.jpegQ ++
      [{ ctx := n, slot := k, len := len, gaps := gaps, info := info, row := 0, flip := none }] }

/-- The headers of a complete or closed SFRAME or host JPEG, whose dimensions must be GEOM's (log 149). -/
def jpegStatus (c : Ctx) (data : Bytes) (gaps : List (Nat × Nat)) : JpegParse :=
  match jpegParse data gaps with
  | .bad st => .bad st
  | .ok i => if i.width ≠ c.width ∨ i.height ≠ c.height then .bad 4 else .ok i

/-- A complete or closed SFRAME or host JPEG. -/
def jpegComplete (s : State) (n k len : Nat) (gaps : List (Nat × Nat)) : State :=
  let c := ctxOf s n
  match jpegStatus c (s.rd (c.slotAddr k + 128) len) gaps with
  | .bad st => slotBad s n k st
  | .ok i => jpegQueue (slotReady s n k) n k len gaps i

/-- A complete or closed RTP frame, its headers in its packets (R148). -/
def rtpComplete (s : State) (n k len : Nat) (gaps : List (Nat × Nat)) (p : RtpParams) : State :=
  let c := ctxOf s n
  jpegQueue (slotReady s n k) n k len gaps (rtpInfo c.width c.height p)

/-- The sample's bytes so far, when it was diverted. -/
def asmBytes (a : CapAsm) (len : Nat) : Bytes :=
  (List.range len).map fun i => Tbl.read (fun _ => 0) a.buf i

/-- The status of a diverted sample that ends (Table 4-4): it is not decoded, but its headers are read (R173). -/
def divertedStatus (c : Ctx) (a : CapAsm) (full : Bool) (data : Bytes) (gaps : List (Nat × Nat)) : Nat :=
  if a.bad ≠ 0 then a.bad
  else if c.kind = 0 then (if full then 0 else 6)
  else if c.kind = 1 then
    match jpegStatus c data gaps with
    | .bad st => st
    | .ok _ => 0
  else 0

/-- A diverted sample ends: its header and bytes go to the host ring; a bad status is counted (R141, R173). -/
def divertedEnd (s : State) (n : Nat) (a : CapAsm) (full : Bool) (got : Nat) (data : Bytes) (gaps : List (Nat × Nat)) :
    State :=
  let st := divertedStatus (ctxOf s n) a full data gaps
  let s := if st = 0 then s else noteBad s n st
  hostRingPut s (ctxOf s n).sgrp (overwrite (overwrite a.hdr 0x24 (toLE 2 st)) 0x30 (toLE 4 got)) data

/-- An open sample ends, complete or not (R145, R146, R150, R173). An RTP frame whose last packet is missing ends
in a gap. -/
def asmEnd (s : State) (n : Nat) (a : CapAsm) : State :=
  let c := ctxOf s n
  let got := (a.ranges.map fun r => r.1 + r.2).foldl max 0
  let len := a.len.getD got
  let full := a.len.isSome && covered a.ranges len
  let gaps := (if full then [] else gapsOf a.ranges len (a.ranges.length + 1) 0)
    ++ (if a.len.isNone then [(got, 1)] else [])
  let s := ctxPut s n { c with asm := none }
  match a.slot with
  | none => divertedEnd s n a full got (asmBytes a len) gaps
  | some k =>
    let s := slotStore s n k 0x30 (toLE 4 got)
    if c.kind = 0 then (if full then slotReady s n k else slotBad s n k 6)
    else if c.kind = 1 then jpegComplete s n k len gaps
    else rtpComplete s n k len gaps a.rtp

/-- Bytes of a fragment are placed, and a sample with every byte ends (R145, R150). -/
def asmPlace (s : State) (n : Nat) (a : CapAsm) (off : Nat) (data : Bytes) (last : Option Nat) : State :=
  let a := { a with ranges := a.ranges ++ [(off, data.length)], len := a.len.or last,
                    buf := if a.slot.isNone then
                      (data.zipIdx.foldl (fun t (p : Byte × Nat) => Tbl.write (fun _ => 0) t (off + p.2) p.1) a.buf) else a.buf }
  let s := match a.slot with
    | some k => slotStore s n k (128 + off) data
    | none => s
  match a.len with
  | some l => if covered a.ranges l then asmEnd s n a else ctxPut s n { ctxOf s n with asm := some a }
  | none => ctxPut s n { ctxOf s n with asm := some a }

/-- A sample is discarded at its admission; what follows of it is ignored (R140, R147). -/
def asmRefuse (s : State) (n : Nat) (seq : W32) : State := ctxPut s n { ctxOf s n with refused := some seq }

/-- A new sample is opened in a slot or diverted (R139, R172, R173); a diverted one is admitted too and takes no
slot. The answer is none when it was discarded. -/
def asmOpen (s : State) (n : Nat) (seq : W32) (len : Option Nat) (stamp : Bytes) (sense : Option W64)
    (rtp : RtpParams) : Option CapAsm × State :=
  let c := ctxOf s n
  let mk : Option Nat → CapAsm := fun k =>
    { slot := k, seq := seq, len := len, frags := [], ranges := [], buf := [], stamp := stamp, sense := sense,
      hdr := slotHeader c stamp sense (roiInForce c) 16, rtp := rtp, bad := 0 }
  let newest := fun (t : State) => ctxPut t n { ctxOf t n with newest := some seq }
  let device := fun (t : State) =>
    match tryAdmit t n stamp sense false with
    | (some k, t) => (some (mk (some k)), newest t)
    | (none, t) => (none, asmRefuse t n seq)
  if c.sgrp ≠ 0 then
    let h := splitDecide s c.sgrp
    let s := { s with cap.splitRt := vmod s.cap.splitRt (Fin.ofNat 8 c.sgrp) fun r => { r with host := h } }
    if h then (some (mk none), newest (noteAdmission s n { CapSlot.empty with stamp := stamp, sense := sense }))
    else device s
  else device s

/-! ## Ethernet ingress (R134 to R137) -/

/-- Bytes an ingress record takes in its window. -/
def ingressSize (rec_ : Bytes) : Nat := (rec_.length + 63) / 64 * 64

def ingressUsed (l : List (Bytes × Bytes)) : Nat := (l.map fun r => ingressSize r.1).foldl (· + ·) 0

/-- INGRESS_RECORD: ETHe writes a record to its window, every write checked under initiator bit 26. While PD9 or
PD12 is not granted, or when the record does not fit in 64 KiB, the MAC drops the frame and counts it in
0x4001:07 (R133, R136, R137). -/
def execIngressRecord (e : CanPort) (rec_ : Bytes) (s : State) : Host.Outcome State Fault Refusal :=
  if !domUp s 17 then .next s
  else if !capUp s then .next (capStat s 6)
  else
    match actCheck s 26 accStore (capBase + 0x40000 + e.val * 0x10000) (ingressSize rec_) with
    | some t => .next t
    | none =>
      let l := s.cap.ingress.get e
      if ingressUsed l + ingressSize rec_ ≤ 0x10000 then
        .next { s with cap.ingress := vput s.cap.ingress e (l ++ [(rec_, stampAt s (fieldLE rec_ 0 8))]) }
      else .next (capStat s 6)

/-- One's-complement sum of 16-bit words. -/
def onesSum (bs : Bytes) : Nat :=
  let t := ((List.range ((bs.length + 1) / 2)).map fun i => fieldBE bs (2 * i) 2).foldl (· + ·) 0
  let t := t % 65536 + t / 65536
  t % 65536 + t / 65536

/-- A UDP datagram as CAP sees it: source address, destination port, UDP length, payload. -/
structure Udp where
  src : Nat
  port : Nat
  len : Nat
  data : Bytes
  deriving DecidableEq, Repr

/-- What CAP makes of an ingress record: nothing it examines, a fragment or a wrong checksum, or a datagram (R135). -/
inductive IpView where
  | other
  | discard
  | udp (u : Udp)
  deriving DecidableEq, Repr

/-- The IPv4 packet of an ingress record. -/
def udpOf (rec_ : Bytes) : IpView :=
  let ip := slice rec_ 16 (fieldLE rec_ 8 2)
  let ihl := bits (byteAt ip 0).toNat 0 4 * 4
  let frag := fieldBE ip 6 2
  let udp := ip.drop ihl
  let len := fieldBE udp 4 2
  let ck := fieldBE udp 6 2
  let pseudo := slice ip 12 8 ++ [0, 17] ++ toBE 2 len ++ udp.take len
  if bits (byteAt ip 0).toNat 4 4 ≠ 4 ∨ byteAt ip 9 ≠ 17 then .other
  else if bits frag 0 14 ≠ 0 then .discard
  else if ck ≠ 0 ∧ onesSum pseudo ≠ 0xFFFF then .discard
  else .udp { src := fieldBE ip 12 4, port := fieldBE udp 2 2, len := len, data := slice udp 8 (len - 8) }

/-- The lowest-numbered enabled context that fits (R134). -/
def findCtx (s : State) (p : Ctx → Bool) : Option Nat :=
  (s.cap.ctxs.find? fun e => e.2.en && p e.2).map fun e => e.1

/-- PORT and address match of an Ethernet context (Table 4-2). -/
def ethFits (e : Nat) (src : Nat) (c : Ctx) : Bool :=
  (c.port == e || c.port == 2) && (c.match2.toNat == 0 || c.match2.toNat == src)

/-! ## Stream frames (R143 to R147) -/

/-- Header checks that need no context (R144). -/
def sfHeaderOk (u : Udp) : Bool :=
  let h := u.data
  byteAt h 0 == 0x57 && bits (byteAt h 1).toNat 0 4 == 1 && crc16 (slice h 0 30) == fieldBE h 30 2
    && fieldBE h 28 2 + 40 == u.len && decide (fieldBE h 12 4 + fieldBE h 28 2 ≤ fieldBE h 24 4)

/-- A sample too long for the slot is discarded at admission (R147). -/
def sfTooLong (c : Ctx) (len : Nat) : Bool :=
  if c.kind = 0 then decide (c.slotSize.toNat - 128 < len) else decide (c.tofs.toNat - 128 < len)

/-- The fragment of an open sample. -/
def sfPlace (s : State) (n : Nat) (a : CapAsm) (h : Bytes) : State :=
  let f := fieldBE h 10 2
  if f ∈ a.frags then s
  else asmPlace s n { a with frags := f :: a.frags } (fieldBE h 12 4) (slice h 32 (fieldBE h 28 2)) none

/-- A fragment that opens a new sample. -/
def sfOpen (s : State) (n : Nat) (h stamp : Bytes) : State :=
  let c := ctxOf s n
  let seq : W32 := BitVec.ofNat 32 (fieldBE h 8 2)
  let len := fieldBE h 24 4
  let sense := if (byteAt h 1).getLsbD 6 then some (BitVec.ofNat 64 (fieldBE h 16 8)) else none
  if sfTooLong c len then capStat (asmRefuse s n seq) 4
  else
    match asmOpen s n seq (some len) stamp sense { ty := 0, q := 0, restart := 0, tables := none } with
    | (some a, t) => sfPlace t n a h
    | (none, t) => t

/-- A fragment against its context's open sample and the newest admitted (R145): signed 16-bit order of
SAMPLE_SEQ. What is left of a sample that has ended, or was discarded at admission, is ignored. -/
def sfTake (s : State) (n : Nat) (h stamp : Bytes) : State :=
  let c := ctxOf s n
  let seq : W32 := BitVec.ofNat 32 (fieldBE h 8 2)
  let order (b : W32) : Int := ((seq.extractLsb' 0 16) - (b.extractLsb' 0 16) : W16).toInt
  if c.refused = some seq then s
  else
    match c.asm with
    | some a =>
      if a.seq = seq then sfPlace s n a h
      else if order a.seq > 0 then sfOpen (asmEnd s n a) n h stamp
      else capStat s 1
    | none =>
      match c.newest with
      | some b => if order b > 0 then sfOpen s n h stamp else if order b < 0 then capStat s 1 else s
      | none => sfOpen s n h stamp

def sframe (s : State) (e : Nat) (u : Udp) (stamp : Bytes) : State :=
  if !sfHeaderOk u then capStat s 3
  else
    match findCtx s fun c => (c.kind == 0 || c.kind == 1) && ethFits e u.src c && c.match1.toNat == fieldBE u.data 4 4 with
    | none => capStat s 0
    | some n =>
      if (byteAt u.data 2 == 0x10) != ((ctxOf s n).kind == 1) then capStat s 3
      else sfTake s n u.data stamp

/-- What the oldest ingress record of a window is: discarded under R135 and counted, or not examined at all. -/
inductive Ingress where
  | none
  | bad
  | other
  | sf (u : Udp) (stamp : Bytes)
  | rtp (u : Udp) (stamp : Bytes)
  deriving DecidableEq, Repr

def ingressHead (s : State) (e : CanPort) : Ingress :=
  match s.cap.ingress.get e with
  | [] => .none
  | (r, st) :: _ =>
    match udpOf r with
    | .discard => .bad
    | .other => .other
    | .udp u =>
      if u.port = s.cap.sfPort.toNat then .sf u st
      else if s.cap.rtpLo.toNat ≤ u.port ∧ u.port ≤ s.cap.rtpHi.toNat then .rtp u st else .other

def ingressPop (s : State) (e : CanPort) : State :=
  { s with cap.ingress := vmod s.cap.ingress e List.tail }

/-- SFRAME_FRAGMENT: CAP takes the oldest ingress record of ETHe when it is a stream frame; a record that
R135 discards is counted, and one it does not examine is dropped. -/
def execSframeFragment (e : CanPort) (s : State) : Host.Outcome State Fault Refusal :=
  if capUp s then
    match ingressHead s e with
    | .sf u st => .next (sframe (ingressPop s e) e.val u st)
    | .bad => .next (capStat (ingressPop s e) 2)
    | .other => .next (ingressPop s e)
    | _ => .next s
  else .next s

/-! ## RTP/JPEG (R148 to R150) -/

/-- An RTP packet after its CSRC list and extension: marker, timestamp, SSRC, payload. -/
structure Rtp where
  marker : Bool
  ts : W32
  ssrc : Nat
  data : Bytes
  deriving DecidableEq, Repr

def rtpOf (b : Bytes) : Option Rtp :=
  let v := (byteAt b 0).toNat
  let o := 12 + 4 * (v % 16)
  let o := if bitOf v 4 then o + 4 + 4 * fieldBE b (o + 2) 2 else o
  if v / 64 = 2 ∧ o ≤ b.length then
    some { marker := (byteAt b 1).getLsbD 7, ts := BitVec.ofNat 32 (fieldBE b 4 4), ssrc := fieldBE b 8 4, data := b.drop o }
  else none

/-- A packet after its RFC 2435 headers: status 0 or the bad one it gives, what it says of its frame, where its
scan bytes belong, and the bytes. -/
structure RtpPart where
  status : Nat
  params : RtpParams
  ofs : Nat
  data : Bytes
  deriving DecidableEq, Repr

/-- The RFC 2435 headers of a packet (R148, R149): the restart marker header of types 64 and 65, and the
quantisation table header of Q 128-255 in the first packet, with two tables of 8 bits. -/
def rtpJpeg (c : Ctx) (d : Bytes) : RtpPart :=
  let ofs := fieldBE d 1 3
  let ty := (byteAt d 4).toNat
  let q := (byteAt d 5).toNat
  let w := (byteAt d 6).toNat * 8
  let h := (byteAt d 7).toNat * 8
  let o := if 64 ≤ ty then 12 else 8
  let hasTables := 128 ≤ q ∧ ofs = 0
  let len := fieldBE d (o + 2) 2
  let st := if ¬ (ty = 0 ∨ ty = 1 ∨ ty = 64 ∨ ty = 65) then 3
    else if ¬ ((1 ≤ q ∧ q ≤ 99) ∨ 128 ≤ q) then 3
    else if hasTables ∧ (byteAt d (o + 1) ≠ 0 ∨ len < 128) then 3
    else if (w ≠ 0 ∧ w ≠ c.width) ∨ (h ≠ 0 ∧ h ≠ c.height) then 4 else 0
  { status := st, ofs := ofs, data := d.drop (if hasTables then o + 4 + len else o),
    params := { ty := ty, q := q, restart := if 64 ≤ ty then fieldBE d 8 2 else 0,
                tables := if hasTables then some (slice d (o + 4) 128) else none } }

/-- A packet for an open frame. A bad status frees the slot at once; a diverted frame goes on to the ring with it
(R141, R173). A frame larger than CSIZE takes UNSUPPORTED (log 149). -/
def rtpPlace (s : State) (n : Nat) (a : CapAsm) (marker : Bool) (j : RtpPart) : State :=
  let stop := j.ofs + j.data.length
  let last := if marker then some stop else none
  let a := { a with rtp := { a.rtp with tables := a.rtp.tables.or j.params.tables } }
  match a.slot with
  | none => asmPlace s n { a with bad := if a.bad = 0 then j.status else a.bad } j.ofs j.data last
  | some k =>
    let st := if j.status ≠ 0 then j.status else if (ctxOf s n).tofs.toNat - 128 < stop then 3 else 0
    if st = 0 then asmPlace s n a j.ofs j.data last
    else slotBad (ctxPut s n { ctxOf s n with asm := none }) n k st

/-- A packet that opens a frame; its timestamp goes to header offset 0x28 (Table 4-4). -/
def rtpOpen (s : State) (n : Nat) (r : Rtp) (stamp : Bytes) : State :=
  let j := rtpJpeg (ctxOf s n) r.data
  match asmOpen s n r.ts none stamp none j.params with
  | (some a, t) =>
    let t := match a.slot with
      | some k => slotStore t n k 0x28 (toLE 4 r.ts.toNat)
      | none => t
    rtpPlace t n { a with hdr := overwrite a.hdr 0x28 (toLE 4 r.ts.toNat) } r.marker j
  | (none, t) => t

/-- A packet against its context's open frame and the newest admitted (R150): signed 32-bit order of the
timestamp. -/
def rtpTake (s : State) (n : Nat) (r : Rtp) (stamp : Bytes) : State :=
  let c := ctxOf s n
  if c.refused = some r.ts then s
  else
    match c.asm with
    | some a =>
      if a.seq = r.ts then rtpPlace s n a r.marker (rtpJpeg c r.data)
      else if (r.ts - a.seq).toInt > 0 then rtpOpen (asmEnd s n a) n r stamp
      else capStat s 1
    | none =>
      match c.newest with
      | some b => if (r.ts - b).toInt > 0 then rtpOpen s n r stamp else if (r.ts - b).toInt < 0 then capStat s 1 else s
      | none => rtpOpen s n r stamp

/-- RTP_PACKET: CAP takes the oldest ingress record of ETHe when it lies in the RTP port range. One that is not RTP
version 2 fits no context (R134, R148). -/
def execRtpPacket (e : CanPort) (s : State) : Host.Outcome State Fault Refusal :=
  if capUp s then
    match ingressHead s e with
    | .rtp u st =>
      let s := ingressPop s e
      match rtpOf u.data with
      | none => .next (capStat s 0)
      | some r =>
        match findCtx s fun c => c.kind == 2 && ethFits e.val u.src c && c.match1.toNat == r.ssrc with
        | none => .next (capStat s 0)
        | some n => .next (rtpTake s n r st)
    | .bad => .next (capStat (ingressPop s e) 2)
    | .other => .next (ingressPop s e)
    | _ => .next s
  else .next s

/-- ASSEMBLY_TIMEOUT: an open sample ASM_MS after its admission (R146, R150). -/
def execAssemblyTimeout (ctx : BitVec 12) (s : State) : Host.Outcome State Fault Refusal :=
  match (ctxOf s ctx.toNat).asm with
  | some a => if capUp s then .next (asmEnd s ctx.toNat a) else .next s
  | none => .next s

/-! ## Rows of a tensor -/

def normSet (s : State) (k : Nat) : Bytes := padTo 18 (Tbl.read (fun _ => []) s.cap.norms k)

/-- The roi a slot's header holds. -/
def slotRoi (s : State) (n k : Nat) : Roi := roiOf (s.rdLE ((ctxOf s n).slotAddr k + 0x38) 8)

/-- Address of tensor row y of a slot. -/
def rowAddr (c : Ctx) (k y : Nat) : Nat := c.slotAddr k + c.tofs.toNat + y * c.tpitch

/-- The newest READY or HELD slot of a context with the same ROI, other than k (R161). -/
def prevSlot (s : State) (n k : Nat) : Option Nat :=
  let c := ctxOf s n
  let r := slotRoi s n k
  ((c.slots.zipIdx.filter fun p => (p.1.st == .ready || p.1.st == .held) && p.2 != k && p.1.decoded
      && decide (slotRoi s n p.2 = r)).foldl (fun (b : Option (Nat × Nat)) p =>
    match b with
    | none => some (p.1.order, p.2)
    | some (o, j) => if o < p.1.order then some (p.1.order, p.2) else some (o, j)) none).map fun x => x.2

/-- The bytes of a concealed pixel (R161): MARK, ABOVE by a row distance, GREY, PREV. -/
def concealPixel (s : State) (n k y x above : Nat) : Bytes :=
  let c := ctxOf s n
  let grey := pixelBytes (normSet s c.nset) c.lanes (colourOf c.colour 128 128 128)
  match c.conceal with
  | 0 => List.replicate c.lanes 0
  | 1 => if above ≤ y then s.rd (rowAddr c k (y - above) + x * c.lanes) c.lanes else grey
  | 2 => grey
  | _ =>
    match prevSlot s n k with
    | some j => s.rd (rowAddr c j y + x * c.lanes) c.lanes
    | none => grey

/-- PREV fell back to GREY: FLAGS bit 2 (R161). -/
def notePrevGrey (s : State) (n k : Nat) : State :=
  let c := ctxOf s n
  if c.conceal = 3 ∧ prevSlot s n k = none then
    let a := c.slotAddr k + 0x26
    capStore s a [memRead s.mem a ||| 4]
  else s

/-! ## CSI-2 (R151 to R153) -/

def csiFind (s : State) (rx vc : SrcId) : Option CsiFrame :=
  s.cap.csi.find? fun f => f.rx == rx && f.vc == vc

def csiDrop (s : State) (rx vc : SrcId) : State :=
  { s with cap.csi := s.cap.csi.filter fun f => !(f.rx == rx && f.vc == vc) }

def csiPut (s : State) (f : CsiFrame) : State :=
  { csiDrop s f.rx f.vc with cap.csi := (csiDrop s f.rx f.vc).cap.csi ++ [f] }

/-- Damaged lines added to the ranges of a frame (R160): a line that continues the last range of its kind joins
it. -/
def csiDamage (rs : List (Nat × Nat × Nat)) (line count kind : Nat) : List (Nat × Nat × Nat) :=
  if count = 0 then rs
  else
    match rs.reverse with
    | (a, n, k) :: t => if k = kind ∧ a + n = line then (t.reverse) ++ [(a, n + count, k)] else rs ++ [(line, count, kind)]
    | [] => [(line, count, kind)]

/-- One row stored at its place in the ROI; rows outside are dropped. -/
def storeRow (s : State) (n k line : Nat) (px : Nat → Bytes) : State :=
  let c := ctxOf s n
  let r := slotRoi s n k
  if r.y0 ≤ line ∧ line < r.y0 + r.h then
    let y := line - r.y0
    let s := capStore s (rowAddr c k y) ((List.range r.w).flatMap fun x => px (r.x0 + x))
    slotStore s n k 0x44 (toLE 4 (y + 1))
  else s

/-- A damaged line is written as CONCEAL gives (R161). -/
def csiConcealLine (s : State) (n k line : Nat) : State :=
  let r := slotRoi s n k
  notePrevGrey (storeRow s n k line fun x => concealPixel s n k (line - r.y0) (x - r.x0) 1) n k

/-- The lines missing at the end are TRUNC damage and concealed. -/
def csiMissing (s : State) (n k : Nat) : Nat → Nat → State
  | 0, _ => s
  | m + 1, line => csiMissing (csiConcealLine s n k line) n k m (line + 1)

/-- A frame ends: its damage is written and its slot becomes READY (R153, R160). -/
def csiFinish (s : State) (f : CsiFrame) : State :=
  let c := ctxOf s f.ctx
  let miss := c.height - f.lines
  let s := csiMissing s f.ctx f.slot miss f.lines
  let recs := csiDamage f.ranges f.lines miss 3
  let dmg := f.damaged + miss
  let s := slotStore s f.ctx f.slot 0x34 (toLE 4 dmg)
  let s := slotStore s f.ctx f.slot 0x48 (padTo 48 ((recs.take 6).flatMap fun r => errorRecord r.1 0 r.2.1 r.2.2))
  let s := slotStore s f.ctx f.slot 0x24 (toLE 2 (if dmg = 0 then 0 else 1))
  let s := slotReady (csiDrop s f.rx f.vc) f.ctx f.slot
  slotMod s f.ctx f.slot fun t => { t with decoded := true }

/-- A packet header with bits in error: two are discarded, one is corrected; both are counted (R152). -/
def csiHeader (s : State) (errs : Nat) (f : State → State) : State :=
  if 2 ≤ errs then capStat s 5 else f (if errs = 1 then capStat s 7 else s)

/-- A frame is opened in its context, ending one still open (R153). -/
def csiStart (s : State) (rx vc : SrcId) : State :=
  let s := match csiFind s rx vc with
    | some f => csiFinish s f
    | none => s
  match findCtx s fun c => c.kind == 3 && c.port == 3 + rx.val && bits c.match1.toNat 0 2 == vc.val with
  | none => capStat s 0
  | some n =>
    match tryAdmit s n (stampNow s) none false with
    | (some k, t) => csiPut t { rx := rx, vc := vc, ctx := n, slot := k, lines := 0, embedded := 0, damaged := 0, ranges := [] }
    | (none, t) => t

/-- CSI_FRAME_START. -/
def execCsiFrameStart (rx : SrcId) (p : CsiShort) (s : State) : Host.Outcome State Fault Refusal :=
  if capUp s then .next (csiHeader s p.headerErrs fun s => csiStart s rx p.vc) else .next s

/-- The pixels of a good line: each pixel's channels, none beyond the line's end. -/
def csiPixels (c : Ctx) (dt : Nat) (bs : Bytes) : List (List Nat) :=
  if dt = 0x1E then (yuvPixels c.ups bs).map fun p => colourOf c.colour p.1 p.2.1 p.2.2
  else (rawPixels dt bs).map fun r => [min (r / 2 ^ c.rawsh) 255]

/-- One long packet of pixels (R152, R153): a line with a CRC error is concealed whole, a short one from its end. -/
def csiLine (s : State) (f : CsiFrame) (p : CsiPacket) : State :=
  let c := ctxOf s f.ctx
  let px := csiPixels c p.dataType.toNat p.payload
  let short := decide (px.length < c.width)
  if c.height ≤ f.lines then s
  else if !p.crcOk then
    csiPut (csiConcealLine s f.ctx f.slot f.lines)
      { f with lines := f.lines + 1, damaged := f.damaged + 1, ranges := csiDamage f.ranges f.lines 1 5 }
  else
    let r := slotRoi s f.ctx f.slot
    let s' := storeRow s f.ctx f.slot f.lines fun x =>
      match px[x]? with
      | some ch => pixelBytes (normSet s c.nset) c.lanes ch
      | none => concealPixel s f.ctx f.slot (f.lines - r.y0) (x - r.x0) 1
    let s' := if short then notePrevGrey s' f.ctx f.slot else s'
    csiPut s' { f with lines := f.lines + 1, damaged := f.damaged + b2n short,
                       ranges := csiDamage f.ranges f.lines (b2n short) 3 }

/-- A packet with a good header: a line or embedded data is stored, another type discarded. -/
def csiTake (s : State) (rx : SrcId) (p : CsiPacket) : State :=
  let dt := p.dataType.toNat
  if dt = 0x02 ∨ dt = 0x03 then s
  else if ¬ (dt = 0x2A ∨ dt = 0x2B ∨ dt = 0x2C ∨ dt = 0x1E ∨ dt = 0x12) then capStat s 5
  else
    match csiFind s rx p.vc with
    | none => s
    | some f =>
      if dt = 0x12 then
        let room := (ctxOf s f.ctx).tofs.toNat - 128 - f.embedded
        let d := p.payload.take room
        csiPut (slotStore s f.ctx f.slot (128 + f.embedded) d) { f with embedded := f.embedded + d.length }
      else csiLine s f p

/-- CSI_PACKET. -/
def execCsiPacket (rx : SrcId) (p : CsiPacket) (s : State) : Host.Outcome State Fault Refusal :=
  if capUp s then .next (csiHeader s p.headerErrs fun s => csiTake s rx p) else .next s

/-- CSI_FRAME_END. -/
def execCsiFrameEnd (rx : SrcId) (p : CsiShort) (s : State) : Host.Outcome State Fault Refusal :=
  if capUp s then
    .next (csiHeader s p.headerErrs fun s => match csiFind s rx p.vc with
      | some f => csiFinish s f
      | none => s)
  else .next s

/-! ## Host samples (R155) -/

/-- A read of CAP_ACQ: the slot taken, or 0xFFFF. -/
def capAcq (s : State) (n : Nat) : Nat × State :=
  let c := ctxOf s n
  if capUp s && c.en && (c.kind == 5 || c.kind == 6) then
    match tryAdmit s n (stampNow s) none true with
    | (some k, t) => (k, t)
    | (none, t) => (0xFFFF, t)
  else (0xFFFF, s)

/-- The push record is complete: the slot is stamped and becomes READY, or its decoding starts. -/
def capPush (s : State) (r : Bytes) : State :=
  let n := fieldLE r 0 2 % 4096
  let k := (byteAt r 2).toNat
  let c := ctxOf s n
  let t := slotAt c k
  if capUp s && t.host && t.st == .filling then
    let sense := if (byteAt r 3).getLsbD 0 then some (BitVec.ofNat 64 (fieldLE r 8 8)) else none
    let s := slotMod s n k fun t => { t with stamp := stampNow s, sense := sense, host := false }
    let s := slotStore s n k 0 (stampNow s)
    let s := slotStore s n k 0x28 (toLE 8 (match sense with | some v => v.toNat | none => 0))
    let a := c.slotAddr k + 0x26
    let s := if sense.isSome then capStore s a [memRead s.mem a ||| 1] else s
    let s := openWindows s n (slotAt (ctxOf s n) k)
    let len := fieldLE r 4 4
    let s := slotStore s n k 0x30 (toLE 4 len)
    if c.kind = 6 then jpegComplete s n k (min len (c.tofs.toNat - 128)) [] else slotReady s n k
  else s

/-- Who can reach CAP_ACQ and CAP_PUSH: Mast harts and plans (R155). -/
def capParty (s : State) : RegParty → Bool
  | .mast _ => ctlUp s
  | .spar c => domRuns s (sparDom c) && !unitFenced s c.val
  | .mgc => false
  | .host => false

/-- CAP_ACQ. -/
def execCapAcq (by_ : RegParty) (ctx : BitVec 12) (s : State) : Host.Outcome State Fault Refusal :=
  if capParty s by_ && capUp s then
    let (v, t) := capAcq s ctx.toNat
    .next (emit t (.answer (.data (toLE 4 v))))
  else .next s

/-- CAP_PUSH: the write of the record's final word. -/
def execCapPush (by_ : RegParty) (rec_ : Bytes) (s : State) : Host.Outcome State Fault Refusal :=
  if capParty s by_ && capUp s then .next (capPush s rec_) else .next s

/-- HOST_SLOT_TIMEOUT: a host slot left FILLING for ASM_MS. -/
def execHostSlotTimeout (ctx : BitVec 12) (slot : Byte) (s : State) : Host.Outcome State Fault Refusal :=
  let t := slotAt (ctxOf s ctx.toNat) slot.toNat
  if capUp s && t.host && t.st == .filling then .next (slotFree s ctx.toNat slot.toNat) else .next s

/-- A READY or HELD slot goes back to FREE (R139). -/
def capRelease (s : State) (n k : Nat) : State :=
  let t := slotAt (ctxOf s n) k
  if t.st = .ready ∨ t.st = .held then slotFree s n k else s

/-- CAP_REL. -/
def execCapRel (v : W32) (s : State) : Host.Outcome State Fault Refusal :=
  if capUp s then .next (capRelease s (bits v.toNat 0 12) (bits v.toNat 16 8)) else .next s

/-- A write of CAP_ROIn's high word commits the value whole (R164). -/
def roiCommit (s : State) (n : Nat) (hi : W32) : State :=
  let c := ctxOf s n
  ctxPut s n { c with roiNow := some (hi ++ c.roiStage), roiAge := 0 }

/-- CAP_ROI_COMMIT. -/
def execCapRoiCommit (ctx : BitVec 12) (hi : W32) (s : State) : Host.Outcome State Fault Refusal :=
  if capUp s then .next (roiCommit s ctx.toNat hi) else .next s

/-! ## Context fields (Table 4-3, R178) -/

/-- Slots after SLOTS changes or the context is enabled: kept where they exist, else FREE. -/
def fitSlots (n : Nat) (l : List CapSlot) : List CapSlot :=
  (List.range n).map fun i => l.getD i CapSlot.empty

/-- A context disabled: its open sample is abandoned and FILLING slots return to FREE. -/
def ctxDisable (c : Ctx) : Ctx :=
  { c with st := 0, asm := none,
           slots := c.slots.map fun t => if t.st = .filling then CapSlot.empty else t }

/-- CFG in force: the ring has the slots that SLOTS says, in every context (R138). -/
def ctxCfg (c : Ctx) (w : W32) : Ctx :=
  let d := { c with cfg := w &&& 0x3FFF7FFF }
  let d := { d with slots := fitSlots d.nslots d.slots }
  if d.en then { d with st := 1, newest := none, refused := none } else ctxDisable d

/-- A field is stored; the abort code, 0 for none. STATE, ADMITTED and OVR are read only. -/
def ctxStore (c : Ctx) (field : Nat) (v : W64) : Nat × Ctx :=
  let w := v.extractLsb' 0 32
  match field with
  | 1 => (0, ctxCfg c w)
  | 2 => (0, { c with match1 := w })
  | 3 => (0, { c with match2 := w })
  | 4 => (0, { c with geom := w })
  | 5 => (0, { c with buf := v })
  | 6 => (0, { c with slotSize := w })
  | 7 => (0, { c with tofs := w })
  | 8 => (0, { c with tens := w })
  | 9 => (0, { c with roi := w })
  | 10 => (0, { c with roisz := w })
  | 11 => (0, { c with timers := w })
  | 12 => (0, { c with split := w &&& 7 })
  | 13 => (0x06010002, c)
  | 14 => (0x06010002, c)
  | 15 => (0x06010002, c)
  | _ => (0x06090011, c)

/-- A write of a field by its sub-index: while EN = 1 every field but ROI, ROISZ and TIMERS aborts (R178). -/
def ctxWrite (c : Ctx) (field : Nat) (v : W64) : Nat × Ctx :=
  if c.en ∧ 1 ≤ field ∧ field ≤ 12 ∧ ¬ (field = 9 ∨ field = 10 ∨ field = 11) then (0x08000022, c)
  else ctxStore c field v

/-- A write of a word of CAP_CTXn: as by sub-index, and CFG with EN = 0 disables the context (log 42). -/
def ctxRegWrite (c : Ctx) (field : Nat) (v : W64) : Nat × Ctx :=
  if c.en ∧ field = 1 ∧ v.getLsbD 0 = false then (0, ctxCfg c (v.extractLsb' 0 32)) else ctxWrite c field v

/-- A two-wire context's port by its CFG.PORT 7 to 10. -/
def ctxTw (c : Ctx) : Option TwId :=
  if 7 ≤ c.port ∧ c.port ≤ 10 then some (Fin.ofNat 6 (c.port - 5)) else none

/-- A context is stored after a write; one enabled while its two-wire port is in FAULT is SOURCE_LOST at once
(R154). -/
def ctxPutNew (s : State) (n : Nat) (c : Ctx) : State :=
  let inFault : Bool := match ctxTw c with
    | some p => (s.tw.get p).fault
    | none => false
  ctxPut s n (if c.st = 1 ∧ inFault then { c with st := 3 } else c)

/-- The context's fields by sub-index. -/
def ctxRead (c : Ctx) (field : Nat) : Nat :=
  match field with
  | 1 => c.cfg.toNat
  | 2 => c.match1.toNat
  | 3 => c.match2.toNat
  | 4 => c.geom.toNat
  | 5 => c.buf.toNat
  | 6 => c.slotSize.toNat
  | 7 => c.tofs.toNat
  | 8 => c.tens.toNat
  | 9 => c.roi.toNat
  | 10 => c.roisz.toNat
  | 11 => c.timers.toNat
  | 12 => c.split.toNat
  | 13 => c.st.toNat + 256 * c.count .free + 65536 * c.count .ready + 2 ^ 24 * c.count .held
  | 14 => c.admitted.toNat
  | _ => c.ovr.toNat

/-- CONTEXT_WRITE: Mast firmware writes a field; an abort is its answer. -/
def execContextWrite (ctx : BitVec 12) (field : Fin 16) (v : W64) (s : State) :
    Host.Outcome State Fault Refusal :=
  if ctlUp s && capUp s then
    match ctxWrite (ctxOf s ctx.toNat) field.val v with
    | (0, c) => .next (ctxPutNew s ctx.toNat c)
    | (e, _) => .next (emit s (.answer (.abort e)))
  else .next s

/-! ## JPEG decoding (R157 to R161) -/

/-- A JDU works: its domain runs and it is not fenced (R532). -/
def jduUp (s : State) (j : CanPort) : Bool := domRuns s 9 && domRuns s 12 && !unitFenced s (0x11 + j.val)

/-- An earlier admitted sample of the context has not started yet: it is FILLING, or it waits too (R157). -/
def earlierWaits (s : State) (f : JduJob) : Bool :=
  let c := ctxOf s f.ctx
  let mine := (slotAt c f.slot).order
  (c.slots.any fun t => t.st == .filling && decide (t.order < mine))
    || s.cap.jpegQ.any fun g => g.ctx == f.ctx && decide ((slotAt c g.slot).order < mine)

/-- A queued frame may start: the frames of its context start in admission order, and under PREV concealment the
one before has finished (R157). -/
def jpegMayStart (s : State) (f : JduJob) : Bool :=
  !earlierWaits s f
    && !((ctxOf s f.ctx).conceal == 3 && s.cap.jdu.toList.any fun x => x.any fun y => y.ctx == f.ctx)

/-- PERT kind 6 flips a byte of every EVERY-th frame of its context (R541). -/
def pertFlip (s : State) (n : Nat) : Option (Nat × Byte) × State :=
  let p := s.pert.params.get 6
  if s.pert.active.get 6 && fieldLE p 4 2 == n then
    let c := ctxOf s n
    if (byteAt p 11).toNat ≤ c.flipCount + 1 then
      (some (fieldLE p 6 4, byteAt p 10), ctxPut s n { c with flipCount := 0 })
    else (none, ctxPut s n { c with flipCount := c.flipCount + 1 })
  else (none, s)

/-- JPEG_DECODE_START. -/
def execJpegDecodeStart (j : CanPort) (s : State) : Host.Outcome State Fault Refusal :=
  if jduUp s j && (s.cap.jdu.get j).isNone then
    match s.cap.jpegQ.find? (jpegMayStart s) with
    | none => .next s
    | some f =>
      let (fl, t) := pertFlip s f.ctx
      .next { t with cap.jpegQ := s.cap.jpegQ.erase f, cap.jdu := vput t.cap.jdu j (some { f with flip := fl }) }
  else .next s

/-- The bytes a JDU reads of a frame. -/
def jpegBytes (s : State) (f : JduJob) : Bytes :=
  let b := s.rd ((ctxOf s f.ctx).slotAddr f.slot + 128) f.len
  match f.flip with
  | some (o, m) => overwrite b o [byteAt b o ^^^ m]
  | none => b

/-- Points per block edge at a SCALE (R158). -/
def blockEdge (c : Ctx) : Nat := 8 / 2 ^ c.scale

/-- A restart interval's MCUs lie wholly outside the ROI rows (R166). -/
def outsideRoi (c : Ctx) (i : JpegInfo) (r : Roi) (first n : Nat) : Bool :=
  let edge := blockEdge c * (i.mcuH / 8)
  decide ((first + n - 1) / i.mcuCols < r.y0 / edge) || decide ((r.y0 + r.h - 1) / edge < first / i.mcuCols)

/-- Every MCU of the frame a JDU holds. -/
def jduScan (s : State) (f : JduJob) : List McuRes :=
  let c := ctxOf s f.ctx
  decodeScan (jpegBytes s f) f.gaps f.info (outsideRoi c f.info (slotRoi s f.ctx f.slot))

/-- The MCU of a pixel of the scaled image is damaged. -/
def pixelDamaged (c : Ctx) (i : JpegInfo) (rs : List McuRes) (y x : Nat) : Bool :=
  match rs[y / (blockEdge c * (i.mcuH / 8)) * i.mcuCols + x / (blockEdge c * (i.mcuW / 8))]? with
  | some (.bad _) => true
  | _ => false

/-- One pixel of a decoded row, converted and normalised, or concealed. -/
def jduPixel (s : State) (f : JduJob) (rs : List McuRes) (r : Roi) (y x : Nat) : Bytes :=
  let c := ctxOf s f.ctx
  if pixelDamaged c f.info rs (r.y0 + y) (r.x0 + x) then
    concealPixel s f.ctx f.slot y x (blockEdge c * (f.info.mcuH / 8))
  else
    let smp := fun k =>
      if k = 0 ∨ f.info.comps = 3 then pixelSample f.info rs (blockEdge c) c.ups k (r.x0 + x) (r.y0 + y) else 128
    pixelBytes (normSet s c.nset) c.lanes (colourOf c.colour (smp 0) (smp 1) (smp 2))

/-- The next tensor row is stored, then the decoded-row count advances (R158); a row that PREV had to fill with
grey sets its flag (R161). -/
def jduRow (s : State) (f : JduJob) : State :=
  let c := ctxOf s f.ctx
  let r := slotRoi s f.ctx f.slot
  let rs := jduScan s f
  let t := jduStore s (rowAddr c f.slot f.row) ((List.range r.w).flatMap fun x => jduPixel s f rs r f.row x)
  let t := if (List.range r.w).any fun x => pixelDamaged c f.info rs (r.y0 + f.row) (r.x0 + x)
    then notePrevGrey t f.ctx f.slot else t
  jduStore t (c.slotAddr f.slot + 0x44) (toLE 4 (f.row + 1))

/-- JPEG_ROW_DECODED. -/
def execJpegRowDecoded (j : CanPort) (s : State) : Host.Outcome State Fault Refusal :=
  match s.cap.jdu.get j with
  | none => .next s
  | some f =>
    if jduUp s j && decide (f.row < (slotRoi s f.ctx f.slot).h) then
      let t := jduRow s f
      .next { t with cap.jdu := vput t.cap.jdu j (some { f with row := f.row + 1 }) }
    else .next s

/-- The damage of a decoded frame is written: count, error records, status CONCEALED for any (R160). -/
def jduDamage (s : State) (f : JduJob) : State :=
  let rs := jduScan s f
  let d := damageCount rs
  let a := (ctxOf s f.ctx).slotAddr f.slot
  let t := jduStore s (a + 0x34) (toLE 4 d)
  let t := jduStore t (a + 0x48) (damageRecords f.info rs)
  jduStore t (a + 0x24) (toLE 2 (if d = 0 then 0 else 1))

/-- JPEG_DECODE_END: every row is stored. -/
def execJpegDecodeEnd (j : CanPort) (s : State) : Host.Outcome State Fault Refusal :=
  match s.cap.jdu.get j with
  | none => .next s
  | some f =>
    if jduUp s j && decide ((slotRoi s f.ctx f.slot).h ≤ f.row) then
      let t := slotMod (jduDamage s f) f.ctx f.slot fun x => { x with decoded := true }
      .next { t with cap.jdu := vput t.cap.jdu j none }
    else .next s

/-! ## Alignment windows and sets (R167 to R171) -/

/-- Members of a group. -/
def membersOf (s : State) (g : Nat) : List (Nat × Ctx) := s.cap.ctxs.filter fun e => e.2.en && e.2.agrp == g

/-- The sample of a member nearest to s in the window, the earlier of two equally near (R168). -/
def nearest (b : Bytes) (key : Nat) (c : Ctx) : Option Nat :=
  let ok := c.slots.zipIdx.filter fun p =>
    (p.1.st == .filling || p.1.st == .ready) && p.1.group == 0
      && decide ((keyDist b (alignKey b p.1) key).natAbs ≤ alignW b)
      && (!alignPhase b || stampOk p.1.stamp (alignSrc b))
  (ok.foldl (fun (m : Option (Int × Nat)) p =>
    let d := keyDist b (alignKey b p.1) key
    match m with
    | none => some (d, p.2)
    | some (e, k) => if d.natAbs < e.natAbs ∨ (d.natAbs = e.natAbs ∧ d < e) then some (d, p.2) else some (e, k)) none).map fun x => x.2

/-- The record has passed s + W (R169). -/
def windowPassed (s : State) (b : Bytes) (key : Nat) : Bool :=
  if alignPhase b then
    decide (0 ≤ keyDist b (s.pht.record.phases.get (Fin.ofNat 4 (alignSrc b))).toNat (key + alignW b))
  else decide (key + alignW b ≤ s.pht.record.nt.toNat)

/-- A set is discarded: its samples return to FREE and 0x4021:g counts it (R170). -/
def setDiscard (s : State) (g : Nat) (ms : List (Nat × Nat)) : State :=
  let t := ms.foldl (fun t p => slotFree t p.1 p.2) s
  { t with cap.alignLost := Tbl.write (fun _ => 0) t.cap.alignLost g (Tbl.read (fun _ => 0) t.cap.alignLost g + 1) }

/-- FLAGS bit 3 in each header of a set that lacks a member (R170). -/
def markMissing (s : State) (ms : List (Nat × Nat)) : State :=
  ms.foldl (fun t p =>
    let a := (ctxOf t p.1).slotAddr p.2 + 0x26
    capStore t a [memRead t.mem a ||| 8]) s

/-- A window closes: selected samples are HELD for the set, or the set is discarded (R170). -/
def windowClose (s : State) (w : AWindow) : State :=
  let b := alignCfg s w.group
  let ms := membersOf s w.group
  let sel := ms.filterMap fun e => (nearest b w.key e.2).map fun k => (e.1, k)
  let missing := decide (sel.length < ms.length)
  if missing && !alignPartial b then setDiscard s w.group sel
  else
    let t := sel.foldl (fun t p => slotMod t p.1 p.2 fun x => { x with st := .held, group := w.group }) s
    { t with cap.sets := t.cap.sets ++ [{ group := w.group, key := w.key, members := sel, missing := missing }] }

/-- ALIGN_WINDOW_CLOSE: the group's oldest window, once the record has passed s + W or, in phase mode,
WAIT_US has elapsed (waited). -/
def execAlignWindowClose (g : Fin 64) (waited : Bool) (s : State) : Host.Outcome State Fault Refusal :=
  match s.cap.windows.find? fun w => w.group == g.val with
  | none => .next s
  | some w =>
    let b := alignCfg s g.val
    if capUp s && ((waited && alignPhase b) || windowPassed s b w.key) then
      .next (windowClose { s with cap.windows := s.cap.windows.erase w } w)
    else .next s

/-- Stale samples of the members: in no set, key before s - W (R171); a HELD one is a job's and stays. -/
def releaseStale (s : State) (g key : Nat) : State :=
  let b := alignCfg s g
  (membersOf s g).foldl (fun t e =>
    ((e.2.slots.zipIdx.filter fun p => (p.1.st == .ready || p.1.st == .filling) && p.1.group == 0
        && decide (keyDist b (alignKey b p.1) key < - (alignW b : Int))).foldl
      (fun t p => capStat (slotFree t e.1 p.2) 1) t)) s

/-- A set whose samples are all READY is offered, its headers marked when it lacks a member. -/
def setOffer (s : State) (x : ASet) : State :=
  let n : W32 := Tbl.read (fun _ => 0) s.cap.lastSet x.group + 1
  let t := x.members.foldl (fun t p => slotStore t p.1 p.2 0x40 (toLE 4 n.toNat)) s
  let t := if x.missing then markMissing t x.members else t
  let t := { t with cap.lastSet := Tbl.write (fun _ => 0) t.cap.lastSet x.group n,
                    cap.offered := t.cap.offered ++ [{ group := x.group, seq := n, members := x.members }] }
  releaseStale t x.group x.key

/-- ALIGN_SET_OFFER: the group's oldest closed set, once every selected sample is READY. One that has lost a member
since its window closed is discarded where PARTIAL = 0, and so is one that has lost them all (R170, log 173). -/
def execAlignSetOffer (g : Fin 64) (s : State) : Host.Outcome State Fault Refusal :=
  match s.cap.sets.find? fun x => x.group == g.val with
  | none => .next s
  | some x =>
    if capUp s && x.members.all fun p => (slotAt (ctxOf s p.1) p.2).done then
      let t := { s with cap.sets := s.cap.sets.erase x }
      .next (if x.missing && (!alignPartial (alignCfg s g.val) || x.members.isEmpty)
        then setDiscard t g.val x.members else setOffer t x)
    else .next s

/-- SOURCE_LOSS_TIMEOUT (R175). -/
def execSourceLossTimeout (ctx : BitVec 12) (s : State) : Host.Outcome State Fault Refusal :=
  let c := ctxOf s ctx.toNat
  if capUp s && c.en && decide (c.lossMs ≠ 0) && decide (c.st ≠ 3) then
    .next (raiseStanding (ctxPut s ctx.toNat { c with st := 3 }) 0xFF30 0x13 ctx.toNat (toLE 2 ctx.toNat))
  else .next s

/-! ## Registers (Table 4-12) -/

/-- A 32-bit read at an offset from the CAP base. -/
def capRead (s : State) (off : Nat) : Nat × State :=
  if off = 0 then (b2n s.cap.splitIrq + 2 * b2n s.cap.unsupported, s)
  else if 0x100 ≤ off ∧ off < 0x180 then
    let r := s.cap.splitRt.get (Fin.ofNat 8 ((off - 0x100) / 16))
    (if off % 16 = 0 then r.wr.toNat else if off % 16 = 4 then r.rd.toNat else 0, s)
  else if 0x800 ≤ off ∧ off < 0x900 then ((Tbl.read (fun _ => 0) s.cap.lastSet ((off - 0x800) / 4)).toNat, s)
  else if 0x10000 ≤ off ∧ off < 0x18000 then
    let c := ctxOf s ((off - 0x10000) / 8)
    let v := c.roiNow.getD 0
    (if off % 8 = 0 then v.toNat % 2 ^ 32 else v.toNat / 2 ^ 32, s)
  else if 0x20000 ≤ off ∧ off < 0x24000 then capAcq s ((off - 0x20000) / 4)
  else if 0x100000 ≤ off ∧ off < 0x140000 then
    let c := ctxOf s ((off - 0x100000) / 64)
    (match off % 64 with
      | 0x00 => ctxRead c 1
      | 0x04 => ctxRead c 2
      | 0x08 => ctxRead c 3
      | 0x0C => ctxRead c 4
      | 0x10 => ctxRead c 5 % 2 ^ 32
      | 0x14 => ctxRead c 5 / 2 ^ 32
      | 0x18 => ctxRead c 6
      | 0x1C => ctxRead c 7
      | 0x20 => ctxRead c 8
      | 0x24 => ctxRead c 9
      | 0x28 => ctxRead c 10
      | 0x2C => ctxRead c 11
      | 0x30 => ctxRead c 12
      | 0x34 => ctxRead c 13
      | 0x38 => ctxRead c 14
      | _ => ctxRead c 15, s)
  else (0, s)

/-- A 32-bit write at an offset from the CAP base; refused context writes change nothing. -/
def capWrite (s : State) (off : Nat) (v : W32) : State :=
  if off = 0 then
    { s with cap.splitIrq := s.cap.splitIrq && !v.getLsbD 0, cap.unsupported := s.cap.unsupported && !v.getLsbD 1 }
  else if off = 0x10 then capRelease s (bits v.toNat 0 12) (bits v.toNat 16 8)
  else if 0x100 ≤ off ∧ off < 0x180 then
    if off % 16 = 4 then
      { s with cap.splitRt := vmod s.cap.splitRt (Fin.ofNat 8 ((off - 0x100) / 16)) fun r => { r with rd := v } }
    else s
  else if 0x10000 ≤ off ∧ off < 0x18000 then
    let n := (off - 0x10000) / 8
    if off % 8 = 0 then ctxPut s n { ctxOf s n with roiStage := v } else roiCommit s n v
  else if 0x30000 ≤ off ∧ off < 0x30010 then
    let b := overwrite s.cap.pushBuf (off - 0x30000) (toLE 4 v.toNat)
    let t := { s with cap.pushBuf := b }
    if off = 0x3000C then capPush t b else t
  else if 0x100000 ≤ off ∧ off < 0x140000 then
    let n := (off - 0x100000) / 64
    let c := ctxOf s n
    let w : W64 := v.zeroExtend 64
    let r := match off % 64 with
      | 0x00 => ctxRegWrite c 1 w
      | 0x04 => ctxRegWrite c 2 w
      | 0x08 => ctxRegWrite c 3 w
      | 0x0C => ctxRegWrite c 4 w
      | 0x10 => ctxRegWrite c 5 (c.buf.extractLsb' 32 32 ++ v)
      | 0x14 => ctxRegWrite c 5 (v ++ c.buf.extractLsb' 0 32)
      | 0x18 => ctxRegWrite c 6 w
      | 0x1C => ctxRegWrite c 7 w
      | 0x20 => ctxRegWrite c 8 w
      | 0x24 => ctxRegWrite c 9 w
      | 0x28 => ctxRegWrite c 10 w
      | 0x2C => ctxRegWrite c 11 w
      | 0x30 => ctxRegWrite c 12 w
      | _ => (1, c)
    if r.1 = 0 then ctxPutNew s n r.2 else s
  else s

end Sys2Proof.Machine
end

