-- ==== Sys2Proof/Machine/Cleat.lean ====
section
/-!
DEFINITION. Cleats A and B as their users reach them, and CLC_LOST (01_planes.md).
-/

namespace Sys2Proof.Machine

/-! ## Cleat A -/

/-- A write of the C2M producer index: refused when more than 64 entries would be in the ring (R18). -/
def c2mIndexWrite (s : State) (idx : BitVec 7) : State :=
  if ringUsed idx s.cleatA.c2mRd ≤ 64 then dropUnknown 64 { s with cleatA.c2mWr := idx }
  else { s with cleatA.c2mFull := true, cleatA.fullEvents := s.cleatA.fullEvents + 1 }

/-- C2M_WRITE: Mast firmware writes CLA_C2M_WR. -/
def execC2mWrite (v : W32) (s : State) : Host.Outcome State Fault Refusal :=
  if ctlUp s then .next (c2mIndexWrite s (v.extractLsb' 0 7)) else .next s

/-- A write of the M2C consumer index frees consumed entries; an index outside the unread entries is
ignored (log 22). Messages the MGC held back follow. -/
def m2cIndexWrite (s : State) (idx : BitVec 7) : State :=
  if ringUsed s.cleatA.m2cWr idx ≤ ringUsed s.cleatA.m2cWr s.cleatA.m2cRd then
    m2cRetry s.cleatA.backlog { s with cleatA.m2cRd := idx }
  else s

/-- M2C_READ_INDEX_WRITE: Mast firmware writes CLA_M2C_RD. -/
def execM2cReadIndexWrite (v : W32) (s : State) : Host.Outcome State Fault Refusal :=
  if ctlUp s then .next (m2cIndexWrite s (v.extractLsb' 0 7)) else .next s

/-- EMCY_REQ: an application EMCY; codes 0x0000 and 0xFF00-0xFFFF are refused and counted (R121). -/
def execEmcyReq (s : State) : Host.Outcome State Fault Refusal :=
  match takeMsg s 0x07 with
  | none => .next s
  | some (m, t) =>
    let code := fieldLE m.payload 0 2
    if code = 0 ∨ 0xFF00 ≤ code then .next { t with node.stats := vmod t.node.stats 4 (· + 1) }
    else .next (raiseEmcy t code (byteAt m.payload 2) (slice m.payload 3 4))

/-- CTL_FAULT: an uncorrectable Mast cache or L2 error, EMCY 0xFF24 with the hart in byte 4 (R378,
Table 15-7; the hart is payload byte 0, log 31). -/
def execCtlFault (s : State) : Host.Outcome State Fault Refusal :=
  match takeMsg s 0x08 with
  | none => .next s
  | some (m, t) => .next (raiseEmcy t 0xFF24 0x81 [byteAt m.payload 0])

/-! ## Cleat B (R21 to R26) -/

/-- Address of slot i mod 256 of queue n (Table 1-15). -/
def slotAddr (q : QueueId) (i : BitVec 9) : Nat := clbSlots + q.val * 0x4000 + (i.toNat % 256) * 0x40

/-- The poster's OWNER code. -/
def Poster.code : Poster → BitVec 2
  | .mc h => BitVec.ofNat 2 h.val
  | .host => 2

/-- A poster can reach Cleat B: the queue store is powered, and its own side runs (Table 1-4). -/
def posterUp (s : State) : Poster → Bool
  | .mc _ => ctlUp s && domUp s 11
  | .host => domUp s 11 && pcieUp s

/-- A write of POST by an owner code (R22, R24). -/
def Queue.writePost (q : Queue) (who : BitVec 2) (v : BitVec 9) : Queue :=
  if q.owner ≠ who then { q with ownerErr := true }
  else if (v - q.read).toNat > 256 then { q with ovf := true }
  else { q with post := v }

/-- A write of READ (R22). -/
def Queue.writeRead (q : Queue) (v : BitVec 9) : Queue :=
  if (v - q.read).toNat > (q.done - q.read).toNat then { q with readErr := true }
  else { q with read := v }

/-- A write of CFG, ignored unless POST = DONE = READ (Table 1-14). -/
def Queue.writeCfg (q : Queue) (v : W32) : Queue :=
  if q.post = q.done ∧ q.done = q.read then
    { q with owner := v.extractLsb' 0 2, en := v.getLsbD 2, irqEn := v.getLsbD 3 }
  else q

/-- The CSC's or firmware's clearing of STAT flags: write 1 to clear (Table 1-16). -/
def Queue.writeStat (q : Queue) (v : W32) : Queue :=
  { q with ovf := q.ovf && !v.getLsbD 16, ownerErr := q.ownerErr && !v.getLsbD 17,
           readErr := q.readErr && !v.getLsbD 18 }

/-- CLB_POST_WRITE. -/
def execClbPostWrite (q : QueueId) (by_ : Poster) (v : W32) (s : State) :
    Host.Outcome State Fault Refusal :=
  if posterUp s by_ then
    .next { s with cleatB := vmod s.cleatB q fun x => x.writePost (Poster.code by_) (v.extractLsb' 0 9) }
  else .next s

/-- CLB_READ_WRITE. -/
def execClbReadWrite (q : QueueId) (by_ : Poster) (v : W32) (s : State) :
    Host.Outcome State Fault Refusal :=
  if posterUp s by_ then
    .next { s with cleatB := vmod s.cleatB q fun x => x.writeRead (v.extractLsb' 0 9) }
  else .next s

/-- CLB_CFG_WRITE; the host's is ignored (R398). -/
def execClbCfgWrite (q : QueueId) (by_ : Poster) (v : W32) (s : State) :
    Host.Outcome State Fault Refusal :=
  if posterUp s by_ && decide (by_ ≠ .host) then
    .next { s with cleatB := vmod s.cleatB q fun x => x.writeCfg v }
  else .next s

/-- CP0 POST: the descriptor is copied into slot POST and POST advances, as one operation (R25, R352).
Answers the slot used, or none when the queue has no free slot. -/
def cp0Post (s : State) (q : QueueId) (desc : Bytes) : Option (Nat × State) :=
  let x := s.cleatB.get q
  if (x.post + 1 - x.read).toNat > 256 then none
  else some (x.post.toNat % 256,
    { s.wr (slotAddr q x.post) desc with cleatB := vput s.cleatB q { x with post := x.post + 1 } })

/-- DONE passes every slot at its front that has completed (R23). -/
def Queue.advanceDone : Nat → Queue → Queue
  | 0, q => q
  | n + 1, q =>
    if q.done ≠ q.post ∧ q.done ∈ q.completed then
      Queue.advanceDone n { q with done := q.done + 1, completed := q.completed.filter (· ≠ q.done) }
    else q

/-! ## Cleat C -/

/-- CLC_LOST is cleared by a dictionary write of 0; another value is out of range. Answers an abort
code, 0 for none. -/
def clcLostWrite (v : Nat) (s : State) : Nat × State :=
  if v = 0 then (0, { s with cleatC.lost := 0 }) else (0x06090030, s)

end Sys2Proof.Machine
end

