-- ==== Sys2Proof/Machine/Fp.lean ====
section
/-!
DEFINITION. Binary floating point as IEEE 754 gives it (R192, R246, R335; log 50): values are exact
dyadic numbers, rounded once. The payload and sign of a NaN result, and whether tininess is detected
before or after rounding, are free.
-/

namespace Sys2Proof.Machine

/-- A binary format: exponent bits and fraction bits. -/
structure FpFmt where
  eb : Nat
  mb : Nat
  deriving DecidableEq, Repr

def fp16 : FpFmt := { eb := 5, mb := 10 }
def fp32 : FpFmt := { eb := 8, mb := 23 }
def fp64 : FpFmt := { eb := 11, mb := 52 }

def FpFmt.bias (f : FpFmt) : Nat := 2 ^ (f.eb - 1) - 1
def FpFmt.width (f : FpFmt) : Nat := 1 + f.eb + f.mb
def FpFmt.expMax (f : FpFmt) : Nat := 2 ^ f.eb - 1

/-- A floating-point datum; a finite one is ± m × 2 ^ e. -/
inductive FpVal where
  | nan (signalling : Bool)
  | inf (neg : Bool)
  | fin (neg : Bool) (m : Nat) (e : Int)
  deriving DecidableEq, Repr

/-- What a bit pattern stands for. -/
def fpDecode (f : FpFmt) (x : Nat) : FpVal :=
  let s := bitOf x (f.eb + f.mb)
  let ex := bits x f.mb f.eb
  let fr := bits x 0 f.mb
  if ex = f.expMax then
    if fr = 0 then .inf s else .nan (!bitOf x (f.mb - 1))
  else if ex = 0 then .fin s fr (1 - (f.bias : Int) - f.mb)
  else .fin s (2 ^ f.mb + fr) ((ex : Int) - f.bias - f.mb)

/-- Sticky flags in the order of FPSTAT [8:4]: bit 0 invalid, 1 divide by zero, 2 overflow,
3 underflow, 4 inexact (DEDUCED, log 51). -/
def fpInvalid : Nat := 1
def fpDivZero : Nat := 2
def fpOverflow : Nat := 4
def fpUnderflow : Nat := 8
def fpInexact : Nat := 16

def fpSignBit (f : FpFmt) (s : Bool) : Nat := b2n s * 2 ^ (f.eb + f.mb)
def fpInf (f : FpFmt) (s : Bool) : Nat := fpSignBit f s + f.expMax * 2 ^ f.mb
def fpZero (f : FpFmt) (s : Bool) : Nat := fpSignBit f s
def fpMax (f : FpFmt) (s : Bool) : Nat := fpSignBit f s + (f.expMax * 2 ^ f.mb - 1)

/-- A quiet NaN whose sign and payload are a free function of the operands. -/
def fpNan (f : FpFmt) (ops : List Nat) : Nat :=
  let r := Config.freeOf .fpNan ops
  fpSignBit f (bitOf r 0) + f.expMax * 2 ^ f.mb + 2 ^ (f.mb - 1) + (r / 2) % 2 ^ (f.mb - 1)

/-- Rounding codes of Table 10-4: 0 nearest even, 1 nearest away, 2 toward zero, 3 down, 4 up. Whether a
magnitude with the given remainder rounds up. -/
def fpUp (rm : Nat) (neg odd : Bool) (cmpHalf : Ordering) (inexact : Bool) : Bool :=
  match rm with
  | 0 => match cmpHalf with
    | .gt => true
    | .eq => odd
    | .lt => false
  | 1 => match cmpHalf with
    | .lt => false
    | _ => true
  | 2 => false
  | 3 => neg && inexact
  | _ => !neg && inexact

/-- m × 2^e (plus something below it when sticky) cut to multiples of 2^q and rounded: the multiple, and
whether the cut was inexact. -/
def fpCut (rm : Nat) (neg : Bool) (m : Nat) (e : Int) (sticky : Bool) (q : Int) : Nat × Bool :=
  if q ≤ e then
    let g := m * 2 ^ (e - q).toNat
    (if fpUp rm neg (bitOf g 0) .lt sticky then g + 1 else g, sticky)
  else
    let k := (q - e).toNat
    let g := m >>> k
    let r := m % 2 ^ k
    let half := 2 ^ (k - 1)
    let ne := sticky || r != 0
    let c := if r > half ∨ (r = half ∧ sticky) then Ordering.gt else if r = half then .eq else .lt
    (if fpUp rm neg (bitOf g 0) c ne then g + 1 else g, ne)

/-- The number rounded to the format: bits and flags (IEEE 754). -/
def fpRound (f : FpFmt) (rm : Nat) (neg : Bool) (m : Nat) (e : Int) (sticky : Bool) : Nat × Nat :=
  if m = 0 then
    if sticky then
      let (g, _) := fpCut rm neg 0 0 true (1 - (f.bias : Int) - f.mb)
      (fpSignBit f neg + g, fpUnderflow + fpInexact)
    else (fpZero f neg, 0)
  else
    let top := e + (Nat.log2 m : Int)
    let emin : Int := 1 - (f.bias : Int)
    let q := max (top - f.mb) (emin - f.mb)
    let (g, ne) := fpCut rm neg m e sticky q
    let (g, q) := if g = 2 ^ (f.mb + 1) then (2 ^ f.mb, q + 1) else (g, q)
    -- unbounded-exponent rounding decides tininess after rounding
    let (gu, _) := fpCut rm neg m e sticky (top - f.mb)
    let tinyB := decide (top < emin)
    let tinyA := decide (top < emin) && !(decide (top + 1 = emin) && gu == 2 ^ (f.mb + 1))
    let tiny := if tinyB == tinyA then tinyB else bitOf (Config.freeOf .fpNan [0]) 0
    if g < 2 ^ f.mb then
      (fpSignBit f neg + g, if ne then fpUnderflow + fpInexact else 0)
    else
      let ex := q + f.mb + f.bias
      if (f.expMax : Int) ≤ ex then
        let toInf := rm = 0 ∨ rm = 1 ∨ (rm = 3 ∧ neg) ∨ (rm = 4 ∧ ¬ neg)
        (if toInf then fpInf f neg else fpMax f neg, fpOverflow + fpInexact)
      else
        (fpSignBit f neg + ex.toNat * 2 ^ f.mb + (g - 2 ^ f.mb),
          if ne then fpInexact + (if tiny then fpUnderflow else 0) else 0)

/-- Flags of an operation that propagates a NaN. -/
def fpNanFlags (vs : List FpVal) : Nat := if vs.contains (.nan true) then fpInvalid else 0

def isNanVal : FpVal → Bool
  | .nan _ => true
  | _ => false

/-- Signed value of a finite datum scaled to exponent e0 (e0 ≤ e). -/
def fpScaled (neg : Bool) (m : Nat) (e e0 : Int) : Int :=
  let x : Int := (m * 2 ^ (e - e0).toNat : Nat)
  if neg then -x else x

/-- Sign of an exact zero sum: negative when rounding down, else positive; equal signs keep theirs. -/
def fpZeroSign (rm : Nat) (sa sb : Bool) : Bool := if sa == sb then sa else rm == 3

/-- Sum of two finite data, rounded. -/
def fpSumFin (f : FpFmt) (rm : Nat) (sa : Bool) (ma : Nat) (ea : Int) (sb : Bool) (mb : Nat) (eb : Int) :
    Nat × Nat :=
  let e0 := min ea eb
  let x := fpScaled sa ma ea e0 + fpScaled sb mb eb e0
  if x = 0 then (fpZero f (fpZeroSign rm sa sb), 0)
  else fpRound f rm (decide (x < 0)) x.natAbs e0 false

def fpAddV (f : FpFmt) (rm : Nat) (ops : List Nat) (a b : FpVal) : Nat × Nat :=
  match a, b with
  | .nan _, _ => (fpNan f ops, fpNanFlags [a, b])
  | _, .nan _ => (fpNan f ops, fpNanFlags [a, b])
  | .inf s, .inf t => if s == t then (fpInf f s, 0) else (fpNan f ops, fpInvalid)
  | .inf s, _ => (fpInf f s, 0)
  | _, .inf t => (fpInf f t, 0)
  | .fin sa ma ea, .fin sb mb eb => fpSumFin f rm sa ma ea sb mb eb

def fpNegV : FpVal → FpVal
  | .nan s => .nan s
  | .inf s => .inf (!s)
  | .fin s m e => .fin (!s) m e

def fpAdd (f : FpFmt) (rm a b : Nat) : Nat × Nat := fpAddV f rm [1, a, b] (fpDecode f a) (fpDecode f b)
def fpSub (f : FpFmt) (rm a b : Nat) : Nat × Nat :=
  fpAddV f rm [2, a, b] (fpDecode f a) (fpNegV (fpDecode f b))

def fpMul (f : FpFmt) (rm a b : Nat) : Nat × Nat :=
  let ops := [3, a, b]
  match fpDecode f a, fpDecode f b with
  | .nan s, y => (fpNan f ops, fpNanFlags [.nan s, y])
  | x, .nan s => (fpNan f ops, fpNanFlags [x, .nan s])
  | .inf s, .inf t => (fpInf f (s != t), 0)
  | .inf s, .fin t m _ => if m = 0 then (fpNan f ops, fpInvalid) else (fpInf f (s != t), 0)
  | .fin s m _, .inf t => if m = 0 then (fpNan f ops, fpInvalid) else (fpInf f (s != t), 0)
  | .fin s m e, .fin t n k => fpRound f rm (s != t) (m * n) (e + k) false

def fpDiv (f : FpFmt) (rm a b : Nat) : Nat × Nat :=
  let ops := [4, a, b]
  match fpDecode f a, fpDecode f b with
  | .nan s, y => (fpNan f ops, fpNanFlags [.nan s, y])
  | x, .nan s => (fpNan f ops, fpNanFlags [x, .nan s])
  | .inf _, .inf _ => (fpNan f ops, fpInvalid)
  | .inf s, .fin t _ _ => (fpInf f (s != t), 0)
  | .fin s _ _, .inf t => (fpZero f (s != t), 0)
  | .fin s m e, .fin t n k =>
    if n = 0 then
      (if m = 0 then (fpNan f ops, fpInvalid) else (fpInf f (s != t), fpDivZero))
    else if m = 0 then (fpZero f (s != t), 0)
    else
      let sh := f.mb + 3 + Nat.log2 n
      let x := m * 2 ^ sh
      fpRound f rm (s != t) (x / n) (e - k - sh) (x % n != 0)

/-- Integer square root by bits, from bit i down. -/
def isqrtFrom (x : Nat) : Nat → Nat → Nat
  | 0, r => r
  | i + 1, r => isqrtFrom x i (if (r + 2 ^ i) * (r + 2 ^ i) ≤ x then r + 2 ^ i else r)

def isqrt (x : Nat) : Nat := isqrtFrom x (Nat.log2 x / 2 + 1) 0

def fpSqrt (f : FpFmt) (rm a : Nat) : Nat × Nat :=
  match fpDecode f a with
  | .nan s => (fpNan f [5, a], fpNanFlags [.nan s])
  | .inf s => if s then (fpNan f [5, a], fpInvalid) else (fpInf f false, 0)
  | .fin s m e =>
    if m = 0 then (fpZero f s, 0)
    else if s then (fpNan f [5, a], fpInvalid)
    else
      let sh := 2 * (f.mb + 3) + (if (e % 2 = 0) then 0 else 1)
      let x := m * 2 ^ sh
      let r := isqrt x
      fpRound f rm false r ((e - sh) / 2) (r * r != x)

/-- a × b + c with one rounding. -/
def fpFma (f : FpFmt) (rm a b c : Nat) : Nat × Nat :=
  let ops := [6, a, b, c]
  let vc := fpDecode f c
  match fpDecode f a, fpDecode f b with
  | .nan s, y => (fpNan f ops, fpNanFlags [.nan s, y, vc])
  | x, .nan s => (fpNan f ops, fpNanFlags [x, .nan s, vc])
  | .inf s, .inf t => fpAddV f rm ops (.inf (s != t)) vc
  | .inf s, .fin t m _ =>
    if m = 0 then (fpNan f ops, fpInvalid) else fpAddV f rm ops (.inf (s != t)) vc
  | .fin s m _, .inf t =>
    if m = 0 then (fpNan f ops, fpInvalid) else fpAddV f rm ops (.inf (s != t)) vc
  | .fin s m e, .fin t n k => fpAddV f rm ops (.fin (s != t) (m * n) (e + k)) vc

/-- Order of two data that are not NaN. -/
def fpLtV : FpVal → FpVal → Bool
  | .inf s, .inf t => s && !t
  | .inf s, _ => s
  | _, .inf t => !t
  | .fin sa ma ea, .fin sb mb eb =>
    let e0 := min ea eb
    decide (fpScaled sa ma ea e0 < fpScaled sb mb eb e0)
  | _, _ => false

def fpEqV (a b : FpVal) : Bool := !isNanVal a && !isNanVal b && !fpLtV a b && !fpLtV b a

/-- Quiet equality; signalling less-than and less-or-equal. -/
def fpEq (f : FpFmt) (a b : Nat) : Bool × Nat :=
  (fpEqV (fpDecode f a) (fpDecode f b), fpNanFlags [fpDecode f a, fpDecode f b])

def fpNanAny (x y : FpVal) : Bool := isNanVal x || isNanVal y

def fpLt (f : FpFmt) (a b : Nat) : Bool × Nat :=
  let x := fpDecode f a
  let y := fpDecode f b
  if fpNanAny x y then (false, fpInvalid) else (fpLtV x y, 0)

def fpLe (f : FpFmt) (a b : Nat) : Bool × Nat :=
  let x := fpDecode f a
  let y := fpDecode f b
  if fpNanAny x y then (false, fpInvalid) else (!fpLtV y x, 0)

/-- Minimum and maximum: a number against a NaN gives the number; two NaNs a NaN; two zeros of unlike
sign give the negative one as minimum (IEEE 754, log 50). -/
def fpMin (f : FpFmt) (a b : Nat) : Nat × Nat :=
  let x := fpDecode f a
  let y := fpDecode f b
  let fl := fpNanFlags [x, y]
  if isNanVal x && isNanVal y then (fpNan f [7, a, b], fl)
  else if isNanVal x then (b, fl)
  else if isNanVal y then (a, fl)
  else if fpEqV x y then (if bitOf a (f.eb + f.mb) then a else b, fl)
  else (if fpLtV x y then a else b, fl)

def fpMaximum (f : FpFmt) (a b : Nat) : Nat × Nat :=
  let x := fpDecode f a
  let y := fpDecode f b
  let fl := fpNanFlags [x, y]
  if isNanVal x && isNanVal y then (fpNan f [8, a, b], fl)
  else if isNanVal x then (b, fl)
  else if isNanVal y then (a, fl)
  else if fpEqV x y then (if bitOf a (f.eb + f.mb) then b else a, fl)
  else (if fpLtV x y then b else a, fl)

/-- A datum rounded to an integer. -/
def fpToIntV (rm : Nat) (neg : Bool) (m : Nat) (e : Int) : Int × Bool :=
  let (g, ne) := fpCut rm neg m e false 0
  (if neg then -(g : Int) else g, ne)

/-- Conversion to an integer of w bits: the bits, and flags. A NaN, an infinity or a value out of range is
invalid and its result a free value (log 52). -/
def fpToInt (f : FpFmt) (rm a w : Nat) (signed : Bool) : Nat × Nat :=
  let bad := (Config.freeOf .fpNan [9, f.mb, a, w, b2n signed] % 2 ^ w, fpInvalid)
  match fpDecode f a with
  | .fin s m e =>
    let (x, ne) := fpToIntV rm s m e
    let lo : Int := if signed then -(2 ^ (w - 1) : Nat) else 0
    let hi : Int := if signed then (2 ^ (w - 1) : Nat) - 1 else (2 ^ w : Nat) - 1
    if lo ≤ x ∧ x ≤ hi then (wrapInt w x, if ne then fpInexact else 0) else bad
  | _ => bad

/-- Conversion from an integer. -/
def fpOfInt (f : FpFmt) (rm : Nat) (x : Int) : Nat × Nat :=
  fpRound f rm (decide (x < 0)) x.natAbs 0 false

/-- Conversion between formats. -/
def fpConv (from_ to_ : FpFmt) (rm a : Nat) : Nat × Nat :=
  match fpDecode from_ a with
  | .nan s => (fpNan to_ [10, from_.mb, a], fpNanFlags [.nan s])
  | .inf s => (fpInf to_ s, 0)
  | .fin s m e => if m = 0 then (fpZero to_ s, 0) else fpRound to_ rm s m e false

/-- A subnormal result flushed to zero of its sign (R192). -/
def fpFlush (f : FpFmt) (x : Nat) : Nat :=
  if bits x f.mb f.eb = 0 then fpZero f (bitOf x (f.eb + f.mb)) else x

end Sys2Proof.Machine
end

