-- ==== Sys2Proof/Machine/Shroud.lean ====
section
/-!
DEFINITION. Shroud: addresses of other chips, routes, the link layer of a port with its credits and its
retry, and requests to other chips (R384 to R386, R400 to R416, R425).
-/

namespace Sys2Proof.Machine

/-! ## Addresses (R384 to R386) -/

def ownChip (s : State) : ChipId := Fin.ofNat 64 s.dev.strapFab.toNat

/-- Fabric mode is in force (R3; Cleat D offset 0x14 bit 4). -/
def fabricMode (s : State) : Bool := (byteAt s.cleatD.snapshot 0x14).getLsbD 4

/-- Where a 48-bit address leads: a local address, or an offset at another chip (R384, R385). -/
inductive Place where
  | here (a : Nat)
  | there (home : ChipId) (off : Nat)
  deriving DecidableEq, Repr

def placeOf (s : State) (a : Nat) : Place :=
  if bitOf a 47 then
    let c : ChipId := Fin.ofNat 64 (bits a 41 6)
    if c = ownChip s then .here (bits a 0 41) else .there c (bits a 0 41)
  else .here (bits a 0 47)

/-- The global address of an offset at a chip. -/
def globalAddr (c : ChipId) (off : Nat) : Nat := 2 ^ 47 + c.val * 2 ^ 41 + off % 2 ^ 41

/-! ## Routes (R410, R411) -/

def coord (c d : Nat) : Nat := bits c (2 * d) 2

/-- Number of chips along a dimension. -/
def dimSize (d : Fin 3) : Nat := (Config.machineDim d).val + 1

/-- The chip next to c along dimension d upward or downward, if the machine has that link. In a dimension
of size 2 one link joins the two. -/
def neighbour (c : Nat) (d : Fin 3) (up : Bool) : Option Nat :=
  let n := dimSize d
  let x := coord c d
  let x' := if up then x + 1 else x + n - 1
  if n = 1 then none
  else if Config.machineTorus d ∨ (if up then x + 1 < n else 0 < x) then
    some (setBits c (2 * d.val) 2 (x' % n))
  else none

def dims : List (Fin 3) := [0, 1, 2]

/-- Port of a direction (Table 11-10). -/
def portOf (d : Fin 3) (up : Bool) : ShlId := Fin.ofNat 8 (2 * d.val + (if up then 0 else 1))

/-- The port's dimension. -/
def portDim (p : ShlId) : Nat := if p = 6 then 0 else if p = 7 then 1 else p.val / 2

def portUp (s : State) (p : ShlId) : Bool := (s.shl.get p).st == .active

/-- The partner of a port is customer logic, whose link carries CP4 to CP7 traffic only (R401). -/
def attached (s : State) (p : ShlId) : Bool :=
  match (s.shl.get p).partner with
  | some q => q.attach
  | none => false

/-- A trained port to another chip: it may carry routed traffic. -/
def chipLink (s : State) (p : ShlId) : Bool := portUp s p && !attached s p

/-- A link of this chip in a direction can carry traffic: a trained port to the neighbour. -/
def linkUp (s : State) (d : Fin 3) (up : Bool) : Bool :=
  let p := portOf d up
  chipLink s p || (dimSize d == 2 && chipLink s (portOf d true))
    || (up && ((d == 0 && chipLink s 6) || (d == 1 && chipLink s 7)))

/-- Neighbours of a chip on links that are not known to be down. -/
def edges (s : State) (c : Nat) : List Nat :=
  dims.flatMap fun d => [true, false].filterMap fun up =>
    match neighbour c d up with
    | some e => if c = (ownChip s).val ∧ ¬ linkUp s d up then none else some e
    | none => none

/-- A chip that may carry a route: a member not lost. -/
def carrier (s : State) (c : Nat) : Bool := s.fab.members.getLsbD c && !s.fab.lost.getLsbD c

/-- Chips at most k hops from the chips given, by carriers only. -/
def spread (s : State) : Nat → List Nat → List Nat
  | 0, cs => cs
  | k + 1, cs =>
    spread s k ((List.range 64).filter fun c =>
      cs.contains c || (carrier s c && (edges s c).any fun e => cs.contains e))

/-- Hops from c to dst by carriers, none when more than 24. -/
def hops (s : State) (c dst : Nat) : Option Nat :=
  (List.range 25).find? fun k => (spread s k [dst]).contains c

/-- Direction the dimension order takes first from c toward dst: x, then y, then z; in a torus the
shorter way, upward on a tie. -/
def orderDir (c dst : Nat) : Option (Fin 3 × Bool) :=
  dims.findSome? fun d =>
    let n := dimSize d
    let x := coord c d
    let y := coord dst d
    if x = y then none
    else if n = 2 then some (d, true)
    else if Config.machineTorus d then
      let f := (y + n - x) % n
      some (d, decide (f ≤ n - f))
    else some (d, decide (x < y))

/-- The dimension-ordered path from c to dst runs over carriers and known links only. -/
def orderPath (s : State) (dst : Nat) : Nat → Nat → Bool
  | 0, c => c == dst
  | k + 1, c =>
    if c = dst then true
    else
      match orderDir c dst with
      | none => false
      | some (d, up) =>
        match neighbour c d up with
        | none => false
        | some e => (edges s c).contains e && carrier s e && orderPath s dst k e

/-- The port for a direction and a destination: SHL6 or SHL7 in place of SHL0 or SHL2 for destinations
whose ID bit 0 or 2 is 1, when trained with a chip. -/
def dirPort (s : State) (d : Fin 3) (up : Bool) (dst : Nat) : ShlId :=
  if d = 0 ∧ up ∧ bitOf dst 0 ∧ chipLink s 6 then 6
  else if d = 1 ∧ up ∧ bitOf dst 2 ∧ chipLink s 7 then 7
  else if dimSize d = 2 then portOf d true
  else portOf d up

/-- The routing-table entry of this chip for dst (R411). -/
def routeTo (s : State) (dst : Nat) : BitVec 4 :=
  let own := (ownChip s).val
  if dst = own then 0xE
  else if !carrier s dst then 0xF
  else if orderPath s dst 24 own then
    match orderDir own dst with
    | some (d, up) => BitVec.ofNat 4 (dirPort s d up dst).val
    | none => 0xF
  else
    match hops s own dst with
    | none => 0xF
    | some h =>
      let cands := dims.flatMap fun d => [true, false].filterMap fun up =>
        match neighbour own d up with
        | some e =>
          if linkUp s d up && carrier s e && (hops s e dst == some (h - 1)) then some (d, up) else none
        | none => none
      let pick := match orderDir own dst with
        | some o => if cands.contains o then some o else cands.head?
        | none => cands.head?
      match pick with
      | some (d, up) => BitVec.ofNat 4 (dirPort s d up dst).val
      | none => 0xF

/-- The chip's routing table computed anew. -/
def reroute (s : State) : State :=
  { s with fab.routes := Vector.ofFn fun c : Fin 64 => routeTo s c.val }

/-! ## Messages (Tables 11-7, 11-8) -/

def mkRd : Nat := 1
def mkWr : Nat := 2
def mkAtom : Nat := 3
def mkRdResp : Nat := 4
def mkWrAck : Nat := 5
def mkAtomResp : Nat := 6
def mkErr : Nat := 7
def mkTrimx : Nat := 8
def mkMgmt : Nat := 9
def mkSteal : Nat := 10
def mkStealResp : Nat := 11
def mkCpx : Nat := 12
def mkCpxResp : Nat := 13

/-- VC of a message kind (Table 11-8). -/
def mkVc (mk : Nat) : Nat :=
  match mk with
  | 1 => 0 | 2 => 0 | 3 => 0 | 4 => 1 | 5 => 1 | 6 => 1 | 7 => 1 | 8 => 2 | 9 => 3
  | 10 => 0 | 11 => 1 | 12 => 0 | _ => 1

/-- Data slots of a byte count, 0 to 4. -/
def dataSlots (n : Nat) : Nat := min 4 ((n + 15) / 16)

/-- A message: 16-byte header slot and its data slots. -/
def mkMessage (mk dst src tag off b12 b13 b14 : Nat) (data : Bytes) : Bytes :=
  toLE 1 mk ++ toLE 1 (mkVc mk + 8 * dataSlots data.length) ++ toLE 1 (dst % 64) ++ toLE 1 (src % 64)
    ++ toLE 2 tag ++ toLE 6 off ++ toLE 1 b12 ++ toLE 1 b13 ++ toLE 1 b14 ++ [0]
    ++ padTo (16 * dataSlots data.length) data

def msgMk (m : Bytes) : Nat := (byteAt m 0).toNat
def msgVc (m : Bytes) : Nat := bits (byteAt m 1).toNat 0 2
def msgClass (m : Bytes) : Nat := bits (byteAt m 1).toNat 2 1
def msgDst (m : Bytes) : ChipId := Fin.ofNat 64 (bits (byteAt m 2).toNat 0 6)
def msgSrc (m : Bytes) : ChipId := Fin.ofNat 64 (bits (byteAt m 3).toNat 0 6)
def msgTag (m : Bytes) : Nat := fieldLE m 4 2
def msgOff (m : Bytes) : Nat := bits (fieldLE m 6 6) 0 41
def msgLen (m : Bytes) : Nat := bits (byteAt m 12).toNat 0 6 + 1
def msgOp (m : Bytes) : Nat := (byteAt m 12).toNat
def msgPriv (m : Bytes) : Nat := bits (byteAt m 13).toNat 0 3
def msgCause (m : Bytes) : Nat := (byteAt m 14).toNat
def msgSlots (m : Bytes) : Nat := 1 + min 4 (bits (byteAt m 1).toNat 3 3)
def msgData (m : Bytes) : Bytes := m.drop 16

/-- Pool of a message: VC × 2 + class. -/
def msgPool (m : Bytes) : Fin 8 := Fin.ofNat 8 (msgVc m * 2 + msgClass m)

/-- The link out of a port wraps its dimension, between coordinate DIM - 1 and 0 of a torus (R412). -/
def wraps (s : State) (p : ShlId) : Bool :=
  match (s.shl.get p).partner with
  | none => false
  | some q =>
    let x := coord (ownChip s).val (portDim p)
    let y := coord q.chip.val (portDim p)
    Config.machineTorus (Fin.ofNat 3 (portDim p))
      && (if p = 1 ∨ p = 3 ∨ p = 5 then decide (x < y) else decide (y < x))

/-- The header as the egress writes it: class bit for the link it leaves on, hop count one more when it
is forwarded (R412). -/
def egress (s : State) (inPort : Option ShlId) (p : ShlId) (m : Bytes) : Bytes :=
  let cls := if wraps s p then 1
    else match inPort with
      | some i => if portDim i = portDim p then msgClass m else 0
      | none => 0
  let hop := match inPort with
    | some _ => (byteAt m 15).toNat + 1
    | none => 0
  overwrite (overwrite m 1 (toLE 1 (setBits (byteAt m 1).toNat 2 1 cls))) 15 (toLE 1 hop)

/-! ## Flits (R402 to R409) -/

def shlMod (s : State) (p : ShlId) (f : ShlPort → ShlPort) : State := { s with shl := vmod s.shl p f }

/-- A flit without its CRC, closed by CRC-32C over bytes 0 to 251 (Table 11-6). -/
def closeFlit (body : Bytes) : Bytes :=
  let b := padTo 252 body
  b ++ toLE 4 (crc32c b)

/-- Credit returns of a flit: 6 bits a pool. -/
def creditField (cr : List Nat) : Nat := cr.foldr (fun c a => c + 64 * a) 0

/-- A sequenced flit: sequence number, acknowledgement, credit returns, message slots. -/
def seqFlit (q : ShlPort) (ret : List Nat) (slots : Bytes) : Bytes :=
  closeFlit ([1] ++ toLE 2 q.nextSeq.toNat ++ toLE 2 (q.expSeq.toNat + 0x8000) ++ toLE 6 (creditField ret)
    ++ slots)

/-- An unsequenced flit, with ACK and NAK only. -/
def ackFlit (q : ShlPort) (nak : Bool) : Bytes :=
  closeFlit ([if nak then 2 else 0, 0, 0] ++ toLE 2 (q.expSeq.toNat + 0x8000))

/-- Credits whose hold by perturbation kind 1 is over join those to be returned (R541). -/
def releaseLate (now : Nat) (q : ShlPort) : ShlPort :=
  let (due, rest) := q.late.partition fun l => decide (l.2.2 ≤ now)
  { q with late := rest, owed := due.foldl (fun o l => vmod o l.1 (· + l.2.1)) q.owed }

/-- Perturbation kind 1 holds back the returns of a port and pool. -/
def creditHeld (s : State) (p : ShlId) (pool : Fin 8) : Bool :=
  s.pert.active.get 1 && bitOf (byteAt (s.pert.params.get 1) 4).toNat p.val
    && bitOf (byteAt (s.pert.params.get 1) 5).toNat (pool.val / 2)

/-- Slots of a pool are free again: their credits are to be returned (R406). -/
def oweCredit (s : State) (p : ShlId) (pool : Fin 8) (n : Nat) : State :=
  if creditHeld s p pool then
    let d := fieldLE (s.pert.params.get 1) 6 2
    shlMod s p fun q => { q with late := q.late ++ [(pool, n, s.pht.cycles + (d + 2) / 3)] }
  else shlMod s p fun q => { q with owed := vmod q.owed pool (· + n) }

/-- The first message of the send queue that may go: its pool has credits for all its slots, and no
earlier message of its VC waits (R404, R407, R413). -/
def pickMsg (q : ShlPort) : List (Option (ShlId × Fin 8) × Bytes) → List Nat →
    Option (Option (ShlId × Fin 8) × Bytes)
  | [], _ => none
  | m :: ms, blocked =>
    if blocked.contains (msgVc m.2) then pickMsg q ms blocked
    else if msgSlots m.2 ≤ q.credits.get (msgPool m.2) then some m
    else pickMsg q ms (msgVc m.2 :: blocked)

/-- One sequenced flit leaves a port with the given message slots: it takes every credit to be returned
with it and is kept for replay. -/
def sendSeq (s : State) (p : ShlId) (slots : Bytes) : State :=
  let q := releaseLate s.pht.cycles (s.shl.get p)
  let ret := q.owed.toList.map fun n => min 63 n
  let f := seqFlit q ret slots
  emit (shlMod s p fun _ => { q with
    owed := Vector.ofFn fun i : Fin 8 => q.owed.get i - min 63 (q.owed.get i),
    nextSeq := q.nextSeq + 1, replay := q.replay ++ [(q.nextSeq, f)] }) (.flit p f)

/-- Credits to be returned go out in a flit of their own when no message carries them (R406). -/
def creditFlit (s : State) (p : ShlId) : State :=
  let q := releaseLate s.pht.cycles (s.shl.get p)
  if q.st == .active && decide (q.replay.length < 64) && q.owed.toList.any (fun n => decide (0 < n)) then
    sendSeq s p []
  else s

/-- A forwarded message has left: the slots it held on the link it came in on are free (R406). -/
def freeSlots (s : State) : Option (ShlId × Fin 8) → Nat → State
  | none, _ => s
  | some (i, pool), n => creditFlit (oweCredit s i pool n) i

/-- Messages leave a port while it is ACTIVE, a message has credits and the replay buffer has room. One
message is sent in a flit (log 57). -/
def pump : Nat → State → ShlId → State
  | 0, s, _ => s
  | k + 1, s, p =>
    let q := s.shl.get p
    if q.st == .active && decide (q.replay.length < 64) then
      match pickMsg q q.txq [] with
      | none => s
      | some m =>
        let n := msgSlots m.2
        let t := shlMod s p fun q => { q with
          txq := q.txq.erase m, credits := vmod q.credits (msgPool m.2) (· - n) }
        pump k (freeSlots (sendSeq t p m.2) m.1 n) p
    else s

def pumpAll (s : State) (p : ShlId) : State := pump 64 s p

/-- A message enters a port's send queue and leaves as far as it may. -/
def enqueue (s : State) (inPort : Option ShlId) (p : ShlId) (m : Bytes) : State :=
  let t := shlMod s p fun q => { q with
    txq := q.txq ++ [(inPort.map fun i => (i, msgPool m), egress s inPort p m)] }
  pumpAll t p

/-- The output port toward a chip, none when the routing table has no route. -/
def routePort (s : State) (c : ChipId) : Option ShlId :=
  let r := (s.fab.routes.get c).toNat
  if r < 8 then some (Fin.ofNat 8 r) else none

/-- A message of this chip's own goes out toward its destination; dropped when there is no route. -/
def sendOwn (s : State) (m : Bytes) : State :=
  match routePort s (msgDst m) with
  | some p => enqueue s none p m
  | none => s

/-- Why a global access to another chip is refused at once (R386, R425). -/
def remoteErr (s : State) (home : ChipId) : Option BusErr :=
  if !fabricMode s || s.fab.role == 3 then some .shroud
  else if s.fab.lost.getLsbD home.val then some .noRoute
  else if !s.fab.members.getLsbD home.val then some .shroud
  else if (routePort s home).isNone then some .shroud
  else none

/-- What became of a remote request. -/
inductive RemTry where
  | sent (tag : BitVec 12) (s : State)
  /-- 256 requests are outstanding (Table 11-12): the initiator waits -/
  | full
  | err (e : BusErr)

/-- Source port of an initiator in TAG [15:12]: the hart's number, else 2 (log 94). -/
def RemWait.port : RemWait → Nat
  | .mast h => h.val
  | .mastStore h _ => h.val
  | .cp h _ _ _ => h.val
  | .dropped h => h.val
  | _ => 2

/-- A request goes out: it takes a tag and waits for its response (R414, R415). Byte 13 is 0 for a Mast
hart at U, 1 at S, 2 for a data-plane initiator (Table 14-9). -/
def remoteSend (s : State) (w : RemWait) (home : ChipId) (mk off b12 b13 : Nat) (data : Bytes) : State :=
  let tag := s.fab.nextTag
  let m := mkMessage mk home.val (ownChip s).val (tag.toNat + 2 ^ 12 * w.port) off b12 b13 0 data
  sendOwn { s with fab.nextTag := tag + 1,
                   fab.remotes := s.fab.remotes ++ [{ tag := tag, home := home, wait := w }] } m

/-- A request whose initiator waits for the answer. -/
def remoteRequest (s : State) (w : RemWait) (home : ChipId) (mk off b12 b13 : Nat) (data : Bytes) : RemTry :=
  match remoteErr s home with
  | some e => .err e
  | none =>
    if 256 ≤ s.fab.remotes.length then .full
    else .sent s.fab.nextTag (remoteSend s w home mk off b12 b13 data)

/-- A write list split so that no piece crosses a 64-byte line: (offset, bytes). -/
def splitLines : Nat → Nat → Bytes → List (Nat × Bytes)
  | 0, _, _ => []
  | k + 1, a, bs =>
    if bs.isEmpty then []
    else
      let n := 64 - a % 64
      (a, bs.take n) :: splitLines k (a + min n bs.length) (bs.drop n)

/-- Posted writes to another chip, one WR per 64-byte line (Table 11-8). One that finds 256 requests
outstanding waits in the port's queue, which is only a delay (log 59). -/
def remoteWrite (s : State) (w : RemWait) (home : ChipId) (b13 : Nat) (off : Nat) (bs : Bytes) :
    Option BusErr × State :=
  match remoteErr s home with
  | some e => (some e, s)
  | none =>
    (none, (splitLines (bs.length + 1) off bs).foldl
      (fun t p => remoteSend t w home mkWr p.1 (p.2.length - 1) b13 p.2) s)

/-! ## Port states (Table 11-5) -/

/-- The unit's domain: PD15 for SHL0 to SHL3, PD16 for SHL4 to SHL7. -/
def shlDom (p : ShlId) : DomId := if p.val < 4 then 15 else 16

def shlPowered (s : State) (p : ShlId) : Bool := domRuns s (shlDom p)

/-- The state of Table 11-5 as it shows: OFF while not granted or not enabled, DETECT from the grant. -/
def effPort (s : State) (p : ShlId) : PortSt :=
  let q := s.shl.get p
  if !shlPowered s p || !q.en then .off else if q.st == .off then .detect else q.st

/-- The width shown: none but on a trained port (0x2601). -/
def effWidth (s : State) (p : ShlId) : Nat :=
  match effPort s p with
  | .active => (s.shl.get p).width.toNat
  | .retrain => (s.shl.get p).width.toNat
  | _ => 0

def PortSt.code : PortSt → Nat
  | .off => 0 | .detect => 1 | .eq => 2 | .align => 3
  | .config => 4 | .active => 5 | .retrain => 6 | .down => 7

/-- PORT_DETECT: receiver detection every 1 ms; on detect the port goes to EQ. -/
def execPortDetect (p : ShlId) (detected : Bool) (s : State) : Host.Outcome State Fault Refusal :=
  if effPort s p == .detect then
    .next (shlMod s p fun q => { q with st := if detected then .eq else .detect })
  else .next s

/-- PORT_EQ_DONE: the preset exchange ends. -/
def execPortEqDone (p : ShlId) (s : State) : Host.Outcome State Fault Refusal :=
  if effPort s p == .eq then .next (shlMod s p fun q => { q with st := .align }) else .next s

/-- PORT_ALIGN: block lock and deskew, or back to DETECT after 5 ms. -/
def execPortAlign (p : ShlId) (locked : Bool) (s : State) : Host.Outcome State Fault Refusal :=
  if effPort s p == .align then
    .next (shlMod s p fun q => { q with st := if locked then .config else .detect })
  else .next s

/-- Keys of the standing EMCY 0xFF40: one for DEGRADED and one for DOWN of each port (log 58). -/
def ff40Deg (p : ShlId) : Nat := 2 * p.val
def ff40Down (p : ShlId) : Nat := 2 * p.val + 1

def raise40 (s : State) (p : ShlId) (down : Bool) : State :=
  raiseStanding s 0xFF40 (BitVec.ofNat 8 (0x20 + p.val)) (if down then ff40Down p else ff40Deg p)
    [BitVec.ofNat 8 p.val, if down then 2 else 1]

/-- What a port shows once trained: x2 raises EMCY 0xFF40 DEGRADED, x4 clears it; DOWN ends (R400, R401). -/
def trained (s : State) (p : ShlId) : State :=
  let t := clearStanding s 0xFF40 (ff40Down p)
  if (t.shl.get p).width == 1 then
    raise40 (shlMod t p fun q => { q with degraded := true }) p false
  else clearStanding t 0xFF40 (ff40Deg p)

/-- The partner may be served on this port: customer logic only on SHL6 and SHL7, x2 only with X2_OK. -/
def partnerFits (q : ShlPort) (p : ShlId) (r : ShlPartner) : Bool :=
  (!r.attach || p == 6 || p == 7) && (r.width == 4 || (r.width == 2 && q.x2ok))

/-- The link is unusable: its replay buffer and credits are discarded, and the messages queued for it are
lost with them; EMCY 0xFF40 DOWN stands (Table 11-5). -/
def portGoDown (s : State) (p : ShlId) : State :=
  let s := { s with shl := s.shl.map fun q => { q with
    txq := q.txq.map fun e => (e.1.bind fun i => if i.1 = p then none else some i, e.2) } }
  raise40 (shlMod s p fun q => { q with
    st := .down, width := 0, replay := [], txq := [], credits := Vector.replicate 8 0,
    owed := Vector.replicate 8 0, late := [], downs := q.downs + 1 }) p true

/-- Retrains of a port within the last second, this one included. -/
def recentRetrains (now : Nat) (q : ShlPort) : List Nat :=
  now :: q.retrainAt.filter fun t => decide (now < t + cyclesPerSecond)

/-- An ACTIVE port enters RETRAIN keeping its replay buffer, sequence numbers and credits; the third
retrain within 1 s takes it DOWN (Table 11-5, R409). -/
def portRetrain (s : State) (p : ShlId) : State :=
  let r := recentRetrains s.pht.cycles (s.shl.get p)
  let t := shlMod s p fun q => { q with st := .retrain, retrainAt := r, retrains := q.retrains + 1,
                                        noProgress := 0 }
  if 3 ≤ r.length then portGoDown t p else t

/-- Unacknowledged flits go out again in order, from the oldest (R408). -/
def resend (s : State) (p : ShlId) : State :=
  (s.shl.get p).replay.foldl (fun t f => emit t (.flit p f.2)) s

/-- PORT_RETRAIN_DONE: the port is ACTIVE again and resumes in order. -/
def execPortRetrainDone (p : ShlId) (s : State) : Host.Outcome State Fault Refusal :=
  if effPort s p == .retrain then
    .next (pumpAll (resend (trained (shlMod s p fun q => { q with st := .active }) p) p) p)
  else .next s

/-- PORT_DOWN_END: after 100 ms the port detects again. -/
def execPortDownEnd (p : ShlId) (s : State) : Host.Outcome State Fault Refusal :=
  if effPort s p == .down then .next (shlMod s p fun q => { q with st := .detect }) else .next s

/-- A replay: counted, and after 8 without progress of the acknowledgement the port retrains (R408, R409). -/
def replayNow (s : State) (p : ShlId) : State :=
  let t := shlMod s p fun q => { q with replays := q.replays + 1, replayRc := q.replayRc + 1,
                                        noProgress := q.noProgress + 1 }
  if 8 ≤ (t.shl.get p).noProgress then portRetrain t p else resend t p

/-- Acknowledged flits leave the replay buffer. An ACK names the next sequence number expected; one that
names no flit held is without effect. -/
def ackTo (q : ShlPort) (ack : BitVec 12) : ShlPort :=
  let n := (ack - (q.nextSeq - BitVec.ofNat 12 q.replay.length)).toNat
  if 0 < n ∧ n ≤ q.replay.length then { q with replay := q.replay.drop n, noProgress := 0 } else q

/-- Port registers: SHLp_CTL and SHLp_STAT (Table 11-15). -/
def shlStat (s : State) (p : ShlId) : Nat :=
  let q := s.shl.get p
  (effPort s p).code + 16 * effWidth s p + 64 * b2n q.degraded + 2 ^ 16 * q.replayRc.toNat

def shlRead (s : State) (p : ShlId) (off : Nat) : Nat × State :=
  let q := s.shl.get p
  match off with
  | 0 => (b2n q.en + 2 * b2n q.x2ok, s)
  | 8 => (shlStat s p, shlMod s p fun q => { q with replayRc := 0 })
  | _ => (0, s)

def shlWrite (s : State) (p : ShlId) (off : Nat) (v : W32) : State :=
  match off with
  | 0 => shlMod s p fun q => { q with
      en := v.getLsbD 0, x2ok := v.getLsbD 1, st := if v.getLsbD 0 then q.st else .off }
  | 8 => shlMod s p fun q => { q with degraded := q.degraded && !v.getLsbD 6 }
  | _ => s

end Sys2Proof.Machine
end

