-- ==== Sys2Proof/Machine/Operands.lean ====
section
/-!
DEFINITION. Operand forms of the Spar cores and of the sequencers: accumulator lanes and their store
(R189 to R193), scale register entries and store descriptors (R240 to R246), the SAVEACC layout (R199),
circular addressing (R187, R188), and accesses of a data-plane unit to memory (R179, R385).
-/

namespace Sys2Proof.Machine

/-! ## Lanes -/

def Lane.val (l : Lane) : Int := l.v.toInt
def Lane.wrap (l : Lane) : Int := l.w.toInt

/-- accumulate of R189: x is the exact signed sum added. -/
def accumulate (l : Lane) (x : Int) : Lane :=
  let s := l.val + x
  let k : Int := if s > 549755813887 then 1 else if s < -549755813888 then -1 else 0
  let l' := { l with v := BitVec.ofInt 40 s }
  if k ≠ 0 ∧ l.c = false then
    if l.wrap + k > 31 ∨ l.wrap + k < -32 then { l' with c := true }
    else { l' with w := BitVec.ofInt 6 (l.wrap + k) }
  else l'

def laneAt (acc : List Lane) (i : Nat) : Lane := acc.getD i Lane.zero

/-- An accumulator with every lane given by a function of its number and its old contents. -/
def mapLanes (acc : List Lane) (f : Nat → Lane → Lane) : List Lane :=
  (List.range 64).map fun i => f i (laneAt acc i)

/-- WCL of an accumulator: the OR of its clamp bits (R190). -/
def wcl (acc : List Lane) : Bool := acc.any fun l => l.c

/-- One lane in the SAVEACC layout (R199). -/
def laneBytes (l : Lane) : Bytes := toLE 8 (l.v.toNat + l.w.toNat * 2 ^ 40 + b2n l.c * 2 ^ 46)

def laneOf (bs : Bytes) : Lane :=
  let x := leNat bs
  { v := BitVec.ofNat 40 (bits x 0 40), w := BitVec.ofNat 6 (bits x 40 6), c := bitOf x 46 }

def lanesBytes (ls : List Lane) : Bytes := ls.flatMap laneBytes

def lanesOf (bs : Bytes) (n : Nat) : List Lane := (List.range n).map fun i => laneOf (slice bs (8 * i) 8)

/-! ## Store descriptors and scale entries -/

/-- A store descriptor (R214, R242). -/
structure StoreDesc where
  width : Nat
  rnd : Bool
  relu : Bool
  count : Nat
  base : Nat
  perch : Bool
  bias : Bool
  zp : Int
  zpByte : Byte
  deriving DecidableEq, Repr

def storeDesc (b : Bytes) : StoreDesc :=
  let f := (byteAt b 0).toNat
  let i := fieldLE b 2 2
  { width := bits f 0 2, rnd := bitOf f 2, relu := bitOf f 3, count := (byteAt b 1).toNat,
    base := bits i 0 11, perch := bitOf i 11, bias := bitOf i 12,
    zp := (byteAt b 4).toInt, zpByte := byteAt b 4 }

/-- Bounds of a stored element: s8, u8, s16, s32; RELU raises the lower one to zp (R193). -/
def StoreDesc.hi (d : StoreDesc) : Int :=
  match d.width with
  | 0 => 127 | 1 => 255 | 2 => 32767 | _ => 2147483647

def StoreDesc.lo0 (d : StoreDesc) : Int :=
  match d.width with
  | 0 => -128 | 1 => 0 | 2 => -32768 | _ => -2147483648

def StoreDesc.lo (d : StoreDesc) : Int := if d.relu then max d.lo0 d.zp else d.lo0

def StoreDesc.elem (d : StoreDesc) : Nat :=
  match d.width with
  | 0 => 1 | 1 => 1 | 2 => 2 | _ => 4

/-- rescale of R193. -/
def rescale (v : Int) (m sh : Nat) (rnd : Bool) : Int :=
  let q := v * m
  if sh = 0 then q
  else
    let f := q / (2 ^ sh : Nat)
    let r := q - f * (2 ^ sh : Nat)
    let half : Int := (2 ^ (sh - 1) : Nat)
    if rnd then f
    else if r > half ∨ (r = half ∧ f % 2 = 1) then f + 1 else f

/-- How a stored lane saturated. -/
inductive Sat where
  | none
  | pos
  | neg
  | unsure
  deriving DecidableEq, Repr

/-- store of R189 with mantissa and shift given. -/
def storeLane (l : Lane) (d : StoreDesc) (m sh : Nat) (rnd : Bool) : Int × Sat :=
  if l.c then (if l.wrap < 0 then d.lo else d.hi, .unsure)
  else if 0 < l.wrap then (d.hi, .pos)
  else if l.wrap < 0 then (d.lo, .neg)
  else
    let t := rescale l.val m sh rnd + d.zp
    if t > d.hi then (d.hi, .pos) else if t < d.lo then (d.lo, .neg) else (t, .none)

/-- Kind, mantissa and shift of a scale entry (Table 7-3): a BIAS or reserved entry acts as M = SH = 0 (R243). -/
def srfKind (e : W32) : Nat := bits e.toNat 30 2
def srfM (e : W32) : Nat := if srfKind e = 0 then bits e.toNat 0 16 else 0
def srfSh (e : W32) : Nat := if srfKind e = 0 then bits e.toNat 16 6 else 0
def srfBias (e : W32) : Int := sext 30 (bits e.toNat 0 30)

/-- An entry of a core's scale register file; there are 2,048, and what an index beyond them reads is free. -/
def srfRead (t : Tbl W32) (i : Nat) : W32 :=
  if i < 2048 then Tbl.read (fun _ => 0) t i else BitVec.ofNat 32 (Config.freeOf .unspecified [7, i])

/-- Scale entry of a channel (R242) and bias entry (R244). -/
def StoreDesc.scaleIx (d : StoreDesc) (ch : Nat) : Nat := if d.perch then d.base + ch else d.base
def StoreDesc.biasIx (d : StoreDesc) (ch : Nat) : Nat := if d.perch then d.base + 32 + ch else d.base + 1

/-- A store to binary16 (R192, R246): the exact product rounded once; finite overflow saturates to
±65,504; a NaN is 0x7E00. -/
def storeFp16 (l : Lane) (scale : Nat) : Nat × Sat :=
  match fpDecode fp32 (bits l.v.toNat 0 32), fpDecode fp16 scale with
  | .fin s m e, .fin t n k =>
    let r := (fpRound fp16 0 (s != t) (m * n) (e + k) false).1
    if r = fpInf fp16 false then (0x7BFF, .pos)
    else if r = fpInf fp16 true then (0xFBFF, .neg) else (r, .none)
  | .inf s, .fin t n _ => if n = 0 then (0x7E00, .none) else (fpInf fp16 (s != t), .none)
  | .fin s m _, .inf t => if m = 0 then (0x7E00, .none) else (fpInf fp16 (s != t), .none)
  | .inf s, .inf t => (fpInf fp16 (s != t), .none)
  | _, _ => (0x7E00, .none)

/-- One stored element and its saturation; an entry of kind FP16 stores 16 bits (R246). -/
def storeElem (srf : Nat → W32) (d : StoreDesc) (rnd : Bool) (ch : Nat) (l : Lane) : Bytes × Sat :=
  let e := srf (d.scaleIx ch)
  if srfKind e = 1 then
    let (x, k) := storeFp16 l (bits e.toNat 0 16)
    (toLE 2 x, k)
  else
    let (x, k) := storeLane l d (srfM e) (srfSh e) rnd
    (toLE d.elem (wrapInt 32 x), k)

/-- One element as a sequencer stores it. fp16 stores are for MMAH lanes (Table 7-7): what a sequencer stores of an
integer lane under an entry of kind FP16 is open (log 178). -/
def seqElem (srf : Nat → W32) (d : StoreDesc) (rnd : Bool) (ch : Nat) (l : Lane) : Bytes × Sat :=
  let e := srf (d.scaleIx ch)
  if srfKind e = 1 then
    (toLE d.elem (Config.freeOf .unspecified [10, e.toNat, leNat (laneBytes l), d.elem] % 2 ^ (8 * d.elem)), .none)
  else storeElem srf d rnd ch l

/-- A stored lane of STACC: s32 with the saturation of store, without rescale or zero point. -/
def staccDesc : StoreDesc :=
  { width := 3, rnd := true, relu := false, count := 4, base := 0, perch := false, bias := false, zp := 0,
    zpByte := 0 }

/-! ## Circular addressing -/

/-- The address written back after a circular access (R187); none when the access raises ALIGN. -/
def circNext (q : Circ) (a : Nat) (ofs : Int) : Option Nat :=
  let b : Int := q.base.toNat
  let n : Int := q.len.toNat
  let x : Int := a
  if n < 64 ∨ ofs.natAbs > q.len.toNat ∨ x < b ∨ b + n ≤ x then none
  else
    let e := x + ofs
    some (if e ≥ b + n then e - n else if e < b then e + n else e).toNat

/-- The pieces of an access of n bytes at a that wraps at the end of a circular buffer (R188). -/
def circPieces (q : Circ) (a n : Nat) : List (Nat × Nat) :=
  let room := q.base.toNat + q.len.toNat - a
  if n ≤ room then [(a, n)] else [(a, room), (q.base.toNat, n - room)]

/-! ## A data-plane unit's accesses -/

/-- An address lies in a core's own TCMs. -/
def ownTcm (c : CoreId) (a n : Nat) : Bool :=
  (decide (dtcmBase c.val ≤ a) && decide (a + n ≤ dtcmBase c.val + 0x100000)) ||
  (decide (itcmBase c.val ≤ a) && decide (a + n ≤ itcmBase c.val + 0x20000))

/-- A sequencer's read: a core's own TCMs are not checked; a fenced unit issues nothing beyond (R31); bytes of
another chip are free values, one draw each (log 56). -/
def seqRead (s : State) (init : Nat) (own : Option CoreId) (addr n : Nat) : Except BusErr Bytes × State :=
  match placeOf s (bits addr 0 48) with
  | .there home _ =>
    match if initFenced s init then some .act else remoteErr s home with
    | some e => (.error e, s)
    | none =>
      (.ok ((List.range n).map fun i => BitVec.ofNat 8 (Config.freeValue .remoteByte (s.free + i))),
        { s with free := s.free + n })
  | .here a =>
    if (match own with
        | some c => ownTcm c a n
        | none => false) then (.ok (s.rd a n), s)
    else ramRead s init a n

/-- A sequencer's write; a fenced unit issues none beyond a core's own TCMs (R31). -/
def seqWrite (s : State) (init : Nat) (own : Option CoreId) (addr : Nat) (bs : Bytes) : Option BusErr × State :=
  match placeOf s (bits addr 0 48) with
  | .there home off =>
    if initFenced s init then (some .act, s)
    else
      remoteWrite s (match own with
        | some c => .sparStore c addr
        | none => .unitStore init) home 2 off bs
  | .here a =>
    if (match own with
        | some c => ownTcm c a bs.length
        | none => false) then (none, noteHomeWrite (s.wr a bs) a bs.length)
    else ramWrite s init a bs

end Sys2Proof.Machine
end

