-- ==== Sys2Proof/Machine/Conv.lean ====
section
/-!
DEFINITION. The convolution descriptor and the sequencers that run it: output size, borders, chunks and
passes, weight tiles, codebooks, ZC32 rows (R209 to R228, R234 to R259). The TILE sequencer of a Spar
core and the Eaves engine share it.
-/

namespace Sys2Proof.Machine

/-- The descriptor's fields (Table 6-6). -/
structure ConvDesc where
  op : Nat
  in32 : Bool
  out32 : Bool
  inS : Bool
  wS : Bool
  padMode : Bool
  accBase : Nat
  accN : Nat
  qmode : Nat
  kw : Nat
  kh : Nat
  sx : Nat
  sy : Nat
  dx : Nat
  dy : Nat
  pl : Nat
  pr : Nat
  pt : Nat
  pb : Nat
  opx : Nat
  opy : Nat
  zpin : Byte
  zcIn : Bool
  zcOut : Bool
  iw : Nat
  ih : Nat
  cin : Nat
  cout : Nat
  groups : Nat
  oy0 : Nat
  oy1 : Nat
  ipitch : Nat
  opitch : Nat
  ibstr : Nat
  obstr : Nat
  inA : Nat
  outA : Nat
  wA : Nat
  psum : Nat
  sd : Nat
  deriving DecidableEq, Repr

def convDesc (b : Bytes) : ConvDesc :=
  let opk := (byteAt b 0).toNat
  let accf := (byteAt b 1).toNat
  let fl := (byteAt b 0xF).toNat
  let n8 := fun o => (byteAt b o).toNat
  { op := bits opk 0 3, in32 := bitOf opk 3, out32 := bitOf opk 4, inS := bitOf opk 5, wS := bitOf opk 6,
    padMode := bitOf opk 7, accBase := bits accf 0 3, accN := bits accf 3 3 + 1, qmode := bits accf 6 2,
    kw := n8 2 + 1, kh := n8 3 + 1, sx := n8 4, sy := n8 5, dx := n8 6, dy := n8 7,
    pl := n8 8, pr := n8 9, pt := n8 0xA, pb := n8 0xB, opx := n8 0xC, opy := n8 0xD, zpin := byteAt b 0xE,
    zcIn := bitOf fl 0, zcOut := bitOf fl 1, iw := fieldLE b 0x10 2, ih := fieldLE b 0x12 2,
    cin := fieldLE b 0x14 2, cout := fieldLE b 0x16 2, groups := fieldLE b 0x18 2,
    oy0 := fieldLE b 0x1A 2, oy1 := fieldLE b 0x1C 2, ipitch := fieldLE b 0x20 4, opitch := fieldLE b 0x24 4,
    ibstr := fieldLE b 0x28 4, obstr := fieldLE b 0x2C 4, inA := fieldLE b 0x30 8, outA := fieldLE b 0x38 8,
    wA := fieldLE b 0x40 8, psum := fieldLE b 0x48 8, sd := fieldLE b 0x50 8 }

namespace ConvDesc

def tconv (d : ConvDesc) : Bool := d.op == 1 || d.op == 4
def dw (d : ConvDesc) : Bool := d.op == 2 || d.op == 4
def cbIn (d : ConvDesc) : Nat := if d.in32 then 32 else 16
def cbOut (d : ConvDesc) : Nat := if d.out32 then 32 else 16

/-- Output size in one dimension (R215). -/
def outDim (t : Bool) (inn k stride dil lo hi opad : Nat) : Int :=
  if t then ((inn : Int) - 1) * stride - lo - hi + dil * ((k : Int) - 1) + opad + 1
  else ((inn : Int) + lo + hi - dil * ((k : Int) - 1) - 1) / (stride : Int) + 1

def ow (d : ConvDesc) : Int := outDim d.tconv d.iw d.kw d.sx d.dx d.pl d.pr d.opx
def oh (d : ConvDesc) : Int := outDim d.tconv d.ih d.kh d.sy d.dy d.pt d.pb d.opy

/-- Rows to compute: OY0 up to but not including the result (R216). -/
def rowEnd (d : ConvDesc) : Nat := min d.oy1 d.oh.toNat
def isEmpty (d : ConvDesc) : Bool := decide (d.ow ≤ 0) || decide (d.oh ≤ 0) || decide (d.rowEnd ≤ d.oy0)

def ceilDiv (a b : Nat) : Nat := (a + b - 1) / b

/-- Input blocks per group, 32-channel pieces of a codebook descriptor, output groups of 32. -/
def nib (d : ConvDesc) : Nat :=
  if d.op = 3 then ceilDiv (d.cin / d.groups) d.cbIn else ceilDiv d.cin d.cbIn
def np (d : ConvDesc) : Nat := ceilDiv d.cin 32
def ng (d : ConvDesc) : Nat := ceilDiv d.cout 32

def cgIn (d : ConvDesc) : Nat := d.cin / d.groups
def cgOut (d : ConvDesc) : Nat := d.cout / d.groups

def within (lo x hi : Nat) : Bool := decide (lo ≤ x) && decide (x ≤ hi)

/-- The limits common to every unit (Tables 6-5, 6-6; R224, R237, R239, R254; R260 for a ZC32 row of the output,
log 177). -/
def commonOk (d : ConvDesc) (accMax kMax : Nat) : Bool :=
  within 1 d.kw kMax && within 1 d.kh kMax && within 1 d.sx 255 && within 1 d.sy 255
    && within 1 d.dx 255 && within 1 d.dy 255 && within 1 d.iw 8192 && within 1 d.ih 8192
    && within 1 d.cin 4096 && within 1 d.cout 4096 && within 1 d.groups 4096
    && decide (d.ow ≤ 32767) && decide (d.oh ≤ 32767) && decide (d.accBase + d.accN ≤ accMax)
    && (!d.tconv || (decide (d.opx < max d.sx d.dx) && decide (d.opy < max d.sy d.dy)))
    && d.qmode != 3 && (!d.zcIn || d.in32) && (!d.zcOut || (d.out32 && decide (d.ow ≤ 8192)))

/-- A TILE descriptor's own limits (R226, R227, R239). -/
def tileOk (d : ConvDesc) : Bool :=
  decide (d.op ≤ 4) && d.commonOk 8 31
    && !((d.qmode == 1 || d.qmode == 2) && !d.wS) && !(d.qmode == 0 && !d.inS && !d.wS)
    && decide (d.cin % d.groups = 0) && decide (d.cout % d.groups = 0)
    && (if d.op = 3 then decide (d.cgIn % d.cbIn = 0) && decide (d.cgOut % 32 = 0)
        else if d.dw then [1, 2, 4, 8].contains d.cgIn && [1, 2, 4, 8].contains d.cgOut && d.qmode != 2
        else true)
    && (d.qmode != 2 || d.op == 0 || d.op == 1)

/-- The Eaves engine's limits (R229). -/
def eavesOk (d : ConvDesc) : Bool :=
  (d.op == 0 || d.op == 1) && d.commonOk 16 7 && d.groups == 1 && decide (d.qmode ≤ 1)
    && (decide (d.cin ≤ 8) || decide (d.cout ≤ 8))

/-- Group size and count of a codebook block's group scales, and its code-tile offset (Table 7-4, R250). -/
def gSize (hdr : Bytes) : Nat := 2 ^ (min 3 (byteAt hdr 0).toNat) * 32
def codeTiles (d : ConvDesc) : Nat := 64 * ceilDiv (64 + 16 * d.ng) 64

/-- R251 for the weight block's header. -/
def codebookOk (d : ConvDesc) (hdr : Bytes) : Bool :=
  let g := (byteAt hdr 0).toNat
  let gsb := fieldLE hdr 2 2
  let nk := ceilDiv (d.kh * d.kw * d.np) (gSize hdr / 32)
  if g = 3 then gsb == 0 else decide (gsb + nk * 32 * d.ng ≤ 2048)

/-- Passes: row bands and column bands of 7 (R219). -/
def colBands (d : ConvDesc) : Nat := ceilDiv d.kw 7
def passes (d : ConvDesc) : Nat := ceilDiv d.kh 7 * d.colBands

/-- Taps (ky, kx) of a pass. -/
def passTaps (d : ConvDesc) (p : Nat) : List (Nat × Nat) :=
  let r := p / d.colBands
  let c := p % d.colBands
  (List.range (min 7 (d.kh - 7 * r))).flatMap fun y =>
    (List.range (min 7 (d.kw - 7 * c))).map fun x => (7 * r + y, 7 * c + x)

/-- Input position of a tap: none when a transposed tap is omitted (R217, R223). -/
def tapPos (d : ConvDesc) (oy ox ky kx : Nat) : Option (Int × Int) :=
  if d.tconv then
    let ny : Int := (oy : Int) + d.pt - ky * d.dy
    let nx : Int := (ox : Int) + d.pl - kx * d.dx
    if ny % d.sy = 0 ∧ nx % d.sx = 0 then
      let iy := ny / (d.sy : Int)
      let ix := nx / (d.sx : Int)
      if 0 ≤ iy ∧ iy < d.ih ∧ 0 ≤ ix ∧ ix < d.iw then some (iy, ix) else none
    else none
  else some ((oy : Int) * d.sy - d.pt + ky * d.dy, (ox : Int) * d.sx - d.pl + kx * d.dx)

/-- Lanes a pixel takes in an accumulator: 32, or the output block in DW mode (R219, R228). -/
def lanesPer (d : ConvDesc) : Nat := if d.dw then d.cbOut else 32
def pixPerAcc (d : ConvDesc) : Nat := 64 / d.lanesPer
def chunkMax (d : ConvDesc) : Nat := d.pixPerAcc * d.accN

/-- A list cut into pieces of n. -/
def cutList : Nat → Nat → List Nat → List (List Nat)
  | 0, _, _ => []
  | _ + 1, _, [] => []
  | k + 1, n, x :: xs => (x :: xs).take n :: cutList k n ((x :: xs).drop n)

/-- Chunks of a row: of one column phase in a transposed convolution (R219, R223). A row that its accumulators
hold whole stays in them between passes, without PSUM, as one chunk (R220, log 176). -/
def chunks (d : ConvDesc) : List (List Nat) :=
  let xs := List.range d.ow.toNat
  if d.tconv && (d.passes == 1 || decide (d.chunkMax < d.ow.toNat)) then
    (List.range d.sx).flatMap fun f =>
      cutList xs.length d.chunkMax (xs.filter fun x => (x + d.pl) % d.sx = f)
  else cutList xs.length d.chunkMax xs

end ConvDesc

/-! ## The sequencer's run -/

/-- Why a run stops before its end. -/
inductive SeqErr where
  | bus (e : BusErr) (addr : Nat)
  | format
  deriving DecidableEq, Repr

/-- What a run works on: the machine, its accumulators and weight stages, and counts of saturations. -/
structure SeqRun where
  s : State
  acc : List (List Lane)
  stage : List Bytes
  wsSrc : List Nat
  ws : Bool
  satPos : Nat
  satNeg : Nat
  satUns : Nat
  rndIgn : Bool
  fetched : Fetched

/-- The unit that runs: its initiator number, its own TCMs, its scale entries, whether it always rounds
convergently. -/
structure SeqUnit where
  init : Nat
  own : Option CoreId
  srf : Nat → W32
  eaves : Bool

abbrev SeqM := ExceptT SeqErr (StateM SeqRun)

def seqGet (u : SeqUnit) (a n : Nat) : SeqM Bytes := do
  let r ← get
  match seqRead r.s u.init u.own a n with
  | (.ok b, t) => set { r with s := t }; pure b
  | (.error e, t) => set { r with s := t }; throw (.bus e a)

/-- A fetch that R219 orders once for every time it is made: a weight tile, partial sums. -/
def seqFetch (u : SeqUnit) (a n : Nat) : SeqM Bytes := do
  let b ← seqGet u a n
  modify fun r => { r with fetched := { r.fetched with exact := r.fetched.exact + n } }
  pure b

/-- A fetch of input, of a DW weight or of a codebook: the sequencer may keep what it has for other taps, pixels
and tiles. -/
def seqTap (u : SeqUnit) (a n : Nat) : SeqM Bytes := do
  let b ← seqGet u a n
  modify fun r => { r with fetched := { r.fetched with reads := (a, n) :: r.fetched.reads } }
  pure b

/-- RDBYTES (R218): every ordered fetch, and of the others at least each once and at most each time it is used;
how many between is open, x picks it (log 49). -/
def Fetched.count (f : Fetched) (x : Nat) : Nat :=
  let sum := fun (l : List (Nat × Nat)) => l.foldl (fun (a : Nat) p => a + p.2) 0
  let lo := sum f.reads.eraseDups
  f.exact + lo + x % (sum f.reads - lo + 1)

def seqPut (u : SeqUnit) (a : Nat) (bs : Bytes) : SeqM Unit := do
  let r ← get
  match seqWrite r.s u.init u.own a bs with
  | (none, t) => set { r with s := t }
  | (some e, t) => set { r with s := t }; throw (.bus e a)

/-! ### ZC32 (R254 to R259) -/

def zcNpi (w : Nat) : Nat := ConvDesc.ceilDiv w 256
def zcRh (w : Nat) : Nat := 64 * ConvDesc.ceilDiv (16 + 4 * zcNpi w) 64

/-- A row header is well-formed for a row of w pixels in slots of the given pitch (R259). -/
def zcOk (h : Bytes) (w pitch : Nat) : Bool :=
  let len := fieldLE h 0 4
  let mode := (byteAt h 4).toNat
  decide (mode ≤ 2) && fieldLE h 6 2 == w && decide (len + zcRh w ≤ pitch) &&
    (List.range (zcNpi w)).all fun k =>
      let o := fieldLE h (0x10 + 4 * k) 4
      decide (o < len) || (mode == 2 && o == 0)

def popcount32 (x : Nat) : Nat := ((List.range 32).filter fun i => bitOf x i).length

/-- The 32 bytes of a pixel from its mask and its bytes that differ from ZBYTE (R256). -/
def zcExpand (z : Byte) (mask : Nat) (bs : Bytes) : Bytes :=
  (List.range 32).map fun i =>
    if bitOf mask i then byteAt bs ((List.range i).filter fun j => bitOf mask j).length else z

/-- A compressed payload walked to the k-th pixel from offset o. -/
def zcWalk (u : SeqUnit) (pay : Nat) (z : Byte) : Nat → Nat → SeqM Bytes
  | 0, o => do
    let m := leNat (← seqTap u (pay + o) 4)
    let bs ← seqTap u (pay + o + 4) (popcount32 m)
    pure (zcExpand z m bs)
  | k + 1, o => do
    let m := leNat (← seqTap u (pay + o) 4)
    zcWalk u pay z k (o + 4 + popcount32 m)

/-- One pixel of a ZC32 row, located through the index entry at or below it (R256, R258). -/
def zcPixel (u : SeqUnit) (slot w pitch x : Nat) : SeqM Bytes := do
  let h ← seqTap u slot (zcRh w)
  if !zcOk h w pitch then throw .format
  let z := byteAt h 5
  let pay := slot + zcRh w
  let from_ := fieldLE h (0x10 + 4 * (x / 256)) 4
  match (byteAt h 4).toNat with
  | 2 => pure (List.replicate 32 z)
  | 1 => seqTap u (pay + from_ + 32 * (x % 256)) 32
  | _ => zcWalk u pay z (x % 256) from_

def zcUnit (z : Byte) (px : Bytes) : Bytes :=
  let m := (List.range 32).foldr (fun i a => a * 2 + b2n (byteAt px i != z)) 0
  toLE 4 m ++ px.filter fun b => b != z

/-- The bytes of a row slot: header and payload (R255 to R257). -/
def zcEncode (z : Byte) (px : List Bytes) : Bytes × Bytes :=
  let w := px.length
  let units := px.map (zcUnit z)
  let offs := units.foldl (fun (a : List Nat × Nat) t => (a.1 ++ [a.2], a.2 + t.length)) ([], 0)
  let all := px.all fun p => p.all fun b => b == z
  let raw := decide (32 * w ≤ offs.2)
  let mode := if all then 2 else if raw then 1 else 0
  let pay := if all then [] else if raw then px.flatten else units.flatten
  let ix := (List.range (zcNpi w)).map fun k =>
    if all then 0 else if raw then 8192 * k else offs.1.getD (256 * k) 0
  (padTo (zcRh w) (toLE 4 pay.length ++ [BitVec.ofNat 8 mode, z] ++ toLE 2 w ++ List.replicate 8 0
    ++ ix.flatMap (toLE 4)), pay)

/-! ### Operands and weights -/

/-- The bytes of one input pixel of one channel block (R209, R255). -/
def inPixel (u : SeqUnit) (d : ConvDesc) (blk iy ix : Nat) : SeqM Bytes :=
  let row := d.inA + blk * d.ibstr + iy * d.ipitch
  if d.zcIn then zcPixel u row d.iw d.ipitch ix else seqTap u (row + ix * d.cbIn) d.cbIn

/-- The operand a byte stands for (R217, R238). -/
def operand (d : ConvDesc) (b : Byte) : Int :=
  let q : Int := if d.inS then b.toInt else b.toNat
  let z : Int := if d.inS then d.zpin.toInt else d.zpin.toNat
  if d.qmode = 0 then q else q - z

/-- The pad byte (R217). -/
def padByte (d : ConvDesc) : Byte := if d.padMode then d.zpin else 0

/-- Operands of one block at a tap, none for an omitted tap: real pixel or pad (R217, R223). -/
def blockOperands (u : SeqUnit) (d : ConvDesc) (blk : Nat) (pos : Option (Int × Int)) :
    SeqM (Option (List Int)) := do
  match pos with
  | none => pure none
  | some (iy, ix) =>
    if 0 ≤ iy ∧ iy < d.ih ∧ 0 ≤ ix ∧ ix < d.iw then
      let b ← inPixel u d blk iy.toNat ix.toNat
      pure (some (b.map (operand d)))
    else pure (some (List.replicate d.cbIn (operand d (padByte d))))

/-- The weight a byte stands for: as stored in QMODE 0, signed in QMODE 1 (Table 7-2). -/
def wVal (d : ConvDesc) (b : Byte) : Int := if d.wS || d.qmode == 1 then b.toInt else b.toNat

/-- A weight tile as it is loaded: rows of channels at or beyond CIN are zero (R211, R219). -/
def loadTile (u : SeqUnit) (d : ConvDesc) (t blk : Nat) : SeqM Bytes := do
  let n := d.cbIn * 32
  let a := d.wA + t * n
  let b ← seqFetch u a n
  let b := (List.range n).map fun k => if blk * d.cbIn + k / 32 < d.cin then byteAt b k else 0
  let r ← get
  let w := b2n r.ws
  set { r with stage := r.stage.set w (padTo 1024 b), wsSrc := r.wsSrc.set w a, ws := !r.ws }
  pure b

/-- A code tile with its codebook as a stage holds them (R248, R249). -/
def loadCodes (u : SeqUnit) (d : ConvDesc) (g t : Nat) : SeqM Bytes := do
  let a := d.wA + d.codeTiles + 512 * t
  let b ← seqFetch u a 512
  let cb ← seqTap u (d.wA + 0x40 + 16 * g) 16
  let r ← get
  let w := b2n r.ws
  set { r with stage := r.stage.set w (padTo 1024 (b ++ cb)), wsSrc := r.wsSrc.set w a, ws := !r.ws }
  pure (b ++ cb)

/-- The codebook entry that the code for input i and output o selects (R249). -/
def codeWeight (st : Bytes) (i o : Nat) : Int :=
  let n := (byteAt st (16 * i + o / 2)).toNat
  (byteAt st (512 + (if o % 2 = 0 then n % 16 else n / 16))).toInt

def dotRow (xs : List Int) (w : Nat → Int) : Int :=
  (xs.zipIdx).foldl (fun a p => a + p.1 * w p.2) 0

/-! ### Chunks -/

/-- Lane number base of pixel j of a chunk: accumulator and first lane (R219, R228). -/
def laneSlot (d : ConvDesc) (j : Nat) : Nat × Nat :=
  (d.accBase + j / d.pixPerAcc, d.lanesPer * (j % d.pixPerAcc))

/-- The lanes of pixel j changed by a function of the channel within the group. -/
def modPixel (d : ConvDesc) (j : Nat) (f : Nat → Lane → Lane) (r : SeqRun) : SeqRun :=
  let (a, b) := laneSlot d j
  { r with acc := r.acc.set a (mapLanes (r.acc.getD a []) fun i l =>
      if b ≤ i ∧ i < b + d.lanesPer then f (i - b) l else l) }

def pixelLanes (d : ConvDesc) (j : Nat) (r : SeqRun) : List Lane :=
  let (a, b) := laneSlot d j
  (List.range d.lanesPer).map fun i => laneAt (r.acc.getD a []) (b + i)

/-- Store descriptor of the 32-output group that holds output channel co (R214). -/
def groupDesc (u : SeqUnit) (d : ConvDesc) (co : Nat) : SeqM StoreDesc := do
  let b ← seqGet u (d.sd + 16 * (co / 32)) 16
  pure (storeDesc b)

/-- Pass 0 of a chunk of n pixels: its accumulators are cleared whole, and the biases added into each lane, those
of pixel places beyond n too (R219, R244). -/
def startChunk (u : SeqUnit) (d : ConvDesc) (sd : StoreDesc) (n : Nat) : SeqM Unit :=
  (List.range (d.pixPerAcc * ConvDesc.ceilDiv n d.pixPerAcc)).forM fun j => modify (modPixel d j fun ch _ =>
    if sd.bias then accumulate Lane.zero (srfBias (u.srf (sd.biasIx ch))) else Lane.zero)

/-- One MMA step: pixel j takes the operands against the weights of channel position o. -/
def addStep (d : ConvDesc) (j : Nat) (xs : Option (List Int)) (w : Nat → Nat → Int) (mk : Nat → Int) :
    SeqM Unit :=
  match xs with
  | none => pure ()
  | some v => modify (modPixel d j fun o l => accumulate l (mk o * dotRow v (w o)))

/-- The first input block of output group g (R226). -/
def firstBlock (d : ConvDesc) (g : Nat) : Nat :=
  if d.op = 3 then (g * 32 / d.cgOut) * d.nib else 0

/-- Group mantissa of an output channel (R250). -/
def groupMant (u : SeqUnit) (d : ConvDesc) (hdr : Bytes) (f co : Nat) : Int :=
  if (byteAt hdr 0).toNat = 3 then 1
  else
    let k := f / (ConvDesc.gSize hdr / 32)
    (srfM (u.srf (fieldLE hdr 2 2 + k * 32 * d.ng + co)) : Nat)

/-- One pass of a chunk on the MAC array. -/
def macPass (u : SeqUnit) (d : ConvDesc) (hdr : Bytes) (g oy : Nat) (px : List Nat) (p : Nat) : SeqM Unit :=
  (d.passTaps p).forM fun (ky, kx) =>
    if d.qmode = 2 then
      (List.range d.np).forM fun b => do
        let f := (ky * d.kw + kx) * d.np + b
        let st ← loadCodes u d g (g * d.kh * d.kw * d.np + f)
        (px.zipIdx).forM fun (ox, j) => do
          let pos := d.tapPos oy ox ky kx
          let xs ← if d.in32 then blockOperands u d b pos
            else do
              let lo ← blockOperands u d (2 * b) pos
              let hi ← if 2 * b + 1 < d.nib then blockOperands u d (2 * b + 1) pos
                else pure (some (List.replicate 16 0))
              pure (lo.bind fun x => hi.map fun y => x ++ y)
          let xs := xs.map fun v => (v.zipIdx).map fun (x, i) => if 32 * b + i < d.cin then x else 0
          addStep d j xs (fun o i => codeWeight st i o) (fun o => groupMant u d hdr f (32 * g + o))
    else
      (List.range d.nib).forM fun b => do
        let blk := firstBlock d g + b
        let t := ((g * d.kh + ky) * d.kw + kx) * d.nib + b
        let w ← loadTile u d t blk
        (px.zipIdx).forM fun (ox, j) => do
          let xs ← blockOperands u d blk (d.tapPos oy ox ky kx)
          addStep d j xs (fun o i => wVal d (byteAt w (i * 32 + o))) (fun _ => 1)

/-- One pass of a chunk in DW mode: each product is one addition (R227, R228). -/
def dwPass (u : SeqUnit) (d : ConvDesc) (og oy : Nat) (px : List Nat) (p : Nat) : SeqM Unit :=
  (d.passTaps p).forM fun (ky, kx) =>
    (px.zipIdx).forM fun (ox, j) =>
      (List.range d.lanesPer).forM fun o => do
        let co := og * d.lanesPer + o
        if co < d.cout then
          (List.range d.cgIn).forM fun i => do
            let ci := co / d.cgOut * d.cgIn + i
            let xs ← blockOperands u d (ci / d.cbIn) (d.tapPos oy ox ky kx)
            match xs with
            | none => pure ()
            | some v => do
              let w ← seqTap u (d.wA + ((ky * d.kw + kx) * d.cout + co) * d.cgIn + i) 1
              modify (modPixel d j fun q l =>
                if q = o then accumulate l (v.getD (ci % d.cbIn) 0 * wVal d (byteAt w 0)) else l)

/-- Partial sums of a chunk saved to and restored from PSUM (R220). -/
def psumSave (u : SeqUnit) (d : ConvDesc) (px : List Nat) : SeqM Unit :=
  (px.zipIdx).forM fun (ox, j) => do
    let r ← get
    seqPut u (d.psum + 256 * ox) (lanesBytes (pixelLanes d j r))

def psumRestore (u : SeqUnit) (d : ConvDesc) (px : List Nat) : SeqM Unit :=
  (px.zipIdx).forM fun (ox, j) => do
    let b ← seqFetch u (d.psum + 256 * ox) (8 * d.lanesPer)
    let ls := lanesOf b d.lanesPer
    modify (modPixel d j fun i _ => laneAt ls i)

def countSat (u : SeqUnit) (d : StoreDesc) (k : Sat) (r : SeqRun) : SeqRun :=
  let r := if u.eaves && d.rnd then { r with rndIgn := true } else r
  match k with
  | .none => r
  | .pos => { r with satPos := r.satPos + 1 }
  | .neg => { r with satNeg := r.satNeg + 1 }
  | .unsure => { r with satUns := r.satUns + 1 }

/-- The stored bytes of one pixel: one element a channel of the group, 0x00 beyond COUT (R214). -/
def pixelOut (u : SeqUnit) (d : ConvDesc) (sd : StoreDesc) (og j : Nat) : SeqM (List Bytes) := do
  let r ← get
  let e := sd.elem
  (pixelLanes d j r).zipIdx.mapM fun (l, ch) => do
    if og * d.lanesPer + ch < d.cout then
      let (b, k) := seqElem u.srf sd (sd.rnd && !u.eaves) ch l
      modify (countSat u sd k)
      pure (padTo e b)
    else pure (List.replicate e 0)

/-- One pixel's channels written to the output blocks they fall in (R209). -/
def putPixel (u : SeqUnit) (d : ConvDesc) (sd : StoreDesc) (og oy ox : Nat) (el : List Bytes) : SeqM Unit :=
  let e := sd.elem
  let nb := ConvDesc.ceilDiv d.cout d.cbOut
  (List.range (d.lanesPer / d.cbOut)).forM fun k => do
    let blk := og * d.lanesPer / d.cbOut + k
    if blk < nb then
      seqPut u (d.outA + blk * d.obstr + oy * d.opitch + ox * d.cbOut * e)
        ((el.drop (k * d.cbOut)).take d.cbOut).flatten

/-- The last pass stores the chunk through its group's store descriptor; pixels of a ZC32 row are
gathered for the row's end. -/
def storeChunk (u : SeqUnit) (d : ConvDesc) (og oy : Nat) (px : List Nat) : SeqM (List (Nat × Bytes)) := do
  let sd ← groupDesc u d (og * d.lanesPer)
  (px.zipIdx).mapM fun (ox, j) => do
    let el ← pixelOut u d sd og j
    if !d.zcOut then putPixel u d sd og oy ox el
    pure (ox, el.flatten)

/-- One output row of one output group from pass p0 on (R197, R219). -/
def rowGroup (u : SeqUnit) (d : ConvDesc) (hdr : Bytes) (oy og p0 : Nat) : SeqM Unit := do
  let cs := d.chunks
  let np := d.passes
  let sd ← groupDesc u d (og * d.lanesPer)
  let outs ← ((List.range np).drop p0).mapM fun p =>
    cs.mapM fun px => do
      if p = 0 then startChunk u d sd px.length
      else if 1 < cs.length then psumRestore u d px
      if d.dw then dwPass u d og oy px p else macPass u d hdr og oy px p
      if p + 1 = np then storeChunk u d og oy px
      else do
        if 1 < cs.length then psumSave u d px
        pure []
  if d.zcOut && decide (p0 < np) then
    let all := outs.flatten.flatten
    let row := (List.range d.ow.toNat).map fun x => ((all.find? fun q => q.1 = x).map (·.2)).getD []
    let (h, pay) := zcEncode sd.zpByte row
    let slot := d.outA + og * d.obstr + oy * d.opitch
    if !pay.isEmpty then seqPut u (slot + h.length) pay
    seqPut u slot h

/-- Rows oy .. oy + n - 1 of a descriptor, the first group of the first row from pass p0 on (log 174). -/
def runRows (u : SeqUnit) (d : ConvDesc) (hdr : Bytes) (oy p0 n : Nat) : SeqM Unit :=
  (List.range n).forM fun k =>
    (List.range (ConvDesc.ceilDiv d.cout d.lanesPer)).forM fun og =>
      rowGroup u d hdr (oy + k) og (if k = 0 ∧ og = 0 then p0 else 0)

/-- The weight-block header of a codebook descriptor. -/
def codeHeader (u : SeqUnit) (d : ConvDesc) : SeqM Bytes :=
  if d.qmode = 2 then seqTap u d.wA 64 else pure []

/-- Every group's store width is one byte (R254). -/
def zcWidths (u : SeqUnit) (d : ConvDesc) : SeqM Bool :=
  if d.zcOut then do
    let ws ← (List.range d.ng).mapM fun g => groupDesc u d (32 * g)
    pure (ws.all fun x => decide (x.width ≤ 1))
  else pure true

/-- The checks that need more than the descriptor: R251, R254. -/
def blockOk (u : SeqUnit) (d : ConvDesc) : SeqM Bool := do
  let z ← zcWidths u d
  let h ← codeHeader u d
  pure (z && (d.qmode != 2 || d.codebookOk h))

/-- The rows run with what the unit holds. -/
def runUnit (u : SeqUnit) (d : ConvDesc) (oy p0 n : Nat) : SeqM Unit := do
  let h ← codeHeader u d
  runRows u d h oy p0 n

end Sys2Proof.Machine
end

