-- ==== Sys2Proof/Machine/SparRegs.lean ====
section
/-!
DEFINITION. A Spar core's special registers and counters, its register block and its scale register file
(Tables 5-12 to 5-18, 7-8, 8-9), and MSI-X vectors (R399).
-/

namespace Sys2Proof.Machine

def coreOf (s : State) (c : CoreId) : SparCore := s.spar.get c

def coreMod (s : State) (c : CoreId) (f : SparCore → SparCore) : State := { s with spar := vmod s.spar c f }

/-- The core is powered and clocked, and not fenced. -/
def sparUp (s : State) (c : CoreId) : Bool := domRuns s (sparDom c) && !unitFenced s c.val

/-- The core issues bundles. -/
def sparRuns (s : State) (c : CoreId) : Bool := sparUp s c && (coreOf s c).state == 1

/-! ## Interrupts -/

/-- An enabled interrupt is pending (R194). -/
def irqPending (x : SparCore) : Bool := x.gie && decide (x.irq &&& x.ie ≠ 0)

/-- An interrupt would be taken but for an RPT and a running TILE: it is pending, no handler runs (interrupts do
not nest), no DONE waits, and no WAITPH with IW = 0, no bundle after one and no WAITOB stands before it (R194, R201). -/
def irqReady (x : SparCore) : Bool :=
  irqPending x && !x.inHandler && !x.irqHold && !x.closing &&
    (match x.wait with
      | .none => true
      | .ph _ iw _ => iw
      | .ob _ _ _ _ => false)

/-- An interrupt that is ready while a repetition is in force is deferred by it; the note stands while the
interrupt is ready (R185, Table 5-18). -/
def SparCore.noteRpt (x : SparCore) : SparCore :=
  { x with irqRpt := irqReady x && (x.irqRpt || decide (0 < x.rptLeft)) }

/-- An interrupt may be taken once a running TILE has stored its row (R185, R194, R196). -/
def irqTakes (x : SparCore) : Bool := irqReady x && decide (x.rptLeft = 0) && x.recallTo.isNone

/-! ## Counters (Table 5-13, R206) -/

def satAdd32 (x : W32) (n : Nat) : W32 := BitVec.ofNat 32 (min 0xFFFFFFFF (x.toNat + n))

def SparCore.bump (x : SparCore) (i : Fin 10) (n : Nat) : SparCore :=
  { x with cnt32 := vmod x.cnt32 i fun k => satAdd32 k n }

def SparCore.bump64 (x : SparCore) (i : Fin 3) (n : Nat) : SparCore :=
  { x with cnt64 := vmod x.cnt64 i fun k => k + BitVec.ofNat 64 n }

/-- Indices of the 32-bit counters. -/
def cStlDep : Fin 10 := 0
def cStlFetch : Fin 10 := 1
def cStlOb : Fin 10 := 2
def cStlPh : Fin 10 := 3
def cSatPos : Fin 10 := 4
def cSatNeg : Fin 10 := 5
def cSatUns : Fin 10 := 6
def cPhOvr : Fin 10 := 7
def cEcc : Fin 10 := 8
def cIrq : Fin 10 := 9

/-- Cycles that pass with a command are a free count (log 63): CYC and one stall counter take it. -/
def passCycles (s : State) (c : CoreId) (stall : Option (Fin 10)) : State :=
  let n := drawn s .cycles
  afterDraw (coreMod s c fun x =>
    let x := x.bump64 0 n
    match stall with
    | some i => x.bump i n
    | none => x)

/-- A bundle issues: among the cycles that have passed, some it waited for an operand and some for its fetch, in
free numbers (R183, R202, Table 5-9, log 63). -/
def passIssue (s : State) (c : CoreId) : State :=
  let n := drawn s .cycles
  let dep := Config.freeValue .cycles (s.free + 1) % (n + 1)
  let fetch := Config.freeValue .cycles (s.free + 2) % (n - dep + 1)
  { coreMod s c fun x => (((x.bump64 0 n).bump cStlDep dep).bump cStlFetch fetch) with free := s.free + 3 }

/-- A write of 1 to SP_CNTCLR.ALL clears every counter and SAT_UNSURE (R206, R207). -/
def SparCore.clearCounters (x : SparCore) : SparCore :=
  { x with cnt64 := Vector.replicate 3 0, cnt32 := Vector.replicate 10 0, satUnsure := false }

def SparCore.wclBits (x : SparCore) : Nat :=
  (x.acc.toList.map wcl).foldr (fun b a => b2n b + 2 * a) 0

/-! ## Special registers -/

def SparCore.waiting (x : SparCore) : Bool :=
  match x.wait with
  | .none => false
  | _ => true

/-- SP_STAT (Table 5-14). -/
def spStat (s : State) (c : CoreId) : Nat :=
  let x := coreOf s c
  x.state.toNat + 4 * b2n x.satUnsure + 8 * b2n (s.pht.rdy.getLsbD c.val) + 16 * b2n x.waiting
    + 2 ^ 16 * x.fcode.toNat

/-- SP_RPTLIM.LIMIT as it acts: 0 and values above 4096 are 4096 (Table 5-16). -/
def SparCore.limit (x : SparCore) : Nat :=
  let v := bits x.rptlim.toNat 0 13
  if v = 0 ∨ 4096 < v then 4096 else v

def TileState.code (t : TileState) : Nat :=
  b2n t.active + 2 * b2n t.susp + 4 * t.row.toNat + 2 ^ 17 * t.pass.toNat + 2 ^ 22 * b2n t.ws
    + 2 ^ 23 * t.desc.toNat

/-- A write of TILE_STATE: ACTIVE is read-only. -/
def TileState.write (t : TileState) (v : Nat) : TileState :=
  { t with susp := bitOf v 1, row := BitVec.ofNat 15 (bits v 2 15), pass := BitVec.ofNat 5 (bits v 17 5),
           ws := bitOf v 22, desc := BitVec.ofNat 14 (bits v 23 14) }

/-- A special register by its MOVF number; SP_CTL has no stated layout and reads a free value (log 64). -/
def spRead (s : State) (c : CoreId) (n : Nat) : Nat :=
  let x := coreOf s c
  match n with
  | 0x00 => drawn s .register % 2 ^ 32
  | 0x01 => spStat s c
  | 0x02 => x.ie.toNat + 256 * b2n x.gie
  | 0x03 => x.ivec.toNat
  | 0x04 => x.epc.toNat
  | 0x05 => x.estat.toNat
  | 0x06 => x.limit
  | 0x07 => x.wdt.toNat
  | 0x08 => x.tile.code
  | 0x09 => (x.wsSrc.get 0).toNat
  | 0x0A => (x.wsSrc.get 1).toNat
  | 0x20 => (x.cnt64.get 0).toNat
  | 0x21 => (x.cnt64.get 1).toNat
  | 0x22 => (x.cnt32.get cStlDep).toNat
  | 0x23 => (x.cnt32.get cStlFetch).toNat
  | 0x24 => (x.cnt32.get cStlOb).toNat
  | 0x25 => (x.cnt32.get cStlPh).toNat
  | 0x26 => (x.cnt64.get 2).toNat
  | 0x27 => (x.cnt32.get cSatPos).toNat
  | 0x28 => (x.cnt32.get cSatNeg).toNat
  | 0x29 => (x.cnt32.get cSatUns).toNat
  | 0x2A => (x.cnt32.get cPhOvr).toNat
  | 0x2B => (x.cnt32.get cEcc).toNat
  | 0x2C => (x.cnt32.get cIrq).toNat
  | 0x2D => x.wclBits
  | 0x30 => (x.crs.get 0).toNat
  | 0x31 => (x.crs.get 1).toNat
  | 0x32 => (x.crs.get 2).toNat
  | 0x33 => (x.crs.get 3).toNat
  | 0x34 => (x.crs.get 4).toNat
  | 0x35 => (x.crs.get 5).toNat
  | 0x36 => (x.crs.get 6).toNat
  | 0x37 => (x.crs.get 7).toNat
  | _ => 0

/-- Reading SP_CTL draws a free value. -/
def spReadDraw (s : State) (n : Nat) : State := if n = 0 then afterDraw s else s

/-- CYC counts while the domain is powered, whatever the core does: the cycles that no command has shown are a
free count that is added when CYC is read (Table 5-13, log 63). -/
def cycCatchUp (s : State) (c : CoreId) (n : Nat) : State := if n = 0x20 then passCycles s c none else s

/-- A write of a special register by plan code (MOVS) or, with `mast`, through the register block:
read-only registers ignore it; SP_WDT is writable from Mast only. -/
def spWrite (x : SparCore) (mast : Bool) (n v : Nat) : SparCore :=
  match n with
  | 0x02 => { x with ie := BitVec.ofNat 5 v, gie := bitOf v 8 }
  | 0x03 => { x with ivec := BitVec.ofNat 64 v }
  | 0x04 => { x with epc := BitVec.ofNat 64 v }
  | 0x06 => { x with rptlim := BitVec.ofNat 32 (bits v 0 13) }
  | 0x07 => if mast then { x with wdt := BitVec.ofNat 32 v } else x
  | 0x08 => { x with tile := x.tile.write v }
  | 0x0B => if bitOf v 0 then x.clearCounters else x
  | _ => x

/-! ## Register block (Tables 5-12, 7-8) -/

/-- A read of n bytes at an offset of the block: 64-bit registers by halves, scale entries by word. -/
def spBlockRead (s : State) (c : CoreId) (off n : Nat) : Nat × State :=
  if 0x4000 ≤ off ∧ off < 0x6000 then
    ((srfRead (coreOf s c).srf ((off - 0x4000) / 4)).toNat, s)
  else if off < 0x170 then
    let r := off / 8
    let s := cycCatchUp s c r
    (bits (spRead s c r) (8 * (off % 8)) (8 * n), spReadDraw s r)
  else (0, s)

def spBlockWrite (s : State) (c : CoreId) (off n v : Nat) : State :=
  if 0x4000 ≤ off ∧ off < 0x6000 then
    coreMod s c fun x => { x with srf := Tbl.write (fun _ => 0) x.srf ((off - 0x4000) / 4) (BitVec.ofNat 32 v) }
  else if off < 0x60 then
    let r := off / 8
    let old := spRead s c r
    let whole := if r = 0x0B then (if off % 8 = 0 then v else 0) else setBits old (8 * (off % 8)) (8 * n) v
    coreMod s c fun x => spWrite x true r whole
  else s

/-- SP_CNTCLR written from the register block. -/
def execSpCntclr (c : CoreId) (v : W32) (s : State) : Host.Outcome State Fault Refusal :=
  if domUp s (sparDom c) then .next (coreMod s c fun x => spWrite x true 0x0B v.toNat) else .next s

/-! ## MSI-X (R399) -/

/-- A vector is sent, or its pending bit is set while its table entry is masked. -/
def msixRaise (s : State) (v : Fin 32) : State :=
  if (s.pcie.msix.get v).getLsbD 96 then { s with pcie.pend := s.pcie.pend ||| (1#32 <<< v.val) }
  else emit s (.msix v)

/-- MSIX_UNMASK: the entry's mask is cleared, and a pending vector is sent. -/
def execMsixUnmask (vec : Fin 32) (s : State) : Host.Outcome State Fault Refusal :=
  let t := { s with pcie.msix := vmod s.pcie.msix vec fun e => e &&& ~~~(1#128 <<< 96) }
  if !pcieUp s then .next s
  else if s.pcie.pend.getLsbD vec.val then
    .next (emit { t with pcie.pend := t.pcie.pend &&& ~~~(1#32 <<< vec.val) } (.msix vec))
  else .next t

/-- A write of PCIE_MSIX_RAISE; a number below 9 is ignored. -/
def msixRaiseWrite (s : State) (v : W32) : State :=
  let n := bits v.toNat 0 5
  if n < 9 then s else msixRaise s (Fin.ofNat 32 n)

/-- PCIE_MSIX_RAISE. -/
def execPcieMsixRaise (v : W32) (s : State) : Host.Outcome State Fault Refusal :=
  if ctlUp s && domUp s 17 then .next (msixRaiseWrite s v) else .next s

end Sys2Proof.Machine
end

