-- ==== Sys2Proof/Machine/Csc.lean ====
section
/-!
DEFINITION. The course scheduler: plan slots, jobs, courses, overlap buffers, staging and commit
(R261 to R297).
-/

namespace Sys2Proof.Machine

/-- The CSC runs: PD12 granted and clocked, unit 0x19 not fenced. -/
def cscUp (s : State) : Bool := domRuns s 12 && !unitFenced s 0x19

def cscStat (s : State) (i : Fin 10) : State := { s with csc.stats := vmod s.csc.stats i (· + 1) }

/-- Counters of 0x4100:02 to 0B. -/
def nDispatched : Fin 10 := 0
def nLocalSteal : Fin 10 := 1
def nRemoteOut : Fin 10 := 2
def nRemoteIn : Fin 10 := 3
def nHaloWait : Fin 10 := 4
def nRecompute : Fin 10 := 5
def nUnbounded : Fin 10 := 6
def nLatePub : Fin 10 := 7
def nRedispatch : Fin 10 := 8
def nCancel : Fin 10 := 9

/-- The initiator number of the CSC. -/
def cscInit : Nat := 20

/-! ## Plan slots (R261, R262, Tables 8-6, 8-7) -/

def planOf (s : State) (p : PhtSlotId) : PlanSlot := s.csc.plans.get p

def groupOf (b : Bytes) : Group :=
  let n := fun o k => fieldLE b o k
  { eaves := n 0 1 == 1, remoteOk := bitOf (n 1 1) 0, src := byteAt b 2, haloMax := byteAt b 3,
    oh := BitVec.ofNat 16 (n 4 2), ch := BitVec.ofNat 16 (n 6 2), recompRows := BitVec.ofNat 16 (n 8 2),
    haloWait := BitVec.ofNat 16 (n 0xA 2), inSy := BitVec.ofNat 16 (n 0xC 2), inLead := byteAt b 0xE,
    inTrail := byteAt b 0xF, entry := BitVec.ofNat 32 (n 0x10 4), altEntry := BitVec.ofNat 32 (n 0x14 4),
    obBytes := BitVec.ofNat 32 (n 0x18 4), stgBytes := BitVec.ofNat 32 (n 0x1C 4),
    dst := BitVec.ofNat 64 (n 0x20 8), outPitch := BitVec.ofNat 32 (n 0x28 4),
    outBstr := BitVec.ofNat 64 (n 0x2C 8), outNb := BitVec.ofNat 16 (n 0x34 2),
    pfBytes := BitVec.ofNat 20 (n 0x36 4), pfOfs := BitVec.ofNat 12 (n 0x36 4 / 2 ^ 20) }

def ceilDiv' (a b : Nat) : Nat := (a + b - 1) / b

/-- Number of courses of a group. -/
def Group.nc (g : Group) : Nat := ceilDiv' g.oh.toNat g.ch.toNat

/-- A group record is valid (R261 names no checks; those of Tables 8-7 and 8-10, DEDUCED, log 70). -/
def Group.ok (b : Bytes) (g : Group) (ng : Nat) (region : Nat) : Bool :=
  decide ((byteAt b 0).toNat ≤ 1) && decide (1 ≤ g.ch.toNat) && decide (g.ch.toNat ≤ 8192)
    && decide (1 ≤ g.nc) && decide (g.nc ≤ 4096) && (decide (0x80 ≤ g.src.toNat) || decide (g.src.toNat < ng))
    && decide (g.recompRows.toNat ≤ 255) && decide (g.stgBytes.toNat ≤ region)

def planMod (s : State) (p : PhtSlotId) (f : PlanSlot → PlanSlot) : State :=
  { s with csc.plans := vmod s.csc.plans p f }

/-- An active job names the plan slot: writes of IMAGE and LOAD are ignored (R261). -/
def planBusy (s : State) (p : PhtSlotId) : Bool := s.csc.jobs.any fun j => j.plan == p

/-- LOAD = 1: the header and the group records are read and checked; the slot becomes LOADED or INVALID.
Cores that hold the slot's earlier plan no longer hold the plan (log 71). -/
def planLoad (s : State) (p : PhtSlotId) : State :=
  let img := (planOf s p).image.toNat
  let bad := fun (t : State) => planMod t p fun x => { x with state := 2, groups := [] }
  match seqRead s cscInit none img 64 with
  | (.error _, t) => bad t
  | (.ok h, t) =>
    let ng := fieldLE h 6 2
    let n := fun o k => fieldLE h o k
    if n 0 4 ≠ 0x574A504C ∨ n 4 2 ≠ 1 ∨ ng < 1 ∨ 64 < ng ∨ 120 * 1024 < n 0xC 4 ∨ 2048 < n 0x14 4 then bad t
    else
      match seqRead t cscInit none (img + n 0x18 4) (64 * ng) with
      | (.error _, t) => bad t
      | (.ok gs, t) =>
        let recs := (List.range ng).map fun i => slice gs (64 * i) 64
        let groups := recs.map groupOf
        if recs.all fun b => (groupOf b).ok b ng s.csc.stgSize.toNat then
          let t := planMod t p fun x => { x with
            state := 1, codeOff := BitVec.ofNat 32 (n 8 4), codeLen := BitVec.ofNat 32 (n 0xC 4),
            srfOff := BitVec.ofNat 32 (n 0x10 4), srfN := BitVec.ofNat 32 (n 0x14 4),
            rptLimit := BitVec.ofNat 16 (n 0x1C 2), haloWait := BitVec.ofNat 16 (n 0x1E 2),
            hash := BitVec.ofNat 64 (n 0x20 8), groups := groups }
          { t with spar := t.spar.map fun x => if x.plan = some p then { x with plan := none } else x }
        else bad t

/-- A write of word 1 of CSC_PLANp: bit 0 LOAD. -/
def planLoadWrite (s : State) (p : PhtSlotId) (v : W32) : State :=
  if v.getLsbD 0 && !planBusy s p then planLoad s p else s

/-- PLAN_LOAD. -/
def execPlanLoad (p : PhtSlotId) (v : W32) (s : State) : Host.Outcome State Fault Refusal :=
  if cscUp s then .next (planLoadWrite s p v) else .next s

/-- The CSC loads a plan's code into the core's ITCM, its SRF table into its scale registers and
SP_RPTLIM.LIMIT from the header (R262); none when a read of the image is refused. -/
def planCoreLoad (s : State) (c : CoreId) (p : PhtSlotId) : Option State :=
  let x := planOf s p
  let img := x.image.toNat
  match seqRead s cscInit none (img + x.codeOff.toNat) x.codeLen.toNat with
  | (.error _, _) => none
  | (.ok code, t) =>
    match seqRead t cscInit none (img + x.srfOff.toNat) (4 * x.srfN.toNat) with
    | (.error _, _) => none
    | (.ok tab, t) =>
      let t := t.wr (itcmBase c.val) code
      some (coreMod t c fun y => { y with
        srf := (List.range x.srfN.toNat).foldl (fun m i =>
          Tbl.write (fun _ => 0) m i (BitVec.ofNat 32 (fieldLE tab (4 * i) 4))) y.srf,
        rptlim := BitVec.ofNat 32 (bits x.rptLimit.toNat 0 13), plan := some p })

/-! ## Jobs and courses -/

def jobOf (s : State) (tag : W16) : Option Job := s.csc.jobs.find? fun j => j.tag == tag

def jobMod (s : State) (tag : W16) (f : Job → Job) : State :=
  { s with csc.jobs := s.csc.jobs.map fun j => if j.tag = tag then f j else j }

def Course.new : Course :=
  { st := .unassigned, nopub := false, stolen := false, recomp := false, first := false, region := 0 }

def Job.course (j : Job) (g k : Nat) : Course := (j.groups.getD g []).getD k Course.new

def Job.setCourse (j : Job) (g k : Nat) (f : Course → Course) : Job :=
  { j with groups := j.groups.modify g fun cs => cs.modify k f }

def planGroup (s : State) (j : Job) (g : Nat) : Option Group := (planOf s j.plan).groups[g]?

def tagOf (s : State) (j : Job) (g k : Nat) : CourseTag :=
  { home := ownChip s, job := j.tag, frame := j.frame, group := Fin.ofNat 64 g, course := BitVec.ofNat 12 k }

def CourseTag.upper (t : CourseTag) : CourseTag := { t with course := t.course - 1 }

def CourseTag.isOwn (s : State) (t : CourseTag) : Bool := t.home == ownChip s

/-- A course of this chip changed; one stolen from another chip stands in no job here (R293, R297). -/
def courseMod (s : State) (t : CourseTag) (f : Course → Course) : State :=
  if t.isOwn s then jobMod s t.job fun j => j.setCourse t.group.val t.course.toNat f else s

/-- The group a tag's course belongs to. -/
def tagGroup (s : State) (t : CourseTag) : Option (Job × Group) :=
  if t.isOwn s then
    match jobOf s t.job with
    | none => none
    | some j => (planGroup s j t.group.val).map fun g => (j, g)
  else none

def isVisible (c : Course) : Bool := c.st == .visible

/-- Length of a group's visible prefix (R266). -/
def visiblePrefix (cs : List Course) : Nat := (cs.takeWhile isVisible).length

/-- Rows of a stream slot that are decoded (R158, R266): all of them once its decoding has ended or for a
kind that is not decoded. -/
def slotRows (s : State) (n k : Nat) : Nat :=
  let c := ctxOf s n
  let t := slotAt c k
  if t.decoded || (t.done && !c.isJpeg) then (slotRoi s n k).h else s.rdLE (c.slotAddr k + 0x44) 4

/-- Input rows a course needs, counted from row 0: hi + 1 of R266, for an input of the given height. -/
def Group.rowsNeeded (g : Group) (k ih : Nat) : Nat :=
  min ih ((k + 1) * g.ch.toNat * g.inSy.toNat + g.inTrail.toNat)

/-- A course is ready (R266). -/
def courseReady (s : State) (j : Job) (g : Group) (k : Nat) : Bool :=
  let v := g.src.toNat
  if v < 0x80 then
    match planGroup s j v with
    | none => false
    | some p => decide (g.rowsNeeded k p.oh.toNat ≤
        min p.oh.toNat (visiblePrefix (j.groups.getD v []) * p.ch.toNat))
  else if j.ink = 0 then true
  else
    match j.held[v - 0x80]? with
    | none => false
    | some (n, sl) =>
      let ih := (slotRoi s n sl).h
      decide (g.rowsNeeded k ih ≤ slotRows s n sl)

/-- Unassigned ready courses in the order of R267: PRIO, taking order, re-queued first, group, course. -/
def jobReady (s : State) (j : Job) : List (Job × Nat × Nat) :=
  if j.stop.isSome then []
  else
    let all := (List.range j.groups.length).flatMap fun g =>
      (List.range (j.groups.getD g []).length).filterMap fun k =>
        if (j.course g k).st = .unassigned then
          match planGroup s j g with
          | some p => if courseReady s j p k then some (j, g, k) else none
          | none => none
        else none
    let fst := fun (e : Job × Nat × Nat) => (e.1.course e.2.1 e.2.2).first
    all.filter fst ++ all.filter fun e => !fst e

def readyList (s : State) : List (Job × Nat × Nat) :=
  (List.range 8).reverse.flatMap fun p =>
    (s.csc.jobs.filter fun j => j.prio.toNat = p).flatMap (jobReady s)

/-! ## Cores and staging regions -/

/-- A unit's fence is on its way: its line is asserted (R30, R287). -/
def fencing (s : State) (u : Nat) : Bool := s.cleatC.lines.getLsbD u || unitFenced s u

/-- No reclaim of a domain is asserted (R286). -/
def domKept (s : State) (d : DomId) : Bool := (domOf s d).reclaim.isNone

/-- A core is available (R267): not from the cycle of a fence-class fault on (R287), and not while a reclaim of its
domain is asserted (R286); one halted on a plan fault is reinitialised before its next course (R284). -/
def coreFree (s : State) (c : CoreId) : Bool :=
  let x := coreOf s c
  sparUp s c && !fencing s c.val && domKept s (sparDom c) && x.cur.isNone && x.recallTo.isNone && (x.state == 0 || (x.state == 2 && x.reinit))

def allCores : List CoreId := List.ofFn fun i : Fin 16 => i

def eeFree (s : State) : Bool :=
  domRuns s 8 && !fencing s 0x10 && domKept s 8 && s.ee.state == 0 && s.ee.cur.isNone

/-- Regions of a core (two each) and of the Eaves engine. -/
def regionsOf (u : Option CoreId) : List Nat :=
  match u with
  | some c => [2 * c.val, 2 * c.val + 1]
  | none => [32, 33]

/-- A region is in use by a course that runs or whose copy is not complete, or is dead (R281, R288). -/
def regionBusy (s : State) (r : Nat) : Bool :=
  s.csc.deadRegions.contains r || s.csc.copies.any (fun c => c.region == r) ||
    s.csc.jobs.any fun j => j.groups.any fun cs => cs.any fun c =>
      c.region == r && (match c.st with
        | .running _ => true
        | .committed => true
        | _ => false)

def freeRegion (s : State) (u : Option CoreId) : Option Nat := (regionsOf u).find? fun r => !regionBusy s r

def regionAddr (s : State) (r : Nat) : Nat := s.csc.stg.toNat + r * s.csc.stgSize.toNat

/-! ## Overlap buffers (R273 to R278) -/

def obdFind (s : State) (t : CourseTag) : Option Obd :=
  s.csc.obds.find? fun o => o.tag == t && o.st != .dead

def obdMod (s : State) (t : CourseTag) (f : Obd → Obd) : State :=
  { s with csc.obds := s.csc.obds.map fun o => if o.tag = t ∧ o.st ≠ .dead then f o else o }

/-- READY buffers that are closed and have no reader are freed. -/
def obdSweep (s : State) : State :=
  { s with csc.obds := s.csc.obds.filter fun o => !(o.st == .ready && o.closed && o.readers.isEmpty) }

def obdClose (s : State) (t : CourseTag) : State := obdSweep (obdMod s t fun o => { o with closed := true })

/-- Every registration of a core is released (R272, R285). -/
def obdRelease (s : State) (c : CoreId) : State :=
  obdSweep { s with csc.obds := s.csc.obds.map fun o => { o with readers := o.readers.filter (· ≠ c) } }

/-- Buffers whose consumer was discarded without being re-queued are closed (R273). -/
def obdCloseDropped (s : State) (tag : W16) : State :=
  match jobOf s tag with
  | none => s
  | some j =>
    obdSweep { s with csc.obds := s.csc.obds.map fun o =>
      if o.tag.job = tag ∧ (j.course o.tag.group.val (o.tag.course.toNat + 1)).st = .dropped then { o with closed := true }
      else o }

/-- A core is registered as a reader, once. -/
def obdRegister (s : State) (t : CourseTag) (c : CoreId) : State :=
  obdMod s t fun o => if c ∈ o.readers then o else { o with readers := o.readers ++ [c] }

/-- Buffers of the pool overlap an address range. -/
def poolTaken (s : State) (a n : Nat) : Bool :=
  s.csc.obds.any fun o => decide (o.addr < a + n) && decide (a < o.addr + o.size)

/-- First free 64-byte aligned place of the pool: its start, or the end of a buffer (log 72). -/
def poolPlace (s : State) (n : Nat) : Option Nat :=
  let b := s.csc.obPool.toNat
  let cands := b :: s.csc.obds.map fun o => (o.addr + o.size + 63) / 64 * 64
  (cands.filter fun a => decide (b ≤ a) && decide (a + n ≤ b + s.csc.obSize.toNat) && !poolTaken s a n).min?

/-- The effective HALO_RECOMP_MAX allows recompute (R274, R276). -/
def recompOk (j : Job) (g : Group) : Bool :=
  decide (g.recompRows.toNat ≤ min g.haloMax.toNat j.hrm.toNat)

/-- HALO_WAIT in cycles (R275). -/
def haloWaitOf (s : State) (j : Job) (g : Group) : Nat :=
  if j.hwait ≠ 0 then j.hwait.toNat
  else if g.haloWait ≠ 0 then g.haloWait.toNat else (planOf s j.plan).haloWait.toNat

/-- Perturbation kind 2 forces buffers to look not READY in the first N clk_dat cycles of every M (R541). -/
def obForced (s : State) : Bool :=
  s.pert.active.get 2 &&
    (let n := (byteAt (s.pert.params.get 2) 4).toNat
     let m := (byteAt (s.pert.params.get 2) 5).toNat
     decide (0 < m) && decide ((3 * s.pht.cycles) % m < n))

/-- The tag a core waits for in WAITOB WAIT. -/
def waitTag (x : SparCore) : Option CourseTag :=
  match x.wait with
  | .ob t _ _ _ => some t
  | _ => none

/-- A core's pre-assigned course follows the course of a tag. -/
def preFollows (s : State) (t : CourseTag) (c : CoreId) : Bool :=
  match (coreOf s c).pre with
  | some q => decide (q.course ≠ 0) && q.upper == t
  | none => false

/-- Cores that are to read a tag's buffer: those waiting for it, and those whose pre-assigned course
follows it (R269, R275). -/
def pendingReaders (s : State) (t : CourseTag) : List CoreId :=
  allCores.filter fun c =>
    waitTag (coreOf s c) == some t || preFollows s t c

/-- A WAIT ends: RD receives the outcome, and on READY RS the buffer address (R271). Issue goes on. -/
def endWait (s : State) (c : CoreId) (rd rs : Fin 32) (outcome addr : Nat) : State :=
  coreMod s c fun x => { x with
    wait := .none, d := vput x.d (Fin.ofNat 16 rd.val) (BitVec.ofNat 32 outcome),
    a := if outcome = 0 then vput x.a (Fin.ofNat 16 rs.val) (BitVec.ofNat 48 addr) else x.a }

/-- A WAIT that ends with RECOMPUTE closes its buffer and releases its registration (R273, R275). -/
def waitRecompute (s : State) (c : CoreId) (t : CourseTag) (rd rs : Fin 32) : State :=
  let s := endWait s c rd rs 1 0
  let s := obdMod s t fun o => { o with readers := o.readers.filter (· ≠ c) }
  let s := match (coreOf s c).cur with
    | some q => courseMod s q fun x => { x with recomp := true }
    | none => s
  cscStat (jobMod (obdClose s t) t.job fun j => { j with recomputed := true }) nRecompute

/-- Cores that wait for a READY buffer go on with outcome READY (R275). -/
def obWake (s : State) : State :=
  if obForced s then s
  else
    allCores.foldl (fun t c =>
      match (coreOf t c).wait with
      | .ob tag rd rs _ =>
        match obdFind t tag with
        | some o => if o.st = .ready then passCycles (endWait t c rd rs 0 o.addr) c (some cStlOb) else t
        | none => t
      | _ => t) s

/-- Raise an interrupt line of a core. -/
def irqRaise (s : State) (c : CoreId) (n : Nat) : State :=
  coreMod s c fun x => { x with irq := x.irq ||| (1#5 <<< n) }.noteRpt

/-- Bytes written into a core's DTCM at an offset, as far as it reaches. -/
def dtcmPut (s : State) (c : CoreId) (ofs : Nat) (b : Bytes) : State :=
  let b := b.take (0x100000 - ofs)
  noteHomeWrite (s.wr (dtcmBase c.val + ofs) b) (dtcmBase c.val + ofs) b.length

/-- The DMA of a core with a pre-assigned course fetches the READY upper buffer (R269); where in DTCM it puts it is
open (log 179). -/
def fetchUpper (s : State) (c : CoreId) (o : Obd) : State :=
  match seqRead s c.val (some c) o.addr o.size with
  | (.ok b, s) =>
    irqRaise (dtcmPut s c (Config.freeOf .unspecified [24, c.val, o.addr, o.size] % (0x100001 - min o.size 0x100000)) b) c 1
  | (.error _, s) => s

/-- PUB of a core: it acts on the buffer of which the core is the producer (R271, R273, R278). -/
def obPublish (s : State) (t : CourseTag) (c : CoreId) : State :=
  match s.csc.obds.find? fun o => o.tag == t && o.producer == some c && o.st != .dead with
  | none => s
  | some o =>
    if o.closed then cscStat { s with csc.obds := s.csc.obds.erase o } nLatePub
    else
      let s := { s with csc.obds := s.csc.obds.map fun q => if q = o then { q with st := .ready } else q }
      let s := obWake (o.readers.foldl (fun u c => irqRaise u c 2) s)
      (o.readers.filter (preFollows s t)).foldl (fun u k => fetchUpper u k o) s

/-- WAITOB WAIT of a core (R275); that of a remotely stolen course returns RECOMPUTE at once (R294). -/
def obWait (s : State) (c : CoreId) (rd rs : Fin 32) : State :=
  match (coreOf s c).cur with
  | none => endWait s c rd rs 2 0
  | some t =>
    if !t.isOwn s then endWait s c rd rs 1 0
    else
      match tagGroup s t with
      | none => endWait s c rd rs 2 0
      | some (j, g) =>
        if t.course = 0 ∨ g.obBytes = 0 then endWait s c rd rs 2 0
        else
          let up := t.upper
          let uc := j.course t.group.val up.course.toNat
          let wait := coreMod (obdRegister s up c) c fun x => { x with wait := .ob up rd rs false }
          if uc.nopub || uc.stolen then waitRecompute s c up rd rs
          else
            match obdFind s up with
            | some o =>
              if o.st = .ready ∧ ¬ obForced s then endWait (obdRegister s up c) c rd rs 0 o.addr
              else cscStat wait nHaloWait
            | none =>
              if uc.st = .committed ∨ uc.st = .visible then waitRecompute s c up rd rs
              else cscStat wait nHaloWait

/-- HALO_WAIT_EXPIRY: a READY buffer is used; else RECOMPUTE when the group allows it, else the wait goes
on without limit (R275 to R277). -/
def execHaloWaitExpiry (c : CoreId) (s : State) : Host.Outcome State Fault Refusal :=
  match (coreOf s c).wait with
  | .ob t rd rs false =>
    if !sparRuns s c then .next s
    else
      match tagGroup s t with
      | none => .next s
      | some (j, g) =>
        let s := passCycles s c (some cStlOb)
        match obdFind s t with
        | some o =>
          if o.st = .ready ∧ ¬ obForced s then .next (endWait s c rd rs 0 o.addr)
          else if recompOk j g then .next (waitRecompute s c t rd rs)
          else .next (cscStat (jobMod { coreMod s c (fun x => { x with wait := .ob t rd rs true }) with
            csc.unbounded := true } t.job fun j => { j with unbounded := true }) nUnbounded)
        | none =>
          if recompOk j g then .next (waitRecompute s c t rd rs)
          else .next (cscStat (jobMod { coreMod s c (fun x => { x with wait := .ob t rd rs true }) with
            csc.unbounded := true } t.job fun j => { j with unbounded := true }) nUnbounded)
  | _ => .next s

/-! ## Dispatch (R267 to R270, R273, R274) -/

/-- What the overlap buffer of a course comes to at dispatch: none needed, one allocated at an address,
NOPUB, or the dispatch has to wait. -/
inductive ObPlan where
  | notFused
  | alloc (addr : Nat)
  | nopub
  | hold
  deriving DecidableEq, Repr

def obPlan (s : State) (j : Job) (g : Group) (k : Nat) : ObPlan :=
  if g.obBytes = 0 ∨ k + 1 = g.nc then .notFused
  else
    match (if s.csc.obds.length < 512 then poolPlace s g.obBytes.toNat else none) with
    | some a => .alloc a
    | none => if recompOk j g then .nopub else .hold

/-- Base address of a course's input (R265, Table 8-9). -/
def courseIn (s : State) (j : Job) (g : Group) : Nat :=
  let v := g.src.toNat
  if v < 0x80 then
    match planGroup s j v with
    | some p => if p.dst = 0 then j.outBase.toNat else p.dst.toNat
    | none => 0
  else if j.ink = 0 then j.inBase.toNat
  else
    match j.held[v - 0x80]? with
    | some (n, sl) => (ctxOf s n).slotAddr sl + (ctxOf s n).tofs.toNat
    | none => 0

def courseDst (j : Job) (g : Group) : Nat := if g.dst = 0 then j.outBase.toNat else g.dst.toNat

def courseRows (g : Group) (k : Nat) : Nat × Nat :=
  (k * g.ch.toNat, min ((k + 1) * g.ch.toNat) g.oh.toNat - k * g.ch.toNat)

/-- The course registers (Table 8-9). -/
def crsOf (s : State) (j : Job) (g : Group) (gi k region ob : Nat) (nopub : Bool) : Vector W64 8 :=
  let (r0, rn) := courseRows g k
  #v[BitVec.ofNat 64 (j.tag.toNat + 2 ^ 16 * j.frame.toNat),
     BitVec.ofNat 64 (k + 2 ^ 12 * gi + 2 ^ 18 * b2n (k == 0) + 2 ^ 19 * b2n (k + 1 == g.nc)
       + 2 ^ 20 * b2n nopub),
     BitVec.ofNat 64 (r0 + 2 ^ 16 * rn), BitVec.ofNat 64 (regionAddr s region),
     BitVec.ofNat 64 (courseIn s j g), BitVec.ofNat 64 ob, j.arg, BitVec.ofNat 64 (courseDst j g)]

/-- A core's registers cleared for a course: the register files of Table 5-1 and their shadow set, the
loop and issue state; the SRF, the counters and the special registers stay (R268, log 73). -/
def SparCore.clearRegs (x : SparCore) : SparCore :=
  let r := SparCore.reset
  { x with v := r.v, acc := r.acc, d := r.d, a := r.a, cb := r.cb, p := r.p, loops := r.loops, shA := r.shA,
           shCb := r.shCb, shP := r.shP, shLoops := r.shLoops, rptLeft := 0, wait := .none,
           inHandler := false, irqHold := false, tile := TileState.zero, tdesc := [], fetched := Fetched.zero, rem := [], done := false,
           closing := false, recallTo := none, reinit := false }

/-- The consumer of a course's buffer will not read it: it has recomputed, committed or been discarded (R273). -/
def consumerPast (s : State) (t : CourseTag) : Bool :=
  match jobOf s t.job with
  | some j =>
    let q := j.course t.group.val (t.course.toNat + 1)
    q.recomp || q.st == .committed || q.st == .visible || q.st == .dropped
  | none => false

/-- The OBD of a dispatched course, with every pending reader registered (R273). -/
def obAlloc (s : State) (t : CourseTag) (u : Option CoreId) (p : ObPlan) (size : Nat) : State :=
  match p with
  | .alloc a =>
    { s with csc.obds := s.csc.obds ++ [{ tag := t, st := .writing, closed := consumerPast s t, readers := pendingReaders s t, producer := u, addr := a, size := size }] }
  | _ => s

/-- A course becomes a unit's own (R267, R273); the next starvation asks the first peer first (R292). -/
def ownCourse (s : State) (t : CourseTag) (u : Option CoreId) (region : Nat) (p : ObPlan) (size : Nat) : State :=
  let s := courseMod (obAlloc s t u p size) t fun q =>
    { q with st := .running u, nopub := decide (p = .nopub), recomp := false, first := false, region := region }
  cscStat { s with csc.seq := s.csc.seq + 1, csc.nextPeer := 0 } nDispatched

/-- A course starts on a core (R268). -/
def startCourse (s : State) (j : Job) (g : Group) (gi k : Nat) (c : CoreId) (entry region : Nat)
    (p : ObPlan) : State :=
  let t := tagOf s j gi k
  let ob := match p with
    | .alloc a => a
    | _ => 0
  let crs := crsOf s j g gi k region ob (decide (p = .nopub))
  let n := s.csc.seq
  coreMod (ownCourse s t (some c) region p g.obBytes.toNat) c fun x => { x.clearRegs with
    state := 1, pc := BitVec.ofNat 32 (32 * entry), crs := crs, cur := some t, started := n, pre := none }

/-- The entry of a group for a Spar core: ENTRY, or ALT_ENTRY of a group of a fenced Eaves engine (R290). -/
def sparEntry (s : State) (g : Group) : Option Nat :=
  if !g.eaves then some g.entry.toNat
  else if unitFenced s 0x10 && decide (g.altEntry ≠ 0) then some g.altEntry.toNat else none

/-- A course dispatched to a core, its plan loaded first when the core does not hold it; none when it
cannot be: no region, no buffer, or the plan cannot be read. -/
def tryCore (s : State) (j : Job) (gi k : Nat) (c : CoreId) : Option State :=
  match planGroup s j gi with
  | none => none
  | some g =>
    match sparEntry s g, freeRegion s (some c), obPlan s j g k with
    | _, _, .hold => none
    | some e, some r, p =>
      match (if (coreOf s c).plan = some j.plan then some s else planCoreLoad s c j.plan) with
      | some t => some (startCourse t j g gi k c e r p)
      | none => none
    | _, _, _ => none

/-- The descriptor template of an Eaves course is copied to Loft with OY0, OY1, IN and OUT set, so that the course's
first row falls at row 0 of its staging area (R268, R279, log 74); the engine is offered the copy. -/
def offerEaves (s : State) (p : PhtSlotId) (g : Group) (k inp stage : Nat) : Option State :=
  match seqRead s cscInit none ((planOf s p).image.toNat + g.entry.toNat) 128 with
  | (.error _, _) => none
  | (.ok tpl, s) =>
    let (r0, rn) := courseRows g k
    let out := (stage + 2 ^ 64 - r0 * fieldLE tpl 0x24 4 % 2 ^ 64) % 2 ^ 64
    let b := overwrite (overwrite (overwrite (overwrite tpl 0x1A (toLE 2 r0)) 0x1C (toLE 2 (r0 + rn)))
      0x30 (toLE 8 inp)) 0x38 (toLE 8 out)
    let a := regionAddr s 34
    match ramWrite s cscInit a b with
    | (some _, _) => none
    | (none, s) => some { s with ee.offered := some a, ee.done := false }

/-- The Eaves engine takes a course. -/
def tryEaves (s : State) (j : Job) (gi k : Nat) : Option State :=
  match planGroup s j gi, freeRegion s none with
  | some g, some r =>
    let p := obPlan s j g k
    if !g.eaves || !eeFree s || decide (p = .hold) then none
    else
      (offerEaves s j.plan g k (courseIn s j g) (regionAddr s r)).map fun s =>
        let t := tagOf s j gi k
        { ownCourse s t none r p g.obBytes.toNat with ee.cur := some t }
  | _, _ => none

/-- Cores in the order of R267 for a plan: those that hold it, then the others, by number. A core with a pre-assigned
course takes that one first (R269). -/
def coreOrder (s : State) (p : PhtSlotId) : List CoreId :=
  let av := allCores.filter fun c => coreFree s c && (coreOf s c).pre.isNone
  av.filter (fun c => (coreOf s c).plan = some p) ++ av.filter fun c => (coreOf s c).plan ≠ some p

/-- Bytes from one input row of a group to the next: its producer's OUT_PITCH, or the context's TPITCH; that of a
tensor at IN stands in no field the CSC reads and is open (log 179). -/
def inPitch (s : State) (j : Job) (g : Group) : Nat :=
  if g.src.toNat < 0x80 then
    match planGroup s j g.src.toNat with
    | some p => p.outPitch.toNat
    | none => 0
  else
    match j.held[g.src.toNat - 0x80]? with
    | some (n, _) => (ctxOf s n).tpitch
    | none => Config.freeOf .unspecified [25, j.plan.val, g.entry.toNat] % 2 ^ 32

/-- PRE_ASSIGN: the next unassigned ready course goes to the core in advance; the prefetch copies the first
PF_BYTES of its input into DTCM and registers the core on the upper buffer (R269). -/
def preAssign (s : State) (c : CoreId) : State :=
  match (readyList s).find? fun e =>
      match planGroup s e.1 e.2.1 with
      | some g => (sparEntry s g).isSome
      | none => false with
  | none => s
  | some (j, gi, k) =>
    match planGroup s j gi with
    | none => s
    | some g =>
      let t := tagOf s j gi k
      let s := courseMod s t fun q => { q with st := .preassigned c }
      let s := coreMod s c fun x => { x with pre := some t }
      let s := if g.obBytes ≠ 0 ∧ k ≠ 0 then
          match obdFind s t.upper with
          | some o =>
            let s := obdRegister s t.upper c
            if o.st = .ready then fetchUpper s c o else s
          | none => s
        else s
      let src := courseIn s j g + (k * g.ch.toNat * g.inSy.toNat - g.inLead.toNat) * inPitch s j g
      let s := irqRaise s c 0
      if g.pfBytes = 0 then s
      else
        match seqRead s c.val (some c) src g.pfBytes.toNat with
        | (.ok b, s) => irqRaise (dtcmPut s c (64 * g.pfOfs.toNat) b) c 1
        | (.error _, s) => s

/-- A started course's core gets its next one in advance, unless the job forbids it. -/
def afterStart (s : State) (j : Job) (c : CoreId) : State := if j.runaheadOff then s else preAssign s c

/-- An idle core's own pre-assigned course, which it takes first (R269). -/
def ownPre (s : State) : Option State :=
  allCores.findSome? fun c =>
    if coreFree s c then
      match (coreOf s c).pre with
      | some t =>
        match jobOf s t.job with
        | some j => (tryCore s j t.group.val t.course.toNat c).map fun u => afterStart u j c
        | none => none
      | none => none
    else none

/-- The first unassigned ready course to an available core or the Eaves engine. -/
def firstReady (s : State) : Option State :=
  (readyList s).findSome? fun (j, gi, k) =>
    match tryEaves s j gi k with
    | some t => some t
    | none => (coreOrder s j.plan).findSome? fun c => (tryCore s j gi k c).map fun t => afterStart t j c

/-- COURSE_DISPATCH. -/
def execCourseDispatch (s : State) : Host.Outcome State Fault Refusal :=
  if !cscUp s then .next s
  else
    match ownPre s with
    | some t => .next t
    | none =>
      match firstReady s with
      | some t => .next t
      | none => .next s

/-- PLAN_CORE_LOAD: an idle core gets the plan of the first ready course for it (R262). -/
def execPlanCoreLoad (c : CoreId) (s : State) : Host.Outcome State Fault Refusal :=
  if !(cscUp s && coreFree s c) then .next s
  else
    match (readyList s).find? fun e =>
        (coreOf s c).plan ≠ some e.1.plan && (match planGroup s e.1 e.2.1 with
          | some g => (sparEntry s g).isSome
          | none => false) with
    | none => .next s
    | some (j, _, _) =>
      match planCoreLoad s c j.plan with
      | some t => .next t
      | none => .next s

/-- The busy core with a pre-assigned course whose current course started earliest (R270). -/
def stealVictim (s : State) : Option CoreId :=
  (allCores.filter fun c => (coreOf s c).pre.isSome && (coreOf s c).cur.isSome).foldl (fun b c =>
    match b with
    | none => some c
    | some d => if (coreOf s c).started < (coreOf s d).started then some c else some d) none

/-- A pre-assigned course is taken off its core: its prefetch is cancelled, and its registration released
when the cancellation has been processed (R270). -/
def cancelPre (s : State) (c : CoreId) : State :=
  match (coreOf s c).pre with
  | none => s
  | some t =>
    cscStat (coreMod { s with csc.cancels := s.csc.cancels ++
        [(c, if t.course = 0 then none else some t.upper)] } c fun x => { x with pre := none }) nCancel

/-- COURSE_STEAL_LOCAL: the lowest-numbered available core that can take it gets the victim's course (R270). -/
def execCourseStealLocal (s : State) : Host.Outcome State Fault Refusal :=
  if !cscUp s || !(readyList s).isEmpty then .next s
  else
    match stealVictim s with
    | none => .next s
    | some v =>
      match (coreOf s v).pre with
      | none => .next s
      | some t =>
        match jobOf s t.job with
        | none => .next s
        | some j =>
          match (allCores.filter fun c => coreFree s c && (coreOf s c).pre.isNone).findSome?
              (tryCore (cancelPre s v) j t.group.val t.course.toNat) with
          | some u => .next (cscStat u nLocalSteal)
          | none => .next s

/-- PREFETCH_CANCEL_DONE: the oldest cancelled prefetch of a core gives up its registration (R270). -/
def execPrefetchCancelDone (c : CoreId) (s : State) : Host.Outcome State Fault Refusal :=
  match s.csc.cancels.find? fun e => e.1 == c with
  | none => .next s
  | some e =>
    let s := { s with csc.cancels := s.csc.cancels.erase e }
    match e.2 with
    | none => .next s
    | some t =>
      .next (obdSweep (obdMod s t fun o => { o with readers := o.readers.filter (· ≠ c) }))

/-! ## Recall (R284 to R286) -/

/-- A core's course is to be recalled: re-queued at the head of its job's order, or not (Table 8-4). -/
def recallCore (s : State) (c : CoreId) (requeue : Bool) : State :=
  match (coreOf s c).cur with
  | none => s
  | some t =>
    if (coreOf s c).recallTo.isSome then s
    else
      let s := courseMod s t fun q =>
        { q with st := if requeue then .unassigned else .dropped, first := requeue }
      irqRaise (coreMod s c fun x => { x with recallTo := some requeue }) c 0

/-- The pre-assigned course of a core goes back to the unassigned set, or is dropped. -/
def returnPre (s : State) (c : CoreId) (drop : Bool) : State :=
  match (coreOf s c).pre with
  | none => s
  | some t => cancelPre (courseMod s t fun q => { q with st := if drop then .dropped else .unassigned }) c

/-- A course belongs to a job of this chip. -/
def workFor (s : State) (t : Option CourseTag) (job : W16) : Bool :=
  match t with
  | some q => q.job == job && q.isOwn s
  | none => false

/-- The STATUS that ends a job early, with its fault: of several the first in the order of Table 8-3, which is the
highest number (R283). -/
def Job.end_ (j : Job) (cause : BitVec 3) (fault : W32) : Job :=
  match j.stop with
  | some c => if c < cause then { j with stop := some cause, fault := fault } else j
  | none => { j with stop := some cause, fault := fault }

/-- A job ends early: no further course is dispatched, those running are recalled and not re-queued
(R77, R284, R290, R291). -/
def stopJob (s : State) (tag : W16) (cause : BitVec 3) (fault : W32) : State :=
  match jobOf s tag with
  | none => s
  | some j =>
    let s := jobMod s tag fun j => j.end_ cause fault
    let s := allCores.foldl (fun t c => if workFor t (coreOf t c).pre tag then returnPre t c true else t) s
    let s := allCores.foldl (fun t c => if workFor t (coreOf t c).cur tag then recallCore t c false else t) s
    let s := if workFor s s.ee.cur tag then
        courseMod s (s.ee.cur.getD (tagOf s j 0 0)) fun q => { q with st := .dropped }
      else s
    obdCloseDropped (jobMod s tag fun j => { j with groups := j.groups.map fun cs => cs.map fun q =>
      match q.st with
      | .unassigned => { q with st := .dropped }
      | .remote _ _ => { q with st := .dropped }
      | _ => q }) tag

/-- A discarded course closes its upper buffer and gives up its own, which no course will fill (R273, log 75). -/
def discardObds (s : State) (u : Option CoreId) (t : CourseTag) (requeue : Bool) : State :=
  let s := { s with csc.obds := s.csc.obds.filter fun o =>
    !(o.tag == t && o.st == .writing && o.producer == u) }
  if requeue ∨ t.course = 0 then s else obdClose s t.upper

/-- COURSE_RECALL: at a bundle boundary, once a running RPT has ended, the core stops, its TILE is
abandoned, its registrations are released and it is idle (R285). -/
def execCourseRecall (c : CoreId) (s : State) : Host.Outcome State Fault Refusal :=
  let x := coreOf s c
  match x.recallTo, x.cur with
  | some rq, some t =>
    if !domUp s (sparDom c) || (decide (0 < x.rptLeft) && x.state == 1) then .next s
    else
      let s := discardObds (obdRelease s c) (some c) t rq
      .next (coreMod s c fun x => { x with
        state := if x.state = 3 then 3 else 0, wait := .none, tile := TileState.zero, cur := none, done := false,
        closing := false, recallTo := none, rem := [], rptLeft := 0 })
  | _, _ => .next s

/-! ## Commit (R280 to R282) -/

/-- A course is its unit's own and runs there. -/
def ownerIs (s : State) (t : CourseTag) (u : Option CoreId) : Bool :=
  t.isOwn s && (match jobOf s t.job with
    | some j => (j.course t.group.val t.course.toNat).st == .running u
    | none => false)

/-- The course commits: its copy is queued, and the buffer it read is closed (R273, R280, R281). -/
def commitCourse (s : State) (t : CourseTag) : State :=
  let r := match jobOf s t.job with
    | some j => (j.course t.group.val t.course.toNat).region
    | none => 0
  let s := courseMod s t fun q => { q with st := .committed }
  let s := { s with csc.copies := s.csc.copies ++ [{ tag := t, region := r, sent := false }] }
  if t.course = 0 then s else obdClose s t.upper

/-- Stores of a core to other chips that are not acknowledged: DONE waits for them (R272). -/
def sparStoresOut (s : State) (c : CoreId) : Bool :=
  s.fab.remotes.any fun r =>
    match r.wait with
    | .sparStore d _ => d == c
    | _ => false

/-- DONE ends the course once every store the core has issued is complete: its registrations are released and it is
idle (R272). -/
def doneEnd (s : State) (c : CoreId) : State :=
  coreMod (obdRelease s c) c fun x => { x with state := 0, done := true, closing := false }

/-- DONE issues. -/
def doneIssue (s : State) (c : CoreId) : State :=
  if sparStoresOut s c then coreMod s c fun x => { x with closing := true } else doneEnd s c

/-- COURSE_COMMIT: the CSC accepts a DONE from the course's current owner that is neither fenced nor
recalled, and discards any other (R280). 16 is the Eaves engine. -/
def execCourseCommit (u : Fin 17) (s : State) : Host.Outcome State Fault Refusal :=
  if !cscUp s then .next s
  else if u = 16 then
    match s.ee.cur with
    | some t =>
      if s.ee.done then
        let s' := { s with ee.cur := none, ee.done := false }
        .next (if ownerIs s t none && !fencing s 0x10 then commitCourse s' t else discardObds s' none t true)
      else .next s
    | none => .next s
  else
    let c : CoreId := Fin.ofNat 16 u.val
    let x := coreOf s c
    match x.cur with
    | some t =>
      if x.done then
        let s' := coreMod s c fun x => { x with cur := none, done := false, recallTo := none }
        .next (if ownerIs s t (some c) && !unitFenced s c.val && x.recallTo.isNone then commitCourse s' t
          else discardObds s' (some c) t (x.recallTo != some false))
      else .next s
    | none => .next s

/-- One row of a staged block copied to the destination; blocks lie CH rows apart in the region (log 76). -/
def copyRow (s : State) (g : Group) (src dst : Nat) (b k r : Nat) : State :=
  let p := g.outPitch.toNat
  match seqRead s cscInit none (src + (b * g.ch.toNat + r) * p) p with
  | (.ok bs, t) => (seqWrite t cscInit none (dst + b * g.outBstr.toNat + (k * g.ch.toNat + r) * p) bs).2
  | (.error _, t) => t

/-- The commit engine's copy of a course (R281). -/
def copyCourse (s : State) (j : Job) (g : Group) (k region : Nat) : State :=
  let (_, rn) := courseRows g k
  (List.range g.outNb.toNat).foldl (fun t b =>
    (List.range rn).foldl (fun t r => copyRow t g (regionAddr s region) (courseDst j g) b k r) t) s

/-- Stores of the CSC to other chips that are not acknowledged. -/
def cscStoresOut (s : State) : Bool := s.fab.remotes.any fun r => r.wait == .unitStore cscInit

/-- COMMIT_COPY_DONE: the oldest copy completes, and its rows are visible once every initiator sees them: those for
another chip when it has acknowledged them (R281, R282). A fenced CSC copies no more (R31). -/
def execCommitCopyDone (s : State) : Host.Outcome State Fault Refusal :=
  if !cscUp s then .next s
  else
    match s.csc.copies with
    | [] => .next s
    | c :: cs =>
      let s := match tagGroup s c.tag with
        | some (j, g) => if c.sent then s else copyCourse s j g c.tag.course.toNat c.region
        | none => s
      if cscStoresOut s then .next { s with csc.copies := { c with sent := true } :: cs }
      else .next (courseMod { s with csc.copies := cs } c.tag fun q => { q with st := .visible })

/-! ## Completion (R283, R23, R80, R264) -/

/-- A plan-fault, late or other STATUS of Table 8-3. -/
def Job.status (j : Job) : Nat :=
  match j.stop with
  | some c => c.toNat
  | none => if j.expired then 1 else if j.degraded then 3 else 0

def Job.flags (j : Job) : Nat :=
  b2n j.degraded + 2 * b2n j.recomputed + 4 * b2n j.remoteRan + 8 * b2n j.unbounded

/-- The completion record (Table 8-3). -/
def completionRecord (s : State) (j : Job) : Bytes :=
  [BitVec.ofNat 8 j.status, BitVec.ofNat 8 j.flags] ++ toLE 2 j.tag.toNat
    ++ toLE 4 (if j.status = 4 then j.fault.toNat else (ntNow s.pht).toNat)

/-- A slot of a queue is complete: DONE passes it and those before it in posting order, with an MSI-X
vector on a host queue (R23, R399). -/
def completeSlot (s : State) (q : QueueId) (i : BitVec 9) : State :=
  let x := s.cleatB.get q
  let y := Queue.advanceDone 256 { x with completed := x.completed ++ [i] }
  let t := { s with cleatB := vput s.cleatB q y }
  if y.done ≠ x.done ∧ y.irqEn ∧ y.owner = 2 then msixRaise t (Fin.ofNat 32 (1 + q.val)) else t

/-- A late completion is counted for its queue, and EMCY 0xFF14 raised at most once per second (R80). -/
def countLate (s : State) (j : Job) : State :=
  if j.status = 1 ∨ j.status = 2 then
    raiseLimited { s with pht.late := vmod s.pht.late j.queue (· + 1) } 0xFF14 j.queue.val 0x82
      [BitVec.ofNat 8 j.queue.val]
  else s

/-- The job completes: record, DONE, its held slots FREE, its buffers freed. -/
def completeJob (s : State) (j : Job) : State :=
  let rec_ := completionRecord s j
  let s := s.wr (slotAddr j.queue j.idx + 56) rec_
  let s := j.held.foldl (fun t p => slotFree t p.1 p.2) s
  let s := { s with
    csc.jobs := s.csc.jobs.filter (fun k => k.tag ≠ j.tag),
    csc.obds := s.csc.obds.filter (fun o => !(o.tag.job == j.tag && o.st != .dead)),
    csc.jobsDone := vmod s.csc.jobsDone j.queue (· + 1),
    csc.lastDone := vput s.csc.lastDone j.queue (BitVec.ofNat 64 (leNat rec_)),
    mast.events := s.mast.events ||| (1#16 <<< 7) }
  countLate (completeSlot s j.queue j.idx) j

/-- A job may complete: every course visible, or it was stopped and nothing of it runs or is being copied
(R282, R283). -/
def jobDone (s : State) (j : Job) : Bool :=
  !(s.csc.copies.any fun c => c.tag.job == j.tag) &&
    (if j.stop.isSome then
      j.groups.all fun cs => cs.all fun c => c.st == .visible || c.st == .dropped
     else j.groups.all fun cs => cs.all isVisible)

/-- JOB_COMPLETE. -/
def execJobComplete (tag : W16) (s : State) : Host.Outcome State Fault Refusal :=
  match jobOf s tag with
  | none => .next s
  | some j => if cscUp s && jobDone s j then .next (completeJob s j) else .next s

/-! ## Taking jobs (R263 to R265, R75 to R78) -/

def headJob (s : State) (q : QueueId) : Option Bytes :=
  let x := s.cleatB.get q
  if x.en && decide (x.taken ≠ x.post) then some (s.rd (slotAddr q x.taken) 56) else none

/-- The deadline that the release slot's firing gave the head of a queue. -/
def headRelease (s : State) (q : QueueId) : Option Deadline :=
  let x := s.cleatB.get q
  (x.released.find? fun r => r.1 = x.taken).map fun r => r.2

/-- The oldest READY slot of a context that is in no set. -/
def oldestReady (c : Ctx) : Option Nat :=
  ((c.slots.zipIdx).filter fun p => decide (p.1.st = .ready) && p.1.group == 0).foldl (fun b p =>
    match b with
    | none => some p.2
    | some k => if p.1.order < (slotAt c k).order then some p.2 else some k) none

/-- A job that names no loaded plan or a bad input (R265). -/
def badJob (s : State) (b : Bytes) : Bool :=
  let ink := (byteAt b 4).toNat
  let src := fieldLE b 6 2
  (planOf s (Fin.ofNat 64 (byteAt b 0).toNat)).state ≠ 1 || decide (64 ≤ (byteAt b 0).toNat) || decide (2 < ink)
    || (ink == 1 && (decide (4096 ≤ src) || !(ctxOf s src).en))
    || (ink == 2 && (src == 0 || decide (64 ≤ src)))

/-- The input a job would take: slots in member order, none when it has to wait. A member context's samples come
in sets alone (R167). For an alignment group the
reference context comes first, then the others ascending. -/
def jobInput (s : State) (b : Bytes) : Option (List (Nat × Nat) × Option ASetOffered) :=
  let src := fieldLE b 6 2
  match (byteAt b 4).toNat with
  | 1 => if (ctxOf s src).agrp ≠ 0 then none else (oldestReady (ctxOf s src)).map fun k => ([(src, k)], none)
  | 2 =>
    (s.cap.offered.find? fun o => o.group == src).map fun o =>
      let r := alignRef (alignCfg s src)
      let rest := (o.members.filter fun p => p.1 ≠ r).mergeSort fun p q => decide (p.1 ≤ q.1)
      (o.members.filter (fun p => p.1 = r) ++ rest, some o)
  | _ => some ([], none)

/-- The head of a queue is eligible (R263). -/
def eligible (s : State) (q : QueueId) : Bool :=
  match headJob s q with
  | none => false
  | some b =>
    decide (s.csc.jobs.length < 16)
      && (!bitOf (byteAt b 1).toNat 1 || (headRelease s q).isSome)
      && (badJob s b || (jobInput s b).isSome)

def allQueues : List QueueId := List.ofFn fun i : Fin 8 => i

/-- The eligible head with the highest PRIO; the lowest-numbered queue among equals. -/
def pickHead (s : State) : Option QueueId :=
  (allQueues.filter (eligible s)).foldl (fun b q =>
    let pr := fun (x : QueueId) => (headJob s x).elim 0 fun j => bits (byteAt j 1).toNat 5 3
    match b with
    | none => some q
    | some r => if pr r < pr q then some q else some r) none

/-- The deadline of a job (R76): its own time, or what the firing of its release slot gave. -/
def jobDeadline (s : State) (q : QueueId) (b : Bytes) : Deadline :=
  let rd := (byteAt b 2).toNat
  match bits rd 6 2 with
  | 1 => .time (BitVec.ofNat 64 (fieldLE b 8 8))
  | 2 => (headRelease s q).getD .none
  | _ => .none

/-- A source, or NT (4), in the phase-bus record: its phase, and whether it is out of OK (R40, R79). -/
def recordPhase (s : State) (src : Fin 5) : BitVec 40 :=
  if h : src.val < 4 then s.pht.record.phases.get ⟨src.val, h⟩ else s.pht.record.nt.setWidth 40
def recordLost (s : State) (src : Fin 5) : Bool := s.pht.record.status.getLsbD src.val

/-- The deadline phase has been crossed upward by the phase-bus record (R76). -/
def recordCrossed (s : State) (src : Fin 5) (tgt : BitVec 40) : Bool :=
  decide ((recordPhase s src - tgt).toNat < 2 ^ 39)

/-- A deadline has passed by the phase-bus record (R40, R76, R79). -/
def deadlinePassed (s : State) (d : Deadline) : Bool :=
  match d with
  | .time t => decide (t ≤ s.pht.record.nt)
  | .phase src _ _ => recordLost s src
  | .lost => true
  | .none => false

/-- What a phase-bus record does to the deadline of a released job that still waits in its queue: a source out of
OK before the crossing ends it, the crossing starts DL_NS (R76, R79). -/
def deadlineSeen (s : State) (d : Deadline) : Deadline :=
  match d with
  | .phase src tgt ns =>
    if recordLost s src then .lost
    else if recordCrossed s src tgt then .time (s.pht.record.nt + ns.setWidth 64) else d
  | d => d

/-- Every released job that waits follows the record. -/
def releasedSeen (s : State) : State :=
  { s with cleatB := s.cleatB.map fun x => { x with released := x.released.map fun r => (r.1, deadlineSeen s r.2) } }

/-- The job a head becomes. -/
def newJob (s : State) (q : QueueId) (b : Bytes) (held : List (Nat × Nat)) : Job :=
  let f := (byteAt b 1).toNat
  let p : PhtSlotId := Fin.ofNat 64 (byteAt b 0).toNat
  let frame := match held with
    | (n, k) :: _ => s.rdLE ((ctxOf s n).slotAddr k + 0x20) 2
    | [] => fieldLE b 0x28 2
  { tag := s.csc.lastTag + 1, queue := q, idx := (s.cleatB.get q).taken, plan := p, drop := bitOf f 0,
    remoteOk := bitOf f 2, runaheadOff := bitOf f 3, prio := BitVec.ofNat 3 (f / 32), hrm := byteAt b 3,
    ink := byteAt b 4, src := BitVec.ofNat 16 (fieldLE b 6 2), inBase := BitVec.ofNat 64 (fieldLE b 0x10 8),
    outBase := BitVec.ofNat 64 (fieldLE b 0x18 8), arg := BitVec.ofNat 64 (fieldLE b 0x20 8),
    frame := BitVec.ofNat 16 frame, hwait := BitVec.ofNat 16 (fieldLE b 0x2A 2), held := held,
    deadline := jobDeadline s q b, expired := false, degraded := false, recomputed := false,
    remoteRan := false, unbounded := false, stop := none, fault := 0,
    groups := (planOf s p).groups.map fun g => List.replicate g.nc Course.new }

/-- The job leaves its queue: its tag is the last taken, its input slots are HELD (R264). -/
def takeHead (s : State) (q : QueueId) (j : Job) (o : Option ASetOffered) : State :=
  let x := s.cleatB.get q
  let s := { s with csc.lastTag := j.tag, csc.jobs := s.csc.jobs ++ [j], cleatB := vput s.cleatB q { x with
      taken := x.taken + 1, released := x.released.filter fun r => r.1 ≠ x.taken } }
  let s := j.held.foldl (fun t p => slotMod t p.1 p.2 fun c => { c with st := .held }) s
  match o with
  | some a => { s with cap.offered := s.cap.offered.erase a }
  | none => s

/-- A course has still to be computed here: it has not committed and no other chip owns it. -/
def Course.open_ (c : Course) : Bool :=
  match c.st with
  | .committed => false
  | .visible => false
  | .remote _ _ => false
  | _ => true

/-- A group of a kind has courses left. -/
def groupsLeft (s : State) (j : Job) (p : Group → Bool) : Bool :=
  ((planOf s j.plan).groups.zip j.groups).any fun e => p e.1 && e.2.any Course.open_

/-- A job that needs a Spar core, and one that needs the Eaves engine and has no other entry (R290, R291): courses of
that kind are left. -/
def needsSpar (s : State) (j : Job) : Bool :=
  groupsLeft s j fun g => !g.eaves || (unitFenced s 0x10 && decide (g.altEntry ≠ 0))
def needsEaves (s : State) (j : Job) : Bool := groupsLeft s j fun g => g.eaves && decide (g.altEntry = 0)

def allSparFenced (s : State) : Bool := allCores.all fun c => unitFenced s c.val

/-- A job that can no longer run ends ABORTED with DEGRADED. -/
def abortIfStuck (s : State) (j : Job) : State :=
  if (allSparFenced s && needsSpar s j) || (unitFenced s 0x10 && needsEaves s j) then
    stopJob (jobMod s j.tag fun j => { j with degraded := true }) j.tag 5 0
  else s

/-- JOB_TAKE (R263 to R265, R78). -/
def execJobTake (s : State) : Host.Outcome State Fault Refusal :=
  if !(cscUp s && s.csc.en) then .next s
  else
    match pickHead s with
    | none => .next s
    | some q =>
      match headJob s q with
      | none => .next s
      | some b =>
        if badJob s b then
          let j := { newJob s q b [] with stop := some 6, groups := [], held := [] }
          .next (completeJob (takeHead s q j none) j)
        else
          match jobInput s b with
          | none => .next s
          | some (held, o) =>
            let j := newJob s q b held
            let late := deadlinePassed s j.deadline
            if late ∧ j.drop then
              let j := { j with stop := some 2, groups := [] }
              .next (completeJob (takeHead s q j o) j)
            else
              let j := { j with expired := late, deadline := if late then .none else j.deadline }
              .next (abortIfStuck (takeHead s q j o) j)

/-! ## Deadlines (R76 to R79) -/

/-- A job's deadline expires: FINISH runs on, DROP stops (R77). -/
def expireJob (s : State) (j : Job) : State :=
  let s := jobMod s j.tag fun j => { j with expired := true, deadline := .none }
  if j.drop then stopJob s j.tag 2 0 else s

/-- A committed job that only waits for its copies met its deadline (R66, R77). -/
def allCommitted (j : Job) : Bool :=
  j.groups.all fun cs => cs.all fun c => c.st == .visible || c.st == .committed

/-- Every phase-then-time deadline whose source has left OK expires (R79). -/
def deadlineSourceLoss (s : State) : State :=
  s.csc.jobs.foldl (fun t j =>
    match j.deadline with
    | .phase src _ _ =>
      if recordLost t src && !allCommitted j then expireJob t j else t
    | _ => t) s

/-- DEADLINE_PHASE_CROSS: the source has crossed the deadline phase upward; DL_NS counts from the
record's network time (R76). -/
def execDeadlinePhaseCross (tag : W16) (s : State) : Host.Outcome State Fault Refusal :=
  match jobOf s tag with
  | some j =>
    match j.deadline with
    | .phase src tgt ns =>
      if cscUp s && recordCrossed s src tgt then
        .next (jobMod s tag fun j => { j with deadline := .time (s.pht.record.nt + ns.setWidth 64) })
      else .next s
    | _ => .next s
  | none => .next s

/-- DEADLINE_EXPIRE. -/
def execDeadlineExpire (tag : W16) (s : State) : Host.Outcome State Fault Refusal :=
  match jobOf s tag with
  | some j =>
    match j.deadline with
    | .time t =>
      if cscUp s && decide (t ≤ s.pht.record.nt) then
        .next (if allCommitted j then jobMod s tag fun j => { j with deadline := .none } else expireJob s j)
      else .next s
    | _ => .next s
  | none => .next s

/-! ## Fence-class faults (R287 to R291) -/

/-- In the cycle of a Spar core's fence-class fault: its course goes first in its job's order, its
pre-assigned course back, its WRITING buffers are DEAD, its staging regions dead, the job DEGRADED. -/
def fenceCourse (s : State) (c : CoreId) : State :=
  let x := coreOf s c
  let s := returnPre s c false
  let s := { s with csc.obds := s.csc.obds.map fun (o : Obd) =>
               if o.producer = some c ∧ o.st = ObSt.writing then { o with st := ObSt.dead } else o }
  let s := { s with csc.deadRegions := s.csc.deadRegions ++ (regionsOf (some c)).filter fun r =>
    !(s.csc.copies.any fun k => k.region == r) && !s.csc.deadRegions.contains r }
  match x.cur with
  | none => s
  | some t =>
    if ownerIs s t (some c) then
      cscStat (jobMod (courseMod s t fun q => { q with st := .unassigned, first := true }) t.job
        fun j => { j with degraded := true }) nRedispatch
    else s

/-- A plan fault's effect on the job: no further course, its others recalled, status PLAN_FAULT with the
code, core and course (R284). The core itself halts and loses its course. A course the core lost to its own
fence-class fault is another core's (R287), and a stolen one is its home's. -/
def planFaultJob (s : State) (c : CoreId) (code : W16) : State :=
  let x := coreOf s c
  match x.cur with
  | none => s
  | some t =>
    let own := ownerIs s t (some c)
    let s := discardObds (obdRelease s c) (some c) t (!own && x.recallTo != some false)
    let s := if own then courseMod s t fun q => { q with st := .dropped } else s
    let s := coreMod s c fun x => { x with cur := none, done := false, recallTo := none }
    if t.isOwn s && (own || x.recallTo.isSome) then
      stopJob s t.job 4 (BitVec.ofNat 32 (code.toNat + 2 ^ 16 * c.val + 2 ^ 20 * t.course.toNat))
    else s

/-- The Eaves engine's fence: its course is re-queued and the buffers it was to fill are DEAD (R288); a job that needs it and has no other entry is
aborted (R290). -/
def fenceEaves (s : State) : State :=
  let s := match s.ee.cur with
    | some t =>
      if ownerIs s t none then
        cscStat (jobMod (courseMod s t fun q => { q with st := .unassigned, first := true }) t.job
          fun j => { j with degraded := true }) nRedispatch
      else s
    | none => s
  let s := { s with csc.obds := s.csc.obds.map fun (o : Obd) =>
               if o.producer = none ∧ o.st = ObSt.writing then { o with st := ObSt.dead } else o }
  let s := { s with ee.cur := none, ee.offered := none, ee.running := none, ee.state := 3 }
  { s with csc.deadRegions := s.csc.deadRegions ++ (regionsOf none).filter fun r =>
      !(s.csc.copies.any fun k => k.region == r) && !s.csc.deadRegions.contains r }

/-- Jobs that can no longer run after a fence (R290, R291). -/
def abortStuck (s : State) : State := s.csc.jobs.foldl abortIfStuck s

/-! ## Remote stealing (R292 to R295) -/

/-- The chip is starved (R292). -/
def starved (s : State) : Bool :=
  (allCores.any fun c => coreFree s c && (coreOf s c).pre.isNone) && (readyList s).isEmpty
    && (stealVictim s).isNone

def peerOf (s : State) (i : Nat) : ChipId := Fin.ofNat 64 (bits s.csc.peers.toNat (6 * (i % 4)) 6)

/-- REMOTE_STEAL_REQUEST: a STEAL to the next peer; the data slot's layout is open and is a free value
(log 77). A peer that cannot be reached is passed over (log 180). -/
def execRemoteStealRequest (s : State) : Host.Outcome State Fault Refusal :=
  let n := min 4 s.csc.npeer.toNat
  if cscUp s && fabricMode s && !s.boot.dprActive && decide (s.fab.role ≠ 3) && decide (0 < n)
      && s.csc.steal.isNone && starved s then
    let p := peerOf s (s.csc.nextPeer % n)
    match remoteRequest s .steal p mkSteal 0 0 2 (toLE 16 (Config.freeOf .unspecified [20, s.csc.nextPeer])) with
    | .sent tag t => .next (cscStat { t with csc.steal := some (tag, p) } nRemoteOut)
    | .err _ => .next { s with csc.nextPeer := (s.csc.nextPeer + 1) % n }
    | .full => .next s
  else .next s

/-- A course that may be given to a thief (R293). -/
def stealable (s : State) (hashes : List (PhtSlotId × W64)) (e : Job × Nat × Nat) : Bool :=
  match planGroup s e.1 e.2.1 with
  | none => false
  | some g => e.1.remoteOk && g.remoteOk && recompOk e.1 g &&
      hashes.any fun h => h.1 == e.1.plan && h.2 == (planOf s e.1.plan).hash

/-- STEAL: the home answers with its last unassigned ready course that qualifies, or NONE, and records the
owner (R293); a fabric-orphan and a chip in a data-plane reset give none (R295, R528). -/
def execSteal (thief : ChipId) (core : Fin 16) (hashes : List (PhtSlotId × W64)) (s : State) :
    Host.Outcome State Fault Refusal :=
  let answer := fun (t : State) (k : List Nat) =>
    sendOwn t (mkMessage mkStealResp thief.val (ownChip t).val (Config.freeOf .unspecified (21 :: k)) 0 0 0 0
      (toLE 16 (Config.freeOf .unspecified (22 :: k))))
  if !fabricMode s || s.fab.role == 3 then .next s
  else if !cscUp s || s.boot.dprActive then .next (answer s [])
  else
    match ((readyList s).filter (stealable s hashes)).getLast? with
    | none => .next (answer s [])
    | some (j, g, k) =>
      let s := courseMod s (tagOf s j g k) fun q => { q with st := .remote thief core, stolen := true, first := false }
      let s := jobMod s j.tag fun j => { j with remoteRan := true }
      .next (answer (cscStat s nRemoteIn) [j.tag.toNat, g, k])

/-- What a steal answer says of the course: fields the spec gives no layout for are free functions of its
bytes (log 77). -/
def stolenField (b : Bytes) (i : Nat) : Nat := Config.freeOf .unspecified (23 :: i :: b.map fun x => x.toNat)

/-- A stolen course's tag and course registers (R294, Table 8-9): the rows follow from the group, REMOTE and NOPUB are
set; the bases and ARG come with the answer. -/
def stolenTag (peer : ChipId) (b : Bytes) : CourseTag :=
  { home := peer, job := BitVec.ofNat 16 (stolenField b 3), frame := BitVec.ofNat 16 (stolenField b 4),
    group := Fin.ofNat 64 (stolenField b 1), course := BitVec.ofNat 12 (stolenField b 2) }

def stolenCrs (gr : Group) (t : CourseTag) (b : Bytes) : Vector W64 8 :=
  let k := t.course.toNat
  let (r0, rn) := courseRows gr k
  Vector.ofFn fun i : Fin 8 =>
    match i.val with
    | 0 => BitVec.ofNat 64 (t.job.toNat + 2 ^ 16 * t.frame.toNat)
    | 1 => BitVec.ofNat 64 (k + 2 ^ 12 * t.group.val + 2 ^ 18 * b2n (k == 0) + 2 ^ 19 * b2n (k + 1 == gr.nc)
        + 2 ^ 20 + 2 ^ 21)
    | 2 => BitVec.ofNat 64 (r0 + 2 ^ 16 * rn)
    | 5 => 0
    | n => BitVec.ofNat 64 (stolenField b (8 + n))

/-- A stolen course starts on a core, or on the Eaves engine where its group says so (R267, R294). -/
def startStolen (s : State) (peer : ChipId) (b : Bytes) : Option State :=
  let p : PhtSlotId := Fin.ofNat 64 (stolenField b 0)
  let t := stolenTag peer b
  match (planOf s p).groups[t.group.val]? with
  | none => none
  | some gr =>
    let crs := stolenCrs gr t b
    match sparEntry s gr with
    | some e =>
      (allCores.filter fun c => coreFree s c && (coreOf s c).pre.isNone).findSome? fun c =>
        (if (coreOf s c).plan = some p then some s else planCoreLoad s c p).map fun s =>
          coreMod { s with csc.seq := s.csc.seq + 1, csc.nextPeer := 0 } c fun x => { x.clearRegs with
            state := 1, pc := BitVec.ofNat 32 (32 * e), crs := crs, cur := some t, started := s.csc.seq }
    | none =>
      if eeFree s then
        (offerEaves s p gr t.course.toNat (crs.get 4).toNat (crs.get 3).toNat).map fun s =>
          { s with ee.cur := some t, csc.seq := s.csc.seq + 1, csc.nextPeer := 0 }
      else none

/-- STEALRESP: the answer to the outstanding request gives an available core a course, or moves on to the
next peer (R292). -/
def execStealresp (peer : ChipId) (course : Option Bytes) (s : State) : Host.Outcome State Fault Refusal :=
  match s.csc.steal with
  | none => .next s
  | some (tag, p) =>
    if p ≠ peer ∨ cscUp s = false then .next s
    else
      let s := { s with csc.steal := none, fab.remotes := s.fab.remotes.filter fun r => r.tag ≠ tag }
      match course with
      | none => .next { s with csc.nextPeer := (s.csc.nextPeer + 1) % max 1 (min 4 s.csc.npeer.toNat) }
      | some b =>
        match startStolen s peer b with
        | some t => .next t
        | none => .next s

/-- The staged rows of a remotely run course are pulled to their destination; what the other chip holds is
a free value (R294, log 56). -/
def pullRows (s : State) (j : Job) (g : Group) (k : Nat) : State :=
  let (_, rn) := courseRows g k
  let p := g.outPitch.toNat
  (List.range g.outNb.toNat).foldl (fun t b =>
    (List.range rn).foldl (fun t r =>
      let bs := (List.range p).map fun i => BitVec.ofNat 8 (Config.freeValue .remoteByte (t.free + i))
      (seqWrite { t with free := t.free + p } cscInit none
        (courseDst j g + b * g.outBstr.toNat + (k * g.ch.toNat + r) * p) bs).2) t) s

/-- REMOTE_PULL_DONE: the course commits at its home, or is re-queued with DEGRADED (R294). -/
def execRemotePullDone (ok : Bool) (tag : W16) (group : Fin 64) (course : Nat) (s : State) :
    Host.Outcome State Fault Refusal :=
  match jobOf s tag with
  | none => .next s
  | some j =>
    match (j.course group.val course).st, planGroup s j group.val with
    | .remote _ _, some g =>
      let t := tagOf s j group.val course
      if !cscUp s then .next s
      else if ok then
        let s := pullRows s j g course
        let s := if cscStoresOut s then
            { courseMod s t (fun q => { q with st := .committed, region := 35 }) with
              csc.copies := s.csc.copies ++ [{ tag := t, region := 35, sent := true }] }
          else courseMod s t fun q => { q with st := .visible }
        .next (if course = 0 then s else obdClose s t.upper)
      else
        .next (abortStuck (jobMod (courseMod s t fun q =>
          { q with st := .unassigned, first := true, stolen := false }) tag fun j => { j with degraded := true }))
    | _, _ => .next s

/-- A chip is lost: its thefts are re-queued with DEGRADED, and courses stolen from it are recalled (R295). -/
def cscChipLost (s : State) (c : ChipId) : State :=
  let s := { s with csc.jobs := s.csc.jobs.map fun j =>
    let hit := j.groups.any fun cs => cs.any fun q => match q.st with
      | .remote d _ => d == c
      | _ => false
    { j with
      degraded := j.degraded || hit,
      groups := j.groups.map fun cs => cs.map fun q => match q.st with
        | .remote d _ => if d = c then { q with st := .unassigned, first := true, stolen := false } else q
        | _ => q } }
  let s := abortStuck s
  allCores.foldl (fun t k =>
    match (coreOf t k).cur with
    | some q => if q.home = c ∧ c ≠ ownChip t then recallCore t k false else t
    | none => t) s

/-! ## Registers (Table 8-12) -/

def cscRead (s : State) (off : Nat) : Nat :=
  match off with
  | 0x000 => b2n s.csc.en + 2 ^ 16 * s.csc.starve.toNat
  | 0x008 => s.csc.jobs.length + 32 * b2n s.csc.unbounded
  | 0x010 => bits s.csc.obPool.toNat 0 32
  | 0x014 => bits s.csc.obPool.toNat 32 16
  | 0x018 => s.csc.obSize.toNat
  | 0x020 => bits s.csc.stg.toNat 0 32
  | 0x024 => bits s.csc.stg.toNat 32 16
  | 0x028 => s.csc.stgSize.toNat
  | 0x030 => s.csc.peers.toNat + 2 ^ 24 * s.csc.npeer.toNat
  | _ =>
    if 0x1000 ≤ off ∧ off < 0x2000 then
      let p := planOf s (Fin.ofNat 64 ((off - 0x1000) / 64))
      match (off - 0x1000) % 64 with
      | 0 => bits p.image.toNat 0 32
      | 4 => bits p.image.toNat 32 16
      | 8 => 2 * p.state.toNat
      | _ => 0
    else 0

def set48 (x : BitVec 48) (hi : Bool) (v : W32) : BitVec 48 :=
  if hi then BitVec.ofNat 48 (setBits x.toNat 32 16 v.toNat) else BitVec.ofNat 48 (setBits x.toNat 0 32 v.toNat)

def cscWrite (s : State) (off : Nat) (v : W32) : State :=
  match off with
  | 0x000 => { s with csc.en := v.getLsbD 0, csc.starve := v.extractLsb' 16 16 }
  | 0x008 => { s with csc.unbounded := s.csc.unbounded && !v.getLsbD 5 }
  | 0x010 => { s with csc.obPool := set48 s.csc.obPool false v }
  | 0x014 => { s with csc.obPool := set48 s.csc.obPool true v }
  | 0x018 => { s with csc.obSize := v }
  | 0x020 => { s with csc.stg := set48 s.csc.stg false v }
  | 0x024 => { s with csc.stg := set48 s.csc.stg true v }
  | 0x028 => { s with csc.stgSize := v }
  | 0x030 => { s with csc.peers := v.extractLsb' 0 24, csc.npeer := v.extractLsb' 24 4 }
  | _ =>
    if 0x1000 ≤ off ∧ off < 0x2000 then
      let p : PhtSlotId := Fin.ofNat 64 ((off - 0x1000) / 64)
      match (off - 0x1000) % 64 with
      | 0 => if planBusy s p then s else planMod s p fun x => { x with image := set48 x.image false v }
      | 4 => if planBusy s p then s else planMod s p fun x => { x with image := set48 x.image true v }
      | 8 => planLoadWrite s p v
      | _ => s
    else s

end Sys2Proof.Machine
end

