-- ==== Sys2Proof/Machine/Fault.lean ====
section
/-!
DEFINITION. Fault reports on Cleat C and what follows them: the report FIFO, the MGC's part, the fence
sequencer, and a Spar core's plan fault (R28 to R31, R204, R205, R284, R287, R290, R531, R532).
-/

namespace Sys2Proof.Machine

/-- Sub-index of 0x2705, less 1, that counts a class (R531, Table 15-11). -/
def classIndex (cls : Byte) : Fin 6 :=
  if 1 ≤ cls.toNat ∧ cls.toNat ≤ 5 then Fin.ofNat 6 (cls.toNat - 1) else 5

def countClass (s : State) (cls : Byte) : State :=
  { s with health.reports := vmod s.health.reports (classIndex cls) (· + 1) }

/-- Bytes of a report's DETAIL. -/
def detailBytes (d : W64) (n : Nat) : Bytes := toLE n d.toNat

/-! ## Two-wire port conditions (R455, R458 to R460, R463) -/

def twMod (s : State) (n : TwId) (f : TwPort → TwPort) : State := { s with tw := vmod s.tw n f }

/-- Byte 3 of a port's EMCYs. -/
def twUnit (n : TwId) : Byte := if n.val < 2 then 0x80 else BitVec.ofNat 8 (0x12 + n.val)

/-- The MGC learns of a port condition by its CODE: 0x2500 and the EMCY follow. -/
def twCondition (s : State) (n : TwId) (code : Nat) : State :=
  let set := fun (f : Nat → Nat) => twMod s n fun p => { p with cond := BitVec.ofNat 8 (f p.cond.toNat) }
  match code with
  | 1 => raiseStanding (set fun c => setBits c 0 3 3) 0xFF80 (twUnit n) n.val [BitVec.ofNat 8 n.val, 1]
  | 2 => raiseStanding (set fun c => setBits c 0 3 5) 0xFF80 (twUnit n) n.val [BitVec.ofNat 8 n.val, 2]
  | 3 => raiseLimited s 0xFF81 n.val (twUnit n) [BitVec.ofNat 8 n.val]
  | 4 => raiseStanding (set fun c => setBits c 3 1 1) 0xFF82 (twUnit n) n.val [BitVec.ofNat 8 n.val]
  | 5 => clearStanding (set fun c => setBits c 3 1 0) 0xFF82 n.val
  | _ => s

/-! ## Reports -/

/-- The MGC takes a report: it counts its class and raises the EMCY of the fault (R284, R327, R388, R393,
R531). Fences raise theirs when they take effect (R289, R532). -/
def mgcReport (s : State) (unit cls : Byte) (code : W16) (detail : W64) : State :=
  let s := countClass s cls
  match cls.toNat with
  | 1 =>
    if unit = 0x1A then raiseEmcy s 0xFF26 0x1A (toLE 4 (detail.toNat / 64))
    else if unit = 0x1B then raiseEmcy s 0xFF25 0x1B (toLE 4 (detail.toNat / 64))
    else if 0x20 ≤ unit.toNat ∧ unit.toNat ≤ 0x27 then portGoDown s (Fin.ofNat 8 (unit.toNat - 0x20))
    else s
  | 2 => raiseEmcy s 0xFF22 unit (toLE 2 code.toNat)
  | 3 => raiseEmcy s 0xFF50 0x18 [BitVec.ofNat 8 code.toNat]
  | 5 => if 0x14 ≤ unit.toNat ∧ unit.toNat ≤ 0x17 then twCondition s (Fin.ofNat 6 (unit.toNat - 0x12)) code.toNat else s
  | _ => s

/-- A unit can be fenced: units 0x00 to 0x19 (Table 15-6). -/
def fenceable (unit : Nat) : Bool := decide (unit ≤ 0x19)

/-- A unit's fence-class fault: the fence sequencer asserts its line without firmware (R30), and the CSC
takes its course away in the same cycle (R287, R290). During a data-plane reset no fence is taken (R525). -/
def fenceFault (s : State) (unit : Nat) (code : W16) : State :=
  if !fenceable unit || s.boot.dprActive || s.cleatC.lines.getLsbD unit then s
  else
    let s := fenceLine { s with cleatC.codes := Tbl.write (fun _ => 0) s.cleatC.codes unit code } unit
    if unit < 16 then fenceCourse (coreMod s (Fin.ofNat 16 unit) fun x => { x with fcode := code }) (Fin.ofNat 16 unit)
    else if unit = 0x10 then fenceEaves { s with ee.fcode := code }
    else s

/-- Uncorrectable errors of DRAM and Loft count in 0x2620 and 0x2621 (R389, R393). -/
def eccCount (s : State) (unit cls : Byte) (detail : W64) : State :=
  if cls ≠ 1 then s
  else if unit = 0x1B then
    { s with ddr.uncorrectable := s.ddr.uncorrectable + 1, ddr.lastBad := detail }
  else if unit = 0x1A then { s with ddr.loftUncorrectable := s.ddr.loftUncorrectable + 1 }
  else s

/-- A report is stored and taken by the MGC, or lost when the FIFO is full (R29); fencing does not depend
on it. -/
def reportFault (s : State) (unit cls : Byte) (code : W16) (detail : W64) : State :=
  let r : Report := { unit := unit, cls := cls, code := code, detail := detail,
                      nt := (ntNow s.pht).setWidth 32 }
  let room := decide (s.cleatC.fifo.length < 32)
  let s := cleatCPut (eccCount s unit cls detail) r
  let s := if room then mgcReport s unit cls code detail else s
  if cls = 1 then fenceFault s unit.toNat code else s

/-- A plan fault: issue halts at the faulting bundle, the core reports it and signals the CSC, which will
reinitialise the core before its next course (R204, R284). -/
def planFault (s : State) (c : CoreId) (code : W16) (detail : Nat) : State :=
  let s := coreMod s c fun x => { x with
    state := 2, fcode := code, reinit := true, wait := .none, closing := false, rem := [], rptLeft := 0,
    tile := { x.tile with active := false } }
  planFaultJob (reportFault s (BitVec.ofNat 8 c.val) 2 code (BitVec.ofNat 64 detail)) c code

/-- CODEs of Table 5-10. -/
def fcTcm : W16 := 0x0001
def fcMac : W16 := 0x0002
def fcWdt : W16 := 0x0003
def fcIllegal : W16 := 0x0101
def fcFetch : W16 := 0x0102
def fcRptLong : W16 := 0x0103
def fcAlign : W16 := 0x0104
def fcBusErr : W16 := 0x0105
def fcTileBusy : W16 := 0x0106
def fcTrap : W16 := 0x0107

/-- SPAR_WATCHDOG: a running core that issues nothing and does not wait hangs (R203, R205). -/
def execSparWatchdog (c : CoreId) (s : State) : Host.Outcome State Fault Refusal :=
  if sparRuns s c && !(coreOf s c).waiting then
    .next (reportFault s (BitVec.ofNat 8 c.val) 1 fcWdt 0)
  else .next s

/-- TCM_ERROR (R205): a corrected error is counted, the others are reported and fenced. -/
def execTcmError (c : CoreId) (e : TcmErr) (s : State) : Host.Outcome State Fault Refusal :=
  if !sparUp s c then .next s
  else
    match e with
    | .corrected => .next (coreMod s c fun x => x.bump cEcc 1)
    | .uncorrectable o => .next (reportFault s (BitVec.ofNat 8 c.val) 1 fcTcm (BitVec.ofNat 64 o))
    | .macParity => .next (reportFault s (BitVec.ofNat 8 c.val) 1 fcMac 0)

end Sys2Proof.Machine
end

