-- ==== Sys2Proof/Machine/Route.lean ====
section
/-!
DEFINITION. Management records, and the way an answer of the dictionary takes back to whoever asked: a session,
or a session of the head behind an envelope (R128, R129, R423).
-/

namespace Sys2Proof.Machine

/-- A management record goes to a chip; its layout is open (log 98). -/
def sendMgmt (s : State) (kind : Nat) (args : List Nat) (dst : ChipId) : State :=
  if dst = ownChip s then s
  else sendOwn s (mkMessage mkMgmt dst.val (ownChip s).val 0 0 0 0 0
    (toLE 64 (Config.freeOf .unspecified (0x4D :: kind :: args))))

/-- Records by kind. -/
def mgHeartbeat : Nat := 1
def mgLost : Nat := 2
def mgJoin : Nat := 3
def mgNmt : Nat := 4
def mgEnvelope : Nat := 5
def mgMembers : Nat := 6
def mgHello : Nat := 7
def mgAnswer : Nat := 8

/-! ## HELLO (R420) -/

/-- The agent, in PD15, runs on a device in fabric mode. -/
def fabUp (s : State) : Bool := mgcUp s && fabricMode s && domRuns s 15

/-- The chip's own HELLO: healthy when DRAM training has completed and no fence-class fault stands (R420). -/
def ownHello (s : State) : HelloRec :=
  { chip := ownChip s, serial := BitVec.ofNat 80 (fieldLE s.cleatD.snapshot 0x08 10),
    healthy := s.ddr.ready && decide (s.cleatC.lines = 0) }

/-- A HELLO record goes out over a trained link to another chip. -/
def sayHello (r : HelloRec) (s : State) (p : ShlId) : State :=
  match (s.shl.get p).partner with
  | some q =>
    if effPort s p == .active && !q.attach then
      enqueue s none p (mkMessage mkMgmt q.chip.val (ownChip s).val 0 0 0 0 0
        (toLE 64 (Config.freeOf .unspecified [0x4D, mgHello, r.chip.val, r.serial.toNat, b2n r.healthy])))
    else s
  | none => s

/-- A record is flooded over every such link. -/
def flood (s : State) (r : HelloRec) : State := (List.ofFn fun p : Fin 8 => p).foldl (sayHello r) s

/-- The agent's own record goes out (log 184). -/
def floodOwn (s : State) : State :=
  if fabUp s && decide (s.fab.role ≠ 3) then flood s (ownHello s) else s


/-! ## Answers -/

/-- A session's routed access ends with its answer, which completes the write of 0x2680; what a read envelope
read is held for the session (R128). -/
def routeAnswer (s : State) (w : Session) (a : Answer) : State :=
  match s.node.routed.find? fun r => r.1 == w with
  | none => s
  | some r =>
    let s := { s with node.routed := s.node.routed.erase r }
    match a with
    | .data d =>
      let s := if r.2.2 then { s with node.held := (s.node.held.filter fun h => h.1 != w) ++ [(w, r.2.1, d)] } else s
      answerSess s w 0x2680 (r.2.1.val + 1) (.data [])
    | .abort k => answerSess s w 0x2680 (r.2.1.val + 1) (.abort k)

/-- Routed accesses to chips for which p holds end with an abort code. -/
def routeAbort (s : State) (p : ChipId → Bool) (code : Nat) : State :=
  (s.node.routed.filter fun r => p r.2.1).foldl (fun t r => routeAnswer t r.1 (.abort code)) s

/-- The numbers an answer's record is made of (log 98). -/
def answerArgs : Answer → List Nat
  | .data d => 0 :: d.map fun x => x.toNat
  | .abort c => [1, c]

/-- The answer of an access goes to the one who asked. -/
def answerOrigin (s : State) (o : Origin) (index sub : Nat) (a : Answer) : State :=
  match o with
  | .sess w => answerSess s w index sub a
  | .chip c => sendMgmt s mgAnswer (answerArgs a) c
  | .own w => routeAnswer s w a
  | .gone => s

end Sys2Proof.Machine
end

