-- ==== Sys2Proof/Machine/TwoWire.lean ====
section
/-!
DEFINITION. The two-wire ports: controller transfers, arbitration, target window, wake, timeouts, recovery,
FAULT, and polls for stream contexts (R431 to R463, R154).
-/

namespace Sys2Proof.Machine

/-! ## Fields -/

def TwPort.en (p : TwPort) : Bool := p.cfg.getLsbD 0
def TwPort.ctl (p : TwPort) : Bool := p.cfg.getLsbD 1
def TwPort.tgt (p : TwPort) : Bool := p.cfg.getLsbD 2
def TwPort.retry (p : TwPort) : Nat := bits p.cfg.toNat 9 3
def TwPort.nakRetry (p : TwPort) : Nat := bits p.cfg.toNat 12 3
def TwPort.sleepBit (p : TwPort) : Bool := p.cfg.getLsbD 15

def twPort (s : State) (n : TwId) : TwPort := s.tw.get n

/-- The port is powered and clocked: TW0 and TW1 with the MGC, TW2 to TW5 with PD9, unfenced. -/
def twUp (s : State) (n : TwId) : Bool :=
  if n.val < 2 then mgcUp s else domRuns s 9 && !unitFenced s (0x12 + n.val)

def satInc16 (x : W16) : W16 := BitVec.ofNat 16 (min 0xFFFF (x.toNat + 1))

def TwPort.count (p : TwPort) (i : Fin 6) : TwPort := { p with stats := vmod p.stats i (· + 1) }

/-- A port condition reaches the MGC: at once for TW0 and TW1, as a Cleat C report for TW2 to TW5 (R463). -/
def twReport (s : State) (n : TwId) (code : Nat) : State :=
  if n.val < 2 then twCondition s n code
  else reportFault s (twUnit n) 5 (BitVec.ofNat 16 code) 0

/-! ## The end of transfers (R437 to R439) -/

/-- RESULT values (Table 12-6). -/
def trOk : Nat := 0
def trNackAddr : Nat := 1
def trNackData : Nat := 2
def trArbLost : Nat := 3
def trTimeout : Nat := 4
def trFault : Nat := 5
def trAborted : Nat := 6

/-- A transfer ends with its RESULT, its received bytes in the receive buffer: the registers of TWn_CMD, the
answer of 0x2505, or the poll of a context. -/
def xferEnd (s : State) (n : TwId) (x : TwXfer) (stamp : Bytes) (result bytes attempts : Nat) (rd : Bytes) : State :=
  let s := twMod s n fun p => ({ p with
    result := BitVec.ofNat 4 result, bytes := BitVec.ofNat 8 bytes, attempts := BitVec.ofNat 4 attempts,
    rxbuf := overwrite p.rxbuf 0 (rd.take 64) } : TwPort).count 0
  match x.origin with
  | .cmd => twMod s n fun p => { p with cmdBusy := false, done := true }
  | .obj o =>
    answerOrigin (twMod s n fun p => { p with
      objRes := toLE 1 result ++ toLE 1 bytes ++ toLE 1 attempts ++ [0] ++ rd }) o 0x2505 (n.val + 1) (.data [])
  | .ctx c => twMod s n fun p => { p with polled := p.polled ++ [(c, stamp, if result = 0 then some rd else none)] }

/-- The transfer in progress ends. -/
def curEnd (s : State) (n : TwId) (result bytes : Nat) (rd : Bytes) : State :=
  match (twPort s n).cur with
  | none => s
  | some c => xferEnd (twMod s n fun p => { p with cur := none }) n c.x c.stamp result bytes c.attempts rd

/-- Data bytes among the first k bytes of a transfer on the bus: its address bytes do not count (log 148). -/
def dataAmong (x : TwXfer) (k : Nat) : Nat :=
  let w := x.wdata.length
  min (w + x.rlen) (if x.wdata.isEmpty ∨ k ≤ w + 1 then k - 1 else k - 2)

/-- Received bytes whose values no command brings. -/
def openBytes (s : State) (k : Nat) : Bytes :=
  (List.range k).map fun i => BitVec.ofNat 8 (Config.freeOf .unspecified [0x7B, s.free, i])

/-- The transfer in progress is cut short: how many bytes had been acknowledged or received, and what those
received are, is free (R439, log 148). -/
def curCut (s : State) (n : TwId) (result : Nat) : State :=
  match (twPort s n).cur with
  | none => s
  | some c =>
    let k := drawn s .unspecified % (c.x.wdata.length + c.x.rlen + 1)
    curEnd (afterDraw s) n result k (openBytes s (k - c.x.wdata.length))

/-- Bytes that a transfer puts on the bus from START on (R437). -/
def xferBytes (x : TwXfer) : Bytes :=
  let w := BitVec.ofNat 8 (2 * x.addr.toNat)
  if x.wdata.isEmpty ∧ x.rlen ≠ 0 then [w + 1] else [w] ++ x.wdata ++ (if x.rlen = 0 then [] else [w + 1])

/-- A START goes out: one more attempt. -/
def xferStart (s : State) (n : TwId) (c : TwCur) : State :=
  emit (twMod s n fun p => { p with
    busy := true, cur := some { c with attempts := c.attempts + 1, waiting := false, stamp := stampNow s } })
    (.tw n (xferBytes c.x))

/-- A request is due; in FAULT it ends at once (R438, R458). -/
def xferDue (s : State) (n : TwId) (x : TwXfer) : State :=
  if (twPort s n).fault then xferEnd s n x [] trFault 0 0 []
  else twMod s n fun p => { p with queue := p.queue ++ [x] }

/-! ## Requests (R437, R438, R154) -/

/-- A write of TWn_CMD. -/
def twCmdWrite (s : State) (n : TwId) (v : W32) : State :=
  let p := twPort s n
  let go := v.getLsbD 7
  if go && p.cmdBusy then s
  else
    let s := twMod s n fun p => { p with
      cmdAddr := v.extractLsb' 0 7, wlen := v.extractLsb' 8 8, rlen := v.extractLsb' 16 8 }
    if go then
      let x : TwXfer := { origin := .cmd, addr := v.extractLsb' 0 7,
                          wdata := slice p.txbuf 0 (min 64 (bits v.toNat 8 8)), rlen := min 64 (bits v.toNat 16 8) }
      xferDue (twMod s n fun p => { p with cmdBusy := true, asleep := false, gateAt := none }) n x
    else s

/-- TW_COMMAND. -/
def execTwCommand (n : TwId) (v : W32) (s : State) : Host.Outcome State Fault Refusal :=
  if twUp s n then .next (twCmdWrite s n v) else .next s

/-- A write of 0x2505: ADDR, WLEN, RLEN, 0, data (Table 12-7): an abort code, or 0 for a transfer that answers
when it ends. -/
def twObjectWrite (o : Origin) (n : CanPort) (data : Bytes) (s : State) : Nat × State :=
  let t : TwId := Fin.ofNat 6 n.val
  let wl := (byteAt data 1).toNat
  let rl := (byteAt data 2).toNat
  if data.length < 4 ∨ 68 < data.length ∨ data.length ≠ 4 + wl then (abLength, s)
  else if 64 < wl ∨ 64 < rl ∨ 127 < (byteAt data 0).toNat then (abRange, s)
  else
    (0, xferDue (twMod s t fun p => { p with asleep := false, gateAt := none }) t
      { origin := .obj o, addr := (byteAt data 0).setWidth 7, wdata := data.drop 4, rlen := rl })

/-- TW_TRANSFER_OBJECT. -/
def execTwTransferObject (w : Session) (n : CanPort) (data : Bytes) (s : State) :
    Host.Outcome State Fault Refusal :=
  openAccess s w 0x2505 (n.val + 1) fun s =>
    if isService s.node w then
      let (c, t) := twObjectWrite (.sess w) n data s
      if c = 0 then t else answerSess t w 0x2505 (n.val + 1) (.abort c)
    else answerSess s w 0x2505 (n.val + 1) (.abort abRank)

/-- A poll of a two-wire context is asked for: the register byte is written, then LEN bytes are read (R154). -/
def twPoll (s : State) (ctx : Nat) : State :=
  let c := ctxOf s ctx
  match ctxTw c with
  | none => s
  | some n =>
    if !(capUp s && c.en && c.kind == 4 && twUp s n && !c.twDue) then s
    else
      let m := c.match1.toNat
      xferDue (ctxPut s ctx { c with twDue := true }) n
        { origin := .ctx ctx, addr := BitVec.ofNat 7 (bits m 0 7),
          wdata := [BitVec.ofNat 8 (bits m 8 8)], rlen := bits m 16 8 + 1 }

/-- MATCH2.SLOT_TRIG and the PHT slot of a two-wire context (Table 4-3). -/
def Ctx.slotTrig (c : Ctx) : Bool := c.match2.getLsbD 30
def Ctx.trigSlot (c : Ctx) : Nat := bits c.match2.toNat 24 6

/-- TW_POLL_DUE: PERIOD has elapsed; a context with SLOT_TRIG = 1 polls on its slot's firings instead. -/
def execTwPollDue (ctx : BitVec 12) (s : State) : Host.Outcome State Fault Refusal :=
  .next (if (ctxOf s ctx.toNat).slotTrig then s else twPoll s ctx.toNat)

/-- A slot's firing polls every context that it triggers (R154). -/
def twSlotPolls (s : State) (slot : Nat) : State :=
  (s.cap.ctxs.filter fun e => e.2.kind == 4 && e.2.slotTrig && e.2.trigSlot == slot).foldl (fun t e => twPoll t e.1) s

/-- TW_POLL_DONE: a completed poll is a sample, stamped at its START; a failed one yields none. -/
def execTwPollDone (ctx : BitVec 12) (s : State) : Host.Outcome State Fault Refusal :=
  let c := ctxOf s ctx.toNat
  match ctxTw c with
  | none => .next s
  | some n =>
    match (twPort s n).polled.find? fun e => e.1 == ctx.toNat with
    | none => .next s
    | some e =>
      let s := ctxPut (twMod s n fun p => { p with polled := p.polled.erase e }) ctx.toNat { c with twDue := false }
      if !(capUp s && c.en) then .next s
      else
        match e.2.2 with
        | none => .next s
        | some d =>
          match tryAdmit s ctx.toNat e.2.1 none false with
          | (none, t) => .next t
          | (some k, t) =>
            let t := slotStore t ctx.toNat k 128 d
            let t := slotStore t ctx.toNat k 0x30 (toLE 4 d.length)
            .next (slotReady t ctx.toNat k)

/-! ## Controller engine (R437 to R442) -/

/-- TW_TRANSFER_START: the oldest due transfer, when the bus is free. -/
def execTwTransferStart (n : TwId) (s : State) : Host.Outcome State Fault Refusal :=
  let p := twPort s n
  if !(twUp s n && p.en && p.ctl && !p.fault && !p.busy && !p.asleep && p.cur.isNone && p.target.isNone) then .next s
  else
    match p.queue with
    | [] => .next s
    | x :: q =>
      .next (xferStart (twMod s n fun p => { p with queue := q }) n
        { x := x, attempts := 0, nacks := 0, losses := 0, waiting := false, stamp := [] })

/-- TW_TRANSFER_END (R439): STOP and a RESULT; a NACKed address is tried again up to NAKRTY times. -/
def execTwTransferEnd (n : TwId) (e : TwEnd) (s : State) : Host.Outcome State Fault Refusal :=
  let p := twPort s n
  match p.cur with
  | none => .next s
  | some c =>
    if !twUp s n || c.waiting then .next s
    else
      match e with
      | .acked rd =>
        let rd := padTo c.x.rlen rd
        .next (curEnd s n trOk (c.x.wdata.length + c.x.rlen) rd)
      | .nackData k =>
        .next (curEnd (twMod s n fun p => ({ p with nackCnt := satInc16 p.nackCnt } : TwPort).count 1) n trNackData
          (min k c.x.wdata.length) [])
      | .nackAddr second =>
        let s := twMod s n fun p => ({ p with nackCnt := satInc16 p.nackCnt } : TwPort).count 1
        if c.nacks < p.nakRetry then .next (xferStart s n { c with nacks := c.nacks + 1 })
        else .next (curEnd s n trNackAddr (if second then c.x.wdata.length else 0) [])

/-- TADDR is an address the target engine answers (R433). -/
def TwPort.targetOn (p : TwPort) : Bool :=
  p.en && p.tgt && !p.fault && decide (8 ≤ p.taddr.toNat) && decide (p.taddr.toNat ≤ 0x77)

/-- An address byte names this port. -/
def TwPort.named (p : TwPort) (addrByte : Byte) : Bool := addrByte.toNat / 2 == p.taddr.toNat

/-- The port acknowledges its address and serves the transfer as target. -/
def targetBegin (s : State) (n : TwId) (addrByte : Byte) : State :=
  twMod s n fun p => { p with busy := true, target := some { read := addrByte.getLsbD 0, first := true, firstPtr := p.ptr, lastPtr := p.ptr, count := 0 } }

/-- TW_ARB_LOST (R440 to R442). -/
def execTwArbLost (n : TwId) (byte bit : Nat) (addrByte : Byte) (s : State) : Host.Outcome State Fault Refusal :=
  let p := twPort s n
  match p.cur with
  | none => .next s
  | some c =>
    if !twUp s n || c.waiting then .next s
    else
      let s := twMod s n fun p => ({ p with
        arbLost := true, arbByte := BitVec.ofNat 8 byte, arbBit := BitVec.ofNat 4 bit,
        arbAttempt := BitVec.ofNat 4 c.attempts, arbCount := p.arbCount + 1, busy := true } : TwPort).count 2
      let inAddr := decide (byte = 0) || (decide (byte = 1 + c.x.wdata.length) && decide (c.x.wdata ≠ []))
      if inAddr && p.targetOn && p.named addrByte then
        .next (emit (targetBegin (twMod s n fun p => { p with cur := some { c with waiting := true } }) n addrByte)
          (.tw n []))
      else if p.retry ≤ c.losses then
        let k := dataAmong c.x (byte + if bit = 8 then 1 else 0)
        .next (curEnd s n trArbLost k (openBytes s (k - c.x.wdata.length)))
      else .next (twMod s n fun p => { p with cur := some { c with waiting := true, losses := c.losses + 1 } })

/-- TW_ARB_RETRY (R441, R442). -/
def execTwArbRetry (n : TwId) (s : State) : Host.Outcome State Fault Refusal :=
  let p := twPort s n
  match p.cur with
  | some c => if twUp s n && c.waiting && !p.busy && p.target.isNone then .next (xferStart s n c) else .next s
  | none => .next s

/-! ## Target engine (R443 to R447) -/

/-- TW_TARGET_ADDRESS. -/
def execTwTargetAddress (n : TwId) (addrByte : Byte) (s : State) : Host.Outcome State Fault Refusal :=
  let p := twPort s n
  if !twUp s n || p.asleep then .next s
  else if p.targetOn && p.named addrByte && (match p.cur with
      | some c => c.waiting
      | none => true) then .next (emit (targetBegin s n addrByte) (.tw n []))
  else .next (twMod s n fun p => { p with busy := true })

def lineProtected (p : TwPort) (a : Byte) : Bool := p.wprot.getLsbD (a.toNat / 16)

/-- TW_TARGET_WRITE_BYTE (R443). -/
def execTwTargetWriteByte (n : TwId) (b : Byte) (s : State) : Host.Outcome State Fault Refusal :=
  let p := twPort s n
  match p.target with
  | some t =>
    if !twUp s n || t.read then .next s
    else if t.first then
      .next (emit (twMod s n fun p => { p with
        ptr := b, target := some { t with first := false, firstPtr := b, lastPtr := b } }) (.tw n []))
    else
      let prot := lineProtected p p.ptr
      .next (emit (twMod s n fun p => { p with
        win := if prot then p.win else overwrite p.win p.ptr.toNat [b], ptr := p.ptr + 1,
        target := some { t with lastPtr := p.ptr, count := if prot then t.count else t.count + 1 } }) (.tw n []))
  | none => .next s

/-- TW_TARGET_READ_BYTE (R444). -/
def execTwTargetReadByte (n : TwId) (ack : Bool) (s : State) : Host.Outcome State Fault Refusal :=
  let p := twPort s n
  match p.target with
  | some t =>
    if !twUp s n || !t.read || !t.first then .next s
    else
      .next (emit (twMod s n fun p => { p with
        ptr := p.ptr + 1, target := some { t with first := ack } }) (.tw n [byteAt p.win p.ptr.toNat]))
  | none => .next s

/-- Deferred internal writes are applied, in order (R445). -/
def applyDeferred (p : TwPort) : TwPort :=
  { p with win := p.deferred.foldl (fun w d => overwrite w d.1.toNat d.2) p.win, deferred := [] }

/-- TW_STOP (R445, R446). -/
def execTwStop (n : TwId) (restart : Bool) (s : State) : Host.Outcome State Fault Refusal :=
  let p := twPort s n
  match p.target with
  | some t =>
    if !twUp s n then .next s
    else if t.read then .next (twMod s n fun p => { applyDeferred p with target := none, busy := p.busy || restart })
    else
      .next (twMod s n fun p => { p with
        target := none, winFirst := t.firstPtr, winLast := t.lastPtr, winCount := t.count, winWr := true,
        busy := p.busy || restart })
  | none => .next s

/-- A window write by firmware: it waits while an external read is in progress (R445). -/
def windowWrite (s : State) (n : TwId) (off : Byte) (data : Bytes) : State :=
  let p := twPort s n
  let reading := match p.target with
    | some t => t.read
    | none => false
  if !reading then twMod s n fun p => { p with win := overwrite p.win off.toNat data }
  else if p.deferred.length < 8 then twMod s n fun p => { p with deferred := p.deferred ++ [(off, data)] }
  else twMod s n fun p => { p with win := overwrite p.win off.toNat data, torn := true }

/-- TW_WINDOW_INTERNAL_WRITE. -/
def execTwWindowInternalWrite (n : TwId) (offset : Byte) (data : Bytes) (s : State) :
    Host.Outcome State Fault Refusal :=
  if twUp s n then .next (windowWrite s n offset data) else .next s

/-! ## Bus state, enabling, wake (R433 to R435, R448 to R450) -/

/-- A port of TW2 to TW5 with SLEEP = 1 sleeps from a bus-free moment with nothing due on (R449). -/
def sleepNow (n : TwId) (p : TwPort) : TwPort :=
  { p with asleep := p.asleep
      || (decide (2 ≤ n.val) && p.sleepBit && p.en && !p.fault && !p.busy && p.queue.isEmpty && p.cur.isNone) }

/-- TW_BUS_FREE: tBUF after the STOP, or 50 µs with both lines high. MODE, GF and TWn_TIM take effect; a
port with SLEEP = 1 and no request due goes to sleep. -/
def execTwBusFree (n : TwId) (s : State) : Host.Outcome State Fault Refusal :=
  let p := twPort s n
  let inUse := p.target.isSome || (match p.cur with
    | some c => !c.waiting
    | none => false)
  if !twUp s n || inUse then .next s
  else
    .next (twMod s n fun p => sleepNow n { p with
      busy := false, sclLow := false, modeNow := BitVec.ofNat 2 (bits p.cfg.toNat 3 2),
      gfNow := BitVec.ofNat 4 (bits p.cfg.toNat 5 4), timNow := p.tim })

/-- A write of TWn_CFG (R434, R435). -/
def twCfgWrite (s : State) (n : TwId) (v : W32) : State :=
  let p := twPort s n
  if p.fault && v.getLsbD 0 then s
  else if v.getLsbD 0 then
    twMod s n fun p => sleepNow n { p with
      cfg := v.extractLsb' 0 24, busy := p.busy || !p.en, asleep := p.asleep && v.getLsbD 15 }
  else
    twMod (curCut s n trAborted) n fun p => { applyDeferred p with
      cfg := v.extractLsb' 0 24, target := none, asleep := false, gateAt := none }

/-- TW_ENABLE_WRITE. -/
def execTwEnableWrite (n : TwId) (v : W32) (s : State) : Host.Outcome State Fault Refusal :=
  if twUp s n then .next (twCfgWrite s n v) else .next s

/-- TW_DOZE (R448): 1 ms free with no request due. -/
def execTwDoze (n : CanPort) (s : State) : Host.Outcome State Fault Refusal :=
  let t : TwId := Fin.ofNat 6 n.val
  let p := twPort s t
  if mgcUp s && p.en && p.sleepBit && !p.busy && p.queue.isEmpty && p.cur.isNone then
    .next (twMod s t fun p => { p with asleep := true, gateAt := some s.pht.cycles })
  else .next s

/-- TW_DOZE_WAKE (R448): a matching address is acknowledged and served. -/
def execTwDozeWake (n : CanPort) (addrByte : Byte) (s : State) : Host.Outcome State Fault Refusal :=
  let t : TwId := Fin.ofNat 6 n.val
  let p := twPort s t
  if !(mgcUp s && p.asleep) then .next s
  else if p.targetOn && p.named addrByte then
    .next (emit (targetBegin (twMod s t fun p => ({ p with
      asleep := false, gateAt := none, wake := true, wakeCnt := satInc16 p.wakeCnt } : TwPort).count 5) t addrByte) (.tw t []))
  else .next (twMod s t fun p => { p with busy := true, gateAt := none })

/-- TW_SLEEP (R449): SLEEP = 1; the clock stops at the next bus-free moment. -/
def execTwSleep (n : TwId) (s : State) : Host.Outcome State Fault Refusal :=
  if twUp s n && decide (2 ≤ n.val) then
    .next (twMod s n fun p => sleepNow n { p with cfg := p.cfg ||| 0x8000 })
  else .next s

/-- TW_SLEEP_WAKE (R449): a matching address is not acknowledged; the port wakes. -/
def execTwSleepWake (n : TwId) (addrByte : Byte) (s : State) : Host.Outcome State Fault Refusal :=
  let p := twPort s n
  if twUp s n && decide (2 ≤ n.val) && p.asleep && p.named addrByte then
    .next (twMod s n fun p => ({ p with
      asleep := false, cfg := p.cfg &&& ~~~0x8000, wake := true, busy := true, wakeCnt := satInc16 p.wakeCnt } : TwPort).count 5)
  else .next s

/-- TW_START_DETECTED: the bus is busy; a doze that is gating the clock in this cycle is cancelled (R435,
R448). -/
def execTwStartDetected (n : TwId) (s : State) : Host.Outcome State Fault Refusal :=
  let p := twPort s n
  if !twUp s n then .next s
  else
    let gating := decide (n.val < 2) && p.gateAt == some s.pht.cycles
    .next (twMod s n fun p => { p with busy := true, asleep := p.asleep && !gating, gateAt := none })

/-! ## Timeouts, recovery, FAULT (R455 to R460) -/

/-- The port is enabled, not in FAULT and clocked, so that its timers run (R436, R448, R449). -/
def twTimers (s : State) (n : TwId) : Bool :=
  let p := twPort s n
  twUp s n && p.en && !p.fault && !p.asleep

/-- TW_BUS_TIMEOUT. -/
def execTwBusTimeout (n : TwId) (s : State) : Host.Outcome State Fault Refusal :=
  let p := twPort s n
  if !twTimers s n then .next s
  else
    let live := match p.cur with
      | some c => !c.waiting
      | none => false
    let s := if live then curCut s n trTimeout else s
    let s := twMod s n fun p => ({ applyDeferred p with
      target := none, timeout := true, sclLow := true, timeoutCnt := satInc16 p.timeoutCnt } : TwPort).count 3
    .next (twReport s n 3)

/-- Every stream context on a port is SOURCE_LOST without an EMCY of its own (R154, R458). -/
def twContextsLost (s : State) (n : TwId) : State :=
  { s with cap.ctxs := s.cap.ctxs.map fun e => if e.2.en && ctxTw e.2 == some n then (e.1, { e.2 with st := 3 }) else e }

/-- A port enters FAULT (R458). -/
def twFault (s : State) (n : TwId) (cause : Nat) : State :=
  let s := twMod s n fun p => { applyDeferred p with
    fault := true, fcause := BitVec.ofNat 2 cause, target := none, asleep := false }
  let s := curCut s n trFault
  let q := (twPort s n).queue
  let s := q.foldl (fun t x => xferEnd t n x [] trFault 0 0 []) (twMod s n fun p => { p with queue := [] })
  twReport (twContextsLost s n) n cause

/-- TW_SCL_FAULT (R456). -/
def execTwSclFault (n : TwId) (s : State) : Host.Outcome State Fault Refusal :=
  if twTimers s n && (twPort s n).sclLow then .next (twFault s n 2) else .next s

/-- TW_RECOVERY (R457): recovered within three rounds, or FAULT with cause SDA. -/
def execTwRecovery (n : TwId) (freed : Bool) (s : State) : Host.Outcome State Fault Refusal :=
  if !(twTimers s n && (twPort s n).ctl) then .next s
  else
    let s := twMod (curCut s n trTimeout) n fun p => ({ p with recovCnt := satInc16 p.recovCnt } : TwPort).count 4
    .next (if freed then s else twFault s n 1)

/-- A write of 0x2501 (R459): an abort code, 0 for none. -/
def twReenableWrite (n : TwId) (v : Nat) (s : State) : Nat × State :=
  if v ≠ 1 then (abRange, s)
  else if (twPort s n).fault && twUp s n then
    let s := twMod s n fun p => { p with fault := false, fcause := 0, busy := true, cond := p.cond &&& 0xF8 }
    (0, clearStanding s 0xFF80 n.val)
  else (0, s)

/-- TW_REENABLE. -/
def execTwReenable (w : Session) (n : TwId) (v : Byte) (s : State) : Host.Outcome State Fault Refusal :=
  objCmd s w 0x2501 (n.val + 1) (twReenableWrite n v.toNat)

/-- TW_SDA_LOW (R460). -/
def execTwSdaLow (n : TwId) (s : State) : Host.Outcome State Fault Refusal :=
  let p := twPort s n
  if twTimers s n && !p.ctl && !p.sdaLow then
    .next (twReport (twMod s n fun p => { p with sdaLow := true }) n 4)
  else .next s

/-- TW_SDA_RISE (R460). -/
def execTwSdaRise (n : TwId) (s : State) : Host.Outcome State Fault Refusal :=
  let p := twPort s n
  if twUp s n && p.sdaLow then .next (twReport (twMod s n fun p => { p with sdaLow := false }) n 5) else .next s

/-! ## Registers (Table 12-8) -/

def twStat (p : TwPort) : Nat :=
  b2n p.busy + 2 * b2n p.cmdBusy + 4 * b2n p.done + 8 * b2n p.arbLost + 16 * b2n p.timeout + 32 * b2n p.fault
    + 64 * p.fcause.toNat + 2 ^ 8 * b2n p.sdaLow + 2 ^ 9 * b2n p.wake + 2 ^ 10 * b2n p.winWr + 2 ^ 11 * b2n p.torn

def twRead (s : State) (n : TwId) (off : Nat) : Nat × State :=
  let p := twPort s n
  match off with
  | 0x000 => (p.cfg.toNat, s)
  | 0x004 => (p.tim.toNat, s)
  | 0x008 => (p.taddr.toNat, s)
  | 0x00C => (twStat p, s)
  | 0x010 => (p.cmdAddr.toNat + 2 ^ 8 * p.wlen.toNat + 2 ^ 16 * p.rlen.toNat, s)
  | 0x014 => (p.result.toNat + 2 ^ 8 * p.bytes.toNat + 2 ^ 16 * p.attempts.toNat, s)
  | 0x018 =>
    (p.arbByte.toNat + 2 ^ 8 * p.arbBit.toNat + 2 ^ 12 * p.arbAttempt.toNat + 2 ^ 16 * p.arbCount.toNat,
      twMod s n fun p => { p with arbCount := 0 })
  | 0x01C => (p.winFirst.toNat + 2 ^ 8 * p.winLast.toNat + 2 ^ 16 * p.winCount.toNat, s)
  | 0x020 => (p.wprot.toNat, s)
  | 0x024 => (p.nackCnt.toNat + 2 ^ 16 * p.timeoutCnt.toNat, twMod s n fun p => { p with nackCnt := 0, timeoutCnt := 0 })
  | 0x028 => (p.recovCnt.toNat + 2 ^ 16 * p.wakeCnt.toNat, twMod s n fun p => { p with recovCnt := 0, wakeCnt := 0 })
  | _ =>
    if 0x100 ≤ off ∧ off < 0x140 then (fieldLE p.txbuf (off - 0x100) 4, s)
    else if 0x140 ≤ off ∧ off < 0x180 then (fieldLE p.rxbuf (off - 0x140) 4, s)
    else if 0x200 ≤ off ∧ off < 0x300 then (fieldLE p.win (off - 0x200) 4, s)
    else (0, s)

def twWrite (s : State) (n : TwId) (off : Nat) (v : W32) : State :=
  match off with
  | 0x000 =>
    twCfgWrite s n v
  | 0x004 => twMod s n fun p => { p with tim := v }
  | 0x008 => twMod s n fun p => { p with taddr := v.extractLsb' 0 7 }
  | 0x00C => twMod s n fun p => { p with
      done := p.done && !v.getLsbD 2, arbLost := p.arbLost && !v.getLsbD 3, timeout := p.timeout && !v.getLsbD 4,
      wake := p.wake && !v.getLsbD 9, winWr := p.winWr && !v.getLsbD 10, torn := p.torn && !v.getLsbD 11 }
  | 0x010 => twCmdWrite s n v
  | 0x020 => twMod s n fun p => { p with wprot := v.extractLsb' 0 16 }
  | _ =>
    if 0x100 ≤ off ∧ off < 0x140 then twMod s n fun p => { p with txbuf := overwrite p.txbuf (off - 0x100) (toLE 4 v.toNat) }
    else if 0x200 ≤ off ∧ off < 0x300 then windowWrite s n (BitVec.ofNat 8 (off - 0x200)) (toLE 4 v.toNat)
    else s

end Sys2Proof.Machine
end

