-- ==== Sys2Proof/Machine/Io.lean ====
section
/-!
DEFINITION. The IO block and the pins that show conditions: IO_EDGE and the registers of Table 16-15,
FAULT_N, WAKE_OUT and the balls' states in reset (R558, R561 to R563, R569).
-/

namespace Sys2Proof.Machine

/-- Levels of the IO balls: the output value where driven, else what is put on the ball. -/
def Io.levels (x : Io) : W32 := (x.outv &&& x.oe) ||| (x.ext &&& ~~~x.oe)

/-- Two bits per ball of a 64-bit register. -/
def Io.pair (v : W64) (i : Nat) : Nat := bits v.toNat (2 * i) 2

/-- Ball i went from one level to the other, or stands, in a way that its IO_IRQ_MODE matches. -/
def Io.hits (x : Io) (old new : Bool) (i : Nat) : Bool :=
  match Io.pair x.irqMode i with
  | 0 => !old && new
  | 1 => old && !new
  | 2 => old != new
  | _ => new

/-- IO_IRQ_STAT after the balls went from the levels old to those of x: an enabled ball that matches sets
its bit; a high level sets it again while it holds (R569). -/
def Io.settle (x : Io) (old : W32) : Io :=
  let hit := fun (i : Nat) => x.irqEn.getLsbD i && x.hits (old.getLsbD i) (x.levels.getLsbD i) i
  { x with irqStat := (List.range 32).foldl (fun (m : W32) i => if hit i then m ||| (1#32 <<< i) else m) x.irqStat }

/-- The IO block is powered (R569: it lies in PD11). -/
def ioUp (s : State) : Bool := domUp s 11

/-- IO_EDGE: a ball's level from outside changes, or stays as a level. -/
def execIoEdge (pin : Fin 32) (level : Bool) (s : State) : Host.Outcome State Fault Refusal :=
  let x := s.io
  let y := { x with ext := if level then x.ext ||| (1#32 <<< pin.val) else x.ext &&& ~~~(1#32 <<< pin.val) }
  .next { s with io := if ioUp s then y.settle x.levels else y }

/-- A 32-bit read at an offset of the IO block. -/
def ioRead (s : State) (off : Nat) : Nat :=
  let x := s.io
  match off with
  | 0x00 => x.levels.toNat
  | 0x08 => x.outv.toNat
  | 0x10 => x.oe.toNat
  | 0x18 => bits x.pull.toNat 0 32
  | 0x1C => bits x.pull.toNat 32 32
  | 0x20 => x.irqEn.toNat
  | 0x28 => bits x.irqMode.toNat 0 32
  | 0x2C => bits x.irqMode.toNat 32 32
  | 0x30 => x.irqStat.toNat
  | 0x38 => b2n s.dev.bankA33 + 2 * b2n s.dev.bankB33
  | _ => 0

/-- The register fields after a 32-bit write. -/
def Io.write (x : Io) (off : Nat) (v : W32) : Io :=
  match off with
  | 0x08 => { x with outv := v }
  | 0x10 => { x with oe := v }
  | 0x18 => { x with pull := x.pull.extractLsb' 32 32 ++ v }
  | 0x1C => { x with pull := v ++ x.pull.extractLsb' 0 32 }
  | 0x20 => { x with irqEn := v }
  | 0x28 => { x with irqMode := x.irqMode.extractLsb' 32 32 ++ v }
  | 0x2C => { x with irqMode := v ++ x.irqMode.extractLsb' 0 32 }
  | 0x30 => { x with irqStat := x.irqStat &&& ~~~v }
  | _ => x

/-- A 32-bit write at an offset of the IO block; a driven ball's change counts as an edge of its level. -/
def ioWrite (s : State) (off : Nat) (v : W32) : State :=
  { s with io := (s.io.write off v).settle s.io.levels }

/-! ## Pins -/

/-- The boot ROM and the reset keep FAULT_N low until MGC firmware starts (R562). -/
def firmwareRuns (p : DevPhase) : Bool := p == .mgcStarted || p == .running

/-- FAULT_N is driven low (R562); with every clock stopped it keeps its level. -/
def faultLow (s : State) : Bool :=
  if s.dev.clocksStopped then !s.dev.faultNHeld
  else !firmwareRuns s.dev.phase || (errorRegister s.health).getLsbD 0

/-- WAKE_OUT is high (R563). -/
def wakeOut (s : State) : Bool := s.node.hmb.done || (s.tw.get 0).wake || (s.tw.get 1).wake

/-- Level a PHASE_OUT pin drives: with POL = 0 the active level is high (R68; log 85). -/
def phaseOut (s : State) (n : SrcId) : Bool :=
  (s.pht.outs.get n).active != (s.pht.outs.get n).cfg.getLsbD 8

end Sys2Proof.Machine
end

