-- ==== Sys2Proof/Machine/Ee.lean ====
section
/-!
DEFINITION. The Eaves engine: it runs one descriptor that the CSC hands it (R229 to R234, Tables 6-8, 6-9).
-/

namespace Sys2Proof.Machine

/-- The Eaves engine's initiator number. -/
def eeInit : Nat := 16

def eeUp (s : State) : Bool := domRuns s 8 && !unitFenced s 0x10

/-- The scale entries the Eaves engine applies; the spec says only what a Spar core's register file holds,
so each is a free value of kind INT (log 47). -/
def eeSrf (i : Nat) : W32 := BitVec.ofNat 32 (Config.freeOf .unspecified [8, i] % 2 ^ 22)

def eeUnit : SeqUnit := { init := eeInit, own := none, srf := eeSrf, eaves := true }

/-- What a run starts with: empty accumulators and stages. -/
def eeStart (s : State) : SeqRun :=
  { s := s, acc := List.replicate 16 [], stage := [[], []], wsSrc := [0, 0], ws := false,
    satPos := 0, satNeg := 0, satUns := 0, rndIgn := false, fetched := Fetched.zero }

/-- A saturating count. -/
def satAdd64 (x : W64) (n : Nat) : W64 := BitVec.ofNat 64 (min (2 ^ 64 - 1) (x.toNat + n))

/-- The descriptor ends: STATUS and RDBYTES are written back, the engine is idle and signals the CSC. -/
def eeEnd (s : State) (a status rdBytes : Nat) : State :=
  let s := (ramWrite s eeInit (a + 0x60) (toLE 1 status)).2
  let s := (ramWrite s eeInit (a + 0x68) (toLE 8 rdBytes)).2
  { s with ee.state := 0, ee.running := none, ee.done := true, ee.desc := satAdd32 s.ee.desc 1 }

/-- EE_DESCRIPTOR: the engine takes the descriptor offered to it; one that is UNSUPPORTED or EMPTY ends at
once (R216, R229, R234). A descriptor that cannot be read ends with a free STATUS (log 48). -/
def execEeDescriptor (s : State) : Host.Outcome State Fault Refusal :=
  match s.ee.offered with
  | none => .next s
  | some a =>
    if !(eeUp s && s.ee.state == 0) then .next s
    else
      let s := { s with ee.offered := none }
      match ramRead s eeInit a 128 with
      | (.error _, s) => .next (eeEnd s a (Config.freeOf .unspecified [9, a]) 0)
      | (.ok b, s) =>
        let d := convDesc b
        let s := { s with ee.mode := decide (8 < d.cin) }
        if !d.eavesOk then .next (eeEnd s a 2 0)
        else if d.isEmpty then .next (eeEnd s a 1 0)
        else .next { s with ee.state := 1, ee.running := some a, ee.edesc := b }

/-- STATUS [3:0] of a run by how it ended; one that a refused access stopped is free (log 48). -/
def seqStatus (r : Except SeqErr Unit) (a : Nat) : Nat :=
  match r with
  | .ok _ => 0
  | .error .format => 3
  | .error (.bus _ _) => Config.freeOf .unspecified [9, a] % 16

/-- EE_DESCRIPTOR_END: every row has been computed and stored; STATUS bit 7 and SAT_UNSURE say that a lane
was stored with its clamp bit set (R231, R232). -/
def execEeDescriptorEnd (s : State) : Host.Outcome State Fault Refusal :=
  match s.ee.running with
  | none => .next s
  | some a =>
    if !(eeUp s && s.ee.state == 1) then .next s
    else
      let d := convDesc s.ee.edesc
      let (res, r) := (do
          if ← blockOk eeUnit d then runUnit eeUnit d d.oy0 0 (d.rowEnd - d.oy0); pure true
          else pure false : SeqM Bool).run (eeStart s)
      let t := { r.s with
        ee.acc := Vector.ofFn fun i : Fin 16 => r.acc.getD i.val [],
        ee.rndIgn := r.s.ee.rndIgn || r.rndIgn,
        ee.satUnsure := r.s.ee.satUnsure || decide (0 < r.satUns),
        ee.cyc := satAdd64 r.s.ee.cyc (drawn r.s .cycles),
        ee.macAct := satAdd64 r.s.ee.macAct (Config.freeValue .cycles (r.s.free + 1)),
        free := r.s.free + 3 }
      let rd := r.fetched.count (Config.freeValue .rdbytes (r.s.free + 2))
      match res with
      | .ok false => .next (eeEnd s a 2 0)
      | .ok true => .next (eeEnd t a (128 * b2n (decide (0 < r.satUns))) rd)
      | .error e => .next (eeEnd t a (seqStatus (.error e) a + 128 * b2n (decide (0 < r.satUns))) rd)

/-- EE_ERROR: a buffer error or a MAC parity error is reported and fenced (R233). -/
def execEeError (mac : Bool) (s : State) : Host.Outcome State Fault Refusal :=
  if eeUp s then .next (reportFault s 0x10 1 (if mac then 2 else 1) 0) else .next s

/-! ## Registers (Tables 6-8, 6-9) -/

def eeStat (s : State) : Nat :=
  s.ee.state.toNat + 4 * b2n s.ee.rndIgn + 8 * b2n s.ee.satUnsure + 16 * b2n s.ee.mode + 2 ^ 16 * s.ee.fcode.toNat

/-- A register of the engine. EE_CYC counts while PD8 is granted: the cycles that no command has shown are a free
count that is added when it is read (log 63). -/
def eeRead (s : State) (off : Nat) : Nat × State :=
  let t := afterDraw { s with ee.cyc := satAdd64 s.ee.cyc (drawn s .cycles) }
  match off with
  | 0x000 => (eeStat s, s)
  | 0x100 => (bits t.ee.cyc.toNat 0 32, t)
  | 0x104 => (bits t.ee.cyc.toNat 32 32, t)
  | 0x108 => (bits s.ee.macAct.toNat 0 32, s)
  | 0x10C => (bits s.ee.macAct.toNat 32 32, s)
  | 0x110 => (s.ee.desc.toNat, s)
  | _ => (0, s)

def eeWrite (s : State) (off : Nat) (v : W32) : State :=
  if off = 0 then { s with ee.rndIgn := s.ee.rndIgn && !v.getLsbD 2 } else s

end Sys2Proof.Machine
end

