-- ==== Sys2Proof/Machine/Trim.lean ====
section
/-!
DEFINITION. The Trim unit: loading, dynamics, exchange records, journal, replay and registers
(R300 to R330).
-/

namespace Sys2Proof.Machine

/-- The unit's initiator number. -/
def trimInit : Nat := 19

def trimUp (s : State) : Bool := domRuns s 10 && !unitFenced s 0x18

def trimMod (s : State) (f : Trim → Trim) : State := { s with trim := f s.trim }

/-- Values of Table 9-7. -/
def tsLoading : BitVec 4 := 1
def tsReady : BitVec 4 := 2
def tsRunning : BitVec 4 := 3
def tsDone : BitVec 4 := 4
def tsAborted : BitVec 4 := 5
def tsInvalid : BitVec 4 := 6
def tsPeerTimeout : BitVec 4 := 7
def tsPeerLost : BitVec 4 := 8
def tsReclaimed : BitVec 4 := 9
def tsFenced : BitVec 4 := 10
def tsReplayShort : BitVec 4 := 11
def tsBusErr : BitVec 4 := 12

/-! ## The descriptor (Table 9-6) -/

def Trim.fld (t : Trim) (o n : Nat) : Nat := fieldLE (t.prob.getD []) o n
def Trim.mode (t : Trim) : Nat := t.fld 4 1
def Trim.qubo (t : Trim) : Bool := bitOf t.mode 0
def Trim.orderPerm (t : Trim) : Bool := bitOf t.mode 1
def Trim.split (t : Trim) : Bool := bitOf t.mode 2
def Trim.nblk (t : Trim) : Nat := t.fld 5 1
def Trim.nstep (t : Trim) : Nat := t.fld 6 1
def Trim.part (t : Trim) : Nat := t.fld 7 1
def Trim.seed (t : Trim) : Nat := t.fld 8 8
def Trim.nsparse (t : Trim) : Nat := t.fld 0x28 4
def Trim.xp (t : Trim) : Nat := t.fld 0x2C 2
def Trim.stale (t : Trim) : Nat := t.fld 0x2E 2
def Trim.resultA (t : Trim) : Nat := t.fld 0x50 8
def Trim.journalA (t : Trim) : Nat := t.fld 0x58 8
def Trim.jsize (t : Trim) : Nat := t.fld 0x60 4
def Trim.xwaitUs (t : Trim) : Nat := t.fld 0x64 4
def Trim.npeer (t : Trim) : Nat := t.fld 0x70 1
def Trim.peer (t : Trim) (p : Nat) : Nat := t.fld (0x68 + p) 1 % 64
def Trim.nspins (t : Trim) : Nat := 256 * t.nblk

/-- Fields of a sparse entry (R302). -/
def seI (e : W64) : Nat := bits e.toNat 0 12
def seJ (e : W64) : Nat := bits e.toNat 12 12
def sePeer (e : W64) : Nat := bits e.toNat 24 6
def seRemote (e : W64) : Bool := e.getLsbD 30
def seVal (e : W64) : Int := sext 16 (bits e.toNat 32 16)

/-- Fields of a schedule entry (R309). -/
def scBeta (e : W64) : Nat := bits e.toNat 0 32
def scSweeps (e : W64) : Nat := bits e.toNat 32 24
def scRecord (e : W64) : Bool := e.getLsbD 56
def scBest (e : W64) : Bool := e.getLsbD 57

/-! ## Loading (R304, R305) -/

/-- Reads of the problem, each refused with cause BUS. -/
def trimRead (s : State) (a n : Nat) : Except Nat Bytes × State :=
  match seqRead s trimInit none a n with
  | (.ok b, t) => (.ok b, t)
  | (.error _, t) => (.error 9, t)

/-- Row i of a dense matrix: the entries with j > i, those that are not 0. -/
def denseRow (blk i : Nat) (b : Bytes) : Tbl W16 :=
  (List.range (255 - i)).filterMap fun k =>
    let v := BitVec.ofNat 16 (fieldLE b (2 * k) 2)
    if v = 0 then none else some (blk * 65536 + 256 * i + (i + 1 + k), v)

/-- The dense matrices, row by row; only entries above the diagonal are read (R301). -/
def loadDense (base : Nat) : List (Nat × Nat) → State → Except Nat (Tbl W16) × State
  | [], s => (.ok [], s)
  | (blk, i) :: rest, s =>
    match trimRead s (base + blk * 0x20000 + (256 * i + i + 1) * 2) ((255 - i) * 2) with
    | (.error c, t) => (.error c, t)
    | (.ok b, t) =>
      match loadDense base rest t with
      | (.error c, t) => (.error c, t)
      | (.ok m, t) => (.ok (denseRow blk i b ++ m), t)

def words (n k : Nat) (b : Bytes) : List Nat := (List.range n).map fun i => fieldLE b (k * i) k

/-- A sparse entry may stand in the problem (R305). -/
def sparseOk (t : Trim) (e : W64) : Bool :=
  decide (seI e / 256 < t.nblk) &&
    (if seRemote e then t.split
     else decide (seJ e / 256 < t.nblk) && decide (seI e / 256 ≠ seJ e / 256))

/-- Sparse entries of a local spin. -/
def degree (es : List W64) (i : Nat) : Nat :=
  (es.filter fun e => seI e == i || (!seRemote e && seJ e == i)).length

def isPerm (b : Bytes) : Bool := (List.range 256).all fun k => b.any fun x => x.toNat == k

/-- Checks on the descriptor alone: MAGIC, ranges, split settings (R305, R329, log 81). -/
def descCause (s : State) (t : Trim) : Option Nat :=
  if t.fld 0 4 ≠ 0x5452494D then some 1
  else if t.nblk < 1 ∨ 16 < t.nblk ∨ t.nstep < 1 ∨ 64 < t.nstep then some 2
  else if t.journalA ≠ 0 ∧ (t.jsize < 64 ∨ t.jsize % 16 ≠ 0) then some 2
  else if 32768 < t.nsparse then some 5
  else if t.split ∧ (t.stale < t.xp ∨ t.npeer = 0 ∨ t.part ≠ (ownChip s).val ∨ t.xp = 0 ∨ 256 < t.xp ∨ 8 < t.npeer
      ∨ t.xwaitUs = 0)
    then some 8
  else none

/-- What a load copies, or its cause of INVALID. -/
def loadProblem (s : State) (t : Trim) : Except Nat Trim × State :=
  let rows := (List.range t.nblk).flatMap fun b => (List.range 255).map fun i => (b, i)
  match loadDense (t.fld 0x10 8) rows s with
  | (.error c, s) => (.error c, s)
  | (.ok dense, s) =>
    match trimRead s (t.fld 0x18 8) (4 * t.nspins) with
    | (.error c, s) => (.error c, s)
    | (.ok bb, s) =>
      let bs := words t.nspins 4 bb
      if bs.any fun b => decide (sext 32 b < -8388608) || decide (8388607 < sext 32 b) then (.error 3, s)
      else
        match trimRead s (t.fld 0x20 8) (8 * t.nsparse) with
        | (.error c, s) => (.error c, s)
        | (.ok sb, s) =>
          let es := (words t.nsparse 8 sb).map (BitVec.ofNat 64)
          if !es.all (sparseOk t) then (.error 4, s)
          else if (List.range t.nspins).any fun i => decide (256 < degree es i) then (.error 5, s)
          else
            match trimRead s (t.fld 0x30 8) (32 * t.nblk),
                  (if t.fld 0x38 8 = 0 then (.ok [], s) else trimRead s (t.fld 0x38 8) (32 * t.nblk)) with
            | (.ok ib, _), (.ok cb, s) =>
              (match (if t.orderPerm then trimRead s (t.fld 0x48 8) 256 else (.ok [], s)) with
               | (.error c, s) => (.error c, s)
               | (.ok pb, s) =>
                 if t.orderPerm && !isPerm pb then (.error 6, s)
                 else
                   match trimRead s (t.fld 0x40 8) (8 * t.nstep) with
                   | (.error c, s) => (.error c, s)
                   | (.ok qb, s) =>
                     let sc := (words t.nstep 8 qb).map (BitVec.ofNat 64)
                     if sc.any fun e => scSweeps e == 0 then (.error 7, s)
                     else
                       (.ok { t with
                         dense := dense,
                         bias := (bs.zipIdx.filter fun x => x.1 ≠ 0).map fun x => (x.2, BitVec.ofNat 32 x.1),
                         sparse := es, initSpins := BitVec.ofNat 4096 (leNat ib),
                         clamp := BitVec.ofNat 4096 (leNat cb), sched := sc, perm := pb }, s))
            | (.error c, t), _ => (.error c, t)
            | _, (.error c, t) => (.error c, t)

/-- LOAD: the descriptor is read and status is LOADING. A fenced unit's reads are refused and its status stays
FENCED until the data-plane reset (R31, R327). -/
def trimLoad (s : State) (a : Nat) : State :=
  if s.trim.status = tsFenced then trimMod s fun t => { t with descA := BitVec.ofNat 48 a } else
  let (r, s) := trimRead s a 128
  trimMod s fun t => { t with
    status := tsLoading, cause := 0, descA := BitVec.ofNat 48 a, prob := match r with
      | .ok b => some b
      | .error _ => none }

/-- TRIM_LOAD_DONE: the problem is copied; READY, or INVALID with its cause. -/
def execTrimLoadDone (s : State) : Host.Outcome State Fault Refusal :=
  if !(trimUp s && s.trim.status == tsLoading) then .next s
  else
    let bad := fun (u : State) (c : Nat) => trimMod u fun t => { t with status := tsInvalid, cause := BitVec.ofNat 8 c }
    if s.trim.prob.isNone then .next (bad s 9)
    else
      match descCause s s.trim with
      | some c => .next (bad s c)
      | none =>
        match loadProblem s s.trim with
        | (.error c, u) => .next (bad u c)
        | (.ok t, u) => .next { u with trim := { t with status := tsReady, cause := 0 } }

/-! ## Fields, costs and energies (R300, R306 to R308, R312) -/

/-- Value of a spin: -1 or +1, or 0 or 1 (QUBO). -/
def spinVal (qubo b : Bool) : Int := if b then 1 else if qubo then 0 else -1

def Trim.coupling (t : Trim) (blk i j : Nat) : Int :=
  (Tbl.read (fun _ => (0 : W16)) t.dense (blk * 65536 + 256 * min i j + max i j)).toInt

def Trim.biasOf (t : Trim) (i : Nat) : Int := (Tbl.read (fun _ => (0 : W32)) t.bias i).toInt

/-- Sum of the dense couplings of spin i with the spins of its block. -/
def Trim.denseSum (t : Trim) (spins : BitVec 4096) (i : Nat) : Int :=
  let blk := i / 256
  (List.range 256).foldl (fun a j =>
    if j = i % 256 then a
    else a + t.coupling blk (i % 256) j * spinVal t.qubo (spins.getLsbD (256 * blk + j))) 0

/-- Sum of the sparse couplings of spin i, local ones with the spins given, remote ones with the copies. -/
def Trim.sparseSum (t : Trim) (cross : BitVec 4096) (i : Nat) : Int :=
  t.sparse.foldl (fun a e =>
    if seRemote e then
      (if seI e = i then a + seVal e * spinVal t.qubo (Tbl.read (fun _ => false) t.copies (sePeer e * 4096 + seJ e))
       else a)
    else if seI e = i then a + seVal e * spinVal t.qubo (cross.getLsbD (seJ e))
    else if seJ e = i then a + seVal e * spinVal t.qubo (cross.getLsbD (seI e)) else a) 0

/-- The local field L_i. -/
def Trim.field (t : Trim) (spins cross : BitVec 4096) (i : Nat) : Int :=
  t.biasOf i + t.denseSum spins i + t.sparseSum cross i

/-- Cost of flipping spin i. -/
def Trim.deltaE (t : Trim) (spins cross : BitVec 4096) (i : Nat) : Int :=
  let l := t.field spins cross i
  if t.qubo then (1 - 2 * spinVal true (spins.getLsbD i)) * l else 2 * spinVal false (spins.getLsbD i) * l

/-- E_part of R312. Where half the sum is no integer, which the spec does not settle, one of the two
integers beside it, free (log 80). -/
def Trim.ePart (t : Trim) : Int :=
  let x := (List.range t.nspins).foldl (fun a i =>
    a + spinVal t.qubo (t.spins.getLsbD i) * (t.field t.spins t.spins i + t.biasOf i)) 0
  let y := if t.qubo then x else -x
  if y % 2 = 0 then y / 2 else y / 2 + (Config.freeOf .unspecified [13, y.natAbs] % 2 : Nat)

/-- exp(-1/128) with 256 fractional bits. -/
def expStep : Nat :=
  let r := (List.range 41).foldl (fun (a : Int × Nat) n =>
    (if n % 2 = 0 then a.1 + a.2 else a.1 - a.2, a.2 / (128 * (n + 1)))) ((0 : Int), 2 ^ 256)
  r.1.toNat

/-- A power with 256 fractional bits, by the bits of its exponent. -/
def fixPow (b : Nat) : Nat → Nat → Nat → Nat
  | 0, _, r => r
  | n + 1, k, r => fixPow ((b * b) >>> 256) n (k / 2) (if k % 2 = 1 then (r * b) >>> 256 else r)

/-- expt[k] of R308. -/
def expt (k : Nat) : Nat := if k = 0 then 0xFFFFFFFF else fixPow expStep 12 k (2 ^ 256) >>> 224

/-! ## PRNG (R310) -/

def splitmix (z : W64) : W64 :=
  let z := z + 0x9E3779B97F4A7C15
  let z := (z ^^^ (z >>> 30)) * 0xBF58476D1CE4E5B9
  let z := (z ^^^ (z >>> 27)) * 0x94D049BB133111EB
  z ^^^ (z >>> 31)

def laneSeed (seed part b l : Nat) : W64 :=
  let x := splitmix (BitVec.ofNat 64 seed ^^^ BitVec.ofNat 64 (part * 2 ^ 16) ^^^ BitVec.ofNat 64 (b * 256)
    ^^^ BitVec.ofNat 64 l)
  if x = 0 then 1 else x

/-- next(lane): the new lane state and the draw. -/
def laneNext (x : W64) : W64 × Nat :=
  let x := x ^^^ (x >>> 12)
  let x := x ^^^ (x <<< 25)
  let x := x ^^^ (x >>> 27)
  (x, ((x * 0x2545F4914F6CDD1D) >>> 32).toNat)

/-! ## Group steps (R306 to R308) -/

def Trim.beta (t : Trim) : Nat := scBeta (t.sched.getD t.steps 0)

/-- Local index that lane l decides in group step g. -/
def Trim.laneIndex (t : Trim) (g l : Nat) : Nat :=
  if t.orderPerm then (byteAt t.perm (16 * g + l)).toNat else 16 * g + l

/-- decide of R308 for one lane: a draw, then a flip or not. -/
def Trim.decide1 (t : Trim) (cross : BitVec 4096) (g b l : Nat) : Trim :=
  let i := 256 * b + t.laneIndex g l
  let k := Fin.ofNat 256 (16 * b + l)
  let (x, u) := laneNext (t.rng.get k)
  let t := { t with rng := t.rng.set k.val x k.isLt }
  if t.clamp.getLsbD i then t
  else
    let d := t.deltaE t.spins cross i
    let flip := if d ≤ 0 then true
      else
        let e := (t.beta * d.toNat) >>> 9
        e < 4096 && u < expt e
    if flip then { t with spins := t.spins ^^^ (1#4096 <<< i), flips := BitVec.ofNat 64 (min (2 ^ 64 - 1) (t.flips.toNat + 1)) }
    else t

/-- A group step: 16 lanes in each block, in lane order; blocks do not see each other's flips before the
step after the next. -/
def Trim.groupStep (t : Trim) (g : Nat) : Trim :=
  let before := t.spins
  let cross := t.seen
  let u := (List.range t.nblk).foldl (fun t b => (List.range 16).foldl (fun t l => t.decide1 cross g b l) t) t
  { u with seen := before }

/-- TRIM_GROUP_STEP. -/
def execTrimGroupStep (s : State) : Host.Outcome State Fault Refusal :=
  match s.trim.phase with
  | .sweep g =>
    if trimUp s && s.trim.status == tsRunning && decide (g < 16) then
      let n := drawn s .cycles
      .next (afterDraw (trimMod s fun t => { t.groupStep g with
        phase := .sweep (g + 1), cyc := BitVec.ofNat 64 (min (2 ^ 64 - 1) (t.cyc.toNat + n)) }))
    else .next s
  | _ => .next s

/-! ## Records (R315, R316, R318, R320 to R322) -/

def recBody (r : TrimRec) : Bytes :=
  [BitVec.ofNat 8 r.kind, r.part] ++ toLE 2 r.n ++ toLE 4 r.apply ++ toLE 4 r.src.toNat

def recCrc (jrun : Nat) (r : TrimRec) : Nat := crc32c (toLE 4 jrun ++ recBody r ++ r.payload)

def recHeader (jrun : Nat) (r : TrimRec) : Bytes := recBody r ++ toLE 4 (recCrc jrun r)

def padded (b : Bytes) : Bytes := padTo ((b.length + 15) / 16 * 16) b

/-- Bytes of a record's payload by its KIND and N. -/
def payloadLen (kind n : Nat) : Nat := if kind = 1 then 16 else if kind = 4 then 8 else 2 * n

/-- A record from its bytes. -/
def recOf (b : Bytes) : TrimRec :=
  let k := fieldLE b 0 1
  let n := fieldLE b 2 2
  { kind := k, part := byteAt b 1, n := n, apply := fieldLE b 4 4, src := BitVec.ofNat 32 (fieldLE b 8 4),
    payload := slice b 16 (payloadLen k n) }

/-- The run ends with a status; its results are still to be written. The first cause stays. -/
def trimEnd (s : State) (st : BitVec 4) : State :=
  trimMod s fun t => { t with ending := match t.ending with
    | some x => some x
    | none => some st }

/-- A record is journaled: payload before header; one that does not fit sets JFULL, and a refused write
ends the run (R320 to R322). -/
def journalPut (s : State) (r : TrimRec) : State :=
  let t := s.trim
  if t.journalA = 0 ∨ t.replay ∨ t.jfull ∨ (r.kind = 2 ∧ r.n = 0) then s
  else
    let p := padded r.payload
    if t.jsize < t.jlen.toNat + 16 + p.length then trimMod s fun t => { t with jfull := true }
    else
      let a := t.journalA + t.jlen.toNat
      let (e1, s1) := if p.isEmpty then (none, s) else seqWrite s trimInit none (a + 16) p
      match e1 with
      | some _ => trimEnd s1 tsBusErr
      | none =>
        match seqWrite s1 trimInit none a (recHeader t.jrun.toNat r) with
        | (some _, s2) => trimEnd s2 tsBusErr
        | (none, s2) => trimMod s2 fun t => { t with jlen := t.jlen + BitVec.ofNat 32 (16 + p.length) }

/-- Boundary spins for a peer: local spins of the remote entries that name it (log 82). -/
def Trim.boundary (t : Trim) (peer : Nat) : List Nat :=
  (List.range t.nspins).filter fun i => t.sparse.any fun e => seRemote e && sePeer e == peer && seI e == i

/-- Payload entries of spins: index and value. -/
def spinEntries (spins : BitVec 4096) (is : List Nat) : Bytes :=
  is.flatMap fun i => toLE 2 (i + 32768 * b2n (spins.getLsbD i))

/-- A record goes to a peer in TRIMX messages of at most 64 bytes each; its apply sweep is the receiver's
to fill and is free (log 78). -/
def sendTrim (s : State) (p kind : Nat) (src : W32) (is : List Nat) : State :=
  let t := s.trim
  let r : TrimRec :=
    { kind := kind, part := BitVec.ofNat 8 t.part, n := is.length,
      apply := Config.freeOf .unspecified [11, t.jrun.toNat, src.toNat] % 2 ^ 32, src := src,
      payload := spinEntries t.spins is }
  let b := recHeader t.jrun.toNat r ++ padded r.payload
  let s := (List.range ((b.length + 63) / 64)).foldl (fun u k =>
    sendOwn u (mkMessage mkTrimx (t.peer p) (ownChip u).val 0 0 0 2 0 ((b.drop (64 * k)).take 64))) s
  trimMod s fun t => { t with sent := vput t.sent (Fin.ofNat 8 p) t.spins }

/-- Every peer gets a record: INIT and FINAL name all boundary spins, XCHG those changed since the last. -/
def sendAll (s : State) (kind : Nat) (src : W32) : State :=
  (List.range s.trim.npeer).foldl (fun u p =>
    let all := u.trim.boundary (u.trim.peer p)
    let was := u.trim.sent.get (Fin.ofNat 8 p)
    sendTrim u p kind src (if kind = 2 then all.filter fun i => was.getLsbD i != u.trim.spins.getLsbD i else all)) s

/-- A record's entries enter the copy table. -/
def copyIn (t : Trim) (peer : Nat) (r : TrimRec) : Trim :=
  { t with copies := (List.range r.n).foldl (fun c k =>
      let e := fieldLE r.payload (2 * k) 2
      Tbl.write (fun _ => false) c (peer * 4096 + e % 4096) (bitOf e 15)) t.copies }

/-- A record is applied at sweep n: copies, count, journal. -/
def applyRec (s : State) (peer n : Nat) (r : TrimRec) : State :=
  journalPut (trimMod s fun t => { copyIn t peer r with xrec := satAdd32 t.xrec 1 })
    { r with part := BitVec.ofNat 8 peer, apply := n }

/-- The record of a peer that is next in order of source sweep: INIT, then every XP sweeps. -/
def nextRec (t : Trim) (p : Nat) : Option (Byte × TrimRec) :=
  t.rx.find? fun e => e.1.toNat == t.peer p &&
    (match t.applied.get (Fin.ofNat 8 p) with
     | none => e.2.kind == 5
     | some m => e.2.kind == 2 && (e.2.src.toNat : Int) == m + t.xp)

/-- Records of one peer that have arrived are applied in order. -/
def applyPeer : Nat → State → Nat → State
  | 0, s, _ => s
  | k + 1, s, p =>
    match nextRec s.trim p with
    | none => s
    | some e =>
      let s := trimMod s fun t => { t with
        rx := t.rx.erase e,
        applied := vput t.applied (Fin.ofNat 8 p) (some (if e.2.kind = 5 then -1 else (e.2.src.toNat : Int))) }
      applyPeer k (applyRec s (s.trim.peer p) s.trim.sweep.toNat e.2) p

def applyAll (s : State) : State :=
  (List.range s.trim.npeer).foldl (fun u p => applyPeer (u.trim.rx.length + 1) u p) s

/-- Every peer's staleness bound is met for sweep n (R316). -/
def staleOk (t : Trim) : Bool :=
  (List.range t.npeer).all fun p =>
    match t.applied.get (Fin.ofNat 8 p) with
    | none => false
    | some m => decide ((t.sweep.toNat : Int) - t.stale ≤ m)

/-- A received message's bytes join those of its sender's record; a whole record is queued. -/
def trimxBytes (s : State) (peer : Nat) (b : Bytes) : State :=
  if !trimUp s then s else
  let have_ := Tbl.read (fun _ => []) s.trim.rxPart peer ++ b
  let need := 16 + (payloadLen (fieldLE have_ 0 1) (fieldLE have_ 2 2) + 15) / 16 * 16
  if have_.length < 16 ∨ have_.length < need then
    trimMod s fun t => { t with rxPart := Tbl.write (fun _ => []) t.rxPart peer have_ }
  else
    trimMod s fun t => { t with
      rxPart := Tbl.write (fun _ => []) t.rxPart peer [], rx := t.rx ++ [(BitVec.ofNat 8 peer, recOf have_)] }

/-- TRIMX: a record arrives whole and waits for the sweep start that applies it. One that comes before this chip's
RUN waits for the run (R315, R316; log 181). -/
def execTrimx (peer : ChipId) (rec_ : Bytes) (s : State) : Host.Outcome State Fault Refusal :=
  if trimUp s then
    .next (trimMod s fun t => { t with rx := t.rx ++ [(BitVec.ofNat 8 peer.val, recOf rec_)] })
  else .next s

/-! ## Runs (R309 to R319, R323 to R326) -/

/-- Journal bytes up to the first record whose CRC fails or whose KIND is invalid (R323). -/
def journalRecs (jrun : Nat) : Nat → Bytes → List TrimRec
  | 0, _ => []
  | k + 1, b =>
    let r := recOf b
    let len := 16 + (payloadLen r.kind r.n + 15) / 16 * 16
    if b.length < len ∨ r.kind < 1 ∨ 5 < r.kind ∨ recCrc jrun r ≠ fieldLE b 12 4 then []
    else r :: journalRecs jrun k (b.drop len)

/-- The state of a run at its start (R310, R313, R320). -/
def runStart (t : Trim) (replay : Bool) : Trim :=
  { t with
    status := tsRunning, cause := 0, step := 0, sweep := 0, jlen := if replay then t.jlen else 0, jfull := false,
    jrun := if replay then t.jrun else t.jrun + 1, replay := replay,
    rng := Vector.ofFn fun i : Fin 256 => laneSeed t.seed t.part (i.val / 16) (i.val % 16),
    spins := t.initSpins, seen := t.initSpins, last := t.initSpins, copies := [], phase := .between,
    stepSweeps := 0, steps := 0, recE := List.replicate 64 0, best := none, sent := Vector.replicate 8 0,
    applied := Vector.replicate 8 none, finals := Vector.replicate 8 false, finalSent := false,
    stopReq := none, ending := none, jrecs := [], jEnd := none, jLast := 0,
    runOf := if replay then t.runOf else t.jrun + 1 }

/-- Statuses that a run written to its end in the journal can have had. -/
def endStatuses : List (BitVec 4) := [tsDone, tsAborted, tsPeerTimeout, tsPeerLost, tsReclaimed, tsBusErr]

/-- The field N of the END record, which has no payload entries: free, by the run's status (log 79). -/
def endN (st : BitVec 4) : Nat := Config.freeOf .unspecified [12, 4, st.toNat] % 65536

/-- The status of the run that an END record closes, as far as its header tells it. -/
def endStatus (r : TrimRec) : BitVec 4 := (endStatuses.find? fun st => endN st == r.n).getD tsDone

/-- The START record; what the spec leaves open of its header is free (log 79). -/
def startRec (t : Trim) : TrimRec :=
  { kind := 1, part := BitVec.ofNat 8 t.part, n := Config.freeOf .unspecified [12, 1] % 65536,
    apply := Config.freeOf .unspecified [12, 2] % 2 ^ 32,
    src := BitVec.ofNat 32 (Config.freeOf .unspecified [12, 3]),
    payload := toLE 8 t.seed ++ toLE 4 t.jrun.toNat ++ toLE 1 t.part ++ toLE 1 t.nstep ++ [0, 0] }

/-- The END record: the sweep at whose start the run ended, the final E_part. -/
def endRec (t : Trim) (st : BitVec 4) : TrimRec :=
  { kind := 4, part := BitVec.ofNat 8 t.part, n := endN st,
    apply := t.sweep.toNat, src := BitVec.ofNat 32 (Config.freeOf .unspecified [12, 5]),
    payload := toLE 8 (wrapInt 64 t.energy.toInt) }

/-- RUN: the lanes are seeded, the run starts from INIT; a part of a split run sends its INIT records
(R310, R315). -/
def trimRun (s : State) : State :=
  let s := trimMod s fun t => runStart t false
  let s := journalPut s (startRec s.trim)
  if s.trim.split then sendAll s 5 0xFFFFFFFF else s

/-- REPLAY: the journal is read up to its first invalid record (R323, R324). A read that is refused ends it
there too (log 79). -/
def trimReplay (s : State) : State :=
  let t := s.trim
  let (r, s) := trimRead s t.journalA t.jsize
  let b := match r with
    | .ok b => if t.journalA = 0 then [] else b
    | .error _ => []
  let st := recOf b
  let jrun := fieldLE st.payload 8 4
  match journalRecs jrun (b.length + 1) b with
  | r0 :: rs =>
    if r0.kind = 1 ∧ fieldLE r0.payload 0 8 = t.seed ∧ fieldLE r0.payload 12 1 = t.part then
      let body := rs.takeWhile fun r => r.kind ≠ 4
      let lst := (r0 :: body).getLast?.getD r0
      trimMod s fun t => { runStart t true with
        jrecs := body, jEnd := rs.find? fun r => r.kind == 4, jLast := lst.apply, runOf := BitVec.ofNat 32 jrun }
    else trimMod s fun t => { t with status := tsInvalid, cause := 10 }
  | [] => trimMod s fun t => { t with status := tsInvalid, cause := 10 }

/-- Records of a replay are applied in the journal's order: INIT and XCHG at the start of their apply sweep, FINAL
before the final energy (R323). -/
def replayApply (s : State) (final : Bool) : State :=
  (s.trim.jrecs.filter fun r =>
      if final then r.kind == 3 else (r.kind == 2 || r.kind == 5) && r.apply == s.trim.sweep.toNat).foldl
    (fun u r => applyRec u r.part.toNat s.trim.sweep.toNat r) s

/-- What ends a replay at this sweep boundary: END of the run it repeats, or the journal's end without one, before
the apply sweep of its last record (R324). -/
def replayStop (t : Trim) : Option (BitVec 4) :=
  match t.jEnd with
  | some r => if r.apply ≤ t.sweep.toNat then some (endStatus r) else none
  | none => if t.jLast ≤ t.sweep.toNat then some tsReplayShort else none

/-- TRIM_SWEEP_START (R316, R323, R324). -/
def execTrimSweepStart (s : State) : Host.Outcome State Fault Refusal :=
  let t := s.trim
  if !(trimUp s && t.status == tsRunning && t.phase == .between && t.ending.isNone) then .next s
  else if t.replay then
    match replayStop t with
    | some st => .next (trimEnd (if st = tsReplayShort then s else replayApply s false) st)
    | none => .next (trimMod (replayApply s false) fun t => { t with phase := .sweep 0 })
  else if t.split then
    let s := applyAll s
    if staleOk s.trim then .next (trimMod s fun t => { t with phase := .sweep 0 })
    else
      let n := drawn s .cycles
      .next (afterDraw (trimMod s fun t => { t with
        xwait := BitVec.ofNat 64 (min (2 ^ 64 - 1) (t.xwait.toNat + n)) }))
  else .next (trimMod s fun t => { t with phase := .sweep 0 })

/-- E_part becomes TRM_ENERGY. -/
def Trim.noteEnergy (t : Trim) : Trim := { t with energy := BitVec.ofInt 48 t.ePart }

/-- The end of a schedule step: RECORD and BEST (R312, R313). -/
def Trim.stepEnd (t : Trim) : Trim :=
  let e := t.sched.getD t.steps 0
  let t := if scRecord e || scBest e then t.noteEnergy else t
  let t := if scRecord e then { t with recE := t.recE.set t.steps (BitVec.ofInt 64 t.energy.toInt) } else t
  let t := if scBest e && (match t.best with
      | none => true
      | some b => decide (t.energy.toInt < b.2.1)) then
      { t with best := some (t.steps, t.energy.toInt, t.spins) } else t
  { t with steps := t.steps + 1, stepSweeps := 0, step := if t.steps + 1 < t.nstep then t.steps + 1 else t.steps }

/-- Fields of the result area, each at its offset; a write that is refused ends the run (ch. 09 Corners). -/
def writeFields (s : State) : List (Nat × Bytes) → State
  | [] => s
  | (o, b) :: rest =>
    match seqWrite s trimInit none (s.trim.resultA + o) b with
    | (some _, u) => trimEnd u tsBusErr
    | (none, u) => writeFields u rest

/-- The best fields of the result area take the step's state and energy where the step is the new best (R313). -/
def writeBest (was : Option (Nat × Int × BitVec 4096)) (s : State) : State :=
  match s.trim.best with
  | some (k, e, m) =>
    if was = s.trim.best then s
    else writeFields s [(0x003, toLE 1 k), (0x010, toLE 8 (wrapInt 64 e)), (0x440, toLE 512 m.toNat)]
  | none => s

/-- TRIM_SWEEP_END (R309, R312, R313, R315). -/
def execTrimSweepEnd (s : State) : Host.Outcome State Fault Refusal :=
  let t := s.trim
  if !(trimUp s && t.status == tsRunning && t.phase == .sweep 16) then .next s
  else
    let m := t.sweep
    let s := trimMod s fun t =>
      let t := { t with last := t.spins, sweep := t.sweep + 1, stepSweeps := t.stepSweeps + 1 }
      let t := if t.stepSweeps = scSweeps (t.sched.getD t.steps 0) then t.stepEnd else t
      { t with phase := if t.steps = t.nstep then .final else .between }
    let s := writeBest t.best s
    let s := if t.split ∧ ¬ t.replay ∧ (m.toNat + 1) % t.xp = 0 then sendAll s 2 m else s
    match s.trim.stopReq with
    | some st => .next (trimEnd s st)
    | none => .next s

/-- A FINAL record of a peer that is to be applied. -/
def finalRec (t : Trim) (p : Nat) : Option (Byte × TrimRec) :=
  t.rx.find? fun e => e.1.toNat == t.peer p && e.2.kind == 3

/-- FINAL records that have arrived are applied, in the order of PEERS. A peer's exchange records that no sweep has
taken are of no more use (log 181). -/
def applyFinals (s : State) : State :=
  (List.range s.trim.npeer).foldl (fun u p =>
    match finalRec u.trim p with
    | some e =>
      applyRec (trimMod u fun t => { t with
        rx := (t.rx.erase e).filter fun x => !(x.1 == e.1 && x.2.kind == 2), finals := vput t.finals (Fin.ofNat 8 p) true }) (u.trim.peer p) u.trim.sweep.toNat e.2
    | none => u) s

def finalsIn (t : Trim) : Bool := (List.range t.npeer).all fun p => t.finals.get (Fin.ofNat 8 p)

/-- The final energy, and the run is over. -/
def runDone (s : State) (st : BitVec 4) : State := trimEnd (trimMod s Trim.noteEnergy) st

/-- TRIM_FINAL (R318, R323, R324). -/
def execTrimFinal (s : State) : Host.Outcome State Fault Refusal :=
  let t := s.trim
  if !(trimUp s && t.status == tsRunning && t.phase == .final && t.ending.isNone) then .next s
  else if t.replay then
    match t.jEnd with
    | none => .next (trimEnd s tsReplayShort)
    | some r => .next (runDone (replayApply s true) (endStatus r))
  else if t.split then
    let s := if t.finalSent then s
      else trimMod (sendAll s 3 t.sweep) fun t => { t with finalSent := true }
    let s := applyFinals s
    if finalsIn s.trim then .next (runDone s tsDone)
    else
      let n := drawn s .cycles
      .next (afterDraw (trimMod s fun t => { t with
        xwait := BitVec.ofNat 64 (min (2 ^ 64 - 1) (t.xwait.toNat + n)) }))
  else .next (runDone s tsDone)

/-- TRIM_PEER_TIMEOUT: a wait lasted XWAIT_US; a record that arrived is applied first (R317, R66). -/
def execTrimPeerTimeout (s : State) : Host.Outcome State Fault Refusal :=
  let t := s.trim
  if !(trimUp s && t.status == tsRunning && t.split && !t.replay && t.ending.isNone) then .next s
  else
    match t.phase with
    | .between =>
      let s := applyAll s
      .next (if staleOk s.trim then s else trimEnd s tsPeerTimeout)
    | .final =>
      let s := applyFinals s
      .next (if finalsIn s.trim || !s.trim.finalSent then s else trimEnd s tsPeerTimeout)
    | _ => .next s

/-- What decides a run's result area: the loaded problem and what the run came to; for a part of a split run, which
is not repeatable live, also which run it was (R311, R316, R324). -/
def Trim.runKey (t : Trim) (st : BitVec 4) : List Nat :=
  [10, st.toNat, t.sweep.toNat, t.spins.toNat, t.energy.toNat, if t.split then t.runOf.toNat else 0,
      t.initSpins.toNat, t.clamp.toNat]
    ++ ((t.prob.getD []).take 0x10).map BitVec.toNat
    ++ t.dense.flatMap (fun e => [e.1, e.2.toNat]) ++ t.bias.flatMap (fun e => [e.1, e.2.toNat])
    ++ t.sparse.map BitVec.toNat ++ t.sched.map BitVec.toNat ++ t.perm.map BitVec.toNat
    ++ t.copies.map (fun e => 2 * e.1 + b2n e.2)

/-- The result area (Table 9-2). Its cycle count, and its best fields where no step was a best one, are free, the same
for the same run (R311, R324; log 83). -/
def resultArea (t : Trim) (st : BitVec 4) : Bytes :=
  let fr := fun k => Config.freeOf .unspecified (k :: t.runKey st)
  let cycles := Config.freeOf .cycles (t.runKey st) % 2 ^ 64
  let (bs, be, bm) := match t.best with
    | some (k, e, m) => (k, wrapInt 64 e, m.toNat)
    | none => (fr 0 % 256, fr 1 % 2 ^ 64, fr 2)
  toLE 1 st.toNat ++ toLE 1 (b2n t.jfull + 2 * b2n t.split) ++ toLE 1 t.steps ++ toLE 1 bs
    ++ toLE 4 t.sweep.toNat ++ toLE 8 (wrapInt 64 t.energy.toInt) ++ toLE 8 be ++ toLE 8 cycles
    ++ List.replicate 32 0 ++ (t.recE.flatMap fun e => toLE 8 e.toNat)
    ++ toLE 512 t.spins.toNat ++ toLE 512 bm

/-- The Trim interrupt to the Mast cores is source 5 (Table 10-14, log 62). -/
def mastEvent (s : State) (n : Nat) : State := { s with mast.events := s.mast.events ||| (1#16 <<< n) }

/-- A run counts in 0x4203: a replay, a run completed, or one ended abnormally. -/
def runCounted (s : State) (st : BitVec 4) : State :=
  trimMod s fun t => { t with
    stats := vmod t.stats (if t.replay then 2 else if st = tsDone then 0 else 1) (· + 1) }

/-- A run that ended gives its results: the state of the last completed sweep where the run was cut off, the END
record, the result area, then the status, the report of an abnormal end, and the interrupt (R314, R319, R320, R327). -/
def writeResults (s : State) (st : BitVec 4) : State :=
  let s := if st = tsPeerTimeout ∨ st = tsPeerLost ∨ st = tsBusErr then trimMod s fun t => { t with spins := t.last } else s
  let s := trimMod s Trim.noteEnergy
  let s := journalPut s (endRec s.trim st)
  let st := if s.trim.ending = some tsBusErr then tsBusErr else st
  let (e, s) := seqWrite s trimInit none s.trim.resultA (resultArea s.trim st)
  let st := if e.isSome then tsBusErr else st
  let s := runCounted s st
  let s := trimMod s fun t => { t with
    status := st, ending := none, stopReq := none,
    rx := if st = tsDone ∨ t.replay then t.rx else [], rxPart := if st = tsDone ∨ t.replay then t.rxPart else [] }
  let s := if st = tsPeerTimeout ∨ st = tsPeerLost ∨ st = tsBusErr then
      reportFault s 0x18 3 (st.setWidth 16) 0 else s
  if s.trim.irqEn then mastEvent s 5 else s

/-- TRIM_RUN_END (R314). -/
def execTrimRunEnd (s : State) : Host.Outcome State Fault Refusal :=
  match s.trim.ending with
  | some st => if trimUp s && s.trim.status == tsRunning then .next (writeResults s st) else .next s
  | none => .next s

/-- ABORT (R325): a load becomes INVALID; a run ends at the next sweep boundary; after its last sweep the
command is ignored and sets CMD_ERR (ch. 09 Corners). -/
def trimAbort (s : State) : State :=
  let t := s.trim
  if t.status = tsLoading then trimMod s fun t => { t with status := tsInvalid, cause := 11 }
  else
    match t.phase with
    | .sweep _ => trimMod s fun t => { t with stopReq := some tsAborted }
    | .between => trimEnd s tsAborted
    | .final => trimMod s fun t => { t with cmdErr := true }

/-- A command is allowed in the current status (Table 9-4). -/
def trimAllowed (t : Trim) (fn : Nat) : Bool :=
  match fn with
  | 0 => t.status != tsLoading && t.status != tsRunning
  | 1 => t.status == tsReady || t.status == tsDone || t.status == tsAborted || t.status == tsReplayShort
  | 2 => t.status == tsReady || t.status == tsDone || t.status == tsAborted || t.status == tsReplayShort
  | 3 => t.status == tsLoading || t.status == tsRunning
  | _ => false

/-- Functions 0 to 3 of Table 9-4; one that is not allowed sets CMD_ERR, in FENCED too (R325). -/
def trimCmd (s : State) (fn a : Nat) : State :=
  if !domRuns s 10 then s
  else if !trimAllowed s.trim fn then trimMod s fun t => { t with cmdErr := true }
  else
    match fn with
    | 0 => trimLoad s a
    | 1 => trimRun s
    | 2 => trimReplay s
    | _ => trimAbort s

/-- TRIM_RECLAIM_STOP (R326). -/
def execTrimReclaimStop (s : State) : Host.Outcome State Fault Refusal :=
  if !(trimUp s && (domOf s 10).reclaim.isSome) then .next s
  else if s.trim.status = tsLoading then .next (trimMod s fun t => { t with status := tsInvalid, cause := 12 })
  else if s.trim.status = tsRunning then
    match s.trim.phase with
    | .sweep _ => .next (trimMod s fun t => { t with stopReq := some tsReclaimed })
    | _ => .next (writeResults s (s.trim.ending.getD tsReclaimed))
  else .next s

/-- TRIM_UNCORRECTABLE (R327). -/
def execTrimUncorrectable (s : State) : Host.Outcome State Fault Refusal :=
  if trimUp s then
    .next (trimMod (reportFault s 0x18 1 1 0) fun t => { t with status := tsFenced, ending := none, stopReq := none })
  else .next s

/-- A peer is lost, or the chip is fabric-orphan (peer none): a split run ends (R319). -/
def trimPeerLost (s : State) (peer : Option ChipId) : State :=
  let t := s.trim
  let hit := match peer with
    | none => true
    | some c => (List.range t.npeer).any fun p => t.peer p == c.val
  if t.status == tsRunning && t.split && !t.replay && hit then
    trimEnd (trimMod s fun t => { t with spins := t.last, seen := t.last, phase := if t.phase = .final then .final else .between }) tsPeerLost
  else s

/-! ## Registers (Table 9-9) -/

def trmStat (t : Trim) : Nat :=
  t.status.toNat + 16 * b2n t.cmdErr + 32 * b2n t.jfull + 2 ^ 8 * t.cause.toNat + 2 ^ 16 * (t.step % 64)

def trmRead (s : State) (off : Nat) : Nat :=
  let t := s.trim
  match off with
  | 0x008 => bits t.descA.toNat 0 32
  | 0x00C => bits t.descA.toNat 32 16
  | 0x010 => trmStat t
  | 0x018 => t.sweep.toNat
  | 0x020 => bits t.energy.toNat 0 32
  | 0x024 => bits t.energy.toNat 32 16
  | 0x028 => t.jlen.toNat
  | 0x02C => t.jrun.toNat
  | 0x030 => b2n t.irqEn
  | 0x100 => bits t.cyc.toNat 0 32
  | 0x104 => bits t.cyc.toNat 32 32
  | 0x108 => bits t.flips.toNat 0 32
  | 0x10C => bits t.flips.toNat 32 32
  | 0x110 => bits t.xwait.toNat 0 32
  | 0x114 => bits t.xwait.toNat 32 32
  | 0x118 => t.xrec.toNat
  | _ => 0

def trmWrite (s : State) (off : Nat) (v : W32) : State :=
  let t := s.trim
  let busy := t.status == tsLoading || t.status == tsRunning
  match off with
  | 0x000 => trimCmd s (bits v.toNat 0 3) t.descA.toNat
  | 0x008 => if busy then s else trimMod s fun t => { t with descA := set48 t.descA false v }
  | 0x00C => if busy then s else trimMod s fun t => { t with descA := set48 t.descA true v }
  | 0x010 => trimMod s fun t => { t with cmdErr := t.cmdErr && !v.getLsbD 4 }
  | 0x030 => trimMod s fun t => { t with irqEn := v.getLsbD 0 }
  | _ => s

end Sys2Proof.Machine
end

