-- ==== Sys2Proof/Machine/Reef.lean ====
section
/-!
DEFINITION. The Reef controller: costs, requests, the arbiter cycle, reclaim, ordered reclaim, rails,
budget and derating (R464 to R482).
-/

namespace Sys2Proof.Machine

/-! ## States and costs (Table 13-1) -/

def PState.code : PState → Nat
  | .off => 0 | .ret => 1 | .gated => 2 | .thr => 3 | .run => 4

def pstateOf : Nat → Option PState
  | 0 => some .off | 1 => some .ret | 2 => some .gated | 3 => some .thr | 4 => some .run | _ => none

def GClass.code : GClass → Nat
  | .bulk => 0 | .work => 1 | .phase => 2 | .control => 3

/-- Cost of a state of a domain, none when the domain does not have it. -/
def stateCost (d : DomId) (st : PState) : Option Nat :=
  match d.val, st with
  | 11, .run => some 24
  | 17, .run => some 16
  | 11, _ => none
  | 17, _ => none
  | _, .off => some 0
  | 8, .gated => some 1 | 8, .thr => some 6 | 8, .run => some 10
  | 9, .gated => some 3 | 9, .thr => some 14 | 9, .run => some 24
  | 10, .gated => some 2 | 10, .thr => some 18 | 10, .run => some 32
  | 12, .run => some 28
  | 13, .run => some 16
  | 14, .ret => some 3 | 14, .run => some 40
  | 15, .run => some 24
  | 16, .run => some 24
  | n, .gated => if n < 8 then some 4 else none
  | n, .thr => if n < 8 then some 22 else none
  | n, .run => if n < 8 then some 40 else none
  | _, _ => none

/-- The two cores of a pair. -/
def pairCores (d : DomId) : List CoreId := if d.val < 8 then [Fin.ofNat 16 (2 * d.val), Fin.ofNat 16 (2 * d.val + 1)] else []

def fencedCores (s : State) (d : DomId) : Nat := ((pairCores d).filter fun c => unitFenced s c.val).length

/-- Cost as it is charged: a fenced core's half of the THR or RUN cost of its pair is not (R475). -/
def costOf (s : State) (d : DomId) (st : PState) : Nat :=
  let c := (stateCost d st).getD 0
  match st with
  | .thr => if d.val < 8 then c - c / 2 * fencedCores s d else c
  | .run => if d.val < 8 then c - c / 2 * fencedCores s d else c
  | _ => c

def domMod (s : State) (d : DomId) (f : DomRec → DomRec) : State :=
  { s with reef.doms := vmod s.reef.doms d f }

def allDoms : List DomId := List.ofFn fun i : Fin 18 => i

def granted (s : State) : Nat := (allDoms.map fun d => (domOf s d).units).foldl (· + ·) 0

/-- Rails of Table 13-4: 0 VDD_SP, 1 VDD_SOC, 2 VDD_SHL. -/
def railOf (d : DomId) : Nat := if d.val ≤ 10 then 0 else if d.val = 15 ∨ d.val = 16 then 2 else 1

def railLimit (s : State) (r : Nat) : Nat := if r = 0 then s.reef.railSp else if r = 1 then s.reef.railSoc else s.reef.railShl

def railSum (s : State) (r : Nat) : Nat :=
  ((allDoms.filter fun d => railOf d == r).map fun d => (domOf s d).units).foldl (· + ·) 0

/-- A domain of the rail is being brought up from OFF (R478). -/
def railRising (s : State) (r : Nat) : Bool :=
  allDoms.any fun d => railOf d == r && (domOf s d).waking && (domOf s d).fromOff

/-- The domain is granted in a state above OFF. -/
def domGranted (s : State) (d : DomId) : Bool := (domOf s d).state != .off

/-- A pinned grant: RUN in class PHASE; it ends with the cycle of its reclaim (R476, ch. 13 Corners). -/
def pinned (s : State) (d : DomId) : Bool :=
  (domOf s d).state == .run && (domOf s d).cls == .phase && (domOf s d).reclaim.isNone

def pinnedSum (s : State) : Nat := ((allDoms.filter (pinned s)).map fun d => (domOf s d).units).foldl (· + ·) 0

/-- Domains that need PD12 (R42). -/
def needs12 (d : DomId) : Bool := decide (d.val ≤ 10) || d == 13 || d == 14

/-- PD12 may go OFF (R42). -/
def may12Off (s : State) : Bool :=
  (allDoms.filter fun d => decide (d.val ≤ 10) || d == 13).all (fun d => !domGranted s d) &&
    ((domOf s 14).state == .off || (domOf s 14).state == .ret)

/-! ## Power (R388, R450, R465, Table 13-2) -/

/-- A core as it comes up: reset, fenced if its fence stands; its counters and SAT_UNSURE clear on a data-plane
reset and on SP_CNTCLR.ALL only (R206, R207). -/
def coreDown (s : State) (c : CoreId) : State :=
  let s := { s with mem := memClear s.mem (dtcmBase c.val) (dtcmBase c.val + 0x200000) }
  coreMod s c fun x => { SparCore.reset with
    state := if unitFenced s c.val then 3 else 0, cnt64 := x.cnt64, cnt32 := x.cnt32, satUnsure := x.satUnsure }

/-- DRAM contents and its configuration are gone (R529, Table 11-14). -/
def dramDown (s : State) : State :=
  { s with mem := memClear s.mem dramBase loftBase, ddr.ready := false, ddr.busy := false, ddr.exiting := false }

/-- Contents are lost when a domain goes OFF; counters and SAT_UNSURE bits that a data-plane reset alone clears stay
(R206, R207, Tables 6-8, 6-9). -/
def powerOff (s : State) (d : DomId) : State :=
  match d.val with
  | 8 => { s with ee := { Ee.reset with
      state := if unitFenced s 0x10 then 3 else 0, satUnsure := s.ee.satUnsure, cyc := s.ee.cyc, macAct := s.ee.macAct,
      desc := s.ee.desc } }
  | 9 => { s with cap := Cap.reset, tw := Vector.ofFn fun i : Fin 6 => if i.val < 2 then s.tw.get i else { TwPort.reset with cond := (s.tw.get i).cond } }
  | 10 => { s with trim := { Trim.reset with
      status := if unitFenced s 0x18 then tsFenced else 0, cyc := s.trim.cyc, flips := s.trim.flips,
      xwait := s.trim.xwait, xrec := s.trim.xrec, stats := s.trim.stats } }
  | 12 => { s with mem := memClear s.mem loftBase (loftBase + loftHalf), csc := Csc.reset }
  | 13 => { s with mem := memClear s.mem (loftBase + loftHalf) (loftBase + loftSize) }
  | 14 => dramDown s
  | 15 => { s with shl := Vector.ofFn fun i : Fin 8 => if i.val < 4 then ShlPort.reset else s.shl.get i }
  | 16 => { s with shl := Vector.ofFn fun i : Fin 8 => if i.val < 4 then s.shl.get i else ShlPort.reset }
  | _ => (pairCores d).foldl coreDown s

/-- PHT_RDY bits of a domain's cores clear when its pinned grant ends (R70, R476). -/
def clearRdy (s : State) (cs : List CoreId) : State :=
  { s with pht.rdy := cs.foldl (fun r c => r &&& ~~~(1#16 <<< c.val)) s.pht.rdy }

/-- A domain enters a state with its units; what it loses there is lost. -/
def enterState (s : State) (d : DomId) (st : PState) : State :=
  let u := costOf s d st
  let was := pinned s d
  let s := domMod s d fun r => { r with state := st, units := u, reclaim := none, waking := false, fromOff := false }
  let s := if was && !pinned s d then clearRdy s (pairCores d) else s
  if st = .off then powerOff s d else s

/-- A domain enters a state, and the units it gives up are in transit (R472). -/
def enterFree (s : State) (d : DomId) (st : PState) : State :=
  let u := (domOf s d).units
  let t := enterState s d st
  { t with reef.transit := t.reef.transit + ((u : Int) - (domOf t d).units) }

/-! ## Reclaim (R473 to R477) -/

/-- Reclaim is asserted toward a lower state; the CSC recalls a pair's courses first (R286). -/
def assertReclaim (s : State) (d : DomId) (target : PState) : State :=
  let was := pinned s d
  let s := domMod s d fun r => { r with reclaim := some target }
  let s := if was then clearRdy s (pairCores d) else s
  (pairCores d).foldl (fun t c => recallCore (returnPre t c false) c true) s

/-- Units a reclaim in progress will free. -/
def reclaimDelta (s : State) (d : DomId) : Nat :=
  match (domOf s d).reclaim with
  | some t => (domOf s d).units - costOf s d t
  | none => 0

/-- Units still to be found for a deficit: what is being reclaimed or in transit counts (R477). -/
def shortfall (s : State) : Int :=
  -s.reef.free - s.reef.transit - ((allDoms.map (reclaimDelta s)).foldl (· + ·) 0 : Nat)

/-- One step of the ordered reclaim: highest-numbered domain first, until the shortfall is covered. -/
def reclaimStep (s : State) (pick : State → DomId → Option PState) : State :=
  allDoms.reverse.foldl (fun t d =>
    if shortfall t ≤ 0 then t
    else
      match pick t d with
      | some st =>
        if costOf t d st < (match (domOf t d).reclaim with
            | some r => costOf t d r
            | none => (domOf t d).units) then assertReclaim t d st else t
      | none => t) s

/-- The state a domain is on its way to. -/
def headedTo (r : DomRec) : PState := r.reclaim.getD r.state

/-- Grants of a class that go to their floor; PD12 has a step of its own. -/
def toFloor (c : GClass) (s : State) (d : DomId) : Option PState :=
  let r := domOf s d
  if r.cls = c ∧ d ≠ 12 ∧ r.floor.code < (headedTo r).code then some r.floor else none

/-- The domains with pinned grants, as the mask of EMCY 0xFF70. -/
def pinnedMask (s : State) : Nat := (allDoms.filter (pinned s)).foldl (fun m d => m + 2 ^ d.val) 0

/-- The ordered reclaim of R477. -/
def orderedReclaim (s : State) : State :=
  if s.reef.free ≥ 0 then s
  else
    let s := reclaimStep s (toFloor .bulk)
    let s := reclaimStep s fun t d =>
      let r := domOf t d
      if r.cls = .work ∧ r.state = .run ∧ r.reclaim = none ∧ (stateCost d .thr).isSome ∧ r.floor.code ≤ 3 then some .thr else none
    let s := reclaimStep s (toFloor .work)
    let s := if 0 < shortfall s ∧ ¬ s.reef.cut70 then
        raiseEmcy { s with reef.cut70 := true } 0xFF70 0x80 (toLE 2 (pinnedMask s)) else s
    let s := reclaimStep s (toFloor .phase)
    let s := reclaimStep s fun t d => if d.val ≤ 10 ∧ headedTo (domOf t d) = .gated then some .off else none
    reclaimStep s fun t d => if d = 12 ∧ may12Off t ∧ domGranted t 12 then some .off else none

/-- Thermal critical: every data-plane grant is reclaimed to OFF, PD14 to RET (R480). -/
def criticalReclaim (s : State) : State :=
  allDoms.foldl (fun t d =>
    let target : PState := if d = 14 then .ret else .off
    if (domOf t d).cls ≠ .control ∧ target.code < (headedTo (domOf t d)).code then assertReclaim t d target else t) s

/-- A budget or derating change is applied, and a deficit selects reclaims (R471). -/
def arbApply (s : State) : State :=
  let r := s.reef
  let free := r.free + ((r.effNext : Int) - r.eff)
  let s := { s with reef.free := free, reef.eff := r.effNext,
                    reef.deficits := if 0 ≤ r.free ∧ free < 0 then r.deficits + 1 else r.deficits }
  let s := orderedReclaim s
  if s.reef.critical then criticalReclaim s else s

/-- No access of the chip over the Shroud ports of a domain is pending. -/
def portsQuiet (s : State) (d : DomId) : Bool :=
  s.fab.remotes.isEmpty && (List.ofFn fun p : Fin 8 => p).all fun p => decide (shlDom p ≠ d) || (s.shl.get p).txq.isEmpty

/-- The domain may go down: its unit is at its safe point (R473). -/
def atSafePoint (s : State) (d : DomId) : Bool :=
  match d.val with
  | 8 => s.ee.running.isNone
  | 10 => s.trim.status != tsRunning && s.trim.status != tsLoading
  | 14 => !s.ddr.busy
  | 15 => portsQuiet s d
  | 16 => portsQuiet s d
  | _ => (pairCores d).all fun c => (coreOf s c).cur.isNone && (coreOf s c).recallTo.isNone

/-- PD12 goes OFF only once every domain that depends on it is down (R42). -/
def mayLeave (s : State) (d : DomId) (st : PState) : Bool := decide (d ≠ 12) || decide (st ≠ .off) || may12Off s

/-- REEF_RECLAIM_ACK: the domain enters its new state, its units move to transit; then a budget change of the
same cycle applies (R471, R473). -/
def execReefReclaimAck (d : DomId) (s : State) : Host.Outcome State Fault Refusal :=
  match (domOf s d).reclaim with
  | some st =>
    if mgcUp s && atSafePoint s d && mayLeave s d st then
      let s := enterFree s d st
      .next (arbApply { s with reef.reclaims := s.reef.reclaims + 1 })
    else .next s
  | none => .next s

/-- REEF_TRANSIT_RETURN: the first step of an arbiter cycle (R471, R472). -/
def execReefTransitReturn (s : State) : Host.Outcome State Fault Refusal :=
  if mgcUp s then
    .next (arbApply { s with reef.free := s.reef.free + s.reef.transit, reef.transit := 0 })
  else .next s

/-- REEF_RECLAIM_TIMEOUT: the domain is forced OFF, all its units into transit (R474). -/
def execReefReclaimTimeout (d : DomId) (s : State) : Host.Outcome State Fault Refusal :=
  if mgcUp s && (domOf s d).reclaim.isSome && mayLeave s d .off then
    let s := enterFree s d .off
    let s := { s with reef.forcedOff := s.reef.forcedOff + 1 }
    .next (raiseEmcy s 0xFF72 0x80 [BitVec.ofNat 8 d.val])
  else .next s

/-- A fenced core's share is reclaimed without an acknowledgement; with both cores fenced the pair goes OFF
(R475, R476). -/
def reefFence (s : State) (c : CoreId) : State :=
  let d := sparDom c
  let r := domOf s d
  let s := clearRdy s [c]
  let live := r.state = .thr ∨ r.state = .run
  if fencedCores s d = 2 then enterFree s d .off
  else
    let u := if live then costOf s d r.state else r.units
    let t := domMod s d fun r => { r with units := u }
    { t with reef.transit := t.reef.transit + ((r.units : Int) - u) }

/-! ## Grants (R468 to R472, R478) -/

/-- REEF_RSP statuses (R466). -/
def rrGranted : Nat := 0
def rrNoUnits : Nat := 1
def rrRail : Nat := 2
def rrTimeout : Nat := 3
def rrRefused : Nat := 4
def rrDependency : Nat := 5
def rrSuperseded : Nat := 6

def reefRsp (s : State) (d : Nat) (status : Nat) (tag : W16) : State :=
  let u := if d < 18 then (domOf s (Fin.ofNat 18 d)).units else 0
  let s := if status = 0 ∨ status = rrTimeout ∨ status = rrSuperseded then s
    else { s with reef.refusals := s.reef.refusals + 1 }
  m2cSend s { kind := 0x85, tag := tag, payload := toLE 1 d ++ toLE 1 status ++ toLE 2 u ++ toLE 2 (wrapInt 16 s.reef.free) }

/-- The rail refuses a raise: over its limit, or another domain of it is being brought up from OFF. -/
def railRefuses (s : State) (w : ReefWait) : Bool :=
  let r := domOf s w.dom
  let rl := railOf w.dom
  decide (railLimit s rl < railSum s rl + (costOf s w.dom w.target - r.units))
    || (r.state == .off && w.target != .off && railRising s rl)

/-- PERT kind 7 holds a domain's grants back (R541). -/
def grantHeld (s : State) (w : ReefWait) : Bool :=
  let p := s.pert.params.get 7
  s.pert.active.get 7 && bitOf (fieldLE p 4 3) w.dom.val &&
    (match w.fitAt with
     | none => true
     | some t => decide (s.pht.cycles < t + 16 * fieldLE p 8 2))

/-- The TAG of the request whose answer follows; one that has not been answered yet is answered SUPERSEDED
(log 132). -/
def takeTag (s : State) (d : DomId) (tag : W16) : State :=
  let s := match (domOf s d).rspTag with
    | some old => reefRsp s d.val rrSuperseded old
    | none => s
  domMod s d fun r => { r with rspTag := some tag }

/-- A request to a lower state: the reclaim exchange, and its answer after the acknowledgement (R468). -/
def lowerNow (s : State) (w : ReefWait) : State :=
  domMod (takeTag (assertReclaim s w.dom w.target) w.dom w.tag) w.dom fun r => { r with cls := w.cls }

/-- A raise is granted; the domain wakes, at once between THR and RUN. -/
def grantNow (s : State) (w : ReefWait) : State :=
  let r := domOf s w.dom
  let u := costOf s w.dom w.target
  let fast := r.state = .thr ∨ r.state = w.target
  let was := pinned s w.dom
  let s := domMod s w.dom fun r => { r with
    state := w.target, cls := w.cls, units := u, waking := !fast, fromOff := !fast && r.state == .off }
  let s := if w.auto then s else takeTag s w.dom w.tag
  let s := if was && !pinned s w.dom then clearRdy s (pairCores w.dom) else s
  let s := if w.dom = 14 ∧ r.state = .ret then { s with ddr.exiting := true } else s
  { s with reef.free := s.reef.free - ((u : Int) - r.units), reef.grants := s.reef.grants + 1 }

/-- The scan of waiting requests: by class, then age; those refused for rail, PD12, a reclaim in progress or
a perturbation are passed over; one that lacks units stops the scan. One that a reclaim has held up and that asks for
less than the domain then has is a release. -/
def grantScan : List ReefWait → State → State
  | [], s => s
  | w :: ws, s =>
    let gated := needs12 w.dom && decide (w.target ≠ .off) && (!domGranted s 12 || (domOf s 12).reclaim.isSome)
    if (domOf s w.dom).reclaim.isSome then grantScan ws s
    else if w.target.code < (domOf s w.dom).state.code then
      grantScan ws (lowerNow { s with reef.queue := s.reef.queue.erase w } w)
    else if railRefuses s w || gated then grantScan ws s
    else if s.reef.free < (costOf s w.dom w.target : Int) - (domOf s w.dom).units then s
    else if grantHeld s w then
      grantScan ws { s with reef.queue := s.reef.queue.map fun q =>
        if q = w ∧ q.fitAt = none then { q with fitAt := some s.pht.cycles } else q }
    else grantScan ws (grantNow { s with reef.queue := s.reef.queue.erase w } w)

/-- Auto requests of demand lines held for domains not in RUN (R470). -/
def autoRequests (s : State) : State :=
  (List.ofFn fun i : Fin 9 => i).foldl (fun t i =>
    let d : DomId := Fin.ofNat 18 i.val
    if t.reef.demand.get i && t.reef.autoMask.getLsbD i.val && !(domOf t d).superseded
        && (domOf t d).state != .run && !(t.reef.queue.any fun w => w.dom == d) && decide (t.reef.queue.length < 32) then
      { t with reef.queue := t.reef.queue ++ [{ dom := d, target := .run, cls := .bulk, tag := 0, auto := true, fitAt := none, once := false }] }
    else t) s

/-- Requests in the order of R471. -/
def byClass (q : List ReefWait) : List ReefWait :=
  (q.filter fun w => w.cls == .phase) ++ (q.filter fun w => w.cls == .work) ++ (q.filter fun w => w.cls == .bulk)

/-- A request with WAIT = 0 that has been examined and does not fit is answered (R468). -/
def answerOnce (s : State) : State :=
  (s.reef.queue.filter fun w => w.once && (domOf s w.dom).reclaim.isNone && (w.fitAt.isNone || !grantHeld s w)).foldl
    (fun t w => reefRsp { t with reef.queue := t.reef.queue.erase w } w.dom.val
      (if railRefuses t w then rrRail else rrNoUnits) w.tag) s

/-- The grant part of an arbiter cycle; none while a deficit stands (R472). -/
def arbGrant (s : State) : State :=
  let s := autoRequests s
  answerOnce (if s.reef.free < 0 then s else grantScan (byClass s.reef.queue) s)

/-- REEF_GRANT. -/
def execReefGrant (s : State) : Host.Outcome State Fault Refusal :=
  if mgcUp s then .next (arbGrant (arbApply s)) else .next s

/-- A waiting request of a domain is replaced: SUPERSEDED when it was firmware's (R470). -/
def dropWaiting (s : State) (d : DomId) : State :=
  let old := s.reef.queue.filter fun w => w.dom == d
  let s := { s with reef.queue := s.reef.queue.filter fun w => w.dom != d }
  old.foldl (fun t w => if w.auto then t else reefRsp t d.val rrSuperseded w.tag) s

/-- REEF_REQ (R466 to R470); during a data-plane reset the message waits (Table 15-4), and so does the request while
its domain is being reclaimed (ch. 13 Corners). -/
def execReefReq (s : State) : Host.Outcome State Fault Refusal :=
  if s.boot.dprActive then .next s else
  match takeMsg s 0x05 with
  | none => .next s
  | some (m, s) =>
    let dn := (byteAt m.payload 0).toNat
    let st := pstateOf (byteAt m.payload 1).toNat
    let cn := (byteAt m.payload 2).toNat
    let fl := (byteAt m.payload 3).toNat
    let d : DomId := Fin.ofNat 18 dn
    match st with
    | none => .next (reefRsp s dn rrRefused m.tag)
    | some st =>
      let cls : GClass := if cn = 0 then .bulk else if cn = 1 then .work else .phase
      let cost := costOf s d st
      if 16 < dn ∨ dn = 11 ∨ 2 < cn ∨ 1 < fl ∨ stateCost d st = none ∨ (cls = .phase ∧ st ≠ .run)
          ∨ (cls = .phase ∧ s.reef.pinmax.toNat < pinnedSum s - (if pinned s d then (domOf s d).units else 0) + cost)
        then .next (reefRsp s dn rrRefused m.tag)
      else if needs12 d ∧ st ≠ .off ∧ (domOf s d).state.code < st.code ∧ ¬ domGranted s 12 then
        .next (reefRsp s dn rrDependency m.tag)
      else if d = 12 ∧ st = .off ∧ domGranted s 12 ∧ ¬ may12Off s then .next (reefRsp s dn rrDependency m.tag)
      else
        let s := dropWaiting s d
        let auto := decide (d.val ≤ 8) && s.reef.autoMask.getLsbD d.val
        let atFloor := decide (st = (domOf s d).floor)
        let s := domMod s d fun r => { r with superseded := auto && !atFloor }
        let w : ReefWait :=
          { dom := d, target := st, cls := cls, tag := m.tag, auto := false, fitAt := none, once := !bitOf fl 0 }
        if (domOf s d).reclaim.isNone ∧ st.code < (domOf s d).state.code then .next (lowerNow s w)
        else if (domOf s d).reclaim.isSome ∨ bitOf fl 0 then
          if 32 ≤ s.reef.queue.length then .next (reefRsp s dn rrNoUnits m.tag)
          else .next { s with reef.queue := s.reef.queue ++ [w] }
        else .next (arbGrant { s with reef.queue := s.reef.queue ++ [w] })

/-- REEF_RSP: the answer, once the domain is ready or its reclaim acknowledged (R468). -/
def execReefRsp (d : DomId) (s : State) : Host.Outcome State Fault Refusal :=
  let r := domOf s d
  match r.rspTag with
  | some tag =>
    if mgcUp s && !r.waking && r.reclaim.isNone then
      .next (reefRsp (domMod s d fun r => { r with rspTag := none }) d.val rrGranted tag)
    else .next s
  | none => .next s

/-- REEF_DOMAIN_READY: the wake is over; TW2 to TW5 leave FAULT with a grant of PD9 from OFF (R450, R459). -/
def execReefDomainReady (d : DomId) (s : State) : Host.Outcome State Fault Refusal :=
  let r := domOf s d
  if mgcUp s && r.waking && !(d == 14 && s.ddr.exiting) then
    let t := domMod s d fun r => { r with waking := false, fromOff := false }
    if d = 9 ∧ r.fromOff then
      .next ([2, 3, 4, 5].foldl (fun (u : State) (n : TwId) =>
        clearStanding (clearStanding (twMod u n fun p => { p with cond := 0 }) 0xFF80 n.val) 0xFF82 n.val) t)
    else .next t
  else .next s

/-- REEF_GRANT_TIMEOUT (R469): a grant that has become possible is made instead. -/
def execReefGrantTimeout (d : DomId) (s : State) : Host.Outcome State Fault Refusal :=
  if !mgcUp s then .next s
  else
    let t := arbGrant (arbApply s)
    match t.reef.queue.find? fun w => w.dom == d && !w.auto with
    | some w => .next (reefRsp { t with reef.queue := t.reef.queue.erase w } d.val rrTimeout w.tag)
    | none => .next t

/-! ## Auto demand (R470) -/

/-- The CSC has a ready course for a domain's units and none of them available. -/
def demandHeld (s : State) (d : Fin 9) : Bool :=
  cscUp s &&
    (if d = 8 then (readyList s).any (fun e => match planGroup s e.1 e.2.1 with
        | some g => g.eaves
        | none => false) && !eeFree s
     else !(readyList s).isEmpty && (pairCores (Fin.ofNat 18 d.val)).all fun c => !coreFree s c)

/-- AUTO_DEMAND_RAISE. -/
def execAutoDemandRaise (d : Fin 9) (s : State) : Host.Outcome State Fault Refusal :=
  if mgcUp s && demandHeld s d && !s.reef.demand.get d then
    .next (autoRequests { s with reef.demand := vput s.reef.demand d true })
  else .next s

/-- AUTO_DEMAND_DROP. -/
def execAutoDemandDrop (d : Fin 9) (s : State) : Host.Outcome State Fault Refusal :=
  let p : DomId := Fin.ofNat 18 d.val
  let idle := if d = 8 then s.ee.cur.isNone else (pairCores p).all fun c => (coreOf s c).cur.isNone
  if mgcUp s && s.reef.demand.get d && idle then
    let s := { s with reef.demand := vput s.reef.demand d false,
                      reef.queue := s.reef.queue.filter fun w => !(w.auto && w.dom == p) }
    let r := domOf s p
    if s.reef.autoMask.getLsbD d.val && !r.superseded && r.cls == .bulk && decide (r.floor.code < r.state.code)
        && r.reclaim.isNone then
      .next (assertReclaim s p r.floor)
    else .next s
  else .next s

/-! ## Budget and derating (R479, R480) -/

/-- CONTROL grants and PD14 in RET. -/
def criticalEff (s : State) : Nat :=
  ((allDoms.filter fun d => (domOf s d).cls == .control).map fun d => (domOf s d).units).foldl (· + ·) 0 + 3

/-- The effective budget of R480 is to take effect in the next arbiter cycle. -/
def setEff (s : State) : State :=
  let r := s.reef
  let e := if r.critical then criticalEff s else max 64 (r.budget.toNat - 16 * r.level)
  if e = r.effNext then s else { s with reef.effNext := e, reef.cut70 := false }

/-- A write of BUDGET: 64 to 768 units. Answers an abort code, 0 for none. -/
def budgetWrite (v : Nat) (s : State) : Nat × State :=
  if v < 64 ∨ 768 < v then (abRange, s)
  else (0, notice (setEff { s with reef.budget := BitVec.ofNat 10 v }) noticeBudget [v])

/-- REEF_BUDGET_WRITE: a write of 0x2300:01. -/
def execReefBudgetWrite (w : Session) (v : W16) (s : State) : Host.Outcome State Fault Refusal :=
  objCmd s w 0x2300 1 (budgetWrite v.toNat)

/-- THERMAL_SAMPLE: the eight sensors in whole degrees. -/
def execThermalSample (temps : List Int) (s : State) : Host.Outcome State Fault Refusal :=
  if !mgcUp s || temps.length != 8 then .next s
  else
    let r := s.reef
    let tmax := temps.foldl max (temps.headD 0)
    let up := (tmax - r.tDerate).toNat
    let cool := decide (0 < r.level) && decide (tmax ≤ r.tDerate + r.level - 3)
    let (level, coolMs) :=
      if r.level < up then (up, 0)
      else if cool then (if r.coolMs + 1 = 100 then (r.level - 1, 0) else (r.level, r.coolMs + 1))
      else (r.level, 0)
    let crit := decide (r.tCrit ≤ tmax)
    let s := { s with reef.temps := temps, reef.tmax := tmax, reef.level := level, reef.coolMs := coolMs,
                      reef.critical := crit }
    let s := if 0 < level then raiseStanding s 0xFF71 0x80 0 [BitVec.ofInt 8 tmax] else clearStanding s 0xFF71 0
    let s := if crit then raiseStanding s 0xFF73 0x80 0 [] else clearStanding s 0xFF73 0
    .next (setEff s)

end Sys2Proof.Machine
end

