-- ==== Sys2Proof/Machine/Slot.lean ====
section
/-!
DEFINITION. Firing of the compare slots and what receives their events: the Spar cores' pending bits, the
CSC's release of held jobs, PHASE_OUT, and PHT_RDY (R36, R61 to R70, R75).
-/

namespace Sys2Proof.Machine

/-- The cores whose domain is powered: an event is sent to them (R36). -/
def poweredCores (s : State) : W16 :=
  allCores.foldl (fun (m : W16) c => if domUp s (sparDom c) then m ||| (1#16 <<< c.val) else m) 0

/-- A posted job asks to be held until slot n fires. -/
def heldBy (s : State) (q : QueueId) (i : BitVec 9) (n : PhtSlotId) : Bool :=
  let b := s.rd (slotAddr q i) 4
  bitOf (byteAt b 1).toNat 1 && bits (byteAt b 2).toNat 0 6 == n.val

/-- Indices posted and not yet taken, oldest first. -/
def waitingIdx (x : Queue) : List (BitVec 9) :=
  (List.range (x.post - x.taken).toNat).map fun k => x.taken + BitVec.ofNat 9 k

/-- The deadline that a firing of slot t at its TARGET, at network time nt, gives (R76; log 152). -/
def slotDeadline (t : PhtSlot) (nt : W64) : Deadline :=
  match t.dlMode with
  | 1 => .time (nt + t.dlNs.setWidth 64)
  | 2 => if h : t.src < 5 then .phase ⟨t.src, h⟩ (t.tgt + t.dlPh.setWidth 40) t.dlNs else .none
  | _ => .none

/-- The CSC notes the firing for every posted job held by the slot that has not been released (R75). -/
def releaseJobs (s : State) (n : PhtSlotId) (d : Deadline) : State :=
  { s with cleatB := Vector.ofFn fun q : Fin 8 =>
      let x := s.cleatB.get q
      { x with released := (waitingIdx x).foldl (fun l i =>
          if heldBy s q i n && !(l.any fun r => r.1 == i) then l ++ [(i, d)] else l) x.released } }

/-- A slot fires: FIRED and TARGET, PHASE_OUT, and its event toward every powered domain (R36, R62, R68), and the
polls that it triggers (R154). -/
def fireSlot (s : State) (n : PhtSlotId) (up fallback : Bool) : State :=
  let t := s.pht.slots.get n
  let nt := ntNow s.pht
  let u := { t.fire up fallback (s.pht.phaseOf t.src) with flying := t.flying ||| poweredCores s }
  let s := { s with pht.slots := vput s.pht.slots n u, pht.outs := s.pht.outs.map fun o => o.event n.val }
  let s := twSlotPolls s n.val
  if domUp s 12 then releaseJobs s n (slotDeadline t nt) else s

/-- SLOT_FIRE: the slot's source has crossed TARGET in its EDGE direction. -/
def execSlotFire (n : PhtSlotId) (s : State) : Host.Outcome State Fault Refusal :=
  let t := s.pht.slots.get n
  if phtUp s && t.arm then
    match t.hit with
    | some up => .next (fireSlot s n up false)
    | none => .next s
  else .next s

/-- A slot's source is not OK; NT always is. -/
def slotSourceLost (p : Pht) (t : PhtSlot) : Bool :=
  if h : t.src < 4 then (p.srcs.get ⟨t.src, h⟩).state != 0 else false

/-- SLOT_FALLBACK: FB_DELAY has passed without a crossing (R65, R66). TARGET of an UP or EITHER slot then moves up
by INC, that of a DOWN slot down (log 161). -/
def execSlotFallback (n : PhtSlotId) (s : State) : Host.Outcome State Fault Refusal :=
  let t := s.pht.slots.get n
  if phtUp s && t.arm && t.fbEn && t.hit.isNone && (!t.fbCond || slotSourceLost s.pht t) then
    .next (fireSlot s n (t.edge != 1) true)
  else .next s

/-- An event reaches a core: its pending bit is set, or PH_OVR counts it; a core that waits for the slot
restarts its issue clock (R69, R202). -/
def SparCore.event (x : SparCore) (n : PhtSlotId) : SparCore :=
  let y := if x.pend.getLsbD n.val then x.bump cPhOvr 1 else { x with pend := x.pend ||| (1#64 <<< n.val) }
  match y.wait with
  | .ph m iw due => { y with wait := .ph m iw (due || decide (m = n)) }
  | _ => y

/-- PHASE_EVENT_ARRIVE. -/
def execPhaseEventArrive (c : CoreId) (n : PhtSlotId) (s : State) : Host.Outcome State Fault Refusal :=
  let t := s.pht.slots.get n
  if phtUp s && t.flying.getLsbD c.val then
    let s := { s with pht.slots := vput s.pht.slots n { t with flying := t.flying &&& ~~~(1#16 <<< c.val) } }
    .next (if domUp s (sparDom c) then coreMod s c fun x => x.event n else s)
  else .next s

/-- PHT_RDY written: a bit is set only while its core's domain holds a pinned grant (R70). -/
def rdyWrite (s : State) (v : W32) : State :=
  { s with pht.rdy := allCores.foldl (fun (m : W16) c =>
      if v.getLsbD c.val && pinned s (sparDom c) && !unitFenced s c.val then m ||| (1#16 <<< c.val) else m) 0 }

/-- PHT_RDY_WRITE: a Mast hart writes PHT_RDY through CP2 (R37). -/
def execPhtRdyWrite (v : W32) (s : State) : Host.Outcome State Fault Refusal :=
  if phtUp s && ctlUp s then .next (rdyWrite s v) else .next s

/-- A write of a PHT register at its offset (Table 2-9). -/
def phtRegWrite (s : State) (off : Nat) (v : W32) : State :=
  if off = 0xD0 then rdyWrite s v else { s with pht := phtWrite s.pht off v }

/-- A read of a PHT register at its offset. -/
def phtRegRead (s : State) (off : Nat) : Nat × State :=
  let (v, p) := phtRead s.pht off
  (v, { s with pht := p })

end Sys2Proof.Machine
end

