-- ==== Sys2Proof/Machine/Bus.lean ====
section
/-!
DEFINITION. The register blocks of peripheral space and accesses to them: Cleats A, B and D, the Mast
register block, DDR, Shroud ports, fabric agent, PCIe endpoint and mailbox mirror, and the blocks of the
other chapters at their bases (R381, R382, Tables 1-11 to 1-17, 3-11, 10-17, 11-3, 11-14 to 11-17).
-/

namespace Sys2Proof.Machine

/-! ## Blocks -/

/-- A register block of peripheral space. -/
inductive Blk where
  | cleatA
  | cleatD
  | cleatB
  | mc
  | cap
  | csc
  | trim
  | ee
  | jdu
  | tw (n : TwId)
  | sp (c : CoreId)
  | ddr
  | loft
  | shl (p : ShlId)
  | fab
  | pcie
  | eth
  | io
  deriving DecidableEq, Repr

/-- The block an address lies in, and the offset there (Table 11-3; the spans are log 87). -/
def blkOf (a : Nat) : Option (Blk × Nat) :=
  let o := a - periBase
  if a < periBase ∨ mgmtBase ≤ a then none
  else if o < 0x10000 then some (.cleatA, o)
  else if o < 0x11000 then some (.cleatD, o - 0x10000)
  else if 0x40000 ≤ o ∧ o < 0x80000 then some (.cleatB, o - 0x40000)
  else if 0x100000 ≤ o ∧ o < 0x101000 then some (.mc, o - 0x100000)
  else if 0x200000 ≤ o ∧ o < 0x400000 then some (.cap, o - 0x200000)
  else if 0x400000 ≤ o ∧ o < 0x410000 then some (.csc, o - 0x400000)
  else if 0x410000 ≤ o ∧ o < 0x420000 then some (.trim, o - 0x410000)
  else if 0x420000 ≤ o ∧ o < 0x430000 then some (.ee, o - 0x420000)
  else if 0x430000 ≤ o ∧ o < 0x432000 then some (.jdu, o - 0x430000)
  else if 0x440000 ≤ o ∧ o < 0x444000 then some (.tw (Fin.ofNat 6 (2 + (o - 0x440000) / 0x1000)), o % 0x1000)
  else if 0x1000000 ≤ o ∧ o < 0x1100000 then some (.sp (Fin.ofNat 16 (o / 0x10000)), o % 0x10000)
  else if 0x2000000 ≤ o ∧ o < 0x2010000 then some (.ddr, o - 0x2000000)
  else if 0x2010000 ≤ o ∧ o < 0x2020000 then some (.loft, o - 0x2010000)
  else if 0x2100000 ≤ o ∧ o < 0x2108000 then some (.shl (Fin.ofNat 8 (o / 0x1000)), o % 0x1000)
  else if 0x2180000 ≤ o ∧ o < 0x2181000 then some (.fab, o - 0x2180000)
  else if 0x3000000 ≤ o ∧ o < 0x3010000 then some (.pcie, o - 0x3000000)
  else if 0x3010000 ≤ o ∧ o < 0x3030000 then some (.eth, o - 0x3010000)
  else if 0x3040000 ≤ o ∧ o < 0x3050000 then some (.io, o - 0x3040000)
  else none

/-- The domain that must be granted for a block to answer, none for those that always do. -/
def Blk.dom : Blk → Option DomId
  | .cleatA => none
  | .cleatD => none
  | .cleatB => some 11
  | .mc => some 11
  | .cap => some 9
  | .csc => some 12
  | .trim => some 10
  | .ee => some 8
  | .jdu => some 9
  | .tw _ => some 9
  | .sp c => some (sparDom c)
  | .ddr => some 14
  | .loft => some 12
  | .shl p => some (shlDom p)
  | .fab => some 15
  | .pcie => some 17
  | .eth => some 17
  | .io => some 11

/-- Who reaches a register. -/
inductive BusBy where
  | mast (h : HartId)
  | host
  | other
  deriving DecidableEq, Repr

def BusBy.owner : BusBy → Option (BitVec 2)
  | .mast h => some (BitVec.ofNat 2 h.val)
  | .host => some 2
  | .other => none

/-! ## Cleats A, B and D -/

def claRead (s : State) (off : Nat) : Nat :=
  match off with
  | 0x00 => s.cleatA.c2mWr.toNat
  | 0x04 => s.cleatA.c2mRd.toNat
  | 0x08 => s.cleatA.m2cWr.toNat
  | 0x0C => s.cleatA.m2cRd.toNat
  | 0x10 => claStat s.cleatA
  | _ => 0

def claWrite (s : State) (off : Nat) (v : W32) : State :=
  match off with
  | 0x00 => c2mIndexWrite s (v.extractLsb' 0 7)
  | 0x0C => m2cIndexWrite s (v.extractLsb' 0 7)
  | 0x10 => { s with cleatA.c2mFull := s.cleatA.c2mFull && !v.getLsbD 0,
                     cleatA.restart := s.cleatA.restart && !v.getLsbD 2 }
  | _ => s

def clbRead (s : State) (off : Nat) : Nat :=
  if 0x200 ≤ off then 0
  else
    let q := s.cleatB.get (Fin.ofNat 8 (off / 0x40))
    match off % 0x40 with
    | 0x00 => clbCfg q
    | 0x04 => q.post.toNat
    | 0x08 => q.done.toNat
    | 0x0C => q.read.toNat
    | 0x10 => clbStat q
    | _ => 0

/-- A write of a queue register; one who is no owner sets OWNER_ERR by writing POST (R24), and the host's
write of CFG is ignored (R398). -/
def clbWrite (s : State) (by_ : BusBy) (off : Nat) (v : W32) : State :=
  if 0x200 ≤ off then s
  else
    let f : Queue → Queue := match off % 0x40 with
      | 0x00 => if by_ = .host then id else fun q => q.writeCfg v
      | 0x04 => match by_.owner with
        | some c => fun q => q.writePost c (v.extractLsb' 0 9)
        | none => fun q => { q with ownerErr := true }
      | 0x0C => fun q => q.writeRead (v.extractLsb' 0 9)
      | 0x10 => fun q => q.writeStat v
      | _ => id
    { s with cleatB := vmod s.cleatB (Fin.ofNat 8 (off / 0x40)) f }

/-- Cleat D reads 0 before the lock (R33). -/
def cldRead (s : State) (off : Nat) : Nat :=
  if off = 0x40 then b2n s.cleatD.lock
  else if off < 0x40 ∧ s.cleatD.lock then fieldLE s.cleatD.snapshot off 4 else 0

/-! ## Mast register block (Table 10-17) -/

/-- The port that carries CP4 + k. -/
def attachPort (k : Fin 4) : ShlId := if Config.attachOn7 k then 7 else 6

/-- MC_CPXCFG.PRESENT bit k: fabric mode and an ACTIVE ATTACH link (R350, R401, log 86). -/
def cpxPresent (s : State) (k : Fin 4) : Bool :=
  let p := attachPort k
  fabricMode s && portUp s p && (match (s.shl.get p).partner with
    | some q => q.attach
    | none => false)

def cpxBits (s : State) : Nat :=
  [(0 : Fin 4), 1, 2, 3].foldl (fun (m : Nat) k => if cpxPresent s k then setBit m (4 + k.val) else m) 0

/-- MC_IPI: SV_IPEND bit 0 of the harts named is set. -/
def ipiWrite (s : State) (v : W32) : State :=
  { s with mast.harts := Vector.ofFn fun h : Fin 2 =>
      let x := s.mast.harts.get h
      { x with soft := x.soft || v.getLsbD h.val } }

/-- MC_CMO: CLEAN_ALL or FLUSH_ALL starts; a second one waits for BUSY to end, so it finds nothing to do (R377). -/
def cmoWrite (s : State) (v : W32) : State :=
  if s.mast.cmo.isSome then s
  else if v.getLsbD 1 then
    { s with mast.cmo := some true,
             mast.cache := s.mast.cache.map fun e => (e.1, e.2.map fun c => { c with held := false }) }
  else if v.getLsbD 0 then { s with mast.cmo := some false } else s

def mcRead (s : State) (off : Nat) : Nat × State :=
  match off with
  | 0x00 => (b2n s.mast.run1, s)
  | 0x10 => (s.mast.irqRoute.toNat, s)
  | 0x18 => (bits (s.mast.sterr.get 0).toNat 0 32, s)
  | 0x1C => (bits (s.mast.sterr.get 0).toNat 32 32, s)
  | 0x20 => (bits (s.mast.sterr.get 1).toNat 0 32, s)
  | 0x24 => (bits (s.mast.sterr.get 1).toNat 32 32, s)
  | 0x28 => (4 * b2n s.mast.cmo.isSome, s)
  | 0x30 => (cpxBits s, s)
  | 0x38 => (s.mast.eccL1.toNat + 2 ^ 16 * s.mast.eccL2.toNat, { s with mast.eccL1 := 0, mast.eccL2 := 0 })
  | _ => (0, s)

/-- VALID of a store-error record is cleared by writing 1 to it. -/
def sterrWrite (s : State) (h : HartId) (v : W32) : State :=
  if v.getLsbD 31 then { s with mast.sterr := vmod s.mast.sterr h fun e => e &&& ~~~(1#64 <<< 63) } else s

def mcWrite (s : State) (off : Nat) (v : W32) : State :=
  match off with
  | 0x00 => { s with mast.run1 := v.getLsbD 0 }
  | 0x08 => ipiWrite s v
  | 0x10 => { s with mast.irqRoute := v &&& 0x7FC }
  | 0x1C => sterrWrite s 0 v
  | 0x24 => sterrWrite s 1 v
  | 0x28 => cmoWrite s v
  | _ => s

/-! ## DDR, fabric agent, PCIe endpoint, mailbox -/

/-- DDR_CTL.INIT starts training (Table 11-14). -/
def ddrCtlWrite (s : State) (v : W32) : State :=
  if v.getLsbD 0 && !s.ddr.ready then { s with ddr.busy := true } else s

def ddrRead (s : State) (off : Nat) : Nat :=
  match off with
  | 0x00 => s.ddr.cfg.toNat
  | 0x08 => 2 * b2n s.ddr.ready
  | 0x10 => s.ddr.scrubHours.toNat
  | _ => 0

def ddrWrite (s : State) (off : Nat) (v : W32) : State :=
  match off with
  | 0x00 => if s.ddr.ready || s.ddr.busy then s else { s with ddr.cfg := v.extractLsb' 0 8 }
  | 0x08 => ddrCtlWrite s v
  | 0x10 => { s with ddr.scrubHours := v.extractLsb' 0 8 }
  | _ => s

/-- A write of SHL_FAB; EXPECT holds once GO is set (R419). -/
def fabWrite0 (s : State) (v : W32) : State :=
  { s with fab.expect := if s.fab.go then s.fab.expect else v.extractLsb' 0 7,
           fab.go := v.getLsbD 7, fab.fabWait := v.extractLsb' 8 6 }

def fabRead (s : State) (off : Nat) : Nat :=
  match off with
  | 0x00 => s.fab.expect.toNat + 2 ^ 7 * b2n s.fab.go + 2 ^ 8 * s.fab.fabWait.toNat
  | 0x08 => s.fab.rspTo.toNat
  | 0x10 => s.fab.role.toNat
  | _ => if 0x100 ≤ off ∧ off < 0x200 then (s.fab.routes.get (Fin.ofNat 64 ((off - 0x100) / 4))).toNat else 0

def fabWrite (s : State) (off : Nat) (v : W32) : State :=
  match off with
  | 0x00 => fabWrite0 s v
  | 0x08 => { s with fab.rspTo := v.extractLsb' 0 16 }
  | _ => s

/-- HMB_STAT and the other mailbox registers by BAR0 offset (Table 3-11). -/
def hmbStat (m : Hmb) : Nat := b2n m.busy + 2 * b2n m.done + 4 * b2n m.err + 2 ^ 8 * m.seq.toNat

def hmbRead (m : Hmb) (off : Nat) : Nat :=
  if off = 4 then hmbStat m
  else if off = 8 then b2n m.irqEn
  else if 0x100 ≤ off ∧ off < 0x2C0 then fieldLE m.req (off - 0x100) 4
  else if 0x400 ≤ off ∧ off < 0x5C0 then fieldLE m.rsp (off - 0x400) 4
  else 0

def pcieRead (s : State) (off : Nat) : Nat :=
  match off with
  | 0x00 => 2 ^ 28 * bits s.pcie.ap4.toNat 0 4
  | 0x04 => bits s.pcie.ap4.toNat 4 9
  | 0x08 => b2n (pcieUp s) + 2 * s.pcie.speed.toNat + 16 * s.pcie.width.toNat
  | 0x18 => s.pcie.pend.toNat
  | _ => if 0x1000 ≤ off ∧ off < 0x2000 then hmbRead s.node.hmb (off - 0x1000) else 0

def pcieWrite (s : State) (off : Nat) (v : W32) : State :=
  match off with
  | 0x00 => { s with pcie.ap4 := BitVec.ofNat 13 (setBits s.pcie.ap4.toNat 0 4 (bits v.toNat 28 4)) }
  | 0x04 => { s with pcie.ap4 := BitVec.ofNat 13 (setBits s.pcie.ap4.toNat 4 9 (bits v.toNat 0 9)) }
  | 0x10 => msixRaiseWrite s v
  | _ => s

/-! ## Access to registers -/

/-- A register of a block whose layout no chapter gives (the JDUs, the MACs, the Loft controller) reads a free
value (log 175). -/
def openRead (s : State) : Nat × State := (drawn s .register % 2 ^ 32, afterDraw s)

/-- A 32-bit word of a block, at an aligned offset. -/
def blkRead (s : State) (b : Blk) (off : Nat) : Nat × State :=
  match b with
  | .cleatA => (claRead s off, s)
  | .cleatD => (cldRead s off, s)
  | .cleatB => (clbRead s off, s)
  | .mc => mcRead s off
  | .cap => capRead s off
  | .csc => (cscRead s off, s)
  | .trim => (trmRead s off, s)
  | .ee => eeRead s off
  | .tw n => twRead s n off
  | .sp c => spBlockRead s c off 4
  | .ddr => (ddrRead s off, s)
  | .shl p => shlRead s p off
  | .fab => (fabRead s off, s)
  | .pcie => (pcieRead s off, s)
  | .io => (ioRead s off, s)
  | .jdu => openRead s
  | .loft => openRead s
  | .eth => openRead s

/-- A 32-bit write of a block, at an aligned offset; one of a block without a layout changes no named state
(log 175). -/
def blkWrite (s : State) (by_ : BusBy) (b : Blk) (off : Nat) (v : W32) : State :=
  match b with
  | .cleatA => claWrite s off v
  | .cleatD => s
  | .cleatB => clbWrite s by_ off v
  | .mc => mcWrite s off v
  | .cap => capWrite s off v
  | .csc => cscWrite s off v
  | .trim => trmWrite s off v
  | .ee => eeWrite s off v
  | .tw n => twWrite s n off v
  | .sp c => spBlockWrite s c off 4 v.toNat
  | .ddr => ddrWrite s off v
  | .shl p => shlWrite s p off v
  | .fab => fabWrite s off v
  | .pcie => pcieWrite s off v
  | .io => ioWrite s off v
  | .jdu => s
  | .loft => s
  | .eth => s

/-- Why n bytes at a cannot be reached, in memory or in registers (R15, R382). -/
def busErr (s : State) (a n : Nat) : Option BusErr :=
  if isRam a then ramErr s a n
  else
    match blkOf a, blkOf (a + (n - 1)) with
    | some (b, _), some (c, _) =>
      if b = c then
        match b.dom with
        | none => none
        | some d => if domUp s d then none else some .planeOff
      else some .unmapped
    | _, _ => some .unmapped

/-- The words that cover n bytes at an aligned address, read in rising order. -/
def regWords : Nat → State → Nat → Bytes × State
  | 0, s, _ => ([], s)
  | k + 1, s, a =>
    match blkOf a with
    | none => ([], s)
    | some (b, off) =>
      let (v, s) := blkRead s b off
      let (r, s) := regWords k s (a + 4)
      (toLE 4 v ++ r, s)

/-- n bytes at a; a register is read as its whole aligned 32-bit words (log 88). -/
def busRead (s : State) (a n : Nat) : Bytes × State :=
  if isRam a then (s.rd a n, s)
  else
    let a0 := a / 4 * 4
    let (w, s) := regWords ((a - a0 + n + 3) / 4) s a0
    (slice w (a - a0) n, s)

/-- The word that a store of some bytes gives a register: what the store does not give is free (log 88). -/
def storeWord (a0 a : Nat) (bs : Bytes) : W32 :=
  BitVec.ofNat 32 (leNat ((List.range 4).map fun k =>
    if a ≤ a0 + k ∧ a0 + k < a + bs.length then byteAt bs (a0 + k - a)
    else BitVec.ofNat 8 (Config.freeOf .unspecified [0x88, a0 + k])))

/-- Registers written word by word in rising order. -/
def regStores : Nat → State → BusBy → Nat → Nat → Bytes → State
  | 0, s, _, _, _, _ => s
  | k + 1, s, by_, a0, a, bs =>
    match blkOf a0 with
    | none => s
    | some (b, off) => regStores k (blkWrite s by_ b off (storeWord a0 a bs)) by_ (a0 + 4) a bs

/-- A Cleat B slot may be written: the host only those of its queues (R398). -/
def slotOpen (s : State) (by_ : BusBy) (a : Nat) : Bool :=
  if by_ = .host && decide (clbSlots ≤ a) && decide (a < clbSlots + 0x20000) then
    (s.cleatB.get (Fin.ofNat 8 ((a - clbSlots) / 0x4000))).owner == 2
  else true

/-- Bytes written at a, into memory or registers; the write ends home reservations (R417). -/
def busWrite (s : State) (by_ : BusBy) (a : Nat) (bs : Bytes) : State :=
  if isRam a then if slotOpen s by_ a then noteHomeWrite (s.wr a bs) a bs.length else s
  else regStores ((a - a / 4 * 4 + bs.length + 3) / 4) s by_ (a / 4 * 4) a bs

/-- A checked read by an initiator; a fenced one is refused (R31). -/
def initRead (s : State) (init a n : Nat) : Except BusErr Bytes × State :=
  if initFenced s init then (.error .act, s)
  else
    match actCheck s init accLoad a n with
    | some t => (.error .act, t)
    | none =>
      match busErr s a n with
      | some e => (.error e, s)
      | none => let (b, t) := busRead s a n; (.ok b, t)

/-- A checked write by an initiator; a refused one changes nothing. -/
def initWrite (s : State) (by_ : BusBy) (init a : Nat) (bs : Bytes) : Option BusErr × State :=
  if initFenced s init then (some .act, s)
  else
    match actCheck s init accStore a bs.length with
    | some t => (some .act, t)
    | none =>
      match busErr s a bs.length with
      | some e => (some e, s)
      | none => (none, busWrite s by_ a bs)

/-! ## Commands that write one register -/

/-- MC_IPI written. -/
def execMcIpi (v : W32) (s : State) : Host.Outcome State Fault Refusal :=
  if ctlUp s && domUp s 11 then .next (ipiWrite s v) else .next s

/-- MC_HARTCTL.RUN1 written: MC1 leaves halt. -/
def execMcHartctlRun1 (v : W32) (s : State) : Host.Outcome State Fault Refusal :=
  if ctlUp s && domUp s 11 then .next (mcWrite s 0x00 v) else .next s

/-- MC_CMO.CLEAN_ALL written. -/
def execCleanAll (v : W32) (s : State) : Host.Outcome State Fault Refusal :=
  if ctlUp s && domUp s 11 then .next (cmoWrite s (v &&& 1)) else .next s

/-- MC_CMO.FLUSH_ALL written. -/
def execFlushAll (v : W32) (s : State) : Host.Outcome State Fault Refusal :=
  if ctlUp s && domUp s 11 then .next (cmoWrite s (v &&& 2)) else .next s

/-- DDR_CTL.INIT written. -/
def execDdrInit (v : W32) (s : State) : Host.Outcome State Fault Refusal :=
  if domUp s 14 then .next (ddrCtlWrite s v) else .next s

/-- DDR training has ended: READY (R391, R419). -/
def execDdrReady (s : State) : Host.Outcome State Fault Refusal :=
  if domUp s 14 && s.ddr.busy then .next (floodOwn { s with ddr.busy := false, ddr.ready := true }) else .next s

/-- SHL_FAB.GO written (R419). -/
def execFabricGo (v : W32) (s : State) : Host.Outcome State Fault Refusal :=
  if domUp s 15 then .next (fabWrite0 s v) else .next s

end Sys2Proof.Machine
end

