-- ==== Sys2Proof/Machine/Pert.lean ====
section
/-!
DEFINITION. The perturbation block: the objects 0x5F11 to 0x5F17, activation, its end (R538 to R542, Table
15-9).
-/

namespace Sys2Proof.Machine

/-- Every byte of a kind's string from 4 on that no parameter uses is 0. -/
def unusedZero (b : Bytes) (used : Nat) : Bool := (b.drop used).all fun x => x == 0

/-- The parameters of a kind lie in their ranges (Table 15-9). -/
def pertRange (k : Nat) (b : Bytes) : Bool :=
  let x := fun (i : Nat) => (byteAt b i).toNat
  match k with
  | 1 => decide (x 5 < 16) && decide (fieldLE b 6 2 ≤ 4095) && unusedZero b 8
  | 2 => decide (1 ≤ x 4) && decide (x 4 < x 5) && unusedZero b 6
  | 3 => decide (fieldLE b 12 2 ≤ 400)
  | 4 => decide (fieldLE b 4 2 ≤ 200) && unusedZero b 7
  | 5 => decide (x 4 < 64) && decide (1 ≤ x 5) && decide (1 ≤ fieldLE b 6 2) && unusedZero b 8
  | 6 => decide (fieldLE b 4 2 < 4096) && decide (1 ≤ x 11) && unusedZero b 12
  | 7 => decide (fieldLE b 4 3 < 2 ^ 17) && x 7 == 0 && unusedZero b 10
  | _ => false

/-- An enabling string is in range: ENABLE alone in byte 0, byte 1 zero, DURATION from 1 s. -/
def pertOk (k : Nat) (b : Bytes) : Bool :=
  byteAt b 0 == 1 && byteAt b 1 == 0 && decide (1 ≤ fieldLE b 2 2) && pertRange k b

/-- What R538 asks of an activation. -/
def pertMay (s : State) (svc : Bool) : Bool :=
  (byteAt s.otp.record 3).getLsbD 0 && svc && nmtServes s.node && !nodeSilent s.node
    && decide (s.node.emcyQ.length < 32)

/-- A kind ends, and reads back with ENABLE = 0; when none remains active the error reset of 0xFF60 follows
(R540). -/
def pertEnd (s : State) (k : Fin 8) : State :=
  if s.pert.active.get k then
    let s := { s with pert.active := vput s.pert.active k false,
                      pert.params := vmod s.pert.params k fun b => 0 :: b.drop 1 }
    if s.pert.active.toList.any id then s else clearStanding s 0xFF60 0
  else s

/-- Every kind ends (R540). -/
def pertEndAll (s : State) : State := (List.finRange 8).foldl pertEnd s

/-- EMCY 0xFF60 enters the queue first, then the kind's bit is set, then the perturbation acts (R539). The
condition stands once, whatever the number of kinds. -/
def pertStart (s : State) (k : Fin 8) (b : Bytes) : State :=
  let s := if stands s 0xFF60 0 then raiseEmcy s 0xFF60 0x80 [BitVec.ofNat 8 k.val]
    else raiseStanding s 0xFF60 0x80 0 [BitVec.ofNat 8 k.val]
  let s := if k = 3 ∧ s.pert.active.get 3 = false then { s with pert.prng := BitVec.ofNat 32 (fieldLE b 14 2) } else s
  { s with pert.active := vput s.pert.active k true, pert.params := vput s.pert.params k b }

/-- A write of 0x5F10 + k. R538 gives its own abort to a write from an open session; ending a perturbation is
not gated but by rank, and only the ENABLE byte pair is checked (log 105). -/
def pertWrite (svc : Bool) (k : Fin 8) (b : Bytes) (s : State) : Nat × State :=
  if b.length ≠ 16 then (abLength, s)
  else if (byteAt b 0).getLsbD 0 then
    if !pertOk k.val b then (abRange, s)
    else if !pertMay s svc then (abState, s)
    else (0, pertStart s k b)
  else if !svc then (abRank, s)
  else if byteAt b 0 ≠ 0 ∨ byteAt b 1 ≠ 0 then (abRange, s)
  else
    let s := pertEnd s k
    (0, { s with pert.params := vput s.pert.params k b })

/-- The write answered. -/
def pertAnswer (w : Session) (k : Fin 8) (b : Bytes) (s : State) : State :=
  let (c, t) := pertWrite (isService s.node w) k b s
  answerSess t w (0x5F10 + k.val) 0 (codeAnswer c)

/-- PERT_ACTIVATE: a write with ENABLE = 1. -/
def execPertActivate (w : Session) (k : Fin 8) (data : Bytes) (s : State) : Host.Outcome State Fault Refusal :=
  if k ≠ 0 ∧ (byteAt data 0).getLsbD 0 then openAccess s w (0x5F10 + k.val) 0 (pertAnswer w k data) else .next s

/-- PERT_DISABLE: a write with ENABLE = 0. -/
def execPertDisable (w : Session) (k : Fin 8) (data : Bytes) (s : State) : Host.Outcome State Fault Refusal :=
  if k ≠ 0 ∧ !(byteAt data 0).getLsbD 0 then openAccess s w (0x5F10 + k.val) 0 (pertAnswer w k data) else .next s

/-- PERT_EXPIRE: its DURATION is over. -/
def execPertExpire (k : Fin 8) (s : State) : Host.Outcome State Fault Refusal :=
  if mgcUp s then .next (pertEnd s k) else .next s

end Sys2Proof.Machine
end

