-- ==== Sys2Proof/Machine/Luaca.lean ====
section
/-!
DEFINITION. The Luaca instruction words: formats, the operations of Tables 10-3 to 10-8 and their decoding
(R333 to R339). A word that decodes to nothing raises illegal instruction.
-/

namespace Sys2Proof.Machine

abbrev Xr := Fin 32

/-- A short operation (Table 10-5). -/
inductive ShortOp where
  /-- register forms by SOP and X: C.MV, C.ADD, C.SUB, C.AND, C.OR, C.XOR, C.SLT, C.SLTU -/
  | reg (k : Fin 8) (rd rs : Xr)
  | addi (rd : Xr) (imm : Int)
  | li (rd : Xr) (imm : Int)
  | slli (rd : Xr) (sh : Nat)
  | srai (rd : Xr) (sh : Nat)
  | srli (rd : Xr) (sh : Nat)
  | andi (rd : Xr) (imm : Int)
  | load (size : Nat) (fp : Bool) (rt base : Xr) (disp : Nat)
  | store (size : Nat) (fp : Bool) (rt base : Xr) (disp : Nat)
  /-- C.BEZ, C.BNZ -/
  | brz (nz : Bool) (rs : Xr) (ofs : Int)
  | j (ofs : Int)
  /-- C.JR, C.JALR -/
  | jr (link : Bool) (rs : Xr)
  deriving DecidableEq, Repr

/-- An instruction word decoded. -/
inductive LuOp where
  | pair (a b : ShortOp)
  /-- LB, LBU, LH, LHU, LW, LWU, LD, FLW, FLD by MOP -/
  | load (mop : Nat) (rt base : Xr) (disp : Int)
  /-- SB, SH, SW, SD, FSW, FSD by MOP -/
  | store (mop : Nat) (rt base : Xr) (disp : Int)
  | qld (rt base : Xr) (disp : Int)
  | qst (rt base : Xr) (disp : Int)
  | alu (f : Nat) (rd rs1 rs2 : Xr)
  | alui (f : Nat) (rd rs1 : Xr) (imm : Int)
  | lhi (rd : Xr) (imm : Int)
  | addpc (rd : Xr) (imm : Int)
  | br (cond : Nat) (rs1 rs2 : Xr) (ofs : Int)
  | jal (rd : Xr) (ofs : Int)
  | jalr (rd rs1 : Xr) (imm : Int)
  | mul (f : Nat) (rd rs1 rs2 : Xr)
  | fp (f : Nat) (dbl : Bool) (rm : Nat) (rd rs1 rs2 : Xr)
  | lr (dbl : Bool) (rd rs1 : Xr)
  | sc (dbl : Bool) (rd rs1 rs2 : Xr)
  | tas (rd rs1 : Xr)
  /-- CWSWP, CWSET, CWCLR by 0 to 2; src a register, or an immediate in the I forms -/
  | cw (f : Fin 3) (imm : Bool) (rd src : Xr) (cwn : Nat)
  | sysreq
  | dbrk
  | rets
  | waiti
  | retm
  | fence (pred succ : Nat)
  | ifence
  /-- DCL.CLN, DCL.INV, DCL.FLS, DCL.ZRO -/
  | dcl (f : Fin 4) (rs1 : Xr)
  | icl (rs1 : Xr)
  | q (major qf et : Nat) (qd qa qb : Xr)
  | cp (n : Fin 8) (funct : Nat) (rd rs1 rs2 : Xr)
  deriving DecidableEq, Repr

def xr (n : Nat) : Xr := Fin.ofNat 32 n

/-! ## Short form (R336, Table 10-5) -/

/-- x8 to x15 of a 3-bit field. -/
def xr3 (n : Nat) : Xr := Fin.ofNat 32 (8 + n % 8)

def shortLs (w size : Nat) (fp : Bool) : ShortOp :=
  let rt := xr3 (bits w 8 3)
  let base := xr3 (bits w 5 3)
  let d := bits w 1 4 * size
  if bitOf w 0 then .store size fp rt base d else .load size fp rt base d

/-- A 15-bit slot. -/
def decodeShort (w : Nat) : Option ShortOp :=
  let rd := xr (bits w 6 5)
  let rs := xr (bits w 1 5)
  let x := bitOf w 0
  match bits w 11 4 with
  | 0x0 => some (.reg (if x then 1 else 0) rd rs)
  | 0x1 => some (.reg (if x then 3 else 2) rd rs)
  | 0x2 => some (.reg (if x then 5 else 4) rd rs)
  | 0x3 => some (.addi rd (sext 6 (bits w 0 6)))
  | 0x4 => some (.li rd (sext 6 (bits w 0 6)))
  | 0x5 => some (if x then .srai rd (bits w 1 5) else .slli rd (bits w 1 5))
  | 0x6 => some (if x then .load 8 false (xr3 (bits w 8 3)) (xr3 (bits w 5 3)) (bits w 1 4 * 8)
                 else .load 4 false (xr3 (bits w 8 3)) (xr3 (bits w 5 3)) (bits w 1 4 * 4))
  | 0x7 => some (if x then .store 8 false (xr3 (bits w 8 3)) (xr3 (bits w 5 3)) (bits w 1 4 * 8)
                 else .store 4 false (xr3 (bits w 8 3)) (xr3 (bits w 5 3)) (bits w 1 4 * 4))
  | 0x8 => some (.brz x rd (sext 5 (bits w 1 5)))
  | 0x9 => some (.j (sext 11 (bits w 0 11)))
  | 0xA => if bits w 1 5 = 0 then some (.jr x rd) else none
  | 0xB => some (.reg (if x then 7 else 6) rd rs)
  | 0xC => some (if x then .store 8 false rd 2 (bits w 1 5 * 8) else .load 8 false rd 2 (bits w 1 5 * 8))
  | 0xD => some (shortLs w 8 true)
  | 0xE => some (if x then .andi rd (sext 5 (bits w 1 5)) else .srli rd (bits w 1 5))
  | _ => none

/-- A branch or jump, which slot A may not hold (R339). -/
def ShortOp.jumps : ShortOp → Bool
  | .brz _ _ _ => true
  | .j _ => true
  | .jr _ _ => true
  | _ => false

def decodePair (w : Nat) : Option LuOp :=
  if bitOf w 1 then none
  else
    match decodeShort (bits w 17 15), decodeShort (bits w 2 15) with
    | some a, some b => if a.jumps then none else some (.pair a b)
    | _, _ => none

/-! ## Long form (R334, R335, Tables 10-3, 10-4) -/

def decodeM (w : Nat) : Option LuOp :=
  let mop := bits w 2 5
  let rt := xr (bits w 7 5)
  let base := xr (bits w 12 5)
  let disp := sext 16 (bits w 17 15 * 2 + bits w 1 1)
  if mop ≤ 8 then some (.load mop rt base disp)
  else if mop ≤ 14 then some (.store mop rt base disp)
  else if mop = 15 then some (.qld rt base disp)
  else some (.qst rt base disp)

def decodeI (w : Nat) : Option LuOp :=
  let rd := xr (bits w 7 5)
  let rs1 := xr (bits w 12 5)
  let f := bits w 17 4
  let imm := bits w 21 11
  if 13 ≤ f then none
  else if f = 6 ∨ f = 7 ∨ f = 8 ∨ 10 ≤ f then
    if imm < 64 then some (.alui f rd rs1 imm) else none
  else some (.alui f rd rs1 (sext 11 imm))

/-- Operations of MAJOR 0x2A that read one register only. -/
def fpUnary (f : Nat) : Bool := f == 4 || f == 13 || (decide (16 ≤ f) && decide (f ≤ 27))

/-- Operations of MAJOR 0x2A that do not round: minimum, maximum, signs, compares, FKIND, FWIDEN and the moves. -/
def fpExact (f : Nat) : Bool := (decide (5 ≤ f) && decide (f ≤ 13)) || f == 25 || f == 26 || f == 27

/-- Operations of MAJOR 0x2A whose formats are their own: FNARROW, FWIDEN and the moves. -/
def fpFixed (f : Nat) : Bool := decide (24 ≤ f) && decide (f ≤ 27)

def decodeFp (w : Nat) : Option LuOp :=
  let fn := bits w 22 10
  let f := fn / 16
  let rm := bits fn 1 3
  let rs2 := bits w 17 5
  if 28 ≤ f ∨ rm = 5 ∨ rm = 6 ∨ (fpUnary f ∧ rs2 ≠ 0) ∨ (fpExact f ∧ rm ≠ 0) ∨ (fpFixed f ∧ bitOf fn 0) then none
  else some (.fp f (bitOf fn 0) rm (xr (bits w 7 5)) (xr (bits w 12 5)) (xr rs2))

def decodeC (w : Nat) : Option LuOp :=
  let cwn := bits w 20 12
  let rd := bits w 7 5
  let src := bits w 12 5
  match bits w 17 3 with
  | 0 => some (.cw 0 false (xr rd) (xr src) cwn)
  | 1 => some (.cw 1 false (xr rd) (xr src) cwn)
  | 2 => some (.cw 2 false (xr rd) (xr src) cwn)
  | 3 => some (.cw 0 true (xr rd) (xr src) cwn)
  | 4 => some (.cw 1 true (xr rd) (xr src) cwn)
  | 5 => some (.cw 2 true (xr rd) (xr src) cwn)
  | 6 =>
    if rd ≠ 0 ∨ src ≠ 0 then none
    else match cwn with
      | 0x001 => some .sysreq
      | 0x002 => some .dbrk
      | 0x010 => some .rets
      | 0x011 => some .waiti
      | 0x020 => some .retm
      | _ => none
  | _ => none

def decodeAtomic (w : Nat) : Option LuOp :=
  let rd := xr (bits w 7 5)
  let rs1 := xr (bits w 12 5)
  let rs2 := bits w 17 5
  match bits w 22 10 with
  | 0 => if rs2 = 0 then some (.lr false rd rs1) else none
  | 1 => if rs2 = 0 then some (.lr true rd rs1) else none
  | 2 => some (.sc false rd rs1 (xr rs2))
  | 3 => some (.sc true rd rs1 (xr rs2))
  | 4 => if rs2 = 0 then some (.tas rd rs1) else none
  | _ => none

def decodeSync (w : Nat) : Option LuOp :=
  let rd := bits w 7 5
  let rs1 := bits w 12 5
  let rs2 := bits w 17 5
  let f := bits w 22 10
  if rs2 ≠ 0 then none
  else if f = 0 then if rs1 = 0 ∧ rd < 16 then some (.fence (rd % 4) (rd / 4)) else none
  else if rd ≠ 0 then none
  else if f = 1 then if rs1 = 0 then some .ifence else none
  else if f ≤ 5 then some (.dcl (Fin.ofNat 4 (f - 2)) (xr rs1))
  else if f = 6 then some (.icl (xr rs1)) else none

/-- Luaca-Q (Table 10-8): ET 7 is reserved, f16 is for QCVT only, and a field the operation does not use is
zero. -/
def decodeQ (w major : Nat) : Option LuOp :=
  let qf := bits w 25 7
  let et := bits w 22 3
  let qb := bits w 17 5
  let op := some (LuOp.q major qf et (xr (bits w 7 5)) (xr (bits w 12 5)) (xr qb))
  if et = 7 then none
  else if major = 0x30 then
    if 21 ≤ qf ∨ et = 4 ∨ ((qf = 20 ∨ (8 ≤ qf ∧ qf ≤ 10)) ∧ et ≠ 0) then none else op
  else if major = 0x31 then
    if 9 ≤ qf ∨ et = 4 then none else op
  else if 8 ≤ qf then none
  else if et = 4 ∧ qf ≠ 4 then none
  else if qf = 0 ∧ et ≠ 0 then none
  else if qf = 1 ∧ qb ≠ 0 then none
  else if qf = 4 ∧ 7 ≤ qb then none
  else op

/-- A long word by its MAJOR. -/
def decodeMajor (w major : Nat) : Option LuOp :=
  let rd := xr (bits w 7 5)
  let rs1 := xr (bits w 12 5)
  let rs2 := xr (bits w 17 5)
  let fn := bits w 22 10
  if 0x38 ≤ major then some (.cp (Fin.ofNat 8 (major - 0x38)) fn rd rs1 rs2)
  else match major with
    | 0x22 => if fn < 19 then some (.alu fn rd rs1 rs2) else none
    | 0x23 => decodeI w
    | 0x24 => some (.lhi rd (sext 32 (bits w 12 20 * 4096)))
    | 0x25 => some (.addpc rd (sext 32 (bits w 12 20 * 4096)))
    | 0x26 =>
      if bits w 17 3 < 6 then
        some (.br (bits w 17 3) (xr (bits w 7 5)) (xr (bits w 12 5)) (sext 12 (bits w 20 12)))
      else none
    | 0x27 => some (.jal rd (sext 20 (bits w 12 20)))
    | 0x28 => if bits w 17 4 = 0 then some (.jalr rd rs1 (sext 11 (bits w 21 11))) else none
    | 0x29 => if fn < 13 then some (.mul fn rd rs1 rs2) else none
    | 0x2A => decodeFp w
    | 0x2B => decodeAtomic w
    | 0x2C => decodeC w
    | 0x2D => decodeSync w
    | 0x30 => decodeQ w 0x30
    | 0x31 => decodeQ w 0x31
    | 0x32 => decodeQ w 0x32
    | _ => none

/-- The operation of a word, none for an illegal one. -/
def luDecode (w : W32) : Option LuOp :=
  let n := w.toNat
  if bitOf n 0 then decodePair n
  else if bits n 1 6 ≤ 0x21 then decodeM n
  else decodeMajor n (bits n 1 6)

/-! ## Classes: which command runs which word -/

/-- The command a word belongs to (spec/opcode_table.json). -/
inductive LuCls where
  | pair | load | store | qld | qst | int | mulDiv | fp | branch | jal | jalr | lr | sc | tas
  | cwswp | cwset | cwclr | cwswpi | cwseti | cwclri | sysreq | dbrk | rets | waiti | retm
  | fence | ifence | dclCln | dclInv | dclFls | dclZro | icl | q
  | cp0 (f : Nat) | cp1 (f : Nat) | cp2 (f : Nat) | cp3 | cpx
  deriving DecidableEq, Repr

def LuOp.cls : LuOp → LuCls
  | .pair _ _ => .pair
  | .load _ _ _ _ => .load
  | .store _ _ _ _ => .store
  | .qld _ _ _ => .qld
  | .qst _ _ _ => .qst
  | .alu _ _ _ _ => .int
  | .alui _ _ _ _ => .int
  | .lhi _ _ => .int
  | .addpc _ _ => .int
  | .br _ _ _ _ => .branch
  | .jal _ _ => .jal
  | .jalr _ _ _ => .jalr
  | .mul _ _ _ _ => .mulDiv
  | .fp _ _ _ _ _ _ => .fp
  | .lr _ _ _ => .lr
  | .sc _ _ _ _ => .sc
  | .tas _ _ => .tas
  | .cw f imm _ _ _ =>
    match f, imm with
    | 0, false => .cwswp
    | 1, false => .cwset
    | 2, false => .cwclr
    | 0, true => .cwswpi
    | 1, true => .cwseti
    | 2, true => .cwclri
  | .sysreq => .sysreq
  | .dbrk => .dbrk
  | .rets => .rets
  | .waiti => .waiti
  | .retm => .retm
  | .fence _ _ => .fence
  | .ifence => .ifence
  | .dcl f _ => match f with
    | 0 => .dclCln
    | 1 => .dclInv
    | 2 => .dclFls
    | 3 => .dclZro
  | .icl _ => .icl
  | .q _ _ _ _ _ _ => .q
  | .cp n fn _ _ _ => match n with
    | 0 => .cp0 (fn % 16)
    | 1 => .cp1 (fn % 16)
    | 2 => .cp2 (fn % 16)
    | 3 => .cp3
    | _ => .cpx

end Sys2Proof.Machine
end

