-- ==== Sys2Proof/Machine/LuacaQ.lean ====
section
/-!
DEFINITION. Luaca-Q on values: the lanes of 128-bit registers and the operations of Table 10-8. What the
table does not state of an operation is a free function of its operands (log 90).
-/

namespace Sys2Proof.Machine

/-- Lane width by ET: i8, i16, i32, i64, f16, f32, f64. -/
def etWidth (et : Nat) : Nat :=
  match et with
  | 0 => 8 | 1 => 16 | 2 => 32 | 3 => 64 | 4 => 16 | 5 => 32 | _ => 64

def etFloat (et : Nat) : Option FpFmt :=
  match et with
  | 4 => some fp16 | 5 => some fp32 | 6 => some fp64 | _ => none

def qLane (w v i : Nat) : Nat := bits v (i * w) w

/-- A register built from its lanes. -/
def qBuild (w : Nat) (f : Nat → Nat) : Nat :=
  (List.range (128 / w)).foldl (fun a i => a + (f i % 2 ^ w) * 2 ^ (i * w)) 0

/-- A free register value of the operands. -/
def qFree (ops : List Nat) : Nat := Config.freeOf .qLane ops % 2 ^ 128

def onesOf (w : Nat) (b : Bool) : Nat := if b then 2 ^ w - 1 else 0

/-- A lane saturated to its signed range, and whether it was cut. -/
def satLane (w : Nat) (x : Int) : Nat × Bool :=
  let hi : Int := 2 ^ (w - 1) - 1
  let lo : Int := -(2 ^ (w - 1))
  if x > hi then (wrapInt w hi, true) else if x < lo then (wrapInt w lo, true) else (wrapInt w x, false)

/-- One lane of MAJOR 0x30; d, a, b are the lanes of qd, qa, qb. -/
def qIntLane (qf w d a b : Nat) : Nat × Bool :=
  let sa := sext w a
  let sb := sext w b
  match qf with
  | 0 => (a + b, false)
  | 1 => (wrapInt w (sa - sb), false)
  | 2 => (a * b, false)
  | 3 => (wrapInt w (sa * sb / (2 ^ w : Nat)), false)
  | 4 => (if sa ≤ sb then a else b, false)
  | 5 => (if sa ≤ sb then b else a, false)
  | 6 => (min a b, false)
  | 7 => (max a b, false)
  | 8 => (a &&& b, false)
  | 9 => (a ||| b, false)
  | 10 => (a ^^^ b, false)
  | 11 => (a * 2 ^ (b % w), false)
  | 12 => (a / 2 ^ (b % w), false)
  | 13 => (wrapInt w (sa / (2 ^ (b % w) : Nat)), false)
  | 14 => satLane w (sa + sb)
  | 15 => satLane w (sa - sb)
  | 16 => (onesOf w (a == b), false)
  | 17 => (onesOf w (decide (sa < sb)), false)
  | 18 => (onesOf w (decide (a < b)), false)
  | 19 => (if d = 2 ^ w - 1 then a else b, false)
  | _ => (d, false)

/-- QDOT4 on one 32-bit lane. -/
def qDot (d a b : Nat) : Nat :=
  let p := fun k => sext 8 (bits a (8 * k) 8) * sext 8 (bits b (8 * k) 8)
  wrapInt 32 (sext 32 d + p 0 + p 1 + p 2 + p 3)

/-- MAJOR 0x30: the register and whether a lane saturated. -/
def qInt (qf et qd qa qb : Nat) : Nat × Bool :=
  let w := etWidth et
  if qf = 20 then (qBuild 32 fun i => qDot (qLane 32 qd i) (qLane 32 qa i) (qLane 32 qb i), false)
  else if 5 ≤ et ∧ ¬ (8 ≤ qf ∧ qf ≤ 10) ∧ qf ≠ 19 then (qFree [0x30, qf, et, qd, qa, qb], false)
  else
    let r := fun i => qIntLane qf w (qLane w qd i) (qLane w qa i) (qLane w qb i)
    (qBuild w fun i => (r i).1, (List.range (128 / w)).any fun i => (r i).2)

/-- One lane of MAJOR 0x31 and its flags. -/
def qFpLane (f : FpFmt) (rm qf d a b : Nat) : Nat × Nat :=
  let w := f.width
  match qf with
  | 0 => fpAdd f rm a b
  | 1 => fpSub f rm a b
  | 2 => fpMul f rm a b
  | 3 => fpDiv f rm a b
  | 4 => fpFma f rm a b d
  | 5 => fpMin f a b
  | 6 => fpMaximum f a b
  | 7 => let (r, k) := fpEq f a b; (onesOf w r, k)
  | _ => let (r, k) := fpLt f a b; (onesOf w r, k)

/-- MAJOR 0x31: the register and the flags set; lanes of an integer ET have no stated result. -/
def qFp (rm qf et qd qa qb : Nat) : Nat × Nat :=
  match etFloat et with
  | none => (qFree [0x31, qf, et, qd, qa, qb], 0)
  | some f =>
    let w := etWidth et
    let r := fun i => qFpLane f rm qf (qLane w qd i) (qLane w qa i) (qLane w qb i)
    (qBuild w fun i => (r i).1, (List.range (128 / w)).foldl (fun a i => a ||| (r i).2) 0)

/-- QPERM: bytes of qa by the indices in qb. -/
def qPerm (qa qb : Nat) : Nat :=
  qBuild 8 fun i => let k := qLane 8 qb i; if k < 16 then qLane 8 qa k else 0

/-- One lane of QCVT between types of one width. -/
def qCvtLane (rm fr to_ a : Nat) : Nat × Nat :=
  let w := etWidth fr
  match etFloat fr, etFloat to_ with
  | none, none => (a, 0)
  | none, some f => fpOfInt f rm (sext w a)
  | some f, none => fpToInt f rm a w true
  | some f, some g => fpConv f g rm a

/-- QCVT; between types of unlike widths the table does not place the lanes. -/
def qCvt (rm fr to_ qd qa : Nat) : Nat × Nat :=
  let w := etWidth fr
  if etWidth to_ = w then
    let r := fun i => qCvtLane rm fr to_ (qLane w qa i)
    (qBuild w fun i => (r i).1, (List.range (128 / w)).foldl (fun a i => a ||| (r i).2) 0)
  else (qFree [0x32, 4, fr, to_, qd, qa], 0)

/-- QMVQX: x enters lane n of qd; a lane that does not exist has no stated place. -/
def qMvqx (et qd x n : Nat) : Nat :=
  let w := etWidth et
  if n < 128 / w then qBuild w fun i => if i = n then x else qLane w qd i
  else qFree [0x32, 3, et, qd, x, n]

/-- QMVX: a lane to x; the bits above the lane are not stated, nor is a lane that does not exist. -/
def qMvx (et qa n : Nat) : W64 :=
  let w := etWidth et
  let hi := Config.freeOf .qLane [0x32, 2, et, qa, n]
  if n < 128 / w then BitVec.ofNat 64 (qLane w qa n + hi * 2 ^ w) else BitVec.ofNat 64 hi

end Sys2Proof.Machine
end

