-- ==== Sys2Proof/Machine/MastMem.lean ====
section
/-!
DEFINITION. The Mast harts' way to memory: the caches of both harts and the L2, the store buffers, accesses
to other chips, and the checks at issue (R332, R343 to R346, R354, R357, R359, R363 to R373, log 61).
-/

namespace Sys2Proof.Machine

def hartOf (s : State) (h : HartId) : Hart := s.mast.harts.get h

def hartMod (s : State) (h : HartId) (f : Hart → Hart) : State :=
  { s with mast.harts := vmod s.mast.harts h f }

/-- What a memory access of a word came to. -/
inductive MemRes (α : Type) where
  | ok (v : α) (s : State)
  /-- an exception of Table 10-9: code, detail, SV_INFO -/
  | trap (code detail info : Nat) (s : State)
  /-- the word stalls; what it has asked of other chips stands in the hart -/
  | wait (s : State)

/-! ## Details and store errors (R360, R363) -/

/-- SV_CAUSE.DETAIL of a bus error; the table lists none for UNMAPPED and ECC (log 91). -/
def errDetail (e : BusErr) : Nat :=
  match e with
  | .act => 1
  | .planeOff => 2
  | .shroud => 3
  | .noRoute => 3
  | .unmapped => Config.freeOf .unspecified [0x0D, 0] % 256
  | .ecc => Config.freeOf .unspecified [0x0D, 1] % 256

/-- The cause of an ERR message as a bus error (Table 11-7). -/
def causeErr (c : Nat) : BusErr :=
  match c with
  | 1 => .act | 2 => .unmapped | 3 => .noRoute | 5 => .ecc | 6 => .planeOff | _ => .shroud

/-- A failed store: interrupt 11 with the first one's address and detail in MC_STERR (R363). -/
def storeErr (s : State) (h : HartId) (addr detail : Nat) : State :=
  { s with mast.sterr := vmod s.mast.sterr h fun e =>
      if e.getLsbD 63 then e else BitVec.ofNat 64 (addr % 2 ^ 48 + (detail % 256) * 2 ^ 48 + 2 ^ 63) }

/-- An exception for a failed load or fetch. -/
def loadTrap {α : Type} (e : BusErr) (code info : Nat) (s : State) : MemRes α :=
  match e with
  | .ecc => .trap 0x08 0 info s
  | _ => .trap code (errDetail e) info s

/-! ## Caches (Table 10-2, R373, R376; log 61) -/

def lineGet (s : State) (ln : Nat) : Option CLine := Tbl.read (fun _ => none) s.mast.cache ln

def linePut (s : State) (ln : Nat) (c : Option CLine) : State :=
  { s with mast.cache := Tbl.write (fun _ => none) s.mast.cache ln c }

/-- The lines held of a set of n sets, with those a condition picks. -/
def setLines (s : State) (n ln : Nat) (p : CLine → Bool) : List Nat :=
  s.mast.cache.filterMap fun e =>
    match e.2 with
    | some c => if e.1 % n = ln % n ∧ p c then some e.1 else none
    | none => none

/-- A hart loses its reservation when the granule's line leaves its L1 data cache (R345). -/
def resvEvict (s : State) (h : HartId) (ln : Nat) : State :=
  if (hartOf s h).resv = some (.own ln) then dropResv s h else s

def resvEvictAll (s : State) (ln : Nat) : State := resvEvict (resvEvict s 0 ln) 1 ln

/-- A dirty line goes back to memory; where memory cannot take it, it is a failed store of hart h. -/
def writeBack (s : State) (h : HartId) (ln : Nat) (c : CLine) : State :=
  if c.dirty then
    match ramErr s (ln * 64) 64 with
    | none => s.wr (ln * 64) c.data
    | some e => storeErr s h (ln * 64) (errDetail e)
  else s

/-- A line leaves the L2 and with it every L1. -/
def dropLine (s : State) (h : HartId) (ln : Nat) (clean : Bool) : State :=
  match lineGet s ln with
  | none => s
  | some c =>
    let s := if clean then writeBack s h ln c else s
    resvEvictAll (linePut s ln none) ln

/-- A place is made in the L2's set: the victim is free (Table 10-2). -/
def makeRoom (s : State) (h : HartId) (ln : Nat) : State :=
  let all := setLines s Config.l2Sets ln fun _ => true
  let ls := setLines s Config.l2Sets ln fun c => !c.held
  if all.length < Config.l2Ways then s
  else
    match ls[drawn s .victim % ls.length]? with
    | some v => dropLine (afterDraw s) h v true
    | none => s

def inD (h : HartId) (c : CLine) : Bool := if h = 0 then c.inD0 else c.inD1
def inI (h : HartId) (c : CLine) : Bool := if h = 0 then c.inI0 else c.inI1
def setD (h : HartId) (b : Bool) (c : CLine) : CLine := if h = 0 then { c with inD0 := b } else { c with inD1 := b }
def setI (h : HartId) (b : Bool) (c : CLine) : CLine := if h = 0 then { c with inI0 := b } else { c with inI1 := b }

/-- A line enters a hart's L1, data or instruction; a full set evicts a free victim. -/
def enterL1 (s : State) (h : HartId) (instr : Bool) (ln : Nat) (c : CLine) : State :=
  if (if instr then inI h c else inD h c) then s
  else
    let ls := setLines s Config.l1Sets ln fun d => if instr then inI h d else inD h d
    let full := decide (Config.l1Ways ≤ ls.length)
    let v := ls.getD (drawn s .victim % ls.length) 0
    let s :=
      if full then
        match lineGet s v with
        | some d =>
          let t := linePut (afterDraw s) v (some (if instr then setI h false d else setD h false d))
          if instr then t else resvEvict t h v
        | none => s
      else s
    linePut s ln (some (if instr then setI h true c else setD h true c))

/-- A line is brought to a hart's L1 from the L2 or from memory. -/
def lineFill (s : State) (h : HartId) (instr : Bool) (ln : Nat) : Except BusErr State :=
  match lineGet s ln with
  | some c => .ok (enterL1 s h instr ln c)
  | none =>
    match ramErr s (ln * 64) 64 with
    | some e => .error e
    | none =>
      let s := makeRoom s h ln
      let c : CLine := { data := s.rd (ln * 64) 64, dirty := false, inD0 := false, inD1 := false, inI0 := false, inI1 := false, held := false }
      .ok (enterL1 (linePut s ln (some c)) h instr ln c)

/-- n bytes at a as the caches show them, memory where they hold nothing. -/
def cachedBytes (s : State) (a n : Nat) : Bytes :=
  (List.range n).map fun k =>
    match lineGet s ((a + k) / 64) with
    | some c => byteAt c.data ((a + k) % 64)
    | none => memRead s.mem (a + k)

/-- The lines that n bytes at a touch. -/
def linesOf (a n : Nat) : List Nat :=
  (List.range ((a + (n - 1)) / 64 - a / 64 + 1)).map fun k => a / 64 + k

def fillAll (s : State) (h : HartId) (instr : Bool) : List Nat → Except BusErr State
  | [] => .ok s
  | l :: ls =>
    match lineFill s h instr l with
    | .error e => .error e
    | .ok t => fillAll t h instr ls

/-- Bytes of one line change in the caches: the line is dirty, and the other hart's L1 data copy goes. -/
def lineStore (s : State) (h : HartId) (ln a : Nat) (bs : Bytes) : State :=
  match lineGet s ln with
  | none => s
  | some c =>
    let d := (List.range 64).map fun k =>
      let x := ln * 64 + k
      if a ≤ x ∧ x < a + bs.length then byteAt bs (x - a) else byteAt c.data k
    linePut s ln (some { setD (1 - h) false c with data := d, dirty := true })

/-- A store's accesses, one for each line it touches, in order: the line is brought in, its bytes change and the
reservations on its granule end (R345, R354, R417). One that fails leaves those before it written (R357): its address and
cause. -/
def storeLines (h : HartId) (a : Nat) (bs : Bytes) : List Nat → State → Option (Nat × BusErr) × State
  | [], s => (none, s)
  | l :: ls, s =>
    let lo := max a (l * 64)
    let hi := min (a + bs.length) (l * 64 + 64)
    match lineFill s h false l with
    | .error e => (some (lo, e), s)
    | .ok t => storeLines h a bs ls (noteHomeWrite (noteMastWrite (lineStore t h l a bs) lo (hi - lo)) lo (hi - lo))

/-- A store to cacheable memory takes effect: write-allocate. -/
def cachedStore (s : State) (h : HartId) (a : Nat) (bs : Bytes) : Option (Nat × BusErr) × State :=
  storeLines h a bs (linesOf a bs.length) s

/-- A coherent access from outside the harts, by the PCIe endpoint (R345, R373). -/
def coherentWrite (s : State) (a : Nat) (bs : Bytes) : State :=
  let s := s.wr a bs
  let s := (linesOf a bs.length).foldl (fun t l =>
    match lineGet t l with
    | none => t
    | some c => linePut t l (some { c with data := (List.range 64).map fun k =>
        let x := l * 64 + k
        if a ≤ x ∧ x < a + bs.length then byteAt bs (x - a) else byteAt c.data k })) s
  noteHomeWrite (noteMastWrite s a bs.length) a bs.length

/-! ## Checks at issue -/

/-- ACT initiator of a hart at a level (Table 14-9). -/
def hartInit (h : HartId) (sup : Bool) : Nat := 21 + 2 * h.val + b2n sup

/-- An access is uncached and ordered: a DEVICE region, or registers. -/
def deviceAt (s : State) (h : HartId) (sup : Bool) (a n : Nat) : Bool :=
  !isRam a || actDevice s.act.force (hartInit h sup) a n

/-- 48-bit address with none of [63:48] set (R332). -/
def highAddr (a : Nat) : Bool := decide (2 ^ 48 ≤ a)

/-! ## Store buffer (R368, R369) -/

/-- The oldest buffered store takes effect or fails; none for an empty buffer. -/
def drainOne (s : State) (h : HartId) : Option (State × Bool) :=
  match (hartOf s h).sb with
  | [] => none
  | e :: es =>
    let s := hartMod s h fun x => { x with sb := es }
    let fail := fun (r : BusErr) => some (storeErr s h e.addr (errDetail r), true)
    match placeOf s e.addr with
    | .there home off =>
      match remoteWrite s (.mastStore h e.addr) home (b2n e.sup) off e.bytes with
      | (some r, _) => fail r
      | (none, t) => some (t, false)
    | .here a =>
      if e.device then
        match busErr s a e.bytes.length with
        | some r => fail r
        | none => some (noteMastWrite (busWrite s (.mast h) a e.bytes) a e.bytes.length, false)
      else
        match cachedStore s h a e.bytes with
        | (some (x, r), t) => some (storeErr t h (e.addr + (x - a)) (errDetail r), true)
        | (none, t) => some (t, false)

/-- The k oldest buffered stores drain. -/
def drainN (h : HartId) : Nat → State → State
  | 0, s => s
  | k + 1, s =>
    match drainOne s h with
    | none => s
    | some (t, _) => drainN h k t

def drainAll (s : State) (h : HartId) : State := drainN h (hartOf s h).sb.length s

/-- Two byte ranges overlap. -/
def overlaps (a n b m : Nat) : Bool := decide (a < b + m) && decide (b < a + n)

/-- Index of the youngest buffered store that overlaps n bytes at a, with the store. -/
def youngest (sb : List SbEntry) (a n : Nat) : Option (Nat × SbEntry) :=
  (sb.zipIdx).foldl (fun g e => if overlaps a n e.1.addr e.1.bytes.length then some (e.2, e.1) else g) none

/-- A store enters the buffer; a full one drains its oldest first. -/
def pushStore (s : State) (h : HartId) (e : SbEntry) : State :=
  let s := if 16 ≤ (hartOf s h).sb.length then drainN h 1 s else s
  hartMod s h fun x => { x with sb := x.sb ++ [e] }

/-! ## Other chips (R415; log 60) -/

/-- The answer to what a word asked of another chip. -/
inductive AskRes where
  | got (d : Bytes) (s : State)
  | err (e : BusErr) (s : State)
  | wait (s : State)

/-- The word asks once and finds its answer when it is issued again. -/
def hartAsk (s : State) (h : HartId) (kind : Nat) (home : ChipId) (off op : Nat) (data : Bytes) : AskRes :=
  let x := hartOf s h
  match x.rem.find? fun b => b.kind == kind && b.home == home && b.off == off && b.op == op with
  | some b =>
    match b.res with
    | some (.data d) => .got d s
    | some (.err c) => .err (causeErr c) s
    | none => .wait s
  | none =>
    match remoteRequest s (.mast h) home kind off op (b2n x.sup) data with
    | .err e => .err e s
    | .full => .wait s
    | .sent tag t =>
      .wait (hartMod t h fun x => { x with rem := x.rem ++
        [{ tag := tag, kind := kind, home := home, off := off, op := op, res := none }] })

/-- The pieces of n bytes that do not cross a line: (offset, bytes). -/
def pieces (off n : Nat) : List (Nat × Nat) :=
  let room := 64 - off % 64
  if n ≤ room then [(off, n)] else [(off, room), (off + room, n - room)]

def askPieces (h : HartId) (home : ChipId) : List (Nat × Nat) → State → Bytes → AskRes
  | [], s, acc => .got acc s
  | p :: ps, s, acc =>
    match hartAsk s h mkRd home p.1 (p.2 - 1) [] with
    | .got d t => askPieces h home ps t (acc ++ padTo p.2 d)
    | .err e t => .err e t
    | .wait t => .wait t

/-- n bytes from another chip. -/
def hartRemote (s : State) (h : HartId) (home : ChipId) (off n : Nat) : AskRes :=
  askPieces h home (pieces off n) s []

/-! ## Loads, stores and fetches -/

/-- A load may be performed: its address and rights are good and its target on this chip answers (R332, R354, R359). -/
def loadCheck (s : State) (h : HartId) (q : Bool) (a n : Nat) : MemRes Unit :=
  let sup := (hartOf s h).sup
  if highAddr a then .trap 0x03 6 a s
  else
    match placeOf s a with
    | .there _ _ => .ok () s
    | .here b =>
      match actCheck s (hartInit h sup) accLoad b n with
      | some t => .trap 0x03 1 a t
      | none =>
        if q && deviceAt s h sup b n && decide (b % 16 ≠ 0) then .trap 0x03 5 a s
        else
          match busErr s b n with
          | some e => loadTrap e 0x03 a s
          | none => .ok () s

/-- Every byte of a load lies within a buffered store that may be forwarded (R369). -/
def covers (e : SbEntry) (a n : Nat) : Bool :=
  decide (e.addr ≤ a) && decide (a + n ≤ e.addr + e.bytes.length) && !e.device

/-- A checked load of this chip is performed: DEVICE loads after every earlier DEVICE store (R365), others with the
forwarding of R369. -/
def loadHere (s : State) (h : HartId) (b n : Nat) : Bytes × State :=
  if deviceAt s h (hartOf s h).sup b n then busRead (drainAll s h) b n
  else
    let read := fun (s : State) =>
      match fillAll s h false (linesOf b n) with
      | .ok t => (cachedBytes t b n, t)
      | .error _ => (cachedBytes s b n, s)
    match youngest (hartOf s h).sb b n with
    | none => read s
    | some (k, e) => if covers e b n then (slice e.bytes (b - e.addr) n, s) else read (drainN h (k + 1) s)

/-- Stores of a hart that another chip has not acknowledged and that may touch n bytes at a global address: what
follows them on the same bytes waits (R364). -/
def storesTouch (s : State) (h : HartId) (a n : Nat) : Bool :=
  s.fab.remotes.any fun r => match r.wait with
    | .mastStore k b => k == h && (linesOf b 16).any fun l => (linesOf a n).contains l
    | _ => false

/-- A load from another chip: from the youngest buffered store that overlaps it where that covers it, else once those
stores have been accepted at their target, by requests whose answers are awaited (R364, R369; log 60). -/
def loadThere (s : State) (h : HartId) (home : ChipId) (off a n : Nat) : MemRes Bytes :=
  let ask := fun (s : State) =>
    if storesTouch s h a n then .wait s
    else match hartRemote s h home off n with
      | .got d t => .ok d t
      | .err e t => loadTrap e 0x03 a t
      | .wait t => .wait t
  match youngest (hartOf s h).sb a n with
  | none => ask s
  | some (k, e) => if covers e a n then .ok (slice e.bytes (a - e.addr) n) s else ask (drainN h (k + 1) s)

/-- A checked load is performed. -/
def doLoad (s : State) (h : HartId) (a n : Nat) : MemRes Bytes :=
  match placeOf s a with
  | .there home off => loadThere s h home off a n
  | .here b => let (d, t) := loadHere s h b n; .ok d t

/-- Kind of a QST's refusal: one that an ordinary store would not meet is VEC_ST (R357). -/
def qstDetail (s : State) (init a n : Nat) : Nat :=
  if (actDenied s.act.force init accStore a n).isSome then 1 else 4

/-- A store may enter the buffer (R357, R359, R377). -/
def storeCheck (s : State) (h : HartId) (q : Bool) (a n : Nat) : MemRes Unit :=
  let sup := (hartOf s h).sup
  if highAddr a then .trap 0x04 6 a s
  else if s.mast.cmo.isSome then .wait s
  else
    match placeOf s a with
    | .there _ _ => .ok () s
    | .here b =>
      match actCheck s (hartInit h sup) (if q then accQst else accStore) b n with
      | some t => .trap 0x04 (if q then qstDetail s (hartInit h sup) b n else 1) a t
      | none =>
        if q && deviceAt s h sup b n && decide (b % 16 ≠ 0) then .trap 0x04 5 a s
        else .ok () s

/-- A checked store enters the buffer; a global address of this chip is kept as its local equivalent (R346). -/
def doStore (s : State) (h : HartId) (a : Nat) (bs : Bytes) : State :=
  let sup := (hartOf s h).sup
  match placeOf s a with
  | .there _ _ => pushStore s h { addr := a, bytes := bs, device := false, sup := sup }
  | .here b => pushStore s h { addr := b, bytes := bs, device := deviceAt s h sup b bs.length, sup := sup }

/-- The word at pc (R333, R359). -/
def hartFetch (s : State) (h : HartId) : MemRes W32 :=
  let x := hartOf s h
  let a := x.pc.toNat / 4 * 4
  let word := fun (b : Bytes) => BitVec.ofNat 32 (leNat (padTo 4 b))
  if highAddr a then .trap 0x02 6 a s
  else
    match placeOf s a with
    | .there home off =>
      match hartRemote s h home off 4 with
      | .got d t => .ok (word d) t
      | .err e t => loadTrap e 0x02 a t
      | .wait t => .wait t
    | .here b =>
      match actCheck s (hartInit h x.sup) accFetch b 4 with
      | some t => .trap 0x02 1 a t
      | none =>
        if deviceAt s h x.sup b 4 then
          match busErr s b 4 with
          | some e => loadTrap e 0x02 a s
          | none => let (d, t) := busRead s b 4; .ok (word d) t
        else
          match lineFill s h true (b / 64) with
          | .error e => loadTrap e 0x02 a s
          | .ok t => .ok (word (cachedBytes t b 4)) t

end Sys2Proof.Machine
end

