-- ==== Sys2Proof/Machine/Mast.lean ====
section
/-!
DEFINITION. The Mast harts: registers, control words, traps and interrupts, and the meaning of every Luaca
word (R331 to R378, Tables 10-1 to 10-17, 9-4). A command names the class of word that the hart issues; it
does nothing when the word at pc is of another class.
-/

namespace Sys2Proof.Machine

/-! ## Registers -/

/-- x0 reads 0 (Table 10-1). -/
def Hart.getX (x : Hart) (r : Xr) : W64 := if r = 0 then 0 else x.x.get r

/-- Writes to x0 are discarded. -/
def Hart.setX (x : Hart) (r : Xr) (v : W64) : Hart := if r = 0 then x else { x with x := vput x.x r v }

def Hart.getF (x : Hart) (r : Xr) : W64 := x.f.get r
def Hart.setF (x : Hart) (r : Xr) (v : W64) : Hart := { x with f := vput x.f r v }

/-- A binary32 value as an f register holds it. -/
def box32 (v : Nat) : W64 := BitVec.ofNat 64 (v % 2 ^ 32 + (2 ^ 32 - 1) * 2 ^ 32)

/-- A q register can be named in the present mode (R355). -/
def Hart.qOk (x : Hart) (r : Xr) : Bool := x.qMode || decide (r.val < 16)

def Hart.getQ (x : Hart) (r : Xr) : Nat :=
  if x.qMode then (x.q.get r).toNat
  else (x.f.get (xr (2 * r.val))).toNat + 2 ^ 64 * (x.f.get (xr (2 * r.val + 1))).toNat

def Hart.setQ (x : Hart) (r : Xr) (v : Nat) : Hart :=
  if x.qMode then { x with q := vput x.q r (BitVec.ofNat 128 v) }
  else (x.setF (xr (2 * r.val)) (BitVec.ofNat 64 v)).setF (xr (2 * r.val + 1)) (BitVec.ofNat 64 (v / 2 ^ 64))

def Hart.addFlags (x : Hart) (k : Nat) : Hart := { x with fpFlags := x.fpFlags ||| BitVec.ofNat 5 k }

/-! ## Interrupts pending (R361, R362, Table 10-10) -/

/-- A source of MC_IRQROUTE goes to the hart its bit selects. -/
def routedTo (s : State) (h : HartId) (n : Nat) : Bool := s.mast.irqRoute.getLsbD n == decide (h = 1)

/-- Sources 7 to 9: the spec names no event that raises them, so whether one has come is free (log 62). -/
def openSource (s : State) (n : Nat) : Bool := Config.freeOf .unspecified [0x1E, n, s.free] % 2 == 1

/-- A source holds its interrupt. -/
def sourceUp (s : State) (n : Nat) : Bool :=
  match n with
  | 2 => s.cleatA.m2cWr != s.cleatA.m2cRd
  | 3 => s.cleatB.toList.any fun q => q.irqEn && q.owner != 2 && q.done != q.read
  | 4 => s.pht.slots.toList.any fun t => t.fired && t.irqEn
  | 5 => s.mast.events.getLsbD 5
  | 6 => s.cap.splitIrq
  | 7 => s.mast.events.getLsbD 7 || openSource s 7
  | 8 => s.mast.events.getLsbD 8 || openSource s 8
  | 9 => s.mast.events.getLsbD 9 || openSource s 9
  | 10 => s.io.irqStat != 0
  | _ => false

def pendingBit (s : State) (h : HartId) (n : Nat) : Bool :=
  match n with
  | 0 => (hartOf s h).soft
  | 1 => decide ((hartOf s h).tcmp ≤ s.pht.record.nt)
  | 11 => (s.mast.sterr.get h).getLsbD 63
  | _ => routedTo s h n && sourceUp s n

/-- SV_IPEND. -/
def ipend (s : State) (h : HartId) : W64 :=
  (List.range 12).foldl (fun (m : W64) n => if pendingBit s h n then m ||| (1#64 <<< n) else m) 0

/-! ## Control words (Tables 10-13 to 10-16) -/

def svStat (x : Hart) : Nat := b2n x.ie + 2 * b2n x.pie + 4 * b2n x.plv + 8 * b2n x.ucl

/-- A control word, none where Table 10-16 names none. -/
def cwRead (s : State) (h : HartId) (n : Nat) : Option W64 :=
  let x := hartOf s h
  match n with
  | 0x010 => some (BitVec.ofNat 64 (x.fpRound.toNat + 16 * x.fpFlags.toNat))
  | 0x200 => some (BitVec.ofNat 64 (svStat x))
  | 0x204 => some x.ien
  | 0x205 => some (ipend s h)
  | 0x208 => some (x.vecBase ||| BitVec.ofNat 64 (b2n x.vec))
  | 0x209 => some (x.cpen.setWidth 64)
  | 0x20C => some x.scr
  | 0x210 => some x.epc
  | 0x211 => some (x.cause.setWidth 64)
  | 0x212 => some x.info
  | 0x218 => some x.tcmp
  | 0x300 => some (BitVec.ofNat 64 (b2n x.qMode + 2 * b2n x.qSat))
  | 0x400 => some x.cntCyc
  | 0x401 => some s.pht.record.nt
  | 0x402 => some x.cntOps
  | 0x408 => some (BitVec.ofNat 64 h.val)
  | _ => none

/-- Control words a word at U level may reach. -/
def cwUser (n : Nat) : Bool :=
  n == 0x010 || n == 0x300 || n == 0x400 || n == 0x401 || n == 0x402

/-- QCFG written: a change of MODE clears the q registers of both modes, f and SAT (R355). -/
def Hart.writeQcfg (x : Hart) (v : W64) : Hart :=
  if v.getLsbD 0 ≠ x.qMode then
    { x with qMode := v.getLsbD 0, qSat := false, f := Vector.replicate 32 0, q := Vector.replicate 32 0 }
  else { x with qSat := v.getLsbD 1 }

def Hart.writeCw (x : Hart) (n : Nat) (v : W64) : Hart :=
  match n with
  | 0x010 => { x with
      fpRound := if (v.extractLsb' 0 3).toNat ≤ 4 then v.extractLsb' 0 3 else x.fpRound, fpFlags := v.extractLsb' 4 5 }
  | 0x200 => { x with ie := v.getLsbD 0, pie := v.getLsbD 1, plv := v.getLsbD 2, ucl := v.getLsbD 3 }
  | 0x204 => { x with ien := v &&& 0xFFF }
  | 0x205 => { x with soft := x.soft && !v.getLsbD 0 }
  | 0x208 => { x with vec := v.getLsbD 0, vecBase := v &&& ~~~0xFF }
  | 0x209 => { x with cpen := v.extractLsb' 0 8 }
  | 0x20C => { x with scr := v }
  | 0x210 => { x with epc := v }
  | 0x211 => { x with cause := v.extractLsb' 0 18 }
  | 0x212 => { x with info := v }
  | 0x218 => { x with tcmp := v }
  | 0x300 => x.writeQcfg v
  | _ => x

/-! ## Traps and interrupts (R360, R361) -/

/-- The hart enters S level at its handler: EPC, CAUSE and INFO, the interrupt enable and the level saved;
the reservation is lost (R345, R417). -/
def Hart.enter (x : Hart) (epc : W64) (cause : BitVec 18) (info target : W64) : Hart :=
  { x with epc := epc, cause := cause, info := info, pie := x.ie, plv := x.sup, ie := false, sup := true,
           resv := none, waiti := false, rem := [], pc := target }

def causeOf (code detail : Nat) (slotB irq : Bool) : BitVec 18 :=
  BitVec.ofNat 18 (code % 256 + (detail % 256) * 2 ^ 8 + b2n slotB * 2 ^ 16 + b2n irq * 2 ^ 17)

/-- An exception is taken at its word. -/
def takeTrap (s : State) (h : HartId) (code detail info : Nat) (slotB : Bool) : State :=
  hartMod s h fun x =>
    x.enter x.pc (causeOf code detail slotB false) (BitVec.ofNat 64 info) x.vecBase

/-- The interrupt to be taken: code 11 first, then the lowest code. -/
def pickIrq (s : State) (h : HartId) : Option Nat :=
  let m := ipend s h &&& (hartOf s h).ien
  if m.getLsbD 11 then some 11 else (List.range 11).find? fun n => m.getLsbD n

/-- An interrupt is taken between words; an event source stops pending. -/
def takeIrq (s : State) (h : HartId) (n : Nat) : State :=
  let s := { s with mast.events := s.mast.events &&& ~~~(1#16 <<< n) }
  hartMod s h fun x =>
    let t := if x.vec then x.vecBase + BitVec.ofNat 64 (64 * (n + 1)) else x.vecBase
    x.enter x.pc (causeOf n 0 false true) 0 t

/-! ## What a word comes to -/

inductive Issue where
  | done (s : State)
  | trap (code detail info : Nat) (slotB : Bool) (s : State)
  | wait (s : State)

/-- A word has executed: pc, CNT_OPS by its operations, CNT_CYC by a free count (log 63). -/
def retire (s : State) (h : HartId) (ops : Nat) (pc : W64) : State :=
  let n := drawn s .cycles
  afterDraw (hartMod s h fun x => { x with
    pc := pc &&& ~~~3, rem := [], cntOps := x.cntOps + BitVec.ofNat 64 ops, cntCyc := x.cntCyc + BitVec.ofNat 64 n })

/-- One operation that goes on to the next word. -/
def step1 (s : State) (h : HartId) (f : Hart → Hart) : Issue :=
  .done (retire (hartMod s h f) h 1 ((hartOf s h).pc + 4))

def illegal (s : State) (w : W32) : Issue := .trap 0x01 0 w.toNat false s

/-- A check goes before what the word then does. -/
def MemRes.bind {α : Type} (r : MemRes α) (slotB : Bool) (f : α → State → Issue) : Issue :=
  match r with
  | .ok v s => f v s
  | .trap c d i s => .trap c d i slotB s
  | .wait s => .wait s

/-! ## Integer operations (Table 10-4) -/

/-- A shift count not below the width has no stated result. -/
def shiftVal (w kind : Nat) (a : BitVec 64) (n : Nat) : Nat :=
  let x := a.toNat % 2 ^ w
  if w ≤ n then Config.freeOf .shift [w, kind, a.toNat, n] % 2 ^ w
  else match kind with
    | 0 => x * 2 ^ n % 2 ^ w
    | 1 => x / 2 ^ n
    | _ => wrapInt w (sext w x / (2 ^ n : Nat))

/-- The low 32 bits sign-extended. -/
def word32 (v : Nat) : W64 := BitVec.ofInt 64 (sext 32 v)

def aluVal (f : Nat) (a b : W64) : W64 :=
  match f with
  | 0 => a + b
  | 1 => a - b
  | 2 => BitVec.ofNat 64 (shiftVal 64 0 a b.toNat)
  | 3 => BitVec.ofNat 64 (b2n (a.slt b))
  | 4 => BitVec.ofNat 64 (b2n (a.ult b))
  | 5 => a ^^^ b
  | 6 => BitVec.ofNat 64 (shiftVal 64 1 a b.toNat)
  | 7 => BitVec.ofNat 64 (shiftVal 64 2 a b.toNat)
  | 8 => a ||| b
  | 9 => a &&& b
  | 10 => word32 (a + b).toNat
  | 11 => word32 (a - b).toNat
  | 12 => word32 (shiftVal 32 0 a b.toNat)
  | 13 => word32 (shiftVal 32 1 a b.toNat)
  | 14 => word32 (shiftVal 32 2 a b.toNat)
  | 15 => if a.slt b then a else b
  | 16 => if a.slt b then b else a
  | 17 => if a.ult b then a else b
  | _ => if a.ult b then b else a

/-- The operation of MAJOR 0x22 that an F4 code of MAJOR 0x23 names. -/
def aluiF (f : Nat) : Nat :=
  match f with
  | 0 => 0 | 1 => 3 | 2 => 4 | 3 => 9 | 4 => 8 | 5 => 5 | 6 => 2 | 7 => 6 | 8 => 7
  | 9 => 10 | 10 => 12 | 11 => 13 | _ => 14

/-- Division by zero gives all ones and the dividend; the overflowing one itself and 0 (R335). -/
def divS (w : Nat) (a b : Nat) : Nat :=
  if b % 2 ^ w = 0 then 2 ^ w - 1 else wrapInt w ((sext w a).tdiv (sext w b))
def remS (w : Nat) (a b : Nat) : Nat :=
  if b % 2 ^ w = 0 then a % 2 ^ w else wrapInt w ((sext w a).tmod (sext w b))
def divU (w : Nat) (a b : Nat) : Nat :=
  if b % 2 ^ w = 0 then 2 ^ w - 1 else (a % 2 ^ w) / (b % 2 ^ w)
def remU (w : Nat) (a b : Nat) : Nat :=
  if b % 2 ^ w = 0 then a % 2 ^ w else (a % 2 ^ w) % (b % 2 ^ w)

def mulVal (f : Nat) (x y : W64) : W64 :=
  let a := x.toNat
  let b := y.toNat
  match f with
  | 0 => x * y
  | 1 => BitVec.ofInt 64 (x.toInt * y.toInt / (2 ^ 64 : Nat))
  | 2 => BitVec.ofInt 64 (x.toInt * (b : Int) / (2 ^ 64 : Nat))
  | 3 => BitVec.ofNat 64 (a * b / 2 ^ 64)
  | 4 => BitVec.ofNat 64 (divS 64 a b)
  | 5 => BitVec.ofNat 64 (divU 64 a b)
  | 6 => BitVec.ofNat 64 (remS 64 a b)
  | 7 => BitVec.ofNat 64 (remU 64 a b)
  | 8 => word32 (a * b)
  | 9 => word32 (divS 32 a b)
  | 10 => word32 (divU 32 a b)
  | 11 => word32 (remS 32 a b)
  | _ => word32 (remU 32 a b)

def brTaken (cond : Nat) (a b : W64) : Bool :=
  match cond with
  | 0 => a == b
  | 1 => a != b
  | 2 => a.slt b
  | 3 => !a.slt b
  | 4 => a.ult b
  | _ => !a.ult b

/-- An address a number of words away from a word's own. -/
def wordOfs (pc : W64) (ofs : Int) : W64 := pc + BitVec.ofInt 64 (4 * ofs)

/-! ## Floating point (Table 10-4, MAJOR 0x2A) -/

/-- Result of a floating-point operation: to an f register in a format, or to x. -/
inductive FpRes where
  | f (fmt : FpFmt) (v flags : Nat)
  | x (v : W64) (flags : Nat)

/-- An unsigned 32-bit result in x: whether it is sign- or zero-extended is not stated (log 89). -/
def uword32 (v : Nat) : W64 :=
  if Config.freeOf .form [0x35] % 2 = 0 then word32 v else BitVec.ofNat 64 (v % 2 ^ 32)

/-- fd + product or, for FMSUB, fd less the product or the product less fd (log 89). -/
def fpMadd (fm : FpFmt) (rm : Nat) (sub : Bool) (a b d : Nat) : Nat × Nat :=
  let neg := fun (v : Nat) => v ^^^ 2 ^ (fm.width - 1)
  if !sub then fpFma fm rm a b d
  else if Config.freeOf .form [0x2A] % 2 = 0 then fpFma fm rm (neg a) b d else fpFma fm rm a b (neg d)

/-- The operation f on the registers' bits a and b, the destination's old bits d and the x source xs. -/
def fpExec (f : Nat) (fm : FpFmt) (rm a b d : Nat) (av xs : W64) : FpRes :=
  let sg := fm.width - 1
  let mag := bits a 0 sg
  let r := fun (p : Nat × Nat) => FpRes.f fm p.1 p.2
  let cmp := fun (p : Bool × Nat) => FpRes.x (BitVec.ofNat 64 (b2n p.1)) p.2
  match f with
  | 0 => r (fpAdd fm rm a b)
  | 1 => r (fpSub fm rm a b)
  | 2 => r (fpMul fm rm a b)
  | 3 => r (fpDiv fm rm a b)
  | 4 => r (fpSqrt fm rm a)
  | 5 => r (fpMin fm a b)
  | 6 => r (fpMaximum fm a b)
  | 7 => r (mag + b2n (bitOf b sg) * 2 ^ sg, 0)
  | 8 => r (mag + b2n (!bitOf b sg) * 2 ^ sg, 0)
  | 9 => r (mag + b2n (bitOf a sg != bitOf b sg) * 2 ^ sg, 0)
  | 10 => cmp (fpEq fm a b)
  | 11 => cmp (fpLt fm a b)
  | 12 => cmp (fpLe fm a b)
  | 13 => .x (BitVec.ofNat 64 (Config.freeOf .fpNan [13, fm.mb, a])) 0
  | 14 => r (fpMadd fm rm false a b d)
  | 15 => r (fpMadd fm rm true a b d)
  | 16 => let (v, k) := fpToInt fm rm a 32 true; .x (word32 v) k
  | 17 => let (v, k) := fpToInt fm rm a 32 false; .x (uword32 v) k
  | 18 => let (v, k) := fpToInt fm rm a 64 true; .x (BitVec.ofNat 64 v) k
  | 19 => let (v, k) := fpToInt fm rm a 64 false; .x (BitVec.ofNat 64 v) k
  | 20 => r (fpOfInt fm rm (sext 32 xs.toNat))
  | 21 => r (fpOfInt fm rm (xs.toNat % 2 ^ 32))
  | 22 => r (fpOfInt fm rm xs.toInt)
  | 23 => r (fpOfInt fm rm xs.toNat)
  | 24 => let (v, k) := fpConv fp64 fp32 rm av.toNat; .f fp32 v k
  | 25 => let (v, k) := fpConv fp32 fp64 rm (av.toNat % 2 ^ 32); .f fp64 v k
  | 26 => .x av 0
  | _ => .f fp64 xs.toNat 0

def Hart.putFp (x : Hart) (rd : Xr) : FpRes → Hart
  | .f fm v k => (x.setF rd (if fm = fp32 then box32 v else BitVec.ofNat 64 v)).addFlags k
  | .x v k => (x.setX rd v).addFlags k

def issueFp (s : State) (h : HartId) (f : Nat) (dbl : Bool) (rm : Nat) (rd rs1 rs2 : Xr) : Issue :=
  let x := hartOf s h
  let fm := if dbl then fp64 else fp32
  let cut := fun (v : W64) => v.toNat % 2 ^ fm.width
  let rm' := if rm = 7 then x.fpRound.toNat else rm
  let r := fpExec f fm rm' (cut (x.getF rs1)) (cut (x.getF rs2)) (cut (x.getF rd)) (x.getF rs1) (x.getX rs1)
  step1 s h fun x => x.putFp rd r

/-! ## Loads and stores -/

/-- Size of an access by MOP, and whether a load sign-extends. -/
def mopSize (mop : Nat) : Nat :=
  match mop with
  | 0 => 1 | 1 => 1 | 2 => 2 | 3 => 2 | 4 => 4 | 5 => 4 | 6 => 8 | 7 => 4 | 8 => 8
  | 9 => 1 | 10 => 2 | 11 => 4 | 12 => 8 | 13 => 4 | _ => 8

/-- What a load puts into its register. -/
def Hart.putLoad (x : Hart) (mop : Nat) (rt : Xr) (bs : Bytes) : Hart :=
  let v := leNat bs
  match mop with
  | 0 => x.setX rt (BitVec.ofInt 64 (sext 8 v))
  | 2 => x.setX rt (BitVec.ofInt 64 (sext 16 v))
  | 4 => x.setX rt (BitVec.ofInt 64 (sext 32 v))
  | 7 => x.setF rt (box32 v)
  | 8 => x.setF rt (BitVec.ofNat 64 v)
  | _ => x.setX rt (BitVec.ofNat 64 v)

/-- The bytes a store gives. -/
def storeBytes (x : Hart) (mop : Nat) (rt : Xr) : Bytes :=
  toLE (mopSize mop) (if mop = 13 ∨ mop = 14 then x.getF rt else x.getX rt).toNat

def effAddr (x : Hart) (base : Xr) (disp : Int) : Nat := (x.getX base + BitVec.ofInt 64 disp).toNat

def issueLoad (s : State) (h : HartId) (mop : Nat) (rt base : Xr) (disp : Int) : Issue :=
  let a := effAddr (hartOf s h) base disp
  let n := mopSize mop
  if a % n ≠ 0 then .trap 0x05 0 a false s
  else (loadCheck s h false a n).bind false fun _ s =>
    (doLoad s h a n).bind false fun b s => step1 s h fun x => x.putLoad mop rt b

def issueStore (s : State) (h : HartId) (mop : Nat) (rt base : Xr) (disp : Int) : Issue :=
  let x := hartOf s h
  let a := effAddr x base disp
  let n := mopSize mop
  if a % n ≠ 0 then .trap 0x06 0 a false s
  else (storeCheck s h false a n).bind false fun _ s =>
    step1 (doStore s h a (storeBytes x mop rt)) h id

/-- QLD and QST (R354, R356, R357). -/
def issueQld (s : State) (h : HartId) (w : W32) (rt base : Xr) (disp : Int) : Issue :=
  let x := hartOf s h
  let a := effAddr x base disp
  if !x.qOk rt then illegal s w
  else (loadCheck s h true a 16).bind false fun _ s =>
    (doLoad s h a 16).bind false fun b s => step1 s h fun x => x.setQ rt (leNat b)

def issueQst (s : State) (h : HartId) (w : W32) (rt base : Xr) (disp : Int) : Issue :=
  let x := hartOf s h
  let a := effAddr x base disp
  if !x.qOk rt then illegal s w
  else (storeCheck s h true a 16).bind false fun _ s =>
    step1 (doStore s h a (toLE 16 (x.getQ rt))) h id

/-! ## Pairs (R336 to R340) -/

/-- What a slot does to memory. -/
inductive SlotMem where
  | none
  | load (size : Nat) (fp : Bool) (rt : Xr) (addr : Nat)
  | store (addr : Nat) (bs : Bytes)

/-- What a slot does, from the registers before the pair. -/
structure SlotFx where
  wr : Option (Xr × W64)
  mem : SlotMem
  target : Option W64

def slotWr (r : Xr) (v : W64) : SlotFx := { wr := some (r, v), mem := .none, target := none }

def ShortOp.fx (x : Hart) (o : ShortOp) : SlotFx :=
  let jump := fun (b : Bool) (t : W64) => { wr := none, mem := .none, target := if b then some t else none : SlotFx }
  match o with
  | .reg k rd rs =>
    let a := x.getX rd
    let b := x.getX rs
    slotWr rd (match k with
      | 0 => b
      | 1 => a + b
      | 2 => a - b
      | 3 => a &&& b
      | 4 => a ||| b
      | 5 => a ^^^ b
      | 6 => aluVal 3 a b
      | 7 => aluVal 4 a b)
  | .addi rd imm => slotWr rd (x.getX rd + BitVec.ofInt 64 imm)
  | .li rd imm => slotWr rd (BitVec.ofInt 64 imm)
  | .slli rd n => slotWr rd (BitVec.ofNat 64 (shiftVal 64 0 (x.getX rd) n))
  | .srai rd n => slotWr rd (BitVec.ofNat 64 (shiftVal 64 2 (x.getX rd) n))
  | .srli rd n => slotWr rd (BitVec.ofNat 64 (shiftVal 64 1 (x.getX rd) n))
  | .andi rd imm => slotWr rd (x.getX rd &&& BitVec.ofInt 64 imm)
  | .load size fp rt base d => { wr := none, mem := .load size fp rt (effAddr x base d), target := none }
  | .store size fp rt base d =>
    { wr := none, mem := .store (effAddr x base d) (toLE size (if fp then x.getF rt else x.getX rt).toNat), target := none }
  | .brz nz rs ofs => jump ((x.getX rs == 0) != nz) (wordOfs x.pc ofs)
  | .j ofs => jump true (wordOfs x.pc ofs)
  | .jr link rs =>
    { wr := if link then some (1, x.pc + 4) else none, mem := .none, target := some (x.getX rs) }

/-- A slot's access may be performed. -/
def slotCheck (s : State) (h : HartId) : SlotMem → MemRes Unit
  | .none => .ok () s
  | .load n _ _ a => if a % n ≠ 0 then .trap 0x05 0 a s else loadCheck s h false a n
  | .store a bs => if a % bs.length ≠ 0 then .trap 0x06 0 a s else storeCheck s h false a bs.length

/-- The bytes of a slot that loads from another chip; none for any other slot. -/
def slotAsk (s : State) (h : HartId) : SlotMem → MemRes (Option Bytes)
  | .load n _ _ a =>
    match placeOf s a with
    | .there home off =>
      match loadThere s h home off a n with
      | .ok d t => .ok (some d) t
      | .trap c k i t => .trap c k i t
      | .wait t => .wait t
    | .here _ => .ok none s
  | _ => .ok none s

/-- Bytes loaded at an address as a store to the same place leaves them. -/
def patched (a : Nat) (d : Bytes) (b : Nat) (bs : Bytes) : Bytes :=
  (List.range d.length).map fun k =>
    if b ≤ a + k ∧ a + k < b + bs.length then byteAt bs (a + k - b) else byteAt d k

/-- Slot B's bytes from another chip, with what slot A stores there: slot A's access is the earlier one (R338). -/
def slotPatch (fa fb : SlotMem) (d : Option Bytes) : Option Bytes :=
  match fa, fb, d with
  | .store b bs, .load _ _ _ a, some d => some (patched a d b bs)
  | _, _, d => d

/-- A slot's access is performed: what a load brings. -/
def slotMem (s : State) (h : HartId) (m : SlotMem) (d : Option Bytes) : Option (Nat × Bool × Xr × Bytes) × State :=
  match m, d with
  | .load n fp rt _, some d => (some (n, fp, rt, d), s)
  | .load n fp rt a, none =>
    match placeOf s a with
    | .here b => let (d, t) := loadHere s h b n; (some (n, fp, rt, d), t)
    | .there _ _ => (none, s)
  | .store a bs, _ => (none, doStore s h a bs)
  | .none, _ => (none, s)

/-- A slot's register writes. -/
def Hart.slotWrite (x : Hart) (fx : SlotFx) (ld : Option (Nat × Bool × Xr × Bytes)) : Hart :=
  let x := match fx.wr with
    | some (r, v) => x.setX r v
    | none => x
  match ld with
  | some (n, fp, rt, b) => if fp then x.setF rt (BitVec.ofNat 64 (leNat b)) else x.putLoad (if n = 4 then 4 else 6) rt b
  | none => x

/-- A pair: both slots are checked, then what they load from other chips comes in, and only then do their accesses
take effect, slot A's before slot B's (R337, R338, R340). -/
def issuePair (s : State) (h : HartId) (a b : ShortOp) : Issue :=
  let x := hartOf s h
  let fa := a.fx x
  let fb := b.fx x
  (slotCheck s h fa.mem).bind false fun _ s =>
    (slotCheck s h fb.mem).bind true fun _ s =>
      (slotAsk s h fa.mem).bind false fun ra s =>
        (slotAsk s h fb.mem).bind true fun rb s =>
          let (la, s) := slotMem s h fa.mem ra
          let (lb, s) := slotMem s h fb.mem (slotPatch fa.mem fb.mem rb)
          let s := hartMod s h fun x => (x.slotWrite fa la).slotWrite fb lb
          .done (retire s h 2 (fb.target.getD (x.pc + 4)))

/-! ## Atomics (R344 to R348, R417, R418) -/

def atomSize (dbl : Bool) : Nat := if dbl then 8 else 4

def atomVal (dbl : Bool) (b : Bytes) : W64 :=
  if dbl then BitVec.ofNat 64 (leNat b) else word32 (leNat b)

/-- An atomic of another chip, after the hart's earlier stores to those bytes (R364, R417, R418). -/
def atomAsk (s : State) (h : HartId) (home : ChipId) (off a op : Nat) (data : Bytes) : AskRes :=
  let t := drainAll s h
  if storesTouch t h a 8 then .wait t else hartAsk t h mkAtom home off op data

def issueLr (s : State) (h : HartId) (dbl : Bool) (rd rs1 : Xr) : Issue :=
  let x := hartOf s h
  let a := (x.getX rs1).toNat
  let n := atomSize dbl
  if a % n ≠ 0 then .trap 0x05 0 a false s
  else if highAddr a then .trap 0x03 6 a false s
  else
    match placeOf s a with
    | .there home off =>
      match atomAsk s h home off a (if dbl then 2 else 1) (List.replicate 16 0) with
      | .got d s => step1 s h fun x => { x.setX rd (atomVal dbl (padTo n d)) with resv := some (.remote home (off / 64)) }
      | .err e s => (loadTrap e 0x03 a s : MemRes Unit).bind false fun _ s => .wait s
      | .wait s => .wait s
    | .here b =>
      match actCheck s (hartInit h x.sup) accAtomic b n with
      | some t => .trap 0x03 1 a false t
      | none =>
        if deviceAt s h x.sup b n then .trap 0x03 5 a false s
        else
          let t := drainAll s h
          match lineFill t h false (b / 64) with
          | .error e => (loadTrap e 0x03 a s : MemRes Unit).bind false fun _ s => .wait s
          | .ok t =>
            step1 t h fun x => { x.setX rd (atomVal dbl (cachedBytes t b n)) with resv := some (.own (b / 64)) }

/-- SC ends: the result in rd, the reservation gone. -/
def scEnd (s : State) (h : HartId) (rd : Xr) (ok : Bool) : Issue :=
  step1 s h fun x => { x.setX rd (if ok then 0 else 1) with resv := none }

def issueSc (s : State) (h : HartId) (dbl : Bool) (rd rs1 rs2 : Xr) : Issue :=
  let x := hartOf s h
  let a := (x.getX rs1).toNat
  let n := atomSize dbl
  let data := toLE n (x.getX rs2).toNat
  if a % n ≠ 0 then .trap 0x06 0 a false s
  else if highAddr a then .trap 0x04 6 a false s
  else if s.mast.cmo.isSome then .wait s
  else
    match placeOf s a with
    | .there home off =>
      if x.resv = some (.remote home (off / 64)) then
        match atomAsk s h home off a (if dbl then 4 else 3) (padTo 16 data) with
        | .got d s => scEnd s h rd (byteAt d 0 == 0)
        | .err e s => (loadTrap e 0x04 a s : MemRes Unit).bind false fun _ s => .wait s
        | .wait s => .wait s
      else scEnd s h rd false
    | .here b =>
      match actCheck s (hartInit h x.sup) accAtomic b n with
      | some t => .trap 0x04 1 a false t
      | none =>
        if deviceAt s h x.sup b n then .trap 0x04 5 a false s
        else
          let t := drainAll s h
          if (hartOf t h).resv = some (.own (b / 64)) then
            match cachedStore t h b data with
            | (some (_, e), _) => (loadTrap e 0x04 a s : MemRes Unit).bind false fun _ s => .wait s
            | (none, t) => scEnd t h rd true
          else scEnd t h rd false

def issueTas (s : State) (h : HartId) (rd rs1 : Xr) : Issue :=
  let x := hartOf s h
  let a := (x.getX rs1).toNat
  if highAddr a then .trap 0x04 6 a false s
  else if s.mast.cmo.isSome then .wait s
  else
    match placeOf s a with
    | .there home off =>
      match atomAsk s h home off a 0 (List.replicate 16 0) with
      | .got d s => step1 s h fun x => x.setX rd ((byteAt d 0).setWidth 64)
      | .err e s => (loadTrap e 0x04 a s : MemRes Unit).bind false fun _ s => .wait s
      | .wait s => .wait s
    | .here b =>
      match actCheck s (hartInit h x.sup) accAtomic b 1 with
      | some t => .trap 0x04 1 a false t
      | none =>
          match busErr s b 1 with
          | some e => (loadTrap e 0x04 a s : MemRes Unit).bind false fun _ s => .wait s
          | none =>
            let t := drainAll s h
            if deviceAt s h x.sup b 1 then
              let (d, t) := busRead t b 1
              let t := noteMastWrite (busWrite t (.mast h) b [1]) b 1
              step1 t h fun x => x.setX rd ((byteAt d 0).setWidth 64)
            else
              match lineFill t h false (b / 64) with
              | .error e => (loadTrap e 0x04 a s : MemRes Unit).bind false fun _ s => .wait s
              | .ok t =>
                let d := cachedBytes t b 1
                let t := (cachedStore t h b [1]).2
                step1 t h fun x => x.setX rd ((byteAt d 0).setWidth 64)

/-! ## Fences and cache operations (R366, R367, R374 to R377) -/

/-- Stores of a hart that another chip has not acknowledged. -/
def storesOut (s : State) (h : HartId) : Bool :=
  s.fab.remotes.any fun r => match r.wait with
    | .mastStore k _ => k == h
    | _ => false

/-- Accesses of a hart that are not complete: stores another chip has not acknowledged, and coprocessor operations,
which count as loads and stores, that have not come back (R366). -/
def accessesOut (s : State) (h : HartId) : Bool := storesOut s h || decide (0 < (hartOf s h).cpOut)

/-- FENCE: with stores in PRED the buffer drains; what SUCC names waits for what PRED names. -/
def issueFence (s : State) (h : HartId) (pred succ : Nat) : Issue :=
  if pred = 0 ∨ succ = 0 then step1 s h id
  else
    let s := if 2 ≤ pred then drainAll s h else s
    step1 s h fun x => { x with fence := if 2 ≤ pred then accessesOut s h else decide (0 < x.cpOut) }

/-- IFENCE: the hart's fetches go on once every earlier store has taken effect (R367). -/
def issueIfence (s : State) (h : HartId) : Issue :=
  let s := drainAll s h
  step1 s h fun x => { x with fence := storesOut s h }

/-- DCL.CLN, DCL.INV, DCL.FLS and DCL.ZRO on a line. -/
def dclLine (s : State) (h : HartId) (f : Fin 4) (ln : Nat) : State :=
  match f with
  | 0 =>
    match lineGet s ln with
    | some c => linePut (writeBack s h ln c) ln (some { c with dirty := false })
    | none => s
  | 1 => noteMastWrite (dropLine s h ln false) (ln * 64) 64
  | 2 => noteMastWrite (dropLine s h ln true) (ln * 64) 64
  | 3 =>
    let s := if (lineGet s ln).isNone then makeRoom s h ln else s
    let s := linePut s ln (some { data := List.replicate 64 0, dirty := true, inD0 := false, inD1 := false,
                                  inI0 := false, inI1 := false, held := false })
    noteHomeWrite (noteMastWrite s (ln * 64) 64) (ln * 64) 64

def issueDcl (s : State) (h : HartId) (w : W32) (f : Fin 4) (rs1 : Xr) : Issue :=
  let x := hartOf s h
  let a := (x.getX rs1).toNat
  if !x.sup && (f == 1 || !x.ucl) then illegal s w
  else if highAddr a then .trap 0x04 6 a false s
  else if s.mast.cmo.isSome then .wait s
  else
    let s := drainAll s h
    match placeOf s a with
    | .there _ _ => step1 s h id
    | .here b =>
      let ln := b / 64
      if deviceAt s h x.sup (ln * 64) 64 then step1 s h id
      else if f = 3 then
        match actCheck s (hartInit h x.sup) accStore (ln * 64) 64 with
        | some t => .trap 0x04 1 a false t
        | none => step1 (dclLine s h f ln) h id
      else step1 (dclLine s h f ln) h id

/-- ICL.INV: the line leaves both L1 instruction caches and the L2; whether dirty bytes are written back is
not stated. -/
def issueIcl (s : State) (h : HartId) (rs1 : Xr) : Issue :=
  let a := ((hartOf s h).getX rs1).toNat
  if highAddr a then .trap 0x03 6 a false s
  else
    match placeOf s a with
    | .there _ _ => step1 s h id
    | .here b =>
      let keep := Config.freeOf .form [0x1C1] % 2 = 0
      step1 (dropLine s h (b / 64) keep) h id

/-! ## Luaca-Q (Table 10-8) -/

def issueQ (s : State) (h : HartId) (w : W32) (major qf et : Nat) (qd qa qb : Xr) : Issue :=
  let x := hartOf s h
  let rm := x.fpRound.toNat
  let put := fun (v : Nat) => step1 s h fun x => x.setQ qd v
  if major = 0x30 then
    if x.qOk qd && x.qOk qa && x.qOk qb then
      let (v, sat) := qInt qf et (x.getQ qd) (x.getQ qa) (x.getQ qb)
      step1 s h fun x => { x.setQ qd v with qSat := x.qSat || sat }
    else illegal s w
  else if major = 0x31 then
    if x.qOk qd && x.qOk qa && x.qOk qb then
      let (v, k) := qFp rm qf et (x.getQ qd) (x.getQ qa) (x.getQ qb)
      step1 s h fun x => (x.setQ qd v).addFlags k
    else illegal s w
  else match qf with
    | 0 => if x.qOk qd && x.qOk qa && x.qOk qb then put (qPerm (x.getQ qa) (x.getQ qb)) else illegal s w
    | 1 => if x.qOk qd then put (qBuild (etWidth et) fun _ => (x.getX qa).toNat) else illegal s w
    | 2 => if x.qOk qa then step1 s h fun y => y.setX qd (qMvx et (x.getQ qa) qb.val) else illegal s w
    | 3 => if x.qOk qd then put (qMvqx et (x.getQ qd) (x.getX qa).toNat qb.val) else illegal s w
    | 4 =>
      if x.qOk qd && x.qOk qa then
        let (v, k) := qCvt rm et qb.val (x.getQ qd) (x.getQ qa)
        step1 s h fun x => (x.setQ qd v).addFlags k
      else illegal s w
    | _ =>
      if x.qOk qd && x.qOk qa && x.qOk qb then
        put (qFree [0x32, qf, et, x.getQ qd, x.getQ qa, x.getQ qb])
      else illegal s w

/-! ## Coprocessors (R349 to R353, Table 10-7) -/

/-- SV_INFO of a coprocessor error names FUNCT and the CP; the places are not stated (log 91). -/
def cpInfo (n funct : Nat) : Nat := Config.freeOf .unspecified [0xC9, n, funct] % 2 ^ 64

def cpDone (s : State) (h : HartId) (rd : Xr) (v : W64) : Issue := step1 s h fun x => x.setX rd v

def issueCp0 (s : State) (h : HartId) (w : W32) (fn : Nat) (rd rs1 : Xr) : Issue :=
  let x := hartOf s h
  let a := (x.getX rs1).toNat
  let q : QueueId := Fin.ofNat 8 (fn / 16)
  match fn % 16 with
  | 0 =>
    if a % 8 ≠ 0 then .trap 0x05 0 a false s
    else if (s.cleatB.get q).owner ≠ 3 then
      cpDone { s with cleatB := vmod s.cleatB q fun y => { y with ownerErr := true } } h rd (-2)
    else if 256 ≤ ((s.cleatB.get q).post - (s.cleatB.get q).read).toNat then
      cpDone { s with cleatB := vmod s.cleatB q fun y => { y with ovf := true } } h rd (-1)
    else (loadCheck s h false a 56).bind false fun _ s =>
      (doLoad (drainAll s h) h a 56).bind false fun b s =>
        match cp0Post s q b with
        | some (k, t) => cpDone t h rd (BitVec.ofNat 64 k)
        | none => cpDone s h rd (-1)
  | 1 => cpDone s h rd (BitVec.ofNat 64 (clbStat (s.cleatB.get q)))
  | 2 =>
    if !domUp s 12 then .trap 0x07 2 (cpInfo 0 fn) false s
    else cpDone (allCores.foldl (fun t c => if bitOf a c.val && domUp t (sparDom c) then irqRaise t c 4 else t) s) h rd 0
  | _ => illegal s w

/-- A Trim register that is 64 bits wide. -/
def trmWide (off : Nat) : Bool := off == 0x008 || off == 0x100 || off == 0x108 || off == 0x110

def trmRegRead (s : State) (off : Nat) : Nat :=
  trmRead s off + if trmWide off then 2 ^ 32 * trmRead s (off + 4) else 0

def trmRegWrite (s : State) (off : Nat) (v : W64) : State :=
  let t := trmWrite s off (v.extractLsb' 0 32)
  if trmWide off then trmWrite t (off + 4) (v.extractLsb' 32 32) else t

/-- CP1: Table 9-4; the result of a function that gives none is not stated. -/
def issueCp1 (s : State) (h : HartId) (w : W32) (fn : Nat) (rd rs1 rs2 : Xr) : Issue :=
  let x := hartOf s h
  let a := (x.getX rs1).toNat
  let open_ := BitVec.ofNat 64 (Config.freeOf .unspecified [0xC1, fn, a])
  if 8 ≤ fn % 16 then illegal s w
  else if !domUp s 10 then .trap 0x07 2 (cpInfo 1 fn) false s
  else match fn % 16 with
    | 4 => cpDone s h rd (BitVec.ofNat 64 (trmStat s.trim))
    | 5 => cpDone s h rd (BitVec.ofInt 64 s.trim.energy.toInt)
    | 6 => cpDone s h rd (BitVec.ofNat 64 (trmRegRead s a))
    | 7 => cpDone (trmRegWrite s a (x.getX rs2)) h rd open_
    | k => cpDone (trimCmd s k (a % 2 ^ 48)) h rd open_

/-- A phase or the network time of the newest phase-bus record. -/
def rdNow (s : State) (k : Nat) : Nat :=
  if k < 4 then (s.pht.record.phases.get (Fin.ofNat 4 k)).toNat else s.pht.record.nt.toNat

def issueCp2 (s : State) (h : HartId) (w : W32) (fn : Nat) (rd rs1 rs2 : Xr) : Issue :=
  let x := hartOf s h
  let a := (x.getX rs1).toNat
  match fn % 16 with
  | 0 => let (v, t) := phtRegRead s a; cpDone t h rd (BitVec.ofNat 64 v)
  | 1 => cpDone (phtRegWrite s a ((x.getX rs2).extractLsb' 0 32)) h rd 0
  | 2 => cpDone { s with pht := s.pht.stepNt (x.getX rs1).toInt } h rd 0
  | 3 => if bits fn 4 3 ≤ 4 then cpDone s h rd (BitVec.ofNat 64 (rdNow s (bits fn 4 3))) else illegal s w
  | _ => illegal s w

/-- CP4 to CP7: the operation goes to customer logic; the layout of its data slot is not stated (R350,
R349: at most four without rd are outstanding). -/
def issueCpx (s : State) (h : HartId) (n fn : Nat) (rd : Xr) (a b : W64) : Issue :=
  let x := hartOf s h
  let p := attachPort (Fin.ofNat 4 (n - 4))
  if rd = 0 ∧ 4 ≤ x.cpOut then .wait s
  else if 256 ≤ s.fab.remotes.length then .wait s
  else
    let tag := s.fab.nextTag
    let own := ownChip s
    let body := toLE 16 (Config.freeOf .unspecified [0xC4, n, fn, a.toNat, b.toNat])
    let m := mkMessage mkCpx own.val own.val tag.toNat 0 0 (b2n x.sup) 0 body
    let s := { s with fab.nextTag := tag + 1, fab.remotes := s.fab.remotes ++ [{ tag := tag, home := own, wait := .cp h (Fin.ofNat 8 n) fn (if rd = 0 then none else some rd) }] }
    let s := enqueue (emit s (.attach p h (toLE 1 n ++ toLE 2 fn ++ toLE 8 a.toNat ++ toLE 8 b.toNat))) none p m
    if rd = 0 then step1 s h fun x => { x with cpOut := x.cpOut + 1 }
    else .done (hartMod s h fun x => { x with cpWait := some rd })

def issueCp (s : State) (h : HartId) (w : W32) (n : Fin 8) (fn : Nat) (rd rs1 rs2 : Xr) : Issue :=
  let x := hartOf s h
  if n = 3 then illegal s w
  else if !x.sup && !x.cpen.getLsbD n.val then illegal s w
  else match n with
    | 0 => issueCp0 s h w fn rd rs1
    | 1 => issueCp1 s h w fn rd rs1 rs2
    | 2 => issueCp2 s h w fn rd rs1 rs2
    | _ =>
      if cpxPresent s (Fin.ofNat 4 (n.val - 4)) then issueCpx s h n.val fn rd (x.getX rs1) (x.getX rs2)
      else illegal s w

/-! ## Control words and levels -/

def issueCw (s : State) (h : HartId) (w : W32) (f : Fin 3) (imm : Bool) (rd src : Xr) (n : Nat) : Issue :=
  let x := hartOf s h
  let v := if imm then BitVec.ofNat 64 src.val else x.getX src
  match cwRead s h n with
  | none => illegal s w
  | some old =>
    if !x.sup && !cwUser n then illegal s w
    else
      let new := match f with
        | 0 => v
        | 1 => old ||| v
        | 2 => old &&& ~~~v
      step1 s h fun x => (x.writeCw n new).setX rd old

/-- RETS reverses a trap's entry (R358, R360). -/
def issueRets (s : State) (h : HartId) (w : W32) : Issue :=
  let x := hartOf s h
  if !x.sup then illegal s w
  else .done (retire (hartMod s h fun x => { x with ie := x.pie, sup := x.plv }) h 1 x.epc)

def issueWaiti (s : State) (h : HartId) (w : W32) : Issue :=
  if !(hartOf s h).sup then illegal s w else step1 s h fun x => { x with waiti := true }

/-! ## Issue -/

/-- The meaning of a word. -/
def issueOp (s : State) (h : HartId) (w : W32) (o : LuOp) : Issue :=
  let x := hartOf s h
  match o with
  | .pair a b => issuePair s h a b
  | .load mop rt base d => issueLoad s h mop rt base d
  | .store mop rt base d => issueStore s h mop rt base d
  | .qld rt base d => issueQld s h w rt base d
  | .qst rt base d => issueQst s h w rt base d
  | .alu f rd a b => step1 s h fun x => x.setX rd (aluVal f (x.getX a) (x.getX b))
  | .alui f rd a imm => step1 s h fun x => x.setX rd (aluVal (aluiF f) (x.getX a) (BitVec.ofInt 64 imm))
  | .lhi rd imm => step1 s h fun x => x.setX rd (BitVec.ofInt 64 imm)
  | .addpc rd imm => step1 s h fun x => x.setX rd (x.pc + BitVec.ofInt 64 imm)
  | .br c a b ofs =>
    .done (retire s h 1 (if brTaken c (x.getX a) (x.getX b) then wordOfs x.pc ofs else x.pc + 4))
  | .jal rd ofs => .done (retire (hartMod s h fun x => x.setX rd (x.pc + 4)) h 1 (wordOfs x.pc ofs))
  | .jalr rd a imm =>
    .done (retire (hartMod s h fun x => x.setX rd (x.pc + 4)) h 1 (x.getX a + BitVec.ofInt 64 imm))
  | .mul f rd a b => step1 s h fun x => x.setX rd (mulVal f (x.getX a) (x.getX b))
  | .fp f dbl rm rd a b => issueFp s h f dbl rm rd a b
  | .lr dbl rd a => issueLr s h dbl rd a
  | .sc dbl rd a b => issueSc s h dbl rd a b
  | .tas rd a => issueTas s h rd a
  | .cw f imm rd src n => issueCw s h w f imm rd src n
  | .sysreq => .trap (if x.sup then 0x0B else 0x0A) 0 0 false s
  | .dbrk => .trap 0x09 0 x.pc.toNat false s
  | .rets => issueRets s h w
  | .waiti => issueWaiti s h w
  | .retm => illegal s w
  | .fence p q => issueFence s h p q
  | .ifence => issueIfence s h
  | .dcl f a => issueDcl s h w f a
  | .icl a => issueIcl s h a
  | .q major qf et qd qa qb => issueQ s h w major qf et qd qa qb
  | .cp n fn rd a b => issueCp s h w n fn rd a b

/-- The hart issues words: its plane runs, MC1 has left its halt, the debug port does not hold it. -/
def hartUp (s : State) (h : HartId) : Bool :=
  ctlUp s && domRuns s 11 && (h == 0 || s.mast.run1) && !(if h = 0 then s.boot.dapHalt0 else s.boot.dapHalt1)

/-- Issue is held: a coprocessor's answer, a fence, or WAITI. -/
def hartStalled (s : State) (h : HartId) : Bool :=
  let x := hartOf s h
  x.cpWait.isSome || (x.fence && accessesOut s h) || (x.waiti && ipend s h == 0)

/-- The word at pc with its operation, if it can be fetched. -/
def nextWord (s : State) (h : HartId) : MemRes (W32 × Option LuOp) :=
  match hartFetch s h with
  | .ok w t => .ok (w, luDecode w) t
  | .trap c d i t => .trap c d i t
  | .wait t => .wait t

/-! ## Speculation (R371, R372; log 123) -/

/-- An access that the ACT allows, to memory that is not DEVICE, in an entry with an attribute bit of its own. -/
def specAllowed (s : State) (h : HartId) (acc bit b n : Nat) : Bool :=
  let init := hartInit h (hartOf s h).sup
  decide (b < mgmtBase) && !deviceAt s h (hartOf s h).sup b n && (actDenied s.act.force init acc b n).isNone &&
    (List.range n).all fun k => match actGovern s.act.force init (b + k) with
      | some (_, e) => e.getLsbD bit
      | none => false

/-- A line is allocated by an access that is then cancelled; it changes no memory byte and no reservation, so a fill
that would is not made. -/
def specFill (s : State) (h : HartId) (instr : Bool) (ln : Nat) : State :=
  match lineFill s h instr ln with
  | .ok t => if t.mem = s.mem ∧ t.mast.harts = s.mast.harts then t else s
  | .error _ => s

/-- A speculative load: dropped where its address or the ACT does not allow it, sent where it names another chip, else
the lines it allocates and the bytes it brings. One to a region without SPEC_OK or of DEVICE kind waits, which ends the
speculation (none). -/
def specLoad (s : State) (h : HartId) (a n : Nat) : Option (State × Bytes) :=
  let init := hartInit h (hartOf s h).sup
  if highAddr a ∨ a % 2 ^ 48 ≠ a then some (s, [])
  else
    match placeOf s a with
    | .there home off =>
      match remoteRequest s (.dropped h) home mkRd off (n - 1) (b2n (hartOf s h).sup) [] with
      | .sent _ t => some (t, [])
      | _ => some (s, [])
    | .here b =>
      if (actDenied s.act.force init accLoad b n).isSome then some (s, [])
      else if specAllowed s h accLoad 99 b n then
        let t := (linesOf b n).foldl (fun u l => specFill u h false l) s
        some (t, cachedBytes t b n)
      else none

/-- Loads that a speculated word makes, by its registers: each may be cancelled before it goes out, by the bits of e. -/
def specLoads (h : HartId) (e : Nat) : List (Nat × Nat) → State → Option (State × List Bytes)
  | [], s => some (s, [])
  | p :: ps, s =>
    match if bitOf e ps.length then some (s, []) else specLoad s h p.1 p.2 with
    | none => none
    | some (t, d) => (specLoads h e ps t).map fun r => (r.1, d :: r.2)

/-- A word whose registers alone decide what it does. -/
def LuOp.inRegs : LuOp → Bool
  | .alu _ _ _ _ => true
  | .alui _ _ _ _ => true
  | .lhi _ _ => true
  | .addpc _ _ => true
  | .mul _ _ _ _ => true
  | .fp _ _ _ _ _ _ => true
  | .q _ _ _ _ _ _ => true
  | _ => false

/-- A speculated word: what it leaves of the state, with the registers as the words after it would find them and the
word that follows; none where the speculation ends. Stores, atomics, DCL and coprocessor operations are never
speculative; a guess (the bit of e) takes a further branch. -/
def specWord (s : State) (h : HartId) (x : Hart) (w : W32) (o : LuOp) (e : Nat) : Option (State × Hart) :=
  let next := { x with pc := x.pc + 4 }
  match o with
  | .load mop rt base d =>
    (specLoads h e [(effAddr x base d, mopSize mop)] s).map fun r => (r.1, next.putLoad mop rt (r.2.headD []))
  | .qld rt base d =>
    (specLoads h e [(effAddr x base d, 16)] s).map fun r => (r.1, next.setQ rt (leNat (r.2.headD [])))
  | .pair a b =>
    let fa := a.fx x
    let fb := b.fx x
    match fa.mem, fb.mem with
    | .store _ _, _ => none
    | _, .store _ _ => none
    | ma, mb =>
      let ask := fun (m : SlotMem) => match m with
        | .load n _ _ p => [(p, n)]
        | _ => []
      (specLoads h e (ask ma ++ ask mb) s).map fun r =>
        let ld := fun (m : SlotMem) (d : Option Bytes) => match m, d with
          | .load n fp rt _, some d => some (n, fp, rt, d)
          | _, _ => none
        let y := (x.slotWrite fa (ld ma r.2.head?)).slotWrite fb (ld mb r.2.getLast?)
        (r.1, { y with pc := fb.target.getD (x.pc + 4) })
  | .br _ _ _ ofs => some (s, if bitOf e 3 then { x with pc := wordOfs x.pc ofs } else next)
  | .jal rd ofs => some (s, { x.setX rd (x.pc + 4) with pc := wordOfs x.pc ofs })
  | .jalr rd a imm => some (s, { x.setX rd (x.pc + 4) with pc := (x.getX a + BitVec.ofInt 64 imm) &&& ~~~3 })
  | o =>
    if o.inRegs then
      match issueOp (hartMod s h fun _ => x) h w o with
      | .done u => some (s, hartOf u h)
      | _ => none
    else none

/-- The fetch of a speculated word, from a region with X; it may read a line ahead (R371). -/
def specFetch (s : State) (h : HartId) (pc : W64) (ahead : Bool) : Option (State × W32) :=
  let a := pc.toNat
  if highAddr a then none
  else
    match placeOf s a with
    | .there _ _ => none
    | .here b =>
      if specAllowed s h accFetch 98 b 4 && (ramErr s (b / 64 * 64) 64).isNone then
        let t := specFill s h true (b / 64)
        let n := b / 64 + 1
        let t := if ahead && specAllowed t h accFetch 98 (n * 64) 64 then specFill t h true n else t
        some (t, BitVec.ofNat 32 (leNat (cachedBytes t b 4)))
      else none

/-- Up to n words of a path that is then cancelled; e holds the free choices, five bits a word. -/
def specWalk (h : HartId) : Nat → Nat → Hart → State → State
  | 0, _, _, s => s
  | n + 1, e, x, s =>
    match specFetch s h x.pc (bitOf e 4) with
    | none => s
    | some (t, w) =>
      match luDecode w with
      | none => t
      | some o =>
        match specWord t h x w o (e % 16) with
        | none => t
        | some (u, y) => specWalk h n (e / 32) y u

/-- The path that a conditional branch does not take. -/
def LuOp.notTaken (x : Hart) : LuOp → Option W64
  | .br c a b ofs => some (if brTaken c (x.getX a) (x.getX b) then x.pc + 4 else wordOfs x.pc ofs)
  | .pair _ (.brz nz rs ofs) => some (if (x.getX rs == 0) != nz then x.pc + 4 else wordOfs x.pc ofs)
  | _ => none

/-- What a mispredicted branch leaves: at most 4 words of the other path have been issued and are cancelled. They
leave lines in the caches and, of loads from other chips, the traffic; no register, memory byte or reservation. -/
def mispredicted (s : State) (h : HartId) (pc : W64) : State :=
  let d := drawn s .speculation
  let t := specWalk h (d % 5) (d / 5) { hartOf s h with pc := pc } { s with free := s.free + 1 }
  { s with mast.cache := t.mast.cache, fab := t.fab, shl := t.shl, out := t.out, free := s.free + 256 }

/-- A word with the speculation beyond it. -/
def issueSpec (s : State) (h : HartId) (w : W32) (o : LuOp) : Issue :=
  match issueOp s h w o, o.notTaken (hartOf s h) with
  | .done t, some pc => .done (mispredicted t h pc)
  | r, _ => r

/-- The word at pc is issued. An operation of CP4 to CP7 without rd that ended with an ERROR is reported before it. -/
def issueWord (s : State) (h : HartId) : Issue :=
  if hartStalled s h then .wait s
  else
    match (hartOf s h).cpErr with
    | some (n, fn) => .trap 0x07 3 (cpInfo n fn) false (hartMod s h fun x => { x with cpErr := none })
    | none =>
      (nextWord s h).bind false fun w t =>
        let t := hartMod t h fun x => { x with waiti := false, fence := false }
        match w.2 with
        | none => illegal t w.1
        | some o => issueSpec t h w.1 o

/-- The state after a word; an exception is taken (R360). -/
def Issue.outcome (h : HartId) : Issue → Host.Outcome State Fault Refusal
  | .done s => .next s
  | .trap c d i b s => .next (takeTrap s h c d i b)
  | .wait s => .next s

/-- A command of a class: the hart issues its next word if the word is of that class. -/
def runCls (s : State) (h : HartId) (k : LuCls) : Host.Outcome State Fault Refusal :=
  if !hartUp s h then .next s
  else
    match nextWord s h with
    | .ok (_, some o) _ => if o.cls = k then (issueWord s h).outcome h else .next s
    | .wait t => .next t
    | _ => .next s

/-- PAIR_ISSUE: an illegal word with P = 1 raises illegal instruction as a whole (R339). -/
def execPairIssue (h : HartId) (s : State) : Host.Outcome State Fault Refusal :=
  if !hartUp s h then .next s
  else
    match nextWord s h with
    | .ok (w, _) _ => if w.getLsbD 0 then (issueWord s h).outcome h else .next s
    | .wait t => .next t
    | _ => .next s

def execMastLoad (h : HartId) (s : State) : Host.Outcome State Fault Refusal := runCls s h .load
def execMastStore (h : HartId) (s : State) : Host.Outcome State Fault Refusal := runCls s h .store
def execIntegerOp (h : HartId) (s : State) : Host.Outcome State Fault Refusal := runCls s h .int
def execMulDivOp (h : HartId) (s : State) : Host.Outcome State Fault Refusal := runCls s h .mulDiv
def execFpOp (h : HartId) (s : State) : Host.Outcome State Fault Refusal := runCls s h .fp
def execBranch (h : HartId) (s : State) : Host.Outcome State Fault Refusal := runCls s h .branch
def execJal (h : HartId) (s : State) : Host.Outcome State Fault Refusal := runCls s h .jal
def execJalr (h : HartId) (s : State) : Host.Outcome State Fault Refusal := runCls s h .jalr
def execLr (h : HartId) (s : State) : Host.Outcome State Fault Refusal := runCls s h .lr
def execSc (h : HartId) (s : State) : Host.Outcome State Fault Refusal := runCls s h .sc
def execTasB (h : HartId) (s : State) : Host.Outcome State Fault Refusal := runCls s h .tas
def execCwswp (h : HartId) (s : State) : Host.Outcome State Fault Refusal := runCls s h .cwswp
def execCwset (h : HartId) (s : State) : Host.Outcome State Fault Refusal := runCls s h .cwset
def execCwclr (h : HartId) (s : State) : Host.Outcome State Fault Refusal := runCls s h .cwclr
def execCwswpi (h : HartId) (s : State) : Host.Outcome State Fault Refusal := runCls s h .cwswpi
def execCwseti (h : HartId) (s : State) : Host.Outcome State Fault Refusal := runCls s h .cwseti
def execCwclri (h : HartId) (s : State) : Host.Outcome State Fault Refusal := runCls s h .cwclri
def execSysreq (h : HartId) (s : State) : Host.Outcome State Fault Refusal := runCls s h .sysreq
def execDbrk (h : HartId) (s : State) : Host.Outcome State Fault Refusal := runCls s h .dbrk
def execRets (h : HartId) (s : State) : Host.Outcome State Fault Refusal := runCls s h .rets
def execWaiti (h : HartId) (s : State) : Host.Outcome State Fault Refusal := runCls s h .waiti
def execRetm (h : HartId) (s : State) : Host.Outcome State Fault Refusal := runCls s h .retm
def execMastFence (h : HartId) (s : State) : Host.Outcome State Fault Refusal := runCls s h .fence
def execIfence (h : HartId) (s : State) : Host.Outcome State Fault Refusal := runCls s h .ifence
def execDclCln (h : HartId) (s : State) : Host.Outcome State Fault Refusal := runCls s h .dclCln
def execDclInv (h : HartId) (s : State) : Host.Outcome State Fault Refusal := runCls s h .dclInv
def execDclFls (h : HartId) (s : State) : Host.Outcome State Fault Refusal := runCls s h .dclFls
def execDclZro (h : HartId) (s : State) : Host.Outcome State Fault Refusal := runCls s h .dclZro
def execIclInv (h : HartId) (s : State) : Host.Outcome State Fault Refusal := runCls s h .icl
def execQld (h : HartId) (s : State) : Host.Outcome State Fault Refusal := runCls s h .qld
def execQst (h : HartId) (s : State) : Host.Outcome State Fault Refusal := runCls s h .qst
def execQOp (h : HartId) (s : State) : Host.Outcome State Fault Refusal := runCls s h .q
def execCp0Post (h : HartId) (s : State) : Host.Outcome State Fault Refusal := runCls s h (.cp0 0)
def execCp0Qstat (h : HartId) (s : State) : Host.Outcome State Fault Refusal := runCls s h (.cp0 1)
def execCp0Doorbell (h : HartId) (s : State) : Host.Outcome State Fault Refusal := runCls s h (.cp0 2)
def execCp2Rdreg (h : HartId) (s : State) : Host.Outcome State Fault Refusal := runCls s h (.cp2 0)
def execCp2Wrreg (h : HartId) (s : State) : Host.Outcome State Fault Refusal := runCls s h (.cp2 1)
def execCp2Ntstep (h : HartId) (s : State) : Host.Outcome State Fault Refusal := runCls s h (.cp2 2)
def execCp2Rdnow (h : HartId) (s : State) : Host.Outcome State Fault Refusal := runCls s h (.cp2 3)
def execCpx (h : HartId) (s : State) : Host.Outcome State Fault Refusal := runCls s h .cpx
def execTrimStatus (h : HartId) (s : State) : Host.Outcome State Fault Refusal := runCls s h (.cp1 4)
def execTrimEnergy (h : HartId) (s : State) : Host.Outcome State Fault Refusal := runCls s h (.cp1 5)
def execTrimRdreg (h : HartId) (s : State) : Host.Outcome State Fault Refusal := runCls s h (.cp1 6)
def execTrimWrreg (h : HartId) (s : State) : Host.Outcome State Fault Refusal := runCls s h (.cp1 7)

/-- A Trim command by CP1 or by a write of TRM_CMD, LOAD taking TRM_DESC (R325). -/
def runTrim (s : State) (via : TrimVia) (fn : Nat) : Host.Outcome State Fault Refusal :=
  match via with
  | .cp1 h => runCls s h (.cp1 fn)
  | .reg => .next (trimCmd s fn s.trim.descA.toNat)

def execTrimLoad (via : TrimVia) (s : State) : Host.Outcome State Fault Refusal := runTrim s via 0
def execTrimRun (via : TrimVia) (s : State) : Host.Outcome State Fault Refusal := runTrim s via 1
def execTrimReplay (via : TrimVia) (s : State) : Host.Outcome State Fault Refusal := runTrim s via 2
def execTrimAbort (via : TrimVia) (s : State) : Host.Outcome State Fault Refusal := runTrim s via 3

/-- MAST_TRAP: the word at pc raises an exception, be it in its fetch, its decoding or its execution. -/
def execMastTrap (h : HartId) (s : State) : Host.Outcome State Fault Refusal :=
  if !hartUp s h then .next s
  else
    match issueWord s h with
    | .trap c d i b t => .next (takeTrap t h c d i b)
    | _ => .next s

/-- MAST_INTERRUPT: an enabled pending interrupt is taken between words (R361). -/
def execMastInterrupt (h : HartId) (s : State) : Host.Outcome State Fault Refusal :=
  let x := hartOf s h
  if hartUp s h && x.rem.isEmpty && x.cpWait.isNone && (!x.sup || x.ie) then
    match pickIrq s h with
    | some n => .next (takeIrq s h n)
    | none => .next s
  else .next s

/-! ## What happens beside the words -/

/-- STORE_BUFFER_DRAIN: the oldest buffered store takes effect (R368). -/
def execStoreBufferDrain (h : HartId) (s : State) : Host.Outcome State Fault Refusal :=
  if ctlUp s && domRuns s 11 then
    match drainOne s h with
    | some (t, _) => .next t
    | none => .next s
  else .next s

/-- STORE_ERROR: the oldest buffered store ends in an error at its target (R363). -/
def execStoreError (h : HartId) (s : State) : Host.Outcome State Fault Refusal :=
  if ctlUp s && domRuns s 11 then
    match drainOne s h with
    | some (t, true) => .next t
    | _ => .next s
  else .next s

/-- RESERVATION_EXPIRE: 1,024 cycles after the LR of a local granule (R345, R417). -/
def execReservationExpire (h : HartId) (s : State) : Host.Outcome State Fault Refusal :=
  match (hartOf s h).resv with
  | some (.own _) => .next (dropResv s h)
  | _ => .next s

/-- An operation of CP4 to CP7 ends: rd takes the result and the hart goes on; one without rd is no longer
outstanding. An ERROR raises coprocessor error with detail SHROUD, for one without rd at the next word boundary
(R349, R350; log 183). -/
def cpxEnd (s : State) (h : HartId) (n : Fin 8) (fn : Nat) (rd : Option Xr) (a : Answer) : State :=
  match rd, a with
  | none, .data _ => hartMod s h fun x => { x with cpOut := x.cpOut - 1 }
  | none, .abort _ =>
    hartMod s h fun x => { x with
      cpOut := x.cpOut - 1, cpErr := match x.cpErr with
        | some e => some e
        | none => some (n.val, fn) }
  | some r, .data d =>
    retire (hartMod s h fun x => { x with cpWait := none }.setX r (BitVec.ofNat 64 (leNat d))) h 1 ((hartOf s h).pc + 4)
  | some _, .abort _ =>
    takeTrap (hartMod s h fun x => { x with cpWait := none }) h 0x07 3 (cpInfo n.val fn) false

/-- CPXRESP: customer logic answers the operation whose request had this tag. -/
def execCpxresp (tag : BitVec 12) (a : Answer) (s : State) : Host.Outcome State Fault Refusal :=
  match s.fab.remotes.find? fun r => r.tag == tag with
  | some r =>
    match r.wait with
    | .cp h n fn rd =>
      if ctlUp s then .next (cpxEnd { s with fab.remotes := s.fab.remotes.erase r } h n fn rd a) else .next s
    | _ => .next s
  | none => .next s

/-- Every line is cleaned, or flushed (R377). -/
def cleanLines (s : State) (flush : Bool) : State :=
  s.mast.cache.foldl (fun t e =>
    match e.2 with
    | some c =>
      if flush then dropLine t 0 e.1 true
      else linePut (writeBack t 0 e.1 c) e.1 (some { c with dirty := false })
    | none => t) s

/-- CMO_DONE: the whole-cache operation completes and BUSY clears. -/
def execCmoDone (s : State) : Host.Outcome State Fault Refusal :=
  if ctlUp s && domRuns s 11 then
    match s.mast.cmo with
    | some flush => .next { cleanLines s flush with mast.cmo := none }
    | none => .next s
  else .next s

/-- The control plane's hardware posts a message of one entry on the C2M ring. -/
def c2mPost (s : State) (kind : Byte) (payload : Bytes) : State :=
  if ringUsed s.cleatA.c2mWr s.cleatA.c2mRd < 64 then
    c2mIndexWrite (s.wr (ringEntry c2mRing s.cleatA.c2mWr) (entryBytes kind false 0 payload)) (s.cleatA.c2mWr + 1)
  else { s with cleatA.c2mFull := true, cleatA.fullEvents := s.cleatA.fullEvents + 1 }

/-- The hart's next word is a load that takes bytes of a line: the address, and whether slot B's load does. -/
def loadsLine (s : State) (h : HartId) (ln : Nat) : Option (Nat × Bool) :=
  let x := hartOf s h
  let hit := fun (a n : Nat) (slotB : Bool) =>
    match placeOf s (a % 2 ^ 48) with
    | .here b => if (linesOf b n).contains ln then some (a, slotB) else none
    | .there _ _ => none
  match nextWord s h with
  | .ok (_, some (.load mop _ base d)) _ => hit (effAddr x base d) (mopSize mop) false
  | .ok (_, some (.qld _ base d)) _ => hit (effAddr x base d) 16 false
  | .ok (_, some (.lr _ _ a)) _ => hit (x.getX a).toNat 8 false
  | .ok (_, some (.pair a b)) _ =>
    match (a.fx x).mem, (b.fx x).mem with
    | .load n _ _ p, .load m _ _ q => (hit p n false).orElse fun _ => hit q m true
    | .load n _ _ p, _ => hit p n false
    | _, .load m _ _ q => hit q m true
    | _, _ => none
  | _ => none

/-- The load, or the fetch, of the hart's next word that consumes a line (R378, Table 10-9). A fetch takes it from the
L2 when the hart's L1 does not hold it. -/
def consumesLine (s : State) (h : HartId) (ln : Nat) (l2 : Bool) (c : CLine) : Option (Nat × Bool) :=
  let pc := (hartOf s h).pc.toNat
  match placeOf s (pc % 2 ^ 48) with
  | .here b => if l2 && !inI h c && decide (b / 64 = ln) then some (pc, false) else loadsLine s h ln
  | .there _ _ => loadsLine s h ln

/-- MAST_CACHE_ECC (R378): a corrected error is counted; an uncorrectable one drops a clean line; in a dirty
line it raises 0x08 on the load or fetch that consumes it, else interrupt 11 as it is written back, and CTL_FAULT
goes to the MGC. What the damaged line then holds is not stated: it is dropped where it was written back, and
holds free bytes where it stays. -/
def execMastCacheEcc (h : HartId) (line : Nat) (l2 : Bool) (k : EccKind) (s : State) : Host.Outcome State Fault Refusal :=
  if !(ctlUp s && domRuns s 11) then .next s
  else
    match k with
    | .none => .next s
    | .corrected =>
      .next (if l2 then { s with mast.eccL2 := s.mast.eccL2 + 1 } else { s with mast.eccL1 := s.mast.eccL1 + 1 })
    | .uncorrectable =>
      match lineGet s line with
      | none => .next s
      | some c =>
        if !c.dirty then .next (dropLine s h line false)
        else
          let told := fun (t : State) => c2mPost t 0x08 [BitVec.ofNat 8 h.val]
          match (if hartUp s h then consumesLine s h line l2 c else none) with
          | some (a, slotB) =>
            let bad := (List.range 64).map fun i => BitVec.ofNat 8 (Config.freeValue .unspecified (s.free + i))
            let t := linePut { s with free := s.free + 64 } line (some { c with data := bad })
            .next (told (takeTrap t h 0x08 0 a slotB))
          | none =>
            .next (told (storeErr (dropLine s h line false) h (line * 64) (errDetail .ecc)))

end Sys2Proof.Machine
end

