-- ==== Sys2Proof/Machine/Otp.lean ====
section
/-!
DEFINITION. OTP, settings generations and their programming, debug locks, SVN counters, flash update, the ACT's
change requests and the DAP window (R483 to R518).
-/

namespace Sys2Proof.Machine

/-! ## Cells (Tables 14-2 to 14-4) -/

def otpByte (o : Otp) (a : Nat) : Byte := Tbl.read (fun _ => 0) o.cells a

def otpRead (o : Otp) (a n : Nat) : Bytes := (List.range n).map fun i => otpByte o (a + i)

/-- A cell is set; none is ever cleared. -/
def otpSet (o : Otp) (c : Nat × Nat) : Otp :=
  { o with cells := Tbl.write (fun _ => 0) o.cells c.1 (otpByte o c.1 ||| (1#8 <<< c.2)) }

def otpSetAll (o : Otp) (cs : List (Nat × Nat)) : Otp := cs.foldl otpSet o

/-- The cells of a byte string that are to be set, in ascending bit order (R492). -/
def cellsOf (a : Nat) (bs : Bytes) : List (Nat × Nat) :=
  (bs.zipIdx).flatMap fun b => ((List.range 8).filter fun i => b.1.getLsbD i).map fun i => (a + b.2, i)

def otpMarker : Bytes := toLE 4 0xA5C33C5A

/-- A lock of four cells is set when any of them reads 1 (R485). -/
def mgcLocked (o : Otp) : Bool := decide (otpByte o 0x140 &&& 0x0F ≠ 0)
def mastLocked (o : Otp) : Bool := decide (otpByte o 0x140 &&& 0xF0 ≠ 0)

/-- An SVN counter: the count of its 32 cells that read 1. -/
def svnCount (o : Otp) (a : Nat) : Nat := (cellsOf a (otpRead o a 4)).length
def mgcSvnAt : Nat := 0x144
def mastSvnAt : Nat := 0x148

/-- An SVN counter programmed up to a value: its lowest cells not yet set. -/
def svnRaise (o : Otp) (a v : Nat) : Otp :=
  let zeros := (List.range 32).filter fun i => !(otpByte o (a + i / 8)).getLsbD (i % 8)
  otpSetAll o ((zeros.take (v - svnCount o a)).map fun i => (a + i / 8, i % 8))

/-- The factory region's CRC holds (R483). -/
def factoryOk (o : Otp) : Bool := decide (crc32c (otpRead o 0 0xFC) = fieldLE (otpRead o 0xFC 4) 0 4)

/-- The customer key region's marker and CRC are correct (R484). -/
def keyRegionOk (o : Otp) : Bool :=
  decide (otpRead o 0x124 4 = otpMarker) && decide (crc32c (otpRead o 0x100 32) = leNat (otpRead o 0x120 4))

def keyRegionBlank (o : Otp) : Bool := (otpRead o 0x100 0x28).all fun b => b == 0

/-- The service key follows the key regions. -/
def takeServiceKey (o : Otp) : Otp :=
  { o with keyReplaced := keyRegionOk o, serviceKey := if keyRegionOk o then otpRead o 0x100 32 else otpRead o 0x30 32 }

/-! ## Generations (R486 to R490) -/

def slotBase (g : Nat) : Nat := 0x200 + g * 0x100

def slotBlank (o : Otp) (g : Nat) : Bool := (otpRead o (slotBase g) 0x88).all fun b => b == 0

def slotValid (o : Otp) (g : Nat) : Bool :=
  let a := slotBase g
  decide (otpRead o (a + 0x84) 4 = otpMarker) && decide (otpRead o a 64 = otpRead o (a + 0x40) 64)
    && decide (crc32c (otpRead o a 64) = leNat (otpRead o (a + 0x80) 4))

/-- State of a slot: 0 blank, 1 valid, 2 invalid. -/
def slotState (o : Otp) (g : Nat) : Nat := if slotBlank o g then 0 else if slotValid o g then 1 else 2

def generations : List Nat := [0, 1, 2, 3, 4]

/-- The highest-numbered valid generation, with the flags of R488 and R489. -/
def selectGeneration (o : Otp) : Otp :=
  let use := generations.reverse.find? (slotValid o)
  let above := fun (g : Nat) => match use with
    | some u => decide (u < g)
    | none => true
  { o with
    inUse := use, record := (use.map fun g => otpRead o (slotBase g) 64).getD (List.replicate 64 0),
    mismatch := use.isNone || generations.any (fun g => above g && slotState o g == 2),
    exhausted := !generations.any (slotBlank o), noValid := use.isNone }

/-- A settings record may be programmed: FORMAT, reserved fields, node ID (Table 14-4, R490, R491). -/
def recordOk (r : Bytes) : Bool :=
  let node := (byteAt r 2).toNat
  decide (fieldLE r 0 2 = 1) && !(bitOf node 7 && decide (bits node 0 7 = 0)) &&
  decide ((byteAt r 3).toNat < 2) &&
  decide (fieldLE r 4 2 < 1024) && decide (fieldLE r 6 2 < 1024) && decide (fieldLE r 8 2 < 1024) &&
  decide (fieldLE r 0x0A 6 = 0) && decide (fieldLE r 0x30 16 = 0)

/-- The lowest blank slot above every consumed slot. -/
def nextSlot (o : Otp) : Option Nat :=
  generations.find? fun g => generations.all fun k => decide (k < g) || slotBlank o k

def vddOtpOk (s : State) : Bool := decide (1710 ≤ s.dev.vddOtpMv) && decide (s.dev.vddOtpMv ≤ 1890)

/-- Cells of a generation in the order of R492: copy A, copy B, CRC, marker. -/
def generationCells (g : Nat) (r : Bytes) : List (Nat × Nat) :=
  let a := slotBase g
  cellsOf a r ++ cellsOf (a + 0x40) r ++ cellsOf (a + 0x80) (toLE 4 (crc32c r)) ++ cellsOf (a + 0x84) otpMarker

def keyCells (k : Bytes) : List (Nat × Nat) :=
  cellsOf 0x100 k ++ cellsOf 0x120 (toLE 4 (crc32c k)) ++ cellsOf 0x124 otpMarker

/-- Programming runs: every access to 0x2100-0x21FF but reads of 0x2112 aborts (R494). -/
def otpRuns (o : Otp) : Bool := o.busy != .idle

def stIdle : Nat := 0
def stProgramming : Nat := 1
def stDone : Nat := 2
def stRefused : Nat := 3
def stFailed : Nat := 4

/-! ## Objects: writes answer an abort code, 0 for none, and the state -/

/-- 0x2110. -/
def otpStageWrite (d : Bytes) (s : State) : Nat × State :=
  if otpRuns s.otp then (abState, s)
  else if d.length ≠ 64 then (abLength, s)
  else if !recordOk d then (abRange, s)
  else (0, { s with otp.staged := d })

/-- 0x2111. While a programming runs the command is refused like every other, and the access aborts (R491, R494). -/
def otpProgramWrite (v : Nat) (s : State) : Nat × State :=
  if otpRuns s.otp then (abState, if v = 1 then { s with otp.status := stRefused } else s)
  else if v ≠ 1 then (abRange, s)
  else
    match nextSlot s.otp with
    | some g =>
      if recordOk (padTo 64 s.otp.staged) && vddOtpOk s && decide (0 ≤ s.reef.tmax) && decide (s.reef.tmax ≤ 85) then
        (0, { s with otp.status := stProgramming,
                     otp.busy := .generation g (generationCells g (padTo 64 s.otp.staged)) })
      else (0, { s with otp.status := stRefused })
    | none => (0, { s with otp.status := stRefused })

/-- 0x2120: one programming only (R484). -/
def otpKeyWrite (d : Bytes) (s : State) : Nat × State :=
  if otpRuns s.otp then (abState, s)
  else if d.length ≠ 32 then (abLength, s)
  else if !keyRegionBlank s.otp then (0, { s with otp.status := stRefused })
  else (0, { s with otp.status := stProgramming, otp.busy := .key (keyCells d) })

/-- ACT entry 8 closed: SIZE 0 (R509). -/
def closeWindow (a : Act) : Act := actApply (actWriteLive a 8 0)

/-- 0x2121: the lock's four cells, the DAP's Mast session and its window (R507, R509). -/
def mastLockWrite (v : Nat) (s : State) : Nat × State :=
  if otpRuns s.otp then (abState, s)
  else if v ≠ 0x4C4B then (abRange, s)
  else
    (0, { s with otp := otpSetAll s.otp [(0x140, 4), (0x140, 5), (0x140, 6), (0x140, 7)],
                 boot.dapHalt0 := false, boot.dapHalt1 := false, act := closeWindow s.act })

/-- 0x2122: not above the running Mast image's SVN (R504). -/
def mastSvnWrite (v : Nat) (s : State) : Nat × State :=
  if otpRuns s.otp then (abState, s)
  else if 32 < v ∨ s.boot.mastSlot.isNone ∨ s.boot.mastSvn < v then (abRange, s)
  else (0, { s with otp := svnRaise s.otp mastSvnAt v })

/-- OTP_STAGE. -/
def execOtpStage (w : Session) (data : Bytes) (s : State) : Host.Outcome State Fault Refusal :=
  objCmd s w 0x2110 0 (otpStageWrite data)

/-- OTP_PROGRAM. -/
def execOtpProgram (w : Session) (v : Byte) (s : State) : Host.Outcome State Fault Refusal :=
  objCmd s w 0x2111 0 (otpProgramWrite v.toNat)

/-- OTP_KEY_PROGRAM. -/
def execOtpKeyProgram (w : Session) (data : Bytes) (s : State) : Host.Outcome State Fault Refusal :=
  objCmd s w 0x2120 0 (otpKeyWrite data)

/-- MAST_DEBUG_LOCK. -/
def execMastDebugLock (w : Session) (v : W16) (s : State) : Host.Outcome State Fault Refusal :=
  objCmd s w 0x2121 0 (mastLockWrite v.toNat)

/-- MAST_SVN_WRITE. -/
def execMastSvnWrite (w : Session) (v : Byte) (s : State) : Host.Outcome State Fault Refusal :=
  objCmd s w 0x2122 0 (mastSvnWrite v.toNat)

/-- A generation failed: EMCY 0xFF06 with its slot (R493). -/
def otpFail (s : State) (g : Nat) : State :=
  notice (raiseEmcy { s with otp.status := stFailed, otp.busy := .idle } 0xFF06 0xFF [BitVec.ofNat 8 g])
    noticeOtp [stFailed, g]

/-- OTP_PROGRAM_END: a cell that fails verify ends programming there; else the slot is read back (R493). -/
def execOtpProgramEnd (failedCell : Option Nat) (s : State) : Host.Outcome State Fault Refusal :=
  match s.otp.busy with
  | .generation g cells =>
    if !mgcUp s then .next s
    else
      match failedCell with
      | some k =>
        if k < cells.length then .next (otpFail { s with otp := otpSetAll s.otp (cells.take k) } g) else .next s
      | none =>
        let o := otpSetAll s.otp cells
        if slotValid o g then
          .next (notice { s with otp := { o with status := stDone, busy := .idle } } noticeOtp [stDone, g])
        else .next (otpFail { s with otp := o } g)
  | _ => .next s

/-- OTP_KEY_PROGRAM_END: which cells a failed programming leaves unset is free, the region is consumed and its
contents are not valid (R484). -/
def execOtpKeyProgramEnd (verifyOk : Bool) (s : State) : Host.Outcome State Fault Refusal :=
  match s.otp.busy with
  | .key cells =>
    if !mgcUp s then .next s
    else if verifyOk then
      .next { s with otp := takeServiceKey { otpSetAll s.otp cells with status := stDone, busy := .idle } }
    else
      let k := 1 + drawn s .unspecified % (cells.length - 1)
      .next (afterDraw { s with otp := { otpSetAll s.otp (cells.take k) with status := stFailed, busy := .idle } })
  | _ => .next s

/-- What a device reset makes of a programming in progress: the first cells are set, how many is free, but at
least one (R484, R495). -/
def otpStruck (s : State) : State :=
  let cut := fun (cells : List (Nat × Nat)) =>
    afterDraw { s with otp := { otpSetAll s.otp (cells.take (1 + drawn s .unspecified % cells.length)) with busy := .idle } }
  match s.otp.busy with
  | .idle => s
  | .generation _ cells => cut cells
  | .key cells => cut (cells.take (cells.length - 1))

/-! ## Flash (R498, R505) -/

def imageSize : Nat := 0x40000
/-- Flash offset of an image slot: MGC A and B, Mast A and B. -/
def imageOff (mast : Bool) (slot : Fin 2) : Nat := (if mast then 0x80000 else 0) + slot.val * imageSize

/-- A range of flash touches the MGC slot booted or the running Mast image's slot. -/
def flashGuarded (s : State) (a n : Nat) : Bool :=
  let hits := fun (o : Nat) => decide (o < a + n) && decide (a < o + imageSize)
  hits (imageOff false s.boot.mgcSlot) ||
    (match s.boot.mastSlot with
      | some m => hits (imageOff true m)
      | none => false)

/-- Status of a flash update: 0x2220:04. -/
def flBusy : Nat := 1
def flDone : Nat := 2
def flRefused : Nat := 3
def flVerify : Nat := 4

/-- 0x2220:01. -/
def flashOffsetWrite (v : Nat) (s : State) : Nat × State :=
  if s.boot.flashBusy.isSome then (abState, s) else (0, { s with boot.flashOfs := BitVec.ofNat 32 v })

/-- 0x2220:02: up to 4 KiB from the offset, which advances. -/
def flashProgramWrite (d : Bytes) (s : State) : Nat × State :=
  let a := s.boot.flashOfs.toNat
  if s.boot.flashBusy.isSome then (abState, s)
  else if d.isEmpty ∨ 4096 < d.length then (abLength, s)
  else if flashSize < a + d.length then (abRange, s)
  else if flashGuarded s a d.length then (abState, { s with boot.flashStatus := flRefused })
  else
    (0, { s with boot.flashBusy := some (a, some d), boot.flashStatus := flBusy,
                 boot.flashOfs := BitVec.ofNat 32 (a + d.length) })

/-- 0x2220:03: a 64 KiB sector. -/
def flashEraseWrite (v : Nat) (s : State) : Nat × State :=
  let a := v * 0x10000
  if s.boot.flashBusy.isSome then (abState, s)
  else if flashSize < a + 0x10000 then (abRange, s)
  else if flashGuarded s a 0x10000 then (abState, { s with boot.flashStatus := flRefused })
  else (0, { s with boot.flashBusy := some (a, none), boot.flashStatus := flBusy })

/-- FLASH_OFFSET. -/
def execFlashOffset (w : Session) (v : W32) (s : State) : Host.Outcome State Fault Refusal :=
  objCmd s w 0x2220 1 (flashOffsetWrite v.toNat)

/-- FLASH_PROGRAM. -/
def execFlashProgram (w : Session) (data : Bytes) (s : State) : Host.Outcome State Fault Refusal :=
  objCmd s w 0x2220 2 (flashProgramWrite data)

/-- FLASH_ERASE. -/
def execFlashErase (w : Session) (v : W16) (s : State) : Host.Outcome State Fault Refusal :=
  objCmd s w 0x2220 3 (flashEraseWrite v.toNat)

/-- Bytes of flash whose contents are not known: each a free value (R529; log 102). -/
def flashUnknown (s : State) (a n : Nat) : State :=
  { s.wr (flashBase + a) ((List.range n).map fun i => BitVec.ofNat 8 (Config.freeValue .flashStruck (s.free + i))) with
    free := s.free + n }

/-- FLASH_UPDATE_DONE: programming can only clear bits; what a failed operation leaves is free. -/
def execFlashUpdateDone (verifyOk : Bool) (s : State) : Host.Outcome State Fault Refusal :=
  match s.boot.flashBusy with
  | none => .next s
  | some (a, d) =>
    if !mgcUp s then .next s
    else
      let n := match d with
        | some b => b.length
        | none => 0x10000
      if !verifyOk then .next { flashUnknown s a n with boot.flashBusy := none, boot.flashStatus := flVerify }
      else
        match d with
        | some b =>
          .next { s.wr (flashBase + a) (List.zipWith (· &&& ·) (s.rd (flashBase + a) n) b) with
            boot.flashBusy := none, boot.flashStatus := flDone }
        | none =>
          .next { s with mem := memClear s.mem (flashBase + a) (flashBase + a + n),
                         boot.flashBusy := none, boot.flashStatus := flDone }

/-- What a device reset makes of a flash operation: bytes of the sector in progress are undefined (R529). -/
def flashStruck (s : State) : State :=
  match s.boot.flashBusy with
  | none => s
  | some (a, some b) => { flashUnknown s a b.length with boot.flashBusy := none }
  | some (a, none) => { flashUnknown s a 0x10000 with boot.flashBusy := none }

/-! ## Images (R498, R499) -/

/-- The first check an image fails: 1 MAGIC or KIND, 2 limits, 3 SVN, 4 key hash, 5 signature, 6 digest; 0 for
an acceptable one. -/
def imageCheck (s : State) (mast : Bool) (slot : Fin 2) : Nat :=
  let a := flashBase + imageOff mast slot
  let h := s.rd a 0x100
  let len := fieldLE h 0x0C 4
  let entry := fieldLE h 0x10 4
  let key := slice h 0x40 64
  let hash := if mast then slice s.otp.record 0x10 32 else otpRead s.otp 0x10 32
  let signed := !mast || !(hash.all fun b => b == 0)
  if fieldLE h 0 4 ≠ 0x574A494D ∨ (byteAt h 4).toNat ≠ (if mast then 2 else 1) then 1
  else if (if mast then 261888 else 229376) < len ∨ entry % 4 ≠ 0 ∨ len ≤ entry then 2
  else if (byteAt h 5).toNat < svnCount s.otp (if mast then mastSvnAt else mgcSvnAt) ∨ 32 < (byteAt h 5).toNat then 3
  else if signed ∧ sha256 key ≠ hash then 4
  else if signed ∧ ecdsaVerify (fieldBE key 0 32) (fieldBE key 32 32) (fieldBE h 0x80 32) (fieldBE h 0xA0 32)
      (sha256 (h.take 0x80)) = false then 5
  else if sha256 (s.rd (a + 0x100) len) ≠ slice h 0x20 32 then 6
  else 0

def imageVersion (s : State) (mast : Bool) (slot : Fin 2) : Nat := s.rdLE (flashBase + imageOff mast slot + 8) 4

/-- The acceptable image with the higher VERSION, slot A on a tie. -/
def chooseImage (s : State) (mast : Bool) : Option (Fin 2) :=
  let a := imageCheck s mast 0 == 0
  let b := imageCheck s mast 1 == 0
  if a && (!b || decide (imageVersion s mast 1 ≤ imageVersion s mast 0)) then some 0
  else if b then some 1 else none

/-! ## ACT (R509, R513 to R517, Tables 14-10 to 14-12, 14-15) -/

/-- An entry's pages lie in the local map, below management space, and its reserved bits are 0. -/
def entryFits (e : W128) : Bool :=
  decide (actBase e + actPages e * 4096 ≤ mgmtBase) && decide (bits e.toNat 29 3 = 0)
    && decide (bits e.toNat 61 3 = 0) && decide (bits e.toNat 102 26 = 0)

/-- An entry covers a page of a region. -/
def entryTouches (e : W128) (lo hi : Nat) : Bool :=
  decide (0 < actPages e) && decide (actBase e < hi) && decide (lo < actBase e + actPages e * 4096)

/-- A region of the local map (Table 11-2) holds every page of an entry. -/
def inLocalMap (e : W128) : Bool :=
  let fits := fun (lo hi : Nat) => decide (lo ≤ actBase e) && decide (actBase e + actPages e * 4096 ≤ hi)
  decide (actPages e = 0) || fits 0 0x1000000000 || fits loftBase (loftBase + loftSize)
    || fits tcmBase (tcmBase + 0x2000000) || fits periBase (periBase + 0x100000000)

/-- Why a record of an ACT_REQ is refused; 0 when it is not (Table 14-11). -/
def vetReason (s : State) (idx : Nat) (e : W128) : Nat :=
  let mask := bits e.toNat 64 32
  let only := decide (setBits (setBits mask 22 1 0) 24 1 0 = 0)
  if idx < 16 then 1
  else if bits mask 30 2 ≠ 0 then 2
  else if bits mask 27 3 ≠ 0 ∧ fabricMode s = false then 3
  else if (entryTouches e periBase (periBase + 0x20000) || entryTouches e 0x18000100000 0x18000110000) && !only then 4
  else if e.getLsbD 101 ∧ e.getLsbD 99 then 5
  else if 256 ≤ idx ∨ !inLocalMap e ∨ !entryFits e then 6
  else 0

/-- 0x2214: entry 8 with MASK bit 30 only, without X, SPEC_OK and VEC_ST_OK. -/
def dapWindowWrite (d : Bytes) (s : State) : Nat × State :=
  let e := BitVec.ofNat 128 (leNat d)
  if mastLocked s.otp then (abState, s)
  else if d.length ≠ 16 then (abLength, s)
  else if !inLocalMap e then (abRange, s)
  else
    let e := (e &&& ~~~(0xFFFFFFFF#128 <<< 64) &&& ~~~(0x1C#128 <<< 96)) ||| (1#128 <<< 94)
    (0, { s with act := actWriteLive s.act 8 e })

/-- DAP_WINDOW_WRITE. -/
def execDapWindowWrite (w : Session) (data : Bytes) (s : State) : Host.Outcome State Fault Refusal :=
  objCmd s w 0x2214 0 (dapWindowWrite data)

/-- The records of an ACT_REQ: index and entry. -/
def actRecords (p : Bytes) : List (Nat × W128) :=
  (List.range (byteAt p 1).toNat).map fun i => (fieldLE p (8 + 24 * i) 2, BitVec.ofNat 128 (fieldLE p (16 + 24 * i) 16))

/-- Bytes 2-7 of each record are zero. -/
def actZeros (p : Bytes) (i : Nat) : Bool := decide (fieldLE p (10 + 24 * i) 6 = 0)

/-- The first refused record: its index and reason. -/
def firstRefused (s : State) (p : Bytes) : List (Nat × W128) → Nat → Option (Nat × Nat)
  | [], _ => none
  | (k, e) :: l, i =>
    let r := if actZeros p i then vetReason s k e else 6
    if r = 0 then firstRefused s p l (i + 1) else some (k, r)

def actRspBytes (status n idx reason : Nat) : Bytes := [BitVec.ofNat 8 status, BitVec.ofNat 8 n] ++ toLE 2 idx ++ [BitVec.ofNat 8 reason]

/-- The MGC vets every record before it applies any, and answers once PEND is 0. An unknown OP or N above 37
refuses the request (log 103). -/
def actRequest (s : State) (m : Msg) : State :=
  let p := m.payload
  let op := (byteAt p 0).toNat
  let recs := actRecords p
  let answer := fun (t : State) (b : Bytes) => { t with act.rsp := some (m.tag, b) }
  if 3 < op ∨ 37 < (byteAt p 1).toNat ∨ fieldLE p 2 6 ≠ 0 then answer s (actRspBytes 1 0 0 6)
  else
    match firstRefused s p recs 0 with
    | some (k, r) => answer s (actRspBytes 1 0 k r)
    | none =>
      let a := match op with
        | 0 => recs.foldl (fun a r => actWriteLive a r.1 r.2) s.act
        | 1 => recs.foldl (fun a r => actWriteShadow a r.1 r.2) s.act
        | 2 => actCommit s.act
        | _ => actCopy s.act
      answer { s with act := a } (actRspBytes 0 recs.length 0 0)

/-- ACT_REQ. One request is in hand at a time. -/
def execActReq (s : State) : Host.Outcome State Fault Refusal :=
  if s.act.rsp.isSome then .next s
  else
    match takeMsg s 0x04 with
    | some (m, t) => .next (actRequest t m)
    | none => .next s

/-- ACT_STATION_APPLY. -/
def execActStationApply (s : State) : Host.Outcome State Fault Refusal :=
  if s.act.pend && !s.dev.clocksStopped then .next { s with act := actApply s.act } else .next s

/-- ACT_RSP: once PEND is 0. -/
def execActRsp (s : State) : Host.Outcome State Fault Refusal :=
  match s.act.rsp with
  | some (tag, b) =>
    if ctlUp s && !s.act.pend then
      .next (m2cSend { s with act.rsp := none } { kind := 0x84, tag := tag, payload := b })
    else .next s
  | none => .next s

/-- The boot set (Table 14-12). -/
def actEntry (base pages mask attr : Nat) : W128 :=
  BitVec.ofNat 128 (base / 4096 + pages * 2 ^ 32 + mask * 2 ^ 64 + attr * 2 ^ 96)

def bootSet : Tbl W128 :=
  [(0, actEntry 0 0x1000000 0x7FFFFFF 0x1F), (1, actEntry loftBase 0x1800 0x7FFFFFF 0x1B),
   (2, actEntry tcmBase 0x2000 0x150FFFF 0x23), (3, actEntry periBase 0x100000 0x1400000 0x23),
   (4, actEntry 0x18000040000 0x40 0x2100000 0x23), (5, actEntry 0x18000200000 0x200 0x10FFFF 0x23),
   (6, actEntry 0x18001000000 0x100 0xFFFF 0x23), (7, actEntry 0x18000240000 0x20 0x4000000 0x22)]

/-! ## DAP (R506 to R509) -/

def dapSetHalt (s : State) (h : HartId) (b : Bool) : State :=
  if h = 0 then { s with boot.dapHalt0 := b } else { s with boot.dapHalt1 := b }

def dapHalted (s : State) (h : HartId) : Bool := if h = 0 then s.boot.dapHalt0 else s.boot.dapHalt1

def dapNo (s : State) : Host.Outcome State Fault Refusal := .next (emit s (.dap (.abort 0)))

/-- DAP_ACCESS. Registers are read and written, and a hart stepped, while it is halted. -/
def execDapAccess (op : DapOp) (s : State) : Host.Outcome State Fault Refusal :=
  let ok := fun (t : State) => Host.Outcome.next (emit t (.dap (.data [])))
  if !mgcUp s then .next s
  else
    match op with
    | .readMgc a n =>
      if mgcLocked s.otp then dapNo s else .next (emit s (.dap (.data (s.rd a n))))
    | op =>
      if mastLocked s.otp || !ctlUp s then dapNo s
      else
        match op with
        | .halt h => ok (dapSetHalt s h true)
        | .resume h => ok (dapSetHalt s h false)
        | .step h =>
          if dapHalted s h then
            match (issueWord (dapSetHalt s h false) h).outcome h with
            | .next t => ok (dapSetHalt t h true)
            | o => o
          else dapNo s
        | .readReg h r =>
          if dapHalted s h then .next (emit s (.dap (.data (toLE 8 ((hartOf s h).getX r).toNat)))) else dapNo s
        | .writeReg h r v => if dapHalted s h then ok (hartMod s h fun x => x.setX r v) else dapNo s
        | .readMem a n =>
            match initRead s 30 a n with
            | (.ok d, t) => .next (emit t (.dap (.data d)))
            | (.error _, t) => dapNo t
        | .writeMem a d =>
            match initWrite s .other 30 a d with
            | (none, t) => ok t
            | (some _, t) => dapNo t
        | .readMgc _ _ => dapNo s

end Sys2Proof.Machine
end

