-- ==== Sys2Proof/Machine/Restore.lean ====
section
/-!
DEFINITION. Every MGC-held object back at its default, and the start of the node (R89, Table 3-3).
-/

namespace Sys2Proof.Machine

/-- The budget of 0x2300:01 back at 480 units (Table 13-8). -/
def restoreBudget (s : State) : State := if s.reef.budget = 480 then s else (budgetWrite 480 s).2

/-- Every MGC-held object back at its default, but for PHT source settings (Table 3-3; log 111). A perturbation
ends with its object (R540), a timed-out heartbeat consumer and a LOST poll entry with theirs (R119). -/
def restoreObjects (s : State) : State :=
  let s := restoreBudget (clearAllOf (clearAllOf (pertEndAll s) 0xFF03) 0x8130)
  { s with
    cleatA.accepted := 0, cleatA.fullEvents := 0, cleatA.unknown := 0, cleatC.lost := 0,
    node.od := [], node.stats := Vector.replicate 6 0, node.history := [],
    node.polls := Node.reset.polls, node.client := Node.reset.client,
    node.consumers := Vector.replicate 8 false,
    otp.staged := [], act := { closeWindow s.act with denials := 0, log := [] }, boot.flashOfs := 0,
    reef.pinmax := 240, reef.tDerate := 105, reef.tCrit := 112, reef.grantTo := 10, reef.reclaimTo := 1000,
    reef.autoMask := 0, reef.autoIdle := 200,
    reef.grants := 0, reef.reclaims := 0, reef.refusals := 0, reef.forcedOff := 0, reef.deficits := 0,
    pht.slips := [], pht.slipCount := 0, pht.late := Vector.replicate 8 0,
    tw := Vector.ofFn fun i : Fin 6 =>
      let p := s.tw.get i
      if i.val < 2 then { p with cfg := TwPort.reset.cfg, tim := TwPort.reset.tim, taddr := 0, win := TwPort.reset.win, objRes := [] } else p,
    health.reports := Vector.replicate 6 0,
    pert.params := Pert.reset.params }

/-- R89: INITIALISATION with every object at its default, boot-up, PRE-OPERATIONAL. The port settings in force
stay (R87). The EMCYs raised before leave with EMCY_SEND. -/
def nodeStart (s : State) : State :=
  let s := restoreObjects s
  bootUp { s with node := { pdoRestart s.node with nmt := .initialisation } }

end Sys2Proof.Machine
end

