-- ==== Sys2Proof/Machine/Fabric.lean ====
section
/-!
DEFINITION. Arriving flits and messages, remote requests at their home and responses at their source, link
retry, and the fabric agent: HELLO, election, loss, orphan, JOIN (R385, R386, R400 to R428).
-/

namespace Sys2Proof.Machine

/-! ## Requests at their home (R414, R417, R418) -/

/-- Cause of an ERR message for a bus error (Table 11-7). -/
def errCause : BusErr → Nat
  | .act => 1 | .unmapped => 2 | .noRoute => 3 | .ecc => 5 | .planeOff => 6 | .shroud => 7

/-- A response to a message, to its source with its TAG. -/
def responseTo (s : State) (m : Bytes) (mk b14 : Nat) (data : Bytes) : Bytes :=
  mkMessage mk (msgSrc m).val (ownChip s).val (msgTag m) (msgOff m) (byteAt m 12).toNat 0 b14 data

/-- Bytes a request accesses: LEN of RD and WR, the size of an ATOM's operation, none for an operation that
Table 11-7 does not list. -/
def reqBytes (m : Bytes) : Option Nat :=
  if msgMk m = mkAtom then
    (match msgOp m with
      | 0 => some 1 | 1 => some 4 | 2 => some 8 | 3 => some 4 | 4 => some 8 | _ => none)
  else some (msgLen m)

def reqAccess (m : Bytes) : Nat :=
  if msgMk m = mkRd then accLoad else if msgMk m = mkWr then accStore else accAtomic

/-- The hart behind a remote atomic, by its source port (log 94). -/
def msgHart (m : Bytes) : HartId := Fin.ofNat 2 (bits (msgTag m) 12 1)

/-- A checked request is performed: the answer and the state. -/
def performReq (s : State) (m : Bytes) (n : Nat) : Bytes × State :=
  let a := msgOff m
  let g := a / 64
  let src := msgSrc m
  let h := msgHart m
  if msgMk m = mkRd then
    let (d, t) := busRead s a n
    (responseTo s m mkRdResp 0 d, t)
  else if msgMk m = mkWr then (responseTo s m mkWrAck 0 [], busWrite s .other a ((msgData m).take n))
  else if msgOp m = 0 then
    let (d, t) := busRead s a 1
    (responseTo s m mkAtomResp 0 (padTo 16 d), busWrite t .other a [1])
  else if msgOp m ≤ 2 then
    let (d, t) := busRead s a n
    (responseTo s m mkAtomResp 0 (padTo 16 d),
      { t with fab.homeRes := (t.fab.homeRes.filter fun r => !(r.1 == src && r.2.1 == h)) ++ [(src, h, g)] })
  else if s.fab.homeRes.contains (src, h, g) then
    (responseTo s m mkAtomResp 0 (padTo 16 [0]),
      { busWrite s .other a ((msgData m).take n) with
        fab.homeRes := s.fab.homeRes.filter fun r => r.2.2 ≠ g })
  else (responseTo s m mkAtomResp 0 (padTo 16 [1]), s)

/-- What a request that has arrived comes to. -/
inductive ReqRes where
  | answer (m : Bytes) (s : State)
  | silent

/-- A data-plane reset runs, or PD12 has not been granted again since: requests end with PLANE_OFF (R528). -/
def homeOff (s : State) : Bool := s.boot.dprActive || !domUp s 12

/-- A request at its home: refused by a fabric-orphan, by a chip whose data plane is off, for byte 13 of 3 to 7,
by the ACT under bit 27, 28 or 29, or by its target; else performed (R383, R414, R427, R528). -/
def serveReq (s : State) (m : Bytes) : ReqRes :=
  let err := fun (c : Nat) (t : State) => ReqRes.answer (responseTo s m mkErr c []) t
  if s.fab.role = 3 then err 4 s
  else if homeOff s then err 6 s
  else if 3 ≤ msgPriv m then err 1 s
  else
    match reqBytes m with
    | none => .silent
    | some n =>
      match actCheck s (27 + msgPriv m) (reqAccess m) (msgOff m) n with
      | some t => err 1 t
      | none =>
          match busErr s (msgOff m) n with
          | some e => err (errCause e) s
          | none =>
            let (r, t) := performReq s m n
            .answer r t

/-- A response leaves by the routing table, or where it has no entry by the link the request came on
(log 96). -/
def sendResponse (s : State) (p : ShlId) (m : Bytes) : State :=
  match routePort s (msgDst m) with
  | some q => enqueue s none q m
  | none => enqueue s none p m

/-! ## Responses at their source (R415) -/

/-- What came back is put beside the request it answers. -/
def fillRem (tag : BitVec 12) (r : RemRes) (l : List RemBuf) : List RemBuf :=
  l.map fun b => if b.tag = tag ∧ b.res.isNone then { b with res := some r } else b

/-- An outstanding request ends with data, or with a cause. -/
def endRemote (s : State) (w : Remote) (r : RemRes) : State :=
  let s := { s with fab.remotes := s.fab.remotes.erase w }
  match w.wait, r with
  | .mast h, r => hartMod s h fun x => { x with rem := fillRem w.tag r x.rem }
  | .sparLoad c, r => coreMod s c fun x => { x with rem := fillRem w.tag r x.rem }
  | .mastStore h a, .err c => storeErr s h a (errDetail (causeErr c))
  | .sparStore c a, .err _ =>
    if (coreOf s c).state = 1 ∨ (coreOf s c).done then
      planFault (coreMod s c fun x => { x with done := false }) c fcBusErr a
    else s
  | .sparStore c _, .data _ => if (coreOf s c).closing && !sparStoresOut s c then doneEnd s c else s
  | .cp h n fn rd, .data d => cpxEnd s h n fn rd (.data d)
  | .cp h n fn rd, .err c => cpxEnd s h n fn rd (.abort c)
  | .steal, .err _ =>
    { s with csc.steal := none, csc.nextPeer := (s.csc.nextPeer + 1) % max 1 (min 4 s.csc.npeer.toNat) }
  | _, _ => s

/-- A response completes the request of its tag; one that answers none is discarded. -/
def takeResponse (s : State) (m : Bytes) : State :=
  match s.fab.remotes.find? fun w => w.tag.toNat == bits (msgTag m) 0 12 && w.home == msgSrc m with
  | none => s
  | some w =>
    if w.wait = .steal then s
    else endRemote s w (if msgMk m = mkErr then .err (msgCause m) else .data (msgData m))

/-- REMOTE_RESPONSE_TIMEOUT: no response within SHL_RSPTO: cause SHROUD, detail ERROR. -/
def execRemoteResponseTimeout (tag : BitVec 12) (s : State) : Host.Outcome State Fault Refusal :=
  match s.fab.remotes.find? fun w => w.tag == tag with
  | none => .next s
  | some w => if mgcUp s then .next (endRemote s w (.err 7)) else .next s

/-- HOME_RESERVATION_EXPIRE: 4,800 cycles after it was set (R417). -/
def execHomeReservationExpire (chip : ChipId) (hart : HartId) (s : State) : Host.Outcome State Fault Refusal :=
  .next { s with fab.homeRes := s.fab.homeRes.filter fun r => !(r.1 == chip && r.2.1 == hart) }

/-! ## The fabric agent (R419 to R428) -/

def memberList (s : State) : List ChipId := (List.ofFn fun c : Fin 64 => c).filter fun c => s.fab.members.getLsbD c.val

def toMembers (s : State) (kind : Nat) (args : List Nat) : State :=
  (memberList s).foldl (fun t c => sendMgmt t kind args c) s

/-- The head sends every member the member mask and the routing tables (R411, R421). -/
def distribute (s : State) : State := toMembers (reroute s) mgMembers [s.fab.members.toNat, s.fab.machineNode.toNat]

/-- A chip's fabric role as 0x2000:01 shows it too. Only the head's CAN ports are served: on another chip their
sessions and transfers end (R127). -/
def setRole (s : State) (r : BitVec 2) : State :=
  let s := if r = 1 then s else endSessions s false
  { s with fab.role := r, node.mode := r }

/-- FABRIC_ORPHAN_ENTER (R427): EMCY 0xFF42, state 3, a split Trim run ends (R319). -/
def orphanEnter (s : State) : State :=
  if s.fab.role = 3 then s
  else
    let s := raiseEmcy (routeAbort s (fun _ => true) abState) 0xFF42 0x20 [BitVec.ofNat 8 (ownChip s).val]
    trimPeerLost (notice (setRole s 3) noticeFabric [3]) none

/-- The chips heard, each once, this chip among them. -/
def chipsHeard (s : State) : List HelloRec :=
  ownHello s :: s.fab.hellos.filter fun r => r.chip ≠ ownChip s

/-- A chip ID that appears with two serial numbers (R421). -/
def duplicated (s : State) (c : ChipId) : Bool :=
  let all := ownHello s :: s.fab.hellos
  (all.filter fun r => r.chip == c).any fun r => all.any fun q => q.chip == c && q.serial != r.serial

/-- The result of an election among the chips given: a head with a quorum of EXPECT, or none (R421). -/
def electHead (s : State) (cs : List HelloRec) : Option ChipId :=
  let ids := (cs.map fun r => r.chip).eraseDups
  if s.fab.expect.toNat / 2 + 1 ≤ ids.length then
    ((List.ofFn fun c : Fin 64 => c).find? fun c => cs.any fun r => r.chip == c && r.healthy)
  else none

/-- HEAD_SETUP: member mask and routes distributed, the node brought up under the machine's node ID, which is
the head's own at the first election (R421, R422). -/
def headSetup (s : State) (mask : W64) : State :=
  let id := if s.fab.machineNode = 0 then s.node.nodeId else s.fab.machineNode
  let s := setRole { s with fab.head := some (ownChip s), fab.members := mask, fab.machineNode := id,
                            node.nodeId := id } 1
  nodeStart (notice (distribute s) noticeFabric [1])

/-- An election's outcome for this chip. -/
def afterElection (s : State) (cs : List HelloRec) : State :=
  match electHead s cs with
  | none => orphanEnter s
  | some h =>
    if h = ownChip s then
      headSetup s (cs.foldl (fun (m : W64) r => m ||| (1#64 <<< r.chip.val)) 0)
    else setRole { s with fab.head := some h } 2

/-- HELLO: a record is heard and, when it is new, passed on (R420). -/
def execHello (r : HelloRec) (s : State) : Host.Outcome State Fault Refusal :=
  if fabUp s && decide (s.fab.role ≠ 3) then
    if s.fab.hellos.contains r then .next s
    else
      let s := { s with fab.hellos := (s.fab.hellos.filter fun q => !(q.chip == r.chip && q.serial == r.serial)) ++ [r] }
      .next (flood s r)
  else .next s

/-- A link to a chip has trained: the agent's own record and those heard go over it (R420, log 184). -/
def greet (s : State) (p : ShlId) : State :=
  if fabUp s && decide (s.fab.role ≠ 3) then (chipsHeard s).foldl (fun t r => sayHello r t p) s else s

/-- PORT_CONFIG: the partners exchange identity, width and pools; the port becomes ACTIVE with fresh
sequence numbers and the advertised credits (R401, R404); the agent greets a chip with the records it holds. -/
def execPortConfig (p : ShlId) (partner : ShlPartner) (s : State) : Host.Outcome State Fault Refusal :=
  if effPort s p == .config && partnerFits (s.shl.get p) p partner then
    .next (greet (pumpAll (trained (shlMod s p fun q => { q with
      st := .active, width := if partner.width = 4 then 2 else 1, partner := some partner,
      nextSeq := 0, expSeq := 0, replay := [], nakSent := false, noProgress := 0,
      credits := Vector.ofFn fun i : Fin 8 => partner.pools.getD i.val 0,
      owed := Vector.replicate 8 0, late := [] }) p) p) p)
  else .next s

/-- FABRIC_ELECTION: after GO, at EXPECT HELLOs or FAB_WAIT (R420, R421). -/
def execFabricElection (s : State) : Host.Outcome State Fault Refusal :=
  if fabUp s && s.fab.go && decide (s.fab.role = 0) then
    if duplicated s (ownChip s) then
      .next (orphanEnter (raiseEmcy s 0xFF43 0x20 [BitVec.ofNat 8 (ownChip s).val]))
    else .next (afterElection s ((chipsHeard s).filter fun r => !duplicated s r.chip))
  else .next s

/-- FABRIC_HEARTBEAT: members to the head, the head to every member, each 1 ms (R424). -/
def execFabricHeartbeat (s : State) : Host.Outcome State Fault Refusal :=
  if !fabUp s then .next s
  else if s.fab.role = 1 then .next (toMembers s mgHeartbeat [(ownChip s).val])
  else if s.fab.role = 2 then
    match s.fab.head with
    | some h => .next (sendMgmt s mgHeartbeat [(ownChip s).val] h)
    | none => .next s
  else .next s

/-- A chip is gone: new accesses homed on it end with NO_ROUTE, courses are re-queued or recalled, a split
Trim run with it ends (R295, R319, R425). -/
def chipGone (s : State) (c : ChipId) : State :=
  let s := routeAbort s (· == c) abState
  let s := { s with fab.lost := s.fab.lost ||| (1#64 <<< c.val),
                    fab.members := s.fab.members &&& ~~~(1#64 <<< c.val) }
  trimPeerLost (cscChipLost s c) (some c)

/-- The head's part in a loss: LOST to every member, routes anew, standing EMCY 0xFF41 (R425). -/
def headLoses (s : State) (c : ChipId) : State :=
  let s := toMembers s mgLost [c.val]
  let s := raiseStanding (chipGone s c) 0xFF41 0x20 c.val [BitVec.ofNat 8 c.val]
  notice (distribute s) noticeFabric [1, c.val]

/-- CHIP_LOSS_TIMEOUT (R424, R425). -/
def execChipLossTimeout (c : ChipId) (s : State) : Host.Outcome State Fault Refusal :=
  if fabUp s && decide (s.fab.role = 1) && decide (c ≠ ownChip s) && s.fab.members.getLsbD c.val then
    .next (headLoses s c)
  else .next s

/-- A record that arrives is passed to the MGC as a report of unit 0x20, class 0x04; its CODE and DETAIL are
open (R423, log 98). -/
def mgmtReport (s : State) (kind : Nat) : State :=
  reportFault s 0x20 4 (BitVec.ofNat 16 (Config.freeOf .unspecified [0x20, kind]))
    (BitVec.ofNat 64 (Config.freeOf .unspecified [0x21, kind]))

/-- LOST: on receipt a member treats c as gone; the chip it names becomes fabric-orphan (R425, R427). -/
def execLost (c : ChipId) (s : State) : Host.Outcome State Fault Refusal :=
  if fabUp s && (decide (s.fab.role = 1) || decide (s.fab.role = 2)) then
    let s := mgmtReport s mgLost
    .next (if c = ownChip s then orphanEnter s else chipGone s c)
  else .next s

/-- HEAD_HEARTBEAT_TIMEOUT: the members still reached elect a new head, or this chip becomes fabric-orphan
(R426, R427). -/
def execHeadHeartbeatTimeout (s : State) : Host.Outcome State Fault Refusal :=
  match s.fab.head with
  | some h =>
    if fabUp s && decide (s.fab.role = 2) then
      let t := chipGone s h
      let left := (chipsHeard t).filter fun r =>
        r.chip == ownChip t || (t.fab.members.getLsbD r.chip.val && (hops t (ownChip t).val r.chip.val).isSome)
      let u := afterElection t left
      .next (if u.fab.role = 1 then
          raiseStanding { u with fab.lost := u.fab.lost ||| (1#64 <<< h.val) } 0xFF41 0x20 h.val [BitVec.ofNat 8 h.val]
        else u)
    else .next s
  | none => .next s

/-- JOIN: the head admits a chip that has been reset; with EXPECT members again 0xFF41 ends (R428). -/
def execJoin (r : HelloRec) (s : State) : Host.Outcome State Fault Refusal :=
  if fabUp s && decide (s.fab.role = 1) && !s.fab.members.getLsbD r.chip.val then
    let s := { s with
      fab.lost := s.fab.lost &&& ~~~(1#64 <<< r.chip.val),
      fab.members := s.fab.members ||| (1#64 <<< r.chip.val),
      fab.hellos := (s.fab.hellos.filter fun q => q.chip ≠ r.chip) ++ [r] }
    let s := notice (distribute (toMembers s mgJoin [r.chip.val])) noticeFabric [1, r.chip.val]
    .next (if (memberList s).length = s.fab.expect.toNat then clearAllOf s 0xFF41 else s)
  else .next s

/-- The member mask, head, machine node ID and routes that the head distributes (R411, R421, R422). -/
def takeMembers (s : State) (mask : W64) (head : ChipId) (node : BitVec 7) (routes : List Nat) : State :=
  if s.fab.role = 1 ∨ s.fab.role = 3 ∨ mask.getLsbD (ownChip s).val = false then s
  else
    notice (setRole { s with
      fab.members := mask, fab.head := some head, fab.machineNode := node, fab.lost := s.fab.lost &&& ~~~mask,
      fab.routes := Vector.ofFn fun c : Fin 64 => BitVec.ofNat 4 (routes.getD c.val 0xF) } 2) noticeFabric [2]

/-! ## Port states that depend on the fabric -/

/-- Every link to a member chip is DOWN (R427; of the ports that have had a partner, log 99). -/
def allDown (s : State) : Bool :=
  let ps := (List.ofFn fun p : Fin 8 => p).filter fun p =>
    match (s.shl.get p).partner with
    | some q => !q.attach
    | none => false
  !ps.isEmpty && ps.all fun p => effPort s p == .down

/-- A port has gone DOWN: the head reroutes (R411); a chip whose every port is DOWN becomes fabric-orphan. -/
def portLost (s : State) (p : ShlId) : State :=
  if (s.shl.get p).st ≠ .down then s
  else if fabUp s && decide (s.fab.role = 1 ∨ s.fab.role = 2) && allDown s then orphanEnter s
  else if fabUp s && decide (s.fab.role = 1) then distribute s else s

/-! ## Flits (R402 to R409) -/

/-- The messages of a flit's 15 slots. -/
def flitMsgs : Nat → Bytes → List Bytes
  | 0, _ => []
  | k + 1, b =>
    if b.length < 16 then []
    else if byteAt b 0 = 0 then flitMsgs k (b.drop 16)
    else b.take (16 * msgSlots b) :: flitMsgs k (b.drop (16 * msgSlots b))

/-- Credit returns of a flit: 6 bits a pool. -/
def flitCredits (f : Bytes) : Vector Nat 8 := Vector.ofFn fun i : Fin 8 => bits (fieldLE f 5 6) (6 * i.val) 6

/-- A message that has arrived on port p: forwarded toward its destination, or consumed here; from customer
logic only a CPXRESP is taken (R401). Contents of
MGMT, STEAL and STEALRESP messages act through the commands that carry them (log 97). -/
def takeMessage (p : ShlId) (s : State) (m : Bytes) : Host.Outcome State Fault Refusal :=
  let freed := fun (t : State) => oweCredit t p (msgPool m) (msgSlots m)
  if attached s p && decide (msgMk m ≠ mkCpxResp) then .next (freed s)
  else if msgDst m ≠ ownChip s then
    match routePort s (msgDst m) with
    | some q => .next (enqueue s (some p) q m)
    | none => .next (freed s)
  else if msgMk m ≤ 3 then
    match serveReq s m with
    | .silent => .next (freed s)
    | .answer r t => .next (sendResponse (freed t) p r)
  else if msgMk m ≤ 7 then .next (takeResponse (freed s) m)
  else if msgMk m = mkTrimx then .next (trimxBytes (freed s) (msgSrc m).val (msgData m))
  else if msgMk m = mkCpxResp then .next (takeResponse (freed s) m)
  else .next (freed s)

def takeMessages (p : ShlId) : List Bytes → State → Host.Outcome State Fault Refusal
  | [], s => .next s
  | m :: ms, s =>
    match takeMessage p s m with
    | .next t => takeMessages p ms t
    | o => o

def flitOk (f : Bytes) : Bool := decide (f.length = 256) && decide (crc32c (f.take 252) = fieldLE f 252 4)
def flitSeqd (f : Bytes) : Bool := (byteAt f 0).getLsbD 0
def flitNak (f : Bytes) : Bool := (byteAt f 0).getLsbD 1
def flitSeq (f : Bytes) : BitVec 12 := BitVec.ofNat 12 (fieldLE f 1 2)
def flitAck (f : Bytes) : BitVec 12 := BitVec.ofNat 12 (fieldLE f 3 2)
def flitAckOk (f : Bytes) : Bool := (byteAt f 4).getLsbD 7

/-- The acknowledgement of an accepted or unsequenced flit frees replay entries. -/
def takeAck (s : State) (p : ShlId) (f : Bytes) : State :=
  if flitAckOk f then pumpAll (shlMod s p fun q => ackTo q (flitAck f)) p else s

/-- A NAK: the sender replays from the sequence number it names (R408). -/
def takeNak (s : State) (p : ShlId) (f : Bytes) : State :=
  let s := shlMod s p fun q => ackTo q (flitAck f)
  if (s.shl.get p).replay.isEmpty then s else portLost (replayNow s p) p

/-- A CRC error or a gap: the flit is discarded and NAK sent, once until the expected flit arrives. -/
def sendNak (s : State) (p : ShlId) : State :=
  let q := s.shl.get p
  if q.nakSent then s else emit (shlMod s p fun q => { q with nakSent := true }) (.flit p (ackFlit q true))

/-- What has been accepted is acknowledged: with the credits to be returned, or alone. -/
def acknowledge (s : State) (p : ShlId) : State :=
  let q := s.shl.get p
  if q.owed.toList.any (fun n => decide (0 < n)) && decide (q.replay.length < 64) then creditFlit s p
  else emit s (.flit p (ackFlit q false))

/-- A flit arrives on an ACTIVE port. -/
def flitReceive (s : State) (p : ShlId) (f : Bytes) : Host.Outcome State Fault Refusal :=
  let q := s.shl.get p
  if !flitOk f then .next (sendNak (shlMod s p fun q => { q with crcErrors := q.crcErrors + 1 }) p)
  else if !flitSeqd f then .next (if flitNak f then takeNak s p f else takeAck s p f)
  else if flitSeq f = q.expSeq then
    let cr := flitCredits f
    let s := shlMod s p fun q => { q with
      expSeq := q.expSeq + 1, nakSent := false,
      credits := Vector.ofFn fun i : Fin 8 => q.credits.get i + cr.get i }
    match takeMessages p (flitMsgs 15 (slice f 11 240)) (takeAck s p f) with
    | .next t => .next (acknowledge (pumpAll t p) p)
    | o => o
  else if (q.expSeq - flitSeq f).toNat ≤ 2048 then .next (emit s (.flit p (ackFlit q false)))
  else .next (sendNak s p)

/-- FLIT_RECEIVE. -/
def execFlitReceive (p : ShlId) (flit : Bytes) (s : State) : Host.Outcome State Fault Refusal :=
  if effPort s p == .active then flitReceive s p flit else .next s

/-- NAK_RECEIVE: an unsequenced flit with NAK. -/
def execNakReceive (p : ShlId) (flit : Bytes) (s : State) : Host.Outcome State Fault Refusal :=
  if effPort s p == .active && flitOk flit && !flitSeqd flit && flitNak flit then .next (takeNak s p flit)
  else .next s

/-- REPLAY_TIMEOUT: flits are unacknowledged and no ACK has advanced for 1 µs. -/
def execReplayTimeout (p : ShlId) (s : State) : Host.Outcome State Fault Refusal :=
  if effPort s p == .active && !(s.shl.get p).replay.isEmpty then .next (portLost (replayNow s p) p) else .next s

/-- PORT_RETRAIN: loss of block lock or retry failure takes an ACTIVE port into RETRAIN. -/
def execPortRetrain (p : ShlId) (s : State) : Host.Outcome State Fault Refusal :=
  if effPort s p == .active then .next (portLost (portRetrain s p) p) else .next s

/-- PORT_DOWN: a retrain not done in 8 µs (Table 11-5). -/
def execPortDown (p : ShlId) (s : State) : Host.Outcome State Fault Refusal :=
  if effPort s p == .retrain then .next (portLost (portGoDown s p) p) else .next s

end Sys2Proof.Machine
end

