-- ==== Sys2Proof/Machine/Fence.lean ====
section
/-!
DEFINITION. Reports and fences as they come from the units: FAULT_REPORT, FENCE, FENCE_TAKES_EFFECT,
CLC_LOST_CLEAR (R28 to R31, R287 to R291, R475, R531, R532, Table 1-11).
-/

namespace Sys2Proof.Machine

/-- The power domain of a UNIT code of R28, none for a code it does not list. -/
def unitDom (u : Nat) : Option DomId :=
  if u < 0x10 then some (Fin.ofNat 18 (u / 2))
  else if u = 0x10 then some 8
  else if u ≤ 0x17 then some 9
  else if u = 0x18 then some 10
  else if u = 0x19 then some 12
  else if u = 0x1A then some 12
  else if u = 0x1B then some 14
  else if 0x20 ≤ u ∧ u ≤ 0x23 then some 15
  else if 0x24 ≤ u ∧ u ≤ 0x27 then some 16
  else none

/-- A unit's reports reach the management plane: it is powered, and with it the data-side end of Cleat C in PD12;
while the data plane is off or in reset there are none (R42, Table 1-4). -/
def unitReports (s : State) (u : Nat) : Bool :=
  match unitDom u with
  | some d => domUp s d && domUp s 12 && !s.boot.dprActive
  | none => false

/-- FAULT_REPORT: the report is stored, or lost, and taken; a port sent to DOWN by it takes its routes along. -/
def execFaultReport (unit cls : Byte) (code : W16) (detail : W64) (s : State) :
    Host.Outcome State Fault Refusal :=
  if unitReports s unit.toNat then
    let t := reportFault s unit cls code detail
    .next (if 0x20 ≤ unit.toNat ∧ cls = 1 then portLost t (Fin.ofNat 8 (unit.toNat - 0x20)) else t)
  else .next s

/-- FENCE: the unit's fault line acts, with or without a report in the FIFO (R30; ch. 01 Corners). -/
def execFence (unit : Byte) (code : W16) (s : State) : Host.Outcome State Fault Refusal :=
  if fenceable unit.toNat && unitReports s unit.toNat then .next (fenceFault s unit.toNat code) else .next s

/-- A Spar core's fence takes effect: mask 0x2701, EMCY 0xFF21, its Reef share (R289, R475); its reader
registrations are released (R297; log 104). -/
def coreFenced (s : State) (c : CoreId) : State :=
  let s := coreMod (obdRelease s c) c fun x => { x with
    state := 3, cur := none, done := false, closing := false, recallTo := none, wait := .none, rem := [], rptLeft := 0,
    tile := { x.tile with active := false } }
  let s := raiseStanding { s with health.coreMask := s.health.coreMask ||| (1#16 <<< c.val) }
    0xFF21 (BitVec.ofNat 8 c.val) c.val (toLE 2 c.val)
  reefFence s c

/-- What a fence means for the unit itself (R532). -/
def unitStops (s : State) (u : Nat) : State :=
  if u = 0x10 then { s with ee.state := 3 }
  else if u = 0x18 then { s with trim.status := tsFenced, trim.ending := none, trim.stopReq := none }
  else s

/-- Another unit's fence takes effect: mask 0x2704, EMCY 0xFF23 with the CODE of its fault (R532). -/
def otherFenced (s : State) (u : Nat) : State :=
  let s := { unitStops s u with health.unitMask := s.health.unitMask ||| (1#16 <<< (u - 0x10)) }
  raiseStanding s 0xFF23 (BitVec.ofNat 8 u) u (toLE 2 (Tbl.read (fun _ => 0) s.cleatC.codes u).toNat)

/-- From this cycle the unit's check station refuses its transactions; jobs that can no longer run end, and
the control plane has its notice. -/
def fenceEffect (s : State) (u : Nat) : State :=
  let s := { s with cleatC.fenced := s.cleatC.fenced ||| (1#40 <<< u) }
  let s := if u < 16 then coreFenced s (Fin.ofNat 16 u) else otherFenced s u
  notice (abortStuck s) noticeFence [u]

/-- FENCE_TAKES_EFFECT: within 2 µs of the line. -/
def execFenceTakesEffect (unit : Byte) (s : State) : Host.Outcome State Fault Refusal :=
  let u := unit.toNat
  if mgcUp s && fenceable u && s.cleatC.lines.getLsbD u && !unitFenced s u then .next (fenceEffect s u)
  else .next s

/-- CLC_LOST_CLEAR: a write of 0x2004:04. -/
def execClcLostClear (w : Session) (v : W64) (s : State) : Host.Outcome State Fault Refusal :=
  objCmd s w 0x2004 4 (clcLostWrite v.toNat)

end Sys2Proof.Machine
end

