-- ==== Sys2Proof/Machine/Planes.lean ====
section
/-!
DEFINITION. The two plane resets, their release, RESET_REQ, and the Mast image check that boot and every
control-plane reset share (R20, R107, R296, R501 to R503, R521 to R528, Tables 15-2 to 15-4).
-/

namespace Sys2Proof.Machine

/-! ## The Mast image (R501, R503) -/

/-- The lines that hold a body at DRAM offsets from 0 on; bytes of the last line past its end are free. -/
def heldLines (body : Bytes) : Tbl (Option CLine) :=
  (List.range ((body.length + 63) / 64)).map fun k =>
    let d := (body.drop (64 * k)).take 64
    (k, some { data := d ++ (List.range (64 - d.length)).map fun i =>
                 BitVec.ofNat 8 (Config.freeOf .unspecified [0xB0D7, k, i]),
               dirty := true, inD0 := false, inD1 := false, inI0 := false, inI1 := false, held := true })

/-- Both Mast slots are checked: EMCY 0xFF07 names the one that fails, or 0xFF when neither is acceptable
(R503). -/
def mastCheck (s : State) : State :=
  let a := imageCheck s true 0
  let b := imageCheck s true 1
  if a ≠ 0 ∧ b ≠ 0 then raiseEmcy s 0xFF07 0xFF [0xFF]
  else if a ≠ 0 then raiseEmcy s 0xFF07 0xFF [0, BitVec.ofNat 8 a]
  else if b ≠ 0 then raiseEmcy s 0xFF07 0xFF [1, BitVec.ofNat 8 b]
  else s

/-- The image chosen is held in L2; none leaves the control plane in reset. -/
def mastHold (s : State) : State :=
  match chooseImage s true with
  | none => { s with boot.mastSlot := none, boot.mastHeld := false, boot.control := .reset }
  | some k =>
    let a := flashBase + imageOff true k
    { s with
      boot.mastSlot := some k, boot.mastVersion := BitVec.ofNat 32 (s.rdLE (a + 8) 4),
      boot.mastSvn := s.rdLE (a + 5) 1, boot.mastEntry := s.rdLE (a + 0x10) 4,
      boot.mastUnsigned := (slice s.otp.record 0x10 32).all (fun b => b == 0),
      boot.mastHeld := true,
      mast.cache := heldLines (s.rd (a + 0x100) (s.rdLE (a + 0x0C) 4)) }

/-- RESTART: the state the control plane missed (R20). -/
def restartNotice (s : State) : State :=
  notice { s with cleatA.restart := true } noticeRestart
    [nmtCode s.node.nmt, s.reef.budget.toNat, s.health.coreMask.toNat]

/-- The rings and the host lane are emptied, and what the MGC held back with them (R20). -/
def emptyRings (s : State) : State :=
  { s with cleatA := { CleatA.reset with
      accepted := s.cleatA.accepted, fullEvents := s.cleatA.fullEvents, unknown := s.cleatA.unknown } }

/-- The control plane leaves reset: MC0 at ENTRY at S level, MC1 halted, PD17 running, the first message the
RESTART notice (R20, R501, Table 15-3). -/
def releaseControl (s : State) : State :=
  if s.boot.mastHeld then
    restartNotice { emptyRings s with
      boot.control := .run, pcie.up := s.dev.perstN,
      mast.harts := vmod s.mast.harts 0 fun x => { x with pc := BitVec.ofNat 64 s.boot.mastEntry } }
  else s

/-- The Mast image check and hold, and the release; no generation in force holds the control plane in reset
(R489). -/
def mastBoot (s : State) : State :=
  if s.otp.noValid then { s with boot.control := .reset, boot.mastSlot := none, boot.mastHeld := false }
  else releaseControl (mastHold (mastCheck s))

/-! ## Control-plane reset (Table 15-3) -/

/-- Source of a plane reset in 0x2703:02. -/
def srcObject : Nat := 1
def srcMessage : Nat := 2
def srcNmt : Nat := 3

def notePlane (s : State) (target source : Nat) : State :=
  { s with boot.lastPlane := BitVec.ofNat 8 (target + 4 * source) }

/-- Outstanding DICT_REQs are answered with 0x0800_0022, and registrations are forgotten (R107). -/
def forgetApps (s : State) : State :=
  let rs := s.node.reqs
  let s := { s with node.reqs := [], node.regs := [], node.images := [] }
  rs.foldl (fun t r => answerOrigin t r.origin r.index.toNat r.sub.toNat (.abort abState)) s

/-- A remote request of a hart. -/
def RemWait.ofHart : RemWait → Bool
  | .mast _ => true
  | .mastStore _ _ => true
  | .cp _ _ _ _ => true
  | .dropped _ => true
  | _ => false

/-- The harts are held in reset, L1 and L2 invalidated without write-back, PD17 reset with the mailbox, the
slots disarmed and PHASE_OUT inactive (R522, Tables 15-2, 15-3). A reset in progress is joined. -/
def cprStart (s : State) : State :=
  if s.boot.cprActive then s
  else
    let s := forget (forgetApps s) (· == .host)
    emptyRings { s with
      boot.control := .reset, boot.cprActive := true, boot.mastHeld := false, boot.cprCount := s.boot.cprCount + 1, boot.dprTags := [],
      boot.dapHalt0 := false, boot.dapHalt1 := false,
      mast := Mast.reset, pcie := Pcie.reset, node.hmb := Hmb.reset, pht := phtDisarm s.pht, act.rsp := none,
      fab.remotes := s.fab.remotes.filter fun r => !r.wait.ofHart }

/-! ## Data-plane reset (Table 15-4) -/

/-- Every job taken and not completed completes as ABORTED (R296). -/
def abortTaken (s : State) : State :=
  s.csc.jobs.foldl (fun t j => completeJob t { j with stop := some 5 }) s

/-- A domain goes OFF without acknowledgement, its units in transit (R472). -/
def dprOff (s : State) (d : DomId) : State :=
  domMod (enterFree s d .off) d fun r => { r with superseded := false, rspTag := none }

/-- PD14 completes an exit in progress and enters self-refresh. -/
def dprDram (s : State) : State :=
  let s := { s with ddr.exiting := false, ddr.busy := false }
  if (domOf s 14).state = .run then enterFree s 14 .ret
  else domMod s 14 fun r => { r with reclaim := none, rspTag := none }

/-- A grant that a data-plane reset does not reach: PD15 and PD16. -/
def dprKeeps (w : ReefWait) : Bool := decide (15 ≤ w.dom.val)

/-- The reset from its request to the first arbiter cycle: the CSC stops, every unit's fence stands, taken jobs
are aborted, PD0 to PD13 go OFF, PD14 to self-refresh. Requests for those domains that wait are gone. A reset in
progress is joined (R525). -/
def dprStart (s : State) : State :=
  if s.boot.dprActive then s
  else
    let s := abortTaken s
    let s := { s with
      boot.dprActive := true, boot.dprCount := s.boot.dprCount + 1,
      cleatC.lines := 0x3FFFFFF, cleatC.fenced := 0x3FFFFFF,
      reef.queue := s.reef.queue.filter dprKeeps, reef.demand := Vector.replicate 9 false,
      cleatB := s.cleatB.map fun q => { q with released := [] },
      fab.remotes := s.fab.remotes.filter fun r => r.wait.ofHart }
    let s := dprDram s
    (allDoms.filter fun d => decide (d.val ≤ 13) && d != 11).foldl dprOff s

/-- RESET_RSP with a status. -/
def resetRsp (s : State) (tag : W16) (status : Nat) : State :=
  m2cSend s { kind := 0x86, tag := tag, payload := toLE 1 status }

/-- The reset ends: units released, idle and unfenced, the masks clear, the error resets of 0xFF21 and 0xFF23,
RESET_RSP to each message that asked and a notice (R524, R527, R536). -/
def dprFinish (s : State) : State :=
  let tags := s.boot.dprTags
  let s := { s with
    boot.dprActive := false, boot.dprTags := [],
    cleatC.lines := 0, cleatC.fenced := 0, cleatC.codes := [],
    health.coreMask := 0, health.unitMask := 0,
    spar := Vector.replicate 16 SparCore.reset, ee := Ee.reset, trim := Trim.reset, csc := Csc.reset }
  let s := clearAllOf (clearAllOf s 0xFF21) 0xFF23
  let s := tags.foldl (fun t g => resetRsp t g 0) s
  notice s noticeFence [0]

/-- DPR_END. -/
def execDprEnd (s : State) : Host.Outcome State Fault Refusal :=
  if mgcUp s && s.boot.dprActive then .next (dprFinish s) else .next s

/-- CPR_RELEASE: the image is checked and held, no data-plane reset is in progress (R522, R525). -/
def execCprRelease (s : State) : Host.Outcome State Fault Refusal :=
  if mgcUp s && s.boot.cprActive && !s.boot.dprActive then
    .next (mastBoot { s with boot.cprActive := false })
  else .next s

/-! ## Requests (R524) -/

/-- The resets of a target: 1 control plane, 2 data plane, 3 both. -/
def planeReset (s : State) (target source : Nat) : State :=
  let s := notePlane s target source
  let s := if bitOf target 1 then dprStart s else s
  if bitOf target 0 then cprStart s else s

/-- A write of 0x2702: an abort code, 0 for none. -/
def resetWrite (v : Nat) (s : State) : Nat × State :=
  if v = 1 ∨ v = 2 ∨ v = 3 then (0, planeReset s v srcObject) else (abRange, s)

/-- The write of 0x2702 answered before the resets act. -/
def resetByObject (w : Session) (v : Nat) (s : State) : Host.Outcome State Fault Refusal :=
  openAccess s w 0x2702 0 fun s =>
    if isService s.node w then (resetWrite v (answerSess s w 0x2702 0 (.data []))).2
    else answerSess s w 0x2702 0 (.abort abRank)

/-- A RESET_REQ of one target at the head of the C2M ring; a request for the data plane alone is answered when
its sequence ends. -/
def resetByMessage (v : Nat) (s : State) : Host.Outcome State Fault Refusal :=
  match takeMsgIf s fun m => m.kind == 0x06 && (byteAt m.payload 0).toNat == v with
  | none => .next s
  | some (m, t) =>
    let t := planeReset t v srcMessage
    .next (if v = 2 then { t with boot.dprTags := t.boot.dprTags ++ [m.tag] } else t)

/-- CPR_REQUEST. -/
def execCprRequest (by_ : ResetBy) (s : State) : Host.Outcome State Fault Refusal :=
  match by_ with
  | .object w => resetByObject w 1 s
  | .mailbox => resetByMessage 1 s

/-- DPR_REQUEST. -/
def execDprRequest (by_ : ResetBy) (s : State) : Host.Outcome State Fault Refusal :=
  match by_ with
  | .object w => resetByObject w 2 s
  | .mailbox => resetByMessage 2 s

/-- CPR_DPR_REQUEST. -/
def execCprDprRequest (by_ : ResetBy) (s : State) : Host.Outcome State Fault Refusal :=
  match by_ with
  | .object w => resetByObject w 3 s
  | .mailbox => resetByMessage 3 s

/-- RESET_REQ: a target other than 1, 2 and 3 is refused. -/
def execResetReq (s : State) : Host.Outcome State Fault Refusal :=
  match takeMsgIf s fun m => m.kind == 0x06 && !(decide (1 ≤ (byteAt m.payload 0).toNat) && decide ((byteAt m.payload 0).toNat ≤ 3)) with
  | none => .next s
  | some (m, t) => .next (resetRsp t m.tag 1)

end Sys2Proof.Machine
end

