-- ==== Sys2Proof/Machine/Dict.lean ====
section
/-!
DEFINITION. The object dictionary: the table of the MGC-held objects, what they read, what a write does, and the
forwarding of control-held ones (R83, R92, R93, R100, R102 to R110; Tables 1-11, 2-8, 3-7 to 3-10, 11-13, 12-7,
13-8, 14-14, 15-11).
-/

namespace Sys2Proof.Machine

/-! ## The objects -/

/-- Access types of R92; a type with PDO mapping reads and writes as rw does. -/
inductive Acc where
  | const
  | ro
  | wo
  | rw
  deriving DecidableEq, Repr

/-- One row of an object table: indices, sub-indices, access, service rank to write, length of the data type in
bytes (0 for a string of any length). -/
structure OdRow where
  lo : Nat
  hi : Nat
  subLo : Nat
  subHi : Nat
  acc : Acc
  svc : Bool
  len : Nat
  deriving DecidableEq, Repr

/-- A row for one index. -/
def row (i subLo subHi : Nat) (acc : Acc) (svc : Bool) (len : Nat) : OdRow :=
  { lo := i, hi := i, subLo := subLo, subHi := subHi, acc := acc, svc := svc, len := len }

/-- Table 3-8 and Table 0-7. -/
def odComm : List OdRow :=
  [row 0x1000 0 0 .ro false 4, row 0x1001 0 0 .ro false 1, row 0x1003 0 0 .rw true 1,
   row 0x1003 1 16 .rw true 4, row 0x1005 0 0 .rw true 4, row 0x1008 0 0 .const false 0,
   row 0x1009 0 0 .const false 0, row 0x100A 0 0 .ro false 0, row 0x1012 0 0 .rw true 4,
   row 0x1014 0 0 .rw true 4, row 0x1015 0 0 .rw true 2, row 0x1016 1 8 .rw true 4,
   row 0x1017 0 0 .rw true 2, row 0x1018 1 4 .ro false 4, row 0x1019 0 0 .rw true 1,
   row 0x1029 1 1 .rw true 1, row 0x1200 1 2 .ro false 4] ++
  [{ lo := 0x1400, hi := 0x140F, subLo := 1, subHi := 1, acc := .rw, svc := true, len := 4 },
   { lo := 0x1400, hi := 0x140F, subLo := 2, subHi := 2, acc := .rw, svc := true, len := 1 },
   { lo := 0x1400, hi := 0x140F, subLo := 3, subHi := 3, acc := .rw, svc := true, len := 2 },
   { lo := 0x1400, hi := 0x140F, subLo := 4, subHi := 4, acc := .rw, svc := true, len := 1 },
   { lo := 0x1400, hi := 0x140F, subLo := 5, subHi := 5, acc := .rw, svc := true, len := 2 },
   { lo := 0x1600, hi := 0x160F, subLo := 0, subHi := 0, acc := .rw, svc := true, len := 1 },
   { lo := 0x1600, hi := 0x160F, subLo := 1, subHi := 64, acc := .rw, svc := true, len := 4 },
   { lo := 0x1800, hi := 0x180F, subLo := 1, subHi := 1, acc := .rw, svc := true, len := 4 },
   { lo := 0x1800, hi := 0x180F, subLo := 2, subHi := 2, acc := .rw, svc := true, len := 1 },
   { lo := 0x1800, hi := 0x180F, subLo := 3, subHi := 3, acc := .rw, svc := true, len := 2 },
   { lo := 0x1800, hi := 0x180F, subLo := 4, subHi := 4, acc := .rw, svc := true, len := 1 },
   { lo := 0x1800, hi := 0x180F, subLo := 5, subHi := 5, acc := .rw, svc := true, len := 2 },
   { lo := 0x1800, hi := 0x180F, subLo := 6, subHi := 6, acc := .rw, svc := true, len := 1 },
   { lo := 0x1A00, hi := 0x1A0F, subLo := 0, subHi := 0, acc := .rw, svc := true, len := 1 },
   { lo := 0x1A00, hi := 0x1A0F, subLo := 1, subHi := 64, acc := .rw, svc := true, len := 4 }]

/-- Tables 1-11, 3-9 and 14-14. -/
def odDevice : List OdRow :=
  [row 0x2000 1 2 .ro false 1, row 0x2001 0 0 .ro false 10, row 0x2003 1 3 .ro false 1,
   row 0x2004 1 3 .ro false 4, row 0x2004 4 4 .rw true 8, row 0x2005 1 3 .rw true 1,
   row 0x2005 4 5 .rw true 2, row 0x2006 1 2 .rw true 2, row 0x2008 0 0 .ro false 14,
   row 0x2010 0 0 .ro false 8, row 0x2011 0 0 .wo false 8, row 0x2012 0 0 .rw false 1,
   row 0x2015 1 6 .rw true 4] ++
  [row 0x2100 1 3 .ro false 1, row 0x2100 4 4 .ro false 2, row 0x2100 5 5 .ro false 1,
   row 0x2101 0 0 .ro false 64, row 0x2110 0 0 .rw true 64, row 0x2111 0 0 .wo true 1,
   row 0x2112 0 0 .ro false 1, row 0x2120 0 0 .wo true 32, row 0x2121 0 0 .wo true 2,
   row 0x2122 0 0 .rw true 1, row 0x2200 1 2 .ro false 1, row 0x2200 3 4 .ro false 4,
   row 0x2200 5 6 .ro false 1, row 0x2210 1 128 .ro false 16, row 0x2211 1 128 .ro false 16,
   row 0x2212 0 0 .ro false 256, row 0x2213 0 0 .rw true 4, row 0x2214 0 0 .rw true 16,
   row 0x2220 1 1 .rw true 4, row 0x2220 2 2 .wo true 0, row 0x2220 3 3 .wo true 2,
   row 0x2220 4 4 .ro false 1]

/-- Tables 2-8, 11-13, 12-7 and 13-8. -/
def odUnits : List OdRow :=
  [row 0x2300 1 1 .rw true 2, row 0x2300 2 4 .ro false 2, row 0x2300 5 5 .rw true 2,
   row 0x2301 1 18 .ro false 4, row 0x2302 1 1 .ro false 1, row 0x2302 2 3 .rw true 1,
   row 0x2302 4 11 .ro false 1, row 0x2303 1 3 .ro false 2, row 0x2304 1 5 .rw true 4,
   row 0x2305 1 1 .rw true 1, row 0x2305 2 2 .rw true 2, row 0x2306 1 2 .rw true 2] ++
  [row 0x2400 1 5 .ro false 8, row 0x2401 1 4 .ro false 1, row 0x2402 1 1 .ro false 256,
   row 0x2402 2 2 .rw true 4, row 0x2403 0 0 .ro false 2, row 0x2410 1 8 .rw true 4] ++
  [row 0x2500 1 6 .ro false 1, row 0x2501 1 6 .wo true 1, row 0x2502 1 2 .rw true 4,
   row 0x2503 1 2 .rw true 4, row 0x2504 1 2 .rw true 1, row 0x2505 1 2 .rw true 0,
   row 0x2506 1 2 .rw true 256, row 0x2507 1 2 .ro false 24] ++
  [row 0x2600 1 2 .ro false 1, row 0x2600 3 3 .ro false 8, row 0x2600 4 5 .ro false 1,
   row 0x2600 6 6 .ro false 8, row 0x2601 1 8 .ro false 2, row 0x2602 1 8 .ro false 16,
   row 0x2620 1 4 .ro false 8, row 0x2621 1 2 .ro false 4, row 0x2680 1 64 .rw false 0]

/-- Table 15-11 and the USDO client of Table 3-9. -/
def odHealth : List OdRow :=
  [row 0x2700 1 1 .ro false 1, row 0x2701 0 0 .ro false 2, row 0x2702 0 0 .wo true 1,
   row 0x2703 1 2 .ro false 1, row 0x2703 3 6 .ro false 4, row 0x2704 0 0 .ro false 2,
   row 0x2705 1 6 .rw true 4, row 0x4080 1 96 .rw true 12, row 0x4081 0 0 .rw true 2,
   row 0x4082 1 96 .ro false 4, row 0x5F00 1 1 .ro false 1,
   { lo := 0x5F11, hi := 0x5F17, subLo := 0, subHi := 0, acc := .rw, svc := false, len := 16 }]

def odTable : List OdRow := odComm ++ odDevice ++ odUnits ++ odHealth

def rowsOf (i : Nat) : List OdRow := odTable.filter fun r => decide (r.lo ≤ i) && decide (i ≤ r.hi)

/-- Highest sub-index of an object of several. -/
def topSub (rs : List OdRow) : Nat := (rs.map fun r => r.subHi).foldl max 0

/-- The row of a sub-index, or the abort code: no such object, no such sub-index. Sub-index 0 of an object of
several that no row covers is its highest sub-index, a constant (CiA 301; log 107). -/
def findRow (i sub : Nat) : Except Nat OdRow :=
  let rs := rowsOf i
  match rs.find? fun r => decide (r.subLo ≤ sub) && decide (sub ≤ r.subHi) with
  | some r => .ok r
  | none =>
    if rs.isEmpty then .error abNone
    else if sub = 0 then .ok (row i 0 0 .const false 1)
    else .error abSub

/-! ## Values -/

def ascii (s : String) : Bytes := s.toList.map fun c => BitVec.ofNat 8 c.toNat

def u32s (l : List W32) : Bytes := l.flatMap fun x => toLE 4 x.toNat

/-- The software version string is Utane's own (log 107). -/
def softVersion (s : State) : Bytes :=
  (List.range 8).map fun i => BitVec.ofNat 8 (Config.freeOf .unspecified [0x100A, s.boot.mgcVersion.toNat, i])

/-- Communication area (Table 3-8). -/
def readComm (s : State) (i sub : Nat) : Bytes :=
  match i with
  | 0x1000 => toLE 4 0
  | 0x1001 => [errorRegister s.health]
  | 0x1003 => if sub = 0 then toLE 1 s.node.history.length else toLE 4 (s.node.history.getD (sub - 1) 0).toNat
  | 0x1008 => ascii "Vangura WJ16"
  | 0x1009 => ascii "B1"
  | 0x100A => softVersion s
  | 0x1018 =>
    match sub with
    | 1 => toLE 4 0x0A51
    | 2 => toLE 4 0x4A16
    | 3 => toLE 4 0x00020001
    | _ => otpRead s.otp 0 4
  | 0x1200 => toLE 4 ((if sub = 1 then 0x600 else 0x580) + s.node.nodeId.toNat)
  | _ => odGet s.node i sub

/-- Device, OTP, boot and ACT objects (Tables 1-11, 3-9, 14-14). -/
def readDevice (s : State) (i sub : Nat) : Bytes :=
  match i with
  | 0x2000 => toLE 1 (if sub = 1 then s.node.mode.toNat else s.node.nodeId.toNat)
  | 0x2001 => otpRead s.otp 0 10
  | 0x2003 =>
    toLE 1 (match sub with
      | 1 => 2
      | 2 => (match s.boot.control with
        | .off => 0
        | .reset => 1
        | .run => 2)
      | _ => if s.boot.dprActive then 1 else if domGranted s 12 then 2 else 0)
  | 0x2004 =>
    match sub with
    | 1 => toLE 4 s.cleatA.accepted.toNat
    | 2 => toLE 4 s.cleatA.fullEvents.toNat
    | 3 => toLE 4 s.cleatA.unknown.toNat
    | _ => toLE 8 s.cleatC.lost.toNat
  | 0x2015 => toLE 4 (s.node.stats.get (Fin.ofNat 6 (sub - 1))).toNat
  | 0x2100 =>
    match sub with
    | 1 => toLE 1 (s.otp.inUse.getD 0xFF)
    | 2 => toLE 1 (generations.filter (slotBlank s.otp)).length
    | 3 => toLE 1 (b2n s.otp.mismatch + 2 * b2n s.otp.exhausted + 4 * b2n ((byteAt s.otp.record 3).getLsbD 0)
        + 8 * b2n s.otp.keyReplaced)
    | 4 => toLE 2 (generations.foldr (fun g a => slotState s.otp g + 4 * a) 0)
    | _ => toLE 1 (b2n s.otp.noValid)
  | 0x2101 => padTo 64 s.otp.record
  | 0x2110 => padTo 64 s.otp.staged
  | 0x2112 => toLE 1 s.otp.status
  | 0x2122 => toLE 1 (svnCount s.otp mastSvnAt)
  | 0x2200 =>
    match sub with
    | 1 => toLE 1 s.boot.mgcSlot.val
    | 2 => toLE 1 (match s.boot.mastSlot with
      | some k => k.val
      | none => 0xFF)
    | 3 => toLE 4 s.boot.mgcVersion.toNat
    | 4 => toLE 4 s.boot.mastVersion.toNat
    | 5 => toLE 1 (b2n s.boot.mastUnsigned + 2 * b2n (mgcLocked s.otp) + 4 * b2n (mastLocked s.otp))
    | _ => toLE 1 (svnCount s.otp mgcSvnAt)
  | 0x2210 => toLE 16 (Tbl.read (fun _ => 0) (actLive s.act) (sub - 1)).toNat
  | 0x2211 => toLE 16 (Tbl.read (fun _ => 0) (actLive s.act) (sub + 127)).toNat
  | 0x2212 => padTo 256 s.act.log.flatten
  | 0x2213 => toLE 4 s.act.denials.toNat
  | 0x2214 => toLE 16 (Tbl.read (fun _ => 0) (actLive s.act) 8).toNat
  | 0x2220 => if sub = 1 then toLE 4 s.boot.flashOfs.toNat else toLE 1 s.boot.flashStatus
  | _ => odGet s.node i sub

/-- 0x2301: state, class, pinned, reclaiming, waiting, units, auto. -/
def domWord (s : State) (d : DomId) : Nat :=
  let r := domOf s d
  r.state.code + 8 * r.cls.code + 2 ^ 5 * b2n (pinned s d) + 2 ^ 6 * b2n r.reclaim.isSome
    + 2 ^ 7 * b2n (s.reef.queue.any fun w => w.dom == d) + 2 ^ 8 * r.units
    + 2 ^ 16 * b2n (decide (d.val < 9) && s.reef.autoMask.getLsbD d.val && !r.superseded)

/-- A slip log entry: source, kind, correction, edge count, network time (Table 2-8; its split is log 107). -/
def slipBytes (x : Slip) : Bytes :=
  toLE 1 x.src.val ++ toLE 1 (b2n x.missing) ++ toLE 3 (wrapInt 24 x.correction)
    ++ toLE 3 (wrapInt 24 x.edges) ++ toLE 8 x.nt.toNat

/-- 0x2601: state, width, ATTACH, partner. -/
def portWord (s : State) (p : ShlId) : Nat :=
  let q := s.shl.get p
  (effPort s p).code + 16 * effWidth s p + (match q.partner with
    | some r => 2 ^ 6 * b2n r.attach + 2 ^ 8 * r.chip.val
    | none => 0)

/-- Reef, PHT, two-wire and fabric objects (Tables 2-8, 11-13, 12-7, 13-8). -/
def readUnits (s : State) (i sub : Nat) : Bytes :=
  let tw := s.tw.get (Fin.ofNat 6 (sub - 1))
  let port := Fin.ofNat 8 (sub - 1)
  match i with
  | 0x2300 =>
    toLE 2 (match sub with
      | 1 => s.reef.budget.toNat
      | 2 => s.reef.eff
      | 3 => wrapInt 16 s.reef.free
      | 4 => s.reef.transit.toNat
      | _ => s.reef.pinmax.toNat)
  | 0x2301 => toLE 4 (domWord s (Fin.ofNat 18 (sub - 1)))
  | 0x2302 =>
    toLE 1 (wrapInt 8 (match sub with
      | 1 => s.reef.tmax
      | 2 => s.reef.tDerate
      | 3 => s.reef.tCrit
      | n => s.reef.temps.getD (n - 4) 0))
  | 0x2303 => toLE 2 (if sub = 1 then s.reef.railSp else if sub = 2 then s.reef.railSoc else s.reef.railShl)
  | 0x2304 =>
    toLE 4 (match sub with
      | 1 => s.reef.grants
      | 2 => s.reef.reclaims
      | 3 => s.reef.refusals
      | 4 => s.reef.forcedOff
      | _ => s.reef.deficits).toNat
  | 0x2305 => if sub = 1 then toLE 1 s.reef.grantTo.toNat else toLE 2 s.reef.reclaimTo.toNat
  | 0x2306 => toLE 2 (if sub = 1 then s.reef.autoMask.toNat else s.reef.autoIdle.toNat)
  | 0x2400 => toLE 8 (if sub = 5 then (ntNow s.pht).toNat else (s.pht.phaseOf (sub - 1)).toNat)
  | 0x2401 =>
    let x := s.pht.srcs.get (Fin.ofNat 4 (sub - 1))
    toLE 1 (x.state.toNat + 4 * b2n x.dir)
  | 0x2402 => if sub = 1 then padTo 256 (s.pht.slips.flatMap slipBytes) else toLE 4 s.pht.slipCount.toNat
  | 0x2403 => toLE 2 s.pht.rdy.toNat
  | 0x2410 => toLE 4 (s.pht.late.get port).toNat
  | 0x2500 => [tw.cond]
  | 0x2502 => toLE 4 tw.cfg.toNat
  | 0x2503 => toLE 4 tw.tim.toNat
  | 0x2504 => toLE 1 tw.taddr.toNat
  | 0x2505 => tw.objRes
  | 0x2506 => padTo 256 tw.win
  | 0x2507 => u32s tw.stats.toList
  | 0x2600 =>
    match sub with
    | 1 => toLE 1 (ownChip s).val
    | 2 => toLE 1 (match s.fab.head with
      | some c => c.val
      | none => 0xFF)
    | 3 => toLE 8 s.fab.members.toNat
    | 4 => toLE 1 s.fab.expect.toNat
    | 5 => toLE 1 s.fab.machineNode.toNat
    | _ => toLE 8 s.fab.lost.toNat
  | 0x2601 => toLE 2 (portWord s port)
  | 0x2602 =>
    let q := s.shl.get port
    u32s [q.crcErrors, q.replays, q.retrains, q.downs]
  | 0x2620 =>
    toLE 8 (match sub with
      | 1 => dramUsable s
      | 2 => s.ddr.corrected.toNat
      | 3 => s.ddr.uncorrectable.toNat
      | _ => s.ddr.lastBad.toNat)
  | _ => toLE 4 (if sub = 1 then s.ddr.loftCorrected else s.ddr.loftUncorrectable).toNat

/-- Health, USDO client and perturbation objects (Tables 3-9, 15-11). -/
def readHealth (s : State) (i sub : Nat) : Bytes :=
  match i with
  | 0x2700 => toLE 1 s.health.standing.length
  | 0x2701 => toLE 2 s.health.coreMask.toNat
  | 0x2703 =>
    match sub with
    | 1 => toLE 1 s.boot.lastDevice
    | 2 => [s.boot.lastPlane]
    | 3 => toLE 4 s.boot.pinCount.toNat
    | 4 => toLE 4 s.boot.mwdtCount.toNat
    | 5 => toLE 4 s.boot.cprCount.toNat
    | _ => toLE 4 s.boot.dprCount.toNat
  | 0x2704 => toLE 2 s.health.unitMask.toNat
  | 0x2705 => toLE 4 (s.health.reports.get (Fin.ofNat 6 (sub - 1))).toNat
  | 0x4082 =>
    let r := s.node.polls.get (Fin.ofNat 96 (sub - 1))
    toLE 4 (r.st.toNat + 2 ^ 16 * r.overruns.toNat)
  | 0x5F00 => toLE 1 ((List.range 7).foldl (fun m k => m + 2 ^ k * b2n (s.pert.active.get (Fin.ofNat 8 (k + 1)))) 0)
  | _ => if 0x5F11 ≤ i then padTo 16 (s.pert.params.get (Fin.ofNat 8 (i - 0x5F10))) else odGet s.node i sub

/-- The value of an MGC-held object. -/
def readValue (s : State) (i sub : Nat) : Bytes :=
  if i < 0x2000 then readComm s i sub
  else if i < 0x2300 then readDevice s i sub
  else if i < 0x2700 then readUnits s i sub else readHealth s i sub

/-! ## Writes: each answers an abort code, 0 for none, and the state -/

def abNoMap : Nat := 0x06040041
def abMapLen : Nat := 0x06040042
def abBusy : Nat := 0x05040005

/-- The value is stored if it is in range. -/
def storeIf (ok : Bool) (i sub : Nat) (d : Bytes) (s : State) : Nat × State :=
  if ok then (0, { s with node := odSet s.node i sub d }) else (abRange, s)

/-- A counter of which only 0 may be written. -/
def zeroIf (v : Nat) (f : State → State) (s : State) : Nat × State := if v = 0 then (0, f s) else (abRange, s)

/-- The bytes of a stream context's result view entry (Table 3-5). -/
def viewLen (sub : Nat) : Nat := if sub = 0x40 then 2 else if sub = 0x41 then 1 else 4

/-- An entry may be mapped into a TPDO, or an RPDO, at this length (R109). -/
def mappable (n : Node) (tx : Bool) (e : MapEntry) : Bool :=
  (tx && ((e.index == 0x1001 && e.sub == 0 && e.len == 1)
      || (e.index == 0x2400 && decide (1 ≤ e.sub) && decide (e.sub ≤ 5) && e.len == 8)
      || (e.index == 0x2401 && decide (1 ≤ e.sub) && decide (e.sub ≤ 4) && e.len == 1)
      || (decide (0x3000 ≤ e.index) && decide (e.index ≤ 0x3FFF) && decide (0x40 ≤ e.sub) && decide (e.sub ≤ 0x4B)
          && e.len == viewLen e.sub)))
    || (!tx && decide (2 ≤ e.index) && decide (e.index ≤ 7) && e.sub == 0 && e.len == [1, 2, 4, 1, 2, 4].getD (e.index - 2) 0)
    || n.regs.any fun r => r.index.toNat == e.index && r.map && (r.access == if tx then 5 else 4)
        && decide (e.sub ≤ r.highest.toNat) && decide (1 ≤ e.len) && decide (e.len ≤ r.size.toNat)

/-- A write of a mapping object (R109, R112). -/
def mapWrite (i sub : Nat) (d : Bytes) (s : State) : Nat × State :=
  let tx := decide (0x1A00 ≤ i)
  let pdo : Fin 16 := Fin.ofNat 16 i
  let invalid := bitOf (if tx then tpdoCob s.node pdo else rpdoCob s.node pdo) 31
  let v := leNat d
  let set : Nat × State := (0, { s with node := odSet s.node i sub d })
  if sub = 0 then
    if !invalid || (decide (v ≠ 0) && decide (odNat s.node i 0 ≠ 0)) then (abState, s)
    else
      let es := (List.range v).map fun k => mapEntry (odNat s.node i (k + 1))
      if 64 < v ∨ 64 < mapLen es then (abMapLen, s)
      else if es.all (mappable s.node tx) then set else (abNoMap, s)
  else if !invalid || decide (odNat s.node i 0 ≠ 0) then (abState, s)
  else if v % 8 = 0 ∧ mappable s.node tx (mapEntry v) then set else (abNoMap, s)

/-- A write of a PDO's communication object; a COB-ID carries an 11-bit CAN-ID (R84). -/
def pdoWrite (i sub : Nat) (d : Bytes) (s : State) : Nat × State :=
  let v := leNat d
  let pdo : Fin 16 := Fin.ofNat 16 i
  match sub with
  | 1 =>
    let (c, t) := storeIf (!bitOf v 29) i sub d s
    if c = 0 ∧ 0x1800 ≤ i then
      (0, { t with node.tpdos := vput t.node.tpdos pdo { changed := false, inhibited := false, syncs := 0, started := false } })
    else if c = 0 then (0, { t with node.rpdos := vput t.node.rpdos pdo none })
    else (c, t)
  | 2 => storeIf (decide (v ≤ 240) || decide (254 ≤ v)) i sub d s
  | 6 => storeIf (decide (v ≤ 240)) i sub d s
  | _ => storeIf true i sub d s

/-- A write of an entry of the error history: what it holds is replaced; entries below it that hold nothing yet
read 0 (log 137). -/
def historyWrite (sub v : Nat) (s : State) : Nat × State :=
  let h := s.node.history ++ List.replicate (sub - s.node.history.length) 0
  (0, { s with node.history := h.set (sub - 1) (BitVec.ofNat 32 v) })

/-- A write of a heartbeat consumer entry: its time starts afresh, and the timeout of the node it watched ends
when no other entry stands for it (R115, R119). -/
def consumerWrite (e : Fin 8) (d : Bytes) (s : State) : Nat × State :=
  let old := bits (odNat s.node 0x1016 (e.val + 1)) 16 8
  let s := { s with node := { odSet s.node 0x1016 (e.val + 1) d with consumers := vput s.node.consumers e false } }
  let stillOut := (List.finRange 8).any fun k =>
    s.node.consumers.get k && bits (odNat s.node 0x1016 (k.val + 1)) 16 8 == old
  (0, if stillOut then s else clearStanding s 0x8130 old)

/-- Communication area. -/
def writeComm (i sub : Nat) (d : Bytes) (s : State) : Nat × State :=
  let v := leNat d
  match i with
  | 0x1003 => if sub = 0 then zeroIf v (fun s => { s with node.history := [] }) s else historyWrite sub v s
  | 0x1005 => storeIf (!bitOf v 29 && !bitOf v 30) i sub d s
  | 0x1012 => storeIf (!bitOf v 29 && !bitOf v 30) i sub d s
  | 0x1014 => storeIf (!bitOf v 29) i sub d s
  | 0x1016 => consumerWrite (Fin.ofNat 8 (sub - 1)) d s
  | 0x1017 => storeIf (decide (v = 0) || decide (10 ≤ v)) i sub d s
  | 0x1019 => storeIf (decide (v ≠ 1) && decide (v ≤ 240)) i sub d s
  | 0x1029 => storeIf (decide (v ≤ 2)) i sub d s
  | _ =>
    if (0x1600 ≤ i ∧ i ≤ 0x160F) ∨ 0x1A00 ≤ i then mapWrite i sub d s
    else if 0x1400 ≤ i then pdoWrite i sub d s
    else storeIf true i sub d s

/-- Codes of 0x2005:04 and 05 (R87). -/
def rateOk (v : Nat) : Bool := [0, 1, 3, 4].contains (v / 256) && [1, 2, 4, 5].contains (v % 256)

/-- Device, OTP, boot and ACT objects. -/
def writeDevice (i sub : Nat) (d : Bytes) (s : State) : Nat × State :=
  let v := leNat d
  match i with
  | 0x2004 => clcLostWrite v s
  | 0x2005 => storeIf (if sub ≤ 3 then decide (v ≤ 1) else rateOk v) i sub d s
  | 0x2015 => (0, { s with node.stats := vput s.node.stats (Fin.ofNat 6 (sub - 1)) (BitVec.ofNat 32 v) })
  | 0x2110 => otpStageWrite d s
  | 0x2111 => otpProgramWrite v s
  | 0x2120 => otpKeyWrite d s
  | 0x2121 => mastLockWrite v s
  | 0x2122 => mastSvnWrite v s
  | 0x2213 => zeroIf v (fun s => { s with act.denials := 0 }) s
  | 0x2214 => dapWindowWrite d s
  | 0x2220 => if sub = 1 then flashOffsetWrite v s else if sub = 2 then flashProgramWrite d s else flashEraseWrite v s
  | _ => storeIf true i sub d s

/-- T_DERATE from 85 to 110 °C, T_CRIT from T_DERATE + 2 to 114 °C (Table 13-6). -/
def thermWrite (sub v : Nat) (s : State) : Nat × State :=
  let t := sext 8 v
  if sub = 2 then
    if 85 ≤ t ∧ t ≤ 110 ∧ t + 2 ≤ s.reef.tCrit then (0, { s with reef.tDerate := t }) else (abRange, s)
  else if s.reef.tDerate + 2 ≤ t ∧ t ≤ 114 then (0, { s with reef.tCrit := t }) else (abRange, s)

/-- Reef statistics. -/
def reefStat (sub : Nat) (v : W32) (s : State) : State :=
  match sub with
  | 1 => { s with reef.grants := v }
  | 2 => { s with reef.reclaims := v }
  | 3 => { s with reef.refusals := v }
  | 4 => { s with reef.forcedOff := v }
  | _ => { s with reef.deficits := v }

/-- Reef, PHT and two-wire objects. -/
def writeUnits (i sub : Nat) (d : Bytes) (s : State) : Nat × State :=
  let v := leNat d
  let n : TwId := Fin.ofNat 6 (sub - 1)
  match i with
  | 0x2300 =>
    if sub = 1 then budgetWrite v s
    else if v ≤ 768 then (0, { s with reef.pinmax := BitVec.ofNat 10 v }) else (abRange, s)
  | 0x2302 => thermWrite sub v s
  | 0x2304 => (0, reefStat sub (BitVec.ofNat 32 v) s)
  | 0x2305 =>
    if sub = 1 then (if 1 ≤ v then (0, { s with reef.grantTo := BitVec.ofNat 8 v }) else (abRange, s))
    else if 10 ≤ v then (0, { s with reef.reclaimTo := BitVec.ofNat 16 v }) else (abRange, s)
  | 0x2306 =>
    if sub = 1 then (if v < 512 then (0, { s with reef.autoMask := BitVec.ofNat 9 v }) else (abRange, s))
    else if 1 ≤ v then (0, { s with reef.autoIdle := BitVec.ofNat 16 v }) else (abRange, s)
  | 0x2402 => zeroIf v (fun s => { s with pht.slipCount := 0 }) s
  | 0x2410 => zeroIf v (fun s => { s with pht.late := vput s.pht.late (Fin.ofNat 8 (sub - 1)) 0 }) s
  | 0x2501 => twReenableWrite n v s
  | 0x2502 => (0, twWrite s n 0x000 (BitVec.ofNat 32 v))
  | 0x2503 => (0, twWrite s n 0x004 (BitVec.ofNat 32 v))
  | 0x2504 => if v < 128 then (0, twWrite s n 0x008 (BitVec.ofNat 32 v)) else (abRange, s)
  | 0x2506 => (0, windowWrite s n 0 d)
  | _ => (abRo, s)

/-- A poll entry is in range (Table 3-10); a disabled one is not looked at. -/
def pollOk (b : Bytes) : Bool :=
  !(byteAt b 1).getLsbD 7 ||
    (decide (1 ≤ (byteAt b 0).toNat) && decide ((byteAt b 0).toNat ≤ 127) && (byteAt b 1 &&& 0x7E) == 0
      && decide ((byteAt b 5).toNat ≤ 15) && decide (1 ≤ fieldLE b 6 2)
      && decide (0x2800 ≤ fieldLE b 8 2) && decide (fieldLE b 8 2 ≤ 0x43FF))

/-- A poll entry is written: its state starts afresh, and LOST ends. -/
def pollWrite (e : Fin 96) (b : Bytes) (s : State) : Nat × State :=
  if pollOk b then
    let s := clearStanding { s with node := odSet s.node 0x4080 (e.val + 1) b } 0xFF03 (e.val + 1)
    (0, { s with
      node.polls := vput s.node.polls e { st := if (byteAt b 1).getLsbD 7 then 1 else 0, overruns := 0, fails := 0, due := false },
      node.client := s.node.client.map fun c => if c = some e then none else c })
  else (abRange, s)

/-- Health and USDO client objects. -/
def writeHealth (i sub : Nat) (d : Bytes) (s : State) : Nat × State :=
  let v := leNat d
  match i with
  | 0x2705 => (0, { s with health.reports := vput s.health.reports (Fin.ofNat 6 (sub - 1)) (BitVec.ofNat 32 v) })
  | 0x4080 => pollWrite (Fin.ofNat 96 (sub - 1)) d s
  | _ => storeIf true i sub d s

/-- A write of an MGC-held object with no part of a session or of another chip in it. -/
def writeValue (i sub : Nat) (d : Bytes) (s : State) : Nat × State :=
  if i < 0x2000 then writeComm i sub d s
  else if i < 0x2300 then writeDevice i sub d s
  else if i < 0x2700 then writeUnits i sub d s else writeHealth i sub d s

/-! ## Access -/

/-- Who asks: where the answer goes, and whether at service rank. -/
structure Asker where
  origin : Origin
  service : Bool
  deriving DecidableEq, Repr

/-- How an access ends: with an answer now, or with one to come. -/
inductive DRes where
  | done (a : Answer) (s : State)
  | wait (s : State)

def DRes.ofCode (r : Nat × State) : DRes := .done (if r.1 = 0 then .data [] else .abort r.1) r.2

def DRes.abort (c : Nat) (s : State) : DRes := .done (.abort c) s

/-! ### Control-held objects (R103 to R107) -/

/-- Bytes of the CANopen data types of a fixed size, none for the others (CiA 301). -/
def fixedLen (dtype : Nat) : Option Nat :=
  match dtype with
  | 1 => some 1 | 2 => some 1 | 3 => some 2 | 4 => some 4 | 5 => some 1 | 6 => some 2 | 7 => some 4
  | 8 => some 4 | 0x11 => some 8 | 0x15 => some 8 | 0x1B => some 8
  | _ => none

/-- The layouts that the owning chapters fix for 0x3000-0x43FF (R103): Tables 4-3 and 3-5, 4-11, 8-11, 9-10. -/
def odControl : List OdRow :=
  let ctx := fun (subLo subHi : Nat) (acc : Acc) (svc : Bool) (len : Nat) =>
    ({ lo := 0x3000, hi := 0x3FFF, subLo := subLo, subHi := subHi, acc := acc, svc := svc, len := len } : OdRow)
  [ctx 0x01 0x04 .rw true 4, ctx 0x05 0x05 .rw true 8, ctx 0x06 0x0C .rw true 4, ctx 0x0D 0x0F .ro false 4,
   ctx 0x40 0x40 .rw false 2, ctx 0x41 0x41 .rw false 1, ctx 0x42 0x4B .rw false 4] ++
  [row 0x4000 1 3 .rw true 2, row 0x4001 1 8 .rw true 4, row 0x4010 1 32 .rw true 18, row 0x4020 1 63 .rw true 16,
   row 0x4021 1 63 .ro false 4, row 0x4040 1 7 .rw true 24, row 0x4041 1 7 .ro false 4] ++
  [row 0x4100 1 11 .rw true 4, row 0x4101 1 1 .rw true 4, row 0x4101 2 2 .rw true 2,
   row 0x4200 1 1 .rw true 8, row 0x4200 2 2 .wo true 1, row 0x4201 1 1 .ro false 2, row 0x4201 2 2 .ro false 4,
   row 0x4201 3 4 .ro false 8, row 0x4202 0 0 .ro false 512, row 0x4203 1 3 .rw true 4,
   row 0x4300 1 64 .ro false 1, row 0x4301 1 64 .ro false 8, row 0x4310 1 8 .rw true 4, row 0x4318 1 8 .ro false 8]

/-- What the fixed layout of an object refuses; an index of which no chapter gives one has no such check, and
sub-index 0 of an object of several is its highest sub-index (log 163). -/
def layoutRefuses (k : Asker) (i sub : Nat) (op : Option Bytes) : Option Nat :=
  let rs := odControl.filter fun r => decide (r.lo ≤ i) && decide (i ≤ r.hi)
  match rs.find? fun r => decide (r.subLo ≤ sub) && decide (sub ≤ r.subHi), op with
  | some r, none => if r.acc = .wo then some abWo else none
  | some r, some d =>
    if r.acc = .ro ∨ r.acc = .const then some abRo
    else if r.svc ∧ k.service = false then some abRank
    else if d.length ≠ r.len then some abLength
    else none
  | none, none => if rs.isEmpty ∨ sub = 0 then none else some abSub
  | none, some _ => if rs.isEmpty then none else if sub = 0 then some abRo else some abSub

/-- Why an access to a registered object is refused. -/
def regRefuses (r : Reg) (k : Asker) (sub : Nat) (op : Option Bytes) : Option Nat :=
  if r.highest.toNat < sub then some abSub
  else
    match op with
    | none => if r.access = 2 then some abWo else none
    | some d =>
      if r.access.toNat ≤ 1 then some abRo
      else if r.rank = 1 ∧ k.service = false then some abRank
      else if r.size.toNat < d.length ∨ (fixedLen r.dtype.toNat).any (fun n => n != d.length) then some abLength
      else none

/-- The next TAG, from 1 to 0xFFFF. -/
def tagAfter (t : W16) : W16 := if t = 0xFFFF then 1 else t + 1

/-- A DICT_REQ goes to Mast firmware; at most 8 are outstanding. -/
def forward (s : State) (k : Asker) (i sub : Nat) (op : Option Bytes) : DRes :=
  match s.node.regs.find? fun r => r.index.toNat == i with
  | none => .abort abNone s
  | some r =>
    match (regRefuses r k sub op).or (layoutRefuses k i sub op) with
    | some c => .abort c s
    | none =>
      if 8 ≤ s.node.reqs.length then .abort abBusy s
      else
        let tag := s.node.nextTag
        let d := op.getD []
        .wait (m2cSend { s with
            node.nextTag := tagAfter tag,
            node.reqs := s.node.reqs ++ [{ tag := tag, origin := k.origin, index := BitVec.ofNat 16 i, sub := BitVec.ofNat 8 sub, data := op }] }
          { kind := 0x81, tag := tag,
            payload := toLE 2 i ++ [BitVec.ofNat 8 sub, if op.isSome then 1 else 0] ++ toLE 4 d.length ++ d })

/-! ### MGC-held objects -/

/-- 0x2010 to 0x2012, which belong to a session; behind an envelope there is none, so they are refused (log 108). -/
def sessRead (s : State) (k : Asker) (i : Nat) : DRes :=
  if i = 0x2012 then .done (.data (toLE 1 (b2n k.service))) s
  else
    match k.origin with
    | .sess w => let (c, t) := newChallenge s w; .done (.data c) t
    | _ => .abort abState s

def sessWrite (s : State) (k : Asker) (i : Nat) (d : Bytes) : DRes :=
  match k.origin with
  | .sess w => .ofCode (if i = 0x2011 then loginRespond s w d else logoutWrite s w (leNat d))
  | _ => .abort abState s

/-- An access to OTP objects while programming runs (R494). -/
def otpGuard (s : State) (i : Nat) (op : Option Bytes) : Bool :=
  otpRuns s.otp && decide (0x2100 ≤ i) && decide (i ≤ 0x21FF) && !(i == 0x2112 && op.isNone)

/-- What such an access leaves: a program command is also shown as refused (R491). -/
def otpGuarded (s : State) (k : Asker) (i : Nat) (op : Option Bytes) : State :=
  match op with
  | some d => if i = 0x2111 ∧ k.service ∧ d.length = 1 then (otpProgramWrite (leNat d) s).2 else s
  | none => s

/-- A read of an MGC-held object at its row. -/
def mgcRead (s : State) (k : Asker) (r : OdRow) (i sub : Nat) : DRes :=
  if r.acc = .wo then .abort abWo s
  else if i = 0x2010 ∨ i = 0x2012 then sessRead s k i
  else if i = 0x2680 ∧ sub ≠ 0 then
    match s.node.held.find? fun h => .sess h.1 == k.origin && h.2.1.val + 1 == sub with
    | some h => .done (.data h.2.2) s
    | none => .abort abState s
  else if sub = 0 ∧ r.acc = .const ∧ i ≠ 0x1008 ∧ i ≠ 0x1009 then .done (.data (toLE 1 (topSub (rowsOf i)))) s
  else .done (.data (readValue s i sub)) s

/-- A write of an MGC-held object at its row, but for 0x2680. -/
def mgcWrite (s : State) (k : Asker) (r : OdRow) (i sub : Nat) (d : Bytes) : DRes :=
  if r.acc = .const ∨ r.acc = .ro then .abort abRo s
  else if r.svc ∧ k.service = false then .abort abRank s
  else if r.len ≠ 0 ∧ d.length ≠ r.len then .abort abLength s
  else if i = 0x2011 ∨ i = 0x2012 then sessWrite s k i d
  else if i = 0x2702 then
    if 1 ≤ leNat d ∧ leNat d ≤ 3 then .done (.data []) s else .abort abRange s
  else if 0x5F11 ≤ i then .ofCode (pertWrite k.service (Fin.ofNat 8 (i - 0x5F10)) d s)
  else if i = 0x2505 then
    let (c, t) := twObjectWrite k.origin (Fin.ofNat 2 (sub - 1)) d s
    if c = 0 then .wait t else .abort c t
  else .ofCode (writeValue i sub d s)

/-- An access of the chip's own dictionary, but for what a write of 0x2680 and 0x2702 starts. -/
def localAccess (s : State) (k : Asker) (i sub : Nat) (op : Option Bytes) : DRes :=
  if 0x2800 ≤ i ∧ i ≤ 0x43FF ∧ mgcClientIndex i = false then forward s k i sub op
  else if otpGuard s i op then .abort abState (otpGuarded s k i op)
  else
    match findRow i sub with
    | .error c => .abort c s
    | .ok r =>
      match op with
      | none => mgcRead s k r i sub
      | some d => mgcWrite s k r i sub d

/-- The resets that an accepted write of 0x2702 starts, after its answer (R524). -/
def afterWrite (s : State) (i : Nat) (op : Option Bytes) (a : Answer) : State :=
  match op, a with
  | some d, .data _ => if i = 0x2702 then (resetWrite (leNat d) s).2 else s
  | _, _ => s

/-- An access whose answer goes to its origin. -/
def accessFor (s : State) (k : Asker) (i sub : Nat) (op : Option Bytes) : State :=
  match localAccess s k i sub op with
  | .done a t => afterWrite (answerOrigin t k.origin i sub a) i op a
  | .wait t => t

/-! ### Envelopes (R128, R129) -/

/-- An envelope's index, sub-index and operation, none where it is malformed. -/
def envelopeOf (e : Bytes) : Option (Nat × Nat × Option Bytes) :=
  let op := (byteAt e 3).toNat
  if e.length < 4 ∨ 1024 < e.length ∨ 1 < op then none
  else some (fieldLE e 0 2, (byteAt e 2).toNat, if op = 1 then some (e.drop 4) else none)

/-- A member that can be reached: not absent, lost or orphan, through the head. -/
def routable (s : State) (c : ChipId) : Bool :=
  decide (s.fab.role = 1) && s.fab.members.getLsbD c.val && !s.fab.lost.getLsbD c.val

/-- A write of 0x2680:c+1 by a session: the envelope is served here for the chip's own ID, or goes to chip c; the
write completes with its answer. -/
def envelopeWrite (s : State) (w : Session) (c : ChipId) (e : Bytes) : State :=
  let s := { s with node.held := s.node.held.filter fun h => h.1 != w }
  match envelopeOf e with
  | none => answerSess s w 0x2680 (c.val + 1) (.abort (if e.length < 4 ∨ 1024 < e.length then abLength else abRange))
  | some (i, sub, op) =>
    let t := { s with node.routed := s.node.routed ++ [(w, c, op.isNone)] }
    if c = ownChip s then accessFor t { origin := .own w, service := isService s.node w } i sub op
    else if routable s c then
      sendMgmt t mgEnvelope (b2n (isService s.node w) :: e.map fun x => x.toNat) c
    else answerSess s w 0x2680 (c.val + 1) (.abort abState)

/-- An access by a session. -/
def sessAccess (s : State) (w : Session) (i sub : Nat) (op : Option Bytes) : State :=
  match op with
  | some d =>
    if i = 0x2680 ∧ 1 ≤ sub ∧ sub ≤ 64 then envelopeWrite s w (Fin.ofNat 64 (sub - 1)) d
    else accessFor s { origin := .sess w, service := isService s.node w } i sub op
  | none => accessFor s { origin := .sess w, service := isService s.node w } i sub op

/-! ### Function objects of CAP (R83, Table 4-11) -/

/-- What Mast firmware's acceptance of a write to the input globals sets: these have no registers of their own
(log 109). -/
def capObject (s : State) (i sub : Nat) (d : Bytes) : State :=
  match i with
  | 0x4000 =>
    let v := BitVec.ofNat 16 (leNat d)
    if sub = 1 then { s with cap.sfPort := v } else if sub = 2 then { s with cap.rtpLo := v }
    else if sub = 3 then { s with cap.rtpHi := v } else s
  | 0x4001 => if 1 ≤ sub ∧ sub ≤ 8 then { s with cap.stats := vput s.cap.stats (Fin.ofNat 8 (sub - 1)) (BitVec.ofNat 32 (leNat d)) } else s
  | 0x4010 => if 1 ≤ sub ∧ sub ≤ 32 then { s with cap.norms := Tbl.write (fun _ => []) s.cap.norms (sub - 1) (padTo 18 d) } else s
  | 0x4020 => if 1 ≤ sub ∧ sub ≤ 63 then { s with cap.aligns := Tbl.write (fun _ => []) s.cap.aligns sub (padTo 16 d) } else s
  | 0x4040 => if 1 ≤ sub ∧ sub ≤ 7 then { s with cap.splits := Tbl.write (fun _ => []) s.cap.splits sub (padTo 24 d) } else s
  | _ => s

/-- Likewise for the objects of the course scheduler (Table 8-11): statistics take the value written, the copies of
CSC_RSTEAL and STARVE write the register, and 0 clears a count of completed jobs. -/
def cscObject (s : State) (i sub : Nat) (d : Bytes) : State :=
  let v := BitVec.ofNat 32 (leNat d)
  match i with
  | 0x4100 => if 2 ≤ sub ∧ sub ≤ 11 then { s with csc.stats := vput s.csc.stats (Fin.ofNat 10 (sub - 2)) v } else s
  | 0x4101 =>
    if !domUp s 12 then s
    else if sub = 1 then cscWrite s 0x030 v
    else if sub = 2 then { s with csc.starve := v.extractLsb' 0 16 } else s
  | 0x4310 =>
    if 1 ≤ sub ∧ sub ≤ 8 ∧ v = 0 then { s with csc.jobsDone := vput s.csc.jobsDone (Fin.ofNat 8 (sub - 1)) 0 } else s
  | _ => s

/-- An accepted write of the Trim statistics (Table 9-10). -/
def trimObject (s : State) (i sub : Nat) (d : Bytes) : State :=
  if i = 0x4203 ∧ 1 ≤ sub ∧ sub ≤ 3 then
    { s with trim.stats := vput s.trim.stats (Fin.ofNat 3 (sub - 1)) (BitVec.ofNat 32 (leNat d)) }
  else s

/-- What an accepted write to a function object sets in the unit it belongs to. -/
def fnObject (s : State) (i sub : Nat) (d : Bytes) : State :=
  trimObject (cscObject (capObject s i sub d) i sub d) i sub d

/-! ### DICT_RSP (R105, R106, R108) -/

/-- The codes of Table 3-4. -/
def abortCodes : List Nat :=
  [abToggle, abTimeout, abUnknown, abBusy, abRank, abWo, abRo, abNone, abNoMap, abMapLen, abLength, abSub, abRange,
   0x08000000, abLate, abState]

/-- An abort passed on carries a code of Table 3-4 (R102); in place of another code it is one of them, left open
(log 165). -/
def tableAnswer : Answer → Answer
  | .data d => .data d
  | .abort c =>
    .abort (if abortCodes.contains c then c else abortCodes.getD (Config.freeOf .unspecified [0x102, c] % 16) abState)

/-- An answer of Mast firmware for its request; what answers none is discarded and counted. -/
def dictAnswer (s : State) (m : Msg) : State :=
  match s.node.reqs.find? fun r => r.tag == m.tag with
  | none => { s with node.stats := vmod s.node.stats 1 (· + 1) }
  | some r =>
    let s := { s with node.reqs := s.node.reqs.erase r }
    let i := r.index.toNat
    let sub := r.sub.toNat
    if byteAt m.payload 3 = 0 then
      match r.data with
      | none => answerOrigin s r.origin i sub (.data (slice m.payload 8 (min 888 (fieldLE m.payload 4 4))))
      | some d => answerOrigin (fnObject s i sub d) r.origin i sub (.data [])
    else answerOrigin s r.origin i sub (tableAnswer (.abort (fieldLE m.payload 4 4)))

/-- DICT_RSP. One with TAG 0 is an image update (IMAGE_UPDATE), or with status 1 answers nothing. -/
def execDictRsp (s : State) : Host.Outcome State Fault Refusal :=
  match takeMsgIf s fun m => m.kind == 0x01 && !(m.tag == 0 && byteAt m.payload 3 == 0) with
  | none => .next s
  | some (m, t) => .next (if m.tag = 0 then t else dictAnswer t m)

/-- DICT_REQ_TIMEOUT: 250 ms (R106). -/
def execDictReqTimeout (tag : W16) (s : State) : Host.Outcome State Fault Refusal :=
  match s.node.reqs.find? fun r => r.tag == tag with
  | none => .next s
  | some r =>
    if mgcUp s then
      let t := { s with node.reqs := s.node.reqs.erase r, node.stats := vmod s.node.stats 0 (· + 1) }
      let t := raiseEmcy t 0xFF02 0xFF (toLE 2 r.index.toNat ++ [r.sub])
      .next (answerOrigin t r.origin r.index.toNat r.sub.toNat (.abort abLate))
    else .next s

end Sys2Proof.Machine
end

