-- ==== Sys2Proof/Machine/HostPort.lean ====
section
/-!
DEFINITION. The DRAM controller's own events and the PCIe endpoint: scrub, refresh, self-refresh exit, BAR4,
PCIE_PERST_N (R391 to R397, R564).
-/

namespace Sys2Proof.Machine

/-- DRAM is powered, trained and out of self-refresh. -/
def dramUp (s : State) : Bool := domUp s 14 && s.ddr.ready && !s.ddr.exiting

/-- DRAM_SCRUB: the patrol scrubber reads a line; with ECC on, an error is corrected and counted, or counted
and reported with UNIT 0x1B, CLASS 0x01 (R393; its CODE is open, log 100). -/
def execDramScrub (line : Nat) (k : EccKind) (s : State) : Host.Outcome State Fault Refusal :=
  if dramUp s && decide (line * 64 < dramUsable s) && s.ddr.cfg.getLsbD 5 then
    match k with
    | .none => .next s
    | .corrected => .next { s with ddr.corrected := s.ddr.corrected + 1 }
    | .uncorrectable =>
      .next (reportFault s 0x1B 1 (BitVec.ofNat 16 (Config.freeOf .unspecified [0x1B])) (BitVec.ofNat 64 (line * 64)))
  else .next s

/-- DRAM_REFRESH: MR4 above the JEDEC high limit stands as EMCY 0xFF27 of its channel (R394). -/
def execDramRefresh (channel : CanPort) (tooHot : Bool) (s : State) : Host.Outcome State Fault Refusal :=
  if dramUp s then
    .next (if tooHot then raiseStanding s 0xFF27 0x1B channel.val [BitVec.ofNat 8 channel.val]
      else clearStanding s 0xFF27 channel.val)
  else .next s

/-- DRAM_SELF_REFRESH_EXIT: the retraining after a grant from RET is complete, and the domain
may report ready (R395, R468). -/
def execDramSelfRefreshExit (s : State) : Host.Outcome State Fault Refusal :=
  if s.ddr.exiting && mgcUp s && (domOf s 14).state == .run then .next { s with ddr.exiting := false } else .next s

/-- What the host reads when its access is refused is open (log 101). -/
def hostRefused (s : State) (n : Nat) : State :=
  emit s (.host (.abort (Config.freeOf .unspecified [0xB4, n])))

/-- A host access to DRAM through BAR4: checked by the ACT as initiator 25, coherent with the Mast caches
(R373, R396). -/
def bar4 (s : State) (a : Nat) (write : Option Bytes) (n : Nat) : State :=
  let n := match write with
    | some b => b.length
    | none => n
  if dramUsable s < a + n then hostRefused s n
  else
    match actCheck s 25 (if write.isSome then accStore else accLoad) a n with
    | some t => hostRefused t n
    | none =>
      match ramErr s a n with
      | some _ => hostRefused s n
      | none =>
        match write with
        | some b => coherentWrite s a b
        | none => emit s (.host (.data (cachedBytes s a n)))

/-- HOST_BAR4_ACCESS. -/
def execHostBar4Access (offset : Nat) (write : Option Bytes) (n : Nat) (s : State) :
    Host.Outcome State Fault Refusal :=
  let len := match write with
    | some b => b.length
    | none => n
  if pcieUp s && decide (offset + len ≤ 2 ^ 28) then
    .next (bar4 s (s.pcie.ap4.toNat * 2 ^ 28 + offset) write n)
  else .next s

/-- PCIE_PERST: low holds the link down; on release the link trains, at a speed and width the board and the
host set (log 95). -/
def execPciePerst (level : Bool) (s : State) : Host.Outcome State Fault Refusal :=
  if level then
    .next { s with dev.perstN := true, pcie.up := true,
                   pcie.speed := BitVec.ofNat 3 (1 + Config.freeOf .form [0x9C, 0] % 4),
                   pcie.width := BitVec.ofNat 3 (2 ^ (Config.freeOf .form [0x9C, 1] % 3)) }
  else .next { s with dev.perstN := false, pcie.up := false }

end Sys2Proof.Machine
end

