-- ==== Sys2Proof/Machine/NodeCmd.lean ====
section
/-!
DEFINITION. The commands of the node: NMT, login, server transfers, the host mailbox, routing, management
records, heartbeat consumer, bus-off recovery, the phase-bus record, the host's posts (R35, R71, R79, R83 to R129,
R398, R423).
-/

namespace Sys2Proof.Machine

/-! ## The phase-bus record (R35) -/

/-- PHASE_BUS_RECORD: every 4 clk_pht cycles, 2 of clk_aon. What compares with the record follows it: deadlines
whose source has left OK (R79) or that a crossing starts (R76), mapped values (R111), and WAITs that a forced window has held back (R541). -/
def execPhaseBusRecord (s : State) : Host.Outcome State Fault Refusal :=
  if phtUp s then
    let s := phtAdvance s
    let s := { s with boot.wdCount := s.boot.wdCount + 2 }
    let s := if cscUp s then obWake (deadlineSourceLoss (releasedSeen s)) else s
    .next (if mgcUp s then tpdoMgcScan s else s)
  else .next s

/-! ## NMT (R89 to R91) -/

/-- NODE_BOOT: after the lock, and in fabric mode on the head only, which HEAD_SETUP brings up (R127, R422). -/
def execNodeBoot (s : State) : Host.Outcome State Fault Refusal :=
  if mgcUp s && s.cleatD.lock && s.node.nmt == .initialisation && !fabricMode s then .next (nodeStart s)
  else .next s

/-- A state is entered; STOPPED ends every perturbation (R540), and PDO run-time state starts afresh with
OPERATIONAL (log 110). -/
def enterNmt (s : State) (st : Nmt) : State :=
  let s := if st = .stopped then pertEndAll s else s
  let s := if st = .operational ∧ s.node.nmt ≠ .operational then { s with node := pdoRestart s.node } else s
  nmtEnter s st

/-- The head forwards what it applies to every member (R91); the numbers are CiA 301's state and command codes. -/
def nmtForward (s : State) (code : Nat) : State := if s.fab.role = 1 then toMembers s mgNmt [code] else s

/-- Reset node, as far as it is the same on every chip: sessions end, the mailbox's too, the settings written to
0x2005 come into force (R87), objects go back to their defaults and both planes are reset (Table 3-3, R524). -/
def resetParts (s : State) : State :=
  let s := endSessions s true
  planeReset (restoreObjects { s with node := applyPorts s.node }) 3 srcNmt

/-- Reset node: what it resets, then R89 (Table 3-3, R540). -/
def resetNode (s : State) : State :=
  let s := resetParts s
  nodeStart { s with node.nmt := .initialisation }

/-- NMT_START. -/
def execNmtStart (node : Byte) (s : State) : Host.Outcome State Fault Refusal :=
  if nmtFor s node then .next (nmtForward (enterNmt s .operational) 5) else .next s

/-- NMT_STOP. -/
def execNmtStop (node : Byte) (s : State) : Host.Outcome State Fault Refusal :=
  if nmtFor s node then .next (nmtForward (enterNmt (forgetChans s) .stopped) 4) else .next s

/-- NMT_ENTER_PRE_OPERATIONAL. -/
def execNmtEnterPreOperational (node : Byte) (s : State) : Host.Outcome State Fault Refusal :=
  if nmtFor s node then .next (nmtForward (enterNmt s .preOperational) 0x7F) else .next s

/-- NMT_RESET_COMMUNICATION: R89 from step 2, with the NOTICE of the state it enters (Table 3-3). -/
def execNmtResetCommunication (node : Byte) (s : State) : Host.Outcome State Fault Refusal :=
  if nmtFor s node then .next (nmtForward (resetComm s) 0x82) else .next s

/-- NMT_RESET_NODE. -/
def execNmtResetNode (node : Byte) (s : State) : Host.Outcome State Fault Refusal :=
  if nmtFor s node then .next (resetNode (nmtForward s 0x81)) else .next s

/-- What 0x1029:01 asks on a communication error is done (R115, R116). -/
def commError (s : State) : State :=
  match commErrorState s.node with
  | some st => nmtForward (enterNmt (if st = .stopped then forgetChans s else s) st) (nmtCode st)
  | none => s

/-- HEARTBEAT_CONSUMER_TIMEOUT: EMCY 0x8130 stands until the node is heard again (R115, R119). -/
def execHeartbeatConsumerTimeout (entry : Fin 8) (s : State) : Host.Outcome State Fault Refusal :=
  let v := odNat s.node 0x1016 (entry.val + 1)
  let n := bits v 16 8
  if mgcUp s && !nodeSilent s.node && s.node.nmt != .initialisation && decide (bits v 0 16 ≠ 0) && decide (n ≠ 0)
      && !s.node.consumers.get entry then
    let s := { s with node.consumers := vput s.node.consumers entry true }
    .next (commError (raiseStanding s 0x8130 0xFF n [BitVec.ofNat 8 n]))
  else .next s

/-- BUS_OFF_RECOVERY (R116). -/
def execBusOffRecovery (port : CanPort) (s : State) : Host.Outcome State Fault Refusal :=
  if mgcUp s && s.node.busOff.get port then
    let s := { s with node.busOff := vput s.node.busOff port false }
    .next (commError (raiseEmcy s 0x8140 0xFF [BitVec.ofNat 8 port.val]))
  else .next s

/-! ## Login (R95 to R97) -/

/-- LOGIN_CHALLENGE: a read of 0x2010. -/
def execLoginChallenge (w : Session) (s : State) : Host.Outcome State Fault Refusal :=
  openAccess s w 0x2010 0 fun s =>
    let (c, t) := newChallenge s w
    answerSess t w 0x2010 0 (.data c)

/-- LOGIN_RESPONSE: a write of 0x2011. -/
def execLoginResponse (w : Session) (rsp : Bytes) (s : State) : Host.Outcome State Fault Refusal :=
  openAccess s w 0x2011 0 fun s =>
    if rsp.length ≠ 8 then answerSess s w 0x2011 0 (.abort abLength)
    else
      let (c, t) := loginRespond s w rsp
      answerSess t w 0x2011 0 (codeAnswer c)

/-- LOGIN_LOCKOUT_END: 60 s (R96). -/
def execLoginLockoutEnd (port : CanPort) (s : State) : Host.Outcome State Fault Refusal :=
  if mgcUp s && s.node.locked.get port then
    .next (clearStanding { s with node.locked := vput s.node.locked port false } 0xFF01 port.val)
  else .next s

/-- CHALLENGE_EXPIRE: 30 s (R95). -/
def execChallengeExpire (w : Session) (s : State) : Host.Outcome State Fault Refusal :=
  if mgcUp s then .next { s with node := modSess s.node w fun x => { x with challenge := none } } else .next s

/-- SESSION_LOGOUT: a write of 0x2012. -/
def execSessionLogout (w : Session) (v : Byte) (s : State) : Host.Outcome State Fault Refusal :=
  openAccess s w 0x2012 0 fun s =>
    let (c, t) := logoutWrite s w v.toNat
    answerSess t w 0x2012 0 (codeAnswer c)

/-- SESSION_IDLE_TIMEOUT: 600 s without an access (R97). -/
def execSessionIdleTimeout (w : Session) (s : State) : Host.Outcome State Fault Refusal :=
  if mgcUp s then .next { s with node := modSess s.node w fun x => { x with service := false } } else .next s

/-! ## Server transfers (R98 to R101) -/

/-- Data bytes of an upload segment: 7 on a classic port (CiA 301), 60 on an FD port (log 112). -/
def segBytes (fd : Bool) : Nat := if fd then 60 else 7

/-- The client's session on a port. -/
def clientSess (port : CanPort) (client : Byte) : Session := .can port (client.setWidth 7)

/-- The complete access of a transfer. -/
def runXfer (s : State) (port : CanPort) (x : Xfer) (op : Option Bytes) : State :=
  let s := { s with node.chans := vput s.node.chans port (some { x with waiting := true, data := [] }) }
  sessAccess s (clientSess port x.client) x.index.toNat x.sub.toNat op

/-- A request is served: a read at once, a write when its bytes are in; more than 4 KiB aborts (R100), and so
does an unknown specifier (R102). -/
def serveRequest (s : State) (port : CanPort) (client : Byte) (index : W16) (sub : Byte) (op : SdoOp) : State :=
  let w := clientSess port client
  let x : Xfer := { client := client, index := index, sub := sub, down := none, data := [], toggle := false,
                    waiting := false, seg := false }
  let refuse := fun (code : Nat) => answerSess s w index.toNat sub.toNat (.abort code)
  match op with
  | .unknown => refuse abUnknown
  | .read seg => runXfer s port { x with seg := seg } none
  | .write total data =>
    if 4096 < total then refuse abBusy
    else if total < data.length then refuse abLength
    else if data.length = total then runXfer s port { x with down := some total } (some data)
    else
      answerOut { s with node.chans := vput s.node.chans port (some { x with down := some total, data := data, seg := true }) }
        w index.toNat sub.toNat (.data [])

/-- SDO_REQUEST to this node; one to another node, or to all (R101), is not answered. -/
def execSdoRequest (port : CanPort) (dst client : Byte) (index : W16) (sub : Byte) (op : SdoOp) (s : State) :
    Host.Outcome State Fault Refusal :=
  if dst = 0 ∨ dst.toNat ≠ s.node.nodeId.toNat ∨ 128 ≤ client.toNat then .next s
  else
    openAccess s (clientSess port client) index.toNat sub.toNat fun s => serveRequest s port client index sub op

/-- A segment of the open transfer. -/
def takeSegment (s : State) (port : CanPort) (x : Xfer) (toggle : Bool) (data : Bytes) : State :=
  let fd := s.node.fd.get port
  let put := fun (y : Option Xfer) (a : Answer) =>
    answerOut { s with node.chans := vput s.node.chans port y } (clientSess port x.client) x.index.toNat x.sub.toNat a
  if !fd && toggle != x.toggle then put none (.abort abToggle)
  else
    match x.down with
    | some total =>
      let d := x.data ++ data
      if total < d.length then put none (.abort abLength)
      else if d.length = total then runXfer s port x (some d)
      else put (some { x with data := d, toggle := !x.toggle }) (.data [])
    | none =>
      let n := segBytes fd
      let rest := x.data.drop n
      put (if rest.isEmpty then none else some { x with data := rest, toggle := !x.toggle }) (.data (x.data.take n))

/-- SDO_SEGMENT: one of no open transfer is an unknown command (Table 3-4). -/
def execSdoSegment (port : CanPort) (client : Byte) (toggle : Bool) (data : Bytes) (s : State) :
    Host.Outcome State Fault Refusal :=
  let w := clientSess port client
  if mgcUp s && sessServed s w && decide (client.toNat < 128) then
    match s.node.chans.get port with
    | some x =>
      if x.client = client ∧ x.seg ∧ x.waiting = false then .next (takeSegment s port x toggle data)
      else .next (answerOut s w x.index.toNat x.sub.toNat (.abort (if x.client = client then abUnknown else abState)))
    | none => .next (answerOut s w 0 0 (.abort abUnknown))
  else .next s

/-- SDO_SEGMENT_TIMEOUT: 500 ms (R99). -/
def execSdoSegmentTimeout (port : CanPort) (s : State) : Host.Outcome State Fault Refusal :=
  match s.node.chans.get port with
  | some x =>
    if mgcUp s && x.seg && !x.waiting then
      .next (answerOut { s with node.chans := vput s.node.chans port none } (clientSess port x.client)
        x.index.toNat x.sub.toNat (.abort abTimeout))
    else .next s
  | none => .next s

/-! ## Host mailbox (R125, R126) -/

/-- A request record has an operation and a length it can hold (Table 3-11, R125). -/
def hmbOk (b : Bytes) : Bool := decide ((byteAt b 3).toNat ≤ 1) && decide (fieldLE b 4 4 ≤ 440)

/-- The oldest record of the host lane is taken and served (R43, R125). -/
def hostServe (s : State) : State :=
  match s.cleatA.hostReq with
  | [] => s
  | b :: bs =>
    let s := { s with cleatA.hostReq := bs }
    match openSess s.node .host with
    | some n =>
      sessAccess { s with node := n } .host (fieldLE b 0 2) (byteAt b 2).toNat
        (if byteAt b 3 = 1 then some (slice b 8 (fieldLE b 4 4)) else none)
    | none => s

/-- A write of HMB_DB: while BUSY it is ignored and sets ERR, whatever it writes (R126); GO submits the record,
which crosses the host lane; a malformed one sets ERR (Table 3-11). -/
def hmbDoorbell (s : State) (v : W32) : State :=
  if s.node.hmb.busy then { s with node.hmb.err := true }
  else if !v.getLsbD 0 then s
  else if !hmbOk s.node.hmb.req || decide (8 ≤ s.cleatA.hostReq.length) then { s with node.hmb.err := true }
  else hostServe { s with node.hmb.busy := true, cleatA.hostReq := s.cleatA.hostReq ++ [s.node.hmb.req] }

/-- HMB_DOORBELL: the host writes HMB_DB. -/
def execHmbDoorbell (v : W32) (s : State) : Host.Outcome State Fault Refusal :=
  if pcieUp s then .next (hmbDoorbell s v) else .next s

/-- A write of 4 bytes at an offset of BAR0 by the host (Table 3-11); what the table does not show takes no
write. -/
def hostRegWrite (s : State) (off : Nat) (v : W32) : State :=
  if off = 0x0000 then hmbDoorbell s v
  else if off = 0x0004 then
    { s with node.hmb.done := s.node.hmb.done && !v.getLsbD 1, node.hmb.err := s.node.hmb.err && !v.getLsbD 2 }
  else if off = 0x0008 then { s with node.hmb.irqEn := v.getLsbD 0 }
  else if 0x0100 ≤ off ∧ off + 4 ≤ 0x02C0 ∧ off % 4 = 0 then
    { s with node.hmb.req := overwrite s.node.hmb.req (off - 0x0100) (toLE 4 v.toNat) }
  else s

/-- HMB_RESPONSE: the response record, DONE, and MSI-X vector 0 when enabled. -/
def execHmbResponse (s : State) : Host.Outcome State Fault Refusal :=
  match s.cleatA.hostRsp with
  | [] => .next s
  | r :: rs =>
    if mgcUp s && pcieUp s && s.node.hmb.busy then
      let h := s.node.hmb
      let t := { s with cleatA.hostRsp := rs, node.hmb := { h with rsp := padTo 448 r, busy := false, done := true, seq := h.seq + 1 } }
      .next (if h.irqEn then msixRaise t 0 else t)
    else .next s

/-- HOST_POST: the job into slot POST through BAR2, then the advanced index; both are checked as the PCIe
initiator's (R397, R398). A refused slot write leaves POST alone. -/
def execHostPost (q : QueueId) (job : Bytes) (s : State) : Host.Outcome State Fault Refusal :=
  if posterUp s .host then
    let x := s.cleatB.get q
    match initWrite s .host 25 (slotAddr q x.post) (padTo 56 job) with
    | (some _, t) => .next t
    | (none, t) =>
      .next (initWrite t .host 25 (periBase + 0x40004 + q.val * 0x40) (toLE 4 (x.post + 1).toNat)).2
  else .next s

/-! ## Routing (R128, R129) and management records (R423) -/

/-- ROUTE_ENVELOPE: a write of 0x2680:c+1. -/
def execRouteEnvelope (w : Session) (chip : ChipId) (data : Bytes) (s : State) : Host.Outcome State Fault Refusal :=
  openAccess s w 0x2680 (chip.val + 1) fun s => envelopeWrite s w chip data

/-- A routed access of that session to that chip is outstanding. -/
def isRouted (s : State) (r : RoutedAccess) : Bool :=
  decide (r.chip ≠ ownChip s) && s.node.routed.any fun x => x.1 == r.sess && x.2.1 == r.chip

/-- ROUTE_ANSWER: chip c's answer to a session's envelope arrives (log 167). -/
def execRouteAnswer (r : RoutedAccess) (a : Answer) (s : State) : Host.Outcome State Fault Refusal :=
  if fabUp s && decide (s.fab.role = 1) && isRouted s r then .next (routeAnswer s r.sess (tableAnswer a)) else .next s

/-- ROUTE_TIMEOUT: 100 ms (R129). -/
def execRouteTimeout (r : RoutedAccess) (s : State) : Host.Outcome State Fault Refusal :=
  if mgcUp s && isRouted s r then .next (routeAnswer s r.sess (.abort abLate)) else .next s

/-- A member takes an NMT state with its NOTICE; it has no boot-up message to send (R127). -/
def memberState (s : State) (st : Nmt) : State := notice { s with node.nmt := st } noticeNmt [nmtCode st]

/-- What the head forwards is applied by a member (R91): the state, or a reset with all that it restores. -/
def memberNmt (s : State) (code : Nat) : State :=
  match code with
  | 4 => enterNmt s .stopped
  | 5 => enterNmt s .operational
  | 0x7F => enterNmt s .preOperational
  | 0x81 => memberState (resetParts s) .preOperational
  | 0x82 => memberState (restoreComm s) .preOperational
  | _ => s

/-- What a management record does to the chip it reaches. -/
def takeMgmt (s : State) (r : MgmtRec) : State :=
  match r with
  | .heartbeat _ => mgmtReport s mgHeartbeat
  | .headHeartbeat => mgmtReport s mgHeartbeat
  | .nmt code => if s.fab.role = 2 then memberNmt (mgmtReport s mgNmt) code else mgmtReport s mgNmt
  | .envelope src svc data =>
    let s := mgmtReport s mgEnvelope
    if s.fab.role ≠ 2 then s
    else
      match envelopeOf data with
      | none => answerOrigin s (.chip src) 0x2680 0 (.abort abLength)
      | some (i, sub, op) => accessFor s { origin := .chip src, service := svc } i sub op
  | .members mask head node routes => takeMembers (mgmtReport s mgMembers) mask head node routes

/-- MGMT: a record of heartbeat, NMT state, envelope or membership arrives (LOST, JOIN and HELLO have commands of
their own). -/
def execMgmt (r : MgmtRec) (s : State) : Host.Outcome State Fault Refusal :=
  if fabUp s then .next (takeMgmt s r) else .next s

end Sys2Proof.Machine
end

