-- ==== Sys2Proof/Machine/Resets.lean ====
section
/-!
DEFINITION. The device resets, the boot ROM and the boot of MGC firmware (R32, R85, R419, R483 to R490, R500 to
R504, R517, R521 to R526, R529, R549 to R558; Tables 1-6, 15-2, 15-5).
-/

namespace Sys2Proof.Machine

/-! ## Device resets (Table 15-2) -/

/-- Bytes of the journal of a Trim run that the reset strikes, when they stand in this chip's memory: its records that
were complete outlast the reset (R328, R529; log 182). -/
def journalKept (s : State) (a : Nat) : Bool :=
  s.trim.status == tsRunning && !s.trim.replay &&
    match placeOf s (bits s.trim.journalA 0 48) with
    | .here j => decide (j ≤ a) && decide (a < j + s.trim.jlen.toNat)
    | .there _ _ => false

/-- What every device reset leaves: the state after a power-on reset, but for what no device reset reaches: the
board's levels, the TAP, the banks' modes, flash and OTP cells, with the outcome of Table 15-5 where an operation
on them was struck. Straps keep their capture; POR and PIN capture them again at the release of RESET_N. -/
def deviceReset (s : State) : State :=
  let s := flashStruck (otpStruck s)
  { State.reset with
    pending := s.pending, free := s.free, out := s.out,
    mem := s.mem.filter fun c =>
      decide (flashBase ≤ c.1) && decide (c.1 < flashBase + flashSize) || journalKept s c.1,
    otp := { State.reset.otp with cells := s.otp.cells },
    dev := { s.dev with phase := .inReset, clocksStopped := false, faultNHeld := false },
    io := { Io.reset with ext := s.io.ext } }

/-- The reset record, kept by every reset but POR (R526). -/
def keepRecord (old s : State) : State :=
  { s with
    boot.lastDevice := old.boot.lastDevice, boot.lastPlane := old.boot.lastPlane,
    boot.pinCount := old.boot.pinCount, boot.mwdtCount := old.boot.mwdtCount,
    boot.cprCount := old.boot.cprCount, boot.dprCount := old.boot.dprCount }

/-- The power-on monitor's thresholds (R551). -/
def porAsserts (vddAon vddOtp : Nat) : Bool := decide (vddAon < 720) || decide (vddOtp < 1600)

/-- POR: the supplies as the monitor sees them. Below a threshold POR is asserted, and released when the rails
are back in range (log 113); at its release each bank takes its mode from its supply (R558). Above both, only the
level of VDD_OTP counts (R491). -/
def execPor (vddAonMv vddOtpMv vddioAMv vddioBMv : Nat) (s : State) : Host.Outcome State Fault Refusal :=
  if porAsserts vddAonMv vddOtpMv then
    .next { deviceReset s with
      dev.vddOtpMv := 1800, dev.bankA33 := decide (2500 < vddioAMv), dev.bankB33 := decide (2500 < vddioBMv) }
  else .next { s with dev.vddOtpMv := vddOtpMv }

/-- PIN_RESET: a low pulse of that many ns. Below 100 ns it is ignored; the widths from there to 1 µs must not be
applied and have no stated effect (R552). -/
def execPinReset (lowNs : Nat) (s : State) : Host.Outcome State Fault Refusal :=
  if lowNs < 100 then .next s
  else if lowNs < 1000 then .fault .resetPulse
  else
    let t := keepRecord s (deviceReset s)
    .next { t with boot.lastDevice := 2, boot.pinCount := s.boot.pinCount + 1 }

/-- RESET_N_RELEASE: straps captured, TEST_EN sampled; boundary scan keeps the boot ROM from starting firmware
(R553, R554). -/
def execResetNRelease (mode : BitVec 3) (nodeId : BitVec 7) (fabId : BitVec 6) (testEn : Bool) (s : State) :
    Host.Outcome State Fault Refusal :=
  if s.dev.phase == .inReset then
    .next { s with
      dev.strapMode := mode, dev.strapNode := nodeId, dev.strapFab := fabId, dev.testEn := testEn,
      dev.phase := if testEn then .boundaryScan else .rom }
  else .next s

/-- clk_aon cycles of the management watchdog: 100 ms (R523). -/
def wdCycles : Nat := 20000000

/-- MWDT: no firmware service for 100 ms. The earlier strap capture is kept. -/
def execMwdt (s : State) : Host.Outcome State Fault Refusal :=
  if phtUp s && decide (wdCycles ≤ s.boot.wdCount) then
    let t := keepRecord s (deviceReset s)
    .next { t with boot.lastDevice := 3, boot.mwdtCount := s.boot.mwdtCount + 1, dev.phase := .rom }
  else .next s

/-- WDT_KICK. -/
def execWdtKick (s : State) : Host.Outcome State Fault Refusal :=
  if phtUp s then .next { s with boot.wdCount := 0 } else .next s

/-- REFCLK_LOSS: every clock stops, FAULT_N keeps its level (R557, ch. 16 Corners). -/
def execRefclkLoss (s : State) : Host.Outcome State Fault Refusal :=
  if s.dev.clocksStopped then .next s
  else .next { s with dev.clocksStopped := true, dev.faultNHeld := !faultLow s }

/-! ## Boot ROM (R483, R500) -/

/-- The body of an MGC image in MGC SRAM from offset 0; its slot, VERSION, SVN and ADV noted. -/
def loadMgc (s : State) (k : Fin 2) : State :=
  let a := flashBase + imageOff false k
  { s.wr mgmtBase (s.rd (a + 0x100) (s.rdLE (a + 0x0C) 4)) with
    boot.mgcSlot := k, boot.mgcVersion := BitVec.ofNat 32 (s.rdLE (a + 8) 4),
    boot.mgcSvn := s.rdLE (a + 5) 1, boot.mgcAdv := decide (s.rdLE (a + 6) 1 % 2 = 1),
    dev.phase := .mgcStarted }

/-- BOOT_ROM. -/
def execBootRom (s : State) : Host.Outcome State Fault Refusal :=
  if s.dev.phase == .rom && !s.dev.clocksStopped then
    if !factoryOk s.otp then .next { s with dev.phase := .romStopped }
    else
      match chooseImage s false with
      | none => .next { s with dev.phase := .romStopped }
      | some k => .next (loadMgc s k)
  else .next s

/-! ## Boot of MGC firmware (R501) -/

/-- A rail limit of the record; 0 or a value above the default gives the default (R490). -/
def railValue (rec_ : Bytes) (off dflt : Nat) : Nat :=
  let v := fieldLE rec_ off 2 % 1024
  if v = 0 ∨ dflt < v then dflt else v

/-- The record enables a node-ID override (Table 14-4); without a valid generation none does (R489). -/
def recordOvr (o : Otp) : Bool := !o.noValid && (byteAt o.record 2).getLsbD 7

/-- FABRIC_EN. -/
def fabricEn (o : Otp) : Bool := (otpByte o 0x0A).getLsbD 0

/-- Cleat D's snapshot (Table 1-6): fabric mode needs FABRIC_EN and MODE = 0b001 (R3, Table 16-4). -/
def snapshotOf (s : State) : Bytes :=
  let o := s.otp
  let mode := s.dev.strapMode.toNat
  let fab := fabricEn o && decide (mode = 1)
  toLE 4 0x4A16 ++ toLE 4 0x00020001 ++ otpRead o 0 10 ++ [0, 0]
    ++ [BitVec.ofNat 8 (mode + 8 * b2n (fabricEn o) + 16 * b2n fab), BitVec.ofNat 8 s.dev.strapFab.toNat,
        BitVec.ofNat 8 (s.node.nodeId.toNat + 128 * b2n s.node.nodeFromOtp),
        BitVec.ofNat 8 (o.inUse.getD 0xFF),
        BitVec.ofNat 8 (b2n o.mismatch + 2 * b2n o.exhausted + 4 * b2n ((byteAt o.record 3).getLsbD 0)
          + 8 * b2n (mastLocked o) + 16 * b2n (mgcLocked o))]
    ++ [0, 0, 0] ++ [BitVec.ofNat 8 Config.fittedGiB] ++ [0, 0, 0] ++ toLE 4 s.boot.mgcVersion.toNat
    ++ List.replicate 28 0

/-- The generation in use, the service key, the rail limits and the node ID (R484, R488 to R490, R85). -/
def takeSettings (s : State) : State :=
  let o := takeServiceKey (selectGeneration s.otp)
  { s with
    otp := o,
    reef.railSp := railValue o.record 4 400, reef.railSoc := railValue o.record 6 160,
    reef.railShl := railValue o.record 8 48,
    node.nodeFromOtp := recordOvr o,
    node.nodeId := if recordOvr o then (byteAt o.record 2).extractLsb' 0 7 else s.dev.strapNode }

/-- A CONTROL grant of boot, up and ready (ch. 13 after R465). -/
def bootGrant (s : State) (d : DomId) : State :=
  let u := costOf s d .run
  let was := (domOf s d).units
  let t := domMod s d fun r => { r with state := .run, cls := .control, units := u }
  { t with reef.free := t.reef.free - ((u : Int) - was), reef.grants := t.reef.grants + 1 }

/-- A grant that the MGC itself asks for: no REEF_RSP answers it; its class is not stated (log 114). -/
def mgcWants (d : DomId) (target : PState) : ReefWait :=
  { dom := d, target := target,
    cls := match Config.freeOf .unspecified [0x419, d.val] % 3 with
      | 0 => .bulk
      | 1 => .work
      | _ => .phase,
    tag := 0, auto := true, fitAt := none, once := false }

/-- PD11 and PD17 granted; in fabric mode PD12, PD14, PD15 and PD16 are asked
for once the lock stands (R419). -/
def bootGrants (s : State) : State :=
  let s := bootGrant (bootGrant s 11) 17
  if fabricMode s then
    { s with reef.queue := [mgcWants 12 .run, mgcWants 14 .run, mgcWants 15 .run, mgcWants 16 .run] }
  else s

/-- The EMCYs of boot, in the order they are raised: the generation, then the watchdog (R488, R489, R526). -/
def bootEmcys (s : State) : State :=
  let s := if s.otp.mismatch then raiseEmcy s 0xFF04 0xFF [BitVec.ofNat 8 (s.otp.inUse.getD 0xFF)] else s
  let s := if s.otp.exhausted then raiseEmcy s 0xFF05 0xFF [] else s
  if s.boot.lastDevice = 3 then raiseEmcy s 0xFF09 0x80 [] else s

/-- MGC_SVN advanced once boot is completed (R504). -/
def svnAdvance (s : State) : State :=
  if s.boot.mgcAdv then { s with otp := svnRaise s.otp mgcSvnAt s.boot.mgcSvn } else s

/-- Boot from the generation to the lock. -/
def bootSettings (s : State) : State :=
  let s := takeSettings s
  let s := { s with dev.phase := .running, cleatD := { snapshot := snapshotOf s, lock := true } }
  { s with act := { s.act with bank0 := bootSet, bank1 := bootSet, force := bootSet } }

/-- MGC_BOOT. -/
def execMgcBoot (s : State) : Host.Outcome State Fault Refusal :=
  if s.dev.phase == .mgcStarted && !s.dev.clocksStopped then
    .next (svnAdvance (mastBoot (bootEmcys (bootGrants (bootSettings s)))))
  else .next s

end Sys2Proof.Machine
end

