-- ==== Sys2Proof/Machine/RegWrite.lean ====
section
/-!
DEFINITION. REGISTER_WRITE: one register written by one party, in peripheral space under the party's check, in
management space by the MGC alone (R6, R7, R37, R383, Tables 11-3, 11-4, 13-9, 14-15, 15-12).
-/

namespace Sys2Proof.Machine

/-- Bytes of the register at an address of peripheral space: 8 for those whose fields pass bit 31. -/
def regBytes (a : Nat) : Nat :=
  match blkOf a with
  | some (.csc, off) => if off = 0x10 ∨ off = 0x20 ∨ (0x1000 ≤ off ∧ off < 0x2000 ∧ off % 64 = 0) then 8 else 4
  | some (.trim, off) => if off = 0x008 then 8 else 4
  | some (.cap, off) => if 0x10000 ≤ off ∧ off < 0x18000 then 8 else 4
  | some (.io, off) => if off = 0x18 ∨ off = 0x28 then 8 else 4
  | some (.sp _, off) => if off < 0x60 then 8 else 4
  | _ => 4

/-- A register of peripheral space written by an initiator under its check. -/
def periRegWrite (s : State) (by_ : BusBy) (init a : Nat) (v : W64) : State :=
  if isRam a || a % 4 != 0 then s else (initWrite s by_ init a (toLE (regBytes a) v.toNat)).2

/-- One half of a 16-byte value replaced. -/
def halfPut (e : W128) (hi : Bool) (v : W64) : W128 :=
  if hi then v ++ e.extractLsb' 0 64 else e.extractLsb' 64 64 ++ v

/-- ACT registers (Table 14-15); an entry is written by 8-byte halves. -/
def actRegWrite (s : State) (off : Nat) (v : W64) : State :=
  let entry := fun (e : Nat) => (Tbl.read (fun _ => 0) (actLive s.act) e, Tbl.read (fun _ => 0) (actShadow s.act) e)
  if off = 0 then
    let a := if v.getLsbD 1 then actCopy s.act else s.act
    { s with act := if v.getLsbD 0 then actCommit a else a }
  else if 0x1000 ≤ off ∧ off < 0x2000 then
    let e := (off - 0x1000) / 16
    { s with act := actWriteLive s.act e (halfPut (entry e).1 (decide (off % 16 = 8)) v) }
  else if 0x2000 ≤ off ∧ off < 0x3000 then
    let e := (off - 0x2000) / 16
    { s with act := actWriteShadow s.act e (halfPut (entry e).2 (decide (off % 16 = 8)) v) }
  else s

/-- Reef registers (Table 13-9): the budget takes effect as R479 says, FLOOR codes that name no state are kept
out. -/
def reefRegWrite (s : State) (off : Nat) (v : W64) : State :=
  if off = 0 then
    let t := (budgetWrite (bits v.toNat 0 10) s).2
    if bits v.toNat 16 10 ≤ 768 then { t with reef.pinmax := v.extractLsb' 16 10 } else t
  else if off = 0x18 then
    { s with reef.railSp := bits v.toNat 0 10, reef.railSoc := bits v.toNat 10 10, reef.railShl := bits v.toNat 20 10 }
  else if 0x100 ≤ off ∧ off < 0x190 ∧ off % 8 = 0 then
    match pstateOf (bits v.toNat 16 3) with
    | some p => domMod s (Fin.ofNat 18 ((off - 0x100) / 8)) fun r => { r with floor := p }
    | none => s
  else s

/-- PERT registers: one half of a kind's 16 bytes (Table 15-12). A kind acts only by its activation (R539). -/
def pertRegWrite (s : State) (off : Nat) (v : W64) : State :=
  if 0x10 ≤ off ∧ off < 0x80 ∧ off % 8 = 0 then
    { s with pert.params := vmod s.pert.params (Fin.ofNat 8 (off / 16)) fun b => overwrite b (off % 16) (toLE 8 v.toNat) }
  else s

/-- A write of the MGC in management space (Table 11-4). No chapter lays out the registers of the OTP
controller, the CAN controllers, Cleat C, Cleat A's management side and the QSPI controller: a write there
changes no named state (log 175). -/
def mgmtRegWrite (s : State) (a : Nat) (v : W64) : State :=
  let o := a - mgmtBase
  if o < 0x40000 then s.wr a (toLE 8 v.toNat)
  else if 0x1010000 ≤ o ∧ o < 0x1020000 then actRegWrite s (o - 0x1010000) v
  else if 0x1020000 ≤ o ∧ o < 0x1030000 then reefRegWrite s (o - 0x1020000) v
  else if 0x1030000 ≤ o ∧ o < 0x1040000 then pertRegWrite s (o - 0x1030000) v
  else if 0x1040000 ≤ o ∧ o < 0x1050000 then phtRegWrite s (o - 0x1040000) (v.extractLsb' 0 32)
  else if 0x1050000 ≤ o ∧ o < 0x1052000 then
    twWrite s (Fin.ofNat 6 ((o - 0x1050000) / 0x1000)) (o % 0x1000) (v.extractLsb' 0 32)
  else if 0x1090000 ≤ o ∧ o < 0x10A0000 then
    if o = 0x1090000 ∧ v.getLsbD 0 then { s with boot.wdCount := 0 } else s
  else s

/-- REGISTER_WRITE. -/
def execRegisterWrite (by_ : RegParty) (addr : Nat) (v : W64) (s : State) : Host.Outcome State Fault Refusal :=
  match by_ with
  | .mast h =>
    .next (if ctlUp s && domUp s 11 then periRegWrite s (.mast h) (hartInit h (hartOf s h).sup) addr v else s)
  | .spar c => .next (if domRuns s (sparDom c) then periRegWrite s .other c.val addr v else s)
  | .host => if pcieUp s then .next (hostRegWrite s addr (v.extractLsb' 0 32)) else .next s
  | .mgc =>
    if !mgcUp s then .next s
    else if mgmtBase ≤ addr then .next (mgmtRegWrite s addr v)
    else if isRam addr || addr % 4 != 0 then .next s
    else if (busErr s addr (regBytes addr)).isSome then .next s
    else .next (busWrite s .other addr (toLE (regBytes addr) v.toNat))

end Sys2Proof.Machine
end

