-- ==== Sys2Proof/Machine/Tile.lean ====
section
/-!
DEFINITION. The TILE sequencer of a Spar core (R196 to R199, R212 to R222, R234).
-/

namespace Sys2Proof.Machine

/-- The sequencer of core c, with its scale registers. -/
def tileUnit (s : State) (c : CoreId) : SeqUnit :=
  { init := c.val, own := some c, srf := srfRead (coreOf s c).srf, eaves := false }

/-- What the sequencer starts with: the core's accumulators and the weight stages. -/
def tileStart (s : State) (c : CoreId) : SeqRun :=
  let x := coreOf s c
  { s := s, acc := x.acc.toList,
    stage := x.stage.toList, wsSrc := x.wsSrc.toList.map fun a => a.toNat, ws := x.tile.ws,
    satPos := 0, satNeg := 0, satUns := 0, rndIgn := false, fetched := x.fetched }

/-- The core after a run: accumulators, stages, counters; the cycles are a free count (log 63). -/
def tileTake (c : CoreId) (d : ConvDesc) (r : SeqRun) : State :=
  let n := drawn r.s .cycles
  afterDraw (coreMod r.s c fun x =>
    let x := { x with
      acc := Vector.ofFn fun i : Fin 8 =>
        if d.accBase ≤ i.val ∧ i.val < d.accBase + d.accN then r.acc.getD i.val [] else x.acc.get i,
      stage := Vector.ofFn fun i : Fin 2 => r.stage.getD i.val [],
      wsSrc := Vector.ofFn fun i : Fin 2 => BitVec.ofNat 48 (r.wsSrc.getD i.val 0),
      tile := { x.tile with ws := r.ws }, fetched := r.fetched, satUnsure := x.satUnsure || decide (0 < r.satUns) }
    (((x.bump cSatPos r.satPos).bump cSatNeg r.satNeg).bump cSatUns r.satUns).bump64 2 n)

/-- A sequencer action and the state it leaves. -/
def tileDo {α : Type} (s : State) (c : CoreId) (d : ConvDesc) (m : SeqM α) : Except SeqErr α × State :=
  let (res, r) := m.run (tileStart s c)
  (res, tileTake c d r)

/-- STATUS and RDBYTES of a descriptor in the core's DTCM. -/
def tileStatus (s : State) (c : CoreId) (desc : Nat) (status rdBytes : Nat) : State :=
  let a := dtcmBase c.val + 64 * desc
  noteHomeWrite ((s.wr (a + 0x60) (toLE 1 status)).wr (a + 0x68) (toLE 8 rdBytes)) (a + 0x60) 16

/-- A refused access of the sequencer is plan fault BUS_ERR at its address (R204, ch. 06 Corners). -/
def tileBusErr (s : State) (c : CoreId) (a : Nat) : State := planFault s c fcBusErr a

/-- The sequencer reads the descriptor, answers UNSUPPORTED or EMPTY at once, and else runs: from its first row,
or from a recorded row and pass (R197, R212, R216, R234). -/
def tileBegin (s : State) (c : CoreId) (desc : Nat) (at_ : Option (BitVec 15 × BitVec 5)) : State :=
  let b := s.rd (dtcmBase c.val + 64 * desc) 128
  let s := if at_.isSome then s else coreMod s c fun x => { x with fetched := Fetched.zero }
  let d := convDesc b
  let idle := fun (t : State) => coreMod t c fun x => { x with tile := { x.tile with active := false, susp := false } }
  if !d.tileOk then idle (tileStatus s c desc 2 0)
  else if d.isEmpty then idle (tileStatus s c desc 1 0)
  else
    match tileDo s c d (blockOk (tileUnit s c) d) with
    | (.error (.bus _ a), t) => tileBusErr (idle t) c a
    | (.error .format, t) => idle (tileStatus t c desc 3 0)
    | (.ok false, t) => idle (tileStatus t c desc 2 0)
    | (.ok true, t) =>
      coreMod t c fun x => { x with
        tdesc := b,
        tile := { active := true, susp := false, row := (at_.map (·.1)).getD (BitVec.ofNat 15 d.oy0),
                  pass := (at_.map (·.2)).getD 0, ws := x.tile.ws, desc := BitVec.ofNat 14 desc } }

/-- The rows from the recorded one on, at most n of them. -/
def tileRows (s : State) (c : CoreId) (n : Nat) : Except SeqErr Unit × State :=
  let x := coreOf s c
  let d := convDesc x.tdesc
  tileDo s c d (runUnit (tileUnit s c) d x.tile.row.toNat x.tile.pass.toNat n)

/-- The end of the sequencer's work: STATUS, RDBYTES, then ACTIVE is 0 (R212, R218). -/
def tileEnd (s : State) (c : CoreId) (status : Nat) : State :=
  let rd := (coreOf s c).fetched.count (drawn s .rdbytes)
  let s := tileStatus (afterDraw s) c (coreOf s c).tile.desc.toNat status rd
  coreMod s c fun x => { x with tile := { x.tile with active := false, susp := false } }

def tileLeft (x : SparCore) : Nat := (convDesc x.tdesc).rowEnd - x.tile.row.toNat

/-- What a run of rows ends in. -/
def tileAfter (c : CoreId) (r : Except SeqErr Unit × State) (ok : State → State) : State :=
  match r with
  | (.ok _, t) => ok t
  | (.error (.bus _ a), t) => tileBusErr t c a
  | (.error .format, t) => tileEnd t c 3

/-- The sequencer acts while the core is powered, not fenced, and has a TILE active. -/
def tileActs (s : State) (c : CoreId) : Bool :=
  sparUp s c && (coreOf s c).tile.active && (coreOf s c).state != 2

/-- TILE_COMPLETE: every row left is computed and stored; STATUS OK. -/
def execTileComplete (c : CoreId) (s : State) : Host.Outcome State Fault Refusal :=
  if tileActs s c then
    .next (tileAfter c (tileRows s c (tileLeft (coreOf s c))) fun t => tileEnd t c 0)
  else .next s

/-- TILE_SUSPEND: with an interrupt that waits for nothing but the sequencer, the row that runs is the `rows`-th from the recorded one; once
it is stored the sequencer suspends, or ends when it was the last (R196, ch. 06 Corners). -/
def execTileSuspend (c : CoreId) (rows : Nat) (s : State) : Host.Outcome State Fault Refusal :=
  let x := coreOf s c
  if tileActs s c && sparRuns s c && irqTakes x then
    let n := min (max 1 rows) (tileLeft x)
    .next (tileAfter c (tileRows s c n) fun t =>
      if n = tileLeft x then tileEnd t c 0
      else coreMod t c fun x => { x with tile := { x.tile with
        active := false, susp := true, row := x.tile.row + BitVec.ofNat 15 n, pass := 0 } })
  else .next s

end Sys2Proof.Machine
end

