-- ==== Sys2Proof/Machine/Spar.lean ====
section
/-!
DEFINITION. The Spar cores' bundles: fields, checks, the six slots, loops, RPT, waits and interrupts
(R179 to R204, R271, R272, Tables 5-2 to 5-6).
-/

namespace Sys2Proof.Machine

/-! ## Fields (Tables 5-2 to 5-6) -/

/-- A bundle's slots, in the order of VM: LS0, LS1, VA0, VA1, TM, SB; a slot that is not valid is 0, a NOP. -/
structure Bundle where
  raw : Nat
  ls0 : Nat
  ls1 : Nat
  va0 : Nat
  va1 : Nat
  tm : Nat
  sb : Nat
  deriving DecidableEq, Repr

def bundleOf (w : Nat) : Bundle :=
  let slot := fun (i lo n : Nat) => if bitOf w i then bits w lo n else 0
  { raw := w, ls0 := slot 0 8 44, ls1 := slot 1 52 44, va0 := slot 2 96 44, va1 := slot 3 140 44,
    tm := slot 4 184 40, sb := slot 5 224 32 }

def slotOp (x : Nat) : Nat := bits x 0 6

/-- PRED of an LS, VA or SB slot: the predicate register as it acts, every bit 1 when EN = 0. -/
def slotPred (x : SparCore) (w : Nat) : W64 :=
  if bitOf w 10 then
    let p := x.p.get (Fin.ofNat 8 (bits w 6 3))
    if bitOf w 9 then ~~~p else p
  else ~~~0#64

def lsReg (w : Nat) : Nat := bits w 11 5
def lsAb (w : Nat) : Fin 16 := Fin.ofNat 16 (bits w 16 4)
def lsAm (w : Nat) : Nat := bits w 20 2
def lsCb (w : Nat) : Fin 8 := Fin.ofNat 8 (bits w 22 3)
def lsSz (w : Nat) : Nat :=
  match bits w 25 2 with
  | 0 => 64 | 1 => 32 | 2 => 16 | _ => 4
def lsOfs (w : Nat) : Int := sext 16 (bits w 28 16)

def vaVd (w : Nat) : Nat := bits w 11 5
def vaA (w : Nat) : Fin 32 := Fin.ofNat 32 (bits w 16 5)
def vaB (w : Nat) : Fin 32 := Fin.ofNat 32 (bits w 21 5)
def vaEt (w : Nat) : Nat := bits w 26 2
def vaSat (w : Nat) : Bool := bitOf w 28
def vaImm (w : Nat) : Nat := bits w 29 15

def tmAcc (w : Nat) : Fin 8 := Fin.ofNat 8 (bits w 6 3)
def tmVs (w : Nat) : Fin 32 := Fin.ofNat 32 (bits w 9 5)
def tmAa (w : Nat) : Fin 16 := Fin.ofNat 16 (bits w 14 4)
def tmAd (w : Nat) : Fin 16 := Fin.ofNat 16 (bits w 18 4)
def tmVh (w : Nat) : Nat := bits w 22 1
def tmLh (w : Nat) : Nat := bits w 23 1
def tmWs (w : Nat) : Fin 2 := Fin.ofNat 2 (bits w 24 1)
def tmClr (w : Nat) : Bool := bitOf w 25
def tmShape (w : Nat) : Nat := bits w 26 2
def tmSgn (w : Nat) : Nat := bits w 28 2

def sbRd (w : Nat) : Fin 32 := Fin.ofNat 32 (bits w 11 5)
def sbRs (w : Nat) : Fin 32 := Fin.ofNat 32 (bits w 16 5)
def sbImm (w : Nat) : Int := sext 11 (bits w 21 11)

/-- The SB slot acts: scalar and branch operations act only when bit 0 of the predicate holds. -/
def sbActs (x : SparCore) (w : Nat) : Bool := (slotPred x w).getLsbD 0

/-- Repeat count of an RPT: n − 1 in 12 bits from RD[0] and IMM. -/
def rptCount (w : Nat) : Nat := (bits w 11 1) * 2048 + bits w 21 11 + 1

/-! ## Checks that need the bundle alone (R182, R184) -/

def lsOps : List Nat := [0x00, 0x01, 0x02, 0x03, 0x04, 0x05, 0x06, 0x07, 0x10, 0x11, 0x12, 0x20]
def vaOps : List Nat :=
  [0x00, 0x01, 0x02, 0x03, 0x04, 0x05, 0x06, 0x07, 0x08, 0x09, 0x0A, 0x0B, 0x0C, 0x0D, 0x10, 0x11, 0x18,
   0x19, 0x1A, 0x20]
def sbOps : List Nat :=
  [0x00, 0x01, 0x02, 0x03, 0x04, 0x05, 0x06, 0x07, 0x08, 0x09, 0x0A, 0x0B, 0x0C, 0x10, 0x11, 0x20, 0x21,
   0x22, 0x23, 0x24, 0x25, 0x26, 0x27, 0x28, 0x29, 0x2A, 0x2B, 0x2C, 0x2D]

/-- Registers that slots write, as numbers for comparison: v at 0, a at 32, d at 48, p at 64, acc at 72,
weight stages at 80. -/
def rV (n : Nat) : Nat := n % 32
def rA (n : Nat) : Nat := 32 + n % 16
def rD (n : Nat) : Nat := 48 + n % 16
def rP (n : Nat) : Nat := 64 + n % 8
def rAcc (n : Nat) : Nat := 72 + n % 8
def rWs (n : Nat) : Nat := 80 + n % 2

/-- A register coded as RD: d0 to d15, then a0 to a15. -/
def rDA (n : Nat) : Nat := if n < 16 then rD n else rA n

def lsWrites (w : Nat) : List Nat :=
  let dst :=
    match slotOp w with
    | 0x01 => [rV (lsReg w)] | 0x03 => [rV (lsReg w)] | 0x04 => [rD (lsReg w)] | 0x06 => [rA (lsReg w)]
    | 0x11 => [rAcc (lsReg w)] | 0x12 => [rWs (lsReg w)]
    | _ => []
  if slotOp w ≠ 0 ∧ (lsAm w = 1 ∨ lsAm w = 2) then (rA (lsAb w).val :: dst).eraseDups else dst

def vaWrites (w : Nat) : List Nat :=
  match slotOp w with
  | 0x00 => []
  | 0x0C => [rP (vaVd w)] | 0x0D => [rP (vaVd w)]
  | 0x18 => [rAcc (vaVd w)] | 0x19 => [rAcc (vaVd w)]
  | _ => [rV (vaVd w)]

def tmWrites (w : Nat) : List Nat :=
  match slotOp w with
  | 0x01 => [rAcc (tmAcc w).val] | 0x02 => [rAcc (tmAcc w).val] | 0x03 => [rAcc (tmAcc w).val]
  | 0x05 => [rAcc (tmAcc w).val]
  | _ => []

def sbWrites (w : Nat) : List Nat :=
  let op := slotOp w
  if (1 ≤ op ∧ op ≤ 0x0C) ∨ op = 0x10 ∨ op = 0x11 ∨ op = 0x22 ∨ op = 0x29 then [rDA (sbRd w).val]
  else if op = 0x2D ∧ bits w 21 3 = 0 then [rD (sbRd w).val, rA (sbRs w).val]
  else []

/-- Two slots write the same register. -/
def writesClash (b : Bundle) : Bool :=
  let l := lsWrites b.ls0 ++ lsWrites b.ls1 ++ vaWrites b.va0 ++ vaWrites b.va1 ++ tmWrites b.tm ++ sbWrites b.sb
  decide (l.eraseDups.length ≠ l.length)

/-- R182, and R239's SGN = 0b00; a SHAPE that Table 5-5 does not list, WAITOB forms beyond 2 (R271). -/
def bundleIllegal (b : Bundle) : Bool :=
  decide (bits b.raw 6 2 ≠ 0) ||
  !lsOps.contains (slotOp b.ls0) || !lsOps.contains (slotOp b.ls1) || bitOf b.ls0 27 || bitOf b.ls1 27 ||
  !vaOps.contains (slotOp b.va0) || !vaOps.contains (slotOp b.va1) ||
  decide (7 < slotOp b.tm) || decide (bits b.tm 30 10 ≠ 0) ||
  (decide (slotOp b.tm = 1) && decide (2 ≤ tmShape b.tm)) ||
  ((decide (slotOp b.tm = 1) || decide (slotOp b.tm = 3)) && decide (tmSgn b.tm = 0)) ||
  !sbOps.contains (slotOp b.sb) || (decide (slotOp b.sb = 0x2D) && decide (2 < bits b.sb 21 3)) ||
  writesClash b

/-- What a repeated bundle must not contain (R184): BR to WAITPH, RTI, DONE, WAITOB, TILE. -/
def rptForbids (b : Bundle) : Bool :=
  let op := slotOp b.sb
  (decide (0x20 ≤ op) && decide (op ≤ 0x27)) || op == 0x2B || op == 0x2D || slotOp b.tm == 4

/-- Accumulators a bundle reads or writes. -/
def accUses (b : Bundle) : List Nat :=
  let ls := fun (w : Nat) => if slotOp w = 0x10 ∨ slotOp w = 0x11 then [lsReg w % 8] else []
  let va := fun (w : Nat) => if slotOp w = 0x18 ∨ slotOp w = 0x19 then [vaVd w % 8]
    else if slotOp w = 0x1A then [0, 1, 2, 3, 4, 5, 6, 7] else []
  ls b.ls0 ++ ls b.ls1 ++ va b.va0 ++ va b.va1

/-- The bundle stalls while the sequencer runs: a TM operation, a FENCE, a DONE (whose stores are not
complete), an accumulator the descriptor names, a VA operation beside a DW descriptor (R212, R228, R272); so it
does between the suspension and the entry that it was for (R196). -/
def tileStalls (x : SparCore) (b : Bundle) : Bool :=
  let d := convDesc x.tdesc
  (x.tile.active || (x.tile.susp && irqTakes x)) &&
    (decide (slotOp b.tm ≠ 0) || ((slotOp b.sb == 0x2A || slotOp b.sb == 0x2B) && sbActs x b.sb) ||
     (accUses b).any (fun k => decide (d.accBase ≤ k) && decide (k < d.accBase + d.accN)) ||
     (d.dw && (decide (slotOp b.va0 ≠ 0) || decide (slotOp b.va1 ≠ 0))))

/-! ## Memory accesses of a bundle -/

/-- What a check of an access answers. -/
inductive AccRes where
  | ok (s : State)
  | fault (code : W16) (detail : Nat) (s : State)
  | wait (s : State)

/-- The address an LS slot accesses and the address register's new value; none raises ALIGN (R187). -/
def lsAddr (x : SparCore) (w : Nat) : Option (Nat × Option Nat) :=
  let a := (x.a.get (lsAb w)).toNat
  match lsAm w with
  | 0 => some (wrapInt 48 (a + lsOfs w), none)
  | 1 => some (a, some (wrapInt 48 (a + lsOfs w)))
  | 2 => (circNext (x.cb.get (lsCb w)) a (lsOfs w)).map fun e => (a, some e)
  | _ => some (wrapInt 48 (a + (x.d.get (Fin.ofNat 16 (bits w 28 4))).toInt), none)

/-- Bytes an LS slot accesses. -/
def lsBytes (w : Nat) : Nat :=
  match slotOp w with
  | 0x01 => lsSz w | 0x02 => lsSz w | 0x03 => 4 | 0x04 => 4 | 0x05 => 4 | 0x06 => 8 | 0x07 => 8
  | 0x10 => 512 | 0x11 => 512 | 0x12 => 1024
  | _ => 0

/-- Loads: VLD, VLDB, SLD, ALD, RESTACC, WLD. -/
def lsIsLoad (w : Nat) : Bool := [0x01, 0x03, 0x04, 0x06, 0x11, 0x12].contains (slotOp w)

/-- VLD, VST and VLDB act on the byte lanes whose predicate bit holds; the other operations act as a whole
when bit 0 does (log 46). -/
def lsIsVector (w : Nat) : Bool := decide (1 ≤ slotOp w) && decide (slotOp w ≤ 3)

def lsActs (x : SparCore) (w : Nat) : Bool :=
  decide (slotOp w ≠ 0) && (if lsIsVector w then decide (slotPred x w ≠ 0) else (slotPred x w).getLsbD 0)

/-- SAVEACC, RESTACC and WLD need 64-byte alignment (R199; of WLD log 92). -/
def lsAligned (w a : Nat) : Bool := !(decide (0x10 ≤ slotOp w) && decide (slotOp w ≤ 0x12)) || decide (a % 64 = 0)

/-- The pieces of an access: (address, bytes), in order (R188). -/
def lsPieces (x : SparCore) (w a n : Nat) : List (Nat × Nat) :=
  if n = 0 then [] else if lsAm w = 2 then circPieces (x.cb.get (lsCb w)) a n else [(a, n)]

/-- A request of the bundle to another chip; it executes once each has been answered (log 60). -/
def sparAsk (s : State) (c : CoreId) (addr : Nat) (home : ChipId) (off n : Nat) : AccRes :=
  match (coreOf s c).rem.find? fun b => b.home == home && b.off == off && b.op == n - 1 with
  | some b =>
    match b.res with
    | some (.data _) => .ok s
    | some (.err _) => .fault fcBusErr addr s
    | none => .wait s
  | none =>
    match remoteRequest s (.sparLoad c) home mkRd off (n - 1) 2 [] with
    | .err _ => .fault fcBusErr addr s
    | .full => .wait s
    | .sent tag t =>
      .wait (coreMod t c fun x => { x with rem := x.rem ++
        [{ tag := tag, kind := mkRd, home := home, off := off, op := n - 1, res := none }] })

/-- Every line of a remote read is asked for. -/
def sparAskAll (c : CoreId) (addr : Nat) (home : ChipId) : List (Nat × Bytes) → State → AccRes
  | [], s => .ok s
  | p :: ps, s =>
    match sparAsk s c addr home p.1 p.2.length with
    | .ok t => sparAskAll c addr home ps t
    | .wait t =>
      match sparAskAll c addr home ps t with
      | .ok u => .wait u
      | r => r
    | r => r

/-- What a remote read has been answered with. -/
def sparAnswered (x : SparCore) (home : ChipId) (ps : List (Nat × Bytes)) : Bytes :=
  ps.flatMap fun p =>
    match x.rem.find? fun b => b.home == home && b.off == p.1 && b.op == p.2.length - 1 with
    | some { res := some (.data d), .. } => padTo p.2.length d
    | _ => padTo p.2.length []

def remLines (off n : Nat) : List (Nat × Bytes) := splitLines (n + 1) off (List.replicate n 0)

/-- A load or store of a core may be performed: its own TCMs are not checked, other local addresses are by
the ACT and their target, another chip answers or can be reached (R27, R179, R204). -/
def accCheck (s : State) (c : CoreId) (store : Bool) (addr n : Nat) : AccRes :=
  match placeOf s addr with
  | .there home off =>
    if store then
      match remoteErr s home with
      | some _ => .fault fcBusErr addr s
      | none => .ok s
    else sparAskAll c addr home (remLines off n) s
  | .here a =>
    if ownTcm c a n then .ok s
    else
      match actCheck s c.val (if store then accStore else accLoad) a n with
      | some t => .fault fcBusErr addr t
      | none =>
        match busErr s a n with
        | some _ => .fault fcBusErr addr s
        | none => .ok s

/-- Checks over a list of accesses: (store, address, bytes). -/
def accChecks (c : CoreId) : List (Bool × Nat × Nat) → State → AccRes
  | [], s => .ok s
  | (st, a, n) :: l, s =>
    match accCheck s c st a n with
    | .ok t => accChecks c l t
    | .wait t =>
      match accChecks c l t with
      | .ok u => .wait u
      | r => r
    | r => r

/-- A checked read. -/
def sparGet (s : State) (c : CoreId) (addr n : Nat) : Bytes × State :=
  match placeOf s addr with
  | .there home off => (sparAnswered (coreOf s c) home (remLines off n), s)
  | .here a =>
    if ownTcm c a n then (s.rd a n, s)
    else
      match initRead s c.val a n with
      | (.ok b, t) => (b, t)
      | (.error _, t) => (padTo n [], t)

def sparGetAll (c : CoreId) : List (Nat × Nat) → State → Bytes × State
  | [], s => ([], s)
  | (a, n) :: l, s =>
    let (b, t) := sparGet s c a n
    let (bs, u) := sparGetAll c l t
    (b ++ bs, u)

/-- A checked write. -/
def sparPut (s : State) (c : CoreId) (addr : Nat) (bs : Bytes) : State :=
  match placeOf s addr with
  | .there home off => (remoteWrite s (.sparStore c addr) home 2 off bs).2
  | .here a =>
    if ownTcm c a bs.length then noteHomeWrite (s.wr a bs) a bs.length
    else (initWrite s .other c.val a bs).2

/-- Bytes written over the pieces of an access. -/
def sparPutAll (c : CoreId) : List (Nat × Nat) → Bytes → State → State
  | [], _, s => s
  | (a, n) :: l, bs, s => sparPutAll c l (bs.drop n) (sparPut s c a (bs.take n))

/-! ## LS slots -/

/-- The bytes a store slot writes, from the registers as they were. -/
def lsStoreData (x : SparCore) (w : Nat) : Bytes :=
  match slotOp w with
  | 0x02 => toLE (lsSz w) (x.v.get (Fin.ofNat 32 (lsReg w))).toNat
  | 0x05 => toLE 4 (x.d.get (Fin.ofNat 16 (lsReg w))).toNat
  | 0x07 => toLE 8 (x.a.get (Fin.ofNat 16 (lsReg w))).toNat
  | _ => lanesBytes ((List.range 64).map fun i => laneAt (x.acc.get (Fin.ofNat 8 (lsReg w))) i)

/-- The addresses of the bytes of an access. -/
def pieceAddrs (ps : List (Nat × Nat)) : List Nat := ps.flatMap fun p => (List.range p.2).map fun i => p.1 + i

/-- The bytes of a store one by one, those whose predicate bit is 0 left out. -/
def maskedPut (c : CoreId) (p : W64) (as_ : List Nat) (bs : Bytes) (s : State) : State :=
  ((as_.zip bs).zipIdx).foldl (fun t e => if p.getLsbD e.2 then sparPut t c e.1.1 [e.1.2] else t) s

/-- A store slot is performed. -/
def lsStore (x : SparCore) (c : CoreId) (w : Nat) (s : State) : State :=
  if !lsActs x w || lsIsLoad w || slotOp w == 0x20 then s
  else
    match lsAddr x w with
    | none => s
    | some (a, _) =>
      let ps := lsPieces x w a (lsBytes w)
      let p := slotPred x w
      if lsIsVector w && decide (p ≠ ~~~0#64) then maskedPut c p (pieceAddrs ps) (lsStoreData x w) s
      else sparPutAll c ps (lsStoreData x w) s

/-- A register of 512 bits with the bytes of a load in it: lanes whose predicate bit is 0 stay; bytes
beyond the load's width are free (log 93). -/
def vLoad (old : BitVec 512) (p : W64) (bs : Bytes) : BitVec 512 :=
  let o := toLE 64 old.toNat
  let f := toLE 64 (Config.freeOf .vaLane [0x5D, old.toNat, leNat bs])
  BitVec.ofNat 512 (leNat ((List.range 64).map fun i =>
    if !p.getLsbD i then byteAt o i else if i < bs.length then byteAt bs i else byteAt f i))

/-- What a load puts into the core. -/
def lsLoadInto (x0 : SparCore) (w a : Nat) (bs : Bytes) (x : SparCore) : SparCore :=
  let p := slotPred x0 w
  let r := lsReg w
  match slotOp w with
  | 0x01 => { x with v := vmod x.v (Fin.ofNat 32 r) fun o => vLoad o p bs }
  | 0x03 => { x with v := vmod x.v (Fin.ofNat 32 r) fun o => vLoad o p ((List.replicate 16 bs).flatten) }
  | 0x04 => { x with d := vput x.d (Fin.ofNat 16 r) (BitVec.ofNat 32 (leNat bs)) }
  | 0x06 => { x with a := vput x.a (Fin.ofNat 16 r) (BitVec.ofNat 48 (leNat bs)) }
  | 0x11 => { x with acc := vput x.acc (Fin.ofNat 8 r) (lanesOf bs 64) }
  | 0x12 => { x with stage := vput x.stage (Fin.ofNat 2 r) bs,
                     wsSrc := vput x.wsSrc (Fin.ofNat 2 r) (BitVec.ofNat 48 a) }
  | _ => x

/-- The address register after an LS slot. -/
def lsPostInc (x0 : SparCore) (w : Nat) (x : SparCore) : SparCore :=
  if !lsActs x0 w then x
  else
    match lsAddr x0 w with
    | some (_, some e) => { x with a := vput x.a (lsAb w) (BitVec.ofNat 48 e) }
    | _ => x

/-- A load slot is performed: the core as it changes, and the machine. -/
def lsLoad (x0 : SparCore) (c : CoreId) (w : Nat) (x : SparCore) (s : State) : SparCore × State :=
  if !lsActs x0 w || !lsIsLoad w then (x, s)
  else
    match lsAddr x0 w with
    | none => (x, s)
    | some (a, _) =>
      let (bs, t) := sparGetAll c (lsPieces x0 w a (lsBytes w)) s
      (lsLoadInto x0 w a bs x, t)

/-- The accesses of an LS slot, and its ALIGN check: none raises ALIGN. -/
def lsAccesses (x : SparCore) (w : Nat) : Option (List (Bool × Nat × Nat)) :=
  if !lsActs x w then some []
  else
    match lsAddr x w with
    | none => none
    | some (a, _) =>
      if lsAligned w a then some ((lsPieces x w a (lsBytes w)).map fun p => (!lsIsLoad w, p.1, p.2)) else none

/-! ## VA slots (Table 5-4) -/

def etBits (et : Nat) : Nat :=
  match et with
  | 0 => 8 | 1 => 16 | 2 => 32 | _ => 16

def laneBits (v : BitVec 512) (w i : Nat) : Nat := bits v.toNat (w * i) w

def satInt (w : Nat) (sat : Bool) (x : Int) : Nat :=
  if sat then wrapInt w (max (-(2 ^ (w - 1) : Nat)) (min ((2 ^ (w - 1) - 1 : Nat) : Int) x)) else wrapInt w x

/-- One lane of an arithmetic or bitwise operation, none where Table 5-4 names an operation without saying
what it computes (log 46): VSEL, VPERM, VSHUF, VCVT, shifts of fp16, shifts by the width or more. -/
def vaLane (op et : Nat) (sat : Bool) (sh a b : Nat) : Option Nat :=
  let w := etBits et
  let x := sext w a
  let y := sext w b
  match op with
  | 0x06 => some (Nat.land a b)
  | 0x07 => some (Nat.lor a b)
  | 0x08 => some (Nat.xor a b)
  | 0x01 => some (if et = 3 then (fpAdd fp16 0 a b).1 else satInt w sat (x + y))
  | 0x02 => some (if et = 3 then (fpSub fp16 0 a b).1 else satInt w sat (x - y))
  | 0x03 => some (if et = 3 then (fpMul fp16 0 a b).1 else satInt w sat (x * y))
  | 0x04 => some (if et = 3 then (fpMaximum fp16 a b).1 else wrapInt w (max x y))
  | 0x05 => some (if et = 3 then (fpMin fp16 a b).1 else wrapInt w (min x y))
  | 0x09 => if et = 3 ∨ w ≤ sh then none else some (satInt w sat (x * (2 ^ sh : Nat)))
  | 0x0A => if et = 3 ∨ w ≤ sh then none
            else some (if Config.freeOf .form [0x0A] % 2 = 0 then wrapInt w (x / (2 ^ sh : Nat)) else a / 2 ^ sh)
  | _ => none

/-- The free value of a VA operation: a function of everything it could read. -/
def vaFree (x : SparCore) (w : Nat) : Nat :=
  Config.freeOf .vaLane
    ([bits w 0 6, bits w 11 33, (x.v.get (vaA w)).toNat, (x.v.get (vaB w)).toNat,
      (x.v.get (Fin.ofNat 32 (vaImm w))).toNat, (x.v.get (Fin.ofNat 32 (vaVd w))).toNat]
      ++ x.p.toList.map fun q => q.toNat)

/-- A vector operation's result: lanes whose predicate bit is 0 keep their contents. -/
def vaVector (x : SparCore) (w : Nat) : BitVec 512 :=
  let et := vaEt w
  let k := etBits et
  let p := slotPred x w
  let old := x.v.get (Fin.ofNat 32 (vaVd w))
  let f := vaFree x w
  BitVec.ofNat 512 ((List.range (512 / k)).foldr (fun (i acc : Nat) =>
    let r :=
      if !p.getLsbD i then laneBits old k i
      else
        match vaLane (slotOp w) et (vaSat w) (vaImm w % 32) (laneBits (x.v.get (vaA w)) k i)
            (laneBits (x.v.get (vaB w)) k i) with
        | some v => v % 2 ^ k
        | none => bits f (k * i) k
    r + 2 ^ k * acc) 0)

/-- A comparison's result in a predicate register: one bit a lane, 0 beyond the lanes. -/
def vaCompare (x : SparCore) (w : Nat) (old : W64) : W64 :=
  let et := vaEt w
  let k := etBits et
  let p := slotPred x w
  let lane := fun (i : Nat) =>
    let a := laneBits (x.v.get (vaA w)) k i
    let b := laneBits (x.v.get (vaB w)) k i
    if slotOp w = 0x0C then (if et = 3 then (fpEq fp16 a b).1 else decide (a = b))
    else (if et = 3 then (fpLt fp16 a b).1 else decide (sext k a < sext k b))
  BitVec.ofNat 64 ((List.range 64).foldr (fun (i acc : Nat) =>
    b2n (if !p.getLsbD i then old.getLsbD i else decide (i < 512 / k) && lane i) + 2 * acc) 0)

/-- What DWMAC and ACCADD add to accumulator lane i: ACCADD of int8 adds lane i of VA; the other forms are
not laid out by the spec and add a free value within the bound of R191 (log 46). -/
def vaAddend (x : SparCore) (w i : Nat) : Int :=
  let a := x.v.get (vaA w)
  if slotOp w = 0x19 ∧ vaEt w = 0 then sext 8 (laneBits a 8 i)
  else sext 32 (Config.freeOf .dwLane
    [slotOp w, vaEt w, b2n (vaSat w), vaImm w, a.toNat, (x.v.get (vaB w)).toNat, i] % 2 ^ 32)

/-- CLR of a DWMAC (R191): Table 5-4 lays out no bit for it, so it is an open function of the form's
operation-specific bits (log 46). -/
def dwClr (w : Nat) : Bool := Config.freeOf .form [0x18, vaEt w, b2n (vaSat w), bits w 34 10] % 2 = 1

/-- What VMOVACC moves into VD is open, but it comes from the values of the accumulators alone: the wrap count
and the clamp bit are hidden from it (R180, Table 5-1, log 46); lanes whose predicate bit is 0 stay. -/
def vaMovAcc (x : SparCore) (w : Nat) : BitVec 512 :=
  let f := Config.freeOf .vmovacc
    ([bits w 11 33, (x.v.get (vaA w)).toNat, (x.v.get (vaB w)).toNat]
      ++ x.acc.toList.flatMap fun l => (List.range 64).map fun i => (laneAt l i).v.toNat)
  let k := etBits (vaEt w)
  let old := x.v.get (Fin.ofNat 32 (vaVd w))
  BitVec.ofNat 512 ((List.range (512 / k)).foldr (fun (i a : Nat) =>
    (if (slotPred x w).getLsbD i then bits f (k * i) k else laneBits old k i) + 2 ^ k * a) 0)

/-- A VA slot; x0 is the core as the bundle found it. -/
def vaExec (x0 : SparCore) (w : Nat) (x : SparCore) : SparCore :=
  let vd := Fin.ofNat 32 (vaVd w)
  match slotOp w with
  | 0x00 => x
  | 0x0C => { x with p := vput x.p (Fin.ofNat 8 (vaVd w)) (vaCompare x0 w (x0.p.get (Fin.ofNat 8 (vaVd w)))) }
  | 0x0D => { x with p := vput x.p (Fin.ofNat 8 (vaVd w)) (vaCompare x0 w (x0.p.get (Fin.ofNat 8 (vaVd w)))) }
  | 0x1A => { x with v := vput x.v vd (vaMovAcc x0 w) }
  | 0x18 => { x with acc := vmod x.acc (Fin.ofNat 8 (vaVd w)) fun q => mapLanes q fun i l =>
      if (slotPred x0 w).getLsbD i then accumulate (if dwClr w then Lane.zero else l) (vaAddend x0 w i) else l }
  | 0x19 => { x with acc := vmod x.acc (Fin.ofNat 8 (vaVd w)) fun q => mapLanes q fun i l =>
      if (slotPred x0 w).getLsbD i then accumulate l (vaAddend x0 w i) else l }
  | _ => { x with v := vput x.v vd (vaVector x0 w) }

/-! ## TM slot (Table 5-5) -/

def vBytes (x : SparCore) (w : Nat) : Bytes := toLE 64 (x.v.get (tmVs w)).toNat

/-- An 8-bit operand as SGN bit k has it. -/
def tmVal (w k : Nat) (b : Byte) : Int := if bitOf (tmSgn w) k then b.toInt else b.toNat

/-- Σ over i < n of input i times weight i. -/
def tmSum (n : Nat) (inp wgt : Nat → Int) : Int := (List.range n).foldl (fun (a : Int) i => a + inp i * wgt i) 0

/-- MMA in shapes C16 and C32 (R189): the exact sum added into a lane, none where it is not written. -/
def mmaSum (x : SparCore) (w lane : Nat) : Option Int :=
  let v := vBytes x w
  let st := x.stage.get (tmWs w)
  let h := 32 * tmVh w
  let wgt := fun (o i : Nat) => tmVal w 1 (byteAt st (32 * i + o))
  if tmShape w = 0 then
    some (tmSum 16 (fun i => tmVal w 0 (byteAt v (h + 16 * (lane / 32) + i))) (wgt (lane % 32)))
  else if lane / 32 = tmLh w then
    some (tmSum 32 (fun i => tmVal w 0 (byteAt v (h + i))) (wgt (lane % 32)))
  else none

/-- MMA4 (R249): 2 pixels of 32 operands against the codes of the stage, with m = 1. -/
def mma4Sum (x : SparCore) (w lane : Nat) : Option Int :=
  let v := vBytes x w
  let st := x.stage.get (tmWs w)
  some (tmSum 32 (fun i => tmVal w 0 (byteAt v (32 * (lane / 32) + i))) fun i => codeWeight st i (lane % 32))

/-- A binary32 result with subnormals flushed to zero (R192). -/
def flush32 (x : Nat) : Nat := if bits x 23 8 = 0 then bits x 31 1 * 2 ^ 31 else x

/-- A binary16 value as binary32; exact. -/
def widen16 (x : Nat) : Nat :=
  match fpDecode fp16 x with
  | .fin s m e => (fpRound fp32 0 s m e false).1
  | .inf s => fpInf fp32 s
  | .nan _ => fpNan fp32 [0x16, x]

/-- MMAH (R192): 2 pixels of 8 channels against 8 × 16 weights, products and sums in channel order. -/
def mmahLane (x : SparCore) (w lane : Nat) (old : Nat) : Nat :=
  let v := vBytes x w
  let st := x.stage.get (tmWs w)
  let k := lane % 32
  (List.range 8).foldl (fun (a : Nat) i =>
    let q := widen16 (fieldLE v (32 * tmVh w + 16 * (k / 16) + 2 * i) 2)
    let g := widen16 (fieldLE st (32 * i + 2 * (k % 16)) 2)
    flush32 (fpAdd fp32 0 a (flush32 (fpMul fp32 0 q g).1)).1) old

/-- A step of the MAC array on integer lanes; CLR clears the lanes written first (R191). -/
def macInt (x0 : SparCore) (w : Nat) (f : Nat → Option Int) (x : SparCore) : SparCore :=
  ({ x with acc := vput x.acc (tmAcc w) (mapLanes (x0.acc.get (tmAcc w)) fun i l =>
    match f i with
    | some y => accumulate (if tmClr w then Lane.zero else l) y
    | none => l) }).bump64 2 1

def macHalf (x0 : SparCore) (w : Nat) (x : SparCore) : SparCore :=
  ({ x with acc := vput x.acc (tmAcc w) (mapLanes (x0.acc.get (tmAcc w)) fun i l =>
    if i / 32 = tmLh w then
      let l := if tmClr w then Lane.zero else l
      { l with v := BitVec.ofNat 40 (mmahLane x0 w i (bits l.v.toNat 0 32)) }
    else l) }).bump64 2 1

/-- Register effects of a TM slot but for stores and TILE. -/
def tmExec (x0 : SparCore) (w : Nat) (x : SparCore) : SparCore :=
  match slotOp w with
  | 0x01 => macInt x0 w (mmaSum x0 w) x
  | 0x02 => macHalf x0 w x
  | 0x03 => macInt x0 w (mma4Sum x0 w) x
  | 0x05 => { x with acc := vput x.acc (tmAcc w) [] }
  | _ => x

/-- Lanes an STQ stores: 16 to 64; a count of Table 5-5's descriptor outside 1 to 4 is open (log 46). -/
def stqLanes (d : StoreDesc) : Nat :=
  16 * (if 1 ≤ d.count ∧ d.count ≤ 4 then d.count else Config.freeOf .form [0x06, d.count] % 5)

/-- The bytes an STQ or STACC stores and how each lane saturated. -/
def tmStoreData (x : SparCore) (w : Nat) (desc : Bytes) : Bytes × List Sat :=
  let acc := x.acc.get (tmAcc w)
  let d := if slotOp w = 6 then storeDesc desc else staccDesc
  let srf := srfRead x.srf
  let el := (List.range (if slotOp w = 6 then stqLanes d else 64)).map fun i =>
    if slotOp w = 6 then storeElem srf d d.rnd (i % 32) (laneAt acc i)
    else
      let (v, k) := storeLane (laneAt acc i) d 1 0 true
      (toLE 4 (wrapInt 32 v), k)
  (el.flatMap fun e => e.1, el.map fun e => e.2)

/-- Saturation counters after a store (R189, R207). -/
def countSats (ks : List Sat) (x : SparCore) : SparCore :=
  let n := fun (k : Sat) => (ks.filter (· == k)).length
  { ((x.bump cSatPos (n .pos)).bump cSatNeg (n .neg)).bump cSatUns (n .unsure) with
    satUnsure := x.satUnsure || decide (0 < n .unsure) }

def tmIsStore (w : Nat) : Bool := slotOp w == 6 || slotOp w == 7
def tmDescAccess (x : SparCore) (w : Nat) : List (Bool × Nat × Nat) :=
  if slotOp w = 6 then [(false, (x.a.get (tmAd w)).toNat, 16)] else []

/-! ## SB slot (Table 5-6) -/

/-- A register coded as RD or RS, as a number and as a signed value. -/
def sbGet (x : SparCore) (r : Fin 32) : Nat :=
  if r.val < 16 then (x.d.get (Fin.ofNat 16 r.val)).toNat else (x.a.get (Fin.ofNat 16 r.val)).toNat

def sbGetInt (x : SparCore) (r : Fin 32) : Int :=
  if r.val < 16 then (x.d.get (Fin.ofNat 16 r.val)).toInt else (x.a.get (Fin.ofNat 16 r.val)).toInt

def sbPut (x : SparCore) (r : Fin 32) (v : Int) : SparCore :=
  if r.val < 16 then { x with d := vput x.d (Fin.ofNat 16 r.val) (BitVec.ofInt 32 v) }
  else { x with a := vput x.a (Fin.ofNat 16 r.val) (BitVec.ofInt 48 v) }

/-- The two operands of a scalar operation: RS and IMM, RD and RS, or RS and the register IMM names: Table
5-6 does not say which (log 46). -/
def sbOperands (x : SparCore) (w : Nat) : Int × Int :=
  match Config.freeOf .form [0x56] % 3 with
  | 0 => (sbGetInt x (sbRs w), sbImm w)
  | 1 => (sbGetInt x (sbRd w), sbGetInt x (sbRs w))
  | _ => (sbGetInt x (sbRs w), sbGetInt x (Fin.ofNat 32 (bits w 21 5)))

/-- The result of a scalar operation of the width of RD. -/
def sbAlu (x : SparCore) (w : Nat) : Int :=
  let (a, b) := sbOperands x w
  let k := if (sbRd w).val < 16 then 32 else 48
  let ua := wrapInt k a
  let ub := wrapInt k b
  let big := decide (k ≤ ub)
  let free : Int := (Config.freeOf .shift [0x56, slotOp w, ua, ub] : Nat)
  match slotOp w with
  | 0x01 => a + b
  | 0x02 => a - b
  | 0x03 => (Nat.land ua ub : Nat)
  | 0x04 => (Nat.lor ua ub : Nat)
  | 0x05 => (Nat.xor ua ub : Nat)
  | 0x06 => if big then free else (ua * 2 ^ ub : Nat)
  | 0x07 => if big then free else (ua / 2 ^ ub : Nat)
  | 0x08 => if big then free else a / (2 ^ ub : Nat)
  | 0x09 => a * b
  | 0x0A => min a b
  | 0x0B => max a b
  | 0x0C => (Config.freeOf .form [0x0C, ua, ub] : Nat)
  | 0x10 => sbImm w
  | _ => a + b

/-- Byte offset in the ITCM of a branch target. -/
def brTarget (x : SparCore) (w : Nat) : Int := (x.pc.toNat : Int) + 32 * sbImm w

/-- BRP branches; on what, Table 5-6 leaves to its name (log 46). -/
def brpTaken (x : SparCore) (w : Nat) : Bool :=
  Config.freeOf .form ([0x21, sbGet x (sbRd w), sbGet x (sbRs w)] ++ x.p.toList.map fun q => q.toNat) % 2 = 1

/-- Where the SB slot transfers control to, none when it does not. -/
def sbTarget (x : SparCore) (w : Nat) : Option Int :=
  if !sbActs x w then none
  else
    match slotOp w with
    | 0x20 => some (brTarget x w)
    | 0x21 => if brpTaken x w then some (brTarget x w) else none
    | 0x22 => some (brTarget x w)
    | 0x23 => some (sbGet x (sbRs w))
    | 0x27 => some x.epc.toNat
    | _ => none

def inItcm (t : Int) : Bool := decide (0 ≤ t) && decide (t < 0x20000)

/-- The bundle's offset from a byte offset: its low five bits do not count. -/
def alignPc (t : Int) : W32 := BitVec.ofNat 32 (t.toNat / 32 * 32)

/-- One hardware loop level at its end bundle: the level after the decrement, and whether it branches back. -/
def loopEnd (idx : Nat) (l : HwLoop) : HwLoop × Bool :=
  if l.count ≠ 0 ∧ l.stop.toNat = idx then ({ l with count := l.count - 1 }, decide (l.count ≠ 1)) else (l, false)

/-- The core past the bundle at pc: the inner level first, then the outer, else the next bundle. -/
def advance (x : SparCore) : SparCore :=
  let idx := x.pc.toNat / 32
  let (l1, b1) := loopEnd idx (x.loops.get 1)
  if b1 then { x with loops := vput x.loops 1 l1, pc := BitVec.ofNat 32 (32 * l1.start.toNat) }
  else
    let (l0, b0) := loopEnd idx (x.loops.get 0)
    { x with loops := #v[l0, l1], pc := if b0 then BitVec.ofNat 32 (32 * l0.start.toNat) else x.pc + 32 }

/-- The shadow set swapped with a0-a7, cb0-cb3, p0-p7 and the loop registers (R195). -/
def shadowSwap (x : SparCore) : SparCore :=
  { x with
    a := Vector.ofFn fun i : Fin 16 => if i.val < 8 then x.shA.get (Fin.ofNat 8 i.val) else x.a.get i,
    shA := Vector.ofFn fun i : Fin 8 => x.a.get (Fin.ofNat 16 i.val),
    cb := Vector.ofFn fun i : Fin 8 => if i.val < 4 then x.shCb.get (Fin.ofNat 4 i.val) else x.cb.get i,
    shCb := Vector.ofFn fun i : Fin 4 => x.cb.get (Fin.ofNat 8 i.val),
    p := x.shP, shP := x.p, loops := x.shLoops, shLoops := x.loops }

/-- Registers that the SB slot writes: scalar results, link, special registers. -/
def sbRegs (x0 : SparCore) (s : State) (c : CoreId) (w : Nat) (x : SparCore) : SparCore :=
  let op := slotOp w
  if !sbActs x0 w then x
  else if (1 ≤ op ∧ op ≤ 0x0C) ∨ op = 0x10 ∨ op = 0x11 then sbPut x (sbRd w) (sbAlu x0 w)
  else if op = 0x22 then sbPut x (sbRd w) (x0.pc.toNat + 32 : Nat)
  else if op = 0x28 then spWrite x false (bits w 21 11) (sbGet x0 (sbRs w))
  else if op = 0x29 then sbPut x (sbRd w) (spRead s c (bits w 21 11) : Nat)
  else x

/-- The loop level a LOOP sets: level RD[0], count from RS, from the next bundle to the bundle at IMM. -/
def sbLoop (x0 : SparCore) (w : Nat) (x : SparCore) : SparCore :=
  if slotOp w = 0x24 ∧ sbActs x0 w then
    { x with loops := vput x.loops (Fin.ofNat 2 (sbRd w).val) { start := BitVec.ofNat 15 (x0.pc.toNat / 32 + 1), stop := BitVec.ofInt 15 ((x0.pc.toNat / 32 : Nat) + sbImm w), count := BitVec.ofNat 32 (sbGet x0 (sbRs w)) } }
  else x

/-- A WAITPH: slot and IW. -/
def waitphOf (w : Nat) : PhtSlotId × Bool := (Fin.ofNat 64 (bits w 21 6), bitOf w 27)

def clearPend (x : SparCore) (n : PhtSlotId) : SparCore := { x with pend := x.pend &&& ~~~(1#64 <<< n.val) }

/-- WAITPH ends or is passed: the pending bit is cleared and the next bundle may issue, without an interrupt
before it when IW = 0 (R69, R201). -/
def waitphPass (x : SparCore) (n : PhtSlotId) (iw : Bool) : SparCore :=
  let x := advance (clearPend x n)
  { x with wait := .none, irqHold := !iw }

/-- Where issue goes after a bundle: repetition, a wait for a phase event, a transfer, or on. -/
def sbFlow (x0 : SparCore) (w : Nat) (x : SparCore) : SparCore :=
  if 0 < x0.rptLeft then
    if x0.rptLeft = 1 then { advance x with rptLeft := 0 } else { x with rptLeft := x0.rptLeft - 1 }
  else
    match sbTarget x0 w with
    | some t => { x with pc := alignPc t }
    | none =>
      if slotOp w = 0x25 ∧ sbActs x0 w then { advance x with rptLeft := rptCount w }
      else if slotOp w = 0x26 ∧ sbActs x0 w then
        let (n, iw) := waitphOf w
        if x.pend.getLsbD n.val then waitphPass x n iw else { x with wait := .ph n iw false }
      else sbLoop x0 w (advance x)

/-- What the SB slot does beyond its core's registers: RTI, WAITOB, DONE. -/
def sbAct (x0 : SparCore) (c : CoreId) (w : Nat) (s : State) : State :=
  if !sbActs x0 w then s
  else
    match slotOp w with
    | 0x27 =>
      let s := coreMod s c fun x => { shadowSwap x with gie := true, inHandler := false }
      let t := (coreOf s c).tile
      if t.susp then tileBegin s c t.desc.toNat (some (t.row, t.pass)) else s
    | 0x2B => doneIssue s c
    | 0x2D =>
      match bits w 21 3 with
      | 0 => obWait s c (sbRd w) (sbRs w)
      | 1 =>
        match x0.cur with
        | some t => if bitOf (x0.crs.get 1).toNat 20 then s else obPublish s t c
        | none => s
      | _ =>
        match x0.cur with
        | some t => obdSweep (obdMod s t.upper fun o => { o with readers := o.readers.filter (· ≠ c) })
        | none => s
    | _ => s

/-! ## The bundle -/

/-- Plan faults that do not need an access: code and DETAIL (R179, R186, R187, R198, R199, R213). -/
def bundleFault (s : State) (c : CoreId) (x : SparCore) (b : Bundle) : Option (W16 × Nat) :=
  let w := b.sb
  if bundleIllegal b ∨ (0 < x.rptLeft ∧ rptForbids b) then some (fcIllegal, 0)
  else if (lsAccesses x b.ls0).isNone ∨ (lsAccesses x b.ls1).isNone then some (fcAlign, 0)
  else if slotOp b.tm = 4 ∧ x.tile.susp then some (fcTileBusy, 0)
  else if slotOp b.tm = 4 ∧
      ¬ ((x.a.get (tmAa b.tm)).toNat % 64 = 0 ∧ dtcmBase c.val ≤ (x.a.get (tmAa b.tm)).toNat ∧
         (x.a.get (tmAa b.tm)).toNat + 128 ≤ dtcmBase c.val + 0x100000) then some (fcAlign, 0)
  else if slotOp w = 0x2C ∧ sbActs x w then some (fcTrap, bits w 21 11)
  else if slotOp w = 0x25 ∧ sbActs x w ∧ s.pht.rdy.getLsbD c.val ∧ x.limit < rptCount w then some (fcRptLong, 0)
  else
    match sbTarget x w with
    | some t => if inItcm t then none else some (fcFetch, 0)
    | none => none

/-- The loads and stores a bundle makes, the TM store after its descriptor is known. -/
def bundleAccesses (x : SparCore) (b : Bundle) : List (Bool × Nat × Nat) :=
  (lsAccesses x b.ls0).getD [] ++ (lsAccesses x b.ls1).getD [] ++ tmDescAccess x b.tm

/-- The six slots execute: every source is read before any slot writes (R183); loads, the registers, the
stores, then what the SB slot does. -/
def bundleDo (s : State) (c : CoreId) (b : Bundle) (tmData : Bytes × List Sat) : State :=
  let x0 := coreOf s c
  let x := lsPostInc x0 b.ls1 (lsPostInc x0 b.ls0 x0)
  let (x, s) := lsLoad x0 c b.ls0 x s
  let (x, s) := lsLoad x0 c b.ls1 x s
  let x := tmExec x0 b.tm (vaExec x0 b.va1 (vaExec x0 b.va0 x))
  let x := if tmIsStore b.tm then countSats tmData.2 x else x
  let moves := decide (slotOp b.sb = 0x29) && sbActs x0 b.sb
  let t := if moves then cycCatchUp s c (bits b.sb 21 11) else s
  let x := sbRegs x0 t c b.sb { x with cnt64 := (coreOf t c).cnt64 }
  let s := if moves then spReadDraw t (bits b.sb 21 11) else s
  let x := sbFlow x0 b.sb { x with irqHold := false, rem := [] }
  let s := coreMod s c fun _ => (x.bump64 1 1).noteRpt
  let s := lsStore x0 c b.ls1 (lsStore x0 c b.ls0 s)
  let s := if tmIsStore b.tm then sparPut s c (x0.a.get (tmAa b.tm)).toNat tmData.1 else s
  let s := if slotOp b.tm = 4 then tileBegin s c (((x0.a.get (tmAa b.tm)).toNat - dtcmBase c.val) / 64) none else s
  passIssue (sbAct x0 c b.sb s) c

/-- The bundle at pc is fetched, checked and issued. -/
def bundleIssue (s : State) (c : CoreId) : Host.Outcome State Fault Refusal :=
  let x := coreOf s c
  if 0x20000 ≤ x.pc.toNat then .next (planFault s c fcFetch 0)
  else
    let b := bundleOf (s.rdLE (itcmBase c.val + x.pc.toNat / 32 * 32) 32)
    if tileStalls x b then .next (passCycles s c (some cStlDep))
    else
      match bundleFault s c x b with
      | some (code, det) => .next (planFault s c code det)
      | none =>
        match accChecks c (bundleAccesses x b) s with
        | .fault code det t => .next (planFault t c code det)
        | .wait t => .next (passCycles t c (some cStlDep))
        | .ok t =>
          let (desc, t) := sparGetAll c ((tmDescAccess x b.tm).map fun e => e.2) t
          let data := tmStoreData x b.tm desc
          if tmIsStore b.tm && !data.1.isEmpty then
            match accCheck t c true (x.a.get (tmAa b.tm)).toNat data.1.length with
            | .fault code det u => .next (planFault u c code det)
            | .wait u => .next u
            | .ok u => .next (bundleDo u c b data)
          else .next (bundleDo t c b data)

/-- BUNDLE_ISSUE: a running core that does not wait, and is not stopped by a recall, issues its next bundle. -/
def execBundleIssue (c : CoreId) (s : State) : Host.Outcome State Fault Refusal :=
  let x := coreOf s c
  if sparRuns s c && !x.waiting && !x.closing && (x.recallTo.isNone || decide (0 < x.rptLeft)) then bundleIssue s c
  else .next s

/-- WAITPH_RESUME: the awaited event has arrived and the issue clock runs again (R69, R202). -/
def execWaitphResume (c : CoreId) (s : State) : Host.Outcome State Fault Refusal :=
  match (coreOf s c).wait with
  | .ph n iw _ =>
    if sparRuns s c && (coreOf s c).pend.getLsbD n.val then
      .next (passCycles (coreMod s c fun x => waitphPass x n iw) c (some cStlPh))
    else .next s
  | _ => .next s

/-- An interrupt is taken at once: nothing defers it, TILE neither (R196). -/
def irqMayEnter (x : SparCore) : Bool := irqTakes x && !x.tile.active

/-- The lowest-numbered line that is pending and enabled. -/
def irqLine (x : SparCore) : Nat := ((List.range 5).find? fun i => (x.irq &&& x.ie).getLsbD i).getD 0

/-- Entry to the handler (R194, R195). -/
def irqEnter (x : SparCore) : SparCore :=
  let n := irqLine x
  let y := shadowSwap x
  { y with
    gie := false, inHandler := true, wait := .none, epc := BitVec.ofNat 64 x.pc.toNat,
    estat := BitVec.ofNat 32 (n + 8 * b2n x.irqRpt + 16 * b2n x.tile.susp),
    irq := x.irq &&& ~~~(1#5 <<< n), irqRpt := false,
    pc := BitVec.ofNat 32 (min 0xFFFFFFE0 ((x.ivec.toNat + 32 * n) / 32 * 32)) }

/-- SPAR_INTERRUPT. -/
def execSparInterrupt (c : CoreId) (s : State) : Host.Outcome State Fault Refusal :=
  if sparRuns s c && irqMayEnter (coreOf s c) then
    .next (passCycles (coreMod s c fun x => (irqEnter x).bump cIrq 1) c none)
  else .next s

end Sys2Proof.Machine
end

