-- ==== Sys2Proof/Machine/Tap.lean ====
section
/-!
DEFINITION. The TAP's instructions (R554; IEEE 1149.1). It runs on TCK, in every state of the device.
-/

namespace Sys2Proof.Machine

/-- IDCODE: version 2, part 0x4A16, manufacturer 0x528 (R554). -/
def tapId : W32 := 0x24A16A51

/-- TAP_BYPASS: a bit of TDI enters the bypass register, and the bit that was there leaves on TDO. -/
def execTapBypass (tdi : Bool) (s : State) : Host.Outcome State Fault Refusal :=
  .next (emit { s with dev.tapIr := .bypass, dev.tapBypassBit := tdi } (.tdo [s.dev.tapBypassBit]))

/-- TAP_IDCODE: its 32 bits leave least significant first. -/
def execTapIdcode (s : State) : Host.Outcome State Fault Refusal :=
  .next (emit { s with dev.tapIr := .idcode } (.tdo ((List.range 32).map fun i => tapId.getLsbD i)))

/-- Levels of the boundary cells; their number and order stand in no chapter, so each is free (log 106). -/
def sampledCells (s : State) (n : Nat) : List Bool :=
  (List.range n).map fun i => Config.freeValue .unspecified (s.free + i) % 2 == 1

/-- TAP_SAMPLE_PRELOAD: the cells' levels leave while the values to be driven enter the boundary register. -/
def execTapSamplePreload (boundary : List Bool) (s : State) : Host.Outcome State Fault Refusal :=
  .next (emit { s with dev.tapIr := .samplePreload, dev.tapBoundary := boundary, free := s.free + boundary.length }
    (.tdo (sampledCells s boundary.length)))

/-- TAP_EXTEST: the boundary register drives the balls, and the levels at the cells leave; which cell is which
ball is open (log 106). -/
def execTapExtest (s : State) : Host.Outcome State Fault Refusal :=
  let n := s.dev.tapBoundary.length
  .next (emit { s with dev.tapIr := .extest, free := s.free + n } (.tdo (sampledCells s n)))

end Sys2Proof.Machine
end

