-- ==== Sys2Proof/Machine/Dispatch.lean ====
section
/-!
DEFINITION. One arm per command: each is one call of its meaning.
-/

namespace Sys2Proof.Machine

open Sys2Proof

def exec (i : Instr) (s : State) : Host.Outcome State Fault Refusal :=
  match i with
  | .por vddAonMv vddOtpMv vddioAMv vddioBMv => Sys2Proof.Machine.execPor vddAonMv vddOtpMv vddioAMv vddioBMv s
  | .pinReset lowNs => Sys2Proof.Machine.execPinReset lowNs s
  | .resetNRelease mode nodeId fabId testEn => Sys2Proof.Machine.execResetNRelease mode nodeId fabId testEn s
  | .mwdt => Sys2Proof.Machine.execMwdt s
  | .wdtKick => Sys2Proof.Machine.execWdtKick s
  | .refclkLoss => Sys2Proof.Machine.execRefclkLoss s
  | .bootRom => Sys2Proof.Machine.execBootRom s
  | .mgcBoot => Sys2Proof.Machine.execMgcBoot s
  | .nodeBoot => Sys2Proof.Machine.execNodeBoot s
  | .cprRequest by_ => Sys2Proof.Machine.execCprRequest by_ s
  | .dprRequest by_ => Sys2Proof.Machine.execDprRequest by_ s
  | .cprDprRequest by_ => Sys2Proof.Machine.execCprDprRequest by_ s
  | .cprRelease => Sys2Proof.Machine.execCprRelease s
  | .dprEnd => Sys2Proof.Machine.execDprEnd s
  | .c2mWrite v => Sys2Proof.Machine.execC2mWrite v s
  | .m2cReadIndexWrite v => Sys2Proof.Machine.execM2cReadIndexWrite v s
  | .dictRsp => Sys2Proof.Machine.execDictRsp s
  | .imageUpdate => Sys2Proof.Machine.execImageUpdate s
  | .appReg => Sys2Proof.Machine.execAppReg s
  | .appUnreg => Sys2Proof.Machine.execAppUnreg s
  | .actReq => Sys2Proof.Machine.execActReq s
  | .actStationApply => Sys2Proof.Machine.execActStationApply s
  | .actRsp => Sys2Proof.Machine.execActRsp s
  | .reefReq => Sys2Proof.Machine.execReefReq s
  | .reefRsp d => Sys2Proof.Machine.execReefRsp d s
  | .emcyReq => Sys2Proof.Machine.execEmcyReq s
  | .ctlFault => Sys2Proof.Machine.execCtlFault s
  | .clbPostWrite q by_ v => Sys2Proof.Machine.execClbPostWrite q by_ v s
  | .clbReadWrite q by_ v => Sys2Proof.Machine.execClbReadWrite q by_ v s
  | .clbCfgWrite q by_ v => Sys2Proof.Machine.execClbCfgWrite q by_ v s
  | .hostPost q job => Sys2Proof.Machine.execHostPost q job s
  | .faultReport unit cls code detail => Sys2Proof.Machine.execFaultReport unit cls code detail s
  | .fence unit code => Sys2Proof.Machine.execFence unit code s
  | .fenceTakesEffect unit => Sys2Proof.Machine.execFenceTakesEffect unit s
  | .clcLostClear ses v => Sys2Proof.Machine.execClcLostClear ses v s
  | .phaseBusRecord => Sys2Proof.Machine.execPhaseBusRecord s
  | .quadEdge src a b samples => Sys2Proof.Machine.execQuadEdge src a b samples s
  | .indexPulse src samples => Sys2Proof.Machine.execIndexPulse src samples s
  | .indexMissing src => Sys2Proof.Machine.execIndexMissing src s
  | .ssiWord w => Sys2Proof.Machine.execSsiWord w s
  | .mainsFrame a b c => Sys2Proof.Machine.execMainsFrame a b c s
  | .mainsZcEdge samples period => Sys2Proof.Machine.execMainsZcEdge samples period s
  | .mainsLockLoss => Sys2Proof.Machine.execMainsLockLoss s
  | .sourceStall src => Sys2Proof.Machine.execSourceStall src s
  | .ntSyncExpiry => Sys2Proof.Machine.execNtSyncExpiry s
  | .slotFire n => Sys2Proof.Machine.execSlotFire n s
  | .phaseOutPulseEnd n => Sys2Proof.Machine.execPhaseOutPulseEnd n s
  | .slotFallback n => Sys2Proof.Machine.execSlotFallback n s
  | .slotArm n by_ cfg => Sys2Proof.Machine.execSlotArm n by_ cfg s
  | .slotTargetCommit n inc hi => Sys2Proof.Machine.execSlotTargetCommit n inc hi s
  | .phaseEventArrive c n => Sys2Proof.Machine.execPhaseEventArrive c n s
  | .phtRdyWrite v => Sys2Proof.Machine.execPhtRdyWrite v s
  | .deadlinePhaseCross tag => Sys2Proof.Machine.execDeadlinePhaseCross tag s
  | .deadlineExpire tag => Sys2Proof.Machine.execDeadlineExpire tag s
  | .nmtStart node => Sys2Proof.Machine.execNmtStart node s
  | .nmtStop node => Sys2Proof.Machine.execNmtStop node s
  | .nmtEnterPreOperational node => Sys2Proof.Machine.execNmtEnterPreOperational node s
  | .nmtResetCommunication node => Sys2Proof.Machine.execNmtResetCommunication node s
  | .nmtResetNode node => Sys2Proof.Machine.execNmtResetNode node s
  | .loginChallenge ses => Sys2Proof.Machine.execLoginChallenge ses s
  | .loginResponse ses rsp => Sys2Proof.Machine.execLoginResponse ses rsp s
  | .loginLockoutEnd port => Sys2Proof.Machine.execLoginLockoutEnd port s
  | .challengeExpire ses => Sys2Proof.Machine.execChallengeExpire ses s
  | .sessionLogout ses v => Sys2Proof.Machine.execSessionLogout ses v s
  | .sessionIdleTimeout ses => Sys2Proof.Machine.execSessionIdleTimeout ses s
  | .sdoRequest port dst client index sub op => Sys2Proof.Machine.execSdoRequest port dst client index sub op s
  | .sdoSegment port client toggle data => Sys2Proof.Machine.execSdoSegment port client toggle data s
  | .sdoSegmentTimeout port => Sys2Proof.Machine.execSdoSegmentTimeout port s
  | .dictReqTimeout tag => Sys2Proof.Machine.execDictReqTimeout tag s
  | .rpdoReceive port canId data => Sys2Proof.Machine.execRpdoReceive port canId data s
  | .syncReceive port canId counter => Sys2Proof.Machine.execSyncReceive port canId counter s
  | .tpdoEventTimer n => Sys2Proof.Machine.execTpdoEventTimer n s
  | .tpdoInhibitEnd n => Sys2Proof.Machine.execTpdoInhibitEnd n s
  | .heartbeatProduce => Sys2Proof.Machine.execHeartbeatProduce s
  | .heartbeatReceive port node state => Sys2Proof.Machine.execHeartbeatReceive port node state s
  | .heartbeatConsumerTimeout entry => Sys2Proof.Machine.execHeartbeatConsumerTimeout entry s
  | .canBusOff port => Sys2Proof.Machine.execCanBusOff port s
  | .canErrorPassive port => Sys2Proof.Machine.execCanErrorPassive port s
  | .canRxOverrun port => Sys2Proof.Machine.execCanRxOverrun port s
  | .timeReceive port canId value => Sys2Proof.Machine.execTimeReceive port canId value s
  | .emcySend => Sys2Proof.Machine.execEmcySend s
  | .pollDue entry => Sys2Proof.Machine.execPollDue entry s
  | .pollResponse port a => Sys2Proof.Machine.execPollResponse port a s
  | .pollTimeout port => Sys2Proof.Machine.execPollTimeout port s
  | .hmbDoorbell v => Sys2Proof.Machine.execHmbDoorbell v s
  | .hmbResponse => Sys2Proof.Machine.execHmbResponse s
  | .routeEnvelope ses chip data => Sys2Proof.Machine.execRouteEnvelope ses chip data s
  | .routeAnswer r a => Sys2Proof.Machine.execRouteAnswer r a s
  | .routeTimeout r => Sys2Proof.Machine.execRouteTimeout r s
  | .ingressRecord e rec_ => Sys2Proof.Machine.execIngressRecord e rec_ s
  | .sframeFragment e => Sys2Proof.Machine.execSframeFragment e s
  | .rtpPacket e => Sys2Proof.Machine.execRtpPacket e s
  | .assemblyTimeout ctx => Sys2Proof.Machine.execAssemblyTimeout ctx s
  | .csiFrameStart rx p => Sys2Proof.Machine.execCsiFrameStart rx p s
  | .csiPacket rx p => Sys2Proof.Machine.execCsiPacket rx p s
  | .csiFrameEnd rx p => Sys2Proof.Machine.execCsiFrameEnd rx p s
  | .twPollDue ctx => Sys2Proof.Machine.execTwPollDue ctx s
  | .twPollDone ctx => Sys2Proof.Machine.execTwPollDone ctx s
  | .capAcq by_ ctx => Sys2Proof.Machine.execCapAcq by_ ctx s
  | .capPush by_ rec_ => Sys2Proof.Machine.execCapPush by_ rec_ s
  | .hostSlotTimeout ctx slot => Sys2Proof.Machine.execHostSlotTimeout ctx slot s
  | .capRel v => Sys2Proof.Machine.execCapRel v s
  | .capRoiCommit ctx hi => Sys2Proof.Machine.execCapRoiCommit ctx hi s
  | .contextWrite ctx field v => Sys2Proof.Machine.execContextWrite ctx field v s
  | .jpegDecodeStart j => Sys2Proof.Machine.execJpegDecodeStart j s
  | .jpegRowDecoded j => Sys2Proof.Machine.execJpegRowDecoded j s
  | .jpegDecodeEnd j => Sys2Proof.Machine.execJpegDecodeEnd j s
  | .alignWindowClose g waited => Sys2Proof.Machine.execAlignWindowClose g waited s
  | .alignSetOffer g => Sys2Proof.Machine.execAlignSetOffer g s
  | .sourceLossTimeout ctx => Sys2Proof.Machine.execSourceLossTimeout ctx s
  | .bundleIssue c => Sys2Proof.Machine.execBundleIssue c s
  | .waitphResume c => Sys2Proof.Machine.execWaitphResume c s
  | .sparInterrupt c => Sys2Proof.Machine.execSparInterrupt c s
  | .tileSuspend c rows => Sys2Proof.Machine.execTileSuspend c rows s
  | .tileComplete c => Sys2Proof.Machine.execTileComplete c s
  | .sparWatchdog c => Sys2Proof.Machine.execSparWatchdog c s
  | .tcmError c e => Sys2Proof.Machine.execTcmError c e s
  | .spCntclr c v => Sys2Proof.Machine.execSpCntclr c v s
  | .eeDescriptor => Sys2Proof.Machine.execEeDescriptor s
  | .eeDescriptorEnd => Sys2Proof.Machine.execEeDescriptorEnd s
  | .eeError mac => Sys2Proof.Machine.execEeError mac s
  | .planLoad p v => Sys2Proof.Machine.execPlanLoad p v s
  | .planCoreLoad c => Sys2Proof.Machine.execPlanCoreLoad c s
  | .jobTake => Sys2Proof.Machine.execJobTake s
  | .courseDispatch => Sys2Proof.Machine.execCourseDispatch s
  | .courseStealLocal => Sys2Proof.Machine.execCourseStealLocal s
  | .prefetchCancelDone c => Sys2Proof.Machine.execPrefetchCancelDone c s
  | .haloWaitExpiry c => Sys2Proof.Machine.execHaloWaitExpiry c s
  | .courseCommit c => Sys2Proof.Machine.execCourseCommit c s
  | .commitCopyDone => Sys2Proof.Machine.execCommitCopyDone s
  | .jobComplete tag => Sys2Proof.Machine.execJobComplete tag s
  | .courseRecall c => Sys2Proof.Machine.execCourseRecall c s
  | .remoteStealRequest => Sys2Proof.Machine.execRemoteStealRequest s
  | .steal thief core hashes => Sys2Proof.Machine.execSteal thief core hashes s
  | .stealresp peer course => Sys2Proof.Machine.execStealresp peer course s
  | .remotePullDone ok tag group course => Sys2Proof.Machine.execRemotePullDone ok tag group course s
  | .trimLoad via => Sys2Proof.Machine.execTrimLoad via s
  | .trimLoadDone => Sys2Proof.Machine.execTrimLoadDone s
  | .trimRun via => Sys2Proof.Machine.execTrimRun via s
  | .trimReplay via => Sys2Proof.Machine.execTrimReplay via s
  | .trimAbort via => Sys2Proof.Machine.execTrimAbort via s
  | .trimStatus h => Sys2Proof.Machine.execTrimStatus h s
  | .trimEnergy h => Sys2Proof.Machine.execTrimEnergy h s
  | .trimRdreg h => Sys2Proof.Machine.execTrimRdreg h s
  | .trimWrreg h => Sys2Proof.Machine.execTrimWrreg h s
  | .trimSweepStart => Sys2Proof.Machine.execTrimSweepStart s
  | .trimGroupStep => Sys2Proof.Machine.execTrimGroupStep s
  | .trimSweepEnd => Sys2Proof.Machine.execTrimSweepEnd s
  | .trimx peer rec_ => Sys2Proof.Machine.execTrimx peer rec_ s
  | .trimPeerTimeout => Sys2Proof.Machine.execTrimPeerTimeout s
  | .trimFinal => Sys2Proof.Machine.execTrimFinal s
  | .trimRunEnd => Sys2Proof.Machine.execTrimRunEnd s
  | .trimReclaimStop => Sys2Proof.Machine.execTrimReclaimStop s
  | .trimUncorrectable => Sys2Proof.Machine.execTrimUncorrectable s
  | .pairIssue h => Sys2Proof.Machine.execPairIssue h s
  | .mastLoad h => Sys2Proof.Machine.execMastLoad h s
  | .mastStore h => Sys2Proof.Machine.execMastStore h s
  | .storeBufferDrain h => Sys2Proof.Machine.execStoreBufferDrain h s
  | .storeError h => Sys2Proof.Machine.execStoreError h s
  | .integerOp h => Sys2Proof.Machine.execIntegerOp h s
  | .mulDivOp h => Sys2Proof.Machine.execMulDivOp h s
  | .fpOp h => Sys2Proof.Machine.execFpOp h s
  | .branch h => Sys2Proof.Machine.execBranch h s
  | .jal h => Sys2Proof.Machine.execJal h s
  | .jalr h => Sys2Proof.Machine.execJalr h s
  | .lr h => Sys2Proof.Machine.execLr h s
  | .sc h => Sys2Proof.Machine.execSc h s
  | .tasB h => Sys2Proof.Machine.execTasB h s
  | .reservationExpire h => Sys2Proof.Machine.execReservationExpire h s
  | .cwswp h => Sys2Proof.Machine.execCwswp h s
  | .cwset h => Sys2Proof.Machine.execCwset h s
  | .cwclr h => Sys2Proof.Machine.execCwclr h s
  | .cwswpi h => Sys2Proof.Machine.execCwswpi h s
  | .cwseti h => Sys2Proof.Machine.execCwseti h s
  | .cwclri h => Sys2Proof.Machine.execCwclri h s
  | .sysreq h => Sys2Proof.Machine.execSysreq h s
  | .dbrk h => Sys2Proof.Machine.execDbrk h s
  | .rets h => Sys2Proof.Machine.execRets h s
  | .waiti h => Sys2Proof.Machine.execWaiti h s
  | .retm h => Sys2Proof.Machine.execRetm h s
  | .mastFence h => Sys2Proof.Machine.execMastFence h s
  | .ifence h => Sys2Proof.Machine.execIfence h s
  | .dclCln h => Sys2Proof.Machine.execDclCln h s
  | .dclInv h => Sys2Proof.Machine.execDclInv h s
  | .dclFls h => Sys2Proof.Machine.execDclFls h s
  | .dclZro h => Sys2Proof.Machine.execDclZro h s
  | .iclInv h => Sys2Proof.Machine.execIclInv h s
  | .qld h => Sys2Proof.Machine.execQld h s
  | .qst h => Sys2Proof.Machine.execQst h s
  | .qOp h => Sys2Proof.Machine.execQOp h s
  | .cp0Post h => Sys2Proof.Machine.execCp0Post h s
  | .cp0Qstat h => Sys2Proof.Machine.execCp0Qstat h s
  | .cp0Doorbell h => Sys2Proof.Machine.execCp0Doorbell h s
  | .cp2Rdreg h => Sys2Proof.Machine.execCp2Rdreg h s
  | .cp2Wrreg h => Sys2Proof.Machine.execCp2Wrreg h s
  | .cp2Ntstep h => Sys2Proof.Machine.execCp2Ntstep h s
  | .cp2Rdnow h => Sys2Proof.Machine.execCp2Rdnow h s
  | .cpx h => Sys2Proof.Machine.execCpx h s
  | .cpxresp tag a => Sys2Proof.Machine.execCpxresp tag a s
  | .mastTrap h => Sys2Proof.Machine.execMastTrap h s
  | .mastInterrupt h => Sys2Proof.Machine.execMastInterrupt h s
  | .mcIpi v => Sys2Proof.Machine.execMcIpi v s
  | .mcHartctlRun1 v => Sys2Proof.Machine.execMcHartctlRun1 v s
  | .cleanAll v => Sys2Proof.Machine.execCleanAll v s
  | .flushAll v => Sys2Proof.Machine.execFlushAll v s
  | .cmoDone => Sys2Proof.Machine.execCmoDone s
  | .mastCacheEcc h line l2 k => Sys2Proof.Machine.execMastCacheEcc h line l2 k s
  | .ddrInit v => Sys2Proof.Machine.execDdrInit v s
  | .ddrReady => Sys2Proof.Machine.execDdrReady s
  | .dramScrub line k => Sys2Proof.Machine.execDramScrub line k s
  | .dramRefresh channel tooHot => Sys2Proof.Machine.execDramRefresh channel tooHot s
  | .dramSelfRefreshExit => Sys2Proof.Machine.execDramSelfRefreshExit s
  | .hostBar4Access offset write n => Sys2Proof.Machine.execHostBar4Access offset write n s
  | .pcieMsixRaise v => Sys2Proof.Machine.execPcieMsixRaise v s
  | .msixUnmask vec => Sys2Proof.Machine.execMsixUnmask vec s
  | .pciePerst level => Sys2Proof.Machine.execPciePerst level s
  | .portDetect p detected => Sys2Proof.Machine.execPortDetect p detected s
  | .portEqDone p => Sys2Proof.Machine.execPortEqDone p s
  | .portAlign p locked => Sys2Proof.Machine.execPortAlign p locked s
  | .portConfig p partner => Sys2Proof.Machine.execPortConfig p partner s
  | .portRetrain p => Sys2Proof.Machine.execPortRetrain p s
  | .portRetrainDone p => Sys2Proof.Machine.execPortRetrainDone p s
  | .portDown p => Sys2Proof.Machine.execPortDown p s
  | .portDownEnd p => Sys2Proof.Machine.execPortDownEnd p s
  | .flitReceive p flit => Sys2Proof.Machine.execFlitReceive p flit s
  | .nakReceive p flit => Sys2Proof.Machine.execNakReceive p flit s
  | .replayTimeout p => Sys2Proof.Machine.execReplayTimeout p s
  | .remoteResponseTimeout tag => Sys2Proof.Machine.execRemoteResponseTimeout tag s
  | .homeReservationExpire chip hart => Sys2Proof.Machine.execHomeReservationExpire chip hart s
  | .fabricGo v => Sys2Proof.Machine.execFabricGo v s
  | .hello r => Sys2Proof.Machine.execHello r s
  | .fabricElection => Sys2Proof.Machine.execFabricElection s
  | .fabricHeartbeat => Sys2Proof.Machine.execFabricHeartbeat s
  | .chipLossTimeout c => Sys2Proof.Machine.execChipLossTimeout c s
  | .lost c => Sys2Proof.Machine.execLost c s
  | .headHeartbeatTimeout => Sys2Proof.Machine.execHeadHeartbeatTimeout s
  | .join r => Sys2Proof.Machine.execJoin r s
  | .mgmt r => Sys2Proof.Machine.execMgmt r s
  | .twCommand n v => Sys2Proof.Machine.execTwCommand n v s
  | .twTransferObject ses n data => Sys2Proof.Machine.execTwTransferObject ses n data s
  | .twTransferStart n => Sys2Proof.Machine.execTwTransferStart n s
  | .twTransferEnd n e => Sys2Proof.Machine.execTwTransferEnd n e s
  | .twArbLost n byte bit addrByte => Sys2Proof.Machine.execTwArbLost n byte bit addrByte s
  | .twArbRetry n => Sys2Proof.Machine.execTwArbRetry n s
  | .twTargetAddress n addrByte => Sys2Proof.Machine.execTwTargetAddress n addrByte s
  | .twTargetWriteByte n b => Sys2Proof.Machine.execTwTargetWriteByte n b s
  | .twTargetReadByte n ack => Sys2Proof.Machine.execTwTargetReadByte n ack s
  | .twStop n restart => Sys2Proof.Machine.execTwStop n restart s
  | .twWindowInternalWrite n offset data => Sys2Proof.Machine.execTwWindowInternalWrite n offset data s
  | .twBusFree n => Sys2Proof.Machine.execTwBusFree n s
  | .twEnableWrite n v => Sys2Proof.Machine.execTwEnableWrite n v s
  | .twDoze n => Sys2Proof.Machine.execTwDoze n s
  | .twDozeWake n addrByte => Sys2Proof.Machine.execTwDozeWake n addrByte s
  | .twSleep n => Sys2Proof.Machine.execTwSleep n s
  | .twSleepWake n addrByte => Sys2Proof.Machine.execTwSleepWake n addrByte s
  | .twBusTimeout n => Sys2Proof.Machine.execTwBusTimeout n s
  | .twSclFault n => Sys2Proof.Machine.execTwSclFault n s
  | .twRecovery n freed => Sys2Proof.Machine.execTwRecovery n freed s
  | .twReenable ses n v => Sys2Proof.Machine.execTwReenable ses n v s
  | .twSdaLow n => Sys2Proof.Machine.execTwSdaLow n s
  | .twSdaRise n => Sys2Proof.Machine.execTwSdaRise n s
  | .autoDemandRaise d => Sys2Proof.Machine.execAutoDemandRaise d s
  | .autoDemandDrop d => Sys2Proof.Machine.execAutoDemandDrop d s
  | .reefGrant => Sys2Proof.Machine.execReefGrant s
  | .reefDomainReady d => Sys2Proof.Machine.execReefDomainReady d s
  | .reefGrantTimeout d => Sys2Proof.Machine.execReefGrantTimeout d s
  | .reefReclaimAck d => Sys2Proof.Machine.execReefReclaimAck d s
  | .reefTransitReturn => Sys2Proof.Machine.execReefTransitReturn s
  | .reefReclaimTimeout d => Sys2Proof.Machine.execReefReclaimTimeout d s
  | .reefBudgetWrite ses v => Sys2Proof.Machine.execReefBudgetWrite ses v s
  | .thermalSample temps => Sys2Proof.Machine.execThermalSample temps s
  | .otpStage ses data => Sys2Proof.Machine.execOtpStage ses data s
  | .otpProgram ses v => Sys2Proof.Machine.execOtpProgram ses v s
  | .otpProgramEnd failedCell => Sys2Proof.Machine.execOtpProgramEnd failedCell s
  | .otpKeyProgram ses data => Sys2Proof.Machine.execOtpKeyProgram ses data s
  | .mastDebugLock ses v => Sys2Proof.Machine.execMastDebugLock ses v s
  | .mastSvnWrite ses v => Sys2Proof.Machine.execMastSvnWrite ses v s
  | .flashOffset ses v => Sys2Proof.Machine.execFlashOffset ses v s
  | .flashProgram ses data => Sys2Proof.Machine.execFlashProgram ses data s
  | .flashErase ses v => Sys2Proof.Machine.execFlashErase ses v s
  | .dapWindowWrite ses data => Sys2Proof.Machine.execDapWindowWrite ses data s
  | .dapAccess op => Sys2Proof.Machine.execDapAccess op s
  | .tapBypass tdi => Sys2Proof.Machine.execTapBypass tdi s
  | .tapIdcode => Sys2Proof.Machine.execTapIdcode s
  | .tapSamplePreload boundary => Sys2Proof.Machine.execTapSamplePreload boundary s
  | .tapExtest => Sys2Proof.Machine.execTapExtest s
  | .pertActivate ses k data => Sys2Proof.Machine.execPertActivate ses k data s
  | .pertDisable ses k data => Sys2Proof.Machine.execPertDisable ses k data s
  | .pertExpire k => Sys2Proof.Machine.execPertExpire k s
  | .ioEdge pin level => Sys2Proof.Machine.execIoEdge pin level s
  | .registerWrite by_ addr v => Sys2Proof.Machine.execRegisterWrite by_ addr v s
  | .twStartDetected n => Sys2Proof.Machine.execTwStartDetected n s
  | .busOffRecovery port => Sys2Proof.Machine.execBusOffRecovery port s
  | .flashUpdateDone verifyOk => Sys2Proof.Machine.execFlashUpdateDone verifyOk s
  | .otpKeyProgramEnd verifyOk => Sys2Proof.Machine.execOtpKeyProgramEnd verifyOk s
  | .resetReq => Sys2Proof.Machine.execResetReq s

end Sys2Proof.Machine
end

