-- ==== Sys2Proof/Machine/Idle.lean ====
section
/-!
DEFINITION. What the clock does while no command waits (log 4).
-/

namespace Sys2Proof.Machine

/-- MGC firmware has taken every Cleat C report, so the FIFO's entries are free, and the arbiter applies a budget
or derating change (R29, R471). -/
def idleTick (s : State) : State :=
  if mgcUp s then arbApply { s with cleatC.fifo := [] } else s

end Sys2Proof.Machine
end

