-- ==== Sys2Proof/Safety.lean ====
section
/-!
DEFINITION. What claims call a safe run: the outcomes, the frames and the invariants that the obligations name.
-/

namespace Sys2Proof.Machine

/-- The command answers a next state, of which P holds. -/
def Gives (c : Instr) (s : State) (P : State → Prop) : Prop := ∃ t, exec c s = .next t ∧ P t

/-- Memory is in its one canonical form: keys rising, nothing listed that reads as an unlisted address does. -/
def State.memWf (s : State) : Bool := Tbl.wf memDflt s.mem

/-- The tables of contexts and of alignment sets are in their canonical form. -/
def State.capWf (s : State) : Bool := Tbl.wf (fun _ => Ctx.reset) s.cap.ctxs && Tbl.wf (fun _ => 0) s.cap.lastSet

/-- Units of Reef: free, granted and in transit make the effective budget (R472, R537). -/
def State.reefBalanced (s : State) : Prop :=
  s.reef.free + (granted s : Int) + s.reef.transit = (s.reef.eff : Int)

/-! ## Accesses to the dictionary -/

/-- The CAN frames that have left, oldest first: port, CAN-ID and data. -/
def State.canOut (s : State) : List (CanPort × Nat × Bytes) :=
  s.out.filterMap fun o => match o with
    | .can p cob d => some (p, cob, d)
    | _ => none

/-- Session w may begin an access: it is served, has or gets a session, and its way is free (R94, R98, R126). -/
def State.mayAsk (s : State) (w : Session) : Prop :=
  mgcUp s = true ∧ sessServed s w = true ∧ (openSess s.node w).isSome = true ∧ accessFree s w = true

/-- The state in which session w's access to an object stands open. -/
def State.asked (s : State) (w : Session) (index sub : Nat) : State :=
  opened { s with node := (openSess s.node w).getD s.node } w index sub

/-- The state in which session w's access to an object has had answer a, and nothing else is done. -/
def State.told (s : State) (w : Session) (index sub : Nat) (a : Answer) : State :=
  answerSess (s.asked w index sub) w index sub a

/-- t is s but for sessions, their transfers and mailbox, who asked for what still waits, the host lane, and what has
left. -/
def State.sameObjects (s t : State) : Prop :=
  t = { s with
    node := { s.node with sessions := t.node.sessions, chans := t.node.chans, hmb := t.node.hmb,
                          reqs := t.node.reqs, routed := t.node.routed },
    cleatA := { s.cleatA with hostRsp := t.cleatA.hostRsp }, tw := t.tw, out := t.out }

/-- Session w waits for the answer to an access of its own. -/
def State.awaits (s : State) (w : Session) : Prop :=
  sessServed s w = true ∧ match w with
    | .can p c => ∃ x : Xfer, s.node.chans.get p = some x ∧ x.of c = true ∧ x.seg = false
    | .host => s.node.hmb.busy = true

/-- What an answer does: a CAN client's frame leaves and its transfer closes; the host's record enters the host
lane, which holds 8. -/
def State.answeredTo (s t : State) (w : Session) (index sub : Nat) (a : Answer) : Prop :=
  match w with
  | .can p _ => t.out = s.out ++ [.dict w a] ∧ t.node.chans.get p = none ∧ t.cleatA = s.cleatA
  | .host => t.out = s.out ∧ t.node.hmb.busy = true ∧
      t.cleatA.hostRsp = (if s.cleatA.hostRsp.length < 8 then s.cleatA.hostRsp ++ [hmbRecord index sub a]
        else s.cleatA.hostRsp)

/-! ## Words of the Mast harts -/

/-- The tables of the caches are canonical, and every line they hold has 64 bytes. -/
def State.cacheWf (s : State) : Bool :=
  Tbl.wf (fun _ => none) s.mast.cache && s.mast.cache.all fun e => match e.2 with
    | some c => c.data.length == 64
    | none => true

/-- Memory can take every dirty line back. -/
def State.cacheBacked (s : State) : Prop :=
  ∀ (ln : Nat) (c : CLine), lineGet s ln = some c → c.dirty = true → ramErr s (ln * 64) 64 = none

/-- What every step keeps: canonical tables, whole cache lines, and firmware only with Cleat D locked (R32, R33). -/
def State.sound (s : State) : Prop :=
  s.memWf = true ∧ s.capWf = true ∧ s.cacheWf = true ∧ (s.dev.phase = .running → s.cleatD.lock = true)

/-- The byte at a that the harts see: of a line that is held, else of memory. -/
def State.seen (s : State) (a : Nat) : Byte :=
  match lineGet s (a / 64) with
  | some c => byteAt c.data (a % 64)
  | none => memRead s.mem a

/-- Hart h issues the word w, of operation o; t is the state once it is fetched. -/
def HartIssues (s t : State) (h : HartId) (w : W32) (o : LuOp) : Prop :=
  hartUp s h = true ∧ hartStalled s h = false ∧ (hartOf s h).cpErr = none ∧ ∃ u, nextWord s h = .ok (w, some o) u ∧
    t = hartMod u h fun x => { x with waiti := false, fence := false }

/-- Hart h has gone from t to pc, counting its operations; its level and store buffer, the other hart and memory
stay; P holds of the hart. -/
def HartRan (t u : State) (h : HartId) (pc : W64) (ops : Nat) (P : Hart → Prop) : Prop :=
  let x := hartOf t h
  let y := hartOf u h
  y.pc = pc &&& ~~~3 ∧ y.cntOps = x.cntOps + BitVec.ofNat 64 ops ∧ y.sup = x.sup ∧ y.sb = x.sb ∧
  hartOf u (1 - h) = hartOf t (1 - h) ∧ u.mem = t.mem ∧ P y

/-- The command takes hart h from t to pc, and the caches stay. -/
def HartGoes (c : Instr) (s t : State) (h : HartId) (pc : W64) (ops : Nat) (P : Hart → Prop) : Prop :=
  Gives c s fun u => HartRan t u h pc ops P ∧ u.mast.cache = t.mast.cache

/-- The command takes hart h from t to pc; the caches stay unless a conditional branch may have been predicted
(R372). -/
def HartBranches (c : Instr) (s t : State) (h : HartId) (o : LuOp) (pc : W64) (ops : Nat) (P : Hart → Prop) : Prop :=
  Gives c s fun u => HartRan t u h pc ops P ∧ (o.notTaken (hartOf t h) = none → u.mast.cache = t.mast.cache)

/-- The command makes hart h of t take an exception: what R360 saves and where it goes; registers, the store
buffer, the other hart and memory stay. -/
def HartTraps (c : Instr) (s t : State) (h : HartId) (code detail info : Nat) (slotB : Bool) : Prop :=
  Gives c s fun u =>
    let x := hartOf t h
    let y := hartOf u h
    y.pc = x.vecBase ∧ y.epc = x.pc ∧ y.cause = causeOf code detail slotB false ∧ y.info = BitVec.ofNat 64 info ∧
    y.plv = x.sup ∧ y.pie = x.ie ∧ y.sup = true ∧ y.ie = false ∧ y.resv = none ∧
    y.x = x.x ∧ y.f = x.f ∧ y.q = x.q ∧ y.sb = x.sb ∧ hartOf u (1 - h) = hartOf t (1 - h) ∧ u.mem = t.mem

end Sys2Proof.Machine
end

