-- ==== Sys2Proof/Certificates/Slice0/Obligations.lean ====
section
/-!
DEFINITION. The statements for the provers.
-/

open Sys2Proof Sys2Proof.Machine

/-! ## Device resets and boot -/

/-- A low pulse on RESET_N below 100 ns is ignored. One of 1 µs or more is a PIN reset: it counts itself, notes itself as the last device reset, leaves the rest of the reset record as it was, and the device is in reset. From 100 ns to below 1 µs, which must not be applied, the model stops with the fault resetPulse. POR below 0.72 V on VDD_AON or 1.6 V on VDD_OTP clears the reset record and sets each bank's mode by its supply; above both, only the level of VDD_OTP is noted. The release of RESET_N captures the straps and TEST_EN, and goes to the boot ROM, or to boundary scan with TEST_EN. A service of the watchdog restarts its count; at 20,000,000 clk_aon cycles the watchdog resets the device, counts itself and goes to the boot ROM. The loss of REFCLK_25 stops the clocks, keeps FAULT_N's level and changes nothing else. -/
def Obligations.DeviceResetSources : Prop :=
 (∀ (n : Nat) (s : State),
    (n < 100 → exec (.pinReset n) s = .next s) ∧
    (100 ≤ n → n < 1000 → exec (.pinReset n) s = .fault .resetPulse) ∧
    (1000 ≤ n → Gives (.pinReset n) s fun t =>
      t.boot.lastDevice = 2 ∧ t.boot.pinCount = s.boot.pinCount + 1 ∧ t.boot.mwdtCount = s.boot.mwdtCount ∧
      t.boot.cprCount = s.boot.cprCount ∧ t.boot.dprCount = s.boot.dprCount ∧ t.boot.lastPlane = s.boot.lastPlane ∧
      t.dev.phase = .inReset)) ∧
 (∀ s : State,
    (∀ a o x y : Nat, a < 720 ∨ o < 1600 → Gives (.por a o x y) s fun t =>
      t.boot = Boot.reset ∧ t.dev.phase = .inReset ∧ t.dev.bankA33 = decide (2500 < x) ∧
      t.dev.bankB33 = decide (2500 < y)) ∧
    (∀ a o x y : Nat, 720 ≤ a → 1600 ≤ o → exec (.por a o x y) s = .next { s with dev.vddOtpMv := o }) ∧
    (∀ (m : BitVec 3) (n : BitVec 7) (f : BitVec 6) (e : Bool), s.dev.phase = .inReset →
      exec (.resetNRelease m n f e) s = .next { s with
        dev.strapMode := m, dev.strapNode := n, dev.strapFab := f, dev.testEn := e,
        dev.phase := if e then .boundaryScan else .rom }) ∧
    (phtUp s = true → exec .wdtKick s = .next { s with boot.wdCount := 0 }) ∧
    (phtUp s = true → 20000000 ≤ s.boot.wdCount → Gives .mwdt s fun t =>
      t.boot.lastDevice = 3 ∧ t.boot.mwdtCount = s.boot.mwdtCount + 1 ∧ t.boot.pinCount = s.boot.pinCount ∧
      t.dev.phase = .rom) ∧
    (s.dev.clocksStopped = false → exec .refclkLoss s = .next { s with
      dev.clocksStopped := true, dev.faultNHeld := !faultLow s }) ∧
    (s.dev.clocksStopped = false → Gives .refclkLoss s fun t => faultLow t = faultLow s))

/-- POR, a PIN reset and the management watchdog's reset put every element that Table 15-2 marks for them at its reset value: Cleats A to D, ACT, Reef, PERT, the PHT, the node, the health record, the harts and their caches, CSC, Spar cores, Trim, CAP and the fabric agent, and no byte of memory below flash reads other than 0 (what such a byte then reads is the model's choice, log 2) but for the journal of a Trim run that the reset strikes, whose bytes stay (the model's reading, log 182). They keep the queue of commands, what has left the block, PCIE_PERST_N, the OTP cells that are set, and the straps as last captured. -/
def Obligations.DeviceResetsClearAndKeep : Prop :=
  ∀ (s : State) (c : Instr),
    ((∃ a o x y : Nat, c = .por a o x y ∧ (a < 720 ∨ o < 1600)) ∨ (∃ n : Nat, c = .pinReset n ∧ 1000 ≤ n) ∨
      (c = .mwdt ∧ phtUp s = true ∧ 20000000 ≤ s.boot.wdCount)) →
    Gives c s fun t =>
      (t.cleatA = CleatA.reset ∧ t.cleatB = Vector.replicate 8 Queue.reset ∧ t.cleatC = CleatC.reset ∧
        t.cleatD = CleatD.reset ∧ t.act = Act.reset ∧ t.reef = Reef.reset ∧ t.pert = Pert.reset ∧
        t.pht = Pht.reset ∧ t.node = Node.reset ∧ t.health = Health.reset ∧ t.mast = Mast.reset ∧
        t.csc = Csc.reset ∧ t.spar = Vector.replicate 16 SparCore.reset ∧ t.trim = Trim.reset ∧
        t.cap = Cap.reset ∧ t.fab = Fab.reset) ∧
      (∀ a : Nat, a < flashBase → memRead t.mem a = if journalKept s a then memRead s.mem a else 0) ∧
      (t.pending = s.pending ∧ t.out = s.out ∧ t.dev.perstN = s.dev.perstN ∧
        t.dev.strapMode = s.dev.strapMode ∧ t.dev.strapNode = s.dev.strapNode ∧ t.dev.strapFab = s.dev.strapFab) ∧
      (∀ a i : Nat, (otpByte s.otp a).getLsbD i = true → (otpByte t.otp a).getLsbD i = true)

/-- The boot ROM stops, FAULT_N low, when the factory region's CRC fails or neither MGC image is acceptable. Otherwise the acceptable image with the higher VERSION, slot A on a tie, has its body in MGC SRAM from offset 0 and MGC firmware has started. The boot of MGC firmware takes the highest-numbered valid generation, and its node ID where it overrides the straps, else the straps' one; writes Cleat D with the node ID and its source in byte 0x16 and locks it; and grants PD11 and PD17 in RUN, class CONTROL, 40 units together. Each rail limit is the record's value in bits 9 to 0; 0, or a value above the default of 400, 160 and 48 units, gives the default. -/
def Obligations.BootAndSettings : Prop :=
 (∀ s : State, s.dev.phase = .rom → s.dev.clocksStopped = false → s.memWf = true →
    (factoryOk s.otp = false → exec .bootRom s = .next { s with dev.phase := .romStopped }) ∧
    (factoryOk s.otp = true → imageCheck s false 0 ≠ 0 → imageCheck s false 1 ≠ 0 →
      exec .bootRom s = .next { s with dev.phase := .romStopped }) ∧
    (faultLow { s with dev.phase := .romStopped } = true) ∧
    (∀ k : Fin 2, factoryOk s.otp = true → imageCheck s false k = 0 →
      (imageCheck s false (1 - k) = 0 → imageVersion s false (1 - k) < imageVersion s false k ∨
        (k = 0 ∧ imageVersion s false 1 = imageVersion s false 0)) →
      Gives .bootRom s fun t =>
        t.dev.phase = .mgcStarted ∧ t.boot.mgcSlot = k ∧
        t.rd mgmtBase (s.rdLE (flashBase + imageOff false k + 0x0C) 4)
          = s.rd (flashBase + imageOff false k + 0x100) (s.rdLE (flashBase + imageOff false k + 0x0C) 4))) ∧
 (∀ s : State, s.dev.phase = .mgcStarted → s.dev.clocksStopped = false → Gives .mgcBoot s fun t =>
    t.dev.phase = .running ∧ t.cleatD.lock = true ∧
    t.otp.inUse = [4, 3, 2, 1, 0].find? (slotValid s.otp) ∧
    t.node.nodeId = (match [4, 3, 2, 1, 0].find? (slotValid s.otp) with
      | some g =>
        let node := otpByte s.otp (slotBase g + 2)
        if node.getLsbD 7 then node.extractLsb' 0 7 else s.dev.strapNode
      | none => s.dev.strapNode) ∧
    t.cleatD.snapshot.length = 64 ∧
    t.cleatD.snapshot.getD 0x16 0
      = BitVec.ofNat 8 (t.node.nodeId.toNat + 128 * b2n t.node.nodeFromOtp) ∧
    (domOf t 11).state = .run ∧ (domOf t 11).cls = .control ∧ (domOf t 17).state = .run ∧
    (domOf t 17).cls = .control ∧ (domOf t 11).units + (domOf t 17).units = 40 ∧
    (∀ v : Nat × Nat × Nat, v ∈ [(4, 400, t.reef.railSp), (6, 160, t.reef.railSoc), (8, 48, t.reef.railShl)] →
      let f := fieldLE t.otp.record v.1 2 % 1024
      (f = 0 ∨ v.2.1 < f → v.2.2 = v.2.1) ∧ (0 < f → f ≤ v.2.1 → v.2.2 = f)))

/-! ## Planes and Cleats -/

/-- After the lock, out of fabric mode, a node in INITIALISATION starts: the objects it holds, its statistics, error history, poll entries, heartbeat consumers, slip log, budget and perturbation parameters are at their defaults; with a node ID it enters PRE-OPERATIONAL and the boot-up heartbeat on the network port is the one CAN frame it sends, none when that port is bus-off, while a node with ID 0 sends no CAN frame and stays in INITIALISATION. In any other state of NMT nothing changes. -/
def Obligations.NodeStartsAfterLock : Prop :=
  ∀ s : State, mgcUp s = true → s.cleatD.lock = true → fabricMode s = false →
    (s.node.nmt ≠ .initialisation → exec .nodeBoot s = .next s) ∧
    (s.node.nmt = .initialisation → Gives .nodeBoot s fun t =>
      (t.node.od = [] ∧ t.node.stats = Vector.replicate 6 0 ∧ t.node.history = [] ∧
        t.node.polls = Node.reset.polls ∧ t.node.consumers = Vector.replicate 8 false ∧ t.pht.slips = [] ∧
        t.reef.budget = 480 ∧ t.pert.params = Pert.reset.params) ∧
      t.node.nodeId = s.node.nodeId ∧
      (nodeSilent s.node = true → t.node.nmt = .initialisation ∧ t.canOut = s.canOut) ∧
      (nodeSilent s.node = false → t.node.nmt = .preOperational ∧
        t.canOut = s.canOut ++ (if s.node.busOff.get s.node.netPort then []
          else [(s.node.netPort, 0x700 + s.node.nodeId.toNat, [0])])))

/-- A write of 1, 2 or 3 to 0x2702 by a service session, or a RESET_REQ message of that target, begins the control-plane reset, the data-plane reset, or both. The control-plane reset holds the harts and PD17 in their reset state and leaves the job queues alone when it is asked for by itself; the data-plane reset fences every unit, turns PD0 to PD10, PD12 and PD13 OFF and puts DRAM into self-refresh. Each begun reset is counted, one in progress is joined and not counted again (the count of a joined one is the model's choice, log 116), and 0x2703:02 notes target and source. A control-plane reset ends, with no data-plane reset in progress, with the Mast image chosen: the control plane runs, hart MC0 at the image's ENTRY, the RESTART flag set; with no acceptable image, or no settings in force, it stays held in reset. A data-plane reset ends with no unit fenced, both fence masks clear and Spar cores, Eaves engine, Trim and CSC in their reset state. A RESET_REQ of a target other than 1, 2 and 3 is taken and answered with RESET_RSP status 1. -/
def Obligations.PlaneResets : Prop :=
 (∀ (s : State) (by_ : ResetBy),
    let asked := fun (v : Nat) => match by_ with
      | .object w => s.mayAsk w ∧ isService s.node w = true
      | .mailbox => (takeMsgIf s fun m => m.kind == 0x06 && (byteAt m.payload 0).toNat == v).isSome = true
    let source : Nat := match by_ with
      | .object _ => 1
      | .mailbox => 2
    let control := fun (t : State) =>
      (s.boot.cprActive = false → t.boot.cprActive = true ∧ t.boot.control = .reset ∧
        t.boot.cprCount = s.boot.cprCount + 1 ∧ t.mast = Mast.reset ∧ t.pcie = Pcie.reset) ∧
      (s.boot.cprActive = true → t.boot.cprActive = true ∧ t.boot.cprCount = s.boot.cprCount)
    let data := fun (t : State) =>
      (s.boot.dprActive = false → t.boot.dprActive = true ∧ t.boot.dprCount = s.boot.dprCount + 1 ∧
        t.cleatC.fenced = 0x3FFFFFF ∧ (∀ d : DomId, d.val ≤ 13 → d ≠ 11 → (domOf t d).state = .off) ∧
        ((domOf s 14).state = .run → (domOf t 14).state = .ret)) ∧
      (s.boot.dprActive = true → t.boot.dprActive = true ∧ t.boot.dprCount = s.boot.dprCount)
    (asked 1 → Gives (.cprRequest by_) s fun t => control t ∧ t.cleatB = s.cleatB ∧
      t.boot.dprCount = s.boot.dprCount ∧ t.boot.lastPlane = BitVec.ofNat 8 (1 + 4 * source)) ∧
    (asked 2 → Gives (.dprRequest by_) s fun t => data t ∧
      t.boot.cprCount = s.boot.cprCount ∧ t.boot.lastPlane = BitVec.ofNat 8 (2 + 4 * source)) ∧
    (asked 3 → Gives (.cprDprRequest by_) s fun t => control t ∧ data t ∧
      t.boot.lastPlane = BitVec.ofNat 8 (3 + 4 * source))) ∧
 (∀ s : State,
    (mgcUp s = true → s.boot.cprActive = true → s.boot.dprActive = false → Gives .cprRelease s fun t =>
      t.boot.cprActive = false ∧
      (∀ k : Fin 2, s.otp.noValid = false → chooseImage s true = some k →
        t.boot.control = .run ∧ t.boot.mastSlot = some k ∧ t.cleatA.restart = true ∧
        (t.mast.harts.get 0).pc = BitVec.ofNat 64 (s.rdLE (flashBase + imageOff true k + 0x10) 4)) ∧
      (s.otp.noValid = true ∨ chooseImage s true = none → t.boot.control = .reset ∧ t.boot.mastSlot = none)) ∧
    (mgcUp s = true → s.boot.dprActive = true → Gives .dprEnd s fun t =>
      t.boot.dprActive = false ∧ t.cleatC.lines = 0 ∧ t.cleatC.fenced = 0 ∧ t.health.coreMask = 0 ∧
      t.health.unitMask = 0 ∧ t.spar = Vector.replicate 16 SparCore.reset ∧ t.ee = Ee.reset ∧
      t.trim = Trim.reset ∧ t.csc = Csc.reset) ∧
    (∀ (m : Msg) (u : State),
      takeMsgIf s (fun m => m.kind == 0x06 && !(decide (1 ≤ (byteAt m.payload 0).toNat) &&
        decide ((byteAt m.payload 0).toNat ≤ 3))) = some (m, u) →
      exec .resetReq s = .next (m2cSend u { kind := 0x86, tag := m.tag, payload := [1] })))

/-- While the control plane runs, a write of the C2M producer index that would put more than 64 entries in the ring is ignored, sets FULL and counts; any other becomes the index, and messages of unlisted kinds at the head are dropped and counted. A write of the M2C consumer index that frees unread entries only becomes the index; one outside the unread entries is ignored (the model's choice, log 22). -/
def Obligations.CleatARingIndices : Prop :=
  ∀ (v : W32) (s : State), ctlUp s = true →
    let idx : BitVec 7 := v.extractLsb' 0 7
    (64 < ringUsed idx s.cleatA.c2mRd → exec (.c2mWrite v) s = .next { s with
      cleatA.c2mFull := true, cleatA.fullEvents := s.cleatA.fullEvents + 1 }) ∧
    (ringUsed idx s.cleatA.c2mRd ≤ 64 → Gives (.c2mWrite v) s fun t =>
      t.cleatA.c2mWr = idx ∧ t.cleatA.c2mFull = s.cleatA.c2mFull ∧ t.cleatA.m2cWr = s.cleatA.m2cWr ∧
      t.mem = s.mem ∧ t.node = s.node ∧
      let u := { s with cleatA.c2mWr := idx }
      (c2mHead u = none → t = u) ∧
      (∀ m k, c2mHead u = some (m, k) → (c2mKnown m.kind = true → t = u) ∧
        (c2mKnown m.kind = false → t = dropUnknown 63 { u with
          cleatA.c2mRd := u.cleatA.c2mRd + BitVec.ofNat 7 k, cleatA.unknown := u.cleatA.unknown + 1 }))) ∧
    (ringUsed s.cleatA.m2cWr idx ≤ ringUsed s.cleatA.m2cWr s.cleatA.m2cRd →
      Gives (.m2cReadIndexWrite v) s fun t => t.cleatA.m2cRd = idx ∧ t.cleatA.c2mWr = s.cleatA.c2mWr ∧
        (s.cleatA.backlog = [] → t = { s with cleatA.m2cRd := idx })) ∧
    (ringUsed s.cleatA.m2cWr s.cleatA.m2cRd < ringUsed s.cleatA.m2cWr idx →
      exec (.m2cReadIndexWrite v) s = .next s)

/-- The MGC takes an EMCY_REQ from the head of the C2M ring: a code of 0 or from 0xFF00 on is refused and counted in 0x2015:05 and nothing else happens; any other is raised with its byte 3 and detail. It takes a CTL_FAULT and raises 0xFF24 with byte 3 0x81 and in byte 4 the hart, which is payload byte 0 (the model's reading, log 31). -/
def Obligations.MailboxFaultMessages : Prop :=
  ∀ (s u : State) (m : Msg),
    (takeMsg s 0x07 = some (m, u) →
      (fieldLE m.payload 0 2 = 0 ∨ 0xFF00 ≤ fieldLE m.payload 0 2 →
        exec .emcyReq s = .next { u with node.stats := vput u.node.stats 4 (u.node.stats.get 4 + 1) }) ∧
      (fieldLE m.payload 0 2 ≠ 0 → fieldLE m.payload 0 2 < 0xFF00 →
        exec .emcyReq s = .next (raiseEmcy u (fieldLE m.payload 0 2) (byteAt m.payload 2) (slice m.payload 3 4)))) ∧
    (takeMsg s 0x08 = some (m, u) → exec .ctlFault s = .next (raiseEmcy u 0xFF24 0x81 [byteAt m.payload 0]))

/-- A poster that reaches Cleat B writes POST: by any initiator but the queue's OWNER it is ignored and sets OWNER_ERR; by the owner it is ignored and sets OVF when POST - READ would exceed 256 (9-bit indices), and else becomes POST. A write of READ that would move it past DONE is ignored and sets READ_ERR, any other becomes READ. Nothing but that one queue's record changes. -/
def Obligations.QueueIndexWrites : Prop :=
  ∀ (q : QueueId) (by_ : Poster) (v : W32) (s : State), posterUp s by_ = true →
    let x := s.cleatB.get q
    let i : BitVec 9 := v.extractLsb' 0 9
    let put := fun (y : Queue) => { s with cleatB := vput s.cleatB q y }
    let me : BitVec 2 := match by_ with
      | .mc h => BitVec.ofNat 2 h.val
      | .host => 2
    (x.owner ≠ me → exec (.clbPostWrite q by_ v) s = .next (put { x with ownerErr := true })) ∧
    (x.owner = me → 256 < (i - x.read).toNat → exec (.clbPostWrite q by_ v) s = .next (put { x with ovf := true })) ∧
    (x.owner = me → (i - x.read).toNat ≤ 256 → exec (.clbPostWrite q by_ v) s = .next (put { x with post := i })) ∧
    ((x.done - x.read).toNat < (i - x.read).toNat →
      exec (.clbReadWrite q by_ v) s = .next (put { x with readErr := true })) ∧
    ((i - x.read).toNat ≤ (x.done - x.read).toNat →
      exec (.clbReadWrite q by_ v) s = .next (put { x with read := i }))

/-- With the queue owned by the host, room in it, and ACT entries that let the PCIe initiator store to the slot and to POST, a host post puts the 56 bytes of the job into slot POST, advances POST by one, and changes no other queue and no byte outside the slot. A hart's write of CFG sets OWNER, EN and IRQ_EN while the queue is empty, POST = DONE = READ, and is ignored otherwise; the host's is always ignored. -/
def Obligations.HostPostAndQueueConfig : Prop :=
  ∀ (q : QueueId) (s : State),
    let x := s.cleatB.get q
    (∀ job : Bytes, posterUp s .host = true → s.memWf = true → x.owner = 2 → (x.post + 1 - x.read).toNat ≤ 256 →
      actDenied s.act.force 25 accStore (slotAddr q x.post) 56 = none →
      actDenied s.act.force 25 accStore (periBase + 0x40004 + q.val * 0x40) 4 = none →
      Gives (.hostPost q job) s fun t =>
        t.rd (slotAddr q x.post) 56 = padTo 56 job ∧
        t.cleatB = vput s.cleatB q { x with post := x.post + 1 } ∧
        (∀ a : Nat, a < slotAddr q x.post ∨ slotAddr q x.post + 56 ≤ a → memRead t.mem a = memRead s.mem a)) ∧
    (∀ (h : HartId) (v : W32), posterUp s (.mc h) = true →
      (x.post = x.done → x.done = x.read →
        exec (.clbCfgWrite q (.mc h) v) s = .next { s with cleatB := vput s.cleatB q { x with
          owner := v.extractLsb' 0 2, en := v.getLsbD 2, irqEn := v.getLsbD 3 } }) ∧
      ((x.post ≠ x.done ∨ x.done ≠ x.read) → exec (.clbCfgWrite q (.mc h) v) s = .next s)) ∧
    (∀ v : W32, exec (.clbCfgWrite q .host v) s = .next s)

/-- A report of a unit whose reports reach the management plane is added to a FIFO of less than 32 entries and CLC_LOST keeps its value; when the FIFO is full it is not stored, and sets its unit's bit of CLC_LOST. -/
def Obligations.FaultReportStoredOrLost : Prop :=
  ∀ (unit cls : Byte) (code : W16) (detail : W64) (s : State), unitReports s unit.toNat = true →
    Gives (.faultReport unit cls code detail) s fun t =>
      (s.cleatC.fifo.length < 32 → t.cleatC.lost = s.cleatC.lost ∧
        t.cleatC.fifo = s.cleatC.fifo ++ [{ unit := unit, cls := cls, code := code, detail := detail,
                                            nt := (ntNow s.pht).setWidth 32 }]) ∧
      (32 ≤ s.cleatC.fifo.length → t.cleatC.fifo = s.cleatC.fifo ∧
        t.cleatC.lost = s.cleatC.lost ||| (1#40 <<< unit.toNat))

/-- A fence-class fault of a unit from 0x00 to 0x19 asserts that unit's line and no other, unless it is asserted already or a data-plane reset runs. When the fence of an asserted line takes effect the unit, and no other, is fenced, its bit in the mask of fenced cores or of other fenced units is set, and EMCY 0xFF21 or 0xFF23 stands for it. -/
def Obligations.FencesOfUnits : Prop :=
  ∀ (unit : Byte) (code : W16) (s : State),
    let u := unit.toNat
    (u ≤ 0x19 → unitReports s u = true → s.boot.dprActive = false → s.cleatC.lines.getLsbD u = false →
      Gives (.fence unit code) s fun t =>
        t.cleatC.lines = s.cleatC.lines ||| (1#40 <<< u) ∧ t.cleatC.fenced = s.cleatC.fenced ∧
        t.cleatC.fifo = s.cleatC.fifo ∧ t.health = s.health) ∧
    (s.boot.dprActive = true ∨ s.cleatC.lines.getLsbD u = true → exec (.fence unit code) s = .next s) ∧
    (mgcUp s = true → u ≤ 0x19 → s.cleatC.lines.getLsbD u = true → s.cleatC.fenced.getLsbD u = false →
      Gives (.fenceTakesEffect unit) s fun t =>
        t.cleatC.fenced = s.cleatC.fenced ||| (1#40 <<< u) ∧ t.cleatC.lines = s.cleatC.lines ∧
        (u < 16 → t.health.coreMask = s.health.coreMask ||| (1#16 <<< u) ∧ t.health.unitMask = s.health.unitMask ∧
          stands t 0xFF21 u = true) ∧
        (16 ≤ u → t.health.unitMask = s.health.unitMask ||| (1#16 <<< (u - 16)) ∧
          t.health.coreMask = s.health.coreMask ∧ stands t 0xFF23 u = true))

/-! ## Objects written by commands of their own -/

/-- A session that may begin an access and has only open rank is answered, for a write of one of the service-rank objects that have commands of their own (CLC_LOST, the budget, two-wire re-enable, OTP staging, programming, key and locks, the SVN, flash update, the DAP window), with abort 0x0601_0000, and nothing else is done. A session that is not served changes nothing by such a write. An access begun and answered changes nothing but sessions, transfers and the askers of what waits: a CAN client's answer leaves and its transfer closes; the host's record enters the host lane while it holds fewer than 8. -/
def Obligations.OpenSessionsCannotWrite : Prop :=
  ∀ (w : Session) (s : State),
    (∀ (c : Instr) (i k : Nat),
      ((∃ v, c = .clcLostClear w v ∧ i = 0x2004 ∧ k = 4) ∨ (∃ v, c = .reefBudgetWrite w v ∧ i = 0x2300 ∧ k = 1) ∨
        (∃ n v, c = .twReenable w n v ∧ i = 0x2501 ∧ k = n.val + 1) ∨ (∃ d, c = .otpStage w d ∧ i = 0x2110 ∧ k = 0) ∨
        (∃ v, c = .otpProgram w v ∧ i = 0x2111 ∧ k = 0) ∨ (∃ d, c = .otpKeyProgram w d ∧ i = 0x2120 ∧ k = 0) ∨
        (∃ v, c = .mastDebugLock w v ∧ i = 0x2121 ∧ k = 0) ∨ (∃ v, c = .mastSvnWrite w v ∧ i = 0x2122 ∧ k = 0) ∨
        (∃ v, c = .flashOffset w v ∧ i = 0x2220 ∧ k = 1) ∨ (∃ d, c = .flashProgram w d ∧ i = 0x2220 ∧ k = 2) ∨
        (∃ v, c = .flashErase w v ∧ i = 0x2220 ∧ k = 3) ∨ (∃ d, c = .dapWindowWrite w d ∧ i = 0x2214 ∧ k = 0)) →
      (s.mayAsk w → isService s.node w = false → exec c s = .next (s.told w i k (.abort 0x06010000))) ∧
      (mgcUp s = false ∨ sessServed s w = false → exec c s = .next s)) ∧
    (∀ (i k : Nat) (a : Answer), s.mayAsk w →
      s.sameObjects (s.told w i k a) ∧ s.answeredTo (s.told w i k a) w i k a ∧
      (∀ x : Session, isService (s.told w i k a).node x = isService s.node x))

/-- While no programming runs, a service session stages a record of 64 bytes in range, starts the programming of the next slot when the staged record, VDD_OTP and the temperature allow it (status 1) and is refused with status 3 otherwise, starts the one programming of a blank customer key region, locks the Mast debug port with 0x4C4B, which sets the four cells, ends DAP halts and closes the DAP window, and raises MAST_SVN up to the running image's SVN. While programming runs each of these five writes aborts with 0x0800_0022, a program command with status 3. -/
def Obligations.OtpObjectWrites : Prop :=
  ∀ (w : Session) (s : State), s.mayAsk w → isService s.node w = true →
    let ok := fun (i : Nat) => s.told w i 0 (.data [])
    let no := fun (i k : Nat) => s.told w i 0 (.abort k)
    (otpRuns s.otp = true →
      (∀ d, exec (.otpStage w d) s = .next (no 0x2110 0x08000022)) ∧
      (∀ v, v ≠ 1 → exec (.otpProgram w v) s = .next (no 0x2111 0x08000022)) ∧
      (exec (.otpProgram w 1) s = .next { no 0x2111 0x08000022 with otp.status := 3 }) ∧
      (∀ d, exec (.otpKeyProgram w d) s = .next (no 0x2120 0x08000022)) ∧
      (∀ v, exec (.mastDebugLock w v) s = .next (no 0x2121 0x08000022)) ∧
      (∀ v, exec (.mastSvnWrite w v) s = .next (no 0x2122 0x08000022))) ∧
    (otpRuns s.otp = false →
      (∀ d : Bytes, d.length ≠ 64 → exec (.otpStage w d) s = .next (no 0x2110 0x06070010)) ∧
      (∀ d : Bytes, d.length = 64 → recordOk d = false → exec (.otpStage w d) s = .next (no 0x2110 0x06090030)) ∧
      (∀ d : Bytes, d.length = 64 → recordOk d = true →
        exec (.otpStage w d) s = .next { ok 0x2110 with otp.staged := d }) ∧
      (∀ v : Byte, v ≠ 1 → exec (.otpProgram w v) s = .next (no 0x2111 0x06090030)) ∧
      (∀ g : Nat, nextSlot s.otp = some g → recordOk (padTo 64 s.otp.staged) = true →
        1710 ≤ s.dev.vddOtpMv → s.dev.vddOtpMv ≤ 1890 → 0 ≤ s.reef.tmax → s.reef.tmax ≤ 85 →
        exec (.otpProgram w 1) s = .next { ok 0x2111 with
          otp.status := 1, otp.busy := .generation g (generationCells g (padTo 64 s.otp.staged)) }) ∧
      ((nextSlot s.otp = none ∨ recordOk (padTo 64 s.otp.staged) = false ∨ s.dev.vddOtpMv < 1710 ∨
          1890 < s.dev.vddOtpMv ∨ s.reef.tmax < 0 ∨ 85 < s.reef.tmax) →
        exec (.otpProgram w 1) s = .next { ok 0x2111 with otp.status := 3 }) ∧
      (∀ d : Bytes, d.length = 32 → keyRegionBlank s.otp = true → exec (.otpKeyProgram w d) s = .next { ok 0x2120 with
        otp.status := 1, otp.busy := .key (keyCells d) }) ∧
      (∀ d : Bytes, d.length = 32 → keyRegionBlank s.otp = false →
        exec (.otpKeyProgram w d) s = .next { ok 0x2120 with otp.status := 3 }) ∧
      (∀ d : Bytes, d.length ≠ 32 → exec (.otpKeyProgram w d) s = .next (no 0x2120 0x06070010)) ∧
      (Gives (.mastDebugLock w 0x4C4B) s fun t =>
        otpByte t.otp 0x140 = otpByte s.otp 0x140 ||| 0xF0 ∧ t.boot.dapHalt0 = false ∧ t.boot.dapHalt1 = false ∧
        actPages (Tbl.read (fun _ => (0 : W128)) t.act.force 8) = 0 ∧
        t.out = (ok 0x2121).out ∧ t.cleatA = (ok 0x2121).cleatA ∧ t.node = (ok 0x2121).node) ∧
      (∀ v : W16, v ≠ 0x4C4B → exec (.mastDebugLock w v) s = .next (no 0x2121 0x06090030)) ∧
      (∀ v : Byte, v.toNat ≤ 32 → s.boot.mastSlot.isSome = true → v.toNat ≤ s.boot.mastSvn →
        exec (.mastSvnWrite w v) s = .next { ok 0x2122 with otp := svnRaise s.otp 0x148 v.toNat }) ∧
      (∀ v : Byte, (32 < v.toNat ∨ s.boot.mastSlot = none ∨ s.boot.mastSvn < v.toNat) →
        exec (.mastSvnWrite w v) s = .next (no 0x2122 0x06090030)))

/-- A generation whose programming ends without a failed cell has every cell of its image set; it reads back valid and the status is 2, or it is invalid, the status is 4 and EMCY 0xFF06 names its slot. A failed cell k leaves exactly the k cells before it set, with status 4. A key region programmed and verified is the service key in use; a failed one leaves status 4, and how many of its cells are set is a free value. -/
def Obligations.OtpProgrammingEnds : Prop :=
  ∀ s : State, mgcUp s = true →
    (∀ (g : Nat) (cells : List (Nat × Nat)), s.otp.busy = .generation g cells →
      (Gives (.otpProgramEnd none) s fun t =>
        t.otp.busy = .idle ∧ t.otp.cells = (otpSetAll s.otp cells).cells ∧
        (slotValid t.otp g = true → t.otp.status = 2 ∧ t.node = s.node) ∧
        (slotValid t.otp g = false → t.otp.status = 4 ∧
          t.node = (raiseEmcy s 0xFF06 0xFF [BitVec.ofNat 8 g]).node)) ∧
      (∀ k : Nat, k < cells.length → Gives (.otpProgramEnd (some k)) s fun t =>
        t.otp.busy = .idle ∧ t.otp.status = 4 ∧ t.otp.cells = (otpSetAll s.otp (cells.take k)).cells ∧
        t.node = (raiseEmcy s 0xFF06 0xFF [BitVec.ofNat 8 g]).node)) ∧
    (∀ cells : List (Nat × Nat), s.otp.busy = .key cells →
      (exec (.otpKeyProgramEnd true) s = .next { s with
        otp := takeServiceKey { otpSetAll s.otp cells with status := 2, busy := .idle } }) ∧
      (Gives (.otpKeyProgramEnd false) s fun t =>
        t.otp.busy = .idle ∧ t.otp.status = 4 ∧
        ∃ k : Nat, t.otp.cells = (otpSetAll s.otp (cells.take k)).cells ∧ t = { s with otp := t.otp, free := t.free }))

/-- While no flash operation runs, a service session sets the offset, starts the programming of up to 4 KiB inside flash and outside the booted MGC slot and the running Mast slot, after which the offset has advanced, and starts the erase of such a 64 KiB sector; a guarded range aborts with 0x0800_0022 and leaves status 3, and while an operation runs each of the three aborts with 0x0800_0022. A verified programming leaves each byte the AND of what stood there and the new byte, a verified erase 0xFF; both, and a failed operation, leave every byte outside the range as it was. -/
def Obligations.FlashUpdates : Prop :=
  ∀ (w : Session) (s : State), mgcUp s = true → s.memWf = true →
    let ok := fun (k : Nat) => s.told w 0x2220 k (.data [])
    let no := fun (k : Nat) => s.told w 0x2220 k (.abort 0x08000022)
    (s.mayAsk w → isService s.node w = true →
      (s.boot.flashBusy ≠ none →
        (∀ v, exec (.flashOffset w v) s = .next (no 1)) ∧ (∀ d, exec (.flashProgram w d) s = .next (no 2)) ∧
        (∀ v, exec (.flashErase w v) s = .next (no 3))) ∧
      (s.boot.flashBusy = none →
        (∀ v : W32, exec (.flashOffset w v) s = .next { ok 1 with boot.flashOfs := v }) ∧
        (∀ d : Bytes, 0 < d.length → d.length ≤ 4096 → s.boot.flashOfs.toNat + d.length ≤ 0x10000000 →
          exec (.flashProgram w d) s = .next (
            if flashGuarded s s.boot.flashOfs.toNat d.length then { no 2 with boot.flashStatus := 3 }
            else { ok 2 with boot.flashBusy := some (s.boot.flashOfs.toNat, some d), boot.flashStatus := 1,
                             boot.flashOfs := BitVec.ofNat 32 (s.boot.flashOfs.toNat + d.length) })) ∧
        (∀ v : W16, v.toNat < 0x1000 → exec (.flashErase w v) s = .next (
          if flashGuarded s (v.toNat * 0x10000) 0x10000 then { no 3 with boot.flashStatus := 3 }
          else { ok 3 with boot.flashBusy := some (v.toNat * 0x10000, none), boot.flashStatus := 1 })))) ∧
    (∀ (a : Nat) (d : Bytes), s.boot.flashBusy = some (a, some d) → Gives (.flashUpdateDone true) s fun t =>
      t.boot.flashBusy = none ∧ t.boot.flashStatus = 2 ∧
      (∀ i : Nat, i < d.length →
        memRead t.mem (flashBase + a + i) = memRead s.mem (flashBase + a + i) &&& byteAt d i) ∧
      (∀ x : Nat, x < flashBase + a ∨ flashBase + a + d.length ≤ x → memRead t.mem x = memRead s.mem x)) ∧
    (∀ a : Nat, a + 0x10000 ≤ 0x10000000 → s.boot.flashBusy = some (a, none) →
      Gives (.flashUpdateDone true) s fun t =>
        t.boot.flashBusy = none ∧ t.boot.flashStatus = 2 ∧
        (∀ i : Nat, i < 0x10000 → memRead t.mem (flashBase + a + i) = 0xFF) ∧
        (∀ x : Nat, x < flashBase + a ∨ flashBase + a + 0x10000 ≤ x → memRead t.mem x = memRead s.mem x)) ∧
    (∀ (a : Nat) (d : Option Bytes), s.boot.flashBusy = some (a, d) → Gives (.flashUpdateDone false) s fun t =>
      t.boot.flashBusy = none ∧ t.boot.flashStatus = 4 ∧
      (∀ x : Nat, x < flashBase + a ∨ flashBase + a + (match d with
          | some b => b.length
          | none => 0x10000) ≤ x → memRead t.mem x = memRead s.mem x))

/-- An ACT_REQ whose records all pass the MGC's checks is applied: OP 0 writes live entries, OP 1 shadow entries, OP 2 commits and OP 3 copies, with the answer held until the stations have applied a pending change; one refused record leaves the table as it was and its index and reason in the answer. One request is in hand at a time. The stations' application makes the live bank what they enforce. The answer leaves when nothing is pending. A service session's write of the DAP window makes it entry 8 with MASK bit 30 alone and neither X, SPEC_OK nor VEC_ST_OK, not enforced before the stations apply it, and is refused with 0x0800_0022 once the Mast debug lock is set. -/
def Obligations.ActChanges : Prop :=
  ∀ s : State,
    (∀ (m : Msg) (u : State), s.act.rsp = none → takeMsg s 0x04 = some (m, u) →
      (byteAt m.payload 0).toNat ≤ 3 → (byteAt m.payload 1).toNat ≤ 37 → fieldLE m.payload 2 6 = 0 →
      let recs := actRecords m.payload
      (∀ k r : Nat, firstRefused u m.payload recs 0 = some (k, r) → exec .actReq s = .next { u with
        act.rsp := some (m.tag, [1, 0] ++ toLE 2 k ++ [BitVec.ofNat 8 r]) }) ∧
      (firstRefused u m.payload recs 0 = none → exec .actReq s = .next { u with act := {
        (match (byteAt m.payload 0).toNat with
          | 0 => recs.foldl (fun (a : Act) (r : Nat × W128) => actWriteLive a r.1 r.2) u.act
          | 1 => recs.foldl (fun (a : Act) (r : Nat × W128) => actWriteShadow a r.1 r.2) u.act
          | 2 => actCommit u.act
          | _ => actCopy u.act) with
        rsp := some (m.tag, [0, BitVec.ofNat 8 recs.length, 0, 0, 0]) } })) ∧
    (s.act.pend = true → s.dev.clocksStopped = false → exec .actStationApply s = .next { s with
      act.force := if s.act.bank then s.act.bank1 else s.act.bank0, act.pend := false }) ∧
    (∀ (g : W16) (b : Bytes), s.act.rsp = some (g, b) → ctlUp s = true → s.act.pend = false →
      exec .actRsp s = .next (m2cSend { s with act.rsp := none } { kind := 0x84, tag := g, payload := b })) ∧
    (∀ (g : W16) (b : Bytes), s.act.rsp = some (g, b) → s.act.pend = true → exec .actRsp s = .next s) ∧
    (s.act.rsp ≠ none → exec .actReq s = .next s) ∧
    (∀ (w : Session) (d : Bytes), s.mayAsk w → isService s.node w = true → d.length = 16 →
      (mastLocked s.otp = true →
        exec (.dapWindowWrite w d) s = .next (s.told w 0x2214 0 (.abort 0x08000022))) ∧
      (mastLocked s.otp = false → inLocalMap (BitVec.ofNat 128 (leNat d)) = true →
        Gives (.dapWindowWrite w d) s fun t =>
          t.act.pend = true ∧ t.act.bank = s.act.bank ∧ t.act.force = s.act.force ∧
          let e := Tbl.read (fun _ => (0 : W128)) (actLive t.act) 8
          (∀ i : Nat, i < 32 → actMask e i = decide (i = 30)) ∧ actBase e = actBase (BitVec.ofNat 128 (leNat d)) ∧
          actPages e = actPages (BitVec.ofNat 128 (leNat d)) ∧
          e.getLsbD 98 = false ∧ e.getLsbD 99 = false ∧ e.getLsbD 100 = false))

/-! ## Phase timebase -/

/-- A step in which A and B both change in the same accepted sample increments QERR of its source by one (from 0xFFFF on, any count may follow), notes the new levels, and changes nothing else: no count, no angle, no published phase. -/
def Obligations.QuadratureIllegalStep : Prop :=
  ∀ (src : CanPort) (a b : Bool) (samples : Nat) (s : State),
    let n : SrcId := Fin.ofNat 4 src.val
    let x := s.pht.srcs.get n
    phtUp s = true → x.en = true → x.filt + 1 ≤ samples → a ≠ x.lvlA → b ≠ x.lvlB →
    ∃ q : W16, (x.qerr ≠ 0xFFFF → q = x.qerr + 1) ∧ exec (.quadEdge src a b samples) s = .next { s with
      pht.srcs := vput s.pht.srcs n { x with lvlA := a, lvlB := b, qerr := q } }

/-- A legal accepted edge moves the angle from the last edge's exact angle by INC_E, forward when A is accepted before B (turned round by REV; A before B as forward is the model's choice, log 25), and publishes its upper 40 bits; an accepted index pulse sets the published phase to the one with IDX_ANGLE nearest to it, clears the edge count, and logs a slip and raises EMCY 0xFF12 when the edges since the last index differ from 4 × LINES by more than IDX_TOL (they are the magnitude of the net count, and the first index after enabling makes no slip: the model's choice, log 154); after 4 × LINES + IDX_TOL edges in one direction without an index a slip of kind MISSING is logged and the EMCY raised, and the count of those edges starts anew (the model's choice, log 155). No other source changes. -/
def Obligations.QuadratureEvents : Prop :=
  ∀ (src : CanPort) (samples : Nat) (s : State),
    let n : SrcId := Fin.ofNat 4 src.val
    let x := s.pht.srcs.get n
    let others := fun (t : State) => ∀ m : SrcId, m ≠ n → t.pht.srcs.get m = s.pht.srcs.get m
    phtUp s = true → x.en = true →
    (∀ a b : Bool, x.filt + 1 ≤ samples → (a ≠ x.lvlA ∧ b = x.lvlB) ∨ (a = x.lvlA ∧ b ≠ x.lvlB) →
      Gives (.quadEdge src a b samples) s fun t =>
        let y := t.pht.srcs.get n
        y.lastAng = (if (xor a x.lvlB) != x.rev then x.lastAng + BitVec.ofNat 56 (incE x.lines)
          else x.lastAng - BitVec.ofNat 56 (incE x.lines)) ∧
        y.ang = y.lastAng ∧ y.pub = y.lastAng.extractLsb' 16 40 ∧ y.lvlA = a ∧ y.lvlB = b ∧ y.qerr = x.qerr ∧
        others t) ∧
    (x.filt + 1 ≤ samples → x.idxEn = true → Gives (.indexPulse src samples) s fun t =>
      let y := t.pht.srcs.get n
      let slip := x.idxSeen = true ∧ x.idxTol < Int.natAbs ((x.idxEdges.natAbs : Int) - 4 * x.lines)
      y.pub.extractLsb' 0 24 = BitVec.ofNat 24 x.idxAngle ∧ Int.natAbs (y.pub - x.pub).toInt ≤ 2 ^ 23 ∧
      y.idxEdges = 0 ∧ y.idxSeen = true ∧ others t ∧
      (slip → t.pht.slipCount = s.pht.slipCount + 1 ∧ y.slip = true ∧
        t.node.history = (BitVec.ofNat 32 (0x80FF12 + 2 ^ 24 * src.val) :: s.node.history).take 16) ∧
      (¬ slip → t.pht.slipCount = s.pht.slipCount ∧ y.slip = x.slip ∧ t.node = s.node)) ∧
    (x.idxEn = true → 4 * x.lines + x.idxTol ≤ x.oneWay → Gives (.indexMissing src) s fun t =>
      t.pht.slipCount = s.pht.slipCount + 1 ∧ (t.pht.srcs.get n).slip = true ∧
      (t.pht.srcs.get n).pub = x.pub ∧ (t.pht.srcs.get n).oneWay = 0 ∧
      t.node.history = (BitVec.ofNat 32 (0x80FF12 + 2 ^ 24 * src.val) :: s.node.history).take 16 ∧ others t)

/-- A set error bit, or a second consecutive flat word, makes PS2 ABSENT with EMCY 0xFF13 standing; any other word gives the phase of R54 (after an error, held against no word before it: the model's choice, log 156) and PS2 is not ABSENT. A mains frame makes an OK PS3 UNLOCKED, with 0xFF11 standing, when its amplitude is below AMP_MIN, the PLL's frequency is at a clamp, or the PLL's ratio has exceeded UNLOCK_TH for UNLOCK_US; otherwise PS3 stays OK and takes the PLL's frequency. While PS3 is not OK a frame below AMP_MIN starts the run toward lock anew, LOCK_CYC mains cycles of frames under LOCK_TH make it OK at the PLL's angle and frequency, and any other frame leaves state, phase and frequency. (What the PLL makes of a frame is a free value, log 157.) In zero-cross mode an edge sets the angle to ZC_OFS while the source is OK or once it has locked (log 159), and an OK source loses lock at a period outside 40 to 70 Hz. Loss of lock and stall make their source UNLOCKED or STALLED, at its last edge, with 0xFF11 or 0xFF10 standing. -/
def Obligations.SsiMainsAndStalls : Prop :=
  ∀ s : State, phtUp s = true →
    let ps3 := s.pht.srcs.get 3
    let unlocked := fun (t : State) => (t.pht.srcs.get 3).state = 2 ∧ (t.pht.srcs.get 3).pub = ps3.pub ∧
      (t.pht.srcs.get 3).freq = ps3.freq ∧ stands t 0xFF11 3 = true
    (∀ w : W32, (s.pht.srcs.get 2).en = true → Gives (.ssiWord w) s fun t =>
      let x := s.pht.srcs.get 2
      let f := ssiDecode s.pht w
      let bad := f.err = true ∨ (ssiFlat s.pht w = true ∧ 1 ≤ x.badRun)
      (bad → (t.pht.srcs.get 2).state = 3 ∧ (t.pht.srcs.get 2).pub = x.pub ∧ stands t 0xFF13 2 = true) ∧
      (¬ bad → (t.pht.srcs.get 2).pub = ssiPhase s.pht x f ∧ (t.pht.srcs.get 2).state ≠ 3)) ∧
    (∀ a b c : Int, ps3.en = true → mainsZc s.pht = false → Gives (.mainsFrame a b c) s fun t =>
      let y := pllStep s.pht ps3 a b c
      let lost := mainsAmpOk s.pht a b c = false ∨ y.freq ≤ 439805 ∨ 769658 ≤ y.freq ∨
        (∃ since : Nat, overSince s.pht ps3 y.ratio = some since ∧ since + unlockCycles s.pht ≤ s.pht.cycles)
      (ps3.state = 0 → lost → unlocked t) ∧
      (ps3.state = 0 → ¬ lost → (t.pht.srcs.get 3).state = 0 ∧ (t.pht.srcs.get 3).freq = y.freq ∧
        (t.pht.srcs.get 3).pub = ps3.pub ∧ t.node = s.node) ∧
      (ps3.state ≠ 0 → mainsAmpOk s.pht a b c = false → (t.pht.srcs.get 3).lockFrom = none) ∧
      (ps3.state ≠ 0 → pllLocks s.pht ps3 y.ratio (mainsAmpOk s.pht a b c) = true →
        (t.pht.srcs.get 3).state = 0 ∧ (t.pht.srcs.get 3).freq = y.freq ∧
        (t.pht.srcs.get 3).pub = y.ang.extractLsb' 16 40) ∧
      (ps3.state ≠ 0 → pllLocks s.pht ps3 y.ratio (mainsAmpOk s.pht a b c) = false →
        (t.pht.srcs.get 3).state = ps3.state ∧ (t.pht.srcs.get 3).pub = ps3.pub ∧
        (t.pht.srcs.get 3).freq = ps3.freq ∧ t.node = s.node)) ∧
    (∀ samples period : Nat, ps3.en = true → mainsZc s.pht = true →
      ps3.filt + 1 ≤ samples → Gives (.mainsZcEdge samples period) s fun t =>
        (ps3.state = 0 → periodOk period = false → unlocked t) ∧
        ((ps3.state = 0 ∧ periodOk period = true) ∨
            (ps3.state ≠ 0 ∧ max 1 (lockCyc s.pht) ≤ (periodRun ps3 period).1) →
          (t.pht.srcs.get 3).state = 0 ∧ (t.pht.srcs.get 3).pub.extractLsb' 0 24 = BitVec.ofNat 24 ps3.idxAngle ∧
          Int.natAbs ((t.pht.srcs.get 3).pub - ps3.pub).toInt ≤ 2 ^ 23) ∧
        (ps3.state ≠ 0 → (periodRun ps3 period).1 < max 1 (lockCyc s.pht) →
          (t.pht.srcs.get 3).state = ps3.state ∧ (t.pht.srcs.get 3).pub = ps3.pub ∧ t.node = s.node)) ∧
    (ps3.en = true → ps3.state = 0 → Gives .mainsLockLoss s unlocked) ∧
    (∀ n : SrcId, n.val < 3 → (s.pht.srcs.get n).en = true → (s.pht.srcs.get n).state = 0 →
      (s.pht.srcs.get n).stallUs ≠ 0 → Gives (.sourceStall n) s fun t =>
        (t.pht.srcs.get n).state = 1 ∧ (t.pht.srcs.get n).pub = (s.pht.srcs.get n).lastAng.extractLsb' 16 40 ∧
        stands t 0xFF10 n.val = true ∧ ∀ m : SrcId, m ≠ n → t.pht.srcs.get m = s.pht.srcs.get m)

/-- Each phase-bus record is four clk_pht cycles: NT grows by four times NT_INC, each source is interpolated to the end of the record, the record carries NT, the sources' published phases and the next sequence number, and the watchdog's count grows by two. The end of discipline clears NT_SYNC and nothing else. -/
def Obligations.NetworkTimeAndRecord : Prop :=
  ∀ s : State, phtUp s = true →
    (exec .ntSyncExpiry s = .next { s with pht.ntSync := false }) ∧
    (Gives .phaseBusRecord s fun t =>
      t.pht.nt = s.pht.nt + BitVec.ofNat 96 (4 * s.pht.ntInc.toNat) ∧ t.pht.cycles = s.pht.cycles + 4 ∧
      (∀ n : SrcId, t.pht.srcs.get n = interpolated s.pht n (s.pht.srcs.get n) (s.pht.cycles + 4)) ∧
      t.pht.side.seq = s.pht.side.seq + 1 ∧ t.pht.record.nt = t.pht.nt.extractLsb' 32 64 ∧
      (∀ n : Fin 4, t.pht.record.phases.get n = (t.pht.srcs.get n).pub) ∧
      t.boot.wdCount = s.boot.wdCount + 2 ∧ t.pht.ntInc = s.pht.ntInc)

/-- A slot whose crossing has been seen fires. A periodic one moves TARGET by INC in the direction of the crossing, and by the fewest further INCs with which it no longer lies behind the current phase; their number is added to MISS, which saturates at 31; it does not fire again for them. A one-shot slot disarms and keeps its TARGET. INC is within its limits of 1 to 2^39 - 1. -/
def Obligations.FiringMovesTarget : Prop :=
  ∀ (n : PhtSlotId) (up : Bool) (s : State),
    let x := s.pht.slots.get n
    let cur := s.pht.phaseOf x.src
    let at_ := fun (k : Nat) => if up then x.tgt + BitVec.ofNat 40 (k * x.inc.toNat)
      else x.tgt - BitVec.ofNat 40 (k * x.inc.toNat)
    let behind := fun (g : BitVec 40) => 0 < (if up then (cur - g).toInt else (g - cur).toInt)
    phtUp s = true → x.arm = true → x.hit = some up →
    Gives (.slotFire n) s fun t =>
      let y := t.pht.slots.get n
      y.hit = none ∧
      (x.periodic = false → y.arm = false ∧ y.tgt = x.tgt ∧ y.miss = x.miss) ∧
      (x.periodic = true → 0 < x.inc.toNat → x.inc.toNat < 2 ^ 39 → y.arm = true ∧
        ∃ k : Nat, y.tgt = at_ (k + 1) ∧ ¬ behind (at_ (k + 1)) ∧ (∀ j : Nat, j < k → behind (at_ (j + 1))) ∧
          y.miss.toNat = min 31 (x.miss.toNat + k))

/-- A slot that fires sets FIRED, and CAUSE for a time fallback, drives the PHASE_OUT drivers that follow it, starts its event toward every powered core and changes no other slot, no source and no memory; the fallback of an enabled slot fires it when no crossing is waiting and, with FB_COND, its source is not OK. A pulse ends at the inactive level. An event that reaches a powered core sets its pending bit, or counts in PH_OVR when the bit is set already, and is no longer in flight. -/
def Obligations.SlotEvents : Prop :=
  ∀ (n : PhtSlotId) (s : State), phtUp s = true →
    let x := s.pht.slots.get n
    let fired := fun (fallback : Bool) (t : State) =>
      let y := t.pht.slots.get n
      y.fired = true ∧ y.cause = fallback ∧ y.flying = x.flying ||| poweredCores s ∧
      t.pht.slots = vput s.pht.slots n y ∧ t.pht.srcs = s.pht.srcs ∧ t.mem = s.mem ∧ t.spar = s.spar ∧
      (∀ k : SrcId, t.pht.outs.get k = (s.pht.outs.get k).event n.val)
    (x.arm = true → x.hit ≠ none → Gives (.slotFire n) s (fired false)) ∧
    (x.arm = true → x.fbEn = true → x.hit = none → (x.fbCond = true → slotSourceLost s.pht x = true) →
      Gives (.slotFallback n) s (fired true)) ∧
    (∀ k : SrcId, (s.pht.outs.get k).active = true → (s.pht.outs.get k).mode = 1 →
      exec (.phaseOutPulseEnd k) s = .next { s with
        pht.outs := vput s.pht.outs k { s.pht.outs.get k with active := false } }) ∧
    (∀ c : CoreId, x.flying.getLsbD c.val = true → domUp s (sparDom c) = true →
      Gives (.phaseEventArrive c n) s fun t =>
        (t.pht.slots.get n).flying = x.flying &&& ~~~(1#16 <<< c.val) ∧
        (coreOf t c).pend.getLsbD n.val = true ∧
        ((coreOf s c).pend.getLsbD n.val = true → (coreOf t c).pend = (coreOf s c).pend) ∧
        (∀ d : CoreId, d ≠ c → coreOf t d = coreOf s d))

/-- A write of a slot's CFG by a Mast hart or the MGC takes effect on that slot alone: arming sets BEHIND when TARGET is equal to the current phase or behind it in the direction of EDGE, and forgets any crossing seen before; a Spar core cannot write it. A write of the high word moves the staged low word and the high byte into TARGET or INC as one. PHT_RDY takes the bits of cores that are not fenced and whose domain holds a pinned grant, and reads 0 for the others. -/
def Obligations.SlotAndReadyWrites : Prop :=
  ∀ (n : PhtSlotId) (s : State), phtUp s = true →
    let x := s.pht.slots.get n
    (∀ (by_ : RegParty) (cfg : W32), phtReach s by_ = true → Gives (.slotArm n by_ cfg) s fun t =>
      let y := t.pht.slots.get n
      let d := (x.tgt - s.pht.phaseOf (bits cfg.toNat 1 3)).toInt
      t = { s with pht.slots := vput s.pht.slots n y } ∧ y.cfg = cfg &&& 0xFFF ∧ y.tgt = x.tgt ∧ y.inc = x.inc ∧
      (cfg.getLsbD 0 = true → x.arm = false → y.hit = none ∧
        (bits cfg.toNat 4 2 = 0 → y.behind = (x.behind || decide (d ≤ 0))) ∧
        (bits cfg.toNat 4 2 = 1 → y.behind = (x.behind || decide (0 ≤ d))) ∧
        (bits cfg.toNat 4 2 = 2 → y.behind = (x.behind || decide (d = 0)))) ∧
      (cfg.getLsbD 0 = false ∨ x.arm = true → y.behind = x.behind)) ∧
    (∀ (c : CoreId) (cfg : W32), exec (.slotArm n (.spar c) cfg) s = .next s) ∧
    (∀ hi : W32, ctlUp s = true →
      exec (.slotTargetCommit n false hi) s = .next { s with
        pht.slots := vput s.pht.slots n { x with tgt := hi.extractLsb' 0 8 ++ x.tgtLo } } ∧
      exec (.slotTargetCommit n true hi) s = .next { s with
        pht.slots := vput s.pht.slots n { x with inc := hi.extractLsb' 0 8 ++ x.incLo } }) ∧
    (∀ v : W32, ctlUp s = true → Gives (.phtRdyWrite v) s fun t =>
      t = { s with pht.rdy := t.pht.rdy } ∧
      ∀ c : CoreId, t.pht.rdy.getLsbD c.val = (v.getLsbD c.val && pinned s (sparDom c) && !unitFenced s c.val))

/-! ## The CANopen node -/

/-- An NMT command for this node's ID or for all, on a node that has left INITIALISATION and whose network port is not bus-off, takes the node to OPERATIONAL, to STOPPED, which ends open transfers and every perturbation, or to PRE-OPERATIONAL; reset communication ends the CAN sessions, drops the host mailbox's to open rank, puts the communication objects and the port settings back at their defaults and leads to PRE-OPERATIONAL; reset node begins both plane resets, ends every session, puts the objects the node holds and the budget back at their defaults and leads to PRE-OPERATIONAL. A command for another node changes nothing. -/
def Obligations.NmtCommands : Prop :=
  ∀ (node : Byte) (s : State),
    (nmtFor s node = true →
      (Gives (.nmtStart node) s fun t => t.node.nmt = .operational ∧ t.node.od = s.node.od ∧ t.reef = s.reef) ∧
      (Gives (.nmtStop node) s fun t =>
        t.node.nmt = .stopped ∧ (∀ p : CanPort, t.node.chans.get p = none) ∧
        (∀ k : Fin 8, t.pert.active.get k = false)) ∧
      (Gives (.nmtEnterPreOperational node) s fun t =>
        t.node.nmt = .preOperational ∧ t.node.od = s.node.od ∧ t.reef = s.reef) ∧
      (Gives (.nmtResetCommunication node) s fun t =>
        t.node.nmt = .preOperational ∧ (∀ x ∈ t.node.sessions, x.who = .host ∧ x.service = false) ∧
        (∀ i sub : Nat, (0x1000 ≤ i ∧ i ≤ 0x1FFF) ∨ i = 0x2005 ∨ i = 0x2006 → sub < 256 →
          Tbl.read (fun _ => ([] : Bytes)) t.node.od (odKey i sub) = [])) ∧
      (Gives (.nmtResetNode node) s fun t =>
        t.node.nmt = .preOperational ∧ t.node.sessions = [] ∧ t.node.od = [] ∧ t.reef.budget = 480 ∧
        t.boot.cprActive = true ∧ t.boot.dprActive = true)) ∧
    (node ≠ 0 → node.toNat ≠ s.node.nodeId.toNat → ∀ c : Instr,
      (c = .nmtStart node ∨ c = .nmtStop node ∨ c = .nmtEnterPreOperational node ∨ c = .nmtResetCommunication node ∨
        c = .nmtResetNode node) → exec c s = .next s)

/-- A node past INITIALISATION with a producer time sends its heartbeat: its state on 0x700 plus its ID. A consumed node that is heard is no longer timed out and its condition ends; a consumer timeout makes 0x8130 stand for the node watched. The oldest queued EMCY leaves on the network port with the COB-ID of 0x1014, all its bytes on an FD port and 8 on a classic one. A TIME message on its COB-ID is stored in 0x2008 with the network time of its reception. Error passive raises EMCY 0x8120 and a receive overrun 0x8110, each with its port, and change nothing but the queue, the history and, with a full queue, the count of dropped EMCYs. Bus-off stops the port, ends its transfer and drops its service sessions to open rank, and no other session changes. Its recovery raises 0x8140 and the port runs again. -/
def Obligations.NodeFramesAndCan : Prop :=
 (∀ s : State, mgcUp s = true → nodeSilent s.node = false →
    let p := s.node.netPort
    (s.node.nmt ≠ .initialisation → odNat s.node 0x1017 0 ≠ 0 → s.node.busOff.get p = false →
      exec .heartbeatProduce s = .next (emit s (.can p (0x700 + s.node.nodeId.toNat)
        [BitVec.ofNat 8 (nmtCode s.node.nmt)]))) ∧
    (∀ (node : BitVec 7) (st : Byte), s.node.nmt ≠ .initialisation →
      (∃ e : Fin 8, consumes s.node e node = true) → Gives (.heartbeatReceive p node st) s fun t =>
        (∀ e : Fin 8, consumes s.node e node = true → t.node.consumers.get e = false) ∧
        (∀ e : Fin 8, consumes s.node e node = false → t.node.consumers.get e = s.node.consumers.get e) ∧
        stands t 0x8130 node.toNat = false) ∧
    (∀ e : Fin 8, s.node.nmt ≠ .initialisation → bits (odNat s.node 0x1016 (e.val + 1)) 0 16 ≠ 0 →
      bits (odNat s.node 0x1016 (e.val + 1)) 16 8 ≠ 0 → s.node.consumers.get e = false →
      Gives (.heartbeatConsumerTimeout e) s fun t => t.node.consumers.get e = true ∧
        stands t 0x8130 (bits (odNat s.node 0x1016 (e.val + 1)) 16 8) = true) ∧
    (∀ (e : Bytes) (es : List Bytes), s.node.emcyQ = e :: es → nmtServes s.node = true → s.node.busOff.get p = false →
      bitOf (odNat s.node 0x1014 0) 31 = false →
      exec .emcySend s = .next (emit { s with node.emcyQ := es } (.can p (odNat s.node 0x1014 0 % 0x800)
        (if s.node.fd.get p then e else e.take 8)))) ∧
    (∀ (canId : BitVec 11) (v : Bytes), nmtServes s.node = true → bitOf (odNat s.node 0x1012 0) 31 = true →
      canId.toNat = odNat s.node 0x1012 0 % 0x800 →
      exec (.timeReceive p canId v) s = .next { s with
        node := odSet s.node 0x2008 0 (padTo 6 v ++ toLE 8 (ntNow s.pht).toNat) })) ∧
 (∀ (port : CanPort) (s : State), mgcUp s = true →
    (nodeSilent s.node = false →
      exec (.canErrorPassive port) s = .next (raiseEmcy s 0x8120 0xFF [BitVec.ofNat 8 port.val]) ∧
      exec (.canRxOverrun port) s = .next (raiseEmcy s 0x8110 0xFF [BitVec.ofNat 8 port.val]) ∧
      (Gives (.canBusOff port) s fun t =>
        t.node.busOff = vput s.node.busOff port true ∧ t.node.chans.get port = none ∧
        (∀ w : Session, sessPort w = some port → isService t.node w = false) ∧
        (∀ w : Session, sessPort w ≠ some port → findSess t.node w = findSess s.node w) ∧
        t = { s with node := t.node, tw := t.tw })) ∧
    (s.node.busOff.get port = true → Gives (.busOffRecovery port) s fun t =>
      t.node.busOff.get port = false ∧
      (BitVec.ofNat 32 (0xFF8140 + 2 ^ 24 * port.val)) ∈ t.node.history))

/-- In OPERATIONAL a SYNC, an event timer, an inhibit time's end and a received PDO do the following. A frame on the CAN-ID of no RPDO of that port, and on a classic port one of more than 8 bytes, changes nothing. A frame shorter than the mapping of the one RPDO it is for raises EMCY 0x8210 and is not taken; one of full length, at most 64 bytes, waits for a SYNC when the RPDO is synchronous, and else is applied. A SYNC leaves no synchronous RPDO waiting. An event timer sends its TPDO now, or after the inhibit time that still runs; the end of an inhibit time sends it when something has changed. A TPDO sent carries its mapped values, padded on an FD port; nothing leaves on a bus-off port, nor more than 8 bytes on a classic one. -/
def Obligations.PdoCommands : Prop :=
  ∀ s : State, mgcUp s = true → s.node.nmt = .operational → nodeSilent s.node = false →
    let sent := fun (i : Fin 16) (t : State) =>
      let d := (mapping s.node (0x1A00 + i.val)).flatMap (mappedValue s)
      let port := tpdoPort s.node i
      let fd := s.node.fd.get port
      (t.node.tpdos.get i).changed = false ∧
      (t.node.tpdos.get i).inhibited = decide (odNat s.node (0x1800 + i.val) 3 ≠ 0) ∧
      t.out = s.out ++ (if s.node.busOff.get port = false ∧ (fd = true ∨ d.length ≤ 8) then
        [.can port (tpdoCob s.node i % 0x800) (if fd then padTo (fdPad d.length) d else d)] else [])
    (∀ (port : CanPort) (canId : BitVec 11) (data : Bytes), s.node.fd.get port = false → 8 < data.length →
      exec (.rpdoReceive port canId data) s = .next s) ∧
    (∀ (port : CanPort) (canId : BitVec 11) (data : Bytes), s.node.busOff.get port = false →
      s.node.fd.get port = true ∨ data.length ≤ 8 →
      ((∀ i : Fin 16, bitOf (rpdoCob s.node i) 31 = true ∨ rpdoCob s.node i % 0x800 ≠ canId.toNat ∨
          rpdoPort s.node i ≠ port) → exec (.rpdoReceive port canId data) s = .next s) ∧
      (∀ i : Fin 16, bitOf (rpdoCob s.node i) 31 = false → rpdoCob s.node i % 0x800 = canId.toNat →
        rpdoPort s.node i = port →
        (∀ j : Fin 16, j ≠ i → bitOf (rpdoCob s.node j) 31 = true ∨ rpdoCob s.node j % 0x800 ≠ canId.toNat ∨
          rpdoPort s.node j ≠ port) →
        let l := mapLen (mapping s.node (0x1600 + i.val))
        l ≤ 64 →
        (data.length < l → exec (.rpdoReceive port canId data) s
          = .next (raiseEmcy s 0x8210 0xFF (toLE 2 (i.val + 1)))) ∧
        (data.length = l → rpdoType s.node i ≤ 240 → exec (.rpdoReceive port canId data) s = .next { s with
          node.rpdos := vput s.node.rpdos i (some data) }) ∧
        (data.length = l → 240 < rpdoType s.node i →
          exec (.rpdoReceive port canId data) s = .next (applyRpdo s i data)))) ∧
    (∀ (canId : BitVec 11) (counter : Nat), canId.toNat = odNat s.node 0x1005 0 % 0x800 →
      Gives (.syncReceive s.node.netPort canId counter) s fun t =>
        (∀ i : Fin 16, t.node.rpdos.get i = none) ∧ t.node.nmt = .operational ∧
        ((∀ i : Fin 16, bitOf (tpdoCob s.node i) 31 = true ∧ s.node.rpdos.get i = none) → t = s)) ∧
    (∀ i : Fin 16, 254 ≤ tpdoType s.node i → odNat s.node (0x1800 + i.val) 5 ≠ 0 → bitOf (tpdoCob s.node i) 31 = false →
      Gives (.tpdoEventTimer i) s fun t =>
        ((s.node.tpdos.get i).inhibited = true → (t.node.tpdos.get i).changed = true ∧ t.out = s.out) ∧
        ((s.node.tpdos.get i).inhibited = false → sent i t)) ∧
    (∀ i : Fin 16, (s.node.tpdos.get i).inhibited = true → (s.node.tpdos.get i).changed = false →
      exec (.tpdoInhibitEnd i) s = .next { s with
        node.tpdos := vput s.node.tpdos i { s.node.tpdos.get i with inhibited := false } }) ∧
    (∀ i : Fin 16, (s.node.tpdos.get i).inhibited = true → (s.node.tpdos.get i).changed = true →
      254 ≤ tpdoType s.node i → bitOf (tpdoCob s.node i) 31 = false → Gives (.tpdoInhibitEnd i) s (sent i))

/-- For a session that may begin an access: a read of 0x2010 answers 8 bytes, a free value, and binds them to the session as its challenge; a response of 8 bytes equal to the first 8 of the HMAC of the challenge under the service key gives the session service rank and uses the challenge up; one of another length aborts with 0x0607_0010; on a locked port any aborts with 0x0800_0022; any other aborts with 0x0800_0000 and counts in 0x2015:03; the fifth failure on a port within 60 s locks it with EMCY 0xFF01 standing, and the end of the lockout ends both. Writing 0 to 0x2012 ends the rank, another value aborts with 0x0609_0030; 600 s without an access end the rank and 30 s the challenge, and change no other session. -/
def Obligations.ServiceLogin : Prop :=
  ∀ (w : Session) (s : State), mgcUp s = true →
    let challenge := fun (n : Node) => (findSess n w).bind fun x => x.challenge
    (s.mayAsk w →
      (Gives (.loginChallenge w) s fun t => ∃ c : Bytes, c.length = 8 ∧ s.answeredTo t w 0x2010 0 (.data c) ∧
        challenge t.node = some c) ∧
      (∀ rsp : Bytes, rsp.length ≠ 8 →
        exec (.loginResponse w rsp) s = .next (s.told w 0x2011 0 (.abort 0x06070010))) ∧
      (∀ rsp : Bytes, rsp.length = 8 → loginLocked s.node w = true →
        exec (.loginResponse w rsp) s = .next (s.told w 0x2011 0 (.abort 0x08000022))) ∧
      (∀ rsp c : Bytes, rsp.length = 8 → loginLocked s.node w = false → challenge s.node = some c →
        rsp = (hmacSha256 s.otp.serviceKey c).take 8 → Gives (.loginResponse w rsp) s fun t =>
          isService t.node w = true ∧ challenge t.node = none ∧ s.answeredTo t w 0x2011 0 (.data [])) ∧
      (∀ rsp : Bytes, rsp.length = 8 → loginLocked s.node w = false →
        (∀ c : Bytes, challenge s.node = some c → rsp ≠ (hmacSha256 s.otp.serviceKey c).take 8) →
        Gives (.loginResponse w rsp) s fun t =>
          s.answeredTo t w 0x2011 0 (.abort 0x08000000) ∧ isService t.node w = isService s.node w ∧
          challenge t.node = challenge s.node ∧ t.node.stats.get 2 = s.node.stats.get 2 + 1 ∧
          (∀ p : CanPort, sessPort w = some p → 4 ≤ (recentFails s p).length →
            t.node.locked.get p = true ∧ stands t 0xFF01 p.val = true ∧ t.node.loginFails.get p = []) ∧
          (∀ p : CanPort, sessPort w = some p → (recentFails s p).length < 4 →
            t.node.locked = s.node.locked ∧ t.node.loginFails.get p = recentFails s p ++ [s.pht.cycles])) ∧
      (Gives (.sessionLogout w 0) s fun t =>
        isService t.node w = false ∧ s.answeredTo t w 0x2012 0 (.data [])) ∧
      (∀ v : Byte, v ≠ 0 → exec (.sessionLogout w v) s = .next (s.told w 0x2012 0 (.abort 0x06090030)))) ∧
    (Gives (.sessionIdleTimeout w) s fun t => isService t.node w = false ∧ t = { s with node := t.node } ∧
      ∀ x : Session, x ≠ w → findSess t.node x = findSess s.node x) ∧
    (Gives (.challengeExpire w) s fun t => challenge t.node = none ∧
      isService t.node w = isService s.node w ∧ t = { s with node := t.node } ∧
      ∀ x : Session, x ≠ w → findSess t.node x = findSess s.node x) ∧
    (∀ p : CanPort, s.node.locked.get p = true → Gives (.loginLockoutEnd p) s fun t =>
      t.node.locked.get p = false ∧ stands t 0xFF01 p.val = false)

/-- A USDO request to another node or broadcast changes nothing. While another client's transfer is open on the port it aborts with 0x0800_0022. With the channel free: a plain read of an MGC-held object that may be read is answered with its value; a write of a read-only object aborts with 0x0601_0002, of a service-rank object by an open session with 0x0601_0000, of the wrong length with 0x0607_0010, and an unknown request specifier with 0x0504_0001, each leaving everything else as it was; an access to a control-held index that is not registered aborts with 0x0602_0000; a read of a registered object that its record and its chapter's layout allow goes to Mast firmware as a DICT_REQ with the next TAG while fewer than 8 are outstanding. A segment of no open transfer aborts with 0x0504_0001; on a classic port one with the wrong toggle bit ends the transfer with 0x0503_0000; one of an upload carries its next bytes (7 on a classic port; 60 on an FD port is the model's choice, log 112) and the transfer ends with the last of them; one of a download adds its bytes, and the last of them starts the write, while more bytes than announced end it with 0x0607_0010. 500 ms without a segment end the transfer with 0x0504_0000, which a client that is no longer served does not hear. -/
def Obligations.SdoTransfers : Prop :=
 (∀ (port : CanPort) (dst client : Byte) (index : W16) (sub : Byte) (s : State),
    let w : Session := .can port (client.setWidth 7)
    let i := index.toNat
    let ask := fun (op : SdoOp) => Instr.sdoRequest port dst client index sub op
    let told := fun (a : Answer) => s.told w i sub.toNat a
    (∀ op : SdoOp, dst = 0 ∨ dst.toNat ≠ s.node.nodeId.toNat → exec (ask op) s = .next s) ∧
    (dst ≠ 0 → dst.toNat = s.node.nodeId.toNat → client.toNat < 128 →
      (∀ (op : SdoOp) (n : Node) (x : Xfer), mgcUp s = true → sessServed s w = true → openSess s.node w = some n →
        s.node.chans.get port = some x → x.of (client.setWidth 7) = false →
        exec (ask op) s = .next (emit { s with node := n } (.dict w (.abort 0x08000022)))) ∧
      (s.mayAsk w →
        (exec (ask .unknown) s = .next (told (.abort 0x05040001))) ∧
        (∀ r : OdRow, i < 0x2800 → otpRuns s.otp = false → findRow i sub.toNat = .ok r → r.acc = .ro ∨ r.acc = .rw →
          i ≠ 0x2010 → i ≠ 0x2012 → i ≠ 0x2680 →
          exec (ask (.read false)) s = .next (told (.data (readValue s i sub.toNat)))) ∧
        (∀ (r : OdRow) (d : Bytes), i < 0x2800 → otpRuns s.otp = false → findRow i sub.toNat = .ok r → i ≠ 0x2680 →
          d.length ≤ 4096 →
          (r.acc = .ro → exec (ask (.write d.length d)) s = .next (told (.abort 0x06010002))) ∧
          (r.acc = .rw ∨ r.acc = .wo → r.svc = true → isService s.node w = false →
            exec (ask (.write d.length d)) s = .next (told (.abort 0x06010000))) ∧
          (r.acc = .rw ∨ r.acc = .wo → (r.svc = false ∨ isService s.node w = true) → r.len ≠ 0 → d.length ≠ r.len →
            exec (ask (.write d.length d)) s = .next (told (.abort 0x06070010)))) ∧
        (0x2800 ≤ i → i ≤ 0x43FF → mgcClientIndex i = false →
          (s.node.regs.find? fun r => r.index.toNat == i) = none →
          exec (ask (.read false)) s = .next (told (.abort 0x06020000))) ∧
        (∀ r : Reg, 0x2800 ≤ i → i ≤ 0x43FF → mgcClientIndex i = false →
          (s.node.regs.find? fun r => r.index.toNat == i) = some r → sub.toNat ≤ r.highest.toNat → r.access ≠ 2 →
          layoutRefuses { origin := .sess w, service := isService s.node w } i sub.toNat none = none →
          s.node.reqs.length < 8 →
          Gives (ask (.read false)) s fun t =>
            t.node.reqs = (s.asked w i sub.toNat).node.reqs ++
              [{ tag := s.node.nextTag, origin := .sess w, index := index, sub := sub, data := none }] ∧
            t.node.nextTag = tagAfter s.node.nextTag ∧ t.out = s.out)))) ∧
 (∀ (port : CanPort) (client : Byte) (toggle : Bool) (data : Bytes) (s : State), mgcUp s = true → client.toNat < 128 →
    let w : Session := .can port (client.setWidth 7)
    let put := fun (y : Option Xfer) => { s with node.chans := vput s.node.chans port y }
    let seg := Instr.sdoSegment port client toggle data
    (sessServed s w = true → s.node.chans.get port = none →
      exec seg s = .next (emit s (.dict w (.abort 0x05040001)))) ∧
    (∀ x : Xfer, s.node.chans.get port = some x → x.client = client → x.seg = true → x.waiting = false →
      (sessServed s w = true →
        (s.node.fd.get port = false → toggle ≠ x.toggle →
          exec seg s = .next (emit (put none) (.dict w (.abort 0x05030000)))) ∧
        ((s.node.fd.get port = true ∨ toggle = x.toggle) → x.down = none →
          let k := if s.node.fd.get port then 60 else 7
          exec seg s = .next (emit
            (put (if (x.data.drop k).isEmpty then none else some { x with data := x.data.drop k, toggle := !x.toggle }))
            (.dict w (.data (x.data.take k))))) ∧
        (∀ total : Nat, (s.node.fd.get port = true ∨ toggle = x.toggle) → x.down = some total →
          let d := x.data ++ data
          (total < d.length → exec seg s = .next (emit (put none) (.dict w (.abort 0x06070010)))) ∧
          (d.length < total →
            exec seg s = .next (emit (put (some { x with data := d, toggle := !x.toggle })) (.dict w (.data [])))) ∧
          (d.length = total → exec seg s = .next (sessAccess (put (some { x with waiting := true, data := [] })) w
            x.index.toNat x.sub.toNat (some d)))) ∧
        (exec (.sdoSegmentTimeout port) s = .next (emit (put none) (.dict w (.abort 0x05040000))))) ∧
      (sessServed s w = false → exec (.sdoSegmentTimeout port) s = .next (put none))))

/-- APP_REG and APP_UNREG of 1 to 111 whole records change the registrations record by record up to the first refused one and are answered with APP_REG_RSP, images of withdrawn objects going with them; any other message changes none and is answered with 0 accepted, its first index and reason 3 (the model's choice, log 163). A DICT_RSP with TAG 0 and status 0 that brings bytes for a mapped object replaces its image, and for another object does nothing more. A DICT_RSP that answers no outstanding request is counted in 0x2015:02; one that answers a request ends it, and its asker is answered with the data read, with the write's completion, which takes effect in the unit the object belongs to, or with an abort of Table 3-4, the one it brings when it is in that table (else which one is the model's free value, log 165). A request not answered in 250 ms is answered with 0x0800_0020, raises EMCY 0xFF02 and counts in 0x2015:01. -/
def Obligations.ControlHeldObjects : Prop :=
  ∀ (s u : State) (m : Msg),
    (takeMsg s 0x02 = some (m, u) →
      (recordsOk m.payload = true →
        let r := regAll (m.payload.length / 8) m.payload u.node.regs 0
        exec .appReg s = .next (appRsp { u with node.regs := r.2 } m.tag r.1)) ∧
      (recordsOk m.payload = false → exec .appReg s = .next (appRsp u m.tag (0, fieldLE m.payload 0 2, 3)))) ∧
    (takeMsg s 0x03 = some (m, u) →
      (recordsOk m.payload = true →
        let r := unregAll (m.payload.length / 8) m.payload u.node.regs 0
        Gives .appUnreg s fun t =>
          t = appRsp { u with node.regs := r.2, node.images := t.node.images } m.tag r.1 ∧
          (∀ (i sub : Nat), i < 65536 → sub < 256 → (∀ g ∈ r.2, g.index.toNat ≠ i) →
            Tbl.read (fun _ => ([] : Bytes)) t.node.images (odKey i sub) = []) ∧
          (∀ (i sub : Nat), i < 65536 → sub < 256 → (∃ g ∈ r.2, g.index.toNat = i) →
            Tbl.read (fun _ => ([] : Bytes)) t.node.images (odKey i sub) =
              Tbl.read (fun _ => ([] : Bytes)) u.node.images (odKey i sub))) ∧
      (recordsOk m.payload = false → exec .appUnreg s = .next (appRsp u m.tag (0, fieldLE m.payload 0 2, 3)))) ∧
    ((takeMsgIf s fun m => m.kind == 0x01 && m.tag == 0 && byteAt m.payload 3 == 0) = some (m, u) →
      let v := slice m.payload 8 (min 888 (fieldLE m.payload 4 4))
      ((u.node.regs.any fun r => r.index.toNat == fieldLE m.payload 0 2 && r.map) = true → v ≠ [] →
        Gives .imageUpdate s fun t =>
          Tbl.read (fun _ => ([] : Bytes)) t.node.images (odKey (fieldLE m.payload 0 2) (byteAt m.payload 2).toNat) = v ∧
          t.node.regs = u.node.regs ∧ t.mem = u.mem ∧ t.cleatA = u.cleatA) ∧
      ((u.node.regs.any fun r => r.index.toNat == fieldLE m.payload 0 2 && r.map) = false →
        exec .imageUpdate s = .next u)) ∧
    ((takeMsgIf s fun m => m.kind == 0x01 && !(m.tag == 0 && byteAt m.payload 3 == 0)) = some (m, u) → m.tag ≠ 0 →
      ((u.node.reqs.find? fun r => r.tag == m.tag) = none → exec .dictRsp s = .next { u with
        node.stats := vput u.node.stats 1 (u.node.stats.get 1 + 1) }) ∧
      (∀ r : DictReq, (u.node.reqs.find? fun r => r.tag == m.tag) = some r →
        let e : State := { u with node.reqs := u.node.reqs.erase r }
        let i := r.index.toNat
        let sub := r.sub.toNat
        (byteAt m.payload 3 ≠ 0 → ∃ k ∈ abortCodes, (fieldLE m.payload 4 4 ∈ abortCodes → k = fieldLE m.payload 4 4) ∧
          exec .dictRsp s = .next (answerOrigin e r.origin i sub (.abort k))) ∧
        (byteAt m.payload 3 = 0 → r.data = none → exec .dictRsp s = .next (answerOrigin e r.origin i sub
          (.data (slice m.payload 8 (min 888 (fieldLE m.payload 4 4)))))) ∧
        (∀ d : Bytes, byteAt m.payload 3 = 0 → r.data = some d → exec .dictRsp s
          = .next (answerOrigin (fnObject e i sub d) r.origin i sub (.data []))))) ∧
    (∀ r : DictReq, mgcUp s = true → (s.node.reqs.find? fun x => x.tag == r.tag) = some r →
      Gives (.dictReqTimeout r.tag) s fun t =>
        t.node.stats.get 0 = s.node.stats.get 0 + 1 ∧ t.node.reqs = s.node.reqs.erase r ∧
        (BitVec.ofNat 32 (0xFFFF02 + 2 ^ 24 * (r.index.toNat % 256))) ∈ t.node.history ∧
        (∀ w : Session, r.origin = .sess w → s.awaits w →
          s.answeredTo t w r.index.toNat r.sub.toNat (.abort 0x08000020)))

/-- A period of an enabled entry makes it due, counting an overrun when it was still unserved, and the entry that the port serves first, a free port, is requested. A response with a value makes its entry OK and writes network time and value to the entry's target. A timeout or an abort repeats the request until RETRIES are used up, and then makes the entry LOST with EMCY 0xFF03 standing. The end of a request frees the port when no entry of it is due. A write of HMB_DB while BUSY sets ERR and nothing else; one without GO changes nothing; one with a malformed record, or with 8 records in the host lane, sets ERR; any other makes the mailbox BUSY and its record is served as the mailbox session's access after those before it. The oldest response record, while the mailbox is BUSY, fills the response buffer, ends BUSY, sets DONE and advances the sequence number. -/
def Obligations.PollsAndMailbox : Prop :=
 (∀ (e : Fin 96) (s : State), pollRuns s = true →
    let port := pollPort s.node e
    let r := s.node.polls.get e
    let b := pollBytes s.node e
    let idle := ∀ k : Fin 96, (s.node.polls.get k).due = true →
      pollEnabled s.node k = false ∨ pollPort s.node k ≠ port
    (pollEnabled s.node e = true → Gives (.pollDue e) s fun t =>
      (t.node.polls.get e).overruns = (if r.due then r.overruns + 1 else r.overruns) ∧
      (s.node.client.get port ≠ none → (t.node.polls.get e).due = true ∧ t.out = s.out) ∧
      (s.node.client.get port = none → ∃ k : Fin 96, t.node.client.get port = some k ∧ k ≤ e ∧
        (t.node.polls.get k).due = false ∧
        t.out = s.out ++ [.poll port (byteAt (pollBytes s.node k) 0)
          (BitVec.ofNat 16 (fieldLE (pollBytes s.node k) 2 2)) (byteAt (pollBytes s.node k) 4)])) ∧
    (s.node.client.get port = some e →
      (∀ value : Bytes, Gives (.pollResponse port (.data value)) s fun t =>
        let z := tag0Write s (fieldLE b 8 2) (byteAt b 10).toNat (toLE 8 (ntNow s.pht).toNat ++ value.take 64)
        (t.node.polls.get e).fails = 0 ∧ (t.node.polls.get e).st = 1 ∧ stands t 0xFF03 (e.val + 1) = false ∧
        t.mem = z.mem ∧ t.cleatA = z.cleatA ∧ t.node.stats.get 5 = z.node.stats.get 5 ∧
        (idle → t.node.client.get port = none ∧ t.out = s.out)) ∧
      (∀ c : Instr, (c = .pollTimeout port ∨ ∃ k : Nat, c = .pollResponse port (.abort k)) → Gives c s fun t =>
        let retries := bits (byteAt b 5).toNat 0 4
        (r.fails < retries → (t.node.polls.get e).fails = r.fails + 1 ∧ t.node.client.get port = some e ∧
          t.out = s.out ++ [.poll port (byteAt b 0) (BitVec.ofNat 16 (fieldLE b 2 2)) (byteAt b 4)]) ∧
        (retries ≤ r.fails → (t.node.polls.get e).st = 3 ∧ stands t 0xFF03 (e.val + 1) = true ∧
          (idle → t.node.client.get port = none ∧ t.out = s.out))))) ∧
 (∀ s : State, pcieUp s = true →
    (∀ v : W32,
      (s.node.hmb.busy = true → exec (.hmbDoorbell v) s = .next { s with node.hmb.err := true }) ∧
      (s.node.hmb.busy = false → v.getLsbD 0 = false → exec (.hmbDoorbell v) s = .next s) ∧
      (s.node.hmb.busy = false → v.getLsbD 0 = true →
        (hmbOk s.node.hmb.req = false ∨ 8 ≤ s.cleatA.hostReq.length →
          exec (.hmbDoorbell v) s = .next { s with node.hmb.err := true }) ∧
        (hmbOk s.node.hmb.req = true → s.cleatA.hostReq.length < 8 →
          exec (.hmbDoorbell v) s = .next (hostServe { s with
            node.hmb.busy := true, cleatA.hostReq := s.cleatA.hostReq ++ [s.node.hmb.req] })) ∧
        (∀ n : Node, hmbOk s.node.hmb.req = true → s.cleatA.hostReq = [] →
          openSess { s.node with hmb.busy := true } .host = some n →
          let b := s.node.hmb.req
          exec (.hmbDoorbell v) s = .next (sessAccess { s with node := n } .host (fieldLE b 0 2) (byteAt b 2).toNat
            (if byteAt b 3 = 1 then some (slice b 8 (fieldLE b 4 4)) else none))))) ∧
    (∀ (r : Bytes) (rs : List Bytes), mgcUp s = true → s.cleatA.hostRsp = r :: rs → s.node.hmb.busy = true →
      Gives .hmbResponse s fun t =>
        t.cleatA.hostRsp = rs ∧ t.node.hmb.rsp = padTo 448 r ∧ t.node.hmb.busy = false ∧ t.node.hmb.done = true ∧
        t.node.hmb.seq = s.node.hmb.seq + 1 ∧ t.node.hmb.req = s.node.hmb.req))

/-- An enabling string in range, from a service session on a device whose record allows perturbations, with room in the EMCY queue, raises EMCY 0xFF60 with the kind in byte 4 before the kind becomes active with that string; out of range it aborts with 0x0609_0030, and not allowed with 0x0800_0022. A disabling string of a service session and the end of the duration leave the kind inactive and the other kinds as they were; when the kind was active and none is left, 0xFF60 no longer stands. An open session's disabling string aborts with 0x0601_0000. -/
def Obligations.Perturbations : Prop :=
  ∀ (w : Session) (k : Fin 8) (d : Bytes) (s : State), mgcUp s = true → k ≠ 0 →
    let ended := fun (t : State) =>
      t.pert.active.get k = false ∧ (∀ j : Fin 8, j ≠ k → t.pert.active.get j = s.pert.active.get j) ∧
      (s.pert.active.get k = true → (∀ j : Fin 8, t.pert.active.get j = false) → stands t 0xFF60 0 = false)
    (s.mayAsk w → d.length = 16 →
      ((byteAt d 0).getLsbD 0 = true →
        (pertOk k.val d = false →
          exec (.pertActivate w k d) s = .next (s.told w (0x5F10 + k.val) 0 (.abort 0x06090030))) ∧
        (pertOk k.val d = true → pertMay s (isService s.node w) = false →
          exec (.pertActivate w k d) s = .next (s.told w (0x5F10 + k.val) 0 (.abort 0x08000022))) ∧
        (pertOk k.val d = true → pertMay s (isService s.node w) = true → Gives (.pertActivate w k d) s fun t =>
          t.pert.active = vput s.pert.active k true ∧ t.pert.params = vput s.pert.params k d ∧
          stands t 0xFF60 0 = true ∧ t.node.history.head? = some (BitVec.ofNat 32 (0x80FF60 + 2 ^ 24 * k.val)) ∧
          s.answeredTo t w (0x5F10 + k.val) 0 (.data []))) ∧
      ((byteAt d 0).getLsbD 0 = false → isService s.node w = false →
        exec (.pertDisable w k d) s = .next (s.told w (0x5F10 + k.val) 0 (.abort 0x06010000))) ∧
      (byteAt d 0 = 0 → byteAt d 1 = 0 → isService s.node w = true → Gives (.pertDisable w k d) s fun t =>
        ended t ∧ t.pert.params.get k = d ∧ s.answeredTo t w (0x5F10 + k.val) 0 (.data []))) ∧
    (Gives (.pertExpire k) s ended)

/-! ## Fabric mode -/

/-- A write of SHL_FAB sets GO and FAB_WAIT, and EXPECT while GO was clear. A HELLO new to the agent is noted, in place of an older one of the same chip and serial number; one already noted changes nothing. At an election on a chip without a role: a chip whose own ID was seen with two serial numbers becomes fabric-orphan; else the chips heard whose IDs are not duplicated elect the lowest-numbered healthy one if they reach half of EXPECT and one more, and without such a head the chip becomes fabric-orphan; the head takes every chip heard as a member and brings the node up with its objects at their defaults under the machine's node ID, which leads to PRE-OPERATIONAL unless that ID is 0; any other chip becomes a member with that head, whose CAN sessions end. That HELLOs heard stand for reachable chips is the model's choice, log 117. The head that hears no heartbeat of a member takes it out of the member mask, notes it as lost, leaves it no route, so that its addresses end with NO_ROUTE, and raises the standing EMCY 0xFF41. LOST does the same to masks and addresses at a member, and makes the chip it names fabric-orphan. A member that loses the head's heartbeat notes the head as lost and becomes fabric-orphan, member under another head, or head itself with 0xFF41 standing for the old one. JOIN puts a chip back into the mask, and with EXPECT members again no 0xFF41 stands. A heartbeat of a member leaves in one flit when the port toward the head has nothing queued and has room and credits. -/
def Obligations.FabricBringUp : Prop :=
 (∀ s : State,
    (∀ v : W32, domUp s 15 = true → exec (.fabricGo v) s = .next { s with
      fab.expect := if s.fab.go then s.fab.expect else v.extractLsb' 0 7, fab.go := v.getLsbD 7,
      fab.fabWait := v.extractLsb' 8 6 }) ∧
    (fabUp s = true →
      (∀ r : HelloRec, s.fab.role ≠ 3 →
        (s.fab.hellos.contains r = true → exec (.hello r) s = .next s) ∧
        (s.fab.hellos.contains r = false → Gives (.hello r) s fun t =>
          t.fab.hellos = (s.fab.hellos.filter fun q => !(q.chip == r.chip && q.serial == r.serial)) ++ [r] ∧
          t = { s with fab := t.fab, shl := t.shl, out := t.out } ∧ t.fab = { s.fab with hellos := t.fab.hellos })) ∧
      (s.fab.go = true → s.fab.role = 0 →
        let cs := (chipsHeard s).filter fun r => !duplicated s r.chip
        let chips := (cs.map fun r => r.chip).eraseDups
        (duplicated s (ownChip s) = true → Gives .fabricElection s fun t => t.fab.role = 3 ∧ t.node.mode = 3) ∧
        (duplicated s (ownChip s) = false →
          (chips.length < s.fab.expect.toNat / 2 + 1 ∨ (∀ r ∈ cs, r.healthy = false) →
            Gives .fabricElection s fun t => t.fab.role = 3 ∧ t.node.mode = 3) ∧
          (∀ h ∈ cs, h.healthy = true → (∀ r ∈ cs, r.healthy = true → h.chip ≤ r.chip) →
            s.fab.expect.toNat / 2 + 1 ≤ chips.length →
            (h.chip = ownChip s → Gives .fabricElection s fun t =>
              t.fab.role = 1 ∧ t.node.mode = 1 ∧ t.fab.head = some h.chip ∧ t.node.od = [] ∧
              t.node.nodeId = t.fab.machineNode ∧ (t.node.nodeId ≠ 0 → t.node.nmt = .preOperational) ∧
              t.fab.machineNode = (if s.fab.machineNode = 0 then s.node.nodeId else s.fab.machineNode) ∧
              (∀ c : ChipId, t.fab.members.getLsbD c.val = true ↔ ∃ r ∈ cs, r.chip = c)) ∧
            (h.chip ≠ ownChip s → Gives .fabricElection s fun t =>
              t.fab = { s.fab with role := 2, head := some h.chip } ∧ t.node.mode = 2 ∧
              t.node.nodeId = s.node.nodeId ∧ (∀ x ∈ t.node.sessions, x.who = .host) ∧
              t = { s with fab := t.fab, node := t.node, tw := t.tw })))))) ∧
 (∀ s : State, fabUp s = true →
    (∀ c : ChipId, s.fab.role = 1 → c ≠ ownChip s → s.fab.members.getLsbD c.val = true →
      Gives (.chipLossTimeout c) s fun t =>
        t.fab.members = s.fab.members &&& ~~~(1#64 <<< c.val) ∧ t.fab.lost = s.fab.lost ||| (1#64 <<< c.val) ∧
        t.fab.routes.get c = 0xF ∧ t.fab.role = 1 ∧ stands t 0xFF41 c.val = true ∧ remoteErr t c = some .noRoute) ∧
    (∀ c : ChipId, s.fab.role = 1 ∨ s.fab.role = 2 →
      (c = ownChip s → Gives (.lost c) s fun t => t.fab.role = 3 ∧ t.node.mode = 3) ∧
      (c ≠ ownChip s → Gives (.lost c) s fun t =>
        t.fab.members = s.fab.members &&& ~~~(1#64 <<< c.val) ∧ t.fab.lost = s.fab.lost ||| (1#64 <<< c.val) ∧
        t.fab.role = s.fab.role ∧ remoteErr t c = some .noRoute)) ∧
    (∀ h : ChipId, s.fab.role = 2 → s.fab.head = some h → h ≠ ownChip s → Gives .headHeartbeatTimeout s fun t =>
      t.fab.lost.getLsbD h.val = true ∧
      (t.fab.role = 3 ∨ (t.fab.role = 2 ∧ ∃ k : ChipId, k ≠ h ∧ t.fab.head = some k) ∨
        (t.fab.role = 1 ∧ t.fab.head = some (ownChip s) ∧ t.fab.members.getLsbD h.val = false ∧
          stands t 0xFF41 h.val = true))) ∧
    (∀ r : HelloRec, s.fab.role = 1 → s.fab.members.getLsbD r.chip.val = false → Gives (.join r) s fun t =>
      t.fab.members = s.fab.members ||| (1#64 <<< r.chip.val) ∧
      t.fab.lost = s.fab.lost &&& ~~~(1#64 <<< r.chip.val) ∧ t.fab.role = 1 ∧
      ((memberList t).length = s.fab.expect.toNat → ∀ k : Nat, stands t 0xFF41 k = false)) ∧
    (∀ (h : ChipId) (p : ShlId), s.fab.role = 2 → s.fab.head = some h → h ≠ ownChip s → routePort s h = some p →
      (s.shl.get p).st = .active → (s.shl.get p).txq = [] → (s.shl.get p).replay.length < 64 →
      (∀ k : Fin 8, 5 ≤ (s.shl.get p).credits.get k) → Gives .fabricHeartbeat s fun t =>
        ∃ f : Bytes, f.length = 256 ∧ t.out = s.out ++ [.flit p f] ∧
          (t.shl.get p).replay = (s.shl.get p).replay ++ [((s.shl.get p).nextSeq, f)]) ∧
    (s.fab.role = 1 → Gives .fabricHeartbeat s fun t => t = { s with shl := t.shl, out := t.out }))

/-- Management records of an NMT state put a member's node in that state, one of reset communication or reset node in PRE-OPERATIONAL, after reset node with every session ended and the objects the node holds at their defaults; on another chip they leave its state. A record of membership makes the chip it includes a member with the mask, head, machine node ID and routes it carries; heartbeats leave masks and roles; an envelope that reaches a chip that is no member asks nothing and changes no object. A write of 0x2680 aborts with 0x0607_0010 for an envelope of fewer than 4 or more than 1,024 bytes, with 0x0609_0030 for an unknown operation, with 0x0800_0022 for another chip that is absent or lost or when this chip is not the head, and else waits for that chip's answer. The answer of that chip completes it, with what a read brought held for the session, or with an abort of Table 3-4, the one it brings when it is in that table (log 165); 100 ms without one abort it with 0x0800_0020. A hart's or core's read of another chip that has no response ends with cause SHROUD; an expired home reservation is gone and no other. -/
def Obligations.RoutedAndRemote : Prop :=
  ∀ s : State,
    (fabUp s = true →
      (∀ r : MgmtRec, ((∃ c : ChipId, r = .heartbeat c) ∨ r = .headHeartbeat) → Gives (.mgmt r) s fun t =>
        t.fab.role = s.fab.role ∧ t.fab.members = s.fab.members ∧ t.node.nmt = s.node.nmt) ∧
      (s.fab.role = 2 →
        (Gives (.mgmt (.nmt 4)) s fun t => t.node.nmt = .stopped) ∧
        (Gives (.mgmt (.nmt 5)) s fun t => t.node.nmt = .operational) ∧
        (Gives (.mgmt (.nmt 0x7F)) s fun t => t.node.nmt = .preOperational) ∧
        (Gives (.mgmt (.nmt 0x82)) s fun t => t.node.nmt = .preOperational) ∧
        (Gives (.mgmt (.nmt 0x81)) s fun t =>
          t.node.nmt = .preOperational ∧ t.node.od = [] ∧ t.node.sessions = [])) ∧
      (∀ code : Nat, s.fab.role ≠ 2 → Gives (.mgmt (.nmt code)) s fun t => t.node.nmt = s.node.nmt) ∧
      (∀ (c : ChipId) (svc : Bool) (d : Bytes), s.fab.role ≠ 2 → Gives (.mgmt (.envelope c svc d)) s fun t =>
        t.node.reqs = s.node.reqs ∧ t.node.od = s.node.od) ∧
      (∀ (mask : W64) (h : ChipId) (id : BitVec 7) (routes : List Nat), s.fab.role = 0 ∨ s.fab.role = 2 →
        mask.getLsbD (ownChip s).val = true → Gives (.mgmt (.members mask h id routes)) s fun t =>
          t.fab.role = 2 ∧ t.fab.members = mask ∧ t.fab.head = some h ∧ t.fab.machineNode = id ∧
          ∀ c : ChipId, t.fab.routes.get c = BitVec.ofNat 4 (routes.getD c.val 0xF))) ∧
    (∀ (w : Session) (c : ChipId) (d : Bytes), s.mayAsk w →
      let u := s.asked w 0x2680 (c.val + 1)
      let no := fun (k : Nat) => { s.told w 0x2680 (c.val + 1) (.abort k) with
        node.held := s.node.held.filter fun h => h.1 != w }
      (d.length < 4 ∨ 1024 < d.length → exec (.routeEnvelope w c d) s = .next (no 0x06070010)) ∧
      (4 ≤ d.length → d.length ≤ 1024 →
        (1 < (byteAt d 3).toNat → exec (.routeEnvelope w c d) s = .next (no 0x06090030)) ∧
        ((byteAt d 3).toNat ≤ 1 → c ≠ ownChip s →
          (s.fab.role ≠ 1 ∨ s.fab.members.getLsbD c.val = false ∨ s.fab.lost.getLsbD c.val = true →
            exec (.routeEnvelope w c d) s = .next (no 0x08000022)) ∧
          (s.fab.role = 1 → s.fab.members.getLsbD c.val = true → s.fab.lost.getLsbD c.val = false →
            Gives (.routeEnvelope w c d) s fun t =>
              t.node = { u.node with held := u.node.held.filter fun h => h.1 != w,
                                     routed := u.node.routed ++ [(w, c, decide (byteAt d 3 = 0))] } ∧
              t = { u with node := t.node, shl := t.shl, out := t.out })))) ∧
    (∀ (w : Session) (c : ChipId) (rd : Bool) (rest : List (Session × ChipId × Bool)),
      s.node.routed = (w, c, rd) :: rest → s.awaits w → c ≠ ownChip s →
      let ended := fun (t : State) (a : Answer) => t.node.routed = rest ∧ s.answeredTo t w 0x2680 (c.val + 1) a
      (fabUp s = true → s.fab.role = 1 →
        (∀ d : Bytes, Gives (.routeAnswer ⟨w, c⟩ (.data d)) s fun t =>
          ended t (.data []) ∧ (rd = true → (w, c, d) ∈ t.node.held)) ∧
        (∀ x : Nat, Gives (.routeAnswer ⟨w, c⟩ (.abort x)) s fun t => t.node.held = s.node.held ∧
          ∃ y ∈ abortCodes, (x ∈ abortCodes → y = x) ∧ ended t (.abort y))) ∧
      (mgcUp s = true → Gives (.routeTimeout ⟨w, c⟩) s fun t =>
        ended t (.abort 0x08000020) ∧ t.node.held = s.node.held)) ∧
    (∀ tag : BitVec 12, (∀ w ∈ s.fab.remotes, w.tag ≠ tag) → exec (.remoteResponseTimeout tag) s = .next s) ∧
    (∀ (w : Remote) (rest : List Remote), mgcUp s = true → s.fab.remotes = w :: rest →
      (∀ h : HartId, w.wait = .mast h → exec (.remoteResponseTimeout w.tag) s
        = .next (hartMod { s with fab.remotes := rest } h fun x => { x with rem := fillRem w.tag (.err 7) x.rem })) ∧
      (∀ c : CoreId, w.wait = .sparLoad c → exec (.remoteResponseTimeout w.tag) s
        = .next (coreMod { s with fab.remotes := rest } c fun x => { x with rem := fillRem w.tag (.err 7) x.rem }))) ∧
    (∀ (c : ChipId) (h : HartId), exec (.homeReservationExpire c h) s = .next { s with
      fab.homeRes := s.fab.homeRes.filter fun r => !(r.1 == c && r.2.1 == h) })

/-! ## Input pipeline -/

/-- A received record that the ACT lets its MAC store waits in the MAC's window with the MAC receive timestamp it carries (the phases beside it are the newest record's, the model's choice, log 171), or counts in 0x4001:07 when CAP does not run or the window is full; one that the ACT denies is not stored. Taking a fragment or a datagram with a wrong checksum counts in 0x4001:03, and a packet that is no UDP datagram of a configured port is dropped; a stream frame with a bad header counts in 0x4001:04, a frame of no context in 0x4001:01; a frame that finds no slot counts as overrun of its context. A frame that holds its whole sample makes its slot READY with the record's stamp and, where CAP may write, with the sample's bytes from offset 128; one that holds a part leaves the slot FILLING with the sample open. An RTP packet that opens a frame leaves its slot FILLING and the frame open under the packet's timestamp. -/
def Obligations.IngressAndFrames : Prop :=
  ∀ (e : CanPort) (s : State), s.capWf = true → s.memWf = true →
    (domUp s 17 = true → ∀ r : Bytes,
      (capUp s = false → exec (.ingressRecord e r) s = .next { s with cap.stats := vmod s.cap.stats 6 (· + 1) }) ∧
      (capUp s = true → actCheck s 26 accStore (capBase + 0x40000 + e.val * 0x10000) (ingressSize r) = none →
        (ingressUsed (s.cap.ingress.get e) + ingressSize r ≤ 0x10000 → exec (.ingressRecord e r) s = .next { s with
          cap.ingress := vput s.cap.ingress e (s.cap.ingress.get e ++ [(r, stampAt s (fieldLE r 0 8))]) }) ∧
        (0x10000 < ingressUsed (s.cap.ingress.get e) + ingressSize r →
          exec (.ingressRecord e r) s = .next { s with cap.stats := vmod s.cap.stats 6 (· + 1) })) ∧
      (∀ u : State, capUp s = true →
        actCheck s 26 accStore (capBase + 0x40000 + e.val * 0x10000) (ingressSize r) = some u →
        exec (.ingressRecord e r) s = .next u)) ∧
    (capUp s = true →
      let popped := { s with cap.ingress := vmod s.cap.ingress e List.tail }
      let counted := fun (i : Fin 8) => { s with
        cap.ingress := vmod s.cap.ingress e List.tail, cap.stats := vmod s.cap.stats i (· + 1) }
      (ingressHead s e = .none → exec (.sframeFragment e) s = .next s ∧ exec (.rtpPacket e) s = .next s) ∧
      (ingressHead s e = .bad →
        exec (.sframeFragment e) s = .next (counted 2) ∧ exec (.rtpPacket e) s = .next (counted 2)) ∧
      (ingressHead s e = .other →
        exec (.sframeFragment e) s = .next popped ∧ exec (.rtpPacket e) s = .next popped) ∧
      (∀ (u : Udp) (st : Bytes), ingressHead s e = .sf u st →
        (sfHeaderOk u = false → exec (.sframeFragment e) s = .next (counted 3)) ∧
        (sfHeaderOk u = true → ∀ n : Nat,
          let c := ctxOf s n
          let len := fieldBE u.data 24 4
          let here := fieldBE u.data 28 2
          (findCtx s fun c => (c.kind == 0 || c.kind == 1) && ethFits e.val u.src c &&
            c.match1.toNat == fieldBE u.data 4 4) = some n →
          c.kind = 0 → byteAt u.data 2 ≠ 0x10 → c.asm = none → c.newest = none → c.sgrp = 0 →
          c.refused ≠ some (BitVec.ofNat 32 (fieldBE u.data 8 2)) → len ≤ c.slotSize.toNat - 128 →
          (pickSlot c = none → Gives (.sframeFragment e) s fun t =>
            (ctxOf t n).ovr = c.ovr + 1 ∧ (ctxOf t n).slots = c.slots ∧ t.mem = s.mem) ∧
          (∀ k : Nat, pickSlot c = some k →
            (fieldBE u.data 12 4 = 0 → here = len → Gives (.sframeFragment e) s fun t =>
              (slotAt (ctxOf t n) k).st = .ready ∧ (slotAt (ctxOf t n) k).stamp = st ∧ (ctxOf t n).asm = none ∧
              (ctxOf t n).st = 2 ∧ (ctxOf t n).admitted = c.admitted + 1 ∧
              (actCheck s 18 accStore (c.slotAddr k + 128) here = none → ramErr s (c.slotAddr k + 128) here = none →
                t.rd (c.slotAddr k + 128) here = slice u.data 32 here)) ∧
            (here < len → Gives (.sframeFragment e) s fun t =>
              (slotAt (ctxOf t n) k).st = .filling ∧ (slotAt (ctxOf t n) k).stamp = st ∧
              ∃ a : CapAsm, (ctxOf t n).asm = some a ∧ a.slot = some k ∧ a.len = some len ∧
                a.ranges = [(fieldBE u.data 12 4, here)]))) ∧
        (sfHeaderOk u = true →
          (findCtx s fun c => (c.kind == 0 || c.kind == 1) && ethFits e.val u.src c &&
            c.match1.toNat == fieldBE u.data 4 4) = none → exec (.sframeFragment e) s = .next (counted 0)) ∧
        exec (.rtpPacket e) s = .next s) ∧
      (∀ (u : Udp) (st : Bytes), ingressHead s e = .rtp u st →
        (rtpOf u.data = none → exec (.rtpPacket e) s = .next (counted 0)) ∧
        (∀ r : Rtp, rtpOf u.data = some r →
          (findCtx popped fun c => c.kind == 2 && ethFits e.val u.src c && c.match1.toNat == r.ssrc) = none →
          exec (.rtpPacket e) s = .next (counted 0)) ∧
        (∀ (r : Rtp) (n k : Nat), rtpOf u.data = some r →
          (findCtx popped fun c => c.kind == 2 && ethFits e.val u.src c && c.match1.toNat == r.ssrc) = some n →
          let c := ctxOf s n
          let j := rtpJpeg c r.data
          c.asm = none → c.newest = none → c.sgrp = 0 → c.refused ≠ some r.ts → pickSlot c = some k → j.status = 0 →
          r.marker = false → j.ofs + j.data.length ≤ c.tofs.toNat - 128 → Gives (.rtpPacket e) s fun t =>
            (slotAt (ctxOf t n) k).st = .filling ∧ (slotAt (ctxOf t n) k).stamp = st ∧
            ∃ a : CapAsm, (ctxOf t n).asm = some a ∧ a.slot = some k ∧ a.seq = r.ts ∧ a.len = none)))

/-- While CAP runs: an open sample's timeout closes it. A read of CAP_ACQ takes a slot of an enabled host context, FILLING, and answers its number, or 0xFFFF without one; the push of its record makes it READY with the stamp of that moment; left FILLING it becomes FREE; CAP_REL frees a READY or HELD slot and no other. A high word written to CAP_ROI commits the value. A context's fields take what is written while EN is 0; while it is 1 only ROI, ROISZ and TIMERS do, and other writes abort with 0x0800_0022; STATE, ADMITTED and OVR cannot be written; a write of CFG with EN = 0 before it makes the slots that CFG says, and enables the context when it says so, WAITING, or SOURCE_LOST when its two-wire port is in FAULT. An enabled context whose loss time passes is SOURCE_LOST with EMCY 0xFF30 standing. A due window closes into a set of the nearest samples, or frees them when one is missing and PARTIAL is 0; a set whose samples are complete is offered with the next set number, or counted and discarded when it has lost a member and PARTIAL is 0, or has lost all (log 173). -/
def Obligations.ContextCommands : Prop :=
  ∀ s : State, s.capWf = true → capUp s = true →
    (∀ ctx : BitVec 12,
      let n := ctx.toNat
      let c := ctxOf s n
      (c.asm = none → exec (.assemblyTimeout ctx) s = .next s) ∧
      (∀ a : CapAsm, c.asm = some a → Gives (.assemblyTimeout ctx) s fun t => (ctxOf t n).asm = none ∧
        (∀ k : Nat, c.kind = 0 → a.slot = some k → (∀ l : Nat, a.len = some l → covered a.ranges l = false) →
          (slotAt (ctxOf t n) k).st = .free ∧ t.cap.stats.get 4 = s.cap.stats.get 4 + 1)) ∧
      (∀ by_ : RegParty, capParty s by_ = true →
        (c.en = false ∨ (c.kind ≠ 5 ∧ c.kind ≠ 6) →
          exec (.capAcq by_ ctx) s = .next (emit s (.answer (.data (toLE 4 0xFFFF))))) ∧
        (c.en = true → c.kind = 5 ∨ c.kind = 6 →
          (pickSlot c = none → Gives (.capAcq by_ ctx) s fun t =>
            t.out = s.out ++ [.answer (.data (toLE 4 0xFFFF))] ∧ (ctxOf t n).ovr = c.ovr + 1 ∧
            (ctxOf t n).slots = c.slots) ∧
          (∀ k : Nat, pickSlot c = some k → Gives (.capAcq by_ ctx) s fun t =>
            t.out = s.out ++ [.answer (.data (toLE 4 k))] ∧ (slotAt (ctxOf t n) k).st = .filling ∧
            (slotAt (ctxOf t n) k).host = true)) ∧
        (∀ r : Bytes, fieldLE r 0 2 % 4096 = n →
          let k := (byteAt r 2).toNat
          ((slotAt c k).host = true → (slotAt c k).st = .filling → k < c.slots.length → c.kind = 5 →
            Gives (.capPush by_ r) s fun t =>
              (slotAt (ctxOf t n) k).st = .ready ∧ (slotAt (ctxOf t n) k).stamp = stampNow s ∧
              (slotAt (ctxOf t n) k).host = false) ∧
          ((slotAt c k).host = false ∨ (slotAt c k).st ≠ .filling → exec (.capPush by_ r) s = .next s))) ∧
      (∀ slot : Byte,
        ((slotAt c slot.toNat).host = true → (slotAt c slot.toNat).st = .filling →
          Gives (.hostSlotTimeout ctx slot) s fun t => (slotAt (ctxOf t n) slot.toNat).st = .free) ∧
        ((slotAt c slot.toNat).host = false → exec (.hostSlotTimeout ctx slot) s = .next s)) ∧
      (∀ v : W32, bits v.toNat 0 12 = n →
        let k := bits v.toNat 16 8
        ((slotAt c k).st = .ready ∨ (slotAt c k).st = .held → Gives (.capRel v) s fun t =>
          (slotAt (ctxOf t n) k).st = .free ∧
          (∀ m j : Nat, (m, j) ≠ (n, k) → slotAt (ctxOf t m) j = slotAt (ctxOf s m) j)) ∧
        ((slotAt c k).st = .free ∨ (slotAt c k).st = .filling → exec (.capRel v) s = .next s)) ∧
      (∀ hi : W32, Gives (.capRoiCommit ctx hi) s fun t => (ctxOf t n).roiNow = some (hi ++ c.roiStage) ∧
        (ctxOf t n).roiAge = 0 ∧ (∀ m : Nat, m ≠ n → ctxOf t m = ctxOf s m)) ∧
      (ctlUp s = true → ∀ (f : Fin 16) (v : W64),
        (c.en = true → 1 ≤ f.val → f.val ≤ 12 → (f.val < 9 ∨ 11 < f.val) →
          exec (.contextWrite ctx f v) s = .next (emit s (.answer (.abort 0x08000022)))) ∧
        (13 ≤ f.val → exec (.contextWrite ctx f v) s = .next (emit s (.answer (.abort 0x06010002)))) ∧
        (f.val = 0 → exec (.contextWrite ctx f v) s = .next (emit s (.answer (.abort 0x06090011)))) ∧
        ((c.en = false ∧ 2 ≤ f.val ∧ f.val ≤ 12) ∨ (9 ≤ f.val ∧ f.val ≤ 11) → Gives (.contextWrite ctx f v) s fun t =>
          ctxRead (ctxOf t n) f.val = (if f.val = 5 then v.toNat else if f.val = 12 then v.toNat % 8 else v.toNat % 2 ^ 32) ∧
          (∀ g : Nat, 1 ≤ g → g ≤ 15 → g ≠ f.val → g ≠ 13 ∨ c.st ≠ 1 → ctxRead (ctxOf t n) g = ctxRead c g) ∧
          (∀ m : Nat, m ≠ n → ctxOf t m = ctxOf s m)) ∧
        (c.en = false → f.val = 1 → Gives (.contextWrite ctx f v) s fun t =>
          let y := ctxOf t n
          y.en = v.getLsbD 0 ∧ y.slots.length = bits v.toNat 16 8 ∧
          y.st = (if v.getLsbD 0 = false then 0
            else match ctxTw y with
              | some p => if (s.tw.get p).fault then 3 else 1
              | none => 1) ∧
          (∀ m : Nat, m ≠ n → ctxOf t m = ctxOf s m))) ∧
      (c.en = true → c.lossMs ≠ 0 → c.st ≠ 3 → Gives (.sourceLossTimeout ctx) s fun t =>
        (ctxOf t n).st = 3 ∧ stands t 0xFF30 n = true)) ∧
    (∀ (g : Fin 64) (waited : Bool) (w : AWindow), (s.cap.windows.find? fun w => w.group == g.val) = some w →
      let b := alignCfg s g.val
      let ms := membersOf s g.val
      let sel := ms.filterMap fun e => (nearest b w.key e.2).map fun k => (e.1, k)
      (windowPassed s b w.key = true ∨ (waited = true ∧ alignPhase b = true) → Gives (.alignWindowClose g waited) s fun t =>
        t.cap.windows = s.cap.windows.erase w ∧
        (sel.length = ms.length ∨ alignPartial b = true → t.cap.sets = s.cap.sets ++
          [{ group := g.val, key := w.key, members := sel, missing := decide (sel.length < ms.length) }]) ∧
        (sel.length < ms.length → alignPartial b = false → t.cap.sets.length = s.cap.sets.length ∧
          (∀ p ∈ sel, (slotAt (ctxOf t p.1) p.2).st = .free))) ∧
      (windowPassed s b w.key = false → alignPhase b = false → exec (.alignWindowClose g waited) s = .next s)) ∧
    (∀ (g : Fin 64) (x : ASet), (s.cap.sets.find? fun x => x.group == g.val) = some x →
      let lost := x.missing = true ∧ (alignPartial (alignCfg s g.val) = false ∨ x.members = [])
      ((x.members.all fun p => (slotAt (ctxOf s p.1) p.2).done) = true → lost → Gives (.alignSetOffer g) s fun t =>
        t.cap.offered = s.cap.offered ∧ t.cap.sets.length + 1 = s.cap.sets.length ∧
        t.cap.alignLost = Tbl.write (fun _ => 0) s.cap.alignLost g.val
          (Tbl.read (fun _ => 0) s.cap.alignLost g.val + 1) ∧
        (∀ p ∈ x.members, (slotAt (ctxOf t p.1) p.2).st = .free)) ∧
      ((x.members.all fun p => (slotAt (ctxOf s p.1) p.2).done) = true → ¬ lost → Gives (.alignSetOffer g) s fun t =>
        t.cap.offered = s.cap.offered ++
          [{ group := g.val, seq := Tbl.read (fun _ => 0) s.cap.lastSet g.val + 1, members := x.members }] ∧
        Tbl.read (fun _ => 0) t.cap.lastSet g.val = Tbl.read (fun _ => 0) s.cap.lastSet g.val + 1) ∧
      ((x.members.all fun p => (slotAt (ctxOf s p.1) p.2).done) = false → exec (.alignSetOffer g) s = .next s))

/-- A frame start of a matched context takes a slot and opens the frame; one of none counts in 0x4001:01. A frame start, frame end or packet with two header errors, and a packet of an unlisted type, is discarded and counted, and one corrected header error is counted; a line is counted, and one with a bad CRC or too few pixels counts as damaged. A frame end closes the frame with its slot decoded. A free JDU starts the first queued frame that may start; each decoded row advances it; after the last the slot is decoded and the JDU free. A due poll queues on its port a write of the register byte and a read of LEN bytes, which a context that polls on a slot's firings does not at its period; its end with data is a sample READY with the stamp of its START, and one without data leaves every slot as it was. -/
def Obligations.CsiJpegAndPolls : Prop :=
  ∀ s : State, s.capWf = true →
    (capUp s = true → ∀ rx vc : SrcId,
      (∀ n : Nat, 2 ≤ n → ∀ c : Instr, c = .csiFrameStart rx ⟨n, vc⟩ ∨ c = .csiFrameEnd rx ⟨n, vc⟩ →
        exec c s = .next { s with cap.stats := vmod s.cap.stats 5 (· + 1) }) ∧
      (∀ errs : Nat, errs ≤ 1 →
        let u : State := if errs = 1 then { s with cap.stats := vmod s.cap.stats 7 (· + 1) } else s
        (csiFind s rx vc = none → ∀ o : Option Nat,
          (findCtx s fun c => c.kind == 3 && c.port == 3 + rx.val && bits c.match1.toNat 0 2 == vc.val) = o →
          (o = none →
            exec (.csiFrameStart rx ⟨errs, vc⟩) s = .next { u with cap.stats := vmod u.cap.stats 0 (· + 1) }) ∧
          (∀ n : Nat, o = some n → pickSlot (ctxOf s n) = none → Gives (.csiFrameStart rx ⟨errs, vc⟩) s fun t =>
            (ctxOf t n).ovr = (ctxOf s n).ovr + 1 ∧ csiFind t rx vc = none ∧ t.cap.stats = u.cap.stats) ∧
          (∀ n k : Nat, o = some n → pickSlot (ctxOf s n) = some k → Gives (.csiFrameStart rx ⟨errs, vc⟩) s fun t =>
            csiFind t rx vc = some { rx := rx, vc := vc, ctx := n, slot := k, lines := 0, embedded := 0, damaged := 0, ranges := [] } ∧
            (slotAt (ctxOf t n) k).st = .filling ∧ (slotAt (ctxOf t n) k).stamp = stampNow s ∧
            t.cap.stats = u.cap.stats)) ∧
        (csiFind s rx vc = none → exec (.csiFrameEnd rx ⟨errs, vc⟩) s = .next u) ∧
        (∀ f : CsiFrame, csiFind s rx vc = some f → f.slot < (ctxOf s f.ctx).slots.length →
          Gives (.csiFrameEnd rx ⟨errs, vc⟩) s fun t => csiFind t rx vc = none ∧
            (slotAt (ctxOf t f.ctx) f.slot).decoded = true ∧ (slotAt (ctxOf t f.ctx) f.slot).done = true)) ∧
      (∀ p : CsiPacket, p.vc = vc →
        (2 ≤ p.headerErrs → exec (.csiPacket rx p) s = .next { s with cap.stats := vmod s.cap.stats 5 (· + 1) }) ∧
        (p.headerErrs = 0 → p.dataType = 0x02 ∨ p.dataType = 0x03 → exec (.csiPacket rx p) s = .next s) ∧
        (p.headerErrs = 0 → p.dataType ∉ [0x02, 0x03, 0x2A, 0x2B, 0x2C, 0x1E, 0x12] →
          exec (.csiPacket rx p) s = .next { s with cap.stats := vmod s.cap.stats 5 (· + 1) }) ∧
        (∀ f : CsiFrame, csiFind s rx vc = some f → f.lines < (ctxOf s f.ctx).height → p.headerErrs ≤ 1 →
          p.dataType ∈ [0x2A, 0x2B, 0x2C, 0x1E] → Gives (.csiPacket rx p) s fun t =>
            t.cap.stats.get 7 = s.cap.stats.get 7 + BitVec.ofNat 32 p.headerErrs ∧
            ∃ g : CsiFrame, csiFind t rx vc = some g ∧ g.lines = f.lines + 1 ∧ g.slot = f.slot ∧
              g.damaged = f.damaged + b2n (!p.crcOk || decide
                ((csiPixels (ctxOf s f.ctx) p.dataType.toNat p.payload).length < (ctxOf s f.ctx).width))))) ∧
    (∀ j : CanPort, jduUp s j = true →
      (s.cap.jdu.get j = none → s.cap.jpegQ.find? (jpegMayStart s) = none → exec (.jpegDecodeStart j) s = .next s) ∧
      (∀ f : JduJob, s.cap.jdu.get j = none → s.cap.jpegQ.find? (jpegMayStart s) = some f →
        Gives (.jpegDecodeStart j) s fun t => t.cap.jpegQ = s.cap.jpegQ.erase f ∧
          ∃ x : Option (Nat × Byte), t.cap.jdu.get j = some { f with flip := x } ∧ (s.pert.active.get 6 = false → x = none)) ∧
      (∀ f : JduJob, s.cap.jdu.get j = some f →
        exec (.jpegDecodeStart j) s = .next s ∧
        (f.row < (slotRoi s f.ctx f.slot).h → exec (.jpegDecodeEnd j) s = .next s ∧
          Gives (.jpegRowDecoded j) s fun t => t.cap.jdu.get j = some { f with row := f.row + 1 }) ∧
        ((slotRoi s f.ctx f.slot).h ≤ f.row → exec (.jpegRowDecoded j) s = .next s ∧
          (f.slot < (ctxOf s f.ctx).slots.length → Gives (.jpegDecodeEnd j) s fun t =>
            t.cap.jdu.get j = none ∧ (slotAt (ctxOf t f.ctx) f.slot).decoded = true)))) ∧
    (∀ (ctx : BitVec 12) (i : TwId), capUp s = true → (ctxOf s ctx.toNat).en = true →
      ctxTw (ctxOf s ctx.toNat) = some i →
      let m := (ctxOf s ctx.toNat).match1.toNat
      ((ctxOf s ctx.toNat).slotTrig = true → exec (.twPollDue ctx) s = .next s) ∧
      (twUp s i = true → (ctxOf s ctx.toNat).kind = 4 → (ctxOf s ctx.toNat).slotTrig = false →
        (ctxOf s ctx.toNat).twDue = false → (twPort s i).fault = false →
        Gives (.twPollDue ctx) s fun t => (ctxOf t ctx.toNat).twDue = true ∧
          (twPort t i).queue = (twPort s i).queue ++ [{
            origin := .ctx ctx.toNat, addr := BitVec.ofNat 7 (bits m 0 7),
            wdata := [BitVec.ofNat 8 (bits m 8 8)], rlen := bits m 16 8 + 1 }]) ∧
      (∀ (st : Bytes) (d : Option Bytes) (rest : List (Nat × Bytes × Option Bytes)),
        (twPort s i).polled = (ctx.toNat, st, d) :: rest →
        (d = none → Gives (.twPollDone ctx) s fun t => (twPort t i).polled = rest ∧
          (ctxOf t ctx.toNat).twDue = false ∧ (ctxOf t ctx.toNat).slots = (ctxOf s ctx.toNat).slots) ∧
        (∀ (b : Bytes) (k : Nat), d = some b → pickSlot (ctxOf s ctx.toNat) = some k →
          Gives (.twPollDone ctx) s fun t => (twPort t i).polled = rest ∧ (ctxOf t ctx.toNat).twDue = false ∧
            (slotAt (ctxOf t ctx.toNat) k).st = .ready ∧ (slotAt (ctxOf t ctx.toNat) k).stamp = st)))

/-! ## Spar cores and the Eaves engine -/

/-- A running core that does not wait, is not being recalled, has no TILE active or suspended, and is outside an RPT. Past the ITCM issue halts with FETCH, on an illegal bundle with ILLEGAL, and memory stays. A bundle whose only slot is SB: a NOP goes on with every data register as it was and counts one issue; MOVI writes its register; a branch goes to its target in the ITCM or halts with FETCH; WAITPH passes and clears the slot's pending bit, or waits; TRAP halts; DONE idles the core, or, while stores of it to other chips are not acknowledged, makes it wait for them with nothing more to issue. An integer vector addition writes the lanes whose predicate bit holds, saturated when SAT is set, and no other register. A vector store to the core's own TCM stores its bytes and changes no other byte; a scalar load from it loads four. -/
def Obligations.BundleIssued : Prop :=
  ∀ (c : CoreId) (s : State), sparRuns s c = true → (coreOf s c).waiting = false → (coreOf s c).closing = false →
    (coreOf s c).recallTo = none → (coreOf s c).tile.active = false → (coreOf s c).tile.susp = false →
    (coreOf s c).rptLeft = 0 →
    let x := coreOf s c
    let b := bundleOf (s.rdLE (itcmBase c.val + x.pc.toNat / 32 * 32) 32)
    let halts := fun (code : W16) => Gives (.bundleIssue c) s fun t =>
      (coreOf t c).state = 2 ∧ (coreOf t c).fcode = code ∧ t.mem = s.mem
    (0x20000 ≤ x.pc.toNat → halts fcFetch) ∧
    (x.pc.toNat < 0x20000 → bundleIllegal b = true → halts fcIllegal) ∧
    (x.pc.toNat < 0x20000 → bundleIllegal b = false → b.va1 = 0 → b.ls1 = 0 → b.tm = 0 →
      (b.ls0 = 0 → b.va0 = 0 →
        (b.sb = 0 → Gives (.bundleIssue c) s fun t => (coreOf t c).pc = (advance x).pc ∧ (coreOf t c).v = x.v ∧
          (coreOf t c).acc = x.acc ∧ (coreOf t c).d = x.d ∧ (coreOf t c).a = x.a ∧ (coreOf t c).p = x.p ∧
          (coreOf t c).cnt64.get 1 = x.cnt64.get 1 + 1 ∧ t.mem = s.mem ∧ t.out = s.out ∧ t.reef = s.reef) ∧
        (sbActs x b.sb = true →
          (slotOp b.sb = 0x10 → Gives (.bundleIssue c) s fun t => sbGetInt (coreOf t c) (sbRd b.sb) = sbImm b.sb ∧
            (∀ r : Fin 32, r ≠ sbRd b.sb → sbGet (coreOf t c) r = sbGet x r) ∧ (coreOf t c).pc = (advance x).pc ∧
            t.mem = s.mem) ∧
          (slotOp b.sb = 0x20 →
            (inItcm (brTarget x b.sb) = true → Gives (.bundleIssue c) s fun t =>
              (coreOf t c).pc = alignPc (brTarget x b.sb) ∧ (coreOf t c).loops = x.loops ∧ t.mem = s.mem) ∧
            (inItcm (brTarget x b.sb) = false → halts fcFetch)) ∧
          (slotOp b.sb = 0x26 →
            let n := (waitphOf b.sb).1
            (x.pend.getLsbD n.val = true → Gives (.bundleIssue c) s fun t => (coreOf t c).wait = .none ∧
              (coreOf t c).pend = x.pend &&& ~~~(1#64 <<< n.val) ∧ (coreOf t c).pc = (advance x).pc) ∧
            (x.pend.getLsbD n.val = false → Gives (.bundleIssue c) s fun t =>
              (coreOf t c).wait = .ph n (waitphOf b.sb).2 false ∧ (coreOf t c).pc = x.pc)) ∧
          (slotOp b.sb = 0x2C → halts fcTrap) ∧
          (slotOp b.sb = 0x2B →
            (sparStoresOut s c = false → Gives (.bundleIssue c) s fun t => (coreOf t c).state = 0 ∧
              (coreOf t c).done = true ∧ t.mem = s.mem) ∧
            (sparStoresOut s c = true → Gives (.bundleIssue c) s fun t => (coreOf t c).state = 1 ∧
              (coreOf t c).done = x.done ∧ t.mem = s.mem ∧ exec (.bundleIssue c) t = .next t)))) ∧
      (b.ls0 = 0 → b.sb = 0 → slotOp b.va0 = 0x01 → vaEt b.va0 ≤ 2 → Gives (.bundleIssue c) s fun t =>
        let k := etBits (vaEt b.va0)
        let vd : Fin 32 := Fin.ofNat 32 (vaVd b.va0)
        (∀ i : Nat, i < 512 / k → laneBits ((coreOf t c).v.get vd) k i =
          if (slotPred x b.va0).getLsbD i then
            satInt k (vaSat b.va0) (sext k (laneBits (x.v.get (vaA b.va0)) k i) + sext k (laneBits (x.v.get (vaB b.va0)) k i))
          else laneBits (x.v.get vd) k i) ∧
        (∀ r : Fin 32, r ≠ vd → (coreOf t c).v.get r = x.v.get r) ∧ (coreOf t c).acc = x.acc ∧ (coreOf t c).d = x.d ∧
        (coreOf t c).a = x.a ∧ (coreOf t c).p = x.p ∧ (coreOf t c).cb = x.cb ∧ (coreOf t c).stage = x.stage ∧
        t.mem = s.mem) ∧
      (b.va0 = 0 → b.sb = 0 → lsAm b.ls0 = 0 → bitOf b.ls0 10 = false → s.memWf = true → ∀ p : Nat,
        placeOf s (wrapInt 48 ((x.a.get (lsAb b.ls0)).toNat + lsOfs b.ls0)) = .here p →
        (slotOp b.ls0 = 0x02 → ownTcm c p (lsSz b.ls0) = true → Gives (.bundleIssue c) s fun t =>
          t.rd p (lsSz b.ls0) = toLE (lsSz b.ls0) (x.v.get (Fin.ofNat 32 (lsReg b.ls0))).toNat ∧
          (∀ q : Nat, q < p ∨ p + lsSz b.ls0 ≤ q → memRead t.mem q = memRead s.mem q) ∧
          (coreOf t c).v = x.v ∧ (coreOf t c).a = x.a) ∧
        (slotOp b.ls0 = 0x04 → ownTcm c p 4 = true → Gives (.bundleIssue c) s fun t =>
          (coreOf t c).d = vput x.d (Fin.ofNat 16 (lsReg b.ls0)) (BitVec.ofNat 32 (s.rdLE p 4)) ∧
          (coreOf t c).v = x.v ∧ (coreOf t c).a = x.a ∧ t.mem = s.mem)))

/-- A waiting core whose slot's event has arrived goes on past its WAITPH with the pending bit cleared. With GIE set and an enabled line pending, an interrupt is taken outside a handler, an RPT, a running TILE, a recall, a wait that allows none and the bundle after such a wait: the lowest such line, GIE clear, the address of the interrupted bundle in EPC, a0 to a7 exchanged with the shadow set, and the line's vector next. A watchdog, an uncorrectable TCM error and a MAC parity error are reported with their CODE and assert the core's fence line; a corrected error only counts. A write of 1 to SP_CNTCLR clears every counter. A TILE that completes is inactive with STATUS OK or FORMAT written, or halts its core. One that an interrupt suspends is inactive: suspended, with its next row noted at pass 0, when rows are left, and else ended with its STATUS; with no such interrupt nothing changes. -/
def Obligations.SparEvents : Prop :=
  ∀ (c : CoreId) (s : State),
    let x := coreOf s c
    let ready : Prop := x.gie = true ∧ x.irq &&& x.ie ≠ 0 ∧ x.inHandler = false ∧ x.irqHold = false ∧
      x.closing = false ∧ x.rptLeft = 0 ∧ x.recallTo = none ∧
      (x.wait = .none ∨ ∃ (n : PhtSlotId) (due : Bool), x.wait = .ph n true due)
    (sparRuns s c = true → ∀ (n : PhtSlotId) (iw due : Bool), x.wait = .ph n iw due →
      (x.pend.getLsbD n.val = true → Gives (.waitphResume c) s fun t => (coreOf t c).wait = .none ∧
        (coreOf t c).pend = x.pend &&& ~~~(1#64 <<< n.val) ∧ (coreOf t c).pc = (advance x).pc ∧
        (coreOf t c).irqHold = !iw) ∧
      (x.pend.getLsbD n.val = false → exec (.waitphResume c) s = .next s)) ∧
    (sparRuns s c = true →
      (ready → x.tile.active = false → Gives (.sparInterrupt c) s fun t =>
        let y := coreOf t c
        let n := irqLine x
        y.gie = false ∧ y.inHandler = true ∧ y.epc = BitVec.ofNat 64 x.pc.toNat ∧ y.irq.getLsbD n = false ∧
        (x.ivec.toNat + 32 * n < 0x20000 → y.pc.toNat = (x.ivec.toNat + 32 * n) / 32 * 32) ∧
        (∀ i : Fin 8, y.a.get (Fin.ofNat 16 i.val) = x.shA.get i ∧ y.shA.get i = x.a.get (Fin.ofNat 16 i.val)) ∧
        y.v = x.v ∧ y.acc = x.acc ∧ y.d = x.d ∧ t.mem = s.mem) ∧
      (¬ ready ∨ x.tile.active = true → exec (.sparInterrupt c) s = .next s)) ∧
    (let fenced := fun (i : Instr) (code : W16) (det : W64) => Gives i s fun t =>
        (s.boot.dprActive = false → t.cleatC.lines = s.cleatC.lines ||| (1#40 <<< c.val)) ∧
        (s.cleatC.fifo.length < 32 → t.cleatC.fifo = s.cleatC.fifo ++ [{
          unit := BitVec.ofNat 8 c.val, cls := 1, code := code, detail := det, nt := (ntNow s.pht).setWidth 32 }]);
      (sparRuns s c = true → x.waiting = false → fenced (.sparWatchdog c) fcWdt 0) ∧
      (x.waiting = true → exec (.sparWatchdog c) s = .next s) ∧
      (sparUp s c = true → (∀ o : Nat, fenced (.tcmError c (.uncorrectable o)) fcTcm (BitVec.ofNat 64 o)) ∧
        fenced (.tcmError c .macParity) fcMac 0 ∧ Gives (.tcmError c .corrected) s fun t =>
          (coreOf t c).cnt32 = vmod x.cnt32 cEcc (fun k => satAdd32 k 1) ∧ t.cleatC = s.cleatC)) ∧
    (domUp s (sparDom c) = true → ∀ v : W32,
      (v.getLsbD 0 = true → Gives (.spCntclr c v) s fun t => (∀ i : Fin 3, (coreOf t c).cnt64.get i = 0) ∧
        (∀ i : Fin 10, (coreOf t c).cnt32.get i = 0) ∧ (coreOf t c).satUnsure = false ∧ (coreOf t c).v = x.v) ∧
      (v.getLsbD 0 = false → exec (.spCntclr c v) s = .next s)) ∧
    (tileActs s c = true → s.memWf = true →
      let status := fun (t : State) => memRead t.mem (dtcmBase c.val + 64 * x.tile.desc.toNat + 0x60)
      let ended := fun (t : State) => (coreOf t c).tile.active = false ∧
        ((coreOf t c).state = 2 ∨ (coreOf t c).tile.susp = false ∧ (status t = 0 ∨ status t = 3))
      Gives (.tileComplete c) s ended ∧
      (∀ rows : Nat, let n := min (max 1 rows) (tileLeft x)
        (sparRuns s c = true → ready → n = tileLeft x → Gives (.tileSuspend c rows) s ended) ∧
        (sparRuns s c = true → ready → n < tileLeft x → Gives (.tileSuspend c rows) s fun t =>
          let y := (coreOf t c).tile
          y.active = false ∧ ((coreOf t c).state = 2 ∨ (y.susp = false ∧ status t = 3) ∨
            (y.susp = true ∧ y.row = x.tile.row + BitVec.ofNat 15 n ∧ y.pass = 0 ∧ y.desc = x.tile.desc))) ∧
        (¬ ready → exec (.tileSuspend c rows) s = .next s)))

/-- An idle engine takes the descriptor offered to it: one it can run starts, with the mode of its input channels; one that is UNSUPPORTED or EMPTY ends at once with STATUS 2 or 1 written, counts, and signals the scheduler. A running descriptor ends with the engine idle, done, and one more descriptor counted. A buffer or parity error of the engine is reported as a fence-class fault of unit 0x10 and asserts that unit's line. With nothing offered, or while it is busy or down, nothing changes. -/
def Obligations.EavesEngine : Prop :=
  ∀ s : State,
    (s.ee.offered = none ∨ eeUp s = false ∨ s.ee.state ≠ 0 → exec .eeDescriptor s = .next s) ∧
    (∀ a : Nat, s.ee.offered = some a → eeUp s = true → s.ee.state = 0 → s.memWf = true →
      actCheck s 16 accLoad a 128 = none → ramErr s a 128 = none →
      let d := convDesc (s.rd a 128)
      (d.eavesOk = true → d.isEmpty = false → Gives .eeDescriptor s fun t =>
        t.ee.state = 1 ∧ t.ee.running = some a ∧ t.ee.offered = none ∧ t.ee.mode = decide (8 < d.cin) ∧
        t.ee.edesc = s.rd a 128 ∧ t.mem = s.mem) ∧
      (d.eavesOk = false ∨ d.isEmpty = true → Gives .eeDescriptor s fun t =>
        t.ee.state = 0 ∧ t.ee.running = none ∧ t.ee.done = true ∧ t.ee.desc = satAdd32 s.ee.desc 1 ∧
        (actCheck s 16 accStore (a + 0x60) 1 = none → ramErr s (a + 0x60) 1 = none →
          memRead t.mem (a + 0x60) = if d.eavesOk then 1 else 2))) ∧
    (∀ a : Nat, s.ee.running = some a → eeUp s = true → s.ee.state = 1 → Gives .eeDescriptorEnd s fun t =>
      t.ee.state = 0 ∧ t.ee.running = none ∧ t.ee.done = true ∧ t.ee.desc = satAdd32 s.ee.desc 1) ∧
    (eeUp s = true → ∀ mac : Bool, Gives (.eeError mac) s fun t =>
      (s.boot.dprActive = false → t.cleatC.lines.getLsbD 0x10 = true) ∧
      (s.cleatC.fifo.length < 32 → t.cleatC.fifo = s.cleatC.fifo ++ [{
        unit := 0x10, cls := 1, code := if mac then 2 else 1, detail := 0, nt := (ntNow s.pht).setWidth 32 }]))

/-! ## The course scheduler -/

/-- LOAD of an idle plan slot makes it INVALID when it cannot be read, its header has the wrong magic, version or sizes, or a record is bad (log 70), and LOADED with the header's hash and one group for each record when header and records are good; of a slot in use it changes nothing. A plan loaded to an idle core for the first ready course stands in its ITCM and the core holds the plan. A taken job without deadline and with an input is active under the next tag, and its queue's next job follows; a bad one completes at once with status 6. A job whose courses are done completes: it is active no longer, its queue counts it, its record is written. A crossed phase deadline becomes a time; a passed time expires the job, ends it with status 2 when DROP is set and no higher one stands, and is met when only copies are left. -/
def Obligations.PlansAndJobs : Prop :=
  ∀ s : State, cscUp s = true →
    (∀ (p : PhtSlotId) (v : W32),
      (v.getLsbD 0 = false ∨ planBusy s p = true → exec (.planLoad p v) s = .next s) ∧
      (v.getLsbD 0 = true → planBusy s p = false → ∀ (h : Bytes) (u : State),
        seqRead s 20 none (planOf s p).image.toNat 64 = (.ok h, u) →
        let bad := fieldLE h 0 4 ≠ 0x574A504C ∨ fieldLE h 4 2 ≠ 1 ∨ fieldLE h 6 2 < 1 ∨ 64 < fieldLE h 6 2 ∨
          120 * 1024 < fieldLE h 0xC 4 ∨ 2048 < fieldLE h 0x14 4
        let invalid := Gives (.planLoad p v) s fun t => (planOf t p).state = 2 ∧ (planOf t p).groups = []
        (bad → invalid) ∧
        (¬ bad → ∀ (gs : Bytes) (w : State),
          seqRead u 20 none ((planOf s p).image.toNat + fieldLE h 0x18 4) (64 * fieldLE h 6 2) = (.ok gs, w) →
          let good := (List.range (fieldLE h 6 2)).all fun i =>
            (groupOf (slice gs (64 * i) 64)).ok (slice gs (64 * i) 64) (fieldLE h 6 2) s.csc.stgSize.toNat
          (good = false → invalid) ∧
          (good = true → Gives (.planLoad p v) s fun t => (planOf t p).state = 1 ∧
            (planOf t p).hash = BitVec.ofNat 64 (fieldLE h 0x20 8) ∧
            (planOf t p).groups = (List.range (fieldLE h 6 2)).map (fun i => groupOf (slice gs (64 * i) 64)) ∧
            ∀ q : PhtSlotId, q ≠ p → planOf t q = planOf s q))) ∧
      (v.getLsbD 0 = true → planBusy s p = false → ∀ (e : BusErr) (u : State),
        seqRead s 20 none (planOf s p).image.toNat 64 = (.error e, u) →
        Gives (.planLoad p v) s fun t => (planOf t p).state = 2 ∧ (planOf t p).groups = [])) ∧
    (∀ (c : CoreId) (j : Job) (gi k e : Nat) (g : Group) (rest : List (Job × Nat × Nat)) (code tab : Bytes) (u w : State),
      let x := planOf s j.plan
      coreFree s c = true → readyList s = (j, gi, k) :: rest → planGroup s j gi = some g → sparEntry s g = some e →
      (coreOf s c).plan ≠ some j.plan → s.memWf = true →
      seqRead s 20 none (x.image.toNat + x.codeOff.toNat) x.codeLen.toNat = (.ok code, u) →
      seqRead u 20 none (x.image.toNat + x.srfOff.toNat) (4 * x.srfN.toNat) = (.ok tab, w) →
      Gives (.planCoreLoad c) s fun t => (coreOf t c).plan = some j.plan ∧ t.rd (itcmBase c.val) code.length = code ∧
        (∀ d : CoreId, d ≠ c → coreOf t d = coreOf s d)) ∧
    (s.csc.en = true →
      (pickHead s = none → exec .jobTake s = .next s) ∧
      (∀ (q : QueueId) (b : Bytes), pickHead s = some q → headJob s q = some b →
        (badJob s b = true → s.memWf = true → Gives .jobTake s fun t =>
          t.csc.lastTag = s.csc.lastTag + 1 ∧ (t.cleatB.get q).taken = (s.cleatB.get q).taken + 1 ∧
          memRead t.mem (slotAddr q (s.cleatB.get q).taken + 56) = 6 ∧
          t.csc.jobsDone.get q = s.csc.jobsDone.get q + 1) ∧
        (∀ (held : List (Nat × Nat)) (o : Option ASetOffered), badJob s b = false → jobInput s b = some (held, o) →
          jobDeadline s q b = .none → unitFenced s 0x10 = false → allSparFenced s = false → Gives .jobTake s fun t =>
            t.csc.jobs = s.csc.jobs ++ [newJob s q b held] ∧ (newJob s q b held).tag = s.csc.lastTag + 1 ∧
            t.csc.lastTag = s.csc.lastTag + 1 ∧ (t.cleatB.get q).taken = (s.cleatB.get q).taken + 1 ∧
            (t.cleatB.get q).done = (s.cleatB.get q).done ∧ t.mem = s.mem))) ∧
    (∀ (tag : W16) (j : Job), jobOf s tag = some j →
      (jobDone s j = false → exec (.jobComplete tag) s = .next s) ∧
      (jobDone s j = true → s.memWf = true → Gives (.jobComplete tag) s fun t => jobOf t tag = none ∧
        t.csc.jobsDone.get j.queue = s.csc.jobsDone.get j.queue + 1 ∧
        t.rd (slotAddr j.queue j.idx + 56) 8 = completionRecord s j ∧
        (∀ a : Nat, a < slotAddr j.queue j.idx + 56 ∨ slotAddr j.queue j.idx + 64 ≤ a → memRead t.mem a = memRead s.mem a)) ∧
      (∀ (src : Fin 5) (tgt : BitVec 40) (ns : W32), j.deadline = .phase src tgt ns →
        ((recordPhase s src - tgt).toNat < 2 ^ 39 → Gives (.deadlinePhaseCross tag) s fun t =>
          jobOf t tag = some { j with deadline := .time (s.pht.record.nt + ns.setWidth 64) }) ∧
        (2 ^ 39 ≤ (recordPhase s src - tgt).toNat → exec (.deadlinePhaseCross tag) s = .next s)) ∧
      (∀ d : W64, j.deadline = .time d → d ≤ s.pht.record.nt →
        (allCommitted j = true → Gives (.deadlineExpire tag) s fun t =>
          jobOf t tag = some { j with deadline := .none }) ∧
        (allCommitted j = false → j.drop = false → Gives (.deadlineExpire tag) s fun t =>
          jobOf t tag = some { j with expired := true, deadline := .none }) ∧
        (allCommitted j = false → j.drop = true → Gives (.deadlineExpire tag) s fun t =>
          ∃ k : Job, jobOf t tag = some k ∧ k.expired = true ∧
            k.stop = some (match j.stop with
              | some c => if c < 2 then 2 else c
              | none => 2))) ∧
      (∀ d : W64, j.deadline = .time d → s.pht.record.nt < d → exec (.deadlineExpire tag) s = .next s))

/-- The first ready course, of no overlap buffer and no Eaves entry, goes to the first core in order when that holds its plan and has a staging region, and runs there at the group's entry; with none ready an available core takes the pre-assigned course of the core whose course started earliest. A cancelled prefetch gives up its registration. A halo wait that expires takes a READY buffer, or recomputes, or goes on without limit. A DONE of a course's owner commits it, any other is discarded; the oldest copy done makes its course visible once no store of it to another chip is outstanding. A recalled core is idle and without course, once an RPT has ended. A starved chip asks the next peer it can reach and waits for its answer, NONE moves on, and a course starts on an idle core with its registers; a home gives its last course that qualifies, or none. A pulled course is visible once its stores are acknowledged, and one that failed is unassigned again with DEGRADED while cores are left. The registers of a stolen course rest on fields that are open (log 77). -/
def Obligations.CoursesRun : Prop :=
  ∀ s : State,
    (cscUp s = true →
      (ownPre s = none → firstReady s = none → exec .courseDispatch s = .next s) ∧
      (∀ (c : CoreId) (cs : List CoreId) (j : Job) (gi k e r : Nat) (g : Group) (rest : List (Job × Nat × Nat)),
        ownPre s = none → readyList s = (j, gi, k) :: rest → planGroup s j gi = some g → g.eaves = false →
        sparEntry s g = some e → coreOrder s j.plan = c :: cs → (coreOf s c).plan = some j.plan →
        freeRegion s (some c) = some r → obPlan s j g k = .notFused → Gives .courseDispatch s fun t =>
          (coreOf t c).cur = some (tagOf s j gi k) ∧ (coreOf t c).state = 1 ∧
          (coreOf t c).pc = BitVec.ofNat 32 (32 * e) ∧ (coreOf t c).crs = crsOf s j g gi k r 0 false) ∧
      (readyList s ≠ [] ∨ stealVictim s = none → exec .courseStealLocal s = .next s) ∧
      (∀ (thief v : CoreId) (ths : List CoreId) (q : CourseTag) (j : Job) (g : Group) (e r : Nat),
        readyList s = [] → (allCores.filter fun c => coreFree s c && (coreOf s c).pre.isNone) = thief :: ths →
        stealVictim s = some v → (coreOf s v).pre = some q → jobOf s q.job = some j →
        planGroup s j q.group.val = some g → g.obBytes = 0 → sparEntry s g = some e →
        (coreOf s thief).plan = some j.plan → freeRegion s (some thief) = some r → Gives .courseStealLocal s fun t =>
          (coreOf t thief).cur = some (tagOf s j q.group.val q.course.toNat) ∧ (coreOf t thief).state = 1 ∧
          (coreOf t v).pre = none ∧ t.csc.stats.get nLocalSteal = s.csc.stats.get nLocalSteal + 1) ∧
      (∀ (u : Fin 17) (c : CoreId), u.val = c.val →
        ((coreOf s c).cur = none ∨ (coreOf s c).done = false → exec (.courseCommit u) s = .next s) ∧
        (∀ q : CourseTag, (coreOf s c).cur = some q → (coreOf s c).done = true →
          (ownerIs s q (some c) = true → unitFenced s c.val = false → (coreOf s c).recallTo = none →
            Gives (.courseCommit u) s fun t => (coreOf t c).cur = none ∧ ∃ n : Nat,
              t.csc.copies = s.csc.copies ++ [{ tag := q, region := n, sent := false }]) ∧
          (ownerIs s q (some c) = false ∨ unitFenced s c.val = true ∨ (coreOf s c).recallTo ≠ none →
            Gives (.courseCommit u) s fun t => (coreOf t c).cur = none ∧ t.csc = { s.csc with obds := t.csc.obds } ∧
              ∀ o ∈ t.csc.obds, ¬ (o.tag = q ∧ o.st = .writing ∧ o.producer = some c)))) ∧
      (∀ u : Fin 17, u = 16 →
        (s.ee.cur = none ∨ s.ee.done = false → exec (.courseCommit u) s = .next s) ∧
        (∀ q : CourseTag, s.ee.cur = some q → s.ee.done = true →
          (ownerIs s q none = true → fencing s 0x10 = false → Gives (.courseCommit u) s fun t =>
            t.ee.cur = none ∧ t.ee.done = false ∧
            ∃ n : Nat, t.csc.copies = s.csc.copies ++ [{ tag := q, region := n, sent := false }]) ∧
          (ownerIs s q none = false ∨ fencing s 0x10 = true → Gives (.courseCommit u) s fun t =>
            t.ee.cur = none ∧ t.ee.done = false ∧ t.csc = { s.csc with obds := t.csc.obds })))) ∧
    (∀ c : CoreId,
      (∀ e : CoreId × Option CourseTag, (s.csc.cancels.find? fun e => e.1 == c) = some e →
        Gives (.prefetchCancelDone c) s fun t => t.csc.cancels = s.csc.cancels.erase e ∧
          ∀ q : CourseTag, e.2 = some q → ∀ o ∈ t.csc.obds, o.tag = q → o.st ≠ .dead → c ∉ o.readers) ∧
      (∀ (q : CourseTag) (rd rs : Fin 32) (j : Job) (g : Group), (coreOf s c).wait = .ob q rd rs false →
        sparRuns s c = true → tagGroup s q = some (j, g) →
        (∀ o : Obd, obdFind s q = some o → o.st = .ready → obForced s = false → Gives (.haloWaitExpiry c) s fun t =>
          (coreOf t c).wait = .none ∧ (coreOf t c).d.get (Fin.ofNat 16 rd.val) = 0 ∧
          (coreOf t c).a.get (Fin.ofNat 16 rs.val) = BitVec.ofNat 48 o.addr) ∧
        ((∀ o : Obd, obdFind s q = some o → o.st = .ready → obForced s = true) →
          (recompOk j g = true → Gives (.haloWaitExpiry c) s fun t => (coreOf t c).wait = .none ∧
            (coreOf t c).d.get (Fin.ofNat 16 rd.val) = 1 ∧ (coreOf t c).a = (coreOf s c).a) ∧
          (recompOk j g = false → Gives (.haloWaitExpiry c) s fun t => (coreOf t c).wait = .ob q rd rs true ∧
            t.csc.unbounded = true))) ∧
      (∀ (rq : Bool) (q : CourseTag), (coreOf s c).recallTo = some rq → (coreOf s c).cur = some q →
        domUp s (sparDom c) = true →
        (0 < (coreOf s c).rptLeft → (coreOf s c).state = 1 → exec (.courseRecall c) s = .next s) ∧
        ((coreOf s c).rptLeft = 0 ∨ (coreOf s c).state ≠ 1 → Gives (.courseRecall c) s fun t =>
          (coreOf t c).cur = none ∧ (coreOf t c).recallTo = none ∧ (coreOf t c).wait = .none ∧
          (coreOf t c).rptLeft = 0 ∧ (coreOf t c).tile = TileState.zero ∧
          (coreOf t c).state = (if (coreOf s c).state = 3 then 3 else 0) ∧ ∀ o ∈ t.csc.obds, c ∉ o.readers)) ∧
      ((coreOf s c).recallTo = none → exec (.courseRecall c) s = .next s)) ∧
    (∀ (k : Copy) (ks : List Copy) (j : Job) (g : Group), cscUp s = true → s.csc.copies = k :: ks →
      tagGroup s k.tag = some (j, g) → k.tag.group.val < j.groups.length →
      k.tag.course.toNat < (j.groups.getD k.tag.group.val []).length →
      let u := if k.sent then s else copyCourse s j g k.tag.course.toNat k.region
      Gives .commitCopyDone s fun t => t.mem = u.mem ∧
        (cscStoresOut u = true → t.csc.copies = { k with sent := true } :: ks ∧ t.csc.jobs = s.csc.jobs) ∧
        (cscStoresOut u = false → t.csc.copies = ks ∧ ∃ i : Job, jobOf t k.tag.job = some i ∧
          (i.course k.tag.group.val k.tag.course.toNat).st = .visible)) ∧
    (let n := min 4 s.csc.npeer.toNat
     let p := peerOf s (s.csc.nextPeer % n)
     cscUp s = true → fabricMode s = true → s.boot.dprActive = false → s.fab.role ≠ 3 → 0 < n →
      s.csc.steal = none →
      (starved s = true → remoteErr s p = none →
        (s.fab.remotes.length < 256 → Gives .remoteStealRequest s fun t => t.csc.steal = some (s.fab.nextTag, p) ∧
          t.fab.remotes = s.fab.remotes ++ [{ tag := s.fab.nextTag, home := p, wait := .steal }]) ∧
        (256 ≤ s.fab.remotes.length → exec .remoteStealRequest s = .next s)) ∧
      (starved s = true → ∀ e : BusErr, remoteErr s p = some e →
        exec .remoteStealRequest s = .next { s with csc.nextPeer := (s.csc.nextPeer + 1) % n }) ∧
      (starved s = false → exec .remoteStealRequest s = .next s)) ∧
    (∀ (thief : ChipId) (core : Fin 16) (hashes : List (PhtSlotId × W64)), fabricMode s = true → s.fab.role ≠ 3 →
      (cscUp s = false ∨ s.boot.dprActive = true ∨ ((readyList s).filter (stealable s hashes)) = [] →
        Gives (.steal thief core hashes) s fun t => t = { s with shl := t.shl, out := t.out }) ∧
      (∀ (j : Job) (g k : Nat), ((readyList s).filter (stealable s hashes)).getLast? = some (j, g, k) →
        cscUp s = true → s.boot.dprActive = false → g < 64 → k < 4096 → jobOf s j.tag = some j → Gives (.steal thief core hashes) s fun t =>
          ∃ i : Job, jobOf t j.tag = some i ∧ i.remoteRan = true ∧ (i.course g k).st = .remote thief core)) ∧
    (∀ (tag : BitVec 12) (p : ChipId), s.csc.steal = some (tag, p) → cscUp s = true →
      (Gives (.stealresp p none) s fun t => t.csc.steal = none ∧
        t.csc.nextPeer = (s.csc.nextPeer + 1) % max 1 (min 4 s.csc.npeer.toNat) ∧ t.spar = s.spar) ∧
      (∀ (b : Bytes) (c : CoreId) (cs : List CoreId) (g : Group) (e : Nat),
        (allCores.filter fun c => coreFree s c && (coreOf s c).pre.isNone) = c :: cs →
        (coreOf s c).plan = some (Fin.ofNat 64 (stolenField b 0)) →
        (planOf s (Fin.ofNat 64 (stolenField b 0))).groups[(stolenTag p b).group.val]? = some g →
        sparEntry s g = some e → Gives (.stealresp p (some b)) s fun t => t.csc.steal = none ∧
          (coreOf t c).state = 1 ∧ (coreOf t c).pc = BitVec.ofNat 32 (32 * e) ∧
          (coreOf t c).cur = some (stolenTag p b) ∧ (coreOf t c).crs = stolenCrs g (stolenTag p b) b)) ∧
    (∀ (tag : W16) (group : Fin 64) (k : Nat) (j : Job) (g : Group) (chip : ChipId) (core : CoreId), cscUp s = true →
      jobOf s tag = some j → (j.course group.val k).st = .remote chip core → planGroup s j group.val = some g →
      k < 4096 → k < (j.groups.getD group.val []).length →
      (let u := pullRows s j g k
       Gives (.remotePullDone true tag group k) s fun t => t.mem = u.mem ∧ ∃ i : Job, jobOf t tag = some i ∧
        (cscStoresOut u = true → (i.course group.val k).st = .committed ∧
          t.csc.copies = s.csc.copies ++ [{ tag := tagOf s j group.val k, region := 35, sent := true }]) ∧
        (cscStoresOut u = false → (i.course group.val k).st = .visible)) ∧
      (Gives (.remotePullDone false tag group k) s fun t =>
        ∃ i : Job, jobOf t tag = some i ∧ i.degraded = true ∧
          (unitFenced s 0x10 = false → allSparFenced s = false → (i.course group.val k).st = .unassigned)))

/-! ## The Mast harts -/

/-- A hart that issues a word of one of these classes goes on; t is the state once the word is fetched. ALU words put their result in rd and nothing elsewhere (x0 reads 0 and discards writes), ADD the sum, SUB the difference, SLT the signed comparison; ADDPC adds to the word's own address. A division by zero gives all ones, the remainder the dividend. A taken branch goes its offset in words away, any other to the next word. JAL and JALR put the next word's address in rd, JALR reading rs1 before. A floating-point word writes its one destination and accumulates its flags. A pair reads all registers before it writes, slot B's write standing, and counts 2 operations. A Luaca-Q integer or floating-point word and a permutation write qd and their flags, a move to x writes rd; an integer or floating-point one that names a register its mode has not is illegal. Each leaves memory, the other hart and, but for a conditional branch that may have been predicted, the caches as they were. -/
def Obligations.HartComputes : Prop :=
  ∀ (s t : State) (h : HartId) (w : W32) (o : LuOp), HartIssues s t h w o →
    let x := hartOf t h
    let next := x.pc + 4
    let puts := fun (c : Instr) (pc : W64) (rd : Xr) (v : W64) => HartGoes c s t h pc 1 fun y =>
      (∀ r : Xr, y.getX r = if r = 0 then 0 else if r = rd then v else x.getX r) ∧ y.f = x.f ∧ y.q = x.q ∧
      y.fpFlags = x.fpFlags ∧ y.qSat = x.qSat ∧ y.resv = x.resv
    (∀ (f : Nat) (rd a b : Xr), o = .alu f rd a b → puts (.integerOp h) next rd (aluVal f (x.getX a) (x.getX b)) ∧
      (f = 0 → puts (.integerOp h) next rd (x.getX a + x.getX b)) ∧
      (f = 1 → puts (.integerOp h) next rd (x.getX a - x.getX b)) ∧
      (f = 3 → puts (.integerOp h) next rd (if (x.getX a).toInt < (x.getX b).toInt then 1 else 0))) ∧
    (∀ (f : Nat) (rd a : Xr) (imm : Int), o = .alui f rd a imm →
      puts (.integerOp h) next rd (aluVal (aluiF f) (x.getX a) (BitVec.ofInt 64 imm))) ∧
    (∀ (rd : Xr) (imm : Int), o = .lhi rd imm → puts (.integerOp h) next rd (BitVec.ofInt 64 imm)) ∧
    (∀ (rd : Xr) (imm : Int), o = .addpc rd imm → puts (.integerOp h) next rd (x.pc + BitVec.ofInt 64 imm)) ∧
    (∀ (f : Nat) (rd a b : Xr), o = .mul f rd a b →
      puts (.mulDivOp h) next rd (mulVal f (x.getX a) (x.getX b)) ∧
      (f = 0 → puts (.mulDivOp h) next rd (x.getX a * x.getX b)) ∧
      (x.getX b = 0 → (f = 4 ∨ f = 5 → puts (.mulDivOp h) next rd (-1)) ∧
        (f = 6 ∨ f = 7 → puts (.mulDivOp h) next rd (x.getX a)))) ∧
    (∀ (k : Nat) (a b : Xr) (ofs : Int), o = .br k a b ofs →
      HartBranches (.branch h) s t h o (if brTaken k (x.getX a) (x.getX b) then x.pc + BitVec.ofInt 64 (4 * ofs) else next) 1
        fun y => y.x = x.x ∧ y.f = x.f ∧ y.q = x.q) ∧
    (∀ (rd : Xr) (ofs : Int), o = .jal rd ofs → puts (.jal h) (x.pc + BitVec.ofInt 64 (4 * ofs)) rd next) ∧
    (∀ (rd a : Xr) (imm : Int), o = .jalr rd a imm → puts (.jalr h) (x.getX a + BitVec.ofInt 64 imm) rd next) ∧
    (∀ (f : Nat) (dbl : Bool) (rm : Nat) (rd a b : Xr), o = .fp f dbl rm rd a b →
      let fm := if dbl then fp64 else fp32
      let cut := fun (r : Xr) => (x.getF r).toNat % 2 ^ fm.width
      HartGoes (.fpOp h) s t h next 1 fun y => y.q = x.q ∧ y.resv = x.resv ∧
        match fpExec f fm (if rm = 7 then x.fpRound.toNat else rm) (cut a) (cut b) (cut rd) (x.getF a) (x.getX a) with
        | .f g v k => y.x = x.x ∧ y.fpFlags = x.fpFlags ||| BitVec.ofNat 5 k ∧ ∀ r : Xr, y.getF r =
            if r = rd then (if g = fp32 then box32 v else BitVec.ofNat 64 v) else x.getF r
        | .x v k => y.f = x.f ∧ y.fpFlags = x.fpFlags ||| BitVec.ofNat 5 k ∧ ∀ r : Xr, y.getX r =
            if r = 0 then 0 else if r = rd then v else x.getX r) ∧
    (∀ a b : ShortOp, o = .pair a b → (a.fx x).mem = .none → (b.fx x).mem = .none →
      HartBranches (.pairIssue h) s t h o ((b.fx x).target.getD next) 2 fun y => y.f = x.f ∧ y.q = x.q ∧
        ∀ r : Xr, y.getX r = if r = 0 then 0 else match (b.fx x).wr, (a.fx x).wr with
          | some (rb, vb), some (ra, va) => if r = rb then vb else if r = ra then va else x.getX r
          | some (rb, vb), none => if r = rb then vb else x.getX r
          | none, some (ra, va) => if r = ra then va else x.getX r
          | none, none => x.getX r) ∧
    (∀ (major qf et : Nat) (qd qa qb : Xr), o = .q major qf et qd qa qb →
      let gives := fun (v : Nat) (flags : Nat) (sat : Bool) => HartGoes (.qOp h) s t h next 1 fun y =>
        y.x = x.x ∧ y.fpFlags = x.fpFlags ||| BitVec.ofNat 5 flags ∧ y.qSat = (x.qSat || sat) ∧
        ∀ r : Xr, x.qOk r = true → y.getQ r = if r = qd then v % 2 ^ 128 else x.getQ r;
      (x.qOk qd = true → x.qOk qa = true → x.qOk qb = true →
        (major = 0x30 → gives (qInt qf et (x.getQ qd) (x.getQ qa) (x.getQ qb)).1 0
          (qInt qf et (x.getQ qd) (x.getQ qa) (x.getQ qb)).2) ∧
        (major = 0x31 → gives (qFp x.fpRound.toNat qf et (x.getQ qd) (x.getQ qa) (x.getQ qb)).1
          (qFp x.fpRound.toNat qf et (x.getQ qd) (x.getQ qa) (x.getQ qb)).2 false) ∧
        (major = 0x32 → qf = 0 → gives (qPerm (x.getQ qa) (x.getQ qb)) 0 false)) ∧
      (major = 0x32 → qf = 2 → x.qOk qa = true → puts (.qOp h) next qd (qMvx et (x.getQ qa) qb.val)) ∧
      (major = 0x30 ∨ major = 0x31 → x.qOk qd = false ∨ x.qOk qa = false ∨ x.qOk qb = false → HartTraps (.qOp h) s t h 0x01 0 w.toNat false))

/-- t is the state once the word is fetched. A control-word operation puts the word's old value in rd and swaps, sets or clears its bits, by register or immediate; a change of QCFG.MODE clears the q and f registers and SAT. At U level a word above the user ones is illegal, as is one that does not exist. SYSREQ raises 0x0A from U and 0x0B from S, DBRK 0x09, RETM illegal instruction. RETS returns to SV_EPC with the enable and the level the entry saved, WAITI stalls issue, both illegal at U level. An exception of any word enters the handler with what R360 saves. An enabled pending interrupt is taken between words, code 11 first, then the lowest. MC_IPI sets the software interrupts of the harts it names; MC_HARTCTL.RUN1 starts or halts MC1; a reservation of local memory can expire. -/
def Obligations.HartControl : Prop :=
  (∀ (s t : State) (h : HartId) (w : W32) (o : LuOp), HartIssues s t h w o →
    let x := hartOf t h
    let next := x.pc + 4
    (∀ (c : Instr) (f : Fin 3) (imm : Bool), (c, f, imm) ∈ [(Instr.cwswp h, (0 : Fin 3), false), (.cwset h, 1, false),
        (.cwclr h, 2, false), (.cwswpi h, 0, true), (.cwseti h, 1, true), (.cwclri h, 2, true)] →
      ∀ (rd src : Xr) (n : Nat), o = .cw f imm rd src n →
        (∀ old : W64, cwRead t h n = some old → x.sup = true ∨ cwUser n = true →
          let v := if imm then BitVec.ofNat 64 src.val else x.getX src
          let new := if f = 0 then v else if f = 1 then old ||| v else old &&& ~~~v
          Gives c s fun u =>
            let y := hartOf u h
            (∀ r : Xr, y.getX r = if r = 0 then 0 else if r = rd then old else x.getX r) ∧ y.pc = next &&& ~~~3 ∧
            y.sup = x.sup ∧ hartOf u (1 - h) = hartOf t (1 - h) ∧ u.mem = t.mem ∧
            (n = 0x20C → y.scr = new) ∧ (n ≠ 0x20C → y.scr = x.scr) ∧ (n = 0x210 → y.epc = new) ∧
            (n ≠ 0x210 → y.epc = x.epc) ∧ (n = 0x218 → y.tcmp = new) ∧ (n = 0x204 → y.ien = new &&& 0xFFF) ∧
            (n ≠ 0x204 → y.ien = x.ien) ∧ (n = 0x209 → y.cpen = new.setWidth 8) ∧
            (n = 0x200 → y.ie = new.getLsbD 0 ∧ y.pie = new.getLsbD 1 ∧ y.plv = new.getLsbD 2 ∧ y.ucl = new.getLsbD 3) ∧
            (n ≠ 0x200 → y.ie = x.ie ∧ y.pie = x.pie ∧ y.plv = x.plv ∧ y.ucl = x.ucl) ∧
            (n = 0x300 → y.qMode = new.getLsbD 0 ∧ (new.getLsbD 0 ≠ x.qMode → y.qSat = false ∧
              ∀ r : Xr, y.getF r = 0 ∧ y.q.get r = 0) ∧
              (new.getLsbD 0 = x.qMode → y.qSat = new.getLsbD 1 ∧ y.f = x.f ∧ y.q = x.q)) ∧
            (n ≠ 0x300 → y.qMode = x.qMode ∧ y.qSat = x.qSat ∧ y.f = x.f ∧ y.q = x.q)) ∧
        (cwRead t h n = none ∨ (x.sup = false ∧ cwUser n = false) → HartTraps c s t h 0x01 0 w.toNat false)) ∧
    (o = .sysreq → HartTraps (.sysreq h) s t h (if x.sup then 0x0B else 0x0A) 0 0 false) ∧
    (o = .dbrk → HartTraps (.dbrk h) s t h 0x09 0 x.pc.toNat false) ∧
    (o = .retm → HartTraps (.retm h) s t h 0x01 0 w.toNat false) ∧
    (o = .rets → (x.sup = true → Gives (.rets h) s fun u => (hartOf u h).pc = x.epc &&& ~~~3 ∧
        (hartOf u h).sup = x.plv ∧ (hartOf u h).ie = x.pie ∧ (hartOf u h).x = x.x ∧ (hartOf u h).f = x.f ∧
        (hartOf u h).q = x.q ∧ (hartOf u h).sb = x.sb ∧ hartOf u (1 - h) = hartOf t (1 - h) ∧ u.mem = t.mem) ∧
      (x.sup = false → HartTraps (.rets h) s t h 0x01 0 w.toNat false)) ∧
    (o = .waiti → (x.sup = true → HartGoes (.waiti h) s t h next 1 fun y => y.waiti = true ∧ y.x = x.x ∧ y.f = x.f) ∧
      (x.sup = false → HartTraps (.waiti h) s t h 0x01 0 w.toNat false))) ∧
  (∀ (s : State) (h : HartId), hartUp s h = true →
    (∀ (c d i : Nat) (b : Bool) (t : State), issueWord s h = .trap c d i b t → HartTraps (.mastTrap h) s t h c d i b) ∧
    ((∀ (c d i : Nat) (b : Bool) (t : State), issueWord s h ≠ .trap c d i b t) → exec (.mastTrap h) s = .next s) ∧
    (∀ (w : W32) (t : State), nextWord s h = .ok (w, none) t → hartStalled s h = false → (hartOf s h).cpErr = none →
      HartTraps (.mastTrap h) s (hartMod t h fun x => { x with waiti := false, fence := false }) h 0x01 0 w.toNat false)) ∧
  (∀ (s : State) (h : HartId), hartUp s h = true →
    let x := hartOf s h
    let m := ipend s h &&& x.ien
    x.rem = [] → x.cpWait = none → x.sup = false ∨ x.ie = true →
      (∀ n : Nat, m.getLsbD n = true → n = 11 ∨ (m.getLsbD 11 = false ∧ ∀ k : Nat, k < n → m.getLsbD k = false) →
        Gives (.mastInterrupt h) s fun t =>
          let y := hartOf t h
          y.cause = causeOf n 0 false true ∧ y.epc = x.pc ∧ y.info = 0 ∧ y.plv = x.sup ∧ y.pie = x.ie ∧
          y.sup = true ∧ y.ie = false ∧ y.resv = none ∧ y.waiti = false ∧
          y.pc = (if x.vec then x.vecBase + BitVec.ofNat 64 (64 * (n + 1)) else x.vecBase) ∧
          y.x = x.x ∧ y.f = x.f ∧ y.q = x.q ∧ y.sb = x.sb ∧ hartOf t (1 - h) = hartOf s (1 - h) ∧ t.mem = s.mem ∧
          t.mast.events = s.mast.events &&& ~~~(1#16 <<< n)) ∧
      (m = 0 → exec (.mastInterrupt h) s = .next s)) ∧
  (∀ (s : State) (h : HartId) (g : Nat), (hartOf s h).resv = some (.own g) → Gives (.reservationExpire h) s fun t =>
    hartOf t h = { hartOf s h with resv := none } ∧ hartOf t (1 - h) = hartOf s (1 - h) ∧ t.mem = s.mem) ∧
  (∀ (s : State) (v : W32), ctlUp s = true → domUp s 11 = true →
    (Gives (.mcIpi v) s fun t => (∀ h : HartId, (hartOf t h).soft = ((hartOf s h).soft || v.getLsbD h.val) ∧
      (hartOf t h).x = (hartOf s h).x ∧ (hartOf t h).pc = (hartOf s h).pc) ∧ t.mem = s.mem ∧ t.mast.run1 = s.mast.run1) ∧
    exec (.mcHartctlRun1 v) s = .next { s with mast := { s.mast with run1 := v.getLsbD 0 } })

/-- t is the state once the word is fetched; the statement is about ordinary memory of this chip, of plain or DEVICE kind as said. A misaligned load or store raises 0x05 or 0x06, one above 48 bits 0x03 or 0x04 with detail 6, one the access table denies detail 1. A load of plain memory that no buffered store overlaps puts into its register the bytes the harts see there, extended as its operation says, and changes none of them; bytes that one buffered store covers come from the youngest. A store of the operation's bytes enters the buffer last, and memory waits. QLD and QST do the same for 16 bytes and are illegal for a q register the mode has not. A pair with a load in slot A writes what it loads. The oldest buffered store drains: its bytes are seen, no other byte changes; where its target fails, the first such failure is recorded with its address (interrupt 11). -/
def Obligations.HartMemory : Prop :=
  (∀ (s t : State) (h : HartId) (w : W32) (o : LuOp), HartIssues s t h w o →
    let x := hartOf t h
    let next := x.pc + 4
    let plain := fun (a acc n : Nat) (p : Nat) => a < 2 ^ 48 ∧ placeOf t a = .here p ∧
      actCheck t (hartInit h x.sup) acc p n = none ∧ deviceAt t h x.sup p n = false
    let seesAll := fun (u : State) => ∀ q : Nat, u.seen q = t.seen q
    let bytesAt := fun (p n : Nat) => (List.range n).map fun k => t.seen (p + k)
    let sound := t.memWf = true ∧ t.cacheWf = true ∧ t.cacheBacked
    let buffered := fun (c : Instr) (e : SbEntry) => Gives c s fun u =>
      (hartOf u h).sb = x.sb ++ [e] ∧ (hartOf u h).pc = next &&& ~~~3 ∧ (hartOf u h).x = x.x ∧ (hartOf u h).f = x.f ∧
      (hartOf u h).q = x.q ∧ hartOf u (1 - h) = hartOf t (1 - h) ∧ u.mem = t.mem ∧ u.mast.cache = t.mast.cache
    (∀ (mop : Nat) (rt base : Xr) (disp : Int), o = .load mop rt base disp →
      let a := (x.getX base + BitVec.ofInt 64 disp).toNat
      let n := mopSize mop
      let puts := fun (bs : Bytes) => Gives (.mastLoad h) s fun u =>
        (∀ r : Xr, (hartOf u h).getX r = (x.putLoad mop rt bs).getX r) ∧ (hartOf u h).f = (x.putLoad mop rt bs).f ∧
        (hartOf u h).q = x.q ∧ (hartOf u h).pc = next &&& ~~~3 ∧ (hartOf u h).sb = x.sb ∧
        (hartOf u (1 - h)).x = (hartOf t (1 - h)).x ∧ seesAll u
      (a % n ≠ 0 → HartTraps (.mastLoad h) s t h 0x05 0 a false) ∧
      (a % n = 0 → 2 ^ 48 ≤ a → HartTraps (.mastLoad h) s t h 0x03 6 a false) ∧
      (∀ (p : Nat) (v : State), a % n = 0 → a < 2 ^ 48 → placeOf t a = .here p →
        actCheck t (hartInit h x.sup) accLoad p n = some v → HartTraps (.mastLoad h) s v h 0x03 1 a false) ∧
      (∀ p : Nat, a % n = 0 → plain a accLoad n p → busErr t p n = none → sound →
        (youngest x.sb p n = none → puts (bytesAt p n)) ∧
        (∀ (k : Nat) (e : SbEntry), youngest x.sb p n = some (k, e) → e.device = false → e.addr ≤ p →
          p + n ≤ e.addr + e.bytes.length → puts (slice e.bytes (p - e.addr) n)))) ∧
    (∀ (mop : Nat) (rt base : Xr) (disp : Int), o = .store mop rt base disp →
      let a := (x.getX base + BitVec.ofInt 64 disp).toNat
      let n := mopSize mop
      (a % n ≠ 0 → HartTraps (.mastStore h) s t h 0x06 0 a false) ∧
      (a % n = 0 → 2 ^ 48 ≤ a → HartTraps (.mastStore h) s t h 0x04 6 a false) ∧
      (∀ (p : Nat) (v : State), a % n = 0 → a < 2 ^ 48 → placeOf t a = .here p → t.mast.cmo = none →
        actCheck t (hartInit h x.sup) accStore p n = some v → HartTraps (.mastStore h) s v h 0x04 1 a false) ∧
      (∀ p : Nat, a % n = 0 → plain a accStore n p → t.mast.cmo = none → x.sb.length < 16 →
        buffered (.mastStore h) {
          addr := p, bytes := toLE n (if mop = 13 ∨ mop = 14 then x.getF rt else x.getX rt).toNat, device := false,
          sup := x.sup })) ∧
    (∀ (rt base : Xr) (disp : Int),
      let a := (x.getX base + BitVec.ofInt 64 disp).toNat
      (o = .qld rt base disp →
        (x.qOk rt = false → HartTraps (.qld h) s t h 0x01 0 w.toNat false) ∧
        (∀ p : Nat, x.qOk rt = true → plain a accLoad 16 p → busErr t p 16 = none →
          youngest x.sb p 16 = none → sound → Gives (.qld h) s fun u =>
            (∀ r : Xr, x.qOk r = true → (hartOf u h).getQ r = if r = rt then leNat (bytesAt p 16) else x.getQ r) ∧
            (hartOf u h).x = x.x ∧ (hartOf u h).pc = next &&& ~~~3 ∧ seesAll u)) ∧
      (o = .qst rt base disp →
        (x.qOk rt = false → HartTraps (.qst h) s t h 0x01 0 w.toNat false) ∧
        (∀ p : Nat, x.qOk rt = true → plain a accQst 16 p → t.mast.cmo = none → x.sb.length < 16 →
          buffered (.qst h) { addr := p, bytes := toLE 16 (x.getQ rt), device := false, sup := x.sup }))) ∧
    (∀ (a b : ShortOp) (n a1 p : Nat) (rt : Xr), o = .pair a b → (a.fx x).mem = .load n false rt a1 → n = 4 ∨ n = 8 →
      (b.fx x).mem = .none → (b.fx x).wr = none → a1 % n = 0 → plain a1 accLoad n p → busErr t p n = none →
      youngest x.sb p n = none → sound → Gives (.pairIssue h) s fun u =>
        (∀ r : Xr, (hartOf u h).getX r = if r = 0 then 0 else if r = rt then
          (if n = 4 then word32 (leNat (bytesAt p n)) else BitVec.ofNat 64 (leNat (bytesAt p n))) else x.getX r) ∧
        (hartOf u h).pc = (b.fx x).target.getD next &&& ~~~3 ∧ (hartOf u h).cntOps = x.cntOps + 2 ∧
        (o.notTaken x = none → seesAll u))) ∧
  (∀ (s : State) (h : HartId) (e : SbEntry) (es : List SbEntry) (p : Nat), ctlUp s = true → domRuns s 11 = true →
    (hartOf s h).sb = e :: es → placeOf s e.addr = .here p → e.device = false →
    ((∀ ln ∈ linesOf p e.bytes.length, ramErr s (ln * 64) 64 = none) → s.memWf = true → s.cacheWf = true →
      s.cacheBacked → 0 < e.bytes.length → e.bytes.length ≤ 64 → Gives (.storeBufferDrain h) s fun t => (hartOf t h).sb = es ∧
        (∀ q : Nat, t.seen q = if p ≤ q ∧ q < p + e.bytes.length then byteAt e.bytes (q - p) else s.seen q) ∧
        (∀ k : HartId, (hartOf t k).x = (hartOf s k).x ∧ (hartOf t k).pc = (hartOf s k).pc ∧
          ∀ g ∈ linesOf p e.bytes.length, (hartOf t k).resv ≠ some (.own g)) ∧
        t.mast.sterr = s.mast.sterr ∧ exec (.storeError h) s = .next s) ∧
    (∀ r : BusErr, linesOf p e.bytes.length = [p / 64] → lineGet s (p / 64) = none →
      ramErr s (p / 64 * 64) 64 = some r → ∀ c ∈ [Instr.storeError h, .storeBufferDrain h], Gives c s fun t =>
        (hartOf t h).sb = es ∧ t.mem = s.mem ∧ t.mast.cache = s.mast.cache ∧
        t.mast.sterr.get h = (if (s.mast.sterr.get h).getLsbD 63 then s.mast.sterr.get h
          else BitVec.ofNat 64 (e.addr % 2 ^ 48 + errDetail r % 256 * 2 ^ 48 + 2 ^ 63))))

/-- t is the state once the word is fetched, with nothing buffered by the hart but where said; memory of this chip that is not DEVICE. LR reserves its granule and puts the value in rd. SC with its reservation stores, gives 0, and ends every reservation of the granule; without it, it gives 1 and stores nothing; both raise misaligned otherwise. TAS.B gives the old byte and leaves 1. A FENCE of stores before anything, and IFENCE, empty the buffer of plain stores, and the words after it wait for what other chips and coprocessors have not acknowledged; a FENCE without stores before it leaves the buffer. DCL.CLN writes a dirty line back and keeps it clean, DCL.FLS drops it too, DCL.INV drops it unwritten, DCL.ZRO makes its 64 bytes 0 and no other; of a line that is not held, of DEVICE memory and of another chip's memory the others change nothing; ICL.INV drops a line. DCL at U level without UCL is illegal. CLEAN_ALL and FLUSH_ALL set BUSY; at CMO_DONE no line is dirty, or none is held, and BUSY clears. A corrected cache error counts; an uncorrectable one drops a clean line; of a dirty line it raises 0x08 at the word that consumes it, with its slot, and else drops the line and records a store error. -/
def Obligations.HartMemorySystem : Prop :=
  (∀ (s t : State) (h : HartId) (w : W32) (o : LuOp), HartIssues s t h w o →
    let x := hartOf t h
    let at_ := fun (y : Hart) (rd : Xr) (v : W64) => y.pc = (x.pc + 4) &&& ~~~3 ∧ y.f = x.f ∧ y.q = x.q ∧
      ∀ r : Xr, y.getX r = if r = 0 then 0 else if r = rd then v else x.getX r
    let goesOn := fun (y : Hart) => y.pc = (x.pc + 4) &&& ~~~3 ∧ y.x = x.x ∧ y.f = x.f ∧ y.q = x.q
    let sound := t.memWf = true ∧ t.cacheWf = true ∧ t.cacheBacked
    let seesAll := fun (u : State) => ∀ q : Nat, u.seen q = t.seen q
    let stores := fun (u : State) (p : Nat) (bs : Bytes) => ∀ q : Nat, u.seen q =
      if p ≤ q ∧ q < p + bs.length then byteAt bs (q - p) else t.seen q
    let open_ := fun (a n acc p : Nat) => a < 2 ^ 48 ∧ placeOf t a = .here p ∧ deviceAt t h x.sup p n = false ∧
      actCheck t (hartInit h x.sup) acc p n = none ∧ ramErr t (p / 64 * 64) 64 = none ∧ x.sb = []
    (∀ (dbl : Bool) (rd a1 : Xr), o = .lr dbl rd a1 →
      let a := (x.getX a1).toNat
      let n := if dbl then 8 else 4
      (a % n ≠ 0 → HartTraps (.lr h) s t h 0x05 0 a false) ∧
      (∀ p : Nat, a % n = 0 → open_ a n accAtomic p → sound → Gives (.lr h) s fun u =>
        at_ (hartOf u h) rd (atomVal dbl ((List.range n).map fun k => t.seen (p + k))) ∧
        (hartOf u h).resv = some (.own (p / 64)) ∧ seesAll u)) ∧
    (∀ (dbl : Bool) (rd a1 a2 : Xr), o = .sc dbl rd a1 a2 →
      let a := (x.getX a1).toNat
      let n := if dbl then 8 else 4
      (a % n ≠ 0 → HartTraps (.sc h) s t h 0x06 0 a false) ∧
      (∀ p : Nat, a % n = 0 → open_ a n accAtomic p → sound → t.mast.cmo = none →
        (x.resv = some (.own (p / 64)) → Gives (.sc h) s fun u => at_ (hartOf u h) rd 0 ∧
          stores u p (toLE n (x.getX a2).toNat) ∧ ∀ k : HartId, (hartOf u k).resv ≠ some (.own (p / 64))) ∧
        (x.resv ≠ some (.own (p / 64)) → Gives (.sc h) s fun u => at_ (hartOf u h) rd 1 ∧ (hartOf u h).resv = none ∧
          u.mem = t.mem ∧ u.mast.cache = t.mast.cache))) ∧
    (∀ rd a1 : Xr, o = .tas rd a1 → ∀ p : Nat, open_ (x.getX a1).toNat 1 accAtomic p → sound → t.mast.cmo = none →
      busErr t p 1 = none → Gives (.tasB h) s fun u =>
        at_ (hartOf u h) rd ((t.seen p).setWidth 64) ∧ stores u p [1]) ∧
    (∀ pred succ : Nat, o = .fence pred succ →
      (pred < 2 ∨ succ = 0 → Gives (.mastFence h) s fun u => goesOn (hartOf u h) ∧ (hartOf u h).sb = x.sb ∧
        u.mem = t.mem ∧ u.mast.cache = t.mast.cache) ∧
      (2 ≤ pred → succ ≠ 0 → (∀ e ∈ x.sb, e.device = false ∧ ∃ p, placeOf t e.addr = .here p) →
        Gives (.mastFence h) s fun u => goesOn (hartOf u h) ∧ (hartOf u h).sb = [] ∧
          (hartOf u h).fence = accessesOut u h)) ∧
    (o = .ifence → (∀ e ∈ x.sb, e.device = false ∧ ∃ p, placeOf t e.addr = .here p) →
      Gives (.ifence h) s fun u => goesOn (hartOf u h) ∧ (hartOf u h).sb = [] ∧
        (hartOf u h).fence = storesOut u h) ∧
    (∀ (f : Fin 4) (a1 : Xr), o = .dcl f a1 →
      ∀ c ∈ [Instr.dclCln h, .dclInv h, .dclFls h, .dclZro h][f.val]?,
      let a := (x.getX a1).toNat
      (x.sup = false → f = 1 ∨ x.ucl = false → HartTraps c s t h 0x01 0 w.toNat false) ∧
      (x.sup = true ∨ (f ≠ 1 ∧ x.ucl = true) → a < 2 ^ 48 → t.mast.cmo = none → x.sb = [] →
        ((∀ p : Nat, placeOf t a = .here p → deviceAt t h x.sup (p / 64 * 64) 64 = true) →
          Gives c s fun u => goesOn (hartOf u h) ∧ u.mem = t.mem ∧ u.mast.cache = t.mast.cache) ∧ ∀ p : Nat,
        placeOf t a = .here p → deviceAt t h x.sup (p / 64 * 64) 64 = false → t.cacheWf = true → t.memWf = true →
        (f = 3 → actCheck t (hartInit h x.sup) accStore (p / 64 * 64) 64 = none → t.cacheBacked →
          Gives c s fun u => goesOn (hartOf u h) ∧ stores u (p / 64 * 64) (List.replicate 64 0)) ∧
        (f ≠ 3 → lineGet t (p / 64) = none → Gives c s fun u => goesOn (hartOf u h) ∧ u.mem = t.mem ∧
          u.mast.cache = t.mast.cache) ∧
        (∀ l : CLine, lineGet t (p / 64) = some l →
          (f = 0 → ramErr t (p / 64 * 64) 64 = none → Gives c s fun u => goesOn (hartOf u h) ∧ seesAll u ∧
            lineGet u (p / 64) = some { l with dirty := false } ∧ (l.dirty = true → u.rd (p / 64 * 64) 64 = l.data)) ∧
          (f = 1 → Gives c s fun u => goesOn (hartOf u h) ∧ lineGet u (p / 64) = none ∧ u.mem = t.mem) ∧
          (f = 2 → ramErr t (p / 64 * 64) 64 = none → Gives c s fun u => goesOn (hartOf u h) ∧
            lineGet u (p / 64) = none ∧ (l.dirty = true → u.rd (p / 64 * 64) 64 = l.data) ∧
            (l.dirty = false → u.mem = t.mem))))) ∧
    (∀ a1 : Xr, o = .icl a1 → ∀ p : Nat, (x.getX a1).toNat < 2 ^ 48 → placeOf t (x.getX a1).toNat = .here p →
      t.cacheWf = true → Gives (.iclInv h) s fun u => goesOn (hartOf u h) ∧ lineGet u (p / 64) = none)) ∧
  (∀ (s : State) (v : W32), ctlUp s = true → domUp s 11 = true →
    (s.mast.cmo = none → v.getLsbD 0 = true → Gives (.cleanAll v) s fun t => t.mast.cmo = some false ∧ t.mem = s.mem) ∧
    (s.mast.cmo = none → v.getLsbD 1 = true → Gives (.flushAll v) s fun t => t.mast.cmo = some true ∧ t.mem = s.mem) ∧
    (s.mast.cmo.isSome = true → exec (.cleanAll v) s = .next s ∧ exec (.flushAll v) s = .next s)) ∧
  (∀ (s : State) (flush : Bool), ctlUp s = true → domRuns s 11 = true → s.mast.cmo = some flush → s.cacheWf = true →
    Gives .cmoDone s fun t => t.mast.cmo = none ∧
      (∀ (ln : Nat) (c : CLine), lineGet t ln = some c → flush = false ∧ c.dirty = false) ∧
      (s.memWf = true → s.cacheBacked → ∀ q : Nat, t.seen q = s.seen q)) ∧
  (∀ (s : State) (h : HartId) (ln : Nat) (l2 : Bool), ctlUp s = true → domRuns s 11 = true →
    (Gives (.mastCacheEcc h ln l2 .corrected) s fun t => t.mem = s.mem ∧ t.mast.cache = s.mast.cache ∧
      t.mast.eccL1 = (if l2 then s.mast.eccL1 else s.mast.eccL1 + 1) ∧
      t.mast.eccL2 = if l2 then s.mast.eccL2 + 1 else s.mast.eccL2) ∧
    (∀ c : CLine, lineGet s ln = some c → s.cacheWf = true →
      (c.dirty = false → Gives (.mastCacheEcc h ln l2 .uncorrectable) s fun t =>
        lineGet t ln = none ∧ t.mem = s.mem ∧ t.mast.sterr = s.mast.sterr) ∧
      (c.dirty = true → hartUp s h = false ∨ consumesLine s h ln l2 c = none →
        Gives (.mastCacheEcc h ln l2 .uncorrectable) s fun t =>
          lineGet t ln = none ∧ (t.mast.sterr.get h).getLsbD 63 = true) ∧
      (c.dirty = true → hartUp s h = true → ∀ (a : Nat) (slotB : Bool), consumesLine s h ln l2 c = some (a, slotB) →
        Gives (.mastCacheEcc h ln l2 .uncorrectable) s fun t => (hartOf t h).cause = causeOf 0x08 0 slotB false ∧
          (hartOf t h).info = BitVec.ofNat 64 a ∧ (hartOf t h).epc = (hartOf s h).pc ∧
          (hartOf t h).pc = (hartOf s h).vecBase)))

/-- t is the state once the word is fetched. At U level a coprocessor that SV_CPEN does not open is illegal. CP0 POST: misaligned, -2 with OWNER_ERR when the queue is not CP0's, -1 with OVF when it is full; else the 56 bytes stand in slot POST, POST advances and rd names the slot. QSTAT gives the queue's status; DOORBELL raises the named cores' line 4, or error 2 with no course store. CP1: error 2 while Trim's domain is off; STATUS, ENERGY and register reads give their value, a register write and the commands 0 to 3 have their effect on the unit. CP2 reads and writes PHT registers, steps network time, and reads a phase or network time of the newest record. CP4 to CP7: illegal where no customer logic answers; with an rd the hart waits for the response, without one it goes on, 4 outstanding at most. The response to a request with rd ends the wait, with an error it raises 0x07 with detail 3; that to one without makes one less outstanding, its error raised at the hart's next word (log 183). The places in SV_INFO are open (log 91). -/
def Obligations.HartCoprocessors : Prop :=
  (∀ (s t : State) (h : HartId) (w : W32) (n : Fin 8) (fn : Nat) (rd a1 a2 : Xr),
    HartIssues s t h w (.cp n fn rd a1 a2) →
    let x := hartOf t h
    let a := (x.getX a1).toNat
    let q : QueueId := Fin.ofNat 8 (fn / 16)
    let b := t.cleatB.get q
    let opens := x.sup = true ∨ x.cpen.getLsbD n.val = true
    let with_ := fun (c : Instr) (v : W64) (P : State → Prop) => Gives c s fun u =>
      (hartOf u h).pc = (x.pc + 4) &&& ~~~3 ∧ (∀ r : Xr, (hartOf u h).getX r = if r = 0 then 0 else if r = rd then v else x.getX r) ∧
      (hartOf u h).f = x.f ∧ (hartOf u h).q = x.q ∧ P u
    (∀ e ∈ [((0 : Fin 8), 0, Instr.cp0Post h), (0, 1, .cp0Qstat h), (0, 2, .cp0Doorbell h), (1, 0, .trimLoad (.cp1 h)),
        (1, 1, .trimRun (.cp1 h)), (1, 2, .trimReplay (.cp1 h)), (1, 3, .trimAbort (.cp1 h)), (1, 4, .trimStatus h),
        (1, 5, .trimEnergy h), (1, 6, .trimRdreg h), (1, 7, .trimWrreg h), (2, 0, .cp2Rdreg h), (2, 1, .cp2Wrreg h),
        (2, 2, .cp2Ntstep h), (2, 3, .cp2Rdnow h)],
      n = e.1 → fn % 16 = e.2.1 →
        (x.sup = false → x.cpen.getLsbD n.val = false → HartTraps e.2.2 s t h 0x01 0 w.toNat false) ∧
        (opens → n = 1 → domUp t 10 = false → HartTraps e.2.2 s t h 0x07 2 (cpInfo 1 fn) false)) ∧
    (opens → n = 0 →
      (fn % 16 = 0 → (a % 8 ≠ 0 → HartTraps (.cp0Post h) s t h 0x05 0 a false) ∧
        (a % 8 = 0 → b.owner ≠ 3 → with_ (.cp0Post h) (-2) fun u =>
          u.cleatB = vput t.cleatB q { b with ownerErr := true } ∧ u.mem = t.mem) ∧
        (a % 8 = 0 → b.owner = 3 → 256 ≤ (b.post - b.read).toNat → with_ (.cp0Post h) (-1) fun u =>
          u.cleatB = vput t.cleatB q { b with ovf := true } ∧ u.mem = t.mem) ∧
        (∀ p : Nat, a % 8 = 0 → b.owner = 3 → (b.post - b.read).toNat < 256 → a < 2 ^ 48 → placeOf t a = .here p →
          actCheck t (hartInit h x.sup) accLoad p 56 = none → deviceAt t h x.sup p 56 = false → x.sb = [] →
          busErr t p 56 = none → t.memWf = true → t.cacheWf = true → t.cacheBacked →
          with_ (.cp0Post h) (BitVec.ofNat 64 (b.post.toNat % 256)) fun u =>
            u.cleatB = vput t.cleatB q { b with post := b.post + 1 } ∧
            u.rd (slotAddr q b.post) 56 = (List.range 56).map fun k => t.seen (p + k))) ∧
      (fn % 16 = 1 → with_ (.cp0Qstat h) (BitVec.ofNat 64 (b.freeSlots + 2 ^ 16 * b2n b.ovf + 2 ^ 17 * b2n b.ownerErr
        + 2 ^ 18 * b2n b.readErr)) fun u => u.cleatB = t.cleatB ∧ u.mem = t.mem) ∧
      (fn % 16 = 2 → (domUp t 12 = false → HartTraps (.cp0Doorbell h) s t h 0x07 2 (cpInfo 0 fn) false) ∧
        (domUp t 12 = true → with_ (.cp0Doorbell h) 0 fun u => u.mem = t.mem ∧ ∀ c : CoreId,
          (coreOf u c).irq = if bitOf a c.val && domUp t (sparDom c) then (coreOf t c).irq ||| (1#5 <<< 4)
            else (coreOf t c).irq))) ∧
    (opens → n = 1 → domUp t 10 = true →
      (fn % 16 = 4 → with_ (.trimStatus h) (BitVec.ofNat 64 (trmStat t.trim)) fun u => u.trim = t.trim ∧ u.mem = t.mem) ∧
      (fn % 16 = 5 → with_ (.trimEnergy h) (BitVec.ofInt 64 t.trim.energy.toInt) fun u => u.trim = t.trim ∧ u.mem = t.mem) ∧
      (fn % 16 = 6 → with_ (.trimRdreg h) (BitVec.ofNat 64 (trmRegRead t a)) fun u => u.trim = t.trim ∧ u.mem = t.mem) ∧
      (fn % 16 = 7 → Gives (.trimWrreg h) s fun u => u.trim = (trmRegWrite t a (x.getX a2)).trim ∧
        u.mem = (trmRegWrite t a (x.getX a2)).mem) ∧
      (∀ c ∈ [Instr.trimLoad (.cp1 h), .trimRun (.cp1 h), .trimReplay (.cp1 h), .trimAbort (.cp1 h)][fn % 16]?,
        Gives c s fun u => u.trim = (trimCmd t (fn % 16) (a % 2 ^ 48)).trim ∧
          u.mem = (trimCmd t (fn % 16) (a % 2 ^ 48)).mem)) ∧
    (opens → n = 2 →
      (fn % 16 = 0 → with_ (.cp2Rdreg h) (BitVec.ofNat 64 (phtRegRead t a).1) fun u =>
        u.pht = (phtRegRead t a).2.pht ∧ u.mem = t.mem) ∧
      (fn % 16 = 1 → with_ (.cp2Wrreg h) 0 fun u =>
        u.pht = (phtRegWrite t a ((x.getX a2).extractLsb' 0 32)).pht ∧ u.mem = t.mem) ∧
      (fn % 16 = 1 → a ≠ 0xD0 → with_ (.cp2Wrreg h) 0 fun u =>
        u.pht = phtWrite t.pht a ((x.getX a2).extractLsb' 0 32) ∧ u.mem = t.mem) ∧
      (fn % 16 = 2 → with_ (.cp2Ntstep h) 0 fun u => u.pht = t.pht.stepNt (x.getX a1).toInt ∧ u.mem = t.mem) ∧
      (fn % 16 = 3 → let k := bits fn 4 3
        (∀ i : Fin 4, k = i.val → with_ (.cp2Rdnow h) ((t.pht.record.phases.get i).setWidth 64) fun u => u.pht = t.pht) ∧
        (k = 4 → with_ (.cp2Rdnow h) t.pht.record.nt fun u => u.pht = t.pht) ∧
        (4 < k → HartTraps (.cp2Rdnow h) s t h 0x01 0 w.toNat false))) ∧
    (4 ≤ n.val → opens → let k : Fin 4 := Fin.ofNat 4 (n.val - 4)
      (cpxPresent t k = false → HartTraps (.cpx h) s t h 0x01 0 w.toNat false) ∧
      (cpxPresent t k = true → t.fab.remotes.length < 256 →
        (rd = 0 → 4 ≤ x.cpOut → exec (.cpx h) s = .next t) ∧
        (rd = 0 → x.cpOut < 4 → Gives (.cpx h) s fun u => (hartOf u h).cpOut = x.cpOut + 1 ∧
          (hartOf u h).pc = (x.pc + 4) &&& ~~~3 ∧ (hartOf u h).x = x.x ∧
          u.fab.remotes = t.fab.remotes ++ [{ tag := t.fab.nextTag, home := ownChip t, wait := .cp h n fn none }]) ∧
        (rd ≠ 0 → Gives (.cpx h) s fun u => (hartOf u h).cpWait = some rd ∧ (hartOf u h).pc = x.pc ∧
          (hartOf u h).x = x.x ∧
          u.fab.remotes = t.fab.remotes ++ [{ tag := t.fab.nextTag, home := ownChip t, wait := .cp h n fn (some rd) }])))) ∧
  (∀ (s : State) (tag : BitVec 12),
    ((∀ r : Remote, (s.fab.remotes.find? fun r => r.tag == tag) = some r →
        ∀ (h : HartId) (n : Fin 8) (fn : Nat) (rd : Option Xr), r.wait ≠ .cp h n fn rd) →
      ∀ a : Answer, exec (.cpxresp tag a) s = .next s) ∧
    (∀ (r : Remote) (h : HartId) (n : Fin 8) (fn : Nat) (rd : Option Xr), ctlUp s = true →
      (s.fab.remotes.find? fun r => r.tag == tag) = some r → r.wait = .cp h n fn rd →
      let x := hartOf s h
      let answered := fun (t : State) => t.fab.remotes = s.fab.remotes.erase r ∧ t.mem = s.mem
      (∀ (d : Bytes) (q : Xr), rd = some q → Gives (.cpxresp tag (.data d)) s fun t =>
        (hartOf t h).cpWait = none ∧ (hartOf t h).pc = (x.pc + 4) &&& ~~~3 ∧ answered t ∧ ∀ g : Xr,
          (hartOf t h).getX g = if g = 0 then 0 else if g = q then BitVec.ofNat 64 (leNat d) else x.getX g) ∧
      (∀ (k : Nat) (q : Xr), rd = some q → Gives (.cpxresp tag (.abort k)) s fun t =>
        (hartOf t h).cpWait = none ∧ (hartOf t h).cause = causeOf 0x07 3 false false ∧ (hartOf t h).epc = x.pc ∧
        (hartOf t h).pc = x.vecBase ∧ (hartOf t h).x = x.x ∧ answered t) ∧
      (rd = none → ∀ a : Answer, Gives (.cpxresp tag a) s fun t => (hartOf t h).cpOut = x.cpOut - 1 ∧
        (hartOf t h).pc = x.pc ∧ (hartOf t h).x = x.x ∧ answered t ∧ (hartOf t h).cpErr = match a, x.cpErr with
          | .abort _, none => some (n.val, fn)
          | _, e => e))) ∧
  (∀ (s : State) (h : HartId) (n fn : Nat), hartUp s h = true → hartStalled s h = false →
    (hartOf s h).cpErr = some (n, fn) →
    HartTraps (.mastTrap h) s (hartMod s h fun x => { x with cpErr := none }) h 0x07 3 (cpInfo n fn) false)

/-! ## Trim -/

/-- A write of TRM_CMD that the status does not allow sets CMD_ERR and nothing else, in FENCED too, where LOAD is allowed and reads nothing. LOAD reads 128 bytes at TRM_DESC and is LOADING; the load ends READY, or INVALID with its cause, 9 when the descriptor could not be read. RUN starts at sweep 0 from the initial spins, numbered one higher; so does a REPLAY of a journal whose START record fits the problem, numbered as before, and one of no such journal is INVALID with cause 10. ABORT makes a load INVALID with cause 11, ends a run at its next sweep boundary, and after the last sweep sets CMD_ERR. A run that has ended writes its END record with the final energy when it is journaled and has room, then its result area, its status in byte 0; it then holds that status, or BUS_ERR when a write was refused, and counts; an abnormal end is reported, and the interrupt raised when enabled. A reclaim stops a load with cause 12 and a run as RECLAIMED, or as it was ending. An uncorrectable error fences the unit. -/
def Obligations.TrimCommands : Prop :=
  ∀ s : State,
    let t0 := s.trim
    (domRuns s 10 = true →
      (∀ e ∈ [(0, Instr.trimLoad .reg), (1, .trimRun .reg), (2, .trimReplay .reg), (3, .trimAbort .reg)],
        trimAllowed t0 e.1 = false → exec e.2 s = .next { s with trim := { t0 with cmdErr := true } }) ∧
      (t0.status = tsFenced → exec (.trimLoad .reg) s = .next s)) ∧
    (trimUp s = true →
    (trimAllowed t0 0 = true → t0.status ≠ tsFenced → Gives (.trimLoad .reg) s fun t => t.trim.status = tsLoading ∧ t.trim.cause = 0 ∧
      t.trim.descA = t0.descA ∧ t.mem = s.mem ∧ ∀ p : Nat, placeOf s t0.descA.toNat = .here p →
        initFenced s trimInit = false → actCheck s trimInit accLoad p 128 = none → ramErr s p 128 = none →
        t.trim.prob = some (s.rd p 128)) ∧
    (t0.status = tsLoading →
      (t0.prob = none → Gives .trimLoadDone s fun t => t.trim = { t0 with status := tsInvalid, cause := 9 }) ∧
      (∀ c : Nat, t0.prob.isSome = true → descCause s t0 = some c → Gives .trimLoadDone s fun t =>
        t.trim = { t0 with status := tsInvalid, cause := BitVec.ofNat 8 c }) ∧
      (t0.fld 0 4 ≠ 0x5452494D → t0.prob.isSome = true → Gives .trimLoadDone s fun t =>
        t.trim.status = tsInvalid ∧ t.trim.cause = 1) ∧
      (∀ (x : Trim) (u : State), t0.prob.isSome = true → descCause s t0 = none → loadProblem s t0 = (.ok x, u) →
        Gives .trimLoadDone s fun t => t.trim = { x with status := tsReady, cause := 0 } ∧ t.mem = s.mem) ∧
      (∀ (c : Nat) (u : State), t0.prob.isSome = true → descCause s t0 = none → loadProblem s t0 = (.error c, u) →
        Gives .trimLoadDone s fun t => t.trim = { t0 with status := tsInvalid, cause := BitVec.ofNat 8 c } ∧
          t.mem = s.mem) ∧
      Gives (.trimAbort .reg) s fun t => t.trim = { t0 with status := tsInvalid, cause := 11 } ∧ t.mem = s.mem) ∧
    (t0.status ≠ tsLoading → exec .trimLoadDone s = .next s) ∧
    (trimAllowed t0 1 = true → Gives (.trimRun .reg) s fun t =>
      t.trim.status = tsRunning ∧ t.trim.sweep = 0 ∧ t.trim.jrun = t0.jrun + 1 ∧
      (t0.journalA = 0 → t0.split = false → t.trim.jlen = 0 ∧ t.trim.ending = none ∧ t.mem = s.mem ∧ t.out = s.out) ∧
      t.trim.spins = t0.initSpins ∧ t.trim.phase = .between ∧ t.trim.best = none ∧
      (∀ i : Fin 256, t.trim.rng.get i = laneSeed t0.seed t0.part (i.val / 16) (i.val % 16))) ∧
    (trimAllowed t0 2 = true → t0.journalA = 0 → Gives (.trimReplay .reg) s fun t =>
      t.trim.status = tsInvalid ∧ t.trim.cause = 10 ∧ t.mem = s.mem) ∧
    (∀ (b : Bytes) (u : State) (r0 : TrimRec) (rs : List TrimRec), trimAllowed t0 2 = true → t0.journalA ≠ 0 →
      trimRead s t0.journalA t0.jsize = (.ok b, u) →
      journalRecs (fieldLE (recOf b).payload 8 4) (b.length + 1) b = r0 :: rs →
      let fits := r0.kind = 1 ∧ fieldLE r0.payload 0 8 = t0.seed ∧ fieldLE r0.payload 12 1 = t0.part
      (fits → Gives (.trimReplay .reg) s fun t => t.trim.status = tsRunning ∧ t.trim.replay = true ∧
        t.trim.sweep = 0 ∧ t.trim.phase = .between ∧ t.trim.spins = t0.initSpins ∧ t.trim.jrun = t0.jrun ∧
        t.trim.jrecs = rs.takeWhile (fun r => decide (r.kind ≠ 4)) ∧ t.trim.jEnd = rs.find? (fun r => r.kind == 4) ∧
        (∀ i : Fin 256, t.trim.rng.get i = laneSeed t0.seed t0.part (i.val / 16) (i.val % 16)) ∧ t.mem = s.mem) ∧
      (¬ fits → Gives (.trimReplay .reg) s fun t => t.trim.status = tsInvalid ∧ t.trim.cause = 10 ∧ t.mem = s.mem)) ∧
    (t0.status = tsRunning →
      (∀ g : Nat, t0.phase = .sweep g → Gives (.trimAbort .reg) s fun t =>
        t.trim = { t0 with stopReq := some tsAborted }) ∧
      (t0.phase = .between → t0.ending = none → Gives (.trimAbort .reg) s fun t =>
        t.trim = { t0 with ending := some tsAborted }) ∧
      (t0.phase = .final → Gives (.trimAbort .reg) s fun t => t.trim = { t0 with cmdErr := true }) ∧
      (∀ st : BitVec 4, t0.ending = some st →
        st ∈ [tsDone, tsAborted, tsPeerTimeout, tsPeerLost, tsReclaimed, tsReplayShort, tsBusErr] →
        Gives .trimRunEnd s fun t =>
          t.trim.ending = none ∧ t.trim.stopReq = none ∧ (t.trim.status = st ∨ t.trim.status = tsBusErr) ∧
          t.trim.stats = vmod t0.stats (if t0.replay then 2 else if t.trim.status = tsDone then 0 else 1) (· + 1) ∧
          (t0.irqEn = true → t.mast.events.getLsbD 5 = true) ∧
          (∀ p : Nat, placeOf s (bits t0.resultA 0 48) = .here p → initFenced s trimInit = false →
            t0.recE.length = 64 → actCheck s trimInit accStore p 1600 = none → ramErr s p 1600 = none → s.memWf = true →
            (t0.journalA = 0 ∨ t0.replay = true ∨ t0.jfull = true →
              t.trim.status = st ∧ memRead t.mem p = BitVec.ofNat 8 st.toNat ∧
              (∀ q : Nat, q < p ∨ p + 1600 ≤ q → memRead t.mem q = memRead s.mem q) ∧
              (st ∈ [tsDone, tsAborted, tsReclaimed, tsReplayShort] → t.cleatC = s.cleatC)) ∧
            (∀ j : Nat, t0.journalA ≠ 0 → t0.replay = false → t0.jfull = false → t0.jlen.toNat + 32 ≤ t0.jsize →
              placeOf s (bits (t0.journalA + t0.jlen.toNat) 0 48) = .here j →
              placeOf s (bits (t0.journalA + t0.jlen.toNat + 16) 0 48) = .here (j + 16) →
              actCheck s trimInit accStore j 16 = none → actCheck s trimInit accStore (j + 16) 16 = none →
              ramErr s j 16 = none → ramErr s (j + 16) 16 = none → j + 32 ≤ p ∨ p + 1600 ≤ j →
              t.trim.status = st ∧ t.trim.jlen = t0.jlen + 32 ∧ memRead t.mem p = BitVec.ofNat 8 st.toNat ∧
              memRead t.mem j = 4 ∧ (st ∉ [tsPeerTimeout, tsPeerLost, tsBusErr] →
                t.rd (j + 16) 8 = toLE 8 (wrapInt 64 (BitVec.ofInt 48 t0.ePart).toInt)))) ∧
          (t.trim.status ∈ [tsPeerTimeout, tsPeerLost, tsBusErr] → s.cleatC.fifo.length < 32 → t.cleatC.fifo =
            s.cleatC.fifo ++ [{
              unit := 0x18, cls := 3, code := t.trim.status.setWidth 16, detail := 0,
              nt := (ntNow s.pht).setWidth 32 }]))) ∧
    ((domOf s 10).reclaim.isSome = true →
      (t0.status = tsLoading → exec .trimReclaimStop s = .next { s with trim := { t0 with status := tsInvalid, cause := 12 } }) ∧
      (∀ g : Nat, t0.status = tsRunning → t0.phase = .sweep g →
        exec .trimReclaimStop s = .next { s with trim := { t0 with stopReq := some tsReclaimed } }) ∧
      (t0.status = tsRunning → (∀ g : Nat, t0.phase ≠ .sweep g) → Gives .trimReclaimStop s fun t =>
        t.trim.status = t0.ending.getD tsReclaimed ∨ t.trim.status = tsBusErr)) ∧
    ((domOf s 10).reclaim = none → exec .trimReclaimStop s = .next s) ∧
    (Gives .trimUncorrectable s fun t => t.trim.status = tsFenced ∧ t.trim.ending = none ∧ t.mem = s.mem ∧
      (s.boot.dprActive = false → t.cleatC.lines.getLsbD 0x18 = true)))

/-- A sweep of a run that is neither split nor a replay starts at once; a split one when every peer's record is fresh enough, else the unit waits and XWAIT grows; a replay goes on until its END record's sweep, with the status that closes (log 79), or, where its journal has none, until its last record's sweep, ending REPLAY_SHORT. A group step draws once for every lane; a spin flips only in its own group step, a clamped one never; the first lane's spin flips when its energy change is not positive, or when its draw is below the table's value. After 16 group steps a sweep ends: the spins are those of the last sweep, the sweep number rises, and at the end of a schedule step RECORD stores the energy and BEST keeps the lowest, a new best entering the result area; a stop asked for ends the run. A record of a peer is queued, whatever runs (log 181). A wait that lasts too long ends the run PEER_TIMEOUT. After the last sweep the final energy is noted and the run is DONE, a split one once every peer's FINAL is in, a replay as its END says. -/
def Obligations.TrimRuns : Prop :=
  ∀ s : State, trimUp s = true →
    let t0 := s.trim
    (t0.status = tsRunning → t0.phase = .between → t0.ending = none →
      (t0.replay = false → t0.split = false →
        exec .trimSweepStart s = .next { s with trim := { t0 with phase := .sweep 0 } }) ∧
      (t0.replay = false → t0.split = true → Gives .trimSweepStart s fun t =>
        t.trim.phase = (if staleOk (applyAll s).trim then .sweep 0 else .between) ∧ t.trim.sweep = t0.sweep ∧
        t.trim.spins = t0.spins ∧ t.trim.xwait.toNat ≥ t0.xwait.toNat) ∧
      (t0.replay = true → t0.jEnd = none → t0.jLast ≤ t0.sweep.toNat →
        exec .trimSweepStart s = .next { s with trim := { t0 with ending := some tsReplayShort } }) ∧
      (∀ r : TrimRec, t0.replay = true → t0.jEnd = some r → r.apply ≤ t0.sweep.toNat → Gives .trimSweepStart s fun t =>
        t.trim.ending = some (endStatus r) ∧ t.trim.spins = t0.spins ∧ t.mem = s.mem) ∧
      (t0.replay = true → (∃ r : TrimRec, t0.jEnd = some r ∧ t0.sweep.toNat < r.apply) ∨
          (t0.jEnd = none ∧ t0.sweep.toNat < t0.jLast) → Gives .trimSweepStart s fun t =>
        t.trim.phase = .sweep 0 ∧ t.trim.spins = t0.spins ∧ t.trim.ending = none ∧ t.mem = s.mem) ∧
      (t0.replay = false → t0.split = true → (applyAll s).trim.ending = none → staleOk (applyAll s).trim = false →
        Gives .trimPeerTimeout s fun t => t.trim.ending = some tsPeerTimeout ∧ t.trim.phase = .between)) ∧
    (∀ g : Nat, t0.status = tsRunning → t0.phase = .sweep g →
      (g < 16 → Gives .trimGroupStep s fun t =>
        t.trim.phase = .sweep (g + 1) ∧ t.trim.seen = t0.spins ∧ t.mem = s.mem ∧ t.trim.energy = t0.energy ∧
        (t0.nblk ≤ 16 → ∀ i : Fin 256, t.trim.rng.get i =
          if i.val / 16 < t0.nblk then (laneNext (t0.rng.get i)).1 else t0.rng.get i) ∧
        (∀ i : Nat, (∀ b l : Nat, b < t0.nblk → l < 16 → i ≠ 256 * b + t0.laneIndex g l) →
          t.trim.spins.getLsbD i = t0.spins.getLsbD i) ∧
        (∀ i : Nat, t0.clamp.getLsbD i = true → t.trim.spins.getLsbD i = t0.spins.getLsbD i) ∧
        (∀ b : Nat, b < t0.nblk → b < 16 → (∀ l : Nat, 0 < l → l < 16 → t0.laneIndex g l ≠ t0.laneIndex g 0) →
          t0.laneIndex g 0 < 256 → (∀ l : Nat, l < 16 → t0.laneIndex g l < 256) →
          let i := 256 * b + t0.laneIndex g 0
          let d := t0.deltaE t0.spins t0.seen i
          let u := (laneNext (t0.rng.get (Fin.ofNat 256 (16 * b)))).2
          let e := (t0.beta * d.toNat) >>> 9
          t0.clamp.getLsbD i = false →
            (d ≤ 0 ∨ (e < 4096 ∧ u < expt e) → t.trim.spins.getLsbD i = !t0.spins.getLsbD i) ∧
            (0 < d → 4096 ≤ e ∨ expt e ≤ u → t.trim.spins.getLsbD i = t0.spins.getLsbD i))) ∧
      (g = 16 → Gives .trimSweepEnd s fun t =>
        let ends := t0.stepSweeps + 1 = scSweeps (t0.sched.getD t0.steps 0)
        t.trim.last = t0.spins ∧ t.trim.spins = t0.spins ∧ t.trim.sweep = t0.sweep + 1 ∧
        (t.trim.best = t0.best → t.mem = s.mem ∧ (t0.ending = none → t.trim.ending = t0.stopReq)) ∧
        (t.trim.best ≠ t0.best → ∀ p : Nat, s.memWf = true → initFenced s trimInit = false →
          (∀ o : Nat, o < 1600 → placeOf s (bits (t0.resultA + o) 0 48) = .here (p + o)) →
          actCheck s trimInit accStore p 1600 = none → ramErr s p 1600 = none →
          memRead t.mem (p + 3) = BitVec.ofNat 8 t0.steps ∧ t.rd (p + 0x440) 512 = toLE 512 t0.spins.toNat ∧
          (∀ q : Nat, q < p ∨ p + 1600 ≤ q → memRead t.mem q = memRead s.mem q) ∧
          (t0.ending = none → t.trim.ending = t0.stopReq)) ∧
        (ends → t.trim.steps = t0.steps + 1 ∧ t.trim.stepSweeps = 0 ∧
          t.trim.phase = if t0.steps + 1 = t0.nstep then .final else .between) ∧
        (¬ ends → t.trim.steps = t0.steps ∧ t.trim.stepSweeps = t0.stepSweeps + 1 ∧ t.trim.recE = t0.recE ∧
          t.trim.best = t0.best) ∧
        (ends → scRecord (t0.sched.getD t0.steps 0) = true → t0.steps < t0.recE.length →
          t.trim.energy = BitVec.ofInt 48 t0.ePart ∧
          t.trim.recE[t0.steps]? = some (BitVec.ofInt 64 (BitVec.ofInt 48 t0.ePart).toInt)) ∧
        (ends → scBest (t0.sched.getD t0.steps 0) = true → t0.best = none →
          t.trim.best = some (t0.steps, (BitVec.ofInt 48 t0.ePart).toInt, t0.spins)) ∧
        (∀ b : Nat × Int × BitVec 4096, ends → scBest (t0.sched.getD t0.steps 0) = true → t0.best = some b →
          t.trim.best = if (BitVec.ofInt 48 t0.ePart).toInt < b.2.1 then
            some (t0.steps, (BitVec.ofInt 48 t0.ePart).toInt, t0.spins) else some b)) ∧
      (g ≠ 16 → exec .trimSweepEnd s = .next s) ∧ exec .trimPeerTimeout s = .next s) ∧
    (t0.status = tsRunning → t0.phase = .final → t0.ending = none →
      (t0.replay = false → t0.split = false → Gives .trimFinal s fun t =>
        t.trim = { t0 with energy := BitVec.ofInt 48 t0.ePart, ending := some tsDone } ∧ t.mem = s.mem) ∧
      (t0.replay = true → t0.jEnd = none → Gives .trimFinal s fun t =>
        t.trim = { t0 with ending := some tsReplayShort } ∧ t.mem = s.mem) ∧
      (∀ r : TrimRec, t0.replay = true → t0.jEnd = some r → Gives .trimFinal s fun t =>
        t.trim.ending = some (endStatus r) ∧ t.trim.spins = t0.spins ∧ t.mem = s.mem) ∧
      (let u := applyFinals (if t0.finalSent then s else
          trimMod (sendAll s 3 t0.sweep) fun x => { x with finalSent := true })
       t0.replay = false → t0.split = true →
        (finalsIn u.trim = false → Gives .trimFinal s fun t => t.trim.finalSent = true ∧ t.trim.phase = .final) ∧
        (finalsIn u.trim = true → u.trim.ending = none → Gives .trimFinal s fun t =>
          t.trim.ending = some tsDone ∧ t.trim.energy = BitVec.ofInt 48 u.trim.ePart))) ∧
    (∀ (p : ChipId) (b : Bytes),
      exec (.trimx p b) s = .next { s with trim := { t0 with rx := t0.rx ++ [(BitVec.ofNat 8 p.val, recOf b)] } })

/-! ## DRAM, PCIe, debug ports, IO and single registers -/

/-- DDR_CTL.INIT starts training of a DRAM that is not ready; its end makes it READY, with nothing else changed where the chip has no part in a fabric; the exit from self-refresh ends. A scrub with ECC on counts a corrected error, and counts and reports an uncorrectable one, its line noted; without ECC nothing. Refresh at too high a temperature stands as EMCY 0xFF27 of its channel, and is withdrawn. A host access through BAR4 goes to the 256 MiB page chosen: a read gives the bytes the harts see, a write that the access table allows changes those bytes and ends the harts' reservations of what it touches; one that is denied changes no memory. A raised MSI-X vector is sent, or stays pending while masked and is sent when it is unmasked. PCIE_PERST low takes the link down, high lets it train. -/
def Obligations.DramAndPcie : Prop :=
  ∀ s : State,
    (domUp s 14 = true → ∀ v : W32,
      (v.getLsbD 0 = true → s.ddr.ready = false → exec (.ddrInit v) s = .next { s with ddr := { s.ddr with busy := true } }) ∧
      (v.getLsbD 0 = false ∨ s.ddr.ready = true → exec (.ddrInit v) s = .next s) ∧
      (s.ddr.busy = true → (Gives .ddrReady s fun t => t.ddr = { s.ddr with busy := false, ready := true } ∧
          t.mem = s.mem ∧ t.node = s.node ∧ t.fab = s.fab) ∧
        (fabUp s = false ∨ s.fab.role = 3 →
          exec .ddrReady s = .next { s with ddr := { s.ddr with busy := false, ready := true } })) ∧
      (s.ddr.busy = false → exec .ddrReady s = .next s)) ∧
    (mgcUp s = true → (domOf s 14).state = .run →
      exec .dramSelfRefreshExit s = .next { s with ddr := { s.ddr with exiting := false } }) ∧
    (dramUp s = true → ∀ ln : Nat, ln * 64 < dramUsable s →
      (s.ddr.cfg.getLsbD 5 = true →
        exec (.dramScrub ln .corrected) s = .next { s with ddr := { s.ddr with corrected := s.ddr.corrected + 1 } } ∧
        exec (.dramScrub ln .none) s = .next s ∧
        Gives (.dramScrub ln .uncorrectable) s fun t => t.ddr.uncorrectable = s.ddr.uncorrectable + 1 ∧
          t.ddr.lastBad = BitVec.ofNat 64 (ln * 64) ∧ t.mem = s.mem ∧ t.cleatC.lines = s.cleatC.lines) ∧
      (s.ddr.cfg.getLsbD 5 = false → ∀ k : EccKind, exec (.dramScrub ln k) s = .next s)) ∧
    (dramUp s = true → ∀ ch : CanPort,
      (Gives (.dramRefresh ch true) s fun t => stands t 0xFF27 ch.val = true ∧ t.mem = s.mem) ∧
      (Gives (.dramRefresh ch false) s fun t => stands t 0xFF27 ch.val = false ∧ t.mem = s.mem) ∧
      (stands s 0xFF27 ch.val = true → exec (.dramRefresh ch true) s = .next s)) ∧
    (pcieUp s = true → ∀ off n : Nat, off + n ≤ 2 ^ 28 →
      let a := s.pcie.ap4.toNat * 2 ^ 28 + off
      a + n ≤ dramUsable s →
      (ramErr s a n = none →
        (actCheck s 25 accLoad a n = none → Gives (.hostBar4Access off none n) s fun t =>
          t.out = s.out ++ [.host (.data ((List.range n).map fun k => s.seen (a + k)))] ∧ t.mem = s.mem ∧
          t.mast = s.mast) ∧
        (∀ b : Bytes, b.length = n → 0 < n → actCheck s 25 accStore a n = none → s.memWf = true →
          s.cacheWf = true → Gives (.hostBar4Access off (some b) n) s fun t =>
            (∀ q : Nat, t.seen q = if a ≤ q ∧ q < a + n then byteAt b (q - a) else s.seen q) ∧
            (∀ (h : HartId) (g : Nat), g ∈ linesOf a n → (hartOf t h).resv ≠ some (.own g)) ∧ t.out = s.out)) ∧
      (∀ u : State, actCheck s 25 accLoad a n = some u → Gives (.hostBar4Access off none n) s fun t =>
        t.mem = u.mem ∧ t.act = u.act ∧ t.mast = u.mast) ∧
      (∀ (u : State) (b : Bytes), b.length = n → actCheck s 25 accStore a n = some u →
        Gives (.hostBar4Access off (some b) n) s fun t => t.mem = u.mem ∧ t.act = u.act ∧ t.mast = u.mast)) ∧
    (pcieUp s = false → ∀ (off n : Nat) (b : Option Bytes), exec (.hostBar4Access off b n) s = .next s) ∧
    (ctlUp s = true → domUp s 17 = true → ∀ v : W32,
      let n := bits v.toNat 0 5
      (n < 9 → exec (.pcieMsixRaise v) s = .next s) ∧
      (∀ k : Fin 32, k.val = n → 9 ≤ n →
        ((s.pcie.msix.get k).getLsbD 96 = false → exec (.pcieMsixRaise v) s = .next { s with out := s.out ++ [.msix k] }) ∧
        ((s.pcie.msix.get k).getLsbD 96 = true → exec (.pcieMsixRaise v) s =
          .next { s with pcie := { s.pcie with pend := s.pcie.pend ||| (1#32 <<< k.val) } }))) ∧
    (pcieUp s = true → ∀ k : Fin 32, Gives (.msixUnmask k) s fun t =>
      (t.pcie.msix.get k).getLsbD 96 = false ∧ t.pcie.pend.getLsbD k.val = false ∧
      (∀ j : Fin 32, j ≠ k → t.pcie.msix.get j = s.pcie.msix.get j) ∧
      t.out = if s.pcie.pend.getLsbD k.val then s.out ++ [.msix k] else s.out) ∧
    (Gives (.pciePerst false) s fun t => t.dev.perstN = false ∧ pcieUp t = false ∧ t.mem = s.mem ∧ t.node = s.node) ∧
    (Gives (.pciePerst true) s fun t => t.dev.perstN = true ∧ pcieUp t = domUp s 17 ∧ t.mem = s.mem ∧ t.node = s.node)

/-- A DAP access answers an abort and does nothing while the lock bit of what it reaches is programmed; else a hart is halted and resumed, and while it is halted its registers are read and written and it is stepped by one word; one that runs answers an abort; memory is read and written as initiator 30, an access that fails answering an abort. The TAP passes a bit through its bypass register, shifts IDCODE least significant bit first, and captures as many boundary cells as there are; no other state changes. An IO ball takes the level put on it, and an enabled ball whose change matches its mode sets its bit of IO_IRQ_STAT. A register written by a hart under its access rights changes only as its own rule says: IO_OUT takes the value; a denied write leaves only its denial; a write to a block whose registers no chapter lays out changes no named state (log 175). The MGC writes its SRAM, commits the access table, and feeds its watchdog. -/
def Obligations.DebugIoAndRegisters : Prop :=
  ∀ s : State,
    (mgcUp s = true → ctlUp s = true →
      let said := fun (b : Bytes) => s.out ++ [Output.dap (.data b)]
      (mastLocked s.otp = true → ∀ (h : HartId) (r : Fin 32) (v : W64), ∀ op ∈ [DapOp.halt h, .step h, .resume h,
          .readReg h r, .writeReg h r v], exec (.dapAccess op) s = .next { s with out := s.out ++ [.dap (.abort 0)] }) ∧
      (∀ (a n : Nat) (b : Bytes),
        (mastLocked s.otp = true → ∀ op ∈ [DapOp.readMem a n, .writeMem a b],
          exec (.dapAccess op) s = .next { s with out := s.out ++ [.dap (.abort 0)] }) ∧
        (mastLocked s.otp = false →
          (∀ (d : Bytes) (u : State), initRead s 30 a n = (.ok d, u) →
            exec (.dapAccess (.readMem a n)) s = .next { u with out := u.out ++ [.dap (.data d)] }) ∧
          (∀ (e : BusErr) (u : State), initRead s 30 a n = (.error e, u) →
            exec (.dapAccess (.readMem a n)) s = .next { u with out := u.out ++ [.dap (.abort 0)] }) ∧
          (∀ u : State, initWrite s .other 30 a b = (none, u) →
            exec (.dapAccess (.writeMem a b)) s = .next { u with out := u.out ++ [.dap (.data [])] }) ∧
          (∀ (e : BusErr) (u : State), initWrite s .other 30 a b = (some e, u) →
            exec (.dapAccess (.writeMem a b)) s = .next { u with out := u.out ++ [.dap (.abort 0)] }))) ∧
      (mgcLocked s.otp = true → ∀ a n : Nat,
        exec (.dapAccess (.readMgc a n)) s = .next { s with out := s.out ++ [.dap (.abort 0)] }) ∧
      (mgcLocked s.otp = false → ∀ a n : Nat,
        exec (.dapAccess (.readMgc a n)) s = .next { s with out := said (s.rd a n) }) ∧
      (mastLocked s.otp = false → ∀ (h : HartId) (r : Fin 32) (v : W64),
        (Gives (.dapAccess (.halt h)) s fun t => dapHalted t h = true ∧ hartUp t h = false ∧ t.mast = s.mast) ∧
        (Gives (.dapAccess (.resume h)) s fun t => dapHalted t h = false ∧ t.mast = s.mast) ∧
        (dapHalted s h = true →
          exec (.dapAccess (.readReg h r)) s = .next { s with out := said (toLE 8 ((hartOf s h).getX r).toNat) } ∧
          (Gives (.dapAccess (.writeReg h r v)) s fun t => t.mem = s.mem ∧
            ∀ q : Fin 32, (hartOf t h).getX q = if q = 0 then 0 else if q = r then v else (hartOf s h).getX q) ∧
          (∀ u : State, (issueWord (dapSetHalt s h false) h).outcome h = .next u →
            Gives (.dapAccess (.step h)) s fun t => dapHalted t h = true ∧ t.mast = u.mast ∧ t.mem = u.mem)) ∧
        (dapHalted s h = false → ∀ op ∈ [DapOp.readReg h r, .writeReg h r v, .step h],
          exec (.dapAccess op) s = .next { s with out := s.out ++ [.dap (.abort 0)] }))) ∧
    (∀ b : Bool, exec (.tapBypass b) s = .next { s with
      dev := { s.dev with tapIr := .bypass, tapBypassBit := b }, out := s.out ++ [.tdo [s.dev.tapBypassBit]] }) ∧
    (exec .tapIdcode s = .next { s with
      dev := { s.dev with tapIr := .idcode },
      out := s.out ++ [.tdo ((List.range 32).map fun i => (0x24A16A51 : BitVec 32).getLsbD i)] }) ∧
    (∀ bs : List Bool, (Gives (.tapSamplePreload bs) s fun t => t.dev = { s.dev with tapIr := .samplePreload, tapBoundary := bs } ∧
        (∃ l : List Bool, l.length = bs.length ∧ t.out = s.out ++ [.tdo l]) ∧ t.mem = s.mem ∧ t.node = s.node) ∧
      Gives .tapExtest s fun t => t.dev = { s.dev with tapIr := .extest } ∧
        (∃ l : List Bool, l.length = s.dev.tapBoundary.length ∧ t.out = s.out ++ [.tdo l]) ∧ t.mem = s.mem) ∧
    (∀ (pin : Fin 32) (level : Bool), Gives (.ioEdge pin level) s fun t =>
      (∀ i : Fin 32, t.io.ext.getLsbD i.val = if i = pin then level else s.io.ext.getLsbD i.val) ∧
      t.io.outv = s.io.outv ∧ t.io.oe = s.io.oe ∧ t.mem = s.mem ∧
      (ioUp s = false → t.io.irqStat = s.io.irqStat) ∧
      (ioUp s = true → ∀ i : Fin 32,
        let was := s.io.levels.getLsbD i.val
        let now := t.io.levels.getLsbD i.val
        t.io.irqStat.getLsbD i.val = (s.io.irqStat.getLsbD i.val || (s.io.irqEn.getLsbD i.val &&
          (match bits s.io.irqMode.toNat (2 * i.val) 2 with
            | 0 => !was && now
            | 1 => was && !now
            | 2 => was != now
            | _ => now))))) ∧
    (∀ (h : HartId) (v : W64), ctlUp s = true → domUp s 11 = true →
      let by_ := RegParty.mast h
      let out_ := periBase + 0x3040008
      let init := hartInit h (hartOf s h).sup
      (actCheck s init accStore out_ 4 = none → Gives (.registerWrite by_ out_ v) s fun t =>
        t.io.outv = v.setWidth 32 ∧ t.io.oe = s.io.oe ∧ t.io.ext = s.io.ext ∧ t.mem = s.mem ∧ t.mast = s.mast) ∧
      (∀ u : State, actCheck s init accStore out_ 4 = some u → exec (.registerWrite by_ out_ v) s = .next u) ∧
      (actCheck s init accStore (periBase + 0x430000) 4 = none →
        exec (.registerWrite by_ (periBase + 0x430000) v) s = .next s)) ∧
    (∀ v : W64, mgcUp s = true →
      (∀ o : Nat, o < 0x40000 → s.memWf = true → Gives (.registerWrite .mgc (mgmtBase + o) v) s fun t =>
        t.rd (mgmtBase + o) 8 = toLE 8 v.toNat ∧
        ∀ q : Nat, q < mgmtBase + o ∨ mgmtBase + o + 8 ≤ q → memRead t.mem q = memRead s.mem q) ∧
      (v.getLsbD 0 = true → v.getLsbD 1 = false → Gives (.registerWrite .mgc (mgmtBase + 0x1010000) v) s fun t =>
        t.act = { s.act with bank := !s.act.bank, pend := true } ∧ t.mem = s.mem) ∧
      (v.getLsbD 0 = true → exec (.registerWrite .mgc (mgmtBase + 0x1090000) v) s =
        .next { s with boot := { s.boot with wdCount := 0 } }))

/-! ## Shroud ports and flits -/

/-- Detection takes a port from DETECT to EQ, the preset exchange to ALIGN, lock to CONFIG or back; each event in another state changes nothing. An acceptable partner makes it ACTIVE expecting number 0, DEGRADED at x2; where no message waits and no HELLO is to go its own numbers are fresh too and its credits are those advertised. Loss of lock takes it to RETRAIN with its replay buffer, numbers and credits kept, the third time within a second DOWN; a finished retrain sends the unacknowledged flits again in order; DOWN discards the buffer, stands as EMCY 0xFF40 and ends in DETECT. A flit with a bad CRC counts and draws one NAK; a repeated one is acknowledged only; one ahead of the expected draws a NAK; the expected one advances the number, and a write it carries from a chip to this chip's memory is performed under the access table while the data plane is on. An acknowledgement frees the flits before the number it names; a NAK or a timeout sends the rest again, and after 8 without progress the port retrains. -/
def Obligations.PortsAndFlits : Prop :=
  ∀ (s : State) (p : ShlId),
    let q := s.shl.get p
    let st := fun (c : Instr) (x : PortSt) => Gives c s fun t => (t.shl.get p).st = x ∧
      (∀ r : ShlId, r ≠ p → t.shl.get r = s.shl.get r) ∧ t.mem = s.mem ∧ t.node = s.node ∧ t.out = s.out
    let again := fun (o : List Output) => o ++ q.replay.map fun f => Output.flit p f.2
    (∀ b : Bool, (effPort s p = .detect → st (.portDetect p b) (if b then .eq else .detect)) ∧
      (effPort s p = .align → st (.portAlign p b) (if b then .config else .detect)) ∧
      (effPort s p ≠ .detect → exec (.portDetect p b) s = .next s) ∧
      (effPort s p ≠ .align → exec (.portAlign p b) s = .next s)) ∧
    (effPort s p = .eq → st (.portEqDone p) .align) ∧ (effPort s p ≠ .eq → exec (.portEqDone p) s = .next s) ∧
    (effPort s p = .down → st (.portDownEnd p) .detect) ∧ (effPort s p ≠ .down → exec (.portDownEnd p) s = .next s) ∧
    (∀ r : ShlPartner,
      (effPort s p = .config → partnerFits q p r = true → Gives (.portConfig p r) s fun t =>
        let z := t.shl.get p
        z.st = .active ∧ z.width = (if r.width = 4 then 2 else 1) ∧ z.partner = some r ∧ z.expSeq = 0 ∧
        (z.width = 1 → z.degraded = true ∧ stands t 0xFF40 (2 * p.val) = true) ∧
        (z.width = 2 → stands t 0xFF40 (2 * p.val) = false) ∧ stands t 0xFF40 (2 * p.val + 1) = false ∧
        (q.txq = [] → fabUp s = false ∨ s.fab.role = 3 ∨ r.attach = true → z.nextSeq = 0 ∧ z.replay = [] ∧ ∀ i : Fin 8, z.credits.get i = r.pools.getD i.val 0)) ∧
      (effPort s p ≠ .config ∨ partnerFits q p r = false → exec (.portConfig p r) s = .next s)) ∧
    (effPort s p = .active →
      ((q.retrainAt.filter fun t => decide (s.pht.cycles < t + cyclesPerSecond)).length < 2 →
        Gives (.portRetrain p) s fun t => let z := t.shl.get p
          z.st = .retrain ∧ z.replay = q.replay ∧ z.nextSeq = q.nextSeq ∧ z.expSeq = q.expSeq ∧ z.credits = q.credits ∧
          z.retrains = q.retrains + 1 ∧ t.mem = s.mem ∧ t.node = s.node) ∧
      (2 ≤ (q.retrainAt.filter fun t => decide (s.pht.cycles < t + cyclesPerSecond)).length →
        Gives (.portRetrain p) s fun t => let z := t.shl.get p
          z.st = .down ∧ z.replay = [] ∧ z.downs = q.downs + 1 ∧ stands t 0xFF40 (2 * p.val + 1) = true)) ∧
    (effPort s p ≠ .active → exec (.portRetrain p) s = .next s ∧ exec (.replayTimeout p) s = .next s ∧
      ∀ f : Bytes, exec (.flitReceive p f) s = .next s ∧ exec (.nakReceive p f) s = .next s) ∧
    (effPort s p = .retrain →
      (Gives (.portDown p) s fun t => let z := t.shl.get p
        z.st = .down ∧ z.replay = [] ∧ z.downs = q.downs + 1 ∧ stands t 0xFF40 (2 * p.val + 1) = true) ∧
      (Gives (.portRetrainDone p) s fun t => (t.shl.get p).st = .active ∧ (t.shl.get p).expSeq = q.expSeq ∧
        (q.txq = [] → (t.shl.get p).replay = q.replay ∧ (t.shl.get p).credits = q.credits ∧ t.out = again s.out))) ∧
    (effPort s p ≠ .retrain → exec (.portDown p) s = .next s ∧ exec (.portRetrainDone p) s = .next s) ∧
    (effPort s p = .active → ∀ f : Bytes,
      let seq := BitVec.ofNat 12 (fieldLE f 1 2)
      let nak := if q.nakSent then s.out else s.out ++ [.flit p (ackFlit q true)]
      (flitOk f = false → Gives (.flitReceive p f) s fun t =>
        t.shl.get p = { q with crcErrors := q.crcErrors + 1, nakSent := true } ∧ t.mem = s.mem ∧
        t.out = nak) ∧
      (flitOk f = true → flitSeqd f = true → seq ≠ q.expSeq →
        ((q.expSeq - seq).toNat ≤ 2048 → exec (.flitReceive p f) s =
          .next { s with out := s.out ++ [.flit p (ackFlit q false)] }) ∧
        (2048 < (q.expSeq - seq).toNat → Gives (.flitReceive p f) s fun t =>
          t.shl.get p = { q with nakSent := true } ∧ t.out = nak ∧ t.mem = s.mem)) ∧
      (flitOk f = true → flitSeqd f = true → seq = q.expSeq →
        (flitMsgs 15 (slice f 11 240) = [] → Gives (.flitReceive p f) s fun t =>
          (t.shl.get p).expSeq = q.expSeq + 1 ∧ (t.shl.get p).nakSent = false ∧ t.mem = s.mem ∧ t.node = s.node) ∧
        (∀ (m : Bytes) (n : Nat), flitMsgs 15 (slice f 11 240) = [m] → msgDst m = ownChip s → msgMk m = mkWr →
          s.fab.role ≠ 3 → homeOff s = false → attached s p = false → msgPriv m < 3 → reqBytes m = some n → isRam (msgOff m) = true →
          actCheck s (27 + msgPriv m) accStore (msgOff m) n = none → busErr s (msgOff m) n = none → s.memWf = true →
          Gives (.flitReceive p f) s fun t =>
            (t.shl.get p).expSeq = q.expSeq + 1 ∧ (n ≤ (msgData m).length → t.rd (msgOff m) n = (msgData m).take n) ∧
            ∀ a : Nat, a < msgOff m ∨ msgOff m + n ≤ a → memRead t.mem a = memRead s.mem a)) ∧
      (flitOk f = true → flitSeqd f = false → flitNak f = false → q.txq = [] → Gives (.flitReceive p f) s fun t =>
        (t.shl.get p).replay = (if flitAckOk f then (ackTo q (BitVec.ofNat 12 (fieldLE f 3 2))).replay else q.replay) ∧
        t.mem = s.mem ∧ t.out = s.out) ∧
      (flitOk f = true → flitSeqd f = false → flitNak f = true →
        let a := ackTo q (BitVec.ofNat 12 (fieldLE f 3 2))
        (a.replay = [] → Gives (.nakReceive p f) s fun t => t.shl.get p = a ∧ t.out = s.out ∧ t.mem = s.mem) ∧
        (a.replay ≠ [] → a.noProgress < 7 → Gives (.nakReceive p f) s fun t =>
          (t.shl.get p).replay = a.replay ∧ (t.shl.get p).replays = q.replays + 1 ∧
          (t.shl.get p).noProgress = a.noProgress + 1 ∧
          t.out = s.out ++ a.replay.map (fun g => Output.flit p g.2) ∧ t.mem = s.mem)) ∧
      (flitOk f = false ∨ flitSeqd f = true ∨ flitNak f = false → exec (.nakReceive p f) s = .next s)) ∧
    (∀ k : Nat, k < q.replay.length → q.replay.length < 4096 →
      (ackTo q (q.nextSeq - BitVec.ofNat 12 q.replay.length + BitVec.ofNat 12 (k + 1))).replay =
        q.replay.drop (k + 1)) ∧
    (effPort s p = .active → q.replay ≠ [] →
      (q.noProgress < 7 → Gives (.replayTimeout p) s fun t =>
        t.shl.get p = { q with replays := q.replays + 1, replayRc := q.replayRc + 1, noProgress := q.noProgress + 1 } ∧
        t.out = again s.out ∧ t.mem = s.mem) ∧
      (7 ≤ q.noProgress → Gives (.replayTimeout p) s fun t =>
        (t.shl.get p).st = .retrain ∨ (t.shl.get p).st = .down)) ∧
    (q.replay = [] → exec (.replayTimeout p) s = .next s)

/-! ## The two-wire ports -/

/-- A write of TWn_CMD with GO queues a transfer unless one of its own is in progress; a write of 0x2505 queues one or is refused for its length or range; in FAULT a transfer ends at once with RESULT 5. The oldest transfer starts on a free bus. It ends with OK and its bytes, with NACK_DATA and the bytes acknowledged, or, when NAKRTY is used up, NACK_ADDR. A lost arbitration is recorded; the transfer waits for another try, ends with ARB_LOST and the bytes that went before when RETRY is used up, or the port serves the winner as target. SCL low ends the transfer with TIMEOUT, and again makes the port go to FAULT with cause SCL; a failed recovery does with cause SDA: every transfer still due ends with FAULT, and stream contexts on the port lose their source. A re-enable leaves FAULT with the bus counted as busy. SDA found low is noted until it rises. Each of these on a port that is off, or without what it ends, changes nothing; the timers of a port that sleeps, is not enabled or is in FAULT do not run. That BYTES counts data bytes is the model's choice (log 148). -/
def Obligations.TwoWireController : Prop :=
  ∀ (s : State) (n : TwId),
    let p := s.tw.get n
    let is_ := fun (c : Instr) (y : TwPort) => Gives c s fun t =>
      t.tw.get n = y ∧ (∀ m : TwId, m ≠ n → t.tw.get m = s.tw.get m) ∧ t.mem = s.mem
    let ends := fun (c : Instr) (r bytes : Nat) => Gives c s fun t => (t.tw.get n).cur = none ∧
      (t.tw.get n).result = BitVec.ofNat 4 r ∧ (t.tw.get n).bytes = BitVec.ofNat 8 bytes ∧
      (t.tw.get n).stats.get 0 = p.stats.get 0 + 1 ∧ ∀ m : TwId, m ≠ n → t.tw.get m = s.tw.get m
    let starts := fun (c : Instr) (x : TwCur) (q : List TwXfer) => Gives c s fun t =>
      (t.tw.get n).cur = some { x with attempts := x.attempts + 1, waiting := false, stamp := stampNow s } ∧
      (t.tw.get n).busy = true ∧ (t.tw.get n).queue = q ∧ t.out = s.out ++ [.tw n (xferBytes x.x)] ∧ t.mem = s.mem
    (twUp s n = true → ∀ v : W32,
      let y := { p with cmdAddr := v.extractLsb' 0 7, wlen := v.extractLsb' 8 8, rlen := v.extractLsb' 16 8 : TwPort }
      let x := { origin := .cmd, addr := v.extractLsb' 0 7, wdata := slice p.txbuf 0 (min 64 (bits v.toNat 8 8)),
                 rlen := min 64 (bits v.toNat 16 8) : TwXfer }
      (v.getLsbD 7 = false → is_ (.twCommand n v) y) ∧
      (v.getLsbD 7 = true → p.cmdBusy = true → exec (.twCommand n v) s = .next s) ∧
      (v.getLsbD 7 = true → p.cmdBusy = false → p.fault = false → is_ (.twCommand n v) {
        y with cmdBusy := true, asleep := false, gateAt := none, queue := p.queue ++ [x] }) ∧
      (v.getLsbD 7 = true → p.cmdBusy = false → p.fault = true → Gives (.twCommand n v) s fun t =>
        (t.tw.get n).result = 5 ∧ (t.tw.get n).done = true ∧ (t.tw.get n).cmdBusy = false ∧ (t.tw.get n).queue = p.queue)) ∧
    (twUp s n = false → ∀ (v : W32) (e : TwEnd) (b : Bool) (k j : Nat) (a : Byte), ∀ c ∈ [Instr.twCommand n v,
        .twTransferStart n, .twTransferEnd n e, .twArbLost n k j a, .twArbRetry n, .twBusTimeout n, .twSclFault n,
        .twRecovery n b, .twSdaLow n, .twSdaRise n], exec c s = .next s) ∧
    (∀ (w : Session) (k : CanPort) (d : Bytes), k.val = n.val → s.mayAsk w → isService s.node w = true →
      let wl := (byteAt d 1).toNat
      let rl := (byteAt d 2).toNat
      (d.length < 4 ∨ 68 < d.length ∨ d.length ≠ 4 + wl → exec (.twTransferObject w k d) s =
        .next (s.told w 0x2505 (n.val + 1) (.abort 0x06070010))) ∧
      (d.length = 4 + wl → wl ≤ 64 →
        (64 < rl ∨ 127 < (byteAt d 0).toNat → exec (.twTransferObject w k d) s =
          .next (s.told w 0x2505 (n.val + 1) (.abort 0x06090030))) ∧
        (rl ≤ 64 → (byteAt d 0).toNat ≤ 127 →
          (p.fault = false → exec (.twTransferObject w k d) s = .next (twMod (s.asked w 0x2505 (n.val + 1)) n fun q => {
            q with asleep := false, gateAt := none, queue := q.queue ++ [{
              origin := .obj (.sess w), addr := (byteAt d 0).setWidth 7, wdata := d.drop 4, rlen := rl }] })) ∧
          (p.fault = true → Gives (.twTransferObject w k d) s fun t => (t.tw.get n).result = 5 ∧
            (t.tw.get n).queue.length = p.queue.length ∧ s.answeredTo t w 0x2505 (n.val + 1) (.data []) ∧ t.mem = s.mem)))) ∧
    (twUp s n = true → p.en = true → p.ctl = true → p.fault = false → p.busy = false → p.asleep = false → p.cur = none →
      p.target = none →
      (∀ (x : TwXfer) (q : List TwXfer), p.queue = x :: q → starts (.twTransferStart n)
        { x := x, attempts := 0, nacks := 0, losses := 0, waiting := false, stamp := [] } q) ∧
      (p.queue = [] → exec (.twTransferStart n) s = .next s)) ∧
    (p.busy = true ∨ p.fault = true ∨ p.en = false ∨ p.cur.isSome = true → exec (.twTransferStart n) s = .next s) ∧
    (∀ c : TwCur, p.cur = some c → twUp s n = true →
      (c.waiting = false →
        (∀ rd : Bytes, ends (.twTransferEnd n (.acked rd)) 0 (c.x.wdata.length + c.x.rlen) ∧
          (c.x.origin = .cmd → Gives (.twTransferEnd n (.acked rd)) s fun t => (t.tw.get n).cmdBusy = false ∧
            (t.tw.get n).done = true ∧ (t.tw.get n).rxbuf = overwrite p.rxbuf 0 ((padTo c.x.rlen rd).take 64))) ∧
        (∀ k : Nat, ends (.twTransferEnd n (.nackData k)) 2 (min k c.x.wdata.length)) ∧
        (∀ second : Bool,
          (p.nakRetry ≤ c.nacks → ends (.twTransferEnd n (.nackAddr second)) 1 (if second then c.x.wdata.length else 0)) ∧
          (c.nacks < p.nakRetry →
            starts (.twTransferEnd n (.nackAddr second)) { c with nacks := c.nacks + 1 } p.queue)) ∧
        (∀ (byte bit : Nat) (a : Byte),
          let inAddr := byte = 0 ∨ (byte = 1 + c.x.wdata.length ∧ c.x.wdata ≠ [])
          let served := inAddr ∧ p.targetOn = true ∧ a.toNat / 2 = p.taddr.toNat
          let noted := fun (t : State) => (t.tw.get n).arbLost = true ∧ (t.tw.get n).arbByte = BitVec.ofNat 8 byte ∧
            (t.tw.get n).arbBit = BitVec.ofNat 4 bit ∧ (t.tw.get n).arbCount = p.arbCount + 1 ∧ (t.tw.get n).busy = true;
          (served → Gives (.twArbLost n byte bit a) s fun t => noted t ∧ (t.tw.get n).cur = some { c with waiting := true } ∧
            (t.tw.get n).target = some { read := a.getLsbD 0, first := true, firstPtr := p.ptr, lastPtr := p.ptr, count := 0 }) ∧
          (¬ served → p.retry ≤ c.losses → Gives (.twArbLost n byte bit a) s fun t => noted t ∧ (t.tw.get n).cur = none ∧
            (t.tw.get n).result = 3 ∧
            (t.tw.get n).bytes = BitVec.ofNat 8 (dataAmong c.x (byte + if bit = 8 then 1 else 0))) ∧
          (¬ served → c.losses < p.retry → Gives (.twArbLost n byte bit a) s fun t => noted t ∧
            (t.tw.get n).cur = some { c with waiting := true, losses := c.losses + 1 })) ∧
        exec (.twArbRetry n) s = .next s) ∧
      (c.waiting = true → p.busy = false → p.target = none → starts (.twArbRetry n) c p.queue)) ∧
    (p.cur = none → ∀ (e : TwEnd) (k j : Nat) (a : Byte), exec (.twTransferEnd n e) s = .next s ∧
      exec (.twArbLost n k j a) s = .next s ∧ exec (.twArbRetry n) s = .next s) ∧
    (p.asleep = true ∨ p.fault = true ∨ p.en = false → ∀ b : Bool,
      ∀ c ∈ [Instr.twBusTimeout n, .twSclFault n, .twRecovery n b, .twSdaLow n], exec c s = .next s) ∧
    (twUp s n = true → p.en = true → p.fault = false → p.asleep = false →
      (Gives (.twBusTimeout n) s fun t => (t.tw.get n).timeout = true ∧ (t.tw.get n).target = none ∧
        (t.tw.get n).sclLow = true ∧ (t.tw.get n).timeoutCnt = satInc16 p.timeoutCnt ∧ (t.tw.get n).fault = false ∧
        (∀ c : TwCur, p.cur = some c → c.waiting = false → (t.tw.get n).cur = none ∧ (t.tw.get n).result = 4)) ∧
      (let fails := fun (c : Instr) (cause : BitVec 2) => Gives c s fun t => (t.tw.get n).fault = true ∧
          (t.tw.get n).fcause = cause ∧ (t.tw.get n).target = none ∧ (t.tw.get n).cur = none ∧ (t.tw.get n).queue = [] ∧
          (t.tw.get n).stats.get 0 = p.stats.get 0 + BitVec.ofNat 32 (p.queue.length + b2n p.cur.isSome) ∧
          (p.queue ≠ [] → (t.tw.get n).result = 5) ∧
          (∀ e ∈ s.cap.ctxs, e.2.en = true → ctxTw e.2 = some n → (e.1, { e.2 with st := 3 }) ∈ t.cap.ctxs);
        (p.sclLow = true → fails (.twSclFault n) 2) ∧ (p.ctl = true → fails (.twRecovery n false) 1)) ∧
      (p.sclLow = false → exec (.twSclFault n) s = .next s) ∧
      (p.ctl = true → Gives (.twRecovery n true) s fun t => (t.tw.get n).recovCnt = satInc16 p.recovCnt ∧
        (t.tw.get n).cur = none ∧ (t.tw.get n).fault = false ∧ (p.cur.isSome = true → (t.tw.get n).result = 4)) ∧
      (p.ctl = false → p.sdaLow = false → Gives (.twSdaLow n) s fun t => (t.tw.get n).sdaLow = true ∧
        (t.tw.get n).fault = false ∧ (t.tw.get n).cur = p.cur)) ∧
    (twUp s n = true → p.sdaLow = true → Gives (.twSdaRise n) s fun t => (t.tw.get n).sdaLow = false ∧
      (t.tw.get n).cur = p.cur) ∧
    (∀ w : Session, s.mayAsk w → isService s.node w = true → twUp s n = true →
      p.fault = true → Gives (.twReenable w n 1) s fun t => (t.tw.get n).fault = false ∧ (t.tw.get n).fcause = 0 ∧
        (t.tw.get n).busy = true ∧ (t.tw.get n).cfg = p.cfg ∧ stands t 0xFF80 n.val = false ∧
        s.answeredTo t w 0x2501 (n.val + 1) (.data []))

/-- An address that names a port whose target engine answers is acknowledged and served; any other START makes the bus busy. The first byte of a write sets the window pointer; each further one is stored where the pointer stands unless its line is protected, and the pointer advances, wrapping. A read gives the byte at the pointer until one goes unacknowledged. The STOP of a write records where it began and ended and how many bytes it stored; that of a read applies the internal writes it held back, at most 8, a further one tearing the read. A free bus takes over MODE, GF and TWn_TIM, and a port told to sleeps if nothing is due (log 148). A write of EN = 0 ends a transfer ABORTED; EN = 1 makes the bus count as busy; it is ignored in FAULT. A dozing port wakes on its address and serves it; a sleeping one wakes without acknowledging and clears SLEEP. No event of one port touches another. -/
def Obligations.TwoWireTarget : Prop :=
  ∀ (s : State) (n : TwId), twUp s n = true →
    let p := s.tw.get n
    let is_ := fun (c : Instr) (y : TwPort) => Gives c s fun t =>
      t.tw.get n = y ∧ (∀ m : TwId, m ≠ n → t.tw.get m = s.tw.get m) ∧ t.mem = s.mem ∧ t.cap = s.cap ∧ t.node = s.node
    let counts := fun (y : TwPort) => { y with stats := vmod y.stats 5 (· + 1) }
    (∀ a : Byte,
      let open_ := p.targetOn = true ∧ a.toNat / 2 = p.taddr.toNat
      let serve := fun (y : TwPort) => { y with busy := true, target := some { read := a.getLsbD 0, first := true, firstPtr := y.ptr, lastPtr := y.ptr, count := 0 } : TwPort }
      (p.asleep = false → open_ → (∀ c : TwCur, p.cur = some c → c.waiting = true) →
        is_ (.twTargetAddress n a) (serve p)) ∧
      (p.asleep = false → (¬ open_ ∨ ∃ c : TwCur, p.cur = some c ∧ c.waiting = false) →
        is_ (.twTargetAddress n a) { p with busy := true }) ∧
      (p.asleep = true → exec (.twTargetAddress n a) s = .next s) ∧
      (∀ k : CanPort, k.val = n.val → p.asleep = true →
        (open_ → is_ (.twDozeWake k a) (serve (counts {
          p with asleep := false, gateAt := none, wake := true, wakeCnt := satInc16 p.wakeCnt }))) ∧
        (¬ open_ → is_ (.twDozeWake k a) { p with busy := true, gateAt := none })) ∧
      (2 ≤ n.val → p.asleep = true → a.toNat / 2 = p.taddr.toNat → is_ (.twSleepWake n a) (counts {
        p with asleep := false, cfg := p.cfg &&& ~~~0x8000, wake := true, busy := true, wakeCnt := satInc16 p.wakeCnt })) ∧
      (n.val < 2 ∨ p.asleep = false ∨ a.toNat / 2 ≠ p.taddr.toNat → exec (.twSleepWake n a) s = .next s)) ∧
    (∀ (t : TwTarget) (b : Byte) (r : Bool), p.target = some t →
      (t.read = false →
        (t.first = true → is_ (.twTargetWriteByte n b) {
          p with ptr := b, target := some { t with first := false, firstPtr := b, lastPtr := b } }) ∧
        (t.first = false → p.wprot.getLsbD (p.ptr.toNat / 16) = false → is_ (.twTargetWriteByte n b) {
          p with win := overwrite p.win p.ptr.toNat [b], ptr := p.ptr + 1,
                 target := some { t with lastPtr := p.ptr, count := t.count + 1 } }) ∧
        (t.first = false → p.wprot.getLsbD (p.ptr.toNat / 16) = true → is_ (.twTargetWriteByte n b) {
          p with ptr := p.ptr + 1, target := some { t with lastPtr := p.ptr } }) ∧
        is_ (.twStop n r) {
          p with target := none, winFirst := t.firstPtr, winLast := t.lastPtr, winCount := t.count, winWr := true,
                 busy := p.busy || r } ∧
        exec (.twTargetReadByte n r) s = .next s) ∧
      (t.read = true →
        (t.first = true → is_ (.twTargetReadByte n r) { p with ptr := p.ptr + 1, target := some { t with first := r } } ∧
          Gives (.twTargetReadByte n r) s fun u => u.out = s.out ++ [.tw n [byteAt p.win p.ptr.toNat]]) ∧
        is_ (.twStop n r) {
          p with target := none, busy := p.busy || r, deferred := [],
                 win := p.deferred.foldl (fun w d => overwrite w d.1.toNat d.2) p.win } ∧
        exec (.twTargetWriteByte n b) s = .next s)) ∧
    (p.target = none → ∀ (b : Byte) (r : Bool), exec (.twTargetWriteByte n b) s = .next s ∧
      exec (.twTargetReadByte n r) s = .next s ∧ exec (.twStop n r) s = .next s) ∧
    (∀ (off : Byte) (d : Bytes),
      let reading := ∃ t : TwTarget, p.target = some t ∧ t.read = true
      (¬ reading → is_ (.twWindowInternalWrite n off d) { p with win := overwrite p.win off.toNat d }) ∧
      (reading → p.deferred.length < 8 → is_ (.twWindowInternalWrite n off d) { p with deferred := p.deferred ++ [(off, d)] }) ∧
      (reading → 8 ≤ p.deferred.length → is_ (.twWindowInternalWrite n off d) {
        p with win := overwrite p.win off.toNat d, torn := true })) ∧
    (p.target = none → (∀ c : TwCur, p.cur = some c → c.waiting = true) → is_ (.twBusFree n) {
      p with busy := false, sclLow := false, modeNow := BitVec.ofNat 2 (bits p.cfg.toNat 3 2),
             gfNow := BitVec.ofNat 4 (bits p.cfg.toNat 5 4), timNow := p.tim,
             asleep := p.asleep || (decide (2 ≤ n.val) && p.sleepBit && p.en && !p.fault && p.queue.isEmpty &&
               p.cur.isNone) }) ∧
    (p.target.isSome = true ∨ (∃ c : TwCur, p.cur = some c ∧ c.waiting = false) → exec (.twBusFree n) s = .next s) ∧
    (∀ v : W32,
      (p.fault = true → v.getLsbD 0 = true → exec (.twEnableWrite n v) s = .next s) ∧
      (p.fault = false → v.getLsbD 0 = true → is_ (.twEnableWrite n v) {
        p with cfg := v.extractLsb' 0 24, busy := p.busy || !p.en,
               asleep := (p.asleep && v.getLsbD 15) || (decide (2 ≤ n.val) && v.getLsbD 15 && !p.busy && p.en &&
                 p.queue.isEmpty && p.cur.isNone) }) ∧
      (v.getLsbD 0 = false → p.cur = none → is_ (.twEnableWrite n v) {
        p with cfg := v.extractLsb' 0 24, target := none, asleep := false, gateAt := none, deferred := [],
               win := p.deferred.foldl (fun w d => overwrite w d.1.toNat d.2) p.win }) ∧
      (∀ c : TwCur, v.getLsbD 0 = false → p.cur = some c → Gives (.twEnableWrite n v) s fun t =>
        (t.tw.get n).cur = none ∧ (t.tw.get n).result = 6 ∧ (t.tw.get n).en = false)) ∧
    (∀ k : CanPort, k.val = n.val →
      (p.en = true → p.sleepBit = true → p.busy = false → p.queue = [] → p.cur = none →
        is_ (.twDoze k) { p with asleep := true, gateAt := some s.pht.cycles }) ∧
      (p.busy = true ∨ p.cur.isSome = true ∨ p.sleepBit = false ∨ p.en = false ∨ p.queue ≠ [] →
        exec (.twDoze k) s = .next s)) ∧
    (2 ≤ n.val → is_ (.twSleep n) {
      p with cfg := p.cfg ||| 0x8000,
             asleep := p.asleep || (p.en && !p.fault && !p.busy && p.queue.isEmpty && p.cur.isNone) }) ∧
    (n.val < 2 → exec (.twSleep n) s = .next s) ∧
    (is_ (.twStartDetected n) {
      p with busy := true, gateAt := none,
             asleep := p.asleep && !(decide (n.val < 2) && p.gateAt == some s.pht.cycles) })

/-! ## Reef -/

/-- A REEF_REQ with a field out of range, a state the domain has not, class PHASE with a state other than RUN, or a pinned sum above PINMAX is REFUSED; one that needs PD12 while it is not granted, or lowers PD12 under a domain that needs it, is answered DEPENDENCY; neither is queued. A request to a lower state asserts the reclaim of the domain, to be answered when it is acknowledged, and ends a pinned grant at once: the PHT_RDY bits of its cores clear. A raise with WAIT, and any request while the domain is being reclaimed, enters the queue, or is refused when 32 wait; a raise without WAIT is granted in the same cycle when it fits alone, its units taken from free, and is refused, the domain and free unchanged, when units or rail do not allow it. GRANTED is answered once the domain is ready and no reclaim stands. A demand line raised for a domain of the auto mask queues a BULK request for RUN; one dropped withdraws it and reclaims an auto grant to its floor. -/
def Obligations.ReefRequests : Prop :=
  (∀ (s u : State) (m : Msg), s.boot.dprActive = false → takeMsg s 0x05 = some (m, u) →
    let dn := (byteAt m.payload 0).toNat
    let sc := (byteAt m.payload 1).toNat
    let cn := (byteAt m.payload 2).toNat
    let fl := (byteAt m.payload 3).toNat
    let held := if dn < 18 then (domOf u (Fin.ofNat 18 dn)).units else 0
    let answer := fun (status : Nat) => exec .reefReq s = .next (m2cSend {
      u with reef := { u.reef with refusals := u.reef.refusals + 1 } } {
      kind := 0x85, tag := m.tag,
      payload := toLE 1 dn ++ toLE 1 status ++ toLE 2 held ++ toLE 2 (wrapInt 16 u.reef.free) });
    (16 < dn ∨ dn = 11 ∨ 4 < sc ∨ 2 < cn ∨ 1 < fl → answer 4) ∧
    (∀ (d : DomId) (st : PState) (cls : GClass), d.val = dn → dn ≤ 16 → dn ≠ 11 → pstateOf sc = some st →
      (cn = 0 ∧ cls = .bulk ∨ cn = 1 ∧ cls = .work ∨ cn = 2 ∧ cls = .phase) → fl ≤ 1 →
      let x := domOf u d
      let cost := costOf u d st
      let w : ReefWait :=
        { dom := d, target := st, cls := cls, tag := m.tag, auto := false, fitAt := none, once := decide (fl = 0) }
      (stateCost d st = none → answer 4) ∧ (cls = .phase → st ≠ .run → answer 4) ∧
      (cls = .phase → u.reef.pinmax.toNat < pinnedSum u - (if pinned u d then x.units else 0) + cost → answer 4) ∧
      ((stateCost d st).isSome = true → (cls = .phase → st = .run ∧
          pinnedSum u - (if pinned u d then x.units else 0) + cost ≤ u.reef.pinmax.toNat) →
        let depends := (needs12 d = true ∧ st ≠ .off ∧ x.state.code < st.code ∧ domGranted u 12 = false) ∨
          (d = 12 ∧ st = .off ∧ domGranted u 12 = true ∧ may12Off u = false)
        (depends → answer 5) ∧
        (¬ depends →
          (x.reclaim = none → st.code < x.state.code → Gives .reefReq s fun t => (domOf t d).reclaim = some st ∧
            (domOf t d).rspTag = some m.tag ∧ (domOf t d).cls = cls ∧ (domOf t d).state = x.state ∧
            (domOf t d).units = x.units ∧ t.reef.free = u.reef.free ∧
            t.reef.queue = u.reef.queue.filter (fun q => q.dom != d) ∧
            (pinned u d = true → ∀ c ∈ pairCores d, t.pht.rdy.getLsbD c.val = false)) ∧
          (x.reclaim.isSome = true ∨ (x.state.code ≤ st.code ∧ fl = 1) →
            ((u.reef.queue.filter fun q => q.dom != d).length < 32 → Gives .reefReq s fun t =>
              t.reef.queue = (u.reef.queue.filter fun q => q.dom != d) ++ [w] ∧ (domOf t d).units = x.units ∧
              (domOf t d).state = x.state ∧ t.reef.free = u.reef.free) ∧
            (32 ≤ (u.reef.queue.filter fun q => q.dom != d).length → Gives .reefReq s fun t =>
              t.reef.queue = u.reef.queue.filter (fun q => q.dom != d) ∧ t.reef.refusals = u.reef.refusals + 1 ∧
              (domOf t d).units = x.units ∧ t.reef.free = u.reef.free)) ∧
          (x.state.code ≤ st.code → fl = 0 → u.reef.queue = [] → (∀ i : Fin 9, u.reef.demand.get i = false) →
            0 ≤ u.reef.free → u.pert.active.get 7 = false → x.reclaim = none →
            needs12 d = false ∨ st = .off ∨ (domGranted u 12 = true ∧ (domOf u 12).reclaim = none) →
            (railRefuses u w = false → (cost : Int) - x.units ≤ u.reef.free → Gives .reefReq s fun t =>
              (domOf t d).state = st ∧ (domOf t d).units = cost ∧ (domOf t d).cls = cls ∧
              (domOf t d).waking = decide (x.state ≠ .thr ∧ x.state ≠ st) ∧ (domOf t d).rspTag = some m.tag ∧
              t.reef.free = u.reef.free - ((cost : Int) - x.units) ∧ t.reef.queue = [] ∧
              (pinned u d = true → cls ≠ .phase → ∀ c ∈ pairCores d, t.pht.rdy.getLsbD c.val = false) ∧
              ∀ e : DomId, e ≠ d → domOf t e = domOf u e) ∧
            (railRefuses u w = true ∨ u.reef.free < (cost : Int) - x.units → Gives .reefReq s fun t => t.reef.queue = [] ∧
              t.reef.free = u.reef.free ∧ (domOf t d).state = x.state ∧ (domOf t d).units = x.units ∧
              t.reef.refusals = u.reef.refusals + 1)))))) ∧
  (∀ s : State, s.boot.dprActive = true ∨ takeMsg s 0x05 = none → exec .reefReq s = .next s) ∧
  (∀ (s : State) (d : DomId), mgcUp s = true →
    (∀ tag : W16, (domOf s d).rspTag = some tag → (domOf s d).waking = false → (domOf s d).reclaim = none →
      Gives (.reefRsp d) s fun t => (domOf t d).rspTag = none ∧
        (domOf t d).units = (domOf s d).units ∧ t.reef.free = s.reef.free ∧ t.reef.refusals = s.reef.refusals ∧
        (s.cleatA.backlog = [] → ringUsed s.cleatA.m2cWr s.cleatA.m2cRd < 64 → t.cleatA.m2cWr = s.cleatA.m2cWr + 1)) ∧
    ((domOf s d).rspTag = none ∨ (domOf s d).waking = true ∨ (domOf s d).reclaim.isSome = true →
      exec (.reefRsp d) s = .next s)) ∧
  (∀ (s : State) (i : Fin 9) (d : DomId), d.val = i.val → mgcUp s = true →
    (demandHeld s i = true → s.reef.demand.get i = false → Gives (.autoDemandRaise i) s fun t =>
      t.reef.demand.get i = true ∧ t.reef.free = s.reef.free ∧ t.reef.doms = s.reef.doms ∧
      (s.reef.autoMask.getLsbD i.val = true → (domOf s d).superseded = false → (domOf s d).state ≠ .run →
        s.reef.queue.length < 24 → ∃ w ∈ t.reef.queue, w.dom = d)) ∧
    (demandHeld s i = false ∨ s.reef.demand.get i = true → exec (.autoDemandRaise i) s = .next s) ∧
    (s.reef.demand.get i = true → (i = 8 → s.ee.cur = none) → (∀ c ∈ pairCores d, (coreOf s c).cur = none) →
      Gives (.autoDemandDrop i) s fun t => t.reef.demand.get i = false ∧ t.reef.free = s.reef.free ∧
        (∀ w ∈ t.reef.queue, w.dom = d → w.auto = false) ∧
        (s.reef.autoMask.getLsbD i.val = true → (domOf s d).superseded = false → (domOf s d).cls = .bulk →
          (domOf s d).floor.code < (domOf s d).state.code → (domOf s d).reclaim = none →
          (domOf t d).reclaim = some (domOf s d).floor)) ∧
    (s.reef.demand.get i = false → exec (.autoDemandDrop i) s = .next s))

/-- Units in transit return to free and a budget change is applied with the cycle; a deficit selects reclaims and moves no unit, never of a CONTROL domain; without one nothing is selected. A reclaim acknowledged at its safe point puts the domain into its target state, the units it gives up in transit; one that is not acknowledged in time forces it OFF with all its units in transit and EMCY 0xFF72; PD12 does not go OFF by either while a domain that needs it is up. A cycle grants a lone request that fits, keeps one that does not or, if it came without WAIT, refuses it, turns one to a lower state into a reclaim, and grants nothing while a deficit stands; free never goes below 0 by a grant. A domain that reports ready stops waking; PD9 from OFF clears the conditions of TW2 to TW5. A request that waits too long is answered TIMEOUT, unless it can be granted. A budget write of 64 to 768 is the next cycle's effective budget, less 16 for each derating level; another value is out of range. Of eight sensors the hottest sets the level at once when it rises, lowers it by 1 after 100 cool samples, and at T_CRIT leaves CONTROL and 3 units. -/
def Obligations.ReefArbiter : Prop :=
  ∀ s : State, mgcUp s = true →
    let r := s.reef
    let same := fun (t : State) => ∀ d : DomId, (domOf t d).units = (domOf s d).units ∧ (domOf t d).state = (domOf s d).state
    (Gives .reefTransitReturn s fun t =>
      let f := r.free + r.transit + (r.effNext : Int) - r.eff
      t.reef.free = f ∧ t.reef.transit = 0 ∧ t.reef.eff = r.effNext ∧ same t ∧ t.reef.queue = r.queue ∧
      (0 ≤ f → r.critical = false → t.reef.doms = r.doms ∧ t.node = s.node) ∧
      (0 ≤ r.free + r.transit → f < 0 → t.reef.deficits = r.deficits + 1) ∧
      (∀ d : DomId, (d = 11 ∨ d = 17) → (domOf s d).cls = .control → (domOf t d).reclaim = (domOf s d).reclaim)) ∧
    (∀ (d : DomId) (st : PState), (domOf s d).reclaim = some st →
      (atSafePoint s d = true → mayLeave s d st = true → r.effNext = r.eff → 0 ≤ r.free → r.critical = false →
        Gives (.reefReclaimAck d) s fun t =>
        (domOf t d).state = st ∧ (domOf t d).units = costOf s d st ∧ (domOf t d).reclaim = none ∧
        t.reef.transit = r.transit + ((domOf s d).units : Int) - costOf s d st ∧ t.reef.free = r.free ∧
        t.reef.reclaims = r.reclaims + 1 ∧ (∀ e : DomId, e ≠ d → domOf t e = domOf s e) ∧
        (st = .off → d = 14 → t.ddr.ready = false)) ∧
      (atSafePoint s d = false ∨ (d = 12 ∧ st = .off ∧ may12Off s = false) → exec (.reefReclaimAck d) s = .next s) ∧
      (d = 12 → may12Off s = false → exec (.reefReclaimTimeout d) s = .next s) ∧
      (d ≠ 12 ∨ may12Off s = true → Gives (.reefReclaimTimeout d) s fun t => (domOf t d).state = .off ∧ (domOf t d).units = 0 ∧
        (domOf t d).reclaim = none ∧ t.reef.transit = r.transit + (domOf s d).units ∧ t.reef.free = r.free ∧
        t.reef.forcedOff = r.forcedOff + 1 ∧ (∀ e : DomId, e ≠ d → domOf t e = domOf s e) ∧
        t.node.history.head?.map (fun e => e.toNat % 65536) = some 0xFF72)) ∧
    (∀ d : DomId, (domOf s d).reclaim = none → exec (.reefReclaimAck d) s = .next s ∧ exec (.reefReclaimTimeout d) s = .next s) ∧
    (Gives .reefGrant s fun t => t.reef.eff = r.effNext ∧ t.reef.transit = r.transit ∧
      (r.free + (r.effNext : Int) - r.eff < 0 → same t ∧ t.reef.grants = r.grants) ∧
      (0 ≤ r.free + (r.effNext : Int) - r.eff → 0 ≤ t.reef.free)) ∧
    (∀ w : ReefWait, r.queue = [w] → w.cls ≠ .control → (∀ i : Fin 9, r.demand.get i = false) → r.effNext = r.eff → 0 ≤ r.free →
      r.critical = false →
      let x := domOf s w.dom
      let delta := (costOf s w.dom w.target : Int) - x.units
      let clear := railRefuses s w = false ∧ x.reclaim = none ∧ x.state.code ≤ w.target.code ∧
        s.pert.active.get 7 = false ∧
        (needs12 w.dom = false ∨ w.target = .off ∨ (domGranted s 12 = true ∧ (domOf s 12).reclaim = none))
      let grants := fun (c : Instr) => Gives c s fun t => (domOf t w.dom).state = w.target ∧
        (domOf t w.dom).units = costOf s w.dom w.target ∧ (domOf t w.dom).cls = w.cls ∧ t.reef.free = r.free - delta ∧
        t.reef.queue = [] ∧ t.reef.grants = r.grants + 1 ∧ ∀ e : DomId, e ≠ w.dom → domOf t e = domOf s e;
      (clear → delta ≤ r.free → grants .reefGrant ∧ (w.auto = false → grants (.reefGrantTimeout w.dom))) ∧
      (x.reclaim = none → w.target.code < x.state.code → Gives .reefGrant s fun t => t.reef.queue = [] ∧
        (domOf t w.dom).reclaim = some w.target ∧ (domOf t w.dom).units = x.units ∧ t.reef.free = r.free) ∧
      (w.once = true → clear → r.free < delta → Gives .reefGrant s fun t => t.reef.queue = [] ∧ t.reef.doms = r.doms ∧
        t.reef.free = r.free ∧ t.reef.refusals = r.refusals + 1) ∧
      (w.once = false → (railRefuses s w = true ∧ x.state.code ≤ w.target.code) ∨ x.reclaim.isSome = true ∨
          (clear ∧ r.free < delta) →
        (Gives .reefGrant s fun t => t.reef.queue = [w] ∧ t.reef.doms = r.doms ∧ t.reef.free = r.free) ∧
        (w.auto = false → Gives (.reefGrantTimeout w.dom) s fun t => t.reef.queue = [] ∧ t.reef.doms = r.doms ∧
          t.reef.free = r.free ∧ t.reef.refusals = r.refusals))) ∧
    (∀ d : DomId, ((domOf s d).waking = true → ¬ (d = 14 ∧ s.ddr.exiting = true) → Gives (.reefDomainReady d) s fun t =>
        domOf t d = { domOf s d with waking := false, fromOff := false } ∧ t.reef.free = r.free ∧
        (∀ e : DomId, e ≠ d → domOf t e = domOf s e) ∧
        (d = 9 → (domOf s d).fromOff = true → ∀ n : TwId, 2 ≤ n.val → (t.tw.get n).cond = 0 ∧
          stands t 0xFF80 n.val = false ∧ stands t 0xFF82 n.val = false)) ∧
      ((domOf s d).waking = false → exec (.reefDomainReady d) s = .next s)) ∧
    (∀ (w : Session) (v : W16), s.mayAsk w → isService s.node w = true →
      (64 ≤ v.toNat → v.toNat ≤ 768 → Gives (.reefBudgetWrite w v) s fun t => t.reef.budget = v.setWidth 10 ∧
        t.reef.effNext = (if r.critical then criticalEff s else max 64 (v.toNat - 16 * r.level)) ∧
        t.reef.eff = r.eff ∧ t.reef.free = r.free ∧
        (let a := s.told w 0x2300 1 (.data [])
         t.node.chans = a.node.chans ∧ t.node.hmb = a.node.hmb ∧ t.cleatA.hostRsp = a.cleatA.hostRsp ∧
         (w ≠ .host → t.out.getLast? = some (.dict w (.data []))))) ∧
      (v.toNat < 64 ∨ 768 < v.toNat → exec (.reefBudgetWrite w v) s =
        .next (s.told w 0x2300 1 (.abort 0x06090030)))) ∧
    (∀ temps : List Int, temps.length = 8 → ∀ m ∈ temps, (∀ x ∈ temps, x ≤ m) → Gives (.thermalSample temps) s fun t =>
      t.reef.tmax = m ∧ t.reef.critical = decide (r.tCrit ≤ m) ∧ t.reef.budget = r.budget ∧ t.reef.free = r.free ∧
      (r.tDerate + r.level < m → t.reef.level = (m - r.tDerate).toNat) ∧
      (m ≤ r.tDerate + r.level → ¬ (0 < r.level ∧ m ≤ r.tDerate + r.level - 3 ∧ r.coolMs + 1 = 100) →
        t.reef.level = r.level) ∧
      (0 < r.level → m ≤ r.tDerate + r.level - 3 → r.coolMs + 1 = 100 → t.reef.level = r.level - 1) ∧
      t.reef.effNext = (if r.tCrit ≤ m then criticalEff s else max 64 (r.budget.toNat - 16 * t.reef.level)) ∧
      stands t 0xFF71 0 = decide (0 < t.reef.level) ∧ stands t 0xFF73 0 = decide (r.tCrit ≤ m)) ∧
    (∀ temps : List Int, temps.length ≠ 8 → exec (.thermalSample temps) s = .next s)

/-! ## The whole machine -/

/-- A step takes the command at the front of the queue and answers what its execution answers, with the queue's rest in place; on an empty queue the clock alone acts, which is the model's choice (log 4): while the management plane runs, the report FIFO is emptied and a budget change applied, and nothing else of the machine's parts but Reef's own, the reclaimed cores' and their scheduler's changes. -/
def Obligations.StepRunsFront : Prop :=
  ∀ s : State,
    (∀ (c : Instr) (cs : List Instr), step { s with pending := c :: cs } = exec c { s with pending := cs }) ∧
    (s.pending = [] → ∃ t, step s = .next t ∧ t.pending = [] ∧ t.mem = s.mem ∧ t.dev = s.dev ∧ t.cleatD = s.cleatD ∧
      t.otp = s.otp ∧ t.mast = s.mast ∧ t.trim = s.trim ∧ t.reef.eff = (if mgcUp s then s.reef.effNext else s.reef.eff) ∧
      (mgcUp s = false → t = s))

/-- After reset the tables of memory, contexts and caches are canonical, Cleat D is not locked and no plane runs, every unit of Reef's budget of 480 is free, no command waits, and no domain is granted. -/
def Obligations.ResetIsSound : Prop :=
  State.reset.sound ∧ State.reset.reefBalanced ∧ State.reset.reef.free = 480 ∧ State.reset.cleatD.lock = false ∧
  mgcUp State.reset = false ∧ State.reset.pending = [] ∧ State.reset.mem = [] ∧
  ∀ d : DomId, (domOf State.reset d).state = .off ∧ domUp State.reset d = false

/-- Whatever command runs and however it ends in a next state: memory, the contexts and alignment sets, and the caches keep their canonical form, every line held has 64 bytes, and management firmware runs only with Cleat D locked. -/
def Obligations.StepsKeepSound : Prop :=
  ∀ s t : State, s.sound → step s = .next t → t.sound

/-- Free, granted and transit units add up to the effective budget in every state that a step reaches from one where they do: no command makes or loses a unit. -/
def Obligations.StepsKeepBalance : Prop :=
  ∀ s t : State, s.reefBalanced → step s = .next t → t.reefBalanced

/-- No command changes the queue of those behind it. The straps change only at the release of RESET_N. A one-time-programmable cell that is set stays set. A locked Cleat D changes only with a device reset, which clears the lock, or with MGC_BOOT, which follows one. The bank modes change only with a power-on reset. Outputs given are never taken back. -/
def Obligations.WhatNoCommandChanges : Prop :=
  ∀ (c : Instr) (s t : State), exec c s = .next t →
    t.pending = s.pending ∧
    ((∀ (m : BitVec 3) (n : BitVec 7) (f : BitVec 6) (e : Bool), c ≠ .resetNRelease m n f e) →
      t.dev.strapMode = s.dev.strapMode ∧ t.dev.strapNode = s.dev.strapNode ∧ t.dev.strapFab = s.dev.strapFab) ∧
    (∀ a i : Nat, (otpByte s.otp a).getLsbD i = true → (otpByte t.otp a).getLsbD i = true) ∧
    (s.cleatD.lock = true → t.cleatD = s.cleatD ∨ t.cleatD.lock = false ∨ c = .mgcBoot) ∧
    ((∀ w x y z : Nat, c ≠ .por w x y z) → t.dev.bankA33 = s.dev.bankA33 ∧ t.dev.bankB33 = s.dev.bankB33) ∧
    ∃ o : List Output, t.out = s.out ++ o
end

