-- ==== Sys2Proof/Laws/Access.lean ====
section
/-!
SUPPORT. What beginning and answering an access to the dictionary can do (R94, R98, R126).
-/

namespace Sys2Proof.Machine

/-- An answer that leaves changes what has left and the host lane, and nothing else. -/
theorem answerOut_frame (s : State) (w : Session) (index sub : Nat) (a : Answer) :
    ∃ (o : List Output) (l : List Bytes),
      answerOut s w index sub a = { s with out := s.out ++ o, cleatA := { s.cleatA with hostRsp := l } } := by
  unfold answerOut
  cases w with
  | host =>
    simp only
    split
    · exact ⟨[], _, by rw [List.append_nil]⟩
    · exact ⟨[], s.cleatA.hostRsp, by rw [List.append_nil]⟩
  | can p c =>
    simp only
    split
    · exact ⟨[.dict (.can p c) a], s.cleatA.hostRsp, rfl⟩
    · exact ⟨[], s.cleatA.hostRsp, by rw [List.append_nil]⟩

/-- An answered access changes its port's transfer besides. -/
theorem answerSess_frame (s : State) (w : Session) (index sub : Nat) (a : Answer) :
    ∃ (o : List Output) (l : List Bytes) (ch : Vector (Option Xfer) 2),
      answerSess s w index sub a =
        { s with out := s.out ++ o, cleatA := { s.cleatA with hostRsp := l }, node := { s.node with chans := ch } } := by
  have same : ∃ (o : List Output) (l : List Bytes) (ch : Vector (Option Xfer) 2),
      s = { s with out := s.out ++ o, cleatA := { s.cleatA with hostRsp := l }, node := { s.node with chans := ch } } :=
    ⟨[], s.cleatA.hostRsp, s.node.chans, by rw [List.append_nil]⟩
  have left : ∀ (ch : Vector (Option Xfer) 2) (v : Session) (b : Answer), ∃ (o : List Output) (l : List Bytes) (c : Vector (Option Xfer) 2),
      answerOut { s with node := { s.node with chans := ch } } v index sub b =
        { s with out := s.out ++ o, cleatA := { s.cleatA with hostRsp := l }, node := { s.node with chans := c } } := by
    intro ch v b
    obtain ⟨o, l, h⟩ := answerOut_frame { s with node := { s.node with chans := ch } } v index sub b
    exact ⟨o, l, ch, h⟩
  unfold answerSess
  split
  · exact left s.node.chans _ _
  · split
    · exact same
    · simp only
      split
      · exact same
      · split
        · split
          · exact left _ _ _
          · exact left _ _ _
        · exact left _ _ _

/-- A session that opens takes no channel and leaves the mailbox. -/
theorem openSess_access {n m : Node} {w : Session} (h : openSess n w = some m) : m.chans = n.chans ∧ m.hmb = n.hmb := by
  unfold openSess at h
  split at h
  · cases h; exact ⟨rfl, rfl⟩
  · split at h
    · cases h; exact ⟨rfl, rfl⟩
    · split at h
      · cases h; exact ⟨rfl, rfl⟩
      · cases h

/-- An access that may begin is served in the state in which it stands open. -/
theorem openAccess_of_mayAsk {s : State} {w : Session} (h : s.mayAsk w) (index sub : Nat) (f : State → State) :
    openAccess s w index sub f = .next (f (s.asked w index sub)) := by
  obtain ⟨h1, h2, h3, h4⟩ := h
  obtain ⟨n, hn⟩ := Option.isSome_iff_exists.mp h3
  have hf : accessFree { s with node := n } w = true := by
    rw [← h4]
    obtain ⟨hc, hm⟩ := openSess_access hn
    cases w <;> simp only [accessFree, hc, hm]
  simp [openAccess, State.asked, h1, h2, hn, hf]

/-- A command to an object of service rank is answered with its code, or, without that rank, refused. -/
theorem objCmd_of_mayAsk {s : State} {w : Session} (h : s.mayAsk w) (index sub : Nat) (f : State → Nat × State) :
    objCmd s w index sub f = .next (
      let t := s.asked w index sub
      if isService t.node w then answerSess (f t).2 w index sub (codeAnswer (f t).1)
      else s.told w index sub (.abort abRank)) := by
  unfold objCmd
  rw [openAccess_of_mayAsk h]
  rfl

end Sys2Proof.Machine
end

