-- ==== Sys2Proof/Laws/Tbl.lean ====
section
/-!
SUPPORT. Tables: every operation keeps the canonical form, a read after a write gives the value written, and
a write leaves every other key alone. Two canonical tables that read alike are equal data.
-/

namespace Sys2Proof.Machine

variable {α : Type}

@[simp] theorem Tbl.read_nil (d : Nat → α) (k : Nat) : Tbl.read d [] k = d k := rfl

theorem Tbl.read_cons (d : Nat → α) (j k : Nat) (v : α) (t : Tbl α) :
    Tbl.read d ((j, v) :: t) k = if k = j then v else Tbl.read d t k := rfl

variable [DecidableEq α]

theorem Tbl.wfFrom_cons {d : Nat → α} {b k : Nat} {v : α} {t : Tbl α} :
    Tbl.wfFrom d b ((k, v) :: t) = true ↔ b ≤ k ∧ v ≠ d k ∧ Tbl.wfFrom d (k + 1) t = true := by
  simp [Tbl.wfFrom, and_assoc]

theorem Tbl.wfFrom_mono {d : Nat → α} {b c : Nat} {t : Tbl α} (h : Tbl.wfFrom d b t = true) (hc : c ≤ b) :
    Tbl.wfFrom d c t = true := by
  cases t with
  | nil => rfl
  | cons e t =>
    obtain ⟨h₁, h₂, h₃⟩ := Tbl.wfFrom_cons.1 h
    exact Tbl.wfFrom_cons.2 ⟨hc.trans h₁, h₂, h₃⟩

/-- Below its bound a canonical table lists nothing. -/
theorem Tbl.read_below {d : Nat → α} {b k : Nat} {t : Tbl α} (h : Tbl.wfFrom d b t = true) (hk : k < b) :
    Tbl.read d t k = d k := by
  induction t generalizing b with
  | nil => rfl
  | cons e t ih =>
    obtain ⟨j, v⟩ := e
    obtain ⟨h₁, -, h₃⟩ := Tbl.wfFrom_cons.1 h
    rw [Tbl.read_cons, if_neg (by omega), ih h₃ (by omega)]

theorem Tbl.wfFrom_remove {d : Nat → α} {b : Nat} {t : Tbl α} (k : Nat) (h : Tbl.wfFrom d b t = true) :
    Tbl.wfFrom d b (Tbl.remove t k) = true := by
  induction t generalizing b with
  | nil => rfl
  | cons e t ih =>
    obtain ⟨j, v⟩ := e
    obtain ⟨h₁, h₂, h₃⟩ := Tbl.wfFrom_cons.1 h
    unfold Tbl.remove
    split
    · exact Tbl.wfFrom_mono h₃ (by omega)
    · split
      · exact h
      · exact Tbl.wfFrom_cons.2 ⟨h₁, h₂, ih h₃⟩

theorem Tbl.wfFrom_insert {d : Nat → α} {b k : Nat} {v : α} {t : Tbl α} (h : Tbl.wfFrom d b t = true)
    (hb : b ≤ k) (hv : v ≠ d k) : Tbl.wfFrom d b (Tbl.insert t k v) = true := by
  induction t generalizing b with
  | nil => exact Tbl.wfFrom_cons.2 ⟨hb, hv, rfl⟩
  | cons e t ih =>
    obtain ⟨j, w⟩ := e
    obtain ⟨h₁, h₂, h₃⟩ := Tbl.wfFrom_cons.1 h
    unfold Tbl.insert
    split
    · next he => exact Tbl.wfFrom_cons.2 ⟨hb, hv, he ▸ h₃⟩
    · split
      · next hlt => exact Tbl.wfFrom_cons.2 ⟨hb, hv, Tbl.wfFrom_cons.2 ⟨hlt, h₂, h₃⟩⟩
      · exact Tbl.wfFrom_cons.2 ⟨h₁, h₂, ih h₃ (by omega)⟩

/-- A write keeps the canonical form. -/
theorem Tbl.wf_write {d : Nat → α} {t : Tbl α} (k : Nat) (v : α) (h : Tbl.wf d t = true) :
    Tbl.wf d (Tbl.write d t k v) = true := by
  unfold Tbl.write
  split
  · exact Tbl.wfFrom_remove k h
  · next hv => exact Tbl.wfFrom_insert h (Nat.zero_le k) hv

theorem Tbl.wfFrom_filter {d : Nat → α} {b : Nat} {t : Tbl α} (p : Nat × α → Bool)
    (h : Tbl.wfFrom d b t = true) : Tbl.wfFrom d b (t.filter p) = true := by
  induction t generalizing b with
  | nil => rfl
  | cons e t ih =>
    obtain ⟨j, v⟩ := e
    obtain ⟨h₁, h₂, h₃⟩ := Tbl.wfFrom_cons.1 h
    rw [List.filter_cons]
    split
    · exact Tbl.wfFrom_cons.2 ⟨h₁, h₂, ih h₃⟩
    · exact Tbl.wfFrom_mono (ih h₃) (by omega)

/-- Dropping entries keeps the canonical form. -/
theorem Tbl.wf_filter {d : Nat → α} {t : Tbl α} (p : Nat × α → Bool) (h : Tbl.wf d t = true) :
    Tbl.wf d (t.filter p) = true := Tbl.wfFrom_filter p h

theorem Tbl.read_remove {d : Nat → α} {b : Nat} {t : Tbl α} (k a : Nat) (h : Tbl.wfFrom d b t = true) :
    Tbl.read d (Tbl.remove t k) a = if a = k then d k else Tbl.read d t a := by
  induction t generalizing b with
  | nil => simp +contextual [Tbl.remove]
  | cons e t ih =>
    obtain ⟨j, v⟩ := e
    obtain ⟨-, -, h₃⟩ := Tbl.wfFrom_cons.1 h
    unfold Tbl.remove
    split
    · next he =>
      subst he
      by_cases ha : a = k
      · rw [if_pos ha, ha, Tbl.read_below h₃ (by omega)]
      · rw [if_neg ha, Tbl.read_cons, if_neg ha]
    · next hne =>
      split
      · next hlt =>
        split
        · next ha =>
          rw [Tbl.read_cons, if_neg (by omega), ha, Tbl.read_below h₃ (by omega)]
        · rfl
      · rw [Tbl.read_cons, ih h₃, Tbl.read_cons]
        split_ifs <;> first | rfl | omega

theorem Tbl.read_insert {d : Nat → α} {b : Nat} {t : Tbl α} (k a : Nat) (v : α) (h : Tbl.wfFrom d b t = true) :
    Tbl.read d (Tbl.insert t k v) a = if a = k then v else Tbl.read d t a := by
  induction t generalizing b with
  | nil => rfl
  | cons e t ih =>
    obtain ⟨j, w⟩ := e
    obtain ⟨-, -, h₃⟩ := Tbl.wfFrom_cons.1 h
    unfold Tbl.insert
    split
    · next he => subst he; simp only [Tbl.read_cons]; split_ifs <;> rfl
    · split
      · rfl
      · rw [Tbl.read_cons, ih h₃, Tbl.read_cons]
        split_ifs <;> first | rfl | omega

/-- A read after a write gives the value written at its key, and what was there at every other. -/
theorem Tbl.read_write {d : Nat → α} {t : Tbl α} (k a : Nat) (v : α) (h : Tbl.wf d t = true) :
    Tbl.read d (Tbl.write d t k v) a = if a = k then v else Tbl.read d t a := by
  unfold Tbl.write
  split
  · next hv => rw [Tbl.read_remove k a h, hv]
  · exact Tbl.read_insert k a v h

@[simp] theorem Tbl.read_write_same {d : Nat → α} {t : Tbl α} (k : Nat) (v : α) (h : Tbl.wf d t = true) :
    Tbl.read d (Tbl.write d t k v) k = v := by rw [Tbl.read_write k k v h, if_pos rfl]

theorem Tbl.read_write_other {d : Nat → α} {t : Tbl α} {k a : Nat} (v : α) (h : Tbl.wf d t = true)
    (hne : a ≠ k) : Tbl.read d (Tbl.write d t k v) a = Tbl.read d t a := by
  rw [Tbl.read_write k a v h, if_neg hne]

/-- Dropping the entries of keys that fail p makes them read as unlisted ones. -/
theorem Tbl.read_filter {d : Nat → α} {b : Nat} {t : Tbl α} (p : Nat → Bool) (a : Nat)
    (h : Tbl.wfFrom d b t = true) :
    Tbl.read d (t.filter fun e => p e.1) a = if p a then Tbl.read d t a else d a := by
  induction t generalizing b with
  | nil => simp
  | cons e t ih =>
    obtain ⟨j, v⟩ := e
    obtain ⟨-, -, h₃⟩ := Tbl.wfFrom_cons.1 h
    rw [List.filter_cons, Tbl.read_cons]
    by_cases hj : p j = true
    · rw [if_pos (by exact hj), Tbl.read_cons, ih h₃]
      split_ifs <;> simp_all
    · rw [if_neg (by exact hj), ih h₃]
      split_ifs <;> simp_all

/-- Canonical tables that read alike everywhere are equal. -/
theorem Tbl.ext_of_wfFrom {d : Nat → α} {b : Nat} {t u : Tbl α} (ht : Tbl.wfFrom d b t = true)
    (hu : Tbl.wfFrom d b u = true) (h : ∀ k, Tbl.read d t k = Tbl.read d u k) : t = u := by
  induction t generalizing b u with
  | nil =>
    cases u with
    | nil => rfl
    | cons e u =>
      obtain ⟨i, w⟩ := e
      obtain ⟨-, h₂, -⟩ := Tbl.wfFrom_cons.1 hu
      exact absurd (h i).symm (by simpa [Tbl.read_cons] using h₂)
  | cons e t ih =>
    obtain ⟨j, v⟩ := e
    obtain ⟨h₁, h₂, h₃⟩ := Tbl.wfFrom_cons.1 ht
    cases u with
    | nil => exact absurd (h j) (by simpa [Tbl.read_cons] using h₂)
    | cons e' u =>
      obtain ⟨i, w⟩ := e'
      obtain ⟨g₁, g₂, g₃⟩ := Tbl.wfFrom_cons.1 hu
      have hij : i = j := by
        rcases lt_trichotomy i j with hlt | heq | hgt
        · have := h i
          rw [Tbl.read_cons, if_neg (by omega), Tbl.read_cons, if_pos rfl, Tbl.read_below h₃ (by omega)] at this
          exact absurd this.symm g₂
        · exact heq
        · have := h j
          rw [Tbl.read_cons, if_pos rfl, Tbl.read_cons, if_neg (by omega), Tbl.read_below g₃ (by omega)] at this
          exact absurd this h₂
      subst hij
      have hv : v = w := by simpa [Tbl.read_cons] using h i
      subst hv
      congr 1
      refine ih h₃ g₃ fun k => ?_
      by_cases hk : k = i
      · subst hk
        rw [Tbl.read_below h₃ (by omega), Tbl.read_below g₃ (by omega)]
      · simpa [Tbl.read_cons, hk] using h k

theorem Tbl.ext_of_wf {d : Nat → α} {t u : Tbl α} (ht : Tbl.wf d t = true) (hu : Tbl.wf d u = true)
    (h : ∀ k, Tbl.read d t k = Tbl.read d u k) : t = u := Tbl.ext_of_wfFrom ht hu h

end Sys2Proof.Machine
end

