-- ==== Sys2Proof/Laws/Memory.lean ====
section
/-!
SUPPORT. Memory: every operation over it keeps the canonical form, a read after a write of the same bytes gives
them back, and a write leaves every other byte alone.
-/

namespace Sys2Proof.Machine

/-! ## One byte -/

theorem memWrite_wf {m : Tbl Byte} (a : Nat) (b : Byte) (h : Tbl.wf memDflt m = true) :
    Tbl.wf memDflt (memWrite m a b) = true := Tbl.wf_write a b h

theorem memRead_memWrite {m : Tbl Byte} (a x : Nat) (b : Byte) (h : Tbl.wf memDflt m = true) :
    memRead (memWrite m a b) x = if x = a then b else memRead m x := Tbl.read_write a x b h

/-! ## Byte lists -/

@[simp] theorem memReadN_length (m : Tbl Byte) (a n : Nat) : (memReadN m a n).length = n := by
  induction n generalizing a with
  | zero => rfl
  | succ n ih => simp [memReadN, ih]

theorem memReadN_congr {m m' : Tbl Byte} {a n : Nat}
    (h : ∀ x, a ≤ x → x < a + n → memRead m x = memRead m' x) : memReadN m a n = memReadN m' a n := by
  induction n generalizing a with
  | zero => rfl
  | succ n ih =>
    simp only [memReadN]
    rw [h a le_rfl (by omega), ih fun x h₁ h₂ => h x (by omega) (by omega)]

theorem memWriteN_wf {m : Tbl Byte} (a : Nat) (bs : Bytes) (h : Tbl.wf memDflt m = true) :
    Tbl.wf memDflt (memWriteN m a bs) = true := by
  induction bs generalizing m a with
  | nil => exact h
  | cons b bs ih => exact ih (a + 1) (memWrite_wf a b h)

/-- A byte outside the bytes written reads as before. -/
theorem memRead_memWriteN_out {m : Tbl Byte} {a x : Nat} {bs : Bytes} (h : Tbl.wf memDflt m = true)
    (hx : x < a ∨ a + bs.length ≤ x) : memRead (memWriteN m a bs) x = memRead m x := by
  induction bs generalizing m a with
  | nil => rfl
  | cons b bs ih =>
    simp only [List.length_cons] at hx
    rw [memWriteN, ih (memWrite_wf a b h) (by omega), memRead_memWrite a x b h, if_neg (by omega)]

/-- A byte written reads as written. -/
theorem memRead_memWriteN_in {m : Tbl Byte} {a i : Nat} {bs : Bytes} (h : Tbl.wf memDflt m = true)
    (hi : i < bs.length) : memRead (memWriteN m a bs) (a + i) = bs[i] := by
  induction bs generalizing m a i with
  | nil => simp at hi
  | cons b bs ih =>
    rw [memWriteN]
    cases i with
    | zero =>
      rw [memRead_memWriteN_out (memWrite_wf a b h) (by omega), memRead_memWrite a _ b h]
      simp
    | succ i =>
      have hl : i < bs.length := by simpa using hi
      rw [show a + (i + 1) = a + 1 + i by omega, ih (memWrite_wf a b h) hl]
      simp

/-- Bytes read where they were written are the bytes written. -/
theorem memReadN_memWriteN {m : Tbl Byte} {a : Nat} {bs : Bytes} (h : Tbl.wf memDflt m = true) :
    memReadN (memWriteN m a bs) a bs.length = bs := by
  induction bs generalizing m a with
  | nil => rfl
  | cons b bs ih =>
    rw [List.length_cons, memReadN, memWriteN, ih (memWrite_wf a b h),
      memRead_memWriteN_out (memWrite_wf a b h) (by omega), memRead_memWrite a a b h, if_pos rfl]

/-- Bytes read elsewhere are as before. -/
theorem memReadN_memWriteN_out {m : Tbl Byte} {a x n : Nat} {bs : Bytes} (h : Tbl.wf memDflt m = true)
    (hx : x + n ≤ a ∨ a + bs.length ≤ x) : memReadN (memWriteN m a bs) x n = memReadN m x n :=
  memReadN_congr fun y h₁ h₂ => memRead_memWriteN_out h (by omega)

/-! ## Clearing and rings -/

theorem memClear_wf {m : Tbl Byte} (lo hi : Nat) (h : Tbl.wf memDflt m = true) :
    Tbl.wf memDflt (memClear m lo hi) = true := Tbl.wf_filter _ h

/-- A cleared byte reads as an unlisted one; the others read as before. -/
theorem memRead_memClear {m : Tbl Byte} (lo hi x : Nat) (h : Tbl.wf memDflt m = true) :
    memRead (memClear m lo hi) x = if lo ≤ x ∧ x < hi then memDflt x else memRead m x := by
  have := Tbl.read_filter (d := memDflt) (fun k => !(decide (lo ≤ k) && decide (k < hi))) x h
  rw [memRead, memClear, this]
  by_cases hx : lo ≤ x ∧ x < hi
  · simp [hx.1, hx.2]
  · rw [if_neg hx, if_pos (by simp only [Bool.not_eq_true', Bool.and_eq_false_iff, decide_eq_false_iff_not]; omega)]
    rfl

theorem writeEntries_wf {m : Tbl Byte} (base : Nat) (idx : BitVec 7) (es : List Bytes)
    (h : Tbl.wf memDflt m = true) : Tbl.wf memDflt (writeEntries base m idx es) = true := by
  induction es generalizing m idx with
  | nil => exact h
  | cons e es ih => exact ih (idx + 1) (memWriteN_wf _ e h)

/-- Entries of 64 bytes written into a ring leave every byte outside the ring's 4 KiB alone. -/
theorem memRead_writeEntries_out {m : Tbl Byte} {base x : Nat} {idx : BitVec 7} {es : List Bytes}
    (h : Tbl.wf memDflt m = true) (hl : ∀ e ∈ es, e.length = 64) (hx : x < base ∨ base + 0x1000 ≤ x) :
    memRead (writeEntries base m idx es) x = memRead m x := by
  induction es generalizing m idx with
  | nil => rfl
  | cons e es ih =>
    have he : e.length = 64 := hl e (by simp)
    have hm : idx.toNat % 64 < 64 := Nat.mod_lt _ (by decide)
    rw [writeEntries, ih (memWriteN_wf _ e h) fun e' h' => hl e' (by simp [h']),
      memRead_memWriteN_out h (by simp only [ringEntry]; omega)]

/-! ## The operations of the state -/

theorem State.wr_memWf {s : State} (a : Nat) (bs : Bytes) (h : Tbl.wf memDflt s.mem = true) :
    Tbl.wf memDflt (s.wr a bs).mem = true := memWriteN_wf a bs h

theorem State.rd_wr {s : State} (a : Nat) (bs : Bytes) (h : Tbl.wf memDflt s.mem = true) :
    (s.wr a bs).rd a bs.length = bs := memReadN_memWriteN h

theorem State.rd_wr_out {s : State} {a x n : Nat} {bs : Bytes} (h : Tbl.wf memDflt s.mem = true)
    (hx : x + n ≤ a ∨ a + bs.length ≤ x) : (s.wr a bs).rd x n = s.rd x n := memReadN_memWriteN_out h hx

/-- A checked write either changes no byte or writes its bytes, and keeps the canonical form. -/
theorem ramWrite_memWf {s : State} (init a : Nat) (bs : Bytes)
    (he : (ramWrite s init a bs).1 = none) (h : Tbl.wf memDflt s.mem = true) :
    (ramWrite s init a bs).2.mem = memWriteN s.mem a bs ∧ Tbl.wf memDflt (ramWrite s init a bs).2.mem = true := by
  unfold ramWrite at he ⊢
  split at he
  · simp at he
  · split at he
    · simp at he
    · split at he
      · simp at he
      · simp_all [noteHomeWrite, State.wr, memWriteN_wf]

/-- Memory after reset is canonical: nothing is listed. -/
theorem State.reset_memWf : Tbl.wf memDflt State.reset.mem = true := rfl

end Sys2Proof.Machine
end

