-- ==== Sys2Proof/Laws/State.lean ====
section
/-!
SUPPORT. The named updates of State: one lemma per field an update leaves alone, and one for what it writes.
-/

namespace Sys2Proof.Machine

/-! ## afterDraw -/

@[simp] theorem afterDraw_set (s : State) :
    (afterDraw s).free = s.free + 1 := rfl
@[simp] theorem afterDraw_pending (s : State) : (afterDraw s).pending = s.pending := rfl
@[simp] theorem afterDraw_out (s : State) : (afterDraw s).out = s.out := rfl
@[simp] theorem afterDraw_mem (s : State) : (afterDraw s).mem = s.mem := rfl
@[simp] theorem afterDraw_dev (s : State) : (afterDraw s).dev = s.dev := rfl
@[simp] theorem afterDraw_boot (s : State) : (afterDraw s).boot = s.boot := rfl
@[simp] theorem afterDraw_otp (s : State) : (afterDraw s).otp = s.otp := rfl
@[simp] theorem afterDraw_act (s : State) : (afterDraw s).act = s.act := rfl
@[simp] theorem afterDraw_reef (s : State) : (afterDraw s).reef = s.reef := rfl
@[simp] theorem afterDraw_pert (s : State) : (afterDraw s).pert = s.pert := rfl
@[simp] theorem afterDraw_cleatA (s : State) : (afterDraw s).cleatA = s.cleatA := rfl
@[simp] theorem afterDraw_cleatB (s : State) : (afterDraw s).cleatB = s.cleatB := rfl
@[simp] theorem afterDraw_cleatC (s : State) : (afterDraw s).cleatC = s.cleatC := rfl
@[simp] theorem afterDraw_cleatD (s : State) : (afterDraw s).cleatD = s.cleatD := rfl
@[simp] theorem afterDraw_health (s : State) : (afterDraw s).health = s.health := rfl
@[simp] theorem afterDraw_pht (s : State) : (afterDraw s).pht = s.pht := rfl
@[simp] theorem afterDraw_node (s : State) : (afterDraw s).node = s.node := rfl
@[simp] theorem afterDraw_cap (s : State) : (afterDraw s).cap = s.cap := rfl
@[simp] theorem afterDraw_ddr (s : State) : (afterDraw s).ddr = s.ddr := rfl
@[simp] theorem afterDraw_pcie (s : State) : (afterDraw s).pcie = s.pcie := rfl
@[simp] theorem afterDraw_shl (s : State) : (afterDraw s).shl = s.shl := rfl
@[simp] theorem afterDraw_fab (s : State) : (afterDraw s).fab = s.fab := rfl
@[simp] theorem afterDraw_spar (s : State) : (afterDraw s).spar = s.spar := rfl
@[simp] theorem afterDraw_ee (s : State) : (afterDraw s).ee = s.ee := rfl
@[simp] theorem afterDraw_csc (s : State) : (afterDraw s).csc = s.csc := rfl
@[simp] theorem afterDraw_mast (s : State) : (afterDraw s).mast = s.mast := rfl
@[simp] theorem afterDraw_trim (s : State) : (afterDraw s).trim = s.trim := rfl
@[simp] theorem afterDraw_tw (s : State) : (afterDraw s).tw = s.tw := rfl
@[simp] theorem afterDraw_io (s : State) : (afterDraw s).io = s.io := rfl

/-! ## emit -/

@[simp] theorem emit_set (s : State) (o : Output) :
    (emit s o).out = s.out ++ [o] := rfl
@[simp] theorem emit_pending (s : State) (o : Output) : (emit s o).pending = s.pending := rfl
@[simp] theorem emit_free (s : State) (o : Output) : (emit s o).free = s.free := rfl
@[simp] theorem emit_mem (s : State) (o : Output) : (emit s o).mem = s.mem := rfl
@[simp] theorem emit_dev (s : State) (o : Output) : (emit s o).dev = s.dev := rfl
@[simp] theorem emit_boot (s : State) (o : Output) : (emit s o).boot = s.boot := rfl
@[simp] theorem emit_otp (s : State) (o : Output) : (emit s o).otp = s.otp := rfl
@[simp] theorem emit_act (s : State) (o : Output) : (emit s o).act = s.act := rfl
@[simp] theorem emit_reef (s : State) (o : Output) : (emit s o).reef = s.reef := rfl
@[simp] theorem emit_pert (s : State) (o : Output) : (emit s o).pert = s.pert := rfl
@[simp] theorem emit_cleatA (s : State) (o : Output) : (emit s o).cleatA = s.cleatA := rfl
@[simp] theorem emit_cleatB (s : State) (o : Output) : (emit s o).cleatB = s.cleatB := rfl
@[simp] theorem emit_cleatC (s : State) (o : Output) : (emit s o).cleatC = s.cleatC := rfl
@[simp] theorem emit_cleatD (s : State) (o : Output) : (emit s o).cleatD = s.cleatD := rfl
@[simp] theorem emit_health (s : State) (o : Output) : (emit s o).health = s.health := rfl
@[simp] theorem emit_pht (s : State) (o : Output) : (emit s o).pht = s.pht := rfl
@[simp] theorem emit_node (s : State) (o : Output) : (emit s o).node = s.node := rfl
@[simp] theorem emit_cap (s : State) (o : Output) : (emit s o).cap = s.cap := rfl
@[simp] theorem emit_ddr (s : State) (o : Output) : (emit s o).ddr = s.ddr := rfl
@[simp] theorem emit_pcie (s : State) (o : Output) : (emit s o).pcie = s.pcie := rfl
@[simp] theorem emit_shl (s : State) (o : Output) : (emit s o).shl = s.shl := rfl
@[simp] theorem emit_fab (s : State) (o : Output) : (emit s o).fab = s.fab := rfl
@[simp] theorem emit_spar (s : State) (o : Output) : (emit s o).spar = s.spar := rfl
@[simp] theorem emit_ee (s : State) (o : Output) : (emit s o).ee = s.ee := rfl
@[simp] theorem emit_csc (s : State) (o : Output) : (emit s o).csc = s.csc := rfl
@[simp] theorem emit_mast (s : State) (o : Output) : (emit s o).mast = s.mast := rfl
@[simp] theorem emit_trim (s : State) (o : Output) : (emit s o).trim = s.trim := rfl
@[simp] theorem emit_tw (s : State) (o : Output) : (emit s o).tw = s.tw := rfl
@[simp] theorem emit_io (s : State) (o : Output) : (emit s o).io = s.io := rfl

/-! ## State.wr -/

@[simp] theorem State.wr_set (s : State) (a : Nat) (bs : Bytes) :
    (s.wr a bs).mem = memWriteN s.mem a bs := rfl
@[simp] theorem State.wr_pending (s : State) (a : Nat) (bs : Bytes) : (State.wr s a bs).pending = s.pending := rfl
@[simp] theorem State.wr_free (s : State) (a : Nat) (bs : Bytes) : (State.wr s a bs).free = s.free := rfl
@[simp] theorem State.wr_out (s : State) (a : Nat) (bs : Bytes) : (State.wr s a bs).out = s.out := rfl
@[simp] theorem State.wr_dev (s : State) (a : Nat) (bs : Bytes) : (State.wr s a bs).dev = s.dev := rfl
@[simp] theorem State.wr_boot (s : State) (a : Nat) (bs : Bytes) : (State.wr s a bs).boot = s.boot := rfl
@[simp] theorem State.wr_otp (s : State) (a : Nat) (bs : Bytes) : (State.wr s a bs).otp = s.otp := rfl
@[simp] theorem State.wr_act (s : State) (a : Nat) (bs : Bytes) : (State.wr s a bs).act = s.act := rfl
@[simp] theorem State.wr_reef (s : State) (a : Nat) (bs : Bytes) : (State.wr s a bs).reef = s.reef := rfl
@[simp] theorem State.wr_pert (s : State) (a : Nat) (bs : Bytes) : (State.wr s a bs).pert = s.pert := rfl
@[simp] theorem State.wr_cleatA (s : State) (a : Nat) (bs : Bytes) : (State.wr s a bs).cleatA = s.cleatA := rfl
@[simp] theorem State.wr_cleatB (s : State) (a : Nat) (bs : Bytes) : (State.wr s a bs).cleatB = s.cleatB := rfl
@[simp] theorem State.wr_cleatC (s : State) (a : Nat) (bs : Bytes) : (State.wr s a bs).cleatC = s.cleatC := rfl
@[simp] theorem State.wr_cleatD (s : State) (a : Nat) (bs : Bytes) : (State.wr s a bs).cleatD = s.cleatD := rfl
@[simp] theorem State.wr_health (s : State) (a : Nat) (bs : Bytes) : (State.wr s a bs).health = s.health := rfl
@[simp] theorem State.wr_pht (s : State) (a : Nat) (bs : Bytes) : (State.wr s a bs).pht = s.pht := rfl
@[simp] theorem State.wr_node (s : State) (a : Nat) (bs : Bytes) : (State.wr s a bs).node = s.node := rfl
@[simp] theorem State.wr_cap (s : State) (a : Nat) (bs : Bytes) : (State.wr s a bs).cap = s.cap := rfl
@[simp] theorem State.wr_ddr (s : State) (a : Nat) (bs : Bytes) : (State.wr s a bs).ddr = s.ddr := rfl
@[simp] theorem State.wr_pcie (s : State) (a : Nat) (bs : Bytes) : (State.wr s a bs).pcie = s.pcie := rfl
@[simp] theorem State.wr_shl (s : State) (a : Nat) (bs : Bytes) : (State.wr s a bs).shl = s.shl := rfl
@[simp] theorem State.wr_fab (s : State) (a : Nat) (bs : Bytes) : (State.wr s a bs).fab = s.fab := rfl
@[simp] theorem State.wr_spar (s : State) (a : Nat) (bs : Bytes) : (State.wr s a bs).spar = s.spar := rfl
@[simp] theorem State.wr_ee (s : State) (a : Nat) (bs : Bytes) : (State.wr s a bs).ee = s.ee := rfl
@[simp] theorem State.wr_csc (s : State) (a : Nat) (bs : Bytes) : (State.wr s a bs).csc = s.csc := rfl
@[simp] theorem State.wr_mast (s : State) (a : Nat) (bs : Bytes) : (State.wr s a bs).mast = s.mast := rfl
@[simp] theorem State.wr_trim (s : State) (a : Nat) (bs : Bytes) : (State.wr s a bs).trim = s.trim := rfl
@[simp] theorem State.wr_tw (s : State) (a : Nat) (bs : Bytes) : (State.wr s a bs).tw = s.tw := rfl
@[simp] theorem State.wr_io (s : State) (a : Nat) (bs : Bytes) : (State.wr s a bs).io = s.io := rfl

/-! ## emcyHistory -/

@[simp] theorem emcyHistory_pending (s : State) (code : Nat) (unit : Byte) (detail : Bytes) : (emcyHistory s code unit detail).pending = s.pending := rfl
@[simp] theorem emcyHistory_free (s : State) (code : Nat) (unit : Byte) (detail : Bytes) : (emcyHistory s code unit detail).free = s.free := rfl
@[simp] theorem emcyHistory_out (s : State) (code : Nat) (unit : Byte) (detail : Bytes) : (emcyHistory s code unit detail).out = s.out := rfl
@[simp] theorem emcyHistory_mem (s : State) (code : Nat) (unit : Byte) (detail : Bytes) : (emcyHistory s code unit detail).mem = s.mem := rfl
@[simp] theorem emcyHistory_dev (s : State) (code : Nat) (unit : Byte) (detail : Bytes) : (emcyHistory s code unit detail).dev = s.dev := rfl
@[simp] theorem emcyHistory_boot (s : State) (code : Nat) (unit : Byte) (detail : Bytes) : (emcyHistory s code unit detail).boot = s.boot := rfl
@[simp] theorem emcyHistory_otp (s : State) (code : Nat) (unit : Byte) (detail : Bytes) : (emcyHistory s code unit detail).otp = s.otp := rfl
@[simp] theorem emcyHistory_act (s : State) (code : Nat) (unit : Byte) (detail : Bytes) : (emcyHistory s code unit detail).act = s.act := rfl
@[simp] theorem emcyHistory_reef (s : State) (code : Nat) (unit : Byte) (detail : Bytes) : (emcyHistory s code unit detail).reef = s.reef := rfl
@[simp] theorem emcyHistory_pert (s : State) (code : Nat) (unit : Byte) (detail : Bytes) : (emcyHistory s code unit detail).pert = s.pert := rfl
@[simp] theorem emcyHistory_cleatA (s : State) (code : Nat) (unit : Byte) (detail : Bytes) : (emcyHistory s code unit detail).cleatA = s.cleatA := rfl
@[simp] theorem emcyHistory_cleatB (s : State) (code : Nat) (unit : Byte) (detail : Bytes) : (emcyHistory s code unit detail).cleatB = s.cleatB := rfl
@[simp] theorem emcyHistory_cleatC (s : State) (code : Nat) (unit : Byte) (detail : Bytes) : (emcyHistory s code unit detail).cleatC = s.cleatC := rfl
@[simp] theorem emcyHistory_cleatD (s : State) (code : Nat) (unit : Byte) (detail : Bytes) : (emcyHistory s code unit detail).cleatD = s.cleatD := rfl
@[simp] theorem emcyHistory_health (s : State) (code : Nat) (unit : Byte) (detail : Bytes) : (emcyHistory s code unit detail).health = s.health := rfl
@[simp] theorem emcyHistory_pht (s : State) (code : Nat) (unit : Byte) (detail : Bytes) : (emcyHistory s code unit detail).pht = s.pht := rfl
@[simp] theorem emcyHistory_cap (s : State) (code : Nat) (unit : Byte) (detail : Bytes) : (emcyHistory s code unit detail).cap = s.cap := rfl
@[simp] theorem emcyHistory_ddr (s : State) (code : Nat) (unit : Byte) (detail : Bytes) : (emcyHistory s code unit detail).ddr = s.ddr := rfl
@[simp] theorem emcyHistory_pcie (s : State) (code : Nat) (unit : Byte) (detail : Bytes) : (emcyHistory s code unit detail).pcie = s.pcie := rfl
@[simp] theorem emcyHistory_shl (s : State) (code : Nat) (unit : Byte) (detail : Bytes) : (emcyHistory s code unit detail).shl = s.shl := rfl
@[simp] theorem emcyHistory_fab (s : State) (code : Nat) (unit : Byte) (detail : Bytes) : (emcyHistory s code unit detail).fab = s.fab := rfl
@[simp] theorem emcyHistory_spar (s : State) (code : Nat) (unit : Byte) (detail : Bytes) : (emcyHistory s code unit detail).spar = s.spar := rfl
@[simp] theorem emcyHistory_ee (s : State) (code : Nat) (unit : Byte) (detail : Bytes) : (emcyHistory s code unit detail).ee = s.ee := rfl
@[simp] theorem emcyHistory_csc (s : State) (code : Nat) (unit : Byte) (detail : Bytes) : (emcyHistory s code unit detail).csc = s.csc := rfl
@[simp] theorem emcyHistory_mast (s : State) (code : Nat) (unit : Byte) (detail : Bytes) : (emcyHistory s code unit detail).mast = s.mast := rfl
@[simp] theorem emcyHistory_trim (s : State) (code : Nat) (unit : Byte) (detail : Bytes) : (emcyHistory s code unit detail).trim = s.trim := rfl
@[simp] theorem emcyHistory_tw (s : State) (code : Nat) (unit : Byte) (detail : Bytes) : (emcyHistory s code unit detail).tw = s.tw := rfl
@[simp] theorem emcyHistory_io (s : State) (code : Nat) (unit : Byte) (detail : Bytes) : (emcyHistory s code unit detail).io = s.io := rfl

/-! ## noteHomeWrite -/

@[simp] theorem noteHomeWrite_pending (s : State) (a n : Nat) : (noteHomeWrite s a n).pending = s.pending := rfl
@[simp] theorem noteHomeWrite_free (s : State) (a n : Nat) : (noteHomeWrite s a n).free = s.free := rfl
@[simp] theorem noteHomeWrite_out (s : State) (a n : Nat) : (noteHomeWrite s a n).out = s.out := rfl
@[simp] theorem noteHomeWrite_mem (s : State) (a n : Nat) : (noteHomeWrite s a n).mem = s.mem := rfl
@[simp] theorem noteHomeWrite_dev (s : State) (a n : Nat) : (noteHomeWrite s a n).dev = s.dev := rfl
@[simp] theorem noteHomeWrite_boot (s : State) (a n : Nat) : (noteHomeWrite s a n).boot = s.boot := rfl
@[simp] theorem noteHomeWrite_otp (s : State) (a n : Nat) : (noteHomeWrite s a n).otp = s.otp := rfl
@[simp] theorem noteHomeWrite_act (s : State) (a n : Nat) : (noteHomeWrite s a n).act = s.act := rfl
@[simp] theorem noteHomeWrite_reef (s : State) (a n : Nat) : (noteHomeWrite s a n).reef = s.reef := rfl
@[simp] theorem noteHomeWrite_pert (s : State) (a n : Nat) : (noteHomeWrite s a n).pert = s.pert := rfl
@[simp] theorem noteHomeWrite_cleatA (s : State) (a n : Nat) : (noteHomeWrite s a n).cleatA = s.cleatA := rfl
@[simp] theorem noteHomeWrite_cleatB (s : State) (a n : Nat) : (noteHomeWrite s a n).cleatB = s.cleatB := rfl
@[simp] theorem noteHomeWrite_cleatC (s : State) (a n : Nat) : (noteHomeWrite s a n).cleatC = s.cleatC := rfl
@[simp] theorem noteHomeWrite_cleatD (s : State) (a n : Nat) : (noteHomeWrite s a n).cleatD = s.cleatD := rfl
@[simp] theorem noteHomeWrite_health (s : State) (a n : Nat) : (noteHomeWrite s a n).health = s.health := rfl
@[simp] theorem noteHomeWrite_pht (s : State) (a n : Nat) : (noteHomeWrite s a n).pht = s.pht := rfl
@[simp] theorem noteHomeWrite_node (s : State) (a n : Nat) : (noteHomeWrite s a n).node = s.node := rfl
@[simp] theorem noteHomeWrite_cap (s : State) (a n : Nat) : (noteHomeWrite s a n).cap = s.cap := rfl
@[simp] theorem noteHomeWrite_ddr (s : State) (a n : Nat) : (noteHomeWrite s a n).ddr = s.ddr := rfl
@[simp] theorem noteHomeWrite_pcie (s : State) (a n : Nat) : (noteHomeWrite s a n).pcie = s.pcie := rfl
@[simp] theorem noteHomeWrite_shl (s : State) (a n : Nat) : (noteHomeWrite s a n).shl = s.shl := rfl
@[simp] theorem noteHomeWrite_spar (s : State) (a n : Nat) : (noteHomeWrite s a n).spar = s.spar := rfl
@[simp] theorem noteHomeWrite_ee (s : State) (a n : Nat) : (noteHomeWrite s a n).ee = s.ee := rfl
@[simp] theorem noteHomeWrite_csc (s : State) (a n : Nat) : (noteHomeWrite s a n).csc = s.csc := rfl
@[simp] theorem noteHomeWrite_mast (s : State) (a n : Nat) : (noteHomeWrite s a n).mast = s.mast := rfl
@[simp] theorem noteHomeWrite_trim (s : State) (a n : Nat) : (noteHomeWrite s a n).trim = s.trim := rfl
@[simp] theorem noteHomeWrite_tw (s : State) (a n : Nat) : (noteHomeWrite s a n).tw = s.tw := rfl
@[simp] theorem noteHomeWrite_io (s : State) (a n : Nat) : (noteHomeWrite s a n).io = s.io := rfl

/-! ## dropResv -/

@[simp] theorem dropResv_pending (s : State) (h : HartId) : (dropResv s h).pending = s.pending := rfl
@[simp] theorem dropResv_free (s : State) (h : HartId) : (dropResv s h).free = s.free := rfl
@[simp] theorem dropResv_out (s : State) (h : HartId) : (dropResv s h).out = s.out := rfl
@[simp] theorem dropResv_mem (s : State) (h : HartId) : (dropResv s h).mem = s.mem := rfl
@[simp] theorem dropResv_dev (s : State) (h : HartId) : (dropResv s h).dev = s.dev := rfl
@[simp] theorem dropResv_boot (s : State) (h : HartId) : (dropResv s h).boot = s.boot := rfl
@[simp] theorem dropResv_otp (s : State) (h : HartId) : (dropResv s h).otp = s.otp := rfl
@[simp] theorem dropResv_act (s : State) (h : HartId) : (dropResv s h).act = s.act := rfl
@[simp] theorem dropResv_reef (s : State) (h : HartId) : (dropResv s h).reef = s.reef := rfl
@[simp] theorem dropResv_pert (s : State) (h : HartId) : (dropResv s h).pert = s.pert := rfl
@[simp] theorem dropResv_cleatA (s : State) (h : HartId) : (dropResv s h).cleatA = s.cleatA := rfl
@[simp] theorem dropResv_cleatB (s : State) (h : HartId) : (dropResv s h).cleatB = s.cleatB := rfl
@[simp] theorem dropResv_cleatC (s : State) (h : HartId) : (dropResv s h).cleatC = s.cleatC := rfl
@[simp] theorem dropResv_cleatD (s : State) (h : HartId) : (dropResv s h).cleatD = s.cleatD := rfl
@[simp] theorem dropResv_health (s : State) (h : HartId) : (dropResv s h).health = s.health := rfl
@[simp] theorem dropResv_pht (s : State) (h : HartId) : (dropResv s h).pht = s.pht := rfl
@[simp] theorem dropResv_node (s : State) (h : HartId) : (dropResv s h).node = s.node := rfl
@[simp] theorem dropResv_cap (s : State) (h : HartId) : (dropResv s h).cap = s.cap := rfl
@[simp] theorem dropResv_ddr (s : State) (h : HartId) : (dropResv s h).ddr = s.ddr := rfl
@[simp] theorem dropResv_pcie (s : State) (h : HartId) : (dropResv s h).pcie = s.pcie := rfl
@[simp] theorem dropResv_shl (s : State) (h : HartId) : (dropResv s h).shl = s.shl := rfl
@[simp] theorem dropResv_fab (s : State) (h : HartId) : (dropResv s h).fab = s.fab := rfl
@[simp] theorem dropResv_spar (s : State) (h : HartId) : (dropResv s h).spar = s.spar := rfl
@[simp] theorem dropResv_ee (s : State) (h : HartId) : (dropResv s h).ee = s.ee := rfl
@[simp] theorem dropResv_csc (s : State) (h : HartId) : (dropResv s h).csc = s.csc := rfl
@[simp] theorem dropResv_trim (s : State) (h : HartId) : (dropResv s h).trim = s.trim := rfl
@[simp] theorem dropResv_tw (s : State) (h : HartId) : (dropResv s h).tw = s.tw := rfl
@[simp] theorem dropResv_io (s : State) (h : HartId) : (dropResv s h).io = s.io := rfl

/-! ## noteMastWrite -/

@[simp] theorem noteMastWrite_pending (s : State) (a n : Nat) : (noteMastWrite s a n).pending = s.pending := rfl
@[simp] theorem noteMastWrite_free (s : State) (a n : Nat) : (noteMastWrite s a n).free = s.free := rfl
@[simp] theorem noteMastWrite_out (s : State) (a n : Nat) : (noteMastWrite s a n).out = s.out := rfl
@[simp] theorem noteMastWrite_mem (s : State) (a n : Nat) : (noteMastWrite s a n).mem = s.mem := rfl
@[simp] theorem noteMastWrite_dev (s : State) (a n : Nat) : (noteMastWrite s a n).dev = s.dev := rfl
@[simp] theorem noteMastWrite_boot (s : State) (a n : Nat) : (noteMastWrite s a n).boot = s.boot := rfl
@[simp] theorem noteMastWrite_otp (s : State) (a n : Nat) : (noteMastWrite s a n).otp = s.otp := rfl
@[simp] theorem noteMastWrite_act (s : State) (a n : Nat) : (noteMastWrite s a n).act = s.act := rfl
@[simp] theorem noteMastWrite_reef (s : State) (a n : Nat) : (noteMastWrite s a n).reef = s.reef := rfl
@[simp] theorem noteMastWrite_pert (s : State) (a n : Nat) : (noteMastWrite s a n).pert = s.pert := rfl
@[simp] theorem noteMastWrite_cleatA (s : State) (a n : Nat) : (noteMastWrite s a n).cleatA = s.cleatA := rfl
@[simp] theorem noteMastWrite_cleatB (s : State) (a n : Nat) : (noteMastWrite s a n).cleatB = s.cleatB := rfl
@[simp] theorem noteMastWrite_cleatC (s : State) (a n : Nat) : (noteMastWrite s a n).cleatC = s.cleatC := rfl
@[simp] theorem noteMastWrite_cleatD (s : State) (a n : Nat) : (noteMastWrite s a n).cleatD = s.cleatD := rfl
@[simp] theorem noteMastWrite_health (s : State) (a n : Nat) : (noteMastWrite s a n).health = s.health := rfl
@[simp] theorem noteMastWrite_pht (s : State) (a n : Nat) : (noteMastWrite s a n).pht = s.pht := rfl
@[simp] theorem noteMastWrite_node (s : State) (a n : Nat) : (noteMastWrite s a n).node = s.node := rfl
@[simp] theorem noteMastWrite_cap (s : State) (a n : Nat) : (noteMastWrite s a n).cap = s.cap := rfl
@[simp] theorem noteMastWrite_ddr (s : State) (a n : Nat) : (noteMastWrite s a n).ddr = s.ddr := rfl
@[simp] theorem noteMastWrite_pcie (s : State) (a n : Nat) : (noteMastWrite s a n).pcie = s.pcie := rfl
@[simp] theorem noteMastWrite_shl (s : State) (a n : Nat) : (noteMastWrite s a n).shl = s.shl := rfl
@[simp] theorem noteMastWrite_fab (s : State) (a n : Nat) : (noteMastWrite s a n).fab = s.fab := rfl
@[simp] theorem noteMastWrite_spar (s : State) (a n : Nat) : (noteMastWrite s a n).spar = s.spar := rfl
@[simp] theorem noteMastWrite_ee (s : State) (a n : Nat) : (noteMastWrite s a n).ee = s.ee := rfl
@[simp] theorem noteMastWrite_csc (s : State) (a n : Nat) : (noteMastWrite s a n).csc = s.csc := rfl
@[simp] theorem noteMastWrite_trim (s : State) (a n : Nat) : (noteMastWrite s a n).trim = s.trim := rfl
@[simp] theorem noteMastWrite_tw (s : State) (a n : Nat) : (noteMastWrite s a n).tw = s.tw := rfl
@[simp] theorem noteMastWrite_io (s : State) (a n : Nat) : (noteMastWrite s a n).io = s.io := rfl

/-! ## fenceLine -/

@[simp] theorem fenceLine_set (s : State) (unit : Nat) :
    (fenceLine s unit).cleatC.lines = s.cleatC.lines ||| (1#40 <<< unit) := rfl
@[simp] theorem fenceLine_pending (s : State) (unit : Nat) : (fenceLine s unit).pending = s.pending := rfl
@[simp] theorem fenceLine_free (s : State) (unit : Nat) : (fenceLine s unit).free = s.free := rfl
@[simp] theorem fenceLine_out (s : State) (unit : Nat) : (fenceLine s unit).out = s.out := rfl
@[simp] theorem fenceLine_mem (s : State) (unit : Nat) : (fenceLine s unit).mem = s.mem := rfl
@[simp] theorem fenceLine_dev (s : State) (unit : Nat) : (fenceLine s unit).dev = s.dev := rfl
@[simp] theorem fenceLine_boot (s : State) (unit : Nat) : (fenceLine s unit).boot = s.boot := rfl
@[simp] theorem fenceLine_otp (s : State) (unit : Nat) : (fenceLine s unit).otp = s.otp := rfl
@[simp] theorem fenceLine_act (s : State) (unit : Nat) : (fenceLine s unit).act = s.act := rfl
@[simp] theorem fenceLine_reef (s : State) (unit : Nat) : (fenceLine s unit).reef = s.reef := rfl
@[simp] theorem fenceLine_pert (s : State) (unit : Nat) : (fenceLine s unit).pert = s.pert := rfl
@[simp] theorem fenceLine_cleatA (s : State) (unit : Nat) : (fenceLine s unit).cleatA = s.cleatA := rfl
@[simp] theorem fenceLine_cleatB (s : State) (unit : Nat) : (fenceLine s unit).cleatB = s.cleatB := rfl
@[simp] theorem fenceLine_cleatD (s : State) (unit : Nat) : (fenceLine s unit).cleatD = s.cleatD := rfl
@[simp] theorem fenceLine_health (s : State) (unit : Nat) : (fenceLine s unit).health = s.health := rfl
@[simp] theorem fenceLine_pht (s : State) (unit : Nat) : (fenceLine s unit).pht = s.pht := rfl
@[simp] theorem fenceLine_node (s : State) (unit : Nat) : (fenceLine s unit).node = s.node := rfl
@[simp] theorem fenceLine_cap (s : State) (unit : Nat) : (fenceLine s unit).cap = s.cap := rfl
@[simp] theorem fenceLine_ddr (s : State) (unit : Nat) : (fenceLine s unit).ddr = s.ddr := rfl
@[simp] theorem fenceLine_pcie (s : State) (unit : Nat) : (fenceLine s unit).pcie = s.pcie := rfl
@[simp] theorem fenceLine_shl (s : State) (unit : Nat) : (fenceLine s unit).shl = s.shl := rfl
@[simp] theorem fenceLine_fab (s : State) (unit : Nat) : (fenceLine s unit).fab = s.fab := rfl
@[simp] theorem fenceLine_spar (s : State) (unit : Nat) : (fenceLine s unit).spar = s.spar := rfl
@[simp] theorem fenceLine_ee (s : State) (unit : Nat) : (fenceLine s unit).ee = s.ee := rfl
@[simp] theorem fenceLine_csc (s : State) (unit : Nat) : (fenceLine s unit).csc = s.csc := rfl
@[simp] theorem fenceLine_mast (s : State) (unit : Nat) : (fenceLine s unit).mast = s.mast := rfl
@[simp] theorem fenceLine_trim (s : State) (unit : Nat) : (fenceLine s unit).trim = s.trim := rfl
@[simp] theorem fenceLine_tw (s : State) (unit : Nat) : (fenceLine s unit).tw = s.tw := rfl
@[simp] theorem fenceLine_io (s : State) (unit : Nat) : (fenceLine s unit).io = s.io := rfl

/-! ## countClass -/

@[simp] theorem countClass_set (s : State) (cls : Byte) :
    (countClass s cls).health.standing = s.health.standing := rfl
@[simp] theorem countClass_pending (s : State) (cls : Byte) : (countClass s cls).pending = s.pending := rfl
@[simp] theorem countClass_free (s : State) (cls : Byte) : (countClass s cls).free = s.free := rfl
@[simp] theorem countClass_out (s : State) (cls : Byte) : (countClass s cls).out = s.out := rfl
@[simp] theorem countClass_mem (s : State) (cls : Byte) : (countClass s cls).mem = s.mem := rfl
@[simp] theorem countClass_dev (s : State) (cls : Byte) : (countClass s cls).dev = s.dev := rfl
@[simp] theorem countClass_boot (s : State) (cls : Byte) : (countClass s cls).boot = s.boot := rfl
@[simp] theorem countClass_otp (s : State) (cls : Byte) : (countClass s cls).otp = s.otp := rfl
@[simp] theorem countClass_act (s : State) (cls : Byte) : (countClass s cls).act = s.act := rfl
@[simp] theorem countClass_reef (s : State) (cls : Byte) : (countClass s cls).reef = s.reef := rfl
@[simp] theorem countClass_pert (s : State) (cls : Byte) : (countClass s cls).pert = s.pert := rfl
@[simp] theorem countClass_cleatA (s : State) (cls : Byte) : (countClass s cls).cleatA = s.cleatA := rfl
@[simp] theorem countClass_cleatB (s : State) (cls : Byte) : (countClass s cls).cleatB = s.cleatB := rfl
@[simp] theorem countClass_cleatC (s : State) (cls : Byte) : (countClass s cls).cleatC = s.cleatC := rfl
@[simp] theorem countClass_cleatD (s : State) (cls : Byte) : (countClass s cls).cleatD = s.cleatD := rfl
@[simp] theorem countClass_pht (s : State) (cls : Byte) : (countClass s cls).pht = s.pht := rfl
@[simp] theorem countClass_node (s : State) (cls : Byte) : (countClass s cls).node = s.node := rfl
@[simp] theorem countClass_cap (s : State) (cls : Byte) : (countClass s cls).cap = s.cap := rfl
@[simp] theorem countClass_ddr (s : State) (cls : Byte) : (countClass s cls).ddr = s.ddr := rfl
@[simp] theorem countClass_pcie (s : State) (cls : Byte) : (countClass s cls).pcie = s.pcie := rfl
@[simp] theorem countClass_shl (s : State) (cls : Byte) : (countClass s cls).shl = s.shl := rfl
@[simp] theorem countClass_fab (s : State) (cls : Byte) : (countClass s cls).fab = s.fab := rfl
@[simp] theorem countClass_spar (s : State) (cls : Byte) : (countClass s cls).spar = s.spar := rfl
@[simp] theorem countClass_ee (s : State) (cls : Byte) : (countClass s cls).ee = s.ee := rfl
@[simp] theorem countClass_csc (s : State) (cls : Byte) : (countClass s cls).csc = s.csc := rfl
@[simp] theorem countClass_mast (s : State) (cls : Byte) : (countClass s cls).mast = s.mast := rfl
@[simp] theorem countClass_trim (s : State) (cls : Byte) : (countClass s cls).trim = s.trim := rfl
@[simp] theorem countClass_tw (s : State) (cls : Byte) : (countClass s cls).tw = s.tw := rfl
@[simp] theorem countClass_io (s : State) (cls : Byte) : (countClass s cls).io = s.io := rfl

/-! ## ctxPut -/

@[simp] theorem ctxPut_set (s : State) (n : Nat) (c : Ctx) :
    (ctxPut s n c).cap.ctxs = Tbl.write (fun _ => Ctx.reset) s.cap.ctxs n c := rfl
@[simp] theorem ctxPut_pending (s : State) (n : Nat) (c : Ctx) : (ctxPut s n c).pending = s.pending := rfl
@[simp] theorem ctxPut_free (s : State) (n : Nat) (c : Ctx) : (ctxPut s n c).free = s.free := rfl
@[simp] theorem ctxPut_out (s : State) (n : Nat) (c : Ctx) : (ctxPut s n c).out = s.out := rfl
@[simp] theorem ctxPut_mem (s : State) (n : Nat) (c : Ctx) : (ctxPut s n c).mem = s.mem := rfl
@[simp] theorem ctxPut_dev (s : State) (n : Nat) (c : Ctx) : (ctxPut s n c).dev = s.dev := rfl
@[simp] theorem ctxPut_boot (s : State) (n : Nat) (c : Ctx) : (ctxPut s n c).boot = s.boot := rfl
@[simp] theorem ctxPut_otp (s : State) (n : Nat) (c : Ctx) : (ctxPut s n c).otp = s.otp := rfl
@[simp] theorem ctxPut_act (s : State) (n : Nat) (c : Ctx) : (ctxPut s n c).act = s.act := rfl
@[simp] theorem ctxPut_reef (s : State) (n : Nat) (c : Ctx) : (ctxPut s n c).reef = s.reef := rfl
@[simp] theorem ctxPut_pert (s : State) (n : Nat) (c : Ctx) : (ctxPut s n c).pert = s.pert := rfl
@[simp] theorem ctxPut_cleatA (s : State) (n : Nat) (c : Ctx) : (ctxPut s n c).cleatA = s.cleatA := rfl
@[simp] theorem ctxPut_cleatB (s : State) (n : Nat) (c : Ctx) : (ctxPut s n c).cleatB = s.cleatB := rfl
@[simp] theorem ctxPut_cleatC (s : State) (n : Nat) (c : Ctx) : (ctxPut s n c).cleatC = s.cleatC := rfl
@[simp] theorem ctxPut_cleatD (s : State) (n : Nat) (c : Ctx) : (ctxPut s n c).cleatD = s.cleatD := rfl
@[simp] theorem ctxPut_health (s : State) (n : Nat) (c : Ctx) : (ctxPut s n c).health = s.health := rfl
@[simp] theorem ctxPut_pht (s : State) (n : Nat) (c : Ctx) : (ctxPut s n c).pht = s.pht := rfl
@[simp] theorem ctxPut_node (s : State) (n : Nat) (c : Ctx) : (ctxPut s n c).node = s.node := rfl
@[simp] theorem ctxPut_ddr (s : State) (n : Nat) (c : Ctx) : (ctxPut s n c).ddr = s.ddr := rfl
@[simp] theorem ctxPut_pcie (s : State) (n : Nat) (c : Ctx) : (ctxPut s n c).pcie = s.pcie := rfl
@[simp] theorem ctxPut_shl (s : State) (n : Nat) (c : Ctx) : (ctxPut s n c).shl = s.shl := rfl
@[simp] theorem ctxPut_fab (s : State) (n : Nat) (c : Ctx) : (ctxPut s n c).fab = s.fab := rfl
@[simp] theorem ctxPut_spar (s : State) (n : Nat) (c : Ctx) : (ctxPut s n c).spar = s.spar := rfl
@[simp] theorem ctxPut_ee (s : State) (n : Nat) (c : Ctx) : (ctxPut s n c).ee = s.ee := rfl
@[simp] theorem ctxPut_csc (s : State) (n : Nat) (c : Ctx) : (ctxPut s n c).csc = s.csc := rfl
@[simp] theorem ctxPut_mast (s : State) (n : Nat) (c : Ctx) : (ctxPut s n c).mast = s.mast := rfl
@[simp] theorem ctxPut_trim (s : State) (n : Nat) (c : Ctx) : (ctxPut s n c).trim = s.trim := rfl
@[simp] theorem ctxPut_tw (s : State) (n : Nat) (c : Ctx) : (ctxPut s n c).tw = s.tw := rfl
@[simp] theorem ctxPut_io (s : State) (n : Nat) (c : Ctx) : (ctxPut s n c).io = s.io := rfl

/-! ## capStat -/

@[simp] theorem capStat_set (s : State) (i : Fin 8) :
    (capStat s i).cap.stats = vmod s.cap.stats i (· + 1) := rfl
@[simp] theorem capStat_pending (s : State) (i : Fin 8) : (capStat s i).pending = s.pending := rfl
@[simp] theorem capStat_free (s : State) (i : Fin 8) : (capStat s i).free = s.free := rfl
@[simp] theorem capStat_out (s : State) (i : Fin 8) : (capStat s i).out = s.out := rfl
@[simp] theorem capStat_mem (s : State) (i : Fin 8) : (capStat s i).mem = s.mem := rfl
@[simp] theorem capStat_dev (s : State) (i : Fin 8) : (capStat s i).dev = s.dev := rfl
@[simp] theorem capStat_boot (s : State) (i : Fin 8) : (capStat s i).boot = s.boot := rfl
@[simp] theorem capStat_otp (s : State) (i : Fin 8) : (capStat s i).otp = s.otp := rfl
@[simp] theorem capStat_act (s : State) (i : Fin 8) : (capStat s i).act = s.act := rfl
@[simp] theorem capStat_reef (s : State) (i : Fin 8) : (capStat s i).reef = s.reef := rfl
@[simp] theorem capStat_pert (s : State) (i : Fin 8) : (capStat s i).pert = s.pert := rfl
@[simp] theorem capStat_cleatA (s : State) (i : Fin 8) : (capStat s i).cleatA = s.cleatA := rfl
@[simp] theorem capStat_cleatB (s : State) (i : Fin 8) : (capStat s i).cleatB = s.cleatB := rfl
@[simp] theorem capStat_cleatC (s : State) (i : Fin 8) : (capStat s i).cleatC = s.cleatC := rfl
@[simp] theorem capStat_cleatD (s : State) (i : Fin 8) : (capStat s i).cleatD = s.cleatD := rfl
@[simp] theorem capStat_health (s : State) (i : Fin 8) : (capStat s i).health = s.health := rfl
@[simp] theorem capStat_pht (s : State) (i : Fin 8) : (capStat s i).pht = s.pht := rfl
@[simp] theorem capStat_node (s : State) (i : Fin 8) : (capStat s i).node = s.node := rfl
@[simp] theorem capStat_ddr (s : State) (i : Fin 8) : (capStat s i).ddr = s.ddr := rfl
@[simp] theorem capStat_pcie (s : State) (i : Fin 8) : (capStat s i).pcie = s.pcie := rfl
@[simp] theorem capStat_shl (s : State) (i : Fin 8) : (capStat s i).shl = s.shl := rfl
@[simp] theorem capStat_fab (s : State) (i : Fin 8) : (capStat s i).fab = s.fab := rfl
@[simp] theorem capStat_spar (s : State) (i : Fin 8) : (capStat s i).spar = s.spar := rfl
@[simp] theorem capStat_ee (s : State) (i : Fin 8) : (capStat s i).ee = s.ee := rfl
@[simp] theorem capStat_csc (s : State) (i : Fin 8) : (capStat s i).csc = s.csc := rfl
@[simp] theorem capStat_mast (s : State) (i : Fin 8) : (capStat s i).mast = s.mast := rfl
@[simp] theorem capStat_trim (s : State) (i : Fin 8) : (capStat s i).trim = s.trim := rfl
@[simp] theorem capStat_tw (s : State) (i : Fin 8) : (capStat s i).tw = s.tw := rfl
@[simp] theorem capStat_io (s : State) (i : Fin 8) : (capStat s i).io = s.io := rfl

/-! ## cscStat -/

@[simp] theorem cscStat_set (s : State) (i : Fin 10) :
    (cscStat s i).csc.stats = vmod s.csc.stats i (· + 1) := rfl
@[simp] theorem cscStat_pending (s : State) (i : Fin 10) : (cscStat s i).pending = s.pending := rfl
@[simp] theorem cscStat_free (s : State) (i : Fin 10) : (cscStat s i).free = s.free := rfl
@[simp] theorem cscStat_out (s : State) (i : Fin 10) : (cscStat s i).out = s.out := rfl
@[simp] theorem cscStat_mem (s : State) (i : Fin 10) : (cscStat s i).mem = s.mem := rfl
@[simp] theorem cscStat_dev (s : State) (i : Fin 10) : (cscStat s i).dev = s.dev := rfl
@[simp] theorem cscStat_boot (s : State) (i : Fin 10) : (cscStat s i).boot = s.boot := rfl
@[simp] theorem cscStat_otp (s : State) (i : Fin 10) : (cscStat s i).otp = s.otp := rfl
@[simp] theorem cscStat_act (s : State) (i : Fin 10) : (cscStat s i).act = s.act := rfl
@[simp] theorem cscStat_reef (s : State) (i : Fin 10) : (cscStat s i).reef = s.reef := rfl
@[simp] theorem cscStat_pert (s : State) (i : Fin 10) : (cscStat s i).pert = s.pert := rfl
@[simp] theorem cscStat_cleatA (s : State) (i : Fin 10) : (cscStat s i).cleatA = s.cleatA := rfl
@[simp] theorem cscStat_cleatB (s : State) (i : Fin 10) : (cscStat s i).cleatB = s.cleatB := rfl
@[simp] theorem cscStat_cleatC (s : State) (i : Fin 10) : (cscStat s i).cleatC = s.cleatC := rfl
@[simp] theorem cscStat_cleatD (s : State) (i : Fin 10) : (cscStat s i).cleatD = s.cleatD := rfl
@[simp] theorem cscStat_health (s : State) (i : Fin 10) : (cscStat s i).health = s.health := rfl
@[simp] theorem cscStat_pht (s : State) (i : Fin 10) : (cscStat s i).pht = s.pht := rfl
@[simp] theorem cscStat_node (s : State) (i : Fin 10) : (cscStat s i).node = s.node := rfl
@[simp] theorem cscStat_cap (s : State) (i : Fin 10) : (cscStat s i).cap = s.cap := rfl
@[simp] theorem cscStat_ddr (s : State) (i : Fin 10) : (cscStat s i).ddr = s.ddr := rfl
@[simp] theorem cscStat_pcie (s : State) (i : Fin 10) : (cscStat s i).pcie = s.pcie := rfl
@[simp] theorem cscStat_shl (s : State) (i : Fin 10) : (cscStat s i).shl = s.shl := rfl
@[simp] theorem cscStat_fab (s : State) (i : Fin 10) : (cscStat s i).fab = s.fab := rfl
@[simp] theorem cscStat_spar (s : State) (i : Fin 10) : (cscStat s i).spar = s.spar := rfl
@[simp] theorem cscStat_ee (s : State) (i : Fin 10) : (cscStat s i).ee = s.ee := rfl
@[simp] theorem cscStat_mast (s : State) (i : Fin 10) : (cscStat s i).mast = s.mast := rfl
@[simp] theorem cscStat_trim (s : State) (i : Fin 10) : (cscStat s i).trim = s.trim := rfl
@[simp] theorem cscStat_tw (s : State) (i : Fin 10) : (cscStat s i).tw = s.tw := rfl
@[simp] theorem cscStat_io (s : State) (i : Fin 10) : (cscStat s i).io = s.io := rfl

/-! ## planMod -/

@[simp] theorem planMod_set (s : State) (p : PhtSlotId) (f : PlanSlot → PlanSlot) :
    (planMod s p f).csc.plans = vmod s.csc.plans p f := rfl
@[simp] theorem planMod_pending (s : State) (p : PhtSlotId) (f : PlanSlot → PlanSlot) : (planMod s p f).pending = s.pending := rfl
@[simp] theorem planMod_free (s : State) (p : PhtSlotId) (f : PlanSlot → PlanSlot) : (planMod s p f).free = s.free := rfl
@[simp] theorem planMod_out (s : State) (p : PhtSlotId) (f : PlanSlot → PlanSlot) : (planMod s p f).out = s.out := rfl
@[simp] theorem planMod_mem (s : State) (p : PhtSlotId) (f : PlanSlot → PlanSlot) : (planMod s p f).mem = s.mem := rfl
@[simp] theorem planMod_dev (s : State) (p : PhtSlotId) (f : PlanSlot → PlanSlot) : (planMod s p f).dev = s.dev := rfl
@[simp] theorem planMod_boot (s : State) (p : PhtSlotId) (f : PlanSlot → PlanSlot) : (planMod s p f).boot = s.boot := rfl
@[simp] theorem planMod_otp (s : State) (p : PhtSlotId) (f : PlanSlot → PlanSlot) : (planMod s p f).otp = s.otp := rfl
@[simp] theorem planMod_act (s : State) (p : PhtSlotId) (f : PlanSlot → PlanSlot) : (planMod s p f).act = s.act := rfl
@[simp] theorem planMod_reef (s : State) (p : PhtSlotId) (f : PlanSlot → PlanSlot) : (planMod s p f).reef = s.reef := rfl
@[simp] theorem planMod_pert (s : State) (p : PhtSlotId) (f : PlanSlot → PlanSlot) : (planMod s p f).pert = s.pert := rfl
@[simp] theorem planMod_cleatA (s : State) (p : PhtSlotId) (f : PlanSlot → PlanSlot) : (planMod s p f).cleatA = s.cleatA := rfl
@[simp] theorem planMod_cleatB (s : State) (p : PhtSlotId) (f : PlanSlot → PlanSlot) : (planMod s p f).cleatB = s.cleatB := rfl
@[simp] theorem planMod_cleatC (s : State) (p : PhtSlotId) (f : PlanSlot → PlanSlot) : (planMod s p f).cleatC = s.cleatC := rfl
@[simp] theorem planMod_cleatD (s : State) (p : PhtSlotId) (f : PlanSlot → PlanSlot) : (planMod s p f).cleatD = s.cleatD := rfl
@[simp] theorem planMod_health (s : State) (p : PhtSlotId) (f : PlanSlot → PlanSlot) : (planMod s p f).health = s.health := rfl
@[simp] theorem planMod_pht (s : State) (p : PhtSlotId) (f : PlanSlot → PlanSlot) : (planMod s p f).pht = s.pht := rfl
@[simp] theorem planMod_node (s : State) (p : PhtSlotId) (f : PlanSlot → PlanSlot) : (planMod s p f).node = s.node := rfl
@[simp] theorem planMod_cap (s : State) (p : PhtSlotId) (f : PlanSlot → PlanSlot) : (planMod s p f).cap = s.cap := rfl
@[simp] theorem planMod_ddr (s : State) (p : PhtSlotId) (f : PlanSlot → PlanSlot) : (planMod s p f).ddr = s.ddr := rfl
@[simp] theorem planMod_pcie (s : State) (p : PhtSlotId) (f : PlanSlot → PlanSlot) : (planMod s p f).pcie = s.pcie := rfl
@[simp] theorem planMod_shl (s : State) (p : PhtSlotId) (f : PlanSlot → PlanSlot) : (planMod s p f).shl = s.shl := rfl
@[simp] theorem planMod_fab (s : State) (p : PhtSlotId) (f : PlanSlot → PlanSlot) : (planMod s p f).fab = s.fab := rfl
@[simp] theorem planMod_spar (s : State) (p : PhtSlotId) (f : PlanSlot → PlanSlot) : (planMod s p f).spar = s.spar := rfl
@[simp] theorem planMod_ee (s : State) (p : PhtSlotId) (f : PlanSlot → PlanSlot) : (planMod s p f).ee = s.ee := rfl
@[simp] theorem planMod_mast (s : State) (p : PhtSlotId) (f : PlanSlot → PlanSlot) : (planMod s p f).mast = s.mast := rfl
@[simp] theorem planMod_trim (s : State) (p : PhtSlotId) (f : PlanSlot → PlanSlot) : (planMod s p f).trim = s.trim := rfl
@[simp] theorem planMod_tw (s : State) (p : PhtSlotId) (f : PlanSlot → PlanSlot) : (planMod s p f).tw = s.tw := rfl
@[simp] theorem planMod_io (s : State) (p : PhtSlotId) (f : PlanSlot → PlanSlot) : (planMod s p f).io = s.io := rfl

/-! ## jobMod -/

@[simp] theorem jobMod_pending (s : State) (tag : W16) (f : Job → Job) : (jobMod s tag f).pending = s.pending := rfl
@[simp] theorem jobMod_free (s : State) (tag : W16) (f : Job → Job) : (jobMod s tag f).free = s.free := rfl
@[simp] theorem jobMod_out (s : State) (tag : W16) (f : Job → Job) : (jobMod s tag f).out = s.out := rfl
@[simp] theorem jobMod_mem (s : State) (tag : W16) (f : Job → Job) : (jobMod s tag f).mem = s.mem := rfl
@[simp] theorem jobMod_dev (s : State) (tag : W16) (f : Job → Job) : (jobMod s tag f).dev = s.dev := rfl
@[simp] theorem jobMod_boot (s : State) (tag : W16) (f : Job → Job) : (jobMod s tag f).boot = s.boot := rfl
@[simp] theorem jobMod_otp (s : State) (tag : W16) (f : Job → Job) : (jobMod s tag f).otp = s.otp := rfl
@[simp] theorem jobMod_act (s : State) (tag : W16) (f : Job → Job) : (jobMod s tag f).act = s.act := rfl
@[simp] theorem jobMod_reef (s : State) (tag : W16) (f : Job → Job) : (jobMod s tag f).reef = s.reef := rfl
@[simp] theorem jobMod_pert (s : State) (tag : W16) (f : Job → Job) : (jobMod s tag f).pert = s.pert := rfl
@[simp] theorem jobMod_cleatA (s : State) (tag : W16) (f : Job → Job) : (jobMod s tag f).cleatA = s.cleatA := rfl
@[simp] theorem jobMod_cleatB (s : State) (tag : W16) (f : Job → Job) : (jobMod s tag f).cleatB = s.cleatB := rfl
@[simp] theorem jobMod_cleatC (s : State) (tag : W16) (f : Job → Job) : (jobMod s tag f).cleatC = s.cleatC := rfl
@[simp] theorem jobMod_cleatD (s : State) (tag : W16) (f : Job → Job) : (jobMod s tag f).cleatD = s.cleatD := rfl
@[simp] theorem jobMod_health (s : State) (tag : W16) (f : Job → Job) : (jobMod s tag f).health = s.health := rfl
@[simp] theorem jobMod_pht (s : State) (tag : W16) (f : Job → Job) : (jobMod s tag f).pht = s.pht := rfl
@[simp] theorem jobMod_node (s : State) (tag : W16) (f : Job → Job) : (jobMod s tag f).node = s.node := rfl
@[simp] theorem jobMod_cap (s : State) (tag : W16) (f : Job → Job) : (jobMod s tag f).cap = s.cap := rfl
@[simp] theorem jobMod_ddr (s : State) (tag : W16) (f : Job → Job) : (jobMod s tag f).ddr = s.ddr := rfl
@[simp] theorem jobMod_pcie (s : State) (tag : W16) (f : Job → Job) : (jobMod s tag f).pcie = s.pcie := rfl
@[simp] theorem jobMod_shl (s : State) (tag : W16) (f : Job → Job) : (jobMod s tag f).shl = s.shl := rfl
@[simp] theorem jobMod_fab (s : State) (tag : W16) (f : Job → Job) : (jobMod s tag f).fab = s.fab := rfl
@[simp] theorem jobMod_spar (s : State) (tag : W16) (f : Job → Job) : (jobMod s tag f).spar = s.spar := rfl
@[simp] theorem jobMod_ee (s : State) (tag : W16) (f : Job → Job) : (jobMod s tag f).ee = s.ee := rfl
@[simp] theorem jobMod_mast (s : State) (tag : W16) (f : Job → Job) : (jobMod s tag f).mast = s.mast := rfl
@[simp] theorem jobMod_trim (s : State) (tag : W16) (f : Job → Job) : (jobMod s tag f).trim = s.trim := rfl
@[simp] theorem jobMod_tw (s : State) (tag : W16) (f : Job → Job) : (jobMod s tag f).tw = s.tw := rfl
@[simp] theorem jobMod_io (s : State) (tag : W16) (f : Job → Job) : (jobMod s tag f).io = s.io := rfl

/-! ## obdMod -/

@[simp] theorem obdMod_pending (s : State) (c : CourseTag) (f : Obd → Obd) : (obdMod s c f).pending = s.pending := rfl
@[simp] theorem obdMod_free (s : State) (c : CourseTag) (f : Obd → Obd) : (obdMod s c f).free = s.free := rfl
@[simp] theorem obdMod_out (s : State) (c : CourseTag) (f : Obd → Obd) : (obdMod s c f).out = s.out := rfl
@[simp] theorem obdMod_mem (s : State) (c : CourseTag) (f : Obd → Obd) : (obdMod s c f).mem = s.mem := rfl
@[simp] theorem obdMod_dev (s : State) (c : CourseTag) (f : Obd → Obd) : (obdMod s c f).dev = s.dev := rfl
@[simp] theorem obdMod_boot (s : State) (c : CourseTag) (f : Obd → Obd) : (obdMod s c f).boot = s.boot := rfl
@[simp] theorem obdMod_otp (s : State) (c : CourseTag) (f : Obd → Obd) : (obdMod s c f).otp = s.otp := rfl
@[simp] theorem obdMod_act (s : State) (c : CourseTag) (f : Obd → Obd) : (obdMod s c f).act = s.act := rfl
@[simp] theorem obdMod_reef (s : State) (c : CourseTag) (f : Obd → Obd) : (obdMod s c f).reef = s.reef := rfl
@[simp] theorem obdMod_pert (s : State) (c : CourseTag) (f : Obd → Obd) : (obdMod s c f).pert = s.pert := rfl
@[simp] theorem obdMod_cleatA (s : State) (c : CourseTag) (f : Obd → Obd) : (obdMod s c f).cleatA = s.cleatA := rfl
@[simp] theorem obdMod_cleatB (s : State) (c : CourseTag) (f : Obd → Obd) : (obdMod s c f).cleatB = s.cleatB := rfl
@[simp] theorem obdMod_cleatC (s : State) (c : CourseTag) (f : Obd → Obd) : (obdMod s c f).cleatC = s.cleatC := rfl
@[simp] theorem obdMod_cleatD (s : State) (c : CourseTag) (f : Obd → Obd) : (obdMod s c f).cleatD = s.cleatD := rfl
@[simp] theorem obdMod_health (s : State) (c : CourseTag) (f : Obd → Obd) : (obdMod s c f).health = s.health := rfl
@[simp] theorem obdMod_pht (s : State) (c : CourseTag) (f : Obd → Obd) : (obdMod s c f).pht = s.pht := rfl
@[simp] theorem obdMod_node (s : State) (c : CourseTag) (f : Obd → Obd) : (obdMod s c f).node = s.node := rfl
@[simp] theorem obdMod_cap (s : State) (c : CourseTag) (f : Obd → Obd) : (obdMod s c f).cap = s.cap := rfl
@[simp] theorem obdMod_ddr (s : State) (c : CourseTag) (f : Obd → Obd) : (obdMod s c f).ddr = s.ddr := rfl
@[simp] theorem obdMod_pcie (s : State) (c : CourseTag) (f : Obd → Obd) : (obdMod s c f).pcie = s.pcie := rfl
@[simp] theorem obdMod_shl (s : State) (c : CourseTag) (f : Obd → Obd) : (obdMod s c f).shl = s.shl := rfl
@[simp] theorem obdMod_fab (s : State) (c : CourseTag) (f : Obd → Obd) : (obdMod s c f).fab = s.fab := rfl
@[simp] theorem obdMod_spar (s : State) (c : CourseTag) (f : Obd → Obd) : (obdMod s c f).spar = s.spar := rfl
@[simp] theorem obdMod_ee (s : State) (c : CourseTag) (f : Obd → Obd) : (obdMod s c f).ee = s.ee := rfl
@[simp] theorem obdMod_mast (s : State) (c : CourseTag) (f : Obd → Obd) : (obdMod s c f).mast = s.mast := rfl
@[simp] theorem obdMod_trim (s : State) (c : CourseTag) (f : Obd → Obd) : (obdMod s c f).trim = s.trim := rfl
@[simp] theorem obdMod_tw (s : State) (c : CourseTag) (f : Obd → Obd) : (obdMod s c f).tw = s.tw := rfl
@[simp] theorem obdMod_io (s : State) (c : CourseTag) (f : Obd → Obd) : (obdMod s c f).io = s.io := rfl

/-! ## twMod -/

@[simp] theorem twMod_set (s : State) (n : TwId) (f : TwPort → TwPort) :
    (twMod s n f).tw = vmod s.tw n f := rfl
@[simp] theorem twMod_pending (s : State) (n : TwId) (f : TwPort → TwPort) : (twMod s n f).pending = s.pending := rfl
@[simp] theorem twMod_free (s : State) (n : TwId) (f : TwPort → TwPort) : (twMod s n f).free = s.free := rfl
@[simp] theorem twMod_out (s : State) (n : TwId) (f : TwPort → TwPort) : (twMod s n f).out = s.out := rfl
@[simp] theorem twMod_mem (s : State) (n : TwId) (f : TwPort → TwPort) : (twMod s n f).mem = s.mem := rfl
@[simp] theorem twMod_dev (s : State) (n : TwId) (f : TwPort → TwPort) : (twMod s n f).dev = s.dev := rfl
@[simp] theorem twMod_boot (s : State) (n : TwId) (f : TwPort → TwPort) : (twMod s n f).boot = s.boot := rfl
@[simp] theorem twMod_otp (s : State) (n : TwId) (f : TwPort → TwPort) : (twMod s n f).otp = s.otp := rfl
@[simp] theorem twMod_act (s : State) (n : TwId) (f : TwPort → TwPort) : (twMod s n f).act = s.act := rfl
@[simp] theorem twMod_reef (s : State) (n : TwId) (f : TwPort → TwPort) : (twMod s n f).reef = s.reef := rfl
@[simp] theorem twMod_pert (s : State) (n : TwId) (f : TwPort → TwPort) : (twMod s n f).pert = s.pert := rfl
@[simp] theorem twMod_cleatA (s : State) (n : TwId) (f : TwPort → TwPort) : (twMod s n f).cleatA = s.cleatA := rfl
@[simp] theorem twMod_cleatB (s : State) (n : TwId) (f : TwPort → TwPort) : (twMod s n f).cleatB = s.cleatB := rfl
@[simp] theorem twMod_cleatC (s : State) (n : TwId) (f : TwPort → TwPort) : (twMod s n f).cleatC = s.cleatC := rfl
@[simp] theorem twMod_cleatD (s : State) (n : TwId) (f : TwPort → TwPort) : (twMod s n f).cleatD = s.cleatD := rfl
@[simp] theorem twMod_health (s : State) (n : TwId) (f : TwPort → TwPort) : (twMod s n f).health = s.health := rfl
@[simp] theorem twMod_pht (s : State) (n : TwId) (f : TwPort → TwPort) : (twMod s n f).pht = s.pht := rfl
@[simp] theorem twMod_node (s : State) (n : TwId) (f : TwPort → TwPort) : (twMod s n f).node = s.node := rfl
@[simp] theorem twMod_cap (s : State) (n : TwId) (f : TwPort → TwPort) : (twMod s n f).cap = s.cap := rfl
@[simp] theorem twMod_ddr (s : State) (n : TwId) (f : TwPort → TwPort) : (twMod s n f).ddr = s.ddr := rfl
@[simp] theorem twMod_pcie (s : State) (n : TwId) (f : TwPort → TwPort) : (twMod s n f).pcie = s.pcie := rfl
@[simp] theorem twMod_shl (s : State) (n : TwId) (f : TwPort → TwPort) : (twMod s n f).shl = s.shl := rfl
@[simp] theorem twMod_fab (s : State) (n : TwId) (f : TwPort → TwPort) : (twMod s n f).fab = s.fab := rfl
@[simp] theorem twMod_spar (s : State) (n : TwId) (f : TwPort → TwPort) : (twMod s n f).spar = s.spar := rfl
@[simp] theorem twMod_ee (s : State) (n : TwId) (f : TwPort → TwPort) : (twMod s n f).ee = s.ee := rfl
@[simp] theorem twMod_csc (s : State) (n : TwId) (f : TwPort → TwPort) : (twMod s n f).csc = s.csc := rfl
@[simp] theorem twMod_mast (s : State) (n : TwId) (f : TwPort → TwPort) : (twMod s n f).mast = s.mast := rfl
@[simp] theorem twMod_trim (s : State) (n : TwId) (f : TwPort → TwPort) : (twMod s n f).trim = s.trim := rfl
@[simp] theorem twMod_io (s : State) (n : TwId) (f : TwPort → TwPort) : (twMod s n f).io = s.io := rfl

/-! ## hartMod -/

@[simp] theorem hartMod_set (s : State) (h : HartId) (f : Hart → Hart) :
    (hartMod s h f).mast.harts = vmod s.mast.harts h f := rfl
@[simp] theorem hartMod_pending (s : State) (h : HartId) (f : Hart → Hart) : (hartMod s h f).pending = s.pending := rfl
@[simp] theorem hartMod_free (s : State) (h : HartId) (f : Hart → Hart) : (hartMod s h f).free = s.free := rfl
@[simp] theorem hartMod_out (s : State) (h : HartId) (f : Hart → Hart) : (hartMod s h f).out = s.out := rfl
@[simp] theorem hartMod_mem (s : State) (h : HartId) (f : Hart → Hart) : (hartMod s h f).mem = s.mem := rfl
@[simp] theorem hartMod_dev (s : State) (h : HartId) (f : Hart → Hart) : (hartMod s h f).dev = s.dev := rfl
@[simp] theorem hartMod_boot (s : State) (h : HartId) (f : Hart → Hart) : (hartMod s h f).boot = s.boot := rfl
@[simp] theorem hartMod_otp (s : State) (h : HartId) (f : Hart → Hart) : (hartMod s h f).otp = s.otp := rfl
@[simp] theorem hartMod_act (s : State) (h : HartId) (f : Hart → Hart) : (hartMod s h f).act = s.act := rfl
@[simp] theorem hartMod_reef (s : State) (h : HartId) (f : Hart → Hart) : (hartMod s h f).reef = s.reef := rfl
@[simp] theorem hartMod_pert (s : State) (h : HartId) (f : Hart → Hart) : (hartMod s h f).pert = s.pert := rfl
@[simp] theorem hartMod_cleatA (s : State) (h : HartId) (f : Hart → Hart) : (hartMod s h f).cleatA = s.cleatA := rfl
@[simp] theorem hartMod_cleatB (s : State) (h : HartId) (f : Hart → Hart) : (hartMod s h f).cleatB = s.cleatB := rfl
@[simp] theorem hartMod_cleatC (s : State) (h : HartId) (f : Hart → Hart) : (hartMod s h f).cleatC = s.cleatC := rfl
@[simp] theorem hartMod_cleatD (s : State) (h : HartId) (f : Hart → Hart) : (hartMod s h f).cleatD = s.cleatD := rfl
@[simp] theorem hartMod_health (s : State) (h : HartId) (f : Hart → Hart) : (hartMod s h f).health = s.health := rfl
@[simp] theorem hartMod_pht (s : State) (h : HartId) (f : Hart → Hart) : (hartMod s h f).pht = s.pht := rfl
@[simp] theorem hartMod_node (s : State) (h : HartId) (f : Hart → Hart) : (hartMod s h f).node = s.node := rfl
@[simp] theorem hartMod_cap (s : State) (h : HartId) (f : Hart → Hart) : (hartMod s h f).cap = s.cap := rfl
@[simp] theorem hartMod_ddr (s : State) (h : HartId) (f : Hart → Hart) : (hartMod s h f).ddr = s.ddr := rfl
@[simp] theorem hartMod_pcie (s : State) (h : HartId) (f : Hart → Hart) : (hartMod s h f).pcie = s.pcie := rfl
@[simp] theorem hartMod_shl (s : State) (h : HartId) (f : Hart → Hart) : (hartMod s h f).shl = s.shl := rfl
@[simp] theorem hartMod_fab (s : State) (h : HartId) (f : Hart → Hart) : (hartMod s h f).fab = s.fab := rfl
@[simp] theorem hartMod_spar (s : State) (h : HartId) (f : Hart → Hart) : (hartMod s h f).spar = s.spar := rfl
@[simp] theorem hartMod_ee (s : State) (h : HartId) (f : Hart → Hart) : (hartMod s h f).ee = s.ee := rfl
@[simp] theorem hartMod_csc (s : State) (h : HartId) (f : Hart → Hart) : (hartMod s h f).csc = s.csc := rfl
@[simp] theorem hartMod_trim (s : State) (h : HartId) (f : Hart → Hart) : (hartMod s h f).trim = s.trim := rfl
@[simp] theorem hartMod_tw (s : State) (h : HartId) (f : Hart → Hart) : (hartMod s h f).tw = s.tw := rfl
@[simp] theorem hartMod_io (s : State) (h : HartId) (f : Hart → Hart) : (hartMod s h f).io = s.io := rfl

/-! ## linePut -/

@[simp] theorem linePut_set (s : State) (ln : Nat) (c : Option CLine) :
    (linePut s ln c).mast.cache = Tbl.write (fun _ => none) s.mast.cache ln c := rfl
@[simp] theorem linePut_pending (s : State) (ln : Nat) (c : Option CLine) : (linePut s ln c).pending = s.pending := rfl
@[simp] theorem linePut_free (s : State) (ln : Nat) (c : Option CLine) : (linePut s ln c).free = s.free := rfl
@[simp] theorem linePut_out (s : State) (ln : Nat) (c : Option CLine) : (linePut s ln c).out = s.out := rfl
@[simp] theorem linePut_mem (s : State) (ln : Nat) (c : Option CLine) : (linePut s ln c).mem = s.mem := rfl
@[simp] theorem linePut_dev (s : State) (ln : Nat) (c : Option CLine) : (linePut s ln c).dev = s.dev := rfl
@[simp] theorem linePut_boot (s : State) (ln : Nat) (c : Option CLine) : (linePut s ln c).boot = s.boot := rfl
@[simp] theorem linePut_otp (s : State) (ln : Nat) (c : Option CLine) : (linePut s ln c).otp = s.otp := rfl
@[simp] theorem linePut_act (s : State) (ln : Nat) (c : Option CLine) : (linePut s ln c).act = s.act := rfl
@[simp] theorem linePut_reef (s : State) (ln : Nat) (c : Option CLine) : (linePut s ln c).reef = s.reef := rfl
@[simp] theorem linePut_pert (s : State) (ln : Nat) (c : Option CLine) : (linePut s ln c).pert = s.pert := rfl
@[simp] theorem linePut_cleatA (s : State) (ln : Nat) (c : Option CLine) : (linePut s ln c).cleatA = s.cleatA := rfl
@[simp] theorem linePut_cleatB (s : State) (ln : Nat) (c : Option CLine) : (linePut s ln c).cleatB = s.cleatB := rfl
@[simp] theorem linePut_cleatC (s : State) (ln : Nat) (c : Option CLine) : (linePut s ln c).cleatC = s.cleatC := rfl
@[simp] theorem linePut_cleatD (s : State) (ln : Nat) (c : Option CLine) : (linePut s ln c).cleatD = s.cleatD := rfl
@[simp] theorem linePut_health (s : State) (ln : Nat) (c : Option CLine) : (linePut s ln c).health = s.health := rfl
@[simp] theorem linePut_pht (s : State) (ln : Nat) (c : Option CLine) : (linePut s ln c).pht = s.pht := rfl
@[simp] theorem linePut_node (s : State) (ln : Nat) (c : Option CLine) : (linePut s ln c).node = s.node := rfl
@[simp] theorem linePut_cap (s : State) (ln : Nat) (c : Option CLine) : (linePut s ln c).cap = s.cap := rfl
@[simp] theorem linePut_ddr (s : State) (ln : Nat) (c : Option CLine) : (linePut s ln c).ddr = s.ddr := rfl
@[simp] theorem linePut_pcie (s : State) (ln : Nat) (c : Option CLine) : (linePut s ln c).pcie = s.pcie := rfl
@[simp] theorem linePut_shl (s : State) (ln : Nat) (c : Option CLine) : (linePut s ln c).shl = s.shl := rfl
@[simp] theorem linePut_fab (s : State) (ln : Nat) (c : Option CLine) : (linePut s ln c).fab = s.fab := rfl
@[simp] theorem linePut_spar (s : State) (ln : Nat) (c : Option CLine) : (linePut s ln c).spar = s.spar := rfl
@[simp] theorem linePut_ee (s : State) (ln : Nat) (c : Option CLine) : (linePut s ln c).ee = s.ee := rfl
@[simp] theorem linePut_csc (s : State) (ln : Nat) (c : Option CLine) : (linePut s ln c).csc = s.csc := rfl
@[simp] theorem linePut_trim (s : State) (ln : Nat) (c : Option CLine) : (linePut s ln c).trim = s.trim := rfl
@[simp] theorem linePut_tw (s : State) (ln : Nat) (c : Option CLine) : (linePut s ln c).tw = s.tw := rfl
@[simp] theorem linePut_io (s : State) (ln : Nat) (c : Option CLine) : (linePut s ln c).io = s.io := rfl

/-! ## mastEvent -/

@[simp] theorem mastEvent_pending (s : State) (n : Nat) : (mastEvent s n).pending = s.pending := rfl
@[simp] theorem mastEvent_free (s : State) (n : Nat) : (mastEvent s n).free = s.free := rfl
@[simp] theorem mastEvent_out (s : State) (n : Nat) : (mastEvent s n).out = s.out := rfl
@[simp] theorem mastEvent_mem (s : State) (n : Nat) : (mastEvent s n).mem = s.mem := rfl
@[simp] theorem mastEvent_dev (s : State) (n : Nat) : (mastEvent s n).dev = s.dev := rfl
@[simp] theorem mastEvent_boot (s : State) (n : Nat) : (mastEvent s n).boot = s.boot := rfl
@[simp] theorem mastEvent_otp (s : State) (n : Nat) : (mastEvent s n).otp = s.otp := rfl
@[simp] theorem mastEvent_act (s : State) (n : Nat) : (mastEvent s n).act = s.act := rfl
@[simp] theorem mastEvent_reef (s : State) (n : Nat) : (mastEvent s n).reef = s.reef := rfl
@[simp] theorem mastEvent_pert (s : State) (n : Nat) : (mastEvent s n).pert = s.pert := rfl
@[simp] theorem mastEvent_cleatA (s : State) (n : Nat) : (mastEvent s n).cleatA = s.cleatA := rfl
@[simp] theorem mastEvent_cleatB (s : State) (n : Nat) : (mastEvent s n).cleatB = s.cleatB := rfl
@[simp] theorem mastEvent_cleatC (s : State) (n : Nat) : (mastEvent s n).cleatC = s.cleatC := rfl
@[simp] theorem mastEvent_cleatD (s : State) (n : Nat) : (mastEvent s n).cleatD = s.cleatD := rfl
@[simp] theorem mastEvent_health (s : State) (n : Nat) : (mastEvent s n).health = s.health := rfl
@[simp] theorem mastEvent_pht (s : State) (n : Nat) : (mastEvent s n).pht = s.pht := rfl
@[simp] theorem mastEvent_node (s : State) (n : Nat) : (mastEvent s n).node = s.node := rfl
@[simp] theorem mastEvent_cap (s : State) (n : Nat) : (mastEvent s n).cap = s.cap := rfl
@[simp] theorem mastEvent_ddr (s : State) (n : Nat) : (mastEvent s n).ddr = s.ddr := rfl
@[simp] theorem mastEvent_pcie (s : State) (n : Nat) : (mastEvent s n).pcie = s.pcie := rfl
@[simp] theorem mastEvent_shl (s : State) (n : Nat) : (mastEvent s n).shl = s.shl := rfl
@[simp] theorem mastEvent_fab (s : State) (n : Nat) : (mastEvent s n).fab = s.fab := rfl
@[simp] theorem mastEvent_spar (s : State) (n : Nat) : (mastEvent s n).spar = s.spar := rfl
@[simp] theorem mastEvent_ee (s : State) (n : Nat) : (mastEvent s n).ee = s.ee := rfl
@[simp] theorem mastEvent_csc (s : State) (n : Nat) : (mastEvent s n).csc = s.csc := rfl
@[simp] theorem mastEvent_trim (s : State) (n : Nat) : (mastEvent s n).trim = s.trim := rfl
@[simp] theorem mastEvent_tw (s : State) (n : Nat) : (mastEvent s n).tw = s.tw := rfl
@[simp] theorem mastEvent_io (s : State) (n : Nat) : (mastEvent s n).io = s.io := rfl

/-! ## domMod -/

@[simp] theorem domMod_set (s : State) (d : DomId) (f : DomRec → DomRec) :
    (domMod s d f).reef.doms = vmod s.reef.doms d f := rfl
@[simp] theorem domMod_pending (s : State) (d : DomId) (f : DomRec → DomRec) : (domMod s d f).pending = s.pending := rfl
@[simp] theorem domMod_free (s : State) (d : DomId) (f : DomRec → DomRec) : (domMod s d f).free = s.free := rfl
@[simp] theorem domMod_out (s : State) (d : DomId) (f : DomRec → DomRec) : (domMod s d f).out = s.out := rfl
@[simp] theorem domMod_mem (s : State) (d : DomId) (f : DomRec → DomRec) : (domMod s d f).mem = s.mem := rfl
@[simp] theorem domMod_dev (s : State) (d : DomId) (f : DomRec → DomRec) : (domMod s d f).dev = s.dev := rfl
@[simp] theorem domMod_boot (s : State) (d : DomId) (f : DomRec → DomRec) : (domMod s d f).boot = s.boot := rfl
@[simp] theorem domMod_otp (s : State) (d : DomId) (f : DomRec → DomRec) : (domMod s d f).otp = s.otp := rfl
@[simp] theorem domMod_act (s : State) (d : DomId) (f : DomRec → DomRec) : (domMod s d f).act = s.act := rfl
@[simp] theorem domMod_pert (s : State) (d : DomId) (f : DomRec → DomRec) : (domMod s d f).pert = s.pert := rfl
@[simp] theorem domMod_cleatA (s : State) (d : DomId) (f : DomRec → DomRec) : (domMod s d f).cleatA = s.cleatA := rfl
@[simp] theorem domMod_cleatB (s : State) (d : DomId) (f : DomRec → DomRec) : (domMod s d f).cleatB = s.cleatB := rfl
@[simp] theorem domMod_cleatC (s : State) (d : DomId) (f : DomRec → DomRec) : (domMod s d f).cleatC = s.cleatC := rfl
@[simp] theorem domMod_cleatD (s : State) (d : DomId) (f : DomRec → DomRec) : (domMod s d f).cleatD = s.cleatD := rfl
@[simp] theorem domMod_health (s : State) (d : DomId) (f : DomRec → DomRec) : (domMod s d f).health = s.health := rfl
@[simp] theorem domMod_pht (s : State) (d : DomId) (f : DomRec → DomRec) : (domMod s d f).pht = s.pht := rfl
@[simp] theorem domMod_node (s : State) (d : DomId) (f : DomRec → DomRec) : (domMod s d f).node = s.node := rfl
@[simp] theorem domMod_cap (s : State) (d : DomId) (f : DomRec → DomRec) : (domMod s d f).cap = s.cap := rfl
@[simp] theorem domMod_ddr (s : State) (d : DomId) (f : DomRec → DomRec) : (domMod s d f).ddr = s.ddr := rfl
@[simp] theorem domMod_pcie (s : State) (d : DomId) (f : DomRec → DomRec) : (domMod s d f).pcie = s.pcie := rfl
@[simp] theorem domMod_shl (s : State) (d : DomId) (f : DomRec → DomRec) : (domMod s d f).shl = s.shl := rfl
@[simp] theorem domMod_fab (s : State) (d : DomId) (f : DomRec → DomRec) : (domMod s d f).fab = s.fab := rfl
@[simp] theorem domMod_spar (s : State) (d : DomId) (f : DomRec → DomRec) : (domMod s d f).spar = s.spar := rfl
@[simp] theorem domMod_ee (s : State) (d : DomId) (f : DomRec → DomRec) : (domMod s d f).ee = s.ee := rfl
@[simp] theorem domMod_csc (s : State) (d : DomId) (f : DomRec → DomRec) : (domMod s d f).csc = s.csc := rfl
@[simp] theorem domMod_mast (s : State) (d : DomId) (f : DomRec → DomRec) : (domMod s d f).mast = s.mast := rfl
@[simp] theorem domMod_trim (s : State) (d : DomId) (f : DomRec → DomRec) : (domMod s d f).trim = s.trim := rfl
@[simp] theorem domMod_tw (s : State) (d : DomId) (f : DomRec → DomRec) : (domMod s d f).tw = s.tw := rfl
@[simp] theorem domMod_io (s : State) (d : DomId) (f : DomRec → DomRec) : (domMod s d f).io = s.io := rfl

/-! ## shlMod -/

@[simp] theorem shlMod_set (s : State) (p : ShlId) (f : ShlPort → ShlPort) :
    (shlMod s p f).shl = vmod s.shl p f := rfl
@[simp] theorem shlMod_pending (s : State) (p : ShlId) (f : ShlPort → ShlPort) : (shlMod s p f).pending = s.pending := rfl
@[simp] theorem shlMod_free (s : State) (p : ShlId) (f : ShlPort → ShlPort) : (shlMod s p f).free = s.free := rfl
@[simp] theorem shlMod_out (s : State) (p : ShlId) (f : ShlPort → ShlPort) : (shlMod s p f).out = s.out := rfl
@[simp] theorem shlMod_mem (s : State) (p : ShlId) (f : ShlPort → ShlPort) : (shlMod s p f).mem = s.mem := rfl
@[simp] theorem shlMod_dev (s : State) (p : ShlId) (f : ShlPort → ShlPort) : (shlMod s p f).dev = s.dev := rfl
@[simp] theorem shlMod_boot (s : State) (p : ShlId) (f : ShlPort → ShlPort) : (shlMod s p f).boot = s.boot := rfl
@[simp] theorem shlMod_otp (s : State) (p : ShlId) (f : ShlPort → ShlPort) : (shlMod s p f).otp = s.otp := rfl
@[simp] theorem shlMod_act (s : State) (p : ShlId) (f : ShlPort → ShlPort) : (shlMod s p f).act = s.act := rfl
@[simp] theorem shlMod_reef (s : State) (p : ShlId) (f : ShlPort → ShlPort) : (shlMod s p f).reef = s.reef := rfl
@[simp] theorem shlMod_pert (s : State) (p : ShlId) (f : ShlPort → ShlPort) : (shlMod s p f).pert = s.pert := rfl
@[simp] theorem shlMod_cleatA (s : State) (p : ShlId) (f : ShlPort → ShlPort) : (shlMod s p f).cleatA = s.cleatA := rfl
@[simp] theorem shlMod_cleatB (s : State) (p : ShlId) (f : ShlPort → ShlPort) : (shlMod s p f).cleatB = s.cleatB := rfl
@[simp] theorem shlMod_cleatC (s : State) (p : ShlId) (f : ShlPort → ShlPort) : (shlMod s p f).cleatC = s.cleatC := rfl
@[simp] theorem shlMod_cleatD (s : State) (p : ShlId) (f : ShlPort → ShlPort) : (shlMod s p f).cleatD = s.cleatD := rfl
@[simp] theorem shlMod_health (s : State) (p : ShlId) (f : ShlPort → ShlPort) : (shlMod s p f).health = s.health := rfl
@[simp] theorem shlMod_pht (s : State) (p : ShlId) (f : ShlPort → ShlPort) : (shlMod s p f).pht = s.pht := rfl
@[simp] theorem shlMod_node (s : State) (p : ShlId) (f : ShlPort → ShlPort) : (shlMod s p f).node = s.node := rfl
@[simp] theorem shlMod_cap (s : State) (p : ShlId) (f : ShlPort → ShlPort) : (shlMod s p f).cap = s.cap := rfl
@[simp] theorem shlMod_ddr (s : State) (p : ShlId) (f : ShlPort → ShlPort) : (shlMod s p f).ddr = s.ddr := rfl
@[simp] theorem shlMod_pcie (s : State) (p : ShlId) (f : ShlPort → ShlPort) : (shlMod s p f).pcie = s.pcie := rfl
@[simp] theorem shlMod_fab (s : State) (p : ShlId) (f : ShlPort → ShlPort) : (shlMod s p f).fab = s.fab := rfl
@[simp] theorem shlMod_spar (s : State) (p : ShlId) (f : ShlPort → ShlPort) : (shlMod s p f).spar = s.spar := rfl
@[simp] theorem shlMod_ee (s : State) (p : ShlId) (f : ShlPort → ShlPort) : (shlMod s p f).ee = s.ee := rfl
@[simp] theorem shlMod_csc (s : State) (p : ShlId) (f : ShlPort → ShlPort) : (shlMod s p f).csc = s.csc := rfl
@[simp] theorem shlMod_mast (s : State) (p : ShlId) (f : ShlPort → ShlPort) : (shlMod s p f).mast = s.mast := rfl
@[simp] theorem shlMod_trim (s : State) (p : ShlId) (f : ShlPort → ShlPort) : (shlMod s p f).trim = s.trim := rfl
@[simp] theorem shlMod_tw (s : State) (p : ShlId) (f : ShlPort → ShlPort) : (shlMod s p f).tw = s.tw := rfl
@[simp] theorem shlMod_io (s : State) (p : ShlId) (f : ShlPort → ShlPort) : (shlMod s p f).io = s.io := rfl

/-! ## coreMod -/

@[simp] theorem coreMod_set (s : State) (c : CoreId) (f : SparCore → SparCore) :
    (coreMod s c f).spar = vmod s.spar c f := rfl
@[simp] theorem coreMod_pending (s : State) (c : CoreId) (f : SparCore → SparCore) : (coreMod s c f).pending = s.pending := rfl
@[simp] theorem coreMod_free (s : State) (c : CoreId) (f : SparCore → SparCore) : (coreMod s c f).free = s.free := rfl
@[simp] theorem coreMod_out (s : State) (c : CoreId) (f : SparCore → SparCore) : (coreMod s c f).out = s.out := rfl
@[simp] theorem coreMod_mem (s : State) (c : CoreId) (f : SparCore → SparCore) : (coreMod s c f).mem = s.mem := rfl
@[simp] theorem coreMod_dev (s : State) (c : CoreId) (f : SparCore → SparCore) : (coreMod s c f).dev = s.dev := rfl
@[simp] theorem coreMod_boot (s : State) (c : CoreId) (f : SparCore → SparCore) : (coreMod s c f).boot = s.boot := rfl
@[simp] theorem coreMod_otp (s : State) (c : CoreId) (f : SparCore → SparCore) : (coreMod s c f).otp = s.otp := rfl
@[simp] theorem coreMod_act (s : State) (c : CoreId) (f : SparCore → SparCore) : (coreMod s c f).act = s.act := rfl
@[simp] theorem coreMod_reef (s : State) (c : CoreId) (f : SparCore → SparCore) : (coreMod s c f).reef = s.reef := rfl
@[simp] theorem coreMod_pert (s : State) (c : CoreId) (f : SparCore → SparCore) : (coreMod s c f).pert = s.pert := rfl
@[simp] theorem coreMod_cleatA (s : State) (c : CoreId) (f : SparCore → SparCore) : (coreMod s c f).cleatA = s.cleatA := rfl
@[simp] theorem coreMod_cleatB (s : State) (c : CoreId) (f : SparCore → SparCore) : (coreMod s c f).cleatB = s.cleatB := rfl
@[simp] theorem coreMod_cleatC (s : State) (c : CoreId) (f : SparCore → SparCore) : (coreMod s c f).cleatC = s.cleatC := rfl
@[simp] theorem coreMod_cleatD (s : State) (c : CoreId) (f : SparCore → SparCore) : (coreMod s c f).cleatD = s.cleatD := rfl
@[simp] theorem coreMod_health (s : State) (c : CoreId) (f : SparCore → SparCore) : (coreMod s c f).health = s.health := rfl
@[simp] theorem coreMod_pht (s : State) (c : CoreId) (f : SparCore → SparCore) : (coreMod s c f).pht = s.pht := rfl
@[simp] theorem coreMod_node (s : State) (c : CoreId) (f : SparCore → SparCore) : (coreMod s c f).node = s.node := rfl
@[simp] theorem coreMod_cap (s : State) (c : CoreId) (f : SparCore → SparCore) : (coreMod s c f).cap = s.cap := rfl
@[simp] theorem coreMod_ddr (s : State) (c : CoreId) (f : SparCore → SparCore) : (coreMod s c f).ddr = s.ddr := rfl
@[simp] theorem coreMod_pcie (s : State) (c : CoreId) (f : SparCore → SparCore) : (coreMod s c f).pcie = s.pcie := rfl
@[simp] theorem coreMod_shl (s : State) (c : CoreId) (f : SparCore → SparCore) : (coreMod s c f).shl = s.shl := rfl
@[simp] theorem coreMod_fab (s : State) (c : CoreId) (f : SparCore → SparCore) : (coreMod s c f).fab = s.fab := rfl
@[simp] theorem coreMod_ee (s : State) (c : CoreId) (f : SparCore → SparCore) : (coreMod s c f).ee = s.ee := rfl
@[simp] theorem coreMod_csc (s : State) (c : CoreId) (f : SparCore → SparCore) : (coreMod s c f).csc = s.csc := rfl
@[simp] theorem coreMod_mast (s : State) (c : CoreId) (f : SparCore → SparCore) : (coreMod s c f).mast = s.mast := rfl
@[simp] theorem coreMod_trim (s : State) (c : CoreId) (f : SparCore → SparCore) : (coreMod s c f).trim = s.trim := rfl
@[simp] theorem coreMod_tw (s : State) (c : CoreId) (f : SparCore → SparCore) : (coreMod s c f).tw = s.tw := rfl
@[simp] theorem coreMod_io (s : State) (c : CoreId) (f : SparCore → SparCore) : (coreMod s c f).io = s.io := rfl

/-! ## trimMod -/

@[simp] theorem trimMod_set (s : State) (f : Trim → Trim) :
    (trimMod s f).trim = f s.trim := rfl
@[simp] theorem trimMod_pending (s : State) (f : Trim → Trim) : (trimMod s f).pending = s.pending := rfl
@[simp] theorem trimMod_free (s : State) (f : Trim → Trim) : (trimMod s f).free = s.free := rfl
@[simp] theorem trimMod_out (s : State) (f : Trim → Trim) : (trimMod s f).out = s.out := rfl
@[simp] theorem trimMod_mem (s : State) (f : Trim → Trim) : (trimMod s f).mem = s.mem := rfl
@[simp] theorem trimMod_dev (s : State) (f : Trim → Trim) : (trimMod s f).dev = s.dev := rfl
@[simp] theorem trimMod_boot (s : State) (f : Trim → Trim) : (trimMod s f).boot = s.boot := rfl
@[simp] theorem trimMod_otp (s : State) (f : Trim → Trim) : (trimMod s f).otp = s.otp := rfl
@[simp] theorem trimMod_act (s : State) (f : Trim → Trim) : (trimMod s f).act = s.act := rfl
@[simp] theorem trimMod_reef (s : State) (f : Trim → Trim) : (trimMod s f).reef = s.reef := rfl
@[simp] theorem trimMod_pert (s : State) (f : Trim → Trim) : (trimMod s f).pert = s.pert := rfl
@[simp] theorem trimMod_cleatA (s : State) (f : Trim → Trim) : (trimMod s f).cleatA = s.cleatA := rfl
@[simp] theorem trimMod_cleatB (s : State) (f : Trim → Trim) : (trimMod s f).cleatB = s.cleatB := rfl
@[simp] theorem trimMod_cleatC (s : State) (f : Trim → Trim) : (trimMod s f).cleatC = s.cleatC := rfl
@[simp] theorem trimMod_cleatD (s : State) (f : Trim → Trim) : (trimMod s f).cleatD = s.cleatD := rfl
@[simp] theorem trimMod_health (s : State) (f : Trim → Trim) : (trimMod s f).health = s.health := rfl
@[simp] theorem trimMod_pht (s : State) (f : Trim → Trim) : (trimMod s f).pht = s.pht := rfl
@[simp] theorem trimMod_node (s : State) (f : Trim → Trim) : (trimMod s f).node = s.node := rfl
@[simp] theorem trimMod_cap (s : State) (f : Trim → Trim) : (trimMod s f).cap = s.cap := rfl
@[simp] theorem trimMod_ddr (s : State) (f : Trim → Trim) : (trimMod s f).ddr = s.ddr := rfl
@[simp] theorem trimMod_pcie (s : State) (f : Trim → Trim) : (trimMod s f).pcie = s.pcie := rfl
@[simp] theorem trimMod_shl (s : State) (f : Trim → Trim) : (trimMod s f).shl = s.shl := rfl
@[simp] theorem trimMod_fab (s : State) (f : Trim → Trim) : (trimMod s f).fab = s.fab := rfl
@[simp] theorem trimMod_spar (s : State) (f : Trim → Trim) : (trimMod s f).spar = s.spar := rfl
@[simp] theorem trimMod_ee (s : State) (f : Trim → Trim) : (trimMod s f).ee = s.ee := rfl
@[simp] theorem trimMod_csc (s : State) (f : Trim → Trim) : (trimMod s f).csc = s.csc := rfl
@[simp] theorem trimMod_mast (s : State) (f : Trim → Trim) : (trimMod s f).mast = s.mast := rfl
@[simp] theorem trimMod_tw (s : State) (f : Trim → Trim) : (trimMod s f).tw = s.tw := rfl
@[simp] theorem trimMod_io (s : State) (f : Trim → Trim) : (trimMod s f).io = s.io := rfl

/-! ## notePlane -/

@[simp] theorem notePlane_pending (s : State) (target source : Nat) : (notePlane s target source).pending = s.pending := rfl
@[simp] theorem notePlane_free (s : State) (target source : Nat) : (notePlane s target source).free = s.free := rfl
@[simp] theorem notePlane_out (s : State) (target source : Nat) : (notePlane s target source).out = s.out := rfl
@[simp] theorem notePlane_mem (s : State) (target source : Nat) : (notePlane s target source).mem = s.mem := rfl
@[simp] theorem notePlane_dev (s : State) (target source : Nat) : (notePlane s target source).dev = s.dev := rfl
@[simp] theorem notePlane_otp (s : State) (target source : Nat) : (notePlane s target source).otp = s.otp := rfl
@[simp] theorem notePlane_act (s : State) (target source : Nat) : (notePlane s target source).act = s.act := rfl
@[simp] theorem notePlane_reef (s : State) (target source : Nat) : (notePlane s target source).reef = s.reef := rfl
@[simp] theorem notePlane_pert (s : State) (target source : Nat) : (notePlane s target source).pert = s.pert := rfl
@[simp] theorem notePlane_cleatA (s : State) (target source : Nat) : (notePlane s target source).cleatA = s.cleatA := rfl
@[simp] theorem notePlane_cleatB (s : State) (target source : Nat) : (notePlane s target source).cleatB = s.cleatB := rfl
@[simp] theorem notePlane_cleatC (s : State) (target source : Nat) : (notePlane s target source).cleatC = s.cleatC := rfl
@[simp] theorem notePlane_cleatD (s : State) (target source : Nat) : (notePlane s target source).cleatD = s.cleatD := rfl
@[simp] theorem notePlane_health (s : State) (target source : Nat) : (notePlane s target source).health = s.health := rfl
@[simp] theorem notePlane_pht (s : State) (target source : Nat) : (notePlane s target source).pht = s.pht := rfl
@[simp] theorem notePlane_node (s : State) (target source : Nat) : (notePlane s target source).node = s.node := rfl
@[simp] theorem notePlane_cap (s : State) (target source : Nat) : (notePlane s target source).cap = s.cap := rfl
@[simp] theorem notePlane_ddr (s : State) (target source : Nat) : (notePlane s target source).ddr = s.ddr := rfl
@[simp] theorem notePlane_pcie (s : State) (target source : Nat) : (notePlane s target source).pcie = s.pcie := rfl
@[simp] theorem notePlane_shl (s : State) (target source : Nat) : (notePlane s target source).shl = s.shl := rfl
@[simp] theorem notePlane_fab (s : State) (target source : Nat) : (notePlane s target source).fab = s.fab := rfl
@[simp] theorem notePlane_spar (s : State) (target source : Nat) : (notePlane s target source).spar = s.spar := rfl
@[simp] theorem notePlane_ee (s : State) (target source : Nat) : (notePlane s target source).ee = s.ee := rfl
@[simp] theorem notePlane_csc (s : State) (target source : Nat) : (notePlane s target source).csc = s.csc := rfl
@[simp] theorem notePlane_mast (s : State) (target source : Nat) : (notePlane s target source).mast = s.mast := rfl
@[simp] theorem notePlane_trim (s : State) (target source : Nat) : (notePlane s target source).trim = s.trim := rfl
@[simp] theorem notePlane_tw (s : State) (target source : Nat) : (notePlane s target source).tw = s.tw := rfl
@[simp] theorem notePlane_io (s : State) (target source : Nat) : (notePlane s target source).io = s.io := rfl

@[simp] theorem ctxPut_cap_stats (s : State) (n : Nat) (c : Ctx) : (ctxPut s n c).cap.stats = s.cap.stats := rfl
@[simp] theorem ctxPut_cap_ingress (s : State) (n : Nat) (c : Ctx) : (ctxPut s n c).cap.ingress = s.cap.ingress := rfl
@[simp] theorem ctxPut_cap_csi (s : State) (n : Nat) (c : Ctx) : (ctxPut s n c).cap.csi = s.cap.csi := rfl
@[simp] theorem ctxPut_cap_jpegQ (s : State) (n : Nat) (c : Ctx) : (ctxPut s n c).cap.jpegQ = s.cap.jpegQ := rfl
@[simp] theorem ctxPut_cap_jdu (s : State) (n : Nat) (c : Ctx) : (ctxPut s n c).cap.jdu = s.cap.jdu := rfl
@[simp] theorem ctxPut_cap_windows (s : State) (n : Nat) (c : Ctx) : (ctxPut s n c).cap.windows = s.cap.windows := rfl
@[simp] theorem ctxPut_cap_sets (s : State) (n : Nat) (c : Ctx) : (ctxPut s n c).cap.sets = s.cap.sets := rfl
@[simp] theorem ctxPut_cap_lastSet (s : State) (n : Nat) (c : Ctx) : (ctxPut s n c).cap.lastSet = s.cap.lastSet := rfl
@[simp] theorem ctxPut_cap_offered (s : State) (n : Nat) (c : Ctx) : (ctxPut s n c).cap.offered = s.cap.offered := rfl

@[simp] theorem capStat_cap_ctxs (s : State) (i : Fin 8) : (capStat s i).cap.ctxs = s.cap.ctxs := rfl
@[simp] theorem capStat_cap_ingress (s : State) (i : Fin 8) : (capStat s i).cap.ingress = s.cap.ingress := rfl
@[simp] theorem capStat_cap_csi (s : State) (i : Fin 8) : (capStat s i).cap.csi = s.cap.csi := rfl
@[simp] theorem capStat_cap_jpegQ (s : State) (i : Fin 8) : (capStat s i).cap.jpegQ = s.cap.jpegQ := rfl
@[simp] theorem capStat_cap_jdu (s : State) (i : Fin 8) : (capStat s i).cap.jdu = s.cap.jdu := rfl
@[simp] theorem capStat_cap_windows (s : State) (i : Fin 8) : (capStat s i).cap.windows = s.cap.windows := rfl
@[simp] theorem capStat_cap_sets (s : State) (i : Fin 8) : (capStat s i).cap.sets = s.cap.sets := rfl
@[simp] theorem capStat_cap_lastSet (s : State) (i : Fin 8) : (capStat s i).cap.lastSet = s.cap.lastSet := rfl
@[simp] theorem capStat_cap_offered (s : State) (i : Fin 8) : (capStat s i).cap.offered = s.cap.offered := rfl

@[simp] theorem hartMod_mast_cache (s : State) (h : HartId) (f : Hart → Hart) : (hartMod s h f).mast.cache = s.mast.cache := rfl
@[simp] theorem hartMod_mast_events (s : State) (h : HartId) (f : Hart → Hart) : (hartMod s h f).mast.events = s.mast.events := rfl
@[simp] theorem hartMod_mast_sterr (s : State) (h : HartId) (f : Hart → Hart) : (hartMod s h f).mast.sterr = s.mast.sterr := rfl
@[simp] theorem hartMod_mast_cmo (s : State) (h : HartId) (f : Hart → Hart) : (hartMod s h f).mast.cmo = s.mast.cmo := rfl

@[simp] theorem linePut_mast_harts (s : State) (ln : Nat) (c : Option CLine) : (linePut s ln c).mast.harts = s.mast.harts := rfl
@[simp] theorem linePut_mast_events (s : State) (ln : Nat) (c : Option CLine) : (linePut s ln c).mast.events = s.mast.events := rfl
@[simp] theorem linePut_mast_sterr (s : State) (ln : Nat) (c : Option CLine) : (linePut s ln c).mast.sterr = s.mast.sterr := rfl
@[simp] theorem linePut_mast_cmo (s : State) (ln : Nat) (c : Option CLine) : (linePut s ln c).mast.cmo = s.mast.cmo := rfl

@[simp] theorem domMod_reef_free (s : State) (d : DomId) (f : DomRec → DomRec) : (domMod s d f).reef.free = s.reef.free := rfl
@[simp] theorem domMod_reef_eff (s : State) (d : DomId) (f : DomRec → DomRec) : (domMod s d f).reef.eff = s.reef.eff := rfl
@[simp] theorem domMod_reef_effNext (s : State) (d : DomId) (f : DomRec → DomRec) : (domMod s d f).reef.effNext = s.reef.effNext := rfl
@[simp] theorem domMod_reef_transit (s : State) (d : DomId) (f : DomRec → DomRec) : (domMod s d f).reef.transit = s.reef.transit := rfl
@[simp] theorem domMod_reef_queue (s : State) (d : DomId) (f : DomRec → DomRec) : (domMod s d f).reef.queue = s.reef.queue := rfl

@[simp] theorem emcyHistory_node_nmt (s : State) (code : Nat) (unit : Byte) (detail : Bytes) : (emcyHistory s code unit detail).node.nmt = s.node.nmt := rfl
@[simp] theorem emcyHistory_node_emcyQ (s : State) (code : Nat) (unit : Byte) (detail : Bytes) : (emcyHistory s code unit detail).node.emcyQ = s.node.emcyQ := rfl
@[simp] theorem emcyHistory_node_stats (s : State) (code : Nat) (unit : Byte) (detail : Bytes) : (emcyHistory s code unit detail).node.stats = s.node.stats := rfl
@[simp] theorem emcyHistory_node_reqs (s : State) (code : Nat) (unit : Byte) (detail : Bytes) : (emcyHistory s code unit detail).node.reqs = s.node.reqs := rfl
@[simp] theorem emcyHistory_node_od (s : State) (code : Nat) (unit : Byte) (detail : Bytes) : (emcyHistory s code unit detail).node.od = s.node.od := rfl

end Sys2Proof.Machine
end

