-- ==== Sys2Proof/Laws/Ops.lean ====
section
/-!
SUPPORT. The shared operations of Machine/Ops.lean and Machine/Ram.lean: one lemma that says what each can do,
and one lemma per field it leaves alone.
-/

namespace Sys2Proof.Machine

/-! ## EMCYs (R118 to R120, R533 to R535) -/

/-- An EMCY frame enters the queue, or counts as dropped. -/
theorem emcyQueue_cases (s : State) (b : Bytes) :
    (s.node.emcyQ.length < 32 ∧ emcyQueue s b = { s with node.emcyQ := s.node.emcyQ ++ [b] }) ∨
    (32 ≤ s.node.emcyQ.length ∧ emcyQueue s b = { s with node.stats := vmod s.node.stats 3 (· + 1) }) := by
  unfold emcyQueue
  split
  · exact .inl ⟨‹_›, rfl⟩
  · exact .inr ⟨by omega, rfl⟩

/-- An EMCY that is raised is in the history first, whatever becomes of its frame. -/
theorem raiseEmcy_history (s : State) (code : Nat) (unit : Byte) (detail : Bytes) :
    (raiseEmcy s code unit detail).node.history = (emcyHistory s code unit detail).node.history := by
  unfold raiseEmcy emcyQueue
  split <;> rfl

/-- A condition that stands is not raised again; one that does not stands afterwards. -/
theorem raiseStanding_cases (s : State) (code : Nat) (unit : Byte) (key : Nat) (detail : Bytes) :
    (stands s code key = true ∧ raiseStanding s code unit key detail = s) ∨
    (stands s code key = false ∧ (raiseStanding s code unit key detail).health.standing =
      s.health.standing ++ [{ code := BitVec.ofNat 16 code, unit := unit, key := key }]) := by
  unfold raiseStanding
  split
  · exact .inl ⟨‹_›, rfl⟩
  · refine .inr ⟨by simp_all, ?_⟩
    unfold raiseEmcy emcyQueue
    split <;> rfl

/-- The end of a condition: nothing when it does not stand, else it stands no more. -/
theorem clearStanding_standing (s : State) (code key : Nat) :
    (clearStanding s code key).health.standing =
      s.health.standing.filter fun c => !(c.code.toNat == code && c.key == key) := by
  unfold clearStanding
  split
  · next h =>
    rw [List.find?_eq_none] at h
    symm
    rw [List.filter_eq_self]
    intro c hc
    simp [Bool.eq_false_iff.2 (h c hc)]
  · unfold errorReset emcyQueue
    split <;> rfl

theorem stands_clearStanding (s : State) (code key : Nat) : stands (clearStanding s code key) code key = false := by
  simp only [stands, clearStanding_standing, List.any_filter, List.any_eq_false]
  intro c _
  cases (c.code.toNat == code && c.key == key) <;> simp

@[simp] theorem emcyQueue_pending (s : State) (b : Bytes) : (emcyQueue s b).pending = s.pending := by
  unfold emcyQueue; split <;> rfl
@[simp] theorem emcyQueue_free (s : State) (b : Bytes) : (emcyQueue s b).free = s.free := by
  unfold emcyQueue; split <;> rfl
@[simp] theorem emcyQueue_out (s : State) (b : Bytes) : (emcyQueue s b).out = s.out := by
  unfold emcyQueue; split <;> rfl
@[simp] theorem emcyQueue_mem (s : State) (b : Bytes) : (emcyQueue s b).mem = s.mem := by
  unfold emcyQueue; split <;> rfl
@[simp] theorem emcyQueue_dev (s : State) (b : Bytes) : (emcyQueue s b).dev = s.dev := by
  unfold emcyQueue; split <;> rfl
@[simp] theorem emcyQueue_boot (s : State) (b : Bytes) : (emcyQueue s b).boot = s.boot := by
  unfold emcyQueue; split <;> rfl
@[simp] theorem emcyQueue_otp (s : State) (b : Bytes) : (emcyQueue s b).otp = s.otp := by
  unfold emcyQueue; split <;> rfl
@[simp] theorem emcyQueue_act (s : State) (b : Bytes) : (emcyQueue s b).act = s.act := by
  unfold emcyQueue; split <;> rfl
@[simp] theorem emcyQueue_reef (s : State) (b : Bytes) : (emcyQueue s b).reef = s.reef := by
  unfold emcyQueue; split <;> rfl
@[simp] theorem emcyQueue_pert (s : State) (b : Bytes) : (emcyQueue s b).pert = s.pert := by
  unfold emcyQueue; split <;> rfl
@[simp] theorem emcyQueue_cleatA (s : State) (b : Bytes) : (emcyQueue s b).cleatA = s.cleatA := by
  unfold emcyQueue; split <;> rfl
@[simp] theorem emcyQueue_cleatB (s : State) (b : Bytes) : (emcyQueue s b).cleatB = s.cleatB := by
  unfold emcyQueue; split <;> rfl
@[simp] theorem emcyQueue_cleatC (s : State) (b : Bytes) : (emcyQueue s b).cleatC = s.cleatC := by
  unfold emcyQueue; split <;> rfl
@[simp] theorem emcyQueue_cleatD (s : State) (b : Bytes) : (emcyQueue s b).cleatD = s.cleatD := by
  unfold emcyQueue; split <;> rfl
@[simp] theorem emcyQueue_health (s : State) (b : Bytes) : (emcyQueue s b).health = s.health := by
  unfold emcyQueue; split <;> rfl
@[simp] theorem emcyQueue_pht (s : State) (b : Bytes) : (emcyQueue s b).pht = s.pht := by
  unfold emcyQueue; split <;> rfl
@[simp] theorem emcyQueue_cap (s : State) (b : Bytes) : (emcyQueue s b).cap = s.cap := by
  unfold emcyQueue; split <;> rfl
@[simp] theorem emcyQueue_ddr (s : State) (b : Bytes) : (emcyQueue s b).ddr = s.ddr := by
  unfold emcyQueue; split <;> rfl
@[simp] theorem emcyQueue_pcie (s : State) (b : Bytes) : (emcyQueue s b).pcie = s.pcie := by
  unfold emcyQueue; split <;> rfl
@[simp] theorem emcyQueue_shl (s : State) (b : Bytes) : (emcyQueue s b).shl = s.shl := by
  unfold emcyQueue; split <;> rfl
@[simp] theorem emcyQueue_fab (s : State) (b : Bytes) : (emcyQueue s b).fab = s.fab := by
  unfold emcyQueue; split <;> rfl
@[simp] theorem emcyQueue_spar (s : State) (b : Bytes) : (emcyQueue s b).spar = s.spar := by
  unfold emcyQueue; split <;> rfl
@[simp] theorem emcyQueue_ee (s : State) (b : Bytes) : (emcyQueue s b).ee = s.ee := by
  unfold emcyQueue; split <;> rfl
@[simp] theorem emcyQueue_csc (s : State) (b : Bytes) : (emcyQueue s b).csc = s.csc := by
  unfold emcyQueue; split <;> rfl
@[simp] theorem emcyQueue_mast (s : State) (b : Bytes) : (emcyQueue s b).mast = s.mast := by
  unfold emcyQueue; split <;> rfl
@[simp] theorem emcyQueue_trim (s : State) (b : Bytes) : (emcyQueue s b).trim = s.trim := by
  unfold emcyQueue; split <;> rfl
@[simp] theorem emcyQueue_tw (s : State) (b : Bytes) : (emcyQueue s b).tw = s.tw := by
  unfold emcyQueue; split <;> rfl
@[simp] theorem emcyQueue_io (s : State) (b : Bytes) : (emcyQueue s b).io = s.io := by
  unfold emcyQueue; split <;> rfl

@[simp] theorem raiseEmcy_pending (s : State) (code : Nat) (unit : Byte) (detail : Bytes) : (raiseEmcy s code unit detail).pending = s.pending := by
  simp [raiseEmcy]
@[simp] theorem raiseEmcy_free (s : State) (code : Nat) (unit : Byte) (detail : Bytes) : (raiseEmcy s code unit detail).free = s.free := by
  simp [raiseEmcy]
@[simp] theorem raiseEmcy_out (s : State) (code : Nat) (unit : Byte) (detail : Bytes) : (raiseEmcy s code unit detail).out = s.out := by
  simp [raiseEmcy]
@[simp] theorem raiseEmcy_mem (s : State) (code : Nat) (unit : Byte) (detail : Bytes) : (raiseEmcy s code unit detail).mem = s.mem := by
  simp [raiseEmcy]
@[simp] theorem raiseEmcy_dev (s : State) (code : Nat) (unit : Byte) (detail : Bytes) : (raiseEmcy s code unit detail).dev = s.dev := by
  simp [raiseEmcy]
@[simp] theorem raiseEmcy_boot (s : State) (code : Nat) (unit : Byte) (detail : Bytes) : (raiseEmcy s code unit detail).boot = s.boot := by
  simp [raiseEmcy]
@[simp] theorem raiseEmcy_otp (s : State) (code : Nat) (unit : Byte) (detail : Bytes) : (raiseEmcy s code unit detail).otp = s.otp := by
  simp [raiseEmcy]
@[simp] theorem raiseEmcy_act (s : State) (code : Nat) (unit : Byte) (detail : Bytes) : (raiseEmcy s code unit detail).act = s.act := by
  simp [raiseEmcy]
@[simp] theorem raiseEmcy_reef (s : State) (code : Nat) (unit : Byte) (detail : Bytes) : (raiseEmcy s code unit detail).reef = s.reef := by
  simp [raiseEmcy]
@[simp] theorem raiseEmcy_pert (s : State) (code : Nat) (unit : Byte) (detail : Bytes) : (raiseEmcy s code unit detail).pert = s.pert := by
  simp [raiseEmcy]
@[simp] theorem raiseEmcy_cleatA (s : State) (code : Nat) (unit : Byte) (detail : Bytes) : (raiseEmcy s code unit detail).cleatA = s.cleatA := by
  simp [raiseEmcy]
@[simp] theorem raiseEmcy_cleatB (s : State) (code : Nat) (unit : Byte) (detail : Bytes) : (raiseEmcy s code unit detail).cleatB = s.cleatB := by
  simp [raiseEmcy]
@[simp] theorem raiseEmcy_cleatC (s : State) (code : Nat) (unit : Byte) (detail : Bytes) : (raiseEmcy s code unit detail).cleatC = s.cleatC := by
  simp [raiseEmcy]
@[simp] theorem raiseEmcy_cleatD (s : State) (code : Nat) (unit : Byte) (detail : Bytes) : (raiseEmcy s code unit detail).cleatD = s.cleatD := by
  simp [raiseEmcy]
@[simp] theorem raiseEmcy_health (s : State) (code : Nat) (unit : Byte) (detail : Bytes) : (raiseEmcy s code unit detail).health = s.health := by
  simp [raiseEmcy]
@[simp] theorem raiseEmcy_pht (s : State) (code : Nat) (unit : Byte) (detail : Bytes) : (raiseEmcy s code unit detail).pht = s.pht := by
  simp [raiseEmcy]
@[simp] theorem raiseEmcy_cap (s : State) (code : Nat) (unit : Byte) (detail : Bytes) : (raiseEmcy s code unit detail).cap = s.cap := by
  simp [raiseEmcy]
@[simp] theorem raiseEmcy_ddr (s : State) (code : Nat) (unit : Byte) (detail : Bytes) : (raiseEmcy s code unit detail).ddr = s.ddr := by
  simp [raiseEmcy]
@[simp] theorem raiseEmcy_pcie (s : State) (code : Nat) (unit : Byte) (detail : Bytes) : (raiseEmcy s code unit detail).pcie = s.pcie := by
  simp [raiseEmcy]
@[simp] theorem raiseEmcy_shl (s : State) (code : Nat) (unit : Byte) (detail : Bytes) : (raiseEmcy s code unit detail).shl = s.shl := by
  simp [raiseEmcy]
@[simp] theorem raiseEmcy_fab (s : State) (code : Nat) (unit : Byte) (detail : Bytes) : (raiseEmcy s code unit detail).fab = s.fab := by
  simp [raiseEmcy]
@[simp] theorem raiseEmcy_spar (s : State) (code : Nat) (unit : Byte) (detail : Bytes) : (raiseEmcy s code unit detail).spar = s.spar := by
  simp [raiseEmcy]
@[simp] theorem raiseEmcy_ee (s : State) (code : Nat) (unit : Byte) (detail : Bytes) : (raiseEmcy s code unit detail).ee = s.ee := by
  simp [raiseEmcy]
@[simp] theorem raiseEmcy_csc (s : State) (code : Nat) (unit : Byte) (detail : Bytes) : (raiseEmcy s code unit detail).csc = s.csc := by
  simp [raiseEmcy]
@[simp] theorem raiseEmcy_mast (s : State) (code : Nat) (unit : Byte) (detail : Bytes) : (raiseEmcy s code unit detail).mast = s.mast := by
  simp [raiseEmcy]
@[simp] theorem raiseEmcy_trim (s : State) (code : Nat) (unit : Byte) (detail : Bytes) : (raiseEmcy s code unit detail).trim = s.trim := by
  simp [raiseEmcy]
@[simp] theorem raiseEmcy_tw (s : State) (code : Nat) (unit : Byte) (detail : Bytes) : (raiseEmcy s code unit detail).tw = s.tw := by
  simp [raiseEmcy]
@[simp] theorem raiseEmcy_io (s : State) (code : Nat) (unit : Byte) (detail : Bytes) : (raiseEmcy s code unit detail).io = s.io := by
  simp [raiseEmcy]

@[simp] theorem errorReset_pending (s : State) (code : Nat) (unit : Byte) : (errorReset s code unit).pending = s.pending := by
  simp [errorReset]
@[simp] theorem errorReset_free (s : State) (code : Nat) (unit : Byte) : (errorReset s code unit).free = s.free := by
  simp [errorReset]
@[simp] theorem errorReset_out (s : State) (code : Nat) (unit : Byte) : (errorReset s code unit).out = s.out := by
  simp [errorReset]
@[simp] theorem errorReset_mem (s : State) (code : Nat) (unit : Byte) : (errorReset s code unit).mem = s.mem := by
  simp [errorReset]
@[simp] theorem errorReset_dev (s : State) (code : Nat) (unit : Byte) : (errorReset s code unit).dev = s.dev := by
  simp [errorReset]
@[simp] theorem errorReset_boot (s : State) (code : Nat) (unit : Byte) : (errorReset s code unit).boot = s.boot := by
  simp [errorReset]
@[simp] theorem errorReset_otp (s : State) (code : Nat) (unit : Byte) : (errorReset s code unit).otp = s.otp := by
  simp [errorReset]
@[simp] theorem errorReset_act (s : State) (code : Nat) (unit : Byte) : (errorReset s code unit).act = s.act := by
  simp [errorReset]
@[simp] theorem errorReset_reef (s : State) (code : Nat) (unit : Byte) : (errorReset s code unit).reef = s.reef := by
  simp [errorReset]
@[simp] theorem errorReset_pert (s : State) (code : Nat) (unit : Byte) : (errorReset s code unit).pert = s.pert := by
  simp [errorReset]
@[simp] theorem errorReset_cleatA (s : State) (code : Nat) (unit : Byte) : (errorReset s code unit).cleatA = s.cleatA := by
  simp [errorReset]
@[simp] theorem errorReset_cleatB (s : State) (code : Nat) (unit : Byte) : (errorReset s code unit).cleatB = s.cleatB := by
  simp [errorReset]
@[simp] theorem errorReset_cleatC (s : State) (code : Nat) (unit : Byte) : (errorReset s code unit).cleatC = s.cleatC := by
  simp [errorReset]
@[simp] theorem errorReset_cleatD (s : State) (code : Nat) (unit : Byte) : (errorReset s code unit).cleatD = s.cleatD := by
  simp [errorReset]
@[simp] theorem errorReset_health (s : State) (code : Nat) (unit : Byte) : (errorReset s code unit).health = s.health := by
  simp [errorReset]
@[simp] theorem errorReset_pht (s : State) (code : Nat) (unit : Byte) : (errorReset s code unit).pht = s.pht := by
  simp [errorReset]
@[simp] theorem errorReset_cap (s : State) (code : Nat) (unit : Byte) : (errorReset s code unit).cap = s.cap := by
  simp [errorReset]
@[simp] theorem errorReset_ddr (s : State) (code : Nat) (unit : Byte) : (errorReset s code unit).ddr = s.ddr := by
  simp [errorReset]
@[simp] theorem errorReset_pcie (s : State) (code : Nat) (unit : Byte) : (errorReset s code unit).pcie = s.pcie := by
  simp [errorReset]
@[simp] theorem errorReset_shl (s : State) (code : Nat) (unit : Byte) : (errorReset s code unit).shl = s.shl := by
  simp [errorReset]
@[simp] theorem errorReset_fab (s : State) (code : Nat) (unit : Byte) : (errorReset s code unit).fab = s.fab := by
  simp [errorReset]
@[simp] theorem errorReset_spar (s : State) (code : Nat) (unit : Byte) : (errorReset s code unit).spar = s.spar := by
  simp [errorReset]
@[simp] theorem errorReset_ee (s : State) (code : Nat) (unit : Byte) : (errorReset s code unit).ee = s.ee := by
  simp [errorReset]
@[simp] theorem errorReset_csc (s : State) (code : Nat) (unit : Byte) : (errorReset s code unit).csc = s.csc := by
  simp [errorReset]
@[simp] theorem errorReset_mast (s : State) (code : Nat) (unit : Byte) : (errorReset s code unit).mast = s.mast := by
  simp [errorReset]
@[simp] theorem errorReset_trim (s : State) (code : Nat) (unit : Byte) : (errorReset s code unit).trim = s.trim := by
  simp [errorReset]
@[simp] theorem errorReset_tw (s : State) (code : Nat) (unit : Byte) : (errorReset s code unit).tw = s.tw := by
  simp [errorReset]
@[simp] theorem errorReset_io (s : State) (code : Nat) (unit : Byte) : (errorReset s code unit).io = s.io := by
  simp [errorReset]

@[simp] theorem raiseStanding_pending (s : State) (code : Nat) (unit : Byte) (key : Nat) (detail : Bytes) : (raiseStanding s code unit key detail).pending = s.pending := by
  unfold raiseStanding; split <;> simp
@[simp] theorem raiseStanding_free (s : State) (code : Nat) (unit : Byte) (key : Nat) (detail : Bytes) : (raiseStanding s code unit key detail).free = s.free := by
  unfold raiseStanding; split <;> simp
@[simp] theorem raiseStanding_out (s : State) (code : Nat) (unit : Byte) (key : Nat) (detail : Bytes) : (raiseStanding s code unit key detail).out = s.out := by
  unfold raiseStanding; split <;> simp
@[simp] theorem raiseStanding_mem (s : State) (code : Nat) (unit : Byte) (key : Nat) (detail : Bytes) : (raiseStanding s code unit key detail).mem = s.mem := by
  unfold raiseStanding; split <;> simp
@[simp] theorem raiseStanding_dev (s : State) (code : Nat) (unit : Byte) (key : Nat) (detail : Bytes) : (raiseStanding s code unit key detail).dev = s.dev := by
  unfold raiseStanding; split <;> simp
@[simp] theorem raiseStanding_boot (s : State) (code : Nat) (unit : Byte) (key : Nat) (detail : Bytes) : (raiseStanding s code unit key detail).boot = s.boot := by
  unfold raiseStanding; split <;> simp
@[simp] theorem raiseStanding_otp (s : State) (code : Nat) (unit : Byte) (key : Nat) (detail : Bytes) : (raiseStanding s code unit key detail).otp = s.otp := by
  unfold raiseStanding; split <;> simp
@[simp] theorem raiseStanding_act (s : State) (code : Nat) (unit : Byte) (key : Nat) (detail : Bytes) : (raiseStanding s code unit key detail).act = s.act := by
  unfold raiseStanding; split <;> simp
@[simp] theorem raiseStanding_reef (s : State) (code : Nat) (unit : Byte) (key : Nat) (detail : Bytes) : (raiseStanding s code unit key detail).reef = s.reef := by
  unfold raiseStanding; split <;> simp
@[simp] theorem raiseStanding_pert (s : State) (code : Nat) (unit : Byte) (key : Nat) (detail : Bytes) : (raiseStanding s code unit key detail).pert = s.pert := by
  unfold raiseStanding; split <;> simp
@[simp] theorem raiseStanding_cleatA (s : State) (code : Nat) (unit : Byte) (key : Nat) (detail : Bytes) : (raiseStanding s code unit key detail).cleatA = s.cleatA := by
  unfold raiseStanding; split <;> simp
@[simp] theorem raiseStanding_cleatB (s : State) (code : Nat) (unit : Byte) (key : Nat) (detail : Bytes) : (raiseStanding s code unit key detail).cleatB = s.cleatB := by
  unfold raiseStanding; split <;> simp
@[simp] theorem raiseStanding_cleatC (s : State) (code : Nat) (unit : Byte) (key : Nat) (detail : Bytes) : (raiseStanding s code unit key detail).cleatC = s.cleatC := by
  unfold raiseStanding; split <;> simp
@[simp] theorem raiseStanding_cleatD (s : State) (code : Nat) (unit : Byte) (key : Nat) (detail : Bytes) : (raiseStanding s code unit key detail).cleatD = s.cleatD := by
  unfold raiseStanding; split <;> simp
@[simp] theorem raiseStanding_pht (s : State) (code : Nat) (unit : Byte) (key : Nat) (detail : Bytes) : (raiseStanding s code unit key detail).pht = s.pht := by
  unfold raiseStanding; split <;> simp
@[simp] theorem raiseStanding_cap (s : State) (code : Nat) (unit : Byte) (key : Nat) (detail : Bytes) : (raiseStanding s code unit key detail).cap = s.cap := by
  unfold raiseStanding; split <;> simp
@[simp] theorem raiseStanding_ddr (s : State) (code : Nat) (unit : Byte) (key : Nat) (detail : Bytes) : (raiseStanding s code unit key detail).ddr = s.ddr := by
  unfold raiseStanding; split <;> simp
@[simp] theorem raiseStanding_pcie (s : State) (code : Nat) (unit : Byte) (key : Nat) (detail : Bytes) : (raiseStanding s code unit key detail).pcie = s.pcie := by
  unfold raiseStanding; split <;> simp
@[simp] theorem raiseStanding_shl (s : State) (code : Nat) (unit : Byte) (key : Nat) (detail : Bytes) : (raiseStanding s code unit key detail).shl = s.shl := by
  unfold raiseStanding; split <;> simp
@[simp] theorem raiseStanding_fab (s : State) (code : Nat) (unit : Byte) (key : Nat) (detail : Bytes) : (raiseStanding s code unit key detail).fab = s.fab := by
  unfold raiseStanding; split <;> simp
@[simp] theorem raiseStanding_spar (s : State) (code : Nat) (unit : Byte) (key : Nat) (detail : Bytes) : (raiseStanding s code unit key detail).spar = s.spar := by
  unfold raiseStanding; split <;> simp
@[simp] theorem raiseStanding_ee (s : State) (code : Nat) (unit : Byte) (key : Nat) (detail : Bytes) : (raiseStanding s code unit key detail).ee = s.ee := by
  unfold raiseStanding; split <;> simp
@[simp] theorem raiseStanding_csc (s : State) (code : Nat) (unit : Byte) (key : Nat) (detail : Bytes) : (raiseStanding s code unit key detail).csc = s.csc := by
  unfold raiseStanding; split <;> simp
@[simp] theorem raiseStanding_mast (s : State) (code : Nat) (unit : Byte) (key : Nat) (detail : Bytes) : (raiseStanding s code unit key detail).mast = s.mast := by
  unfold raiseStanding; split <;> simp
@[simp] theorem raiseStanding_trim (s : State) (code : Nat) (unit : Byte) (key : Nat) (detail : Bytes) : (raiseStanding s code unit key detail).trim = s.trim := by
  unfold raiseStanding; split <;> simp
@[simp] theorem raiseStanding_tw (s : State) (code : Nat) (unit : Byte) (key : Nat) (detail : Bytes) : (raiseStanding s code unit key detail).tw = s.tw := by
  unfold raiseStanding; split <;> simp
@[simp] theorem raiseStanding_io (s : State) (code : Nat) (unit : Byte) (key : Nat) (detail : Bytes) : (raiseStanding s code unit key detail).io = s.io := by
  unfold raiseStanding; split <;> simp

@[simp] theorem clearStanding_pending (s : State) (code key : Nat) : (clearStanding s code key).pending = s.pending := by
  unfold clearStanding; split <;> simp
@[simp] theorem clearStanding_free (s : State) (code key : Nat) : (clearStanding s code key).free = s.free := by
  unfold clearStanding; split <;> simp
@[simp] theorem clearStanding_out (s : State) (code key : Nat) : (clearStanding s code key).out = s.out := by
  unfold clearStanding; split <;> simp
@[simp] theorem clearStanding_mem (s : State) (code key : Nat) : (clearStanding s code key).mem = s.mem := by
  unfold clearStanding; split <;> simp
@[simp] theorem clearStanding_dev (s : State) (code key : Nat) : (clearStanding s code key).dev = s.dev := by
  unfold clearStanding; split <;> simp
@[simp] theorem clearStanding_boot (s : State) (code key : Nat) : (clearStanding s code key).boot = s.boot := by
  unfold clearStanding; split <;> simp
@[simp] theorem clearStanding_otp (s : State) (code key : Nat) : (clearStanding s code key).otp = s.otp := by
  unfold clearStanding; split <;> simp
@[simp] theorem clearStanding_act (s : State) (code key : Nat) : (clearStanding s code key).act = s.act := by
  unfold clearStanding; split <;> simp
@[simp] theorem clearStanding_reef (s : State) (code key : Nat) : (clearStanding s code key).reef = s.reef := by
  unfold clearStanding; split <;> simp
@[simp] theorem clearStanding_pert (s : State) (code key : Nat) : (clearStanding s code key).pert = s.pert := by
  unfold clearStanding; split <;> simp
@[simp] theorem clearStanding_cleatA (s : State) (code key : Nat) : (clearStanding s code key).cleatA = s.cleatA := by
  unfold clearStanding; split <;> simp
@[simp] theorem clearStanding_cleatB (s : State) (code key : Nat) : (clearStanding s code key).cleatB = s.cleatB := by
  unfold clearStanding; split <;> simp
@[simp] theorem clearStanding_cleatC (s : State) (code key : Nat) : (clearStanding s code key).cleatC = s.cleatC := by
  unfold clearStanding; split <;> simp
@[simp] theorem clearStanding_cleatD (s : State) (code key : Nat) : (clearStanding s code key).cleatD = s.cleatD := by
  unfold clearStanding; split <;> simp
@[simp] theorem clearStanding_pht (s : State) (code key : Nat) : (clearStanding s code key).pht = s.pht := by
  unfold clearStanding; split <;> simp
@[simp] theorem clearStanding_cap (s : State) (code key : Nat) : (clearStanding s code key).cap = s.cap := by
  unfold clearStanding; split <;> simp
@[simp] theorem clearStanding_ddr (s : State) (code key : Nat) : (clearStanding s code key).ddr = s.ddr := by
  unfold clearStanding; split <;> simp
@[simp] theorem clearStanding_pcie (s : State) (code key : Nat) : (clearStanding s code key).pcie = s.pcie := by
  unfold clearStanding; split <;> simp
@[simp] theorem clearStanding_shl (s : State) (code key : Nat) : (clearStanding s code key).shl = s.shl := by
  unfold clearStanding; split <;> simp
@[simp] theorem clearStanding_fab (s : State) (code key : Nat) : (clearStanding s code key).fab = s.fab := by
  unfold clearStanding; split <;> simp
@[simp] theorem clearStanding_spar (s : State) (code key : Nat) : (clearStanding s code key).spar = s.spar := by
  unfold clearStanding; split <;> simp
@[simp] theorem clearStanding_ee (s : State) (code key : Nat) : (clearStanding s code key).ee = s.ee := by
  unfold clearStanding; split <;> simp
@[simp] theorem clearStanding_csc (s : State) (code key : Nat) : (clearStanding s code key).csc = s.csc := by
  unfold clearStanding; split <;> simp
@[simp] theorem clearStanding_mast (s : State) (code key : Nat) : (clearStanding s code key).mast = s.mast := by
  unfold clearStanding; split <;> simp
@[simp] theorem clearStanding_trim (s : State) (code key : Nat) : (clearStanding s code key).trim = s.trim := by
  unfold clearStanding; split <;> simp
@[simp] theorem clearStanding_tw (s : State) (code key : Nat) : (clearStanding s code key).tw = s.tw := by
  unfold clearStanding; split <;> simp
@[simp] theorem clearStanding_io (s : State) (code key : Nat) : (clearStanding s code key).io = s.io := by
  unfold clearStanding; split <;> simp

@[simp] theorem raiseLimited_pending (s : State) (code key : Nat) (unit : Byte) (detail : Bytes) : (raiseLimited s code key unit detail).pending = s.pending := by
  unfold raiseLimited; split <;> simp
@[simp] theorem raiseLimited_free (s : State) (code key : Nat) (unit : Byte) (detail : Bytes) : (raiseLimited s code key unit detail).free = s.free := by
  unfold raiseLimited; split <;> simp
@[simp] theorem raiseLimited_out (s : State) (code key : Nat) (unit : Byte) (detail : Bytes) : (raiseLimited s code key unit detail).out = s.out := by
  unfold raiseLimited; split <;> simp
@[simp] theorem raiseLimited_mem (s : State) (code key : Nat) (unit : Byte) (detail : Bytes) : (raiseLimited s code key unit detail).mem = s.mem := by
  unfold raiseLimited; split <;> simp
@[simp] theorem raiseLimited_dev (s : State) (code key : Nat) (unit : Byte) (detail : Bytes) : (raiseLimited s code key unit detail).dev = s.dev := by
  unfold raiseLimited; split <;> simp
@[simp] theorem raiseLimited_boot (s : State) (code key : Nat) (unit : Byte) (detail : Bytes) : (raiseLimited s code key unit detail).boot = s.boot := by
  unfold raiseLimited; split <;> simp
@[simp] theorem raiseLimited_otp (s : State) (code key : Nat) (unit : Byte) (detail : Bytes) : (raiseLimited s code key unit detail).otp = s.otp := by
  unfold raiseLimited; split <;> simp
@[simp] theorem raiseLimited_act (s : State) (code key : Nat) (unit : Byte) (detail : Bytes) : (raiseLimited s code key unit detail).act = s.act := by
  unfold raiseLimited; split <;> simp
@[simp] theorem raiseLimited_reef (s : State) (code key : Nat) (unit : Byte) (detail : Bytes) : (raiseLimited s code key unit detail).reef = s.reef := by
  unfold raiseLimited; split <;> simp
@[simp] theorem raiseLimited_pert (s : State) (code key : Nat) (unit : Byte) (detail : Bytes) : (raiseLimited s code key unit detail).pert = s.pert := by
  unfold raiseLimited; split <;> simp
@[simp] theorem raiseLimited_cleatA (s : State) (code key : Nat) (unit : Byte) (detail : Bytes) : (raiseLimited s code key unit detail).cleatA = s.cleatA := by
  unfold raiseLimited; split <;> simp
@[simp] theorem raiseLimited_cleatB (s : State) (code key : Nat) (unit : Byte) (detail : Bytes) : (raiseLimited s code key unit detail).cleatB = s.cleatB := by
  unfold raiseLimited; split <;> simp
@[simp] theorem raiseLimited_cleatC (s : State) (code key : Nat) (unit : Byte) (detail : Bytes) : (raiseLimited s code key unit detail).cleatC = s.cleatC := by
  unfold raiseLimited; split <;> simp
@[simp] theorem raiseLimited_cleatD (s : State) (code key : Nat) (unit : Byte) (detail : Bytes) : (raiseLimited s code key unit detail).cleatD = s.cleatD := by
  unfold raiseLimited; split <;> simp
@[simp] theorem raiseLimited_pht (s : State) (code key : Nat) (unit : Byte) (detail : Bytes) : (raiseLimited s code key unit detail).pht = s.pht := by
  unfold raiseLimited; split <;> simp
@[simp] theorem raiseLimited_cap (s : State) (code key : Nat) (unit : Byte) (detail : Bytes) : (raiseLimited s code key unit detail).cap = s.cap := by
  unfold raiseLimited; split <;> simp
@[simp] theorem raiseLimited_ddr (s : State) (code key : Nat) (unit : Byte) (detail : Bytes) : (raiseLimited s code key unit detail).ddr = s.ddr := by
  unfold raiseLimited; split <;> simp
@[simp] theorem raiseLimited_pcie (s : State) (code key : Nat) (unit : Byte) (detail : Bytes) : (raiseLimited s code key unit detail).pcie = s.pcie := by
  unfold raiseLimited; split <;> simp
@[simp] theorem raiseLimited_shl (s : State) (code key : Nat) (unit : Byte) (detail : Bytes) : (raiseLimited s code key unit detail).shl = s.shl := by
  unfold raiseLimited; split <;> simp
@[simp] theorem raiseLimited_fab (s : State) (code key : Nat) (unit : Byte) (detail : Bytes) : (raiseLimited s code key unit detail).fab = s.fab := by
  unfold raiseLimited; split <;> simp
@[simp] theorem raiseLimited_spar (s : State) (code key : Nat) (unit : Byte) (detail : Bytes) : (raiseLimited s code key unit detail).spar = s.spar := by
  unfold raiseLimited; split <;> simp
@[simp] theorem raiseLimited_ee (s : State) (code key : Nat) (unit : Byte) (detail : Bytes) : (raiseLimited s code key unit detail).ee = s.ee := by
  unfold raiseLimited; split <;> simp
@[simp] theorem raiseLimited_csc (s : State) (code key : Nat) (unit : Byte) (detail : Bytes) : (raiseLimited s code key unit detail).csc = s.csc := by
  unfold raiseLimited; split <;> simp
@[simp] theorem raiseLimited_mast (s : State) (code key : Nat) (unit : Byte) (detail : Bytes) : (raiseLimited s code key unit detail).mast = s.mast := by
  unfold raiseLimited; split <;> simp
@[simp] theorem raiseLimited_trim (s : State) (code key : Nat) (unit : Byte) (detail : Bytes) : (raiseLimited s code key unit detail).trim = s.trim := by
  unfold raiseLimited; split <;> simp
@[simp] theorem raiseLimited_tw (s : State) (code key : Nat) (unit : Byte) (detail : Bytes) : (raiseLimited s code key unit detail).tw = s.tw := by
  unfold raiseLimited; split <;> simp
@[simp] theorem raiseLimited_io (s : State) (code key : Nat) (unit : Byte) (detail : Bytes) : (raiseLimited s code key unit detail).io = s.io := by
  unfold raiseLimited; split <;> simp

/-! ## Access checks, Cleat C (R29, R518) -/

@[simp] theorem actDeny_pending (s : State) (init acc entry a : Nat) : (actDeny s init acc entry a).pending = s.pending := by
  simp [actDeny]
@[simp] theorem actDeny_free (s : State) (init acc entry a : Nat) : (actDeny s init acc entry a).free = s.free := by
  simp [actDeny]
@[simp] theorem actDeny_out (s : State) (init acc entry a : Nat) : (actDeny s init acc entry a).out = s.out := by
  simp [actDeny]
@[simp] theorem actDeny_mem (s : State) (init acc entry a : Nat) : (actDeny s init acc entry a).mem = s.mem := by
  simp [actDeny]
@[simp] theorem actDeny_dev (s : State) (init acc entry a : Nat) : (actDeny s init acc entry a).dev = s.dev := by
  simp [actDeny]
@[simp] theorem actDeny_boot (s : State) (init acc entry a : Nat) : (actDeny s init acc entry a).boot = s.boot := by
  simp [actDeny]
@[simp] theorem actDeny_otp (s : State) (init acc entry a : Nat) : (actDeny s init acc entry a).otp = s.otp := by
  simp [actDeny]
@[simp] theorem actDeny_reef (s : State) (init acc entry a : Nat) : (actDeny s init acc entry a).reef = s.reef := by
  simp [actDeny]
@[simp] theorem actDeny_pert (s : State) (init acc entry a : Nat) : (actDeny s init acc entry a).pert = s.pert := by
  simp [actDeny]
@[simp] theorem actDeny_cleatA (s : State) (init acc entry a : Nat) : (actDeny s init acc entry a).cleatA = s.cleatA := by
  simp [actDeny]
@[simp] theorem actDeny_cleatB (s : State) (init acc entry a : Nat) : (actDeny s init acc entry a).cleatB = s.cleatB := by
  simp [actDeny]
@[simp] theorem actDeny_cleatC (s : State) (init acc entry a : Nat) : (actDeny s init acc entry a).cleatC = s.cleatC := by
  simp [actDeny]
@[simp] theorem actDeny_cleatD (s : State) (init acc entry a : Nat) : (actDeny s init acc entry a).cleatD = s.cleatD := by
  simp [actDeny]
@[simp] theorem actDeny_pht (s : State) (init acc entry a : Nat) : (actDeny s init acc entry a).pht = s.pht := by
  simp [actDeny]
@[simp] theorem actDeny_cap (s : State) (init acc entry a : Nat) : (actDeny s init acc entry a).cap = s.cap := by
  simp [actDeny]
@[simp] theorem actDeny_ddr (s : State) (init acc entry a : Nat) : (actDeny s init acc entry a).ddr = s.ddr := by
  simp [actDeny]
@[simp] theorem actDeny_pcie (s : State) (init acc entry a : Nat) : (actDeny s init acc entry a).pcie = s.pcie := by
  simp [actDeny]
@[simp] theorem actDeny_shl (s : State) (init acc entry a : Nat) : (actDeny s init acc entry a).shl = s.shl := by
  simp [actDeny]
@[simp] theorem actDeny_fab (s : State) (init acc entry a : Nat) : (actDeny s init acc entry a).fab = s.fab := by
  simp [actDeny]
@[simp] theorem actDeny_spar (s : State) (init acc entry a : Nat) : (actDeny s init acc entry a).spar = s.spar := by
  simp [actDeny]
@[simp] theorem actDeny_ee (s : State) (init acc entry a : Nat) : (actDeny s init acc entry a).ee = s.ee := by
  simp [actDeny]
@[simp] theorem actDeny_csc (s : State) (init acc entry a : Nat) : (actDeny s init acc entry a).csc = s.csc := by
  simp [actDeny]
@[simp] theorem actDeny_mast (s : State) (init acc entry a : Nat) : (actDeny s init acc entry a).mast = s.mast := by
  simp [actDeny]
@[simp] theorem actDeny_trim (s : State) (init acc entry a : Nat) : (actDeny s init acc entry a).trim = s.trim := by
  simp [actDeny]
@[simp] theorem actDeny_tw (s : State) (init acc entry a : Nat) : (actDeny s init acc entry a).tw = s.tw := by
  simp [actDeny]
@[simp] theorem actDeny_io (s : State) (init acc entry a : Nat) : (actDeny s init acc entry a).io = s.io := by
  simp [actDeny]

@[simp] theorem cleatCPut_pending (s : State) (r : Report) : (cleatCPut s r).pending = s.pending := by
  unfold cleatCPut; split <;> rfl
@[simp] theorem cleatCPut_free (s : State) (r : Report) : (cleatCPut s r).free = s.free := by
  unfold cleatCPut; split <;> rfl
@[simp] theorem cleatCPut_out (s : State) (r : Report) : (cleatCPut s r).out = s.out := by
  unfold cleatCPut; split <;> rfl
@[simp] theorem cleatCPut_mem (s : State) (r : Report) : (cleatCPut s r).mem = s.mem := by
  unfold cleatCPut; split <;> rfl
@[simp] theorem cleatCPut_dev (s : State) (r : Report) : (cleatCPut s r).dev = s.dev := by
  unfold cleatCPut; split <;> rfl
@[simp] theorem cleatCPut_boot (s : State) (r : Report) : (cleatCPut s r).boot = s.boot := by
  unfold cleatCPut; split <;> rfl
@[simp] theorem cleatCPut_otp (s : State) (r : Report) : (cleatCPut s r).otp = s.otp := by
  unfold cleatCPut; split <;> rfl
@[simp] theorem cleatCPut_act (s : State) (r : Report) : (cleatCPut s r).act = s.act := by
  unfold cleatCPut; split <;> rfl
@[simp] theorem cleatCPut_reef (s : State) (r : Report) : (cleatCPut s r).reef = s.reef := by
  unfold cleatCPut; split <;> rfl
@[simp] theorem cleatCPut_pert (s : State) (r : Report) : (cleatCPut s r).pert = s.pert := by
  unfold cleatCPut; split <;> rfl
@[simp] theorem cleatCPut_cleatA (s : State) (r : Report) : (cleatCPut s r).cleatA = s.cleatA := by
  unfold cleatCPut; split <;> rfl
@[simp] theorem cleatCPut_cleatB (s : State) (r : Report) : (cleatCPut s r).cleatB = s.cleatB := by
  unfold cleatCPut; split <;> rfl
@[simp] theorem cleatCPut_cleatD (s : State) (r : Report) : (cleatCPut s r).cleatD = s.cleatD := by
  unfold cleatCPut; split <;> rfl
@[simp] theorem cleatCPut_health (s : State) (r : Report) : (cleatCPut s r).health = s.health := by
  unfold cleatCPut; split <;> rfl
@[simp] theorem cleatCPut_pht (s : State) (r : Report) : (cleatCPut s r).pht = s.pht := by
  unfold cleatCPut; split <;> rfl
@[simp] theorem cleatCPut_node (s : State) (r : Report) : (cleatCPut s r).node = s.node := by
  unfold cleatCPut; split <;> rfl
@[simp] theorem cleatCPut_cap (s : State) (r : Report) : (cleatCPut s r).cap = s.cap := by
  unfold cleatCPut; split <;> rfl
@[simp] theorem cleatCPut_ddr (s : State) (r : Report) : (cleatCPut s r).ddr = s.ddr := by
  unfold cleatCPut; split <;> rfl
@[simp] theorem cleatCPut_pcie (s : State) (r : Report) : (cleatCPut s r).pcie = s.pcie := by
  unfold cleatCPut; split <;> rfl
@[simp] theorem cleatCPut_shl (s : State) (r : Report) : (cleatCPut s r).shl = s.shl := by
  unfold cleatCPut; split <;> rfl
@[simp] theorem cleatCPut_fab (s : State) (r : Report) : (cleatCPut s r).fab = s.fab := by
  unfold cleatCPut; split <;> rfl
@[simp] theorem cleatCPut_spar (s : State) (r : Report) : (cleatCPut s r).spar = s.spar := by
  unfold cleatCPut; split <;> rfl
@[simp] theorem cleatCPut_ee (s : State) (r : Report) : (cleatCPut s r).ee = s.ee := by
  unfold cleatCPut; split <;> rfl
@[simp] theorem cleatCPut_csc (s : State) (r : Report) : (cleatCPut s r).csc = s.csc := by
  unfold cleatCPut; split <;> rfl
@[simp] theorem cleatCPut_mast (s : State) (r : Report) : (cleatCPut s r).mast = s.mast := by
  unfold cleatCPut; split <;> rfl
@[simp] theorem cleatCPut_trim (s : State) (r : Report) : (cleatCPut s r).trim = s.trim := by
  unfold cleatCPut; split <;> rfl
@[simp] theorem cleatCPut_tw (s : State) (r : Report) : (cleatCPut s r).tw = s.tw := by
  unfold cleatCPut; split <;> rfl
@[simp] theorem cleatCPut_io (s : State) (r : Report) : (cleatCPut s r).io = s.io := by
  unfold cleatCPut; split <;> rfl

/-- A denied transaction changes the ACT's log, the health record and the node only. -/
theorem actCheck_fields {s t : State} {init acc a n : Nat} (h : actCheck s init acc a n = some t) :
    t.mem = s.mem ∧ t.reef = s.reef ∧ t.cap = s.cap ∧ t.mast = s.mast ∧ t.dev = s.dev ∧ t.cleatD = s.cleatD ∧
    t.act.denials = s.act.denials + 1 := by
  have key : ∀ k b, (actDeny s init acc k b).act.denials = s.act.denials + 1 := fun k b => by simp [actDeny]
  unfold actCheck at h
  split at h
  · obtain rfl := Option.some.inj h
    exact ⟨by simp, by simp, by simp, by simp, by simp, by simp, key ..⟩
  · split at h
    · cases h
    · obtain rfl := Option.some.inj h
      exact ⟨by simp, by simp, by simp, by simp, by simp, by simp, key ..⟩

/-- A checked read changes no memory. -/
theorem ramRead_mem (s : State) (init a n : Nat) : (ramRead s init a n).2.mem = s.mem := by
  unfold ramRead
  split
  · rfl
  · split
    · next h => exact (actCheck_fields h).1
    · split <;> rfl

/-- A checked write keeps memory canonical, whether it is refused or not. -/
theorem ramWrite_keeps (s : State) (init a : Nat) (bs : Bytes) (hw : Tbl.wf memDflt s.mem = true) :
    Tbl.wf memDflt (ramWrite s init a bs).2.mem = true := by
  unfold ramWrite
  split
  · exact hw
  · split
    · next h => rw [(actCheck_fields h).1]; exact hw
    · split
      · exact hw
      · simpa using memWriteN_wf a bs hw

/-! ## Cleat A (R16 to R20) -/

theorem toLE_length (n v : Nat) : (toLE n v).length = n := by
  induction n generalizing v with
  | zero => rfl
  | succ n ih => simp [toLE, ih]

@[simp] theorem m2cSend_pending (s : State) (m : Msg) : (m2cSend s m).pending = s.pending := by
  unfold m2cSend m2cPut; dsimp only; split
  · split
    · next h => split at h <;> simp at h; rw [← h]
    · rfl
  · rfl
@[simp] theorem m2cSend_free (s : State) (m : Msg) : (m2cSend s m).free = s.free := by
  unfold m2cSend m2cPut; dsimp only; split
  · split
    · next h => split at h <;> simp at h; rw [← h]
    · rfl
  · rfl
@[simp] theorem m2cSend_out (s : State) (m : Msg) : (m2cSend s m).out = s.out := by
  unfold m2cSend m2cPut; dsimp only; split
  · split
    · next h => split at h <;> simp at h; rw [← h]
    · rfl
  · rfl
@[simp] theorem m2cSend_dev (s : State) (m : Msg) : (m2cSend s m).dev = s.dev := by
  unfold m2cSend m2cPut; dsimp only; split
  · split
    · next h => split at h <;> simp at h; rw [← h]
    · rfl
  · rfl
@[simp] theorem m2cSend_boot (s : State) (m : Msg) : (m2cSend s m).boot = s.boot := by
  unfold m2cSend m2cPut; dsimp only; split
  · split
    · next h => split at h <;> simp at h; rw [← h]
    · rfl
  · rfl
@[simp] theorem m2cSend_otp (s : State) (m : Msg) : (m2cSend s m).otp = s.otp := by
  unfold m2cSend m2cPut; dsimp only; split
  · split
    · next h => split at h <;> simp at h; rw [← h]
    · rfl
  · rfl
@[simp] theorem m2cSend_act (s : State) (m : Msg) : (m2cSend s m).act = s.act := by
  unfold m2cSend m2cPut; dsimp only; split
  · split
    · next h => split at h <;> simp at h; rw [← h]
    · rfl
  · rfl
@[simp] theorem m2cSend_reef (s : State) (m : Msg) : (m2cSend s m).reef = s.reef := by
  unfold m2cSend m2cPut; dsimp only; split
  · split
    · next h => split at h <;> simp at h; rw [← h]
    · rfl
  · rfl
@[simp] theorem m2cSend_pert (s : State) (m : Msg) : (m2cSend s m).pert = s.pert := by
  unfold m2cSend m2cPut; dsimp only; split
  · split
    · next h => split at h <;> simp at h; rw [← h]
    · rfl
  · rfl
@[simp] theorem m2cSend_cleatB (s : State) (m : Msg) : (m2cSend s m).cleatB = s.cleatB := by
  unfold m2cSend m2cPut; dsimp only; split
  · split
    · next h => split at h <;> simp at h; rw [← h]
    · rfl
  · rfl
@[simp] theorem m2cSend_cleatC (s : State) (m : Msg) : (m2cSend s m).cleatC = s.cleatC := by
  unfold m2cSend m2cPut; dsimp only; split
  · split
    · next h => split at h <;> simp at h; rw [← h]
    · rfl
  · rfl
@[simp] theorem m2cSend_cleatD (s : State) (m : Msg) : (m2cSend s m).cleatD = s.cleatD := by
  unfold m2cSend m2cPut; dsimp only; split
  · split
    · next h => split at h <;> simp at h; rw [← h]
    · rfl
  · rfl
@[simp] theorem m2cSend_health (s : State) (m : Msg) : (m2cSend s m).health = s.health := by
  unfold m2cSend m2cPut; dsimp only; split
  · split
    · next h => split at h <;> simp at h; rw [← h]
    · rfl
  · rfl
@[simp] theorem m2cSend_pht (s : State) (m : Msg) : (m2cSend s m).pht = s.pht := by
  unfold m2cSend m2cPut; dsimp only; split
  · split
    · next h => split at h <;> simp at h; rw [← h]
    · rfl
  · rfl
@[simp] theorem m2cSend_node (s : State) (m : Msg) : (m2cSend s m).node = s.node := by
  unfold m2cSend m2cPut; dsimp only; split
  · split
    · next h => split at h <;> simp at h; rw [← h]
    · rfl
  · rfl
@[simp] theorem m2cSend_cap (s : State) (m : Msg) : (m2cSend s m).cap = s.cap := by
  unfold m2cSend m2cPut; dsimp only; split
  · split
    · next h => split at h <;> simp at h; rw [← h]
    · rfl
  · rfl
@[simp] theorem m2cSend_ddr (s : State) (m : Msg) : (m2cSend s m).ddr = s.ddr := by
  unfold m2cSend m2cPut; dsimp only; split
  · split
    · next h => split at h <;> simp at h; rw [← h]
    · rfl
  · rfl
@[simp] theorem m2cSend_pcie (s : State) (m : Msg) : (m2cSend s m).pcie = s.pcie := by
  unfold m2cSend m2cPut; dsimp only; split
  · split
    · next h => split at h <;> simp at h; rw [← h]
    · rfl
  · rfl
@[simp] theorem m2cSend_shl (s : State) (m : Msg) : (m2cSend s m).shl = s.shl := by
  unfold m2cSend m2cPut; dsimp only; split
  · split
    · next h => split at h <;> simp at h; rw [← h]
    · rfl
  · rfl
@[simp] theorem m2cSend_fab (s : State) (m : Msg) : (m2cSend s m).fab = s.fab := by
  unfold m2cSend m2cPut; dsimp only; split
  · split
    · next h => split at h <;> simp at h; rw [← h]
    · rfl
  · rfl
@[simp] theorem m2cSend_spar (s : State) (m : Msg) : (m2cSend s m).spar = s.spar := by
  unfold m2cSend m2cPut; dsimp only; split
  · split
    · next h => split at h <;> simp at h; rw [← h]
    · rfl
  · rfl
@[simp] theorem m2cSend_ee (s : State) (m : Msg) : (m2cSend s m).ee = s.ee := by
  unfold m2cSend m2cPut; dsimp only; split
  · split
    · next h => split at h <;> simp at h; rw [← h]
    · rfl
  · rfl
@[simp] theorem m2cSend_csc (s : State) (m : Msg) : (m2cSend s m).csc = s.csc := by
  unfold m2cSend m2cPut; dsimp only; split
  · split
    · next h => split at h <;> simp at h; rw [← h]
    · rfl
  · rfl
@[simp] theorem m2cSend_mast (s : State) (m : Msg) : (m2cSend s m).mast = s.mast := by
  unfold m2cSend m2cPut; dsimp only; split
  · split
    · next h => split at h <;> simp at h; rw [← h]
    · rfl
  · rfl
@[simp] theorem m2cSend_trim (s : State) (m : Msg) : (m2cSend s m).trim = s.trim := by
  unfold m2cSend m2cPut; dsimp only; split
  · split
    · next h => split at h <;> simp at h; rw [← h]
    · rfl
  · rfl
@[simp] theorem m2cSend_tw (s : State) (m : Msg) : (m2cSend s m).tw = s.tw := by
  unfold m2cSend m2cPut; dsimp only; split
  · split
    · next h => split at h <;> simp at h; rw [← h]
    · rfl
  · rfl
@[simp] theorem m2cSend_io (s : State) (m : Msg) : (m2cSend s m).io = s.io := by
  unfold m2cSend m2cPut; dsimp only; split
  · split
    · next h => split at h <;> simp at h; rw [← h]
    · rfl
  · rfl

@[simp] theorem notice_pending (s : State) (kind : Nat) (values : List Nat) : (notice s kind values).pending = s.pending := by
  unfold notice; split <;> simp
@[simp] theorem notice_free (s : State) (kind : Nat) (values : List Nat) : (notice s kind values).free = s.free := by
  unfold notice; split <;> simp
@[simp] theorem notice_dev (s : State) (kind : Nat) (values : List Nat) : (notice s kind values).dev = s.dev := by
  unfold notice; split <;> simp
@[simp] theorem notice_boot (s : State) (kind : Nat) (values : List Nat) : (notice s kind values).boot = s.boot := by
  unfold notice; split <;> simp
@[simp] theorem notice_otp (s : State) (kind : Nat) (values : List Nat) : (notice s kind values).otp = s.otp := by
  unfold notice; split <;> simp
@[simp] theorem notice_act (s : State) (kind : Nat) (values : List Nat) : (notice s kind values).act = s.act := by
  unfold notice; split <;> simp
@[simp] theorem notice_reef (s : State) (kind : Nat) (values : List Nat) : (notice s kind values).reef = s.reef := by
  unfold notice; split <;> simp
@[simp] theorem notice_pert (s : State) (kind : Nat) (values : List Nat) : (notice s kind values).pert = s.pert := by
  unfold notice; split <;> simp
@[simp] theorem notice_cleatB (s : State) (kind : Nat) (values : List Nat) : (notice s kind values).cleatB = s.cleatB := by
  unfold notice; split <;> simp
@[simp] theorem notice_cleatC (s : State) (kind : Nat) (values : List Nat) : (notice s kind values).cleatC = s.cleatC := by
  unfold notice; split <;> simp
@[simp] theorem notice_cleatD (s : State) (kind : Nat) (values : List Nat) : (notice s kind values).cleatD = s.cleatD := by
  unfold notice; split <;> simp
@[simp] theorem notice_health (s : State) (kind : Nat) (values : List Nat) : (notice s kind values).health = s.health := by
  unfold notice; split <;> simp
@[simp] theorem notice_pht (s : State) (kind : Nat) (values : List Nat) : (notice s kind values).pht = s.pht := by
  unfold notice; split <;> simp
@[simp] theorem notice_node (s : State) (kind : Nat) (values : List Nat) : (notice s kind values).node = s.node := by
  unfold notice; split <;> simp
@[simp] theorem notice_cap (s : State) (kind : Nat) (values : List Nat) : (notice s kind values).cap = s.cap := by
  unfold notice; split <;> simp
@[simp] theorem notice_ddr (s : State) (kind : Nat) (values : List Nat) : (notice s kind values).ddr = s.ddr := by
  unfold notice; split <;> simp
@[simp] theorem notice_pcie (s : State) (kind : Nat) (values : List Nat) : (notice s kind values).pcie = s.pcie := by
  unfold notice; split <;> simp
@[simp] theorem notice_shl (s : State) (kind : Nat) (values : List Nat) : (notice s kind values).shl = s.shl := by
  unfold notice; split <;> simp
@[simp] theorem notice_fab (s : State) (kind : Nat) (values : List Nat) : (notice s kind values).fab = s.fab := by
  unfold notice; split <;> simp
@[simp] theorem notice_spar (s : State) (kind : Nat) (values : List Nat) : (notice s kind values).spar = s.spar := by
  unfold notice; split <;> simp
@[simp] theorem notice_ee (s : State) (kind : Nat) (values : List Nat) : (notice s kind values).ee = s.ee := by
  unfold notice; split <;> simp
@[simp] theorem notice_csc (s : State) (kind : Nat) (values : List Nat) : (notice s kind values).csc = s.csc := by
  unfold notice; split <;> simp
@[simp] theorem notice_mast (s : State) (kind : Nat) (values : List Nat) : (notice s kind values).mast = s.mast := by
  unfold notice; split <;> simp
@[simp] theorem notice_trim (s : State) (kind : Nat) (values : List Nat) : (notice s kind values).trim = s.trim := by
  unfold notice; split <;> simp
@[simp] theorem notice_tw (s : State) (kind : Nat) (values : List Nat) : (notice s kind values).tw = s.tw := by
  unfold notice; split <;> simp
@[simp] theorem notice_io (s : State) (kind : Nat) (values : List Nat) : (notice s kind values).io = s.io := by
  unfold notice; split <;> simp

/-- Sending a message keeps memory canonical. -/
theorem m2cSend_keeps (s : State) (m : Msg) (hw : Tbl.wf memDflt s.mem = true) :
    Tbl.wf memDflt (m2cSend s m).mem = true := by
  unfold m2cSend m2cPut
  dsimp only
  split
  · split
    · next h =>
      split at h <;> simp at h
      rw [← h]
      exact writeEntries_wf _ _ _ hw
    · exact hw
  · exact hw

theorem notice_keeps (s : State) (kind : Nat) (values : List Nat) (hw : Tbl.wf memDflt s.mem = true) :
    Tbl.wf memDflt (notice s kind values).mem = true := by
  unfold notice
  split
  · exact m2cSend_keeps _ _ (by simpa using hw)
  · exact hw

end Sys2Proof.Machine
end

