-- ==== Sys2Proof/Laws/Vec.lean ====
section
/-!
SUPPORT. Vectors: reading an element after vput or vmod.
-/

namespace Sys2Proof.Machine

variable {α : Type} {n : Nat}

@[simp] theorem vput_get_same (v : Vector α n) (i : Fin n) (x : α) : (vput v i x).get i = x := by
  simp [vput, Vector.get_eq_getElem]

theorem vput_get_other (v : Vector α n) {i j : Fin n} (x : α) (h : j ≠ i) : (vput v i x).get j = v.get j := by
  have : (i : Nat) ≠ j := fun e => h (Fin.ext e.symm)
  simp [vput, Vector.get_eq_getElem, Vector.getElem_set_ne, this]

theorem vput_get (v : Vector α n) (i j : Fin n) (x : α) :
    (vput v i x).get j = if j = i then x else v.get j := by
  split
  · next h => subst h; exact vput_get_same v j x
  · next h => exact vput_get_other v x h

@[simp] theorem vmod_get_same (v : Vector α n) (i : Fin n) (f : α → α) : (vmod v i f).get i = f (v.get i) :=
  vput_get_same v i _

theorem vmod_get_other (v : Vector α n) {i j : Fin n} (f : α → α) (h : j ≠ i) : (vmod v i f).get j = v.get j :=
  vput_get_other v _ h

theorem vmod_get (v : Vector α n) (i j : Fin n) (f : α → α) :
    (vmod v i f).get j = if j = i then f (v.get i) else v.get j := vput_get v i j _

@[simp] theorem vput_vput (v : Vector α n) (i : Fin n) (x y : α) : vput (vput v i x) i y = vput v i y := by
  simp [vput]

@[simp] theorem vput_self (v : Vector α n) (i : Fin n) : vput v i (v.get i) = v := by
  simp [vput, Vector.get_eq_getElem]

end Sys2Proof.Machine
end

