-- ==== Sys2Proof/Laws/Parts.lean ====
section
/-!
SUPPORT. The parts that many commands read and write: what reading a context, slot, core, hart, port, domain or
cache line gives after its update, and what a step on an empty queue is.
-/

namespace Sys2Proof.Machine

/-! ## Indexed parts -/

theorem coreOf_coreMod (s : State) (c d : CoreId) (f : SparCore → SparCore) :
    coreOf (coreMod s c f) d = if d = c then f (coreOf s c) else coreOf s d := vmod_get s.spar c d f

theorem hartOf_hartMod (s : State) (h g : HartId) (f : Hart → Hart) :
    hartOf (hartMod s h f) g = if g = h then f (hartOf s h) else hartOf s g := vmod_get s.mast.harts h g f

theorem twPort_twMod (s : State) (n m : TwId) (f : TwPort → TwPort) :
    twPort (twMod s n f) m = if m = n then f (twPort s n) else twPort s m := vmod_get s.tw n m f

theorem domOf_domMod (s : State) (d e : DomId) (f : DomRec → DomRec) :
    domOf (domMod s d f) e = if e = d then f (domOf s d) else domOf s e := vmod_get s.reef.doms d e f

@[simp] theorem hartOf_hartMod_same (s : State) (h : HartId) (f : Hart → Hart) :
    hartOf (hartMod s h f) h = f (hartOf s h) := by rw [hartOf_hartMod, if_pos rfl]

@[simp] theorem coreOf_coreMod_same (s : State) (c : CoreId) (f : SparCore → SparCore) :
    coreOf (coreMod s c f) c = f (coreOf s c) := by rw [coreOf_coreMod, if_pos rfl]

@[simp] theorem twPort_twMod_same (s : State) (n : TwId) (f : TwPort → TwPort) :
    twPort (twMod s n f) n = f (twPort s n) := by rw [twPort_twMod, if_pos rfl]

@[simp] theorem domOf_domMod_same (s : State) (d : DomId) (f : DomRec → DomRec) :
    domOf (domMod s d f) d = f (domOf s d) := by rw [domOf_domMod, if_pos rfl]

/-! ## Registers of a hart: x0 is zero and discards writes (R336) -/

@[simp] theorem Hart.getX_zero (x : Hart) : x.getX 0 = 0 := rfl

@[simp] theorem Hart.setX_zero (x : Hart) (v : W64) : x.setX 0 v = x := rfl

theorem Hart.getX_setX (x : Hart) (r q : Xr) (v : W64) :
    (x.setX r v).getX q = if q = 0 then 0 else if q = r then v else x.getX q := by
  unfold Hart.getX Hart.setX
  by_cases hr : r = 0
  · subst hr
    by_cases hq : q = 0 <;> simp [hq]
  · rw [if_neg hr]
    by_cases hq : q = 0
    · simp [hq]
    · simp [hq, vput_get]

@[simp] theorem Hart.getF_setX (x : Hart) (r q : Xr) (v : W64) : (x.setX r v).getF q = x.getF q := by
  unfold Hart.getF Hart.setX
  split <;> rfl

theorem Hart.getF_setF (x : Hart) (r q : Xr) (v : W64) :
    (x.setF r v).getF q = if q = r then v else x.getF q := vput_get x.f r q v

@[simp] theorem Hart.getX_setF (x : Hart) (r q : Xr) (v : W64) : (x.setF r v).getX q = x.getX q := rfl

/-! ## Contexts and slots (R138) -/

theorem capWf_ctxs {s : State} (h : s.capWf = true) : Tbl.wf (fun _ => Ctx.reset) s.cap.ctxs = true := by
  simp only [State.capWf, Bool.and_eq_true] at h
  exact h.1

theorem ctxOf_ctxPut {s : State} (n m : Nat) (c : Ctx) (h : s.capWf = true) :
    ctxOf (ctxPut s n c) m = if m = n then c else ctxOf s m := Tbl.read_write n m c (capWf_ctxs h)

theorem ctxPut_capWf {s : State} (n : Nat) (c : Ctx) (h : s.capWf = true) : (ctxPut s n c).capWf = true := by
  have h' := h
  simp only [State.capWf, Bool.and_eq_true] at h' ⊢
  exact ⟨Tbl.wf_write n c h'.1, h'.2⟩

theorem slotMod_capWf {s : State} (n k : Nat) (f : CapSlot → CapSlot) (h : s.capWf = true) :
    (slotMod s n k f).capWf = true := ctxPut_capWf n _ h

@[simp] theorem slotSet_length (c : Ctx) (k : Nat) (t : CapSlot) : (slotSet c k t).slots.length = c.slots.length := by
  simp [slotSet]

theorem slotAt_slotSet (c : Ctx) (k j : Nat) (t : CapSlot) :
    slotAt (slotSet c k t) j = if j = k ∧ k < c.slots.length then t else slotAt c j := by
  simp only [slotAt, slotSet, List.getD_eq_getElem?_getD, List.getElem?_set]
  split_ifs <;> simp_all

/-- A slot's record after it is changed; the other slots and contexts keep theirs. -/
theorem slotAt_slotMod {s : State} (n k m j : Nat) (f : CapSlot → CapSlot) (h : s.capWf = true)
    (hk : k < (ctxOf s n).slots.length) :
    slotAt (ctxOf (slotMod s n k f) m) j =
      if m = n ∧ j = k then f (slotAt (ctxOf s n) k) else slotAt (ctxOf s m) j := by
  unfold slotMod
  rw [ctxOf_ctxPut n m _ h]
  by_cases hm : m = n
  · subst hm
    simp [slotAt_slotSet, hk]
  · simp [hm]

/-- Every state a slot takes is one of the four of R138, and changing one slot keeps their number. -/
theorem slotMod_slots_length {s : State} (n k m : Nat) (f : CapSlot → CapSlot) (h : s.capWf = true) :
    (ctxOf (slotMod s n k f) m).slots.length = (ctxOf s m).slots.length := by
  unfold slotMod
  rw [ctxOf_ctxPut n m _ h]
  split
  · next hm => subst hm; simp
  · rfl

/-! ## Cache lines -/

theorem lineGet_linePut {s : State} (a b : Nat) (c : Option CLine) (h : s.cacheWf = true) :
    lineGet (linePut s a c) b = if b = a then c else lineGet s b := by
  simp only [State.cacheWf, Bool.and_eq_true] at h
  exact Tbl.read_write a b c h.1

/-! ## The step -/

/-- With no command waiting only the clock acts (log 4). -/
theorem step_idle {s : State} (h : s.pending = []) : step s = .next (idleTick s) := by
  unfold step
  rw [h]

/-- No word of the table spells a command. -/
@[simp] theorem withFetchWord_eq (s : State) (nbits w : Nat) : s.withFetchWord nbits w = s := rfl

end Sys2Proof.Machine
end

