-- ==== Sys2Proof/WellFormed.lean ====
section
/-!
DEFINITION. Which commands the outside can form: operands that the machine's senders or the board can only give
in a bounded range. A meaning does not rest on it: exec is total, and names what it does outside the range.
-/

namespace Sys2Proof

/-- A word of the mains ADC: two's complement of at most 24 bits (ch. 2, after R54). -/
def adcWord (x : Int) : Bool := decide (-8388608 ≤ x) && decide (x < 8388608)

/-- The command's operands lie in the ranges its sender can form: PHT inputs (R46, R47), transfer segments (R98 to R102),
flits (R402), two-wire bytes (R436 to R440), eight sensors (R480), R505, R541, R552, Tables 11-2, 16-14. -/
def wellFormed : Instr → Bool
  | .por a o x y => decide (a ≤ 3800) && decide (o ≤ 3800) && decide (x ≤ 3800) && decide (y ≤ 3800)
  | .pinReset n => decide (n < 100) || decide (1000 ≤ n)
  | .resetNRelease _ _ _ _ => true
  | .mwdt => true
  | .wdtKick => true
  | .refclkLoss => true
  | .bootRom => true
  | .mgcBoot => true
  | .nodeBoot => true
  | .cprRequest _ => true
  | .dprRequest _ => true
  | .cprDprRequest _ => true
  | .cprRelease => true
  | .dprEnd => true
  | .c2mWrite _ => true
  | .m2cReadIndexWrite _ => true
  | .dictRsp => true
  | .imageUpdate => true
  | .appReg => true
  | .appUnreg => true
  | .actReq => true
  | .actStationApply => true
  | .actRsp => true
  | .reefReq => true
  | .reefRsp _ => true
  | .emcyReq => true
  | .ctlFault => true
  | .clbPostWrite _ _ _ => true
  | .clbReadWrite _ _ _ => true
  | .clbCfgWrite _ _ _ => true
  | .hostPost _ d => d.length == 56
  | .faultReport _ _ _ _ => true
  | .fence _ _ => true
  | .fenceTakesEffect _ => true
  | .clcLostClear _ _ => true
  | .phaseBusRecord => true
  | .quadEdge _ _ _ n => decide (1 ≤ n)
  | .indexPulse _ n => decide (1 ≤ n)
  | .indexMissing _ => true
  | .ssiWord _ => true
  | .mainsFrame a b c => adcWord a && adcWord b && adcWord c
  | .mainsZcEdge n p => decide (1 ≤ n) && decide (1 ≤ p)
  | .mainsLockLoss => true
  | .sourceStall _ => true
  | .ntSyncExpiry => true
  | .slotFire _ => true
  | .phaseOutPulseEnd _ => true
  | .slotFallback _ => true
  | .slotArm _ _ _ => true
  | .slotTargetCommit _ _ _ => true
  | .phaseEventArrive _ _ => true
  | .phtRdyWrite _ => true
  | .deadlinePhaseCross _ => true
  | .deadlineExpire _ => true
  | .nmtStart _ => true
  | .nmtStop _ => true
  | .nmtEnterPreOperational _ => true
  | .nmtResetCommunication _ => true
  | .nmtResetNode _ => true
  | .loginChallenge _ => true
  | .loginResponse _ _ => true
  | .loginLockoutEnd _ => true
  | .challengeExpire _ => true
  | .sessionLogout _ _ => true
  | .sessionIdleTimeout _ => true
  | .sdoRequest _ _ _ _ _ _ => true
  | .sdoSegment _ _ _ d => decide (d.length ≤ 60)
  | .sdoSegmentTimeout _ => true
  | .dictReqTimeout _ => true
  | .rpdoReceive _ _ d => decide (d.length ≤ 64)
  | .syncReceive _ _ k => decide (k ≤ 240)
  | .tpdoEventTimer _ => true
  | .tpdoInhibitEnd _ => true
  | .heartbeatProduce => true
  | .heartbeatReceive _ _ _ => true
  | .heartbeatConsumerTimeout _ => true
  | .canBusOff _ => true
  | .canErrorPassive _ => true
  | .canRxOverrun _ => true
  | .timeReceive _ _ d => d.length == 6
  | .emcySend => true
  | .pollDue _ => true
  | .pollResponse _ (.data d) => decide (d.length ≤ 64)
  | .pollResponse _ (.abort _) => true
  | .pollTimeout _ => true
  | .hmbDoorbell _ => true
  | .hmbResponse => true
  | .routeEnvelope _ _ _ => true
  | .routeAnswer _ _ => true
  | .routeTimeout _ => true
  | .ingressRecord _ _ => true
  | .sframeFragment _ => true
  | .rtpPacket _ => true
  | .assemblyTimeout _ => true
  | .csiFrameStart _ _ => true
  | .csiPacket _ _ => true
  | .csiFrameEnd _ _ => true
  | .twPollDue _ => true
  | .twPollDone _ => true
  | .capAcq _ _ => true
  | .capPush _ d => d.length == 16
  | .hostSlotTimeout _ _ => true
  | .capRel _ => true
  | .capRoiCommit _ _ => true
  | .contextWrite _ _ _ => true
  | .jpegDecodeStart _ => true
  | .jpegRowDecoded _ => true
  | .jpegDecodeEnd _ => true
  | .alignWindowClose _ _ => true
  | .alignSetOffer _ => true
  | .sourceLossTimeout _ => true
  | .bundleIssue _ => true
  | .waitphResume _ => true
  | .sparInterrupt _ => true
  | .tileSuspend _ r => decide (r < 32)
  | .tileComplete _ => true
  | .sparWatchdog _ => true
  | .tcmError _ _ => true
  | .spCntclr _ _ => true
  | .eeDescriptor => true
  | .eeDescriptorEnd => true
  | .eeError _ => true
  | .planLoad _ _ => true
  | .planCoreLoad _ => true
  | .jobTake => true
  | .courseDispatch => true
  | .courseStealLocal => true
  | .prefetchCancelDone _ => true
  | .haloWaitExpiry _ => true
  | .courseCommit _ => true
  | .commitCopyDone => true
  | .jobComplete _ => true
  | .courseRecall _ => true
  | .remoteStealRequest => true
  | .steal _ _ _ => true
  | .stealresp _ _ => true
  | .remotePullDone _ _ _ k => decide (k < 2 ^ 16)
  | .trimLoad _ => true
  | .trimLoadDone => true
  | .trimRun _ => true
  | .trimReplay _ => true
  | .trimAbort _ => true
  | .trimStatus _ => true
  | .trimEnergy _ => true
  | .trimRdreg _ => true
  | .trimWrreg _ => true
  | .trimSweepStart => true
  | .trimGroupStep => true
  | .trimSweepEnd => true
  | .trimx _ _ => true
  | .trimPeerTimeout => true
  | .trimFinal => true
  | .trimRunEnd => true
  | .trimReclaimStop => true
  | .trimUncorrectable => true
  | .pairIssue _ => true
  | .mastLoad _ => true
  | .mastStore _ => true
  | .storeBufferDrain _ => true
  | .storeError _ => true
  | .integerOp _ => true
  | .mulDivOp _ => true
  | .fpOp _ => true
  | .branch _ => true
  | .jal _ => true
  | .jalr _ => true
  | .lr _ => true
  | .sc _ => true
  | .tasB _ => true
  | .reservationExpire _ => true
  | .cwswp _ => true
  | .cwset _ => true
  | .cwclr _ => true
  | .cwswpi _ => true
  | .cwseti _ => true
  | .cwclri _ => true
  | .sysreq _ => true
  | .dbrk _ => true
  | .rets _ => true
  | .waiti _ => true
  | .retm _ => true
  | .mastFence _ => true
  | .ifence _ => true
  | .dclCln _ => true
  | .dclInv _ => true
  | .dclFls _ => true
  | .dclZro _ => true
  | .iclInv _ => true
  | .qld _ => true
  | .qst _ => true
  | .qOp _ => true
  | .cp0Post _ => true
  | .cp0Qstat _ => true
  | .cp0Doorbell _ => true
  | .cp2Rdreg _ => true
  | .cp2Wrreg _ => true
  | .cp2Ntstep _ => true
  | .cp2Rdnow _ => true
  | .cpx _ => true
  | .cpxresp _ _ => true
  | .mastTrap _ => true
  | .mastInterrupt _ => true
  | .mcIpi _ => true
  | .mcHartctlRun1 _ => true
  | .cleanAll _ => true
  | .flushAll _ => true
  | .cmoDone => true
  | .mastCacheEcc _ l _ _ => decide (l * 64 < 0x11002000000)
  | .ddrInit _ => true
  | .ddrReady => true
  | .dramScrub l _ => decide (l * 64 < 0x10000000000)
  | .dramRefresh _ _ => true
  | .dramSelfRefreshExit => true
  | .hostBar4Access o w n => decide (o + (w.map List.length).getD n ≤ 2 ^ 28)
  | .pcieMsixRaise _ => true
  | .msixUnmask _ => true
  | .pciePerst _ => true
  | .portDetect _ _ => true
  | .portEqDone _ => true
  | .portAlign _ _ => true
  | .portConfig _ _ => true
  | .portRetrain _ => true
  | .portRetrainDone _ => true
  | .portDown _ => true
  | .portDownEnd _ => true
  | .flitReceive _ d => d.length == 256
  | .nakReceive _ d => d.length == 256
  | .replayTimeout _ => true
  | .remoteResponseTimeout _ => true
  | .homeReservationExpire _ _ => true
  | .fabricGo _ => true
  | .hello _ => true
  | .fabricElection => true
  | .fabricHeartbeat => true
  | .chipLossTimeout _ => true
  | .lost _ => true
  | .headHeartbeatTimeout => true
  | .join _ => true
  | .mgmt _ => true
  | .twCommand _ _ => true
  | .twTransferObject _ _ d => decide (d.length ≤ 68)
  | .twTransferStart _ => true
  | .twTransferEnd _ _ => true
  | .twArbLost _ b i _ => decide (b < 65) && decide (i < 9)
  | .twArbRetry _ => true
  | .twTargetAddress _ _ => true
  | .twTargetWriteByte _ _ => true
  | .twTargetReadByte _ _ => true
  | .twStop _ _ => true
  | .twWindowInternalWrite _ o d => decide (o.toNat + d.length ≤ 256)
  | .twBusFree _ => true
  | .twEnableWrite _ _ => true
  | .twDoze _ => true
  | .twDozeWake _ _ => true
  | .twSleep _ => true
  | .twSleepWake _ _ => true
  | .twBusTimeout _ => true
  | .twSclFault _ => true
  | .twRecovery _ _ => true
  | .twReenable _ _ _ => true
  | .twSdaLow _ => true
  | .twSdaRise _ => true
  | .autoDemandRaise _ => true
  | .autoDemandDrop _ => true
  | .reefGrant => true
  | .reefDomainReady _ => true
  | .reefGrantTimeout _ => true
  | .reefReclaimAck _ => true
  | .reefTransitReturn => true
  | .reefReclaimTimeout _ => true
  | .reefBudgetWrite _ _ => true
  | .thermalSample t => t.length == 8
  | .otpStage _ _ => true
  | .otpProgram _ _ => true
  | .otpProgramEnd _ => true
  | .otpKeyProgram _ _ => true
  | .mastDebugLock _ _ => true
  | .mastSvnWrite _ _ => true
  | .flashOffset _ _ => true
  | .flashProgram _ d => decide (d.length ≤ 4096)
  | .flashErase _ _ => true
  | .dapWindowWrite _ _ => true
  | .dapAccess _ => true
  | .tapBypass _ => true
  | .tapIdcode => true
  | .tapSamplePreload _ => true
  | .tapExtest => true
  | .pertActivate _ k d => decide (k ≠ 0) && d.length == 16 && (byteAt d 0).getLsbD 0
  | .pertDisable _ k d => decide (k ≠ 0) && d.length == 16 && !(byteAt d 0).getLsbD 0
  | .pertExpire _ => true
  | .ioEdge _ _ => true
  | .registerWrite _ a _ => decide (a < 2 ^ 41) && a % 4 == 0
  | .twStartDetected _ => true
  | .busOffRecovery _ => true
  | .flashUpdateDone _ => true
  | .otpKeyProgramEnd _ => true
  | .resetReq => true

end Sys2Proof
end

