-- ==== Sys2Proof/Tests/Slice0.lean ====
section
/-!
SUPPORT. The author's own tests: values of the spec's tables and examples on one step of a small state, terms that
the well-formedness check refuses, and for each statement with hypotheses a state that meets them.
-/

namespace Sys2Proof.Tests

set_option Elab.async false

open Sys2Proof Sys2Proof.Machine

/-! ## Small states -/

/-- A domain granted in RUN, class WORK. -/
def tRun : DomRec := { DomRec.reset with state := .run, cls := .work }

/-- A machine in service: booted, Cleat D locked, every domain granted, DRAM ready, the host's link up. -/
def tUp : State :=
  { State.reset with
    dev.phase := .running, dev.perstN := true, boot.control := .run, cleatD.lock := true,
    reef.doms := Vector.replicate 18 tRun, ddr.ready := true, ddr.cfg := 0x24,
    act.force := bootSet, act.bank0 := bootSet, act.bank1 := bootSet, pcie.up := true }

/-- What a command answers: P holds of the next state. -/
def gives (o : Host.Outcome State Fault Refusal) (p : State → Bool) : Bool :=
  match o with
  | .next t => p t
  | _ => false

/-- A message written whole into C2M, the write index moved past it. -/
def tSend (kind : Byte) (tag : W16) (payload : Bytes) (s : State) : State :=
  let es := msgEntries { kind := kind, tag := tag, payload := payload }
  { s with mem := writeEntries c2mRing s.mem s.cleatA.c2mWr es, cleatA.c2mWr := s.cleatA.c2mWr + BitVec.ofNat 7 es.length }

theorem test_up_serves : (mgcUp tUp && ctlUp tUp && phtUp tUp && capUp tUp && pcieUp tUp) = true := by decide

theorem test_up_sound : tUp.memWf = true ∧ tUp.capWf = true ∧ tUp.cacheWf = true := by decide

/-- A service session and an open one. -/
def tSvc : Session := .host
def tOpen : Session := .can 0 5

/-- The machine in service with a node in OPERATIONAL, a service session of the host and an open one on port 0. -/
def tNode : State :=
  { tUp with
    node.nodeId := 17, node.nmt := .operational,
    node.sessions := [{ who := .host, service := true, challenge := none }, { who := .can 0 5, service := false, challenge := none }] }

def tCpr : State := { tUp with boot.cprActive := true, boot.control := .reset }
def tDpr : State := { tUp with boot.dprActive := true }

/-- An ACT entry that lets the PCIe endpoint store to the queue store and to Cleat B's registers. -/
def tHostEntry : W128 := BitVec.ofNat 128 ((periBase + 0x40000) / 4096 + 0x40 * 2 ^ 32 + 2 ^ (64 + 25) + 3 * 2 ^ 96)

/-- A chip with fabric ID 3 in fabric mode, its agent powered. -/
def tFab (role : BitVec 2) : State :=
  { tNode with
    dev.strapFab := 3, cleatD.snapshot := List.replicate 0x14 0 ++ [0x19] ++ List.replicate 43 0,
    fab.role := role, fab.expect := 2, fab.go := true, node.mode := role, ddr.ready := true }

/-- A member of the fabric of chips 1 and 3 whose head is chip 1, one hop away on port 0. -/
def tMember : State := { tFab 2 with fab.members := 0x0A, fab.head := some 1, fab.routes := vput (tFab 2).fab.routes 1 0,
                                     shl := vput (tFab 2).shl 0 { ShlPort.reset with st := .active, credits := Vector.replicate 8 5 } }

/-- Data in the Loft. -/
def tData : Nat := loftBase + 0x1000


/-! ## Commands that nothing can send are ill-formed -/

theorem test_illFormed :
    wellFormed (.por 3801 1800 3300 3300) = false ∧ wellFormed (.pinReset 100) = false ∧
    wellFormed (.pinReset 999) = false ∧ wellFormed (.hostPost 0 []) = false ∧
    wellFormed (.quadEdge 0 true true 0) = false ∧ wellFormed (.indexPulse 0 0) = false ∧
    wellFormed (.mainsFrame 8388608 0 0) = false ∧ wellFormed (.mainsZcEdge 0 1) = false ∧
    wellFormed (.capPush (.mast 0) []) = false := by decide

theorem test_wellFormed : wellFormed (.por 720 1600 3300 1800) = true ∧ wellFormed (.pinReset 99) = true ∧
    wellFormed (.pinReset 1000) = true ∧ wellFormed (.mainsFrame 8388607 (-8388608) 0) = true := by decide

/-! ## Device resets and boot -/

/-- Both sides of each bound of R551 and R552, and what the other clauses ask of the state. -/
theorem witness_DeviceResetSources :
    (99 < 100) ∧ (100 ≤ 100 ∧ 100 < 1000) ∧ (100 ≤ 999 ∧ 999 < 1000) ∧ 1000 ≤ 1000 ∧
    porAsserts 719 1600 = true ∧ porAsserts 720 1599 = true ∧ porAsserts 720 1600 = false ∧
    State.reset.dev.phase = .inReset ∧ phtUp tUp = true ∧ tUp.dev.clocksStopped = false ∧
    20000000 ≤ { tUp with boot.wdCount := 20000000 }.boot.wdCount := by decide

theorem witness_DeviceResetsClearAndKeep :
    (∃ a o x y : Nat, Instr.por 719 1800 3300 3300 = .por a o x y ∧ (a < 720 ∨ o < 1600)) ∧
    (∃ n : Nat, Instr.pinReset 1000 = .pinReset n ∧ 1000 ≤ n) ∧
    (phtUp { tUp with boot.wdCount := 20000000 } = true) :=
  ⟨⟨719, 1800, 3300, 3300, rfl, by decide⟩, ⟨1000, rfl, by decide⟩, by decide⟩

/-- R552: 99 ns is ignored, 1 us is a PIN reset counted in 0x2703:03. -/
theorem test_pinReset : execPinReset 99 tUp = .next tUp ∧
    gives (execPinReset 1000 tUp) (fun t => t.dev.phase == .inReset && t.boot.lastDevice == 2 && t.boot.pinCount == 1) = true := by
  exact ⟨rfl, by decide⟩

/-- R553, R554: TEST_EN high at the release keeps the boot ROM from starting. -/
theorem test_straps : gives (execResetNRelease 1 17 3 false State.reset) (fun t => t.dev.strapNode == 17 && t.dev.phase == .rom) = true ∧
    gives (execResetNRelease 1 17 3 true State.reset) (fun t => t.dev.phase == .boundaryScan) = true := by decide

/-- A signed MGC image of a body of four bytes, VERSION 7, by the key whose hash ROOT_HASH holds. -/
def tImage : Bytes := toBE 260 0x4d494a57010000000700000004000000000000000000000000000000000000001a835ed8734f86355ca5b835d824d486993aabf1913cd3a011b7446c0514b7c960fed4ba255a9d31c961eb74c6356d68c049b8923b61fa6ce669622e60f29fb67903fe1008b8bc99a41ae9e95628bc64f2f1b20c2d7e9f5177a3c294d446229934e43a18861b5f23b8a4e8aab176658df5c9b727864e4b972a1648cc64bf4c4db2837a0791a507841aff855f8f12bcc1b1158db23eb78a5a0402ae6d4250bcfb0000000000000000000000000000000000000000000000000000000000000000000000000000000000000000000000000000000000000000000000000000000011223344

def tRom : State := { State.reset with dev.phase := .rom, mem := memWriteN [] flashBase tImage }

theorem witness_BootAndSettings_factory :
    tRom.dev.phase = .rom ∧ tRom.dev.clocksStopped = false ∧ tRom.memWf = true ∧ factoryOk tRom.otp = true ∧
    factoryOk { tRom.otp with cells := [] } = false := by decide +kernel

/-- R483, R500: the image is acceptable in slot A; slot B, erased, has no MAGIC. -/
theorem witness_BootAndSettings_image : imageCheck tRom false 0 = 0 ∧ imageCheck tRom false 1 = 1 := by decide +kernel

theorem witness_BootAndSettings_none :
    imageCheck { tRom with mem := [] } false 0 ≠ 0 ∧ imageCheck { tRom with mem := [] } false 1 ≠ 0 := by decide +kernel

def tStarted : State := { State.reset with dev.phase := .mgcStarted, dev.strapNode := 17 }

theorem witness_BootAndSettings_start : tStarted.dev.phase = .mgcStarted ∧ tStarted.dev.clocksStopped = false ∧
    [4, 3, 2, 1, 0].find? (slotValid tStarted.otp) = some 0 := by decide +kernel

/-- R85: without an override the node ID is the straps'; R501: Cleat D is locked, its PART word is 0x4A16. -/
theorem test_mgcBoot : gives (execMgcBoot tStarted) (fun t => t.node.nodeId == 17 && t.cleatD.lock &&
    t.cleatD.snapshot.take 4 == [0x16, 0x4A, 0, 0] && t.reef.free == 440) = true := by decide +kernel


/-! ## Planes and Cleats -/

theorem witness_mayAsk : tNode.mayAsk tSvc ∧ tNode.mayAsk tOpen := by
  simp only [State.mayAsk]; decide

theorem test_sessions : sessServed tNode tSvc = true ∧ isService tNode.node tSvc = true ∧
    sessServed tNode tOpen = true ∧ isService tNode.node tOpen = false := by decide

/-- With a node ID, and without one. -/
theorem witness_NodeStartsAfterLock :
    mgcUp tUp = true ∧ tUp.cleatD.lock = true ∧ tUp.node.nmt = .initialisation ∧ fabricMode tUp = false ∧
    nodeSilent tUp.node = true ∧ nodeSilent { tUp with node.nodeId := 17 }.node = false ∧
    { tUp with node.nodeId := 17 }.node.busOff.get 0 = false := by decide

/-- R89: the boot-up heartbeat of node 17 on port 0. -/
theorem test_bootUp : gives (execNodeBoot { tUp with node.nodeId := 17 }) (fun t =>
    t.canOut == [(0, 0x711, [0])] && t.node.nmt == .preOperational) = true := by decide

theorem witness_PlaneResets_object :
    mgcUp tNode = true ∧ sessServed tNode tSvc = true ∧ isService tNode.node tSvc = true ∧
    tNode.boot.cprActive = false ∧ tCpr.boot.cprActive = true ∧ tDpr.boot.dprActive = true ∧
    (domOf tNode 14).state = .run := by decide

theorem witness_PlaneResets_mailbox :
    (takeMsgIf (tSend 6 0x0101 [1] tUp) fun m => m.kind == 0x06 && (byteAt m.payload 0).toNat == 1).isSome = true ∧
    (takeMsgIf (tSend 6 0x0101 [2] tUp) fun m => m.kind == 0x06 && (byteAt m.payload 0).toNat == 2).isSome = true ∧
    (takeMsgIf (tSend 6 0x0101 [3] tUp) fun m => m.kind == 0x06 && (byteAt m.payload 0).toNat == 3).isSome = true := by decide

/-- A signed Mast image with a body of four bytes at ENTRY 0 stands in slot A. -/
theorem witness_PlaneResets_release :
    mgcUp tCpr = true ∧ tCpr.boot.cprActive = true ∧ tCpr.boot.dprActive = false ∧
    tCpr.otp.noValid = false ∧ { tCpr with otp.noValid := true }.otp.noValid = true ∧ chooseImage tCpr true = none := by decide

theorem witness_PlaneResets_end : mgcUp tDpr = true ∧ tDpr.boot.dprActive = true := by decide

theorem witness_PlaneResets_refused :
    (takeMsgIf (tSend 6 0x0101 [4] tUp) fun m => m.kind == 0x06 && !(decide (1 ≤ (byteAt m.payload 0).toNat) &&
      decide ((byteAt m.payload 0).toNat ≤ 3))).isSome = true ∧
    (takeMsgIf (tSend 6 0x0101 [0] tUp) fun m => m.kind == 0x06 && !(decide (1 ≤ (byteAt m.payload 0).toNat) &&
      decide ((byteAt m.payload 0).toNat ≤ 3))).isSome = true := by decide

/-- Table 15-2 and R526: the control-plane reset of the service session notes 0x05 and leaves the queues. -/
theorem test_cprRequest : gives (execCprRequest (.object tSvc) { tNode with cleatB := vput tNode.cleatB 3 { Queue.reset with post := 7 } })
    (fun t => t.boot.lastPlane == 0x05 && t.boot.control == .reset && (t.cleatB.get 3).post == 7) = true := by decide

/-- Indices of a full ring, of one past it, and of the unread entries. -/
theorem witness_CleatARingIndices :
    ctlUp tUp = true ∧ 64 < ringUsed 65 tUp.cleatA.c2mRd ∧ ringUsed 64 tUp.cleatA.c2mRd ≤ 64 ∧
    ringUsed (3 : BitVec 7) 3 ≤ ringUsed (3 : BitVec 7) 1 ∧ ringUsed (3 : BitVec 7) 1 < ringUsed (3 : BitVec 7) 0 := by decide

theorem witness_CleatARingIndices_head :
    ∃ m k, c2mHead (tSend 7 0 [0x10, 0x81] tUp) = some (m, k) ∧ c2mKnown m.kind = true :=
  ⟨{ kind := 7, tag := 0, payload := [0x10, 0x81] }, 1, by decide, by decide⟩

/-- R18: a 65th entry is refused and sets FULL. -/
theorem test_c2mFull : gives (execC2mWrite 65 tUp) (fun t => t.cleatA.c2mFull && t.cleatA.c2mWr == 0 && t.cleatA.fullEvents == 1) = true := by decide

/-- The codes on both sides of each bound. -/
theorem witness_MailboxFaultMessages :
    (takeMsg (tSend 7 0 (toLE 2 0 ++ [0x81]) tUp) 0x07).isSome = true ∧
    (takeMsg (tSend 7 0 (toLE 2 0xFF00 ++ [0x81]) tUp) 0x07).isSome = true ∧
    (takeMsg (tSend 7 0 (toLE 2 0xFEFF ++ [0x81]) tUp) 0x07).isSome = true ∧
    (takeMsg (tSend 8 0 [1] tUp) 0x08).isSome = true := by decide

theorem test_emcyReq : gives (execEmcyReq (tSend 7 0 (toLE 2 0xFEFF ++ [0x81, 1, 2, 3, 4]) tUp)) (fun t =>
      t.node.emcyQ.map (List.take 8) == [[0xFF, 0xFE, 0, 0x81, 1, 2, 3, 4]]) = true ∧
    gives (execEmcyReq (tSend 7 0 (toLE 2 0xFF00 ++ [0x81]) tUp)) (fun t => t.node.stats.get 4 == 1 && t.node.emcyQ.isEmpty) = true := by decide

/-- A queue of MC0 with its indices one short of the limit of R21, and the host as a stranger. -/
theorem witness_QueueIndexWrites :
    posterUp tUp (.mc 0) = true ∧ posterUp tUp (.mc 1) = true ∧ posterUp tUp .host = true ∧
    (tUp.cleatB.get 0).owner ≠ 2 ∧ (tUp.cleatB.get 0).owner = 0 ∧
    256 < ((257 : BitVec 9) - 0).toNat ∧ ((256 : BitVec 9) - 0).toNat ≤ 256 ∧
    ((4 : BitVec 9) - 1).toNat < ((5 : BitVec 9) - 1).toNat ∧ ((4 : BitVec 9) - 1).toNat ≤ ((4 : BitVec 9) - 1).toNat := by decide

/-- R22: POST = 256 fills the queue; 257 sets OVF. R24: the host's write of MC0's queue sets OWNER_ERR. -/
theorem test_clbPost :
    gives (execClbPostWrite 0 (.mc 0) 256 tUp) (fun t => (t.cleatB.get 0).post == 256) = true ∧
    gives (execClbPostWrite 0 (.mc 0) 257 tUp) (fun t => (t.cleatB.get 0).post == 0 && (t.cleatB.get 0).ovf) = true ∧
    gives (execClbPostWrite 0 .host 1 tUp) (fun t => (t.cleatB.get 0).post == 0 && (t.cleatB.get 0).ownerErr) = true := by decide

def tHostQ : State :=
  { tUp with
    act.force := Tbl.write (fun _ => 0) tUp.act.force 20 tHostEntry,
    cleatB := vput tUp.cleatB 2 { Queue.reset with owner := 2, en := true, post := 255 } }

theorem witness_HostPostAndQueueConfig :
    posterUp tHostQ .host = true ∧ tHostQ.memWf = true ∧ (tHostQ.cleatB.get 2).owner = 2 ∧
    ((tHostQ.cleatB.get 2).post + 1 - (tHostQ.cleatB.get 2).read).toNat ≤ 256 ∧
    actDenied tHostQ.act.force 25 accStore (slotAddr 2 255) 56 = none ∧
    actDenied tHostQ.act.force 25 accStore (periBase + 0x40004 + 2 * 0x40) 4 = none ∧
    posterUp tHostQ (.mc 1) = true ∧ (tHostQ.cleatB.get 0).post = (tHostQ.cleatB.get 0).done ∧
    (tHostQ.cleatB.get 0).done = (tHostQ.cleatB.get 0).read ∧ (tHostQ.cleatB.get 2).post ≠ (tHostQ.cleatB.get 2).done := by decide

theorem test_hostPost : gives (execHostPost 2 [0xAB] tHostQ) (fun t =>
    (t.cleatB.get 2).post == 256 && t.rd (slotAddr 2 255) 2 == [0xAB, 0]) = true := by decide

/-- 31 reports leave room for one; 32 do not. -/
def tFull (n : Nat) : State :=
  { tUp with cleatC.fifo := List.replicate n { unit := 0x14, cls := 5, code := 3, detail := 0, nt := 0 } }

theorem witness_FaultReportStoredOrLost :
    unitReports (tFull 31) 0x14 = true ∧ (tFull 31).cleatC.fifo.length < 32 ∧
    unitReports (tFull 32) 0x14 = true ∧ 32 ≤ (tFull 32).cleatC.fifo.length := by decide

/-- R29: the 33rd report sets bit 0x14 of CLC_LOST. -/
theorem test_reportLost : gives (execFaultReport 0x14 5 3 0 (tFull 32)) (fun t =>
    t.cleatC.fifo.length == 32 && t.cleatC.lost == 0x100000) = true := by decide

theorem witness_FencesOfUnits :
    unitReports tUp 0 = true ∧ unitReports tUp 0x19 = true ∧ tUp.boot.dprActive = false ∧ tUp.cleatC.lines.getLsbD 0x19 = false ∧
    tDpr.boot.dprActive = true ∧ { tUp with cleatC.lines := 0x8000 }.cleatC.lines.getLsbD 15 = true ∧
    { tUp with cleatC.lines := 0x8000 }.cleatC.fenced.getLsbD 15 = false ∧
    { tUp with cleatC.lines := 0x10000 }.cleatC.lines.getLsbD 16 = true := by decide

/-- R31, R532: SP15's fence sets bit 15 of 0x2701 and EMCY 0xFF21. -/
theorem test_fence : gives (execFenceTakesEffect 15 { tUp with cleatC.lines := 0x8000 }) (fun t =>
    t.health.coreMask == 0x8000 && t.cleatC.fenced == 0x8000 && stands t 0xFF21 15) = true := by decide


/-! ## Objects written by commands of their own -/

/-- An open session that may ask, and one of a port that CAN does not serve. -/
theorem witness_OpenSessionsCannotWrite :
    tNode.mayAsk tOpen ∧ isService tNode.node tOpen = false ∧
    sessServed { tNode with node.busOff := vput tNode.node.busOff 0 true } tOpen = false := by
  simp only [State.mayAsk]; decide

/-- R93; R98: the refused access has left the channel free. -/
theorem test_rankRefused : gives (execFlashErase tOpen 3 tNode) (fun t =>
    t.out == [.dict tOpen (.abort 0x06010000)] && (t.node.chans.get 0).isNone) = true := by decide

def tRecord : Bytes := padTo 64 [1, 0]
def tStaged : State := { tNode with otp.staged := tRecord, reef.tmax := 85 }
def tBusy : State := { tNode with otp.busy := .generation 1 (generationCells 1 tRecord), otp.status := 1 }

theorem witness_OtpObjectWrites_asks : tBusy.mayAsk tSvc ∧ tStaged.mayAsk tSvc ∧ isService tStaged.node tSvc = true := by
  simp only [State.mayAsk]; decide

theorem witness_OtpObjectWrites :
    isService tBusy.node tSvc = true ∧ otpRuns tBusy.otp = true ∧
    otpRuns tStaged.otp = false ∧ (List.replicate 63 (0 : Byte)).length ≠ 64 ∧ tRecord.length = 64 ∧ recordOk tRecord = true ∧
    recordOk (padTo 64 [2, 0]) = false ∧ (2 : Byte) ≠ 1 ∧ nextSlot tStaged.otp = some 1 ∧
    recordOk (padTo 64 tStaged.otp.staged) = true ∧ 1710 ≤ tStaged.dev.vddOtpMv ∧ tStaged.dev.vddOtpMv ≤ 1890 ∧
    0 ≤ tStaged.reef.tmax ∧ tStaged.reef.tmax ≤ 85 := by decide

theorem witness_OtpObjectWrites_refused :
    { tStaged with dev.vddOtpMv := 1709 }.dev.vddOtpMv < 1710 ∧ 1890 < { tStaged with dev.vddOtpMv := 1891 }.dev.vddOtpMv ∧
    { tStaged with reef.tmax := -1 }.reef.tmax < 0 ∧ 85 < { tStaged with reef.tmax := 86 }.reef.tmax ∧
    recordOk (padTo 64 tNode.otp.staged) = false ∧ keyRegionBlank tNode.otp = true ∧
    keyRegionBlank { tNode.otp with cells := [(0x100, 1)] } = false := by decide

theorem witness_OtpObjectWrites_svn :
    ((32 : Byte).toNat ≤ 32) ∧ { tNode with boot.mastSlot := some 0, boot.mastSvn := 32 }.boot.mastSlot.isSome = true ∧
    (32 : Byte).toNat ≤ { tNode with boot.mastSlot := some 0, boot.mastSvn := 32 }.boot.mastSvn ∧
    32 < (33 : Byte).toNat ∧ tNode.boot.mastSlot = none ∧ tNode.boot.mastSvn < (1 : Byte).toNat ∧ (0 : W16) ≠ 0x4C4B := by decide

/-- R492: one copy has 1 cell, so the order holds 1 + 1 + 14 + 16 cells: copy A, copy B, CRC, marker. -/
theorem test_otpProgram : gives (execOtpProgram tSvc 1 tStaged) (fun t => t.otp.status == 1 &&
    (match t.otp.busy with
      | .generation 1 cs => cs.take 2 == [(0x300, 0), (0x340, 0)]
      | _ => false)) = true := by decide

theorem test_debugLock : gives (execMastDebugLock tSvc 0x4C4B tNode) (fun t => otpByte t.otp 0x140 == 0xFF) = true := by decide

theorem witness_OtpProgrammingEnds :
    mgcUp tBusy = true ∧ tBusy.otp.busy = .generation 1 (generationCells 1 tRecord) ∧
    0 < (generationCells 1 tRecord).length ∧
    slotValid (otpSetAll tBusy.otp (generationCells 1 tRecord)) 1 = true ∧
    slotValid (otpSetAll { tBusy.otp with cells := [(0x301, 1)] } (generationCells 1 tRecord)) 1 = false ∧
    { tNode with otp.busy := .key (keyCells (List.replicate 32 0xA5)) }.otp.busy = .key (keyCells (List.replicate 32 0xA5)) := by decide +kernel

/-- R493: programming that verifies ends with DONE and a valid slot; a failed first cell with FAILED and EMCY 0xFF06. -/
theorem test_otpEnd :
    gives (execOtpProgramEnd none tBusy) (fun t => t.otp.status == 2 && slotValid t.otp 1) = true ∧
    gives (execOtpProgramEnd (some 0) tBusy) (fun t => t.otp.status == 4 && slotBlank t.otp 1 &&
      t.node.emcyQ.map (List.take 5) == [[0x06, 0xFF, 0, 0xFF, 1]]) = true := by decide +kernel

/-- Outside every image slot, and in the booted one. -/
theorem witness_FlashUpdates :
    mgcUp tNode = true ∧ tNode.memWf = true ∧ sessServed tNode tSvc = true ∧ isService tNode.node tSvc = true ∧
    tNode.boot.flashBusy = none ∧ { tNode with boot.flashBusy := some (0, none) }.boot.flashBusy ≠ none ∧
    0 < [(1 : Byte)].length ∧ (List.replicate 4096 (0 : Byte)).length ≤ 4096 ∧
    flashGuarded tNode (imageOff false 0) 1 = true ∧ flashGuarded tNode 0x0FFF0000 0x10000 = false ∧
    (0xFFF : W16).toNat < 0x1000 ∧ 0x0FFF0000 + 0x10000 ≤ 0x10000000 := by decide +kernel

/-- R505: flash bits are only cleared by programming. -/
theorem test_flashDone : gives (execFlashUpdateDone true { tNode with
      mem := [(flashBase + 0x0FFF0000, 0x3C)], boot.flashBusy := some (0x0FFF0000, some [0xF0, 0x55]) })
    (fun t => t.rd (flashBase + 0x0FFF0000) 2 == [0x30, 0x55] && t.boot.flashStatus == 2) = true := by decide

/-- OP 0 with one record for live entry 20, and the same for entry 5, which the MGC refuses. -/
def tActReq (op idx : Nat) (e : W128) : State :=
  tSend 4 7 ([BitVec.ofNat 8 op, 1, 0, 0, 0, 0, 0, 0] ++ toLE 2 idx ++ [0, 0, 0, 0, 0, 0] ++ toLE 16 e.toNat) tUp

theorem witness_ActChanges :
    tUp.act.rsp = none ∧ (takeMsg (tActReq 0 20 tHostEntry) 0x04).isSome = true ∧
    (takeMsg (tActReq 1 20 tHostEntry) 0x04).isSome = true ∧ (takeMsg (tActReq 2 20 tHostEntry) 0x04).isSome = true ∧
    (takeMsg (tActReq 3 20 tHostEntry) 0x04).isSome = true ∧
    { tUp with act.pend := true }.act.pend = true ∧ { tUp with act.rsp := some (7, [0]) }.act.rsp = some (7, [0]) ∧
    tUp.act.pend = false ∧ mastLocked tUp.otp = false ∧ mastLocked { tUp.otp with cells := [(0x140, 0xF0)] } = true ∧
    inLocalMap (BitVec.ofNat 128 (2 ^ 32)) = true := by decide

theorem witness_ActChanges_vetting :
    (match takeMsg (tActReq 0 20 tHostEntry) 0x04 with
      | some (m, u) => decide ((byteAt m.payload 0).toNat = 0) && decide ((byteAt m.payload 1).toNat = 1)
          && decide (fieldLE m.payload 2 6 = 0) && (firstRefused u m.payload (actRecords m.payload) 0).isNone
      | none => false) = true ∧
    (match takeMsg (tActReq 0 5 tHostEntry) 0x04 with
      | some (m, u) => (firstRefused u m.payload (actRecords m.payload) 0).isSome
      | none => false) = true := by decide

theorem test_actReq : gives (execActReq (tActReq 0 20 tHostEntry)) (fun t =>
    Tbl.read (fun _ => (0 : W128)) (actLive t.act) 20 == tHostEntry && t.act.pend && t.act.rsp == some (7, [0, 1, 0, 0, 0])) = true := by decide


/-! ## Phase timebase -/

/-- PS0 with 64 lines (CFG bits 26 to 11 hold 63), FILT 8, index enabled, tolerance 2; PS2 and PS3 enabled and OK. -/
def tPht : State :=
  { tUp with
    pht.srcs := vput (vput (vput tUp.pht.srcs 0 { PhtSrc.reset with cfg := 0x1FA11, idx := 0x2000005, state := 0, stallUs := 1, pub := 0x123456789A })
      2 { PhtSrc.reset with cfg := 0x11, state := 0, badRun := 1 }) 3 { PhtSrc.reset with cfg := 0x11, state := 0, freq := 549756 },
    pht.slots := vput tUp.pht.slots 63 { PhtSlot.reset with cfg := 0x41, tgt := 100, inc := 10, hit := some true },
    pht.pllAmp := 0x10, pht.pllLock := 0x30000 }

def tZc : State := { tPht with pht.mainsCfg := 1, pht.srcs := vput tPht.pht.srcs 3 { PhtSrc.reset with cfg := 0x11, state := 2, lockCnt := 2, minPeriod := 8000000, maxPeriod := 8000000 } }

theorem witness_QuadratureIllegalStep :
    phtUp tPht = true ∧ (tPht.pht.srcs.get 0).en = true ∧ (tPht.pht.srcs.get 0).filt + 1 ≤ 9 ∧
    true ≠ (tPht.pht.srcs.get 0).lvlA ∧ true ≠ (tPht.pht.srcs.get 0).lvlB := by decide

/-- R48: both lines change at once. -/
theorem test_qerr : gives (execQuadEdge 0 true true 9 tPht) (fun t =>
    (t.pht.srcs.get 0).qerr == 1 && (t.pht.srcs.get 0).pub == 0x123456789A) = true := by decide

/-- A first edge of A at the filter's bound; a 24-bit INC_E is 2^40 / 256 in units of 2^-16 counts. -/
theorem witness_QuadratureEvents :
    phtUp tPht = true ∧ (tPht.pht.srcs.get 0).en = true ∧ (tPht.pht.srcs.get 0).filt + 1 ≤ 9 ∧
    (true ≠ (tPht.pht.srcs.get 0).lvlA ∧ false = (tPht.pht.srcs.get 0).lvlB) ∧
    (false = (tPht.pht.srcs.get 0).lvlA ∧ true ≠ (tPht.pht.srcs.get 0).lvlB) ∧
    (tPht.pht.srcs.get 0).idxEn = true ∧ (tPht.pht.srcs.get 0).lines = 64 ∧ (tPht.pht.srcs.get 0).idxTol = 2 ∧
    4 * (tPht.pht.srcs.get 0).lines + (tPht.pht.srcs.get 0).idxTol ≤ { tPht.pht.srcs.get 0 with oneWay := 258 }.oneWay ∧
    2 < Int.natAbs (((-253 : Int).natAbs : Int) - 4 * (tPht.pht.srcs.get 0).lines) ∧
    ¬ 2 < Int.natAbs (((258 : Int).natAbs : Int) - 4 * (tPht.pht.srcs.get 0).lines) := by decide

/-- R48: 64 lines give INC_E = 2^32, which is 0x10000 counts. -/
theorem test_quadEdge : incE 64 = 2 ^ 32 ∧
    gives (execQuadEdge 0 true false 9 tPht) (fun t => (t.pht.srcs.get 0).pub == 0x10000) = true := by decide

/-- A flat word after one flat word, a good word, a frame above and below AMP_MIN, edges at both ends of 40 to 70 Hz. -/
theorem witness_SsiMainsAndStalls :
    phtUp tPht = true ∧ (tPht.pht.srcs.get 2).en = true ∧ ssiFlat tPht.pht 0 = true ∧ 1 ≤ (tPht.pht.srcs.get 2).badRun ∧
    (tPht.pht.srcs.get 3).en = true ∧ mainsZc tPht.pht = false ∧ (tPht.pht.srcs.get 3).state = 0 ∧
    mainsAmpOk tPht.pht 100 (-50) (-50) = true ∧ mainsAmpOk tPht.pht 1 0 0 = false ∧
    mainsZc tZc.pht = true ∧ (tZc.pht.srcs.get 3).en = true ∧ (tZc.pht.srcs.get 3).filt + 1 ≤ 9 ∧ (tZc.pht.srcs.get 3).state ≠ 0 ∧
    periodOk 5714285 = false ∧ periodOk 5714286 = true ∧ periodOk 10000000 = true ∧ periodOk 10000001 = false ∧
    max 1 (lockCyc tZc.pht) ≤ (periodRun (tZc.pht.srcs.get 3) 8160000).1 ∧
    (periodRun (tZc.pht.srcs.get 3) 8160001).1 < max 1 (lockCyc tZc.pht) ∧
    (tPht.pht.srcs.get 0).en = true ∧ (tPht.pht.srcs.get 0).state = 0 ∧ (tPht.pht.srcs.get 0).stallUs ≠ 0 := by decide

/-- What the PLL makes of a frame is free (log 157): a run of LOCK_CYC cycles locks at a ratio of 0 and not at LOCK_TH. -/
theorem witness_SsiMainsAndStalls_lock :
    mainsAmpOk tPht.pht 100 (-50) (-50) = true ∧ (1 : Nat) ≠ 0 ∧
    pllLocks { tPht.pht with pllLock := 0x20003 } { PhtSrc.reset with state := 2, lockFrom := some 0, ang := 0xFFFFFFFFFFFFFF } 0 true = true ∧
    pllLocks { tPht.pht with pllLock := 0x20003 } { PhtSrc.reset with state := 2, lockFrom := some 0, ang := 0xFFFFFFFFFFFFFF } 65536 true = false ∧
    pllLocks { tPht.pht with pllLock := 0x20003 } { PhtSrc.reset with state := 2, lockFrom := some 0, ang := 0 } 0 true = false ∧
    overSince { tPht.pht with cycles := 9 } { PhtSrc.reset with overFrom := some 4 } 65536 = some 4 := by decide

theorem test_stall : gives (execSourceStall 0 tPht) (fun t => (t.pht.srcs.get 0).state == 1 && stands t 0xFF10 0) = true := by decide

/-- R60: at the nominal NT_INC a record of four cycles is 10 ns. -/
theorem test_networkTime : gives (execPhaseBusRecord tUp) (fun t => ntNow t.pht == 10 && t.boot.wdCount == 2) = true := by decide +kernel

theorem witness_FiringMovesTarget :
    phtUp tPht = true ∧ (tPht.pht.slots.get 63).arm = true ∧ (tPht.pht.slots.get 63).hit = some true ∧
    (tPht.pht.slots.get 63).periodic = true ∧ 0 < (tPht.pht.slots.get 63).inc.toNat ∧ (tPht.pht.slots.get 63).inc.toNat < 2 ^ 39 ∧
    { tPht.pht.slots.get 63 with cfg := 1 }.periodic = false ∧ ((0x7FFFFFFFFF : BitVec 40).toNat < 2 ^ 39) := by decide

/-- R62: the slot is at phase 0x123456789A of PS0, far past TARGET + INC: TARGET moves up to it and MISS saturates. -/
theorem test_slotFire : gives (execSlotFire 63 { tPht with pht.srcs := vput tPht.pht.srcs 0 { tPht.pht.srcs.get 0 with pub := 125 } })
    (fun t => (t.pht.slots.get 63).tgt == 130 && (t.pht.slots.get 63).miss == 2 && (t.pht.slots.get 63).fired) = true := by decide

def tFb : State := { tPht with pht.slots := vput tPht.pht.slots 5 { PhtSlot.reset with cfg := 0x183, flying := 0x8000 },
                               pht.outs := vput tPht.pht.outs 1 { cfg := 0x7F, active := true } }

theorem witness_SlotEvents :
    phtUp tFb = true ∧ (tFb.pht.slots.get 63).arm = true ∧ (tFb.pht.slots.get 63).hit ≠ none ∧
    (tFb.pht.slots.get 5).arm = true ∧ (tFb.pht.slots.get 5).fbEn = true ∧ (tFb.pht.slots.get 5).hit = none ∧
    (tFb.pht.slots.get 5).fbCond = true ∧ slotSourceLost tFb.pht (tFb.pht.slots.get 5) = true ∧
    (tFb.pht.outs.get 1).active = true ∧ (tFb.pht.outs.get 1).mode = 1 ∧
    (tFb.pht.slots.get 5).flying.getLsbD 15 = true ∧ domUp tFb (sparDom 15) = true := by decide

theorem test_event : gives (execPhaseEventArrive 15 5 tFb) (fun t =>
    (coreOf t 15).pend.getLsbD 5 && (t.pht.slots.get 5).flying == 0) = true := by decide

theorem witness_SlotAndReadyWrites :
    phtUp tPht = true ∧ phtReach tPht (.mast 0) = true ∧ phtReach tPht .mgc = true ∧ ctlUp tPht = true ∧
    (tPht.pht.slots.get 0).arm = false ∧ (tPht.pht.slots.get 63).arm = true ∧
    bits (0x01 : W32).toNat 4 2 = 0 ∧ bits (0x11 : W32).toNat 4 2 = 1 ∧ bits (0x21 : W32).toNat 4 2 = 2 := by decide

/-- R63, R64: TARGET 0 equal to the source's phase 0 is behind for EDGE rising. R70: PHT_RDY needs a pinned grant. -/
theorem test_slotArm : gives (execSlotArm 0 (.mast 0) 0x09 { tPht with pht.nt := 0 }) (fun t => (t.pht.slots.get 0).behind) = true ∧
    gives (execPhtRdyWrite 0xFFFF { tPht with reef.doms := vput tPht.reef.doms 7 { tRun with cls := .phase } })
      (fun t => t.pht.rdy == 0xC000) = true := by decide

theorem witness_NetworkTimeAndRecord : phtUp tUp = true := by decide


/-! ## The CANopen node -/

/-- The node with objects set: heartbeat producer and two consumers, TIME, a poll entry, TPDO 1 and RPDO 1. -/
def tObj : State :=
  { tNode with
    node := [(0x1017, 0, toLE 2 100), (0x1016, 1, toLE 4 (0x210000 + 200)), (0x1012, 0, toLE 4 0x80000100),
             (0x4080, 2, toLE 16 (0x21 + 0x80 * 256 + 0x2000 * 65536 + 2 * 2 ^ 40)),
             (0x1800, 1, toLE 4 0x191), (0x1800, 2, [254]), (0x1800, 3, toLE 2 10), (0x1800, 5, toLE 2 100),
             (0x1400, 1, toLE 4 0x211), (0x1400, 2, [254]), (0x1600, 0, [1]), (0x1600, 1, toLE 4 0x28000120)].foldl
      (fun (n : Node) (e : Nat × Nat × Bytes) => odSet n e.1 e.2.1 e.2.2) tNode.node }

theorem witness_NmtCommands : nmtFor tNode 0 = true ∧ nmtFor tNode 17 = true ∧ (18 : Byte) ≠ 0 ∧
    (18 : Byte).toNat ≠ tNode.node.nodeId.toNat := by decide

/-- R90: STOPPED ends transfers; reset node puts the budget back at 480. -/
theorem test_nmt : gives (execNmtStop 17 tNode) (fun t => t.node.nmt == .stopped) = true ∧
    gives (execNmtStart 0 { tNode with node.nmt := .preOperational }) (fun t => t.node.nmt == .operational) = true := by decide

theorem witness_NodeFramesAndCan :
    mgcUp tObj = true ∧ nodeSilent tObj.node = false ∧ tObj.node.nmt ≠ .initialisation ∧ odNat tObj.node 0x1017 0 ≠ 0 ∧
    tObj.node.busOff.get tObj.node.netPort = false ∧ consumes tObj.node 0 0x21 = true ∧ consumes tObj.node 1 0x21 = false ∧
    bits (odNat tObj.node 0x1016 1) 0 16 ≠ 0 ∧ bits (odNat tObj.node 0x1016 1) 16 8 ≠ 0 ∧ tObj.node.consumers.get 0 = false ∧
    { tObj with node.emcyQ := [[1]] }.node.emcyQ = [1] :: [] ∧ nmtServes tObj.node = true ∧
    bitOf (odNat tObj.node 0x1014 0) 31 = false ∧ bitOf (odNat tObj.node 0x1012 0) 31 = true ∧
    (0x100 : BitVec 11).toNat = odNat tObj.node 0x1012 0 % 0x800 ∧
    { tObj with node.busOff := vput tObj.node.busOff 1 true }.node.busOff.get 1 = true := by decide

/-- R115: OPERATIONAL is 0x05 in the heartbeat of node 17. -/
theorem test_heartbeat : execHeartbeatProduce tObj = .next (emit tObj (.can 0 0x711 [0x05])) := by rfl

theorem witness_PdoCommands :
    mgcUp tObj = true ∧ tObj.node.nmt = .operational ∧ nodeSilent tObj.node = false ∧ tObj.node.busOff.get 0 = false ∧
    (∀ i : Fin 16, bitOf (rpdoCob tObj.node i) 31 = true ∨ rpdoCob tObj.node i % 0x800 ≠ (0x7FF : BitVec 11).toNat ∨ rpdoPort tObj.node i ≠ 0) ∧
    bitOf (rpdoCob tObj.node 0) 31 = false ∧ rpdoCob tObj.node 0 % 0x800 = (0x211 : BitVec 11).toNat ∧ rpdoPort tObj.node 0 = 0 ∧
    (∀ j : Fin 16, j ≠ 0 → bitOf (rpdoCob tObj.node j) 31 = true ∨ rpdoCob tObj.node j % 0x800 ≠ (0x211 : BitVec 11).toNat ∨
      rpdoPort tObj.node j ≠ 0) ∧
    mapLen (mapping tObj.node (0x1600 + 0)) = 4 ∧ 240 < rpdoType tObj.node 0 ∧ rpdoType tNode.node 0 ≤ 240 ∧
    (0x080 : BitVec 11).toNat = odNat tObj.node 0x1005 0 % 0x800 ∧
    254 ≤ tpdoType tObj.node 0 ∧ odNat tObj.node 0x1800 5 ≠ 0 ∧ bitOf (tpdoCob tObj.node 0) 31 = false ∧
    (tObj.node.tpdos.get 0).inhibited = false := by decide

/-- Table 15-7: a frame of 3 bytes for a mapping of 4 raises 0x8210 with the PDO's number. -/
theorem test_shortRpdo : gives (execRpdoReceive 0 0x211 [1, 2, 3] tObj) (fun t =>
    t.node.emcyQ.map (List.take 6) == [[0x10, 0x82, 0, 0xFF, 1, 0]]) = true := by decide +kernel

def tChallenge : Bytes := [1, 2, 3, 4, 5, 6, 7, 8]
def tLogin : State :=
  { tNode with node.sessions := [{ who := .can 0 5, service := false, challenge := some tChallenge }], otp.serviceKey := otpRead tNode.otp 0x30 32 }

theorem witness_ServiceLogin_asks : mgcUp tLogin = true ∧ tLogin.mayAsk tOpen := by
  simp only [State.mayAsk]; decide

theorem witness_ServiceLogin :
    (List.replicate 7 (0 : Byte)).length ≠ 8 ∧ tChallenge.length = 8 ∧ loginLocked tLogin.node tOpen = false ∧
    loginLocked { tLogin.node with locked := vput tLogin.node.locked 0 true } tOpen = true ∧
    (findSess tLogin.node tOpen).bind (fun x => x.challenge) = some tChallenge ∧ sessPort tOpen = some 0 ∧
    4 ≤ (recentFails { tLogin with node.loginFails := vput tLogin.node.loginFails 0 [0, 0, 0, 0] } 0).length ∧
    (recentFails { tLogin with node.loginFails := vput tLogin.node.loginFails 0 [0, 0, 0] } 0).length < 4 ∧
    { tLogin with node.locked := vput tLogin.node.locked 1 true }.node.locked.get 1 = true := by decide +kernel

/-- R95: the first 8 bytes of HMAC-SHA-256 of the challenge under the service key, and another response. -/
theorem witness_ServiceLogin_response :
    ((hmacSha256 tLogin.otp.serviceKey tChallenge).take 8).length = 8 ∧
    (List.replicate 8 (0 : Byte)) ≠ (hmacSha256 tLogin.otp.serviceKey tChallenge).take 8 := by decide +kernel

theorem test_login : gives (execLoginResponse tOpen ((hmacSha256 (otpRead tNode.otp 0x30 32) tChallenge).take 8) tLogin)
    (fun t => isService t.node tOpen) = true := by decide +kernel

/-- FIPS 180-4: SHA-256 of "abc". -/
theorem test_sha256 : sha256 [0x61, 0x62, 0x63] =
    toBE 32 0xBA7816BF8F01CFEA414140DE5DAE2223B00361A396177A9CB410FF61F20015AD := by decide +kernel

/-- Ch. 14: CRC-32C of "123456789" is 0xE3069283. -/
theorem test_crc32c : crc32c [0x31, 0x32, 0x33, 0x34, 0x35, 0x36, 0x37, 0x38, 0x39] = 0xE3069283 := by decide +kernel

def tXfer (down : Option Nat) : Xfer :=
  { client := 5, index := 0x2110, sub := 0, down := down, data := List.replicate 8 1, toggle := false, waiting := false, seg := true }
def tChan (down : Option Nat) : State :=
  { tNode with node.chans := vput tNode.node.chans 0 (some (tXfer down)), node.fd := Vector.replicate 2 false }
def tReg : Reg := { index := 0x2800, highest := 3, access := 1, rank := 0, map := true, size := 4, dtype := 7 }
def tReg1 : State := { tNode with node.regs := [tReg] }

theorem witness_SdoTransfers_request :
    (0 : Byte) = 0 ∧ (18 : Byte).toNat ≠ tNode.node.nodeId.toNat ∧ (17 : Byte) ≠ 0 ∧ (17 : Byte).toNat = tNode.node.nodeId.toNat ∧
    (127 : Byte).toNat < 128 ∧ mgcUp tNode = true ∧ sessServed tNode tOpen = true ∧ openSess tNode.node tOpen = some tNode.node ∧
    (tChan none).node.chans.get 0 = some (tXfer none) ∧ (tXfer none).of ((6 : Byte).setWidth 7) = false ∧
    tNode.node.chans.get 0 = none ∧ otpRuns tNode.otp = false := by decide +kernel

/-- Objects of each kind the clauses name, and the first and last control-held index. -/
theorem witness_SdoTransfers_rows :
    (match findRow 0x1001 0 with
      | .ok r => r.acc == .ro
      | .error _ => false) = true ∧
    (match findRow 0x2110 0 with
      | .ok r => (r.acc == .rw || r.acc == .wo) && r.svc && r.len == 64
      | .error _ => false) = true ∧
    (match findRow 0x2012 0 with
      | .ok r => r.acc == .rw && !r.svc && r.len == 1
      | .error _ => false) = true ∧
    layoutRefuses { origin := .sess tOpen, service := false } 0x2800 3 none = none ∧
    mgcClientIndex 0x2800 = false ∧ mgcClientIndex 0x43FF = false ∧
    (tNode.node.regs.find? fun r => r.index.toNat == 0x2800) = none ∧
    (tReg1.node.regs.find? fun r => r.index.toNat == 0x2800) = some tReg ∧ (3 : Byte).toNat ≤ tReg.highest.toNat ∧
    tReg.access ≠ 2 ∧ tReg1.node.reqs.length < 8 := by decide

theorem witness_SdoTransfers_segment :
    tNode.node.chans.get 0 = none ∧ (tChan none).node.fd.get 0 = false ∧ true ≠ (tXfer none).toggle ∧
    (tXfer none).down = none ∧ (tXfer (some 9)).down = some 9 ∧ 9 < ((tXfer (some 9)).data ++ [1, 2]).length ∧
    ((tXfer (some 9)).data ++ [1]).length = 9 ∧ ((tXfer (some 9)).data ++ []).length < 9 ∧
    (tXfer none).client = 5 ∧ (tXfer none).seg = true ∧ (tXfer none).waiting = false ∧
    sessServed (tChan none) tOpen = true ∧
    sessServed { tChan none with node.busOff := vput tNode.node.busOff 0 true } tOpen = false := by decide

/-- R102: the identity object's vendor is answered; a write of it aborts with 0x0601_0002. -/
theorem test_sdo :
    gives (execSdoRequest 0 17 5 0x1001 0 (.read false) tNode) (fun t => t.out == [.dict tOpen (.data [0])]) = true ∧
    gives (execSdoRequest 0 17 5 0x1001 0 (.write 1 [0]) tNode) (fun t => t.out == [.dict tOpen (.abort 0x06010002)]) = true := by decide

/-- R98: an upload segment of a classic port carries 7 bytes. -/
theorem test_segment : gives (execSdoSegment 0 5 false [] (tChan none)) (fun t =>
    t.out == [.dict tOpen (.data (List.replicate 7 1))] && (t.node.chans.get 0).map (fun x => x.data) == some [1]) = true := by decide

/-- One whole record, none, and a message that is no whole record. -/
theorem witness_ControlHeldObjects_apps :
    (takeMsg (tSend 2 1 (toLE 2 0x2800 ++ [3, 0x21] ++ toLE 2 4 ++ toLE 2 7) tNode) 0x02).isSome = true ∧
    recordsOk (toLE 2 0x2800 ++ [3, 0x21] ++ toLE 2 4 ++ toLE 2 7) = true ∧ recordsOk [1, 2, 3] = false ∧ recordsOk [] = false ∧
    (takeMsg (tSend 3 1 (toLE 2 0x2800 ++ [0, 0, 0, 0, 0, 0]) tReg1) 0x03).isSome = true ∧
    (takeMsgIf (tSend 1 0 (toLE 2 0x2800 ++ [1, 0] ++ toLE 4 4 ++ [9, 8, 7, 6]) tReg1)
      fun m => m.kind == 0x01 && m.tag == 0 && byteAt m.payload 3 == 0).isSome = true ∧
    (tReg1.node.regs.any fun r => r.index.toNat == 0x2800 && r.map) = true ∧
    (tNode.node.regs.any fun r => r.index.toNat == 0x2800 && r.map) = false := by decide

def tReq : DictReq := { tag := 5, origin := .sess tOpen, index := 0x2800, sub := 1, data := none }

/-- The client of the request still waits on its port's channel. -/
def tWaiting : State :=
  { tReg1 with node.reqs := [tReq], node.chans := vput tReg1.node.chans 0 (some (wholeXfer 5 0x2800 1)) }

theorem witness_ControlHeldObjects_waits : mgcUp tWaiting = true ∧ tReq.origin = .sess tOpen ∧ tWaiting.awaits tOpen ∧
    (tWaiting.node.reqs.find? fun x => x.tag == tReq.tag) = some tReq :=
  ⟨by decide, rfl, ⟨by decide, wholeXfer 5 0x2800 1, by decide, by decide, by decide⟩, by decide⟩

/-- Status 0 and another; an abort code of Table 3-4 and one outside it. -/
theorem witness_ControlHeldObjects_status :
    byteAt (toLE 2 0x2800 ++ [1, 1] ++ toLE 4 0x08000022) 3 ≠ 0 ∧
    fieldLE (toLE 2 0x2800 ++ [1, 1] ++ toLE 4 0x08000022) 4 4 ∈ abortCodes ∧
    fieldLE (toLE 2 0x2800 ++ [1, 1] ++ toLE 4 0x0800FFFF) 4 4 ∉ abortCodes ∧
    tReq.data = none ∧ { tReq with data := some [1] }.data = some [1] := by decide

theorem witness_ControlHeldObjects_answers :
    (takeMsgIf (tSend 1 5 (toLE 2 0x2800 ++ [1, 0] ++ toLE 4 4 ++ [9, 8, 7, 6]) { tReg1 with node.reqs := [tReq] })
      fun m => m.kind == 0x01 && !(m.tag == 0 && byteAt m.payload 3 == 0)).isSome = true ∧ (5 : W16) ≠ 0 ∧
    (tReg1.node.reqs.find? fun r => r.tag == 5) = none ∧
    ({ tReg1 with node.reqs := [tReq] }.node.reqs.find? fun x => x.tag == tReq.tag) = some tReq := by decide

/-- R106: 250 ms without an answer: abort 0x0800_0020 and 0x2015:01. -/
theorem test_dictTimeout : gives (execDictReqTimeout 5 tWaiting) (fun t =>
    t.node.stats.get 0 == 1 && t.out == [.dict tOpen (.abort 0x08000020)]) = true := by decide

theorem witness_PollsAndMailbox_polls :
    pollRuns tObj = true ∧ pollEnabled tObj.node 1 = true ∧ tObj.node.client.get (pollPort tObj.node 1) = none ∧
    { tObj with node.client := vput tObj.node.client 0 (some 1) }.node.client.get (pollPort tObj.node 1) = some 1 ∧
    bits (byteAt (pollBytes tObj.node 1) 5).toNat 0 4 = 2 ∧ (tObj.node.polls.get 1).fails < 2 ∧
    2 ≤ ({ tObj.node.polls.get 1 with fails := 2 } : PollRt).fails := by decide

theorem test_poll : gives (execPollDue 1 tObj) (fun t => t.out == [.poll 0 0x21 0x2000 0] && t.node.client.get 0 == some 1) = true := by decide

theorem witness_PollsAndMailbox_mailbox :
    pcieUp tNode = true ∧ (1 : W32).getLsbD 0 = true ∧ { tNode with node.hmb.busy := true }.node.hmb.busy = true ∧
    hmbOk (toLE 8 (0x1001 + 2 * 2 ^ 24)) = false ∧ hmbOk tNode.node.hmb.req = true ∧
    (openSess { tNode.node with hmb.busy := true } .host).isSome = true ∧
    (0 : W32).getLsbD 0 = false ∧ tNode.node.hmb.busy = false ∧ tNode.cleatA.hostReq = [] ∧
    8 ≤ { tNode with cleatA.hostReq := List.replicate 8 [] }.cleatA.hostReq.length ∧ mgcUp tNode = true ∧
    { tNode with cleatA.hostRsp := [[1]] }.cleatA.hostRsp = [1] :: [] := by decide

def tPert : State := { tNode with otp.record := [1, 0, 0, 1] }
/-- Kind 1 with ENABLE and a DURATION of 1 ms. -/
def tString : Bytes := padTo 16 ([1, 0] ++ toLE 2 1)

theorem witness_Perturbations_asks : tPert.mayAsk tSvc ∧ tPert.mayAsk tOpen ∧ isService tPert.node tOpen = false := by
  simp only [State.mayAsk]; decide

theorem witness_Perturbations :
    mgcUp tPert = true ∧ (6 : Fin 8) ≠ 0 ∧ tString.length = 16 ∧
    (byteAt tString 0).getLsbD 0 = true ∧ pertOk 6 (padTo 16 [1, 0]) = false ∧
    pertMay tNode (isService tNode.node tSvc) = false ∧ pertMay tPert (isService tPert.node tSvc) = true ∧
    isService tPert.node tSvc = true ∧ byteAt (List.replicate 16 (0 : Byte)) 0 = 0 := by decide

theorem witness_Perturbations_range : (pertOk 1 tString || pertOk 2 tString || pertOk 3 tString || pertOk 4 tString
    || pertOk 5 tString || pertOk 6 tString || pertOk 7 tString) = true := by decide


/-! ## Fabric mode -/

def tHello (c : ChipId) (healthy : Bool) : HelloRec := { chip := c, serial := BitVec.ofNat 80 (c.val + 1), healthy := healthy }

/-- The chip heard one other, 5 or 1. -/
def tHeard (r : HelloRec) : State := { tFab 0 with fab.hellos := [r] }

theorem witness_FabricBringUp_go : domUp (tFab 0) 15 = true ∧ fabUp (tFab 0) = true ∧ (tFab 0).fab.role ≠ 3 ∧
    (tFab 0).fab.hellos.contains (tHello 5 true) = false ∧ (tHeard (tHello 5 true)).fab.hellos.contains (tHello 5 true) = true ∧
    (tFab 0).fab.go = true ∧ (tFab 0).fab.role = 0 := by decide

/-- Own ID twice; the quorum of 2 missed and met exactly; no healthy chip; the head this chip, and another. -/
theorem witness_FabricBringUp_election :
    duplicated (tHeard { tHello 3 true with serial := 99 }) (ownChip (tFab 0)) = true ∧
    duplicated (tHeard (tHello 5 true)) (ownChip (tFab 0)) = false ∧
    (((chipsHeard (tFab 0)).map fun r => r.chip).eraseDups).length < (tFab 0).fab.expect.toNat / 2 + 1 ∧
    (tFab 0).fab.expect.toNat / 2 + 1 ≤ (((chipsHeard (tHeard (tHello 5 true))).map fun r => r.chip).eraseDups).length ∧
    (∀ r ∈ chipsHeard { tHeard (tHello 5 false) with ddr.ready := false }, r.healthy = false) ∧
    (∃ h ∈ chipsHeard (tHeard (tHello 5 true)), h.healthy = true ∧ h.chip = ownChip (tFab 0)) ∧
    (∃ h ∈ chipsHeard (tHeard (tHello 1 true)), h.healthy = true ∧ h.chip ≠ ownChip (tFab 0)) := by decide

/-- R421: chip 1, healthy and lower than 3, becomes the head. -/
theorem test_election : gives (execFabricElection (tHeard (tHello 1 true))) (fun t => t.fab.role == 2 && t.fab.head == some 1) = true ∧
    gives (execFabricElection (tFab 0)) (fun t => t.fab.role == 3) = true := by decide

def tHead : State := { tFab 1 with fab.members := 0x28, fab.head := some 3 }
theorem witness_FabricBringUp_members :
    fabUp tHead = true ∧ tHead.fab.role = 1 ∧ (5 : ChipId) ≠ ownChip tHead ∧ tHead.fab.members.getLsbD (5 : ChipId).val = true ∧
    (3 : ChipId) = ownChip tHead ∧ fabUp tMember = true ∧ tMember.fab.role = 2 ∧ tMember.fab.head = some 1 ∧
    (1 : ChipId) ≠ ownChip tMember ∧ tHead.fab.members.getLsbD (63 : ChipId).val = false ∧
    routePort tMember 1 = some 0 ∧ (tMember.shl.get 0).st = .active ∧ (tMember.shl.get 0).txq = [] ∧
    (tMember.shl.get 0).replay.length < 64 ∧ (∀ k : Fin 8, 5 ≤ (tMember.shl.get 0).credits.get k) := by decide

theorem test_lost : gives (execLost 3 tMember) (fun t => t.fab.role == 3 && t.node.mode == 3) = true := by decide

theorem witness_RoutedAndRemote_mgmt :
    fabUp tMember = true ∧ tMember.fab.role = 2 ∧ tHead.fab.role ≠ 2 ∧ (tFab 0).fab.role = 0 ∧
    (0x0A : W64).getLsbD (ownChip tMember).val = true := by decide

def tRouted : State :=
  { tHead with node.routed := [(tOpen, 5, true)], node.chans := vput tHead.node.chans 0 (some (wholeXfer 5 0x2680 6)) }

theorem witness_RoutedAndRemote_asks : tHead.mayAsk tOpen ∧ tRouted.awaits tOpen :=
  ⟨by simp only [State.mayAsk]; decide, by decide, wholeXfer 5 0x2680 6, by decide, by decide, by decide⟩

theorem witness_RoutedAndRemote_routed :
    mgcUp tHead = true ∧ (List.replicate 3 (0 : Byte)).length < 4 ∧ 1024 < (List.replicate 1025 (0 : Byte)).length ∧ 4 ≤ (List.replicate 4 (0 : Byte)).length ∧ (byteAt [0, 0, 0, 1] 3).toNat ≤ 1 ∧
    (5 : ChipId) ≠ ownChip tHead ∧ tHead.fab.members.getLsbD 6 = false ∧ { tHead with fab.lost := 0x20 }.fab.lost.getLsbD 5 = true ∧
    tHead.fab.lost.getLsbD 5 = false ∧ tRouted.node.routed = (tOpen, 5, true) :: [] ∧ fabUp tRouted = true ∧ tRouted.fab.role = 1 := by decide +kernel

/-- R128: 100 ms without the chip's answer. -/
theorem test_routeTimeout : gives (execRouteTimeout ⟨tOpen, 5⟩ tRouted) (fun t => t.out == [.dict tOpen (.abort 0x08000020)]) = true := by decide

def tRemote (w : RemWait) : State := { tMember with fab.remotes := [{ tag := 7, home := 1, wait := w }] }

theorem witness_RoutedAndRemote_remote :
    (∀ w ∈ (tRemote (.mast 0)).fab.remotes, w.tag ≠ 8) ∧ mgcUp (tRemote (.mast 0)) = true ∧
    (tRemote (.mast 0)).fab.remotes = { tag := 7, home := 1, wait := .mast 0 } :: [] ∧
    (tRemote (.sparLoad 15)).fab.remotes = { tag := 7, home := 1, wait := .sparLoad 15 } :: [] := by decide


/-! ## Input pipeline -/

/-- Context 4095: raw Utane stream from any source on MAC 0, match 9, two slots of 256 bytes at DRAM 0x10000. -/
def tCtx : Ctx :=
  { Ctx.reset with
    cfg := BitVec.ofNat 32 (1 + 2 * 2 ^ 16), match1 := 9, buf := 0x10000, slotSize := 0x100, tofs := 0x100, timers := 0x10001, st := 1,
    slots := [CapSlot.empty, CapSlot.empty] }

def tCapEntry : W128 := BitVec.ofNat 128 (0x100000 * 2 ^ 32 + 2 ^ (64 + 18) + 3 * 2 ^ 96)

def tCap (c : Ctx) : State :=
  { tUp with cap.ctxs := [(4095, c)], act.force := Tbl.write (fun _ => 0) tUp.act.force 20 tCapEntry }

theorem witness_Cap_up : (tCap tCtx).capWf = true ∧ (tCap tCtx).memWf = true ∧ capUp (tCap tCtx) = true ∧ domUp (tCap tCtx) 17 = true ∧
    capUp { tUp with cleatC.fenced := 0x80000 } = false ∧
    actCheck (tCap tCtx) 26 accStore (capBase + 0x40000) 64 = none ∧ actCheck (tCap tCtx) 26 accStore (capBase + 0x40000) 128 = none ∧
    (actCheck { tUp with act.force := [] } 26 accStore (capBase + 0x40000) 128).isSome = true ∧ pickSlot tCtx = some 0 ∧
    pickSlot { tCtx with slots := [{ CapSlot.empty with st := .held }] } = none := by decide

/-! Ethernet records that carry: a stream frame with a whole sample, with its first half, of a stream nobody takes, with
a bad header CRC; a datagram to an unlisted port; an RTP packet and one that is none. -/

def tRecWhole : Bytes := toBE 128 0x000000000000000044000000000000004500004400010000401100000a0000010a0000020005b7980030977c570105010000000900010000000000000000000000000000000000080008304101020304050607080000000000000000000000000000000000000000000000000000000000000000000000000000000000000000
def tRecPart : Bytes := toBE 128 0x000000000000000040000000000000004500004000010000401100000a0000010a0000020005b798002ce209570105010000000900010000000000000000000000000000000000080004f1cd01020304000000000000000000000000000000000000000000000000000000000000000000000000000000000000000000000000
def tRecStray : Bytes := toBE 128 0x000000000000000044000000000000004500004400010000401100000a0000010a0000020005b79800307274570105010000000800010000000000000000000000000000000000080008554a01020304050607080000000000000000000000000000000000000000000000000000000000000000000000000000000000000000
def tRecBadHdr : Bytes := toBE 128 0x000000000000000044000000000000004500004400010000401100000a0000010a0000020005b7980030967c570105010000000900010000000000000000000000000000000000080008314101020304050607080000000000000000000000000000000000000000000000000000000000000000000000000000000000000000
def tRecBadPort : Bytes := toBE 128 0x000000000000000044000000000000004500004400010000401100000a0000010a0000020005000100304f14570105010000000900010000000000000000000000000000000000080008304101020304050607080000000000000000000000000000000000000000000000000000000000000000000000000000000000000000
def tRecRtp : Bytes := toBE 128 0x000000000000000038000000000000004500003800010000401100000a0000010a0000020005138c00244644801a00010000006400000009000000000132000001020304050607080000000000000000000000000000000000000000000000000000000000000000000000000000000000000000000000000000000000000000
def tRecRtpBad : Bytes := toBE 64 0x000000000000000028000000000000004500002800010000401100000a0000010a0000020005138c0014d8320000000000000000000000000000000000000000

def tIn (c : Ctx) (r : Bytes) : State := { tCap c with cap.ingress := vput tUp.cap.ingress 0 [(r, List.replicate 32 7)] }
def tRtpCtx : Ctx := { tCtx with cfg := BitVec.ofNat 32 (1 + 2 * 2 + 2 * 2 ^ 16), slotSize := 0x1000, tofs := 0x400, geom := 0x100010 }

/-- The UDP payload of the record at the head of MAC 0's window, as a stream frame or as an RTP packet. -/
def tSf (s : State) : Option Udp :=
  match ingressHead s 0 with
  | .sf u _ => some u
  | _ => none
def tRtp (s : State) : Option Udp :=
  match ingressHead s 0 with
  | .rtp u _ => some u
  | _ => none

theorem witness_IngressAndFrames_heads :
    ingressHead (tCap tCtx) 0 = .none ∧ ingressHead (tIn tCtx tRecBadPort) 0 = .other ∧
    ingressHead (tIn tCtx (overwrite tRecWhole 80 [0])) 0 = .bad ∧
    (tSf (tIn tCtx tRecWhole)).map (fun u => (sfHeaderOk u, fieldBE u.data 24 4, fieldBE u.data 28 2, fieldBE u.data 12 4)) = some (true, 8, 8, 0) ∧
    (tSf (tIn tCtx tRecPart)).map (fun u => (sfHeaderOk u, fieldBE u.data 24 4, fieldBE u.data 28 2)) = some (true, 8, 4) ∧
    (tSf (tIn tCtx tRecBadHdr)).map sfHeaderOk = some false ∧
    ingressUsed ((tCap tCtx).cap.ingress.get 0) + ingressSize tRecWhole ≤ 0x10000 ∧
    0x10000 < ingressUsed (List.replicate 512 (tRecWhole, [])) + ingressSize tRecWhole := by decide +kernel

theorem witness_IngressAndFrames_contexts :
    (tSf (tIn tCtx tRecWhole)).map (fun u => findCtx (tIn tCtx tRecWhole) fun c => (c.kind == 0 || c.kind == 1) && ethFits 0 u.src c &&
      c.match1.toNat == fieldBE u.data 4 4) = some (some 4095) ∧
    (tSf (tIn tCtx tRecStray)).map (fun u => findCtx (tIn tCtx tRecStray) fun c => (c.kind == 0 || c.kind == 1) && ethFits 0 u.src c &&
      c.match1.toNat == fieldBE u.data 4 4) = some none ∧
    tCtx.kind = 0 ∧ tCtx.asm = none ∧ tCtx.newest = none ∧ tCtx.sgrp = 0 ∧ 8 ≤ tCtx.slotSize.toNat - 128 ∧
    actCheck (tIn tCtx tRecWhole) 18 accStore (tCtx.slotAddr 0 + 128) 8 = none ∧
    ramErr (tIn tCtx tRecWhole) (tCtx.slotAddr 0 + 128) 8 = none := by decide

theorem witness_IngressAndFrames_rtp :
    (tRtp (tIn tRtpCtx tRecRtpBad)).map (fun u => (rtpOf u.data).isSome) = some false ∧
    ((tRtp (tIn tRtpCtx tRecRtp)).bind fun u => (rtpOf u.data).map fun r => (r.marker, r.ssrc, (rtpJpeg tRtpCtx r.data).status,
      decide ((rtpJpeg tRtpCtx r.data).ofs + (rtpJpeg tRtpCtx r.data).data.length ≤ tRtpCtx.tofs.toNat - 128))) = some (false, 9, 0, true) ∧
    ((tRtp (tIn tRtpCtx tRecRtp)).bind fun u => (rtpOf u.data).map fun r => (findCtx (tCap tRtpCtx) fun c => c.kind == 2 &&
      ethFits 0 u.src c && c.match1.toNat == r.ssrc, findCtx (tCap tCtx) fun c => c.kind == 2 && ethFits 0 u.src c &&
      c.match1.toNat == r.ssrc)) = some (some 4095, none) ∧
    tRtpCtx.kind = 2 ∧ tRtpCtx.asm = none ∧ tRtpCtx.newest = none ∧ tRtpCtx.sgrp = 0 ∧ pickSlot tRtpCtx = some 0 := by decide

/-- R146: a whole sample is READY with the record's stamp; its first half leaves the slot FILLING. -/
theorem test_sframe :
    gives (execSframeFragment 0 (tIn tCtx tRecWhole)) (fun t => (slotAt (ctxOf t 4095) 0).st == .ready &&
      t.rd 0x10080 8 == [1, 2, 3, 4, 5, 6, 7, 8]) = true ∧
    gives (execSframeFragment 0 (tIn tCtx tRecPart)) (fun t => (slotAt (ctxOf t 4095) 0).st == .filling) = true := by decide +kernel

theorem witness_ContextCommands_asm :
    (ctxOf (tCap tCtx) 4095).asm = none ∧
    covered [(0, 4)] 8 = false ∧ covered [(0, 4), (4, 4)] 8 = true ∧ capParty (tCap tCtx) (.mast 1) = true ∧
    (ctxOf (tCap tCtx) 4095).en = true ∧ (ctxOf (tCap tCtx) 0).en = false := by decide

/-- A host context: KIND 5. -/
def tHost : Ctx := { tCtx with cfg := BitVec.ofNat 32 (1 + 5 * 2 + 2 * 2 ^ 16) }
def tTaken : Ctx := { tHost with slots := [{ CapSlot.empty with st := .filling, host := true }, { CapSlot.empty with st := .ready }] }

theorem witness_ContextCommands_host :
    (ctxOf (tCap tHost) 4095).en = true ∧ (ctxOf (tCap tHost) 4095).kind = 5 ∧ pickSlot (ctxOf (tCap tHost) 4095) = some 0 ∧
    pickSlot (ctxOf (tCap tTaken) 4095) = none ∧
    (slotAt tTaken 0).host = true ∧ (slotAt tTaken 0).st = .filling ∧ 0 < tTaken.slots.length ∧ (slotAt tTaken 1).host = false ∧
    (slotAt tTaken 1).st = .ready ∧ (slotAt tHost 0).st = .free ∧ fieldLE [0xFF, 0x0F, 0, 0] 0 2 % 4096 = 4095 ∧
    bits (0x0001_0FFF : W32).toNat 0 12 = 4095 ∧ bits (0x0001_0FFF : W32).toNat 16 8 = 1 := by decide

/-- R155: the read answers slot 0 and sets it FILLING; CAP_REL frees the READY slot 1. -/
theorem test_capAcq : gives (execCapAcq (.mast 0) 4095 (tCap tHost)) (fun t =>
      t.out == [.answer (.data [0, 0, 0, 0])] && (slotAt (ctxOf t 4095) 0).st == .filling) = true ∧
    gives (execCapRel 0x10FFF (tCap tTaken)) (fun t => (slotAt (ctxOf t 4095) 1).st == .free && (slotAt (ctxOf t 4095) 0).st == .filling) = true := by decide +kernel

theorem witness_ContextCommands_fields :
    ctlUp (tCap tCtx) = true ∧ (ctxOf (tCap tCtx) 4095).en = true ∧ (ctxOf (tCap tCtx) 0).en = false ∧
    (8 < 9 ∨ 11 < 8) ∧ (9 ≤ 9 ∧ 9 ≤ 11) ∧ (9 ≤ 11 ∧ 11 ≤ 11) ∧ (13 ≤ 13) ∧ (2 ≤ 12 ∧ 12 ≤ 12) ∧
    (1 : W64).getLsbD 0 = true ∧ (0 : W64).getLsbD 0 = false := by decide

/-- Ch. 4 Contexts: a write of GEOM to an enabled context aborts; enabling makes CFG's slots. -/
theorem test_contextWrite :
    gives (execContextWrite 4095 4 0 (tCap tCtx)) (fun t => t.out == [.answer (.abort 0x08000022)]) = true ∧
    gives (execContextWrite 4095 1 (BitVec.ofNat 64 (1 + 3 * 2 ^ 16)) (tCap { tCtx with cfg := 0, slots := [] }))
      (fun t => (ctxOf t 4095).slots.length == 3 && (ctxOf t 4095).st == 1) = true := by decide

theorem witness_ContextCommands_loss :
    (ctxOf (tCap tCtx) 4095).en = true ∧ (ctxOf (tCap tCtx) 4095).lossMs ≠ 0 ∧ (ctxOf (tCap tCtx) 4095).st ≠ 3 := by decide

theorem test_sourceLoss : gives (execSourceLossTimeout 4095 (tCap tCtx)) (fun t =>
    (ctxOf t 4095).st == 3 && stands t 0xFF30 4095) = true := by decide

/-- A due window of group 0 with no member, and a closed set whose one sample is complete. -/
def tAlign : State :=
  { tCap { tCtx with slots := [{ CapSlot.empty with st := .held, done := true, group := 0 }, CapSlot.empty] } with
    cap.windows := [{ group := 63, key := 5 }], cap.sets := [{ group := 63, key := 5, members := [(4095, 0)], missing := false }] }

theorem witness_ContextCommands_align :
    (tAlign.cap.windows.find? fun w => w.group == 63) = some { group := 63, key := 5 } ∧
    (tAlign.cap.sets.find? fun x => x.group == 63) = some { group := 63, key := 5, members := [(4095, 0)], missing := false } ∧
    ([(4095, 0)].all fun p : Nat × Nat => (slotAt (ctxOf tAlign p.1) p.2).done) = true ∧
    ([(4095, 1)].all fun p : Nat × Nat => (slotAt (ctxOf tAlign p.1) p.2).done) = false ∧
    windowPassed tAlign (alignCfg tAlign 63) 5 = false ∧ alignPhase (alignCfg tAlign 63) = false ∧
    windowPassed tAlign (alignCfg tAlign 63) 0 = true ∧ alignPhase (padTo 16 [2]) = true ∧
    (membersOf tAlign 63).length = 0 ∧ alignPartial (alignCfg tAlign 63) = false ∧ alignPartial (padTo 16 [4]) = true ∧
    ({ group := 63, key := 5, members := [], missing := true } : ASet).missing = true := by decide

/-- A member of group 0 without a sample near the window. -/
theorem witness_ContextCommands_member : (membersOf (tCap tCtx) 0).length = 1 ∧
    ((membersOf (tCap tCtx) 0).filterMap fun e => (nearest (padTo 16 [1]) 5 e.2).map fun k => (e.1, k)).length = 0 := by decide

/-- CSI-2: context 4095 of KIND 3 on CSI1, virtual channel 2. -/
def tCsiCtx : Ctx := { tCtx with cfg := BitVec.ofNat 32 (1 + 3 * 2 + 4 * 16 + 2 * 2 ^ 16), match1 := 2, geom := 0x40004 }
def tCsi : State := { tCap tCsiCtx with
  cap.csi := [{ rx := 1, vc := 2, ctx := 4095, slot := 1, lines := 3, embedded := 0, damaged := 0, ranges := [] }] }
def tPkt (ty : BitVec 6) (e : Nat) : CsiPacket := { vc := 2, dataType := ty, payload := [1, 2, 3, 4], headerErrs := e, crcOk := true }

theorem witness_CsiJpegAndPolls_csi :
    csiFind (tCap tCsiCtx) 1 2 = none ∧ (csiFind tCsi 1 2).isSome = true ∧ 1 < (ctxOf tCsi 4095).slots.length ∧
    2 ≤ (tPkt 0x2A 2).headerErrs ∧ (tPkt 0x02 0).headerErrs = 0 ∧ (tPkt 0x30 0).dataType ∉ [0x02, 0x03, 0x2A, 0x2B, 0x2C, 0x1E, 0x12] ∧
    (findCtx (tCap tCsiCtx) fun c => c.kind == 3 && c.port == 3 + (1 : SrcId).val && bits c.match1.toNat 0 2 == (2 : SrcId).val) = some 4095 ∧
    (findCtx (tCap tCtx) fun c => c.kind == 3 && c.port == 3 + (1 : SrcId).val && bits c.match1.toNat 0 2 == (2 : SrcId).val) = none ∧
    pickSlot tCsiCtx = some 0 ∧ pickSlot { tCsiCtx with slots := [{ CapSlot.empty with st := .held }] } = none ∧
    3 < (ctxOf tCsi 4095).height ∧ (tPkt 0x2A 1).headerErrs ≤ 1 ∧ (tPkt 0x2A 1).dataType ∈ [0x2A, 0x2B, 0x2C, 0x1E] := by decide

/-- R152: two header errors discard a packet and a frame start; one corrected error of a frame start is counted. -/
theorem test_csiHeader : gives (execCsiPacket 1 (tPkt 0x2A 2) tCsi) (fun t => t.cap.stats.get 5 == 1) = true ∧
    gives (execCsiFrameStart 1 ⟨2, 2⟩ tCsi) (fun t => t.cap.stats.get 5 == 1) = true ∧
    gives (execCsiFrameStart 1 ⟨1, 2⟩ (tCap tCsiCtx)) (fun t => t.cap.stats.get 7 == 1 && (csiFind t 1 2).isSome) = true := by decide +kernel

def tJob (row : Nat) : JduJob :=
  { ctx := 4095, slot := 0, len := 8, gaps := [], row := row, flip := none,
    info := { width := 8, height := 8, mcuW := 8, mcuH := 8, scan := 0, restart := 0, tabs := [], lost := true } }

/-- JDU1 works on slot 0, whose header says a ROI of 4 rows; the same frame is queued. -/
def tJdu (row : Nat) : State :=
  { tCap tCtx with
    cap.jdu := vput tUp.cap.jdu 1 (some (tJob row)), cap.jpegQ := [tJob 0],
    mem := memWriteN [] 0x10038 (toLE 2 0 ++ toLE 2 0 ++ toLE 2 4 ++ toLE 2 4) }

theorem witness_CsiJpegAndPolls_jdu :
    jduUp (tJdu 0) 1 = true ∧ (tJdu 0).cap.jdu.get 0 = none ∧ (tJdu 0).cap.jpegQ.find? (jpegMayStart (tJdu 0)) = some (tJob 0) ∧
    (tCap tCtx).cap.jpegQ.find? (jpegMayStart (tCap tCtx)) = none ∧ (tJdu 0).cap.jdu.get 1 = some (tJob 0) ∧
    (tJob 3).row < (slotRoi (tJdu 3) 4095 0).h ∧ (slotRoi (tJdu 4) 4095 0).h ≤ (tJob 4).row ∧
    0 < (ctxOf (tJdu 0) 4095).slots.length ∧ (tJdu 0).pert.active.get 6 = false := by decide

/-- A two-wire context: KIND 4 on TW5, register 0x10, 2 bytes, device 0x48. -/
def tTwCtx : Ctx := { tCtx with cfg := BitVec.ofNat 32 (1 + 4 * 2 + 10 * 16 + 2 * 2 ^ 16), match1 := 0x11048 }
def tTwPoll : State := { tCap tTwCtx with tw := vput tUp.tw 5 { TwPort.reset with polled := [(4095, [], some [1, 2]), (4095, [], none)] } }

theorem witness_CsiJpegAndPolls_polls :
    capUp tTwPoll = true ∧ (ctxOf tTwPoll 4095).en = true ∧ (ctxTw (ctxOf tTwPoll 4095)).isSome = true ∧ twUp tTwPoll 5 = true ∧
    (ctxOf tTwPoll 4095).kind = 4 ∧ (ctxOf tTwPoll 4095).slotTrig = false ∧ { tTwCtx with match2 := 0x40000000 }.slotTrig = true ∧
    (ctxOf tTwPoll 4095).twDue = false ∧ (twPort tTwPoll 5).fault = false ∧
    (twPort tTwPoll 5).polled = (4095, [], some [1, 2]) :: [(4095, [], none)] ∧ pickSlot (ctxOf tTwPoll 4095) = some 0 := by decide


/-! ## Spar cores and the Eaves engine -/

/-- A bundle of 32 bytes: the slots named in its header mask, in the places of Table 5-1. -/
def tBundle (mask ls0 va0 sb : Nat) : Nat := mask + ls0 * 2 ^ 8 + va0 * 2 ^ 96 + sb * 2 ^ 224

/-- SP15 runs with a bundle at pc 0. -/
def tSpar (w : Nat) : State :=
  { tUp with
    mem := memWriteN [] (itcmBase 15) (toLE 32 w),
    spar := vput tUp.spar 15 { SparCore.reset with state := 1, pend := 1, a := vput SparCore.reset.a 2 (BitVec.ofNat 48 (dtcmBase 15)) } }

def tSb (op rd imm : Nat) : Nat := tBundle 0x20 0 0 (op + rd * 2 ^ 11 + imm * 2 ^ 21)
def tVa : Nat := tBundle 0x04 0 (0x01 + 5 * 2 ^ 11 + 1 * 2 ^ 16 + 2 * 2 ^ 21) 0
def tLs (op reg : Nat) : Nat := tBundle 0x01 (op + reg * 2 ^ 11 + 2 * 2 ^ 16) 0 0

/-- The bundle at pc 0 of SP15. -/
def tAt (w : Nat) : Bundle := bundleOf ((tSpar w).rdLE (itcmBase 15 + (coreOf (tSpar w) 15).pc.toNat / 32 * 32) 32)

theorem witness_BundleIssued_core :
    sparRuns (tSpar 0) 15 = true ∧ (coreOf (tSpar 0) 15).waiting = false ∧ (coreOf (tSpar 0) 15).closing = false ∧
    (coreOf (tSpar 0) 15).recallTo = none ∧ (coreOf (tSpar 0) 15).tile.active = false ∧ (coreOf (tSpar 0) 15).tile.susp = false ∧
    (coreOf (tSpar 0) 15).rptLeft = 0 ∧ sparStoresOut (tSpar 0) 15 = false ∧
    sparStoresOut { tSpar 0 with fab.remotes := [{ tag := 1, home := 1, wait := .sparStore 15 0 }] } 15 = true ∧
    0x20000 ≤ ({ coreOf (tSpar 0) 15 with pc := 0x20000 } : SparCore).pc.toNat ∧ (0x1FFE0 : W32).toNat < 0x20000 := by decide

/-- An illegal header, a NOP, MOVI, a branch inside and outside the ITCM, WAITPH on a slot with and without its event,
TRAP and DONE. -/
theorem witness_BundleIssued_slots :
    bundleIllegal (tAt 0x40) = true ∧ bundleIllegal (tAt 0) = false ∧ (tAt 0).sb = 0 ∧
    bundleIllegal (tAt (tSb 0x10 3 7)) = false ∧ slotOp (tAt (tSb 0x10 3 7)).sb = 0x10 ∧
    sbActs (coreOf (tSpar 0) 15) (tAt (tSb 0x10 3 7)).sb = true ∧
    bundleIllegal (tAt (tSb 0x20 0 1)) = false ∧ slotOp (tAt (tSb 0x20 0 1)).sb = 0x20 ∧
    inItcm (brTarget (coreOf (tSpar 0) 15) (tAt (tSb 0x20 0 1)).sb) = true ∧
    inItcm (brTarget (coreOf (tSpar 0) 15) (tAt (tSb 0x20 0 0x7FF)).sb) = false ∧
    bundleIllegal (tAt (tSb 0x26 0 63)) = false ∧ slotOp (tAt (tSb 0x26 0 63)).sb = 0x26 ∧
    (coreOf (tSpar 0) 15).pend.getLsbD (waitphOf (tAt (tSb 0x26 0 0)).sb).1.val = true ∧
    (coreOf (tSpar 0) 15).pend.getLsbD (waitphOf (tAt (tSb 0x26 0 63)).sb).1.val = false ∧
    bundleIllegal (tAt (tSb 0x2C 0 0)) = false ∧ slotOp (tAt (tSb 0x2C 0 0)).sb = 0x2C ∧
    bundleIllegal (tAt (tSb 0x2B 0 0)) = false ∧ slotOp (tAt (tSb 0x2B 0 0)).sb = 0x2B := by decide

theorem witness_BundleIssued_vector :
    bundleIllegal (tAt tVa) = false ∧ (tAt tVa).ls0 = 0 ∧ (tAt tVa).va1 = 0 ∧ (tAt tVa).ls1 = 0 ∧ (tAt tVa).tm = 0 ∧ (tAt tVa).sb = 0 ∧
    slotOp (tAt tVa).va0 = 0x01 ∧ vaEt (tAt tVa).va0 ≤ 2 := by decide

theorem witness_BundleIssued_memory :
    bundleIllegal (tAt (tLs 0x02 1)) = false ∧ slotOp (tAt (tLs 0x02 1)).ls0 = 0x02 ∧ lsAm (tAt (tLs 0x02 1)).ls0 = 0 ∧
    bitOf (tAt (tLs 0x02 1)).ls0 10 = false ∧ (tSpar (tLs 0x02 1)).memWf = true ∧
    placeOf (tSpar 0) (wrapInt 48 (((coreOf (tSpar 0) 15).a.get 2).toNat + lsOfs (tAt (tLs 0x02 1)).ls0)) = .here (dtcmBase 15) ∧
    ownTcm 15 (dtcmBase 15) (lsSz (tAt (tLs 0x02 1)).ls0) = true ∧
    bundleIllegal (tAt (tLs 0x04 1)) = false ∧ slotOp (tAt (tLs 0x04 1)).ls0 = 0x04 ∧ ownTcm 15 (dtcmBase 15) 4 = true := by decide

/-- R201, R203: WAITPH of a pending event passes at once; TRAP halts with CODE 0x0107. -/
theorem test_bundle :
    gives (execBundleIssue 15 (tSpar (tSb 0x26 0 0))) (fun t => (coreOf t 15).pc == 32 && (coreOf t 15).pend == 0) = true ∧
    gives (execBundleIssue 15 (tSpar (tSb 0x2C 0 0))) (fun t => (coreOf t 15).state == 2 && (coreOf t 15).fcode == 0x0107) = true := by decide

def tIrq : State := { tSpar 0 with spar := vput (tSpar 0).spar 15 { coreOf (tSpar 0) 15 with gie := true, ie := 0x11, irq := 0x10, ivec := 0x1FF60 } }
def tWait (iw : Bool) : State := { tSpar 0 with spar := vput (tSpar 0).spar 15 { coreOf (tSpar 0) 15 with wait := .ph 0 iw false } }

theorem witness_SparEvents :
    sparRuns (tWait true) 15 = true ∧ (coreOf (tWait true) 15).wait = .ph 0 true false ∧ (coreOf (tWait true) 15).pend.getLsbD 0 = true ∧
    ({ coreOf (tWait true) 15 with pend := 0 } : SparCore).pend.getLsbD 0 = false ∧
    sparRuns tIrq 15 = true ∧
    (coreOf tIrq 15).ivec.toNat + 32 * irqLine (coreOf tIrq 15) < 0x20000 ∧
    tIrq.boot.dprActive = false ∧ tIrq.cleatC.fifo.length < 32 ∧ (coreOf (tWait true) 15).waiting = true ∧
    sparUp tIrq 15 = true ∧ domUp tIrq (sparDom 15) = true ∧ (1 : W32).getLsbD 0 = true ∧ (2 : W32).getLsbD 0 = false := by decide

/-- An interrupt that is ready, of a core that waits for nothing or for a slot with IW; one that GIE does not admit. -/
theorem witness_SparEvents_ready : (coreOf tIrq 15).gie = true ∧ (coreOf tIrq 15).irq &&& (coreOf tIrq 15).ie ≠ 0 ∧
    (coreOf tIrq 15).inHandler = false ∧ (coreOf tIrq 15).irqHold = false ∧ (coreOf tIrq 15).closing = false ∧
    (coreOf tIrq 15).rptLeft = 0 ∧ (coreOf tIrq 15).recallTo = none ∧ (coreOf tIrq 15).wait = .none ∧
    (∃ (n : PhtSlotId) (due : Bool), (coreOf (tWait true) 15).wait = .ph n true due) ∧
    (coreOf tIrq 15).tile.active = false ∧ (coreOf (tSpar 0) 15).gie = false :=
  ⟨by decide, by decide, by decide, by decide, by decide, by decide, by decide, by decide, ⟨0, false, by decide⟩, by decide, by decide⟩

/-- R195: line 4 goes to IVEC + 128. -/
theorem test_sparInterrupt : gives (execSparInterrupt 15 tIrq) (fun t =>
    (coreOf t 15).pc == 0x1FFE0 && !(coreOf t 15).gie && (coreOf t 15).inHandler) = true := by decide

/-- A descriptor of a 1 by 1 convolution of one pixel that the engine can run, one of an unlisted operation, and one
of no output rows. -/
def tDesc (op rows : Nat) : Bytes :=
  padTo 128 (toLE 4 op ++ [1, 1, 1, 1] ++ toLE 8 0 ++ toLE 2 1 ++ toLE 2 1 ++ toLE 2 1 ++ toLE 2 1 ++ toLE 2 1 ++ toLE 2 0 ++ toLE 2 rows)

/-- A TILE runs a descriptor of so many rows, and a line is pending. -/
def tTile (rows : Nat) : State :=
  { tIrq with spar := vput tIrq.spar 15 { coreOf tIrq 15 with
      tile := { (coreOf tIrq 15).tile with active := true }, tdesc := overwrite (tDesc 0x60 rows) 0x12 [BitVec.ofNat 8 rows] } }

theorem witness_SparEvents_tile : tileActs (tTile 5) 15 = true ∧ (tTile 5).memWf = true ∧ sparRuns (tTile 5) 15 = true ∧
    (coreOf (tTile 5) 15).tile.active = true ∧ min (max 1 0) (tileLeft (coreOf (tTile 5) 15)) < tileLeft (coreOf (tTile 5) 15) ∧
    min (max 1 5) (tileLeft (coreOf (tTile 5) 15)) = tileLeft (coreOf (tTile 5) 15) := by decide +kernel

def tEe (a : Option Nat) (st : BitVec 2) : State :=
  { tUp with
    ee.offered := if st = 0 then a else none, ee.running := if st = 0 then none else a, ee.state := st,
    act.force := Tbl.write (fun _ => 0) tUp.act.force 20 (BitVec.ofNat 128 (0x100000 * 2 ^ 32 + 2 ^ (64 + 16) + 3 * 2 ^ 96)) }

theorem witness_EavesEngine :
    (tEe none 0).ee.offered = none ∧ (tEe (some 0x1000) 0).ee.offered = some 0x1000 ∧ eeUp (tEe none 0) = true ∧
    (tEe (some 0x1000) 0).ee.state = 0 ∧ (tEe (some 0x1000) 0).memWf = true ∧
    actCheck (tEe (some 0x1000) 0) 16 accLoad 0x1000 128 = none ∧ ramErr (tEe (some 0x1000) 0) 0x1000 128 = none ∧
    (convDesc ((tEe (some 0x1000) 0).rd 0x1000 128)).eavesOk = false ∧
    (convDesc (tDesc 0x60 1)).eavesOk = true ∧ (convDesc (tDesc 0x60 1)).isEmpty = false ∧
    (convDesc (tDesc 0x60 0)).eavesOk = true ∧ (convDesc (tDesc 0x60 0)).isEmpty = true ∧ (convDesc (tDesc 0x63 1)).eavesOk = false ∧
    actCheck (tEe (some 0x1000) 0) 16 accStore 0x1060 1 = none ∧ ramErr (tEe (some 0x1000) 0) 0x1060 1 = none ∧
    (tEe (some 0x1000) 1).ee.running = some 0x1000 ∧ (tEe (some 0x1000) 1).ee.state = 1 ∧ (tEe none 0).boot.dprActive = false := by decide

/-- R229, R234: an UNSUPPORTED descriptor ends at once with STATUS 2. -/
theorem test_eaves : gives (execEeDescriptor { tEe (some 0x1000) 0 with mem := memWriteN [] 0x1000 (tDesc 0x63 1) }) (fun t =>
    t.ee.done && t.rd 0x1060 1 == [2]) = true ∧
    gives (execEeDescriptor { tEe (some 0x1000) 0 with mem := memWriteN [] 0x1000 (tDesc 0x60 1) }) (fun t => t.ee.state == 1) = true := by decide +kernel


/-! ## The course scheduler -/

/-- A plan image of one group at DRAM 0x1000: header, then the group's record at 0x1040; two courses of two rows. -/
def tHeader (magic : Nat) : Bytes :=
  padTo 64 (toLE 4 magic ++ toLE 2 1 ++ toLE 2 1 ++ toLE 4 0x80 ++ toLE 4 0x20 ++ toLE 4 0xA0 ++ toLE 4 1 ++ toLE 4 0x40
    ++ toLE 4 0 ++ toLE 8 0x1122334455667788)
def tGroupRec : Bytes := padTo 64 ([0, 1, 0x80, 0] ++ toLE 2 4 ++ toLE 2 2)
def tGroup : Group := groupOf tGroupRec

def tCscEntry : W128 := BitVec.ofNat 128 (0x100000 * 2 ^ 32 + 2 ^ (64 + 20) + 3 * 2 ^ 96)

def tSlot (st : BitVec 2) : PlanSlot :=
  { image := 0x1000, state := st, codeOff := 0x80, codeLen := 0x20, srfOff := 0xA0, srfN := 1, rptLimit := 0, haloWait := 0,
    hash := 0x1122334455667788, groups := if st = 1 then [tGroup] else [] }

def tImg (magic : Nat) (st : BitVec 2) : State :=
  { tUp with
    mem := memWriteN (memWriteN [] 0x1000 (tHeader magic)) 0x1040 tGroupRec, csc.en := true,
    csc.plans := vput tUp.csc.plans 63 (tSlot st), act.force := Tbl.write (fun _ => 0) tUp.act.force 20 tCscEntry }

def tCourse (st : CourseSt) : Course := { st := st, nopub := false, stolen := false, recomp := false, first := false, region := 0 }

def tJobOf (cs : List Course) : Job :=
  { tag := 7, queue := 0, idx := 0, plan := 63, drop := false, remoteOk := true, runaheadOff := false, prio := 0, hrm := 0,
    ink := 0, src := 0, inBase := 0x2000, outBase := 0x3000, arg := 0, frame := 0, hwait := 0, held := [], deadline := .none,
    expired := false, degraded := false, recomputed := false, remoteRan := false, unbounded := false, stop := none, fault := 0,
    groups := [cs] }

def tCsc (cs : List Course) : State :=
  let s := tImg 0x574A504C 1
  { s with csc.jobs := [tJobOf cs], csc.lastTag := 7, spar := vput s.spar 0 { SparCore.reset with plan := some 63 } }

theorem witness_PlansAndJobs_load :
    cscUp (tImg 0x574A504C 0) = true ∧ planBusy (tImg 0x574A504C 0) 63 = false ∧ planBusy (tCsc []) 63 = true ∧
    (match seqRead (tImg 0x574A504C 0) 20 none 0x1000 64 with
      | (.ok h, u) => (fieldLE h 0 4 == 0x574A504C) && (fieldLE h 6 2 == 1) && decide (fieldLE h 0xC 4 ≤ 120 * 1024) &&
          (match seqRead u 20 none (0x1000 + fieldLE h 0x18 4) 64 with
            | (.ok gs, _) => (groupOf gs).ok gs 1 u.csc.stgSize.toNat
            | _ => false)
      | _ => false) = true ∧
    (match seqRead (tImg 0 0) 20 none 0x1000 64 with
      | (.ok h, _) => fieldLE h 0 4 != 0x574A504C
      | _ => false) = true ∧
    (match seqRead { tImg 0x574A504C 0 with act.force := [] } 20 none 0x1000 64 with
      | (.error _, _) => true
      | _ => false) = true ∧
    (groupOf (padTo 64 [1, 0, 0x80, 0, 4, 0, 2, 0])).ok (padTo 64 [1, 0, 0x80, 0, 4, 0, 2, 0]) 1 0 = true ∧
    (groupOf (padTo 64 [1, 0, 0x80, 0, 4, 0, 0, 0])).ok (padTo 64 [1, 0, 0x80, 0, 4, 0, 0, 0]) 1 0 = false ∧
    (2 : W32).getLsbD 0 = false := by decide +kernel

/-- R261: a good image is LOADED with its hash, a bad MAGIC is INVALID. -/
theorem test_planLoad :
    gives (execPlanLoad 63 1 (tImg 0x574A504C 0)) (fun t => (planOf t 63).state == 1 && (planOf t 63).hash == 0x1122334455667788) = true ∧
    gives (execPlanLoad 63 1 (tImg 0 0)) (fun t => (planOf t 63).state == 2) = true := by decide +kernel

def tIdle : State := tCsc [tCourse .unassigned, tCourse .unassigned]

theorem witness_PlansAndJobs_coreLoad :
    coreFree tIdle 15 = true ∧ (readyList tIdle).head? = some (tJobOf [tCourse .unassigned, tCourse .unassigned], 0, 0) ∧
    planGroup tIdle (tJobOf []) 0 = some tGroup ∧ (sparEntry tIdle tGroup).isSome = true ∧ (coreOf tIdle 15).plan ≠ some 63 ∧
    tIdle.memWf = true ∧
    (match seqRead tIdle 20 none (0x1000 + 0x80) 0x20 with
      | (.ok _, u) => (match seqRead u 20 none (0x1000 + 0xA0) 4 with
        | (.ok _, _) => true
        | _ => false)
      | _ => false) = true := by decide +kernel

/-- A job in queue 0: plan slot 63, which is loaded, or 62, which is empty. -/
def tQueue (plan : Byte) : State :=
  let s := tImg 0x574A504C 1
  { s with mem := memWriteN s.mem (slotAddr 0 0) [plan], cleatB := vput s.cleatB 0 { Queue.reset with en := true, post := 1 } }

theorem witness_PlansAndJobs_take :
    (tQueue 63).csc.en = true ∧ pickHead (tImg 0x574A504C 1) = none ∧ pickHead (tQueue 63) = some 0 ∧
    (match headJob (tQueue 63) 0 with
      | some b => !(badJob (tQueue 63) b) && (jobInput (tQueue 63) b == some ([], none)) && (jobDeadline (tQueue 63) 0 b == .none)
      | none => false) = true ∧
    unitFenced (tQueue 63) 0x10 = false ∧ allSparFenced (tQueue 63) = false ∧
    (match headJob (tQueue 62) 0 with
      | some b => badJob (tQueue 62) b
      | none => false) = true ∧ (tQueue 62).memWf = true := by decide +kernel

/-- R265: a job naming an EMPTY slot completes with status 6. -/
theorem test_jobTake : gives (execJobTake (tQueue 62)) (fun t => memRead t.mem (slotAddr 0 0 + 56) == 6 && t.csc.jobs.isEmpty) = true ∧
    gives (execJobTake (tQueue 63)) (fun t => t.csc.jobs.length == 1 && t.csc.lastTag == 1) = true := by decide +kernel

def tDone : State := tCsc [tCourse .visible, tCourse .visible]

def tDl (d : Deadline) (drop : Bool) (st : CourseSt) : State :=
  let s := tCsc []
  { s with csc.jobs := [{ tJobOf [tCourse st] with deadline := d, drop := drop }], pht.record := { PhRecord.reset with nt := 100 } }

theorem witness_PlansAndJobs_end :
    (jobOf tDone 7).isSome = true ∧ jobDone tDone (tJobOf [tCourse .visible, tCourse .visible]) = true ∧
    jobDone tIdle (tJobOf [tCourse .unassigned, tCourse .unassigned]) = false ∧ tDone.memWf = true ∧
    (jobOf (tDl (.phase 3 0 5) false .unassigned) 7).isSome = true ∧
    (recordPhase (tDl (.phase 4 0 5) false .unassigned) 4 - 0).toNat < 2 ^ 39 ∧
    2 ^ 39 ≤ (recordPhase (tDl (.phase 4 101 5) false .unassigned) 4 - 101).toNat ∧
    (recordPhase (tDl (.phase 3 0 5) false .unassigned) 3 - 0).toNat < 2 ^ 39 ∧
    (100 : W64) ≤ (tDl (.time 100) false .unassigned).pht.record.nt ∧ (tDl (.time 101) false .unassigned).pht.record.nt < (101 : W64) ∧
    allCommitted (tJobOf [tCourse .committed]) = true ∧ allCommitted (tJobOf [tCourse .unassigned]) = false := by decide +kernel

theorem test_deadline : gives (execDeadlineExpire 7 (tDl (.time 100) true .unassigned)) (fun t =>
    (jobOf t 7).map (fun j => (j.expired, j.stop)) == some (true, some 2)) = true := by decide +kernel

theorem witness_CoursesRun_dispatch :
    cscUp tIdle = true ∧ (ownPre tIdle).isNone = true ∧ (firstReady (tImg 0x574A504C 1)).isNone = true ∧
    tGroup.eaves = false ∧ (coreOrder tIdle 63).head? = some 0 ∧ (coreOf tIdle 0).plan = some 63 ∧
    (freeRegion tIdle (some 0)).isSome = true ∧ obPlan tIdle (tJobOf []) tGroup 0 = .notFused := by decide

/-- R268: course 0 of the group runs on SP0 at ENTRY. -/
theorem test_dispatch : gives (execCourseDispatch tIdle) (fun t =>
    (coreOf t 0).cur == some (tagOf tIdle (tJobOf []) 0 0) && (coreOf t 0).state == 1) = true := by decide

/-- The tag of course k. -/
def tTag (k : Nat) : CourseTag := tagOf tUp (tJobOf []) 0 k

/-- SP1 runs course 0 and has course 1 before it; SP0 is idle and holds the plan. -/
def tSteal : State :=
  let s := tCsc [tCourse (.running (some 1)), tCourse (.preassigned 1)]
  { s with spar := vput s.spar 1 { SparCore.reset with cur := some (tTag 0), pre := some (tTag 1), state := 1, plan := some 63 } }

theorem witness_CoursesRun_steal :
    readyList tSteal = [] ∧ ((allCores.filter fun c => coreFree tSteal c && (coreOf tSteal c).pre.isNone).head?) = some 0 ∧
    stealVictim tSteal = some 1 ∧ (coreOf tSteal 1).pre = some (tTag 1) ∧ (jobOf tSteal (tTag 1).job).isSome = true ∧
    tGroup.obBytes = 0 ∧ (sparEntry tSteal tGroup).isSome = true ∧ (freeRegion tSteal (some 0)).isSome = true ∧ readyList tIdle ≠ [] := by decide

def tCommit : State := { tSteal with spar := vput tSteal.spar 1 { coreOf tSteal 1 with done := true, state := 0 } }
def tEeDone : State :=
  { tCsc [tCourse (.running none), tCourse .unassigned] with ee := { Ee.reset with cur := some (tTag 0), done := true } }

theorem witness_CoursesRun_commit :
    (coreOf tCommit 1).cur = some (tTag 0) ∧ (coreOf tCommit 1).done = true ∧ sparStoresOut tCommit 1 = false ∧
    ownerIs tCommit (tTag 0) (some 1) = true ∧ unitFenced tCommit 1 = false ∧ (coreOf tCommit 1).recallTo = none ∧
    ownerIs (tCsc [tCourse .unassigned, tCourse .unassigned]) (tTag 0) (some 1) = false ∧
    tEeDone.ee.cur = some (tTag 0) ∧ tEeDone.ee.done = true ∧ ownerIs tEeDone (tTag 0) none = true ∧
    fencing tEeDone 0x10 = false ∧ fencing { tEeDone with cleatC.lines := 0x10000 } 0x10 = true ∧ (16 : Fin 17) = 16 ∧
    { coreOf tCommit 1 with recallTo := some true }.recallTo ≠ none ∧ (16 : Fin 17).val ≠ (15 : CoreId).val ∧ (15 : Fin 17).val = (15 : CoreId).val := by decide

/-- SP1 waits for the buffer of course 0, which is READY or not there. -/
def tOb (r : Bool) : State :=
  let s := tCsc [tCourse .visible, tCourse (.running (some 1))]
  { s with
    csc.obds := if r then [{ tag := tTag 0, st := .ready, closed := false, readers := [1], producer := some 0, addr := 0x5000, size := 64 }] else [],
    csc.cancels := [(1, some (tTag 0))],
    spar := vput s.spar 1 { SparCore.reset with cur := some (tTag 1), state := 1, wait := .ob (tTag 0) 3 4 false, recallTo := some true } }

theorem witness_CoursesRun_waits :
    (tOb true).csc.cancels.find? (fun e => e.1 == 1) = some (1, some (tTag 0)) ∧ (coreOf (tOb true) 1).wait = .ob (tTag 0) 3 4 false ∧
    sparRuns (tOb true) 1 = true ∧ (tagGroup (tOb true) (tTag 0)).isSome = true ∧ (obdFind (tOb true) (tTag 0)).map (fun o => o.st) = some .ready ∧
    obForced (tOb true) = false ∧ obdFind (tOb false) (tTag 0) = none ∧ recompOk (tJobOf []) tGroup = true ∧
    recompOk (tJobOf []) { tGroup with recompRows := 1 } = false ∧ (coreOf (tOb true) 1).recallTo = some true ∧
    (coreOf (tOb true) 1).cur = some (tTag 1) ∧ domUp (tOb true) (sparDom 1) = true ∧ (coreOf (tOb true) 1).rptLeft = 0 ∧
    (coreOf (tOb true) 0).recallTo = none ∧ (coreOf (tOb true) 1).state = 1 ∧ 0 < ({ coreOf (tOb true) 1 with rptLeft := 3 } : SparCore).rptLeft := by decide

def tCopy : State := { tCsc [tCourse .committed, tCourse .unassigned] with csc.copies := [{ tag := tTag 0, region := 0, sent := false }] }

/-- The same copy, sent to another chip that has not yet acknowledged it. -/
def tCopySent : State :=
  { tCopy with
    csc.copies := [{ tag := tTag 0, region := 0, sent := true }], fab.remotes := [{ tag := 1, home := 1, wait := .unitStore 20 }] }

theorem witness_CoursesRun_copies : cscUp tCopy = true ∧ tCopy.csc.copies = { tag := tTag 0, region := 0, sent := false } :: [] ∧
    (tagGroup tCopy (tTag 0)).isSome = true ∧ cscStoresOut (copyCourse tCopy (tJobOf [tCourse .committed, tCourse .unassigned]) tGroup 0 0) = false ∧
    cscUp tCopySent = true ∧ cscStoresOut tCopySent = true ∧ (tTag 0).group.val < (tJobOf []).groups.length ∧
    (tTag 1).course.toNat < ((tJobOf [tCourse .committed, tCourse .unassigned]).groups.getD 0 []).length := by decide

/-- R281: the copy done makes the course visible. -/
theorem test_copyDone : gives (execCommitCopyDone tCopy) (fun t => t.csc.copies.isEmpty &&
    (jobOf t 7).map (fun j => (j.course 0 0).st) == some .visible) = true := by decide

/-- A member of a fabric with one peer, chip 1, and nothing of its own to run. -/
def tPeer : State :=
  { tMember with csc.en := true, csc.npeer := 1, csc.peers := 1, csc.plans := vput tUp.csc.plans 63 (tSlot 1) }

theorem witness_CoursesRun_remote :
    cscUp tPeer = true ∧ fabricMode tPeer = true ∧ tPeer.boot.dprActive = false ∧ tPeer.fab.role ≠ 3 ∧ 0 < min 4 tPeer.csc.npeer.toNat ∧
    tPeer.csc.steal = none ∧ remoteErr tPeer (peerOf tPeer 0) = none ∧ tPeer.fab.remotes.length < 256 ∧ starved tPeer = true ∧
    (remoteErr { tPeer with fab.lost := 2 } (peerOf tPeer 0)).isSome = true ∧ starved { tPeer with fab.lost := 2 } = true ∧
    256 ≤ (List.replicate 256 ({ tag := 7, home := 1, wait := .steal } : Remote)).length ∧
    starved { tPeer with csc.jobs := [{ tJobOf [tCourse .unassigned] with inBase := 0 }] } = false := by decide +kernel

def tHome : State := { tPeer with csc.jobs := [tJobOf [tCourse .unassigned, tCourse .unassigned]] }

theorem witness_CoursesRun_home : fabricMode tHome = true ∧ tHome.fab.role ≠ 3 ∧ cscUp tHome = true ∧ tHome.boot.dprActive = false ∧
    ((readyList tHome).filter (stealable tHome [])) = [] ∧
    (((readyList tHome).filter (stealable tHome [(63, 0x1122334455667788)])).getLast?).map (fun e => (e.1.tag, e.2)) = some (7, 0, 1) ∧
    (jobOf tHome 7) = some (tJobOf [tCourse .unassigned, tCourse .unassigned]) := by decide

/-- An answer with a course, whatever its fields hold: SP0 holds the plan it names, and every slot has 64 groups. -/
def tStolen : State :=
  { tPeer with
    csc.steal := some (5, 1), csc.plans := Vector.replicate 64 { tSlot 1 with groups := List.replicate 64 tGroup },
    spar := vput tPeer.spar 0 { SparCore.reset with plan := some (Fin.ofNat 64 (stolenField [] 0)) } }

theorem witness_CoursesRun_answer :
    tStolen.csc.steal = some (5, 1) ∧ cscUp tStolen = true ∧ (sparEntry tStolen tGroup).isSome = true ∧ (allCores.filter fun c => coreFree tStolen c && (coreOf tStolen c).pre.isNone).head? = some 0 := by decide

theorem witness_CoursesRun_stolen :
    (coreOf tStolen 0).plan = some (Fin.ofNat 64 (stolenField [] 0)) ∧
    (planOf tStolen (Fin.ofNat 64 (stolenField [] 0))).groups[stolenField [] 1 % 64]? = some tGroup := by
  refine ⟨rfl, ?_⟩
  have h : stolenField [] 1 % 64 < 64 := Nat.mod_lt _ (by decide)
  have hp : planOf tStolen (Fin.ofNat 64 (stolenField [] 0)) = { tSlot 1 with groups := List.replicate 64 tGroup } := by
    simp only [planOf, tStolen, Vector.get, Vector.replicate, Array.getElem_replicate]
  rw [hp, List.getElem?_replicate, if_pos h]

def tPull : State := { tHome with csc.jobs := [tJobOf [tCourse (.remote 1 4), tCourse .unassigned]] }

theorem witness_CoursesRun_pull :
    cscUp tPull = true ∧ (jobOf tPull 7).isSome = true ∧ ((tJobOf [tCourse (.remote 1 4), tCourse .unassigned]).course 0 0).st = .remote 1 4 ∧
    planGroup tPull (tJobOf []) 0 = some tGroup ∧ 0 < ((tJobOf [tCourse (.remote 1 4)]).groups.getD 0 []).length ∧
    cscStoresOut (pullRows tPull (tJobOf [tCourse (.remote 1 4), tCourse .unassigned]) tGroup 0) = false ∧
    cscStoresOut (pullRows { tPull with fab.remotes := tCopySent.fab.remotes } (tJobOf [tCourse (.remote 1 4), tCourse .unassigned]) tGroup 0) = true ∧
    unitFenced tPull 0x10 = false ∧ allSparFenced tPull = false := by decide +kernel


/-! ## The Mast harts -/

/-- Words of the formats R, I, M and C (Table 10-2). -/
def wR (major fn rd rs1 rs2 : Nat) : W32 := BitVec.ofNat 32 (fn * 2 ^ 22 + rs2 * 2 ^ 17 + rs1 * 2 ^ 12 + rd * 2 ^ 7 + major * 2)
def wI (major f rd rs1 imm : Nat) : W32 := BitVec.ofNat 32 (imm * 2 ^ 21 + f * 2 ^ 17 + rs1 * 2 ^ 12 + rd * 2 ^ 7 + major * 2)
def wM (mop rt base disp : Nat) : W32 :=
  BitVec.ofNat 32 (disp / 2 * 2 ^ 17 + base * 2 ^ 12 + rt * 2 ^ 7 + mop * 4 + disp % 2 * 2)
def wC (f cw rd src : Nat) : W32 := BitVec.ofNat 32 (cw * 2 ^ 20 + f * 2 ^ 17 + src * 2 ^ 12 + rd * 2 ^ 7 + 0x2C * 2)
def wQ (major qf et qd qa qb : Nat) : W32 :=
  BitVec.ofNat 32 (qf * 2 ^ 25 + et * 2 ^ 22 + qb * 2 ^ 17 + qa * 2 ^ 12 + qd * 2 ^ 7 + major * 2)

/-- The hart at the word w in the Loft; x8 points to data there, x5 and x6 hold 9 and 3. -/
def tMastOf (f : Hart → Hart) (w : W32) : State :=
  hartMod { tUp with mem := memWriteN [] loftBase (toLE 4 w.toNat),
                     act.force := Tbl.write (fun _ => 0) tUp.act.force 1 (actEntry loftBase 0x1800 0x7FFFFFF 0x1F) } 0 fun x =>
    f { ((x.setX 8 (BitVec.ofNat 64 tData)).setX 5 9).setX 6 3 with pc := BitVec.ofNat 64 loftBase, sup := true }

def tMast (w : W32) : State := tMastOf id w
def tUser (w : W32) : State := tMastOf (fun x => { x with sup := false }) w

/-- The state once the word is fetched. -/
def tFetched (s : State) : State :=
  match nextWord s 0 with
  | .ok _ u => hartMod u 0 fun x => { x with waiti := false, fence := false }
  | _ => s

def tIss (s : State) (w : W32) (o : LuOp) : Bool :=
  hartUp s 0 && !hartStalled s 0 && (hartOf s 0).cpErr.isNone && (match nextWord s 0 with
    | .ok p _ => p == (w, some o)
    | _ => false)

theorem issues_of (s : State) (w : W32) (o : LuOp) (h : tIss s w o = true) : HartIssues s (tFetched s) 0 w o := by
  unfold tIss at h
  simp only [Bool.and_eq_true, Bool.not_eq_true', Option.isNone_iff_eq_none] at h
  obtain ⟨⟨⟨h1, h2⟩, h4⟩, h3⟩ := h
  refine ⟨h1, h2, h4, ?_⟩
  unfold tFetched
  split at h3
  · rename_i p u hu
    rw [beq_iff_eq] at h3
    subst h3
    simp only [hu]
    exact ⟨u, rfl, rfl⟩
  · cases h3

/-- No line is dirty, so memory has nothing to take back. -/
theorem backed_of_clean (s : State) (h : s.mast.cache.all (fun e => match e.2 with
    | some c => !c.dirty
    | none => true) = true) : s.cacheBacked := by
  intro ln c hc hd
  exfalso
  unfold lineGet at hc
  generalize s.mast.cache = t at h hc
  induction t with
  | nil => cases hc
  | cons e t ih =>
    obtain ⟨j, v⟩ := e
    simp only [List.all_cons, Bool.and_eq_true] at h
    simp only [Tbl.read] at hc
    split at hc
    · subst hc
      simp [hd] at h
    · exact ih h.2 hc

/-- A word of each operation, issued. -/
theorem issues_all (f : W32 → State) (l : List (W32 × LuOp)) (h : (l.all fun p => tIss (f p.1) p.1 p.2) = true) :
    ∀ p ∈ l, HartIssues (f p.1) (tFetched (f p.1)) 0 p.1 p.2 :=
  fun p hp => issues_of _ _ _ (List.all_eq_true.mp h p hp)

def tPairRR : W32 := BitVec.ofNat 32 ((5 * 64 + 6 * 2 + 1) * 2 ^ 17 + (5 * 64 + 6 * 2 + 1) * 4 + 1)
def tPairLd : W32 := BitVec.ofNat 32 ((6 * 2 ^ 11 + 2 * 2 ^ 8 + 1) * 2 ^ 17 + 9 * 2 ^ 11 * 4 + 1)

def tComputes : List (W32 × LuOp) :=
  [(wR 0x22 0 7 5 6, .alu 0 7 5 6), (wR 0x22 1 7 5 6, .alu 1 7 5 6), (wR 0x22 3 0 5 6, .alu 3 0 5 6),
   (wI 0x23 0 7 5 0x7FF, .alui 0 7 5 (-1)), (wI 0x24 0 7 0 0, .lhi 7 0), (wI 0x25 0 7 1 0, .addpc 7 4096),
   (wR 0x29 0 7 5 6, .mul 0 7 5 6), (wR 0x29 4 7 5 0, .mul 4 7 5 0), (wR 0x29 7 7 5 0, .mul 7 7 5 0),
   (0x7630034C, .br 0 6 0 0x763), (0xFFF5034C, .br 2 6 16 (-1)), (0x0000404E, .jal 0 4), (wI 0x28 0 1 5 4, .jalr 1 5 4),
   (wR 0x2A 0x0E 7 5 6, .fp 0 false 7 7 5 6), (tPairRR, .pair (.reg 1 5 6) (.reg 1 5 6)),
   (wQ 0x30 0 0 3 1 2, .q 0x30 0 0 3 1 2), (wQ 0x31 0 5 3 1 2, .q 0x31 0 5 3 1 2),
   (wQ 0x32 0 0 3 1 2, .q 0x32 0 0 3 1 2), (wQ 0x32 2 3 7 1 0, .q 0x32 2 3 7 1 0), (wQ 0x30 0 0 17 1 2, .q 0x30 0 0 17 1 2)]

theorem witness_HartComputes : ∀ p ∈ tComputes, HartIssues (tMast p.1) (tFetched (tMast p.1)) 0 p.1 p.2 :=
  issues_all tMast tComputes (by decide +kernel)

def tPairHart : Hart := hartOf (tFetched (tMast tPairRR)) 0

def noMem (o : ShortOp) : Bool :=
  match (o.fx tPairHart).mem with
  | .none => true
  | _ => false

theorem witness_HartComputes_forms :
    (tPairHart).getX 0 = 0 ∧ noMem (.reg 1 5 6) = true ∧ tPairHart.qOk 3 = true ∧
    tPairHart.qOk 1 = true ∧ tPairHart.qOk 17 = false := by decide +kernel

/-- Table 10-3: 9 + 3, 9 - 3; R340: x0 discards; -1 of 0x7FF; the division by zero. -/
theorem test_alu :
    gives (execIntegerOp 0 (tMast (wR 0x22 0 7 5 6))) (fun t => (hartOf t 0).getX 7 == 12 && (hartOf t 0).pc.toNat == loftBase + 4) = true ∧
    gives (execIntegerOp 0 (tMast (wI 0x23 0 7 5 0x7FF))) (fun t => (hartOf t 0).getX 7 == 8) = true ∧
    gives (execMulDivOp 0 (tMast (wR 0x29 4 7 5 0))) (fun t => (hartOf t 0).getX 7 == -1) = true := by decide +kernel

/-- Both slots add x6 to x5: all registers are read before, and slot B's write stands. -/
theorem test_pair : gives (execPairIssue 0 (tMast tPairRR)) (fun t => (hartOf t 0).getX 5 == 12) = true := by decide +kernel

/-! ### Control -/

def tControls : List (W32 × LuOp) :=
  [(wC 0 0x20C 7 5, .cw 0 false 7 5 0x20C), (wC 1 0x200 0 6, .cw 1 false 0 6 0x200), (wC 2 0x210 7 5, .cw 2 false 7 5 0x210),
   (wC 3 0x300 7 1, .cw 0 true 7 1 0x300), (wC 4 0x204 7 31, .cw 1 true 7 31 0x204), (wC 5 0x209 7 0, .cw 2 true 7 0 0x209),
   (wC 0 0x218 7 5, .cw 0 false 7 5 0x218), (wC 0 0x123 7 5, .cw 0 false 7 5 0x123), (wC 6 1 0 0, .sysreq), (wC 6 2 0 0, .dbrk),
   (wC 6 0x20 0 0, .retm), (wC 6 0x10 0 0, .rets), (wC 6 0x11 0 0, .waiti)]

theorem witness_HartControl :
    (∀ p ∈ tControls, HartIssues (tMast p.1) (tFetched (tMast p.1)) 0 p.1 p.2) ∧
    (∀ p ∈ tControls, HartIssues (tUser p.1) (tFetched (tUser p.1)) 0 p.1 p.2) :=
  ⟨issues_all tMast tControls (by decide +kernel), issues_all tUser tControls (by decide +kernel)⟩

theorem witness_HartControl_words :
    let t := tFetched (tMast (wC 0 0x20C 7 5))
    (∀ n ∈ [0x20C, 0x200, 0x210, 0x300, 0x204, 0x209, 0x218, 0x010], (cwRead t 0 n).isSome = true) ∧ cwRead t 0 0x123 = none ∧
    (hartOf t 0).sup = true ∧ (hartOf (tFetched (tUser (wC 6 1 0 0))) 0).sup = false ∧ cwUser 0x20C = false ∧ cwUser 0x300 = true ∧
    (hartOf t 0).qMode ≠ (1 : W64).getLsbD 0 ∧ (hartOf t 0).qMode = (0 : W64).getLsbD 0 := by decide +kernel

/-- Table 10-6: the old value and the swap; SYSREQ of a user-level hart is 0x0A. -/
theorem test_control :
    gives (execCwswp 0 (tMastOf (fun x => { x with scr := 0xF0 }) (wC 0 0x20C 7 5)))
      (fun t => (hartOf t 0).getX 7 == 0xF0 && (hartOf t 0).scr == 9) = true ∧
    gives (execSysreq 0 (tUser (wC 6 1 0 0))) (fun t => (hartOf t 0).cause.toNat % 256 == 0x0A && (hartOf t 0).sup) = true := by decide +kernel

/-- A word of no operation, one that runs, and an enabled software interrupt with and without code 11 pending (sources 7 to 9 go to MC1). -/
def tInt (ien ev : Nat) : State :=
  let s := tMastOf (fun x => { x with ie := true, ien := BitVec.ofNat 64 ien, soft := true }) (wR 0x22 0 7 5 6)
  { s with mast.irqRoute := 0x380, mast.sterr := if ev = 1 then vput s.mast.sterr 0 (1 <<< 63) else s.mast.sterr }

theorem witness_HartControl_traps :
    hartUp (tMast 0x5C) 0 = true ∧ hartStalled (tMast 0x5C) 0 = false ∧
    (match nextWord (tMast 0x5C) 0 with
      | .ok p _ => p == (0x5C, none)
      | _ => false) = true ∧
    (match issueWord (tMast 0x5C) 0 with
      | .trap _ _ _ _ _ => true
      | _ => false) = true ∧
    (match issueWord (tMast (wR 0x22 0 7 5 6)) 0 with
      | .trap _ _ _ _ _ => false
      | _ => true) = true := by decide +kernel

theorem witness_HartControl_interrupts :
    hartUp (tInt 1 0) 0 = true ∧ (hartOf (tInt 1 0) 0).rem = [] ∧ (hartOf (tInt 1 0) 0).cpWait = none ∧
    (hartOf (tInt 1 0) 0).ie = true ∧ (hartOf (tUser 0) 0).sup = false ∧
    (ipend (tInt 1 0) 0 &&& (hartOf (tInt 1 0) 0).ien).getLsbD 0 = true ∧
    (ipend (tInt 0x801 1) 0 &&& (hartOf (tInt 0x801 1) 0).ien).getLsbD 11 = true ∧
    ipend (tInt 0 0) 0 &&& (hartOf (tInt 0 0) 0).ien = 0 ∧ ctlUp tUp = true ∧ domUp tUp 11 = true ∧
    (hartOf (tMastOf (fun x => { x with resv := some (.own 4) }) 0) 0).resv = some (.own 4) := by
  refine ⟨by decide, by decide, by decide, by decide, by decide, ?_, ?_, ?_, by decide, by decide, by decide⟩ <;> decide +kernel

/-- R363: code 11 is taken before code 0. -/
theorem test_irq : gives (execMastInterrupt 0 (tInt 0x801 1)) (fun t => (hartOf t 0).cause == causeOf 11 0 false true) = true := by
  decide +kernel

/-! ### Memory -/

def tMemory : List (W32 × LuOp) :=
  [(wM 6 7 8 0, .load 6 7 8 0), (wM 6 7 8 0xFFFF, .load 6 7 8 (-1)), (wM 12 5 8 8, .store 12 5 8 8), (wM 12 5 8 1, .store 12 5 8 1),
   (wM 15 3 8 0, .qld 3 8 0), (wM 15 17 8 0, .qld 17 8 0), (wM 16 3 8 0, .qst 3 8 0), (wM 16 17 8 0, .qst 17 8 0),
   (tPairLd, .pair (.load 8 false 10 8 0) (.j 0))]

theorem witness_HartMemory : ∀ p ∈ tMemory, HartIssues (tMast p.1) (tFetched (tMast p.1)) 0 p.1 p.2 :=
  issues_all tMast tMemory (by decide +kernel)

/-- The state once a load is fetched: nothing buffered, or a store of the 8 bytes. -/
def tLd : State := tFetched (tMast (wM 6 7 8 0))
def tEntry (a : Nat) : SbEntry := { addr := a, bytes := List.replicate 8 0x5A, device := false, sup := true }
def tBuf (a : Nat) : State := hartMod tUp 0 fun x => { x with sb := [tEntry a] }

theorem witness_HartMemory_places :
    ((hartOf tLd 0).getX 8 + BitVec.ofInt 64 0).toNat = tData ∧ tData % 8 = 0 ∧ (tData - 1) % 8 ≠ 0 ∧ tData < 2 ^ 48 ∧
    placeOf tLd tData = .here tData ∧ actCheck tLd (hartInit 0 true) accLoad tData 16 = none ∧
    actCheck tLd (hartInit 0 true) accStore tData 8 = none ∧ actCheck tLd (hartInit 0 true) accQst tData 16 = none ∧
    deviceAt tLd 0 true tData 16 = false ∧ busErr tLd tData 16 = none ∧ tLd.mast.cmo = none ∧
    (hartOf tLd 0).sb.length < 16 ∧ youngest (hartOf tLd 0).sb tData 16 = none ∧ (hartOf tLd 0).qOk 3 = true ∧
    (hartOf tLd 0).qOk 17 = false ∧ tLd.memWf = true ∧ tLd.cacheWf = true ∧
    youngest [tEntry tData] tData 8 = some (0, tEntry tData) := by decide +kernel

theorem witness_HartMemory_backed : tLd.cacheBacked := backed_of_clean tLd (by decide +kernel)

/-- An address with bit 48 set, and one that no entry of the table governs. -/
theorem witness_HartMemory_denied :
    ((hartOf (tFetched (tMastOf (fun x => x.setX 8 (1 <<< 48)) (wM 6 7 8 0))) 0).getX 8).toNat = 2 ^ 48 ∧
    (actCheck tLd (hartInit 0 true) accLoad 0x1F000008000 8).isSome = true ∧ placeOf tLd 0x1F000008000 = .here 0x1F000008000 ∧
    (actCheck tLd (hartInit 0 true) accStore 0x1F000008000 8).isSome = true := by decide +kernel

/-- The buffered store in the Loft drains; one of the Loft's gated half cannot. -/
theorem witness_HartMemory_drain :
    ctlUp (tBuf tData) = true ∧ domRuns (tBuf tData) 11 = true ∧ (hartOf (tBuf tData) 0).sb = tEntry tData :: [] ∧
    placeOf (tBuf tData) tData = .here tData ∧ (∀ ln ∈ linesOf tData 8, ramErr (tBuf tData) (ln * 64) 64 = none) ∧
    (tBuf tData).cacheWf = true ∧ (tBuf tData).memWf = true ∧
    linesOf (loftBase + loftSize) 8 = [(loftBase + loftSize) / 64] ∧ lineGet (tBuf (loftBase + loftSize)) ((loftBase + loftSize) / 64) = none ∧
    (ramErr (tBuf (loftBase + loftSize)) ((loftBase + loftSize) / 64 * 64) 64).isSome = true := by decide +kernel

theorem witness_HartMemory_drainBacked : (tBuf tData).cacheBacked := backed_of_clean _ (by decide)

/-- R368: a store is buffered and memory waits; a misaligned load is exception 0x05. -/
theorem test_store : gives (execMastStore 0 (tMast (wM 12 5 8 8))) (fun t =>
      (hartOf t 0).sb.map (fun e => (e.addr, leNat e.bytes)) == [(tData + 8, 9)] && t.rd (tData + 8) 8 == List.replicate 8 0) = true ∧
    gives (execMastLoad 0 (tMast (wM 6 7 8 0xFFFF))) (fun t => (hartOf t 0).cause.toNat % 256 == 5 && (hartOf t 0).info == BitVec.ofNat 64 (tData - 1)) = true := by
  decide +kernel

def tAtomics : List (W32 × LuOp) :=
  [(wR 0x2B 0 7 8 0, .lr false 7 8), (wR 0x2B 1 7 8 0, .lr true 7 8), (wR 0x2B 1 7 5 0, .lr true 7 5), (wR 0x2B 2 7 8 5, .sc false 7 8 5),
   (wR 0x2B 3 7 8 5, .sc true 7 8 5), (wR 0x2B 3 7 5 5, .sc true 7 5 5), (wR 0x2B 4 7 8 0, .tas 7 8),
   (wR 0x2D 0 0xE 0 0, .fence 2 3), (wR 0x2D 0 0xF 0 0, .fence 3 3), (wR 0x2D 0 0xD 0 0, .fence 1 3), (wR 0x2D 0 3 0 0, .fence 3 0),
   (wR 0x2D 1 0 0 0, .ifence), (wR 0x2D 2 0 8 0, .dcl 0 8), (wR 0x2D 3 0 8 0, .dcl 1 8), (wR 0x2D 4 0 8 0, .dcl 2 8),
   (wR 0x2D 5 0 8 0, .dcl 3 8), (wR 0x2D 6 0 8 0, .icl 8)]

theorem witness_HartMemorySystem :
    (∀ p ∈ tAtomics, HartIssues (tMast p.1) (tFetched (tMast p.1)) 0 p.1 p.2) ∧
    (∀ p ∈ tAtomics, HartIssues (tUser p.1) (tFetched (tUser p.1)) 0 p.1 p.2) :=
  ⟨issues_all tMast tAtomics (by decide +kernel), issues_all tUser tAtomics (by decide +kernel)⟩

theorem witness_HartMemorySystem_places :
    tData % 8 = 0 ∧ ((hartOf tLd 0).getX 5).toNat % 8 ≠ 0 ∧ actCheck tLd (hartInit 0 true) accAtomic tData 8 = none ∧
    ramErr tLd (tData / 64 * 64) 64 = none ∧ (hartOf tLd 0).sb = [] ∧ (hartOf tLd 0).resv = none ∧
    (hartOf (tFetched (tMastOf (fun x => { x with resv := some (.own (tData / 64)) }) (wR 0x2B 3 7 8 5))) 0).resv = some (.own (tData / 64)) ∧
    (∀ e ∈ (hartOf (tFetched (tMastOf (fun x => { x with sb := [tEntry tData] }) (wR 0x2D 1 0 0 0))) 0).sb,
      e.device = false ∧ placeOf tLd e.addr = .here tData) ∧
    actCheck tLd (hartInit 0 true) accStore (tData / 64 * 64) 64 = none ∧ deviceAt tLd 0 true (tData / 64 * 64) 64 = false ∧
    (hartOf (tFetched (tMastOf (fun x => { x with sup := false, ucl := true }) (wR 0x2D 2 0 8 0))) 0).ucl = true := by decide +kernel

/-- A line of the data is held, dirty or clean. -/
def tCLine (dirty : Bool) : CLine :=
  { data := List.replicate 64 7, dirty := dirty, inD0 := true, inD1 := false, inI0 := false, inI1 := false, held := false }
def tLine (dirty : Bool) : State := linePut (tMast (wR 0x2D 2 0 8 0)) (tData / 64) (some (tCLine dirty))

theorem witness_HartMemorySystem_lines :
    (∀ d : Bool, (lineGet (tFetched (tLine d)) (tData / 64)).map (fun l => l.dirty) = some d ∧ (tFetched (tLine d)).cacheWf = true ∧
      (tFetched (tLine d)).memWf = true ∧ hartUp (tLine d) 0 = true ∧ (lineGet (tLine d) (tData / 64)).map (fun l => l.dirty) = some d ∧
      (tLine d).cacheWf = true ∧ consumesLine (tLine d) 0 (tData / 64) false (tCLine d) = none) ∧
    consumesLine (linePut (tMast (wM 6 7 8 0)) (tData / 64) (lineGet (tLine true) (tData / 64))) 0 (tData / 64) false (tCLine true) = some (tData, false) ∧
    hartUp (linePut (tMast tPairLd) (tData / 64) (some (tCLine true))) 0 = true ∧
    consumesLine (linePut (tMast tPairLd) (tData / 64) (some (tCLine true))) 0 (tData / 64) false (tCLine true) = some (tData, false) := by decide +kernel

theorem witness_HartMemorySystem_cmo :
    ctlUp tUp = true ∧ domUp tUp 11 = true ∧ domRuns tUp 11 = true ∧ tUp.mast.cmo = none ∧ (1 : W32).getLsbD 0 = true ∧
    (2 : W32).getLsbD 1 = true ∧ { tUp with mast.cmo := some true }.mast.cmo.isSome = true ∧ tUp.cacheWf = true := by decide

/-- R342, R343: LR.D then SC.D with the reservation stores and gives 0. -/
theorem test_atomics :
    gives (execLr 0 (tMast (wR 0x2B 1 7 8 0))) (fun t => (hartOf t 0).resv == some (.own (tData / 64))) = true ∧
    gives (execSc 0 (tMastOf (fun x => { x with resv := some (.own (tData / 64)) }) (wR 0x2B 3 7 8 5)))
      (fun t => (hartOf t 0).getX 7 == 0 && cachedBytes t tData 1 == [9]) = true ∧
    gives (execDclCln 0 (tLine true)) (fun t => t.rd tData 2 == [7, 7]) = true := by decide +kernel

/-! ### Coprocessors -/

/-- A word of coprocessor n with the function fn, rd x7, x8 and x5. -/
def wCp (n fn rd : Nat) : W32 := wR (0x38 + n) fn rd 8 5
def oCp (n : Fin 8) (fn : Nat) (rd : Xr) : LuOp := .cp n fn rd 8 5

def tCps : List (W32 × LuOp) :=
  [(wCp 0 0 7, oCp 0 0 7), (wCp 0 0x171 7, oCp 0 0x171 7), (wCp 0 2 0, oCp 0 2 0), (wCp 1 0 0, oCp 1 0 0), (wCp 1 1 0, oCp 1 1 0),
   (wCp 1 2 0, oCp 1 2 0), (wCp 1 3 0, oCp 1 3 0), (wCp 1 4 7, oCp 1 4 7), (wCp 1 5 7, oCp 1 5 7), (wCp 1 6 7, oCp 1 6 7),
   (wCp 1 7 0, oCp 1 7 0), (wCp 2 0 7, oCp 2 0 7), (wCp 2 1 0, oCp 2 1 0), (wCp 2 2 0, oCp 2 2 0), (wCp 2 3 7, oCp 2 3 7),
   (wCp 2 0x33 7, oCp 2 0x33 7), (wCp 2 0x43 7, oCp 2 0x43 7), (wCp 2 0x73 7, oCp 2 0x73 7), (wCp 4 0 0, oCp 4 0 0), (wCp 7 0 7, oCp 7 0 7)]

theorem witness_HartCoprocessors :
    (∀ p ∈ tCps, HartIssues (tMast p.1) (tFetched (tMast p.1)) 0 p.1 p.2) ∧
    (∀ p ∈ tCps, HartIssues (tUser p.1) (tFetched (tUser p.1)) 0 p.1 p.2) :=
  ⟨issues_all tMast tCps (by decide +kernel), issues_all tUser tCps (by decide +kernel)⟩

/-- Queue 0 of CP0, empty or full. -/
def tCp0 (post : BitVec 32) : State :=
  let s := tMast (wCp 0 0 7)
  { s with cleatB := vput s.cleatB 0 { Queue.reset with owner := 3, en := true, post := post.setWidth _ } }

theorem witness_HartCoprocessors_queue :
    (hartOf (tFetched (tUser (wCp 0 0 7))) 0).cpen = 0 ∧ (hartOf (tFetched (tMast (wCp 0 0 7))) 0).sup = true ∧
    ((tFetched (tCp0 0)).cleatB.get 0).owner = 3 ∧ (((tFetched (tCp0 0)).cleatB.get 0).post - ((tFetched (tCp0 0)).cleatB.get 0).read).toNat < 256 ∧
    256 ≤ (((tFetched (tCp0 256)).cleatB.get 0).post - ((tFetched (tCp0 256)).cleatB.get 0).read).toNat ∧
    ((tFetched (tMast (wCp 0 0 7))).cleatB.get 0).owner ≠ 3 ∧
    actCheck (tFetched (tCp0 0)) (hartInit 0 true) accLoad tData 56 = none ∧ deviceAt (tFetched (tCp0 0)) 0 true tData 56 = false ∧
    (hartOf (tFetched (tCp0 0)) 0).sb = [] ∧ busErr (tFetched (tCp0 0)) tData 56 = none ∧
    (tFetched (tCp0 0)).memWf = true ∧ (tFetched (tCp0 0)).cacheWf = true ∧ placeOf (tFetched (tCp0 0)) tData = .here tData ∧
    domUp (tFetched (tMast (wCp 1 4 7))) 10 = true ∧ domUp (tFetched (tMast (wCp 0 2 0))) 12 = true ∧
    domUp { tUp with reef.doms := vput tUp.reef.doms 12 DomRec.reset } 12 = false ∧
    domUp { tUp with reef.doms := vput tUp.reef.doms 10 DomRec.reset } 10 = false := by decide +kernel

theorem witness_HartCoprocessors_backed : (tFetched (tCp0 0)).cacheBacked := backed_of_clean _ (by decide +kernel)

/-- An ACTIVE link to customer logic on port 6 and on port 7. -/
def tAttach : State :=
  let s := tMember
  let p := { ShlPort.reset with st := .active, partner := some { chip := 9, serial := 9, port := 0, width := 1, pools := List.replicate 8 8, attach := true } }
  { s with shl := vput (vput s.shl 6 p) 7 p }

theorem witness_HartCoprocessors_attach :
    (∀ k : Fin 4, cpxPresent tAttach k = true ∧ cpxPresent tUp k = false) ∧ tAttach.fab.remotes.length < 256 ∧ (hartOf tAttach 0).cpOut < 4 ∧
    ctlUp tAttach = true ∧ (hartOf tUp 0).cpOut = 0 ∧ (hartOf tUp 0).cpWait = none := by
  refine ⟨fun k => ⟨?_, by rfl⟩, by decide, by decide, by decide, by decide, by decide⟩
  unfold cpxPresent attachPort
  cases Config.attachOn7 k <;> rfl

/-- Customer logic answers an operation of CP5 with an rd, and one of CP4 without. -/
def tCpWait (n : Fin 8) (rd : Option Xr) : State :=
  { tAttach with fab.remotes := [{ tag := 6, home := 1, wait := .steal }, { tag := 7, home := 3, wait := .cp 0 n 2 rd }] }

theorem witness_HartCoprocessors_answers :
    ctlUp (tCpWait 5 (some 9)) = true ∧
    ((tCpWait 5 (some 9)).fab.remotes.find? fun r => r.tag == 7) = some { tag := 7, home := 3, wait := .cp 0 5 2 (some 9) } ∧
    ((tCpWait 4 none).fab.remotes.find? fun r => r.tag == 7) = some { tag := 7, home := 3, wait := .cp 0 4 2 none } ∧
    ((tCpWait 4 none).fab.remotes.find? fun r => r.tag == 6) = some { tag := 6, home := 1, wait := .steal } ∧
    hartUp (tMastOf (fun x => { x with cpErr := some (4, 2) }) 0) 0 = true ∧
    hartStalled (tMastOf (fun x => { x with cpErr := some (4, 2) }) 0) 0 = false ∧
    (hartOf (tMastOf (fun x => { x with cpErr := some (4, 2) }) 0) 0).cpErr = some (4, 2) ∧
    4 ≤ ({ hartOf tUp 0 with cpOut := 4 } : Hart).cpOut := by decide

/-- R349: the answer goes to the operation whose tag it carries. -/
theorem test_cpxresp :
    gives (execCpxresp 7 (.data [5]) (tCpWait 5 (some 9))) (fun t => (hartOf t 0).getX 9 == 5) = true ∧
    gives (execCpxresp 7 (.abort 1) (tCpWait 4 none)) (fun t => (hartOf t 0).cpErr == some (4, 2)) = true := by decide +kernel

theorem test_cp0 : gives (execCp0Post 0 (tCp0 0)) (fun t => (hartOf t 0).getX 7 == 0 && (t.cleatB.get 0).post == 1) = true ∧
    gives (execCp0Post 0 (tCp0 256)) (fun t => (hartOf t 0).getX 7 == -1 && (t.cleatB.get 0).ovf) = true ∧
    gives (execCp0Post 0 (tMast (wCp 0 0 7))) (fun t => (hartOf t 0).getX 7 == -2 && (t.cleatB.get 0).ownerErr) = true := by decide +kernel


/-! ## Trim -/

/-- A descriptor of one block and one step: MAGIC, MODE, NPEER, JOURNAL, RESULT in the Loft. -/
def tTrimDesc (mode npeer journal : Nat) : Bytes :=
  padTo 128 (toLE 4 0x5452494D ++ toLE 1 mode ++ [1, 1, 0] ++ toLE 8 0x1F48 ++ List.replicate 0x1C 0 ++ toLE 2 8 ++ toLE 2 16 ++ List.replicate 0x20 0
    ++ toLE 8 tData ++ toLE 8 journal ++ toLE 4 64 ++ toLE 4 0 ++ [0, 0, 0, 0, 0, 0, 0, 0] ++ toLE 1 npeer)

def tTrim (f : Trim → Trim) : State :=
  { tUp with trim := f { Trim.reset with prob := some (tTrimDesc 0 0 0), descA := BitVec.ofNat 48 tData, sched := [0x0300000100008000] } }

theorem witness_TrimCommands :
    trimUp (tTrim id) = true ∧ domRuns (tTrim id) 10 = true ∧ domRuns (tTrim fun t => { t with status := tsFenced }) 10 = true ∧
    trimAllowed (tTrim fun t => { t with status := tsFenced }).trim 1 = false ∧ (tTrim id).trim.status ≠ tsFenced ∧
    trimAllowed (tTrim id).trim 1 = false ∧ trimAllowed (tTrim id).trim 2 = false ∧
    trimAllowed (tTrim id).trim 3 = false ∧ trimAllowed (tTrim fun t => { t with status := tsRunning }).trim 0 = false ∧
    trimAllowed (tTrim id).trim 0 = true ∧ placeOf (tTrim id) tData = .here tData ∧ initFenced (tTrim id) trimInit = false ∧
    actCheck (tTrim id) trimInit accLoad tData 128 = none ∧ ramErr (tTrim id) tData 128 = none ∧
    trimAllowed (tTrim fun t => { t with status := tsReady }).trim 1 = true ∧
    trimAllowed (tTrim fun t => { t with status := tsReady }).trim 2 = true ∧ (tTrim id).trim.journalA = 0 ∧ (tTrim id).trim.split = false := by
  decide +kernel

theorem witness_TrimCommands_load :
    (tTrim fun t => { t with status := tsLoading, prob := none }).trim.prob = none ∧
    descCause (tTrim id) (tTrim fun t => { t with status := tsLoading, prob := some (tTrimDesc 4 0 0) }).trim = some 8 ∧
    (tTrim fun t => { t with prob := some [] }).trim.fld 0 4 ≠ 0x5452494D ∧
    descCause (tTrim id) (tTrim id).trim = none ∧ (tTrim id).trim.status ≠ tsLoading := by decide +kernel

/-- DRAM is open to every initiator; one schedule entry stands at 0x100000, all else is 0. -/
def tEntryDram : W128 := actEntry 0 0x1000000 0x7FFFFFF 0x1F
def tProblem : State :=
  { tTrim (fun t => { t with prob := some ((tTrimDesc 0 0 0).take 0x40 ++ toLE 8 0x100000 ++ (tTrimDesc 0 0 0).drop 0x48) }) with
    mem := memWriteN [] 0x100000 (toLE 8 0x0300000100008000), act.force := [(0, tEntryDram)] }

theorem dram_open (acc : Nat) (h : actAllows tEntryDram acc = true) (n a : Nat) (ha : a + n ≤ 2 ^ 36) :
    actDenied [(0, tEntryDram)] trimInit acc a n = none := by
  induction n generalizing a with
  | zero => rfl
  | succ n ih =>
    have hb : actBase tEntryDram = 0 := by decide +kernel
    have hp : actPages tEntryDram * 4096 = 2 ^ 36 := by decide +kernel
    have hm : actMask tEntryDram trimInit = true := by decide +kernel
    have hc : actCovers tEntryDram trimInit a = true := by
      unfold actCovers
      rw [hb, hp, hm]
      simp only [Nat.zero_le, decide_true, Bool.true_and, Bool.and_true, decide_eq_true_eq]
      omega
    have hg : actGovern [(0, tEntryDram)] trimInit a = some (0, tEntryDram) := by simp [actGovern, hc]
    simp only [actDenied, hg, h, if_true]
    exact ih (a + 1) (by omega)

theorem problem_read (a n : Nat) (h : a + n ≤ 2 ^ 33) : trimRead tProblem a n = (.ok (tProblem.rd a n), tProblem) := by
  have hbits : bits a 0 48 = a := by unfold bits; omega
  have hbits2 : bits a 0 47 = a := by unfold bits; omega
  have hbit : bitOf a 47 = false := by
    unfold bitOf
    rw [Nat.testBit_lt_two_pow (by omega)]
  have hplace : placeOf tProblem (bits a 0 48) = .here a := by simp [placeOf, hbits, hbit, hbits2]
  have hact : actCheck tProblem trimInit accLoad a n = none := by
    have h1 : ¬ mgmtBase ≤ a := by
      have : mgmtBase = 2 ^ 40 * 1 + (mgmtBase - 2 ^ 40) := by decide
      omega
    have h2 : tProblem.act.force = [(0, tEntryDram)] := rfl
    simp only [actCheck, h1, if_false, h2, dram_open accLoad (by decide +kernel) n a (by omega)]
  have hram : ramErr tProblem a n = none := by
    have h1 : a < loftBase := by
      have : loftBase = 0x10000000000 := rfl
      omega
    have h2 : dramUsable tProblem = 60129542144 := by decide +kernel
    have h3 : ¬ 60129542144 ≤ a + (n - 1) := by omega
    have h4 : (domUp tProblem 14 && tProblem.ddr.ready && !tProblem.ddr.exiting) = true := by decide +kernel
    simp [ramErr, h1, h2, h3, h4]
  have hf : initFenced tProblem trimInit = false := by decide +kernel
  simp [trimRead, seqRead, hplace, ramRead, hf, hact, hram]

/-- Every read below 8 GiB succeeds and changes nothing. -/
def readsAll (s : State) : Prop := ∀ a n : Nat, a + n ≤ 2 ^ 33 → trimRead s a n = (.ok (s.rd a n), s)

theorem dense_ok {s : State} (hr : readsAll s) (rows : List (Nat × Nat))
    (h : ∀ p ∈ rows, p.1 * 0x20000 + (256 * p.2 + p.2 + 1) * 2 + (255 - p.2) * 2 ≤ 2 ^ 33) :
    ∃ m, loadDense 0 rows s = (.ok m, s) := by
  induction rows with
  | nil => exact ⟨[], rfl⟩
  | cons p rows ih =>
    obtain ⟨m, hm⟩ := ih fun q hq => h q (List.mem_cons_of_mem _ hq)
    have hp := h p List.mem_cons_self
    obtain ⟨b, i⟩ := p
    have hp2 : 0 + b * 0x20000 + (256 * i + i + 1) * 2 + (255 - i) * 2 ≤ 2 ^ 33 := by
      simp only at hp
      rw [Nat.zero_add]
      exact hp
    generalize hn : (255 - i) * 2 = n at hp2
    generalize ha : 0 + b * 0x20000 + (256 * i + i + 1) * 2 = a at hp2
    refine ⟨denseRow b i (s.rd a n) ++ m, ?_⟩
    rw [loadDense, ha, hn, hr a n hp2]
    simp only [hm]

/-- A problem of one block, no bias and one step whose reads all succeed is read whole. -/
theorem problem_ok {s : State} {t : Trim} (hr : readsAll s) (h1 : t.nblk = 1) (h2 : t.fld 0x10 8 = 0) (h3 : t.fld 0x18 8 = 0)
    (h4 : t.fld 0x20 8 = 0) (h5 : t.fld 0x30 8 = 0) (h6 : t.fld 0x38 8 = 0) (h7 : t.fld 0x40 8 = 0x100000) (h8 : t.nsparse = 0)
    (h9 : t.orderPerm = false) (h10 : t.nstep = 1)
    (hb : ((words 256 4 (s.rd 0 1024)).any fun b => decide (sext 32 b < -8388608) || decide (8388607 < sext 32 b)) = false)
    (hs : ((words 1 8 (s.rd 0x100000 8)).map (BitVec.ofNat 64)).any (fun e => scSweeps e == 0) = false) :
    ∃ x, loadProblem s t = (.ok x, s) := by
  obtain ⟨m, hm⟩ := dense_ok hr ((List.range 1).flatMap fun b => (List.range 255).map fun i => (b, i)) (by decide +kernel)
  have hw : (words 0 8 (s.rd 0 0)).map (BitVec.ofNat 64) = [] := rfl
  have hd : ((List.range 256).any fun i => decide (256 < degree [] i)) = false := by decide +kernel
  have ha : ([] : List W64).all (sparseOk t) = true := rfl
  unfold loadProblem
  simp only [h1, h2]
  rw [hm]
  simp only [Trim.nspins, h1, h3, h4, h5, h6, h7, h8, h9, h10, hr 0 (4 * (256 * 1)) (by decide), hr 0 (8 * 0) (by decide),
    hr 0 (32 * 1) (by decide)]
  simp only [Nat.mul_one, Nat.mul_zero, Nat.reduceMul, hr 0x100000 8 (by decide), hw, ha, hb, hd, hs, if_true, Bool.not_true, Bool.false_and, Bool.false_eq_true,
    if_false]
  exact ⟨_, rfl⟩

theorem zeros_field (k o n : Nat) : fieldLE (List.replicate k (0 : Byte)) o n = 0 := by
  have hb : ∀ m, byteAt (List.replicate k (0 : Byte)) m = 0 := by
    intro m
    unfold byteAt
    rw [List.getD_eq_getElem?_getD, List.getElem?_replicate]
    split <;> rfl
  have h : ∀ l : List Nat, leNat (l.map fun _ => (0 : Byte)) = 0 := by
    intro l
    induction l with
    | nil => rfl
    | cons x l ih =>
      rw [List.map_cons, leNat, ih]
      rfl
  simp only [fieldLE, slice, hb, h]

theorem problem_zeros : tProblem.rd 0 1024 = List.replicate 1024 0 := by decide +kernel

/-- The problem of one block is read whole. -/
theorem witness_TrimCommands_problem : ∃ x, loadProblem tProblem tProblem.trim = (.ok x, tProblem) := by
  refine problem_ok problem_read (by decide +kernel) (by decide +kernel) (by decide +kernel) (by decide +kernel) (by decide +kernel)
    (by decide +kernel) (by decide +kernel) (by decide +kernel) (by decide +kernel) (by decide +kernel) ?_ (by decide +kernel)
  have h : ∀ i, fieldLE (List.replicate 1024 0) (4 * i) 4 = 0 := fun i => zeros_field _ _ _
  have h0 : sext 32 0 = 0 := by decide
  rw [problem_zeros]
  simp only [words, h, List.any_map]
  rw [List.any_eq_false]
  simp [h0]

/-- A journal record of run 0 as it stands in memory. -/
def tRecBytes (k apply : Nat) (payload : Bytes) : Bytes :=
  let r : TrimRec := { kind := k, part := 0, n := 0, apply := apply, src := 0, payload := padTo (payloadLen k 0) payload }
  recHeader 0 r ++ padded r.payload

/-- READY, with a journal whose START record has this seed, and its END at sweep 5. -/
def tJournal (seed : Nat) : State :=
  { tTrim (fun t => { t with status := tsReady, prob := some (tTrimDesc 0 0 (tData + 0x800)) }) with
    mem := memWriteN [] (tData + 0x800) (tRecBytes 1 0 (toLE 8 seed) ++ tRecBytes 4 5 []) }

theorem witness_TrimCommands_replay : ∀ seed ∈ [0x1F48, 7], trimUp (tJournal seed) = true ∧ trimAllowed (tJournal seed).trim 2 = true ∧
    (tJournal seed).trim.journalA ≠ 0 ∧
    (match trimRead (tJournal seed) (tJournal seed).trim.journalA (tJournal seed).trim.jsize with
      | (.ok b, _) => (match journalRecs (fieldLE (recOf b).payload 8 4) (b.length + 1) b with
        | r0 :: rs => r0.kind == 1 && (fieldLE r0.payload 0 8 == (tJournal seed).trim.seed) == (seed == 0x1F48) &&
            fieldLE r0.payload 12 1 == (tJournal seed).trim.part && rs.map (fun r => (r.kind, r.apply)) == [(4, 5)]
        | [] => false)
      | _ => false) = true := by decide +kernel

/-- R324: a replay of the journal runs until its END's sweep; one of another seed is INVALID. -/
theorem test_replay : gives (execTrimReplay .reg (tJournal 0x1F48)) (fun t => t.trim.status == tsRunning && t.trim.jEnd.map (fun r => r.apply) == some 5) = true ∧
    gives (execTrimReplay .reg (tJournal 7)) (fun t => t.trim.status == tsInvalid && t.trim.cause == 10) = true := by decide +kernel

def tEnded (st : BitVec 4) : State := tTrim fun t => { t with status := tsRunning, ending := some st, irqEn := true }

/-- The same run journaled, 32 bytes of the journal written. -/
def tEndedJ : State :=
  tTrim fun t => { t with status := tsRunning, ending := some tsDone, prob := some (tTrimDesc 0 0 (tData + 0x800)), jlen := 32 }

theorem witness_TrimCommands_journal :
    tEndedJ.trim.journalA ≠ 0 ∧ tEndedJ.trim.replay = false ∧ tEndedJ.trim.jfull = false ∧ tEndedJ.trim.jlen.toNat + 32 ≤ tEndedJ.trim.jsize ∧
    placeOf tEndedJ (bits (tEndedJ.trim.journalA + tEndedJ.trim.jlen.toNat) 0 48) = .here (tData + 0x820) ∧
    placeOf tEndedJ (bits (tEndedJ.trim.journalA + tEndedJ.trim.jlen.toNat + 16) 0 48) = .here (tData + 0x820 + 16) ∧
    actCheck tEndedJ trimInit accStore (tData + 0x820) 16 = none ∧ actCheck tEndedJ trimInit accStore (tData + 0x820 + 16) 16 = none ∧
    ramErr tEndedJ (tData + 0x820) 16 = none ∧ ramErr tEndedJ (tData + 0x820 + 16) 16 = none ∧ tData + 1600 ≤ tData + 0x820 ∧
    placeOf tEndedJ (bits tEndedJ.trim.resultA 0 48) = .here tData ∧ initFenced tEndedJ trimInit = false ∧ trimUp tEndedJ = true ∧
    tEndedJ.trim.recE.length = 64 ∧ ramErr tEndedJ tData 1600 = none ∧ tEndedJ.memWf = true := by decide +kernel

theorem witness_TrimCommands_end :
    (tEnded tsDone).trim.ending = some tsDone ∧ (tEnded tsBusErr).trim.ending = some tsBusErr ∧ (tEnded tsDone).trim.resultA = tData ∧
    (tEnded tsDone).trim.recE.length = 64 ∧ ramErr (tEnded tsDone) tData 1600 = none ∧ (tEnded tsDone).memWf = true ∧
    (tEnded tsPeerLost).cleatC.fifo.length < 32 := by decide +kernel

theorem witness_TrimCommands_store : actCheck (tEnded tsDone) trimInit accStore tData 1600 = none := by decide +kernel

/-- The unit's domain is reclaimed while it loads, sweeps or stands between sweeps. -/
def tTrimReclaim (st : BitVec 4) (p : TrimPhase) : State :=
  { tTrim (fun t => { t with status := st, phase := p }) with
    reef.doms := vput tUp.reef.doms 10 { tRun with reclaim := some .off } }

theorem witness_TrimCommands_reclaim :
    (domOf (tTrimReclaim tsLoading .between) 10).reclaim.isSome = true ∧ trimUp (tTrimReclaim tsLoading .between) = true ∧
    (tTrimReclaim tsRunning (.sweep 3)).trim.phase = .sweep 3 ∧ (tTrimReclaim tsRunning .between).trim.ending = none ∧
    (domOf (tTrim id) 10).reclaim = none ∧ (tTrim id).boot.dprActive = false ∧
    (tTrimReclaim tsRunning .final).trim.phase = .final := by decide +kernel

/-- R314: RUN is not allowed of an IDLE unit; a run that ended DONE. -/
theorem test_trimCommands :
    gives (execTrimRun .reg (tTrim id)) (fun t => t.trim.cmdErr && t.trim.status == 0) = true ∧
    gives (execTrimRunEnd (tEnded tsDone)) (fun t => t.trim.status == tsDone && t.trim.ending.isNone) = true := by decide +kernel

/-- Table 9-5 and the worked example: the couple of T20 and T21, the last schedule entry, the record's header. -/
theorem test_trimExample :
    seI 0x000000340050C4CA = 0x4CA ∧ seJ 0x000000340050C4CA = 0x50C ∧ seVal 0x000000340050C4CA = 52 ∧
    scBeta 0x030000C800008000 = 32768 ∧ scSweeps 0x030000C800008000 = 200 ∧ scRecord 0x030000C800008000 = true ∧
    scBest 0x030000C800008000 = true ∧
    recBody { kind := 2, part := 0, n := 2, apply := 1200, src := 1199, payload := [] } = [2, 0, 2, 0, 0xB0, 4, 0, 0, 0xAF, 4, 0, 0] ∧
    (recOf [2, 0, 2, 0, 0xB0, 4, 0, 0, 0xAF, 4, 0, 0, 0, 0, 0, 0, 0xCA, 0x84, 0xD0, 4]).payload = [0xCA, 0x84, 0xD0, 4] := by decide

/-- R309: 2^32 e^(-6/128) and e^(-64/128). -/
theorem test_expt : expt 0 = 0xFFFFFFFF ∧ expt 6 = 4098286423 ∧ expt 64 = 2605029347 ∧ expt 4095 = 0 := by decide +kernel

/-! ### Runs -/

def tTrimRun (f : Trim → Trim) : State := tTrim fun t => f { t with status := tsRunning, rng := Vector.replicate 256 1 }
def tSplit : State := tTrimRun fun t => { t with prob := some (tTrimDesc 4 1 0) }

/-- An END record of sweep 5. -/
def tEndAt : TrimRec := { kind := 4, part := 0, n := 0, apply := 5, src := 0, payload := [] }

theorem witness_TrimRuns_between :
    trimUp (tTrimRun id) = true ∧ (tTrimRun id).trim.phase = .between ∧ (tTrimRun id).trim.ending = none ∧
    (tTrimRun id).trim.replay = false ∧ (tTrimRun id).trim.split = false ∧ tSplit.trim.split = true ∧ (applyAll tSplit).trim.ending = none ∧
    staleOk (applyAll tSplit).trim = false ∧
    (tTrimRun fun t => { t with replay := true, jLast := 5, sweep := 5 }).trim.jLast ≤ 5 ∧ (tTrimRun id).trim.jEnd = none ∧
    tEndAt.apply ≤ (tTrimRun fun t => { t with replay := true, jEnd := some tEndAt, sweep := 5 }).trim.sweep.toNat ∧
    (tTrimRun fun t => { t with replay := true, jEnd := some tEndAt, sweep := 4 }).trim.sweep.toNat < tEndAt.apply ∧
    (4 : Nat) < (tTrimRun fun t => { t with replay := true, jLast := 5, sweep := 4 }).trim.jLast ∧
    finalsIn (applyFinals (trimMod (sendAll tSplit 3 0) fun x => { x with finalSent := true })).trim = false := by decide +kernel

/-- Block 0 with a bias on spin 0 that makes its flip cost, at β and with the spin up or down. -/
def tGroup0 (beta : W64) : State :=
  tTrimRun fun t => { t with phase := .sweep 0, bias := [(0, 1000)], sched := [beta + 0x0300000100000000] }

def tDelta (beta : W64) : Int := (tGroup0 beta).trim.deltaE 0 0 0

theorem witness_TrimRuns_step :
    (tGroup0 0).trim.nblk = 1 ∧ (tGroup0 0).trim.clamp.getLsbD 0 = false ∧ (tGroup0 0).trim.clamp = 0 ∧
    (∀ l : Fin 16, (tGroup0 0).trim.laneIndex 0 l.val = l.val) ∧ tTrimRun id ≠ tGroup0 0 ∧
    (tTrimRun id).trim.deltaE 0 0 0 ≤ 0 ∧
    (0 < tDelta 0 ∨ (tGroup0 0).trim.deltaE 1 1 0 > 0) ∧ (laneNext 1).2 < expt 0 ∧ expt 4095 ≤ (laneNext 1).2 ∧
    4096 ≤ ((tGroup0 0xFFFF).trim.beta * 1000) >>> 9 := by decide +kernel

def tSweep16 : State := tTrimRun fun t => { t with phase := .sweep 16 }

theorem witness_TrimRuns_end :
    tSweep16.trim.phase = .sweep 16 ∧ tSweep16.trim.stepSweeps + 1 = scSweeps (tSweep16.trim.sched.getD tSweep16.trim.steps 0) ∧
    (tTrimRun fun t => { t with sched := [0x0300000200008000] }).trim.stepSweeps + 1 ≠ scSweeps 0x0300000200008000 ∧
    scRecord (tSweep16.trim.sched.getD 0 0) = true ∧ scBest (tSweep16.trim.sched.getD 0 0) = true ∧ tSweep16.trim.best = none ∧
    tSweep16.trim.steps < tSweep16.trim.recE.length ∧ (tTrimRun fun t => { t with phase := .final }).trim.phase = .final ∧
    tSweep16.trim.journalA = 0 ∧ initFenced tSweep16 trimInit = false ∧ tSweep16.memWf = true ∧
    (∀ o : Fin 1600, placeOf tSweep16 (bits (tSweep16.trim.resultA + o.val) 0 48) = .here (tData + o.val)) ∧
    actCheck tSweep16 trimInit accStore tData 1600 = none ∧ ramErr tSweep16 tData 1600 = none := by decide +kernel

/-- The last sweep is over, and every peer's FINAL is in. -/
def tFinals : State := { tSplit with trim := { tSplit.trim with phase := .final, finalSent := true, finals := Vector.replicate _ true } }

theorem witness_TrimRuns_finals : tFinals.trim.status = tsRunning ∧ tFinals.trim.phase = .final ∧ tFinals.trim.ending = none ∧
    tFinals.trim.split = true ∧ finalsIn (applyFinals tFinals).trim = true ∧ (applyFinals tFinals).trim.ending = none := by decide +kernel

theorem test_sweepEnd : gives (execTrimSweepEnd tSweep16) (fun t => t.trim.phase == .final && t.trim.sweep == 1) = true ∧
    gives (execTrimGroupStep (tTrimRun fun t => { t with phase := .sweep 0 })) (fun t =>
      t.trim.spins == 0xFFFF && t.trim.phase == .sweep 1 && t.trim.flips == 16) = true := by decide +kernel


/-! ## DRAM, PCIe, debug ports and registers -/

/-- The table's DRAM entry names every initiator, the endpoint (25) with the rest. -/
def tBar4 : State := { tUp with act.force := Tbl.write (fun _ => 0) tUp.act.force 9 tEntryDram }
def tDdrOff : State := { tUp with ddr.ready := false, ddr.busy := true }

theorem witness_DramAndPcie_ddr :
    domUp tUp 14 = true ∧ (1 : W32).getLsbD 0 = true ∧ tDdrOff.ddr.ready = false ∧ tDdrOff.ddr.busy = true ∧ domUp tDdrOff 14 = true ∧
    tUp.ddr.busy = false ∧ tUp.ddr.ready = true ∧ mgcUp tUp = true ∧ (domOf tUp 14).state = .run ∧ dramUp tUp = true ∧
    (939524095 : Nat) * 64 < dramUsable tUp ∧ tUp.ddr.cfg.getLsbD 5 = true ∧ { tUp with ddr.cfg := 4 }.ddr.cfg.getLsbD 5 = false ∧
    stands tUp 0xFF27 1 = false ∧ (fabUp tDdrOff = false ∨ tDdrOff.fab.role = 3) := by decide +kernel

theorem witness_DramAndPcie_stands :
    (match execDramRefresh 1 true tUp with
      | .next t => stands t 0xFF27 1 && dramUp t
      | _ => false) = true := by decide +kernel

theorem witness_DramAndPcie_bar4 :
    pcieUp tBar4 = true ∧ tBar4.pcie.ap4.toNat * 2 ^ 28 + (2 ^ 28 - 64) + 64 ≤ dramUsable tBar4 ∧ ramErr tBar4 (2 ^ 28 - 64) 64 = none ∧
    actCheck tBar4 25 accLoad (2 ^ 28 - 64) 64 = none ∧ actCheck tBar4 25 accStore (2 ^ 28 - 64) 64 = none ∧ tBar4.memWf = true ∧
    tBar4.cacheWf = true ∧ (actCheck { tUp with act.force := [] } 25 accLoad 0 8).isSome = true ∧
    (actCheck { tUp with act.force := [] } 25 accStore 0 8).isSome = true ∧ pcieUp State.reset = false ∧
    (tBar4.pcie.msix.get 9).getLsbD 96 = true ∧
    ({ tUp with pcie.msix := vput tUp.pcie.msix 9 0 }.pcie.msix.get 9).getLsbD 96 = false ∧ domUp tUp 17 = true ∧ ctlUp tUp = true := by decide +kernel

/-- R397: a vector raised while masked is sent when it is unmasked. -/
theorem test_msix :
    gives (execPcieMsixRaise 9 tUp) (fun t => t.out.isEmpty && gives (execMsixUnmask 9 t) (fun u => u.out == [.msix 9] && u.pcie.pend == 0)) = true := by
  decide +kernel

/-- R385: page 2 of BAR4 is DRAM at 0x20000000. -/
theorem test_bar4 :
    gives (execHostBar4Access 8 none 2 { tBar4 with pcie.ap4 := 2, mem := memWriteN [] 0x20000008 [0xAB, 0xCD] })
      (fun t => t.out == [.host (.data [0xAB, 0xCD])]) = true := by decide +kernel

/-- A hart halted through the DAP; the lock bits of OTP programmed. -/
def tHalted : State := dapSetHalt (tMast (wR 0x22 0 7 5 6)) 0 true
def tLocked : State := { tUp with otp := { tUp.otp with cells := [(0x140, 0x11)] } }

theorem witness_DebugIoAndRegisters_dap :
    mgcUp tUp = true ∧ ctlUp tUp = true ∧ mastLocked tUp.otp = false ∧ mgcLocked { tUp with otp := { tUp.otp with cells := [] } }.otp = false ∧ mastLocked tLocked.otp = true ∧
    mgcLocked tLocked.otp = true ∧ dapHalted tHalted 0 = true ∧ dapHalted tUp 0 = false ∧ mastLocked tHalted.otp = false ∧
    (match (issueWord (dapSetHalt tHalted 0 false) 0).outcome 0 with
      | .next _ => true
      | _ => false) = true := by decide +kernel

/-- Initiator 30 may use the Loft, and an empty table denies it. -/
def tDap : State := { tUp with act.force := Tbl.write (fun _ => 0) tUp.act.force 9 (actEntry loftBase 0x1800 0xFFFFFFFF 0x1F) }

theorem witness_DebugIoAndRegisters_dapMem :
    (match initRead tDap 30 tData 8 with
      | (.ok _, _) => true
      | _ => false) = true ∧
    (match initWrite tDap .other 30 tData [1, 2] with
      | (none, _) => true
      | _ => false) = true ∧
    (match initRead { tUp with act.force := [] } 30 0x1000 8 with
      | (.error _, _) => true
      | _ => false) = true ∧
    (match initWrite { tUp with act.force := [] } .other 30 0x1000 [1, 2] with
      | (some _, _) => true
      | _ => false) = true ∧ mgcUp tDap = true ∧ ctlUp tDap = true ∧ mastLocked tDap.otp = false := by decide +kernel

/-- Table 16-6: IDCODE, least significant bit first. -/
theorem test_idcode : gives (execTapIdcode State.reset) (fun t =>
    t.out == [.tdo [true, false, false, false, true, false, true, false, false, true, false, true, false, true, true, false,
                    true, false, false, false, false, true, false, true, false, false, true, false, false, true, false, false]]) = true := by decide

theorem witness_DebugIoAndRegisters_io : ioUp State.reset = false ∧ ioUp tUp = true := by decide

/-- R556: a rising edge on an enabled ball. -/
theorem test_ioEdge :
    gives (execIoEdge 3 true { tUp with io.irqEn := 8 }) (fun t => t.io.irqStat == 8) = true ∧
    gives (execIoEdge 3 true { tUp with io.irqEn := 8, io.irqMode := 0x40 }) (fun t => t.io.irqStat == 0) = true := by decide +kernel

/-- IO_OUT as the boot set gives it to hart 0 at S level, and as the empty table denies it; MGC's own. -/
theorem witness_DebugIoAndRegisters_registers :
    domUp tUp 11 = true ∧ actCheck tUp (hartInit 0 true) accStore (periBase + 0x3040008) 4 = none ∧
    (actCheck { tUp with act.force := [] } (hartInit 0 true) accStore (periBase + 0x3040008) 4).isSome = true ∧
    actCheck tUp (hartInit 0 true) accStore (periBase + 0x430000) 4 = none ∧
    (1 : W64).getLsbD 0 = true ∧ (1 : W64).getLsbD 1 = false ∧ tUp.memWf = true := by decide +kernel

theorem test_register : gives (execRegisterWrite (.mast 0) (periBase + 0x3040008) 0x55 (tMast (wR 0x22 0 7 5 6))) (fun t => t.io.outv == 0x55) = true := by
  decide +kernel


/-! ## Shroud ports and flits -/

def tShl : ShlPort := { ShlPort.reset with st := .active, credits := Vector.replicate 8 5 }
/-- Port 2 of a member, its port in one state. -/
def tPort (st : PortSt) (f : ShlPort → ShlPort) : State := { tMember with shl := vput tMember.shl 2 (f { tShl with st := st }) }
def tPartner (w : Nat) : ShlPartner := { chip := 7, serial := 7, port := 3, attach := false, width := w, pools := List.replicate 8 16 }

theorem witness_PortsAndFlits_states :
    (∀ st ∈ [PortSt.detect, .eq, .align, .config, .active, .retrain, .down], effPort (tPort st id) 2 = st) ∧
    partnerFits tShl 2 (tPartner 4) = true ∧ partnerFits tShl 2 (tPartner 2) = true ∧ partnerFits tShl 2 (tPartner 1) = false ∧
    effPort { tPort .config id with fab.role := 3 } 2 = .config ∧ tShl.txq = [] ∧ (tShl.retrainAt.filter fun t => decide ((0 : Nat) < t + cyclesPerSecond)).length < 2 ∧
    2 ≤ (([0, 0] : List Nat).filter fun t => decide (0 < t + cyclesPerSecond)).length := by decide

/-- A flit: flags, sequence number, acknowledgement, then its slots. -/
def tFlit (flags seq ack : Nat) (slots : Bytes) : Bytes := closeFlit (toLE 1 flags ++ toLE 2 seq ++ toLE 2 ack ++ List.replicate 6 0 ++ slots)

/-- A write of 8 bytes to this chip's Loft, of privilege 0: two slots. -/
def tWrMsg : Bytes := padTo 32 ([2, 8, 3, 1, 0, 0] ++ toLE 6 tData ++ [7, 0, 0, 0] ++ List.replicate 8 0x77)

theorem witness_PortsAndFlits_flits :
    let q := (tPort .active id).shl.get 2
    flitOk [] = false ∧ flitOk (tFlit 1 0 0 []) = true ∧ flitSeqd (tFlit 1 0 0 []) = true ∧
    BitVec.ofNat 12 (fieldLE (tFlit 1 0 0 []) 1 2) = q.expSeq ∧ flitMsgs 15 (slice (tFlit 1 0 0 []) 11 240) = [] ∧
    BitVec.ofNat 12 (fieldLE (tFlit 1 2048 0 []) 1 2) ≠ q.expSeq ∧ (q.expSeq - 2048).toNat ≤ 2048 ∧ 2048 < (q.expSeq - 2047).toNat ∧
    flitSeqd (tFlit 0 0 0 []) = false ∧ flitNak (tFlit 0 0 0 []) = false ∧ flitNak (tFlit 2 0 0 []) = true ∧
    flitSeqd (tFlit 2 0 0 []) = false ∧ flitAckOk (tFlit 0 0 0x8000 []) = true ∧ flitAckOk (tFlit 0 0 0 []) = false := by
  decide +kernel

def tWrFlit : Bytes := tFlit 1 0 0 tWrMsg

/-- The table gives the port's initiator the Loft. -/
def tWrState : State := { tPort .active id with act.force := Tbl.write (fun _ => 0) tUp.act.force 9 (actEntry loftBase 0x1800 0xFFFFFFFF 0x1F) }

theorem witness_PortsAndFlits_write :
    flitOk tWrFlit = true ∧ flitMsgs 15 (slice tWrFlit 11 240) = [tWrMsg] ∧ msgDst tWrMsg = ownChip tWrState ∧ msgMk tWrMsg = mkWr ∧
    tWrState.fab.role ≠ 3 ∧ homeOff tWrState = false ∧ attached tWrState 2 = false ∧ msgPriv tWrMsg < 3 ∧ reqBytes tWrMsg = some 8 ∧ isRam (msgOff tWrMsg) = true ∧
    actCheck tWrState (27 + msgPriv tWrMsg) accStore (msgOff tWrMsg) 8 = none ∧ busErr tWrState (msgOff tWrMsg) 8 = none ∧
    tWrState.memWf = true ∧ 8 ≤ (msgData tWrMsg).length := by decide +kernel

/-- Two flits sent and not acknowledged. -/
def tSent (np : Nat) : ShlPort := { tShl with nextSeq := 2, replay := [(0, [1]), (1, [2])], noProgress := np }

theorem witness_PortsAndFlits_retry :
    (1 : Nat) < (tSent 0).replay.length ∧ (tSent 0).replay.length < 4096 ∧ (ackTo (tSent 0) 2).replay = [] ∧
    (ackTo (tSent 0) 1).replay ≠ [] ∧ (ackTo (tSent 0) 1).noProgress < 7 ∧ (tSent 6).noProgress < 7 ∧ 7 ≤ (tSent 7).noProgress ∧
    tShl.replay = [] ∧ effPort (tPort .active fun _ => tSent 0) 2 = .active := by decide

theorem test_ports :
    gives (execPortDetect 2 true (tPort .detect id)) (fun t => (t.shl.get 2).st == .eq) = true ∧
    gives (execPortConfig 2 (tPartner 2) { tPort .config id with fab.role := 3 }) (fun t => (t.shl.get 2).degraded && (t.shl.get 2).credits.get 0 == 16) = true ∧
    gives (execReplayTimeout 2 (tPort .active fun _ => tSent 0)) (fun t => t.out == [.flit 2 [1], .flit 2 [2]]) = true := by decide +kernel

theorem test_flitWrite : gives (execFlitReceive 2 tWrFlit tWrState) (fun t =>
    t.rd tData 9 == List.replicate 8 0x77 ++ [0] && (t.shl.get 2).expSeq == 1) = true := by decide +kernel

/-- The worked example of ch. 11: the global address, and the header of its RD. -/
theorem test_remoteRead : globalAddr 13 0x01234560 = 0x9A0001234560 ∧ coord 13 0 = 1 ∧ coord 13 1 = 3 ∧
    (let m : Bytes := [1, 0, 0x0D, 0, 0, 0, 0x60, 0x45, 0x23, 1, 0, 0, 7, 0, 0, 0]
     msgMk m = mkRd ∧ msgDst m = 13 ∧ msgSrc m = 0 ∧ msgOff m = 0x01234560 ∧ msgLen m = 8 ∧ msgVc m = 0 ∧ msgSlots m = 1) := by decide


/-! ## The two-wire ports -/

def tTw (f : TwPort → TwPort) (n : TwId) : State :=
  { tNode with tw := vput tNode.tw n (f { TwPort.reset with cfg := 0x190757, taddr := 0x30, busy := false }) }

def tTwXfer : TwXfer := { origin := .cmd, addr := 0x52, wdata := [0x10, 0x3A], rlen := 0 }
def tCur (w : Bool) : TwCur := { x := tTwXfer, attempts := 1, nacks := 0, losses := 0, waiting := w, stamp := [] }
def tTwCur (w : Bool) : State := tTw (fun p => { p with cur := some (tCur w), busy := !w }) 1

theorem witness_TwoWireController_command :
    twUp (tTw id 0) 0 = true ∧ twUp (tTw id 5) 5 = true ∧ twUp State.reset 0 = false ∧ twUp State.reset 5 = false ∧
    (0 : W32).getLsbD 7 = false ∧ (0xD2 : W32).getLsbD 7 = true ∧ ((tTw (fun p => { p with cmdBusy := true }) 1).tw.get 1).cmdBusy = true ∧
    ((tTw (fun p => { p with fault := true }) 1).tw.get 1).fault = true ∧ (1 : CanPort).val = (1 : TwId).val ∧
    isService tNode.node tSvc = true ∧
    ([0x52, 1, 2, 0, 9] : Bytes).length = 4 + (byteAt ([0x52, 1, 2, 0, 9] : Bytes) 1).toNat ∧ (byteAt ([0x7F, 64, 64, 0] : Bytes) 0).toNat ≤ 127 ∧
    (padTo 68 ([0x7F, 64, 64, 0] : Bytes)).length = 4 + 64 ∧ ([0, 0, 0] : Bytes).length < 4 := by decide +kernel

theorem witness_TwoWireController_asks : tNode.mayAsk tSvc ∧ (tTw (fun p => { p with fault := true }) 1).mayAsk tSvc ∧
    twUp (tTw (fun p => { p with fault := true }) 1) 1 = true := by
  simp only [State.mayAsk]; decide

theorem witness_TwoWireController_start :
    let p := (tTw (fun p => { p with queue := [tTwXfer] }) 1).tw.get 1
    p.en = true ∧ p.ctl = true ∧ p.fault = false ∧ p.busy = false ∧ p.asleep = false ∧ p.cur = none ∧ p.target = none ∧
    p.queue = tTwXfer :: [] ∧ ((tTw id 1).tw.get 1).queue = [] ∧ TwPort.reset.busy = true := by decide

theorem witness_TwoWireController_ends :
    ((tTwCur false).tw.get 1).cur = some (tCur false) ∧ (tCur false).waiting = false ∧ twUp (tTwCur false) 1 = true ∧
    ((tTwCur false).tw.get 1).nakRetry ≤ (tCur false).nacks ∧
    (0 : Nat) < ((tTw (fun p => { p with cfg := 0x191757 }) 1).tw.get 1).nakRetry ∧ ((tTwCur false).tw.get 1).targetOn = true ∧
    (0x60 : Byte).toNat / 2 = ((tTwCur false).tw.get 1).taddr.toNat ∧ (tCur false).x.wdata ≠ [] ∧ (0 : Nat) < ((tTwCur false).tw.get 1).retry ∧
    ((tTw (fun p => { p with cfg := 0x190157 }) 1).tw.get 1).retry ≤ 0 ∧ ((tTwCur true).tw.get 1).cur = some (tCur true) ∧
    ((tTwCur true).tw.get 1).busy = false ∧ ((tTwCur true).tw.get 1).target = none := by decide

theorem witness_TwoWireController_faults :
    ((tTw (fun p => { p with sclLow := true }) 1).tw.get 1).sclLow = true ∧ ((tTw id 1).tw.get 1).sclLow = false ∧
    ((tTw (fun p => { p with cfg := 0x190755 }) 1).tw.get 1).ctl = false ∧ ((tTw id 1).tw.get 1).sdaLow = false ∧
    ((tTw (fun p => { p with sdaLow := true }) 1).tw.get 1).sdaLow = true ∧
    ctxTw { Ctx.reset with cfg := 0x81 } = some 3 ∧ ((tTw id 1).tw.get 1).en = true ∧ ((tTw id 1).tw.get 1).asleep = false ∧
    ((tTw id 1).tw.get 1).fault = false ∧ ((tTw (fun p => { p with sclLow := true }) 1).tw.get 1).fault = false ∧
    ((tTw (fun p => { p with asleep := true }) 1).tw.get 1).asleep = true := by decide

/-- Table 12-2: the loss at byte 2, bit 1, is recorded and the write waits for its retry. -/
theorem test_arbitration : gives (execTwArbLost 1 2 1 0x3A (tTwCur false)) (fun t =>
    let p := t.tw.get 1
    p.arbLost && p.arbByte == 2 && p.arbBit == 1 && p.arbAttempt == 1 && p.arbCount == 1 && p.cur.map (fun c => c.waiting) == some true) = true := by
  decide +kernel

/-- Table 12-4's example: TW3_CFG 0x00190753 and the reset value of TW3_TIM. -/
theorem test_twCfg :
    let p := { TwPort.reset with cfg := 0x190753 }
    p.en = true ∧ p.ctl = true ∧ p.tgt = false ∧ bits p.cfg.toNat 3 2 = 2 ∧ bits p.cfg.toNat 5 4 = 10 ∧ p.retry = 3 ∧ p.nakRetry = 0 ∧
    TwPort.reset.tim = 0x326E220C := by decide

def tTarget (r f : Bool) : TwTarget := { read := r, first := f, firstPtr := 0xFE, lastPtr := 0xFE, count := 0 }
def tServing (r f : Bool) : State := tTw (fun p => { p with busy := true, ptr := 0xFF, target := some (tTarget r f) }) 3

theorem witness_TwoWireTarget_address :
    twUp (tTw id 3) 3 = true ∧ ((tTw id 3).tw.get 3).asleep = false ∧ ((tTw id 3).tw.get 3).targetOn = true ∧
    (0x61 : Byte).toNat / 2 = ((tTw id 3).tw.get 3).taddr.toNat ∧ ((tTw id 3).tw.get 3).cur = none ∧
    ((tTw (fun p => { p with taddr := 7 }) 3).tw.get 3).targetOn = false ∧
    ((tTw (fun p => { p with asleep := true }) 3).tw.get 3).asleep = true ∧ 2 ≤ (3 : TwId).val ∧
    (∀ w : Bool, ((tTwCur w).tw.get 1).cur = some (tCur w) ∧ (tCur w).waiting = w ∧ ((tTwCur w).tw.get 1).asleep = false ∧
      ((tTwCur w).tw.get 1).targetOn = true ∧ ((tTwCur w).tw.get 1).target = none ∧ (0x61 : Byte).toNat / 2 = ((tTwCur w).tw.get 1).taddr.toNat) := by
  decide

theorem witness_TwoWireTarget_window :
    (∀ r f : Bool, twUp (tServing r f) 3 = true ∧ ((tServing r f).tw.get 3).target = some (tTarget r f)) ∧
    ((tServing false false).tw.get 3).wprot.getLsbD (((tServing false false).tw.get 3).ptr.toNat / 16) = false ∧
    (0x8000 : W16).getLsbD (((tServing false false).tw.get 3).ptr.toNat / 16) = true ∧ ((tTw id 3).tw.get 3).target = none ∧
    ((tServing true true).tw.get 3).deferred.length < 8 ∧
    8 ≤ ((tTw (fun p => { p with deferred := List.replicate 8 (0, []), target := some (tTarget true true) }) 3).tw.get 3).deferred.length ∧
    ((tTw (fun p => { p with fault := true }) 3).tw.get 3).fault = true ∧ (1 : W32).getLsbD 0 = true ∧ ((tTwCur false).tw.get 1).cur.isSome = true ∧
    ((tTw (fun p => { p with cfg := 0x198757 }) 1).tw.get 1).sleepBit = true ∧ ((tTw (fun p => { p with cfg := 0x198757 }) 1).tw.get 1).en = true ∧
    ((tTw (fun p => { p with cfg := 0x198757 }) 1).tw.get 1).queue = [] ∧ (1 : CanPort).val = (1 : TwId).val := by decide +kernel

/-- R443, R445, R446: a write at 0xFF stores there and the pointer wraps; the STOP logs it; a read sends from the pointer. -/
theorem test_window :
    gives (execTwTargetWriteByte 3 0x5A (tServing false false)) (fun t => byteAt (t.tw.get 3).win 0xFF == 0x5A && (t.tw.get 3).ptr == 0 &&
      gives (execTwStop 3 false t) (fun u => (u.tw.get 3).winWr && (u.tw.get 3).winCount == 1 && (u.tw.get 3).winLast == 0xFF)) = true ∧
    gives (execTwWindowInternalWrite 3 4 [7] (tServing true true)) (fun t => byteAt (t.tw.get 3).win 4 == 0 &&
      gives (execTwStop 3 false t) (fun u => byteAt (u.tw.get 3).win 4 == 7)) = true := by decide +kernel


/-! ## Reef -/

/-- REEF_REQ of a domain, state, class and flag stands in C2M. -/
def tReefReq (dn sc cn fl : Nat) (s : State) : State := tSend 0x05 9 ([dn, sc, cn, fl].map (BitVec.ofNat 8)) s
def tReefTaken (s : State) : State := ((takeMsg s 0x05).map fun p => p.2).getD s
def tTakenMsg (s : State) : Bytes := ((takeMsg s 0x05).map fun p => p.1.payload).getD []

/-- Domain d holds n units in a state; everything else is granted for nothing, with 100 units free. -/
def tDom (d : DomId) (st : PState) (n : Nat) : State :=
  { tUp with reef.doms := vput tUp.reef.doms d { tRun with state := st, units := n }, reef.free := 100, reef.eff := 100 + n, reef.effNext := 100 + n }

theorem witness_ReefRequests_taken :
    (tDom 9 .thr 14).boot.dprActive = false ∧
    tTakenMsg (tReefReq 9 4 1 0 (tDom 9 .thr 14)) = [9, 4, 1, 0] ∧ tTakenMsg (tReefReq 17 4 1 0 tUp) = [17, 4, 1, 0] ∧
    tTakenMsg (tReefReq 16 5 1 0 tUp) = [16, 5, 1, 0] ∧ tTakenMsg (tReefReq 16 4 3 0 tUp) = [16, 4, 3, 0] ∧
    tTakenMsg (tReefReq 16 4 2 2 tUp) = [16, 4, 2, 2] ∧ tTakenMsg (tReefReq 11 4 2 1 tUp) = [11, 4, 2, 1] ∧
    tTakenMsg (tReefReq 12 0 1 0 tUp) = [12, 0, 1, 0] ∧
    pstateOf 4 = some .run ∧ pstateOf 0 = some .off ∧ stateCost 12 .thr = none ∧ (stateCost 9 .run).isSome = true := by decide +kernel

theorem witness_ReefRequests_refused :
    let u := tReefTaken (tReefReq 9 4 2 0 { tDom 9 .thr 14 with reef.pinmax := 23 })
    let v := tReefTaken (tReefReq 9 4 2 0 { tDom 9 .thr 14 with reef.pinmax := 24 })
    u.reef.pinmax.toNat < pinnedSum u - (if pinned u 9 then (domOf u 9).units else 0) + costOf u 9 .run ∧
    pinnedSum v - (if pinned v 9 then (domOf v 9).units else 0) + costOf v 9 .run ≤ v.reef.pinmax.toNat := by decide +kernel

def tNo12 : State := { tDom 9 .thr 14 with reef.doms := vput (tDom 9 .thr 14).reef.doms 12 DomRec.reset }

theorem witness_ReefRequests_depends :
    needs12 9 = true ∧ (domOf tNo12 9).state.code < PState.run.code ∧ domGranted tNo12 12 = false ∧ domGranted tUp 12 = true ∧
    may12Off tUp = false ∧ (domOf tUp 12).reclaim = none ∧ PState.off.code < (domOf tUp 12).state.code := by decide +kernel

/-- PD1 holds a pinned grant that is being lowered, or is already being reclaimed. -/
def tPinned (r : Option PState) : State :=
  { tDom 1 .run 24 with reef.doms := vput tUp.reef.doms 1 { tRun with cls := .phase, units := 24, reclaim := r } }

theorem witness_ReefRequests_lower : ∀ r ∈ [none, some PState.gated],
    let u := tReefTaken (tReefReq 1 2 1 0 (tPinned r))
    tTakenMsg (tReefReq 1 2 1 0 (tPinned r)) = [1, 2, 1, 0] ∧ pstateOf 2 = some .gated ∧ (stateCost 1 .gated).isSome = true ∧
    pinned u 1 = r.isNone ∧ (domOf u 1).reclaim = r ∧ PState.gated.code < (domOf u 1).state.code ∧ pairCores 1 ≠ [] ∧
    (u.reef.queue.filter fun q => q.dom != 1).length < 32 := by decide +kernel

theorem witness_ReefRequests_raise :
    let u := tReefTaken (tReefReq 9 4 1 0 (tDom 9 .thr 14))
    let w : ReefWait := { dom := 9, target := .run, cls := .work, tag := 9, auto := false, fitAt := none, once := true }
    PState.gated.code < (domOf u 9).state.code ∧ (domOf u 9).state.code ≤ PState.run.code ∧ u.reef.queue = [] ∧
    (∀ i : Fin 9, u.reef.demand.get i = false) ∧ 0 ≤ u.reef.free ∧ u.pert.active.get 7 = false ∧ (domOf u 9).reclaim = none ∧
    railRefuses u w = false ∧ domGranted u 12 = true ∧ (costOf u 9 .run : Int) - (domOf u 9).units = 10 ∧ u.reef.free = 100 ∧
    (tReefTaken (tReefReq 9 4 1 0 { tDom 9 .thr 14 with reef.free := 9 })).reef.free < (costOf u 9 .run : Int) - (domOf u 9).units ∧
    32 ≤ (List.replicate 32 { w with dom := 8 }).length := by decide +kernel

/-- Table 13-2: PD9 in RUN costs 24 units. -/
theorem test_reefReq :
    gives (execReefReq (tReefReq 9 4 1 0 (tDom 9 .thr 14))) (fun t => (domOf t 9).state == .run && (domOf t 9).units == 24 && t.reef.free == 90) = true ∧
    gives (execReefReq (tReefReq 9 4 1 0 { tDom 9 .thr 14 with reef.free := 9 })) (fun t => (domOf t 9).units == 14 && t.reef.refusals == 1) = true := by
  decide +kernel

/-- A response is due; a course waits for cores that are all taken. -/
def tDue : State := { tUp with reef.doms := vput tUp.reef.doms 9 { tRun with rspTag := some 5 } }

theorem witness_ReefRequests_rsp :
    mgcUp tDue = true ∧ (domOf tDue 9).rspTag = some 5 ∧ (domOf tDue 9).waking = false ∧ (domOf tDue 9).reclaim = none ∧ (domOf tUp 9).rspTag = none ∧
    tDue.cleatA.backlog = [] ∧ ringUsed tDue.cleatA.m2cWr tDue.cleatA.m2cRd < 64 := by decide +kernel

/-- Pair 3 is not powered and a course is ready. -/
def tWant : State :=
  { tIdle with reef.doms := vput tIdle.reef.doms 3 DomRec.reset, reef.autoMask := 0x1FF }
def tDemand : State := { tUp with reef.demand := vput tUp.reef.demand 3 true, reef.autoMask := 0x1FF, reef.doms := vput tUp.reef.doms 3 { tRun with cls := .bulk, floor := .off } }

theorem witness_ReefRequests_demand :
    mgcUp tWant = true ∧ demandHeld tWant 3 = true ∧ tWant.reef.demand.get 3 = false ∧ tWant.reef.autoMask.getLsbD 3 = true ∧
    (domOf tWant 3).superseded = false ∧ (domOf tWant 3).state ≠ .run ∧ tWant.reef.queue.length < 24 ∧ demandHeld tUp 3 = false ∧
    tDemand.reef.demand.get 3 = true ∧ tDemand.ee.cur = none ∧ (∀ c ∈ pairCores 3, (coreOf tDemand c).cur = none) ∧
    (domOf tDemand 3).cls = .bulk ∧ (domOf tDemand 3).floor.code < (domOf tDemand 3).state.code ∧ (domOf tDemand 3).reclaim = none := by decide +kernel

/-! ### The arbiter -/

def tBudget (free transit : Int) (effNext eff : Nat) : State := { tUp with reef.free := free, reef.transit := transit, reef.effNext := effNext, reef.eff := eff }
def tReclaim (d : DomId) (st : PState) : State :=
  { tDom d .run 24 with reef.doms := vput tUp.reef.doms d { tRun with units := 24, reclaim := some st } }
def tBusyPair : State :=
  { tReclaim 1 .off with spar := vput tUp.spar 2 { SparCore.reset with cur := some (tTag 0) } }

theorem witness_ReefArbiter_budget :
    mgcUp (tBudget 10 20 480 480) = true ∧ (0 : Int) ≤ (tBudget 10 20 480 480).reef.free + 20 + (480 : Int) - 480 ∧
    (tBudget 10 20 400 480).reef.free + 20 + (400 : Int) - 480 < 0 ∧
    (tBudget 10 20 450 480).reef.free + 20 + (450 : Int) - 480 = 0 ∧ (domOf State.reset 11).cls ≠ (domOf tUp 11).cls := by decide +kernel

theorem witness_ReefArbiter_reclaim :
    (domOf (tReclaim 9 .gated) 9).reclaim = some .gated ∧ atSafePoint (tReclaim 9 .gated) 9 = true ∧ mayLeave (tReclaim 9 .gated) 9 .gated = true ∧
    (tReclaim 9 .gated).reef.critical = false ∧ (domOf (tReclaim 12 .off) 12).reclaim = some .off ∧ may12Off (tReclaim 12 .off) = false ∧
    (tReclaim 9 .gated).reef.effNext = (tReclaim 9 .gated).reef.eff ∧ 0 ≤ (tReclaim 9 .gated).reef.free ∧
    (domOf tUp 9).reclaim = none ∧ atSafePoint tBusyPair 1 = false ∧ (domOf tBusyPair 1).reclaim = some .off ∧ PState.gated ≠ .run := by decide +kernel

def tWait9 (st : PState) (once : Bool) : ReefWait :=
  { dom := 9, target := st, cls := .work, tag := 9, auto := false, fitAt := none, once := once }
def tQueued (free : Int) : State := { tDom 9 .thr 14 with reef.free := free, reef.queue := [tWait9 .run false] }

/-- Every request of a lone queue: one that fits, kept or refused where it does not, one to a lower state, one of a
domain that is being reclaimed, and one the rail refuses. -/
theorem witness_ReefArbiter_lone : (tWait9 .run false).cls ≠ .control ∧ (tWait9 .run true).once = true ∧ (tWait9 .run false).once = false ∧
    (tWait9 .run false).auto = false ∧ PState.gated.code < (domOf (tQueued 10) 9).state.code ∧
    (domOf (tQueued 10) 9).state.code ≤ PState.run.code ∧ (domOf (tQueued 10) 12).reclaim = none ∧ (tQueued 10).reef.critical = false ∧
    railRefuses (tQueued 10) (tWait9 .run false) = false ∧ railRefuses (tQueued 10) (tWait9 .run true) = false ∧
    (domOf { tQueued 10 with reef.doms := (tReclaim 9 .gated).reef.doms } 9).reclaim.isSome = true := by decide +kernel

theorem witness_ReefArbiter_grant :
    (∀ i : Fin 9, (tQueued 10).reef.demand.get i = false) ∧ (tQueued 10).reef.effNext = (tQueued 10).reef.eff ∧
    (domOf (tQueued 10) 9).reclaim = none ∧ (tQueued 10).pert.active.get 7 = false ∧ domGranted (tQueued 10) 12 = true ∧
    (costOf (tQueued 10) 9 .run : Int) - (domOf (tQueued 10) 9).units ≤ (tQueued 10).reef.free ∧
    (tQueued 9).reef.free < (costOf (tQueued 9) 9 .run : Int) - (domOf (tQueued 9) 9).units ∧
    (match (tQueued 10).reef.queue with
      | [w] => !railRefuses (tQueued 10) w && !w.auto
      | _ => false) = true := by decide +kernel

def tWaking : State := { tUp with reef.doms := vput tUp.reef.doms 9 { tRun with waking := true, fromOff := true } }

theorem witness_ReefArbiter_ready :
    (domOf tWaking 9).waking = true ∧ (domOf tWaking 9).fromOff = true ∧ (domOf tUp 9).waking = false ∧ tWaking.ddr.exiting = false ∧
    isService tNode.node tSvc = true ∧ 64 ≤ (64 : W16).toNat ∧ (768 : W16).toNat ≤ 768 ∧ 768 < (769 : W16).toNat := by
  decide +kernel

theorem witness_ReefArbiter_thermal :
    ([106, 25, 25, 25, 25, 25, 25, 25] : List Int).length = 8 ∧ (∀ x ∈ ([106, 25, 25, 25, 25, 25, 25, 25] : List Int), x ≤ 106) ∧
    tUp.reef.tDerate + tUp.reef.level < 106 ∧ (105 : Int) ≤ tUp.reef.tDerate + tUp.reef.level ∧ (112 : Int) = tUp.reef.tCrit ∧
    (0 : Nat) < { tUp with reef.level := 1, reef.coolMs := 99 }.reef.level ∧ (103 : Int) ≤ tUp.reef.tDerate + 1 - 3 ∧
    ([] : List Int).length ≠ 8 := by decide +kernel

/-- R480: 3 degrees over T_DERATE, 480 units: 480 - 48. -/
theorem test_derate : gives (execThermalSample [108, 25, 25, 25, 25, 25, 25, 25] (tBudget 0 0 480 480)) (fun t =>
    t.reef.level == 3 && t.reef.effNext == 432 && t.reef.eff == 480) = true := by decide +kernel

/-- R473, Table 13-2: PD9 from RUN to GATED gives up 21 of its 24 units. -/
theorem test_reclaim : gives (execReefReclaimAck 9 (tReclaim 9 .gated)) (fun t =>
    (domOf t 9).units == 3 && t.reef.transit == 21 && t.reef.reclaims == 1) = true := by decide +kernel


/-! ## The whole machine -/

theorem witness_StepRunsFront : State.reset.pending = [] ∧ mgcUp State.reset = false ∧ mgcUp tUp = true := by decide

theorem witness_StepsKeepSound : State.reset.sound ∧ tUp.sound ∧ (∃ t, step State.reset = .next t) ∧
    gives (step { tUp with pending := [.ioEdge 3 true] }) (fun _ => true) = true := by
  refine ⟨?_, ?_, ⟨State.reset, by rfl⟩, by decide⟩ <;> unfold State.sound <;> decide

theorem witness_StepsKeepBalance : State.reset.reefBalanced ∧ (tReclaim 9 .gated).reefBalanced ∧
    gives (step { tReclaim 9 .gated with pending := [.reefReclaimAck 9] }) (fun t => t.reef.transit == 21) = true := by
  refine ⟨?_, ?_, ?_⟩
  · unfold State.reefBalanced
    decide
  · unfold State.reefBalanced
    decide +kernel
  · decide +kernel

theorem witness_WhatNoCommandChanges :
    gives (execIoEdge 3 true tUp) (fun _ => true) = true ∧ (otpByte State.reset.otp 0x140).getLsbD 0 = true ∧ tUp.cleatD.lock = true ∧
    Instr.ioEdge 3 true ≠ .mgcBoot := by decide +kernel

end Sys2Proof.Tests
end

section
/-!
Cleats B and C (01_planes.md): what a queue's POST and READ become (R22, R24), that a fault report's followers
leave the report FIFO and CLC_LOST alone, and what a report leaves there (R29).
-/

namespace Sys2Proof.Machine

/-! ## The indices of a Cleat B queue (R22, R24) -/

theorem Queue.writePost_of_not_owner {q : Queue} {who : BitVec 2} (v : BitVec 9) (h : q.owner ≠ who) :
    q.writePost who v = { q with ownerErr := true } := if_pos h

theorem Queue.writePost_of_over {q : Queue} {who : BitVec 2} {v : BitVec 9} (h : q.owner = who)
    (hv : 256 < (v - q.read).toNat) : q.writePost who v = { q with ovf := true } := by
  rw [writePost, if_neg (not_not_intro h), if_pos hv]

theorem Queue.writePost_of_room {q : Queue} {who : BitVec 2} {v : BitVec 9} (h : q.owner = who)
    (hv : (v - q.read).toNat ≤ 256) : q.writePost who v = { q with post := v } := by
  rw [writePost, if_neg (not_not_intro h), if_neg (not_lt.mpr hv)]

theorem Queue.writeRead_of_past_done {q : Queue} {v : BitVec 9} (h : (q.done - q.read).toNat < (v - q.read).toNat) :
    q.writeRead v = { q with readErr := true } := if_pos h

theorem Queue.writeRead_of_done {q : Queue} {v : BitVec 9} (h : (v - q.read).toNat ≤ (q.done - q.read).toNat) :
    q.writeRead v = { q with read := v } := if_neg (not_lt.mpr h)

theorem exec_clbPostWrite_of_posterUp {s : State} {p : Poster} (q : QueueId) (v : W32) (h : posterUp s p = true) :
    exec (.clbPostWrite q p v) s =
      .next { s with cleatB := vput s.cleatB q ((s.cleatB.get q).writePost (Poster.code p) (v.extractLsb' 0 9)) } :=
  if_pos h

theorem exec_clbReadWrite_of_posterUp {s : State} {p : Poster} (q : QueueId) (v : W32) (h : posterUp s p = true) :
    exec (.clbReadWrite q p v) s =
      .next { s with cleatB := vput s.cleatB q ((s.cleatB.get q).writeRead (v.extractLsb' 0 9)) } :=
  if_pos h

/-- Settles O8: the two writes are `Queue.writePost` and `Queue.writeRead` on the one record. -/
theorem queueIndexWrites : Obligations.QueueIndexWrites := by
  unfold Obligations.QueueIndexWrites
  intro q p v s hp x i put me
  have hme : me = Poster.code p := by cases p <;> rfl
  rw [hme, exec_clbPostWrite_of_posterUp q v hp, exec_clbReadWrite_of_posterUp q v hp]
  refine ⟨fun ho => ?_, fun ho hi => ?_, fun ho hi => ?_, fun hi => ?_, fun hi => ?_⟩
  · rw [Queue.writePost_of_not_owner _ ho]
  · rw [Queue.writePost_of_over ho hi]
  · rw [Queue.writePost_of_room ho hi]
  · rw [Queue.writeRead_of_past_done hi]
  · rw [Queue.writeRead_of_done hi]

/-! ## Messages of the fabric leave Cleat C alone -/

@[simp] theorem oweCredit_cleatC (s : State) (p : ShlId) (pool : Fin 8) (n : Nat) :
    (oweCredit s p pool n).cleatC = s.cleatC := by
  unfold oweCredit
  split <;> rfl

@[simp] theorem sendSeq_cleatC (s : State) (p : ShlId) (slots : Bytes) : (sendSeq s p slots).cleatC = s.cleatC := rfl

@[simp] theorem creditFlit_cleatC (s : State) (p : ShlId) : (creditFlit s p).cleatC = s.cleatC := by
  unfold creditFlit
  dsimp only
  split <;> simp

@[simp] theorem freeSlots_cleatC (s : State) (o : Option (ShlId × Fin 8)) (n : Nat) :
    (freeSlots s o n).cleatC = s.cleatC := by
  cases o <;> simp [freeSlots]

@[simp] theorem pump_cleatC (n : Nat) (s : State) (p : ShlId) : (pump n s p).cleatC = s.cleatC := by
  induction n generalizing s with
  | zero => rfl
  | succ n ih =>
    unfold pump
    dsimp only
    split
    · split
      · rfl
      · simp [ih]
    · rfl

@[simp] theorem enqueue_cleatC (s : State) (o : Option ShlId) (p : ShlId) (m : Bytes) :
    (enqueue s o p m).cleatC = s.cleatC := by
  simp [enqueue, pumpAll]

@[simp] theorem sendOwn_cleatC (s : State) (m : Bytes) : (sendOwn s m).cleatC = s.cleatC := by
  unfold sendOwn
  split <;> simp

@[simp] theorem sendMgmt_cleatC (s : State) (kind : Nat) (args : List Nat) (c : ChipId) :
    (sendMgmt s kind args c).cleatC = s.cleatC := by
  unfold sendMgmt
  split <;> simp

/-- A fold of steps that leave Cleat C alone leaves it alone. -/
theorem foldl_cleatC {α : Type} {f : State → α → State} (hf : ∀ s a, (f s a).cleatC = s.cleatC) (l : List α) (s : State) :
    (l.foldl f s).cleatC = s.cleatC := by
  induction l generalizing s with
  | nil => rfl
  | cons a l ih => rw [List.foldl_cons, ih, hf]

@[simp] theorem toMembers_cleatC (s : State) (kind : Nat) (args : List Nat) : (toMembers s kind args).cleatC = s.cleatC :=
  foldl_cleatC (fun t c => sendMgmt_cleatC t kind args c) _ s

@[simp] theorem distribute_cleatC (s : State) : (distribute s).cleatC = s.cleatC := by
  rw [distribute, toMembers_cleatC, reroute]

/-! ## A port that goes DOWN, and the chip it may orphan (R411, R427) -/

@[simp] theorem portGoDown_cleatC (s : State) (p : ShlId) : (portGoDown s p).cleatC = s.cleatC := by
  simp [portGoDown, raise40]

@[simp] theorem answerSess_cleatC (s : State) (w : Session) (index sub : Nat) (a : Answer) :
    (answerSess s w index sub a).cleatC = s.cleatC := by
  obtain ⟨o, l, ch, h⟩ := answerSess_frame s w index sub a
  rw [h]

@[simp] theorem routeAnswer_cleatC (s : State) (w : Session) (a : Answer) : (routeAnswer s w a).cleatC = s.cleatC := by
  unfold routeAnswer
  split
  · rfl
  · cases a with
    | data d =>
      dsimp only
      rw [answerSess_cleatC]
      split <;> rfl
    | abort k => simp

@[simp] theorem routeAbort_cleatC (s : State) (p : ChipId → Bool) (code : Nat) : (routeAbort s p code).cleatC = s.cleatC := by
  unfold routeAbort
  exact foldl_cleatC (fun t _ => routeAnswer_cleatC t _ _) _ s

@[simp] theorem setRole_cleatC (s : State) (r : BitVec 2) : (setRole s r).cleatC = s.cleatC := by
  unfold setRole
  dsimp only
  split <;> rfl

@[simp] theorem trimPeerLost_cleatC (s : State) (peer : Option ChipId) : (trimPeerLost s peer).cleatC = s.cleatC := by
  unfold trimPeerLost
  dsimp only
  split_ifs <;> rfl

@[simp] theorem orphanEnter_cleatC (s : State) : (orphanEnter s).cleatC = s.cleatC := by
  unfold orphanEnter
  split <;> simp

@[simp] theorem portLost_cleatC (s : State) (p : ShlId) : (portLost s p).cleatC = s.cleatC := by
  unfold portLost
  split_ifs <;> simp

/-! ## The MGC's part in a report (R531) -/

@[simp] theorem eccCount_cleatC (s : State) (unit cls : Byte) (detail : W64) :
    (eccCount s unit cls detail).cleatC = s.cleatC := by
  unfold eccCount
  split_ifs <;> rfl

@[simp] theorem twCondition_cleatC (s : State) (n : TwId) (code : Nat) : (twCondition s n code).cleatC = s.cleatC := by
  unfold twCondition
  split <;> simp

@[simp] theorem mgcReport_cleatC (s : State) (unit cls : Byte) (code : W16) (detail : W64) :
    (mgcReport s unit cls code detail).cleatC = s.cleatC := by
  unfold mgcReport
  dsimp only
  split
  · split_ifs <;> simp
  · simp
  · simp
  · split <;> simp
  · simp

/-! ## The CSC's part in a fence (R287, R288) -/

@[simp] theorem courseMod_cleatC (s : State) (t : CourseTag) (f : Course → Course) :
    (courseMod s t f).cleatC = s.cleatC := by
  unfold courseMod
  split <;> rfl

@[simp] theorem cancelPre_cleatC (s : State) (c : CoreId) : (cancelPre s c).cleatC = s.cleatC := by
  unfold cancelPre
  split <;> rfl

@[simp] theorem returnPre_cleatC (s : State) (c : CoreId) (drop : Bool) : (returnPre s c drop).cleatC = s.cleatC := by
  unfold returnPre
  split <;> simp

@[simp] theorem fenceCourse_cleatC (s : State) (c : CoreId) : (fenceCourse s c).cleatC = s.cleatC := by
  unfold fenceCourse
  dsimp only
  split
  · simp
  · split <;> simp

@[simp] theorem fenceEaves_cleatC (s : State) : (fenceEaves s).cleatC = s.cleatC := by
  unfold fenceEaves
  dsimp only
  split
  · split <;> simp
  · rfl

/-- A fence asserts a line and keeps the fault's CODE: reports, lost reports and fenced units stay (R30). -/
theorem fenceFault_keeps_reports (s : State) (unit : Nat) (code : W16) :
    (fenceFault s unit code).cleatC.fifo = s.cleatC.fifo ∧ (fenceFault s unit code).cleatC.lost = s.cleatC.lost ∧
      (fenceFault s unit code).cleatC.fenced = s.cleatC.fenced := by
  unfold fenceFault
  dsimp only
  split_ifs <;> simp [fenceLine]

/-! ## Reports (R28, R29) -/

/-- The entry of the FIFO that a report of state s makes. -/
def reportEntry (s : State) (unit cls : Byte) (code : W16) (detail : W64) : Report :=
  { unit := unit, cls := cls, code := code, detail := detail, nt := (ntNow s.pht).setWidth 32 }

/-- What a report leaves in the FIFO and in CLC_LOST is what `cleatCPut` leaves there. -/
theorem reportFault_reports (s : State) (unit cls : Byte) (code : W16) (detail : W64) :
    (reportFault s unit cls code detail).cleatC.fifo =
        (cleatCPut (eccCount s unit cls detail) (reportEntry s unit cls code detail)).cleatC.fifo ∧
      (reportFault s unit cls code detail).cleatC.lost =
        (cleatCPut (eccCount s unit cls detail) (reportEntry s unit cls code detail)).cleatC.lost := by
  unfold reportFault reportEntry
  dsimp only
  split_ifs <;> simp [fenceFault_keeps_reports]

theorem reportFault_of_room {s : State} (unit cls : Byte) (code : W16) (detail : W64) (h : s.cleatC.fifo.length < 32) :
    (reportFault s unit cls code detail).cleatC.fifo = s.cleatC.fifo ++ [reportEntry s unit cls code detail] ∧
      (reportFault s unit cls code detail).cleatC.lost = s.cleatC.lost := by
  obtain ⟨hf, hl⟩ := reportFault_reports s unit cls code detail
  rw [hf, hl, cleatCPut, if_pos (by simpa using h)]
  simp

theorem reportFault_of_full {s : State} (unit cls : Byte) (code : W16) (detail : W64) (h : 32 ≤ s.cleatC.fifo.length) :
    (reportFault s unit cls code detail).cleatC.fifo = s.cleatC.fifo ∧
      (reportFault s unit cls code detail).cleatC.lost = lostBit s.cleatC.lost unit := by
  obtain ⟨hf, hl⟩ := reportFault_reports s unit cls code detail
  rw [hf, hl, cleatCPut, if_neg (by simpa using h)]
  simp [reportEntry]

/-- The UNIT codes that R28 lists. -/
theorem unitDom_listed {u : Nat} {d : DomId} (h : unitDom u = some d) : u ≤ 0x1B ∨ 0x20 ≤ u ∧ u ≤ 0x27 := by
  by_contra hu
  obtain ⟨h1, h2⟩ := not_or.mp hu
  unfold unitDom at h
  split_ifs at h <;> omega

theorem unitReports_listed {s : State} {u : Nat} (h : unitReports s u = true) : u ≤ 0x1B ∨ 0x20 ≤ u ∧ u ≤ 0x27 := by
  unfold unitReports at h
  split at h
  · next d hd => exact unitDom_listed hd
  · cases h

theorem lostBit_of_listed (lost : BitVec 40) {unit : Byte}
    (h : unit.toNat ≤ 0x1B ∨ 0x20 ≤ unit.toNat ∧ unit.toNat ≤ 0x27) :
    lostBit lost unit = lost ||| (1#40 <<< unit.toNat) := if_pos (by omega)

/-- A unit's report is stored or lost, and a port it takes DOWN changes nothing more of Cleat C. -/
theorem exec_faultReport_of_unitReports {s : State} {unit : Byte} (cls : Byte) (code : W16) (detail : W64)
    (h : unitReports s unit.toNat = true) :
    Gives (.faultReport unit cls code detail) s fun t => t.cleatC = (reportFault s unit cls code detail).cleatC := by
  refine ⟨_, if_pos h, ?_⟩
  dsimp only
  split <;> simp

/-- Settles O10: what `reportFault` leaves in a FIFO with room and in a full one. -/
theorem faultReportStoredOrLost : Obligations.FaultReportStoredOrLost := by
  unfold Obligations.FaultReportStoredOrLost
  intro unit cls code detail s h
  obtain ⟨t, ht, hc⟩ := exec_faultReport_of_unitReports cls code detail h
  refine ⟨t, ht, fun hroom => ?_, fun hfull => ?_⟩
  · obtain ⟨hf, hl⟩ := reportFault_of_room unit cls code detail hroom
    exact ⟨hc ▸ hl, hc ▸ hf⟩
  · obtain ⟨hf, hl⟩ := reportFault_of_full unit cls code detail hfull
    rw [hc]
    exact ⟨hf, hl.trans (lostBit_of_listed _ (unitReports_listed h))⟩

end Sys2Proof.Machine
end

section
/-!
The phase timebase (02_phase_timing.md): what QUAD_EDGE does to a step in which A and B both change (R48), where a
periodic slot's TARGET lies after a firing (R62), and that what a firing starts in other units leaves the PHT alone.
-/

namespace Sys2Proof.Machine

/-! ## A step in which A and B both change (R48) -/

theorem exec_quadEdge_of_both_change {src : CanPort} {a b : Bool} {samples : Nat} {s : State} :
    let n : SrcId := Fin.ofNat 4 src.val
    let x := s.pht.srcs.get n
    phtUp s = true → x.en = true → x.filt + 1 ≤ samples → a ≠ x.lvlA → b ≠ x.lvlB →
    exec (.quadEdge src a b samples) s = .next { s with
      pht.srcs := vput s.pht.srcs n { x with lvlA := a, lvlB := b, qerr := x.qerr + 1 } } := by
  intro n x hup hen hfilt ha hb
  have hn : (⟨src.val, by omega⟩ : SrcId) = n := Fin.ext (Nat.mod_eq_of_lt (by omega)).symm
  have hacc : ¬(!(phtUp s && x.en && filtered x samples)) = true := by simp [hup, hen, filtered, hfilt]
  change execQuadEdge src a b samples s = _
  unfold execQuadEdge
  rw [hn]
  exact (if_neg hacc).trans (if_pos ⟨ha, hb⟩)

/-- Settles O17: QERR goes on by one, modulo 2^16. -/
theorem quadratureIllegalStep : Obligations.QuadratureIllegalStep := by
  unfold Obligations.QuadratureIllegalStep
  intro src a b samples s n x hup hen hfilt ha hb
  exact ⟨x.qerr + 1, fun _ => rfl, exec_quadEdge_of_both_change hup hen hfilt ha hb⟩

/-! ## TARGET after a firing (R62) -/

/-- A TARGET g that has moved by k INCs in the direction of a crossing. -/
def targetAfter (up : Bool) (g inc : BitVec 40) (k : Nat) : BitVec 40 :=
  if up then g + BitVec.ofNat 40 (k * inc.toNat) else g - BitVec.ofNat 40 (k * inc.toNat)

/-- How far a TARGET g lies behind the phase cur in the direction of a crossing, as a wrapping difference. -/
def lag (up : Bool) (cur g : BitVec 40) : Int := if up then (cur - g).toInt else (g - cur).toInt

@[simp] theorem targetAfter_zero (up : Bool) (g inc : BitVec 40) : targetAfter up g inc 0 = g := by
  cases up <;> simp [targetAfter]

theorem targetAfter_add (up : Bool) (g inc : BitVec 40) (m n : Nat) :
    targetAfter up (targetAfter up g inc m) inc n = targetAfter up g inc (m + n) := by
  cases up
  · simp [targetAfter, Nat.add_mul, BitVec.ofNat_add, BitVec.sub_sub]
  · simp [targetAfter, Nat.add_mul, BitVec.ofNat_add, BitVec.add_assoc]

theorem toInt_sub_ofNat (v : BitVec 40) (n : Nat) :
    (v - BitVec.ofNat 40 n).toInt = (v.toInt - n).bmod (2 ^ 40) := by
  rw [BitVec.toInt_sub, BitVec.toInt_ofNat', Int.sub_bmod_bmod]

theorem lag_targetAfter (up : Bool) (cur g inc : BitVec 40) (k : Nat) :
    lag up cur (targetAfter up g inc k) = (lag up cur g - (k * inc.toNat : Nat)).bmod (2 ^ 40) := by
  generalize hn : k * inc.toNat = n
  cases up
  · have h : g - BitVec.ofNat 40 n - cur = g - cur - BitVec.ofNat 40 n := by bv_omega
    simp only [lag, targetAfter, hn, Bool.false_eq_true, if_false, h, toInt_sub_ofNat]
  · have h : cur - (g + BitVec.ofNat 40 n) = cur - g - BitVec.ofNat 40 n := by bv_omega
    simp only [lag, targetAfter, hn, if_true, h, toInt_sub_ofNat]

theorem lag_bounds (up : Bool) (cur g : BitVec 40) : -2 ^ 39 ≤ lag up cur g ∧ lag up cur g < 2 ^ 39 := by
  cases up
  · exact ⟨BitVec.le_toInt _, BitVec.toInt_lt⟩
  · exact ⟨BitVec.le_toInt _, BitVec.toInt_lt⟩

/-- The further INCs that a TARGET g takes: as many as its lag needs, and none when it has none. -/
def furtherIncs (up : Bool) (cur g inc : BitVec 40) : Nat := (lag up cur g).toNat ⌈/⌉ inc.toNat

theorem furtherIncs_of_not_behind {up : Bool} {cur g : BitVec 40} (inc : BitVec 40) (h : ¬ 0 < lag up cur g) :
    furtherIncs up cur g inc = 0 := by
  rw [furtherIncs, Int.toNat_of_nonpos (not_lt.mp h), zero_ceilDiv]

theorem lt_furtherIncs_iff {up : Bool} {cur g inc : BitVec 40} (hinc : 0 < inc.toNat) (j : Nat) :
    j < furtherIncs up cur g inc ↔ (j * inc.toNat : Nat) < lag up cur g := by
  have h : j < furtherIncs up cur g inc ↔ inc.toNat * j < (lag up cur g).toNat := by
    rw [furtherIncs, ← not_le, ceilDiv_le_iff_le_mul hinc, not_le]
  rw [h, Int.lt_toNat, Nat.mul_comm]

/-- On its way through the further INCs a TARGET does not wrap round: it lies behind until all of them are made. -/
theorem behind_iff_lt_furtherIncs {up : Bool} {cur g inc : BitVec 40} (hinc : 0 < inc.toNat)
    (hlim : inc.toNat < 2 ^ 39) {j : Nat} (hj : j ≤ furtherIncs up cur g inc) :
    0 < lag up cur (targetAfter up g inc j) ↔ j < furtherIncs up cur g inc := by
  obtain ⟨hlo, hhi⟩ := lag_bounds up cur g
  have hreach : (j * inc.toNat : Nat) ≤ 2 ^ 39 + lag up cur g := by
    cases j with
    | zero => omega
    | succ i =>
      have hi := (lt_furtherIncs_iff hinc i).mp hj
      rw [Nat.succ_mul]
      omega
  rw [lag_targetAfter, Int.bmod_eq_of_le (by omega) (by omega), lt_furtherIncs_iff hinc, sub_pos]

/-- TARGET takes the INC of the firing and then its further INCs. -/
theorem advanceTarget_eq {inc : BitVec 40} (hinc : 0 < inc.toNat) (up : Bool) (tgt cur : BitVec 40) :
    let g := targetAfter up tgt inc 1
    let k := furtherIncs up cur g inc
    advanceTarget up tgt inc cur = (targetAfter up g inc k, k) := by
  intro g k
  have hne : inc ≠ 0 := by
    rintro rfl
    exact absurd hinc (by decide)
  have hg : (if up then tgt + inc else tgt - inc) = g := by simp [g, targetAfter]
  have hmodel : advanceTarget up tgt inc cur = if 0 < lag up cur g then (targetAfter up g inc k, k) else (g, 0) := by
    simp only [advanceTarget, if_neg hne, hg]
    rfl
  rw [hmodel]
  split
  · rfl
  · next h =>
    have hk : k = 0 := furtherIncs_of_not_behind inc h
    rw [hk, targetAfter_zero]

/-- The further INCs of a firing are the fewest with which TARGET no longer lies behind. -/
theorem advanceTarget_fewest {inc : BitVec 40} (hinc : 0 < inc.toNat) (hlim : inc.toNat < 2 ^ 39) (up : Bool)
    (tgt cur : BitVec 40) :
    ∃ k : Nat, advanceTarget up tgt inc cur = (targetAfter up tgt inc (k + 1), k) ∧
      ¬ 0 < lag up cur (targetAfter up tgt inc (k + 1)) ∧ ∀ j < k, 0 < lag up cur (targetAfter up tgt inc (j + 1)) := by
  have hsplit (j : Nat) : targetAfter up tgt inc (j + 1) = targetAfter up (targetAfter up tgt inc 1) inc j := by
    rw [targetAfter_add, Nat.add_comm]
  refine ⟨furtherIncs up cur (targetAfter up tgt inc 1) inc, ?_, ?_, fun j hj => ?_⟩
  · rw [hsplit, advanceTarget_eq hinc]
  · rw [hsplit, behind_iff_lt_furtherIncs hinc hlim le_rfl]
    exact lt_irrefl _
  · rw [hsplit]
    exact (behind_iff_lt_furtherIncs hinc hlim hj.le).mpr hj

/-! ## What a firing starts in other units leaves the PHT alone -/

theorem xferEnd_ctx_pht (s : State) (n : TwId) {x : TwXfer} {c : Nat} (hx : x.origin = .ctx c) (stamp : Bytes)
    (result bytes attempts : Nat) (rd : Bytes) : (xferEnd s n x stamp result bytes attempts rd).pht = s.pht := by
  simp [xferEnd, hx]

theorem xferDue_ctx_pht (s : State) (n : TwId) {x : TwXfer} {c : Nat} (hx : x.origin = .ctx c) :
    (xferDue s n x).pht = s.pht := by
  unfold xferDue
  split
  · exact xferEnd_ctx_pht s n hx _ _ _ _ _
  · rfl

@[simp] theorem twPoll_pht (s : State) (ctx : Nat) : (twPoll s ctx).pht = s.pht := by
  unfold twPoll
  dsimp only
  split
  · rfl
  · split
    · rfl
    · exact xferDue_ctx_pht _ _ rfl

@[simp] theorem twSlotPolls_pht (s : State) (slot : Nat) : (twSlotPolls s slot).pht = s.pht := by
  unfold twSlotPolls
  generalize s.cap.ctxs.filter _ = l
  induction l generalizing s with
  | nil => rfl
  | cons e l ih => rw [List.foldl_cons, ih, twPoll_pht]

/-- The slot's own record after a firing (R62), whose event starts toward the powered cores (R36). -/
theorem fireSlot_slot (s : State) (n : PhtSlotId) (up fallback : Bool) :
    let t := s.pht.slots.get n
    (fireSlot s n up fallback).pht.slots.get n =
      { t.fire up fallback (s.pht.phaseOf t.src) with flying := t.flying ||| poweredCores s } := by
  unfold fireSlot
  dsimp only
  split <;> simp [releaseJobs]

theorem exec_slotFire_of_hit {s : State} {n : PhtSlotId} {up : Bool} (hup : phtUp s = true)
    (harm : (s.pht.slots.get n).arm = true) (hhit : (s.pht.slots.get n).hit = some up) :
    exec (.slotFire n) s = .next (fireSlot s n up false) := by
  change execSlotFire n s = _
  unfold execSlotFire
  simp [hup, harm, hhit]

/-! ## A slot's record after its own firing (R62) -/

theorem PhtSlot.fire_hit (x : PhtSlot) (up fallback : Bool) (cur : BitVec 40) : (x.fire up fallback cur).hit = none := by
  unfold fire
  split <;> rfl

theorem PhtSlot.fire_of_one_shot {x : PhtSlot} (h : x.periodic = false) (up fallback : Bool) (cur : BitVec 40) :
    (x.fire up fallback cur).arm = false ∧ (x.fire up fallback cur).tgt = x.tgt ∧
      (x.fire up fallback cur).miss = x.miss := by
  simp [fire, h, arm]

theorem PhtSlot.fire_of_periodic {x : PhtSlot} (h : x.periodic = true) (up fallback : Bool) {cur g : BitVec 40} {k : Nat}
    (hmove : advanceTarget up x.tgt x.inc cur = (g, k)) :
    (x.fire up fallback cur).arm = x.arm ∧ (x.fire up fallback cur).tgt = g ∧
      (x.fire up fallback cur).miss.toNat = min 31 (x.miss.toNat + k) := by
  simp [fire, h, arm, hmove]

/-- Settles O21: a one-shot slot is disarmed, and a periodic one's TARGET is that of `advanceTarget_fewest`. -/
theorem firingMovesTarget : Obligations.FiringMovesTarget := by
  unfold Obligations.FiringMovesTarget
  intro n up s x cur at_ behind hup harm hhit
  refine ⟨_, exec_slotFire_of_hit hup harm hhit, ?_⟩
  dsimp only
  rw [fireSlot_slot]
  refine ⟨x.fire_hit up false cur, fun hone => PhtSlot.fire_of_one_shot hone up false cur, fun hper hinc hlim => ?_⟩
  obtain ⟨k, hmove, hreached, hbehind⟩ := advanceTarget_fewest hinc hlim up x.tgt cur
  obtain ⟨harms, htgt, hmiss⟩ := PhtSlot.fire_of_periodic hper up false hmove
  exact ⟨harms.trans harm, k, htgt, hreached, hbehind, hmiss⟩

end Sys2Proof.Machine
end

section
/-!
What every command keeps (O58, O59, O60): the relation Keeps, one lemma for each function of the model that answers a
state, in the model's order, and from them what a command, and a step, can change.
-/

namespace Sys2Proof.Machine
/-! ## What every command keeps -/

/-- The keys of a canonical table are at or above its bound. -/
theorem Tbl.le_of_mem {α : Type} [DecidableEq α] {d : Nat → α} {b : Nat} {t : Tbl α} (hw : Tbl.wfFrom d b t = true)
    {e : Nat × α} (he : e ∈ t) : b ≤ e.1 := by
  induction t generalizing b with
  | nil => cases he
  | cons a t ih =>
    obtain ⟨hb, -, ht⟩ := Tbl.wfFrom_cons.1 hw
    rcases List.mem_cons.1 he with rfl | he
    · exact hb
    · exact le_trans (by omega) (ih ht he)

/-- An entry of a canonical table is what its key reads as. -/
theorem Tbl.read_of_mem {α : Type} [DecidableEq α] {d : Nat → α} {b : Nat} {t : Tbl α} (hw : Tbl.wfFrom d b t = true)
    {e : Nat × α} (he : e ∈ t) : Tbl.read d t e.1 = e.2 := by
  induction t generalizing b with
  | nil => cases he
  | cons a t ih =>
    obtain ⟨k, v⟩ := a
    obtain ⟨-, -, ht⟩ := Tbl.wfFrom_cons.1 hw
    rw [Tbl.read_cons]
    rcases List.mem_cons.1 he with rfl | he
    · exact if_pos rfl
    · have hk := Tbl.le_of_mem ht he
      rw [if_neg (by omega), ih ht he]

/-- A key that does not read as its default has its entry in the table. -/
theorem Tbl.mem_of_read {α : Type} {d : Nat → α} {t : Tbl α} {k : Nat} {v : α} (h : Tbl.read d t k = v) (hv : v ≠ d k) :
    (k, v) ∈ t := by
  induction t with
  | nil => exact absurd h.symm hv
  | cons a t ih =>
    obtain ⟨j, w⟩ := a
    rw [Tbl.read_cons] at h
    split at h
    · next hk => exact List.mem_cons.2 (.inl (by rw [hk, h]))
    · exact List.mem_cons_of_mem _ (ih h)

/-- A table whose values are replaced by others that are not the default stays canonical. -/
theorem Tbl.wfFrom_map {α β : Type} [DecidableEq α] [DecidableEq β] {d : Nat → α} {d' : Nat → β} {f : α → β}
    (hf : ∀ k v, v ≠ d k → f v ≠ d' k) {b : Nat} {t : Tbl α} (hw : Tbl.wfFrom d b t = true) :
    Tbl.wfFrom d' b (t.map fun e => (e.1, f e.2)) = true := by
  induction t generalizing b with
  | nil => rfl
  | cons a t ih =>
    obtain ⟨hb, hv, ht⟩ := Tbl.wfFrom_cons.1 hw
    exact Tbl.wfFrom_cons.2 ⟨hb, hf _ _ hv, ih ht⟩

/-- The caches are sound when their table is canonical and every line held has 64 bytes. -/
theorem cacheWf_iff {s : State} : s.cacheWf = true ↔
    Tbl.wf (fun _ => none) s.mast.cache = true ∧ ∀ (ln : Nat) (c :
      CLine), lineGet s ln = some c → c.data.length = 64 := by
  rw [State.cacheWf, Bool.and_eq_true, List.all_eq_true]
  refine and_congr_right fun hw => ⟨fun ha ln c hc => ?_, fun hl e he => ?_⟩
  · simpa using ha _ (Tbl.mem_of_read hc (by simp))
  · obtain ⟨ln, o⟩ := e
    cases o with
    | none => rfl
    | some c => simpa using hl ln c (Tbl.read_of_mem hw he)

/-- What of the device's own record only resets, a power-on reset and the release of RESET_N set. -/
def Dev.fixed (d : Dev) : BitVec 3 × BitVec 7 × BitVec 6 × Bool × Bool :=
  (d.strapMode, d.strapNode, d.strapFab, d.bankA33, d.bankB33)

/-- Every set OTP cell of o is set in p. -/
def Otp.within (o p : Otp) : Prop := ∀ a i : Nat, (otpByte o a).getLsbD i = true → (otpByte p a).getLsbD i = true

/-- What is read after an entry is put in; the table need not be canonical. -/
theorem Tbl.read_insert_any {α : Type} {d : Nat → α} (t : Tbl α) (k a : Nat) (v : α) :
    Tbl.read d (Tbl.insert t k v) a = if a = k then v else Tbl.read d t a := by
  induction t with
  | nil => rfl
  | cons e t ih =>
    obtain ⟨j, w⟩ := e
    simp only [Tbl.insert]
    split
    · next hk => subst hk; simp only [Tbl.read_cons]; split <;> rfl
    · split
      · exact Tbl.read_cons ..
      · simp only [Tbl.read_cons, ih]
        split <;> split <;> first | rfl | omega

/-- An entry taken out leaves the others. -/
theorem Tbl.read_remove_other {α : Type} {d : Nat → α} (t : Tbl α) {k a : Nat} (hk : a ≠ k) :
    Tbl.read d (Tbl.remove t k) a = Tbl.read d t a := by
  induction t with
  | nil => rfl
  | cons e t ih =>
    obtain ⟨j, w⟩ := e
    simp only [Tbl.remove]
    split
    · next hj => rw [Tbl.read_cons, if_neg (hj ▸ hk)]
    · split
      · rfl
      · simp only [Tbl.read_cons, ih]

theorem Otp.within.refl (o : Otp) : o.within o := fun _ _ => id

theorem Otp.within.trans {o p q : Otp} (h : o.within p) (g : p.within q) : o.within q := fun a i e => g a i (h a i e)

/-- Setting one cell clears none. -/
theorem Otp.within_otpSet (o : Otp) (c : Nat × Nat) : o.within (otpSet o c) := by
  intro a i hi
  change (Tbl.read (fun _ => 0) (Tbl.write (fun _ => 0) o.cells c.1 (otpByte o c.1 ||| (1#8 <<< c.2))) a).getLsbD i =
    true
  by_cases hz : otpByte o c.1 ||| (1#8 <<< c.2) = 0
  · have ha : a ≠ c.1 := by
      rintro rfl
      have hbit := congrArg (fun b : Byte => b.getLsbD i) hz
      simp only [BitVec.getLsbD_or, hi, Bool.true_or] at hbit
      exact absurd hbit (by simp)
    rw [Tbl.write, if_pos hz, Tbl.read_remove_other _ ha]
    exact hi
  · rw [Tbl.write, if_neg hz, Tbl.read_insert_any]
    split
    · next ha => rw [BitVec.getLsbD_or, ← ha, hi, Bool.true_or]
    · exact hi

theorem Otp.within_otpSetAll (o : Otp) (cs : List (Nat × Nat)) : o.within (otpSetAll o cs) := by
  induction cs generalizing o with
  | nil => exact .refl o
  | cons c cs ih => exact (o.within_otpSet c).trans (ih _)

/-- Units that Reef has beyond its effective budget: free, granted and in transit, less the budget. -/
def Reef.slack (f : Reef) : Int := f.free + (∑ d : DomId, (f.doms.get d).units : Nat) + f.transit - f.eff

theorem granted_eq_sum (s : State) : granted s = ∑ d : DomId, (domOf s d).units := by
  rw [granted, ← List.sum_eq_foldl, allDoms, List.map_ofFn, List.sum_ofFn]
  rfl

theorem reefBalanced_iff {s : State} : s.reefBalanced ↔ s.reef.slack = 0 := by
  have hg : granted s = ∑ d : DomId, (s.reef.doms.get d).units := granted_eq_sum s
  rw [State.reefBalanced, Reef.slack, hg]
  omega

/-- What a change of one domain's record does to Reef's units. -/
theorem slack_vmod (f : Reef) (d : DomId) (g : DomRec → DomRec) :
    ({ f with doms := vmod f.doms d g } : Reef).slack = f.slack + (g (f.doms.get d)).units - (f.doms.get d).units := by
  simp only [Reef.slack]
  rw [← Finset.add_sum_erase _ _ (Finset.mem_univ d),
    ← Finset.add_sum_erase (a := d) _ (fun e => (f.doms.get e).units) (Finset.mem_univ d), vmod_get_same]
  have hrest : ∑ e ∈ Finset.univ.erase d, ((vmod f.doms d g).get e).units =
    ∑ e ∈ Finset.univ.erase d, (f.doms.get e).units :=
    Finset.sum_congr rfl fun e he => by rw [vmod_get, if_neg (Finset.ne_of_mem_erase he)]
  rw [hrest]
  push_cast
  ring

/-- Units added in transit. -/
theorem slack_addTransit (f : Reef) (z : Int) : ({ f with transit := f.transit + z } : Reef).slack = f.slack + z := by
  simp only [Reef.slack]
  ring

/-- Free units taken. -/
theorem slack_subFree (f : Reef) (z : Int) : ({ f with free := f.free - z } : Reef).slack = f.slack - z := by
  simp only [Reef.slack]
  ring

/-- s follows from r without a device reset, a boot or the release of RESET_N: what stands in every obligation about
all commands. -/
structure Keeps (r s : State) : Prop where
  pending : s.pending = r.pending
  fixed : s.dev.fixed = r.dev.fixed
  phase : s.dev.phase = .running → r.dev.phase = .running
  cells : r.otp.within s.otp
  cleatD : s.cleatD = r.cleatD
  out : r.out <+: s.out
  mem : r.memWf = true → s.memWf = true
  cap : r.capWf = true → s.capWf = true
  cache : r.cacheWf = true → s.cacheWf = true
  units : r.reefBalanced → s.reefBalanced

variable {r s t : State}

theorem Keeps.refl (s : State) : Keeps s s where
  pending := rfl
  fixed := rfl
  phase := id
  cells _ _ := id
  cleatD := rfl
  out := List.prefix_rfl
  mem := id
  cap := id
  cache := id
  units := id

theorem Keeps.trans (h : Keeps r s) (g : Keeps s t) : Keeps r t where
  pending := g.pending.trans h.pending
  fixed := g.fixed.trans h.fixed
  phase e := h.phase (g.phase e)
  cells a i e := g.cells a i (h.cells a i e)
  cleatD := g.cleatD.trans h.cleatD
  out := h.out.trans g.out
  mem e := g.mem (h.mem e)
  cap e := g.cap (h.cap e)
  cache e := g.cache (h.cache e)
  units e := g.units (h.units e)

/-- The parts that `Keeps` speaks of. (The match lets a `rfl` find the state that an update starts from.) -/
def State.core : State → List Instr × List Output × Tbl Byte × CleatD × Tbl Byte × (DevPhase × BitVec 3 × BitVec 7 ×
    BitVec 6 × Bool × Bool) ×
    Tbl Ctx × Tbl W32 × Tbl (Option CLine) × Int × Int × Nat × Vector DomRec 18
  | ⟨pending, _, out, mem, dev, _, otp, _, reef, _, _, _, _, cleatD, _, _, _, cap, _, _, _, _, _, _, _, mast, _, _,
    _⟩ =>
    (pending, out, mem, cleatD, otp.cells,
      (dev.phase, dev.strapMode, dev.strapNode, dev.strapFab, dev.bankA33, dev.bankB33),
      cap.ctxs, cap.lastSet, mast.cache, reef.free, reef.transit, reef.eff, reef.doms)

/-- A change outside these parts keeps everything. -/
theorem Keeps.core
    (e : t.core = (s.pending, s.out, s.mem, s.cleatD, s.otp.cells,
      (s.dev.phase, s.dev.strapMode, s.dev.strapNode, s.dev.strapFab, s.dev.bankA33, s.dev.bankB33),
      s.cap.ctxs, s.cap.lastSet, s.mast.cache, s.reef.free, s.reef.transit, s.reef.eff, s.reef.doms))
    (h : Keeps r s) : Keeps r t := by
  simp only [State.core, Prod.mk.injEq] at e
  obtain ⟨hp, ho, hm, hd, hc, ⟨hph, h1, h2, h3, h4, h5⟩, hx, hl, hca, hf, htr, he, hdo⟩ := e
  refine h.trans ⟨hp, by simp only [Dev.fixed, h1, h2, h3, h4, h5], fun e => hph ▸ e, fun a i => ?_, hd, by rw [ho],
    fun e => ?_, fun e => ?_, fun e => ?_, fun e => ?_⟩
  · rw [otpByte, otpByte, hc]; exact id
  · rwa [State.memWf, hm]
  · rwa [State.capWf, hx, hl]
  · rwa [State.cacheWf, hca]
  · rw [reefBalanced_iff] at e ⊢
    rwa [Reef.slack, hf, htr, he, hdo]

/-- An output is added. -/
theorem Keeps.addOut {l : List Output} (h : Keeps r s) : Keeps r { s with out := s.out ++ l } :=
  h.trans { Keeps.refl s with out := List.prefix_append _ _ }

/-- Memory changes and stays canonical. -/
theorem Keeps.setMem {m : Tbl Byte} (h : Keeps r s) (hm : s.memWf = true → Tbl.wf memDflt m = true) :
    Keeps r { s with mem := m } :=
  h.trans { Keeps.refl s with mem := hm }

/-- The caches change and stay canonical. -/
theorem Keeps.setMast {m : Mast} (h : Keeps r s) (hm : s.cacheWf = true → ({ s with mast := m } :
    State).cacheWf = true) :
    Keeps r { s with mast := m } :=
  h.trans { Keeps.refl s with cache := hm }

/-- CAP changes and stays canonical. -/
theorem Keeps.setCap {c : Cap} (h : Keeps r s) (hc : s.capWf = true → ({ s with cap := c } : State).capWf = true) :
    Keeps r { s with cap := c } :=
  h.trans { Keeps.refl s with cap := hc }

/-- OTP changes and no set cell is cleared. -/
theorem Keeps.setOtp {o : Otp} (h : Keeps r s) (ho : s.otp.within o) : Keeps r { s with otp := o } :=
  h.trans { Keeps.refl s with cells := ho }

/-- Reef changes to g, what follows leaves t, and Reef ends as f with as many units as it had. -/
theorem Keeps.moveUnits {f g : Reef} (h : Keeps r s) (ht : Keeps { s with reef := g } t) (hf : f.slack = s.reef.slack) :
    Keeps r { t with reef := f } where
  pending := ht.pending.trans h.pending
  fixed := ht.fixed.trans h.fixed
  phase e := h.phase (ht.phase e)
  cells a i e := ht.cells a i (h.cells a i e)
  cleatD := ht.cleatD.trans h.cleatD
  out := h.out.trans ht.out
  mem e := ht.mem (h.mem e)
  cap e := ht.cap (h.cap e)
  cache e := ht.cache (h.cache e)
  units e := reefBalanced_iff.2 (hf.trans (reefBalanced_iff.1 (h.units e)))

/-- Reef changes and has as many units as before. -/
theorem Keeps.setReef {f : Reef} (h : Keeps r s) (hf : f.slack = s.reef.slack) : Keeps r { s with reef := f } :=
  h.moveUnits (.refl _) hf

protected theorem Keeps.ite {c : Prop} [Decidable c] (hs : Keeps r s) (ht : Keeps r t) :
    Keeps r (if c then s else t) := by
  split <;> assumption

/-- As `Keeps.foldl`, for the list's own members. -/
protected theorem Keeps.foldlMem {α : Type} {f : State → α → State} {l : List α} (h : Keeps r s)
    (hf : ∀ u, ∀ a ∈ l, Keeps r u → Keeps r (f u a)) : Keeps r (l.foldl f s) := by
  induction l generalizing s with
  | nil => exact h
  | cons a l ih => exact ih (hf s a (.head l) h) fun u b hb => hf u b (.tail a hb)

protected theorem Keeps.foldl {α : Type} {f : State → α → State} {l : List α} (h : Keeps r s)
    (hf : ∀ u a, Keeps r u → Keeps r (f u a)) : Keeps r (l.foldl f s) := by
  induction l generalizing s with
  | nil => exact h
  | cons a l ih => exact ih (hf s a h)

/-! ### What each shape of result keeps: every state in it -/

/-- The next state, where a command answers one. -/
def KeepsNext (r : State) : Host.Outcome State Fault Refusal → Prop
  | .next t => Keeps r t
  | _ => True

def KeepsSnd {α : Type} (r : State) (p : α × State) : Prop := Keeps r p.2

def KeepsOpt (r : State) : Option State → Prop
  | some t => Keeps r t
  | none => True

def KeepsOptSnd {α : Type} (r : State) : Option (α × State) → Prop
  | some p => Keeps r p.2
  | none => True

def KeepsOptFst {α : Type} (r : State) : Option (State × α) → Prop
  | some p => Keeps r p.1
  | none => True

def KeepsExc {ε : Type} (r : State) : Except ε State → Prop
  | .ok t => Keeps r t
  | .error _ => True

def KeepsRemTry (r : State) : RemTry → Prop
  | .sent _ t => Keeps r t
  | _ => True

def KeepsMem {α : Type} (r : State) : MemRes α → Prop
  | .ok _ t => Keeps r t
  | .trap _ _ _ t => Keeps r t
  | .wait t => Keeps r t

def KeepsAsk (r : State) : AskRes → Prop
  | .got _ t => Keeps r t
  | .err _ t => Keeps r t
  | .wait t => Keeps r t

def KeepsIssue (r : State) : Issue → Prop
  | .done t => Keeps r t
  | .trap _ _ _ _ t => Keeps r t
  | .wait t => Keeps r t

def KeepsReq (r : State) : ReqRes → Prop
  | .answer _ t => Keeps r t
  | .silent => True

def KeepsD (r : State) : DRes → Prop
  | .done _ t => Keeps r t
  | .wait t => Keeps r t

def KeepsAcc (r : State) : AccRes → Prop
  | .ok t => Keeps r t
  | .fault _ _ t => Keeps r t
  | .wait t => Keeps r t

theorem KeepsSnd.cond {α : Type} {c : Prop} [Decidable c] {p q : α × State} (hp : KeepsSnd r p) (hq : KeepsSnd r q) :
    KeepsSnd r (if c then p else q) := by
  split <;> assumption

theorem KeepsNext.cond {c : Prop} [Decidable c] {p q : Host.Outcome State Fault Refusal} (hp : KeepsNext r p)
    (hq : KeepsNext r q) : KeepsNext r (if c then p else q) := by
  split <;> assumption

theorem KeepsOpt.map {o : Option State} {g : State → State} (ho : KeepsOpt r o) (hg : ∀ u, Keeps r u → Keeps r (g u)) :
    KeepsOpt r (o.map g) := by
  cases o with
  | none => exact ho
  | some u => exact hg u ho

theorem KeepsOptFst.map {α β : Type} {o : Option (State × α)} {g : State × α → β} (ho : KeepsOptFst r o) :
    KeepsOptFst r (o.map fun p => (p.1, g p)) := by
  cases o with
  | none => exact ho
  | some p => exact ho

theorem KeepsOpt.findSome {α : Type} {l : List α} {f : α → Option State} (hf : ∀ a, KeepsOpt r (f a)) :
    KeepsOpt r (l.findSome? f) := by
  induction l with
  | nil => exact trivial
  | cons a l ih =>
    rw [List.findSome?_cons]
    have ha := hf a
    split
    · next u e => rwa [e] at ha
    · exact ih

/-! ### Ops -/

protected theorem Keeps.afterDraw (h : Keeps r s) : Keeps r (afterDraw s) := .core rfl h

protected theorem Keeps.emit {o : Output} (h : Keeps r s) : Keeps r (emit s o) := h.addOut

protected theorem Keeps.wr {a : Nat} {bs : Bytes} (h : Keeps r s) : Keeps r (s.wr a bs) := h.setMem fun e =>
    memWriteN_wf a bs e

protected theorem Keeps.m2cPut {m : Msg} (h : Keeps r s) : KeepsOpt r (m2cPut s m) := by
  unfold m2cPut
  dsimp only
  split
  · exact .core (s := { s with mem := _ }) rfl (.setMem h fun e => writeEntries_wf m2cRing s.cleatA.m2cWr _ e)
  · trivial

protected theorem Keeps.m2cSend {m : Msg} (h : Keeps r s) : Keeps r (m2cSend s m) := by
  unfold m2cSend
  split
  · split
    · rename_i t e
      have ht : KeepsOpt r (some t) := e ▸ Keeps.m2cPut h
      exact ht
    · exact .core rfl h
  · exact .core rfl h

protected theorem Keeps.m2cRetry {a : List Msg} (h : Keeps r s) : Keeps r (m2cRetry a s) := by
  induction a generalizing s with
  | nil =>
    unfold m2cRetry
    exact .core rfl h
  | cons a l ih =>
    unfold m2cRetry
    split
    · rename_i t e
      have ht : KeepsOpt r (some t) := e ▸ Keeps.m2cPut h
      exact ih ht
    · exact .core rfl h

protected theorem Keeps.notice {kind : Nat} {values : List Nat} (h : Keeps r s) : Keeps r (notice s kind values) :=
  .ite (.m2cSend (.emit h)) h

protected theorem Keeps.dropUnknown {a : Nat} (h : Keeps r s) : Keeps r (dropUnknown a s) := by
  induction a generalizing s with
  | zero =>
    unfold dropUnknown
    exact h
  | succ n ih =>
    unfold dropUnknown
    split
    · exact .ite h (ih (.core rfl h))
    · exact h

protected theorem Keeps.takeMsgIf {p : Msg → Bool} (h : Keeps r s) : KeepsOptSnd r (takeMsgIf s p) := by
  unfold takeMsgIf
  split
  · split
    · exact .dropUnknown (.core rfl h)
    · trivial
  · trivial

protected theorem Keeps.takeMsg {kind : Byte} (h : Keeps r s) : KeepsOptSnd r (takeMsg s kind) := Keeps.takeMsgIf h

protected theorem Keeps.emcyQueue {frame : Bytes} (h : Keeps r s) : Keeps r (emcyQueue s frame) :=
  .ite (.core rfl h) (.core rfl h)

protected theorem Keeps.emcyHistory {code : Nat} {unit : Byte} {detail : Bytes} (h : Keeps r s) :
    Keeps r (emcyHistory s code unit detail) := .core rfl h

protected theorem Keeps.raiseEmcy {code : Nat} {unit : Byte} {detail : Bytes} (h : Keeps r s) :
    Keeps r (raiseEmcy s code unit detail) := .emcyQueue (.emcyHistory h)

protected theorem Keeps.raiseStanding {code : Nat} {unit : Byte} {key : Nat} {detail : Bytes} (h : Keeps r s) :
    Keeps r (raiseStanding s code unit key detail) := .ite h (.raiseEmcy (.core rfl h))

protected theorem Keeps.errorReset {code : Nat} {unit : Byte} (h : Keeps r s) : Keeps r (errorReset s code unit) :=
  .emcyQueue h

protected theorem Keeps.clearStanding {code key : Nat} (h : Keeps r s) : Keeps r (clearStanding s code key) := by
  unfold clearStanding
  split
  · exact h
  · exact .errorReset (.core rfl h)

protected theorem Keeps.clearAllOf {code : Nat} (h : Keeps r s) : Keeps r (clearAllOf s code) :=
  .foldl h (fun _ _ hf0 => .clearStanding hf0)

protected theorem Keeps.raiseLimited {code key : Nat} {unit : Byte} {detail : Bytes} (h : Keeps r s) :
    Keeps r (raiseLimited s code key unit detail) := .ite h (.raiseEmcy (.core rfl h))

/-! ### Pht -/

protected theorem Keeps.logSlip {n : SrcId} {missing : Bool} {corr edges : Int} (h : Keeps r s) :
    Keeps r (logSlip s n missing corr edges) := .raiseEmcy (.core rfl h)

protected theorem Keeps.sourcesRecovered (h : Keeps r s) : Keeps r (sourcesRecovered s) :=
  .ite (.clearAllOf (.clearAllOf (.clearAllOf h))) h

protected theorem Keeps.execQuadEdge {src : CanPort} {a b : Bool} {samples : Nat} (h : Keeps r s) :
    KeepsNext r (execQuadEdge src a b samples s) := by
  unfold execQuadEdge
  dsimp only
  split
  · exact h
  · split
    · exact .core rfl h
    · split
      · exact h
      · exact .sourcesRecovered (.core rfl h)

protected theorem Keeps.execIndexPulse {src : CanPort} {samples : Nat} (h : Keeps r s) :
    KeepsNext r (execIndexPulse src samples s) := by
  unfold execIndexPulse
  dsimp only
  split
  · exact h
  · exact .ite (.logSlip (.core rfl h)) (.core rfl h)

protected theorem Keeps.execIndexMissing {src : CanPort} (h : Keeps r s) : KeepsNext r (execIndexMissing src s) := by
  unfold execIndexMissing
  dsimp only
  split
  · exact .logSlip (.core rfl h)
  · exact h

protected theorem Keeps.ssiError {x : PhtSrc} (h : Keeps r s) : Keeps r (ssiError s x) := .raiseStanding (.core rfl h)

protected theorem Keeps.execSsiWord {w : W32} (h : Keeps r s) : KeepsNext r (execSsiWord w s) := by
  unfold execSsiWord
  dsimp only
  split
  · exact h
  · split
    · split
      · exact .ssiError h
      · exact .sourcesRecovered (.core rfl h)
    · split
      · exact .ssiError h
      · exact .sourcesRecovered (.core rfl h)

protected theorem Keeps.mainsUnlock (h : Keeps r s) : Keeps r (mainsUnlock s) := .raiseStanding (.core rfl h)

protected theorem Keeps.execMainsFrame {a b c : Int} (h : Keeps r s) : KeepsNext r (execMainsFrame a b c s) := by
  unfold execMainsFrame
  dsimp only
  split
  · exact h
  · split
    · split
      · exact .mainsUnlock h
      · exact .core rfl h
    · split
      · exact .sourcesRecovered (.core rfl h)
      · exact .core rfl h

protected theorem Keeps.execMainsZcEdge {samples period : Nat} (h : Keeps r s) :
    KeepsNext r (execMainsZcEdge samples period s) := by
  unfold execMainsZcEdge
  dsimp only
  split
  · exact h
  · split
    · exact .mainsUnlock (.core rfl h)
    · split
      · exact .sourcesRecovered (.core rfl h)
      · exact .core rfl h

protected theorem Keeps.execMainsLockLoss (h : Keeps r s) : KeepsNext r (execMainsLockLoss s) := by
  unfold execMainsLockLoss
  dsimp only
  split
  · exact .mainsUnlock h
  · exact h

protected theorem Keeps.execSourceStall {n : SrcId} (h : Keeps r s) : KeepsNext r (execSourceStall n s) := by
  unfold execSourceStall
  dsimp only
  split
  · exact .raiseStanding (.core rfl h)
  · exact h

protected theorem Keeps.execNtSyncExpiry (h : Keeps r s) : KeepsNext r (execNtSyncExpiry s) := by
  unfold execNtSyncExpiry
  split
  · exact .core rfl h
  · exact h

protected theorem Keeps.advanceSource {n : SrcId} (h : Keeps r s) : Keeps r (advanceSource s n) := .core rfl h

protected theorem Keeps.phtAdvance (h : Keeps r s) : Keeps r (phtAdvance s) :=
  .core rfl (.advanceSource (.advanceSource (.advanceSource (.advanceSource h))))

protected theorem Keeps.execPhaseOutPulseEnd {n : SrcId} (h : Keeps r s) :
    KeepsNext r (execPhaseOutPulseEnd n s) := by
  unfold execPhaseOutPulseEnd
  dsimp only
  split
  · exact .core rfl h
  · exact h

protected theorem Keeps.execSlotArm {n : PhtSlotId} {by_ : RegParty} {cfg : W32} (h : Keeps r s) :
    KeepsNext r (execSlotArm n by_ cfg s) := by
  unfold execSlotArm
  split
  · exact .core rfl h
  · exact h

protected theorem Keeps.execSlotTargetCommit {n : PhtSlotId} {inc : Bool} {hi : W32} (h : Keeps r s) :
    KeepsNext r (execSlotTargetCommit n inc hi s) := by
  unfold execSlotTargetCommit
  split
  · exact .core rfl h
  · exact h

/-! ### Node -/

protected theorem Keeps.sendCan {port : CanPort} {cob : Nat} {data : Bytes} (h : Keeps r s) :
    Keeps r (sendCan s port cob data) := .ite h (.emit h)

protected theorem Keeps.bootUp (h : Keeps r s) : Keeps r (bootUp s) :=
  .ite (.core rfl h) (.notice (.core rfl (.sendCan h)))

protected theorem Keeps.nmtEnter {st : Nmt} (h : Keeps r s) : Keeps r (nmtEnter s st) :=
  .notice (.core rfl (.ite (.core rfl h) h))

protected theorem Keeps.forget {goes : Session → Bool} (h : Keeps r s) : Keeps r (forget s goes) := .core rfl h

protected theorem Keeps.forgetChans (h : Keeps r s) : Keeps r (forgetChans s) := .core rfl (.forget h)

protected theorem Keeps.endSessions {host : Bool} (h : Keeps r s) : Keeps r (endSessions s host) :=
  .core rfl (.forget h)

protected theorem Keeps.restoreComm (h : Keeps r s) : Keeps r (restoreComm s) :=
  .core rfl (.clearAllOf (.endSessions h))

protected theorem Keeps.resetComm (h : Keeps r s) : Keeps r (resetComm s) := .bootUp (.core rfl (.restoreComm h))

protected theorem Keeps.newChallenge {w : Session} (h : Keeps r s) : KeepsSnd r (newChallenge s w) :=
  .afterDraw (.core rfl h)

protected theorem Keeps.loginFail {w : Session} (h : Keeps r s) : Keeps r (loginFail s w) := by
  unfold loginFail
  dsimp only
  split
  · exact .core rfl h
  · exact .ite (.raiseStanding (.core rfl h)) (.core rfl h)

protected theorem Keeps.loginRespond {w : Session} {rsp : Bytes} (h : Keeps r s) :
    KeepsSnd r (loginRespond s w rsp) := by
  unfold loginRespond
  split
  · exact h
  · split
    · exact .loginFail h
    · split
      · exact .core rfl h
      · exact .loginFail h

protected theorem Keeps.logoutWrite {w : Session} {v : Nat} (h : Keeps r s) : KeepsSnd r (logoutWrite s w v) := by
  unfold logoutWrite
  split
  · exact .core rfl h
  · exact h

protected theorem Keeps.answerOut {w : Session} {index sub : Nat} {a : Answer} (h : Keeps r s) :
    Keeps r (answerOut s w index sub a) := by
  unfold answerOut
  split
  · exact .ite (.core rfl h) h
  · exact .ite (.emit h) h

protected theorem Keeps.answerSess {w : Session} {index sub : Nat} {a : Answer} (h : Keeps r s) :
    Keeps r (answerSess s w index sub a) := by
  unfold answerSess
  split
  · exact .answerOut h
  · split
    · exact h
    · dsimp only
      split
      · exact h
      · split
        · exact .ite (.answerOut (.core rfl h)) (.answerOut (.core rfl h))
        · exact .answerOut (.core rfl h)

protected theorem Keeps.opened {w : Session} {index sub : Nat} (h : Keeps r s) : Keeps r (opened s w index sub) := by
  unfold opened
  split
  · exact .core rfl h
  · dsimp only
    exact .core rfl (.forget h)

protected theorem Keeps.openAccess {w : Session} {index sub : Nat} {f : State → State} (h : Keeps r s)
    (hff : ∀ a0, Keeps r a0 → Keeps r (f a0)) :
    KeepsNext r (openAccess s w index sub f) := by
  unfold openAccess
  split
  · exact h
  · split
    · exact .answerOut h
    · dsimp only
      split
      · exact hff _ (.opened (.core rfl h))
      · split
        · exact .core rfl h
        · exact .answerOut (.core rfl h)

protected theorem Keeps.objCmd {w : Session} {index sub : Nat} {f : State → Nat × State} (h : Keeps r s)
    (hff : ∀ a0, Keeps r a0 → KeepsSnd r (f a0)) :
    KeepsNext r (objCmd s w index sub f) := by
  unfold objCmd
  refine Keeps.openAccess h fun u hf0 => ?_
  split
  · split
    · rename_i c t e
      have ht : KeepsSnd r (c, t) := e ▸ (hff _ hf0)
      exact .answerSess ht
  · exact .answerSess hf0

protected theorem Keeps.execEmcySend (h : Keeps r s) : KeepsNext r (execEmcySend s) := by
  unfold execEmcySend
  split
  · exact h
  · split
    · dsimp only
      split
      · exact .core rfl h
      · exact .sendCan (.core rfl h)
    · exact h

protected theorem Keeps.execHeartbeatProduce (h : Keeps r s) : KeepsNext r (execHeartbeatProduce s) := by
  unfold execHeartbeatProduce
  split
  · exact .sendCan h
  · exact h

protected theorem Keeps.execTimeReceive {port : CanPort} {canId : BitVec 11} {value : Bytes} (h : Keeps r s) :
    KeepsNext r (execTimeReceive port canId value s) := by
  unfold execTimeReceive
  dsimp only
  split
  · exact .core rfl h
  · exact h

protected theorem Keeps.execCanErrorPassive {port : CanPort} (h : Keeps r s) :
    KeepsNext r (execCanErrorPassive port s) := by
  unfold execCanErrorPassive
  split
  · exact .raiseEmcy h
  · exact h

protected theorem Keeps.execCanRxOverrun {port : CanPort} (h : Keeps r s) :
    KeepsNext r (execCanRxOverrun port s) := by
  unfold execCanRxOverrun
  split
  · exact .raiseEmcy h
  · exact h

protected theorem Keeps.execCanBusOff {port : CanPort} (h : Keeps r s) : KeepsNext r (execCanBusOff port s) := by
  unfold execCanBusOff
  split
  · dsimp only
    exact .core rfl (.forget h)
  · exact h

protected theorem Keeps.execHeartbeatReceive {port : CanPort} {node : BitVec 7} {state : Byte} (h : Keeps r s) :
    KeepsNext r (execHeartbeatReceive port node state s) := by
  unfold execHeartbeatReceive
  split
  · exact .clearStanding (.core rfl h)
  · exact h

protected theorem Keeps.sendTpdo {i : Fin 16} (h : Keeps r s) : Keeps r (sendTpdo s i) :=
  .ite (.sendCan (.core rfl h)) (.core rfl h)

protected theorem Keeps.tpdoChanged {i : Fin 16} (h : Keeps r s) : Keeps r (tpdoChanged s i) :=
  .ite (.core rfl (.sendTpdo (.core rfl h))) (.core rfl h)

protected theorem Keeps.tpdoScan {ty : Nat → Bool} {p : MapEntry → Bool} (h : Keeps r s) :
    Keeps r (tpdoScan s ty p) := .foldl h (fun _ _ hf0 => (.ite (.tpdoChanged hf0) hf0))

protected theorem Keeps.tpdoMgcScan (h : Keeps r s) : Keeps r (tpdoMgcScan s) := by
  unfold tpdoMgcScan
  exact .tpdoScan (.core rfl h)

protected theorem Keeps.tag0Write {index sub : Nat} {v : Bytes} (h : Keeps r s) : Keeps r (tag0Write s index sub v) :=
  .ite (.m2cSend h) (.core rfl h)

protected theorem Keeps.applyEntries {a : List MapEntry} {a1 : Bytes} (h : Keeps r s) :
    Keeps r (applyEntries a a1 s) := by
  induction a generalizing a1 s with
  | nil =>
    unfold applyEntries
    exact h
  | cons a l ih =>
    unfold applyEntries
    dsimp only
    exact ih (.ite h (.tag0Write h))

protected theorem Keeps.applyRpdo {i : Fin 16} {data : Bytes} (h : Keeps r s) : Keeps r (applyRpdo s i data) :=
  .applyEntries h

protected theorem Keeps.rpdoTake {i : Fin 16} {port : CanPort} {data : Bytes} (h : Keeps r s) :
    Keeps r (rpdoTake s i port data) :=
  .ite (.raiseEmcy h) (.ite (.core rfl (.ite (.raiseEmcy h) h)) (.applyRpdo (.ite (.raiseEmcy h) h)))

protected theorem Keeps.execRpdoReceive {port : CanPort} {canId : BitVec 11} {data : Bytes} (h : Keeps r s) :
    KeepsNext r (execRpdoReceive port canId data s) := by
  unfold execRpdoReceive
  split
  · exact .foldl h (fun _ _ hf0 => (.ite (.rpdoTake hf0) hf0))
  · exact h

protected theorem Keeps.tpdoSync {counter : Nat} {i : Fin 16} (h : Keeps r s) : Keeps r (tpdoSync counter s i) :=
  .ite h (.ite (.ite (.sendTpdo h) h) (.ite (.ite (.ite (.sendTpdo (.core rfl h)) (.core rfl h)) h) h))

protected theorem Keeps.rpdoSync {i : Fin 16} (h : Keeps r s) : Keeps r (rpdoSync s i) := by
  unfold rpdoSync
  split
  · exact .applyRpdo (.core rfl h)
  · exact h

protected theorem Keeps.execSyncReceive {port : CanPort} {canId : BitVec 11} {counter : Nat} (h : Keeps r s) :
    KeepsNext r (execSyncReceive port canId counter s) := by
  unfold execSyncReceive
  split
  · exact .foldl (.foldl h (fun _ _ hf0 => .tpdoSync hf0)) (fun _ _ hf0 => .rpdoSync hf0)
  · exact h

protected theorem Keeps.execTpdoEventTimer {i : Fin 16} (h : Keeps r s) : KeepsNext r (execTpdoEventTimer i s) := by
  unfold execTpdoEventTimer
  split
  · exact .tpdoChanged h
  · exact h

protected theorem Keeps.execTpdoInhibitEnd {i : Fin 16} (h : Keeps r s) : KeepsNext r (execTpdoInhibitEnd i s) := by
  unfold execTpdoInhibitEnd
  dsimp only
  split
  · exact .ite (.tpdoChanged (.core rfl h)) (.core rfl h)
  · exact h

protected theorem Keeps.pollSend {e : Fin 96} (h : Keeps r s) : Keeps r (pollSend s e) := .emit (.core rfl h)

protected theorem Keeps.pollServe {p : CanPort} (h : Keeps r s) : Keeps r (pollServe s p) := by
  unfold pollServe
  split
  · exact h
  · split
    · exact .pollSend (.core rfl h)
    · exact h

protected theorem Keeps.execPollDue {e : Fin 96} (h : Keeps r s) : KeepsNext r (execPollDue e s) := by
  unfold execPollDue
  split
  · dsimp only
    exact .pollServe (.core rfl h)
  · exact h

protected theorem Keeps.pollFail {port : CanPort} {e : Fin 96} (h : Keeps r s) : Keeps r (pollFail s port e) :=
  .ite (.pollServe (.raiseStanding (.core rfl h))) (.pollSend (.core rfl h))

protected theorem Keeps.pollDone {port : CanPort} {e : Fin 96} {value : Bytes} (h : Keeps r s) :
    Keeps r (pollDone s port e value) := .pollServe (.clearStanding (.tag0Write (.core rfl h)))

protected theorem Keeps.execPollResponse {port : CanPort} {a : Answer} (h : Keeps r s) :
    KeepsNext r (execPollResponse port a s) := by
  unfold execPollResponse
  split
  · exact h
  · split
    · show Keeps r _
      split
      · exact .pollDone h
      · exact .pollFail h
    · exact h

protected theorem Keeps.execPollTimeout {port : CanPort} (h : Keeps r s) : KeepsNext r (execPollTimeout port s) := by
  unfold execPollTimeout
  split
  · exact h
  · exact .ite (.pollFail h) h

/-! ### Apps -/

protected theorem Keeps.appRsp {tag : W16} {r1 : Nat × Nat × Nat} (h : Keeps r s) : Keeps r (appRsp s tag r1) :=
  .m2cSend h

protected theorem Keeps.execAppReg (h : Keeps r s) : KeepsNext r (execAppReg s) := by
  unfold execAppReg
  split
  · exact h
  · rename_i m t e
    have ht : KeepsOptSnd r (some (m, t)) := e ▸ Keeps.takeMsg h
    split
    · split
      · exact .appRsp (.core rfl ht)
    · exact .appRsp ht

protected theorem Keeps.execAppUnreg (h : Keeps r s) : KeepsNext r (execAppUnreg s) := by
  unfold execAppUnreg
  split
  · exact h
  · rename_i m t e
    have ht : KeepsOptSnd r (some (m, t)) := e ▸ Keeps.takeMsg h
    split
    · split
      · exact .appRsp (.core rfl ht)
    · exact .appRsp ht

protected theorem Keeps.execImageUpdate (h : Keeps r s) : KeepsNext r (execImageUpdate s) := by
  unfold execImageUpdate
  split
  · exact h
  · rename_i m t e
    have ht : KeepsOptSnd r (some (m, t)) := e ▸ Keeps.takeMsgIf h
    dsimp only
    split
    · exact .tpdoScan (.core rfl ht)
    · exact ht

/-! ### Ram -/

protected theorem Keeps.actDeny {init acc entry a : Nat} (h : Keeps r s) : Keeps r (actDeny s init acc entry a) :=
  .raiseLimited (.core rfl h)

protected theorem Keeps.actCheck {init acc a n : Nat} (h : Keeps r s) : KeepsOpt r (actCheck s init acc a n) := by
  unfold actCheck
  split
  · exact .actDeny h
  · split
    · trivial
    · exact .actDeny h

protected theorem Keeps.noteHomeWrite {a n : Nat} (h : Keeps r s) : Keeps r (noteHomeWrite s a n) := .core rfl h

protected theorem Keeps.dropResv {h1 : HartId} (h : Keeps r s) : Keeps r (dropResv s h1) := .core rfl h

protected theorem Keeps.noteMastWrite {a n : Nat} (h : Keeps r s) : Keeps r (noteMastWrite s a n) := .core rfl h

protected theorem Keeps.ramRead {init a n : Nat} (h : Keeps r s) : KeepsSnd r (ramRead s init a n) := by
  unfold ramRead
  split
  · exact h
  · split
    · rename_i t e
      have ht : KeepsOpt r (some t) := e ▸ Keeps.actCheck h
      exact ht
    · split <;> exact h

protected theorem Keeps.ramWrite {init a : Nat} {bs : Bytes} (h : Keeps r s) : KeepsSnd r (ramWrite s init a bs) := by
  unfold ramWrite
  split
  · exact h
  · split
    · rename_i t e
      have ht : KeepsOpt r (some t) := e ▸ Keeps.actCheck h
      exact ht
    · split
      · exact h
      · exact .noteHomeWrite (.wr h)

protected theorem Keeps.cleatCPut {r1 : Report} (h : Keeps r s) : Keeps r (cleatCPut s r1) :=
  .ite (.core rfl h) (.core rfl h)

protected theorem Keeps.fenceLine {unit : Nat} (h : Keeps r s) : Keeps r (fenceLine s unit) := .core rfl h

/-! ### Cap -/

protected theorem Keeps.ctxPut {n : Nat} {c : Ctx} (h : Keeps r s) : Keeps r (ctxPut s n c) :=
  h.setCap fun e => ctxPut_capWf n c e

protected theorem Keeps.slotMod {n k : Nat} {f : CapSlot → CapSlot} (h : Keeps r s) : Keeps r (slotMod s n k f) :=
  .ctxPut h

protected theorem Keeps.capStat {i : Fin 8} (h : Keeps r s) : Keeps r (capStat s i) := .core rfl h

protected theorem Keeps.capStore {a : Nat} {bs : Bytes} (h : Keeps r s) : Keeps r (capStore s a bs) := .ramWrite h

protected theorem Keeps.jduStore {a : Nat} {bs : Bytes} (h : Keeps r s) : Keeps r (jduStore s a bs) := .ramWrite h

protected theorem Keeps.slotStore {n k off : Nat} {bs : Bytes} (h : Keeps r s) : Keeps r (slotStore s n k off bs) :=
  .capStore h

protected theorem Keeps.hostRingPut {g : Nat} {hdr data : Bytes} (h : Keeps r s) :
    Keeps r (hostRingPut s g hdr data) :=
  .ite (.raiseLimited (.core rfl h)) (.core rfl (.capStore (.ite h (.capStore h))))

protected theorem Keeps.overrun {n : Nat} (h : Keeps r s) : Keeps r (overrun s n) := .raiseLimited (.ctxPut h)

protected theorem Keeps.openWindows {n : Nat} {t : CapSlot} (h : Keeps r s) : Keeps r (openWindows s n t) :=
  .core rfl h

protected theorem Keeps.noteAdmission {n : Nat} {t : CapSlot} (h : Keeps r s) : Keeps r (noteAdmission s n t) :=
  .ite (.clearStanding (.ctxPut h)) (.openWindows (.clearStanding (.ctxPut h)))

protected theorem Keeps.admitFrame {n k : Nat} {stamp : Bytes} {sense : Option W64} {host : Bool} (h : Keeps r s) :
    Keeps r (admitFrame s n k stamp sense host) := .noteAdmission (.capStore (.ctxPut h))

protected theorem Keeps.tryAdmit {n : Nat} {stamp : Bytes} {sense : Option W64} {host : Bool} (h : Keeps r s) :
    KeepsSnd r (tryAdmit s n stamp sense host) := by
  unfold tryAdmit
  split
  · exact .admitFrame h
  · exact .overrun h

protected theorem Keeps.slotFree {n k : Nat} (h : Keeps r s) : Keeps r (slotFree s n k) := by
  unfold slotFree
  refine .core rfl ?_
  split
  · exact .ite (.ctxPut (.slotMod h)) (.slotMod h)
  · exact .slotMod h

protected theorem Keeps.noteBad {n status : Nat} (h : Keeps r s) : Keeps r (noteBad s n status) :=
  .ite (.raiseLimited (.core rfl (.capStat h))) (.capStat h)

protected theorem Keeps.slotBad {n k status : Nat} (h : Keeps r s) : Keeps r (slotBad s n k status) :=
  .noteBad (.slotFree h)

protected theorem Keeps.slotReady {n k : Nat} (h : Keeps r s) : Keeps r (slotReady s n k) := .slotMod h

protected theorem Keeps.jpegQueue {n k len : Nat} {gaps : List (Nat × Nat)} {info : JpegInfo} (h : Keeps r s) :
    Keeps r (jpegQueue s n k len gaps info) := .core rfl h

protected theorem Keeps.jpegComplete {n k len : Nat} {gaps : List (Nat × Nat)} (h : Keeps r s) :
    Keeps r (jpegComplete s n k len gaps) := by
  unfold jpegComplete
  dsimp only
  split
  · exact .slotBad h
  · exact .jpegQueue (.slotReady h)

protected theorem Keeps.rtpComplete {n k len : Nat} {gaps : List (Nat × Nat)} {p : RtpParams} (h : Keeps r s) :
    Keeps r (rtpComplete s n k len gaps p) := .jpegQueue (.slotReady h)

protected theorem Keeps.divertedEnd {n : Nat} {a : CapAsm} {full : Bool} {got : Nat} {data : Bytes}
    {gaps : List (Nat × Nat)} (h : Keeps r s) :
    Keeps r (divertedEnd s n a full got data gaps) := .hostRingPut (.ite h (.noteBad h))

protected theorem Keeps.asmEnd {n : Nat} {a : CapAsm} (h : Keeps r s) : Keeps r (asmEnd s n a) := by
  unfold asmEnd
  dsimp only
  split
  · exact .divertedEnd (.ctxPut h)
  · exact .ite (.ite (.slotReady (.slotStore (.ctxPut h))) (.slotBad (.slotStore (.ctxPut h))))
      (.ite (.jpegComplete (.slotStore (.ctxPut h))) (.rtpComplete (.slotStore (.ctxPut h))))

protected theorem Keeps.asmPlace {n : Nat} {a : CapAsm} {off : Nat} {data : Bytes} {last : Option Nat} (h : Keeps r s) :
    Keeps r (asmPlace s n a off data last) := by
  unfold asmPlace
  dsimp only
  split
  · split
    · refine .asmEnd ?_
      split
      · exact .slotStore h
      · exact h
    · refine .ctxPut ?_
      split
      · exact .slotStore h
      · exact h
  · refine .ctxPut ?_
    split
    · exact .slotStore h
    · exact h

protected theorem Keeps.asmRefuse {n : Nat} {seq : W32} (h : Keeps r s) : Keeps r (asmRefuse s n seq) := .ctxPut h

protected theorem Keeps.asmOpen {n : Nat} {seq : W32} {len : Option Nat} {stamp : Bytes} {sense : Option W64}
    {rtp : RtpParams} (h : Keeps r s) :
    KeepsSnd r (asmOpen s n seq len stamp sense rtp) := by
  unfold asmOpen
  dsimp only
  split
  · split
    · exact .ctxPut (.noteAdmission (.core rfl h))
    · split
      · rename_i k t e
        have ht : KeepsSnd r (some k, t) := by rw [← e]; exact Keeps.tryAdmit (.core rfl h)
        exact .ctxPut ht
      · rename_i t e
        have ht : KeepsSnd (α := Option Nat) r (none, t) := by rw [← e]; exact Keeps.tryAdmit (.core rfl h)
        exact .asmRefuse ht
  · split
    · rename_i k t e
      have ht : KeepsSnd r (some k, t) := e ▸ Keeps.tryAdmit h
      exact .ctxPut ht
    · rename_i t e
      have ht : KeepsSnd (α := Option Nat) r (none, t) := e ▸ Keeps.tryAdmit h
      exact .asmRefuse ht

protected theorem Keeps.execIngressRecord {e : CanPort} {rec_ : Bytes} (h : Keeps r s) :
    KeepsNext r (execIngressRecord e rec_ s) := by
  unfold execIngressRecord
  split
  · exact h
  · split
    · exact .capStat h
    · split
      · rename_i t e1
        have ht : KeepsOpt r (some t) := e1 ▸ Keeps.actCheck h
        exact ht
      · dsimp only
        split
        · exact .core rfl h
        · exact .capStat h

protected theorem Keeps.sfPlace {n : Nat} {a : CapAsm} {h1 : Bytes} (h : Keeps r s) : Keeps r (sfPlace s n a h1) :=
  .ite h (.asmPlace h)

protected theorem Keeps.sfOpen {n : Nat} {h1 stamp : Bytes} (h : Keeps r s) : Keeps r (sfOpen s n h1 stamp) := by
  unfold sfOpen
  dsimp only
  split
  · exact .capStat (.asmRefuse h)
  · split
    · rename_i a t e
      have ht : KeepsSnd r (some a, t) := e ▸ Keeps.asmOpen h
      exact .sfPlace ht
    · rename_i t e
      have ht : KeepsSnd (α := Option CapAsm) r (none, t) := e ▸ Keeps.asmOpen h
      exact ht

protected theorem Keeps.sfTake {n : Nat} {h1 stamp : Bytes} (h : Keeps r s) : Keeps r (sfTake s n h1 stamp) := by
  unfold sfTake
  dsimp only
  split
  · exact h
  · split
    · exact .ite (.sfPlace h) (.ite (.sfOpen (.asmEnd h)) (.capStat h))
    · split
      · exact .ite (.sfOpen h) (.ite (.capStat h) h)
      · exact .sfOpen h

protected theorem Keeps.sframe {e : Nat} {u : Udp} {stamp : Bytes} (h : Keeps r s) :
    Keeps r (sframe s e u stamp) := by
  unfold sframe
  split
  · exact .capStat h
  · split
    · exact .capStat h
    · exact .ite (.capStat h) (.sfTake h)

protected theorem Keeps.ingressPop {e : CanPort} (h : Keeps r s) : Keeps r (ingressPop s e) := .core rfl h

protected theorem Keeps.execSframeFragment {e : CanPort} (h : Keeps r s) : KeepsNext r (execSframeFragment e s) := by
  unfold execSframeFragment
  split
  · split
    · exact .sframe (.ingressPop h)
    · exact .capStat (.ingressPop h)
    · exact .ingressPop h
    · exact h
  · exact h

protected theorem Keeps.rtpPlace {n : Nat} {a : CapAsm} {marker : Bool} {j : RtpPart} (h : Keeps r s) :
    Keeps r (rtpPlace s n a marker j) := by
  unfold rtpPlace
  dsimp only
  split
  · exact .asmPlace h
  · exact .ite (.asmPlace h) (.slotBad (.ctxPut h))

protected theorem Keeps.rtpOpen {n : Nat} {r1 : Rtp} {stamp : Bytes} (h : Keeps r s) :
    Keeps r (rtpOpen s n r1 stamp) := by
  unfold rtpOpen
  dsimp only
  split
  · rename_i a t e
    have ht : KeepsSnd r (some a, t) := e ▸ Keeps.asmOpen h
    refine .rtpPlace ?_
    split
    · exact .slotStore ht
    · exact ht
  · rename_i t e
    have ht : KeepsSnd (α := Option CapAsm) r (none, t) := e ▸ Keeps.asmOpen h
    exact ht

protected theorem Keeps.rtpTake {n : Nat} {r1 : Rtp} {stamp : Bytes} (h : Keeps r s) :
    Keeps r (rtpTake s n r1 stamp) := by
  unfold rtpTake
  dsimp only
  split
  · exact h
  · split
    · exact .ite (.rtpPlace h) (.ite (.rtpOpen (.asmEnd h)) (.capStat h))
    · split
      · exact .ite (.rtpOpen h) (.ite (.capStat h) h)
      · exact .rtpOpen h

protected theorem Keeps.execRtpPacket {e : CanPort} (h : Keeps r s) : KeepsNext r (execRtpPacket e s) := by
  unfold execRtpPacket
  split
  · split
    · dsimp only
      split
      · exact .capStat (.ingressPop h)
      · split
        · exact .capStat (.ingressPop h)
        · exact .rtpTake (.ingressPop h)
    · exact .capStat (.ingressPop h)
    · exact .ingressPop h
    · exact h
  · exact h

protected theorem Keeps.execAssemblyTimeout {ctx : BitVec 12} (h : Keeps r s) :
    KeepsNext r (execAssemblyTimeout ctx s) := by
  unfold execAssemblyTimeout
  split
  · split
    · exact .asmEnd h
    · exact h
  · exact h

protected theorem Keeps.notePrevGrey {n k : Nat} (h : Keeps r s) : Keeps r (notePrevGrey s n k) :=
  .ite (.capStore h) h

protected theorem Keeps.csiDrop {rx vc : SrcId} (h : Keeps r s) : Keeps r (csiDrop s rx vc) := .core rfl h

protected theorem Keeps.csiPut {f : CsiFrame} (h : Keeps r s) : Keeps r (csiPut s f) := .core rfl (.csiDrop h)

protected theorem Keeps.storeRow {n k line : Nat} {px : Nat → Bytes} (h : Keeps r s) :
    Keeps r (storeRow s n k line px) := .ite (.slotStore (.capStore h)) h

protected theorem Keeps.csiConcealLine {n k line : Nat} (h : Keeps r s) : Keeps r (csiConcealLine s n k line) :=
  .notePrevGrey (.storeRow h)

protected theorem Keeps.csiMissing {n k a a1 : Nat} (h : Keeps r s) : Keeps r (csiMissing s n k a a1) := by
  induction a generalizing s n k a1 with
  | zero =>
    unfold csiMissing
    exact h
  | succ n ih =>
    unfold csiMissing
    exact ih (.csiConcealLine h)

protected theorem Keeps.csiFinish {f : CsiFrame} (h : Keeps r s) : Keeps r (csiFinish s f) := by
  unfold csiFinish
  exact .slotMod (.slotReady (.csiDrop (.slotStore (.slotStore (.slotStore (.csiMissing h))))))

protected theorem Keeps.csiHeader {errs : Nat} {f : State → State} (h : Keeps r s)
    (hff : ∀ a0, Keeps r a0 → Keeps r (f a0)) :
    Keeps r (csiHeader s errs f) := .ite (.capStat h) (hff _ (.ite (.capStat h) h))

protected theorem Keeps.csiStart {rx vc : SrcId} (h : Keeps r s) : Keeps r (csiStart s rx vc) := by
  unfold csiStart
  extract_lets u
  have hu : Keeps r u := by
    unfold u
    split
    · exact .csiFinish h
    · exact h
  split
  · exact .capStat hu
  · next n _ =>
    have ht : KeepsSnd r (tryAdmit u n (stampNow u) none false) := .tryAdmit hu
    split <;> rename_i e <;> rw [e] at ht
    · exact Keeps.csiPut ht
    · exact ht

protected theorem Keeps.execCsiFrameStart {rx : SrcId} {p : CsiShort} (h : Keeps r s) :
    KeepsNext r (execCsiFrameStart rx p s) := by
  unfold execCsiFrameStart
  split
  · exact .csiHeader h (fun _ hf0 => .csiStart hf0)
  · exact h

protected theorem Keeps.csiLine {f : CsiFrame} {p : CsiPacket} (h : Keeps r s) : Keeps r (csiLine s f p) :=
  .ite h (.ite (.csiPut (.csiConcealLine h)) (.csiPut (.ite (.notePrevGrey (.storeRow h)) (.storeRow h))))

protected theorem Keeps.csiTake {rx : SrcId} {p : CsiPacket} (h : Keeps r s) : Keeps r (csiTake s rx p) := by
  unfold csiTake
  dsimp only
  split
  · exact h
  · split
    · exact .capStat h
    · split
      · exact h
      · exact .ite (.csiPut (.slotStore h)) (.csiLine h)

protected theorem Keeps.execCsiPacket {rx : SrcId} {p : CsiPacket} (h : Keeps r s) :
    KeepsNext r (execCsiPacket rx p s) := by
  unfold execCsiPacket
  split
  · exact .csiHeader h (fun _ hf0 => .csiTake hf0)
  · exact h

protected theorem Keeps.execCsiFrameEnd {rx : SrcId} {p : CsiShort} (h : Keeps r s) :
    KeepsNext r (execCsiFrameEnd rx p s) := by
  unfold execCsiFrameEnd
  split
  · refine .csiHeader h fun u hf0 => ?_
    split
    · exact .csiFinish hf0
    · exact hf0
  · exact h

protected theorem Keeps.capAcq {n : Nat} (h : Keeps r s) : KeepsSnd r (capAcq s n) := by
  unfold capAcq
  dsimp only
  split
  · split
    · rename_i k t e
      have ht : KeepsSnd r (some k, t) := e ▸ Keeps.tryAdmit h
      exact ht
    · rename_i t e
      have ht : KeepsSnd (α := Option Nat) r (none, t) := e ▸ Keeps.tryAdmit h
      exact ht
  · exact h

protected theorem Keeps.capPush {r1 : Bytes} (h : Keeps r s) : Keeps r (capPush s r1) :=
  .ite (.ite (.jpegComplete
    (.slotStore (.openWindows
      (.ite (.capStore (.slotStore (.slotStore (.slotMod h)))) (.slotStore (.slotStore (.slotMod h)))))))
        (.slotReady (.slotStore
          (.openWindows (.ite (.capStore (.slotStore (.slotStore (.slotMod h))))
            (.slotStore (.slotStore (.slotMod h)))))))) h

protected theorem Keeps.execCapAcq {by_ : RegParty} {ctx : BitVec 12} (h : Keeps r s) :
    KeepsNext r (execCapAcq by_ ctx s) := by
  unfold execCapAcq
  split
  · split
    · rename_i c t e
      have ht : KeepsSnd r (c, t) := e ▸ Keeps.capAcq h
      exact .emit ht
  · exact h

protected theorem Keeps.execCapPush {by_ : RegParty} {rec_ : Bytes} (h : Keeps r s) :
    KeepsNext r (execCapPush by_ rec_ s) := by
  unfold execCapPush
  split
  · exact .capPush h
  · exact h

protected theorem Keeps.execHostSlotTimeout {ctx : BitVec 12} {slot : Byte} (h : Keeps r s) :
    KeepsNext r (execHostSlotTimeout ctx slot s) := by
  unfold execHostSlotTimeout
  dsimp only
  split
  · exact .slotFree h
  · exact h

protected theorem Keeps.capRelease {n k : Nat} (h : Keeps r s) : Keeps r (capRelease s n k) := .ite (.slotFree h) h

protected theorem Keeps.execCapRel {v : W32} (h : Keeps r s) : KeepsNext r (execCapRel v s) := by
  unfold execCapRel
  split
  · exact .capRelease h
  · exact h

protected theorem Keeps.roiCommit {n : Nat} {hi : W32} (h : Keeps r s) : Keeps r (roiCommit s n hi) := .ctxPut h

protected theorem Keeps.execCapRoiCommit {ctx : BitVec 12} {hi : W32} (h : Keeps r s) :
    KeepsNext r (execCapRoiCommit ctx hi s) := by
  unfold execCapRoiCommit
  split
  · exact .roiCommit h
  · exact h

protected theorem Keeps.ctxPutNew {n : Nat} {c : Ctx} (h : Keeps r s) : Keeps r (ctxPutNew s n c) := .ctxPut h

protected theorem Keeps.execContextWrite {ctx : BitVec 12} {field : Fin 16} {v : W64} (h : Keeps r s) :
    KeepsNext r (execContextWrite ctx field v s) := by
  unfold execContextWrite
  split
  · split
    · exact .ctxPutNew h
    · exact .emit h
  · exact h

protected theorem Keeps.pertFlip {n : Nat} (h : Keeps r s) : KeepsSnd r (pertFlip s n) := by
  unfold pertFlip
  dsimp only
  split
  · split <;> exact .ctxPut h
  · exact h

protected theorem Keeps.execJpegDecodeStart {j : CanPort} (h : Keeps r s) :
    KeepsNext r (execJpegDecodeStart j s) := by
  unfold execJpegDecodeStart
  split
  · split
    · exact h
    · split
      · rename_i fl t e
        have ht : KeepsSnd r (fl, t) := e ▸ Keeps.pertFlip h
        exact .core rfl ht
  · exact h

protected theorem Keeps.jduRow {f : JduJob} (h : Keeps r s) : Keeps r (jduRow s f) :=
  .jduStore (.ite (.notePrevGrey (.jduStore h)) (.jduStore h))

protected theorem Keeps.execJpegRowDecoded {j : CanPort} (h : Keeps r s) : KeepsNext r (execJpegRowDecoded j s) := by
  unfold execJpegRowDecoded
  split
  · exact h
  · split
    · dsimp only
      exact .core rfl (.jduRow h)
    · exact h

protected theorem Keeps.jduDamage {f : JduJob} (h : Keeps r s) : Keeps r (jduDamage s f) :=
  .jduStore (.jduStore (.jduStore h))

protected theorem Keeps.execJpegDecodeEnd {j : CanPort} (h : Keeps r s) : KeepsNext r (execJpegDecodeEnd j s) := by
  unfold execJpegDecodeEnd
  split
  · exact h
  · split
    · dsimp only
      exact .core rfl (.slotMod (.jduDamage h))
    · exact h

protected theorem Keeps.setDiscard {g : Nat} {ms : List (Nat × Nat)} (h : Keeps r s) : Keeps r (setDiscard s g ms) :=
  .core rfl (.foldl h (fun _ _ hf0 => .slotFree hf0))

protected theorem Keeps.markMissing {ms : List (Nat × Nat)} (h : Keeps r s) : Keeps r (markMissing s ms) :=
  .foldl h (fun _ _ hf0 => .capStore hf0)

protected theorem Keeps.windowClose {w : AWindow} (h : Keeps r s) : Keeps r (windowClose s w) :=
  .ite (.setDiscard h) (.core rfl (.foldl h (fun _ _ hf0 => .slotMod hf0)))

protected theorem Keeps.execAlignWindowClose {g : Fin 64} {waited : Bool} (h : Keeps r s) :
    KeepsNext r (execAlignWindowClose g waited s) := by
  unfold execAlignWindowClose
  split
  · exact h
  · dsimp only
    split
    · exact .windowClose (.core rfl h)
    · exact h

protected theorem Keeps.releaseStale {g key : Nat} (h : Keeps r s) : Keeps r (releaseStale s g key) :=
  .foldl h (fun _ _ hf0 => .foldl hf0 (fun _ _ hf0 => .capStat (.slotFree hf0)))

protected theorem Keeps.setOffer {x : ASet} (h : Keeps r s) : Keeps r (setOffer s x) := by
  unfold setOffer
  extract_lets n stored marked _ offered
  have hstored : Keeps r stored := .foldl h fun _ _ hf => .slotStore hf
  have hmarked : Keeps r marked := .ite (.markMissing hstored) hstored
  refine .releaseStale (hmarked.setCap fun hw => ?_)
  rw [State.capWf, Bool.and_eq_true] at hw ⊢
  exact ⟨hw.1, Tbl.wf_write _ _ hw.2⟩

protected theorem Keeps.execAlignSetOffer {g : Fin 64} (h : Keeps r s) : KeepsNext r (execAlignSetOffer g s) := by
  unfold execAlignSetOffer
  split
  · exact h
  · split
    · dsimp only
      exact .ite (.setDiscard (.core rfl h)) (.setOffer (.core rfl h))
    · exact h

protected theorem Keeps.execSourceLossTimeout {ctx : BitVec 12} (h : Keeps r s) :
    KeepsNext r (execSourceLossTimeout ctx s) := by
  unfold execSourceLossTimeout
  dsimp only
  split
  · exact .raiseStanding (.ctxPut h)
  · exact h

protected theorem Keeps.capRead {off : Nat} (h : Keeps r s) : KeepsSnd r (capRead s off) := by
  unfold capRead
  split
  · exact h
  · split
    · dsimp only
      exact h
    · split
      · exact h
      · split
        · dsimp only
          exact h
        · split
          · exact Keeps.capAcq h
          · split
            · dsimp only
              exact h
            · exact h

protected theorem Keeps.capWrite {off : Nat} {v : W32} (h : Keeps r s) : Keeps r (capWrite s off v) :=
  .ite (.core rfl h) (.ite (.capRelease h)
    (.ite (.ite (.core rfl h) h)
      (.ite (.ite (.ctxPut h) (.roiCommit h))
        (.ite (.ite (.capPush (.core rfl h)) (.core rfl h)) (.ite (.ite (.ctxPutNew h) h) h)))))

/-! ### Cleat -/

protected theorem Keeps.c2mIndexWrite {idx : BitVec 7} (h : Keeps r s) : Keeps r (c2mIndexWrite s idx) :=
  .ite (.dropUnknown (.core rfl h)) (.core rfl h)

protected theorem Keeps.execC2mWrite {v : W32} (h : Keeps r s) : KeepsNext r (execC2mWrite v s) := by
  unfold execC2mWrite
  split
  · exact .c2mIndexWrite h
  · exact h

protected theorem Keeps.m2cIndexWrite {idx : BitVec 7} (h : Keeps r s) : Keeps r (m2cIndexWrite s idx) :=
  .ite (.m2cRetry (.core rfl h)) h

protected theorem Keeps.execM2cReadIndexWrite {v : W32} (h : Keeps r s) :
    KeepsNext r (execM2cReadIndexWrite v s) := by
  unfold execM2cReadIndexWrite
  split
  · exact .m2cIndexWrite h
  · exact h

protected theorem Keeps.execEmcyReq (h : Keeps r s) : KeepsNext r (execEmcyReq s) := by
  unfold execEmcyReq
  split
  · exact h
  · rename_i m t e
    have ht : KeepsOptSnd r (some (m, t)) := e ▸ Keeps.takeMsg h
    dsimp only
    split
    · exact .core rfl ht
    · exact .raiseEmcy ht

protected theorem Keeps.execCtlFault (h : Keeps r s) : KeepsNext r (execCtlFault s) := by
  unfold execCtlFault
  split
  · exact h
  · rename_i m t e
    have ht : KeepsOptSnd r (some (m, t)) := e ▸ Keeps.takeMsg h
    exact .raiseEmcy ht

protected theorem Keeps.execClbPostWrite {q : QueueId} {by_ : Poster} {v : W32} (h : Keeps r s) :
    KeepsNext r (execClbPostWrite q by_ v s) := by
  unfold execClbPostWrite
  split
  · exact .core rfl h
  · exact h

protected theorem Keeps.execClbReadWrite {q : QueueId} {by_ : Poster} {v : W32} (h : Keeps r s) :
    KeepsNext r (execClbReadWrite q by_ v s) := by
  unfold execClbReadWrite
  split
  · exact .core rfl h
  · exact h

protected theorem Keeps.execClbCfgWrite {q : QueueId} {by_ : Poster} {v : W32} (h : Keeps r s) :
    KeepsNext r (execClbCfgWrite q by_ v s) := by
  unfold execClbCfgWrite
  split
  · exact .core rfl h
  · exact h

protected theorem Keeps.cp0Post {q : QueueId} {desc : Bytes} (h : Keeps r s) : KeepsOptSnd r (cp0Post s q desc) := by
  unfold cp0Post
  dsimp only
  split
  · trivial
  · exact .core rfl (.wr h)

protected theorem Keeps.clcLostWrite {v : Nat} (h : Keeps r s) : KeepsSnd r (clcLostWrite v s) := by
  unfold clcLostWrite
  split
  · exact .core rfl h
  · exact h

/-! ### Shroud -/

protected theorem Keeps.reroute (h : Keeps r s) : Keeps r (reroute s) := .core rfl h

protected theorem Keeps.shlMod {p : ShlId} {f : ShlPort → ShlPort} (h : Keeps r s) : Keeps r (shlMod s p f) :=
  .core rfl h

protected theorem Keeps.oweCredit {p : ShlId} {pool : Fin 8} {n : Nat} (h : Keeps r s) :
    Keeps r (oweCredit s p pool n) := .ite (.shlMod h) (.shlMod h)

protected theorem Keeps.sendSeq {p : ShlId} {slots : Bytes} (h : Keeps r s) : Keeps r (sendSeq s p slots) :=
  .emit (.shlMod h)

protected theorem Keeps.creditFlit {p : ShlId} (h : Keeps r s) : Keeps r (creditFlit s p) := .ite (.sendSeq h) h

protected theorem Keeps.freeSlots {a : Option (ShlId × Fin 8)} {a1 : Nat} (h : Keeps r s) :
    Keeps r (freeSlots s a a1) := by
  unfold freeSlots
  split
  · exact h
  · exact .creditFlit (.oweCredit h)

protected theorem Keeps.pump {a : Nat} {a1 : ShlId} (h : Keeps r s) : Keeps r (pump a s a1) := by
  induction a generalizing s a1 with
  | zero =>
    unfold pump
    exact h
  | succ n ih =>
    unfold pump
    dsimp only
    split
    · split
      · exact h
      · exact ih (.freeSlots (.sendSeq (.shlMod h)))
    · exact h

protected theorem Keeps.pumpAll {p : ShlId} (h : Keeps r s) : Keeps r (pumpAll s p) := .pump h

protected theorem Keeps.enqueue {inPort : Option ShlId} {p : ShlId} {m : Bytes} (h : Keeps r s) :
    Keeps r (enqueue s inPort p m) := .pumpAll (.shlMod h)

protected theorem Keeps.sendOwn {m : Bytes} (h : Keeps r s) : Keeps r (sendOwn s m) := by
  unfold sendOwn
  split
  · exact .enqueue h
  · exact h

protected theorem Keeps.remoteSend {w : RemWait} {home : ChipId} {mk off b12 b13 : Nat} {data : Bytes} (h : Keeps r s) :
    Keeps r (remoteSend s w home mk off b12 b13 data) := .sendOwn (.core rfl h)

protected theorem Keeps.remoteRequest {w : RemWait} {home : ChipId} {mk off b12 b13 : Nat} {data : Bytes}
    (h : Keeps r s) :
    KeepsRemTry r (remoteRequest s w home mk off b12 b13 data) := by
  unfold remoteRequest
  split
  · trivial
  · split
    · trivial
    · exact .remoteSend h

protected theorem Keeps.remoteWrite {w : RemWait} {home : ChipId} {b13 off : Nat} {bs : Bytes} (h : Keeps r s) :
    KeepsSnd r (remoteWrite s w home b13 off bs) := by
  unfold remoteWrite
  split
  · exact h
  · exact .foldl h (fun _ _ hf0 => .remoteSend hf0)

protected theorem Keeps.execPortDetect {p : ShlId} {detected : Bool} (h : Keeps r s) :
    KeepsNext r (execPortDetect p detected s) := by
  unfold execPortDetect
  split
  · exact .shlMod h
  · exact h

protected theorem Keeps.execPortEqDone {p : ShlId} (h : Keeps r s) : KeepsNext r (execPortEqDone p s) := by
  unfold execPortEqDone
  split
  · exact .shlMod h
  · exact h

protected theorem Keeps.execPortAlign {p : ShlId} {locked : Bool} (h : Keeps r s) :
    KeepsNext r (execPortAlign p locked s) := by
  unfold execPortAlign
  split
  · exact .shlMod h
  · exact h

protected theorem Keeps.raise40 {p : ShlId} {down : Bool} (h : Keeps r s) : Keeps r (raise40 s p down) :=
  .raiseStanding h

protected theorem Keeps.trained {p : ShlId} (h : Keeps r s) : Keeps r (trained s p) :=
  .ite (.raise40 (.shlMod (.clearStanding h))) (.clearStanding (.clearStanding h))

protected theorem Keeps.portGoDown {p : ShlId} (h : Keeps r s) : Keeps r (portGoDown s p) :=
  .raise40 (.shlMod (.core rfl h))

protected theorem Keeps.portRetrain {p : ShlId} (h : Keeps r s) : Keeps r (portRetrain s p) :=
  .ite (.portGoDown (.shlMod h)) (.shlMod h)

protected theorem Keeps.resend {p : ShlId} (h : Keeps r s) : Keeps r (resend s p) :=
  .foldl h (fun _ _ hf0 => .emit hf0)

protected theorem Keeps.execPortRetrainDone {p : ShlId} (h : Keeps r s) : KeepsNext r (execPortRetrainDone p s) := by
  unfold execPortRetrainDone
  split
  · exact .pumpAll (.resend (.trained (.shlMod h)))
  · exact h

protected theorem Keeps.execPortDownEnd {p : ShlId} (h : Keeps r s) : KeepsNext r (execPortDownEnd p s) := by
  unfold execPortDownEnd
  split
  · exact .shlMod h
  · exact h

protected theorem Keeps.replayNow {p : ShlId} (h : Keeps r s) : Keeps r (replayNow s p) :=
  .ite (.portRetrain (.shlMod h)) (.resend (.shlMod h))

protected theorem Keeps.shlRead {p : ShlId} {off : Nat} (h : Keeps r s) : KeepsSnd r (shlRead s p off) := by
  unfold shlRead
  split
  · exact h
  · exact .shlMod h
  · exact h

protected theorem Keeps.shlWrite {p : ShlId} {off : Nat} {v : W32} (h : Keeps r s) :
    Keeps r (shlWrite s p off v) := by
  unfold shlWrite
  split
  · exact .shlMod h
  · exact .shlMod h
  · exact h

/-! ### Operands -/

protected theorem Keeps.seqRead {init : Nat} {own : Option CoreId} {addr n : Nat} (h : Keeps r s) :
    KeepsSnd r (seqRead s init own addr n) := by
  unfold seqRead
  split
  · split
    · exact h
    · exact .core rfl h
  · split
    · split
      · exact h
      · exact Keeps.ramRead h
    · split
      · exact h
      · exact Keeps.ramRead h

protected theorem Keeps.seqWrite {init : Nat} {own : Option CoreId} {addr : Nat} {bs : Bytes} (h : Keeps r s) :
    KeepsSnd r (seqWrite s init own addr bs) := by
  unfold seqWrite
  split
  · split
    · exact h
    · exact Keeps.remoteWrite h
  · split
    · split
      · exact .noteHomeWrite (.wr h)
      · exact Keeps.ramWrite h
    · split
      · exact .noteHomeWrite (.wr h)
      · exact Keeps.ramWrite h

/-- A predicate on states that no operand's read ends. -/
structure ReadClosed (P : State → Prop) : Prop where
  read : ∀ {s : State}, P s → ∀ (init : Nat) (own : Option CoreId) (a n : Nat), P (seqRead s init own a n).2

/-- A predicate on states that no access of the sequencer ends. -/
structure SeqClosed (P : State → Prop) : Prop extends ReadClosed P where
  write : ∀ {s : State}, P s → ∀ (init : Nat) (own : Option CoreId) (a : Nat) (bs : Bytes), P (seqWrite s init own a bs).2

/-- Whatever the sequencer's computation x does, it ends no predicate that no access of the sequencer ends. -/
def SeqKeeps {α : Type} (x : SeqM α) : Prop :=
  ∀ (P : State → Prop) (q : SeqRun), SeqClosed P → P q.s → P (x q).2.s

theorem Keeps.seqClosed (r : State) : SeqClosed (Keeps r) := ⟨⟨fun h _ _ _ _ => .seqRead h⟩, fun h _ _ _ _ => .seqWrite h⟩

theorem SeqKeeps.pure {α : Type} {a : α} : SeqKeeps (pure a : SeqM α) := fun _ _ _ h => h

theorem SeqKeeps.throw {α : Type} {e : SeqErr} : SeqKeeps (throw e : SeqM α) := fun _ _ _ h => h

theorem SeqKeeps.bind {α β : Type} {x : SeqM α} {f : α → SeqM β} (hx : SeqKeeps x) (hf : ∀ a, SeqKeeps (f a)) :
    SeqKeeps (x >>= f) := by
  intro P q hP h
  have hq := hx P q hP h
  change P (ExceptT.bindCont f (x q).1 (x q).2).2.s
  rcases hx : x q with ⟨a | a, p⟩
  · rw [hx] at hq
    exact hq
  · rw [hx] at hq
    exact hf a P p hP hq

/-- What is read of the run so far says nothing of the state. -/
theorem SeqKeeps.get {β : Type} {f : SeqRun → SeqM β} (hf : ∀ p, SeqKeeps (f p)) : SeqKeeps (get >>= f) :=
  fun P q hP h => hf q P q hP h

theorem SeqKeeps.modify {f : SeqRun → SeqRun} (hf : ∀ q, (f q).s = q.s) : SeqKeeps (modify f : SeqM Unit) := by
  intro P q _ h
  change P (f q).s
  rwa [hf q]

theorem SeqKeeps.ite {α : Type} {c : Prop} [Decidable c] {x y : SeqM α} (hx : SeqKeeps x) (hy : SeqKeeps y) :
    SeqKeeps (if c then x else y) := by
  split <;> assumption

theorem SeqKeeps.forM {α : Type} {l : List α} {f : α → SeqM Unit} (hf : ∀ a, SeqKeeps (f a)) :
    SeqKeeps (l.forM f) := by
  induction l with
  | nil => exact .pure
  | cons a l ih => exact .bind (hf a) fun _ => ih

theorem SeqKeeps.mapM {α β : Type} {l : List α} {f : α → SeqM β} (hf : ∀ a, SeqKeeps (f a)) :
    SeqKeeps (l.mapM f) := by
  induction l with
  | nil => exact .pure
  | cons a l ih =>
    rw [List.mapM_cons]
    exact .bind (hf a) fun _ => .bind ih fun _ => .pure

theorem SeqKeeps.seqGet {u : SeqUnit} {a n : Nat} : SeqKeeps (seqGet u a n) := by
  intro P q hP h
  have ht : P (Machine.seqRead q.s u.init u.own a n).2 := hP.read h ..
  unfold Machine.seqGet
  change P ((match seqRead q.s u.init u.own a n with
    | (.ok b, t) => (do set { q with s := t }; Pure.pure b : SeqM Bytes)
    | (.error e, t) => (do set { q with s := t }; MonadExcept.throw (SeqErr.bus e a) : SeqM Bytes)) q).2.s
  rcases e : Machine.seqRead q.s u.init u.own a n with ⟨_ | _, t⟩ <;> (rw [e] at ht; exact ht)

theorem SeqKeeps.seqFetch {u : SeqUnit} {a n : Nat} : SeqKeeps (seqFetch u a n) :=
  .bind .seqGet fun _ => .bind (.modify fun _ => rfl) fun _ => .pure

theorem SeqKeeps.seqTap {u : SeqUnit} {a n : Nat} : SeqKeeps (seqTap u a n) :=
  .bind .seqGet fun _ => .bind (.modify fun _ => rfl) fun _ => .pure

theorem SeqKeeps.seqPut {u : SeqUnit} {a : Nat} {bs : Bytes} : SeqKeeps (seqPut u a bs) := by
  intro P q hP h
  have ht : P (Machine.seqWrite q.s u.init u.own a bs).2 := hP.write h ..
  unfold Machine.seqPut
  change P ((match seqWrite q.s u.init u.own a bs with
    | (none, t) => (set { q with s := t } : SeqM Unit)
    | (some e, t) => (do set { q with s := t }; MonadExcept.throw (SeqErr.bus e a) : SeqM Unit)) q).2.s
  rcases e : Machine.seqWrite q.s u.init u.own a bs with ⟨_ | _, t⟩ <;> (rw [e] at ht; exact ht)

theorem SeqKeeps.zcWalk {u : SeqUnit} {pay : Nat} {z : Byte} {k o : Nat} : SeqKeeps (zcWalk u pay z k o) := by
  induction k generalizing o with
  | zero => exact .bind .seqTap fun _ => .bind .seqTap fun _ => .pure
  | succ k ih => exact .bind .seqTap fun _ => ih

theorem SeqKeeps.zcPixel {u : SeqUnit} {slot w pitch x : Nat} : SeqKeeps (zcPixel u slot w pitch x) := by
  refine .bind .seqTap fun h => .ite (.bind .throw fun _ => ?_) ?_
  all_goals
    dsimp only
    split
    · exact .pure
    · exact .seqTap
    · exact .zcWalk

theorem SeqKeeps.inPixel {u : SeqUnit} {d : ConvDesc} {blk iy ix : Nat} : SeqKeeps (inPixel u d blk iy ix) :=
  .ite .zcPixel .seqTap

theorem SeqKeeps.blockOperands {u : SeqUnit} {d : ConvDesc} {blk : Nat} {pos : Option (Int × Int)} :
    SeqKeeps (blockOperands u d blk pos) := by
  unfold Machine.blockOperands
  split
  · exact .pure
  · exact .ite (.bind .inPixel fun _ => .pure) .pure

theorem SeqKeeps.loadTile {u : SeqUnit} {d : ConvDesc} {t blk : Nat} : SeqKeeps (loadTile u d t blk) :=
  .bind .seqFetch fun _ _ _ _ h => h

theorem SeqKeeps.loadCodes {u : SeqUnit} {d : ConvDesc} {g t : Nat} : SeqKeeps (loadCodes u d g t) :=
  .bind .seqFetch fun _ => .bind .seqTap fun _ _ _ _ h => h

theorem SeqKeeps.groupDesc {u : SeqUnit} {d : ConvDesc} {co : Nat} : SeqKeeps (groupDesc u d co) :=
  .bind .seqGet fun _ => .pure

theorem SeqKeeps.startChunk {u : SeqUnit} {d : ConvDesc} {sd : StoreDesc} {n : Nat} : SeqKeeps (startChunk u d sd n) :=
  .forM fun _ => .modify fun _ => rfl

theorem SeqKeeps.addStep {d : ConvDesc} {j : Nat} {xs : Option (List Int)} {w : Nat → Nat → Int} {mk : Nat → Int} :
    SeqKeeps (addStep d j xs w mk) := by
  unfold Machine.addStep
  split
  · exact .pure
  · exact .modify fun _ => rfl

theorem SeqKeeps.macPass {u : SeqUnit} {d : ConvDesc} {hdr : Bytes} {g oy : Nat} {px : List Nat} {p : Nat} :
    SeqKeeps (macPass u d hdr g oy px p) := by
  refine .forM fun _ => .ite (.forM fun _ => .bind .loadCodes fun _ => .forM fun _ => .ite ?_ ?_)
    (.forM fun _ => .bind .loadTile fun _ => .forM fun _ => .bind .blockOperands fun _ => .addStep)
  · exact .bind .blockOperands fun _ => .addStep
  · exact .bind .blockOperands fun _ =>
      .ite (.bind .blockOperands fun _ => .bind .pure fun _ => .addStep)
        (.bind .pure fun _ => .bind .pure fun _ => .addStep)

theorem SeqKeeps.dwPass {u : SeqUnit} {d : ConvDesc} {og oy : Nat} {px : List Nat} {p : Nat} :
    SeqKeeps (dwPass u d og oy px p) := by
  refine .forM fun _ => .forM fun _ => .forM fun _ => .ite (.forM fun _ => .bind .blockOperands fun xs => ?_) .pure
  cases xs with
  | none => exact .pure
  | some v => exact .bind .seqTap fun _ => .modify fun _ => rfl

theorem SeqKeeps.psumSave {u : SeqUnit} {d : ConvDesc} {px : List Nat} : SeqKeeps (psumSave u d px) :=
  .forM fun _ => .get fun _ => .seqPut

theorem SeqKeeps.psumRestore {u : SeqUnit} {d : ConvDesc} {px : List Nat} : SeqKeeps (psumRestore u d px) :=
  .forM fun _ => .bind .seqFetch fun _ => .modify fun _ => rfl

theorem countSat_s (u : SeqUnit) (d : StoreDesc) (k : Sat) (q : SeqRun) : (countSat u d k q).s = q.s := by
  cases k <;> dsimp only [countSat] <;> split <;> rfl

theorem SeqKeeps.pixelOut {u : SeqUnit} {d : ConvDesc} {sd : StoreDesc} {og j : Nat} : SeqKeeps (pixelOut u d sd og j)
  :=
  .get fun _ => .mapM fun _ => .ite (.bind (.modify (countSat_s u sd _)) fun _ => .pure) .pure

theorem SeqKeeps.putPixel {u : SeqUnit} {d : ConvDesc} {sd : StoreDesc} {og oy ox : Nat} {el : List Bytes} :
    SeqKeeps (putPixel u d sd og oy ox el) :=
  .forM fun _ => .ite .seqPut .pure

theorem SeqKeeps.storeChunk {u : SeqUnit} {d : ConvDesc} {og oy : Nat} {px : List Nat} : SeqKeeps
  (storeChunk u d og oy px) :=
  .bind .groupDesc fun _ => .mapM fun _ => .bind .pixelOut fun _ =>
    .ite (.bind .putPixel fun _ => .pure) .pure

theorem SeqKeeps.rowGroup {u : SeqUnit} {d : ConvDesc} {hdr : Bytes} {oy og p0 : Nat} :
    SeqKeeps (rowGroup u d hdr oy og p0) := by
  have hstore : ∀ (p : Nat) (px : List Nat), SeqKeeps (do
      if p + 1 = d.passes then Machine.storeChunk u d og oy px
      else do
        if 1 < d.chunks.length then Machine.psumSave u d px
        Pure.pure []) := fun _ _ =>
    .ite .storeChunk (.ite (.bind .psumSave fun _ => .pure) .pure)
  have hpass : ∀ (p : Nat) (px : List Nat), SeqKeeps (do
      if d.dw then Machine.dwPass u d og oy px p else Machine.macPass u d hdr og oy px p
      if p + 1 = d.passes then Machine.storeChunk u d og oy px
      else do
        if 1 < d.chunks.length then Machine.psumSave u d px
        Pure.pure []) := fun p px =>
    .ite (.bind .dwPass fun _ => hstore p px) (.bind .macPass fun _ => hstore p px)
  refine .bind .groupDesc fun _ => .bind (.mapM fun p => .mapM fun px => ?_) fun _ => ?_
  · exact .ite (.bind .startChunk fun _ => hpass p px)
      (.ite (.bind .psumRestore fun _ => hpass p px) (hpass p px))
  · exact .ite (.ite (.bind .seqPut fun _ => .seqPut) .seqPut) .pure

theorem SeqKeeps.runRows {u : SeqUnit} {d : ConvDesc} {hdr : Bytes} {oy p0 n : Nat} : SeqKeeps (runRows u d hdr oy p0 n)
  :=
  .forM fun _ => .forM fun _ => .rowGroup

theorem SeqKeeps.codeHeader {u : SeqUnit} {d : ConvDesc} : SeqKeeps (codeHeader u d) :=
  .ite .seqTap .pure

theorem SeqKeeps.zcWidths {u : SeqUnit} {d : ConvDesc} : SeqKeeps (zcWidths u d) :=
  .ite (.bind (.mapM fun _ => .groupDesc) fun _ => .pure) .pure

theorem SeqKeeps.blockOk {u : SeqUnit} {d : ConvDesc} : SeqKeeps (blockOk u d) :=
  .bind .zcWidths fun _ => .bind .codeHeader fun _ => .pure

theorem SeqKeeps.runUnit {u : SeqUnit} {d : ConvDesc} {oy p0 n : Nat} : SeqKeeps (runUnit u d oy p0 n) :=
  .bind .codeHeader fun _ => .runRows

/-! ### SparRegs -/

protected theorem Keeps.coreMod {c : CoreId} {f : SparCore → SparCore} (h : Keeps r s) : Keeps r (coreMod s c f) :=
  .core rfl h

protected theorem Keeps.passCycles {c : CoreId} {stall : Option (Fin 10)} (h : Keeps r s) :
    Keeps r (passCycles s c stall) := .afterDraw (.coreMod h)

protected theorem Keeps.passIssue {c : CoreId} (h : Keeps r s) : Keeps r (passIssue s c) := .core rfl (.coreMod h)

protected theorem Keeps.spReadDraw {n : Nat} (h : Keeps r s) : Keeps r (spReadDraw s n) := .ite (.afterDraw h) h

protected theorem Keeps.cycCatchUp {c : CoreId} {n : Nat} (h : Keeps r s) : Keeps r (cycCatchUp s c n) :=
  .ite (.passCycles h) h

protected theorem Keeps.spBlockRead {c : CoreId} {off n : Nat} (h : Keeps r s) :
    KeepsSnd r (spBlockRead s c off n) := by
  unfold spBlockRead
  split
  · exact h
  · split
    · dsimp only
      exact .spReadDraw (.cycCatchUp h)
    · exact h

protected theorem Keeps.spBlockWrite {c : CoreId} {off n v : Nat} (h : Keeps r s) :
    Keeps r (spBlockWrite s c off n v) := .ite (.coreMod h) (.ite (.coreMod h) h)

protected theorem Keeps.execSpCntclr {c : CoreId} {v : W32} (h : Keeps r s) : KeepsNext r (execSpCntclr c v s) := by
  unfold execSpCntclr
  split
  · exact .coreMod h
  · exact h

protected theorem Keeps.msixRaise {v : Fin 32} (h : Keeps r s) : Keeps r (msixRaise s v) :=
  .ite (.core rfl h) (.emit h)

protected theorem Keeps.execMsixUnmask {vec : Fin 32} (h : Keeps r s) : KeepsNext r (execMsixUnmask vec s) := by
  unfold execMsixUnmask
  dsimp only
  split
  · exact h
  · split
    · exact .emit (.core rfl h)
    · exact .core rfl h

protected theorem Keeps.msixRaiseWrite {v : W32} (h : Keeps r s) : Keeps r (msixRaiseWrite s v) :=
  .ite h (.msixRaise h)

protected theorem Keeps.execPcieMsixRaise {v : W32} (h : Keeps r s) : KeepsNext r (execPcieMsixRaise v s) := by
  unfold execPcieMsixRaise
  split
  · exact .msixRaiseWrite h
  · exact h

/-! ### Csc -/

protected theorem Keeps.cscStat {i : Fin 10} (h : Keeps r s) : Keeps r (cscStat s i) := .core rfl h

protected theorem Keeps.planMod {p : PhtSlotId} {f : PlanSlot → PlanSlot} (h : Keeps r s) : Keeps r (planMod s p f) :=
  .core rfl h

protected theorem Keeps.planLoad {p : PhtSlotId} (h : Keeps r s) : Keeps r (planLoad s p) := by
  unfold planLoad
  dsimp only
  split
  · rename_i a t e
    have ht : KeepsSnd (α := Except BusErr Bytes) r (Except.error a, t) := e ▸ Keeps.seqRead h
    exact .planMod ht
  · rename_i gs t e
    have ht : KeepsSnd (α := Except BusErr Bytes) r (Except.ok gs, t) := e ▸ Keeps.seqRead h
    split
    · exact .planMod ht
    · split
      · rename_i a t1 e1
        have ht1 : KeepsSnd (α := Except BusErr Bytes) r (Except.error a, t1) := e1 ▸ Keeps.seqRead ht
        exact .planMod ht1
      · rename_i gs1 t1 e1
        have ht1 : KeepsSnd (α := Except BusErr Bytes) r (Except.ok gs1, t1) := e1 ▸ Keeps.seqRead ht
        exact .ite (.core rfl (.planMod ht1)) (.planMod ht1)

protected theorem Keeps.planLoadWrite {p : PhtSlotId} {v : W32} (h : Keeps r s) : Keeps r (planLoadWrite s p v) :=
  .ite (.planLoad h) h

protected theorem Keeps.execPlanLoad {p : PhtSlotId} {v : W32} (h : Keeps r s) :
    KeepsNext r (execPlanLoad p v s) := by
  unfold execPlanLoad
  split
  · exact .planLoadWrite h
  · exact h

protected theorem Keeps.planCoreLoad {c : CoreId} {p : PhtSlotId} (h : Keeps r s) :
    KeepsOpt r (planCoreLoad s c p) := by
  unfold planCoreLoad
  dsimp only
  split
  · rename_i a t e
    have ht : KeepsSnd (α := Except BusErr Bytes) r (Except.error a, t) := e ▸ Keeps.seqRead h
    trivial
  · rename_i gs t e
    have ht : KeepsSnd (α := Except BusErr Bytes) r (Except.ok gs, t) := e ▸ Keeps.seqRead h
    split
    · rename_i a t1 e1
      have ht1 : KeepsSnd (α := Except BusErr Bytes) r (Except.error a, t1) := e1 ▸ Keeps.seqRead ht
      trivial
    · rename_i gs1 t1 e1
      have ht1 : KeepsSnd (α := Except BusErr Bytes) r (Except.ok gs1, t1) := e1 ▸ Keeps.seqRead ht
      exact .coreMod (.wr ht1)

protected theorem Keeps.jobMod {tag : W16} {f : Job → Job} (h : Keeps r s) : Keeps r (jobMod s tag f) := .core rfl h

protected theorem Keeps.courseMod {t : CourseTag} {f : Course → Course} (h : Keeps r s) : Keeps r (courseMod s t f) :=
  .ite (.jobMod h) h

protected theorem Keeps.obdMod {t : CourseTag} {f : Obd → Obd} (h : Keeps r s) : Keeps r (obdMod s t f) := .core rfl h

protected theorem Keeps.obdSweep (h : Keeps r s) : Keeps r (obdSweep s) := .core rfl h

protected theorem Keeps.obdClose {t : CourseTag} (h : Keeps r s) : Keeps r (obdClose s t) := .obdSweep (.obdMod h)

protected theorem Keeps.obdRelease {c : CoreId} (h : Keeps r s) : Keeps r (obdRelease s c) := .obdSweep (.core rfl h)

protected theorem Keeps.obdCloseDropped {tag : W16} (h : Keeps r s) : Keeps r (obdCloseDropped s tag) := by
  unfold obdCloseDropped
  split
  · exact h
  · exact .obdSweep (.core rfl h)

protected theorem Keeps.obdRegister {t : CourseTag} {c : CoreId} (h : Keeps r s) : Keeps r (obdRegister s t c) :=
  .obdMod h

protected theorem Keeps.endWait {c : CoreId} {rd rs : Fin 32} {outcome addr : Nat} (h : Keeps r s) :
    Keeps r (endWait s c rd rs outcome addr) := .coreMod h

protected theorem Keeps.waitRecompute {c : CoreId} {t : CourseTag} {rd rs : Fin 32} (h : Keeps r s) :
    Keeps r (waitRecompute s c t rd rs) := by
  unfold waitRecompute
  refine .cscStat (.jobMod (.obdClose ?_))
  split
  · exact .courseMod (.obdMod (.endWait h))
  · exact .obdMod (.endWait h)

protected theorem Keeps.obWake (h : Keeps r s) : Keeps r (obWake s) := by
  unfold obWake
  refine (.ite h (.foldl h fun u a hf0 => ?_))
  split
  · split
    · exact .ite (.passCycles (.endWait hf0)) hf0
    · exact hf0
  · exact hf0

protected theorem Keeps.irqRaise {c : CoreId} {n : Nat} (h : Keeps r s) : Keeps r (irqRaise s c n) := .coreMod h

protected theorem Keeps.dtcmPut {c : CoreId} {ofs : Nat} {b : Bytes} (h : Keeps r s) : Keeps r (dtcmPut s c ofs b) :=
  .noteHomeWrite (.wr h)

protected theorem Keeps.fetchUpper {c : CoreId} {o : Obd} (h : Keeps r s) : Keeps r (fetchUpper s c o) := by
  unfold fetchUpper
  split
  · rename_i b t e
    have ht : KeepsSnd (α := Except BusErr Bytes) r (Except.ok b, t) := e ▸ Keeps.seqRead h
    exact .irqRaise (.dtcmPut ht)
  · rename_i e t e1
    have ht : KeepsSnd (α := Except BusErr Bytes) r (Except.error e, t) := e1 ▸ Keeps.seqRead h
    exact ht

protected theorem Keeps.obPublish {t : CourseTag} {c : CoreId} (h : Keeps r s) : Keeps r (obPublish s t c) := by
  unfold obPublish
  split
  · exact h
  · exact .ite (.cscStat (.core rfl h)) (.foldl (.obWake (.foldl (.core rfl h) (fun _ _ hf0 => .irqRaise hf0)))
      (fun _ _ hf0 => .fetchUpper hf0))

protected theorem Keeps.obWait {c : CoreId} {rd rs : Fin 32} (h : Keeps r s) : Keeps r (obWait s c rd rs) := by
  unfold obWait
  split
  · exact .endWait h
  · split
    · exact .endWait h
    · split
      · exact .endWait h
      · split
        · exact .endWait h
        · dsimp only
          split
          · exact .waitRecompute h
          · split
            · exact .ite (.endWait (.obdRegister h)) (.cscStat (.coreMod (.obdRegister h)))
            · exact .ite (.waitRecompute h) (.cscStat (.coreMod (.obdRegister h)))

protected theorem Keeps.execHaloWaitExpiry {c : CoreId} (h : Keeps r s) : KeepsNext r (execHaloWaitExpiry c s) := by
  unfold execHaloWaitExpiry
  split
  · split
    · exact h
    · split
      · exact h
      · dsimp only
        split
        · split
          · exact .endWait (.passCycles h)
          · split
            · exact .waitRecompute (.passCycles h)
            · exact .cscStat (.jobMod (.core rfl (.coreMod (.passCycles h))))
        · split
          · exact .waitRecompute (.passCycles h)
          · exact .cscStat (.jobMod (.core rfl (.coreMod (.passCycles h))))
  · exact h

protected theorem Keeps.obAlloc {t : CourseTag} {u : Option CoreId} {p : ObPlan} {size : Nat} (h : Keeps r s) :
    Keeps r (obAlloc s t u p size) := by
  unfold obAlloc
  split
  · exact .core rfl h
  · exact h

protected theorem Keeps.ownCourse {t : CourseTag} {u : Option CoreId} {region : Nat} {p : ObPlan} {size : Nat}
    (h : Keeps r s) :
    Keeps r (ownCourse s t u region p size) := .cscStat (.core rfl (.courseMod (.obAlloc h)))

protected theorem Keeps.startCourse {j : Job} {g : Group} {gi k : Nat} {c : CoreId} {entry region : Nat} {p : ObPlan}
    (h : Keeps r s) :
    Keeps r (startCourse s j g gi k c entry region p) := .coreMod (.ownCourse h)

protected theorem Keeps.tryCore {j : Job} {gi k : Nat} {c : CoreId} (h : Keeps r s) : KeepsOpt r (tryCore s j gi k c) :=
    by
  unfold tryCore
  split
  · trivial
  · split
    · trivial
    · have ht : KeepsOpt r (if (coreOf s c).plan = some j.plan then some s else planCoreLoad s c j.plan) := by
        split
        · exact h
        · exact Keeps.planCoreLoad h
      split
      · next e =>
        rw [e] at ht
        exact Keeps.startCourse ht
      · trivial
    · trivial

protected theorem Keeps.offerEaves {p : PhtSlotId} {g : Group} {k inp stage : Nat} (h : Keeps r s) :
    KeepsOpt r (offerEaves s p g k inp stage) := by
  unfold offerEaves
  split
  · rename_i a t e
    have ht : KeepsSnd (α := Except BusErr Bytes) r (Except.error a, t) := e ▸ Keeps.seqRead h
    trivial
  · rename_i gs t e
    have ht : KeepsSnd (α := Except BusErr Bytes) r (Except.ok gs, t) := e ▸ Keeps.seqRead h
    split
    · dsimp only
      split
      · rename_i val t1 e1
        have ht1 : KeepsSnd r (some val, t1) := e1 ▸ Keeps.ramWrite ht
        trivial
      · rename_i t1 e1
        have ht1 : KeepsSnd (α := Option BusErr) r (none, t1) := e1 ▸ Keeps.ramWrite ht
        exact .core rfl ht1

protected theorem Keeps.tryEaves {j : Job} {gi k : Nat} (h : Keeps r s) : KeepsOpt r (tryEaves s j gi k) := by
  unfold tryEaves
  split
  · dsimp only
    split
    · trivial
    · exact .map (Keeps.offerEaves h) fun _ hu => .core rfl (.ownCourse hu)
  · trivial

protected theorem Keeps.preAssign {c : CoreId} (h : Keeps r s) : Keeps r (preAssign s c) := by
  unfold preAssign
  split
  · exact h
  · split
    · exact h
    · next j gi k _ _ g _ =>
      extract_lets t assigned noted reg fetched src raised
      have hnoted : Keeps r noted := .coreMod (.courseMod h)
      have hreg : Keeps r reg := .obdRegister hnoted
      have hfetched : Keeps r fetched := by
        unfold fetched
        split
        · split
          · exact .ite (.fetchUpper hreg) hreg
          · exact hnoted
        · exact hnoted
      have hraised : Keeps r raised := .irqRaise hfetched
      split
      · exact hraised
      · have ht : KeepsSnd r (seqRead raised c.val (some c) src g.pfBytes.toNat) := .seqRead hraised
        split <;> rename_i e <;> rw [e] at ht
        · exact .irqRaise (.dtcmPut ht)
        · exact ht

protected theorem Keeps.afterStart {j : Job} {c : CoreId} (h : Keeps r s) : Keeps r (afterStart s j c) :=
  .ite h (.preAssign h)

protected theorem Keeps.ownPre (h : Keeps r s) : KeepsOpt r (ownPre s) := by
  unfold ownPre
  refine .findSome fun c => ?_
  split
  · split
    · split
      · exact .map (Keeps.tryCore h) fun _ hu => .afterStart hu
      · trivial
    · trivial
  · trivial

protected theorem Keeps.firstReady (h : Keeps r s) : KeepsOpt r (firstReady s) := by
  unfold firstReady
  refine .findSome fun (j, gi, k) => ?_
  have ht : KeepsOpt r (tryEaves s j gi k) := Keeps.tryEaves h
  dsimp only
  split
  · next e => rwa [e] at ht
  · exact .findSome fun _ => .map (Keeps.tryCore h) fun _ hu => .afterStart hu

protected theorem Keeps.execCourseDispatch (h : Keeps r s) : KeepsNext r (execCourseDispatch s) := by
  unfold execCourseDispatch
  split
  · exact h
  · split
    · rename_i t e
      have ht : KeepsOpt r (some t) := e ▸ Keeps.ownPre h
      exact ht
    · split
      · rename_i t e
        have ht : KeepsOpt r (some t) := e ▸ Keeps.firstReady h
        exact ht
      · exact h

protected theorem Keeps.execPlanCoreLoad {c : CoreId} (h : Keeps r s) : KeepsNext r (execPlanCoreLoad c s) := by
  unfold execPlanCoreLoad
  split
  · exact h
  · split
    · exact h
    · split
      · rename_i t e
        have ht : KeepsOpt r (some t) := e ▸ Keeps.planCoreLoad h
        exact ht
      · exact h

protected theorem Keeps.cancelPre {c : CoreId} (h : Keeps r s) : Keeps r (cancelPre s c) := by
  unfold cancelPre
  split
  · exact h
  · exact .cscStat (.coreMod (.core rfl h))

protected theorem Keeps.execCourseStealLocal (h : Keeps r s) : KeepsNext r (execCourseStealLocal s) := by
  unfold execCourseStealLocal
  split
  · exact h
  · split
    · exact h
    · next v _ =>
      split
      · exact h
      · next t _ =>
        split
        · exact h
        · next j _ =>
          have hu : KeepsOpt r ((allCores.filter fun c => coreFree s c && (coreOf s c).pre.isNone).findSome?
              (tryCore (cancelPre s v) j t.group.val t.course.toNat)) := .findSome fun _ => Keeps.tryCore (.cancelPre h)
          split
          · next e =>
            rw [e] at hu
            exact Keeps.cscStat hu
          · exact h

protected theorem Keeps.execPrefetchCancelDone {c : CoreId} (h : Keeps r s) :
    KeepsNext r (execPrefetchCancelDone c s) := by
  unfold execPrefetchCancelDone
  split
  · exact h
  · dsimp only
    split
    · exact .core rfl h
    · exact .obdSweep (.obdMod (.core rfl h))

protected theorem Keeps.recallCore {c : CoreId} {requeue : Bool} (h : Keeps r s) :
    Keeps r (recallCore s c requeue) := by
  unfold recallCore
  split
  · exact h
  · exact .ite h (.irqRaise (.coreMod (.courseMod h)))

protected theorem Keeps.returnPre {c : CoreId} {drop : Bool} (h : Keeps r s) : Keeps r (returnPre s c drop) := by
  unfold returnPre
  split
  · exact h
  · exact .cancelPre (.courseMod h)

protected theorem Keeps.stopJob {tag : W16} {cause : BitVec 3} {fault : W32} (h : Keeps r s) :
    Keeps r (stopJob s tag cause fault) := by
  unfold stopJob
  split
  · exact h
  · dsimp only
    exact .obdCloseDropped
      (.jobMod (.ite (.courseMod (.foldl (.foldl (.jobMod h) (fun _ _ hf0 => (.ite (.returnPre hf0) hf0)))
        (fun _ _ hf0 => (.ite (.recallCore hf0) hf0))))
          (.foldl (.foldl (.jobMod h) (fun _ _ hf0 => (.ite (.returnPre hf0) hf0)))
            (fun _ _ hf0 => (.ite (.recallCore hf0) hf0)))))

protected theorem Keeps.discardObds {u : Option CoreId} {t : CourseTag} {requeue : Bool} (h : Keeps r s) :
    Keeps r (discardObds s u t requeue) := .ite (.core rfl h) (.obdClose (.core rfl h))

protected theorem Keeps.execCourseRecall {c : CoreId} (h : Keeps r s) : KeepsNext r (execCourseRecall c s) := by
  unfold execCourseRecall
  dsimp only
  split
  · split
    · exact h
    · exact .coreMod (.discardObds (.obdRelease h))
  · exact h

protected theorem Keeps.commitCourse {t : CourseTag} (h : Keeps r s) : Keeps r (commitCourse s t) :=
  .ite (.core rfl (.courseMod h)) (.obdClose (.core rfl (.courseMod h)))

protected theorem Keeps.doneEnd {c : CoreId} (h : Keeps r s) : Keeps r (doneEnd s c) := .coreMod (.obdRelease h)

protected theorem Keeps.doneIssue {c : CoreId} (h : Keeps r s) : Keeps r (doneIssue s c) :=
  .ite (.coreMod h) (.doneEnd h)

protected theorem Keeps.execCourseCommit {u : Fin 17} (h : Keeps r s) : KeepsNext r (execCourseCommit u s) := by
  unfold execCourseCommit
  split
  · exact h
  · split
    · split
      · split
        · dsimp only
          exact .ite (.commitCourse (.core rfl h)) (.discardObds (.core rfl h))
        · exact h
      · exact h
    · dsimp only
      split
      · split
        · exact .ite (.commitCourse (.coreMod h)) (.discardObds (.coreMod h))
        · exact h
      · exact h

protected theorem Keeps.copyRow {g : Group} {src dst b k r1 : Nat} (h : Keeps r s) :
    Keeps r (copyRow s g src dst b k r1) := by
  unfold copyRow
  dsimp only
  split
  · rename_i b1 t e
    have ht : KeepsSnd (α := Except BusErr Bytes) r (Except.ok b1, t) := e ▸ Keeps.seqRead h
    exact .seqWrite ht
  · rename_i e t e1
    have ht : KeepsSnd (α := Except BusErr Bytes) r (Except.error e, t) := e1 ▸ Keeps.seqRead h
    exact ht

protected theorem Keeps.copyCourse {j : Job} {g : Group} {k region : Nat} (h : Keeps r s) :
    Keeps r (copyCourse s j g k region) := by
  unfold copyCourse
  split
  · exact .foldl h (fun _ _ hf0 => .foldl hf0 (fun _ _ hf0 => .copyRow hf0))

protected theorem Keeps.execCommitCopyDone (h : Keeps r s) : KeepsNext r (execCommitCopyDone s) := by
  unfold execCommitCopyDone
  split
  · exact h
  · split
    · exact h
    · dsimp only
      split
      · split
        · split
          · exact .core rfl h
          · exact .courseMod (.core rfl h)
        · split
          · exact .core rfl (.copyCourse h)
          · exact .courseMod (.core rfl (.copyCourse h))
      · split
        · exact .core rfl h
        · exact .courseMod (.core rfl h)

protected theorem Keeps.completeSlot {q : QueueId} {i : BitVec 9} (h : Keeps r s) : Keeps r (completeSlot s q i) :=
  .ite (.msixRaise (.core rfl h)) (.core rfl h)

protected theorem Keeps.countLate {j : Job} (h : Keeps r s) : Keeps r (countLate s j) :=
  .ite (.raiseLimited (.core rfl h)) h

protected theorem Keeps.completeJob {j : Job} (h : Keeps r s) : Keeps r (completeJob s j) :=
  .countLate (.completeSlot (.core rfl (.foldl (.wr h) (fun _ _ hf0 => .slotFree hf0))))

protected theorem Keeps.execJobComplete {tag : W16} (h : Keeps r s) : KeepsNext r (execJobComplete tag s) := by
  unfold execJobComplete
  split
  · exact h
  · split
    · exact .completeJob h
    · exact h

protected theorem Keeps.releasedSeen (h : Keeps r s) : Keeps r (releasedSeen s) := .core rfl h

protected theorem Keeps.takeHead {q : QueueId} {j : Job} {o : Option ASetOffered} (h : Keeps r s) :
    Keeps r (takeHead s q j o) := by
  unfold takeHead
  split
  · exact .core rfl (.foldl (.core rfl h) (fun _ _ hf0 => .slotMod hf0))
  · exact .foldl (.core rfl h) (fun _ _ hf0 => .slotMod hf0)

protected theorem Keeps.abortIfStuck {j : Job} (h : Keeps r s) : Keeps r (abortIfStuck s j) :=
  .ite (.stopJob (.jobMod h)) h

protected theorem Keeps.execJobTake (h : Keeps r s) : KeepsNext r (execJobTake s) := by
  unfold execJobTake
  split
  · exact h
  · split
    · exact h
    · split
      · exact h
      · split
        · dsimp only
          exact .completeJob (.takeHead h)
        · split
          · exact h
          · dsimp only
            split
            · exact .completeJob (.takeHead h)
            · exact .abortIfStuck (.takeHead h)

protected theorem Keeps.expireJob {j : Job} (h : Keeps r s) : Keeps r (expireJob s j) :=
  .ite (.stopJob (.jobMod h)) (.jobMod h)

protected theorem Keeps.deadlineSourceLoss (h : Keeps r s) : Keeps r (deadlineSourceLoss s) := by
  unfold deadlineSourceLoss
  refine .foldl h fun u a hf0 => ?_
  split
  · exact .ite (.expireJob hf0) hf0
  · exact hf0

protected theorem Keeps.execDeadlinePhaseCross {tag : W16} (h : Keeps r s) :
    KeepsNext r (execDeadlinePhaseCross tag s) := by
  unfold execDeadlinePhaseCross
  split
  · split
    · split
      · exact .jobMod h
      · exact h
    · exact h
  · exact h

protected theorem Keeps.execDeadlineExpire {tag : W16} (h : Keeps r s) : KeepsNext r (execDeadlineExpire tag s) := by
  unfold execDeadlineExpire
  split
  · split
    · split
      · exact .ite (.jobMod h) (.expireJob h)
      · exact h
    · exact h
  · exact h

protected theorem Keeps.fenceCourse {c : CoreId} (h : Keeps r s) : Keeps r (fenceCourse s c) := by
  unfold fenceCourse
  dsimp only
  split
  · exact .core rfl (.returnPre h)
  · exact .ite (.cscStat (.jobMod (.courseMod (.core rfl (.returnPre h))))) (.core rfl (.returnPre h))

protected theorem Keeps.planFaultJob {c : CoreId} {code : W16} (h : Keeps r s) : Keeps r (planFaultJob s c code) := by
  unfold planFaultJob
  dsimp only
  split
  · exact h
  · exact .ite (.stopJob (.coreMod (.ite (.courseMod (.discardObds (.obdRelease h))) (.discardObds (.obdRelease h)))))
      (.coreMod (.ite (.courseMod (.discardObds (.obdRelease h))) (.discardObds (.obdRelease h))))

protected theorem Keeps.fenceEaves (h : Keeps r s) : Keeps r (fenceEaves s) := by
  unfold fenceEaves
  dsimp only
  refine .core rfl ?_
  split
  · exact .ite (.cscStat (.jobMod (.courseMod h))) h
  · exact h

protected theorem Keeps.abortStuck (h : Keeps r s) : Keeps r (abortStuck s) :=
  .foldl h (fun _ _ hf0 => .abortIfStuck hf0)

protected theorem Keeps.execRemoteStealRequest (h : Keeps r s) : KeepsNext r (execRemoteStealRequest s) := by
  unfold execRemoteStealRequest
  dsimp only
  split
  · split
    · rename_i tag t e
      have ht : KeepsRemTry r (RemTry.sent tag t) := e ▸ Keeps.remoteRequest h
      exact .cscStat (.core rfl ht)
    · exact .core rfl h
    · exact h
  · exact h

protected theorem Keeps.execSteal {thief : ChipId} {core : Fin 16} {hashes : List (PhtSlotId × W64)} (h : Keeps r s) :
    KeepsNext r (execSteal thief core hashes s) := by
  unfold execSteal
  split
  · exact h
  · split
    · exact .sendOwn h
    · split
      · exact .sendOwn h
      · exact .sendOwn (.cscStat (.jobMod (.courseMod h)))

protected theorem Keeps.startStolen {peer : ChipId} {b : Bytes} (h : Keeps r s) : KeepsOpt r (startStolen s peer b) :=
    by
  unfold startStolen
  extract_lets p t
  split
  · trivial
  · dsimp only
    split
    · refine .findSome fun c => .map ?_ fun _ hu => .coreMod (.core rfl hu)
      split
      · exact h
      · exact Keeps.planCoreLoad h
    · split
      · exact .map (Keeps.offerEaves h) fun _ hu => .core rfl hu
      · trivial

protected theorem Keeps.execStealresp {peer : ChipId} {course : Option Bytes} (h : Keeps r s) :
    KeepsNext r (execStealresp peer course s) := by
  unfold execStealresp
  split
  · exact h
  · split
    · exact h
    · dsimp only
      split
      · exact .core rfl h
      · split
        · rename_i t e
          have ht : KeepsOpt r (some t) := by rw [← e]; exact Keeps.startStolen (.core rfl h)
          exact ht
        · exact .core rfl h

protected theorem Keeps.pullRows {j : Job} {g : Group} {k : Nat} (h : Keeps r s) : Keeps r (pullRows s j g k) := by
  unfold pullRows
  split
  · dsimp only
    exact .foldl h (fun _ _ hf0 => .foldl hf0 (fun _ _ hf0 => .seqWrite (.core rfl hf0)))

protected theorem Keeps.execRemotePullDone {ok : Bool} {tag : W16} {group : Fin 64} {course : Nat} (h : Keeps r s) :
    KeepsNext r (execRemotePullDone ok tag group course s) := by
  unfold execRemotePullDone
  split
  · exact h
  · split
    · dsimp only
      split
      · exact h
      · split
        · exact .ite (.ite (.core rfl (.courseMod (.pullRows h))) (.courseMod (.pullRows h)))
            (.obdClose (.ite (.core rfl (.courseMod (.pullRows h))) (.courseMod (.pullRows h))))
        · exact .abortStuck (.jobMod (.courseMod h))
    · exact h

protected theorem Keeps.cscChipLost {c : ChipId} (h : Keeps r s) : Keeps r (cscChipLost s c) := by
  unfold cscChipLost
  refine .foldl (.abortStuck (.core rfl h)) fun u a hf0 => ?_
  split
  · exact .ite (.recallCore hf0) hf0
  · exact hf0

protected theorem Keeps.cscWrite {off : Nat} {v : W32} (h : Keeps r s) : Keeps r (cscWrite s off v) := by
  unfold cscWrite
  split
  · exact .core rfl h
  · exact .core rfl h
  · exact .core rfl h
  · exact .core rfl h
  · exact .core rfl h
  · exact .core rfl h
  · exact .core rfl h
  · exact .core rfl h
  · exact .core rfl h
  · split
    · dsimp only
      split
      · exact .ite h (.planMod h)
      · exact .ite h (.planMod h)
      · exact .planLoadWrite h
      · exact h
    · exact h

/-! ### Fault -/

protected theorem Keeps.countClass {cls : Byte} (h : Keeps r s) : Keeps r (countClass s cls) := .core rfl h

protected theorem Keeps.twMod {n : TwId} {f : TwPort → TwPort} (h : Keeps r s) : Keeps r (twMod s n f) := .core rfl h

protected theorem Keeps.twCondition {n : TwId} {code : Nat} (h : Keeps r s) : Keeps r (twCondition s n code) := by
  unfold twCondition
  split
  · exact .raiseStanding (.twMod h)
  · exact .raiseStanding (.twMod h)
  · exact .raiseLimited h
  · exact .raiseStanding (.twMod h)
  · exact .clearStanding (.twMod h)
  · exact h

protected theorem Keeps.mgcReport {unit cls : Byte} {code : W16} {detail : W64} (h : Keeps r s) :
    Keeps r (mgcReport s unit cls code detail) := by
  unfold mgcReport
  split
  · exact .ite (.raiseEmcy (.countClass h))
      (.ite (.raiseEmcy (.countClass h)) (.ite (.portGoDown (.countClass h)) (.countClass h)))
  · exact .raiseEmcy (.countClass h)
  · exact .raiseEmcy (.countClass h)
  · exact .ite (.twCondition (.countClass h)) (.countClass h)
  · exact .countClass h

protected theorem Keeps.fenceFault {unit : Nat} {code : W16} (h : Keeps r s) : Keeps r (fenceFault s unit code) :=
  .ite h (.ite (.fenceCourse (.coreMod (.fenceLine (.core rfl h))))
    (.ite (.fenceEaves (.core rfl (.fenceLine (.core rfl h)))) (.fenceLine (.core rfl h))))

protected theorem Keeps.eccCount {unit cls : Byte} {detail : W64} (h : Keeps r s) :
    Keeps r (eccCount s unit cls detail) := .ite h (.ite (.core rfl h) (.ite (.core rfl h) h))

protected theorem Keeps.reportFault {unit cls : Byte} {code : W16} {detail : W64} (h : Keeps r s) :
    Keeps r (reportFault s unit cls code detail) :=
  .ite (.fenceFault (.ite (.mgcReport (.cleatCPut (.eccCount h))) (.cleatCPut (.eccCount h))))
    (.ite (.mgcReport (.cleatCPut (.eccCount h))) (.cleatCPut (.eccCount h)))

protected theorem Keeps.planFault {c : CoreId} {code : W16} {detail : Nat} (h : Keeps r s) :
    Keeps r (planFault s c code detail) := .planFaultJob (.reportFault (.coreMod h))

protected theorem Keeps.execSparWatchdog {c : CoreId} (h : Keeps r s) : KeepsNext r (execSparWatchdog c s) := by
  unfold execSparWatchdog
  split
  · exact .reportFault h
  · exact h

protected theorem Keeps.execTcmError {c : CoreId} {e : TcmErr} (h : Keeps r s) :
    KeepsNext r (execTcmError c e s) := by
  unfold execTcmError
  split
  · exact h
  · split
    · exact .coreMod h
    · exact .reportFault h
    · exact .reportFault h

/-! ### Route -/

protected theorem Keeps.sendMgmt {kind : Nat} {args : List Nat} {dst : ChipId} (h : Keeps r s) :
    Keeps r (sendMgmt s kind args dst) := .ite h (.sendOwn h)

protected theorem Keeps.sayHello {r1 : HelloRec} {p : ShlId} (h : Keeps r s) : Keeps r (sayHello r1 s p) := by
  unfold sayHello
  split
  · exact .ite (.enqueue h) h
  · exact h

protected theorem Keeps.flood {r1 : HelloRec} (h : Keeps r s) : Keeps r (flood s r1) :=
  .foldl h (fun _ _ hf0 => .sayHello hf0)

protected theorem Keeps.floodOwn (h : Keeps r s) : Keeps r (floodOwn s) := .ite (.flood h) h

protected theorem Keeps.routeAnswer {w : Session} {a : Answer} (h : Keeps r s) : Keeps r (routeAnswer s w a) := by
  unfold routeAnswer
  split
  · exact h
  · dsimp only
    split
    · exact .answerSess (.ite (.core rfl h) (.core rfl h))
    · exact .answerSess (.core rfl h)

protected theorem Keeps.routeAbort {p : ChipId → Bool} {code : Nat} (h : Keeps r s) : Keeps r (routeAbort s p code) :=
  .foldl h (fun _ _ hf0 => .routeAnswer hf0)

protected theorem Keeps.answerOrigin {o : Origin} {index sub : Nat} {a : Answer} (h : Keeps r s) :
    Keeps r (answerOrigin s o index sub a) := by
  unfold answerOrigin
  split
  · exact .answerSess h
  · exact .sendMgmt h
  · exact .routeAnswer h
  · exact h

/-! ### TwoWire -/

protected theorem Keeps.twReport {n : TwId} {code : Nat} (h : Keeps r s) : Keeps r (twReport s n code) :=
  .ite (.twCondition h) (.reportFault h)

protected theorem Keeps.xferEnd {n : TwId} {x : TwXfer} {stamp : Bytes} {result bytes attempts : Nat} {rd : Bytes}
    (h : Keeps r s) :
    Keeps r (xferEnd s n x stamp result bytes attempts rd) := by
  unfold xferEnd
  split
  · exact .twMod (.twMod h)
  · exact .answerOrigin (.twMod (.twMod h))
  · exact .twMod (.twMod h)

protected theorem Keeps.curEnd {n : TwId} {result bytes : Nat} {rd : Bytes} (h : Keeps r s) :
    Keeps r (curEnd s n result bytes rd) := by
  unfold curEnd
  split
  · exact h
  · exact .xferEnd (.twMod h)

protected theorem Keeps.curCut {n : TwId} {result : Nat} (h : Keeps r s) : Keeps r (curCut s n result) := by
  unfold curCut
  split
  · exact h
  · dsimp only
    exact .curEnd (.afterDraw h)

protected theorem Keeps.xferStart {n : TwId} {c : TwCur} (h : Keeps r s) : Keeps r (xferStart s n c) :=
  .emit (.twMod h)

protected theorem Keeps.xferDue {n : TwId} {x : TwXfer} (h : Keeps r s) : Keeps r (xferDue s n x) :=
  .ite (.xferEnd h) (.twMod h)

protected theorem Keeps.twCmdWrite {n : TwId} {v : W32} (h : Keeps r s) : Keeps r (twCmdWrite s n v) :=
  .ite h (.ite (.xferDue (.twMod (.twMod h))) (.twMod h))

protected theorem Keeps.execTwCommand {n : TwId} {v : W32} (h : Keeps r s) : KeepsNext r (execTwCommand n v s) := by
  unfold execTwCommand
  split
  · exact .twCmdWrite h
  · exact h

protected theorem Keeps.twObjectWrite {o : Origin} {n : CanPort} {data : Bytes} (h : Keeps r s) :
    KeepsSnd r (twObjectWrite o n data s) := by
  unfold twObjectWrite
  dsimp only
  split
  · exact h
  · split
    · exact h
    · exact .xferDue (.twMod h)

protected theorem Keeps.execTwTransferObject {w : Session} {n : CanPort} {data : Bytes} (h : Keeps r s) :
    KeepsNext r (execTwTransferObject w n data s) := by
  unfold execTwTransferObject
  refine Keeps.openAccess h fun u hf0 => ?_
  split
  · split
    · rename_i c t e
      have ht : KeepsSnd r (c, t) := e ▸ Keeps.twObjectWrite hf0
      exact .ite ht (.answerSess ht)
  · exact .answerSess hf0

protected theorem Keeps.twPoll {ctx : Nat} (h : Keeps r s) : Keeps r (twPoll s ctx) := by
  unfold twPoll
  dsimp only
  split
  · exact h
  · exact .ite h (.xferDue (.ctxPut h))

protected theorem Keeps.execTwPollDue {ctx : BitVec 12} (h : Keeps r s) : KeepsNext r (execTwPollDue ctx s) :=
  .ite h (.twPoll h)

protected theorem Keeps.twSlotPolls {slot : Nat} (h : Keeps r s) : Keeps r (twSlotPolls s slot) :=
  .foldl h (fun _ _ hf0 => .twPoll hf0)

protected theorem Keeps.execTwPollDone {ctx : BitVec 12} (h : Keeps r s) : KeepsNext r (execTwPollDone ctx s) := by
  unfold execTwPollDone
  dsimp only
  split
  · exact h
  · split
    · exact h
    · split
      · exact .ctxPut (.twMod h)
      · split
        · exact .ctxPut (.twMod h)
        · split
          · rename_i t e
            have ht : KeepsSnd (α := Option Nat) r (none, t) := e ▸ Keeps.tryAdmit (.ctxPut (.twMod h))
            exact ht
          · rename_i k t e
            have ht : KeepsSnd r (some k, t) := e ▸ Keeps.tryAdmit (.ctxPut (.twMod h))
            exact .slotReady (.slotStore (.slotStore ht))

protected theorem Keeps.execTwTransferStart {n : TwId} (h : Keeps r s) : KeepsNext r (execTwTransferStart n s) := by
  unfold execTwTransferStart
  dsimp only
  split
  · exact h
  · split
    · exact h
    · exact .xferStart (.twMod h)

protected theorem Keeps.execTwTransferEnd {n : TwId} {e : TwEnd} (h : Keeps r s) :
    KeepsNext r (execTwTransferEnd n e s) := by
  unfold execTwTransferEnd
  dsimp only
  split
  · exact h
  · split
    · exact h
    · split
      · exact .curEnd h
      · exact .curEnd (.twMod h)
      · split
        · exact .xferStart (.twMod h)
        · exact .curEnd (.twMod h)

protected theorem Keeps.targetBegin {n : TwId} {addrByte : Byte} (h : Keeps r s) :
    Keeps r (targetBegin s n addrByte) := .twMod h

protected theorem Keeps.execTwArbLost {n : TwId} {byte bit : Nat} {addrByte : Byte} (h : Keeps r s) :
    KeepsNext r (execTwArbLost n byte bit addrByte s) := by
  unfold execTwArbLost
  dsimp only
  split
  · exact h
  · split
    · exact h
    · split
      · exact .emit (.targetBegin (.twMod (.twMod h)))
      · split
        · exact .curEnd (.twMod h)
        · exact .twMod (.twMod h)

protected theorem Keeps.execTwArbRetry {n : TwId} (h : Keeps r s) : KeepsNext r (execTwArbRetry n s) := by
  unfold execTwArbRetry
  dsimp only
  split
  · split
    · exact .xferStart h
    · exact h
  · exact h

protected theorem Keeps.execTwTargetAddress {n : TwId} {addrByte : Byte} (h : Keeps r s) :
    KeepsNext r (execTwTargetAddress n addrByte s) := by
  unfold execTwTargetAddress
  dsimp only
  split
  · exact h
  · split
    · split
      · exact .emit (.targetBegin h)
      · exact .twMod h
    · split
      · exact .emit (.targetBegin h)
      · exact .twMod h

protected theorem Keeps.execTwTargetWriteByte {n : TwId} {b : Byte} (h : Keeps r s) :
    KeepsNext r (execTwTargetWriteByte n b s) := by
  unfold execTwTargetWriteByte
  dsimp only
  split
  · split
    · exact h
    · split <;> exact .emit (.twMod h)
  · exact h

protected theorem Keeps.execTwTargetReadByte {n : TwId} {ack : Bool} (h : Keeps r s) :
    KeepsNext r (execTwTargetReadByte n ack s) := by
  unfold execTwTargetReadByte
  dsimp only
  split
  · split
    · exact h
    · exact .emit (.twMod h)
  · exact h

protected theorem Keeps.execTwStop {n : TwId} {restart : Bool} (h : Keeps r s) :
    KeepsNext r (execTwStop n restart s) := by
  unfold execTwStop
  dsimp only
  split
  · split
    · exact h
    · split <;> exact .twMod h
  · exact h

protected theorem Keeps.windowWrite {n : TwId} {off : Byte} {data : Bytes} (h : Keeps r s) :
    Keeps r (windowWrite s n off data) := .ite (.twMod h) (.ite (.twMod h) (.twMod h))

protected theorem Keeps.execTwWindowInternalWrite {n : TwId} {offset : Byte} {data : Bytes} (h : Keeps r s) :
    KeepsNext r (execTwWindowInternalWrite n offset data s) := by
  unfold execTwWindowInternalWrite
  split
  · exact .windowWrite h
  · exact h

protected theorem Keeps.execTwBusFree {n : TwId} (h : Keeps r s) : KeepsNext r (execTwBusFree n s) := by
  unfold execTwBusFree
  dsimp only
  split
  · split
    · exact h
    · exact .twMod h
  · split
    · exact h
    · exact .twMod h

protected theorem Keeps.twCfgWrite {n : TwId} {v : W32} (h : Keeps r s) : Keeps r (twCfgWrite s n v) :=
  .ite h (.ite (.twMod h) (.twMod (.curCut h)))

protected theorem Keeps.execTwEnableWrite {n : TwId} {v : W32} (h : Keeps r s) :
    KeepsNext r (execTwEnableWrite n v s) := by
  unfold execTwEnableWrite
  split
  · exact .twCfgWrite h
  · exact h

protected theorem Keeps.execTwDoze {n : CanPort} (h : Keeps r s) : KeepsNext r (execTwDoze n s) := by
  unfold execTwDoze
  dsimp only
  split
  · exact .twMod h
  · exact h

protected theorem Keeps.execTwDozeWake {n : CanPort} {addrByte : Byte} (h : Keeps r s) :
    KeepsNext r (execTwDozeWake n addrByte s) := by
  unfold execTwDozeWake
  dsimp only
  split
  · exact h
  · split
    · exact .emit (.targetBegin (.twMod h))
    · exact .twMod h

protected theorem Keeps.execTwSleep {n : TwId} (h : Keeps r s) : KeepsNext r (execTwSleep n s) := by
  unfold execTwSleep
  split
  · exact .twMod h
  · exact h

protected theorem Keeps.execTwSleepWake {n : TwId} {addrByte : Byte} (h : Keeps r s) :
    KeepsNext r (execTwSleepWake n addrByte s) := by
  unfold execTwSleepWake
  dsimp only
  split
  · exact .twMod h
  · exact h

protected theorem Keeps.execTwStartDetected {n : TwId} (h : Keeps r s) : KeepsNext r (execTwStartDetected n s) := by
  unfold execTwStartDetected
  split
  · exact h
  · exact .twMod h

protected theorem Keeps.execTwBusTimeout {n : TwId} (h : Keeps r s) : KeepsNext r (execTwBusTimeout n s) := by
  unfold execTwBusTimeout
  split
  · exact h
  · exact .twReport (.twMod (.ite (.curCut h) h))

protected theorem Keeps.twContextsLost {n : TwId} (h : Keeps r s) : Keeps r (twContextsLost s n) := by
  refine h.setCap fun hw => ?_
  rw [State.capWf, Bool.and_eq_true] at hw ⊢
  refine ⟨?_, hw.2⟩
  have hmap : (s.cap.ctxs.map fun e => if e.2.en && ctxTw e.2 == some n then (e.1, { e.2 with st := 3 }) else e)
      = s.cap.ctxs.map fun e => (e.1, if e.2.en && ctxTw e.2 == some n then { e.2 with st := 3 } else e.2) :=
    List.map_congr_left fun e _ => by split <;> rfl
  rw [hmap]
  refine Tbl.wfFrom_map (f := fun v => if v.en && ctxTw v == some n then { v with st := 3 } else v) (fun _ v hv => ?_)
    hw.1
  split
  · next hen =>
    intro he
    have hen' : v.en = false := congrArg Ctx.en he
    simp [hen'] at hen
  · exact hv

protected theorem Keeps.twFault {n : TwId} {cause : Nat} (h : Keeps r s) : Keeps r (twFault s n cause) :=
  .twReport (.twContextsLost (.foldl (.twMod (.curCut (.twMod h))) (fun _ _ hf0 => .xferEnd hf0)))

protected theorem Keeps.execTwSclFault {n : TwId} (h : Keeps r s) : KeepsNext r (execTwSclFault n s) := by
  unfold execTwSclFault
  split
  · exact .twFault h
  · exact h

protected theorem Keeps.execTwRecovery {n : TwId} {freed : Bool} (h : Keeps r s) :
    KeepsNext r (execTwRecovery n freed s) := by
  unfold execTwRecovery
  split
  · exact h
  · dsimp only
    exact .ite (.twMod (.curCut h)) (.twFault (.twMod (.curCut h)))

protected theorem Keeps.twReenableWrite {n : TwId} {v : Nat} (h : Keeps r s) :
    KeepsSnd r (twReenableWrite n v s) := by
  unfold twReenableWrite
  split
  · exact h
  · split
    · dsimp only
      exact .clearStanding (.twMod h)
    · exact h

protected theorem Keeps.execTwReenable {w : Session} {n : TwId} {v : Byte} (h : Keeps r s) :
    KeepsNext r (execTwReenable w n v s) := Keeps.objCmd h (fun _ hf0 => Keeps.twReenableWrite hf0)

protected theorem Keeps.execTwSdaLow {n : TwId} (h : Keeps r s) : KeepsNext r (execTwSdaLow n s) := by
  unfold execTwSdaLow
  dsimp only
  split
  · exact .twReport (.twMod h)
  · exact h

protected theorem Keeps.execTwSdaRise {n : TwId} (h : Keeps r s) : KeepsNext r (execTwSdaRise n s) := by
  unfold execTwSdaRise
  dsimp only
  split
  · exact .twReport (.twMod h)
  · exact h

protected theorem Keeps.twRead {n : TwId} {off : Nat} (h : Keeps r s) : KeepsSnd r (twRead s n off) := by
  unfold twRead
  split
  · exact h
  · exact h
  · exact h
  · exact h
  · exact h
  · exact h
  · exact .twMod h
  · exact h
  · exact h
  · exact .twMod h
  · exact .twMod h
  · split
    · exact h
    · split
      · exact h
      · split <;> exact h

protected theorem Keeps.twWrite {n : TwId} {off : Nat} {v : W32} (h : Keeps r s) : Keeps r (twWrite s n off v) := by
  unfold twWrite
  split
  · exact .twCfgWrite h
  · exact .twMod h
  · exact .twMod h
  · exact .twMod h
  · exact .twCmdWrite h
  · exact .twMod h
  · exact .ite (.twMod h) (.ite (.windowWrite h) h)

/-! ### Io -/

protected theorem Keeps.execIoEdge {pin : Fin 32} {level : Bool} (h : Keeps r s) :
    KeepsNext r (execIoEdge pin level s) := .core rfl h

protected theorem Keeps.ioWrite {off : Nat} {v : W32} (h : Keeps r s) : Keeps r (ioWrite s off v) := .core rfl h

/-! ### Ee -/

protected theorem Keeps.eeEnd {a status rdBytes : Nat} (h : Keeps r s) : Keeps r (eeEnd s a status rdBytes) :=
  .core rfl (.ramWrite (.ramWrite h))

protected theorem Keeps.execEeDescriptor (h : Keeps r s) : KeepsNext r (execEeDescriptor s) := by
  unfold execEeDescriptor
  split
  · exact h
  · split
    · exact h
    · dsimp only
      split
      · rename_i a t e
        have ht : KeepsSnd (α := Except BusErr Bytes) r (Except.error a, t) := by
          rw [← e]; exact Keeps.ramRead (.core rfl h)
        exact .eeEnd ht
      · rename_i gs t e
        have ht : KeepsSnd (α := Except BusErr Bytes) r (Except.ok gs, t) := by
          rw [← e]; exact Keeps.ramRead (.core rfl h)
        split
        · exact .eeEnd (.core rfl ht)
        · split
          · exact .eeEnd (.core rfl ht)
          · exact .core rfl ht

protected theorem Keeps.execEeDescriptorEnd (h : Keeps r s) : KeepsNext r (execEeDescriptorEnd s) := by
  unfold execEeDescriptorEnd
  split
  · exact h
  · next a _ =>
    have hrun : SeqKeeps (do
        if ← Machine.blockOk eeUnit (convDesc s.ee.edesc) then
          Machine.runUnit eeUnit (convDesc s.ee.edesc) (convDesc s.ee.edesc).oy0 0
            ((convDesc s.ee.edesc).rowEnd - (convDesc s.ee.edesc).oy0)
          Pure.pure true
        else Pure.pure false : SeqM Bool) :=
      .bind .blockOk fun _ => .ite (.bind .runUnit fun _ => .pure) .pure
    have hs := hrun (Keeps r) (eeStart s) (Keeps.seqClosed r) h
    split
    · exact h
    · dsimp only [ExceptT.run] at hs ⊢
      split
      rename_i e
      rw [e] at hs
      split
      · exact Keeps.eeEnd h
      · exact Keeps.eeEnd (.core rfl hs)
      · exact Keeps.eeEnd (.core rfl hs)

protected theorem Keeps.execEeError {mac : Bool} (h : Keeps r s) : KeepsNext r (execEeError mac s) := by
  unfold execEeError
  split
  · exact .reportFault h
  · exact h

protected theorem Keeps.eeRead {off : Nat} (h : Keeps r s) : KeepsSnd r (eeRead s off) := by
  unfold eeRead
  split
  · exact h
  · exact .afterDraw (.core rfl h)
  · exact .afterDraw (.core rfl h)
  · exact h
  · exact h
  · exact h
  · exact h

protected theorem Keeps.eeWrite {off : Nat} {v : W32} (h : Keeps r s) : Keeps r (eeWrite s off v) :=
  .ite (.core rfl h) h

/-! ### Trim -/

protected theorem Keeps.trimMod {f : Trim → Trim} (h : Keeps r s) : Keeps r (trimMod s f) := .core rfl h

theorem snd_ite {α : Type} {P : State → Prop} {c : Prop} [Decidable c] {x y : α × State} (hx : P x.2) (hy : P y.2) :
    P (if c then x else y).2 := by
  split <;> assumption

section
variable {P : State → Prop} (hP : ReadClosed P)
include hP

theorem ReadClosed.trimRead {a n : Nat} (h : P s) : P (trimRead s a n).2 := by
  have ht := hP.read h trimInit none a n
  unfold Machine.trimRead
  split <;> (rename_i e; rw [e] at ht; exact ht)

theorem ReadClosed.loadDense {base : Nat} {l : List (Nat × Nat)} (h : P s) : P (loadDense base l s).2 := by
  induction l generalizing s with
  | nil => exact h
  | cons a l ih =>
    unfold Machine.loadDense
    have h1 := hP.trimRead (a := base + a.1 * 0x20000 + (256 * a.2 + a.2 + 1) * 2) (n := (255 - a.2) * 2) h
    split <;> rename_i e <;> rw [e] at h1
    · exact h1
    · have h2 := ih h1
      split <;> (rename_i e2; rw [e2] at h2; exact h2)

theorem ReadClosed.loadProblem {t : Trim} (h : P s) : P (loadProblem s t).2 := by
  unfold Machine.loadProblem
  extract_lets rows
  have h1 := hP.loadDense (base := t.fld 0x10 8) (l := rows) h
  split <;> rename_i e1 <;> rw [e1] at h1
  · exact h1
  have h2 := hP.trimRead (a := t.fld 0x18 8) (n := 4 * t.nspins) h1
  split <;> rename_i e2 <;> rw [e2] at h2
  · exact h2
  dsimp only
  refine snd_ite (P := P) h2 ?_
  have h3 := hP.trimRead (a := t.fld 0x20 8) (n := 8 * t.nsparse) h2
  split <;> rename_i e3 <;> rw [e3] at h3
  · exact h3
  refine snd_ite (P := P) h3 (snd_ite (P := P) h3 ?_)
  have hinit := hP.trimRead (a := t.fld 0x30 8) (n := 32 * t.nblk) h3
  have hclamp : P (if t.fld 0x38 8 = 0 then (.ok [], _) else Machine.trimRead _ (t.fld 0x38 8) (32 * t.nblk)).2 :=
    snd_ite (P := P) (α := Except Nat Bytes) h3 (hP.trimRead h3)
  split
  · rename_i e4 e5
    rw [e5] at hclamp
    have h6 : P (if t.orderPerm then Machine.trimRead _ (t.fld 0x48 8) 256 else (.ok [], _)).2 :=
      snd_ite (P := P) (α := Except Nat Bytes) (hP.trimRead hclamp) hclamp
    split <;> rename_i e6 <;> rw [e6] at h6
    · exact h6
    refine snd_ite (P := P) h6 ?_
    have h7 := hP.trimRead (a := t.fld 0x40 8) (n := 8 * t.nstep) h6
    split <;> rename_i e7 <;> rw [e7] at h7
    · exact h7
    exact snd_ite (P := P) h7 h7
  · rename_i e4
    rw [e4] at hinit
    exact hinit
  · rename_i e5 _
    rw [e5] at hclamp
    exact hclamp

end

protected theorem Keeps.trimRead {a n : Nat} (h : Keeps r s) : KeepsSnd r (trimRead s a n) := (Keeps.seqClosed r).trimRead h

protected theorem Keeps.loadProblem {t : Trim} (h : Keeps r s) : KeepsSnd r (loadProblem s t) :=
  (Keeps.seqClosed r).loadProblem h

protected theorem Keeps.trimLoad {a : Nat} (h : Keeps r s) : Keeps r (trimLoad s a) := by
  unfold trimLoad
  split
  · exact .trimMod h
  · split
    · rename_i r1 t e
      have ht : KeepsSnd r (r1, t) := e ▸ Keeps.trimRead h
      exact .trimMod ht

protected theorem Keeps.execTrimLoadDone (h : Keeps r s) : KeepsNext r (execTrimLoadDone s) := by
  unfold execTrimLoadDone
  split
  · exact h
  · dsimp only
    split
    · exact .trimMod h
    · split
      · exact .trimMod h
      · split
        · rename_i c t e
          have ht : KeepsSnd (α := Except Nat Trim) r (Except.error c, t) := e ▸ Keeps.loadProblem h
          exact .trimMod ht
        · rename_i t t1 e
          have ht : KeepsSnd (α := Except Nat Trim) r (Except.ok t, t1) := e ▸ Keeps.loadProblem h
          exact .core rfl ht

protected theorem Keeps.execTrimGroupStep (h : Keeps r s) : KeepsNext r (execTrimGroupStep s) := by
  unfold execTrimGroupStep
  split
  · split
    · dsimp only
      exact .afterDraw (.trimMod h)
    · exact h
  · exact h

protected theorem Keeps.trimEnd {st : BitVec 4} (h : Keeps r s) : Keeps r (trimEnd s st) := .trimMod h

protected theorem Keeps.journalPut {x : TrimRec} (h : Keeps r s) : Keeps r (journalPut s x) := by
  unfold journalPut
  extract_lets t p a
  split
  · exact h
  · split
    · exact .trimMod h
    · have h1 : KeepsSnd r (if p.isEmpty then ((none : Option BusErr), s) else seqWrite s trimInit none (a + 16) p) :=
        by
        split
        · exact h
        · exact .seqWrite h
      split
      next e1 s1 e =>
      rw [e] at h1
      split
      · exact .trimEnd h1
      · have h2 : KeepsSnd r (seqWrite s1 trimInit none a (recHeader t.jrun.toNat x)) := .seqWrite h1
        split <;> rename_i e <;> rw [e] at h2
        · exact .trimEnd h2
        · exact .trimMod h2

protected theorem Keeps.sendTrim {p kind : Nat} {src : W32} {is : List Nat} (h : Keeps r s) :
    Keeps r (sendTrim s p kind src is) := by
  unfold sendTrim
  exact .trimMod (.foldl h (fun _ _ hf0 => .sendOwn hf0))

protected theorem Keeps.sendAll {kind : Nat} {src : W32} (h : Keeps r s) : Keeps r (sendAll s kind src) :=
  .foldl h (fun _ _ hf0 => .sendTrim hf0)

protected theorem Keeps.applyRec {peer n : Nat} {r1 : TrimRec} (h : Keeps r s) : Keeps r (applyRec s peer n r1) :=
  .journalPut (.trimMod h)

protected theorem Keeps.applyPeer {a : Nat} {a1 : Nat} (h : Keeps r s) : Keeps r (applyPeer a s a1) := by
  induction a generalizing s a1 with
  | zero =>
    unfold applyPeer
    exact h
  | succ n ih =>
    unfold applyPeer
    split
    · exact h
    · dsimp only
      exact ih (.applyRec (.trimMod h))

protected theorem Keeps.applyAll (h : Keeps r s) : Keeps r (applyAll s) := .foldl h (fun _ _ hf0 => .applyPeer hf0)

protected theorem Keeps.trimxBytes {peer : Nat} {b : Bytes} (h : Keeps r s) : Keeps r (trimxBytes s peer b) :=
  .ite h (.ite (.trimMod h) (.trimMod h))

protected theorem Keeps.execTrimx {peer : ChipId} {rec_ : Bytes} (h : Keeps r s) :
    KeepsNext r (execTrimx peer rec_ s) := by
  unfold execTrimx
  split
  · exact .trimMod h
  · exact h

protected theorem Keeps.trimRun (h : Keeps r s) : Keeps r (trimRun s) :=
  .ite (.sendAll (.journalPut (.trimMod h))) (.journalPut (.trimMod h))

protected theorem Keeps.trimReplay (h : Keeps r s) : Keeps r (trimReplay s) := by
  unfold trimReplay
  dsimp only
  split
  · exact .ite (.trimMod (.trimRead h)) (.trimMod (.trimRead h))
  · exact .trimMod (.trimRead h)

protected theorem Keeps.replayApply {final : Bool} (h : Keeps r s) : Keeps r (replayApply s final) :=
  .foldl h (fun _ _ hf0 => .applyRec hf0)

protected theorem Keeps.execTrimSweepStart (h : Keeps r s) : KeepsNext r (execTrimSweepStart s) := by
  unfold execTrimSweepStart
  dsimp only
  split
  · exact h
  · split
    · split
      · exact .trimEnd (.ite h (.replayApply h))
      · exact .trimMod (.replayApply h)
    · split
      · split
        · exact .trimMod (.applyAll h)
        · exact .afterDraw (.trimMod (.applyAll h))
      · exact .trimMod h

protected theorem Keeps.writeFields {a : List (Nat × Bytes)} (h : Keeps r s) : Keeps r (writeFields s a) := by
  induction a generalizing s with
  | nil =>
    unfold writeFields
    exact h
  | cons a l ih =>
    unfold writeFields
    split
    · rename_i val t e
      have ht : KeepsSnd r (some val, t) := e ▸ Keeps.seqWrite h
      exact .trimEnd ht
    · rename_i t e
      have ht : KeepsSnd (α := Option BusErr) r (none, t) := e ▸ Keeps.seqWrite h
      exact ih ht

protected theorem Keeps.writeBest {was : Option (Nat × Int × BitVec 4096)} (h : Keeps r s) :
    Keeps r (writeBest was s) := by
  unfold writeBest
  split
  · exact .ite h (.writeFields h)
  · exact h

protected theorem Keeps.execTrimSweepEnd (h : Keeps r s) : KeepsNext r (execTrimSweepEnd s) := by
  unfold execTrimSweepEnd
  dsimp only
  split
  · exact h
  · split
    · exact .trimEnd (.ite (.sendAll (.writeBest (.trimMod h))) (.writeBest (.trimMod h)))
    · exact .ite (.sendAll (.writeBest (.trimMod h))) (.writeBest (.trimMod h))

protected theorem Keeps.applyFinals (h : Keeps r s) : Keeps r (applyFinals s) := by
  unfold applyFinals
  refine .foldl h fun u a hf0 => ?_
  split
  · exact .applyRec (.trimMod hf0)
  · exact hf0

protected theorem Keeps.runDone {st : BitVec 4} (h : Keeps r s) : Keeps r (runDone s st) := .trimEnd (.trimMod h)

protected theorem Keeps.execTrimFinal (h : Keeps r s) : KeepsNext r (execTrimFinal s) := by
  unfold execTrimFinal
  dsimp only
  split
  · exact h
  · split
    · split
      · exact .trimEnd h
      · exact .runDone (.replayApply h)
    · split
      · split
        · split
          · exact .runDone (.applyFinals h)
          · exact .afterDraw (.trimMod (.applyFinals h))
        · split
          · exact .runDone (.applyFinals (.trimMod (.sendAll h)))
          · exact .afterDraw (.trimMod (.applyFinals (.trimMod (.sendAll h))))
      · exact .runDone h

protected theorem Keeps.execTrimPeerTimeout (h : Keeps r s) : KeepsNext r (execTrimPeerTimeout s) := by
  unfold execTrimPeerTimeout
  dsimp only
  split
  · exact h
  · split
    · exact .ite (.applyAll h) (.trimEnd (.applyAll h))
    · exact .ite (.applyFinals h) (.trimEnd (.applyFinals h))
    · exact h

protected theorem Keeps.mastEvent {n : Nat} (h : Keeps r s) : Keeps r (mastEvent s n) := .core rfl h

protected theorem Keeps.runCounted {st : BitVec 4} (h : Keeps r s) : Keeps r (runCounted s st) := .trimMod h

protected theorem Keeps.writeResults {st : BitVec 4} (h : Keeps r s) : Keeps r (writeResults s st) := by
  unfold writeResults
  dsimp only
  exact .ite (.mastEvent
    (.ite (.reportFault (.trimMod (.runCounted (.seqWrite (.journalPut (.trimMod (.ite (.trimMod h) h)))))))
      (.trimMod (.runCounted (.seqWrite (.journalPut (.trimMod (.ite (.trimMod h) h))))))))
        (.ite (.reportFault (.trimMod (.runCounted (.seqWrite (.journalPut (.trimMod (.ite (.trimMod h) h)))))))
          (.trimMod (.runCounted (.seqWrite (.journalPut (.trimMod (.ite (.trimMod h) h)))))))

protected theorem Keeps.execTrimRunEnd (h : Keeps r s) : KeepsNext r (execTrimRunEnd s) := by
  unfold execTrimRunEnd
  split
  · split
    · exact .writeResults h
    · exact h
  · exact h

protected theorem Keeps.trimAbort (h : Keeps r s) : Keeps r (trimAbort s) := by
  unfold trimAbort
  dsimp only
  split
  · exact .trimMod h
  · split
    · exact .trimMod h
    · exact .trimEnd h
    · exact .trimMod h

protected theorem Keeps.trimCmd {fn a : Nat} (h : Keeps r s) : Keeps r (trimCmd s fn a) := by
  unfold trimCmd
  split
  · exact h
  · split
    · exact .trimMod h
    · split
      · exact .trimLoad h
      · exact .trimRun h
      · exact .trimReplay h
      · exact .trimAbort h

protected theorem Keeps.execTrimReclaimStop (h : Keeps r s) : KeepsNext r (execTrimReclaimStop s) := by
  unfold execTrimReclaimStop
  split
  · exact h
  · split
    · exact .trimMod h
    · split
      · split
        · exact .trimMod h
        · exact .writeResults h
      · exact h

protected theorem Keeps.execTrimUncorrectable (h : Keeps r s) : KeepsNext r (execTrimUncorrectable s) := by
  unfold execTrimUncorrectable
  split
  · exact .trimMod (.reportFault h)
  · exact h

protected theorem Keeps.trimPeerLost {peer : Option ChipId} (h : Keeps r s) : Keeps r (trimPeerLost s peer) :=
  .ite (.trimEnd (.trimMod h)) h

protected theorem Keeps.trmWrite {off : Nat} {v : W32} (h : Keeps r s) : Keeps r (trmWrite s off v) := by
  unfold trmWrite
  split
  · exact .trimCmd h
  · exact .ite h (.trimMod h)
  · exact .ite h (.trimMod h)
  · exact .trimMod h
  · exact .trimMod h
  · exact h

/-! ### Reef -/

/-- A domain's record changes and its units stay. -/
protected theorem Keeps.domMod {d : DomId} {f : DomRec → DomRec} (h : Keeps r s) (hf : ∀ x, (f x).units = x.units) :
    Keeps r (domMod s d f) :=
  h.setReef (by rw [slack_vmod, hf]; omega)

theorem memClear_keeps {lo hi : Nat} (h : Keeps r s) : Keeps r { s with mem := memClear s.mem lo hi } :=
  h.setMem fun e => memClear_wf lo hi e

protected theorem Keeps.coreDown {c : CoreId} (h : Keeps r s) : Keeps r (coreDown s c) := by
  unfold coreDown
  exact .coreMod (memClear_keeps h)

protected theorem Keeps.dramDown (h : Keeps r s) : Keeps r (dramDown s) :=
  .core (s := { s with mem := _ }) rfl (memClear_keeps h)

protected theorem Keeps.powerOff {d : DomId} (h : Keeps r s) : Keeps r (powerOff s d) := by
  unfold powerOff
  split
  · exact .core rfl h
  · exact .core (s := { s with cap := Cap.reset }) rfl (h.setCap fun _ => rfl)
  · exact .core rfl h
  · exact .core (s := { s with mem := _ }) rfl (memClear_keeps h)
  · exact memClear_keeps h
  · exact .dramDown h
  · exact .core rfl h
  · exact .core rfl h
  · exact .foldl h fun _ _ hf => .coreDown hf

protected theorem Keeps.clearRdy {cs : List CoreId} (h : Keeps r s) : Keeps r (clearRdy s cs) := .core rfl h

/-- Nothing that a domain loses as it goes OFF is Reef's. -/
@[simp] theorem foldl_coreDown_reef (l : List CoreId) (s : State) : (l.foldl coreDown s).reef = s.reef := by
  induction l generalizing s with
  | nil => rfl
  | cons c l ih => exact ih _

@[simp] theorem powerOff_reef (s : State) (d : DomId) : (powerOff s d).reef = s.reef := by
  unfold powerOff
  split <;> simp [dramDown]

/-- What entering a state does to Reef: the domain's record alone changes. -/
theorem enterState_reef (s : State) (d : DomId) (st : PState) :
    (enterState s d st).reef = (domMod s d fun r => { r with
      state := st, units := costOf s d st, reclaim := none, waking := false, fromOff := false }).reef := by
  unfold enterState
  dsimp only
  split <;> split <;> simp [clearRdy]

protected theorem Keeps.enterFree {d : DomId} {st : PState} (h : Keeps r s) : Keeps r (enterFree s d st) := by
  have hr := enterState_reef s d st
  have hu : (domOf (enterState s d st) d).units = costOf s d st := by
    rw [domOf, hr]
    exact congrArg DomRec.units (domOf_domMod_same s d _)
  unfold Machine.enterFree
  dsimp only
  rw [hu, hr]
  refine h.moveUnits (g := (Machine.domMod s d fun r => { r with
      state := st, units := costOf s d st, reclaim := none, waking := false, fromOff := false }).reef) ?_ ?_
  · unfold enterState
    dsimp only
    exact .ite (.powerOff (.ite (.clearRdy (.refl _)) (.refl _))) (.ite (.clearRdy (.refl _)) (.refl _))
  · have hs := slack_vmod s.reef d fun r => { r with
      state := st, units := costOf s d st, reclaim := none, waking := false, fromOff := false }
    simp only [Reef.slack, Machine.domMod, domOf] at hs ⊢
    omega

protected theorem Keeps.assertReclaim {d : DomId} {target : PState} (h : Keeps r s) :
    Keeps r (assertReclaim s d target) := by
  unfold assertReclaim
  have hd := Keeps.domMod (d := d) (f := fun r => { r with reclaim := some target }) h fun _ => rfl
  exact .foldl (.ite (.clearRdy hd) hd) fun _ _ hf => .recallCore (.returnPre hf)

protected theorem Keeps.reclaimStep {pick : State → DomId → Option PState} (h : Keeps r s) :
    Keeps r (reclaimStep s pick) := by
  unfold reclaimStep
  refine .foldl h fun u a hf0 => ?_
  split
  · exact hf0
  · split
    · exact .ite (.assertReclaim hf0) hf0
    · exact hf0

protected theorem Keeps.orderedReclaim (h : Keeps r s) : Keeps r (orderedReclaim s) := by
  unfold orderedReclaim
  extract_lets bulk thr work _ cut phase gated
  have hwork : Keeps r work := .reclaimStep (.reclaimStep (.reclaimStep h))
  clear_value work
  have hcut : Keeps r cut := .ite (.raiseEmcy (.core rfl hwork)) hwork
  have hphase : Keeps r phase := .reclaimStep hcut
  split
  · exact h
  · exact .reclaimStep (.reclaimStep hphase)

protected theorem Keeps.criticalReclaim (h : Keeps r s) : Keeps r (criticalReclaim s) :=
  .foldl h (fun _ _ hf0 => (.ite (.assertReclaim hf0) hf0))

protected theorem Keeps.arbApply (h : Keeps r s) : Keeps r (arbApply s) := by
  unfold arbApply
  dsimp only
  have hf : Keeps r { s with reef := { s.reef with
      free := s.reef.free + (s.reef.effNext - s.reef.eff), eff := s.reef.effNext,
      deficits := if 0 ≤ s.reef.free ∧ s.reef.free + (s.reef.effNext - s.reef.eff) < 0 then s.reef.deficits + 1
        else s.reef.deficits } } :=
    h.setReef (by simp only [Reef.slack]; omega)
  exact .ite (.criticalReclaim (.orderedReclaim hf)) (.orderedReclaim hf)

protected theorem Keeps.execReefReclaimAck {d : DomId} (h : Keeps r s) : KeepsNext r (execReefReclaimAck d s) := by
  unfold execReefReclaimAck
  split
  · split
    · dsimp only
      exact .arbApply (.core rfl (.enterFree h))
    · exact h
  · exact h

protected theorem Keeps.execReefTransitReturn (h : Keeps r s) : KeepsNext r (execReefTransitReturn s) := by
  unfold execReefTransitReturn
  split
  · exact Keeps.arbApply (h.setReef (by simp only [Reef.slack]; omega))
  · exact h

protected theorem Keeps.execReefReclaimTimeout {d : DomId} (h : Keeps r s) :
    KeepsNext r (execReefReclaimTimeout d s) := by
  unfold execReefReclaimTimeout
  split
  · dsimp only
    exact .raiseEmcy (.core rfl (.enterFree h))
  · exact h

protected theorem Keeps.reefFence {c : CoreId} (h : Keeps r s) : Keeps r (reefFence s c) := by
  unfold reefFence
  extract_lets d x cleared live u t
  have hc : Keeps r cleared := .clearRdy h
  have hs : t.reef.slack = cleared.reef.slack + u - x.units := slack_vmod cleared.reef d _
  exact .ite (.enterFree hc) (hc.moveUnits (g := t.reef) (.refl _) ((slack_addTransit t.reef _).trans (by omega)))

protected theorem Keeps.reefRsp {d status : Nat} {tag : W16} (h : Keeps r s) : Keeps r (reefRsp s d status tag) :=
  .m2cSend (.ite h (.core rfl h))

protected theorem Keeps.takeTag {d : DomId} {tag : W16} (h : Keeps r s) : Keeps r (takeTag s d tag) := by
  unfold takeTag
  refine .domMod ?_ fun _ => rfl
  split
  · exact .reefRsp h
  · exact h

theorem reefRsp_slack (s : State) (d status : Nat) (tag : W16) : (reefRsp s d status tag).reef.slack = s.reef.slack :=
  by
  unfold reefRsp
  rw [m2cSend_reef]
  split <;> rfl

theorem takeTag_slack (s : State) (d : DomId) (tag : W16) : (takeTag s d tag).reef.slack = s.reef.slack := by
  unfold takeTag
  split
  · exact (slack_vmod _ d _).trans (by rw [reefRsp_slack]; exact add_sub_cancel_right _ _)
  · exact (slack_vmod _ d _).trans (add_sub_cancel_right _ _)

protected theorem Keeps.lowerNow {w : ReefWait} (h : Keeps r s) : Keeps r (lowerNow s w) :=
  .domMod (.takeTag (.assertReclaim h)) fun _ => rfl

protected theorem Keeps.grantNow {w : ReefWait} (h : Keeps r s) : Keeps r (grantNow s w) := by
  unfold grantNow
  extract_lets x u fast was woken told shown _ started _
  have htold : Keeps woken told := .ite (.refl _) (.takeTag (.refl _))
  have hshown : Keeps woken shown := .ite (.clearRdy htold) htold
  have hstarted : Keeps woken started := .ite (.core rfl hshown) hshown
  have htag : told.reef.slack = woken.reef.slack := by
    unfold told
    split
    · rfl
    · exact takeTag_slack _ _ _
  have hrdy : shown.reef = told.reef := by
    unfold shown
    split <;> rfl
  have hddr : started.reef = shown.reef := by
    unfold started
    split <;> rfl
  have hunits : started.reef.slack = s.reef.slack + u - x.units := by
    rw [hddr, hrdy, htag]
    exact slack_vmod s.reef w.dom _
  exact h.moveUnits hstarted ((slack_subFree started.reef _).trans (by omega))

protected theorem Keeps.grantScan {a : List ReefWait} (h : Keeps r s) : Keeps r (grantScan a s) := by
  induction a generalizing s with
  | nil =>
    unfold grantScan
    exact h
  | cons a l ih =>
    unfold grantScan
    dsimp only
    exact .ite (ih h) (.ite (ih (.lowerNow (.core rfl h)))
      (.ite (ih h) (.ite h (.ite (ih (.core rfl h)) (ih (.grantNow (.core rfl h)))))))

protected theorem Keeps.autoRequests (h : Keeps r s) : Keeps r (autoRequests s) := by
  unfold autoRequests
  exact .foldl h fun _ _ hf => .ite (.core rfl hf) hf

protected theorem Keeps.answerOnce (h : Keeps r s) : Keeps r (answerOnce s) := by
  unfold answerOnce
  refine .foldl h fun u w hf => ?_
  exact .reefRsp (.core rfl hf)

protected theorem Keeps.arbGrant (h : Keeps r s) : Keeps r (arbGrant s) :=
  .answerOnce (.ite (.autoRequests h) (.grantScan (.autoRequests h)))

protected theorem Keeps.execReefGrant (h : Keeps r s) : KeepsNext r (execReefGrant s) := by
  unfold execReefGrant
  split
  · exact .arbGrant (.arbApply h)
  · exact h

protected theorem Keeps.dropWaiting {d : DomId} (h : Keeps r s) : Keeps r (dropWaiting s d) := by
  unfold dropWaiting
  dsimp only
  refine .foldl (.core rfl h) fun u w hf => ?_
  exact .ite hf (.reefRsp hf)

protected theorem Keeps.execReefReq (h : Keeps r s) : KeepsNext r (execReefReq s) := by
  unfold execReefReq
  split
  · exact h
  · have ht : KeepsOptSnd r (takeMsg s 0x05) := Keeps.takeMsg h
    split
    · exact h
    · next m t e =>
      rw [e] at ht
      replace ht : Keeps r t := ht
      extract_lets dn st cn fl d cls dropped auto
      clear_value st
      have hrsp : ∀ v, KeepsNext r (.next (reefRsp t dn v m.tag)) := fun _ => Keeps.reefRsp ht
      split
      · exact hrsp _
      · extract_lets cost atFloor noted w
        have hn : Keeps r noted := .domMod (.dropWaiting ht) fun _ => rfl
        clear_value noted
        exact .cond (hrsp _) (.cond (hrsp _) (.cond (hrsp _) (.cond (Keeps.lowerNow hn)
          (.cond (.cond (Keeps.reefRsp hn) (Keeps.core rfl hn)) (Keeps.arbGrant (.core rfl hn))))))

protected theorem Keeps.execReefRsp {d : DomId} (h : Keeps r s) : KeepsNext r (execReefRsp d s) := by
  unfold execReefRsp
  dsimp only
  split
  · split
    · exact Keeps.reefRsp (.domMod h fun _ => rfl)
    · exact h
  · exact h

protected theorem Keeps.execReefDomainReady {d : DomId} (h : Keeps r s) : KeepsNext r (execReefDomainReady d s) := by
  unfold execReefDomainReady
  dsimp only
  split
  · have hd := Keeps.domMod (d := d) (f := fun r => { r with waking := false, fromOff := false }) h fun _ => rfl
    split
    · exact Keeps.foldl hd fun _ _ hf => .clearStanding (.clearStanding (.twMod hf))
    · exact hd
  · exact h

protected theorem Keeps.execReefGrantTimeout {d : DomId} (h : Keeps r s) : KeepsNext r (execReefGrantTimeout d s) := by
  unfold execReefGrantTimeout
  split
  · exact h
  · extract_lets t
    have ht : Keeps r t := .arbGrant (.arbApply h)
    clear_value t
    split
    · exact Keeps.reefRsp (.core rfl ht)
    · exact ht

protected theorem Keeps.execAutoDemandRaise {d : Fin 9} (h : Keeps r s) : KeepsNext r (execAutoDemandRaise d s) := by
  unfold execAutoDemandRaise
  split
  · exact .autoRequests (.core rfl h)
  · exact h

protected theorem Keeps.execAutoDemandDrop {d : Fin 9} (h : Keeps r s) : KeepsNext r (execAutoDemandDrop d s) := by
  unfold execAutoDemandDrop
  dsimp only
  split
  · split
    · split
      · exact .assertReclaim (.core rfl h)
      · exact .core rfl h
    · exact h
  · split
    · split
      · exact .assertReclaim (.core rfl h)
      · exact .core rfl h
    · exact h

protected theorem Keeps.setEff (h : Keeps r s) : Keeps r (setEff s) := .ite h (.core rfl h)

protected theorem Keeps.budgetWrite {v : Nat} (h : Keeps r s) : KeepsSnd r (budgetWrite v s) := by
  unfold budgetWrite
  split
  · exact h
  · exact .notice (.setEff (.core rfl h))

protected theorem Keeps.execReefBudgetWrite {w : Session} {v : W16} (h : Keeps r s) :
    KeepsNext r (execReefBudgetWrite w v s) := Keeps.objCmd h (fun _ hf0 => Keeps.budgetWrite hf0)

protected theorem Keeps.execThermalSample {temps : List Int} (h : Keeps r s) :
    KeepsNext r (execThermalSample temps s) := by
  unfold execThermalSample
  split
  · exact h
  · dsimp only
    exact .setEff (.ite (.raiseStanding (.ite (.raiseStanding (.core rfl h)) (.clearStanding (.core rfl h))))
      (.clearStanding (.ite (.raiseStanding (.core rfl h)) (.clearStanding (.core rfl h)))))

/-! ### Slot -/

protected theorem Keeps.releaseJobs {n : PhtSlotId} {d : Deadline} (h : Keeps r s) : Keeps r (releaseJobs s n d) :=
  .core rfl h

protected theorem Keeps.fireSlot {n : PhtSlotId} {up fallback : Bool} (h : Keeps r s) :
    Keeps r (fireSlot s n up fallback) :=
  .ite (.releaseJobs (.twSlotPolls (.core rfl h))) (.twSlotPolls (.core rfl h))

protected theorem Keeps.execSlotFire {n : PhtSlotId} (h : Keeps r s) : KeepsNext r (execSlotFire n s) := by
  unfold execSlotFire
  dsimp only
  split
  · split
    · exact .fireSlot h
    · exact h
  · exact h

protected theorem Keeps.execSlotFallback {n : PhtSlotId} (h : Keeps r s) : KeepsNext r (execSlotFallback n s) := by
  unfold execSlotFallback
  dsimp only
  split
  · exact .fireSlot h
  · exact h

protected theorem Keeps.execPhaseEventArrive {c : CoreId} {n : PhtSlotId} (h : Keeps r s) :
    KeepsNext r (execPhaseEventArrive c n s) := by
  unfold execPhaseEventArrive
  dsimp only
  split
  · exact .ite (.coreMod (.core rfl h)) (.core rfl h)
  · exact h

protected theorem Keeps.rdyWrite {v : W32} (h : Keeps r s) : Keeps r (rdyWrite s v) := .core rfl h

protected theorem Keeps.execPhtRdyWrite {v : W32} (h : Keeps r s) : KeepsNext r (execPhtRdyWrite v s) := by
  unfold execPhtRdyWrite
  split
  · exact .rdyWrite h
  · exact h

protected theorem Keeps.phtRegWrite {off : Nat} {v : W32} (h : Keeps r s) : Keeps r (phtRegWrite s off v) :=
  .ite (.rdyWrite h) (.core rfl h)

protected theorem Keeps.phtRegRead {off : Nat} (h : Keeps r s) : KeepsSnd r (phtRegRead s off) := by
  unfold phtRegRead
  split
  · exact .core rfl h

/-! ### Bus -/

protected theorem Keeps.claWrite {off : Nat} {v : W32} (h : Keeps r s) : Keeps r (claWrite s off v) := by
  unfold claWrite
  split
  · exact .c2mIndexWrite h
  · exact .m2cIndexWrite h
  · exact .core rfl h
  · exact h

protected theorem Keeps.clbWrite {by_ : BusBy} {off : Nat} {v : W32} (h : Keeps r s) :
    Keeps r (clbWrite s by_ off v) := .ite h (.core rfl h)

protected theorem Keeps.ipiWrite {v : W32} (h : Keeps r s) : Keeps r (ipiWrite s v) := .core rfl h

protected theorem Keeps.cmoWrite {v : W32} (h : Keeps r s) : Keeps r (cmoWrite s v) := by
  unfold cmoWrite
  refine .ite h (.ite (h.setMast fun hw => ?_) (.ite (.core rfl h) h))
  rw [State.cacheWf, Bool.and_eq_true] at hw ⊢
  refine ⟨Tbl.wfFrom_map (fun _ o ho => by cases o <;> simp_all) hw.1, ?_⟩
  rw [List.all_map]
  refine (congrArg (List.all _) (funext fun e => ?_)).trans hw.2
  obtain ⟨ln, _ | c⟩ := e <;> rfl

protected theorem Keeps.mcRead {off : Nat} (h : Keeps r s) : KeepsSnd r (mcRead s off) := by
  unfold mcRead
  split
  · exact h
  · exact h
  · exact h
  · exact h
  · exact h
  · exact h
  · exact h
  · exact h
  · exact .core rfl h
  · exact h

protected theorem Keeps.sterrWrite {h1 : HartId} {v : W32} (h : Keeps r s) : Keeps r (sterrWrite s h1 v) :=
  .ite (.core rfl h) h

protected theorem Keeps.mcWrite {off : Nat} {v : W32} (h : Keeps r s) : Keeps r (mcWrite s off v) := by
  unfold mcWrite
  split
  · exact .core rfl h
  · exact .ipiWrite h
  · exact .core rfl h
  · exact .sterrWrite h
  · exact .sterrWrite h
  · exact .cmoWrite h
  · exact h

protected theorem Keeps.ddrCtlWrite {v : W32} (h : Keeps r s) : Keeps r (ddrCtlWrite s v) := .ite (.core rfl h) h

protected theorem Keeps.ddrWrite {off : Nat} {v : W32} (h : Keeps r s) : Keeps r (ddrWrite s off v) := by
  unfold ddrWrite
  split
  · exact .ite h (.core rfl h)
  · exact .ddrCtlWrite h
  · exact .core rfl h
  · exact h

protected theorem Keeps.fabWrite0 {v : W32} (h : Keeps r s) : Keeps r (fabWrite0 s v) := .core rfl h

protected theorem Keeps.fabWrite {off : Nat} {v : W32} (h : Keeps r s) : Keeps r (fabWrite s off v) := by
  unfold fabWrite
  split
  · exact .fabWrite0 h
  · exact .core rfl h
  · exact h

protected theorem Keeps.pcieWrite {off : Nat} {v : W32} (h : Keeps r s) : Keeps r (pcieWrite s off v) := by
  unfold pcieWrite
  split
  · exact .core rfl h
  · exact .core rfl h
  · exact .msixRaiseWrite h
  · exact h

protected theorem Keeps.openRead (h : Keeps r s) : KeepsSnd r (openRead s) := .afterDraw h

protected theorem Keeps.blkRead {b : Blk} {off : Nat} (h : Keeps r s) : KeepsSnd r (blkRead s b off) := by
  unfold blkRead
  split
  · exact h
  · exact h
  · exact h
  · exact Keeps.mcRead h
  · exact Keeps.capRead h
  · exact h
  · exact h
  · exact Keeps.eeRead h
  · exact Keeps.twRead h
  · exact Keeps.spBlockRead h
  · exact h
  · exact Keeps.shlRead h
  · exact h
  · exact h
  · exact h
  · exact Keeps.openRead h
  · exact Keeps.openRead h
  · exact Keeps.openRead h

protected theorem Keeps.blkWrite {by_ : BusBy} {b : Blk} {off : Nat} {v : W32} (h : Keeps r s) :
    Keeps r (blkWrite s by_ b off v) := by
  unfold blkWrite
  split
  · exact .claWrite h
  · exact h
  · exact .clbWrite h
  · exact .mcWrite h
  · exact .capWrite h
  · exact .cscWrite h
  · exact .trmWrite h
  · exact .eeWrite h
  · exact .twWrite h
  · exact .spBlockWrite h
  · exact .ddrWrite h
  · exact .shlWrite h
  · exact .fabWrite h
  · exact .pcieWrite h
  · exact .ioWrite h
  · exact h
  · exact h
  · exact h

protected theorem Keeps.regWords {a : Nat} {a1 : Nat} (h : Keeps r s) : KeepsSnd r (regWords a s a1) := by
  induction a generalizing s a1 with
  | zero =>
    unfold regWords
    exact h
  | succ n ih =>
    unfold regWords
    split
    · exact h
    · split
      · rename_i c t e
        have ht : KeepsSnd r (c, t) := e ▸ Keeps.blkRead h
        split
        · rename_i r1 t1 e1
          have ht1 : KeepsSnd r (r1, t1) := e1 ▸ (ih ht)
          exact ht1

protected theorem Keeps.busRead {a n : Nat} (h : Keeps r s) : KeepsSnd r (busRead s a n) := by
  unfold busRead
  split
  · exact h
  · dsimp only
    exact .regWords h

protected theorem Keeps.regStores {a : Nat} {a1 : BusBy} {a2 a3 : Nat} {a4 : Bytes} (h : Keeps r s) :
    Keeps r (regStores a s a1 a2 a3 a4) := by
  induction a generalizing s a1 a2 a3 a4 with
  | zero =>
    unfold regStores
    exact h
  | succ n ih =>
    unfold regStores
    split
    · exact h
    · exact ih (.blkWrite h)

protected theorem Keeps.busWrite {by_ : BusBy} {a : Nat} {bs : Bytes} (h : Keeps r s) :
    Keeps r (busWrite s by_ a bs) := .ite (.ite (.noteHomeWrite (.wr h)) h) (.regStores h)

protected theorem Keeps.initRead {init a n : Nat} (h : Keeps r s) : KeepsSnd r (initRead s init a n) := by
  unfold initRead
  split
  · exact h
  · split
    · rename_i t e
      have ht : KeepsOpt r (some t) := e ▸ Keeps.actCheck h
      exact ht
    · split
      · exact h
      · split
        · rename_i r1 t e
          have ht : KeepsSnd r (r1, t) := e ▸ Keeps.busRead h
          exact ht

protected theorem Keeps.initWrite {by_ : BusBy} {init a : Nat} {bs : Bytes} (h : Keeps r s) :
    KeepsSnd r (initWrite s by_ init a bs) := by
  unfold initWrite
  split
  · exact h
  · split
    · rename_i t e
      have ht : KeepsOpt r (some t) := e ▸ Keeps.actCheck h
      exact ht
    · split
      · exact h
      · exact .busWrite h

protected theorem Keeps.execMcIpi {v : W32} (h : Keeps r s) : KeepsNext r (execMcIpi v s) := by
  unfold execMcIpi
  split
  · exact .ipiWrite h
  · exact h

protected theorem Keeps.execMcHartctlRun1 {v : W32} (h : Keeps r s) : KeepsNext r (execMcHartctlRun1 v s) := by
  unfold execMcHartctlRun1
  split
  · exact .mcWrite h
  · exact h

protected theorem Keeps.execCleanAll {v : W32} (h : Keeps r s) : KeepsNext r (execCleanAll v s) := by
  unfold execCleanAll
  split
  · exact .cmoWrite h
  · exact h

protected theorem Keeps.execFlushAll {v : W32} (h : Keeps r s) : KeepsNext r (execFlushAll v s) := by
  unfold execFlushAll
  split
  · exact .cmoWrite h
  · exact h

protected theorem Keeps.execDdrInit {v : W32} (h : Keeps r s) : KeepsNext r (execDdrInit v s) := by
  unfold execDdrInit
  split
  · exact .ddrCtlWrite h
  · exact h

protected theorem Keeps.execDdrReady (h : Keeps r s) : KeepsNext r (execDdrReady s) := by
  unfold execDdrReady
  split
  · exact .floodOwn (.core rfl h)
  · exact h

protected theorem Keeps.execFabricGo {v : W32} (h : Keeps r s) : KeepsNext r (execFabricGo v s) := by
  unfold execFabricGo
  split
  · exact .fabWrite0 h
  · exact h

/-! ### Pert -/

protected theorem Keeps.pertEnd {k : Fin 8} (h : Keeps r s) : Keeps r (pertEnd s k) :=
  .ite (.ite (.core rfl h) (.clearStanding (.core rfl h))) h

protected theorem Keeps.pertEndAll (h : Keeps r s) : Keeps r (pertEndAll s) := .foldl h (fun _ _ hf0 => .pertEnd hf0)

protected theorem Keeps.pertStart {k : Fin 8} {b : Bytes} (h : Keeps r s) : Keeps r (pertStart s k b) :=
  .core rfl (.ite (.core rfl (.ite (.raiseEmcy h) (.raiseStanding h))) (.ite (.raiseEmcy h) (.raiseStanding h)))

protected theorem Keeps.pertWrite {svc : Bool} {k : Fin 8} {b : Bytes} (h : Keeps r s) :
    KeepsSnd r (pertWrite svc k b s) := by
  unfold pertWrite
  split
  · exact h
  · split
    · split
      · exact h
      · split
        · exact h
        · exact .pertStart h
    · split
      · exact h
      · split
        · exact h
        · dsimp only
          exact .core rfl (.pertEnd h)

protected theorem Keeps.pertAnswer {w : Session} {k : Fin 8} {b : Bytes} (h : Keeps r s) :
    Keeps r (pertAnswer w k b s) := by
  unfold pertAnswer
  split
  · rename_i c t e
    have ht : KeepsSnd r (c, t) := e ▸ Keeps.pertWrite h
    exact .answerSess ht

protected theorem Keeps.execPertActivate {w : Session} {k : Fin 8} {data : Bytes} (h : Keeps r s) :
    KeepsNext r (execPertActivate w k data s) := by
  unfold execPertActivate
  split
  · exact Keeps.openAccess h (fun _ hf0 => .pertAnswer hf0)
  · exact h

protected theorem Keeps.execPertDisable {w : Session} {k : Fin 8} {data : Bytes} (h : Keeps r s) :
    KeepsNext r (execPertDisable w k data s) := by
  unfold execPertDisable
  split
  · exact Keeps.openAccess h (fun _ hf0 => .pertAnswer hf0)
  · exact h

protected theorem Keeps.execPertExpire {k : Fin 8} (h : Keeps r s) : KeepsNext r (execPertExpire k s) := by
  unfold execPertExpire
  split
  · exact .pertEnd h
  · exact h

/-! ### MastMem -/

protected theorem Keeps.hartMod {h1 : HartId} {f : Hart → Hart} (h : Keeps r s) : Keeps r (hartMod s h1 f) :=
  .core rfl h

protected theorem Keeps.storeErr {h1 : HartId} {addr detail : Nat} (h : Keeps r s) :
    Keeps r (storeErr s h1 addr detail) := .core rfl h

protected theorem Keeps.loadTrap {α : Type} {e : BusErr} {code info : Nat} (h : Keeps r s) :
    KeepsMem r (loadTrap (α := α) e code info s) := by
  unfold loadTrap
  split <;> exact h

/-- A line of 64 bytes, or none, enters the caches. -/
protected theorem Keeps.linePut {ln : Nat} {c : Option CLine} (h : Keeps r s)
    (hc : r.cacheWf = true → ∀ x, c = some x → x.data.length = 64) : Keeps r (linePut s ln c) where
  pending := h.pending
  fixed := h.fixed
  phase := h.phase
  cells := h.cells
  cleatD := h.cleatD
  out := h.out
  mem := h.mem
  cap := h.cap
  units := h.units
  cache e := by
    obtain ⟨hw, hl⟩ := cacheWf_iff.1 (h.cache e)
    refine cacheWf_iff.2 ⟨Tbl.wf_write ln c hw, fun k x hx => ?_⟩
    have hx' : Tbl.read (fun _ => none) (Tbl.write (fun _ => none) s.mast.cache ln c) k = some x := hx
    rw [Tbl.read_write ln k c hw] at hx'
    split at hx'
    · exact hc e x hx'
    · exact hl k x hx'

/-- A line that is held has 64 bytes. -/
theorem Keeps.lineGet_length {ln : Nat} {c : CLine} (h : Keeps r s) (hl : lineGet s ln = some c) (e : r.cacheWf = true)
  :
    c.data.length = 64 := (cacheWf_iff.1 (h.cache e)).2 ln c hl

/-- A line leaves the caches. -/
theorem Keeps.lineOut {ln : Nat} (h : Keeps r s) : Keeps r (Machine.linePut s ln none) :=
  h.linePut fun _ _ hx => nomatch hx

protected theorem Keeps.resvEvict {h1 : HartId} {ln : Nat} (h : Keeps r s) : Keeps r (resvEvict s h1 ln) :=
  .ite (.dropResv h) h

protected theorem Keeps.resvEvictAll {ln : Nat} (h : Keeps r s) : Keeps r (resvEvictAll s ln) :=
  .resvEvict (.resvEvict h)

protected theorem Keeps.writeBack {h1 : HartId} {ln : Nat} {c : CLine} (h : Keeps r s) :
    Keeps r (writeBack s h1 ln c) := by
  unfold writeBack
  split
  · split
    · exact .wr h
    · exact .storeErr h
  · exact h

protected theorem Keeps.dropLine {x : HartId} {ln : Nat} {clean : Bool} (h : Keeps r s) :
    Keeps r (dropLine s x ln clean) := by
  unfold dropLine
  split
  · exact h
  · exact .resvEvictAll (.lineOut (.ite (.writeBack h) h))

protected theorem Keeps.makeRoom {h1 : HartId} {ln : Nat} (h : Keeps r s) : Keeps r (makeRoom s h1 ln) := by
  unfold makeRoom
  dsimp only
  split
  · exact h
  · split
    · exact .dropLine (.afterDraw h)
    · exact h

@[simp] theorem setD_data (x : HartId) (b : Bool) (c : CLine) : (setD x b c).data = c.data := by
  unfold setD; split <;> rfl

@[simp] theorem setI_data (x : HartId) (b : Bool) (c : CLine) : (setI x b c).data = c.data := by
  unfold setI; split <;> rfl

protected theorem Keeps.enterL1 {x : HartId} {instr : Bool} {ln : Nat} {c : CLine} (h : Keeps r s)
    (hc : r.cacheWf = true → c.data.length = 64) : Keeps r (enterL1 s x instr ln c) := by
  have hset : ∀ (b : Bool) (d : CLine), (if instr = true then setI x b d else setD x b d).data = d.data := by
    intro b d
    split <;> simp
  unfold enterL1
  extract_lets ls full v evicted
  have hev : Keeps r evicted := by
    unfold evicted
    refine .ite ?_ h
    split
    · next d hd =>
      have ht : Keeps r (Machine.linePut (afterDraw s) v
        (some (if instr = true then setI x false d else setD x false d))) :=
        .linePut (.afterDraw h) fun e y hy => by cases hy; rw [hset]; exact h.lineGet_length hd e
      exact .ite ht (.resvEvict ht)
    · exact h
  exact .ite h (.linePut hev fun e y hy => by cases hy; rw [hset]; exact hc e)

protected theorem Keeps.lineFill {x : HartId} {instr : Bool} {ln : Nat} (h : Keeps r s) :
    KeepsExc r (lineFill s x instr ln) := by
  unfold lineFill
  split
  · next c hc => exact Keeps.enterL1 h fun e => h.lineGet_length hc e
  · split
    · trivial
    · exact Keeps.enterL1 (.linePut (.makeRoom h) fun _ _ hy => by cases hy; exact memReadN_length _ _ _)
        fun _ => memReadN_length _ _ _

protected theorem Keeps.fillAll {h1 : HartId} {instr : Bool} {a : List Nat} (h : Keeps r s) :
    KeepsExc r (fillAll s h1 instr a) := by
  induction a generalizing s h1 instr with
  | nil =>
    unfold fillAll
    exact h
  | cons a l ih =>
    unfold fillAll
    split
    · trivial
    · rename_i t e
      have ht : KeepsExc (ε := BusErr) r (Except.ok t) := e ▸ Keeps.lineFill h
      exact (ih ht)

protected theorem Keeps.lineStore {x : HartId} {ln a : Nat} {bs : Bytes} (h : Keeps r s) :
    Keeps r (lineStore s x ln a bs) := by
  unfold lineStore
  split
  · exact h
  · exact .linePut h fun _ _ hy => by cases hy; simp

protected theorem Keeps.storeLines {h1 : HartId} {a : Nat} {bs : Bytes} {a1 : List Nat} (h : Keeps r s) :
    KeepsSnd r (storeLines h1 a bs a1 s) := by
  induction a1 generalizing h1 a bs s with
  | nil =>
    unfold storeLines
    exact h
  | cons a l ih =>
    unfold storeLines
    dsimp only
    split
    · exact h
    · rename_i t e
      have ht : KeepsExc (ε := BusErr) r (Except.ok t) := e ▸ Keeps.lineFill h
      exact (ih (.noteHomeWrite (.noteMastWrite (.lineStore ht))))

protected theorem Keeps.cachedStore {h1 : HartId} {a : Nat} {bs : Bytes} (h : Keeps r s) :
    KeepsSnd r (cachedStore s h1 a bs) := Keeps.storeLines h

protected theorem Keeps.coherentWrite {a : Nat} {bs : Bytes} (h : Keeps r s) : Keeps r (coherentWrite s a bs) := by
  unfold coherentWrite
  refine .noteHomeWrite (.noteMastWrite (.foldl (.wr h) fun u l hf => ?_))
  split
  · exact hf
  · exact .linePut hf fun _ _ hy => by cases hy; simp

protected theorem Keeps.drainOne {h1 : HartId} (h : Keeps r s) : KeepsOptFst r (drainOne s h1) := by
  unfold drainOne
  split
  · trivial
  · dsimp only
    split
    · split
      · rename_i val t e
        have ht : KeepsSnd r (some val, t) := e ▸ Keeps.remoteWrite (.hartMod h)
        exact .storeErr (.hartMod h)
      · rename_i t e
        have ht : KeepsSnd (α := Option BusErr) r (none, t) := e ▸ Keeps.remoteWrite (.hartMod h)
        exact ht
    · split
      · split
        · exact .storeErr (.hartMod h)
        · exact .noteMastWrite (.busWrite (.hartMod h))
      · split
        · rename_i x r1 t e
          have ht : KeepsSnd r (some (x, r1), t) := e ▸ Keeps.cachedStore (.hartMod h)
          exact .storeErr ht
        · rename_i t e
          have ht : KeepsSnd (α := Option (Nat × BusErr)) r (none, t) := e ▸ Keeps.cachedStore (.hartMod h)
          exact ht

protected theorem Keeps.drainN {h1 : HartId} {a : Nat} (h : Keeps r s) : Keeps r (drainN h1 a s) := by
  induction a generalizing h1 s with
  | zero =>
    unfold drainN
    exact h
  | succ n ih =>
    unfold drainN
    split
    · exact h
    · rename_i t snd e
      have ht : KeepsOptFst r (some (t, snd)) := e ▸ Keeps.drainOne h
      exact ih ht

protected theorem Keeps.drainAll {h1 : HartId} (h : Keeps r s) : Keeps r (drainAll s h1) := .drainN h

protected theorem Keeps.pushStore {h1 : HartId} {e : SbEntry} (h : Keeps r s) : Keeps r (pushStore s h1 e) :=
  .hartMod (.ite (.drainN h) h)

protected theorem Keeps.hartAsk {h1 : HartId} {kind : Nat} {home : ChipId} {off op : Nat} {data : Bytes}
    (h : Keeps r s) :
    KeepsAsk r (hartAsk s h1 kind home off op data) := by
  unfold hartAsk
  dsimp only
  split
  · split <;> exact h
  · split
    · exact h
    · exact h
    · rename_i tag t e
      have ht : KeepsRemTry r (RemTry.sent tag t) := e ▸ Keeps.remoteRequest h
      exact .hartMod ht

protected theorem Keeps.askPieces {h1 : HartId} {home : ChipId} {a : List (Nat × Nat)} {a1 : Bytes} (h : Keeps r s) :
    KeepsAsk r (askPieces h1 home a s a1) := by
  induction a generalizing h1 home s a1 with
  | nil =>
    unfold askPieces
    exact h
  | cons a l ih =>
    unfold askPieces
    split
    · rename_i d t e
      have ht : KeepsAsk r (AskRes.got d t) := e ▸ Keeps.hartAsk h
      exact (ih ht)
    · rename_i e t e1
      have ht : KeepsAsk r (AskRes.err e t) := e1 ▸ Keeps.hartAsk h
      exact ht
    · rename_i t e
      have ht : KeepsAsk r (AskRes.wait t) := e ▸ Keeps.hartAsk h
      exact ht

protected theorem Keeps.hartRemote {h1 : HartId} {home : ChipId} {off n : Nat} (h : Keeps r s) :
    KeepsAsk r (hartRemote s h1 home off n) := Keeps.askPieces h

protected theorem Keeps.loadCheck {h1 : HartId} {q : Bool} {a n : Nat} (h : Keeps r s) :
    KeepsMem r (loadCheck s h1 q a n) := by
  unfold loadCheck
  dsimp only
  split
  · exact h
  · split
    · exact h
    · split
      · rename_i t e
        have ht : KeepsOpt r (some t) := e ▸ Keeps.actCheck h
        exact ht
      · split
        · exact h
        · split
          · exact Keeps.loadTrap h
          · exact h

protected theorem Keeps.loadHere {h1 : HartId} {b n : Nat} (h : Keeps r s) : KeepsSnd r (loadHere s h1 b n) := by
  unfold loadHere
  split
  · exact Keeps.busRead (.drainAll h)
  · dsimp only
    split
    · split
      · rename_i t e
        have ht : KeepsExc (ε := BusErr) r (Except.ok t) := e ▸ Keeps.fillAll h
        exact ht
      · exact h
    · split
      · exact h
      · split
        · rename_i t e
          have ht : KeepsExc (ε := BusErr) r (Except.ok t) := e ▸ Keeps.fillAll (.drainN h)
          exact ht
        · exact .drainN h

protected theorem Keeps.loadThere {h1 : HartId} {home : ChipId} {off a n : Nat} (h : Keeps r s) :
    KeepsMem r (loadThere s h1 home off a n) := by
  unfold loadThere
  dsimp only
  split
  · split
    · exact h
    · split
      · rename_i d t e
        have ht : KeepsAsk r (AskRes.got d t) := e ▸ Keeps.hartRemote h
        exact ht
      · rename_i e t e1
        have ht : KeepsAsk r (AskRes.err e t) := e1 ▸ Keeps.hartRemote h
        exact Keeps.loadTrap ht
      · rename_i t e
        have ht : KeepsAsk r (AskRes.wait t) := e ▸ Keeps.hartRemote h
        exact ht
  · split
    · exact h
    · split
      · exact .drainN h
      · split
        · rename_i d t e
          have ht : KeepsAsk r (AskRes.got d t) := e ▸ Keeps.hartRemote (.drainN h)
          exact ht
        · rename_i e t e1
          have ht : KeepsAsk r (AskRes.err e t) := e1 ▸ Keeps.hartRemote (.drainN h)
          exact Keeps.loadTrap ht
        · rename_i t e
          have ht : KeepsAsk r (AskRes.wait t) := e ▸ Keeps.hartRemote (.drainN h)
          exact ht

protected theorem Keeps.doLoad {h1 : HartId} {a n : Nat} (h : Keeps r s) : KeepsMem r (doLoad s h1 a n) := by
  unfold doLoad
  split
  · exact Keeps.loadThere h
  · split
    · rename_i r1 t e
      have ht : KeepsSnd r (r1, t) := e ▸ Keeps.loadHere h
      exact ht

protected theorem Keeps.storeCheck {h1 : HartId} {q : Bool} {a n : Nat} (h : Keeps r s) :
    KeepsMem r (storeCheck s h1 q a n) := by
  unfold storeCheck
  dsimp only
  split
  · exact h
  · split
    · exact h
    · split
      · exact h
      · split
        · rename_i t e
          have ht : KeepsOpt r (some t) := e ▸ Keeps.actCheck h
          exact ht
        · split <;> exact h

protected theorem Keeps.doStore {h1 : HartId} {a : Nat} {bs : Bytes} (h : Keeps r s) :
    Keeps r (doStore s h1 a bs) := by
  unfold doStore
  split <;> exact .pushStore h

protected theorem Keeps.hartFetch {h1 : HartId} (h : Keeps r s) : KeepsMem r (hartFetch s h1) := by
  unfold hartFetch
  dsimp only
  split
  · exact h
  · split
    · split
      · rename_i d t e
        have ht : KeepsAsk r (AskRes.got d t) := e ▸ Keeps.hartRemote h
        exact ht
      · rename_i e t e1
        have ht : KeepsAsk r (AskRes.err e t) := e1 ▸ Keeps.hartRemote h
        exact Keeps.loadTrap ht
      · rename_i t e
        have ht : KeepsAsk r (AskRes.wait t) := e ▸ Keeps.hartRemote h
        exact ht
    · split
      · rename_i t e
        have ht : KeepsOpt r (some t) := e ▸ Keeps.actCheck h
        exact ht
      · split
        · split
          · exact Keeps.loadTrap h
          · exact .busRead h
        · split
          · exact Keeps.loadTrap h
          · rename_i t e
            have ht : KeepsExc (ε := BusErr) r (Except.ok t) := e ▸ Keeps.lineFill h
            exact ht

/-! ### Mast -/

protected theorem Keeps.takeTrap {h1 : HartId} {code detail info : Nat} {slotB : Bool} (h : Keeps r s) :
    Keeps r (takeTrap s h1 code detail info slotB) := .hartMod h

protected theorem Keeps.takeIrq {h1 : HartId} {n : Nat} (h : Keeps r s) : Keeps r (takeIrq s h1 n) :=
  .hartMod (.core rfl h)

protected theorem Keeps.retire {h1 : HartId} {ops : Nat} {pc : W64} (h : Keeps r s) : Keeps r (retire s h1 ops pc) :=
  .afterDraw (.hartMod h)

protected theorem Keeps.step1 {h1 : HartId} {f : Hart → Hart} (h : Keeps r s) : KeepsIssue r (step1 s h1 f) :=
  .retire (.hartMod h)

protected theorem Keeps.illegal {w : W32} (h : Keeps r s) : KeepsIssue r (illegal s w) := h

protected theorem Keeps.bind {α : Type} {m : MemRes α} {b : Bool} {f : α → State → Issue} (h : KeepsMem r m)
    (hf : ∀ v u, Keeps r u → KeepsIssue r (f v u)) : KeepsIssue r (m.bind b f) := by
  cases m with
  | ok v u => exact hf v u h
  | trap c d i u => exact h
  | wait u => exact h

protected theorem Keeps.issueFp {h1 : HartId} {f : Nat} {dbl : Bool} {rm : Nat} {rd rs1 rs2 : Xr} (h : Keeps r s) :
    KeepsIssue r (issueFp s h1 f dbl rm rd rs1 rs2) := Keeps.step1 h

protected theorem Keeps.issueLoad {h1 : HartId} {mop : Nat} {rt base : Xr} {disp : Int} (h : Keeps r s) :
    KeepsIssue r (issueLoad s h1 mop rt base disp) := by
  unfold issueLoad
  dsimp only
  split
  · exact h
  · exact Keeps.bind (Keeps.loadCheck h) (fun _ _ hf0 => Keeps.bind (Keeps.doLoad hf0) (fun _ _ hf0 => Keeps.step1 hf0))

protected theorem Keeps.issueStore {h1 : HartId} {mop : Nat} {rt base : Xr} {disp : Int} (h : Keeps r s) :
    KeepsIssue r (issueStore s h1 mop rt base disp) := by
  unfold issueStore
  dsimp only
  split
  · exact h
  · exact Keeps.bind (Keeps.storeCheck h) (fun _ _ hf0 => Keeps.step1 (.doStore hf0))

protected theorem Keeps.issueQld {h1 : HartId} {w : W32} {rt base : Xr} {disp : Int} (h : Keeps r s) :
    KeepsIssue r (issueQld s h1 w rt base disp) := by
  unfold issueQld
  dsimp only
  split
  · exact Keeps.illegal h
  · exact Keeps.bind (Keeps.loadCheck h) (fun _ _ hf0 => Keeps.bind (Keeps.doLoad hf0) (fun _ _ hf0 => Keeps.step1 hf0))

protected theorem Keeps.issueQst {h1 : HartId} {w : W32} {rt base : Xr} {disp : Int} (h : Keeps r s) :
    KeepsIssue r (issueQst s h1 w rt base disp) := by
  unfold issueQst
  dsimp only
  split
  · exact Keeps.illegal h
  · exact Keeps.bind (Keeps.storeCheck h) (fun _ _ hf0 => Keeps.step1 (.doStore hf0))

protected theorem Keeps.slotCheck {h1 : HartId} {a : SlotMem} (h : Keeps r s) : KeepsMem r (slotCheck s h1 a) := by
  unfold slotCheck
  split
  · exact h
  · split
    · exact h
    · exact Keeps.loadCheck h
  · split
    · exact h
    · exact Keeps.storeCheck h

protected theorem Keeps.slotAsk {h1 : HartId} {a : SlotMem} (h : Keeps r s) : KeepsMem r (slotAsk s h1 a) := by
  unfold slotAsk
  split
  · split
    · split
      · rename_i d t e
        have ht : KeepsMem (α := Bytes) r (MemRes.ok d t) := e ▸ Keeps.loadThere h
        exact ht
      · rename_i c k i t e
        have ht : KeepsMem r (MemRes.trap c k i t) := e ▸ Keeps.loadThere h
        exact ht
      · rename_i t e
        have ht : KeepsMem r (MemRes.wait t) := e ▸ Keeps.loadThere h
        exact ht
    · exact h
  · exact h

protected theorem Keeps.slotMem {h1 : HartId} {m : SlotMem} {d : Option Bytes} (h : Keeps r s) :
    KeepsSnd r (slotMem s h1 m d) := by
  unfold slotMem
  split
  · exact h
  · split
    · split
      · rename_i r1 t e
        have ht : KeepsSnd r (r1, t) := e ▸ Keeps.loadHere h
        exact ht
    · exact h
  · exact .doStore h
  · exact h

protected theorem Keeps.issuePair {h1 : HartId} {a b : ShortOp} (h : Keeps r s) :
    KeepsIssue r (issuePair s h1 a b) := by
  unfold issuePair
  refine Keeps.bind (Keeps.slotCheck h)
    (fun _ _ hf0 => Keeps.bind (Keeps.slotCheck hf0)
      (fun _ _ hf0 => Keeps.bind (Keeps.slotAsk hf0) (fun _ _ hf0 => Keeps.bind (Keeps.slotAsk hf0) fun a u hf0 => ?_)))
  exact .retire (.hartMod (.slotMem (.slotMem hf0)))

protected theorem Keeps.atomAsk {h1 : HartId} {home : ChipId} {off a op : Nat} {data : Bytes} (h : Keeps r s) :
    KeepsAsk r (atomAsk s h1 home off a op data) := by
  unfold atomAsk
  dsimp only
  split
  · exact .drainAll h
  · exact Keeps.hartAsk (.drainAll h)

protected theorem Keeps.issueLr {h1 : HartId} {dbl : Bool} {rd rs1 : Xr} (h : Keeps r s) :
    KeepsIssue r (issueLr s h1 dbl rd rs1) := by
  unfold issueLr
  dsimp only
  split
  · exact h
  · split
    · exact h
    · split
      · split
        · rename_i d t e
          have ht : KeepsAsk r (AskRes.got d t) := e ▸ Keeps.atomAsk h
          exact Keeps.step1 ht
        · rename_i e t e1
          have ht : KeepsAsk r (AskRes.err e t) := e1 ▸ Keeps.atomAsk h
          refine Keeps.bind (Keeps.loadTrap ht) fun a u hf0 => ?_
          exact hf0
        · rename_i t e
          have ht : KeepsAsk r (AskRes.wait t) := e ▸ Keeps.atomAsk h
          exact ht
      · split
        · rename_i t e
          have ht : KeepsOpt r (some t) := e ▸ Keeps.actCheck h
          exact ht
        · split
          · exact h
          · split
            · refine Keeps.bind (Keeps.loadTrap h) fun a u hf0 => ?_
              exact hf0
            · rename_i t e
              have ht : KeepsExc (ε := BusErr) r (Except.ok t) := e ▸ Keeps.lineFill (.drainAll h)
              exact Keeps.step1 ht

protected theorem Keeps.scEnd {h1 : HartId} {rd : Xr} {ok : Bool} (h : Keeps r s) : KeepsIssue r (scEnd s h1 rd ok) :=
  Keeps.step1 h

protected theorem Keeps.issueSc {h1 : HartId} {dbl : Bool} {rd rs1 rs2 : Xr} (h : Keeps r s) :
    KeepsIssue r (issueSc s h1 dbl rd rs1 rs2) := by
  unfold issueSc
  dsimp only
  split
  · exact h
  · split
    · exact h
    · split
      · exact h
      · split
        · split
          · split
            · rename_i d t e
              have ht : KeepsAsk r (AskRes.got d t) := e ▸ Keeps.atomAsk h
              exact Keeps.scEnd ht
            · rename_i e t e1
              have ht : KeepsAsk r (AskRes.err e t) := e1 ▸ Keeps.atomAsk h
              refine Keeps.bind (Keeps.loadTrap ht) fun a u hf0 => ?_
              exact hf0
            · rename_i t e
              have ht : KeepsAsk r (AskRes.wait t) := e ▸ Keeps.atomAsk h
              exact ht
          · exact Keeps.scEnd h
        · split
          · rename_i t e
            have ht : KeepsOpt r (some t) := e ▸ Keeps.actCheck h
            exact ht
          · split
            · exact h
            · split
              · split
                · rename_i x r1 t e
                  have ht : KeepsSnd r (some (x, r1), t) := e ▸ Keeps.cachedStore (.drainAll h)
                  refine Keeps.bind (Keeps.loadTrap h) fun a u hf0 => ?_
                  exact hf0
                · rename_i t e
                  have ht : KeepsSnd (α := Option (Nat × BusErr)) r (none, t) := e ▸ Keeps.cachedStore (.drainAll h)
                  exact Keeps.scEnd ht
              · exact Keeps.scEnd (.drainAll h)

protected theorem Keeps.issueTas {h1 : HartId} {rd rs1 : Xr} (h : Keeps r s) :
    KeepsIssue r (issueTas s h1 rd rs1) := by
  unfold issueTas
  dsimp only
  split
  · exact h
  · split
    · exact h
    · split
      · split
        · rename_i d t e
          have ht : KeepsAsk r (AskRes.got d t) := e ▸ Keeps.atomAsk h
          exact Keeps.step1 ht
        · rename_i e t e1
          have ht : KeepsAsk r (AskRes.err e t) := e1 ▸ Keeps.atomAsk h
          refine Keeps.bind (Keeps.loadTrap ht) fun a u hf0 => ?_
          exact hf0
        · rename_i t e
          have ht : KeepsAsk r (AskRes.wait t) := e ▸ Keeps.atomAsk h
          exact ht
      · split
        · rename_i t e
          have ht : KeepsOpt r (some t) := e ▸ Keeps.actCheck h
          exact ht
        · split
          · refine Keeps.bind (Keeps.loadTrap h) fun a u hf0 => ?_
            exact hf0
          · split
            · exact Keeps.step1 (.noteMastWrite (.busWrite (.busRead (.drainAll h))))
            · split
              · refine Keeps.bind (Keeps.loadTrap h) fun a u hf0 => ?_
                exact hf0
              · rename_i t e
                have ht : KeepsExc (ε := BusErr) r (Except.ok t) := e ▸ Keeps.lineFill (.drainAll h)
                exact Keeps.step1 (.cachedStore ht)

protected theorem Keeps.issueFence {h1 : HartId} {pred succ : Nat} (h : Keeps r s) :
    KeepsIssue r (issueFence s h1 pred succ) := by
  unfold issueFence
  split
  · exact Keeps.step1 h
  · dsimp only
    exact Keeps.step1 (.ite (.drainAll h) h)

protected theorem Keeps.issueIfence {h1 : HartId} (h : Keeps r s) : KeepsIssue r (issueIfence s h1) :=
  Keeps.step1 (.drainAll h)

protected theorem Keeps.dclLine {x : HartId} {f : Fin 4} {ln : Nat} (h : Keeps r s) : Keeps r (dclLine s x f ln) := by
  unfold dclLine
  split
  · split
    · next c hc => exact .linePut (.writeBack h) fun hw y hy => by cases hy; exact (h.lineGet_length hc hw :)
    · exact h
  · exact .noteMastWrite (.dropLine h)
  · exact .noteMastWrite (.dropLine h)
  · exact .noteHomeWrite (.noteMastWrite
      (.linePut (.ite (.makeRoom h) h) fun _ y hy => by cases hy; exact List.length_replicate))

protected theorem Keeps.issueDcl {h1 : HartId} {w : W32} {f : Fin 4} {rs1 : Xr} (h : Keeps r s) :
    KeepsIssue r (issueDcl s h1 w f rs1) := by
  unfold issueDcl
  dsimp only
  split
  · exact Keeps.illegal h
  · split
    · exact h
    · split
      · exact h
      · split
        · exact Keeps.step1 (.drainAll h)
        · split
          · exact Keeps.step1 (.drainAll h)
          · split
            · split
              · rename_i t e
                have ht : KeepsOpt r (some t) := e ▸ Keeps.actCheck (.drainAll h)
                exact ht
              · exact Keeps.step1 (.dclLine (.drainAll h))
            · exact Keeps.step1 (.dclLine (.drainAll h))

protected theorem Keeps.issueIcl {h1 : HartId} {rs1 : Xr} (h : Keeps r s) : KeepsIssue r (issueIcl s h1 rs1) := by
  unfold issueIcl
  dsimp only
  split
  · exact h
  · split
    · exact Keeps.step1 h
    · exact Keeps.step1 (.dropLine h)

protected theorem Keeps.issueQ {h1 : HartId} {w : W32} {major qf et : Nat} {qd qa qb : Xr} (h : Keeps r s) :
    KeepsIssue r (issueQ s h1 w major qf et qd qa qb) := by
  unfold issueQ
  dsimp only
  split
  · split
    · exact Keeps.step1 h
    · exact Keeps.illegal h
  · split
    · split
      · exact Keeps.step1 h
      · exact Keeps.illegal h
    · split
      · split
        · exact Keeps.step1 h
        · exact Keeps.illegal h
      · split
        · exact Keeps.step1 h
        · exact Keeps.illegal h
      · split
        · exact Keeps.step1 h
        · exact Keeps.illegal h
      · split
        · exact Keeps.step1 h
        · exact Keeps.illegal h
      · split
        · exact Keeps.step1 h
        · exact Keeps.illegal h
      · split
        · exact Keeps.step1 h
        · exact Keeps.illegal h

protected theorem Keeps.cpDone {h1 : HartId} {rd : Xr} {v : W64} (h : Keeps r s) : KeepsIssue r (cpDone s h1 rd v) :=
  Keeps.step1 h

protected theorem Keeps.issueCp0 {h1 : HartId} {w : W32} {fn : Nat} {rd rs1 : Xr} (h : Keeps r s) :
    KeepsIssue r (issueCp0 s h1 w fn rd rs1) := by
  unfold issueCp0
  dsimp only
  split
  · split
    · exact h
    · split
      · exact Keeps.cpDone (.core rfl h)
      · split
        · exact Keeps.cpDone (.core rfl h)
        · refine Keeps.bind (Keeps.loadCheck h) (fun _ _ hf0 => Keeps.bind (Keeps.doLoad (.drainAll hf0)) fun a u hf0 =>
            ?_)
          split
          · rename_i k t e
            have ht : KeepsOptSnd r (some (k, t)) := e ▸ Keeps.cp0Post hf0
            exact Keeps.cpDone ht
          · exact Keeps.cpDone hf0
  · exact Keeps.cpDone h
  · split
    · exact h
    · exact Keeps.cpDone (.foldl h (fun _ _ hf0 => (.ite (.irqRaise hf0) hf0)))
  · exact Keeps.illegal h

protected theorem Keeps.trmRegWrite {off : Nat} {v : W64} (h : Keeps r s) : Keeps r (trmRegWrite s off v) :=
  .ite (.trmWrite (.trmWrite h)) (.trmWrite h)

protected theorem Keeps.issueCp1 {h1 : HartId} {w : W32} {fn : Nat} {rd rs1 rs2 : Xr} (h : Keeps r s) :
    KeepsIssue r (issueCp1 s h1 w fn rd rs1 rs2) := by
  unfold issueCp1
  split
  · exact Keeps.illegal h
  · split
    · exact h
    · split
      · exact Keeps.cpDone h
      · exact Keeps.cpDone h
      · exact Keeps.cpDone h
      · exact Keeps.cpDone (.trmRegWrite h)
      · exact Keeps.cpDone (.trimCmd h)

protected theorem Keeps.issueCp2 {h1 : HartId} {w : W32} {fn : Nat} {rd rs1 rs2 : Xr} (h : Keeps r s) :
    KeepsIssue r (issueCp2 s h1 w fn rd rs1 rs2) := by
  unfold issueCp2
  split
  · exact Keeps.cpDone (.phtRegRead h)
  · exact Keeps.cpDone (.phtRegWrite h)
  · exact Keeps.cpDone (.core rfl h)
  · split
    · exact Keeps.cpDone h
    · exact Keeps.illegal h
  · exact Keeps.illegal h

protected theorem Keeps.issueCpx {h1 : HartId} {n fn : Nat} {rd : Xr} {a b : W64} (h : Keeps r s) :
    KeepsIssue r (issueCpx s h1 n fn rd a b) := by
  unfold issueCpx
  dsimp only
  split
  · exact h
  · split
    · exact h
    · split
      · exact Keeps.step1 (.enqueue (.emit (.core rfl h)))
      · exact .hartMod (.enqueue (.emit (.core rfl h)))

protected theorem Keeps.issueCp {h1 : HartId} {w : W32} {n : Fin 8} {fn : Nat} {rd rs1 rs2 : Xr} (h : Keeps r s) :
    KeepsIssue r (issueCp s h1 w n fn rd rs1 rs2) := by
  unfold issueCp
  dsimp only
  split
  · exact Keeps.illegal h
  · split
    · exact Keeps.illegal h
    · split
      · exact Keeps.issueCp0 h
      · exact Keeps.issueCp1 h
      · exact Keeps.issueCp2 h
      · split
        · exact Keeps.issueCpx h
        · exact Keeps.illegal h

protected theorem Keeps.issueCw {h1 : HartId} {w : W32} {f : Fin 3} {imm : Bool} {rd src : Xr} {n : Nat}
    (h : Keeps r s) :
    KeepsIssue r (issueCw s h1 w f imm rd src n) := by
  unfold issueCw
  dsimp only
  split
  · exact Keeps.illegal h
  · split
    · exact Keeps.illegal h
    · exact Keeps.step1 h

protected theorem Keeps.issueRets {h1 : HartId} {w : W32} (h : Keeps r s) : KeepsIssue r (issueRets s h1 w) := by
  unfold issueRets
  dsimp only
  split
  · exact Keeps.illegal h
  · exact .retire (.hartMod h)

protected theorem Keeps.issueWaiti {h1 : HartId} {w : W32} (h : Keeps r s) : KeepsIssue r (issueWaiti s h1 w) := by
  unfold issueWaiti
  split
  · exact Keeps.illegal h
  · exact Keeps.step1 h

protected theorem Keeps.issueOp {h1 : HartId} {w : W32} {o : LuOp} (h : Keeps r s) :
    KeepsIssue r (issueOp s h1 w o) := by
  unfold issueOp
  split
  · exact Keeps.issuePair h
  · exact Keeps.issueLoad h
  · exact Keeps.issueStore h
  · exact Keeps.issueQld h
  · exact Keeps.issueQst h
  · exact Keeps.step1 h
  · exact Keeps.step1 h
  · exact Keeps.step1 h
  · exact Keeps.step1 h
  · exact .retire h
  · exact .retire (.hartMod h)
  · exact .retire (.hartMod h)
  · exact Keeps.step1 h
  · exact Keeps.issueFp h
  · exact Keeps.issueLr h
  · exact Keeps.issueSc h
  · exact Keeps.issueTas h
  · exact Keeps.issueCw h
  · exact h
  · exact h
  · exact Keeps.issueRets h
  · exact Keeps.issueWaiti h
  · exact Keeps.illegal h
  · exact Keeps.issueFence h
  · exact Keeps.issueIfence h
  · exact Keeps.issueDcl h
  · exact Keeps.issueIcl h
  · exact Keeps.issueQ h
  · exact Keeps.issueCp h

protected theorem Keeps.nextWord {h1 : HartId} (h : Keeps r s) : KeepsMem r (nextWord s h1) := by
  unfold nextWord
  split
  · rename_i w t e
    have ht : KeepsMem (α := W32) r (MemRes.ok w t) := e ▸ Keeps.hartFetch h
    exact ht
  · rename_i c d i t e
    have ht : KeepsMem r (MemRes.trap c d i t) := e ▸ Keeps.hartFetch h
    exact ht
  · rename_i t e
    have ht : KeepsMem r (MemRes.wait t) := e ▸ Keeps.hartFetch h
    exact ht

protected theorem Keeps.specFill {h1 : HartId} {instr : Bool} {ln : Nat} (h : Keeps r s) :
    Keeps r (specFill s h1 instr ln) := by
  unfold specFill
  split
  · rename_i t e
    have ht : KeepsExc (ε := BusErr) r (Except.ok t) := e ▸ Keeps.lineFill h
    exact .ite ht h
  · exact h

protected theorem Keeps.specLoad {h1 : HartId} {a n : Nat} (h : Keeps r s) : KeepsOptFst r (specLoad s h1 a n) := by
  unfold specLoad
  dsimp only
  split
  · exact h
  · split
    · split
      · rename_i tag t e
        have ht : KeepsRemTry r (RemTry.sent tag t) := e ▸ Keeps.remoteRequest h
        exact ht
      · exact h
    · split
      · exact h
      · split
        · exact .foldl h (fun _ _ hf0 => .specFill hf0)
        · trivial

protected theorem Keeps.specLoads {x : HartId} {e : Nat} {ps : List (Nat × Nat)} (h : Keeps r s) :
    KeepsOptFst r (specLoads x e ps s) := by
  induction ps generalizing s with
  | nil => exact h
  | cons p ps ih =>
    unfold specLoads
    have ht : KeepsOptFst r (if bitOf e ps.length then some (s, ([] : Bytes)) else specLoad s x p.1 p.2) := by
      split
      · exact h
      · exact Keeps.specLoad h
    split
    · trivial
    · next t d e1 =>
      rw [e1] at ht
      exact .map (ih ht)

protected theorem Keeps.specWord {x : HartId} {y : Hart} {w : W32} {o : LuOp} {e : Nat} (h : Keeps r s) :
    KeepsOptFst r (specWord s x y w o e) := by
  unfold specWord
  dsimp only
  split
  · exact .map (Keeps.specLoads h)
  · exact .map (Keeps.specLoads h)
  · split
    · trivial
    · trivial
    · exact .map (Keeps.specLoads h)
  · exact h
  · exact h
  · exact h
  · split
    · split
      · exact h
      · trivial
    · trivial

protected theorem Keeps.specFetch {h1 : HartId} {pc : W64} {ahead : Bool} (h : Keeps r s) :
    KeepsOptFst r (specFetch s h1 pc ahead) := by
  unfold specFetch
  dsimp only
  split
  · trivial
  · split
    · trivial
    · split
      · exact .ite (.specFill (.specFill h)) (.specFill h)
      · trivial

protected theorem Keeps.specWalk {h1 : HartId} {a a1 : Nat} {a2 : Hart} (h : Keeps r s) :
    Keeps r (specWalk h1 a a1 a2 s) := by
  induction a generalizing h1 a1 a2 s with
  | zero =>
    unfold specWalk
    exact h
  | succ n ih =>
    unfold specWalk
    split
    · exact h
    · rename_i t w e
      have ht : KeepsOptFst r (some (t, w)) := e ▸ Keeps.specFetch h
      split
      · exact ht
      · split
        · exact ht
        · rename_i t1 y e1
          have ht1 : KeepsOptFst r (some (t1, y)) := e1 ▸ Keeps.specWord ht
          exact ih ht1

protected theorem Keeps.mispredicted {x : HartId} {pc : W64} (h : Keeps r s) : Keeps r (mispredicted s x pc) := by
  unfold mispredicted
  extract_lets d x t
  have ht : Keeps s t := .specWalk (.core rfl (.refl s))
  exact h.trans { Keeps.refl s with out := ht.out, cache := ht.cache }

protected theorem Keeps.issueSpec {h1 : HartId} {w : W32} {o : LuOp} (h : Keeps r s) :
    KeepsIssue r (issueSpec s h1 w o) := by
  unfold issueSpec
  split
  · rename_i t _ e _
    have ht : KeepsIssue r (Issue.done t) := e ▸ Keeps.issueOp h
    exact .mispredicted ht
  · exact Keeps.issueOp h

protected theorem Keeps.issueWord {h1 : HartId} (h : Keeps r s) : KeepsIssue r (issueWord s h1) := by
  unfold issueWord
  split
  · exact h
  · split
    · exact .hartMod h
    · refine Keeps.bind (Keeps.nextWord h) fun a u hf0 => ?_
      dsimp only
      split
      · exact Keeps.illegal (.hartMod hf0)
      · exact Keeps.issueSpec (.hartMod hf0)

protected theorem Keeps.outcome {x : HartId} {i : Issue} (h : KeepsIssue r i) : KeepsNext r (i.outcome x) := by
  cases i with
  | done u => exact h
  | trap c d i b u => exact Keeps.takeTrap h
  | wait u => exact h

protected theorem Keeps.runCls {h1 : HartId} {k : LuCls} (h : Keeps r s) : KeepsNext r (runCls s h1 k) := by
  unfold runCls
  split
  · exact h
  · split
    · rename_i fst o t e
      have ht : KeepsMem (α := W32 × Option LuOp) r (MemRes.ok (fst, some o) t) := e ▸ Keeps.nextWord h
      split
      · exact Keeps.outcome (Keeps.issueWord h)
      · exact h
    · rename_i t e
      have ht : KeepsMem r (MemRes.wait t) := e ▸ Keeps.nextWord h
      exact ht
    · exact h

protected theorem Keeps.execPairIssue {h1 : HartId} (h : Keeps r s) : KeepsNext r (execPairIssue h1 s) := by
  unfold execPairIssue
  split
  · exact h
  · split
    · rename_i w snd t e
      have ht : KeepsMem (α := W32 × Option LuOp) r (MemRes.ok (w, snd) t) := e ▸ Keeps.nextWord h
      split
      · exact Keeps.outcome (Keeps.issueWord h)
      · exact h
    · rename_i t e
      have ht : KeepsMem r (MemRes.wait t) := e ▸ Keeps.nextWord h
      exact ht
    · exact h

protected theorem Keeps.execMastLoad {h1 : HartId} (h : Keeps r s) : KeepsNext r (execMastLoad h1 s) := Keeps.runCls h

protected theorem Keeps.execMastStore {h1 : HartId} (h : Keeps r s) : KeepsNext r (execMastStore h1 s) :=
  Keeps.runCls h

protected theorem Keeps.execIntegerOp {h1 : HartId} (h : Keeps r s) : KeepsNext r (execIntegerOp h1 s) :=
  Keeps.runCls h

protected theorem Keeps.execMulDivOp {h1 : HartId} (h : Keeps r s) : KeepsNext r (execMulDivOp h1 s) := Keeps.runCls h

protected theorem Keeps.execFpOp {h1 : HartId} (h : Keeps r s) : KeepsNext r (execFpOp h1 s) := Keeps.runCls h

protected theorem Keeps.execBranch {h1 : HartId} (h : Keeps r s) : KeepsNext r (execBranch h1 s) := Keeps.runCls h

protected theorem Keeps.execJal {h1 : HartId} (h : Keeps r s) : KeepsNext r (execJal h1 s) := Keeps.runCls h

protected theorem Keeps.execJalr {h1 : HartId} (h : Keeps r s) : KeepsNext r (execJalr h1 s) := Keeps.runCls h

protected theorem Keeps.execLr {h1 : HartId} (h : Keeps r s) : KeepsNext r (execLr h1 s) := Keeps.runCls h

protected theorem Keeps.execSc {h1 : HartId} (h : Keeps r s) : KeepsNext r (execSc h1 s) := Keeps.runCls h

protected theorem Keeps.execTasB {h1 : HartId} (h : Keeps r s) : KeepsNext r (execTasB h1 s) := Keeps.runCls h

protected theorem Keeps.execCwswp {h1 : HartId} (h : Keeps r s) : KeepsNext r (execCwswp h1 s) := Keeps.runCls h

protected theorem Keeps.execCwset {h1 : HartId} (h : Keeps r s) : KeepsNext r (execCwset h1 s) := Keeps.runCls h

protected theorem Keeps.execCwclr {h1 : HartId} (h : Keeps r s) : KeepsNext r (execCwclr h1 s) := Keeps.runCls h

protected theorem Keeps.execCwswpi {h1 : HartId} (h : Keeps r s) : KeepsNext r (execCwswpi h1 s) := Keeps.runCls h

protected theorem Keeps.execCwseti {h1 : HartId} (h : Keeps r s) : KeepsNext r (execCwseti h1 s) := Keeps.runCls h

protected theorem Keeps.execCwclri {h1 : HartId} (h : Keeps r s) : KeepsNext r (execCwclri h1 s) := Keeps.runCls h

protected theorem Keeps.execSysreq {h1 : HartId} (h : Keeps r s) : KeepsNext r (execSysreq h1 s) := Keeps.runCls h

protected theorem Keeps.execDbrk {h1 : HartId} (h : Keeps r s) : KeepsNext r (execDbrk h1 s) := Keeps.runCls h

protected theorem Keeps.execRets {h1 : HartId} (h : Keeps r s) : KeepsNext r (execRets h1 s) := Keeps.runCls h

protected theorem Keeps.execWaiti {h1 : HartId} (h : Keeps r s) : KeepsNext r (execWaiti h1 s) := Keeps.runCls h

protected theorem Keeps.execRetm {h1 : HartId} (h : Keeps r s) : KeepsNext r (execRetm h1 s) := Keeps.runCls h

protected theorem Keeps.execMastFence {h1 : HartId} (h : Keeps r s) : KeepsNext r (execMastFence h1 s) :=
  Keeps.runCls h

protected theorem Keeps.execIfence {h1 : HartId} (h : Keeps r s) : KeepsNext r (execIfence h1 s) := Keeps.runCls h

protected theorem Keeps.execDclCln {h1 : HartId} (h : Keeps r s) : KeepsNext r (execDclCln h1 s) := Keeps.runCls h

protected theorem Keeps.execDclInv {h1 : HartId} (h : Keeps r s) : KeepsNext r (execDclInv h1 s) := Keeps.runCls h

protected theorem Keeps.execDclFls {h1 : HartId} (h : Keeps r s) : KeepsNext r (execDclFls h1 s) := Keeps.runCls h

protected theorem Keeps.execDclZro {h1 : HartId} (h : Keeps r s) : KeepsNext r (execDclZro h1 s) := Keeps.runCls h

protected theorem Keeps.execIclInv {h1 : HartId} (h : Keeps r s) : KeepsNext r (execIclInv h1 s) := Keeps.runCls h

protected theorem Keeps.execQld {h1 : HartId} (h : Keeps r s) : KeepsNext r (execQld h1 s) := Keeps.runCls h

protected theorem Keeps.execQst {h1 : HartId} (h : Keeps r s) : KeepsNext r (execQst h1 s) := Keeps.runCls h

protected theorem Keeps.execQOp {h1 : HartId} (h : Keeps r s) : KeepsNext r (execQOp h1 s) := Keeps.runCls h

protected theorem Keeps.execCp0Post {h1 : HartId} (h : Keeps r s) : KeepsNext r (execCp0Post h1 s) := Keeps.runCls h

protected theorem Keeps.execCp0Qstat {h1 : HartId} (h : Keeps r s) : KeepsNext r (execCp0Qstat h1 s) := Keeps.runCls h

protected theorem Keeps.execCp0Doorbell {h1 : HartId} (h : Keeps r s) : KeepsNext r (execCp0Doorbell h1 s) :=
  Keeps.runCls h

protected theorem Keeps.execCp2Rdreg {h1 : HartId} (h : Keeps r s) : KeepsNext r (execCp2Rdreg h1 s) := Keeps.runCls h

protected theorem Keeps.execCp2Wrreg {h1 : HartId} (h : Keeps r s) : KeepsNext r (execCp2Wrreg h1 s) := Keeps.runCls h

protected theorem Keeps.execCp2Ntstep {h1 : HartId} (h : Keeps r s) : KeepsNext r (execCp2Ntstep h1 s) :=
  Keeps.runCls h

protected theorem Keeps.execCp2Rdnow {h1 : HartId} (h : Keeps r s) : KeepsNext r (execCp2Rdnow h1 s) := Keeps.runCls h

protected theorem Keeps.execCpx {h1 : HartId} (h : Keeps r s) : KeepsNext r (execCpx h1 s) := Keeps.runCls h

protected theorem Keeps.execTrimStatus {h1 : HartId} (h : Keeps r s) : KeepsNext r (execTrimStatus h1 s) :=
  Keeps.runCls h

protected theorem Keeps.execTrimEnergy {h1 : HartId} (h : Keeps r s) : KeepsNext r (execTrimEnergy h1 s) :=
  Keeps.runCls h

protected theorem Keeps.execTrimRdreg {h1 : HartId} (h : Keeps r s) : KeepsNext r (execTrimRdreg h1 s) :=
  Keeps.runCls h

protected theorem Keeps.execTrimWrreg {h1 : HartId} (h : Keeps r s) : KeepsNext r (execTrimWrreg h1 s) :=
  Keeps.runCls h

protected theorem Keeps.runTrim {via : TrimVia} {fn : Nat} (h : Keeps r s) : KeepsNext r (runTrim s via fn) := by
  unfold runTrim
  split
  · exact Keeps.runCls h
  · exact .trimCmd h

protected theorem Keeps.execTrimLoad {via : TrimVia} (h : Keeps r s) : KeepsNext r (execTrimLoad via s) :=
  Keeps.runTrim h

protected theorem Keeps.execTrimRun {via : TrimVia} (h : Keeps r s) : KeepsNext r (execTrimRun via s) :=
  Keeps.runTrim h

protected theorem Keeps.execTrimReplay {via : TrimVia} (h : Keeps r s) : KeepsNext r (execTrimReplay via s) :=
  Keeps.runTrim h

protected theorem Keeps.execTrimAbort {via : TrimVia} (h : Keeps r s) : KeepsNext r (execTrimAbort via s) :=
  Keeps.runTrim h

protected theorem Keeps.execMastTrap {h1 : HartId} (h : Keeps r s) : KeepsNext r (execMastTrap h1 s) := by
  unfold execMastTrap
  split
  · exact h
  · split
    · rename_i c d i b t e
      have ht : KeepsIssue r (Issue.trap c d i b t) := e ▸ Keeps.issueWord h
      exact .takeTrap ht
    · exact h

protected theorem Keeps.execMastInterrupt {h1 : HartId} (h : Keeps r s) : KeepsNext r (execMastInterrupt h1 s) := by
  unfold execMastInterrupt
  dsimp only
  split
  · split
    · exact .takeIrq h
    · exact h
  · exact h

protected theorem Keeps.execStoreBufferDrain {h1 : HartId} (h : Keeps r s) :
    KeepsNext r (execStoreBufferDrain h1 s) := by
  unfold execStoreBufferDrain
  split
  · split
    · rename_i t snd e
      have ht : KeepsOptFst r (some (t, snd)) := e ▸ Keeps.drainOne h
      exact ht
    · exact h
  · exact h

protected theorem Keeps.execStoreError {h1 : HartId} (h : Keeps r s) : KeepsNext r (execStoreError h1 s) := by
  unfold execStoreError
  split
  · split
    · rename_i t e
      have ht : KeepsOptFst r (some (t, true)) := e ▸ Keeps.drainOne h
      exact ht
    · exact h
  · exact h

protected theorem Keeps.execReservationExpire {h1 : HartId} (h : Keeps r s) :
    KeepsNext r (execReservationExpire h1 s) := by
  unfold execReservationExpire
  split
  · exact .dropResv h
  · exact h

protected theorem Keeps.cpxEnd {h1 : HartId} {n : Fin 8} {fn : Nat} {rd : Option Xr} {a : Answer} (h : Keeps r s) :
    Keeps r (cpxEnd s h1 n fn rd a) := by
  unfold cpxEnd
  split
  · exact .hartMod h
  · exact .hartMod h
  · exact .retire (.hartMod h)
  · exact .takeTrap (.hartMod h)

protected theorem Keeps.execCpxresp {tag : BitVec 12} {a : Answer} (h : Keeps r s) :
    KeepsNext r (execCpxresp tag a s) := by
  unfold execCpxresp
  split
  · split
    · split
      · exact .cpxEnd (.core rfl h)
      · exact h
    · exact h
  · exact h

protected theorem Keeps.cleanLines {flush : Bool} (h : Keeps r s) : Keeps r (cleanLines s flush) := by
  unfold cleanLines
  refine .foldlMem h fun u e he hu => ?_
  obtain ⟨ln, _ | c⟩ := e
  · exact hu
  · refine .ite (.dropLine hu) (.linePut (.writeBack hu) fun hw x hx => ?_)
    cases hx
    obtain ⟨hwf, hlen⟩ := cacheWf_iff.1 (h.cache hw)
    exact hlen ln c (Tbl.read_of_mem hwf he)

protected theorem Keeps.execCmoDone (h : Keeps r s) : KeepsNext r (execCmoDone s) := by
  unfold execCmoDone
  split
  · split
    · exact .core rfl (.cleanLines h)
    · exact h
  · exact h

protected theorem Keeps.c2mPost {kind : Byte} {payload : Bytes} (h : Keeps r s) : Keeps r (c2mPost s kind payload) :=
  .ite (.c2mIndexWrite (.wr h)) (.core rfl h)

protected theorem Keeps.execMastCacheEcc {x : HartId} {line : Nat} {l2 : Bool} {k : EccKind} (h : Keeps r s) :
    KeepsNext r (execMastCacheEcc x line l2 k s) := by
  unfold execMastCacheEcc
  split
  · exact h
  · split
    · exact h
    · split
      · exact Keeps.core rfl h
      · exact Keeps.core rfl h
    · split
      · exact h
      · next c hc =>
        split
        · exact Keeps.dropLine h
        · extract_lets told bad t
          split
          · have hlen : bad.length = 64 := by simp only [bad, List.length_map, List.length_range]
            exact Keeps.c2mPost (.takeTrap (.linePut (.core rfl h) fun _ y hy => by cases hy; exact hlen))
          · exact Keeps.c2mPost (.storeErr (.dropLine h))

/-! ### Otp -/

protected theorem Keeps.otpStageWrite {d : Bytes} (h : Keeps r s) : KeepsSnd r (otpStageWrite d s) := by
  unfold otpStageWrite
  split
  · exact h
  · split
    · exact h
    · split
      · exact h
      · exact .core rfl h

protected theorem Keeps.otpProgramWrite {v : Nat} (h : Keeps r s) : KeepsSnd r (otpProgramWrite v s) := by
  unfold otpProgramWrite
  split
  · exact .ite (.core rfl h) h
  · split
    · exact h
    · split
      · split <;> exact .core rfl h
      · exact .core rfl h

protected theorem Keeps.otpKeyWrite {d : Bytes} (h : Keeps r s) : KeepsSnd r (otpKeyWrite d s) := by
  unfold otpKeyWrite
  split
  · exact h
  · split
    · exact h
    · split <;> exact .core rfl h

protected theorem Keeps.mastLockWrite {v : Nat} (h : Keeps r s) : KeepsSnd r (mastLockWrite v s) := by
  unfold mastLockWrite
  split
  · exact h
  · split
    · exact h
    · exact Keeps.core rfl (h.setOtp (s.otp.within_otpSetAll _))

theorem Otp.within_svnRaise (o : Otp) (a v : Nat) : o.within (svnRaise o a v) := o.within_otpSetAll _

protected theorem Keeps.mastSvnWrite {v : Nat} (h : Keeps r s) : KeepsSnd r (mastSvnWrite v s) := by
  unfold mastSvnWrite
  split
  · exact h
  · split
    · exact h
    · exact h.setOtp (s.otp.within_svnRaise _ _)

protected theorem Keeps.execOtpStage {w : Session} {data : Bytes} (h : Keeps r s) :
    KeepsNext r (execOtpStage w data s) := Keeps.objCmd h (fun _ hf0 => Keeps.otpStageWrite hf0)

protected theorem Keeps.execOtpProgram {w : Session} {v : Byte} (h : Keeps r s) :
    KeepsNext r (execOtpProgram w v s) := Keeps.objCmd h (fun _ hf0 => Keeps.otpProgramWrite hf0)

protected theorem Keeps.execOtpKeyProgram {w : Session} {data : Bytes} (h : Keeps r s) :
    KeepsNext r (execOtpKeyProgram w data s) := Keeps.objCmd h (fun _ hf0 => Keeps.otpKeyWrite hf0)

protected theorem Keeps.execMastDebugLock {w : Session} {v : W16} (h : Keeps r s) :
    KeepsNext r (execMastDebugLock w v s) := Keeps.objCmd h (fun _ hf0 => Keeps.mastLockWrite hf0)

protected theorem Keeps.execMastSvnWrite {w : Session} {v : Byte} (h : Keeps r s) :
    KeepsNext r (execMastSvnWrite w v s) := Keeps.objCmd h (fun _ hf0 => Keeps.mastSvnWrite hf0)

protected theorem Keeps.otpFail {g : Nat} (h : Keeps r s) : Keeps r (otpFail s g) :=
  .notice (.raiseEmcy (.core rfl h))

protected theorem Keeps.execOtpProgramEnd {k : Option Nat} (h : Keeps r s) : KeepsNext r (execOtpProgramEnd k s) := by
  unfold execOtpProgramEnd
  split
  · next g cells _ =>
    have hset : ∀ cs, Keeps r { s with otp := otpSetAll s.otp cs } := fun cs => h.setOtp (s.otp.within_otpSetAll cs)
    split
    · exact h
    · split
      · split
        · exact Keeps.otpFail (hset _)
        · exact h
      · dsimp only
        split
        · exact Keeps.notice (.core rfl (hset cells))
        · exact Keeps.otpFail (hset cells)
  · exact h

protected theorem Keeps.execOtpKeyProgramEnd {ok : Bool} (h : Keeps r s) : KeepsNext r (execOtpKeyProgramEnd ok s) := by
  unfold execOtpKeyProgramEnd
  split
  · split
    · exact h
    · split
      · exact h.setOtp (s.otp.within_otpSetAll _)
      · exact Keeps.afterDraw (h.setOtp (s.otp.within_otpSetAll _))
  · exact h

protected theorem Keeps.otpStruck (h : Keeps r s) : Keeps r (otpStruck s) := by
  unfold otpStruck
  dsimp only
  split
  · exact h
  · exact .afterDraw (h.setOtp (s.otp.within_otpSetAll _))
  · exact .afterDraw (h.setOtp (s.otp.within_otpSetAll _))

protected theorem Keeps.flashOffsetWrite {v : Nat} (h : Keeps r s) : KeepsSnd r (flashOffsetWrite v s) := by
  unfold flashOffsetWrite
  split
  · exact h
  · exact .core rfl h

protected theorem Keeps.flashProgramWrite {d : Bytes} (h : Keeps r s) : KeepsSnd r (flashProgramWrite d s) := by
  unfold flashProgramWrite
  dsimp only
  split
  · exact h
  · split
    · exact h
    · split
      · exact h
      · split <;> exact .core rfl h

protected theorem Keeps.flashEraseWrite {v : Nat} (h : Keeps r s) : KeepsSnd r (flashEraseWrite v s) := by
  unfold flashEraseWrite
  dsimp only
  split
  · exact h
  · split
    · exact h
    · split <;> exact .core rfl h

protected theorem Keeps.execFlashOffset {w : Session} {v : W32} (h : Keeps r s) :
    KeepsNext r (execFlashOffset w v s) := Keeps.objCmd h (fun _ hf0 => Keeps.flashOffsetWrite hf0)

protected theorem Keeps.execFlashProgram {w : Session} {data : Bytes} (h : Keeps r s) :
    KeepsNext r (execFlashProgram w data s) := Keeps.objCmd h (fun _ hf0 => Keeps.flashProgramWrite hf0)

protected theorem Keeps.execFlashErase {w : Session} {v : W16} (h : Keeps r s) : KeepsNext r (execFlashErase w v s) :=
  Keeps.objCmd h (fun _ hf0 => Keeps.flashEraseWrite hf0)

protected theorem Keeps.flashUnknown {a n : Nat} (h : Keeps r s) : Keeps r (flashUnknown s a n) := .core rfl (.wr h)

protected theorem Keeps.execFlashUpdateDone {ok : Bool} (h : Keeps r s) : KeepsNext r (execFlashUpdateDone ok s) := by
  unfold execFlashUpdateDone
  split
  · exact h
  · split
    · exact h
    · dsimp only
      split
      · exact Keeps.core rfl (.flashUnknown h)
      · split
        · exact Keeps.core rfl (.wr h)
        · exact Keeps.core rfl (h.setMem fun hw => memClear_wf _ _ hw)

protected theorem Keeps.flashStruck (h : Keeps r s) : Keeps r (flashStruck s) := by
  unfold flashStruck
  split
  · exact h
  · dsimp only
    exact .core rfl (.flashUnknown h)
  · dsimp only
    exact .core rfl (.flashUnknown h)

protected theorem Keeps.dapWindowWrite {d : Bytes} (h : Keeps r s) : KeepsSnd r (dapWindowWrite d s) := by
  unfold dapWindowWrite
  dsimp only
  split
  · exact h
  · split
    · exact h
    · split
      · exact h
      · exact .core rfl h

protected theorem Keeps.execDapWindowWrite {w : Session} {data : Bytes} (h : Keeps r s) :
    KeepsNext r (execDapWindowWrite w data s) := Keeps.objCmd h (fun _ hf0 => Keeps.dapWindowWrite hf0)

protected theorem Keeps.actRequest {m : Msg} (h : Keeps r s) : Keeps r (actRequest s m) := by
  unfold actRequest
  dsimp only
  split
  · exact .core rfl h
  · split <;> exact .core rfl h

protected theorem Keeps.execActReq (h : Keeps r s) : KeepsNext r (execActReq s) := by
  unfold execActReq
  split
  · exact h
  · split
    · rename_i m t e
      have ht : KeepsOptSnd r (some (m, t)) := e ▸ Keeps.takeMsg h
      exact .actRequest ht
    · exact h

protected theorem Keeps.execActStationApply (h : Keeps r s) : KeepsNext r (execActStationApply s) := by
  unfold execActStationApply
  split
  · exact .core rfl h
  · exact h

protected theorem Keeps.execActRsp (h : Keeps r s) : KeepsNext r (execActRsp s) := by
  unfold execActRsp
  split
  · split
    · exact .m2cSend (.core rfl h)
    · exact h
  · exact h

protected theorem Keeps.dapSetHalt {h1 : HartId} {b : Bool} (h : Keeps r s) : Keeps r (dapSetHalt s h1 b) :=
  .ite (.core rfl h) (.core rfl h)

protected theorem Keeps.dapNo (h : Keeps r s) : KeepsNext r (dapNo s) := .emit h

protected theorem Keeps.execDapAccess {op : DapOp} (h : Keeps r s) : KeepsNext r (execDapAccess op s) := by
  unfold execDapAccess
  extract_lets ok
  have hok : ∀ t, Keeps r t → KeepsNext r (ok t) := fun _ ht => Keeps.emit ht
  have hno : ∀ t, Keeps r t → KeepsNext r (dapNo t) := fun _ ht => Keeps.emit ht
  clear_value ok
  split
  · exact h
  · split
    · split
      · exact hno s h
      · exact Keeps.emit h
    · split
      · exact hno s h
      · split
        · exact hok _ (.dapSetHalt h)
        · exact hok _ (.dapSetHalt h)
        · next x _ =>
          split
          · have ht : KeepsNext r ((issueWord (dapSetHalt s x false) x).outcome x) := Keeps.outcome
              (Keeps.issueWord (.dapSetHalt h))
            split
            · next e =>
              rw [e] at ht
              exact hok _ (.dapSetHalt ht)
            · exact ht
          · exact hno s h
        · split
          · exact Keeps.emit h
          · exact hno s h
        · split
          · exact hok _ (.hartMod h)
          · exact hno s h
        · next a n _ =>
          have ht : KeepsSnd r (initRead s 30 a n) := .initRead h
          split <;> rename_i e <;> rw [e] at ht
          · exact Keeps.emit ht
          · exact hno _ ht
        · next a d _ =>
          have ht : KeepsSnd r (initWrite s .other 30 a d) := .initWrite h
          split <;> rename_i e <;> rw [e] at ht
          · exact hok _ ht
          · exact hno _ ht
        · exact hno s h

/-! ### Restore -/

protected theorem Keeps.restoreBudget (h : Keeps r s) : Keeps r (restoreBudget s) := .ite h (.budgetWrite h)

protected theorem Keeps.restoreObjects (h : Keeps r s) : Keeps r (restoreObjects s) := by
  unfold restoreObjects
  extract_lets u
  have hu : Keeps r u := .restoreBudget (.clearAllOf (.clearAllOf (.pertEndAll h)))
  clear_value u
  exact .core rfl hu

protected theorem Keeps.nodeStart (h : Keeps r s) : Keeps r (nodeStart s) := .bootUp (.core rfl (.restoreObjects h))

/-! ### Fabric -/

protected theorem Keeps.performReq {m : Bytes} {n : Nat} (h : Keeps r s) : KeepsSnd r (performReq s m n) := by
  have hread : ∀ a k, Keeps r (busRead s a k).2 := fun _ _ => .busRead h
  unfold performReq
  dsimp only
  refine .cond (hread _ n) (.cond ?_ (.cond ?_ (.cond (Keeps.core rfl (hread _ n)) (.cond ?_ h))))
  all_goals
    show Keeps r _
    dsimp only
  · exact .busWrite h
  · exact .busWrite (hread _ 1)
  · exact .core rfl (.busWrite h)

protected theorem Keeps.serveReq {m : Bytes} (h : Keeps r s) : KeepsReq r (serveReq s m) := by
  unfold serveReq
  split
  · exact h
  · split
    · exact h
    · split
      · exact h
      · split
        · trivial
        · split
          · rename_i t e
            have ht : KeepsOpt r (some t) := e ▸ Keeps.actCheck h
            exact ht
          · split
            · exact h
            · exact .performReq h

protected theorem Keeps.sendResponse {p : ShlId} {m : Bytes} (h : Keeps r s) : Keeps r (sendResponse s p m) := by
  unfold sendResponse
  split <;> exact .enqueue h

protected theorem Keeps.endRemote {w : Remote} {r1 : RemRes} (h : Keeps r s) : Keeps r (endRemote s w r1) := by
  unfold endRemote
  dsimp only
  split
  · exact .hartMod (.core rfl h)
  · exact .coreMod (.core rfl h)
  · exact .storeErr (.core rfl h)
  · exact .ite (.planFault (.coreMod (.core rfl h))) (.core rfl h)
  · exact .ite (.doneEnd (.core rfl h)) (.core rfl h)
  · exact .cpxEnd (.core rfl h)
  · exact .cpxEnd (.core rfl h)
  · exact .core rfl h
  · exact .core rfl h

protected theorem Keeps.takeResponse {m : Bytes} (h : Keeps r s) : Keeps r (takeResponse s m) := by
  unfold takeResponse
  split
  · exact h
  · exact .ite h (.endRemote h)

protected theorem Keeps.execRemoteResponseTimeout {tag : BitVec 12} (h : Keeps r s) :
    KeepsNext r (execRemoteResponseTimeout tag s) := by
  unfold execRemoteResponseTimeout
  split
  · exact h
  · split
    · exact .endRemote h
    · exact h

protected theorem Keeps.execHomeReservationExpire {chip : ChipId} {hart : HartId} (h : Keeps r s) :
    KeepsNext r (execHomeReservationExpire chip hart s) := .core rfl h

protected theorem Keeps.toMembers {kind : Nat} {args : List Nat} (h : Keeps r s) : Keeps r (toMembers s kind args) :=
  .foldl h (fun _ _ hf0 => .sendMgmt hf0)

protected theorem Keeps.distribute (h : Keeps r s) : Keeps r (distribute s) := .toMembers (.reroute h)

protected theorem Keeps.setRole {r1 : BitVec 2} (h : Keeps r s) : Keeps r (setRole s r1) :=
  .core rfl (.ite h (.endSessions h))

protected theorem Keeps.orphanEnter (h : Keeps r s) : Keeps r (orphanEnter s) :=
  .ite h (.trimPeerLost (.notice (.setRole (.raiseEmcy (.routeAbort h)))))

protected theorem Keeps.headSetup {mask : W64} (h : Keeps r s) : Keeps r (headSetup s mask) :=
  .nodeStart (.notice (.distribute (.setRole (.core rfl h))))

protected theorem Keeps.afterElection {cs : List HelloRec} (h : Keeps r s) : Keeps r (afterElection s cs) := by
  unfold afterElection
  split
  · exact .orphanEnter h
  · exact .ite (.headSetup h) (.setRole (.core rfl h))

protected theorem Keeps.execHello {r1 : HelloRec} (h : Keeps r s) : KeepsNext r (execHello r1 s) := by
  unfold execHello
  split
  · split
    · exact h
    · dsimp only
      exact .flood (.core rfl h)
  · exact h

protected theorem Keeps.greet {p : ShlId} (h : Keeps r s) : Keeps r (greet s p) :=
  .ite (.foldl h (fun _ _ hf0 => .sayHello hf0)) h

protected theorem Keeps.execPortConfig {p : ShlId} {partner : ShlPartner} (h : Keeps r s) :
    KeepsNext r (execPortConfig p partner s) := by
  unfold execPortConfig
  split
  · exact .greet (.pumpAll (.trained (.shlMod h)))
  · exact h

protected theorem Keeps.execFabricElection (h : Keeps r s) : KeepsNext r (execFabricElection s) := by
  unfold execFabricElection
  split
  · split
    · exact .orphanEnter (.raiseEmcy h)
    · exact .afterElection h
  · exact h

protected theorem Keeps.execFabricHeartbeat (h : Keeps r s) : KeepsNext r (execFabricHeartbeat s) := by
  unfold execFabricHeartbeat
  split
  · exact h
  · split
    · exact .toMembers h
    · split
      · split
        · exact .sendMgmt h
        · exact h
      · exact h

protected theorem Keeps.chipGone {c : ChipId} (h : Keeps r s) : Keeps r (chipGone s c) := by
  unfold chipGone
  exact .trimPeerLost (.cscChipLost (.core rfl (.routeAbort h)))

protected theorem Keeps.headLoses {c : ChipId} (h : Keeps r s) : Keeps r (headLoses s c) :=
  .notice (.distribute (.raiseStanding (.chipGone (.toMembers h))))

protected theorem Keeps.execChipLossTimeout {c : ChipId} (h : Keeps r s) : KeepsNext r (execChipLossTimeout c s) := by
  unfold execChipLossTimeout
  split
  · exact .headLoses h
  · exact h

protected theorem Keeps.mgmtReport {kind : Nat} (h : Keeps r s) : Keeps r (mgmtReport s kind) := .reportFault h

protected theorem Keeps.execLost {c : ChipId} (h : Keeps r s) : KeepsNext r (execLost c s) := by
  unfold execLost
  split
  · dsimp only
    exact .ite (.orphanEnter (.mgmtReport h)) (.chipGone (.mgmtReport h))
  · exact h

protected theorem Keeps.execHeadHeartbeatTimeout (h : Keeps r s) : KeepsNext r (execHeadHeartbeatTimeout s) := by
  unfold execHeadHeartbeatTimeout
  split
  · split
    · dsimp only
      exact .ite (.raiseStanding (.core rfl (.afterElection (.chipGone h)))) (.afterElection (.chipGone h))
    · exact h
  · exact h

protected theorem Keeps.execJoin {r1 : HelloRec} (h : Keeps r s) : KeepsNext r (execJoin r1 s) := by
  unfold execJoin
  split
  · dsimp only
    exact .ite (.clearAllOf (.notice (.distribute (.toMembers (.core rfl h)))))
      (.notice (.distribute (.toMembers (.core rfl h))))
  · exact h

protected theorem Keeps.takeMembers {mask : W64} {head : ChipId} {node : BitVec 7} {routes : List Nat} (h : Keeps r s) :
    Keeps r (takeMembers s mask head node routes) := .ite h (.notice (.setRole (.core rfl h)))

protected theorem Keeps.portLost {p : ShlId} (h : Keeps r s) : Keeps r (portLost s p) :=
  .ite h (.ite (.orphanEnter h) (.ite (.distribute h) h))

protected theorem Keeps.takeMessage {p : ShlId} {m : Bytes} (h : Keeps r s) : KeepsNext r (takeMessage p s m) := by
  unfold takeMessage
  split
  · exact .oweCredit h
  · split
    · split
      · exact .enqueue h
      · exact .oweCredit h
    · split
      · split
        · exact .oweCredit h
        · rename_i r1 t e
          have ht : KeepsReq r (ReqRes.answer r1 t) := e ▸ Keeps.serveReq h
          exact .sendResponse (.oweCredit ht)
      · split
        · exact .takeResponse (.oweCredit h)
        · split
          · exact .trimxBytes (.oweCredit h)
          · split
            · exact .takeResponse (.oweCredit h)
            · exact .oweCredit h

protected theorem Keeps.takeMessages {p : ShlId} {a : List Bytes} (h : Keeps r s) :
    KeepsNext r (takeMessages p a s) := by
  induction a generalizing p s with
  | nil =>
    unfold takeMessages
    exact h
  | cons a l ih =>
    unfold takeMessages
    split
    · rename_i t e
      have ht : KeepsNext r (Host.Outcome.next t) := e ▸ Keeps.takeMessage h
      exact (ih ht)
    · exact Keeps.takeMessage h

protected theorem Keeps.takeAck {p : ShlId} {f : Bytes} (h : Keeps r s) : Keeps r (takeAck s p f) :=
  .ite (.pumpAll (.shlMod h)) h

protected theorem Keeps.takeNak {p : ShlId} {f : Bytes} (h : Keeps r s) : Keeps r (takeNak s p f) :=
  .ite (.shlMod h) (.portLost (.replayNow (.shlMod h)))

protected theorem Keeps.sendNak {p : ShlId} (h : Keeps r s) : Keeps r (sendNak s p) := .ite h (.emit (.shlMod h))

protected theorem Keeps.acknowledge {p : ShlId} (h : Keeps r s) : Keeps r (acknowledge s p) :=
  .ite (.creditFlit h) (.emit h)

protected theorem Keeps.flitReceive {p : ShlId} {f : Bytes} (h : Keeps r s) : KeepsNext r (flitReceive s p f) := by
  unfold flitReceive
  dsimp only
  split
  · exact .sendNak (.shlMod h)
  · split
    · exact .ite (.takeNak h) (.takeAck h)
    · split
      · split
        · rename_i t e
          have ht : KeepsNext r (Host.Outcome.next t) := e ▸ Keeps.takeMessages (.takeAck (.shlMod h))
          exact .acknowledge (.pumpAll ht)
        · exact Keeps.takeMessages (.takeAck (.shlMod h))
      · split
        · exact .emit h
        · exact .sendNak h

protected theorem Keeps.execFlitReceive {p : ShlId} {flit : Bytes} (h : Keeps r s) :
    KeepsNext r (execFlitReceive p flit s) := by
  unfold execFlitReceive
  split
  · exact Keeps.flitReceive h
  · exact h

protected theorem Keeps.execNakReceive {p : ShlId} {flit : Bytes} (h : Keeps r s) :
    KeepsNext r (execNakReceive p flit s) := by
  unfold execNakReceive
  split
  · exact .takeNak h
  · exact h

protected theorem Keeps.execReplayTimeout {p : ShlId} (h : Keeps r s) : KeepsNext r (execReplayTimeout p s) := by
  unfold execReplayTimeout
  split
  · exact .portLost (.replayNow h)
  · exact h

protected theorem Keeps.execPortRetrain {p : ShlId} (h : Keeps r s) : KeepsNext r (execPortRetrain p s) := by
  unfold execPortRetrain
  split
  · exact .portLost (.portRetrain h)
  · exact h

protected theorem Keeps.execPortDown {p : ShlId} (h : Keeps r s) : KeepsNext r (execPortDown p s) := by
  unfold execPortDown
  split
  · exact .portLost (.portGoDown h)
  · exact h

/-! ### Fence -/

protected theorem Keeps.execFaultReport {unit cls : Byte} {code : W16} {detail : W64} (h : Keeps r s) :
    KeepsNext r (execFaultReport unit cls code detail s) := by
  unfold execFaultReport
  split
  · dsimp only
    exact .ite (.portLost (.reportFault h)) (.reportFault h)
  · exact h

protected theorem Keeps.execFence {unit : Byte} {code : W16} (h : Keeps r s) :
    KeepsNext r (execFence unit code s) := by
  unfold execFence
  split
  · exact .fenceFault h
  · exact h

protected theorem Keeps.coreFenced {c : CoreId} (h : Keeps r s) : Keeps r (coreFenced s c) :=
  .reefFence (.raiseStanding (.core rfl (.coreMod (.obdRelease h))))

protected theorem Keeps.unitStops {u : Nat} (h : Keeps r s) : Keeps r (unitStops s u) :=
  .ite (.core rfl h) (.ite (.core rfl h) h)

protected theorem Keeps.otherFenced {u : Nat} (h : Keeps r s) : Keeps r (otherFenced s u) :=
  .raiseStanding (.core rfl (.unitStops h))

protected theorem Keeps.fenceEffect {u : Nat} (h : Keeps r s) : Keeps r (fenceEffect s u) :=
  .notice (.abortStuck (.ite (.coreFenced (.core rfl h)) (.otherFenced (.core rfl h))))

protected theorem Keeps.execFenceTakesEffect {unit : Byte} (h : Keeps r s) :
    KeepsNext r (execFenceTakesEffect unit s) := by
  unfold execFenceTakesEffect
  dsimp only
  split
  · exact .fenceEffect h
  · exact h

protected theorem Keeps.execClcLostClear {w : Session} {v : W64} (h : Keeps r s) :
    KeepsNext r (execClcLostClear w v s) := Keeps.objCmd h (fun _ hf0 => Keeps.clcLostWrite hf0)

/-! ### Planes -/

protected theorem Keeps.mastCheck (h : Keeps r s) : Keeps r (mastCheck s) :=
  .ite (.raiseEmcy h) (.ite (.raiseEmcy h) (.ite (.raiseEmcy h) h))

/-- The lines that the boot ROM holds are canonical, each of 64 bytes. -/
theorem wfFrom_heldLines (body : Bytes) (b n : Nat) (f : Nat → CLine) :
    Tbl.wfFrom (fun _ => none) b ((List.range' b n).map fun k => (k, some (f k))) = true := by
  induction n generalizing b with
  | zero => rfl
  | succ n ih =>
    rw [List.range'_succ, List.map_cons]
    exact Tbl.wfFrom_cons.2 ⟨Nat.le_refl b, Option.some_ne_none _, ih (b + 1)⟩

theorem heldLines_cacheWf (s : State) (body : Bytes) :
    ({ s with mast.cache := heldLines body } : State).cacheWf = true := by
  rw [State.cacheWf, Bool.and_eq_true]
  refine ⟨?_, ?_⟩
  · change Tbl.wfFrom _ 0 (heldLines body) = true
    rw [heldLines, List.range_eq_range']
    exact wfFrom_heldLines body 0 _ _
  · change List.all (heldLines body) _ = true
    rw [heldLines, List.all_map, List.all_eq_true]
    intro k _
    simp only [Function.comp_apply, List.length_append, List.length_map, List.length_range, List.length_take,
      decide_eq_true_eq, beq_iff_eq]
    omega

protected theorem Keeps.mastHold (h : Keeps r s) : Keeps r (mastHold s) := by
  unfold mastHold
  split
  · exact .core rfl h
  · exact .core rfl (h.setMast fun _ => heldLines_cacheWf s _)

protected theorem Keeps.restartNotice (h : Keeps r s) : Keeps r (restartNotice s) := .notice (.core rfl h)

protected theorem Keeps.emptyRings (h : Keeps r s) : Keeps r (emptyRings s) := .core rfl h

protected theorem Keeps.releaseControl (h : Keeps r s) : Keeps r (releaseControl s) :=
  .ite (.restartNotice (.core rfl (.emptyRings h))) h

protected theorem Keeps.mastBoot (h : Keeps r s) : Keeps r (mastBoot s) :=
  .ite (.core rfl h) (.releaseControl (.mastHold (.mastCheck h)))

protected theorem Keeps.notePlane {target source : Nat} (h : Keeps r s) : Keeps r (notePlane s target source) :=
  .core rfl h

protected theorem Keeps.forgetApps (h : Keeps r s) : Keeps r (forgetApps s) :=
  .foldl (.core rfl h) (fun _ _ hf0 => .answerOrigin hf0)

protected theorem Keeps.cprStart (h : Keeps r s) : Keeps r (cprStart s) := by
  unfold cprStart
  split
  · exact h
  · extract_lets u
    have hu : Keeps r u := .forget (.forgetApps h)
    clear_value u
    exact .emptyRings (.core rfl (hu.setMast (m := Mast.reset) fun _ => rfl))

protected theorem Keeps.abortTaken (h : Keeps r s) : Keeps r (abortTaken s) :=
  .foldl h (fun _ _ hf0 => .completeJob hf0)

protected theorem Keeps.dprOff {d : DomId} (h : Keeps r s) : Keeps r (dprOff s d) :=
  .domMod (.enterFree h) fun _ => rfl

protected theorem Keeps.dprDram (h : Keeps r s) : Keeps r (dprDram s) := by
  have hs : Keeps r { s with ddr.exiting := false, ddr.busy := false } := .core rfl h
  exact .ite (.enterFree hs) (.domMod hs fun _ => rfl)

protected theorem Keeps.dprStart (h : Keeps r s) : Keeps r (dprStart s) :=
  .ite h (.foldl (.dprDram (.core rfl (.abortTaken h))) (fun _ _ hf0 => .dprOff hf0))

protected theorem Keeps.resetRsp {tag : W16} {status : Nat} (h : Keeps r s) : Keeps r (resetRsp s tag status) :=
  .m2cSend h

protected theorem Keeps.dprFinish (h : Keeps r s) : Keeps r (dprFinish s) :=
  .notice (.foldl (.clearAllOf (.clearAllOf (.core rfl h))) (fun _ _ hf0 => .resetRsp hf0))

protected theorem Keeps.execDprEnd (h : Keeps r s) : KeepsNext r (execDprEnd s) := by
  unfold execDprEnd
  split
  · exact .dprFinish h
  · exact h

protected theorem Keeps.execCprRelease (h : Keeps r s) : KeepsNext r (execCprRelease s) := by
  unfold execCprRelease
  split
  · exact .mastBoot (.core rfl h)
  · exact h

protected theorem Keeps.planeReset {target source : Nat} (h : Keeps r s) : Keeps r (planeReset s target source) :=
  .ite (.cprStart (.ite (.dprStart (.notePlane h)) (.notePlane h))) (.ite (.dprStart (.notePlane h)) (.notePlane h))

protected theorem Keeps.resetWrite {v : Nat} (h : Keeps r s) : KeepsSnd r (resetWrite v s) := by
  unfold resetWrite
  split
  · exact .planeReset h
  · exact h

protected theorem Keeps.resetByObject {w : Session} {v : Nat} (h : Keeps r s) : KeepsNext r (resetByObject w v s) :=
  Keeps.openAccess h (fun _ hf0 => (.ite (.resetWrite (.answerSess hf0)) (.answerSess hf0)))

protected theorem Keeps.resetByMessage {v : Nat} (h : Keeps r s) : KeepsNext r (resetByMessage v s) := by
  unfold resetByMessage
  split
  · exact h
  · rename_i m t e
    have ht : KeepsOptSnd r (some (m, t)) := e ▸ Keeps.takeMsgIf h
    dsimp only
    exact .ite (.core rfl (.planeReset ht)) (.planeReset ht)

protected theorem Keeps.execCprRequest {by_ : ResetBy} (h : Keeps r s) : KeepsNext r (execCprRequest by_ s) := by
  unfold execCprRequest
  split
  · exact Keeps.resetByObject h
  · exact Keeps.resetByMessage h

protected theorem Keeps.execDprRequest {by_ : ResetBy} (h : Keeps r s) : KeepsNext r (execDprRequest by_ s) := by
  unfold execDprRequest
  split
  · exact Keeps.resetByObject h
  · exact Keeps.resetByMessage h

protected theorem Keeps.execCprDprRequest {by_ : ResetBy} (h : Keeps r s) :
    KeepsNext r (execCprDprRequest by_ s) := by
  unfold execCprDprRequest
  split
  · exact Keeps.resetByObject h
  · exact Keeps.resetByMessage h

protected theorem Keeps.execResetReq (h : Keeps r s) : KeepsNext r (execResetReq s) := by
  unfold execResetReq
  split
  · exact h
  · rename_i m t e
    have ht : KeepsOptSnd r (some (m, t)) := e ▸ Keeps.takeMsgIf h
    exact .resetRsp ht

/-! ### Dict -/

protected theorem Keeps.storeIf {ok : Bool} {i sub : Nat} {d : Bytes} (h : Keeps r s) :
    KeepsSnd r (storeIf ok i sub d s) := by
  unfold storeIf
  split
  · exact .core rfl h
  · exact h

protected theorem Keeps.zeroIf {v : Nat} {f : State → State} (h : Keeps r s) (hf : ∀ u, Keeps r u → Keeps r (f u)) :
    KeepsSnd r (zeroIf v f s) := by
  unfold zeroIf
  split
  · exact hf s h
  · exact h

protected theorem Keeps.mapWrite {i sub : Nat} {d : Bytes} (h : Keeps r s) : KeepsSnd r (mapWrite i sub d s) := by
  unfold mapWrite
  dsimp only
  split
  · split
    · split
      · exact h
      · split
        · exact h
        · split
          · exact .core rfl h
          · exact h
    · split
      · exact h
      · split
        · exact h
        · split
          · exact .core rfl h
          · exact h
  · split
    · split
      · exact h
      · split
        · exact .core rfl h
        · exact h
    · split
      · exact h
      · split
        · exact .core rfl h
        · exact h

protected theorem Keeps.pdoWrite {i sub : Nat} {d : Bytes} (h : Keeps r s) : KeepsSnd r (pdoWrite i sub d s) := by
  unfold pdoWrite
  dsimp only
  split
  · split
    · exact .core rfl (.storeIf h)
    · split
      · exact .core rfl (.storeIf h)
      · exact .storeIf h
  · exact Keeps.storeIf h
  · exact Keeps.storeIf h
  · exact Keeps.storeIf h

protected theorem Keeps.historyWrite {sub v : Nat} (h : Keeps r s) : KeepsSnd r (historyWrite sub v s) := by
  unfold historyWrite
  exact .core rfl h

protected theorem Keeps.consumerWrite {e : Fin 8} {d : Bytes} (h : Keeps r s) : KeepsSnd r (consumerWrite e d s) :=
  .ite (.core rfl h) (.clearStanding (.core rfl h))

protected theorem Keeps.writeComm {i sub : Nat} {d : Bytes} (h : Keeps r s) : KeepsSnd r (writeComm i sub d s) := by
  unfold writeComm
  split
  · split
    · exact Keeps.zeroIf h (fun _ hf0 => .core rfl hf0)
    · exact Keeps.historyWrite h
  · exact Keeps.storeIf h
  · exact Keeps.storeIf h
  · exact Keeps.storeIf h
  · exact Keeps.consumerWrite h
  · exact Keeps.storeIf h
  · exact Keeps.storeIf h
  · exact Keeps.storeIf h
  · split
    · exact Keeps.mapWrite h
    · split
      · exact Keeps.pdoWrite h
      · exact Keeps.storeIf h

protected theorem Keeps.writeDevice {i sub : Nat} {d : Bytes} (h : Keeps r s) :
    KeepsSnd r (writeDevice i sub d s) := by
  unfold writeDevice
  split
  · exact Keeps.clcLostWrite h
  · exact Keeps.storeIf h
  · exact .core rfl h
  · exact Keeps.otpStageWrite h
  · exact Keeps.otpProgramWrite h
  · exact Keeps.otpKeyWrite h
  · exact Keeps.mastLockWrite h
  · exact Keeps.mastSvnWrite h
  · exact Keeps.zeroIf h (fun _ hf0 => .core rfl hf0)
  · exact Keeps.dapWindowWrite h
  · split
    · exact Keeps.flashOffsetWrite h
    · split
      · exact Keeps.flashProgramWrite h
      · exact Keeps.flashEraseWrite h
  · exact Keeps.storeIf h

protected theorem Keeps.thermWrite {sub v : Nat} (h : Keeps r s) : KeepsSnd r (thermWrite sub v s) := by
  unfold thermWrite
  dsimp only
  split
  · split
    · exact .core rfl h
    · exact h
  · split
    · exact .core rfl h
    · exact h

protected theorem Keeps.reefStat {sub : Nat} {v : W32} (h : Keeps r s) : Keeps r (reefStat sub v s) := by
  unfold reefStat
  split <;> exact .core rfl h

protected theorem Keeps.writeUnits {i sub : Nat} {d : Bytes} (h : Keeps r s) : KeepsSnd r (writeUnits i sub d s) := by
  have htw : ∀ n off v, Keeps r (twWrite s n off v) := fun _ _ _ => .twWrite h
  have hclear : ∀ f : State → State, (∀ u, Keeps r u → Keeps r (f u)) → KeepsSnd r (zeroIf (leNat d) f s) :=
    fun _ hf => Keeps.zeroIf h hf
  unfold writeUnits
  extract_lets v n
  split
  · exact .cond (Keeps.budgetWrite h) (.cond (Keeps.core rfl h) h)
  · exact Keeps.thermWrite h
  · exact Keeps.reefStat h
  · exact .cond (.cond (Keeps.core rfl h) h) (.cond (Keeps.core rfl h) h)
  · exact .cond (.cond (Keeps.core rfl h) h) (.cond (Keeps.core rfl h) h)
  · exact hclear _ fun _ hu => .core rfl hu
  · exact hclear _ fun _ hu => .core rfl hu
  · exact Keeps.twReenableWrite h
  · exact htw n 0 _
  · exact htw n 4 _
  · exact .cond (htw n 8 _) h
  · exact Keeps.windowWrite h
  · exact h

protected theorem Keeps.pollWrite {e : Fin 96} {b : Bytes} (h : Keeps r s) : KeepsSnd r (pollWrite e b s) := by
  unfold pollWrite
  split
  · dsimp only
    exact .core rfl (.clearStanding (.core rfl h))
  · exact h

protected theorem Keeps.writeHealth {i sub : Nat} {d : Bytes} (h : Keeps r s) :
    KeepsSnd r (writeHealth i sub d s) := by
  unfold writeHealth
  split
  · exact .core rfl h
  · exact Keeps.pollWrite h
  · exact Keeps.storeIf h

protected theorem Keeps.writeValue {i sub : Nat} {d : Bytes} (h : Keeps r s) : KeepsSnd r (writeValue i sub d s) := by
  unfold writeValue
  split
  · exact Keeps.writeComm h
  · split
    · exact Keeps.writeDevice h
    · split
      · exact Keeps.writeUnits h
      · exact Keeps.writeHealth h

protected theorem Keeps.ofCode {p : Nat × State} (h : KeepsSnd r p) : KeepsD r (DRes.ofCode p) := h

protected theorem Keeps.abort {c : Nat} (h : Keeps r s) : KeepsD r (DRes.abort c s) := h

protected theorem Keeps.forward {k : Asker} {i sub : Nat} {op : Option Bytes} (h : Keeps r s) :
    KeepsD r (forward s k i sub op) := by
  unfold forward
  split
  · exact Keeps.abort h
  · split
    · exact Keeps.abort h
    · split
      · exact Keeps.abort h
      · dsimp only
        exact .m2cSend (.core rfl h)

protected theorem Keeps.sessRead {k : Asker} {i : Nat} (h : Keeps r s) : KeepsD r (sessRead s k i) := by
  unfold sessRead
  split
  · exact h
  · split
    · split
      · rename_i r1 t e
        have ht : KeepsSnd r (r1, t) := e ▸ Keeps.newChallenge h
        exact ht
    · exact Keeps.abort h

protected theorem Keeps.sessWrite {k : Asker} {i : Nat} {d : Bytes} (h : Keeps r s) :
    KeepsD r (sessWrite s k i d) := by
  unfold sessWrite
  split
  · refine Keeps.ofCode ?_
    split
    · exact Keeps.loginRespond h
    · exact Keeps.logoutWrite h
  · exact Keeps.abort h

protected theorem Keeps.otpGuarded {k : Asker} {i : Nat} {op : Option Bytes} (h : Keeps r s) :
    Keeps r (otpGuarded s k i op) := by
  unfold otpGuarded
  split
  · exact .ite (.otpProgramWrite h) h
  · exact h

protected theorem Keeps.mgcRead {k : Asker} {r1 : OdRow} {i sub : Nat} (h : Keeps r s) :
    KeepsD r (mgcRead s k r1 i sub) := by
  unfold mgcRead
  split
  · exact Keeps.abort h
  · split
    · exact Keeps.sessRead h
    · split
      · split
        · exact h
        · exact Keeps.abort h
      · split <;> exact h

protected theorem Keeps.mgcWrite {k : Asker} {r1 : OdRow} {i sub : Nat} {d : Bytes} (h : Keeps r s) :
    KeepsD r (mgcWrite s k r1 i sub d) := by
  unfold mgcWrite
  split
  · exact Keeps.abort h
  · split
    · exact Keeps.abort h
    · split
      · exact Keeps.abort h
      · split
        · exact Keeps.sessWrite h
        · split
          · split
            · exact h
            · exact Keeps.abort h
          · split
            · exact Keeps.ofCode (Keeps.pertWrite h)
            · split
              · split
                · rename_i c t e
                  have ht : KeepsSnd r (c, t) := e ▸ Keeps.twObjectWrite h
                  split
                  · exact ht
                  · exact Keeps.abort ht
              · exact Keeps.ofCode (Keeps.writeValue h)

protected theorem Keeps.localAccess {k : Asker} {i sub : Nat} {op : Option Bytes} (h : Keeps r s) :
    KeepsD r (localAccess s k i sub op) := by
  unfold localAccess
  split
  · exact Keeps.forward h
  · split
    · exact Keeps.abort (.otpGuarded h)
    · split
      · exact Keeps.abort h
      · split
        · exact Keeps.mgcRead h
        · exact Keeps.mgcWrite h

protected theorem Keeps.afterWrite {i : Nat} {op : Option Bytes} {a : Answer} (h : Keeps r s) :
    Keeps r (afterWrite s i op a) := by
  unfold afterWrite
  split
  · exact .ite (.resetWrite h) h
  · exact h

protected theorem Keeps.accessFor {k : Asker} {i sub : Nat} {op : Option Bytes} (h : Keeps r s) :
    Keeps r (accessFor s k i sub op) := by
  unfold accessFor
  split
  · rename_i a t e
    have ht : KeepsD r (DRes.done a t) := e ▸ Keeps.localAccess h
    exact .afterWrite (.answerOrigin ht)
  · rename_i t e
    have ht : KeepsD r (DRes.wait t) := e ▸ Keeps.localAccess h
    exact ht

protected theorem Keeps.envelopeWrite {w : Session} {c : ChipId} {e : Bytes} (h : Keeps r s) :
    Keeps r (envelopeWrite s w c e) := by
  unfold envelopeWrite
  dsimp only
  split
  · exact .answerSess (.core rfl h)
  · exact .ite (.accessFor (.core rfl h)) (.ite (.sendMgmt (.core rfl h)) (.answerSess (.core rfl h)))

protected theorem Keeps.sessAccess {w : Session} {i sub : Nat} {op : Option Bytes} (h : Keeps r s) :
    Keeps r (sessAccess s w i sub op) := by
  unfold sessAccess
  split
  · exact .ite (.envelopeWrite h) (.accessFor h)
  · exact .accessFor h

protected theorem Keeps.capObject {i sub : Nat} {d : Bytes} (h : Keeps r s) : Keeps r (capObject s i sub d) := by
  unfold capObject
  split
  · dsimp only
    exact .ite (.core rfl h) (.ite (.core rfl h) (.ite (.core rfl h) h))
  · exact .ite (.core rfl h) h
  · exact .ite (.core rfl h) h
  · exact .ite (.core rfl h) h
  · exact .ite (.core rfl h) h
  · exact h

protected theorem Keeps.cscObject {i sub : Nat} {d : Bytes} (h : Keeps r s) : Keeps r (cscObject s i sub d) := by
  unfold cscObject
  split
  · exact .ite (.core rfl h) h
  · exact .ite h (.ite (.cscWrite h) (.ite (.core rfl h) h))
  · exact .ite (.core rfl h) h
  · exact h

protected theorem Keeps.trimObject {i sub : Nat} {d : Bytes} (h : Keeps r s) : Keeps r (trimObject s i sub d) :=
  .ite (.core rfl h) h

protected theorem Keeps.fnObject {i sub : Nat} {d : Bytes} (h : Keeps r s) : Keeps r (fnObject s i sub d) :=
  .trimObject (.cscObject (.capObject h))

protected theorem Keeps.dictAnswer {m : Msg} (h : Keeps r s) : Keeps r (dictAnswer s m) := by
  unfold dictAnswer
  split
  · exact .core rfl h
  · dsimp only
    split
    · split
      · exact .answerOrigin (.core rfl h)
      · exact .answerOrigin (.fnObject (.core rfl h))
    · exact .answerOrigin (.core rfl h)

protected theorem Keeps.execDictRsp (h : Keeps r s) : KeepsNext r (execDictRsp s) := by
  unfold execDictRsp
  split
  · exact h
  · rename_i m t e
    have ht : KeepsOptSnd r (some (m, t)) := e ▸ Keeps.takeMsgIf h
    exact .ite ht (.dictAnswer ht)

protected theorem Keeps.execDictReqTimeout {tag : W16} (h : Keeps r s) : KeepsNext r (execDictReqTimeout tag s) := by
  unfold execDictReqTimeout
  split
  · exact h
  · split
    · dsimp only
      exact .answerOrigin (.raiseEmcy (.core rfl h))
    · exact h

/-! ### HostPort -/

protected theorem Keeps.execDramScrub {line : Nat} {k : EccKind} (h : Keeps r s) :
    KeepsNext r (execDramScrub line k s) := by
  unfold execDramScrub
  split
  · split
    · exact h
    · exact .core rfl h
    · exact .reportFault h
  · exact h

protected theorem Keeps.execDramRefresh {channel : CanPort} {tooHot : Bool} (h : Keeps r s) :
    KeepsNext r (execDramRefresh channel tooHot s) := by
  unfold execDramRefresh
  split
  · exact .ite (.raiseStanding h) (.clearStanding h)
  · exact h

protected theorem Keeps.execDramSelfRefreshExit (h : Keeps r s) : KeepsNext r (execDramSelfRefreshExit s) := by
  unfold execDramSelfRefreshExit
  split
  · exact .core rfl h
  · exact h

protected theorem Keeps.hostRefused {n : Nat} (h : Keeps r s) : Keeps r (hostRefused s n) := .emit h

protected theorem Keeps.bar4 {a : Nat} {write : Option Bytes} {n : Nat} (h : Keeps r s) :
    Keeps r (bar4 s a write n) := by
  unfold bar4
  dsimp only
  split
  · split
    · exact .hostRefused h
    · split
      · rename_i t e
        have ht : KeepsOpt r (some t) := e ▸ Keeps.actCheck h
        exact .hostRefused ht
      · split
        · exact .hostRefused h
        · exact .coherentWrite h
  · split
    · exact .hostRefused h
    · split
      · rename_i t e
        have ht : KeepsOpt r (some t) := e ▸ Keeps.actCheck h
        exact .hostRefused ht
      · split
        · exact .hostRefused h
        · exact .emit h

protected theorem Keeps.execHostBar4Access {offset : Nat} {write : Option Bytes} {n : Nat} (h : Keeps r s) :
    KeepsNext r (execHostBar4Access offset write n s) := by
  unfold execHostBar4Access
  dsimp only
  split
  · split
    · exact .bar4 h
    · exact h
  · split
    · exact .bar4 h
    · exact h

protected theorem Keeps.execPciePerst {level : Bool} (h : Keeps r s) : KeepsNext r (execPciePerst level s) := by
  unfold execPciePerst
  split <;> exact .core rfl h

/-! ### NodeCmd -/

protected theorem Keeps.execPhaseBusRecord (h : Keeps r s) : KeepsNext r (execPhaseBusRecord s) := by
  unfold execPhaseBusRecord
  split
  · dsimp only
    exact .ite (.tpdoMgcScan (.ite (.obWake (.deadlineSourceLoss (.releasedSeen (.core rfl (.phtAdvance h)))))
      (.core rfl (.phtAdvance h)))) (.ite (.obWake (.deadlineSourceLoss (.releasedSeen (.core rfl (.phtAdvance h)))))
        (.core rfl (.phtAdvance h)))
  · exact h

protected theorem Keeps.execNodeBoot (h : Keeps r s) : KeepsNext r (execNodeBoot s) := by
  unfold execNodeBoot
  split
  · exact .nodeStart h
  · exact h

protected theorem Keeps.enterNmt {st : Nmt} (h : Keeps r s) : Keeps r (enterNmt s st) :=
  .nmtEnter (.ite (.core rfl (.ite (.pertEndAll h) h)) (.ite (.pertEndAll h) h))

protected theorem Keeps.nmtForward {code : Nat} (h : Keeps r s) : Keeps r (nmtForward s code) := .ite (.toMembers h) h

protected theorem Keeps.resetParts (h : Keeps r s) : Keeps r (resetParts s) := by
  unfold resetParts
  exact .planeReset (.restoreObjects (.core rfl (.endSessions h)))

protected theorem Keeps.resetNode (h : Keeps r s) : Keeps r (resetNode s) := .nodeStart (.core rfl (.resetParts h))

protected theorem Keeps.execNmtStart {node : Byte} (h : Keeps r s) : KeepsNext r (execNmtStart node s) := by
  unfold execNmtStart
  split
  · exact .nmtForward (.enterNmt h)
  · exact h

protected theorem Keeps.execNmtStop {node : Byte} (h : Keeps r s) : KeepsNext r (execNmtStop node s) := by
  unfold execNmtStop
  split
  · exact .nmtForward (.enterNmt (.forgetChans h))
  · exact h

protected theorem Keeps.execNmtEnterPreOperational {node : Byte} (h : Keeps r s) :
    KeepsNext r (execNmtEnterPreOperational node s) := by
  unfold execNmtEnterPreOperational
  split
  · exact .nmtForward (.enterNmt h)
  · exact h

protected theorem Keeps.execNmtResetCommunication {node : Byte} (h : Keeps r s) :
    KeepsNext r (execNmtResetCommunication node s) := by
  unfold execNmtResetCommunication
  split
  · exact .nmtForward (.resetComm h)
  · exact h

protected theorem Keeps.execNmtResetNode {node : Byte} (h : Keeps r s) : KeepsNext r (execNmtResetNode node s) := by
  unfold execNmtResetNode
  split
  · exact .resetNode (.nmtForward h)
  · exact h

protected theorem Keeps.commError (h : Keeps r s) : Keeps r (commError s) := by
  unfold commError
  split
  · exact .nmtForward (.enterNmt (.ite (.forgetChans h) h))
  · exact h

protected theorem Keeps.execHeartbeatConsumerTimeout {entry : Fin 8} (h : Keeps r s) :
    KeepsNext r (execHeartbeatConsumerTimeout entry s) := by
  unfold execHeartbeatConsumerTimeout
  dsimp only
  split
  · exact .commError (.raiseStanding (.core rfl h))
  · exact h

protected theorem Keeps.execBusOffRecovery {port : CanPort} (h : Keeps r s) :
    KeepsNext r (execBusOffRecovery port s) := by
  unfold execBusOffRecovery
  split
  · dsimp only
    exact .commError (.raiseEmcy (.core rfl h))
  · exact h

protected theorem Keeps.execLoginChallenge {w : Session} (h : Keeps r s) : KeepsNext r (execLoginChallenge w s) := by
  unfold execLoginChallenge
  refine Keeps.openAccess h fun u hf0 => ?_
  split
  · rename_i r1 t e
    have ht : KeepsSnd r (r1, t) := e ▸ Keeps.newChallenge hf0
    exact .answerSess ht

protected theorem Keeps.execLoginResponse {w : Session} {rsp : Bytes} (h : Keeps r s) :
    KeepsNext r (execLoginResponse w rsp s) := by
  unfold execLoginResponse
  refine Keeps.openAccess h fun u hf0 => ?_
  split
  · exact .answerSess hf0
  · split
    · rename_i c t e
      have ht : KeepsSnd r (c, t) := e ▸ Keeps.loginRespond hf0
      exact .answerSess ht

protected theorem Keeps.execLoginLockoutEnd {port : CanPort} (h : Keeps r s) :
    KeepsNext r (execLoginLockoutEnd port s) := by
  unfold execLoginLockoutEnd
  split
  · exact .clearStanding (.core rfl h)
  · exact h

protected theorem Keeps.execChallengeExpire {w : Session} (h : Keeps r s) :
    KeepsNext r (execChallengeExpire w s) := by
  unfold execChallengeExpire
  split
  · exact .core rfl h
  · exact h

protected theorem Keeps.execSessionLogout {w : Session} {v : Byte} (h : Keeps r s) :
    KeepsNext r (execSessionLogout w v s) := by
  unfold execSessionLogout
  refine Keeps.openAccess h fun u hf0 => ?_
  split
  · rename_i c t e
    have ht : KeepsSnd r (c, t) := e ▸ Keeps.logoutWrite hf0
    exact .answerSess ht

protected theorem Keeps.execSessionIdleTimeout {w : Session} (h : Keeps r s) :
    KeepsNext r (execSessionIdleTimeout w s) := by
  unfold execSessionIdleTimeout
  split
  · exact .core rfl h
  · exact h

protected theorem Keeps.runXfer {port : CanPort} {x : Xfer} {op : Option Bytes} (h : Keeps r s) :
    Keeps r (runXfer s port x op) := .sessAccess (.core rfl h)

protected theorem Keeps.serveRequest {port : CanPort} {client : Byte} {index : W16} {sub : Byte} {op : SdoOp}
    (h : Keeps r s) :
    Keeps r (serveRequest s port client index sub op) := by
  unfold serveRequest
  split
  · exact .answerSess h
  · exact .runXfer h
  · exact .ite (.answerSess h) (.ite (.answerSess h) (.ite (.runXfer h) (.answerOut (.core rfl h))))

protected theorem Keeps.execSdoRequest {port : CanPort} {dst client : Byte} {index : W16} {sub : Byte} {op : SdoOp}
    (h : Keeps r s) :
    KeepsNext r (execSdoRequest port dst client index sub op s) := by
  unfold execSdoRequest
  split
  · exact h
  · exact Keeps.openAccess h (fun _ hf0 => .serveRequest hf0)

protected theorem Keeps.takeSegment {port : CanPort} {x : Xfer} {toggle : Bool} {data : Bytes} (h : Keeps r s) :
    Keeps r (takeSegment s port x toggle data) := by
  unfold takeSegment
  dsimp only
  split
  · exact .answerOut (.core rfl h)
  · split
    · exact .ite (.answerOut (.core rfl h)) (.ite (.runXfer h) (.answerOut (.core rfl h)))
    · exact .answerOut (.core rfl h)

protected theorem Keeps.execSdoSegment {port : CanPort} {client : Byte} {toggle : Bool} {data : Bytes} (h : Keeps r s) :
    KeepsNext r (execSdoSegment port client toggle data s) := by
  unfold execSdoSegment
  dsimp only
  split
  · split
    · split
      · exact .takeSegment h
      · exact .answerOut h
    · exact .answerOut h
  · exact h

protected theorem Keeps.execSdoSegmentTimeout {port : CanPort} (h : Keeps r s) :
    KeepsNext r (execSdoSegmentTimeout port s) := by
  unfold execSdoSegmentTimeout
  split
  · split
    · exact .answerOut (.core rfl h)
    · exact h
  · exact h

protected theorem Keeps.hostServe (h : Keeps r s) : Keeps r (hostServe s) := by
  unfold hostServe
  split
  · exact h
  · dsimp only
    split
    · exact .sessAccess (.core rfl h)
    · exact .core rfl h

protected theorem Keeps.hmbDoorbell {v : W32} (h : Keeps r s) : Keeps r (hmbDoorbell s v) :=
  .ite (.core rfl h) (.ite h (.ite (.core rfl h) (.hostServe (.core rfl h))))

protected theorem Keeps.execHmbDoorbell {v : W32} (h : Keeps r s) : KeepsNext r (execHmbDoorbell v s) := by
  unfold execHmbDoorbell
  split
  · exact .hmbDoorbell h
  · exact h

protected theorem Keeps.hostRegWrite {off : Nat} {v : W32} (h : Keeps r s) : Keeps r (hostRegWrite s off v) :=
  .ite (.hmbDoorbell h) (.ite (.core rfl h) (.ite (.core rfl h) (.ite (.core rfl h) h)))

protected theorem Keeps.execHmbResponse (h : Keeps r s) : KeepsNext r (execHmbResponse s) := by
  unfold execHmbResponse
  split
  · exact h
  · split
    · dsimp only
      exact .ite (.msixRaise (.core rfl h)) (.core rfl h)
    · exact h

protected theorem Keeps.execHostPost {q : QueueId} {job : Bytes} (h : Keeps r s) :
    KeepsNext r (execHostPost q job s) := by
  unfold execHostPost
  split
  · dsimp only
    split
    · rename_i val t e
      have ht : KeepsSnd r (some val, t) := e ▸ Keeps.initWrite h
      exact ht
    · rename_i t e
      have ht : KeepsSnd (α := Option BusErr) r (none, t) := e ▸ Keeps.initWrite h
      exact .initWrite ht
  · exact h

protected theorem Keeps.execRouteEnvelope {w : Session} {chip : ChipId} {data : Bytes} (h : Keeps r s) :
    KeepsNext r (execRouteEnvelope w chip data s) := Keeps.openAccess h (fun _ hf0 => .envelopeWrite hf0)

protected theorem Keeps.execRouteAnswer {r1 : RoutedAccess} {a : Answer} (h : Keeps r s) :
    KeepsNext r (execRouteAnswer r1 a s) := by
  unfold execRouteAnswer
  split
  · exact .routeAnswer h
  · exact h

protected theorem Keeps.execRouteTimeout {r1 : RoutedAccess} (h : Keeps r s) :
    KeepsNext r (execRouteTimeout r1 s) := by
  unfold execRouteTimeout
  split
  · exact .routeAnswer h
  · exact h

protected theorem Keeps.memberState {st : Nmt} (h : Keeps r s) : Keeps r (memberState s st) := .notice (.core rfl h)

protected theorem Keeps.memberNmt {code : Nat} (h : Keeps r s) : Keeps r (memberNmt s code) := by
  unfold memberNmt
  split
  · exact .enterNmt h
  · exact .enterNmt h
  · exact .enterNmt h
  · exact .memberState (.resetParts h)
  · exact .memberState (.restoreComm h)
  · exact h

protected theorem Keeps.takeMgmt {r1 : MgmtRec} (h : Keeps r s) : Keeps r (takeMgmt s r1) := by
  unfold takeMgmt
  split
  · exact .mgmtReport h
  · exact .mgmtReport h
  · exact .ite (.memberNmt (.mgmtReport h)) (.mgmtReport h)
  · dsimp only
    split
    · exact .mgmtReport h
    · split
      · exact .answerOrigin (.mgmtReport h)
      · exact .accessFor (.mgmtReport h)
  · exact .takeMembers (.mgmtReport h)

protected theorem Keeps.execMgmt {r1 : MgmtRec} (h : Keeps r s) : KeepsNext r (execMgmt r1 s) := by
  unfold execMgmt
  split
  · exact .takeMgmt h
  · exact h

/-! ### Resets -/

protected theorem Keeps.execWdtKick (h : Keeps r s) : KeepsNext r (execWdtKick s) := by
  unfold execWdtKick
  split
  · exact .core rfl h
  · exact h

protected theorem Keeps.execRefclkLoss (h : Keeps r s) : KeepsNext r (execRefclkLoss s) := by
  unfold execRefclkLoss
  split
  · exact h
  · exact .core rfl h

protected theorem Keeps.loadMgc {k : Fin 2} (h : Keeps r s) : Keeps r (loadMgc s k) :=
  have hw : Keeps r (s.wr mgmtBase
    (s.rd (flashBase + imageOff false k + 0x100) (s.rdLE (flashBase + imageOff false k + 0x0C) 4))) :=
    .wr h
  hw.trans { Keeps.refl _ with phase := nofun }

protected theorem Keeps.execBootRom (h : Keeps r s) : KeepsNext r (execBootRom s) := by
  have hstop : Keeps r { s with dev.phase := .romStopped } := h.trans { Keeps.refl s with phase := nofun }
  unfold execBootRom
  split
  · split
    · exact hstop
    · split
      · exact hstop
      · exact Keeps.loadMgc h
  · exact h

protected theorem Keeps.takeSettings (h : Keeps r s) : Keeps r (takeSettings s) := .core rfl h

protected theorem Keeps.bootGrant {d : DomId} (h : Keeps r s) : Keeps r (bootGrant s d) := by
  unfold bootGrant
  extract_lets u was t
  have hs : t.reef.slack = s.reef.slack + u - was := slack_vmod s.reef d _
  exact h.moveUnits (g := t.reef) (.refl _) ((slack_subFree t.reef _).trans (by omega))

protected theorem Keeps.bootGrants (h : Keeps r s) : Keeps r (bootGrants s) :=
  .ite (.core rfl (.bootGrant (.bootGrant h))) (.bootGrant (.bootGrant h))

protected theorem Keeps.bootEmcys (h : Keeps r s) : Keeps r (bootEmcys s) :=
  .ite (.raiseEmcy (.ite (.raiseEmcy (.ite (.raiseEmcy h) h)) (.ite (.raiseEmcy h) h)))
    (.ite (.raiseEmcy (.ite (.raiseEmcy h) h)) (.ite (.raiseEmcy h) h))

protected theorem Keeps.svnAdvance (h : Keeps r s) : Keeps r (svnAdvance s) :=
  .ite (h.setOtp (s.otp.within_svnRaise _ _)) h

/-! ### RegWrite -/

protected theorem Keeps.periRegWrite {by_ : BusBy} {init a : Nat} {v : W64} (h : Keeps r s) :
    Keeps r (periRegWrite s by_ init a v) := .ite h (.initWrite h)

protected theorem Keeps.actRegWrite {off : Nat} {v : W64} (h : Keeps r s) : Keeps r (actRegWrite s off v) :=
  .ite (.core rfl h) (.ite (.core rfl h) (.ite (.core rfl h) h))

protected theorem Keeps.reefRegWrite {off : Nat} {v : W64} (h : Keeps r s) : Keeps r (reefRegWrite s off v) := by
  unfold reefRegWrite
  split
  · exact .ite (.core rfl (.budgetWrite h)) (.budgetWrite h)
  · split
    · exact .core rfl h
    · split
      · split
        · exact .domMod h fun _ => rfl
        · exact h
      · exact h

protected theorem Keeps.pertRegWrite {off : Nat} {v : W64} (h : Keeps r s) : Keeps r (pertRegWrite s off v) :=
  .ite (.core rfl h) h

protected theorem Keeps.mgmtRegWrite {a : Nat} {v : W64} (h : Keeps r s) : Keeps r (mgmtRegWrite s a v) := by
  unfold mgmtRegWrite
  exact .ite (.wr h) (.ite (.actRegWrite h)
    (.ite (.reefRegWrite h)
      (.ite (.pertRegWrite h) (.ite (.phtRegWrite h) (.ite (.twWrite h) (.ite (.ite (.core rfl h) h) h))))))

protected theorem Keeps.execRegisterWrite {by_ : RegParty} {addr : Nat} {v : W64} (h : Keeps r s) :
    KeepsNext r (execRegisterWrite by_ addr v s) := by
  unfold execRegisterWrite
  split
  · exact .ite (.periRegWrite h) h
  · exact .ite (.periRegWrite h) h
  · split
    · exact .hostRegWrite h
    · exact h
  · split
    · exact h
    · split
      · exact .mgmtRegWrite h
      · split
        · exact h
        · split
          · exact h
          · exact .busWrite h

/-! ### Tile -/

protected theorem Keeps.tileTake {c : CoreId} {d : ConvDesc} {q : SeqRun} (h : Keeps r q.s) : Keeps r (tileTake c d q)
    :=
  .afterDraw (.coreMod h)

protected theorem Keeps.tileDo {α : Type} {c : CoreId} {d : ConvDesc} {m : SeqM α} (h : Keeps r s) (hm : SeqKeeps m) :
    KeepsSnd r (tileDo s c d m) := Keeps.tileTake (hm (Keeps r) (tileStart s c) (Keeps.seqClosed r) h)

protected theorem Keeps.tileStatus {c : CoreId} {desc status rdBytes : Nat} (h : Keeps r s) :
    Keeps r (tileStatus s c desc status rdBytes) := .noteHomeWrite (.wr (.wr h))

protected theorem Keeps.tileBusErr {c : CoreId} {a : Nat} (h : Keeps r s) : Keeps r (tileBusErr s c a) := .planFault h

protected theorem Keeps.tileBegin {c : CoreId} {desc : Nat} {at_ : Option (BitVec 15 × BitVec 5)} (h : Keeps r s) :
    Keeps r (tileBegin s c desc at_) := by
  unfold tileBegin
  extract_lets b u d idle
  have hu : Keeps r u := .ite h (.coreMod h)
  split
  · exact .coreMod (.tileStatus hu)
  · split
    · exact .coreMod (.tileStatus hu)
    · have ht : KeepsSnd r (tileDo u c d (blockOk (tileUnit u c) d)) := .tileDo hu .blockOk
      split <;> rename_i e <;> rw [e] at ht
      · exact .tileBusErr (.coreMod ht)
      · exact .coreMod (.tileStatus ht)
      · exact .coreMod (.tileStatus ht)
      · exact .coreMod ht

protected theorem Keeps.tileRows {c : CoreId} {n : Nat} (h : Keeps r s) : KeepsSnd r (tileRows s c n) :=
  Keeps.tileDo h .runUnit

protected theorem Keeps.tileEnd {c : CoreId} {status : Nat} (h : Keeps r s) : Keeps r (tileEnd s c status) :=
  .coreMod (.tileStatus (.afterDraw h))

protected theorem Keeps.tileAfter {c : CoreId} {p : Except SeqErr Unit × State} {ok : State → State} (h : KeepsSnd r p)
    (hok : ∀ t, Keeps r t → Keeps r (ok t)) : Keeps r (tileAfter c p ok) := by
  unfold tileAfter
  split
  · exact hok _ h
  · exact .tileBusErr h
  · exact .tileEnd h

protected theorem Keeps.execTileComplete {c : CoreId} (h : Keeps r s) : KeepsNext r (execTileComplete c s) := by
  unfold execTileComplete
  split
  · exact .tileAfter (Keeps.tileRows h) (fun _ hf0 => .tileEnd hf0)
  · exact h

protected theorem Keeps.execTileSuspend {c : CoreId} {rows : Nat} (h : Keeps r s) :
    KeepsNext r (execTileSuspend c rows s) := by
  unfold execTileSuspend
  dsimp only
  split
  · exact .tileAfter (Keeps.tileRows h) (fun _ hf0 => (.ite (.tileEnd hf0) (.coreMod hf0)))
  · exact h

/-! ### Spar -/

protected theorem Keeps.sparAsk {c : CoreId} {addr : Nat} {home : ChipId} {off n : Nat} (h : Keeps r s) :
    KeepsAcc r (sparAsk s c addr home off n) := by
  unfold sparAsk
  split
  · split <;> exact h
  · split
    · exact h
    · exact h
    · rename_i tag t e
      have ht : KeepsRemTry r (RemTry.sent tag t) := e ▸ Keeps.remoteRequest h
      exact .coreMod ht

protected theorem Keeps.sparAskAll {c : CoreId} {addr : Nat} {home : ChipId} {a : List (Nat × Bytes)} (h : Keeps r s) :
    KeepsAcc r (sparAskAll c addr home a s) := by
  induction a generalizing c addr home s with
  | nil =>
    unfold sparAskAll
    exact h
  | cons a l ih =>
    unfold sparAskAll
    split
    · rename_i t e
      have ht : KeepsAcc r (AccRes.ok t) := e ▸ Keeps.sparAsk h
      exact (ih ht)
    · rename_i t e
      have ht : KeepsAcc r (AccRes.wait t) := e ▸ Keeps.sparAsk h
      split
      · rename_i t1 e1
        have ht1 : KeepsAcc r (AccRes.ok t1) := e1 ▸ (ih ht)
        exact ht1
      · exact (ih ht)
    · exact Keeps.sparAsk h

protected theorem Keeps.accCheck {c : CoreId} {store : Bool} {addr n : Nat} (h : Keeps r s) :
    KeepsAcc r (accCheck s c store addr n) := by
  unfold accCheck
  split
  · split
    · split <;> exact h
    · exact Keeps.sparAskAll h
  · split
    · exact h
    · split
      · rename_i t e
        have ht : KeepsOpt r (some t) := e ▸ Keeps.actCheck h
        exact ht
      · split <;> exact h

protected theorem Keeps.accChecks {c : CoreId} {a : List (Bool × Nat × Nat)} (h : Keeps r s) :
    KeepsAcc r (accChecks c a s) := by
  induction a generalizing c s with
  | nil =>
    unfold accChecks
    exact h
  | cons a l ih =>
    unfold accChecks
    split
    · rename_i t e
      have ht : KeepsAcc r (AccRes.ok t) := e ▸ Keeps.accCheck h
      exact (ih ht)
    · rename_i t e
      have ht : KeepsAcc r (AccRes.wait t) := e ▸ Keeps.accCheck h
      split
      · rename_i t1 e1
        have ht1 : KeepsAcc r (AccRes.ok t1) := e1 ▸ (ih ht)
        exact ht1
      · exact (ih ht)
    · exact Keeps.accCheck h

protected theorem Keeps.sparGet {c : CoreId} {addr n : Nat} (h : Keeps r s) : KeepsSnd r (sparGet s c addr n) := by
  unfold sparGet
  split
  · exact h
  · split
    · exact h
    · split
      · rename_i b t e
        have ht : KeepsSnd (α := Except BusErr Bytes) r (Except.ok b, t) := e ▸ Keeps.initRead h
        exact ht
      · rename_i e t e1
        have ht : KeepsSnd (α := Except BusErr Bytes) r (Except.error e, t) := e1 ▸ Keeps.initRead h
        exact ht

protected theorem Keeps.sparGetAll {c : CoreId} {a : List (Nat × Nat)} (h : Keeps r s) :
    KeepsSnd r (sparGetAll c a s) := by
  induction a generalizing c s with
  | nil =>
    unfold sparGetAll
    exact h
  | cons a l ih =>
    unfold sparGetAll
    split
    · rename_i r1 t e
      have ht : KeepsSnd r (r1, t) := e ▸ Keeps.sparGet h
      split
      · rename_i r2 t1 e1
        have ht1 : KeepsSnd r (r2, t1) := e1 ▸ (ih ht)
        exact ht1

protected theorem Keeps.sparPut {c : CoreId} {addr : Nat} {bs : Bytes} (h : Keeps r s) :
    Keeps r (sparPut s c addr bs) := by
  unfold sparPut
  split
  · exact .remoteWrite h
  · exact .ite (.noteHomeWrite (.wr h)) (.initWrite h)

protected theorem Keeps.sparPutAll {c : CoreId} {a : List (Nat × Nat)} {a1 : Bytes} (h : Keeps r s) :
    Keeps r (sparPutAll c a a1 s) := by
  induction a generalizing c a1 s with
  | nil =>
    unfold sparPutAll
    exact h
  | cons a l ih =>
    unfold sparPutAll
    exact ih (.sparPut h)

protected theorem Keeps.maskedPut {c : CoreId} {p : W64} {as_ : List Nat} {bs : Bytes} (h : Keeps r s) :
    Keeps r (maskedPut c p as_ bs s) := .foldl h (fun _ _ hf0 => (.ite (.sparPut hf0) hf0))

protected theorem Keeps.lsStore {x : SparCore} {c : CoreId} {w : Nat} (h : Keeps r s) :
    Keeps r (lsStore x c w s) := by
  unfold lsStore
  split
  · exact h
  · split
    · exact h
    · dsimp only
      exact .ite (.maskedPut h) (.sparPutAll h)

protected theorem Keeps.lsLoad {x0 : SparCore} {c : CoreId} {w : Nat} {x : SparCore} (h : Keeps r s) :
    KeepsSnd r (lsLoad x0 c w x s) := by
  unfold lsLoad
  split
  · exact h
  · split
    · exact h
    · split
      · rename_i r1 t e
        have ht : KeepsSnd r (r1, t) := e ▸ Keeps.sparGetAll h
        exact ht

protected theorem Keeps.sbAct {x0 : SparCore} {c : CoreId} {w : Nat} (h : Keeps r s) : Keeps r (sbAct x0 c w s) := by
  unfold sbAct
  split
  · exact h
  · split
    · dsimp only
      exact .ite (.tileBegin (.coreMod h)) (.coreMod h)
    · exact .doneIssue h
    · split
      · exact .obWait h
      · split
        · exact .ite h (.obPublish h)
        · exact h
      · split
        · exact .obdSweep (.obdMod h)
        · exact h
    · exact h

protected theorem Keeps.bundleDo {c : CoreId} {b : Bundle} {tmData : Bytes × List Sat} (h : Keeps r s) :
    Keeps r (bundleDo s c b tmData) :=
  .passIssue (.sbAct (.ite
    (.tileBegin (.ite (.sparPut
      (.lsStore (.lsStore (.coreMod (.ite (.spReadDraw (.ite (.cycCatchUp (.lsLoad (.lsLoad h))) (.lsLoad (.lsLoad h))))
        (.lsLoad (.lsLoad h)))))))
          (.lsStore (.lsStore (.coreMod
            (.ite (.spReadDraw (.ite (.cycCatchUp (.lsLoad (.lsLoad h))) (.lsLoad (.lsLoad h))))
              (.lsLoad (.lsLoad h))))))))
                (.ite (.sparPut (.lsStore
                  (.lsStore (.coreMod (.ite
                    (.spReadDraw (.ite (.cycCatchUp (.lsLoad (.lsLoad h))) (.lsLoad (.lsLoad h))))
                      (.lsLoad (.lsLoad h)))))))
                        (.lsStore (.lsStore (.coreMod
                          (.ite (.spReadDraw (.ite (.cycCatchUp (.lsLoad (.lsLoad h))) (.lsLoad (.lsLoad h))))
                            (.lsLoad (.lsLoad h)))))))))

protected theorem Keeps.bundleIssue {c : CoreId} (h : Keeps r s) : KeepsNext r (bundleIssue s c) := by
  unfold bundleIssue
  dsimp only
  split
  · exact .planFault h
  · split
    · exact .passCycles h
    · split
      · exact .planFault h
      · split
        · rename_i code det t e
          have ht : KeepsAcc r (AccRes.fault code det t) := e ▸ Keeps.accChecks h
          exact .planFault ht
        · rename_i t e
          have ht : KeepsAcc r (AccRes.wait t) := e ▸ Keeps.accChecks h
          exact .passCycles ht
        · rename_i t e
          have ht : KeepsAcc r (AccRes.ok t) := e ▸ Keeps.accChecks h
          split
          · split
            · rename_i code det t1 e1
              have ht1 : KeepsAcc r (AccRes.fault code det t1) := e1 ▸ Keeps.accCheck (.sparGetAll ht)
              exact .planFault ht1
            · rename_i t1 e1
              have ht1 : KeepsAcc r (AccRes.wait t1) := e1 ▸ Keeps.accCheck (.sparGetAll ht)
              exact ht1
            · rename_i t1 e1
              have ht1 : KeepsAcc r (AccRes.ok t1) := e1 ▸ Keeps.accCheck (.sparGetAll ht)
              exact .bundleDo ht1
          · exact .bundleDo (.sparGetAll ht)

protected theorem Keeps.execBundleIssue {c : CoreId} (h : Keeps r s) : KeepsNext r (execBundleIssue c s) := by
  unfold execBundleIssue
  dsimp only
  split
  · exact Keeps.bundleIssue h
  · exact h

protected theorem Keeps.execWaitphResume {c : CoreId} (h : Keeps r s) : KeepsNext r (execWaitphResume c s) := by
  unfold execWaitphResume
  split
  · split
    · exact .passCycles (.coreMod h)
    · exact h
  · exact h

protected theorem Keeps.execSparInterrupt {c : CoreId} (h : Keeps r s) : KeepsNext r (execSparInterrupt c s) := by
  unfold execSparInterrupt
  split
  · exact .passCycles (.coreMod h)
  · exact h

/-! ### Tap -/

protected theorem Keeps.execTapBypass {tdi : Bool} (h : Keeps r s) : KeepsNext r (execTapBypass tdi s) :=
  .emit (.core rfl h)

protected theorem Keeps.execTapIdcode (h : Keeps r s) : KeepsNext r (execTapIdcode s) := .emit (.core rfl h)

protected theorem Keeps.execTapSamplePreload {boundary : List Bool} (h : Keeps r s) :
    KeepsNext r (execTapSamplePreload boundary s) := .emit (.core rfl h)

protected theorem Keeps.execTapExtest (h : Keeps r s) : KeepsNext r (execTapExtest s) := .emit (.core rfl h)

/-! ## The commands -/

/-- Keeps, but for the lock of Cleat D, the phase and what resets and the release of RESET_N capture. -/
structure KeepsMost (r s : State) : Prop where
  pending : s.pending = r.pending
  cells : r.otp.within s.otp
  out : r.out <+: s.out
  mem : r.memWf = true → s.memWf = true
  cap : r.capWf = true → s.capWf = true
  cache : r.cacheWf = true → s.cacheWf = true
  units : r.reefBalanced → s.reefBalanced

theorem Keeps.most (h : Keeps r s) : KeepsMost r s := ⟨h.pending, h.cells, h.out, h.mem, h.cap, h.cache, h.units⟩

theorem KeepsMost.trans (h : KeepsMost r s) (g : KeepsMost s t) : KeepsMost r t where
  pending := g.pending.trans h.pending
  cells a i e := g.cells a i (h.cells a i e)
  out := h.out.trans g.out
  mem e := g.mem (h.mem e)
  cap e := g.cap (h.cap e)
  cache e := g.cache (h.cache e)
  units e := g.units (h.units e)

/-- A change outside these parts keeps most. -/
theorem KeepsMost.core (h : KeepsMost r s) (e : ({ t with dev := s.dev, cleatD := s.cleatD } : State).core =
      (s.pending, s.out, s.mem, s.cleatD, s.otp.cells,
      (s.dev.phase, s.dev.strapMode, s.dev.strapNode, s.dev.strapFab, s.dev.bankA33, s.dev.bankB33),
      s.cap.ctxs, s.cap.lastSet, s.mast.cache, s.reef.free, s.reef.transit, s.reef.eff, s.reef.doms)) : KeepsMost r t :=
  have g := (Keeps.core e (.refl s)).most
  h.trans ⟨g.pending, g.cells, g.out, g.mem, g.cap, g.cache, g.units⟩

/-- The commands that set the phase, the straps, the banks' modes or Cleat D: the device resets, the release of RESET_N
and the boot of MGC firmware. -/
def restarts : Instr → Bool
  | .por _ _ _ _ => true
  | .pinReset _ => true
  | .mwdt => true
  | .resetNRelease _ _ _ _ => true
  | .mgcBoot => true
  | _ => false

/-- Every other command keeps what Keeps names. -/
theorem exec_keeps {c : Instr} (s : State) (hc : restarts c = false) : KeepsNext s (exec c s) := by
  have h := Keeps.refl s
  cases c with
  | por => cases hc
  | pinReset => cases hc
  | resetNRelease => cases hc
  | mwdt => cases hc
  | mgcBoot => cases hc
  | wdtKick => exact Keeps.execWdtKick h
  | refclkLoss => exact Keeps.execRefclkLoss h
  | bootRom => exact Keeps.execBootRom h
  | nodeBoot => exact Keeps.execNodeBoot h
  | cprRequest => exact Keeps.execCprRequest h
  | dprRequest => exact Keeps.execDprRequest h
  | cprDprRequest => exact Keeps.execCprDprRequest h
  | cprRelease => exact Keeps.execCprRelease h
  | dprEnd => exact Keeps.execDprEnd h
  | c2mWrite => exact Keeps.execC2mWrite h
  | m2cReadIndexWrite => exact Keeps.execM2cReadIndexWrite h
  | dictRsp => exact Keeps.execDictRsp h
  | imageUpdate => exact Keeps.execImageUpdate h
  | appReg => exact Keeps.execAppReg h
  | appUnreg => exact Keeps.execAppUnreg h
  | actReq => exact Keeps.execActReq h
  | actStationApply => exact Keeps.execActStationApply h
  | actRsp => exact Keeps.execActRsp h
  | reefReq => exact Keeps.execReefReq h
  | reefRsp => exact Keeps.execReefRsp h
  | emcyReq => exact Keeps.execEmcyReq h
  | ctlFault => exact Keeps.execCtlFault h
  | clbPostWrite => exact Keeps.execClbPostWrite h
  | clbReadWrite => exact Keeps.execClbReadWrite h
  | clbCfgWrite => exact Keeps.execClbCfgWrite h
  | hostPost => exact Keeps.execHostPost h
  | faultReport => exact Keeps.execFaultReport h
  | fence => exact Keeps.execFence h
  | fenceTakesEffect => exact Keeps.execFenceTakesEffect h
  | clcLostClear => exact Keeps.execClcLostClear h
  | phaseBusRecord => exact Keeps.execPhaseBusRecord h
  | quadEdge => exact Keeps.execQuadEdge h
  | indexPulse => exact Keeps.execIndexPulse h
  | indexMissing => exact Keeps.execIndexMissing h
  | ssiWord => exact Keeps.execSsiWord h
  | mainsFrame => exact Keeps.execMainsFrame h
  | mainsZcEdge => exact Keeps.execMainsZcEdge h
  | mainsLockLoss => exact Keeps.execMainsLockLoss h
  | sourceStall => exact Keeps.execSourceStall h
  | ntSyncExpiry => exact Keeps.execNtSyncExpiry h
  | slotFire => exact Keeps.execSlotFire h
  | phaseOutPulseEnd => exact Keeps.execPhaseOutPulseEnd h
  | slotFallback => exact Keeps.execSlotFallback h
  | slotArm => exact Keeps.execSlotArm h
  | slotTargetCommit => exact Keeps.execSlotTargetCommit h
  | phaseEventArrive => exact Keeps.execPhaseEventArrive h
  | phtRdyWrite => exact Keeps.execPhtRdyWrite h
  | deadlinePhaseCross => exact Keeps.execDeadlinePhaseCross h
  | deadlineExpire => exact Keeps.execDeadlineExpire h
  | nmtStart => exact Keeps.execNmtStart h
  | nmtStop => exact Keeps.execNmtStop h
  | nmtEnterPreOperational => exact Keeps.execNmtEnterPreOperational h
  | nmtResetCommunication => exact Keeps.execNmtResetCommunication h
  | nmtResetNode => exact Keeps.execNmtResetNode h
  | loginChallenge => exact Keeps.execLoginChallenge h
  | loginResponse => exact Keeps.execLoginResponse h
  | loginLockoutEnd => exact Keeps.execLoginLockoutEnd h
  | challengeExpire => exact Keeps.execChallengeExpire h
  | sessionLogout => exact Keeps.execSessionLogout h
  | sessionIdleTimeout => exact Keeps.execSessionIdleTimeout h
  | sdoRequest => exact Keeps.execSdoRequest h
  | sdoSegment => exact Keeps.execSdoSegment h
  | sdoSegmentTimeout => exact Keeps.execSdoSegmentTimeout h
  | dictReqTimeout => exact Keeps.execDictReqTimeout h
  | rpdoReceive => exact Keeps.execRpdoReceive h
  | syncReceive => exact Keeps.execSyncReceive h
  | tpdoEventTimer => exact Keeps.execTpdoEventTimer h
  | tpdoInhibitEnd => exact Keeps.execTpdoInhibitEnd h
  | heartbeatProduce => exact Keeps.execHeartbeatProduce h
  | heartbeatReceive _ _ state => exact Keeps.execHeartbeatReceive (state := state) h
  | heartbeatConsumerTimeout => exact Keeps.execHeartbeatConsumerTimeout h
  | canBusOff => exact Keeps.execCanBusOff h
  | canErrorPassive => exact Keeps.execCanErrorPassive h
  | canRxOverrun => exact Keeps.execCanRxOverrun h
  | timeReceive => exact Keeps.execTimeReceive h
  | emcySend => exact Keeps.execEmcySend h
  | pollDue => exact Keeps.execPollDue h
  | pollResponse => exact Keeps.execPollResponse h
  | pollTimeout => exact Keeps.execPollTimeout h
  | hmbDoorbell => exact Keeps.execHmbDoorbell h
  | hmbResponse => exact Keeps.execHmbResponse h
  | routeEnvelope => exact Keeps.execRouteEnvelope h
  | routeAnswer => exact Keeps.execRouteAnswer h
  | routeTimeout => exact Keeps.execRouteTimeout h
  | ingressRecord => exact Keeps.execIngressRecord h
  | sframeFragment => exact Keeps.execSframeFragment h
  | rtpPacket => exact Keeps.execRtpPacket h
  | assemblyTimeout => exact Keeps.execAssemblyTimeout h
  | csiFrameStart => exact Keeps.execCsiFrameStart h
  | csiPacket => exact Keeps.execCsiPacket h
  | csiFrameEnd => exact Keeps.execCsiFrameEnd h
  | twPollDue => exact Keeps.execTwPollDue h
  | twPollDone => exact Keeps.execTwPollDone h
  | capAcq => exact Keeps.execCapAcq h
  | capPush => exact Keeps.execCapPush h
  | hostSlotTimeout => exact Keeps.execHostSlotTimeout h
  | capRel => exact Keeps.execCapRel h
  | capRoiCommit => exact Keeps.execCapRoiCommit h
  | contextWrite => exact Keeps.execContextWrite h
  | jpegDecodeStart => exact Keeps.execJpegDecodeStart h
  | jpegRowDecoded => exact Keeps.execJpegRowDecoded h
  | jpegDecodeEnd => exact Keeps.execJpegDecodeEnd h
  | alignWindowClose => exact Keeps.execAlignWindowClose h
  | alignSetOffer => exact Keeps.execAlignSetOffer h
  | sourceLossTimeout => exact Keeps.execSourceLossTimeout h
  | bundleIssue => exact Keeps.execBundleIssue h
  | waitphResume => exact Keeps.execWaitphResume h
  | sparInterrupt => exact Keeps.execSparInterrupt h
  | tileSuspend => exact Keeps.execTileSuspend h
  | tileComplete => exact Keeps.execTileComplete h
  | sparWatchdog => exact Keeps.execSparWatchdog h
  | tcmError => exact Keeps.execTcmError h
  | spCntclr => exact Keeps.execSpCntclr h
  | eeDescriptor => exact Keeps.execEeDescriptor h
  | eeDescriptorEnd => exact Keeps.execEeDescriptorEnd h
  | eeError => exact Keeps.execEeError h
  | planLoad => exact Keeps.execPlanLoad h
  | planCoreLoad => exact Keeps.execPlanCoreLoad h
  | jobTake => exact Keeps.execJobTake h
  | courseDispatch => exact Keeps.execCourseDispatch h
  | courseStealLocal => exact Keeps.execCourseStealLocal h
  | prefetchCancelDone => exact Keeps.execPrefetchCancelDone h
  | haloWaitExpiry => exact Keeps.execHaloWaitExpiry h
  | courseCommit => exact Keeps.execCourseCommit h
  | commitCopyDone => exact Keeps.execCommitCopyDone h
  | jobComplete => exact Keeps.execJobComplete h
  | courseRecall => exact Keeps.execCourseRecall h
  | remoteStealRequest => exact Keeps.execRemoteStealRequest h
  | steal => exact Keeps.execSteal h
  | stealresp => exact Keeps.execStealresp h
  | remotePullDone => exact Keeps.execRemotePullDone h
  | trimLoad => exact Keeps.execTrimLoad h
  | trimLoadDone => exact Keeps.execTrimLoadDone h
  | trimRun => exact Keeps.execTrimRun h
  | trimReplay => exact Keeps.execTrimReplay h
  | trimAbort => exact Keeps.execTrimAbort h
  | trimStatus => exact Keeps.execTrimStatus h
  | trimEnergy => exact Keeps.execTrimEnergy h
  | trimRdreg => exact Keeps.execTrimRdreg h
  | trimWrreg => exact Keeps.execTrimWrreg h
  | trimSweepStart => exact Keeps.execTrimSweepStart h
  | trimGroupStep => exact Keeps.execTrimGroupStep h
  | trimSweepEnd => exact Keeps.execTrimSweepEnd h
  | trimx => exact Keeps.execTrimx h
  | trimPeerTimeout => exact Keeps.execTrimPeerTimeout h
  | trimFinal => exact Keeps.execTrimFinal h
  | trimRunEnd => exact Keeps.execTrimRunEnd h
  | trimReclaimStop => exact Keeps.execTrimReclaimStop h
  | trimUncorrectable => exact Keeps.execTrimUncorrectable h
  | pairIssue => exact Keeps.execPairIssue h
  | mastLoad => exact Keeps.execMastLoad h
  | mastStore => exact Keeps.execMastStore h
  | storeBufferDrain => exact Keeps.execStoreBufferDrain h
  | storeError => exact Keeps.execStoreError h
  | integerOp => exact Keeps.execIntegerOp h
  | mulDivOp => exact Keeps.execMulDivOp h
  | fpOp => exact Keeps.execFpOp h
  | branch => exact Keeps.execBranch h
  | jal => exact Keeps.execJal h
  | jalr => exact Keeps.execJalr h
  | lr => exact Keeps.execLr h
  | sc => exact Keeps.execSc h
  | tasB => exact Keeps.execTasB h
  | reservationExpire => exact Keeps.execReservationExpire h
  | cwswp => exact Keeps.execCwswp h
  | cwset => exact Keeps.execCwset h
  | cwclr => exact Keeps.execCwclr h
  | cwswpi => exact Keeps.execCwswpi h
  | cwseti => exact Keeps.execCwseti h
  | cwclri => exact Keeps.execCwclri h
  | sysreq => exact Keeps.execSysreq h
  | dbrk => exact Keeps.execDbrk h
  | rets => exact Keeps.execRets h
  | waiti => exact Keeps.execWaiti h
  | retm => exact Keeps.execRetm h
  | mastFence => exact Keeps.execMastFence h
  | ifence => exact Keeps.execIfence h
  | dclCln => exact Keeps.execDclCln h
  | dclInv => exact Keeps.execDclInv h
  | dclFls => exact Keeps.execDclFls h
  | dclZro => exact Keeps.execDclZro h
  | iclInv => exact Keeps.execIclInv h
  | qld => exact Keeps.execQld h
  | qst => exact Keeps.execQst h
  | qOp => exact Keeps.execQOp h
  | cp0Post => exact Keeps.execCp0Post h
  | cp0Qstat => exact Keeps.execCp0Qstat h
  | cp0Doorbell => exact Keeps.execCp0Doorbell h
  | cp2Rdreg => exact Keeps.execCp2Rdreg h
  | cp2Wrreg => exact Keeps.execCp2Wrreg h
  | cp2Ntstep => exact Keeps.execCp2Ntstep h
  | cp2Rdnow => exact Keeps.execCp2Rdnow h
  | cpx => exact Keeps.execCpx h
  | cpxresp => exact Keeps.execCpxresp h
  | mastTrap => exact Keeps.execMastTrap h
  | mastInterrupt => exact Keeps.execMastInterrupt h
  | mcIpi => exact Keeps.execMcIpi h
  | mcHartctlRun1 => exact Keeps.execMcHartctlRun1 h
  | cleanAll => exact Keeps.execCleanAll h
  | flushAll => exact Keeps.execFlushAll h
  | cmoDone => exact Keeps.execCmoDone h
  | mastCacheEcc => exact Keeps.execMastCacheEcc h
  | ddrInit => exact Keeps.execDdrInit h
  | ddrReady => exact Keeps.execDdrReady h
  | dramScrub => exact Keeps.execDramScrub h
  | dramRefresh => exact Keeps.execDramRefresh h
  | dramSelfRefreshExit => exact Keeps.execDramSelfRefreshExit h
  | hostBar4Access => exact Keeps.execHostBar4Access h
  | pcieMsixRaise => exact Keeps.execPcieMsixRaise h
  | msixUnmask => exact Keeps.execMsixUnmask h
  | pciePerst => exact Keeps.execPciePerst h
  | portDetect => exact Keeps.execPortDetect h
  | portEqDone => exact Keeps.execPortEqDone h
  | portAlign => exact Keeps.execPortAlign h
  | portConfig => exact Keeps.execPortConfig h
  | portRetrain => exact Keeps.execPortRetrain h
  | portRetrainDone => exact Keeps.execPortRetrainDone h
  | portDown => exact Keeps.execPortDown h
  | portDownEnd => exact Keeps.execPortDownEnd h
  | flitReceive => exact Keeps.execFlitReceive h
  | nakReceive => exact Keeps.execNakReceive h
  | replayTimeout => exact Keeps.execReplayTimeout h
  | remoteResponseTimeout => exact Keeps.execRemoteResponseTimeout h
  | homeReservationExpire => exact Keeps.execHomeReservationExpire h
  | fabricGo => exact Keeps.execFabricGo h
  | hello => exact Keeps.execHello h
  | fabricElection => exact Keeps.execFabricElection h
  | fabricHeartbeat => exact Keeps.execFabricHeartbeat h
  | chipLossTimeout => exact Keeps.execChipLossTimeout h
  | lost => exact Keeps.execLost h
  | headHeartbeatTimeout => exact Keeps.execHeadHeartbeatTimeout h
  | join => exact Keeps.execJoin h
  | mgmt => exact Keeps.execMgmt h
  | twCommand => exact Keeps.execTwCommand h
  | twTransferObject => exact Keeps.execTwTransferObject h
  | twTransferStart => exact Keeps.execTwTransferStart h
  | twTransferEnd => exact Keeps.execTwTransferEnd h
  | twArbLost => exact Keeps.execTwArbLost h
  | twArbRetry => exact Keeps.execTwArbRetry h
  | twTargetAddress => exact Keeps.execTwTargetAddress h
  | twTargetWriteByte => exact Keeps.execTwTargetWriteByte h
  | twTargetReadByte => exact Keeps.execTwTargetReadByte h
  | twStop => exact Keeps.execTwStop h
  | twWindowInternalWrite => exact Keeps.execTwWindowInternalWrite h
  | twBusFree => exact Keeps.execTwBusFree h
  | twEnableWrite => exact Keeps.execTwEnableWrite h
  | twDoze => exact Keeps.execTwDoze h
  | twDozeWake => exact Keeps.execTwDozeWake h
  | twSleep => exact Keeps.execTwSleep h
  | twSleepWake => exact Keeps.execTwSleepWake h
  | twBusTimeout => exact Keeps.execTwBusTimeout h
  | twSclFault => exact Keeps.execTwSclFault h
  | twRecovery => exact Keeps.execTwRecovery h
  | twReenable => exact Keeps.execTwReenable h
  | twSdaLow => exact Keeps.execTwSdaLow h
  | twSdaRise => exact Keeps.execTwSdaRise h
  | autoDemandRaise => exact Keeps.execAutoDemandRaise h
  | autoDemandDrop => exact Keeps.execAutoDemandDrop h
  | reefGrant => exact Keeps.execReefGrant h
  | reefDomainReady => exact Keeps.execReefDomainReady h
  | reefGrantTimeout d =>
    have ht : KeepsNext s (execReefGrantTimeout d s) := Keeps.execReefGrantTimeout h
    exact ht
  | reefReclaimAck => exact Keeps.execReefReclaimAck h
  | reefTransitReturn => exact Keeps.execReefTransitReturn h
  | reefReclaimTimeout => exact Keeps.execReefReclaimTimeout h
  | reefBudgetWrite => exact Keeps.execReefBudgetWrite h
  | thermalSample => exact Keeps.execThermalSample h
  | otpStage => exact Keeps.execOtpStage h
  | otpProgram => exact Keeps.execOtpProgram h
  | otpProgramEnd => exact Keeps.execOtpProgramEnd h
  | otpKeyProgram => exact Keeps.execOtpKeyProgram h
  | mastDebugLock => exact Keeps.execMastDebugLock h
  | mastSvnWrite => exact Keeps.execMastSvnWrite h
  | flashOffset => exact Keeps.execFlashOffset h
  | flashProgram => exact Keeps.execFlashProgram h
  | flashErase => exact Keeps.execFlashErase h
  | dapWindowWrite => exact Keeps.execDapWindowWrite h
  | dapAccess => exact Keeps.execDapAccess h
  | tapBypass => exact Keeps.execTapBypass h
  | tapIdcode => exact Keeps.execTapIdcode h
  | tapSamplePreload => exact Keeps.execTapSamplePreload h
  | tapExtest => exact Keeps.execTapExtest h
  | pertActivate => exact Keeps.execPertActivate h
  | pertDisable => exact Keeps.execPertDisable h
  | pertExpire => exact Keeps.execPertExpire h
  | ioEdge => exact Keeps.execIoEdge h
  | registerWrite => exact Keeps.execRegisterWrite h
  | twStartDetected => exact Keeps.execTwStartDetected h
  | busOffRecovery => exact Keeps.execBusOffRecovery h
  | flashUpdateDone => exact Keeps.execFlashUpdateDone h
  | otpKeyProgramEnd => exact Keeps.execOtpKeyProgramEnd h
  | resetReq => exact Keeps.execResetReq h

/-! ### The device resets -/

/-- What a device reset starts from, with the operations on flash and OTP that it struck. -/
theorem struck_keeps (s : State) : Keeps s (flashStruck (otpStruck s)) := .flashStruck (.otpStruck (.refl s))

theorem reset_balanced : State.reset.reefBalanced := by
  rw [State.reefBalanced]
  decide

theorem deviceReset_most (s : State) : KeepsMost s (deviceReset s) :=
  (struck_keeps s).most.trans
    { pending := rfl
      cells := fun _ _ e => e
      out := List.prefix_rfl
      mem := fun e => Tbl.wf_filter _ e
      cap := fun _ => rfl
      cache := fun _ => rfl
      units := fun _ => reset_balanced }

/-- A device reset leaves the straps and the banks' modes. -/
theorem deviceReset_fixed (s : State) : (deviceReset s).dev.fixed = s.dev.fixed := (struck_keeps s).fixed

/-! ### Every command -/

/-- The straps. -/
def Dev.straps (d : Dev) : BitVec 3 × BitVec 7 × BitVec 6 := (d.strapMode, d.strapNode, d.strapFab)

/-- The banks' modes. -/
def Dev.banks (d : Dev) : Bool × Bool := (d.bankA33, d.bankB33)

theorem straps_of_fixed {d e : Dev} (h : d.fixed = e.fixed) : d.straps = e.straps := by
  simp only [Dev.fixed, Prod.mk.injEq] at h
  simp only [Dev.straps, h]

theorem banks_of_fixed {d e : Dev} (h : d.fixed = e.fixed) : d.banks = e.banks := by
  simp only [Dev.fixed, Prod.mk.injEq] at h
  simp only [Dev.banks, h]

/-- What a command c that leads from s to t can be: one that keeps all that Keeps names, a device reset, the release of
RESET_N, or the boot of MGC firmware. -/
inductive Change (s : State) (c : Instr) (t : State) : Prop
  | plain (h : Keeps s t)
  | reset (h : KeepsMost s t) (hp : t.dev.phase ≠ .running) (hl : t.cleatD.lock = false)
      (hs : t.dev.straps = s.dev.straps) (hb : t.dev.banks = s.dev.banks ∨ ∃ w x y z, c = .por w x y z)
  | release (h : KeepsMost s t) (hp : t.dev.phase ≠ .running) (hd : t.cleatD = s.cleatD)
      (hb : t.dev.banks = s.dev.banks) (hc : ∃ m n f e, c = .resetNRelease m n f e)
  | boot (h : KeepsMost s t) (hl : t.cleatD.lock = true) (hf : t.dev.fixed = s.dev.fixed) (hc : c = .mgcBoot)

theorem por_change {w x y z : Nat} (he : execPor w x y z s = .next t) : Change s (.por w x y z) t := by
  unfold execPor at he
  split at he <;> cases he
  · have hs : (deviceReset s).dev.straps = s.dev.straps := straps_of_fixed (deviceReset_fixed s)
    exact .reset ((deviceReset_most s).core rfl) nofun rfl hs (.inr ⟨_, _, _, _, rfl⟩)
  · exact .plain (.core rfl (.refl s))

theorem pinReset_change {n : Nat} (he : execPinReset n s = .next t) : Change s (.pinReset n) t := by
  unfold execPinReset at he
  split at he
  · cases he
    exact .plain (.refl s)
  · split at he <;> cases he
    exact .reset ((deviceReset_most s).core rfl) nofun rfl (straps_of_fixed (deviceReset_fixed s))
      (.inl (banks_of_fixed (deviceReset_fixed s)))

theorem mwdt_change (he : execMwdt s = .next t) : Change s .mwdt t := by
  unfold execMwdt at he
  split at he <;> cases he
  · exact .reset ((deviceReset_most s).core rfl) nofun rfl (straps_of_fixed (deviceReset_fixed s))
      (.inl (banks_of_fixed (deviceReset_fixed s)))
  · exact .plain (.refl s)

theorem resetNRelease_change {m : BitVec 3} {n : BitVec 7} {f : BitVec 6} {e : Bool}
    (he : execResetNRelease m n f e s = .next t) : Change s (.resetNRelease m n f e) t := by
  unfold execResetNRelease at he
  split at he <;> cases he
  · exact .release ((Keeps.refl s).most.core rfl) (by cases e <;> nofun) rfl rfl ⟨_, _, _, _, rfl⟩
  · exact .plain (.refl s)

/-- The boot after its settings: the grants, the EMCYs, the Mast image and MGC_SVN. -/
theorem bootRest_keeps (s : State) : Keeps s (svnAdvance (mastBoot (bootEmcys (bootGrants s)))) :=
  .svnAdvance (.mastBoot (.bootEmcys (.bootGrants (.refl s))))

theorem mgcBoot_change (he : execMgcBoot s = .next t) : Change s .mgcBoot t := by
  unfold execMgcBoot at he
  split at he <;> cases he
  · have hset : KeepsMost s (bootSettings s) := (Keeps.refl s).most.core rfl
    have hrest := bootRest_keeps (bootSettings s)
    exact .boot (hset.trans hrest.most) (congrArg CleatD.lock hrest.cleatD) hrest.fixed rfl
  · exact .plain (.refl s)

theorem exec_change {c : Instr} (he : exec c s = .next t) : Change s c t := by
  cases hc : restarts c with
  | false =>
    have hk := exec_keeps s hc
    rw [he] at hk
    exact .plain hk
  | true =>
    cases c with
    | por => exact por_change he
    | pinReset => exact pinReset_change he
    | mwdt => exact mwdt_change he
    | resetNRelease => exact resetNRelease_change he
    | mgcBoot => exact mgcBoot_change he
    | _ => cases hc

/-- An idle step keeps all that Keeps names. -/
theorem idleTick_keeps (s : State) : Keeps s (idleTick s) := .ite (.arbApply (.core rfl (.refl s))) (.refl s)

/-- A step that runs no command keeps all; one that runs a command changes the queue's rest as the command does. -/
theorem step_change (he : step s = .next t) :
    Keeps s t ∨ ∃ (c : Instr) (cs : List Instr), Change { s with pending := cs } c t := by
  unfold step at he
  split at he
  · cases he
    exact .inl (idleTick_keeps s)
  · exact .inr ⟨_, _, exec_change he⟩

theorem Change.most {c : Instr} (h : Change s c t) : KeepsMost s t := by
  cases h with
  | plain h => exact h.most
  | reset h => exact h
  | release h => exact h
  | boot h => exact h

theorem Keeps.sound (h : Keeps s t) (hs : s.sound) : t.sound := by
  obtain ⟨hmem, hcap, hcache, hlock⟩ := hs
  exact ⟨h.mem hmem, h.cap hcap, h.cache hcache, fun hp => h.cleatD ▸ hlock (h.phase hp)⟩

theorem Change.sound {c : Instr} (h : Change s c t) (hs : s.sound) : t.sound := by
  obtain ⟨hmem, hcap, hcache, hlock⟩ := hs
  refine ⟨h.most.mem hmem, h.most.cap hcap, h.most.cache hcache, fun hp => ?_⟩
  cases h with
  | plain h => exact h.cleatD ▸ hlock (h.phase hp)
  | reset _ hn => exact absurd hp hn
  | release _ hn => exact absurd hp hn
  | boot _ hl => exact hl

/-- Settles O58: every step of a command, and the idle step, is one of the changes above. -/
theorem stepsKeepSound : Obligations.StepsKeepSound := by
  intro s t hs he
  rcases step_change he with h | ⟨c, cs, h⟩
  · exact h.sound hs
  · exact h.sound hs

/-- Settles O59: the units that a command moves stay in the sum; a device reset starts from the balanced reset state. -/
theorem stepsKeepBalance : Obligations.StepsKeepBalance := by
  intro s t hs he
  rcases step_change he with h | ⟨c, cs, h⟩
  · exact h.units hs
  · exact h.most.units hs

/-- Settles O60, by the same cases. -/
theorem whatNoCommandChanges : Obligations.WhatNoCommandChanges := by
  intro c s t he
  have h := exec_change he
  obtain ⟨o, ho⟩ := h.most.out
  have hstraps : (∀ m n f e, c ≠ .resetNRelease m n f e) → t.dev.straps = s.dev.straps := by
    intro hc
    cases h with
    | plain h => exact straps_of_fixed h.fixed
    | reset _ _ _ hs => exact hs
    | release _ _ _ _ hr =>
      obtain ⟨m, n, f, e, rfl⟩ := hr
      exact absurd rfl (hc m n f e)
    | boot _ _ hf => exact straps_of_fixed hf
  have hbanks : (∀ w x y z, c ≠ .por w x y z) → t.dev.banks = s.dev.banks := by
    intro hc
    cases h with
    | plain h => exact banks_of_fixed h.fixed
    | reset _ _ _ _ hb =>
      rcases hb with hb | ⟨w, x, y, z, rfl⟩
      · exact hb
      · exact absurd rfl (hc w x y z)
    | release _ _ _ hb => exact hb
    | boot _ _ hf => exact banks_of_fixed hf
  have hcleatD : t.cleatD = s.cleatD ∨ t.cleatD.lock = false ∨ c = .mgcBoot := by
    cases h with
    | plain h => exact .inl h.cleatD
    | reset _ _ hl => exact .inr (.inl hl)
    | release _ _ hd => exact .inl hd
    | boot _ _ _ hc => exact .inr (.inr hc)
  refine ⟨h.most.pending, fun hc => ?_, h.most.cells, fun _ => hcleatD, fun hc => ?_, o, ho.symm⟩
  · simpa only [Dev.straps, Prod.mk.injEq] using hstraps hc
  · simpa only [Dev.banks, Prod.mk.injEq] using hbanks hc

/-- Settles O57: the tables are empty, and the budget stands free. -/
theorem resetIsSound : Obligations.ResetIsSound := by
  refine ⟨⟨rfl, rfl, rfl, nofun⟩, reset_balanced, rfl, rfl, rfl, rfl, rfl, ?_⟩
  decide

end Sys2Proof.Machine
end

section

namespace Sys2Proof.Machine

theorem Gives.intro {c : Instr} {s t : State} {P : State → Prop} (he : exec c s = .next t) (hp : P t) : Gives c s P :=
  ⟨t, he, hp⟩

/-! ## What EMCYs and notices leave of the node and of its frames -/

/-- The node but for what an EMCY changes: its queue, the error history and the statistics. -/
def Node.sansEmcy (n : Node) : Node := { n with emcyQ := [], history := [], stats := Vector.replicate 6 0 }

theorem emcyQueue_node (s : State) (f : Bytes) : (emcyQueue s f).node.sansEmcy = s.node.sansEmcy := by
  unfold emcyQueue
  split <;> rfl

theorem raiseEmcy_node (s : State) (code : Nat) (unit : Byte) (d : Bytes) :
    (raiseEmcy s code unit d).node.sansEmcy = s.node.sansEmcy := emcyQueue_node ..

theorem errorReset_node (s : State) (code : Nat) (unit : Byte) : (errorReset s code unit).node.sansEmcy = s.node.sansEmcy :=
  emcyQueue_node ..

theorem raiseStanding_node (s : State) (code : Nat) (unit : Byte) (key : Nat) (d : Bytes) :
    (raiseStanding s code unit key d).node.sansEmcy = s.node.sansEmcy := by
  unfold raiseStanding
  split
  · rfl
  · exact raiseEmcy_node ..

theorem clearStanding_node (s : State) (code key : Nat) : (clearStanding s code key).node.sansEmcy = s.node.sansEmcy := by
  unfold clearStanding
  split
  · rfl
  · exact errorReset_node ..

/-- Frames on the CAN ports do not count notices. -/
theorem canOut_congr {s t : State} (h : t.out = s.out) : t.canOut = s.canOut := by
  rw [State.canOut, h, State.canOut]

@[simp] theorem notice_canOut (s : State) (kind : Nat) (vs : List Nat) : (notice s kind vs).canOut = s.canOut := by
  unfold notice
  split
  · rw [canOut_congr (m2cSend_out ..)]
    exact List.filterMap_append.trans (List.append_nil _)
  · rfl

theorem emit_can_canOut (s : State) (p : CanPort) (cob : Nat) (d : Bytes) :
    (emit s (.can p cob d)).canOut = s.canOut ++ [(p, cob, d)] := List.filterMap_append

/-- t sends no frame that s has not sent, and its node is that of s but for EMCYs. -/
structure NodeCalm (s t : State) : Prop where
  node : t.node.sansEmcy = s.node.sansEmcy
  canOut : t.canOut = s.canOut

theorem NodeCalm.refl (s : State) : NodeCalm s s := ⟨rfl, rfl⟩

theorem NodeCalm.trans {s t u : State} (h : NodeCalm s t) (g : NodeCalm t u) : NodeCalm s u :=
  ⟨g.node.trans h.node, g.canOut.trans h.canOut⟩

/-- A field of the node that EMCYs leave is as before. -/
theorem NodeCalm.field {s t : State} (h : NodeCalm s t) {α : Type} (f : Node → α) (hf : ∀ n, f n.sansEmcy = f n) :
    f t.node = f s.node := by
  rw [← hf t.node, h.node, hf]

/-- What precedes may change other parts. -/
theorem NodeCalm.from {s t u : State} (h : NodeCalm u t) (hn : u.node = s.node) (ho : u.out = s.out) : NodeCalm s t :=
  ⟨h.node.trans (congrArg Node.sansEmcy hn), h.canOut.trans (canOut_congr ho)⟩

theorem NodeCalm.foldl {α : Type} {f : State → α → State} (hf : ∀ u a, NodeCalm u (f u a)) (l : List α) (s : State) :
    NodeCalm s (l.foldl f s) := by
  induction l generalizing s with
  | nil => exact .refl s
  | cons a l ih => exact (hf s a).trans (ih _)

theorem clearStanding_calm (s : State) (code key : Nat) : NodeCalm s (clearStanding s code key) :=
  ⟨clearStanding_node .., canOut_congr (clearStanding_out ..)⟩

theorem clearAllOf_calm (s : State) (code : Nat) : NodeCalm s (clearAllOf s code) :=
  .foldl (fun _ _ => clearStanding_calm ..) _ s

theorem pertEnd_calm (s : State) (k : Fin 8) : NodeCalm s (pertEnd s k) := by
  unfold pertEnd
  split
  · dsimp only
    split
    · exact ⟨rfl, rfl⟩
    · exact (clearStanding_calm ..).from rfl rfl
  · exact .refl s

theorem pertEndAll_calm (s : State) : NodeCalm s (pertEndAll s) := .foldl pertEnd_calm _ s

theorem notice_calm (s : State) (kind : Nat) (vs : List Nat) : NodeCalm s (notice s kind vs) :=
  ⟨by rw [notice_node], notice_canOut ..⟩

theorem setEff_calm (s : State) : NodeCalm s (setEff s) := by
  unfold setEff
  extract_lets r e
  split <;> exact ⟨rfl, rfl⟩

theorem budgetWrite_calm (v : Nat) (s : State) : NodeCalm s (budgetWrite v s).2 := by
  unfold budgetWrite
  split
  · exact .refl s
  · exact ((setEff_calm { s with reef.budget := BitVec.ofNat 10 v }).trans (notice_calm ..)).from rfl rfl

theorem restoreBudget_calm (s : State) : NodeCalm s (restoreBudget s) := by
  unfold restoreBudget
  split
  · exact .refl s
  · exact budgetWrite_calm ..

theorem restoreBudget_budget (s : State) : (restoreBudget s).reef.budget = 480 := by
  unfold restoreBudget
  split
  · assumption
  · have hset : ∀ u : State, (setEff u).reef.budget = u.reef.budget := fun u => by
      unfold setEff
      extract_lets r e
      split <;> rfl
    change (notice _ _ _).reef.budget = 480
    rw [notice_reef, hset]
    rfl

end Sys2Proof.Machine

end

section

namespace Sys2Proof.Machine

/-! ## The sources of a device reset (O1) -/

theorem execPinReset_of_long {n : Nat} {s : State} (h : 1000 ≤ n) :
    execPinReset n s = .next { keepRecord s (deviceReset s) with
      boot := { (keepRecord s (deviceReset s)).boot with lastDevice := 2, pinCount := s.boot.pinCount + 1 } } := by
  rw [execPinReset, if_neg (by omega), if_neg (by omega)]

theorem porAsserts_iff {a o : Nat} : porAsserts a o = true ↔ a < 720 ∨ o < 1600 := by
  simp [porAsserts]

theorem execMwdt_of_due {s : State} (hup : phtUp s = true) (hdue : 20000000 ≤ s.boot.wdCount) :
    execMwdt s = .next { keepRecord s (deviceReset s) with
      boot := { (keepRecord s (deviceReset s)).boot with lastDevice := 3, mwdtCount := s.boot.mwdtCount + 1 }
      dev := { (keepRecord s (deviceReset s)).dev with phase := .rom } } := by
  unfold execMwdt
  rw [if_pos (by rw [hup, wdCycles]; simpa using hdue)]

/-- FAULT_N is held at its level when REFCLK_25 is lost. -/
theorem faultLow_of_held (s : State) :
    faultLow { s with dev.clocksStopped := true, dev.faultNHeld := !faultLow s } = faultLow s := by
  simp [faultLow]

/-- Settles O1, source by source. -/
theorem deviceResetSources : Obligations.DeviceResetSources := by
  refine ⟨fun n s => ⟨fun h => if_pos h, fun hlo hhi => ?_, fun h => ⟨_, execPinReset_of_long h, ?_⟩⟩,
    fun s => ⟨fun a o x y h => ⟨_, if_pos (porAsserts_iff.2 h), rfl, rfl, rfl, rfl⟩, fun a o x y ha ho => ?_,
      fun m n f e h => ?_, fun h => if_pos h, fun hup hdue => ⟨_, execMwdt_of_due hup hdue, rfl, rfl, rfl, rfl⟩, fun h => ?_, fun h => ?_⟩⟩
  · exact (if_neg (by omega)).trans (if_pos hhi)
  · exact ⟨rfl, rfl, rfl, rfl, rfl, rfl, rfl⟩
  · exact if_neg (by rw [porAsserts_iff]; omega)
  · exact if_pos (beq_iff_eq.2 h)
  · exact if_neg (by simp [h])
  · exact ⟨_, if_neg (by simp [h]), faultLow_of_held s⟩

end Sys2Proof.Machine

end

section

namespace Sys2Proof.Machine

/-! ## The boot ROM (O3) -/

theorem execBootRom_of_rom {s : State} (hp : s.dev.phase = .rom) (hc : s.dev.clocksStopped = false) :
    execBootRom s = if !factoryOk s.otp then .next { s with dev.phase := .romStopped }
      else match chooseImage s false with
        | none => .next { s with dev.phase := .romStopped }
        | some k => .next (loadMgc s k) := by
  exact if_pos (by simp [hp, hc])

theorem chooseImage_none {s : State} {mast : Bool} (ha : imageCheck s mast 0 ≠ 0) (hb : imageCheck s mast 1 ≠ 0) :
    chooseImage s mast = none := by
  simp [chooseImage, ha, hb]

/-- The acceptable image with the higher VERSION is chosen, slot A on a tie (R500). -/
theorem chooseImage_some {s : State} {mast : Bool} {k : Fin 2} (hk : imageCheck s mast k = 0)
    (hv : imageCheck s mast (1 - k) = 0 → imageVersion s mast (1 - k) < imageVersion s mast k ∨
      (k = 0 ∧ imageVersion s mast 1 = imageVersion s mast 0)) : chooseImage s mast = some k := by
  obtain rfl | rfl : k = 0 ∨ k = 1 := by omega
  · change imageCheck s mast 1 = 0 → imageVersion s mast 1 < _ ∨ _ at hv
    by_cases hb : imageCheck s mast 1 = 0
    · have hle : imageVersion s mast 1 ≤ imageVersion s mast 0 := by
        rcases hv hb with h | ⟨-, h⟩ <;> omega
      simp [chooseImage, hk, hle]
    · simp [chooseImage, hk, hb]
  · change imageCheck s mast 0 = 0 → imageVersion s mast 0 < _ ∨ _ at hv
    by_cases ha : imageCheck s mast 0 = 0
    · have hlt : imageVersion s mast 0 < imageVersion s mast 1 := by
        rcases hv ha with h | ⟨h, -⟩
        · exact h
        · exact absurd h (by decide)
      simp [chooseImage, hk, ha, hlt]
    · simp [chooseImage, hk, ha]

/-- The body of the image chosen stands in MGC SRAM. -/
theorem loadMgc_body {s : State} (hw : s.memWf = true) (k : Fin 2) :
    (loadMgc s k).rd mgmtBase (s.rdLE (flashBase + imageOff false k + 0x0C) 4)
      = s.rd (flashBase + imageOff false k + 0x100) (s.rdLE (flashBase + imageOff false k + 0x0C) 4) := by
  have hrd := State.rd_wr mgmtBase (s.rd (flashBase + imageOff false k + 0x100)
    (s.rdLE (flashBase + imageOff false k + 0x0C) 4)) hw
  have hlen : (s.rd (flashBase + imageOff false k + 0x100) (s.rdLE (flashBase + imageOff false k + 0x0C) 4)).length
      = s.rdLE (flashBase + imageOff false k + 0x0C) 4 := memReadN_length ..
  rw [hlen] at hrd
  exact hrd

/-! ## The boot of MGC firmware (O3) -/

/-- Setting cells changes nothing else of OTP. -/
theorem otpSetAll_rest (o : Otp) (cs : List (Nat × Nat)) : otpSetAll o cs = { o with cells := (otpSetAll o cs).cells } := by
  induction cs generalizing o with
  | nil => rfl
  | cons c cs ih => exact (ih (otpSet o c)).trans (by rfl)

theorem svnRaise_rest (o : Otp) (a v : Nat) : svnRaise o a v = { o with cells := (svnRaise o a v).cells } :=
  otpSetAll_rest o _

@[simp] theorem raiseEmcy_nodeId (s : State) (code : Nat) (unit : Byte) (d : Bytes) :
    (raiseEmcy s code unit d).node.nodeId = s.node.nodeId := by
  unfold raiseEmcy emcyQueue
  split <;> rfl

@[simp] theorem raiseEmcy_nodeFromOtp (s : State) (code : Nat) (unit : Byte) (d : Bytes) :
    (raiseEmcy s code unit d).node.nodeFromOtp = s.node.nodeFromOtp := by
  unfold raiseEmcy emcyQueue
  split <;> rfl

/-- What the boot does after its grants changes nothing of these parts. -/
structure BootKeeps (s t : State) : Prop where
  dev : t.dev = s.dev
  cleatD : t.cleatD = s.cleatD
  inUse : t.otp.inUse = s.otp.inUse
  record : t.otp.record = s.otp.record
  reef : t.reef = s.reef
  nodeId : t.node.nodeId = s.node.nodeId
  nodeFromOtp : t.node.nodeFromOtp = s.node.nodeFromOtp

theorem BootKeeps.refl (s : State) : BootKeeps s s := ⟨rfl, rfl, rfl, rfl, rfl, rfl, rfl⟩

theorem BootKeeps.trans {s t u : State} (h : BootKeeps s t) (g : BootKeeps t u) : BootKeeps s u :=
  ⟨g.dev.trans h.dev, g.cleatD.trans h.cleatD, g.inUse.trans h.inUse, g.record.trans h.record, g.reef.trans h.reef,
    g.nodeId.trans h.nodeId, g.nodeFromOtp.trans h.nodeFromOtp⟩

theorem BootKeeps.emcy {s t : State} (h : BootKeeps s t) (code : Nat) (unit : Byte) (d : Bytes) :
    BootKeeps s (raiseEmcy t code unit d) :=
  h.trans ⟨by simp, by simp, by simp, by simp, by simp, by simp, by simp⟩

theorem BootKeeps.cond {s t u : State} {c : Prop} [Decidable c] (ht : BootKeeps s t) (hu : BootKeeps s u) :
    BootKeeps s (if c then t else u) := by
  split <;> assumption

theorem bootEmcys_keeps (s : State) : BootKeeps s (bootEmcys s) := by
  unfold bootEmcys
  extract_lets a b
  have ha : BootKeeps s a := .cond (.emcy (.refl s) ..) (.refl s)
  have hb : BootKeeps s b := .cond (.emcy ha ..) ha
  exact .cond (.emcy hb ..) hb

theorem mastCheck_keeps (s : State) : BootKeeps s (mastCheck s) :=
  .cond (.emcy (.refl s) ..) (.cond (.emcy (.refl s) ..) (.cond (.emcy (.refl s) ..) (.refl s)))

theorem mastHold_keeps (s : State) : BootKeeps s (mastHold s) := by
  unfold mastHold
  split <;> exact ⟨rfl, rfl, rfl, rfl, rfl, rfl, rfl⟩

theorem releaseControl_keeps (s : State) : BootKeeps s (releaseControl s) := by
  unfold releaseControl restartNotice
  split
  · exact ⟨by simp [emptyRings], by simp [emptyRings], by simp [emptyRings], by simp [emptyRings], by simp [emptyRings],
      by simp [emptyRings], by simp [emptyRings]⟩
  · exact .refl s

theorem mastBoot_keeps (s : State) : BootKeeps s (mastBoot s) := by
  unfold mastBoot
  refine .cond ⟨rfl, rfl, rfl, rfl, rfl, rfl, rfl⟩ ?_
  exact ((mastCheck_keeps s).trans (mastHold_keeps _)).trans (releaseControl_keeps _)

theorem svnAdvance_keeps (s : State) : BootKeeps s (svnAdvance s) := by
  unfold svnAdvance
  refine .cond ⟨rfl, rfl, ?_, ?_, rfl, rfl, rfl⟩ (.refl s)
  · exact (congrArg Otp.inUse (svnRaise_rest s.otp mgcSvnAt s.boot.mgcSvn) :)
  · exact (congrArg Otp.record (svnRaise_rest s.otp mgcSvnAt s.boot.mgcSvn) :)

theorem bootGrant_same (s : State) (d : DomId) : domOf (bootGrant s d) d
    = { domOf s d with state := .run, cls := .control, units := costOf s d .run } := domOf_domMod_same s d _

theorem bootGrant_other (s : State) {d e : DomId} (h : e ≠ d) : domOf (bootGrant s d) e = domOf s e :=
  (domOf_domMod s d e _).trans (if_neg h)

/-- The grants of boot, with or without the requests of fabric mode. -/
theorem bootGrants_cases (s : State) : ∃ q : List ReefWait,
    bootGrants s = { bootGrant (bootGrant s 11) 17 with reef.queue := q } := by
  unfold bootGrants
  dsimp only
  split
  · exact ⟨_, rfl⟩
  · exact ⟨_, rfl⟩

/-- The boot's grants: PD11 and PD17 in RUN, class CONTROL, 24 and 16 units. -/
theorem bootGrants_doms (s : State) :
    (domOf (bootGrants s) 11).state = .run ∧ (domOf (bootGrants s) 11).cls = .control ∧
    (domOf (bootGrants s) 17).state = .run ∧ (domOf (bootGrants s) 17).cls = .control ∧
    (domOf (bootGrants s) 11).units + (domOf (bootGrants s) 17).units = 40 := by
  obtain ⟨q, hq⟩ := bootGrants_cases s
  have h11 : domOf (bootGrants s) 11 = _ := (congrArg (domOf · 11) hq).trans
    ((bootGrant_other (bootGrant s 11) (by decide)).trans (bootGrant_same s 11))
  have h17 : domOf (bootGrants s) 17 = _ := (congrArg (domOf · 17) hq).trans (bootGrant_same (bootGrant s 11) 17)
  rw [h11, h17]
  exact ⟨rfl, rfl, rfl, rfl, rfl⟩

theorem bootGrants_rest (s : State) : (bootGrants s).dev = s.dev ∧ (bootGrants s).cleatD = s.cleatD ∧
    (bootGrants s).otp = s.otp ∧ (bootGrants s).node = s.node ∧ (bootGrants s).reef.railSp = s.reef.railSp ∧
    (bootGrants s).reef.railSoc = s.reef.railSoc ∧ (bootGrants s).reef.railShl = s.reef.railShl := by
  obtain ⟨q, hq⟩ := bootGrants_cases s
  rw [hq]
  exact ⟨rfl, rfl, rfl, rfl, rfl, rfl, rfl⟩

theorem snapshotOf_node (s : State) :
    (snapshotOf s).length = 64 ∧ (snapshotOf s).getD 0x16 0 = BitVec.ofNat 8 (s.node.nodeId.toNat + 128 * b2n s.node.nodeFromOtp) :=
  ⟨rfl, rfl⟩

theorem railValue_spec (rec_ : Bytes) (off dflt : Nat) :
    (fieldLE rec_ off 2 % 1024 = 0 ∨ dflt < fieldLE rec_ off 2 % 1024 → railValue rec_ off dflt = dflt) ∧
    (0 < fieldLE rec_ off 2 % 1024 → fieldLE rec_ off 2 % 1024 ≤ dflt → railValue rec_ off dflt = fieldLE rec_ off 2 % 1024) :=
  ⟨fun h => if_pos h, fun h0 hd => if_neg (by omega)⟩

/-- The node ID that the settings give: the record's where it overrides the straps (R85, R484, R489). -/
theorem takeSettings_nodeId (s : State) :
    (takeSettings s).node.nodeId = match [4, 3, 2, 1, 0].find? (slotValid s.otp) with
      | some g =>
        let node := otpByte s.otp (slotBase g + 2)
        if node.getLsbD 7 then node.extractLsb' 0 7 else s.dev.strapNode
      | none => s.dev.strapNode := by
  have huse : generations.reverse.find? (slotValid s.otp) = [4, 3, 2, 1, 0].find? (slotValid s.otp) := rfl
  unfold takeSettings takeServiceKey selectGeneration recordOvr
  dsimp only
  rw [huse]
  cases [4, 3, 2, 1, 0].find? (slotValid s.otp) with
  | none => rfl
  | some g => rfl

/-- Settles O3, from what the boot ROM chooses and what each part of the boot sets. -/
theorem bootAndSettings : Obligations.BootAndSettings := by
  refine ⟨fun s hp hc hw => ⟨fun hf => ?_, fun hf ha hb => ?_, ?_, fun k hf hk hv => ?_⟩, fun s hp hc => ?_⟩
  · exact (execBootRom_of_rom hp hc).trans (by rw [hf]; rfl)
  · exact (execBootRom_of_rom hp hc).trans (by rw [hf, chooseImage_none ha hb]; rfl)
  · simp [faultLow, hc, firmwareRuns]
  · refine ⟨loadMgc s k, (execBootRom_of_rom hp hc).trans (by rw [hf, chooseImage_some hk hv]; rfl), rfl, rfl, ?_⟩
    exact loadMgc_body hw k
  · let u := bootSettings s
    obtain ⟨hdev, hcleatD, hotp, hnode, hsp, hsoc, hshl⟩ := bootGrants_rest u
    obtain ⟨hst11, hcls11, hst17, hcls17, hunits⟩ := bootGrants_doms u
    have hrest : BootKeeps (bootGrants u) (svnAdvance (mastBoot (bootEmcys (bootGrants u)))) :=
      ((bootEmcys_keeps _).trans (mastBoot_keeps _)).trans (svnAdvance_keeps _)
    obtain ⟨kdev, kcleatD, kuse, krec, kreef, kid, kovr⟩ := hrest
    refine Gives.intro (if_pos (by simp [hp, hc])) ?_
    have kdom : ∀ d, domOf (svnAdvance (mastBoot (bootEmcys (bootGrants u)))) d = domOf (bootGrants u) d :=
      fun d => by rw [domOf, kreef, domOf]
    rw [kdom, kdom, kreef, kdev, kcleatD, kuse, krec, kid, kovr, hdev, hcleatD, hotp, hnode, hsp, hsoc, hshl]
    refine ⟨rfl, rfl, rfl, takeSettings_nodeId s, (snapshotOf_node _).1, (snapshotOf_node _).2, hst11, hcls11, hst17, hcls17, hunits, ?_⟩
    intro v hv
    simp only [List.mem_cons, List.not_mem_nil, or_false] at hv
    rcases hv with rfl | rfl | rfl <;> exact railValue_spec ..

end Sys2Proof.Machine

end

section

namespace Sys2Proof.Machine

/-! ## The node's objects at their defaults (O4) -/

/-- The node's objects at their defaults: what its start and NMT reset node restore. -/
structure AtDefaults (t : State) : Prop where
  od : t.node.od = []
  stats : t.node.stats = Vector.replicate 6 0
  history : t.node.history = []
  polls : t.node.polls = Node.reset.polls
  consumers : t.node.consumers = Vector.replicate 8 false
  slips : t.pht.slips = []
  budget : t.reef.budget = 480
  params : t.pert.params = Pert.reset.params

theorem restoreObjects_defaults (s : State) : AtDefaults (restoreObjects s) := by
  have hb := restoreBudget_budget (clearAllOf (clearAllOf (pertEndAll s) 0xFF03) 0x8130)
  unfold restoreObjects
  generalize restoreBudget (clearAllOf (clearAllOf (pertEndAll s) 0xFF03) 0x8130) = u at hb ⊢
  exact ⟨rfl, rfl, rfl, rfl, rfl, rfl, hb, rfl⟩

/-- What the node is called and where it sends are no objects of it. -/
theorem restoreObjects_names (s : State) :
    (restoreObjects s).node.nodeId = s.node.nodeId ∧ (restoreObjects s).node.mode = s.node.mode ∧
    (restoreObjects s).node.netPort = s.node.netPort ∧ (restoreObjects s).node.busOff = s.node.busOff ∧
    (restoreObjects s).canOut = s.canOut := by
  have hcalm := (((pertEndAll_calm s).trans (clearAllOf_calm _ 0xFF03)).trans (clearAllOf_calm _ 0x8130)).trans
    (restoreBudget_calm _)
  unfold restoreObjects
  generalize restoreBudget (clearAllOf (clearAllOf (pertEndAll s) 0xFF03) 0x8130) = u at hcalm ⊢
  exact ⟨hcalm.field Node.nodeId fun _ => rfl, hcalm.field Node.mode fun _ => rfl, hcalm.field Node.netPort fun _ => rfl,
    hcalm.field Node.busOff fun _ => rfl, hcalm.canOut⟩

theorem nodeSilent_congr {n m : Node} (hid : m.nodeId = n.nodeId) (hmode : m.mode = n.mode) : nodeSilent m = nodeSilent n := by
  rw [nodeSilent, nodeSilent, hid, hmode]

/-- The boot-up heartbeat, and PRE-OPERATIONAL; a silent node stays in INITIALISATION. -/
theorem bootUp_spec (s : State) :
    (nodeSilent s.node = true → (bootUp s).node.nmt = .initialisation ∧ (bootUp s).canOut = s.canOut) ∧
    (nodeSilent s.node = false → (bootUp s).node.nmt = .preOperational ∧
      (bootUp s).canOut = s.canOut ++ (if s.node.busOff.get s.node.netPort then []
        else [(s.node.netPort, 0x700 + s.node.nodeId.toNat, [0])])) := by
  refine ⟨fun h => ?_, fun h => ?_⟩
  · rw [bootUp, if_pos h]
    exact ⟨rfl, rfl⟩
  · rw [bootUp, if_neg (by simp [h])]
    dsimp only
    rw [notice_canOut, notice_node]
    refine ⟨rfl, ?_⟩
    rw [sendCan, h, Bool.false_or]
    split
    · exact (List.append_nil _).symm
    · exact emit_can_canOut ..

/-- The boot-up leaves the objects, the budget and the perturbations. -/
theorem bootUp_rest (s : State) : (bootUp s).node = { s.node with nmt := (bootUp s).node.nmt } ∧
    (bootUp s).pht = s.pht ∧ (bootUp s).reef = s.reef ∧ (bootUp s).pert = s.pert := by
  unfold bootUp
  split
  · exact ⟨rfl, rfl, rfl, rfl⟩
  · dsimp only
    rw [notice_node, notice_pht, notice_reef, notice_pert]
    unfold sendCan
    split <;> exact ⟨rfl, rfl, rfl, rfl⟩

theorem nodeStart_defaults (s : State) : AtDefaults (nodeStart s) := by
  have h := restoreObjects_defaults s
  unfold nodeStart
  generalize restoreObjects s = u at h ⊢
  dsimp only
  obtain ⟨hn, hp, hr, he⟩ := bootUp_rest { u with node := { pdoRestart u.node with nmt := .initialisation } }
  exact ⟨(congrArg Node.od hn).trans h.od, (congrArg Node.stats hn).trans h.stats, (congrArg Node.history hn).trans h.history,
    (congrArg Node.polls hn).trans h.polls, (congrArg Node.consumers hn).trans h.consumers, (congrArg Pht.slips hp).trans h.slips,
    (congrArg Reef.budget hr).trans h.budget, (congrArg Pert.params he).trans h.params⟩

theorem nodeStart_spec (s : State) : (nodeStart s).node.nodeId = s.node.nodeId ∧
    (nodeSilent s.node = true → (nodeStart s).node.nmt = .initialisation ∧ (nodeStart s).canOut = s.canOut) ∧
    (nodeSilent s.node = false → (nodeStart s).node.nmt = .preOperational ∧
      (nodeStart s).canOut = s.canOut ++ (if s.node.busOff.get s.node.netPort then []
        else [(s.node.netPort, 0x700 + s.node.nodeId.toNat, [0])])) := by
  obtain ⟨hid, hmode, hport, hoff, hout⟩ := restoreObjects_names s
  unfold nodeStart
  generalize restoreObjects s = u at hid hmode hport hoff hout ⊢
  dsimp only
  rw [← nodeSilent_congr hid hmode, ← hid, ← hport, ← hoff, ← hout]
  have hb := (bootUp_rest { u with node := { pdoRestart u.node with nmt := .initialisation } }).1
  exact ⟨(congrArg Node.nodeId hb :), bootUp_spec { u with node := { pdoRestart u.node with nmt := .initialisation } }⟩

/-- Settles O4, from the restored objects and the boot-up. -/
theorem nodeStartsAfterLock : Obligations.NodeStartsAfterLock := by
  intro s hup hlock hfab
  refine ⟨fun hn => if_neg (by simp [hn]), fun hn => Gives.intro (if_pos (by simp [hup, hlock, hfab, hn])) ?_⟩
  obtain ⟨h1, h2, h3, h4, h5, h6, h7, h8⟩ := nodeStart_defaults s
  exact ⟨⟨h1, h2, h3, h4, h5, h6, h7, h8⟩, nodeStart_spec s⟩

end Sys2Proof.Machine

end

section

namespace Sys2Proof.Machine

/-! ## A view of the state that a step keeps -/

/-- A step that keeps a view of the state is repeated. -/
theorem foldl_view {α β : Type} {V : State → β} {f : State → α → State} (hf : ∀ u a, V (f u a) = V u) (l : List α)
    (s : State) : V (l.foldl f s) = V s := by
  induction l generalizing s with
  | nil => rfl
  | cons a l ih => exact (ih _).trans (hf s a)

/-- A view that both outcomes of a choice keep. -/
theorem ite_view {β : Type} {V : State → β} {c : Prop} [Decidable c] {t u s : State} (ht : V t = V s) (hu : V u = V s) :
    V (if c then t else u) = V s := by
  split <;> assumption

/-! ## Standing conditions -/

theorem stands_congr {s t : State} (h : t.health.standing = s.health.standing) (code key : Nat) :
    stands t code key = stands s code key := by
  rw [stands, stands, h]

/-- A condition raised stands. -/
theorem stands_raiseStanding (s : State) {code : Nat} (hc : code < 65536) (unit : Byte) (key : Nat) (d : Bytes) :
    stands (raiseStanding s code unit key d) code key = true := by
  rcases raiseStanding_cases s code unit key d with ⟨h, e⟩ | ⟨-, e⟩
  · rw [e, h]
  · simp [stands, e, Nat.mod_eq_of_lt hc]

/-- Raising a condition ends none. -/
theorem stands_raiseStanding_of_stands {s : State} {c k : Nat} (h : stands s c k = true) (code : Nat) (unit : Byte)
    (key : Nat) (d : Bytes) : stands (raiseStanding s code unit key d) c k = true := by
  rcases raiseStanding_cases s code unit key d with ⟨-, e⟩ | ⟨-, e⟩
  · rw [e, h]
  · rw [stands, e, List.any_append, ← stands, h, Bool.true_or]

/-- The end of a condition raises none. -/
theorem stands_clearStanding_of_not {s : State} {c k : Nat} (h : stands s c k = false) (code key : Nat) :
    stands (clearStanding s code key) c k = false := by
  rw [stands, clearStanding_standing, List.any_eq_false]
  intro x hx
  rw [stands, List.any_eq_false] at h
  exact h x (List.mem_filter.1 hx).1

theorem foldl_clear_of_not {c k : Nat} (code : Nat) (l : List Standing) {s : State} (h : stands s c k = false) :
    stands (l.foldl (fun t x => clearStanding t code x.key) s) c k = false := by
  induction l generalizing s with
  | nil => exact h
  | cons x l ih => exact ih (stands_clearStanding_of_not h ..)

theorem foldl_clear_of_mem {code : Nat} {l : List Standing} {x : Standing} (hx : x ∈ l) (s : State) :
    stands (l.foldl (fun t x => clearStanding t code x.key) s) code x.key = false := by
  induction l generalizing s with
  | nil => cases hx
  | cons y l ih =>
    rcases List.mem_cons.1 hx with rfl | hx
    · exact foldl_clear_of_not code l (stands_clearStanding s code x.key)
    · exact ih hx _

/-- When every condition of a code ends, none stands. -/
theorem stands_clearAllOf (s : State) (code k : Nat) : stands (clearAllOf s code) code k = false := by
  cases h : stands s code k with
  | false => exact foldl_clear_of_not code _ h
  | true =>
    obtain ⟨x, hx, hk⟩ := List.any_eq_true.1 h
    obtain ⟨hc, rfl⟩ : x.code.toNat = code ∧ x.key = k := by simpa using hk
    exact foldl_clear_of_mem (List.mem_filter.2 ⟨hx, by simpa using hc⟩) s

/-- What stands but for the list of standing conditions. -/
def Health.sansStanding (h : Health) : Health := { h with standing := [] }

theorem raiseStanding_health (s : State) (code : Nat) (unit : Byte) (key : Nat) (d : Bytes) :
    (raiseStanding s code unit key d).health.sansStanding = s.health.sansStanding := by
  unfold raiseStanding
  split
  · rfl
  · rw [raiseEmcy_health]; rfl

theorem clearStanding_health (s : State) (code key : Nat) :
    (clearStanding s code key).health.sansStanding = s.health.sansStanding := by
  unfold clearStanding
  split
  · rfl
  · unfold errorReset emcyQueue
    split <;> rfl

/-! ## What the scheduler's bookkeeping leaves -/

/-- The state but for the course scheduler and the Spar cores. -/
def State.sansSched (s : State) : State := { s with csc := Csc.reset, spar := Vector.replicate 16 SparCore.reset }

theorem coreMod_sched (s : State) (c : CoreId) (f : SparCore → SparCore) : (coreMod s c f).sansSched = s.sansSched := rfl

theorem jobMod_sched (s : State) (tag : W16) (f : Job → Job) : (jobMod s tag f).sansSched = s.sansSched := rfl

theorem courseMod_sched (s : State) (t : CourseTag) (f : Course → Course) : (courseMod s t f).sansSched = s.sansSched :=
  ite_view rfl rfl

theorem cancelPre_sched (s : State) (c : CoreId) : (cancelPre s c).sansSched = s.sansSched := by
  unfold cancelPre
  split <;> rfl

theorem returnPre_sched (s : State) (c : CoreId) (drop : Bool) : (returnPre s c drop).sansSched = s.sansSched := by
  unfold returnPre
  split
  · rfl
  · exact (cancelPre_sched ..).trans (courseMod_sched ..)

theorem recallCore_sched (s : State) (c : CoreId) (requeue : Bool) : (recallCore s c requeue).sansSched = s.sansSched := by
  unfold recallCore
  split
  · rfl
  · exact ite_view rfl ((coreMod_sched ..).trans ((coreMod_sched ..).trans (courseMod_sched ..)))

theorem obdCloseDropped_sched (s : State) (tag : W16) : (obdCloseDropped s tag).sansSched = s.sansSched := by
  unfold obdCloseDropped
  split <;> rfl

theorem stopJob_sched (s : State) (tag : W16) (cause : BitVec 3) (fault : W32) :
    (stopJob s tag cause fault).sansSched = s.sansSched := by
  unfold stopJob
  split
  · rfl
  · refine (obdCloseDropped_sched _ tag).trans ?_
    have hpre : ∀ u : State, (allCores.foldl (fun t c => if workFor t (coreOf t c).pre tag then returnPre t c true else t)
        u).sansSched = u.sansSched := foldl_view (fun u c => ite_view (returnPre_sched ..) rfl) _
    have hcur : ∀ u : State, (allCores.foldl (fun t c => if workFor t (coreOf t c).cur tag then recallCore t c false else t)
        u).sansSched = u.sansSched := foldl_view (fun u c => ite_view (recallCore_sched ..) rfl) _
    have hrec := (hcur _).trans ((hpre _).trans (jobMod_sched s tag fun j => j.end_ cause fault))
    exact (jobMod_sched ..).trans (ite_view ((courseMod_sched ..).trans hrec) hrec)

theorem abortStuck_sched (s : State) : (abortStuck s).sansSched = s.sansSched :=
  foldl_view (fun _ _ => ite_view ((stopJob_sched ..).trans (jobMod_sched ..)) rfl) _ s

theorem obdRelease_sched (s : State) (c : CoreId) : (obdRelease s c).sansSched = s.sansSched := rfl

theorem cscStat_sched (s : State) (i : Fin 10) : (cscStat s i).sansSched = s.sansSched := rfl

theorem fenceCourse_sched (s : State) (c : CoreId) : (fenceCourse s c).sansSched = s.sansSched := by
  unfold fenceCourse
  extract_lets x a b d
  have hb : d.sansSched = s.sansSched := returnPre_sched s c false
  split
  · exact hb
  · exact ite_view ((cscStat_sched ..).trans ((jobMod_sched ..).trans ((courseMod_sched ..).trans hb))) hb

/-! ## What a domain's way OFF leaves -/

/-- The state but for what a domain loses when it goes OFF, its grant, and PHT_RDY. -/
def State.sansPower (s : State) : State :=
  { s.sansSched with mem := [], cap := Cap.reset, ddr := Ddr.reset, ee := Ee.reset, shl := Vector.replicate 8 ShlPort.reset,
                     trim := Trim.reset, tw := Vector.replicate 6 TwPort.reset, pht.rdy := 0,
                     reef.doms := Reef.reset.doms, reef.transit := 0 }

/-- What changes the scheduler and the cores alone changes nothing else. -/
theorem power_of_sched {s t : State} (h : t.sansSched = s.sansSched) : t.sansPower = s.sansPower := by
  change t.sansSched.sansPower = s.sansSched.sansPower
  rw [h]

theorem fenceEaves_power (s : State) : (fenceEaves s).sansPower = s.sansPower := by
  unfold fenceEaves
  have hcur : ∀ t : CourseTag, (cscStat (jobMod (courseMod s t fun q => { q with st := .unassigned, first := true }) t.job
      fun j => { j with degraded := true }) nRedispatch).sansPower = s.sansPower := fun t =>
    power_of_sched ((cscStat_sched ..).trans ((jobMod_sched ..).trans (courseMod_sched ..)))
  extract_lets a b c d
  have ha : a.sansPower = s.sansPower := by
    change State.sansPower (match s.ee.cur with | some t => _ | none => _) = _
    split
    · exact ite_view (hcur _) rfl
    · rfl
  exact Eq.trans (b := a.sansPower) rfl ha

theorem powerOff_power (s : State) (d : DomId) : (powerOff s d).sansPower = s.sansPower := by
  unfold powerOff
  split <;> first | rfl | exact foldl_view (f := coreDown) (fun _ _ => rfl) _ s

theorem enterState_power (s : State) (d : DomId) (st : PState) : (enterState s d st).sansPower = s.sansPower := by
  unfold enterState
  extract_lets u was _ t
  have ht : t.sansPower = s.sansPower := ite_view rfl rfl
  exact ite_view ((powerOff_power t d).trans ht) ht

theorem enterFree_power (s : State) (d : DomId) (st : PState) : (enterFree s d st).sansPower = s.sansPower :=
  enterState_power s d st

theorem reefFence_power (s : State) (c : CoreId) : (reefFence s c).sansPower = s.sansPower :=
  ite_view (enterFree_power ..) rfl

end Sys2Proof.Machine

end

section

namespace Sys2Proof.Machine

/-! ## The indices of the Cleat A rings (O6) -/

/-- Messages dropped at the head of the C2M ring move its consumer index and count, and change nothing else. -/
theorem dropUnknown_frame (n : Nat) (s : State) : ∃ (i : BitVec 7) (k : W32),
    dropUnknown n s = { s with cleatA.c2mRd := i, cleatA.unknown := k } := by
  induction n generalizing s with
  | zero => exact ⟨_, _, rfl⟩
  | succ n ih =>
    rw [dropUnknown]
    split
    · split
      · exact ⟨_, _, rfl⟩
      · obtain ⟨i, k, h⟩ := ih { s with cleatA.c2mRd := _, cleatA.unknown := _ }
        exact ⟨i, k, h⟩
    · exact ⟨_, _, rfl⟩

theorem dropUnknown_of_none {n : Nat} {s : State} (h : c2mHead s = none) : dropUnknown n s = s := by
  cases n with
  | zero => rfl
  | succ n => rw [dropUnknown, h]

theorem dropUnknown_of_known {n : Nat} {s : State} {m : Msg} {k : Nat} (h : c2mHead s = some (m, k))
    (hk : c2mKnown m.kind = true) : dropUnknown n s = s := by
  cases n with
  | zero => rfl
  | succ n => rw [dropUnknown, h]; exact if_pos hk

theorem dropUnknown_of_unknown {n : Nat} {s : State} {m : Msg} {k : Nat} (h : c2mHead s = some (m, k))
    (hk : c2mKnown m.kind = false) :
    dropUnknown (n + 1) s = dropUnknown n { s with
      cleatA.c2mRd := s.cleatA.c2mRd + BitVec.ofNat 7 k, cleatA.unknown := s.cleatA.unknown + 1 } := by
  rw [dropUnknown, h]
  exact if_neg (by rw [hk]; decide)

/-- A message put into the M2C ring leaves the C2M ring and the ring's consumer index. -/
theorem m2cPut_rings {s t : State} {m : Msg} (h : m2cPut s m = some t) :
    t.cleatA.c2mWr = s.cleatA.c2mWr ∧ t.cleatA.m2cRd = s.cleatA.m2cRd := by
  unfold m2cPut at h
  dsimp only at h
  split at h
  · cases h; exact ⟨rfl, rfl⟩
  · cases h

theorem m2cRetry_rings (ms : List Msg) (s : State) :
    (m2cRetry ms s).cleatA.c2mWr = s.cleatA.c2mWr ∧ (m2cRetry ms s).cleatA.m2cRd = s.cleatA.m2cRd := by
  induction ms generalizing s with
  | nil => exact ⟨rfl, rfl⟩
  | cons m ms ih =>
    rw [m2cRetry]
    split
    · next h =>
      obtain ⟨hw, hr⟩ := m2cPut_rings h
      exact ⟨(ih _).1.trans hw, (ih _).2.trans hr⟩
    · exact ⟨rfl, rfl⟩

theorem m2cRetry_nil {s : State} (h : s.cleatA.backlog = []) : m2cRetry [] s = s := by
  rw [m2cRetry, ← h]

/-- Settles O6: a write of an index is compared with the other index of its ring; what follows a C2M index is
`dropUnknown`, and what follows an M2C index is the sending of the backlog. -/
theorem cleatARingIndices : Obligations.CleatARingIndices := by
  intro v s hup idx
  refine ⟨fun h => ?_, fun h => Gives.intro (t := c2mIndexWrite s idx) (if_pos hup) ?_,
    fun h => Gives.intro (t := m2cIndexWrite s idx) (if_pos hup) ?_, fun h => ?_⟩
  · exact (if_pos hup).trans (congrArg Host.Outcome.next (if_neg (not_le.2 h)))
  · rw [c2mIndexWrite, if_pos h]
    obtain ⟨i, k, hd⟩ := dropUnknown_frame 64 { s with cleatA.c2mWr := idx }
    refine ⟨by rw [hd], by rw [hd], by rw [hd], by rw [hd], by rw [hd], dropUnknown_of_none, fun m k hm => ?_⟩
    exact ⟨dropUnknown_of_known hm, dropUnknown_of_unknown hm⟩
  · rw [m2cIndexWrite, if_pos h]
    obtain ⟨hw, hr⟩ := m2cRetry_rings s.cleatA.backlog { s with cleatA.m2cRd := idx }
    refine ⟨hr, hw, fun hb => ?_⟩
    rw [hb]
    exact m2cRetry_nil hb
  · exact (if_pos hup).trans (congrArg Host.Outcome.next (if_neg (not_le.2 h)))

end Sys2Proof.Machine

end

section

namespace Sys2Proof.Machine

/-! ## EMCY_REQ and CTL_FAULT (O7) -/

/-- Settles O7: a message taken leaves only the choice by its code. -/
theorem mailboxFaultMessages : Obligations.MailboxFaultMessages := by
  intro s u m
  refine ⟨fun h => ?_, fun h => ?_⟩
  · have he : exec .emcyReq s = if fieldLE m.payload 0 2 = 0 ∨ 0xFF00 ≤ fieldLE m.payload 0 2
        then .next { u with node.stats := vmod u.node.stats 4 (· + 1) }
        else .next (raiseEmcy u (fieldLE m.payload 0 2) (byteAt m.payload 2) (slice m.payload 3 4)) := by
      rw [exec, execEmcyReq, h]
    exact ⟨fun hc => he.trans (if_pos hc), fun h0 h1 => he.trans (if_neg (by omega))⟩
  · rw [exec, execCtlFault, h]

end Sys2Proof.Machine

end

section

namespace Sys2Proof.Machine

/-! ## What four bytes of a word say (O9) -/

theorem leNat_toLE (n v : Nat) : leNat (toLE n v) = v % 256 ^ n := by
  induction n generalizing v with
  | zero => simp [toLE, leNat, Nat.mod_one]
  | succ n ih =>
    rw [toLE, leNat, ih, Nat.pow_succ', Nat.mod_mul]
    simp

theorem byteAt_toLE_map (n v : Nat) : ((List.range n).map fun k => byteAt (toLE n v) k) = toLE n v := by
  refine List.ext_getElem (by simp [toLE_length]) fun i h1 h2 => ?_
  rw [List.getElem_map, List.getElem_range, byteAt, List.getD_eq_getElem _ _ h2]

/-- A whole word stored is the word itself. -/
theorem storeWord_toLE (a v : Nat) : storeWord a a (toLE 4 v) = BitVec.ofNat 32 v := by
  have hb : ((List.range 4).map fun k => if a ≤ a + k ∧ a + k < a + (toLE 4 v).length then byteAt (toLE 4 v) (a + k - a)
      else BitVec.ofNat 8 (Config.freeOf .unspecified [0x88, a + k])) = toLE 4 v := by
    rw [← byteAt_toLE_map 4 v]
    refine List.map_congr_left fun k hk => ?_
    have := List.mem_range.1 hk
    rw [byteAt_toLE_map, if_pos (by rw [toLE_length]; omega), Nat.add_sub_cancel_left]
  unfold storeWord
  rw [hb, leNat_toLE]
  refine BitVec.eq_of_toNat_eq ?_
  simp

/-! ## The host's writes to a job queue (O9) -/

theorem padTo_length (n : Nat) (bs : Bytes) : (padTo n bs).length = n := by
  simp [padTo, slice]

/-- The address of a queue's POST register. -/
def postReg (q : QueueId) : Nat := periBase + 0x40004 + q.val * 0x40

theorem slotAddr_bounds (q : QueueId) (i : BitVec 9) : clbSlots + q.val * 0x4000 ≤ slotAddr q i ∧
    slotAddr q i + 64 ≤ clbSlots + q.val * 0x4000 + 0x4000 := by
  unfold slotAddr
  omega

/-- A host's store that the ACT allows and the target takes is done. -/
theorem initWrite_host {s : State} {a : Nat} {bs : Bytes} (ha : a < mgmtBase)
    (hact : actDenied s.act.force 25 accStore a bs.length = none) (hb : busErr s a bs.length = none) :
    initWrite s .host 25 a bs = (none, busWrite s .host a bs) := by
  have hc : actCheck s 25 accStore a bs.length = none := by rw [actCheck, if_neg (not_le.2 ha), hact]
  unfold initWrite
  rw [if_neg (by simp [initFenced, initUnit]), hc, hb]

theorem busErr_slot {s : State} (q : QueueId) (i : BitVec 9) (h : domUp s 11 = true) :
    busErr s (slotAddr q i) 56 = none := by
  obtain ⟨h1, h2⟩ := slotAddr_bounds q i
  have hq := q.isLt
  have hr : isRam (slotAddr q i) = true := by
    simp only [isRam, Bool.or_eq_true, Bool.and_eq_true, decide_eq_true_eq]
    exact .inr ⟨by omega, by omega⟩
  have hc : clbSlots = 0x18000050000 := rfl
  have hl : loftBase = 0x10000000000 := rfl
  have ht : tcmBase = 0x11000000000 := rfl
  have hp : periBase = 0x18000000000 := rfl
  have hm : m2cRing = 0x18000002000 := rfl
  rw [busErr, if_pos hr, ramErr]
  rw [if_neg (by omega), if_neg (by omega), if_neg (by omega), if_neg (by omega), if_pos (by omega), if_pos h]

/-- A host's store of a job fills the slot and touches nothing but memory and the home reservations. -/
theorem busWrite_slot {s : State} {q : QueueId} (i : BitVec 9) (bs : Bytes) (h : (s.cleatB.get q).owner = 2) :
    busWrite s .host (slotAddr q i) bs = noteHomeWrite (s.wr (slotAddr q i) bs) (slotAddr q i) bs.length := by
  obtain ⟨h1, h2⟩ := slotAddr_bounds q i
  have hq := q.isLt
  have hr : isRam (slotAddr q i) = true := by
    simp only [isRam, Bool.or_eq_true, Bool.and_eq_true, decide_eq_true_eq]
    exact .inr ⟨by omega, by omega⟩
  have ho : slotOpen s .host (slotAddr q i) = true := by
    have hk : Fin.ofNat 8 ((slotAddr q i - clbSlots) / 0x4000) = q := by
      apply Fin.ext
      simp only [Fin.ofNat]
      omega
    rw [slotOpen, if_pos (by simp; omega), hk, h]
    rfl
  rw [busWrite, if_pos hr, if_pos ho]

theorem blkOf_postReg (q : QueueId) : blkOf (postReg q) = some (.cleatB, 4 + q.val * 0x40) := by
  fin_cases q <;> rfl

/-- A host's write of POST is the queue's own. -/
theorem busWrite_post {s : State} (q : QueueId) (v : BitVec 9) :
    busWrite s .host (postReg q) (toLE 4 v.toNat) = { s with cleatB := vmod s.cleatB q fun x => x.writePost 2 v } := by
  have hr : isRam (postReg q) = false := by fin_cases q <;> rfl
  have ha : postReg q / 4 * 4 = postReg q := by fin_cases q <;> rfl
  have hn : (postReg q - postReg q / 4 * 4 + (toLE 4 v.toNat).length + 3) / 4 = 1 := by
    rw [ha, toLE_length]; omega
  have hw : (storeWord (postReg q) (postReg q) (toLE 4 v.toNat)).extractLsb' 0 9 = v := by
    rw [storeWord_toLE]
    refine BitVec.eq_of_toNat_eq ?_
    simp
    omega
  rw [busWrite, if_neg (by simp [hr]), hn, ha, regStores, blkOf_postReg]
  change clbWrite s .host (4 + q.val * 0x40) _ = _
  have h1 : ¬ 0x200 ≤ 4 + q.val * 0x40 := by have := q.isLt; omega
  have h2 : (4 + q.val * 0x40) % 0x40 = 4 := by omega
  have h3 : Fin.ofNat 8 ((4 + q.val * 0x40) / 0x40) = q := by
    apply Fin.ext; simp only [Fin.ofNat]; have := q.isLt; omega
  rw [clbWrite, if_neg h1, h2, h3]
  change { s with cleatB := vmod s.cleatB q fun x => x.writePost 2 _ } = _
  rw [hw]

theorem busErr_post {s : State} (q : QueueId) (h : domUp s 11 = true) : busErr s (postReg q) 4 = none := by
  have hr : isRam (postReg q) = false := by fin_cases q <;> rfl
  have hl : blkOf (postReg q + (4 - 1)) = some (.cleatB, 7 + q.val * 0x40) := by fin_cases q <;> rfl
  rw [busErr, if_neg (by simp [hr]), hl, blkOf_postReg]
  dsimp only
  rw [if_pos rfl]
  exact if_pos h

/-- Settles O9: the post is two stores of the PCIe initiator, to the slot and to POST; CFG takes effect by
`Queue.writeCfg`. -/
theorem hostPostAndQueueConfig : Obligations.HostPostAndQueueConfig := by
  intro q s x
  refine ⟨fun job hup hm ho hroom hact1 hact2 => ?_, fun h v hup => ⟨fun h1 h2 => ?_, fun h1 => ?_⟩, fun v => ?_⟩
  · have hd : domUp s 11 = true := (Bool.and_eq_true _ _ ▸ hup : _ ∧ _).1
    obtain ⟨hlo, hhi⟩ := slotAddr_bounds q x.post
    have hq := q.isLt
    let u := noteHomeWrite (s.wr (slotAddr q x.post) (padTo 56 job)) (slotAddr q x.post) (padTo 56 job).length
    have hc : clbSlots = 0x18000050000 := rfl
    have hg : mgmtBase = 0x1F000000000 := rfl
    have hpr : postReg q = 0x18000040004 + q.val * 0x40 := rfl
    have e1 : initWrite s .host 25 (slotAddr q x.post) (padTo 56 job) = (none, u) := by
      rw [initWrite_host (by omega) (by rw [padTo_length]; exact hact1)
        (by rw [padTo_length]; exact busErr_slot q _ hd), busWrite_slot _ _ ho]
    have e2 : initWrite u .host 25 (postReg q) (toLE 4 (x.post + 1).toNat) =
        (none, { u with cleatB := vmod u.cleatB q fun y => y.writePost 2 (x.post + 1) }) := by
      rw [initWrite_host (by omega) (by rw [toLE_length]; exact hact2)
        (by rw [toLE_length]; exact busErr_post q hd), busWrite_post]
    have he : exec (.hostPost q job) s = .next { u with cleatB := vmod u.cleatB q fun y => y.writePost 2 (x.post + 1) } := by
      refine (if_pos hup).trans ?_
      rw [e1]
      exact congrArg (fun r : Option BusErr × State => Host.Outcome.next r.2) e2
    refine Gives.intro he ⟨?_, ?_, fun a ha => ?_⟩
    · exact (State.rd_wr (s := s) (slotAddr q x.post) (padTo 56 job) hm ▸ by rw [padTo_length]; rfl)
    · exact congrArg (vput s.cleatB q) (Queue.writePost_of_room ho hroom)
    · exact memRead_memWriteN_out hm (by rw [padTo_length]; exact ha)
  · refine (if_pos (by simp [hup])).trans (congrArg (fun y => Host.Outcome.next { s with cleatB := vput s.cleatB q y }) ?_)
    exact if_pos ⟨h1, h2⟩
  · refine (if_pos (by simp [hup])).trans (congrArg Host.Outcome.next ?_)
    have : x.writeCfg v = x := if_neg fun ⟨h2, h3⟩ => h1.elim (· h2) (· h3)
    rw [show vmod s.cleatB q (fun x => x.writeCfg v) = s.cleatB from (congrArg (vput s.cleatB q) this).trans (vput_self ..)]
  · exact if_neg (by simp)

end Sys2Proof.Machine

end

section

namespace Sys2Proof.Machine

/-! ## Fences (O11) -/

theorem unitReports_up {s : State} {u : Nat} (h : unitReports s u = true) : s.boot.dprActive = false := by
  unfold unitReports at h
  split at h
  · simp only [Bool.and_eq_true, Bool.not_eq_true'] at h
    exact h.2
  · cases h

/-- A fence-class fault of a unit whose line is free asserts the line; the rest is the scheduler's. -/
theorem fenceFault_power {s : State} {u : Nat} (code : W16) (hu : u ≤ 0x19) (hd : s.boot.dprActive = false)
    (hl : s.cleatC.lines.getLsbD u = false) : (fenceFault s u code).sansPower =
      (fenceLine { s with cleatC.codes := Tbl.write (fun _ => 0) s.cleatC.codes u code } u).sansPower := by
  unfold fenceFault
  rw [if_neg (by simp [fenceable, hu, hd, hl])]
  extract_lets a
  split
  · exact power_of_sched ((fenceCourse_sched ..).trans (coreMod_sched ..))
  · split
    · exact (fenceEaves_power _).trans rfl
    · rfl

/-- A unit's fence notes the unit in the mask `f` sets, under a condition that stands. -/
structure FenceNoted (s t : State) (core unit : BitVec 16 → BitVec 16) (code u : Nat) : Prop where
  cleatC : t.cleatC = s.cleatC
  coreMask : t.health.coreMask = core s.health.coreMask
  unitMask : t.health.unitMask = unit s.health.unitMask
  standing : stands t code u = true

/-- The scheduler, PHT_RDY and Reef take their part afterwards. -/
theorem FenceNoted.of_power {s t u : State} {f g : BitVec 16 → BitVec 16} {code k : Nat} (h : FenceNoted s t f g code k)
    (hu : u.sansPower = t.sansPower) : FenceNoted s u f g code k :=
  have hc : u.cleatC = t.cleatC := (congrArg (fun v : State => v.cleatC) hu :)
  have hh : u.health = t.health := (congrArg (fun v : State => v.health) hu :)
  ⟨hc.trans h.cleatC, by rw [hh, h.coreMask], by rw [hh, h.unitMask],
    (stands_congr (congrArg Health.standing hh) ..).trans h.standing⟩

/-- Raising the condition of a fence that its mask already notes. -/
theorem FenceNoted.raise {s t : State} {f g : BitVec 16 → BitVec 16} {code : Nat} (hc : code < 65536) (hC : t.cleatC = s.cleatC)
    (hh : t.health = { s.health with coreMask := f s.health.coreMask, unitMask := g s.health.unitMask }) (unit : Byte)
    (k : Nat) (d : Bytes) : FenceNoted s (raiseStanding t code unit k d) f g code k := by
  have h := raiseStanding_health t code unit k d
  exact ⟨(raiseStanding_cleatC ..).trans hC, (congrArg Health.coreMask h :).trans (by rw [hh]; rfl),
    (congrArg Health.unitMask h :).trans (by rw [hh]; rfl), stands_raiseStanding t hc ..⟩

theorem coreFenced_noted (s : State) (c : CoreId) :
    FenceNoted s (coreFenced s c) (· ||| (1#16 <<< c.val)) id 0xFF21 c.val := by
  change FenceNoted s (reefFence (raiseStanding _ 0xFF21 _ c.val _) c) _ _ _ _
  refine FenceNoted.of_power (.raise (by decide) ?_ ?_ ..) (reefFence_power ..)
  · rfl
  · rfl

theorem unitStops_keeps (s : State) (u : Nat) : (unitStops s u).cleatC = s.cleatC ∧ (unitStops s u).health = s.health := by
  unfold unitStops
  split_ifs <;> exact ⟨rfl, rfl⟩

theorem otherFenced_noted (s : State) (u : Nat) :
    FenceNoted s (otherFenced s u) id (· ||| (1#16 <<< (u - 16))) 0xFF23 u := by
  obtain ⟨hc, hh⟩ := unitStops_keeps s u
  change FenceNoted s (raiseStanding _ 0xFF23 _ u _) _ _ _ _
  refine .raise (by decide) ?_ ?_ ..
  · exact hc
  · change ({ (unitStops s u).health with unitMask := s.health.unitMask ||| (1#16 <<< (u - 16)) } : Health) = _
    rw [hh]
    rfl

/-- Settles O11. -/
theorem fencesOfUnits : Obligations.FencesOfUnits := by
  intro unit code s u
  refine ⟨fun hu hr hd hl => ?_, fun h => ?_, fun hm hu hl hf => ?_⟩
  · refine Gives.intro (if_pos (Bool.and_eq_true_iff.2 ⟨decide_eq_true hu, hr⟩)) ?_
    have h := fenceFault_power code hu hd hl
    exact ⟨(congrArg (fun v : State => v.cleatC.lines) h :), (congrArg (fun v : State => v.cleatC.fenced) h :),
      (congrArg (fun v : State => v.cleatC.fifo) h :), (congrArg (fun v : State => v.health) h :)⟩
  · refine ite_eq_right_iff.2 fun hc => congrArg Host.Outcome.next (if_pos ?_)
    obtain ⟨hfe, hr⟩ : fenceable unit.toNat = true ∧ unitReports s unit.toNat = true := by simpa using hc
    rcases h with h | h
    · rw [unitReports_up hr] at h; cases h
    · have : s.cleatC.lines.getLsbD unit.toNat = true := h
      simp [this]
  · let v : State := { s with cleatC.fenced := s.cleatC.fenced ||| (1#40 <<< u) }
    have hend : ∀ {w : State} {f g : BitVec 16 → BitVec 16} {code : Nat}, FenceNoted v w f g code u →
        FenceNoted v (notice (abortStuck w) noticeFence [u]) f g code u := fun h =>
      have h' := h.of_power (power_of_sched (abortStuck_sched _))
      ⟨by rw [notice_cleatC, h'.cleatC], by rw [notice_health, h'.coreMask], by rw [notice_health, h'.unitMask],
        (stands_congr (by rw [notice_health]) ..).trans h'.standing⟩
    refine Gives.intro (if_pos (by
      change (mgcUp s && decide (u ≤ 0x19) && s.cleatC.lines.getLsbD u && !s.cleatC.fenced.getLsbD u) = true
      rw [hm, decide_eq_true hu, hl, hf]
      rfl)) ?_
    by_cases h16 : u < 16
    · have hv : (Fin.ofNat 16 u).val = u := Nat.mod_eq_of_lt h16
      have hn := coreFenced_noted v (Fin.ofNat 16 u)
      rw [hv] at hn
      have he : fenceEffect s u = notice (abortStuck (coreFenced v (Fin.ofNat 16 u))) noticeFence [u] := by
        rw [fenceEffect, if_pos h16]
      rw [he]
      have h := hend hn
      exact ⟨by rw [h.cleatC], by rw [h.cleatC], fun _ => ⟨h.coreMask, h.unitMask, h.standing⟩, fun h' => absurd h' (by omega)⟩
    · have he : fenceEffect s u = notice (abortStuck (otherFenced v u)) noticeFence [u] := by
        rw [fenceEffect, if_neg h16]
      rw [he]
      have h := hend (otherFenced_noted v u)
      exact ⟨by rw [h.cleatC], by rw [h.cleatC], fun h' => absurd h' h16, fun _ => ⟨h.unitMask, h.coreMask, h.standing⟩⟩

end Sys2Proof.Machine

end

section

namespace Sys2Proof.Machine

/-! ## What beginning an access leaves -/

/-- A session that opens has open rank, and no other session changes. -/
theorem openSess_sessions {n m : Node} {w : Session} (h : openSess n w = some m) :
    (findSess n w).isSome = true ∧ m = n ∨
      findSess n w = none ∧ m = { n with sessions := n.sessions ++ [{ who := w, service := false, challenge := none }] } := by
  unfold openSess at h
  split at h
  · cases h; exact .inl ⟨‹_›, rfl⟩
  · have hn : findSess n w = none := Option.not_isSome_iff_eq_none.1 ‹_›
    split at h
    · cases h; exact .inr ⟨hn, rfl⟩
    · split at h
      · cases h; exact .inr ⟨hn, rfl⟩
      · cases h

theorem openSess_rest {n m : Node} {w : Session} (h : openSess n w = some m) : m = { n with sessions := m.sessions } := by
  rcases openSess_sessions h with ⟨-, rfl⟩ | ⟨-, rfl⟩ <;> rfl

theorem isService_openSess {n m : Node} {w : Session} (h : openSess n w = some m) (x : Session) :
    isService m x = isService n x := by
  rcases openSess_sessions h with ⟨-, rfl⟩ | ⟨hn, rfl⟩
  · rfl
  · by_cases hx : w = x
    · subst hx
      have : n.sessions.find? (fun y => y.who == w) = none := hn
      simp [isService, List.find?_append, this]
    · simp [isService, List.find?_append, hx]

theorem findSess_openSess {n m : Node} {w x : Session} (h : openSess n w = some m) (hx : x ≠ w) :
    findSess m x = findSess n x := by
  rcases openSess_sessions h with ⟨-, rfl⟩ | ⟨-, rfl⟩
  · rfl
  · simp [findSess, List.find?_append, Ne.symm hx]

theorem openSess_isSome {n m : Node} {w : Session} (h : openSess n w = some m) : (findSess m w).isSome = true := by
  rcases openSess_sessions h with ⟨h, rfl⟩ | ⟨hn, rfl⟩
  · exact h
  · have : n.sessions.find? (fun y => y.who == w) = none := hn
    simp [findSess, List.find?_append, this]

/-- The node but for what beginning and answering an access changes. -/
def Node.sansAsk (n : Node) : Node :=
  { n with sessions := [], chans := Vector.replicate 2 none, hmb := Hmb.reset, reqs := [], routed := [] }

/-- The state but for what beginning an access changes. -/
def State.sansAsk (s : State) : State := { s with node := s.node.sansAsk, tw := Vector.replicate 6 TwPort.reset }

/-- The state but for what beginning and answering an access changes. -/
def State.sansTold (s : State) : State := { s.sansAsk with out := [], cleatA.hostRsp := [] }

theorem opened_ask (s : State) (w : Session) (i k : Nat) : (opened s w i k).sansAsk = s.sansAsk := by
  cases w <;> rfl

theorem sessServed_of_ask {s t : State} (h : t.sansAsk = s.sansAsk) (w : Session) : sessServed t w = sessServed s w := by
  have hv : ∀ u : State, sessServed u.sansAsk w = sessServed u w := fun u => by cases w <;> rfl
  rw [← hv t, h, hv]

theorem opened_sessions (s : State) (w : Session) (i k : Nat) : (opened s w i k).node.sessions = s.node.sessions := by
  cases w <;> rfl

theorem asked_ask (s : State) (w : Session) (i k : Nat) : (s.asked w i k).sansAsk = s.sansAsk := by
  refine (opened_ask ..).trans ?_
  change ({ s with node := _, tw := _ } : State) = _
  cases h : openSess s.node w with
  | none => rfl
  | some n =>
    rw [Option.getD_some, openSess_rest h]
    rfl

theorem answerSess_told (s : State) (w : Session) (i k : Nat) (a : Answer) : (answerSess s w i k a).sansTold = s.sansTold := by
  obtain ⟨o, l, ch, h⟩ := answerSess_frame s w i k a
  rw [h]
  rfl

theorem told_of_ask {s t : State} (h : t.sansAsk = s.sansAsk) : t.sansTold = s.sansTold := by
  change { t.sansAsk with out := [], cleatA.hostRsp := [] } = ({ s.sansAsk with out := [], cleatA.hostRsp := [] } : State)
  rw [h]

theorem told_told (s : State) (w : Session) (i k : Nat) (a : Answer) : (s.told w i k a).sansTold = s.sansTold :=
  (answerSess_told ..).trans (told_of_ask (asked_ask ..))

theorem isService_congr {n m : Node} (h : m.sessions = n.sessions) (x : Session) : isService m x = isService n x := by
  rw [isService, isService, h]

theorem isService_asked (s : State) (w : Session) (i k : Nat) (x : Session) :
    isService (s.asked w i k).node x = isService s.node x := by
  refine (isService_congr (opened_sessions ..) x).trans ?_
  cases h : openSess s.node w with
  | none => rfl
  | some n => exact isService_openSess h x

theorem answerSess_sessions (s : State) (w : Session) (i k : Nat) (a : Answer) :
    (answerSess s w i k a).node.sessions = s.node.sessions := by
  obtain ⟨o, l, ch, h⟩ := answerSess_frame s w i k a
  rw [h]

theorem isService_told (s : State) (w : Session) (i k : Nat) (a : Answer) (x : Session) :
    isService (s.told w i k a).node x = isService s.node x :=
  (isService_congr (answerSess_sessions ..) x).trans (isService_asked ..)

theorem asked_out (s : State) (w : Session) (i k : Nat) : (s.asked w i k).out = s.out :=
  (congrArg State.out (asked_ask s w i k) :)

theorem asked_cleatA (s : State) (w : Session) (i k : Nat) : (s.asked w i k).cleatA = s.cleatA :=
  (congrArg State.cleatA (asked_ask s w i k) :)

/-! ## The answer to an access -/

/-- How an access of session w stands open: its way is taken, and w is served. -/
def State.open_ (s : State) (w : Session) : Prop :=
  match w with
  | .host => s.node.hmb.busy = true
  | .can p c => sessServed s w = true ∧ ∃ x : Xfer, s.node.chans.get p = some x ∧ x.of c = true ∧ x.seg = false

theorem asked_open {s : State} {w : Session} (h : s.mayAsk w) (i k : Nat) : (s.asked w i k).open_ w := by
  obtain ⟨-, hs, -, -⟩ := h
  cases w with
  | host => rfl
  | can p c =>
    refine ⟨?_, wholeXfer c i k, vput_get_same .., ?_, rfl⟩
    · exact (sessServed_of_ask (asked_ask ..) _).trans hs
    · simp [Xfer.of, wholeXfer]

/-- The answer of an open access leaves, and closes its way. -/
theorem answerSess_answered {s t : State} {w : Session} (h : t.open_ w) (ho : t.out = s.out) (hc : t.cleatA = s.cleatA)
    (i k : Nat) (a : Answer) : s.answeredTo (answerSess t w i k a) w i k a := by
  cases w with
  | host =>
    unfold answerSess answerOut
    simp only [State.answeredTo]
    split
    · rename_i hl
      rw [hc] at hl
      exact ⟨ho, h, by rw [if_pos hl, ← hc]⟩
    · rename_i hl
      rw [hc] at hl
      exact ⟨ho, h, by rw [if_neg hl, hc]⟩
  | can p c =>
    obtain ⟨hs, x, hx, hof, hseg⟩ := h
    have he : answerSess t (.can p c) i k a =
        emit { t with node.chans := vput t.node.chans p none } (.dict (.can p c) a) := by
      have hout : answerOut { t with node.chans := vput t.node.chans p none } (.can p c) i k a =
          emit { t with node.chans := vput t.node.chans p none } (.dict (.can p c) a) := if_pos hs
      unfold answerSess
      rw [← hout]
      cases a <;> simp [hx, hof, hseg]
    rw [he]
    exact ⟨congrArg (· ++ [_]) ho, vput_get_same .., hc⟩

theorem told_answered {s : State} {w : Session} (h : s.mayAsk w) (i k : Nat) (a : Answer) :
    s.answeredTo (s.told w i k a) w i k a :=
  answerSess_answered (asked_open h i k) (asked_out ..) (asked_cleatA ..) i k a

/-- An access of a service session runs the command's function. -/
theorem objCmd_service {s : State} {w : Session} (h : s.mayAsk w) (hw : isService s.node w = true) (i k : Nat)
    (f : State → Nat × State) : objCmd s w i k f =
      .next (answerSess (f (s.asked w i k)).2 w i k (codeAnswer (f (s.asked w i k)).1)) := by
  rw [objCmd_of_mayAsk h]
  exact congrArg Host.Outcome.next (if_pos ((isService_asked s w i k w).trans hw))

end Sys2Proof.Machine

end

section

namespace Sys2Proof.Machine

/-! ## What the completion of a job leaves -/

/-- The state but for what the completion of a job changes. -/
def State.sansJobs (s : State) : State :=
  { s with mem := [], csc := Csc.reset, cap := Cap.reset, cleatB := Vector.replicate 8 Queue.reset, pcie.pend := 0,
           pht.late := Vector.replicate 8 0, mast.events := 0, health.lastRaised := [], node := s.node.sansEmcy, out := [] }

theorem wr_jobs (s : State) (a : Nat) (bs : Bytes) : (s.wr a bs).sansJobs = s.sansJobs := rfl

theorem ctxPut_jobs (s : State) (n : Nat) (c : Ctx) : (ctxPut s n c).sansJobs = s.sansJobs := rfl

theorem cap_jobs (s : State) (x : Cap) : ({ s with cap := x } : State).sansJobs = s.sansJobs := rfl

theorem slotMod_jobs (s : State) (n k : Nat) (f : CapSlot → CapSlot) : (slotMod s n k f).sansJobs = s.sansJobs := ctxPut_jobs ..

theorem slotFree_jobs (s : State) (n k : Nat) : (slotFree s n k).sansJobs = s.sansJobs := by
  unfold slotFree
  extract_lets t c u
  have ht : t.sansJobs = s.sansJobs := slotMod_jobs ..
  have hu : u.sansJobs = s.sansJobs := by
    clear_value t
    dsimp only [u]
    split
    · have hput := (ctxPut_jobs t n { c with asm := none }).trans ht
      split
      · exact hput
      · exact ht
    · exact ht
  clear_value u
  exact (cap_jobs ..).trans hu

theorem slotsFree_jobs (l : List (Nat × Nat)) (s : State) :
    (l.foldl (fun t p => slotFree t p.1 p.2) s).sansJobs = s.sansJobs := by
  induction l generalizing s with
  | nil => rfl
  | cons p l ih => rw [List.foldl_cons, ih, slotFree_jobs]

theorem completeSlot_jobs (s : State) (q : QueueId) (i : BitVec 9) : (completeSlot s q i).sansJobs = s.sansJobs := by
  unfold completeSlot
  extract_lets x y t
  exact ite_view (V := State.sansJobs) (ite_view (V := State.sansJobs) rfl rfl) rfl

theorem raiseEmcy_jobs (s : State) (code : Nat) (unit : Byte) (d : Bytes) : (raiseEmcy s code unit d).sansJobs = s.sansJobs :=
  ite_view (V := State.sansJobs) rfl rfl

theorem countLate_jobs (s : State) (j : Job) : (countLate s j).sansJobs = s.sansJobs :=
  ite_view (V := State.sansJobs) (ite_view (V := State.sansJobs) rfl ((raiseEmcy_jobs ..).trans rfl)) rfl

theorem completeJob_jobs (s : State) (j : Job) : (completeJob s j).sansJobs = s.sansJobs := by
  unfold completeJob
  extract_lets rec_ a b _ _ c
  clear_value rec_
  have ha : a.sansJobs = s.sansJobs := wr_jobs ..
  have hb : b.sansJobs = a.sansJobs := slotsFree_jobs ..
  clear_value a
  have hc : c.sansJobs = b.sansJobs := rfl
  clear_value b c
  exact (countLate_jobs ..).trans ((completeSlot_jobs ..).trans (hc.trans (hb.trans ha)))

theorem abortTaken_jobs (s : State) : (abortTaken s).sansJobs = s.sansJobs := by
  have hfold : ∀ (l : List Job) (u : State),
      (l.foldl (fun t j => completeJob t { j with stop := some 5 }) u).sansJobs = u.sansJobs := fun l u =>
    foldl_view (V := State.sansJobs) (fun u _ => completeJob_jobs u _) l u
  exact hfold _ s

/-! ## What a message taken leaves -/

/-- The state but for the C2M ring's consumer index and its counts. -/
def State.sansTaken (s : State) : State := { s with cleatA.c2mRd := 0, cleatA.accepted := 0, cleatA.unknown := 0 }

theorem dropUnknown_taken (n : Nat) (s : State) : (dropUnknown n s).sansTaken = s.sansTaken := by
  induction n generalizing s with
  | zero => rfl
  | succ n ih =>
    rw [dropUnknown]
    split
    · exact ite_view (V := State.sansTaken) rfl ((ih _).trans rfl)
    · rfl

theorem takeMsgIf_taken {s t : State} {p : Msg → Bool} {m : Msg} (h : takeMsgIf s p = some (m, t)) :
    t.sansTaken = s.sansTaken := by
  unfold takeMsgIf at h
  split at h
  · split at h
    · cases h
      exact (dropUnknown_taken ..).trans rfl
    · cases h
  · cases h

/-! ## What messages, notices and the ends of conditions leave -/

/-- The state but for the queue of EMCYs, the standing conditions, the M2C ring and what has left. -/
def State.sansNotes (s : State) : State :=
  { s with node := s.node.sansEmcy, health := s.health.sansStanding, mem := [], out := [],
           cleatA.backlog := [], cleatA.fullEvents := 0, cleatA.m2cWr := 0 }

theorem emcyQueue_notes (s : State) (f : Bytes) : (emcyQueue s f).sansNotes = s.sansNotes := by
  unfold emcyQueue
  split <;> rfl

theorem raiseEmcy_notes (s : State) (code : Nat) (unit : Byte) (d : Bytes) : (raiseEmcy s code unit d).sansNotes = s.sansNotes :=
  (emcyQueue_notes ..).trans rfl

theorem raiseStanding_notes (s : State) (code : Nat) (unit : Byte) (key : Nat) (d : Bytes) :
    (raiseStanding s code unit key d).sansNotes = s.sansNotes := by
  unfold raiseStanding
  split
  · rfl
  · exact (raiseEmcy_notes ..).trans rfl

theorem clearStanding_notes (s : State) (code key : Nat) : (clearStanding s code key).sansNotes = s.sansNotes := by
  unfold clearStanding
  split
  · rfl
  · exact (emcyQueue_notes ..).trans rfl

theorem clearAllOf_notes (s : State) (code : Nat) : (clearAllOf s code).sansNotes = s.sansNotes :=
  foldl_view (V := State.sansNotes) (fun _ _ => clearStanding_notes ..) _ s

theorem m2cSend_notes (s : State) (m : Msg) : (m2cSend s m).sansNotes = s.sansNotes := by
  unfold m2cSend m2cPut
  dsimp only
  split
  · split
    · rename_i h
      split at h
      · cases h; rfl
      · cases h
    · rfl
  · rfl

theorem notice_notes (s : State) (kind : Nat) (vs : List Nat) : (notice s kind vs).sansNotes = s.sansNotes := by
  unfold notice
  split
  · exact (m2cSend_notes ..).trans rfl
  · rfl

/-! ## What sending over Shroud leaves -/

/-- The state but for the Shroud ports and what has left. -/
def State.sansShl (s : State) : State := { s with shl := Vector.replicate 8 ShlPort.reset, out := [] }

/-- What changes the Shroud ports and sends, and nothing else. -/
theorem eq_of_shl {s t : State} (h : t.sansShl = s.sansShl) : t = { s with shl := t.shl, out := t.out } := by
  have ht : t = { t.sansShl with shl := t.shl, out := t.out } := rfl
  rw [h] at ht
  exact ht

theorem shlMod_shl (s : State) (p : ShlId) (f : ShlPort → ShlPort) : (shlMod s p f).sansShl = s.sansShl := rfl

theorem emit_sansShl (s : State) (o : Output) : (emit s o).sansShl = s.sansShl := rfl

theorem sendSeq_shl (s : State) (p : ShlId) (d : Bytes) : (sendSeq s p d).sansShl = s.sansShl :=
  (emit_sansShl ..).trans (shlMod_shl ..)

theorem oweCredit_shl (s : State) (p : ShlId) (k : Fin 8) (n : Nat) : (oweCredit s p k n).sansShl = s.sansShl := by
  unfold oweCredit
  split <;> exact shlMod_shl ..

theorem creditFlit_shl (s : State) (p : ShlId) : (creditFlit s p).sansShl = s.sansShl := by
  unfold creditFlit
  extract_lets q
  split
  · exact sendSeq_shl ..
  · rfl

theorem freeSlots_shl (s : State) (o : Option (ShlId × Fin 8)) (n : Nat) : (freeSlots s o n).sansShl = s.sansShl := by
  cases o with
  | none => rfl
  | some q => exact (creditFlit_shl ..).trans (oweCredit_shl ..)

theorem pump_shl (k : Nat) (s : State) (p : ShlId) : (pump k s p).sansShl = s.sansShl := by
  induction k generalizing s with
  | zero => rfl
  | succ k ih =>
    unfold pump
    extract_lets q
    split
    · split
      · rfl
      · exact (ih _).trans ((freeSlots_shl ..).trans ((sendSeq_shl ..).trans (shlMod_shl ..)))
    · rfl

theorem enqueue_shl (s : State) (i : Option ShlId) (p : ShlId) (m : Bytes) : (enqueue s i p m).sansShl = s.sansShl :=
  (pump_shl ..).trans (shlMod_shl ..)

theorem sendOwn_shl (s : State) (m : Bytes) : (sendOwn s m).sansShl = s.sansShl := by
  unfold sendOwn
  split
  · exact enqueue_shl ..
  · rfl

theorem sendMgmt_shl (s : State) (kind : Nat) (args : List Nat) (c : ChipId) : (sendMgmt s kind args c).sansShl = s.sansShl := by
  unfold sendMgmt
  split
  · rfl
  · exact sendOwn_shl ..

/-! ## What answering whoever asked leaves -/

/-- The state but for what the answer to an access of any origin changes. -/
def State.sansReply (s : State) : State :=
  { s.sansShl with node.chans := Vector.replicate 2 none, node.held := [], node.routed := [], cleatA.hostRsp := [] }

theorem reply_of_shl {s t : State} (h : t.sansShl = s.sansShl) : t.sansReply = s.sansReply := by
  have hv : ∀ u : State, u.sansReply = u.sansShl.sansReply := fun _ => rfl
  rw [hv, h, ← hv]

theorem answerSess_reply (s : State) (w : Session) (i k : Nat) (a : Answer) : (answerSess s w i k a).sansReply = s.sansReply := by
  obtain ⟨o, l, ch, h⟩ := answerSess_frame s w i k a
  rw [h]
  rfl

theorem routeAnswer_reply (s : State) (w : Session) (a : Answer) : (routeAnswer s w a).sansReply = s.sansReply := by
  unfold routeAnswer
  split
  · rfl
  · extract_lets _ u
    have hu : u.sansReply = s.sansReply := rfl
    clear_value u
    split
    · refine (answerSess_reply ..).trans (Eq.trans ?_ hu)
      split <;> rfl
    · exact (answerSess_reply ..).trans hu

theorem answerOrigin_reply (s : State) (o : Origin) (i k : Nat) (a : Answer) : (answerOrigin s o i k a).sansReply = s.sansReply := by
  cases o with
  | sess w => exact answerSess_reply ..
  | chip c => exact reply_of_shl (sendMgmt_shl ..)
  | own w => exact routeAnswer_reply ..
  | gone => rfl

/-- The state but for what a control-plane reset forgets on the way. -/
def State.sansForget (s : State) : State :=
  { s.sansReply with node.reqs := [], node.regs := [], node.images := [], tw := Vector.replicate 6 TwPort.reset }

theorem forget_forget (s : State) (goes : Session → Bool) : (forget s goes).sansForget = s.sansForget := rfl

theorem forgetApps_forget (s : State) : (forgetApps s).sansForget = s.sansForget := by
  have hfold : ∀ (l : List DictReq) (u : State), (l.foldl (fun t r =>
      answerOrigin t r.origin r.index.toNat r.sub.toNat (.abort abState)) u).sansReply = u.sansReply := fun l u => by
    induction l generalizing u with
    | nil => rfl
    | cons r l ih => rw [List.foldl_cons, ih, answerOrigin_reply]
  have hv : ∀ u : State, u.sansForget = { u.sansReply with node.reqs := [], node.regs := [], node.images := [], tw := Vector.replicate 6 TwPort.reset } := fun _ => rfl
  unfold forgetApps
  generalize s.node.reqs = rs
  refine (hv _).trans ?_
  rw [hfold, ← hv]
  rfl

end Sys2Proof.Machine

end

section

namespace Sys2Proof.Machine

/-! ## How plane resets begin (O5) -/

/-- What the control-plane reset leaves when it begins, and what of a reset in progress it joins. -/
def CprBegun (s t : State) : Prop :=
  (s.boot.cprActive = false → t.boot.cprActive = true ∧ t.boot.control = .reset ∧
    t.boot.cprCount = s.boot.cprCount + 1 ∧ t.mast = Mast.reset ∧ t.pcie = Pcie.reset) ∧
  (s.boot.cprActive = true → t.boot.cprActive = true ∧ t.boot.cprCount = s.boot.cprCount)

/-- What the data-plane reset leaves when it begins, and what of a reset in progress it joins. -/
def DprBegun (s t : State) : Prop :=
  (s.boot.dprActive = false → t.boot.dprActive = true ∧ t.boot.dprCount = s.boot.dprCount + 1 ∧
    t.cleatC.fenced = 0x3FFFFFF ∧ (∀ d : DomId, d.val ≤ 13 → d ≠ 11 → (domOf t d).state = .off) ∧
    ((domOf s 14).state = .run → (domOf t 14).state = .ret)) ∧
  (s.boot.dprActive = true → t.boot.dprActive = true ∧ t.boot.dprCount = s.boot.dprCount)

theorem CprBegun.of {s z t : State} (h : CprBegun z t) (ha : z.boot.cprActive = s.boot.cprActive)
    (hc : z.boot.cprCount = s.boot.cprCount) : CprBegun s t := by
  rw [CprBegun, ← ha, ← hc]
  exact h

theorem DprBegun.of {s z t : State} (h : DprBegun z t) (ha : z.boot.dprActive = s.boot.dprActive)
    (hc : z.boot.dprCount = s.boot.dprCount) (hd : domOf z 14 = domOf s 14) : DprBegun s t := by
  rw [DprBegun, ← ha, ← hc, ← hd]
  exact h

theorem DprBegun.after {s t u : State} (h : DprBegun s t) (ha : u.boot.dprActive = t.boot.dprActive)
    (hc : u.boot.dprCount = t.boot.dprCount) (hC : u.cleatC = t.cleatC) (hr : u.reef = t.reef) : DprBegun s u := by
  have hd : ∀ d, domOf u d = domOf t d := fun d => congrArg (fun f : Reef => f.doms.get d) hr
  simp only [DprBegun, ha, hc, hC, hd]
  exact h

theorem cprStart_joined {s : State} (h : s.boot.cprActive = true) : cprStart s = s := if_pos h

/-- A control-plane reset that begins: what it holds in reset, and what it leaves. -/
theorem cprStart_begins {s : State} (h : s.boot.cprActive = false) :
    (cprStart s).boot = { s.boot with
      control := .reset, cprActive := true, mastHeld := false, cprCount := s.boot.cprCount + 1, dprTags := [], dapHalt0 := false, dapHalt1 := false } ∧
    (cprStart s).mast = Mast.reset ∧ (cprStart s).pcie = Pcie.reset ∧ (cprStart s).cleatB = s.cleatB ∧
    (cprStart s).cleatC = s.cleatC ∧ (cprStart s).reef = s.reef := by
  have hf : (forget (forgetApps s) (· == .host)).sansForget = s.sansForget := (forget_forget ..).trans (forgetApps_forget s)
  unfold cprStart
  rw [if_neg (by simp [h])]
  generalize forget (forgetApps s) (· == .host) = u at hf ⊢
  have hb : u.boot = s.boot := (congrArg (fun v : State => v.boot) hf :)
  refine ⟨?_, rfl, rfl, (congrArg (fun v : State => v.cleatB) hf :), (congrArg (fun v : State => v.cleatC) hf :),
    (congrArg (fun v : State => v.reef) hf :)⟩
  rw [← hb]
  rfl

/-- What a control-plane reset leaves of the data plane's reset. -/
theorem cprStart_rest (s : State) : (cprStart s).boot.dprActive = s.boot.dprActive ∧
    (cprStart s).boot.dprCount = s.boot.dprCount ∧ (cprStart s).boot.lastPlane = s.boot.lastPlane ∧
    (cprStart s).cleatB = s.cleatB ∧ (cprStart s).cleatC = s.cleatC ∧ (cprStart s).reef = s.reef := by
  cases h : s.boot.cprActive with
  | true => rw [cprStart_joined h]; exact ⟨rfl, rfl, rfl, rfl, rfl, rfl⟩
  | false =>
    obtain ⟨hb, -, -, hB, hC, hr⟩ := cprStart_begins h
    exact ⟨by rw [hb], by rw [hb], by rw [hb], hB, hC, hr⟩

theorem cprStart_begun (s : State) : CprBegun s (cprStart s) := by
  refine ⟨fun h => ?_, fun h => by rw [cprStart_joined h]; exact ⟨h, rfl⟩⟩
  obtain ⟨hb, hm, hp, -, -, -⟩ := cprStart_begins h
  exact ⟨by rw [hb], by rw [hb], by rw [hb], hm, hp⟩

/-! ### The domains of the data plane -/

theorem domOf_enterFree (s : State) (d e : DomId) (st : PState) : domOf (enterFree s d st) e =
    domOf (domMod s d fun r => { r with state := st, units := costOf s d st, reclaim := none, waking := false, fromOff := false }) e :=
  (congrArg (fun f : Reef => f.doms.get e) (enterState_reef s d st) :)

theorem domOf_dprOff_same (s : State) (d : DomId) : (domOf (dprOff s d) d).state = .off := by
  rw [dprOff, domOf_domMod_same, domOf_enterFree, domOf_domMod_same]

theorem domOf_dprOff_other (s : State) {d e : DomId} (h : e ≠ d) : domOf (dprOff s d) e = domOf s e := by
  rw [dprOff, domOf_domMod, if_neg h, domOf_enterFree, domOf_domMod, if_neg h]

theorem domOf_dprOffs_other {l : List DomId} {e : DomId} (h : e ∉ l) (s : State) : domOf (l.foldl dprOff s) e = domOf s e := by
  induction l generalizing s with
  | nil => rfl
  | cons d l ih =>
    rw [List.mem_cons, not_or] at h
    rw [List.foldl_cons, ih h.2, domOf_dprOff_other s h.1]

theorem domOf_dprOffs_mem {l : List DomId} {e : DomId} (h : e ∈ l) (s : State) :
    (domOf (l.foldl dprOff s) e).state = .off := by
  induction l generalizing s with
  | nil => cases h
  | cons d l ih =>
    rw [List.foldl_cons]
    by_cases hl : e ∈ l
    · exact ih hl _
    · obtain rfl : e = d := (List.mem_cons.1 h).resolve_right hl
      rw [domOf_dprOffs_other hl]
      exact domOf_dprOff_same s e

theorem dprOffs_power (l : List DomId) (s : State) : (l.foldl dprOff s).sansPower = s.sansPower := by
  induction l generalizing s with
  | nil => rfl
  | cons d l ih => rw [List.foldl_cons, ih]; exact (enterFree_power s d .off).trans rfl

theorem dprDram_power (s : State) : (dprDram s).sansPower = s.sansPower := by
  unfold dprDram
  extract_lets _ u
  have hu : u.sansPower = s.sansPower := rfl
  clear_value u
  split
  · exact (enterFree_power ..).trans hu
  · exact hu

theorem dprDram_domOf (s : State) (h : (domOf s 14).state = .run) : (domOf (dprDram s) 14).state = .ret := by
  unfold dprDram
  rw [if_pos (by exact h), domOf_enterFree, domOf_domMod_same]

/-- A data-plane reset that begins. -/
theorem dprStart_begins {s : State} (h : s.boot.dprActive = false) :
    (dprStart s).boot = { s.boot with dprActive := true, dprCount := s.boot.dprCount + 1 } ∧
    (dprStart s).cleatC.fenced = 0x3FFFFFF ∧ (∀ d : DomId, d.val ≤ 13 → d ≠ 11 → (domOf (dprStart s) d).state = .off) ∧
    ((domOf s 14).state = .run → (domOf (dprStart s) 14).state = .ret) := by
  have ha := abortTaken_jobs s
  unfold dprStart
  rw [if_neg (by simp [h])]
  generalize abortTaken s = a at ha ⊢
  have hb : a.boot = s.boot := (congrArg (fun v : State => v.boot) ha :)
  have hr : a.reef = s.reef := (congrArg (fun v : State => v.reef) ha :)
  have h14 : domOf a 14 = domOf s 14 := by rw [domOf, hr, domOf]
  dsimp only
  generalize hu : ({ a with
    boot.dprActive := true, boot.dprCount := a.boot.dprCount + 1, cleatC.lines := 0x3FFFFFF, cleatC.fenced := 0x3FFFFFF,
    reef.queue := a.reef.queue.filter dprKeeps, reef.demand := Vector.replicate 9 false,
    cleatB := a.cleatB.map fun q => { q with released := [] },
    fab.remotes := a.fab.remotes.filter fun r => r.wait.ofHart } : State) = u
  have hub : u.boot = { s.boot with dprActive := true, dprCount := s.boot.dprCount + 1 } := by rw [← hu, ← hb]
  have huc : u.cleatC.fenced = 0x3FFFFFF := by rw [← hu]
  have hu14 : domOf u 14 = domOf s 14 := by rw [← h14, ← hu]; rfl
  have hin : ∀ d : DomId, d.val ≤ 13 → d ≠ 11 → d ∈ allDoms.filter fun d => decide (d.val ≤ 13) && d != 11 := by
    intro d hd hn
    exact List.mem_filter.2 ⟨(List.mem_ofFn ..).2 ⟨d, rfl⟩, by simp [hd, hn]⟩
  have hout : (14 : DomId) ∉ allDoms.filter fun d => decide (d.val ≤ 13) && d != 11 := fun hm =>
    absurd (List.mem_filter.1 hm).2 (by decide)
  generalize (allDoms.filter fun d => decide (d.val ≤ 13) && d != 11) = l at hin hout ⊢
  have hp := (dprOffs_power l (dprDram u)).trans (dprDram_power u)
  refine ⟨(congrArg (fun v : State => v.boot) hp :).trans hub, (congrArg (fun v : State => v.cleatC.fenced) hp :).trans huc,
    fun d hd hn => domOf_dprOffs_mem (hin d hd hn) _, fun hrun => ?_⟩
  rw [domOf_dprOffs_other hout, dprDram_domOf u (by rw [hu14, hrun])]

theorem dprStart_joined {s : State} (h : s.boot.dprActive = true) : dprStart s = s := if_pos h

theorem dprStart_begun (s : State) : DprBegun s (dprStart s) := by
  refine ⟨fun h => ?_, fun h => by rw [dprStart_joined h]; exact ⟨h, rfl⟩⟩
  obtain ⟨hb, hf, ho, hr⟩ := dprStart_begins h
  exact ⟨by rw [hb], by rw [hb], hf, ho, hr⟩

theorem dprStart_rest (s : State) : (dprStart s).boot.cprActive = s.boot.cprActive ∧
    (dprStart s).boot.cprCount = s.boot.cprCount ∧ (dprStart s).boot.lastPlane = s.boot.lastPlane := by
  cases h : s.boot.dprActive with
  | true => rw [dprStart_joined h]; exact ⟨rfl, rfl, rfl⟩
  | false =>
    obtain ⟨hb, -, -, -⟩ := dprStart_begins h
    exact ⟨by rw [hb], by rw [hb], by rw [hb]⟩

/-! ### The requests -/

/-- What a plane reset of each target leaves, begun in a state like s but for the ask. -/
theorem planeReset_spec {s z : State} (hb : z.boot = s.boot) (hB : z.cleatB = s.cleatB) (hr : z.reef = s.reef) (src : Nat) :
    (CprBegun s (planeReset z 1 src) ∧ (planeReset z 1 src).cleatB = s.cleatB ∧
      (planeReset z 1 src).boot.dprCount = s.boot.dprCount ∧
      (planeReset z 1 src).boot.lastPlane = BitVec.ofNat 8 (1 + 4 * src)) ∧
    (DprBegun s (planeReset z 2 src) ∧ (planeReset z 2 src).boot.cprCount = s.boot.cprCount ∧
      (planeReset z 2 src).boot.lastPlane = BitVec.ofNat 8 (2 + 4 * src)) ∧
    (CprBegun s (planeReset z 3 src) ∧ DprBegun s (planeReset z 3 src) ∧
      (planeReset z 3 src).boot.lastPlane = BitVec.ofNat 8 (3 + 4 * src)) := by
  have e1 : planeReset z 1 src = cprStart (notePlane z 1 src) := by
    rw [planeReset, show bitOf 1 1 = false from by decide, show bitOf 1 0 = true from by decide]
    rfl
  have e2 : planeReset z 2 src = dprStart (notePlane z 2 src) := by
    rw [planeReset, show bitOf 2 1 = true from by decide, show bitOf 2 0 = false from by decide]
    rfl
  have e3 : planeReset z 3 src = cprStart (dprStart (notePlane z 3 src)) := by
    rw [planeReset, show bitOf 3 1 = true from by decide, show bitOf 3 0 = true from by decide]
    rfl
  rw [e1, e2, e3]
  obtain ⟨-, c1, l1, B1, -, -⟩ := cprStart_rest (notePlane z 1 src)
  obtain ⟨-, c2, l2⟩ := dprStart_rest (notePlane z 2 src)
  obtain ⟨d3, c3, l3⟩ := dprStart_rest (notePlane z 3 src)
  obtain ⟨a4, c4, l4, -, C4, r4⟩ := cprStart_rest (dprStart (notePlane z 3 src))
  refine ⟨⟨(cprStart_begun _).of (by rw [← hb]; rfl) (by rw [← hb]; rfl), B1.trans hB, c1.trans (by rw [← hb]; rfl), l1⟩,
    ⟨(dprStart_begun _).of (by rw [← hb]; rfl) (by rw [← hb]; rfl) (by rw [domOf, domOf, ← hr]; rfl), c2.trans (by rw [← hb]; rfl), l2⟩,
    ?_, ?_, l4.trans l3⟩
  · exact (cprStart_begun _).of (d3.trans (by rw [← hb]; rfl)) (c3.trans (by rw [← hb]; rfl))
  · exact ((dprStart_begun _).of (by rw [← hb]; rfl) (by rw [← hb]; rfl) (by rw [domOf, domOf, ← hr]; rfl)).after
      a4 c4 C4 r4

/-- A request that is made resets the planes of its target, from a state like s but for the ask. -/
theorem asked_planeReset {s : State} {w : Session} (h : s.mayAsk w) (hw : isService s.node w = true) {v : Nat}
    (hv : v = 1 ∨ v = 2 ∨ v = 3) : ∃ z : State, z.boot = s.boot ∧ z.cleatB = s.cleatB ∧ z.reef = s.reef ∧
      resetByObject w v s = .next (planeReset z v srcObject) := by
  have hz := told_told s w 0x2702 0 (.data [])
  refine ⟨s.told w 0x2702 0 (.data []), (congrArg (fun u : State => u.boot) hz :), (congrArg (fun u : State => u.cleatB) hz :),
    (congrArg (fun u : State => u.reef) hz :), ?_⟩
  rw [resetByObject, openAccess_of_mayAsk h, if_pos ((isService_asked ..).trans hw), resetWrite, if_pos hv]
  rfl

theorem taken_planeReset {s : State} {v : Nat}
    (h : (takeMsgIf s fun m => m.kind == 0x06 && (byteAt m.payload 0).toNat == v).isSome = true) :
    ∃ (z : State) (g : W16), z.boot = s.boot ∧ z.cleatB = s.cleatB ∧ z.reef = s.reef ∧
      resetByMessage v s = .next (if v = 2 then { planeReset z v srcMessage with
        boot.dprTags := (planeReset z v srcMessage).boot.dprTags ++ [g] } else planeReset z v srcMessage) := by
  obtain ⟨⟨m, z⟩, hm⟩ := Option.isSome_iff_exists.1 h
  have hz := takeMsgIf_taken hm
  refine ⟨z, m.tag, (congrArg (fun u : State => u.boot) hz :), (congrArg (fun u : State => u.cleatB) hz :),
    (congrArg (fun u : State => u.reef) hz :), ?_⟩
  rw [resetByMessage, hm]

/-! ## How plane resets end (O5) -/

theorem raiseEmcy_node_only (s : State) (code : Nat) (unit : Byte) (d : Bytes) :
    ∃ n : Node, raiseEmcy s code unit d = { s with node := n } := by
  unfold raiseEmcy emcyQueue
  split <;> exact ⟨_, rfl⟩

theorem mastCheck_node_only (s : State) : ∃ n : Node, mastCheck s = { s with node := n } := by
  unfold mastCheck
  dsimp only
  split
  · exact raiseEmcy_node_only ..
  · split
    · exact raiseEmcy_node_only ..
    · split
      · exact raiseEmcy_node_only ..
      · exact ⟨_, rfl⟩

theorem chooseImage_node (s : State) (n : Node) (mast : Bool) : chooseImage { s with node := n } mast = chooseImage s mast := rfl

/-- No acceptable image leaves the control plane in reset. -/
theorem mastBoot_of_none {s : State} (h : s.otp.noValid = true ∨ chooseImage s true = none) :
    (mastBoot s).boot.control = .reset ∧ (mastBoot s).boot.mastSlot = none ∧ (mastBoot s).boot.cprActive = s.boot.cprActive := by
  unfold mastBoot
  split
  · exact ⟨rfl, rfl, rfl⟩
  · obtain ⟨n, hn⟩ := mastCheck_node_only s
    have hc : chooseImage { s with node := n } true = none := h.resolve_left (by assumption)
    have hh : mastHold { s with node := n } = { s with
        node := n, boot.mastSlot := none, boot.mastHeld := false, boot.control := .reset } := by
      rw [mastHold, hc]
    rw [hn, hh, releaseControl, if_neg (by simp)]
    exact ⟨rfl, rfl, rfl⟩

theorem notice_restart (s : State) (kind : Nat) (vs : List Nat) : (notice s kind vs).cleatA.restart = s.cleatA.restart :=
  (congrArg (fun u : State => u.cleatA.restart) (notice_notes s kind vs) :)

/-- The image chosen runs from its ENTRY, with the RESTART flag. -/
theorem mastBoot_of_some {s : State} {k : Fin 2} (hv : s.otp.noValid = false) (h : chooseImage s true = some k) :
    (mastBoot s).boot.control = .run ∧ (mastBoot s).boot.mastSlot = some k ∧ (mastBoot s).boot.cprActive = s.boot.cprActive ∧
      (mastBoot s).cleatA.restart = true ∧
      ((mastBoot s).mast.harts.get 0).pc = BitVec.ofNat 64 (s.rdLE (flashBase + imageOff true k + 0x10) 4) := by
  obtain ⟨n, hn⟩ := mastCheck_node_only s
  have hc : chooseImage { s with node := n } true = some k := h
  unfold mastBoot
  rw [if_neg (by simp [hv]), hn, mastHold, hc]
  dsimp only
  rw [releaseControl, if_pos rfl, restartNotice]
  refine ⟨?_, ?_, ?_, ?_, ?_⟩
  · rw [notice_boot]
  · rw [notice_boot]; rfl
  · rw [notice_boot]; rfl
  · rw [notice_restart]
  · rw [notice_mast]
    exact congrArg Hart.pc (vmod_get_same ..)

theorem dprFinish_spec (s : State) :
    let t := dprFinish s
    t.boot.dprActive = false ∧ t.cleatC.lines = 0 ∧ t.cleatC.fenced = 0 ∧ t.health.coreMask = 0 ∧
      t.health.unitMask = 0 ∧ t.spar = Vector.replicate 16 SparCore.reset ∧ t.ee = Ee.reset ∧
      t.trim = Trim.reset ∧ t.csc = Csc.reset := by
  have hfold : ∀ (l : List W16) (u : State), (l.foldl (fun t g => resetRsp t g 0) u).sansNotes = u.sansNotes := fun l u =>
    foldl_view (V := State.sansNotes) (fun _ _ => m2cSend_notes ..) l u
  have h : ∀ (l : List W16) (u : State), (notice (l.foldl (fun t g => resetRsp t g 0)
      (clearAllOf (clearAllOf u 0xFF21) 0xFF23)) noticeFence [0]).sansNotes = u.sansNotes := fun l u =>
    (notice_notes ..).trans ((hfold ..).trans ((clearAllOf_notes ..).trans (clearAllOf_notes ..)))
  intro t
  have ht := h s.boot.dprTags { s with
    boot.dprActive := false, boot.dprTags := [],
    cleatC.lines := 0, cleatC.fenced := 0, cleatC.codes := [],
    health.coreMask := 0, health.unitMask := 0,
    spar := Vector.replicate 16 SparCore.reset, ee := Ee.reset, trim := Trim.reset, csc := Csc.reset }
  exact ⟨(congrArg (fun u : State => u.boot.dprActive) ht :), (congrArg (fun u : State => u.cleatC.lines) ht :),
    (congrArg (fun u : State => u.cleatC.fenced) ht :), (congrArg (fun u : State => u.health.coreMask) ht :),
    (congrArg (fun u : State => u.health.unitMask) ht :), (congrArg (fun u : State => u.spar) ht :),
    (congrArg (fun u : State => u.ee) ht :), (congrArg (fun u : State => u.trim) ht :), (congrArg (fun u : State => u.csc) ht :)⟩

/-- Settles O5: every request comes down to `planeReset`, and every end to `mastBoot` or `dprFinish`. -/
theorem planeResets : Obligations.PlaneResets := by
  refine ⟨fun s by_ => ?_, fun s => ⟨fun hm ha hd => ?_, fun hm hd => ?_, fun m u hm => ?_⟩⟩
  · cases by_ with
    | object w =>
      dsimp only
      refine ⟨fun ⟨h, hw⟩ => ?_, fun ⟨h, hw⟩ => ?_, fun ⟨h, hw⟩ => ?_⟩
      · obtain ⟨z, hb, hB, hr, he⟩ := asked_planeReset h hw (.inl rfl)
        exact Gives.intro he (planeReset_spec hb hB hr srcObject).1
      · obtain ⟨z, hb, hB, hr, he⟩ := asked_planeReset h hw (.inr (.inl rfl))
        exact Gives.intro he (planeReset_spec hb hB hr srcObject).2.1
      · obtain ⟨z, hb, hB, hr, he⟩ := asked_planeReset h hw (.inr (.inr rfl))
        exact Gives.intro he (planeReset_spec hb hB hr srcObject).2.2
    | mailbox =>
      dsimp only
      refine ⟨fun h => ?_, fun h => ?_, fun h => ?_⟩
      · obtain ⟨z, g, hb, hB, hr, he⟩ := taken_planeReset h
        exact Gives.intro he (planeReset_spec hb hB hr srcMessage).1
      · obtain ⟨z, g, hb, hB, hr, he⟩ := taken_planeReset h
        exact Gives.intro he (planeReset_spec hb hB hr srcMessage).2.1
      · obtain ⟨z, g, hb, hB, hr, he⟩ := taken_planeReset h
        exact Gives.intro he (planeReset_spec hb hB hr srcMessage).2.2
  · refine Gives.intro (t := mastBoot { s with boot.cprActive := false }) (if_pos (by simp [hm, ha, hd])) ?_
    have hc : chooseImage { s with boot.cprActive := false } true = chooseImage s true := rfl
    refine ⟨?_, fun k hv hk => ?_, fun h => ?_⟩
    · cases hk : chooseImage s true with
      | none => exact (mastBoot_of_none (s := { s with boot.cprActive := false }) (.inr hk)).2.2
      | some k =>
        cases hv : s.otp.noValid with
        | true => exact (mastBoot_of_none (s := { s with boot.cprActive := false }) (.inl hv)).2.2
        | false => exact (mastBoot_of_some (s := { s with boot.cprActive := false }) hv hk).2.2.1
    · obtain ⟨h1, h2, -, h3, h4⟩ := mastBoot_of_some (s := { s with boot.cprActive := false }) hv hk
      exact ⟨h1, h2, h3, h4⟩
    · obtain ⟨h1, h2, -⟩ := mastBoot_of_none (s := { s with boot.cprActive := false }) h
      exact ⟨h1, h2⟩
  · exact Gives.intro (if_pos (by simp [hm, hd])) (dprFinish_spec s)
  · rw [exec, execResetReq, hm]
    rfl

end Sys2Proof.Machine

end

section

namespace Sys2Proof.Machine

/-! ## Commands of an object that change something beside the answer -/

/-- A change that neither what answers an access reads nor what it writes. -/
structure Aside (g : State → State) : Prop where
  chans : ∀ s c, g { s with node.chans := c } = { g s with node.chans := c }
  sent : ∀ s o, g (emit s o) = emit (g s) o
  lane : ∀ s r, g { s with cleatA.hostRsp := s.cleatA.hostRsp ++ [r] } =
    { g s with cleatA.hostRsp := (g s).cleatA.hostRsp ++ [r] }
  keeps : ∀ s, (g s).node = s.node ∧ (g s).cleatA = s.cleatA

theorem Aside.answerOut_comm {g : State → State} (h : Aside g) (s : State) (w : Session) (i k : Nat) (a : Answer) :
    answerOut (g s) w i k a = g (answerOut s w i k a) := by
  obtain ⟨hn, hc⟩ := h.keeps s
  cases w with
  | host =>
    by_cases hl : s.cleatA.hostRsp.length < 8
    · exact (if_pos (by rw [hc]; exact hl)).trans ((h.lane ..).symm.trans (congrArg g (if_pos hl).symm))
    · exact (if_neg (by rw [hc]; exact hl)).trans (congrArg g (if_neg hl).symm)
  | can p c =>
    have hs : sessServed (g s) (.can p c) = sessServed s (.can p c) := by rw [sessServed, sessServed, hn]
    by_cases hl : sessServed s (.can p c) = true
    · exact (if_pos (hs.trans hl)).trans ((h.sent ..).symm.trans (congrArg g (if_pos hl).symm))
    · exact (if_neg (by rw [hs]; exact hl)).trans (congrArg g (if_neg hl).symm)

theorem Aside.answerSess_comm {g : State → State} (h : Aside g) (s : State) (w : Session) (i k : Nat) (a : Answer) :
    answerSess (g s) w i k a = g (answerSess s w i k a) := by
  obtain ⟨hn, -⟩ := h.keeps s
  cases w with
  | host => exact h.answerOut_comm s .host i k a
  | can p c =>
    have hout : ∀ y b, answerOut { g s with node.chans := vput (g s).node.chans p y } (.can p c) i k b =
        g (answerOut { s with node.chans := vput s.node.chans p y } (.can p c) i k b) := fun y b => by
      have hg : g { s with node.chans := vput s.node.chans p y } = { g s with node.chans := vput (g s).node.chans p y } := by
        rw [h.chans, ← hn]
      rw [← hg, h.answerOut_comm]
    have hget : (g s).node.chans.get p = s.node.chans.get p := by rw [hn]
    cases hx : s.node.chans.get p with
    | none =>
      simp only [answerSess]
      rw [hget, hx]
    | some x =>
      simp only [answerSess]
      rw [hget, hx]
      dsimp only
      cases x.of c with
      | false => rfl
      | true =>
        cases a with
        | abort n => exact hout ..
        | data d =>
          by_cases hd : x.seg = true ∧ x.down = none
          · simp only [hd, and_self, if_true]
            exact hout ..
          · simp only [hd, if_false]
            exact hout ..

/-- An object's command of a service session that is done: the answer, and the change beside it. -/
theorem objCmd_done {s : State} {w : Session} {i k c : Nat} {f : State → Nat × State} {g : State → State} (h : s.mayAsk w)
    (hw : isService s.node w = true) (hf : f (s.asked w i k) = (c, g (s.asked w i k))) (hg : Aside g) :
    objCmd s w i k f = .next (g (s.told w i k (codeAnswer c))) := by
  rw [objCmd_service h hw, hf]
  exact congrArg Host.Outcome.next (hg.answerSess_comm ..)

/-- An object's command of a service session that is refused. -/
theorem objCmd_refused {s : State} {w : Session} {i k c : Nat} {f : State → Nat × State} (h : s.mayAsk w)
    (hw : isService s.node w = true) (hf : f (s.asked w i k) = (c, s.asked w i k)) :
    objCmd s w i k f = .next (s.told w i k (codeAnswer c)) := by
  rw [objCmd_service h hw, hf]
  rfl

theorem Aside.boot (f : Boot → Boot) : Aside fun s => { s with boot := f s.boot } :=
  ⟨fun _ _ => rfl, fun _ _ => rfl, fun _ _ => rfl, fun _ => ⟨rfl, rfl⟩⟩

theorem Aside.act (f : Act → Act) : Aside fun s => { s with act := f s.act } :=
  ⟨fun _ _ => rfl, fun _ _ => rfl, fun _ _ => rfl, fun _ => ⟨rfl, rfl⟩⟩

end Sys2Proof.Machine

end

section

namespace Sys2Proof.Machine

/-! ## The OTP objects (O13) -/

/-- A client of service rank. -/
def serviceClient : Session := .can 0 5

/-- A node that serves that client, on a device whose live ACT bank lists entry 8 twice, each time with one page. -/
def twiceListed : State := { State.reset with
  dev.phase := .running, node.nodeId := 17, node.nmt := .operational,
  node.sessions := [{ who := serviceClient, service := true, challenge := none }],
  act.bank0 := [(8, 0x100000000), (8, 0x100000000)] }

theorem twiceListed_asks : twiceListed.mayAsk serviceClient ∧ isService twiceListed.node serviceClient = true ∧
    otpRuns twiceListed.otp = false := by
  simp only [State.mayAsk]
  decide

/-- Whether the DAP window is open after a command. -/
def windowOpen : Host.Outcome State Fault Refusal → Bool
  | .next t => actPages (Tbl.read (fun _ => (0 : W128)) t.act.force 8) != 0
  | _ => false

theorem twiceListed_stays_open : windowOpen (exec (.mastDebugLock serviceClient 0x4C4B) twiceListed) = true := by decide

/-- Refutes O13: the statement does not ask for a canonical ACT bank, and closing the DAP window removes only the
first of the two entries with index 8 that `twiceListed` holds, so a window of one page stays. -/
theorem not_otpObjectWrites : ¬ Obligations.OtpObjectWrites := by
  intro h
  obtain ⟨hask, hsvc, hidle⟩ := twiceListed_asks
  obtain ⟨-, hnot⟩ := h serviceClient twiceListed hask hsvc
  obtain ⟨-, -, -, -, -, -, -, -, -, ⟨t, he, -, -, -, hclosed, -⟩, -⟩ := hnot hidle
  have hopen := twiceListed_stays_open
  rw [he] at hopen
  exact bne_iff_ne.1 hopen hclosed

end Sys2Proof.Machine

end

section

namespace Sys2Proof.Machine

/-! ## The end of OTP programming (O14) -/

/-- A failed generation: its status, its EMCY, and the cells as they are. -/
theorem otpFail_spec (s : State) (o : Otp) (g : Nat) :
    let t := otpFail { s with otp := o } g
    t.otp = { o with status := stFailed, busy := .idle } ∧ t.node = (raiseEmcy s 0xFF06 0xFF [BitVec.ofNat 8 g]).node := by
  intro t
  refine ⟨?_, ?_⟩
  · change (notice (raiseEmcy _ _ _ _) _ _).otp = _
    rw [notice_otp, raiseEmcy_otp]
  · change (notice (raiseEmcy _ _ _ _) _ _).node = _
    rw [notice_node]
    unfold raiseEmcy emcyQueue
    simp only [apply_ite State.node]
    rfl

/-- Settles O14: the three ends of a generation's programming and the two of the key's. -/
theorem otpProgrammingEnds : Obligations.OtpProgrammingEnds := by
  intro s hm
  refine ⟨fun g cells hb => ⟨?_, fun k hk => ?_⟩, fun cells hb => ⟨?_, ?_⟩⟩
  · have he : exec (.otpProgramEnd none) s = if slotValid (otpSetAll s.otp cells) g then
        .next (notice { s with otp := { otpSetAll s.otp cells with status := stDone, busy := .idle } } noticeOtp [stDone, g])
        else .next (otpFail { s with otp := otpSetAll s.otp cells } g) := by
      rw [exec, execOtpProgramEnd, hb]
      exact if_neg (by simp [hm])
    cases hv : slotValid (otpSetAll s.otp cells) g with
    | true =>
      refine Gives.intro (he.trans (if_pos hv)) ?_
      rw [notice_otp, notice_node]
      exact ⟨rfl, rfl, fun _ => ⟨rfl, rfl⟩, fun h => Bool.noConfusion (hv.symm.trans h)⟩
    | false =>
      obtain ⟨ho, hn⟩ := otpFail_spec s (otpSetAll s.otp cells) g
      refine Gives.intro (he.trans (if_neg (by simp [hv]))) ?_
      rw [ho, hn]
      exact ⟨rfl, rfl, fun h => Bool.noConfusion (hv.symm.trans h), fun _ => ⟨rfl, rfl⟩⟩
  · obtain ⟨ho, hn⟩ := otpFail_spec s (otpSetAll s.otp (cells.take k)) g
    refine Gives.intro (t := otpFail { s with otp := otpSetAll s.otp (cells.take k) } g) ?_ ?_
    · rw [exec, execOtpProgramEnd, hb]
      exact (if_neg (by simp [hm])).trans (if_pos hk)
    · rw [ho, hn]
      exact ⟨rfl, rfl, rfl, rfl⟩
  · rw [exec, execOtpKeyProgramEnd, hb]
    exact (if_neg (by simp [hm])).trans (if_pos rfl)
  · refine Gives.intro (t := afterDraw { s with otp := {
      otpSetAll s.otp (cells.take (1 + drawn s .unspecified % (cells.length - 1))) with status := stFailed, busy := .idle } }) ?_ ?_
    · rw [exec, execOtpKeyProgramEnd, hb]
      exact (if_neg (by simp [hm])).trans (if_neg (by simp))
    · exact ⟨rfl, rfl, _, rfl, rfl⟩

end Sys2Proof.Machine

end

section

namespace Sys2Proof.Machine

/-! ## Flash update (O15) -/

theorem asked_boot (s : State) (w : Session) (i k : Nat) : (s.asked w i k).boot = s.boot :=
  (congrArg (fun u : State => u.boot) (asked_ask s w i k) :)

theorem told_boot (s : State) (w : Session) (i k : Nat) (a : Answer) : (s.told w i k a).boot = s.boot :=
  (congrArg (fun u : State => u.boot) (told_told s w i k a) :)

theorem flashGuarded_congr {s t : State} (h : t.boot = s.boot) (a n : Nat) : flashGuarded t a n = flashGuarded s a n := by
  unfold flashGuarded
  rw [h]

/-- An unknown range of flash: memory outside it and the boot record are as before. -/
theorem flashUnknown_rest {s : State} (hm : s.memWf = true) (a n x : Nat) (hx : x < flashBase + a ∨ flashBase + a + n ≤ x) :
    memRead (flashUnknown s a n).mem x = memRead s.mem x :=
  memRead_memWriteN_out hm (by rw [List.length_map, List.length_range]; exact hx)

theorem memReadN_getElem (m : Tbl Byte) (a n i : Nat) (h : i < (memReadN m a n).length) :
    (memReadN m a n)[i] = memRead m (a + i) := by
  induction n generalizing a i with
  | zero => cases h
  | succ n ih =>
    cases i with
    | zero => rfl
    | succ i =>
      refine (ih (a + 1) i (Nat.lt_of_succ_lt_succ h)).trans ?_
      rw [Nat.add_assoc, Nat.add_comm 1]

theorem memDflt_flash {x : Nat} (h1 : flashBase ≤ x) (h2 : x < flashBase + 0x10000000) : memDflt x = 0xFF :=
  if_pos ⟨h1, h2⟩

theorem flashProgramWrite_of_room {s : State} {d : Bytes} (hb : s.boot.flashBusy = none) (h0 : 0 < d.length)
    (h1 : d.length ≤ 4096) (h2 : s.boot.flashOfs.toNat + d.length ≤ 0x10000000) : flashProgramWrite d s =
      if flashGuarded s s.boot.flashOfs.toNat d.length then (abState, { s with boot.flashStatus := flRefused })
      else (0, { s with boot.flashBusy := some (s.boot.flashOfs.toNat, some d), boot.flashStatus := flBusy,
                        boot.flashOfs := BitVec.ofNat 32 (s.boot.flashOfs.toNat + d.length) }) := by
  have hsize : flashSize = 0x10000000 := rfl
  have hne : ¬(d.isEmpty = true ∨ 4096 < d.length) := by
    rw [List.isEmpty_iff_length_eq_zero]
    omega
  rw [flashProgramWrite, if_neg (by simp [hb]), if_neg hne, if_neg (by omega)]

theorem flashEraseWrite_of_room {s : State} {v : Nat} (hb : s.boot.flashBusy = none) (hv : v < 0x1000) :
    flashEraseWrite v s =
      if flashGuarded s (v * 0x10000) 0x10000 then (abState, { s with boot.flashStatus := flRefused })
      else (0, { s with boot.flashBusy := some (v * 0x10000, none), boot.flashStatus := flBusy }) := by
  have hsize : flashSize = 0x10000000 := rfl
  rw [flashEraseWrite, if_neg (by simp [hb]), if_neg (by omega)]

/-- A range that no operation may touch: the status of its refusal stays, beside the answer. -/
theorem objCmd_guarded {s : State} {w : Session} {k a n : Nat} {f : State → Nat × State} {g : State → State} (h : s.mayAsk w)
    (hw : isService s.node w = true) (hg : Aside g) (hf : f (s.asked w 0x2220 k) =
      if flashGuarded (s.asked w 0x2220 k) a n then
        (abState, { s.asked w 0x2220 k with boot.flashStatus := flRefused })
      else (0, g (s.asked w 0x2220 k))) : objCmd s w 0x2220 k f = .next (
        if flashGuarded s a n then { s.told w 0x2220 k (.abort abState) with boot.flashStatus := flRefused }
        else g (s.told w 0x2220 k (.data []))) := by
  rw [flashGuarded_congr (asked_boot ..)] at hf
  cases hc : flashGuarded s a n with
  | true =>
    rw [hc] at hf
    exact objCmd_done h hw hf (.boot fun b => { b with flashStatus := flRefused })
  | false =>
    rw [hc] at hf
    exact objCmd_done h hw hf hg

theorem execFlashUpdateDone_failed {s : State} {a : Nat} {d : Option Bytes} (hm : mgcUp s = true)
    (hb : s.boot.flashBusy = some (a, d)) : ∃ n : Nat, n = (match d with | some b => b.length | none => 0x10000) ∧
      execFlashUpdateDone false s =
        .next { flashUnknown s a n with boot.flashBusy := none, boot.flashStatus := flVerify } := by
  refine ⟨_, rfl, ?_⟩
  simp only [execFlashUpdateDone, hb, hm, Bool.not_true, Bool.not_false, Bool.false_eq_true, if_false, if_true]
  cases d <;> rfl

/-- Settles O15: the three writes, and the three ends of an operation. -/
theorem flashUpdates : Obligations.FlashUpdates := by
  intro w s hm hw
  refine ⟨fun h hsvc => ⟨fun hb => ?_, fun hb => ⟨fun v => ?_, fun d h0 h1 h2 => ?_, fun v hv => ?_⟩⟩,
    fun a d hb => ?_, fun a ha hb => ?_, fun a d hb => ?_⟩
  · have hbusy : ∀ k, (s.asked w 0x2220 k).boot.flashBusy.isSome = true := fun k => by
      rw [asked_boot]; exact Option.isSome_iff_ne_none.2 hb
    refine ⟨fun v => ?_, fun d => ?_, fun v => ?_⟩
    · exact objCmd_refused (f := flashOffsetWrite v.toNat) (c := abState) h hsvc (if_pos (hbusy 1))
    · exact objCmd_refused (f := flashProgramWrite d) (c := abState) h hsvc (if_pos (hbusy 2))
    · exact objCmd_refused (f := flashEraseWrite v.toNat) (c := abState) h hsvc (if_pos (hbusy 3))
  · have hf : flashOffsetWrite v.toNat (s.asked w 0x2220 1) =
        (0, { s.asked w 0x2220 1 with boot.flashOfs := BitVec.ofNat 32 v.toNat }) :=
      if_neg (by simp [asked_boot, hb])
    have hv : BitVec.ofNat 32 v.toNat = v := by simp
    rw [hv] at hf
    exact objCmd_done (f := flashOffsetWrite v.toNat) (c := 0) (g := fun t => { t with boot.flashOfs := v }) h hsvc hf
      (.boot fun b => { b with flashOfs := v })
  · have hb2 := asked_boot s w 0x2220 2
    have hf := flashProgramWrite_of_room (s := s.asked w 0x2220 2) (by rw [hb2, hb]) h0 h1 (by rw [hb2]; exact h2)
    rw [congrArg Boot.flashOfs hb2] at hf
    generalize s.boot.flashOfs.toNat = a at hf ⊢
    exact objCmd_guarded (f := flashProgramWrite d) (a := a) (n := d.length) (g := fun t => { t with
      boot.flashBusy := some (a, some d), boot.flashStatus := flBusy,
      boot.flashOfs := BitVec.ofNat 32 (a + d.length) }) h hsvc (.boot fun b => { b with
      flashBusy := some (a, some d), flashStatus := flBusy, flashOfs := BitVec.ofNat 32 (a + d.length) }) hf
  · have hb3 := asked_boot s w 0x2220 3
    exact objCmd_guarded (f := flashEraseWrite v.toNat) h hsvc (.boot fun b => { b with
      flashBusy := some (v.toNat * 0x10000, none), flashStatus := flBusy })
      (flashEraseWrite_of_room (by rw [hb3, hb]) hv)
  · refine Gives.intro (t := { s.wr (flashBase + a) (List.zipWith (· &&& ·) (s.rd (flashBase + a) d.length) d) with
      boot.flashBusy := none, boot.flashStatus := flDone }) ?_ ⟨rfl, rfl, fun i hi => ?_, fun x hx => ?_⟩
    · simp only [exec, execFlashUpdateDone, hb, hm]
      rfl
    · have hlen : i < (List.zipWith (· &&& ·) (s.rd (flashBase + a) d.length) d).length := by simpa [State.rd] using hi
      refine (memRead_memWriteN_in hw hlen).trans ?_
      rw [List.getElem_zipWith]
      congr 1
      · exact memReadN_getElem ..
      · exact (List.getD_eq_getElem d 0 hi).symm
    · exact memRead_memWriteN_out hw (by simpa [State.rd] using hx)
  · refine Gives.intro (t := { s with
      mem := memClear s.mem (flashBase + a) (flashBase + a + 0x10000), boot.flashBusy := none, boot.flashStatus := flDone }) ?_ ⟨rfl, rfl, fun i hi => ?_, fun x hx => ?_⟩
    · simp only [exec, execFlashUpdateDone, hb, hm]
      rfl
    · rw [memRead_memClear _ _ _ hw, if_pos (by omega)]
      exact memDflt_flash (by omega) (by omega)
    · rw [memRead_memClear _ _ _ hw, if_neg (by omega)]
  · obtain ⟨n, hn, he⟩ := execFlashUpdateDone_failed hm hb
    exact Gives.intro he ⟨rfl, rfl, fun x hx => flashUnknown_rest hw a n x (by subst hn; cases d <;> exact hx)⟩

end Sys2Proof.Machine

end

section

namespace Sys2Proof.Machine

/-! ## ACT changes (O16) -/

/-- The entry that a write of the DAP window makes of the bytes written. -/
def windowEntry (e : W128) : W128 := (e &&& ~~~(0xFFFFFFFF#128 <<< 64) &&& ~~~(0x1C#128 <<< 96)) ||| (1#128 <<< 94)

theorem windowEntry_bit (e : W128) {i : Nat} (hi : i < 128) : (windowEntry e).getLsbD i =
    ((e.getLsbD i && !(decide (64 ≤ i) && (0xFFFFFFFF#128).getLsbD (i - 64)) &&
      !(decide (96 ≤ i) && (0x1C#128).getLsbD (i - 96))) || (decide (94 ≤ i) && (1#128).getLsbD (i - 94))) := by
  simp only [windowEntry, BitVec.getLsbD_or, BitVec.getLsbD_and, BitVec.getLsbD_not, BitVec.getLsbD_shiftLeft, hi,
    decide_true, Bool.true_and, ← not_lt, decide_not]

theorem windowEntry_mask (e : W128) {i : Nat} (hi : i < 32) : actMask (windowEntry e) i = decide (i = 30) := by
  have h64 : (0xFFFFFFFF#128).getLsbD (64 + i - 64) = true := by
    rw [Nat.add_sub_cancel_left, BitVec.getLsbD_ofNat, show (0xFFFFFFFF : Nat) = 2 ^ 32 - 1 from rfl,
      Nat.testBit_two_pow_sub_one]
    simp only [hi, decide_true, Bool.and_true, decide_eq_true_eq]
    omega
  have h94 : (1#128).getLsbD (64 + i - 94) = decide (64 + i - 94 = 0) := by
    simp [BitVec.getLsbD_one]
  rw [actMask, windowEntry_bit e (by omega), h64, h94, decide_eq_true (show 64 ≤ 64 + i by omega)]
  simp only [Bool.and_self, Bool.not_true, Bool.and_false, Bool.false_and, Bool.false_or, ← Bool.decide_and]
  exact decide_eq_decide.2 (by omega)

theorem windowEntry_low (e : W128) {i : Nat} (hi : i < 64) : (windowEntry e).getLsbD i = e.getLsbD i := by
  rw [windowEntry_bit e (by omega), decide_eq_false (by omega), decide_eq_false (by omega), decide_eq_false (by omega)]
  simp

theorem bits_congr {a b : Nat} {lo n : Nat} (h : ∀ i, i < lo + n → a.testBit i = b.testBit i) : bits a lo n = bits b lo n := by
  refine Nat.eq_of_testBit_eq fun i => ?_
  simp only [bits, Nat.testBit_mod_two_pow, Nat.testBit_shiftRight]
  by_cases hi : i < n
  · rw [h (lo + i) (by omega)]
  · simp [hi]

theorem windowEntry_field (e : W128) (lo n : Nat) (h : lo + n ≤ 64) :
    bits (windowEntry e).toNat lo n = bits e.toNat lo n :=
  bits_congr fun _ hi => windowEntry_low e (by omega)

/-- An ACT_REQ whose operation is listed, in hand when none is. -/
theorem execActReq_of_taken {s u : State} {m : Msg} (hr : s.act.rsp = none) (h : takeMsg s 0x04 = some (m, u)) :
    execActReq s = .next (actRequest u m) := by
  rw [execActReq, if_neg (by simp [hr]), h]

theorem actRequest_refused {u : State} {m : Msg} {k r : Nat} (h1 : (byteAt m.payload 0).toNat ≤ 3)
    (h2 : (byteAt m.payload 1).toNat ≤ 37) (h3 : fieldLE m.payload 2 6 = 0)
    (h : firstRefused u m.payload (actRecords m.payload) 0 = some (k, r)) :
    actRequest u m = { u with act.rsp := some (m.tag, actRspBytes 1 0 k r) } := by
  unfold actRequest
  simp only []
  rw [if_neg (by omega), h]

theorem dapWindowWrite_of_fits {t : State} {d : Bytes} (hl : mastLocked t.otp = false) (hd : d.length = 16)
    (hin : inLocalMap (BitVec.ofNat 128 (leNat d)) = true) : dapWindowWrite d t =
      (0, { t with act := actWriteLive t.act 8 (windowEntry (BitVec.ofNat 128 (leNat d))) }) :=
  (if_neg (by simp [hl])).trans ((if_neg (by simp [hd])).trans (if_neg (by simp [hin])))

theorem windowEntry_ne_zero (e : W128) : windowEntry e ≠ 0 := fun h => by
  have hb := windowEntry_mask e (i := 30) (by decide)
  rw [h] at hb
  exact absurd hb (by decide)

theorem actWriteLive_windowEntry (a : Act) (e : W128) :
    (actWriteLive a 8 (windowEntry e)).bank = a.bank ∧ (actWriteLive a 8 (windowEntry e)).force = a.force ∧
    (actWriteLive a 8 (windowEntry e)).pend = true ∧
    Tbl.read (fun _ => (0 : W128)) (actLive (actWriteLive a 8 (windowEntry e))) 8 = windowEntry e := by
  have hr : ∀ t : Tbl W128, Tbl.read (fun _ => (0 : W128)) (Tbl.write (fun _ => 0) t 8 (windowEntry e)) 8 = windowEntry e :=
    fun t => by rw [Tbl.write, if_neg (windowEntry_ne_zero e), Tbl.read_insert_any, if_pos rfl]
  obtain ⟨b0, b1, bank, pend, force, rsp, log, denials, emcyAt⟩ := a
  cases bank
  · exact ⟨rfl, rfl, rfl, hr _⟩
  · exact ⟨rfl, rfl, rfl, hr _⟩

/-- Settles O16, by the bits of the entry that the MGC makes of a write of the DAP window. -/
theorem actChanges : Obligations.ActChanges := by
  intro s
  refine ⟨fun m u hr hm h1 h2 h3 => ⟨fun k r h => ?_, fun h => ?_⟩, fun hp hc => ?_, fun g b hr hu hp => ?_,
    fun g b hr hp => ?_, fun hr => ?_, fun w d hask hsvc hd => ⟨fun hl => ?_, fun hl hin => ?_⟩⟩
  · exact (execActReq_of_taken hr hm).trans (congrArg Host.Outcome.next (actRequest_refused h1 h2 h3 h))
  · refine (execActReq_of_taken hr hm).trans (congrArg Host.Outcome.next ?_)
    unfold actRequest
    simp only []
    rw [if_neg (by omega), h]
    generalize (byteAt m.payload 0).toNat = op at h1
    match op, h1 with
    | 0, _ => rfl
    | 1, _ => rfl
    | 2, _ => rfl
    | 3, _ => rfl
  · exact if_pos (by simp [hp, hc])
  · rw [exec, execActRsp, hr]
    exact if_pos (by simp [hu, hp])
  · rw [exec, execActRsp, hr]
    exact if_neg (by simp [hp])
  · exact if_pos (Option.isSome_iff_ne_none.2 hr)
  · have ho : (s.asked w 0x2214 0).otp = s.otp := (congrArg (fun u : State => u.otp) (asked_ask s w 0x2214 0) :)
    exact objCmd_refused (f := dapWindowWrite d) (c := abState) hask hsvc (if_pos (by rw [ho, hl]))
  · have ho : (s.asked w 0x2214 0).otp = s.otp := (congrArg (fun u : State => u.otp) (asked_ask s w 0x2214 0) :)
    have hf := dapWindowWrite_of_fits (t := s.asked w 0x2214 0) (ho ▸ hl) hd hin
    refine Gives.intro (objCmd_done (f := dapWindowWrite d) (c := 0) hask hsvc hf
      (.act fun a => actWriteLive a 8 (windowEntry (BitVec.ofNat 128 (leNat d))))) ?_
    have ha : (s.told w 0x2214 0 (codeAnswer 0)).act = s.act :=
      (congrArg (fun u : State => u.act) (told_told s w 0x2214 0 (codeAnswer 0)) :)
    generalize s.told w 0x2214 0 (codeAnswer 0) = u at ha ⊢
    generalize BitVec.ofNat 128 (leNat d) = e
    obtain ⟨hbank, hforce, hpend, hread⟩ := actWriteLive_windowEntry s.act e
    dsimp only
    rw [ha, hread, hbank, hforce, hpend]
    refine ⟨rfl, rfl, rfl, fun i => windowEntry_mask e, ?_, ?_, ?_, ?_, ?_⟩
    · rw [actBase, actBase, windowEntry_field e 0 29 (by omega)]
    · rw [actPages, actPages, windowEntry_field e 32 29 (by omega)]
    all_goals
      rw [windowEntry_bit e (by omega)]
      simp

end Sys2Proof.Machine

end

section

namespace Sys2Proof.Machine

/-! ## Quadrature sources (O18) -/

theorem quadSource_eq (src : CanPort) : (⟨src.val, Nat.lt_of_lt_of_le src.isLt (by decide)⟩ : SrcId) = Fin.ofNat 4 src.val :=
  Fin.ext (Nat.mod_eq_of_lt (Nat.lt_of_lt_of_le src.isLt (by decide))).symm

/-- A movement gives the source its new record; the other sources stay. -/
theorem move_srcs (p : Pht) (n : SrcId) (x : PhtSrc) : (p.move n x).srcs = vput p.srcs n x := rfl

theorem sourcesRecovered_notes (s : State) : (sourcesRecovered s).sansNotes = s.sansNotes := by
  unfold sourcesRecovered
  split
  · exact (clearAllOf_notes ..).trans ((clearAllOf_notes ..).trans (clearAllOf_notes ..))
  · rfl

theorem sourcesRecovered_pht (s : State) : (sourcesRecovered s).pht = s.pht :=
  (congrArg (fun u : State => u.pht) (sourcesRecovered_notes s) :)

/-- What an event does to a STALLED source is its state and the count toward recovery. -/
theorem afterEvent_eq (x : PhtSrc) (same : Bool) :
    afterEvent x same = { x with state := (afterEvent x same).state, sinceStall := (afterEvent x same).sinceStall } := by
  unfold afterEvent
  dsimp only
  split_ifs <;> rfl

theorem ofInt_neg_ofNat (w n : Nat) (x : BitVec w) : x + BitVec.ofInt w (-(n : Int)) = x - BitVec.ofNat w n := by
  rw [BitVec.ofInt_neg, BitVec.ofInt_natCast, BitVec.sub_eq_add_neg]

theorem edgeStep_lastAng (x : PhtSrc) (fwd a b : Bool) (now : Nat) : (edgeStep x fwd a b now).lastAng =
    (if fwd then x.lastAng + BitVec.ofNat 56 (incE x.lines) else x.lastAng - BitVec.ofNat 56 (incE x.lines)) := by
  rw [edgeStep, afterEvent_eq]
  cases fwd
  · exact ofInt_neg_ofNat ..
  · exact congrArg (x.lastAng + ·) (BitVec.ofInt_natCast ..)

theorem edgeStep_rest (x : PhtSrc) (fwd a b : Bool) (now : Nat) :
    (edgeStep x fwd a b now).ang = (edgeStep x fwd a b now).lastAng ∧
    (edgeStep x fwd a b now).pub = (edgeStep x fwd a b now).lastAng.extractLsb' 16 40 ∧
    (edgeStep x fwd a b now).lvlA = a ∧ (edgeStep x fwd a b now).lvlB = b ∧ (edgeStep x fwd a b now).qerr = x.qerr := by
  rw [edgeStep, afterEvent_eq]
  exact ⟨rfl, rfl, rfl, rfl, rfl⟩

/-- The nearest phase with an angle has that angle, at most half a revolution away. -/
theorem snapTo_spec (cur : BitVec 40) (angle : Nat) : (snapTo cur angle).extractLsb' 0 24 = BitVec.ofNat 24 angle ∧
    Int.natAbs (snapTo cur angle - cur).toInt ≤ 2 ^ 23 := by
  rw [snapTo]
  generalize BitVec.ofNat 24 angle = a
  refine ⟨?_, ?_⟩
  · rw [← BitVec.setWidth_eq_extractLsb' (by decide), BitVec.setWidth_add _ _ (by decide), ← BitVec.setWidth_eq_extractLsb' (by decide)]
    generalize cur.setWidth 24 = c
    have hw : (BitVec.ofInt 40 (a - c).toInt).setWidth 24 = a - c := by
      refine BitVec.eq_of_toNat_eq ?_
      rw [BitVec.toNat_setWidth, BitVec.toNat_ofInt, BitVec.toInt_eq_toNat_cond]
      have := (a - c).isLt
      split <;> omega
    rw [hw, BitVec.add_comm, BitVec.sub_add_cancel]
  · rw [BitVec.add_comm, BitVec.add_sub_cancel]
    generalize a - cur.extractLsb' 0 24 = d
    have h1 := d.toInt_lt
    have h2 := d.le_toInt
    rw [BitVec.toInt_ofInt, Int.bmod_eq_of_le (by omega) (by omega)]
    omega

theorem logSlip_pht (s : State) (n : SrcId) (missing : Bool) (corr edges : Int) :
    (logSlip s n missing corr edges).pht = { s.pht with
      slips := ({ src := n, missing := missing, correction := corr, edges := edges, nt := ntNow s.pht } :: s.pht.slips).take 16,
      slipCount := s.pht.slipCount + 1, srcs := vmod s.pht.srcs n fun x => { x with slip := true } } :=
  raiseEmcy_pht ..

theorem logSlip_history (s : State) (src : CanPort) (missing : Bool) (corr edges : Int) :
    (logSlip s (Fin.ofNat 4 src.val) missing corr edges).node.history =
      (BitVec.ofNat 32 (0x80FF12 + 2 ^ 24 * src.val) :: s.node.history).take 16 := by
  refine (raiseEmcy_history ..).trans ?_
  unfold emcyHistory
  fin_cases src <;> rfl

theorem logSlip_slipCount (s : State) (n : SrcId) (missing : Bool) (corr edges : Int) :
    (logSlip s n missing corr edges).pht.slipCount = s.pht.slipCount + 1 :=
  congrArg Pht.slipCount (logSlip_pht ..)

/-- A slip's source has SLIP set; nothing else of the sources changes. -/
theorem logSlip_srcs (s : State) (n m : SrcId) (missing : Bool) (corr edges : Int) :
    (logSlip s n missing corr edges).pht.srcs.get m =
      if m = n then { s.pht.srcs.get n with slip := true } else s.pht.srcs.get m := by
  rw [logSlip_pht]
  exact vmod_get ..

section
variable {s : State} {src : CanPort} {n : SrcId}

theorem execQuadEdge_legal (hn : n = Fin.ofNat 4 src.val) {a b : Bool} {samples : Nat} (hp : phtUp s = true)
    (hen : (s.pht.srcs.get n).en = true) (hf : (s.pht.srcs.get n).filt + 1 ≤ samples)
    (h : (a ≠ (s.pht.srcs.get n).lvlA ∧ b = (s.pht.srcs.get n).lvlB) ∨
      (a = (s.pht.srcs.get n).lvlA ∧ b ≠ (s.pht.srcs.get n).lvlB)) :
    execQuadEdge src a b samples s = .next (sourcesRecovered { s with
      pht := s.pht.move n (edgeStep (s.pht.srcs.get n) (quadForward (s.pht.srcs.get n) a) a b s.pht.cycles) }) := by
  unfold execQuadEdge
  simp only [quadSource_eq, ← hn]
  rw [if_neg (by simp [hp, hen, filtered, hf]), if_neg fun hab => h.elim (fun g => hab.2 g.2) fun g => hab.1 g.1,
    if_neg fun hab => h.elim (fun g => g.1 hab.1) fun g => g.2 hab.2]

/-- What an index pulse makes of its source's record. -/
def indexed (x : PhtSrc) (now : Nat) : PhtSrc :=
  { x with
    pub := snapTo x.pub x.idxAngle, ang := snapTo x.pub x.idxAngle ++ (0 : BitVec 16),
    lastAng := snapTo x.pub x.idxAngle ++ (0 : BitVec 16), stepAt := now, idxSeen := true, idxEdges := 0, oneWay := 0 }

theorem execIndexPulse_seen (hn : n = Fin.ofNat 4 src.val) {samples : Nat} (hp : phtUp s = true)
    (hen : (s.pht.srcs.get n).en = true) (hf : (s.pht.srcs.get n).filt + 1 ≤ samples)
    (hi : (s.pht.srcs.get n).idxEn = true) (slip : Prop) [Decidable slip] (hs : slip ↔ (s.pht.srcs.get n).idxSeen = true ∧
      (s.pht.srcs.get n).idxTol < Int.natAbs (((s.pht.srcs.get n).idxEdges.natAbs : Int) - 4 * (s.pht.srcs.get n).lines)) :
    execIndexPulse src samples s = .next (
      if slip then logSlip { s with pht := s.pht.move n (indexed (s.pht.srcs.get n) s.pht.cycles) } n false
        (snapTo (s.pht.srcs.get n).pub (s.pht.srcs.get n).idxAngle - (s.pht.srcs.get n).pub).toInt (s.pht.srcs.get n).idxEdges
      else { s with pht := s.pht.move n (indexed (s.pht.srcs.get n) s.pht.cycles) }) := by
  unfold execIndexPulse
  simp only [quadSource_eq, ← hn]
  rw [if_neg (by simp [hp, hen, hi, filtered, hf])]
  refine congrArg Host.Outcome.next ?_
  by_cases h : slip
  · exact (if_pos (by simpa using hs.1 h)).trans (if_pos h).symm
  · exact (if_neg (by simpa using fun h1 h2 => h (hs.2 ⟨h1, h2⟩))).trans (if_neg h).symm

theorem execIndexMissing_due (hn : n = Fin.ofNat 4 src.val) (hp : phtUp s = true) (hen : (s.pht.srcs.get n).en = true)
    (hi : (s.pht.srcs.get n).idxEn = true)
    (hw : 4 * (s.pht.srcs.get n).lines + (s.pht.srcs.get n).idxTol ≤ (s.pht.srcs.get n).oneWay) :
    execIndexMissing src s = .next (logSlip { s with pht.srcs := vput s.pht.srcs n { s.pht.srcs.get n with oneWay := 0 } }
      n true 0 (s.pht.srcs.get n).oneWay) := by
  unfold execIndexMissing
  simp only [quadSource_eq, ← hn]
  exact if_pos (by simp [hp, hen, hi, hw])

end

/-- Settles O18, by what an edge, an index and a slip do to the record of their source. -/
theorem quadratureEvents : Obligations.QuadratureEvents := by
  intro src samples s n x others hp hen
  have hn : n = Fin.ofNat 4 src.val := rfl
  refine ⟨fun a b hf hab => ?_, fun hf hi => ?_, fun hi hw => ?_⟩
  · refine Gives.intro (execQuadEdge_legal hn hp hen hf hab) ?_
    dsimp only
    rw [sourcesRecovered_pht]
    dsimp only
    rw [move_srcs, vput_get_same]
    obtain ⟨h1, h2, h3, h4, h5⟩ := edgeStep_rest x (quadForward x a) a b s.pht.cycles
    refine ⟨edgeStep_lastAng .., h1, h2, h3, h4, h5, fun m hm => ?_⟩
    rw [sourcesRecovered_pht]
    exact vput_get_other _ _ hm
  · obtain ⟨hlow, hnear⟩ := snapTo_spec x.pub x.idxAngle
    refine Gives.intro (execIndexPulse_seen hn hp hen hf hi _ Iff.rfl) ?_
    split
    · next hs =>
      simp only [logSlip_srcs, logSlip_slipCount, if_true, move_srcs, vput_get_same]
      refine ⟨hlow, hnear, rfl, rfl, fun m hm => ?_, fun _ => ⟨rfl, trivial, ?_⟩, fun hc => absurd hs hc⟩
      · exact (logSlip_srcs ..).trans ((if_neg hm).trans (vput_get_other _ _ hm))
      · exact logSlip_history ..
    · next hs =>
      simp only [move_srcs, vput_get_same]
      exact ⟨hlow, hnear, rfl, rfl, fun m hm => vput_get_other _ _ hm, fun hc => absurd hc hs, fun _ => ⟨rfl, rfl, trivial⟩⟩
  · refine Gives.intro (execIndexMissing_due hn hp hen hi hw) ?_
    simp only [logSlip_srcs, logSlip_slipCount, if_true, vput_get_same]
    refine ⟨trivial, trivial, rfl, trivial, ?_, fun m hm => ?_⟩
    · exact logSlip_history ..
    · exact (logSlip_srcs ..).trans ((if_neg hm).trans (vput_get_other _ _ hm))

end Sys2Proof.Machine

end

section

namespace Sys2Proof.Machine

/-! ## SSI words, mains frames and edges, loss of lock and stalls (O19) -/

theorem afterEvent_state (x : PhtSrc) (same : Bool) :
    (afterEvent x same).state = 0 ∨ (afterEvent x same).state = x.state := by
  unfold afterEvent
  split
  · dsimp only
    generalize (if same then x.sinceStall + 1 else 1) = k
    split
    · exact .inl rfl
    · exact .inr rfl
  · exact .inr rfl

/-- A source after an event keeps its phase and enters no state but OK. -/
theorem afterEvent_spec {x : PhtSrc} {ph : BitVec 40} (hp : x.pub = ph) (h : x.state ≠ 3) (changed same : Bool) :
    (if changed then afterEvent x same else x).pub = ph ∧ (if changed then afterEvent x same else x).state ≠ 3 := by
  cases changed with
  | false => exact ⟨hp, h⟩
  | true =>
    refine ⟨(congrArg PhtSrc.pub (afterEvent_eq x same)).trans hp, fun hc => ?_⟩
    exact (afterEvent_state x same).elim (fun h0 => absurd (h0.symm.trans hc) (by decide)) fun hx => h (hx.symm.trans hc)

theorem ssiValid_spec (p : Pht) (x : PhtSrc) (w : W32) (f : SsiFields) :
    (ssiValid p x w f).pub = ssiPhase p x f ∧ (ssiValid p x w f).state ≠ 3 := by
  unfold ssiValid
  refine afterEvent_spec rfl ?_ _ _
  dsimp only
  split
  · decide
  · assumption

theorem execSsiWord_seen {s : State} (w : W32) (hp : phtUp s = true) (hen : (s.pht.srcs.get 2).en = true) :
    ∃ run : Nat, (run ≥ 2 ↔ ssiFlat s.pht w = true ∧ 1 ≤ (s.pht.srcs.get 2).badRun) ∧
      execSsiWord w s = if (ssiDecode s.pht w).err = true ∨ run ≥ 2
        then .next (ssiError s { s.pht.srcs.get 2 with badRun := run })
        else .next (sourcesRecovered { s with
          pht := s.pht.move 2 (ssiValid s.pht { s.pht.srcs.get 2 with badRun := run } w (ssiDecode s.pht w)) }) := by
  refine ⟨if ssiFlat s.pht w then (s.pht.srcs.get 2).badRun + 1 else 0, ?_, ?_⟩
  · cases ssiFlat s.pht w <;> simp
  · unfold execSsiWord
    exact if_neg (by simp [hp, hen])

/-- What PS3 is once it has lost lock, when x was its record. -/
structure MainsLost (x : PhtSrc) (t : State) : Prop where
  state : (t.pht.srcs.get 3).state = 2
  pub : (t.pht.srcs.get 3).pub = x.pub
  freq : (t.pht.srcs.get 3).freq = x.freq
  stood : stands t 0xFF11 3 = true

/-- Loss of lock, with x PS3's record but for what counts frames and periods. -/
theorem mainsUnlock_lost {s : State} {x : PhtSrc} (hp : (s.pht.srcs.get 3).pub = x.pub)
    (hf : (s.pht.srcs.get 3).freq = x.freq) : MainsLost x (mainsUnlock s) := by
  unfold mainsUnlock
  constructor
  · rw [raiseStanding_pht, vput_get_same]
  · rw [raiseStanding_pht, vput_get_same, ← hp]
  · rw [raiseStanding_pht, vput_get_same, ← hf]
  · exact stands_raiseStanding _ (by decide) ..

theorem pllLoses_iff (p : Pht) (x : PhtSrc) (y : PllStep) (ok : Bool) : pllLoses p x y ok = true ↔
    (ok = false ∨ y.freq ≤ 439805 ∨ 769658 ≤ y.freq ∨
      ∃ since : Nat, overSince p x y.ratio = some since ∧ since + unlockCycles p ≤ p.cycles) := by
  unfold pllLoses
  simp only [Bool.or_eq_true, decide_eq_true_eq, Bool.not_eq_true', or_assoc]
  simp only [freqLo, freqHi]
  cases overSince p x y.ratio <;> simp

theorem execMainsFrame_seen {s : State} (a b c : Int) (hp : phtUp s = true) (hen : (s.pht.srcs.get 3).en = true)
    (hz : mainsZc s.pht = false) :
    let x := s.pht.srcs.get 3
    let y := pllStep s.pht x a b c
    let ok := mainsAmpOk s.pht a b c
    execMainsFrame a b c s =
      if x.state = 0 then
        if pllLoses s.pht x y ok then .next (mainsUnlock s)
        else .next { s with
          pht.srcs := vput s.pht.srcs 3 { x with freq := y.freq, dir := y.neg, overFrom := overSince s.pht x y.ratio } }
      else if pllLocks s.pht x y.ratio ok then
        .next (sourcesRecovered { s with
          pht := s.pht.move 3 { x with
            state := 0, ang := y.ang, lastAng := y.ang, pub := pubOf y.ang, freq := y.freq, dir := y.neg,
            lockFrom := none, overFrom := none } })
      else .next { s with pht.srcs := vput s.pht.srcs 3 { x with lockFrom := lockSince s.pht x y.ratio ok } } :=
  if_neg (by simp [hp, hen, hz])

theorem lockSince_weak (p : Pht) (x : PhtSrc) (r : Nat) : lockSince p x r false = none := rfl

theorem pllLocks_weak (p : Pht) (x : PhtSrc) (r : Nat) : pllLocks p x r false = false := rfl

/-- A zero-cross edge: x is PS3 with its run of periods counted. -/
theorem execMainsZcEdge_seen {s : State} (samples period : Nat) (hp : phtUp s = true) (hen : (s.pht.srcs.get 3).en = true)
    (hz : mainsZc s.pht = true) (hf : (s.pht.srcs.get 3).filt + 1 ≤ samples) :
    let z := s.pht.srcs.get 3
    let r := periodRun z period
    let x := { z with lockCnt := r.1, minPeriod := r.2.1, maxPeriod := r.2.2 }
    execMainsZcEdge samples period s =
      if z.state = 0 ∧ periodOk period = false then .next (mainsUnlock { s with pht.srcs := vput s.pht.srcs 3 x })
      else if z.state = 0 ∨ max 1 (lockCyc s.pht) ≤ r.1 then
        .next (sourcesRecovered { s with
          pht := s.pht.move 3 { x with
            state := 0, ang := snapTo z.pub z.idxAngle ++ (0 : BitVec 16), lastAng := snapTo z.pub z.idxAngle ++ (0 : BitVec 16),
            pub := snapTo z.pub z.idxAngle, step := 2 ^ 40, stepAt := s.pht.cycles, interval := period,
            freq := freqOfPeriod period } })
      else .next { s with pht.srcs := vput s.pht.srcs 3 x } := by
  unfold execMainsZcEdge
  dsimp only
  rw [if_neg (by simp [hp, hen, hz, hf, filtered])]
  simp only [Bool.not_eq_true', decide_eq_true_eq]
  rfl

/-- Settles O19, by the branches of each event and what each leaves of the source's record. -/
theorem ssiMainsAndStalls : Obligations.SsiMainsAndStalls := by
  intro s hp ps3 unlocked
  have hps3 : s.pht.srcs.get 3 = ps3 := rfl
  have hlost : ∀ {u : State}, MainsLost ps3 u → unlocked u := fun h => ⟨h.state, h.pub, h.freq, h.stood⟩
  refine ⟨fun w hen => ?_, fun a b c hen hz => ?_, fun samples period hen hz hf => ?_, fun hen h0 => ?_,
    fun n hn hen h0 hst => ?_⟩
  · obtain ⟨run, hrun, he⟩ := execSsiWord_seen w hp hen
    by_cases hb : (ssiDecode s.pht w).err = true ∨ run ≥ 2
    · refine Gives.intro (he.trans (if_pos hb)) ⟨fun _ => ?_, fun hc => absurd (hb.imp_right hrun.1) hc⟩
      unfold ssiError
      refine ⟨?_, ?_, stands_raiseStanding _ (by decide) ..⟩
      · rw [raiseStanding_pht, vput_get_same]
      · rw [raiseStanding_pht, vput_get_same]
    · refine Gives.intro (he.trans (if_neg hb)) ⟨fun hc => absurd (hc.imp_right hrun.2) hb, fun _ => ?_⟩
      rw [sourcesRecovered_pht]
      dsimp only
      rw [move_srcs, vput_get_same]
      exact ssiValid_spec ..
  · have he := execMainsFrame_seen a b c hp hen hz
    have hl := pllLoses_iff s.pht ps3 (pllStep s.pht ps3 a b c) (mainsAmpOk s.pht a b c)
    dsimp only at he
    by_cases h0 : ps3.state = 0
    · rw [if_pos h0] at he
      by_cases hls : pllLoses s.pht ps3 (pllStep s.pht ps3 a b c) (mainsAmpOk s.pht a b c) = true
      · exact Gives.intro (he.trans (if_pos hls)) ⟨fun _ _ => hlost (mainsUnlock_lost rfl rfl),
          fun _ hn => absurd (hl.1 hls) hn, fun hn => absurd h0 hn, fun hn => absurd h0 hn, fun hn => absurd h0 hn⟩
      · refine Gives.intro (he.trans (if_neg hls)) ⟨fun _ hc => absurd (hl.2 hc) hls, fun _ _ => ?_, fun hn => absurd h0 hn,
          fun hn => absurd h0 hn, fun hn => absurd h0 hn⟩
        dsimp only
        rw [vput_get_same]
        exact ⟨h0, rfl, rfl, rfl⟩
    · rw [if_neg h0] at he
      cases hk : pllLocks s.pht ps3 (pllStep s.pht ps3 a b c).ratio (mainsAmpOk s.pht a b c) with
      | true =>
        refine Gives.intro (he.trans (if_pos hk)) ⟨fun hn => absurd hn h0, fun hn => absurd hn h0, fun _ hw => ?_,
          fun _ _ => ?_, fun _ hc => absurd (hk.symm.trans hc) (by decide)⟩
        · rw [hw, pllLocks_weak] at hk
          cases hk
        · rw [sourcesRecovered_pht]
          dsimp only
          rw [move_srcs, vput_get_same]
          exact ⟨rfl, rfl, rfl⟩
      | false =>
        refine Gives.intro (he.trans (if_neg (by rw [hk]; decide))) ⟨fun hn => absurd hn h0, fun hn => absurd hn h0, fun _ hw => ?_,
          fun _ hc => absurd (hk.symm.trans hc) (by decide), fun _ _ => ?_⟩
        · dsimp only
          rw [vput_get_same, hw, lockSince_weak]
        · dsimp only
          rw [vput_get_same]
          exact ⟨rfl, rfl, rfl, rfl⟩
  · have he := execMainsZcEdge_seen samples period hp hen hz hf
    by_cases h1 : ps3.state = 0 ∧ periodOk period = false
    · refine Gives.intro (he.trans (if_pos h1)) ⟨fun _ _ => hlost (mainsUnlock_lost ?_ ?_), fun hc => ?_, fun hn => absurd h1.1 hn⟩
      · exact (congrArg PhtSrc.pub (vput_get_same s.pht.srcs 3 _) :)
      · exact (congrArg PhtSrc.freq (vput_get_same s.pht.srcs 3 _) :)
      · exact (hc.elim (fun h => absurd (h1.2.symm.trans h.2) (by decide)) fun h => absurd h1.1 h.1)
    · by_cases h2 : ps3.state = 0 ∨ max 1 (lockCyc s.pht) ≤ (periodRun ps3 period).1
      · refine Gives.intro (he.trans ((if_neg h1).trans (if_pos h2))) ⟨fun h h' => absurd ⟨h, h'⟩ h1, fun _ => ?_,
          fun hn hr => absurd (h2.resolve_left hn) (by omega)⟩
        rw [sourcesRecovered_pht]
        dsimp only
        rw [move_srcs, vput_get_same]
        exact ⟨rfl, snapTo_spec ..⟩
      · refine Gives.intro (he.trans ((if_neg h1).trans (if_neg h2))) ⟨fun h h' => absurd ⟨h, h'⟩ h1, fun hc => ?_, fun _ _ => ?_⟩
        · exact absurd (hc.imp (·.1) (·.2)) h2
        · dsimp only
          rw [vput_get_same]
          exact ⟨rfl, rfl, rfl⟩
  · exact Gives.intro (if_pos (by simp [hp, hen, h0, hps3])) (hlost (mainsUnlock_lost rfl rfl))
  · refine Gives.intro (if_pos (by rw [hp, hen, h0, decide_eq_true hst, decide_eq_true (Nat.ne_of_lt hn)]; rfl)) ?_
    refine ⟨?_, ?_, stands_raiseStanding _ (by decide) .., fun m hm => ?_⟩
    · rw [raiseStanding_pht]
      dsimp only
      rw [move_srcs, vput_get_same]
    · rw [raiseStanding_pht]
      dsimp only
      rw [move_srcs, vput_get_same]
      rfl
    · rw [raiseStanding_pht]
      exact vput_get_other _ _ hm

end Sys2Proof.Machine

end

section

namespace Sys2Proof.Machine

/-! ## Network time and the phase-bus record (O20) -/

/-- The phase timebase and the boot record. -/
def State.beat (s : State) : Pht × Boot := (s.pht, s.boot)

theorem beat_of_sched {s t : State} (h : t.sansSched = s.sansSched) : t.beat = s.beat :=
  (congrArg (fun u : State => u.beat) h :)

theorem coreMod_beat (s : State) (c : CoreId) (f : SparCore → SparCore) : (coreMod s c f).beat = s.beat := rfl

theorem passCycles_beat (s : State) (c : CoreId) (i : Option (Fin 10)) : (passCycles s c i).beat = s.beat := rfl

theorem endWait_beat (s : State) (c : CoreId) (rd rs : Fin 32) (o a : Nat) : (endWait s c rd rs o a).beat = s.beat := rfl

theorem obWake_beat (s : State) : (obWake s).beat = s.beat := by
  unfold obWake
  refine ite_view rfl (foldl_view (V := State.beat) (fun u c => ?_) ..)
  split
  · split
    · exact ite_view ((passCycles_beat ..).trans (endWait_beat ..)) rfl
    · rfl
  · rfl

theorem expireJob_beat (s : State) (j : Job) : (expireJob s j).beat = s.beat := by
  unfold expireJob
  exact ite_view (beat_of_sched ((stopJob_sched ..).trans (jobMod_sched ..))) (beat_of_sched (jobMod_sched ..))

theorem deadlineSourceLoss_beat (s : State) : (deadlineSourceLoss s).beat = s.beat := by
  refine foldl_view (V := State.beat) (fun u j => ?_) ..
  split
  · exact ite_view (expireJob_beat ..) rfl
  · rfl

theorem releasedSeen_beat (s : State) : (releasedSeen s).beat = s.beat := rfl

theorem sendCan_beat (s : State) (p : CanPort) (cob : Nat) (d : Bytes) : (sendCan s p cob d).beat = s.beat :=
  ite_view rfl rfl

theorem tpdoChanged_beat (s : State) (i : Fin 16) : (tpdoChanged s i).beat = s.beat := by
  have hsend : ∀ u : State, (sendTpdo u i).beat = u.beat := fun u => by
    unfold sendTpdo
    extract_lets n es data port fd t
    exact ite_view (sendCan_beat ..) rfl
  unfold tpdoChanged
  extract_lets ty n u t
  have ht : t.beat = u.beat := hsend u
  exact ite_view (ht.trans rfl) rfl

theorem tpdoScan_beat (s : State) (ty : Nat → Bool) (p : MapEntry → Bool) : (tpdoScan s ty p).beat = s.beat :=
  foldl_view (V := State.beat) (fun _ _ => ite_view (tpdoChanged_beat ..) rfl) ..

theorem tpdoMgcScan_beat (s : State) : (tpdoMgcScan s).beat = s.beat := by
  unfold tpdoMgcScan
  extract_lets old oldErr new oldSide side err n u
  exact (tpdoScan_beat u _ _).trans rfl

/-- What follows a record's broadcast leaves the timebase and the boot record. -/
theorem execPhaseBusRecord_gives {s : State} (hp : phtUp s = true) : ∃ t : State, exec .phaseBusRecord s = .next t ∧
    t.pht = (phtAdvance s).pht ∧ t.boot = { s.boot with wdCount := s.boot.wdCount + 2 } := by
  have key : ∀ b : State, (let c := if cscUp b then obWake (deadlineSourceLoss (releasedSeen b)) else b
      if mgcUp c then tpdoMgcScan c else c).beat = b.beat := fun b => by
    extract_lets c
    have hc : c.beat = b.beat :=
      ite_view ((obWake_beat _).trans ((deadlineSourceLoss_beat _).trans (releasedSeen_beat b))) rfl
    exact (ite_view (tpdoMgcScan_beat c) rfl).trans hc
  exact ⟨_, if_pos hp, Prod.mk.inj (key { phtAdvance s with boot.wdCount := s.boot.wdCount + 2 })⟩

theorem advanceSource_same (s : State) (n : SrcId) : (advanceSource s n).pht.srcs.get n =
    interpolated s.pht n (s.pht.srcs.get n) (s.pht.cycles + 4) := vput_get_same ..

theorem advanceSource_other (s : State) {n m : SrcId} (h : m ≠ n) :
    (advanceSource s n).pht.srcs.get m = s.pht.srcs.get m := vput_get_other _ _ h

/-- Interpolation of one source reads nothing that the advance of another changes. -/
theorem interpolated_advance (s : State) (m n : SrcId) (x : PhtSrc) (now : Nat) :
    interpolated (advanceSource s m).pht n x now = interpolated s.pht n x now := rfl

theorem phtAdvance_srcs (s : State) (n : SrcId) : (phtAdvance s).pht.srcs.get n =
    interpolated s.pht n (s.pht.srcs.get n) (s.pht.cycles + 4) := by
  change (advanceSource (advanceSource (advanceSource (advanceSource s 0) 1) 2) 3).pht.srcs.get n = _
  match n with
  | 0 =>
    rw [advanceSource_other _ (by decide), advanceSource_other _ (by decide), advanceSource_other _ (by decide),
      advanceSource_same]
  | 1 =>
    rw [advanceSource_other _ (by decide), advanceSource_other _ (by decide), advanceSource_same,
      advanceSource_other _ (by decide)]
    rfl
  | 2 =>
    rw [advanceSource_other _ (by decide), advanceSource_same, advanceSource_other _ (by decide),
      advanceSource_other _ (by decide)]
    rfl
  | 3 =>
    rw [advanceSource_same, advanceSource_other _ (by decide), advanceSource_other _ (by decide),
      advanceSource_other _ (by decide)]
    rfl

/-- Settles O20: the four sources advance one by one, and what follows the broadcast leaves the timebase. -/
theorem networkTimeAndRecord : Obligations.NetworkTimeAndRecord := by
  intro s hp
  refine ⟨if_pos hp, ?_⟩
  obtain ⟨t, he, hpht, hboot⟩ := execPhaseBusRecord_gives hp
  refine Gives.intro he ?_
  simp only [hpht, hboot]
  refine ⟨rfl, rfl, phtAdvance_srcs s, rfl, rfl, fun n => ?_, trivial, rfl⟩
  exact Vector.getElem_map ..

end Sys2Proof.Machine

end

section

namespace Sys2Proof.Machine

/-! ## Arming a slot, whole writes, and PHT_RDY (O23) -/

/-- A field of the twelve bits that CFG keeps is the written one. -/
theorem cfg_field (cfg : W32) (lo n : Nat) (h : lo + n ≤ 12) : bits (cfg &&& 0xFFF).toNat lo n = bits cfg.toNat lo n := by
  refine bits_congr fun i hi => ?_
  rw [BitVec.toNat_and, Nat.testBit_and, show (0xFFF : W32).toNat = 2 ^ 12 - 1 from rfl, Nat.testBit_two_pow_sub_one,
    decide_eq_true (by omega), Bool.and_true]

theorem cfg_arm (cfg : W32) : (cfg &&& 0xFFF).getLsbD 0 = cfg.getLsbD 0 := by
  rw [BitVec.getLsbD_and]
  exact Bool.and_true _

/-- What a write of CFG leaves of a slot, and the arming it may be. -/
theorem writeCfg_spec (x : PhtSlot) (cfg : W32) (cur : BitVec 40) :
    (x.writeCfg cfg cur).cfg = cfg &&& 0xFFF ∧ (x.writeCfg cfg cur).tgt = x.tgt ∧ (x.writeCfg cfg cur).inc = x.inc ∧
    (cfg.getLsbD 0 = true → x.arm = false → (x.writeCfg cfg cur).hit = none ∧
      (bits cfg.toNat 4 2 = 0 → (x.writeCfg cfg cur).behind = (x.behind || decide ((x.tgt - cur).toInt ≤ 0))) ∧
      (bits cfg.toNat 4 2 = 1 → (x.writeCfg cfg cur).behind = (x.behind || decide (0 ≤ (x.tgt - cur).toInt))) ∧
      (bits cfg.toNat 4 2 = 2 → (x.writeCfg cfg cur).behind = (x.behind || decide ((x.tgt - cur).toInt = 0)))) ∧
    (cfg.getLsbD 0 = false ∨ x.arm = true → (x.writeCfg cfg cur).behind = x.behind) := by
  unfold PhtSlot.writeCfg
  extract_lets u d behind
  have hu : u.arm = cfg.getLsbD 0 := cfg_arm cfg
  have he : u.edge = bits cfg.toNat 4 2 := cfg_field cfg 4 2 (by decide)
  by_cases ha : cfg.getLsbD 0 = true ∧ x.arm = false
  · rw [if_pos (by simp [hu, ha])]
    refine ⟨rfl, rfl, rfl, fun _ _ => ⟨rfl, fun h => ?_, fun h => ?_, fun h => ?_⟩,
      fun h => absurd h (by simp [ha])⟩
    · exact congrArg (x.behind || ·) (by simp only [behind, he, h]; rfl)
    · exact congrArg (x.behind || ·) (by simp only [behind, he, h]; rfl)
    · exact congrArg (x.behind || ·) (by simp only [behind, he, h]; rfl)
  · rw [if_neg (by simpa [hu] using ha)]
    split
    · exact ⟨rfl, rfl, rfl, fun h h' => absurd ⟨h, h'⟩ ha, fun _ => rfl⟩
    · exact ⟨rfl, rfl, rfl, fun h h' => absurd ⟨h, h'⟩ ha, fun _ => rfl⟩

theorem getLsbD_bit (c d : CoreId) : (1#16 <<< c.val).getLsbD d.val = decide (d = c) := by
  have hd := d.isLt
  rw [BitVec.getLsbD_shiftLeft, BitVec.getLsbD_one]
  simp only [hd, decide_true, Bool.true_and, ← decide_not, ← Bool.decide_and, Fin.ext_iff]
  exact decide_eq_decide.2 (by omega)

/-- The mask of the cores of a list that p holds of. -/
theorem coreMask_getLsbD (p : CoreId → Bool) (l : List CoreId) (m : W16) (d : CoreId) :
    (l.foldl (fun m c => if p c then m ||| (1#16 <<< c.val) else m) m).getLsbD d.val =
      (m.getLsbD d.val || (decide (d ∈ l) && p d)) := by
  induction l generalizing m with
  | nil => simp
  | cons c l ih =>
    rw [List.foldl_cons, ih]
    by_cases hp : p c = true
    · rw [if_pos hp, BitVec.getLsbD_or, getLsbD_bit]
      by_cases hd : d = c
      · subst hd; simp [hp]
      · simp [hd]
    · rw [if_neg hp]
      by_cases hd : d = c
      · subst hd; simp [hp]
      · simp [hd]

theorem rdyWrite_getLsbD (s : State) (v : W32) (c : CoreId) : (rdyWrite s v).pht.rdy.getLsbD c.val =
    (v.getLsbD c.val && pinned s (sparDom c) && !unitFenced s c.val) := by
  refine (coreMask_getLsbD (fun c => v.getLsbD c.val && pinned s (sparDom c) && !unitFenced s c.val) ..).trans ?_
  rw [decide_eq_true (show c ∈ allCores from List.mem_finRange c)]
  simp

/-- Settles O23, by the cases of a write of CFG and the bit of each core in PHT_RDY. -/
theorem slotAndReadyWrites : Obligations.SlotAndReadyWrites := by
  intro n s hp x
  refine ⟨fun by_ cfg hr => ?_, fun c cfg => ?_, fun hi hc => ⟨?_, ?_⟩, fun v hc => ?_⟩
  · refine Gives.intro (if_pos (by simp [hp, hr])) ?_
    dsimp only [slotWriteCfg]
    rw [vput_get_same]
    exact ⟨rfl, writeCfg_spec ..⟩
  · exact if_neg (by simp [phtReach])
  · exact if_pos (by simp [hp, hc])
  · exact if_pos (by simp [hp, hc])
  · exact Gives.intro (if_pos (by simp [hp, hc])) ⟨rfl, rdyWrite_getLsbD s v⟩

end Sys2Proof.Machine

end

section

namespace Sys2Proof.Machine

/-! ## NMT commands (O24) -/

theorem nmtForward_shl (s : State) (code : Nat) : (nmtForward s code).sansShl = s.sansShl :=
  ite_view (foldl_view (V := State.sansShl) (fun _ _ => sendMgmt_shl ..) ..) rfl

theorem nmtForward_node (s : State) (code : Nat) : (nmtForward s code).node = s.node :=
  (congrArg (fun u : State => u.node) (nmtForward_shl s code) :)

theorem nmtForward_reef (s : State) (code : Nat) : (nmtForward s code).reef = s.reef :=
  (congrArg (fun u : State => u.reef) (nmtForward_shl s code) :)

theorem nmtForward_pert (s : State) (code : Nat) : (nmtForward s code).pert = s.pert :=
  (congrArg (fun u : State => u.pert) (nmtForward_shl s code) :)

theorem nmtForward_boot (s : State) (code : Nat) : (nmtForward s code).boot = s.boot :=
  (congrArg (fun u : State => u.boot) (nmtForward_shl s code) :)

theorem enterNmt_operational (s : State) : (enterNmt s .operational).node.nmt = .operational ∧
    (enterNmt s .operational).node.od = s.node.od ∧ (enterNmt s .operational).reef = s.reef := by
  simp only [enterNmt, nmtEnter, notice_node, notice_reef, reduceCtorEq, if_false]
  split <;> exact ⟨trivial, rfl, rfl⟩

theorem enterNmt_preOperational (s : State) : (enterNmt s .preOperational).node.nmt = .preOperational ∧
    (enterNmt s .preOperational).node.od = s.node.od ∧ (enterNmt s .preOperational).reef = s.reef := by
  simp only [enterNmt, nmtEnter, notice_node, notice_reef, reduceCtorEq, if_false, false_and]
  exact ⟨trivial, trivial, trivial⟩

theorem vector_get_replicate {α : Type} (n : Nat) (a : α) (i : Fin n) : (Vector.replicate n a).get i = a :=
  Vector.getElem_replicate ..

theorem pertEnd_active (s : State) (k j : Fin 8) : (pertEnd s k).pert.active.get j = (decide (j ≠ k) && s.pert.active.get j) := by
  unfold pertEnd
  split
  · extract_lets _ u
    have hu : u.pert.active.get j = (decide (j ≠ k) && s.pert.active.get j) := by
      refine (vput_get ..).trans ?_
      by_cases h : j = k <;> simp [h]
    clear_value u
    split
    · exact hu
    · rw [clearStanding_pert]; exact hu
  · next h =>
    by_cases hj : j = k
    · subst hj; simp [h]
    · simp [hj]

theorem pertEnds_active (l : List (Fin 8)) (s : State) (j : Fin 8) :
    (l.foldl pertEnd s).pert.active.get j = (decide (j ∉ l) && s.pert.active.get j) := by
  induction l generalizing s with
  | nil => simp
  | cons k l ih =>
    rw [List.foldl_cons, ih, pertEnd_active]
    by_cases h : j = k <;> simp [h]

theorem pertEndAll_active (s : State) (j : Fin 8) : (pertEndAll s).pert.active.get j = false := by
  rw [pertEndAll, pertEnds_active, decide_eq_false (fun h => h (List.mem_finRange j)), Bool.false_and]

theorem enterNmt_stopped (s : State) : (enterNmt s .stopped).node.nmt = .stopped ∧
    (∀ p : CanPort, (enterNmt s .stopped).node.chans.get p = none) ∧
    (∀ k : Fin 8, (enterNmt s .stopped).pert.active.get k = false) := by
  simp only [enterNmt, nmtEnter, notice_node, notice_pert, reduceCtorEq, if_false, false_and, if_true]
  exact ⟨trivial, vector_get_replicate 2 none, pertEndAll_active s⟩

/-! ### Reset communication -/

/-- An entry that a reset forgets reads as its default. -/
theorem read_odForget (n : Node) (p : Nat → Bool) {i k : Nat} (hi : p i = true) (hk : k < 256) :
    Tbl.read (fun _ => ([] : Bytes)) (odForget n p).od (odKey i k) = [] := by
  have hkey : odKey i k / 256 = i := by rw [odKey]; omega
  change Tbl.read _ (n.od.filter fun e => !p (e.1 / 256)) _ = _
  induction n.od with
  | nil => rfl
  | cons e l ih =>
    rw [List.filter_cons]
    split
    · next h =>
      refine (if_neg fun he => ?_).trans ih
      have hp : p (e.1 / 256) = true := by rw [← he, hkey, hi]
      simp [hp] at h
    · exact ih

theorem bootUp_preOperational {s : State} (h : nodeSilent s.node = false) : (bootUp s).node = { s.node with nmt := .preOperational } := by
  rw [(bootUp_rest s).1, ((bootUp_spec s).2 h).1]

theorem endSessions_node (s : State) (host : Bool) : (endSessions s host).node.nodeId = s.node.nodeId ∧
    (endSessions s host).node.mode = s.node.mode ∧ (endSessions s host).node.sessions = s.node.sessions.filter fun x =>
      match x.who with
      | .can _ _ => false
      | .host => !host := by
  refine ⟨rfl, rfl, List.filter_congr fun x _ => ?_⟩
  cases x.who <;> rfl

theorem resetComm_spec {s : State} (h : nodeSilent s.node = false) : (resetComm s).node.nmt = .preOperational ∧
    (∀ x ∈ (resetComm s).node.sessions, x.who = .host ∧ x.service = false) ∧
    (∀ i sub : Nat, (0x1000 ≤ i ∧ i ≤ 0x1FFF) ∨ i = 0x2005 ∨ i = 0x2006 → sub < 256 →
      Tbl.read (fun _ => ([] : Bytes)) (resetComm s).node.od (odKey i sub) = []) := by
  obtain ⟨hid, hmode, hsess⟩ := endSessions_node s false
  have hcalm := clearAllOf_calm (endSessions s false) 0x8130
  unfold resetComm restoreComm
  generalize clearAllOf (endSessions s false) 0x8130 = u at hcalm ⊢
  have hs : nodeSilent u.node = false := (nodeSilent_congr ((hcalm.field Node.nodeId fun _ => rfl).trans hid)
    ((hcalm.field Node.mode fun _ => rfl).trans hmode)).trans h
  have husess := (hcalm.field Node.sessions fun _ => rfl).trans hsess
  extract_lets v n n' w
  rw [bootUp_preOperational (s := { w with node.nmt := .initialisation }) (by exact hs)]
  refine ⟨rfl, fun x hx => ?_, fun i sub hi hsub => ?_⟩
  · obtain ⟨y, hy, rfl⟩ := List.mem_map.1 hx
    have hy' : y ∈ u.node.sessions := hy
    rw [husess] at hy'
    have hw := (List.mem_filter.1 hy').2
    refine ⟨?_, rfl⟩
    cases hc : y.who with
    | can p c => simp [hc] at hw
    | host => rfl
  · exact read_odForget (applyPorts u.node) (fun i => (decide (0x1000 ≤ i) && decide (i ≤ 0x1FFF)) || i == 0x2005 || i == 0x2006)
      (by simpa [or_assoc] using hi) hsub

/-! ### Reset node -/

/-- Who the node is and who is logged in. -/
def State.names (s : State) : BitVec 7 × BitVec 2 × List Sess := (s.node.nodeId, s.node.mode, s.node.sessions)

theorem notePlane_names (s : State) (v w : Nat) : (notePlane s v w).names = s.names := rfl

theorem dprStart_names (s : State) : (dprStart s).names = s.names := by
  unfold dprStart
  split
  · rfl
  · extract_lets a _ _ _ _ u v
    have ha : a.names = s.names := (congrArg (fun u : State => u.names) (abortTaken_jobs s) :)
    have hu : u.names = a.names := rfl
    have hv : v.names = u.names := (congrArg (fun u : State => u.names) (dprDram_power u) :)
    generalize (allDoms.filter fun d => decide (d.val ≤ 13) && d != 11) = l
    exact ((congrArg (fun u : State => u.names) (dprOffs_power l v) :).trans hv).trans (hu.trans ha)

theorem cprStart_names (s : State) : (cprStart s).names = s.names := by
  unfold cprStart
  split
  · rfl
  · have hf : (forget (forgetApps s) (· == .host)).sansForget = s.sansForget := (forget_forget ..).trans (forgetApps_forget s)
    exact (congrArg (fun u : State => u.names) hf :)

theorem planeReset_names (s : State) (v w : Nat) : (planeReset s v w).names = s.names := by
  unfold planeReset
  extract_lets a b
  have hb : b.names = s.names := (ite_view (dprStart_names a) rfl).trans (notePlane_names ..)
  exact ite_view ((cprStart_names b).trans hb) hb

theorem pertEnd_boot (s : State) (k : Fin 8) : (pertEnd s k).boot = s.boot := by
  unfold pertEnd
  split
  · extract_lets _ u
    have hu : u.boot = s.boot := rfl
    exact ite_view (V := State.boot) hu ((clearStanding_boot ..).trans hu)
  · rfl

theorem restoreBudget_boot (s : State) : (restoreBudget s).boot = s.boot := by
  unfold restoreBudget
  split
  · rfl
  · have hset : ∀ u : State, (setEff u).boot = u.boot := fun u => by
      unfold setEff
      extract_lets r e
      split <;> rfl
    unfold budgetWrite
    split
    · rfl
    · exact (notice_boot ..).trans (hset _)

theorem restoreObjects_boot (s : State) : (restoreObjects s).boot = { s.boot with flashOfs := 0 } := by
  have hb : (restoreBudget (clearAllOf (clearAllOf (pertEndAll s) 0xFF03) 0x8130)).boot = s.boot := by
    have hc : ∀ (u : State) (c : Nat), (clearAllOf u c).boot = u.boot := fun u c =>
      (congrArg (fun u : State => u.boot) (clearAllOf_notes u c) :)
    rw [restoreBudget_boot, hc, hc]
    exact foldl_view (V := State.boot) pertEnd_boot ..
  unfold restoreObjects
  generalize restoreBudget (clearAllOf (clearAllOf (pertEndAll s) 0xFF03) 0x8130) = u at hb ⊢
  rw [← hb]

theorem restoreObjects_sessions (s : State) : (restoreObjects s).names = s.names := by
  have hcalm := (((pertEndAll_calm s).trans (clearAllOf_calm _ 0xFF03)).trans (clearAllOf_calm _ 0x8130)).trans
    (restoreBudget_calm _)
  unfold restoreObjects
  generalize restoreBudget (clearAllOf (clearAllOf (pertEndAll s) 0xFF03) 0x8130) = u at hcalm ⊢
  exact hcalm.field (fun n => (n.nodeId, n.mode, n.sessions)) fun _ => rfl

theorem bootUp_boot (s : State) : (bootUp s).boot = s.boot := by
  unfold bootUp
  split
  · rfl
  · exact (notice_boot ..).trans (ite_view (V := State.boot) rfl rfl)

theorem nodeStart_keeps (s : State) : (nodeStart s).names = s.names ∧ (nodeStart s).boot = { s.boot with flashOfs := 0 } := by
  have hn := restoreObjects_sessions s
  have hb := restoreObjects_boot s
  unfold nodeStart
  generalize restoreObjects s = u at hn hb ⊢
  dsimp only
  rw [bootUp_boot, ← hb, ← hn]
  refine ⟨?_, rfl⟩
  have h := (bootUp_rest { u with node := { pdoRestart u.node with nmt := .initialisation } }).1
  exact (congrArg (fun n : Node => (n.nodeId, n.mode, n.sessions)) h :)

theorem resetParts_spec (s : State) : (resetParts s).names = (s.node.nodeId, s.node.mode, []) ∧
    (resetParts s).boot.cprActive = true ∧ (resetParts s).boot.dprActive = true := by
  unfold resetParts
  extract_lets u
  have hu : u.names = (s.node.nodeId, s.node.mode, []) := by
    obtain ⟨hid, hmode, hsess⟩ := endSessions_node s true
    refine Prod.ext hid (Prod.ext hmode (hsess.trans (List.filter_eq_nil_iff.2 fun x _ => ?_)))
    cases x.who <;> simp
  have hv : ({ u with node := applyPorts u.node } : State).names = u.names := rfl
  generalize ({ u with node := applyPorts u.node } : State) = v at hv ⊢
  obtain ⟨-, -, hc, hd, -⟩ := planeReset_spec (z := restoreObjects v) rfl rfl rfl srcNmt
  refine ⟨(planeReset_names ..).trans ((restoreObjects_sessions v).trans (hv.trans hu)), ?_, ?_⟩
  · cases h : (restoreObjects v).boot.cprActive with
    | true => exact (hc.2 h).1
    | false => exact (hc.1 h).1
  · cases h : (restoreObjects v).boot.dprActive with
    | true => exact (hd.2 h).1
    | false => exact (hd.1 h).1

theorem resetNode_spec {s : State} (h : nodeSilent s.node = false) : (resetNode s).node.nmt = .preOperational ∧
    (resetNode s).node.sessions = [] ∧ (resetNode s).node.od = [] ∧ (resetNode s).reef.budget = 480 ∧
    (resetNode s).boot.cprActive = true ∧ (resetNode s).boot.dprActive = true := by
  obtain ⟨hn, hc, hd⟩ := resetParts_spec s
  unfold resetNode
  generalize resetParts s = u at hn hc hd ⊢
  dsimp only
  have hw : ({ u with node.nmt := .initialisation } : State).names = (s.node.nodeId, s.node.mode, []) := hn
  have hwb : ({ u with node.nmt := .initialisation } : State).boot = u.boot := rfl
  generalize ({ u with node.nmt := .initialisation } : State) = w at hw hwb ⊢
  obtain ⟨hid, hms⟩ := Prod.mk.inj hw
  obtain ⟨hmode, -⟩ := Prod.mk.inj hms
  obtain ⟨hkeep, hboot⟩ := nodeStart_keeps w
  have hd' := nodeStart_defaults w
  have hs := (nodeStart_spec w).2.2 ((nodeSilent_congr hid hmode).trans h)
  refine ⟨hs.1, (Prod.mk.inj (Prod.mk.inj (hkeep.trans hw)).2).2, hd'.od, hd'.budget, ?_, ?_⟩
  · rw [hboot, hwb]; exact hc
  · rw [hboot, hwb]; exact hd

theorem nmtFor_spec {s : State} {node : Byte} (h : nmtFor s node = true) :
    nodeSilent s.node = false ∧ (node = 0 ∨ node.toNat = s.node.nodeId.toNat) := by
  simp only [nmtFor, Bool.and_eq_true, Bool.or_eq_true, Bool.not_eq_true', beq_iff_eq] at h
  obtain ⟨⟨⟨⟨-, hs⟩, -⟩, -⟩, hn⟩ := h
  exact ⟨hs, hn⟩

/-- Settles O24, by what each command makes of the node. -/
theorem nmtCommands : Obligations.NmtCommands := by
  intro node s
  refine ⟨fun hf => ?_, fun h0 hn c hc => ?_⟩
  · obtain ⟨hs, -⟩ := nmtFor_spec hf
    refine ⟨Gives.intro (if_pos hf) ?_, Gives.intro (if_pos hf) ?_, Gives.intro (if_pos hf) ?_, Gives.intro (if_pos hf) ?_,
      Gives.intro (if_pos hf) ?_⟩
    · rw [nmtForward_node, nmtForward_reef]
      exact enterNmt_operational s
    · rw [nmtForward_node, nmtForward_pert]
      exact enterNmt_stopped _
    · rw [nmtForward_node, nmtForward_reef]
      exact enterNmt_preOperational s
    · rw [nmtForward_node]
      exact resetComm_spec hs
    · exact resetNode_spec (by rw [nmtForward_node, hs])
  · have hf : ¬ nmtFor s node = true := fun h => (nmtFor_spec h).2.elim h0 hn
    rcases hc with rfl | rfl | rfl | rfl | rfl <;> exact if_neg hf

end Sys2Proof.Machine

end

section

namespace Sys2Proof.Machine

/-! ## Frames of the node and conditions of its CAN ports (O25) -/

theorem stands_clearStanding_other {s : State} {c k code key : Nat} (h : stands s c k = true) (hc : c ≠ code) :
    stands (clearStanding s code key) c k = true := by
  rw [stands, clearStanding_standing, List.any_eq_true]
  rw [stands, List.any_eq_true] at h
  obtain ⟨x, hx, hk⟩ := h
  refine ⟨x, List.mem_filter.2 ⟨hx, ?_⟩, hk⟩
  simp only [Bool.and_eq_true, beq_iff_eq] at hk
  simp [hk.1, hc]

theorem pertEnd_stands {s : State} {c k : Nat} (h : stands s c k = true) (hc : c ≠ 0xFF60) (j : Fin 8) :
    stands (pertEnd s j) c k = true := by
  unfold pertEnd
  split
  · extract_lets _ u
    have hu : stands u c k = true := h
    split
    · exact hu
    · exact stands_clearStanding_other hu hc
  · exact h

theorem pertEndAll_stands {s : State} {c k : Nat} (h : stands s c k = true) (hc : c ≠ 0xFF60) :
    stands (pertEndAll s) c k = true := by
  unfold pertEndAll
  generalize List.finRange 8 = l
  induction l generalizing s with
  | nil => exact h
  | cons j l ih => exact ih (pertEnd_stands h hc j)

/-- What the node has heard, raised and lost: no state of NMT changes it. -/
def State.heard (s : State) : List W32 × Vector Bool 8 × Vector Bool 2 := (s.node.history, s.node.consumers, s.node.busOff)

theorem emcyQueue_heard (s : State) (f : Bytes) : (emcyQueue s f).heard = s.heard := by
  unfold emcyQueue
  split <;> rfl

theorem clearStanding_heard (s : State) (code key : Nat) : (clearStanding s code key).heard = s.heard := by
  unfold clearStanding
  split
  · rfl
  · exact (emcyQueue_heard ..).trans rfl

theorem pertEndAll_heard (s : State) : (pertEndAll s).heard = s.heard := by
  refine foldl_view (V := State.heard) (fun u k => ?_) ..
  unfold pertEnd
  split
  · extract_lets _ v
    have hv : v.heard = u.heard := rfl
    exact ite_view hv ((clearStanding_heard ..).trans hv)
  · rfl

/-- A state of NMT entered: what the node has heard and what stands are as before. -/
theorem enterNmt_keeps (s : State) (st : Nmt) : (enterNmt s st).heard = s.heard ∧
    ∀ k : Nat, stands s 0x8130 k = true → stands (enterNmt s st) 0x8130 k = true := by
  have hnm : ∀ u : State, (nmtEnter u st).heard = u.heard ∧ (nmtEnter u st).health = u.health := fun u => by
    unfold nmtEnter
    extract_lets nd t
    have ht : t.heard = u.heard ∧ t.health = u.health := by
      simp only [t, nd]
      split <;> exact ⟨rfl, rfl⟩
    refine ⟨Eq.trans ?_ ht.1, (notice_health ..).trans ht.2⟩
    rw [State.heard, notice_node]
    rfl
  unfold enterNmt
  extract_lets u w
  have hu : u.heard = s.heard ∧ ∀ k : Nat, stands s 0x8130 k = true → stands u 0x8130 k = true := by
    simp only [u]
    split
    · exact ⟨pertEndAll_heard s, fun k h => pertEndAll_stands h (by decide)⟩
    · exact ⟨rfl, fun k h => h⟩
  have hw : w.heard = u.heard ∧ w.health = u.health := by
    simp only [w]
    split <;> exact ⟨rfl, rfl⟩
  refine ⟨(hnm w).1.trans (hw.1.trans hu.1), fun k h => ?_⟩
  rw [stands_congr (congrArg Health.standing ((hnm w).2.trans hw.2))]
  exact hu.2 k h

/-- What a communication error asks for leaves what the node has heard and what stands. -/
theorem commError_keeps (s : State) : (commError s).heard = s.heard ∧
    ∀ k : Nat, stands s 0x8130 k = true → stands (commError s) 0x8130 k = true := by
  unfold commError
  split
  · next st _ =>
    generalize hu : (if st = .stopped then forgetChans s else s) = u
    have hus : u.heard = s.heard ∧ u.health = s.health := by
      rw [← hu]
      split <;> exact ⟨rfl, rfl⟩
    obtain ⟨he, hst⟩ := enterNmt_keeps u st
    have hv := nmtForward_shl (enterNmt u st) (nmtCode st)
    refine ⟨((congrArg (fun u : State => u.heard) hv :).trans he).trans hus.1, fun k h => ?_⟩
    have hh : (nmtForward (enterNmt u st) (nmtCode st)).health = (enterNmt u st).health := (congrArg (fun u : State => u.health) hv :)
    rw [stands_congr (congrArg Health.standing hh)]
    exact hst k ((stands_congr (congrArg Health.standing hus.2) ..).trans h)
  · exact ⟨rfl, fun k h => h⟩

theorem vector_get_ofFn {α : Type} {n : Nat} (f : Fin n → α) (i : Fin n) : (Vector.ofFn f).get i = f i := by
  rw [Vector.get_eq_getElem]
  simp

/-! ### Bus-off -/

/-- Sessions dropped to open rank under a condition on whose they are. -/
theorem find_dropRank (l : List Sess) (p : Session → Prop) [DecidablePred p] (w : Session) :
    (l.map fun x => if p x.who then { x with service := false } else x).find? (fun x => x.who == w) =
      (l.find? fun x => x.who == w).map fun x => if p x.who then { x with service := false } else x := by
  induction l with
  | nil => rfl
  | cons x l ih =>
    have hw : (if p x.who then { x with service := false } else x).who = x.who := by split <;> rfl
    rw [List.map_cons, List.find?_cons, List.find?_cons, hw, ih]
    cases x.who == w <;> rfl

theorem forget_sessions (s : State) (goes : Session → Bool) : (forget s goes).node.sessions = s.node.sessions := rfl

/-- What bus-off makes of a node, its sessions among it. -/
theorem execCanBusOff_gives {s : State} (port : CanPort) (hm : mgcUp s = true) (hs : nodeSilent s.node = false) :
    ∃ t : State, exec (.canBusOff port) s = .next t ∧ t.node.busOff = vput s.node.busOff port true ∧
      t.node.chans = vput s.node.chans port none ∧ t.node.sessions = (s.node.sessions.map fun x =>
        if sessPort x.who = some port then { x with service := false } else x) ∧
      t = { s with node := t.node, tw := t.tw } :=
  ⟨_, if_pos (by simp [hm, hs]), rfl, rfl, rfl, rfl⟩

theorem raiseEmcy_heard (s : State) (code : Nat) (unit : Byte) (d : Bytes) :
    (raiseEmcy s code unit d).heard = (emcyHistory s code unit d).heard := emcyQueue_heard ..

/-- Settles O25: each command's branch, and what a communication error leaves. -/
theorem nodeFramesAndCan : Obligations.NodeFramesAndCan := by
  refine ⟨fun s hm hs => ?_, fun port s hm => ⟨fun hs => ⟨?_, ?_, ?_⟩, fun hoff => ?_⟩⟩
  · intro p
    refine ⟨fun hn ho hb => ?_, fun node st hn hc => ?_, fun e hn h1 h2 hc => ?_, fun e es hq hv hb h31 => ?_,
      fun canId v hv h31 hid => ?_⟩
    · have hp : sendCan s p (0x700 + s.node.nodeId.toNat) [BitVec.ofNat 8 (nmtCode s.node.nmt)] =
          emit s (.can p (0x700 + s.node.nodeId.toNat) [BitVec.ofNat 8 (nmtCode s.node.nmt)]) :=
        if_neg (by simp [hs, hb])
      exact (if_pos (by simp [hm, hn, ho])).trans (congrArg Host.Outcome.next hp)
    · refine Gives.intro (if_pos ?_) ?_
      · simp only [hm, hs, hn, bne_iff_ne, Bool.and_eq_true, List.any_eq_true, Bool.not_false, decide_eq_true_eq, ne_eq,
          not_false_eq_true, true_and, List.mem_finRange, and_true]
        exact ⟨rfl, hc⟩
      · have hcons : ∀ u : State, ∀ c k, (clearStanding u c k).node.consumers = u.node.consumers := fun u c k =>
          congrArg (fun h : List W32 × Vector Bool 8 × Vector Bool 2 => h.2.1) (clearStanding_heard u c k)
        rw [hcons]
        dsimp only
        simp only [vector_get_ofFn]
        exact ⟨fun e he => if_pos he, fun e he => if_neg (by simp [he]), stands_clearStanding ..⟩
    · obtain ⟨hh, hst⟩ := commError_keeps (raiseStanding { s with node.consumers := vput s.node.consumers e true } 0x8130 0xFF
        (bits (odNat s.node 0x1016 (e.val + 1)) 16 8) [BitVec.ofNat 8 (bits (odNat s.node 0x1016 (e.val + 1)) 16 8)])
      refine Gives.intro (if_pos (by simp [hm, hs, hn, h1, h2, hc])) ⟨?_, hst _ (stands_raiseStanding _ (by decide) ..)⟩
      have hcons := congrArg (fun h : List W32 × Vector Bool 8 × Vector Bool 2 => h.2.1) hh
      refine (congrArg (fun v : Vector Bool 8 => v.get e) hcons :).trans ?_
      refine (congrArg (fun n : Node => n.consumers.get e) (raiseStanding_node ..) :).trans ?_
      exact vput_get_same ..
    · have hp : ∀ c d, sendCan { s with node.emcyQ := es } p c d = emit { s with node.emcyQ := es } (.can p c d) := fun c d =>
        if_neg (by
          have hsil : nodeSilent ({ s with node.emcyQ := es } : State).node = nodeSilent s.node := rfl
          rw [hsil, hs]
          simp [hb])
      simp only [exec, execEmcySend, hq]
      rw [if_pos (by simp [hm, hv, hs, hb, ← show p = s.node.netPort from rfl]), if_neg (by simp [h31])]
      exact congrArg Host.Outcome.next (hp ..)
    · exact if_pos (by simp [hm, hv, hs, h31, hid, p])
  · exact if_pos (by simp [hm, hs])
  · exact if_pos (by simp [hm, hs])
  · obtain ⟨t, he, hb, hc, hss, ht⟩ := execCanBusOff_gives port hm hs
    have hf : ∀ w : Session, findSess t.node w = (findSess s.node w).map fun x =>
        if sessPort x.who = some port then { x with service := false } else x := fun w => by
      rw [findSess, hss]
      exact find_dropRank _ (fun x => sessPort x = some port) w
    refine Gives.intro he ⟨hb, by rw [hc, vput_get_same], fun w hw => ?_, fun w hw => ?_, ht⟩
    · change (findSess t.node w).any (fun x => x.service) = false
      rw [hf]
      cases hx : findSess s.node w with
      | none => rfl
      | some x =>
        have hwho : x.who = w := by simpa using List.find?_some hx
        simp [hwho, hw]
    · rw [hf]
      cases hx : findSess s.node w with
      | none => rfl
      | some x =>
        have hwho : x.who = w := by simpa using List.find?_some hx
        simp [hwho, hw]
  · obtain ⟨hh, -⟩ := commError_keeps (raiseEmcy { s with node.busOff := vput s.node.busOff port false } 0x8140 0xFF
      [BitVec.ofNat 8 port.val])
    refine Gives.intro (if_pos (by simp [hm, hoff])) ?_
    obtain ⟨hhist, hrest⟩ := Prod.mk.inj (hh.trans (raiseEmcy_heard ..))
    obtain ⟨-, hb⟩ := Prod.mk.inj hrest
    rw [hhist, hb]
    refine ⟨vput_get_same .., ?_⟩
    have hcode : BitVec.ofNat 32 (0x8140 % 65536 + 65536 * (0xFF : Byte).toNat + 2 ^ 24 * (byteAt [BitVec.ofNat 8 port.val] 0).toNat) =
        BitVec.ofNat 32 (0xFF8140 + 2 ^ 24 * port.val) := by fin_cases port <;> rfl
    exact List.mem_cons.2 (.inl hcode.symm)

end Sys2Proof.Machine

end

section

namespace Sys2Proof.Machine

/-! ## PDOs (O26) -/

/-- A walk whose condition holds of no element changes nothing. -/
theorem foldl_none {α σ : Type} {c : σ → α → Bool} {g : σ → α → σ} {s : σ} {l : List α} (h : ∀ a ∈ l, c s a = false) :
    l.foldl (fun t a => if c t a then g t a else t) s = s := by
  induction l with
  | nil => rfl
  | cons a l ih =>
    rw [List.foldl_cons, h a List.mem_cons_self]
    exact ih fun b hb => h b (List.mem_cons_of_mem _ hb)

/-- A walk whose condition, which the one step leaves, holds of one element alone takes that step. -/
theorem foldl_one {α σ : Type} {c : σ → α → Bool} {g : σ → α → σ} {s : σ} {i : α} (hi : c s i = true)
    (ho : ∀ a, a ≠ i → c s a = false) (hg : ∀ a, c (g s i) a = c s a) {l : List α} (hn : l.Nodup) (hm : i ∈ l) :
    l.foldl (fun t a => if c t a then g t a else t) s = g s i := by
  induction l with
  | nil => cases hm
  | cons a l ih =>
    rw [List.foldl_cons]
    obtain ⟨hal, hnl⟩ := List.nodup_cons.1 hn
    by_cases ha : a = i
    · subst ha
      rw [hi]
      exact foldl_none fun b hb => (hg b).trans (ho b fun hab => hal (hab ▸ hb))
    · rw [ho a ha]
      exact ih hnl ((List.mem_cons.1 hm).resolve_left fun h => ha h.symm)

/-! ### Received PDOs -/

/-- The node but for its EMCYs and the PDOs that wait for a SYNC. -/
def State.pdoSet (s : State) : Node := { s.node.sansEmcy with rpdos := Vector.replicate 16 none }

theorem tag0Write_node (s : State) (i k : Nat) (v : Bytes) : (tag0Write s i k v).node.sansEmcy = s.node.sansEmcy ∧
    (tag0Write s i k v).node.rpdos = s.node.rpdos := by
  unfold tag0Write
  split
  · rw [m2cSend_node]; exact ⟨rfl, rfl⟩
  · exact ⟨rfl, rfl⟩

theorem applyEntries_node (es : List MapEntry) (d : Bytes) (s : State) : (applyEntries es d s).node.sansEmcy = s.node.sansEmcy := by
  induction es generalizing d s with
  | nil => rfl
  | cons e es ih =>
    refine (ih ..).trans ?_
    split
    · rfl
    · exact (tag0Write_node ..).1

theorem applyRpdo_node (s : State) (i : Fin 16) (d : Bytes) : (applyRpdo s i d).node.sansEmcy = s.node.sansEmcy :=
  applyEntries_node ..

theorem rpdoTake_pdoSet (s : State) (i : Fin 16) (port : CanPort) (d : Bytes) : (rpdoTake s i port d).pdoSet = s.pdoSet := by
  have hraise : ∀ c k, (raiseEmcy s c 0xFF k).pdoSet = s.pdoSet := fun c k =>
    congrArg (fun n : Node => { n with rpdos := Vector.replicate 16 none }) (raiseEmcy_node s c 0xFF k)
  unfold rpdoTake
  extract_lets l pad u
  have hu : u.pdoSet = s.pdoSet := ite_view (hraise ..) rfl
  refine ite_view (hraise ..) (ite_view (Eq.trans (b := u.pdoSet) rfl hu) (Eq.trans ?_ hu))
  exact congrArg (fun n : Node => { n with rpdos := Vector.replicate 16 none }) (applyRpdo_node u i d)

/-- The RPDO of this port and CAN-ID. -/
def rpdoHears (canId : BitVec 11) (port : CanPort) (t : State) (i : Fin 16) : Bool :=
  !bitOf (rpdoCob t.node i) 31 && decide (rpdoCob t.node i % 0x800 = canId.toNat) && decide (rpdoPort t.node i = port)

theorem rpdoHears_congr {s t : State} (h : t.pdoSet = s.pdoSet) (canId : BitVec 11) (port : CanPort) (i : Fin 16) :
    rpdoHears canId port t i = rpdoHears canId port s i := by
  have hc : rpdoCob t.node i = rpdoCob s.node i := (congrArg (fun n : Node => rpdoCob n i) h :)
  have hp : rpdoPort t.node i = rpdoPort s.node i := (congrArg (fun n : Node => rpdoPort n i) h :)
  rw [rpdoHears, rpdoHears, hc, hp]

theorem rpdoHears_false {s : State} {canId : BitVec 11} {port : CanPort} {i : Fin 16}
    (h : bitOf (rpdoCob s.node i) 31 = true ∨ rpdoCob s.node i % 0x800 ≠ canId.toNat ∨ rpdoPort s.node i ≠ port) :
    rpdoHears canId port s i = false := by
  rw [rpdoHears]
  rcases h with h | h | h <;> simp [h]

theorem execRpdoReceive_heard {s : State} {port : CanPort} {data : Bytes} (canId : BitVec 11) (hm : mgcUp s = true)
    (hn : s.node.nmt = .operational) (hs : nodeSilent s.node = false) (hb : s.node.busOff.get port = false)
    (hl : s.node.fd.get port = true ∨ data.length ≤ 8) : execRpdoReceive port canId data s =
      .next ((List.finRange 16).foldl (fun t i => if rpdoHears canId port t i then rpdoTake t i port data else t) s) :=
  if_pos (by simp [hm, hn, hs, hb, hl])

theorem le_fdPad {n : Nat} (h : n ≤ 64) : n ≤ fdPad n := by
  unfold fdPad
  split_ifs <;> omega

theorem rpdoTake_full {s : State} {i : Fin 16} {port : CanPort} {data : Bytes}
    (hl : data.length = mapLen (mapping s.node (0x1600 + i.val))) (h64 : mapLen (mapping s.node (0x1600 + i.val)) ≤ 64) :
    rpdoTake s i port data = if rpdoType s.node i ≤ 240 then { s with node.rpdos := vput s.node.rpdos i (some data) }
      else applyRpdo s i data := by
  have hpad := le_fdPad h64
  have hp : ¬ data.length > (if s.node.fd.get port then fdPad (mapLen (mapping s.node (0x1600 + i.val)))
      else mapLen (mapping s.node (0x1600 + i.val))) := by
    split <;> omega
  unfold rpdoTake
  dsimp only
  rw [if_neg (by omega), if_neg hp]

/-! ### SYNC -/

theorem applyEntries_rpdos (es : List MapEntry) (d : Bytes) (s : State) : (applyEntries es d s).node.rpdos = s.node.rpdos := by
  induction es generalizing d s with
  | nil => rfl
  | cons e es ih =>
    refine (ih ..).trans ?_
    split
    · rfl
    · exact (tag0Write_node ..).2

theorem rpdoSync_node (s : State) (i : Fin 16) :
    (rpdoSync s i).node.rpdos = vput s.node.rpdos i none ∧ (rpdoSync s i).node.nmt = s.node.nmt := by
  unfold rpdoSync
  split
  · exact ⟨applyEntries_rpdos .., (congrArg (fun n : Node => n.nmt) (applyRpdo_node _ i _) :)⟩
  · next h => exact ⟨by rw [← h, vput_self], rfl⟩

theorem rpdoSyncs_node (l : List (Fin 16)) (s : State) : (l.foldl rpdoSync s).node.nmt = s.node.nmt ∧
    ∀ j : Fin 16, (l.foldl rpdoSync s).node.rpdos.get j = if j ∈ l then none else s.node.rpdos.get j := by
  induction l generalizing s with
  | nil => exact ⟨rfl, fun j => rfl⟩
  | cons i l ih =>
    obtain ⟨hr, hn⟩ := rpdoSync_node s i
    obtain ⟨hn', hr'⟩ := ih (rpdoSync s i)
    refine ⟨hn'.trans hn, fun j => ?_⟩
    rw [List.foldl_cons, hr', hr, vput_get]
    by_cases hj : j = i <;> by_cases hl : j ∈ l <;> simp [hj, hl]

/-- What a TPDO sent leaves: the state of NMT and the PDOs that wait. -/
theorem sendTpdo_nmt (s : State) (i : Fin 16) : (sendTpdo s i).node.nmt = s.node.nmt := by
  unfold sendTpdo
  extract_lets n es data port fd t
  have ht : t.node.nmt = s.node.nmt := rfl
  refine ite_view (V := fun u => u.node.nmt) (Eq.trans (b := t.node.nmt) ?_ ht) ht
  unfold sendCan
  exact ite_view (V := fun u => u.node.nmt) rfl rfl

theorem tpdoSync_nmt (counter : Nat) (s : State) (i : Fin 16) : (tpdoSync counter s i).node.nmt = s.node.nmt := by
  unfold tpdoSync
  extract_lets n ty r start k t
  refine ite_view (V := fun u => u.node.nmt) rfl (ite_view (V := fun u => u.node.nmt) ?_ ?_)
  · exact ite_view (V := fun u => u.node.nmt) (sendTpdo_nmt ..) rfl
  · refine ite_view (V := fun u => u.node.nmt) (ite_view (V := fun u => u.node.nmt) ?_ rfl) rfl
    exact ite_view (V := fun u => u.node.nmt) (sendTpdo_nmt ..) rfl

/-- A SYNC at a node none of whose PDOs is valid or waits. -/
theorem sync_idle {s : State} (counter : Nat) (h : ∀ i : Fin 16, bitOf (tpdoCob s.node i) 31 = true ∧ s.node.rpdos.get i = none) :
    (List.finRange 16).foldl rpdoSync ((List.finRange 16).foldl (tpdoSync counter) s) = s := by
  have ht : ∀ l : List (Fin 16), l.foldl (tpdoSync counter) s = s := fun l => by
    induction l with
    | nil => rfl
    | cons i l ih => rw [List.foldl_cons, show tpdoSync counter s i = s from if_pos (h i).1, ih]
  have hr : ∀ l : List (Fin 16), l.foldl rpdoSync s = s := fun l => by
    induction l with
    | nil => rfl
    | cons i l ih =>
      have hi : rpdoSync s i = s := by
        unfold rpdoSync
        rw [(h i).2]
      rw [List.foldl_cons, hi, ih]
  rw [ht, hr]

/-! ### Transmitted PDOs -/

/-- What leaves when a TPDO is sent. -/
def tpdoFrame (s : State) (i : Fin 16) : List Output :=
  let d := (mapping s.node (0x1A00 + i.val)).flatMap (mappedValue s)
  let port := tpdoPort s.node i
  let fd := s.node.fd.get port
  if s.node.busOff.get port = false ∧ (fd = true ∨ d.length ≤ 8) then
    [.can port (tpdoCob s.node i % 0x800) (if fd then padTo (fdPad d.length) d else d)] else []

theorem sendTpdo_spec {s : State} (i : Fin 16) (hn : s.node.nmt = .operational) (hs : nodeSilent s.node = false)
    (hc : bitOf (tpdoCob s.node i) 31 = false) : (sendTpdo s i).out = s.out ++ tpdoFrame s i ∧
      (sendTpdo s i).node = { s.node with tpdos := vmod s.node.tpdos i fun r => { r with changed := false } } := by
  unfold sendTpdo
  extract_lets n es data port fd t
  have hf : tpdoFrame s i = if s.node.busOff.get port = false ∧ (fd = true ∨ data.length ≤ 8) then
    [.can port (tpdoCob s.node i % 0x800) (if fd then padTo (fdPad data.length) data else data)] else [] := rfl
  rw [hf]
  generalize (if fd then padTo (fdPad data.length) data else data) = b
  have hsil : nodeSilent t.node = false := hs
  have hnode : t.node = { s.node with tpdos := vmod s.node.tpdos i fun r => { r with changed := false } } := rfl
  have hout : t.out = s.out := rfl
  have hoff : t.node.busOff = s.node.busOff := rfl
  have hn' : n.nmt = .operational := hn
  have hc' : (!bitOf (tpdoCob n i) 31) = true := by rw [Bool.not_eq_true']; exact hc
  have hn0 : n = s.node := rfl
  clear_value data fd port t n
  subst hn0
  by_cases hl : fd = true ∨ data.length ≤ 8
  · have hcond := And.intro hn' (And.intro hc' hl)
    rw [if_pos hcond]
    by_cases hb : s.node.busOff.get port = false
    · have hsend : ∀ c b, sendCan t port c b = emit t (.can port c b) := fun c b => if_neg (by simp [hsil, hoff, hb])
      rw [if_pos (And.intro hb hl), hsend, ← hout]
      exact ⟨rfl, hnode⟩
    · have hsend : ∀ c b, sendCan t port c b = t := fun c b => if_pos (by simp [hsil, hoff, hb])
      rw [if_neg fun h => hb (And.left h), hsend]
      exact ⟨hout.trans (List.append_nil _).symm, hnode⟩
  · rw [if_neg fun h : s.node.nmt = .operational ∧ _ ∧ _ => hl h.2.2, if_neg fun h : _ ∧ _ => hl h.2]
    exact ⟨hout.trans (List.append_nil _).symm, hnode⟩

/-- A TPDO whose event is seen, its inhibit time not running. -/
theorem tpdoChanged_sent {s : State} (i : Fin 16) (hn : s.node.nmt = .operational) (hs : nodeSilent s.node = false)
    (hc : bitOf (tpdoCob s.node i) 31 = false) (hty : 254 ≤ tpdoType s.node i) (hi : (s.node.tpdos.get i).inhibited = false) :
    ((tpdoChanged s i).node.tpdos.get i).changed = false ∧
    ((tpdoChanged s i).node.tpdos.get i).inhibited = decide (odNat s.node (0x1800 + i.val) 3 ≠ 0) ∧
    (tpdoChanged s i).out = s.out ++ tpdoFrame s i := by
  generalize hv : (vmod s.node.tpdos i fun r => { r with changed := true }) = v
  obtain ⟨hout, hnode⟩ := sendTpdo_spec (s := { s with node.tpdos := v }) i hn hs hc
  have he : tpdoChanged s i = { sendTpdo { s with node.tpdos := v } i with
      node.tpdos := vmod (sendTpdo { s with node.tpdos := v } i).node.tpdos i fun r =>
        { r with inhibited := decide (odNat (sendTpdo { s with node.tpdos := v } i).node (0x1800 + i.val) 3 ≠ 0) } } := by
    have hvi : (v.get i).inhibited = false := by rw [← hv, vmod_get_same]; exact hi
    rw [← hv]
    exact if_pos ⟨hty, by rw [hv]; exact (Bool.not_eq_true' _).mpr hvi⟩
  rw [he]
  dsimp only
  rw [vmod_get_same, hnode]
  refine ⟨?_, rfl, hout⟩
  dsimp only
  rw [vmod_get_same]

/-- A TPDO whose event is seen while its inhibit time runs. -/
theorem tpdoChanged_held {s : State} (i : Fin 16) (hi : (s.node.tpdos.get i).inhibited = true) :
    ((tpdoChanged s i).node.tpdos.get i).changed = true ∧ (tpdoChanged s i).out = s.out := by
  have he : tpdoChanged s i = { s with node.tpdos := vmod s.node.tpdos i fun r => { r with changed := true } } :=
    if_neg (by simp [hi])
  rw [he]
  exact ⟨by rw [vmod_get_same], rfl⟩

/-- Settles O26, by the one RPDO that a frame finds, the walk of a SYNC, and the frame that a TPDO makes. -/
theorem pdoCommands : Obligations.PdoCommands := by
  intro s hm hn hs sent
  refine ⟨fun port canId data hfd hl => ?_, fun port canId data hb hl => ⟨fun h => ?_, fun i h31 hid hp ho => ?_⟩,
    fun canId counter hid => ?_, fun i hty h5 hc => ?_, fun i hi hch => ?_, fun i hi hch hty hc => ?_⟩
  · exact if_neg (by simp [hfd, Nat.not_le.2 hl])
  · exact (execRpdoReceive_heard canId hm hn hs hb hl).trans
      (congrArg Host.Outcome.next (foldl_none fun i _ => rpdoHears_false (h i)))
  · intro l h64
    have he : exec (.rpdoReceive port canId data) s = .next (rpdoTake s i port data) :=
      (execRpdoReceive_heard canId hm hn hs hb hl).trans (congrArg Host.Outcome.next (foldl_one
        (c := rpdoHears canId port) (g := fun t i => rpdoTake t i port data) (by simp [rpdoHears, h31, hid, hp]) (fun j hj => rpdoHears_false (ho j hj))
        (fun j => rpdoHears_congr (rpdoTake_pdoSet ..) ..) (List.nodup_finRange 16) (List.mem_finRange i)))
    refine ⟨fun hlen => he.trans (congrArg Host.Outcome.next (if_pos hlen)), fun hlen hty => ?_, fun hlen hty => ?_⟩
    · rw [he, rpdoTake_full hlen h64, if_pos hty]
    · rw [he, rpdoTake_full hlen h64, if_neg (by omega)]
  · refine Gives.intro (if_pos (by simp [hm, hn, hs, hid])) ?_
    obtain ⟨hnmt, hr⟩ := rpdoSyncs_node (List.finRange 16) ((List.finRange 16).foldl (tpdoSync counter) s)
    refine ⟨fun i => (hr i).trans (if_pos (List.mem_finRange i)), hnmt.trans ?_, sync_idle counter⟩
    exact (foldl_view (V := fun u => u.node.nmt) (tpdoSync_nmt counter) ..).trans hn
  · refine Gives.intro (if_pos (by simp [hm, hn, hty, h5, hc])) ⟨fun hi => ?_, fun hi => tpdoChanged_sent i hn hs hc hty hi⟩
    exact tpdoChanged_held i hi
  · refine (if_pos (by simp [hm, hi])).trans (congrArg Host.Outcome.next (if_neg (by simp [hch])))
  · refine Gives.intro ((if_pos (by simp [hm, hi])).trans (congrArg Host.Outcome.next (if_pos (by simp [hch])))) ?_
    exact tpdoChanged_sent (s := { s with node.tpdos := vput s.node.tpdos i { s.node.tpdos.get i with inhibited := false } })
      i hn hs hc hty (by rw [vput_get_same])

end Sys2Proof.Machine

end

section

namespace Sys2Proof.Machine

/-! ## Perturbations (O31) -/

/-- An open access stays open while EMCYs are raised and end. -/
theorem open_of_emcy {t u : State} {w : Session} (h : u.open_ w) (hn : t.node.sansEmcy = u.node.sansEmcy) : t.open_ w := by
  have hc : t.node.chans = u.node.chans := (congrArg Node.chans hn :)
  have hh : t.node.hmb = u.node.hmb := (congrArg Node.hmb hn :)
  cases w with
  | host => exact (congrArg Hmb.busy hh).trans h
  | can p c =>
    obtain ⟨hs, x, hx⟩ := h
    have hserved : sessServed t (.can p c) = sessServed u (.can p c) :=
      (congrArg (fun n : Node => nmtServes n && !nodeSilent n && !n.busOff.get p) hn :)
    exact ⟨hserved.trans hs, x, by rw [hc]; exact hx⟩

/-- What raising an EMCY leaves: what has left, Cleat A and the rest of the node. -/
structure EmcyOnly (s t : State) : Prop where
  node : t.node.sansEmcy = s.node.sansEmcy
  out : t.out = s.out
  cleatA : t.cleatA = s.cleatA

theorem clearStanding_emcyOnly (s : State) (code key : Nat) : EmcyOnly s (clearStanding s code key) :=
  ⟨clearStanding_node .., clearStanding_out .., clearStanding_cleatA ..⟩

theorem raiseEmcy_emcyOnly (s : State) (code : Nat) (unit : Byte) (d : Bytes) : EmcyOnly s (raiseEmcy s code unit d) :=
  ⟨raiseEmcy_node .., raiseEmcy_out .., raiseEmcy_cleatA ..⟩

/-- The end of a kind: the others stay, and 0xFF60 ends with the last. -/
theorem pertEnd_spec (s : State) (k : Fin 8) : EmcyOnly s (pertEnd s k) ∧
    (s.pert.active.get k = true → (∀ j : Fin 8, (pertEnd s k).pert.active.get j = false) →
      stands (pertEnd s k) 0xFF60 0 = false) := by
  by_cases hk : s.pert.active.get k = true
  · unfold pertEnd
    rw [if_pos hk]
    extract_lets _ u
    have hu : EmcyOnly s u := ⟨rfl, rfl, rfl⟩
    clear_value u
    split
    · next hany =>
      refine ⟨hu, fun _ hno => ?_⟩
      obtain ⟨x, hx, hxt⟩ := List.any_eq_true.1 hany
      obtain ⟨i, hi, rfl⟩ := Vector.mem_iff_getElem.1 (Vector.mem_toList_iff.1 hx)
      exact absurd ((hno ⟨i, hi⟩).symm.trans hxt) Bool.false_ne_true
    · obtain ⟨h1, h2, h3⟩ := clearStanding_emcyOnly u 0xFF60 0
      exact ⟨⟨h1.trans hu.node, h2.trans hu.out, h3.trans hu.cleatA⟩, fun _ _ => stands_clearStanding ..⟩
  · have he : pertEnd s k = s := if_neg hk
    rw [he]
    exact ⟨⟨rfl, rfl, rfl⟩, fun h => absurd h hk⟩

theorem pertCode (k : Fin 8) : BitVec.ofNat 32 (0xFF60 % 65536 + 65536 * (0x80 : Byte).toNat +
    2 ^ 24 * (byteAt [BitVec.ofNat 8 k.val] 0).toNat) = BitVec.ofNat 32 (0x80FF60 + 2 ^ 24 * k.val) := by
  revert k
  decide

/-- A kind that starts: its EMCY first, and 0xFF60 stands. -/
theorem pertStart_spec (s : State) (k : Fin 8) (d : Bytes) : EmcyOnly s (pertStart s k d) ∧
    (pertStart s k d).pert.active = vput s.pert.active k true ∧ (pertStart s k d).pert.params = vput s.pert.params k d ∧
    stands (pertStart s k d) 0xFF60 0 = true ∧
    (pertStart s k d).node.history.head? = some (BitVec.ofNat 32 (0x80FF60 + 2 ^ 24 * k.val)) := by
  unfold pertStart
  extract_lets u _ v
  have hpert : u.pert = s.pert := by
    simp only [u]
    split
    · exact raiseEmcy_pert ..
    · exact raiseStanding_pert ..
  have hu : EmcyOnly s u ∧ stands u 0xFF60 0 = true ∧
      u.node.history.head? = some (BitVec.ofNat 32 (0x80FF60 + 2 ^ 24 * k.val)) := by
    have hraise : ∀ z : State, (raiseEmcy z 0xFF60 0x80 [BitVec.ofNat 8 k.val]).node.history.head? =
        some (BitVec.ofNat 32 (0x80FF60 + 2 ^ 24 * k.val)) := fun z => by
      rw [raiseEmcy_history]
      exact congrArg some (pertCode k)
    simp only [u]
    split
    · next h => exact ⟨raiseEmcy_emcyOnly .., (stands_congr (congrArg Health.standing (raiseEmcy_health ..)) ..).trans h, hraise s⟩
    · next h =>
      refine ⟨⟨raiseStanding_node .., raiseStanding_out .., raiseStanding_cleatA ..⟩, stands_raiseStanding _ (by decide) .., ?_⟩
      rw [raiseStanding, if_neg h]
      exact hraise _
  have hv : v.pert.active = s.pert.active ∧ v.pert.params = s.pert.params ∧ v.node = u.node ∧ v.out = u.out ∧
      v.cleatA = u.cleatA ∧ v.health = u.health := by
    simp only [v]
    split
    · exact ⟨(congrArg Pert.active hpert :), (congrArg Pert.params hpert :), rfl, rfl, rfl, rfl⟩
    · exact ⟨(congrArg Pert.active hpert :), (congrArg Pert.params hpert :), rfl, rfl, rfl, rfl⟩
  obtain ⟨hvact, hvpar, hvn, hvo, hvc, hvh⟩ := hv
  obtain ⟨⟨hn, ho, hc⟩, hst, hhist⟩ := hu
  clear_value v
  refine ⟨⟨?_, hvo.trans ho, hvc.trans hc⟩, congrArg (vput · k true) hvact, congrArg (vput · k d) hvpar, ?_, ?_⟩
  · exact (congrArg Node.sansEmcy hvn).trans hn
  · exact (stands_congr (congrArg Health.standing hvh) ..).trans hst
  · exact (congrArg (fun n : Node => n.history.head?) hvn).trans hhist

theorem pertAnswer_of {z u : State} {w : Session} {k : Fin 8} {d : Bytes} {c : Nat} (h : pertWrite (isService z.node w) k d z = (c, u)) :
    pertAnswer w k d z = answerSess u w (0x5F10 + k.val) 0 (codeAnswer c) := by
  rw [pertAnswer, h]

theorem pertMay_congr {s z : State} (h : z.sansAsk = s.sansAsk) (svc : Bool) : pertMay z svc = pertMay s svc :=
  (congrArg (fun u : State => pertMay u svc) h :)

/-- What an access done leaves of a change that only raises or ends EMCYs. -/
theorem answered_of_emcyOnly {s u : State} {w : Session} {i : Nat} (h : s.mayAsk w) (hu : EmcyOnly (s.asked w i 0) u) (a : Answer) :
    s.answeredTo (answerSess u w i 0 a) w i 0 a :=
  answerSess_answered (open_of_emcy (asked_open h i 0) hu.node) (hu.out.trans (asked_out ..)) (hu.cleatA.trans (asked_cleatA ..)) ..

/-- Settles O31, by the branches of the write and what the start and the end of a kind leave. -/
theorem perturbations : Obligations.Perturbations := by
  intro w k d s hm hk ended
  have hend : ∀ z : State, z.pert = s.pert → ended (pertEnd z k) := fun z hz => by
    refine ⟨?_, fun j hj => ?_, ?_⟩
    · rw [pertEnd_active]; simp
    · rw [pertEnd_active, hz]; simp [hj]
    · rw [← hz]; exact (pertEnd_spec z k).2
  have hz : (s.asked w (0x5F10 + k.val) 0).pert = s.pert := (congrArg (fun u : State => u.pert) (asked_ask s w (0x5F10 + k.val) 0) :)
  have hsvc : isService (s.asked w (0x5F10 + k.val) 0).node w = isService s.node w := isService_asked ..
  have hact : (byteAt d 0).getLsbD 0 = true → s.mayAsk w → ∀ c u,
      pertWrite (isService s.node w) k d (s.asked w (0x5F10 + k.val) 0) = (c, u) →
      exec (.pertActivate w k d) s = .next (answerSess u w (0x5F10 + k.val) 0 (codeAnswer c)) := fun hen ha c u h =>
    (if_pos ⟨hk, hen⟩).trans ((openAccess_of_mayAsk ha ..).trans (congrArg Host.Outcome.next (pertAnswer_of (by rw [hsvc, h]))))
  have hdis : (byteAt d 0).getLsbD 0 = false → s.mayAsk w → ∀ c u,
      pertWrite (isService s.node w) k d (s.asked w (0x5F10 + k.val) 0) = (c, u) →
      exec (.pertDisable w k d) s = .next (answerSess u w (0x5F10 + k.val) 0 (codeAnswer c)) := fun hen ha c u h =>
    (if_pos ⟨hk, by rw [hen]; rfl⟩).trans ((openAccess_of_mayAsk ha ..).trans (congrArg Host.Outcome.next (pertAnswer_of (by rw [hsvc, h]))))
  refine ⟨fun ha hl => ⟨fun hen => ⟨fun hok => ?_, fun hok hmay => ?_, fun hok hmay => ?_⟩, fun hen hw => ?_,
    fun h0 h1 hw => ?_⟩, Gives.intro (if_pos hm) (hend s rfl)⟩
  · exact hact hen ha abRange _ ((if_neg (by simp [hl])).trans ((if_pos hen).trans (if_pos (by simp [hok]))))
  · exact hact hen ha abState _ ((if_neg (by simp [hl])).trans ((if_pos hen).trans ((if_neg (by simp [hok])).trans
      (if_pos (by rw [pertMay_congr (asked_ask ..), hmay]; rfl)))))
  · have hw := hact hen ha 0 _ ((if_neg (by simp [hl])).trans ((if_pos hen).trans ((if_neg (by simp [hok])).trans
      (if_neg (by rw [pertMay_congr (asked_ask ..), hmay]; decide)))))
    obtain ⟨hu, hact', hpar, hst, hhist⟩ := pertStart_spec (s.asked w (0x5F10 + k.val) 0) k d
    have ht := answerSess_told (pertStart (s.asked w (0x5F10 + k.val) 0) k d) w (0x5F10 + k.val) 0 (codeAnswer 0)
    refine Gives.intro hw ⟨?_, ?_, ?_, ?_, answered_of_emcyOnly ha hu _⟩
    · exact (congrArg (fun u : State => u.pert.active) ht :).trans (hact'.trans (by rw [hz]))
    · exact (congrArg (fun u : State => u.pert.params) ht :).trans (hpar.trans (by rw [hz]))
    · exact (stands_congr (congrArg (fun u : State => u.health.standing) ht :) ..).trans hst
    · exact (congrArg (fun u : State => u.node.history.head?) ht :).trans hhist
  · exact hdis hen ha abRank _ ((if_neg (by simp [hl])).trans ((if_neg (by rw [hen]; decide)).trans (if_pos (by simp [hw]))))
  · have hen : (byteAt d 0).getLsbD 0 = false := by rw [h0]; rfl
    have hg := hdis hen ha 0 _ ((if_neg (by simp [hl])).trans ((if_neg (by rw [hen]; decide)).trans ((if_neg (by simp [hw])).trans
      (if_neg (by simp [h0, h1])))))
    obtain ⟨hu, -⟩ := pertEnd_spec (s.asked w (0x5F10 + k.val) 0) k
    obtain ⟨he1, he2, he3⟩ := hend _ hz
    generalize pertEnd (s.asked w (0x5F10 + k.val) 0) k = v at hg hu he1 he2 he3
    have ht := answerSess_told { v with pert.params := vput v.pert.params k d } w (0x5F10 + k.val) 0 (codeAnswer 0)
    have hact' := (congrArg (fun u : State => u.pert.active) ht :)
    refine Gives.intro hg ⟨⟨?_, fun j hj => ?_, fun ho hno => ?_⟩, ?_, ?_⟩
    · exact (congrArg (·.get k) hact').trans he1
    · exact (congrArg (·.get j) hact').trans (he2 j hj)
    · exact (stands_congr (congrArg (fun u : State => u.health.standing) ht :) ..).trans
        (he3 ho fun j => (congrArg (·.get j) hact').symm.trans (hno j))
    · exact (congrArg (fun u : State => u.pert.params.get k) ht :).trans (vput_get_same ..)
    · exact answered_of_emcyOnly (u := { v with pert.params := vput v.pert.params k d }) ha ⟨hu.node, hu.out, hu.cleatA⟩ _

end Sys2Proof.Machine

end

section

namespace Sys2Proof.Machine

/-! ## Dictionary requests and segmented transfers (O28) -/

/-- What the mark of those who asked leaves of a two-wire port. -/
structure TwAsk (g : TwPort → TwPort) : Prop where
  keeps : ∀ p, g p = { p with queue := (g p).queue, cur := (g p).cur }

theorem vector_get_map {α β : Type} {n : Nat} (f : α → β) (v : Vector α n) (i : Fin n) : (v.map f).get i = f (v.get i) :=
  Vector.getElem_map ..

/-! ### Values, read while an access stands open -/

section
variable (s : State) (sessions : List Sess) (chans : Vector (Option Xfer) 2) (hmb : Hmb) (reqs : List DictReq)
  (routed : List (Session × ChipId × Bool)) (g : TwPort → TwPort)

/-- The node of a state in which an access stands open. -/
def askNode : Node := { s.node with sessions := sessions, chans := chans, hmb := hmb, reqs := reqs, routed := routed }

theorem readUnits_ask (hg : TwAsk g) (n : Node) (i k : Nat) :
    readUnits { s with node := n, tw := s.tw.map g } i k = readUnits s i k := by
  unfold readUnits
  dsimp only
  rw [vector_get_map, hg.keeps]
  rfl

theorem readComm_ask (v : Vector TwPort 6) (i k : Nat) :
    readComm { s with node := askNode s sessions chans hmb reqs routed, tw := v } i k = readComm s i k := rfl

theorem readDevice_ask (v : Vector TwPort 6) (i k : Nat) :
    readDevice { s with node := askNode s sessions chans hmb reqs routed, tw := v } i k = readDevice s i k := rfl

theorem readHealth_ask (v : Vector TwPort 6) (i k : Nat) :
    readHealth { s with node := askNode s sessions chans hmb reqs routed, tw := v } i k = readHealth s i k := rfl

theorem readValue_ask (hg : TwAsk g) (i k : Nat) :
    readValue { s with node := askNode s sessions chans hmb reqs routed, tw := s.tw.map g } i k = readValue s i k := by
  unfold readValue
  rw [readUnits_ask s g hg, readComm_ask, readDevice_ask, readHealth_ask]

end

theorem forget_twAsk (goes : Session → Bool) : TwAsk fun p => { p with
    queue := p.queue.map fun x => x.leave goes, cur := p.cur.map fun c => { c with x := c.x.leave goes } } :=
  ⟨fun _ => rfl⟩

theorem readValue_asked (s : State) (w : Session) (index sub i k : Nat) :
    readValue (s.asked w index sub) i k = readValue s i k := by
  obtain ⟨l, hl⟩ : ∃ l, (openSess s.node w).getD s.node = { s.node with sessions := l } := by
    cases h : openSess s.node w with
    | none => exact ⟨_, rfl⟩
    | some n => exact ⟨_, openSess_rest h⟩
  unfold State.asked
  rw [hl]
  cases w with
  | host =>
    have hid : TwAsk id := ⟨fun _ => rfl⟩
    have h := readValue_ask s l s.node.chans { s.node.hmb with busy := true } s.node.reqs s.node.routed id hid i k
    rw [Vector.map_id] at h
    exact h
  | can p c => exact readValue_ask s l _ s.node.hmb _ _ _ (forget_twAsk (· == .can p c)) i k

/-! ### Requests -/

theorem clientSess_wide {client : Byte} (hc : client.toNat < 128) : ((client.setWidth 7).setWidth 8 : Byte) = client := by
  refine BitVec.eq_of_toNat_eq ?_
  rw [BitVec.toNat_setWidth, BitVec.toNat_setWidth]
  omega

theorem wholeXfer_request {client : Byte} (hc : client.toNat < 128) (index : W16) (sub : Byte) :
    wholeXfer (client.setWidth 7) index.toNat sub.toNat = { client := client, index := index, sub := sub, down := none, data := [], toggle := false, waiting := true, seg := false } := by
  rw [wholeXfer, clientSess_wide hc, BitVec.ofNat_toNat, BitVec.ofNat_toNat, BitVec.setWidth_eq, BitVec.setWidth_eq]

/-- A read that is served is an access of the session, whose transfer is whole. -/
theorem serveRequest_read {s : State} (port : CanPort) {client : Byte} (index : W16) (sub : Byte) (hc : client.toNat < 128) :
    serveRequest (s.asked (.can port (client.setWidth 7)) index.toNat sub.toNat) port client index sub (.read false) =
      sessAccess (s.asked (.can port (client.setWidth 7)) index.toNat sub.toNat) (.can port (client.setWidth 7)) index.toNat sub.toNat
        none := by
  have hput : (s.asked (.can port (client.setWidth 7)) index.toNat sub.toNat).node.chans =
      vput (s.asked (.can port (client.setWidth 7)) index.toNat sub.toNat).node.chans port
        (some (wholeXfer (client.setWidth 7) index.toNat sub.toNat)) := (vput_vput ..).symm
  rw [wholeXfer_request hc] at hput
  unfold serveRequest runXfer
  generalize s.asked (.can port (client.setWidth 7)) index.toNat sub.toNat = u at hput ⊢
  dsimp only
  rw [← hput]
  rfl

/-- An abort of a client closes its transfer, whatever the transfer was. -/
theorem answerSess_abort {s : State} {p : CanPort} {c : BitVec 7} {y : Xfer} (hy : y.of c = true) (i k n : Nat) :
    answerSess { s with node.chans := vput s.node.chans p (some y) } (.can p c) i k (.abort n) =
      answerOut { s with node.chans := vput s.node.chans p none } (.can p c) i k (.abort n) := by
  simp only [answerSess, vput_get_same, hy, vput_vput]
  rfl

theorem told_abort {s : State} (p : CanPort) (c : BitVec 7) (i k i' k' n : Nat) :
    answerSess (s.asked (.can p c) i k) (.can p c) i' k' (.abort n) =
      answerOut { s.asked (.can p c) i k with node.chans := vput (s.asked (.can p c) i k).node.chans p none } (.can p c) i' k' (.abort n) := by
  have hof : (wholeXfer c i k).of c = true := by simp [Xfer.of, wholeXfer]
  have h := answerSess_abort (s := s.asked (.can p c) i k) (p := p) hof i' k' n
  have hput : vput (s.asked (.can p c) i k).node.chans p (some (wholeXfer c i k)) = (s.asked (.can p c) i k).node.chans := vput_vput ..
  rw [hput] at h
  exact h

theorem asked_otp (s : State) (w : Session) (i k : Nat) : (s.asked w i k).otp = s.otp :=
  (congrArg (fun u : State => u.otp) (asked_ask s w i k) :)

/-- A write whose access is refused ends in the abort alone. -/
theorem serveRequest_refused {s : State} (port : CanPort) {client : Byte} (index : W16) (sub : Byte)
    {d : Bytes} (hd : d.length ≤ 4096) {n : Nat} (hi : index.toNat ≠ 0x2680)
    (h : ∀ t : State, t.otp = s.otp → localAccess t
      { origin := .sess (.can port (client.setWidth 7)), service := isService s.node (.can port (client.setWidth 7)) }
      index.toNat sub.toNat (some d) = .done (.abort n) t) :
    serveRequest (s.asked (.can port (client.setWidth 7)) index.toNat sub.toNat) port client index sub (.write d.length d) =
      s.told (.can port (client.setWidth 7)) index.toNat sub.toNat (.abort n) := by
  have hof : ({ client := client, index := index, sub := sub, down := some d.length, data := [], toggle := false, waiting := true, seg := false } : Xfer).of (client.setWidth 7) = true := by
    simp [Xfer.of]
  have hserve : ∀ u : State, u.otp = s.otp → isService u.node (.can port (client.setWidth 7)) = isService s.node (.can port (client.setWidth 7)) →
      serveRequest u port client index sub (.write d.length d) =
        answerOut { u with node.chans := vput u.node.chans port none } (.can port (client.setWidth 7)) index.toNat sub.toNat (.abort n) := by
    intro u ho hw
    have h' := h { u with node.chans := vput u.node.chans port (some { client := client, index := index, sub := sub, down := some d.length, data := [], toggle := false, waiting := true, seg := false }) } ho
    rw [← hw] at h'
    rw [← answerSess_abort hof]
    unfold serveRequest runXfer
    dsimp only
    rw [if_neg (by omega), if_neg (by omega), if_pos rfl, sessAccess]
    refine (if_neg (by omega)).trans ?_
    refine (congrArg (fun r : DRes => match r with
      | .done a t => afterWrite (answerOrigin t (.sess (.can port (client.setWidth 7))) index.toNat sub.toNat a) index.toNat (some d) a
      | .wait t => t) h').trans ?_
    rfl
  exact (hserve _ (asked_otp ..) (isService_asked ..)).trans (told_abort ..).symm

/-! ### The dictionary's row -/

theorem localAccess_row {t : State} (k : Asker) {i sub : Nat} {op : Option Bytes} {r : OdRow} (hi : i < 0x2800)
    (ho : otpRuns t.otp = false) (hr : findRow i sub = .ok r) : localAccess t k i sub op =
      match op with
      | none => mgcRead t k r i sub
      | some d => mgcWrite t k r i sub d := by
  have hg : ¬ otpGuard t i op = true := by simp [otpGuard, ho]
  unfold localAccess
  rw [if_neg (by omega), if_neg hg, hr] <;> cases op <;> rfl

theorem mgcRead_plain {t : State} (k : Asker) {r : OdRow} {i sub : Nat} (ha : r.acc = .ro ∨ r.acc = .rw) (h0 : i ≠ 0x2010)
    (h1 : i ≠ 0x2012) (h2 : i ≠ 0x2680) : mgcRead t k r i sub = .done (.data (readValue t i sub)) t := by
  have hwo : r.acc ≠ .wo := by rcases ha with h | h <;> simp [h]
  have hc : r.acc ≠ .const := by rcases ha with h | h <;> simp [h]
  unfold mgcRead
  rw [if_neg hwo, if_neg (by omega), if_neg (by omega), if_neg fun h => hc h.2.1]

theorem asked_regs (s : State) (w : Session) (i k : Nat) : (s.asked w i k).node.regs = s.node.regs :=
  (congrArg (fun u : State => u.node.regs) (asked_ask s w i k) :)

/-- A read of a session, answered at once. -/
theorem sessAccess_read {s : State} {w : Session} {i k j l : Nat} {a : Answer}
    (h : localAccess (s.asked w i k) { origin := .sess w, service := isService s.node w } j l none = .done a (s.asked w i k)) :
    sessAccess (s.asked w i k) w j l none = answerSess (s.asked w i k) w j l a := by
  rw [sessAccess, isService_asked, accessFor, h]
  rfl

theorem asked_nextTag (s : State) (w : Session) (i k : Nat) : (s.asked w i k).node.nextTag = s.node.nextTag :=
  (congrArg (fun u : State => u.node.nextTag) (asked_ask s w i k) :)

theorem asked_reqs_length (s : State) (w : Session) (i k : Nat) : (s.asked w i k).node.reqs.length = s.node.reqs.length := by
  have ho : ((openSess s.node w).getD s.node).reqs = s.node.reqs := by
    cases h : openSess s.node w with
    | none => rfl
    | some n => rw [Option.getD_some, openSess_rest h]
  unfold State.asked
  generalize (openSess s.node w).getD s.node = n at ho ⊢
  rw [← ho]
  cases w with
  | host => rfl
  | can p c => exact List.length_map ..

/-- A read of a session that goes to Mast firmware. -/
theorem sessAccess_wait {s t : State} {w : Session} {i k j l : Nat}
    (h : localAccess (s.asked w i k) { origin := .sess w, service := isService s.node w } j l none = .wait t) :
    sessAccess (s.asked w i k) w j l none = t := by
  rw [sessAccess, isService_asked, accessFor, h]

/-- A read of a registered object becomes a DICT_REQ. -/
theorem localAccess_forward {t : State} {k : Asker} {i sub : Nat} {r : Reg} (hlo : 0x2800 ≤ i) (hhi : i ≤ 0x43FF)
    (hcl : mgcClientIndex i = false) (hreg : (t.node.regs.find? fun r => r.index.toNat == i) = some r)
    (hsub : sub ≤ r.highest.toNat) (hacc : r.access ≠ 2) (hlay : layoutRefuses k i sub none = none) (hlen : t.node.reqs.length < 8) :
    ∃ m : Msg, localAccess t k i sub none = .wait (m2cSend { t with
      node.nextTag := tagAfter t.node.nextTag,
      node.reqs := t.node.reqs ++ [{ tag := t.node.nextTag, origin := k.origin, index := BitVec.ofNat 16 i, sub := BitVec.ofNat 8 sub, data := none }] } m) := by
  have hrr : regRefuses r k sub none = none := by
    rw [regRefuses, if_neg (by omega)]
    exact if_neg hacc
  refine ⟨{ kind := 0x81, tag := t.node.nextTag, payload := toLE 2 i ++ [BitVec.ofNat 8 sub, 0] ++ toLE 4 0 ++ [] }, ?_⟩
  rw [localAccess, if_pos ⟨hlo, hhi, hcl⟩, forward, hreg]
  dsimp only
  rw [hrr, hlay]
  exact if_neg (by omega)

/-! ### Segments -/

theorem served_chans (s : State) (v : Vector (Option Xfer) 2) (w : Session) :
    sessServed { s with node.chans := v } w = sessServed s w := by cases w <;> rfl

theorem answerOut_served {s : State} {p : CanPort} {client : Byte} (hs : sessServed s (.can p (client.setWidth 7)) = true)
    {v : Vector (Option Xfer) 2} {i k : Nat} {a : Answer} : answerOut { s with node.chans := v } (clientSess p client) i k a =
      emit { s with node.chans := v } (.dict (.can p (client.setWidth 7)) a) :=
  if_pos ((served_chans ..).trans hs)

section
variable {s : State} {port : CanPort} {client : Byte} {x : Xfer}

theorem execSdoSegment_none (toggle : Bool) (data : Bytes) (hm : mgcUp s = true) (hc : client.toNat < 128)
    (hs : sessServed s (.can port (client.setWidth 7)) = true) (hx : s.node.chans.get port = none) :
    exec (.sdoSegment port client toggle data) s = .next (answerOut s (clientSess port client) 0 0 (.abort abUnknown)) := by
  rw [exec, execSdoSegment, hx]
  exact if_pos (by simp [hm, hc, clientSess, hs])

/-- A segment of the open transfer is taken. -/
theorem execSdoSegment_open (toggle : Bool) (data : Bytes) (hm : mgcUp s = true) (hc : client.toNat < 128)
    (hs : sessServed s (.can port (client.setWidth 7)) = true) (hx : s.node.chans.get port = some x) (hcl : x.client = client)
    (hseg : x.seg = true) (hw : x.waiting = false) :
    exec (.sdoSegment port client toggle data) s = .next (takeSegment s port x toggle data) := by
  rw [exec, execSdoSegment, hx]
  exact (if_pos (by simp [hm, hc, clientSess, hs])).trans (if_pos ⟨hcl, hseg, hw⟩)

theorem execSdoSegmentTimeout_open (hm : mgcUp s = true) (hx : s.node.chans.get port = some x) (hseg : x.seg = true)
    (hw : x.waiting = false) : exec (.sdoSegmentTimeout port) s =
      .next (answerOut { s with node.chans := vput s.node.chans port none } (clientSess port x.client)
        x.index.toNat x.sub.toNat (.abort abTimeout)) := by
  rw [exec, execSdoSegmentTimeout, hx]
  exact if_pos (by simp [hm, hseg, hw])

theorem takeSegment_toggle {toggle : Bool} {data : Bytes} (hfd : s.node.fd.get port = false) (ht : toggle ≠ x.toggle) :
    takeSegment s port x toggle data = answerOut { s with node.chans := vput s.node.chans port none } (clientSess port x.client)
      x.index.toNat x.sub.toNat (.abort abToggle) :=
  if_pos (by simp [hfd, ht])

/-- A segment whose toggle bit is right, or is not looked at, goes on as its transfer does. -/
theorem takeSegment_up {toggle : Bool} {data : Bytes} (h : s.node.fd.get port = true ∨ toggle = x.toggle) (hd : x.down = none) :
    takeSegment s port x toggle data = answerOut { s with
      node.chans := vput s.node.chans port (if (x.data.drop (segBytes (s.node.fd.get port))).isEmpty then none
        else some { x with data := x.data.drop (segBytes (s.node.fd.get port)), toggle := !x.toggle }) }
      (clientSess port x.client) x.index.toNat x.sub.toNat (.data (x.data.take (segBytes (s.node.fd.get port)))) := by
  unfold takeSegment
  dsimp only
  rw [if_neg (by rcases h with h | h <;> simp [h]), hd]

theorem takeSegment_down {toggle : Bool} {data : Bytes} {total : Nat} (h : s.node.fd.get port = true ∨ toggle = x.toggle)
    (hd : x.down = some total) :
    (total < (x.data ++ data).length → takeSegment s port x toggle data =
      answerOut { s with node.chans := vput s.node.chans port none } (clientSess port x.client) x.index.toNat x.sub.toNat
        (.abort abLength)) ∧
    ((x.data ++ data).length < total → takeSegment s port x toggle data =
      answerOut { s with node.chans := vput s.node.chans port (some { x with data := x.data ++ data, toggle := !x.toggle }) }
        (clientSess port x.client) x.index.toNat x.sub.toNat (.data [])) ∧
    ((x.data ++ data).length = total → takeSegment s port x toggle data = runXfer s port x (some (x.data ++ data))) := by
  unfold takeSegment
  dsimp only
  rw [if_neg (by rcases h with h | h <;> simp [h]), hd]
  exact ⟨fun hl => if_pos hl, fun hl => (if_neg (by omega)).trans (if_neg (by omega)),
    fun hl => (if_neg (by omega)).trans (if_pos hl)⟩

end

/-- Settles O28: requests by the row or the registration that they find, segments by the transfer that is open. -/
theorem sdoTransfers : Obligations.SdoTransfers := by
  refine ⟨fun port dst client index sub s => ?_, fun port client toggle data s hm hc => ?_⟩
  · intro w i ask told
    have hask : ∀ op, dst ≠ 0 → dst.toNat = s.node.nodeId.toNat → client.toNat < 128 → exec (ask op) s =
        openAccess s w i sub.toNat fun s => serveRequest s port client index sub op := fun op h0 hd hc =>
      if_neg (by rintro (h | h | h); exacts [h0 h, h hd, by omega])
    refine ⟨fun op h => ?_, fun h0 hd hc => ⟨fun op n x hm hs hn hx hof => ?_, fun ha => ?_⟩⟩
    · exact if_pos (h.imp id .inl)
    · have hserved : sessServed { s with node := n } w = sessServed s w := by
        rw [openSess_rest hn]
        rfl
      have hfree : ¬ accessFree { s with node := n } w = true := by
        have hchans : n.chans = s.node.chans := by rw [openSess_rest hn]
        simp [accessFree, w, hchans, hx, hof]
      rw [hask op h0 hd hc, openAccess, if_neg (by simp [hm, hs]), hn]
      exact (if_neg hfree).trans (congrArg Host.Outcome.next (if_pos (hserved.trans hs)))
    · have hask' : ∀ op, exec (ask op) s = .next (serveRequest (s.asked w i sub.toNat) port client index sub op) := fun op =>
        (hask op h0 hd hc).trans (openAccess_of_mayAsk ha ..)
      have hread : ∀ r : State, sessAccess (s.asked w i sub.toNat) w i sub.toNat none = r → exec (ask (.read false)) s = .next r :=
        fun r h => (hask' _).trans (congrArg Host.Outcome.next ((serveRequest_read port index sub hc).trans h))
      refine ⟨hask' _, fun r hi ho hr hacc h1 h2 h3 => ?_, fun r d hi ho hr h3 hd => ⟨fun hacc => ?_, fun hacc hsvc hw => ?_,
        fun hacc hsvc hl hdl => ?_⟩, fun hlo hhi hcl hreg => ?_, fun r hlo hhi hcl hreg hsub hacc hlay hlen => ?_⟩
      · exact hread _ (sessAccess_read ((localAccess_row _ hi (by rw [asked_otp, ho]) hr).trans
          ((mgcRead_plain _ hacc h1 h2 h3).trans (by rw [readValue_asked]))))
      · refine (hask' _).trans (congrArg Host.Outcome.next (serveRequest_refused port index sub hd h3 fun t ht => ?_))
        rw [localAccess_row _ hi (by rw [ht, ho]) hr]
        exact if_pos (.inr hacc)
      · refine (hask' _).trans (congrArg Host.Outcome.next (serveRequest_refused port index sub hd h3 fun t ht => ?_))
        rw [localAccess_row _ hi (by rw [ht, ho]) hr]
        exact (if_neg (by rcases hacc with h | h <;> simp [h])).trans (if_pos ⟨hsvc, hw⟩)
      · refine (hask' _).trans (congrArg Host.Outcome.next (serveRequest_refused port index sub hd h3 fun t ht => ?_))
        rw [localAccess_row _ hi (by rw [ht, ho]) hr]
        exact (if_neg (by rcases hacc with h | h <;> simp [h])).trans ((if_neg (by
          rintro ⟨h1, h2⟩
          exact hsvc.elim (fun h => Bool.false_ne_true (h.symm.trans h1)) fun h => Bool.false_ne_true (h2.symm.trans h))).trans
            (if_pos ⟨hl, hdl⟩))
      · refine hread _ (sessAccess_read ?_)
        rw [localAccess, if_pos ⟨hlo, hhi, hcl⟩, forward, asked_regs, hreg]
        rfl
      · obtain ⟨m, hm⟩ := localAccess_forward (t := s.asked w i sub.toNat) hlo hhi hcl (by rw [asked_regs]; exact hreg) hsub hacc
          hlay (by rw [asked_reqs_length]; exact hlen)
        refine Gives.intro (hread _ (sessAccess_wait hm)) ?_
        simp only [m2cSend_node, m2cSend_out]
        rw [asked_nextTag, BitVec.ofNat_toNat, BitVec.setWidth_eq]
        refine ⟨by simp [i], rfl, asked_out ..⟩
  · intro w put seg
    refine ⟨fun hs hn => ?_, fun x hx hcl hxs hwt => ⟨fun hs => ⟨fun hfd htog => ?_, fun hok hdn => ?_, fun total hok hdn => ?_, ?_⟩,
      fun hs => ?_⟩⟩
    · exact (execSdoSegment_none toggle data hm hc hs hn).trans (congrArg Host.Outcome.next (if_pos hs))
    · rw [execSdoSegment_open toggle data hm hc hs hx hcl hxs hwt, takeSegment_toggle hfd htog, hcl]
      exact congrArg Host.Outcome.next (answerOut_served hs)
    · rw [execSdoSegment_open toggle data hm hc hs hx hcl hxs hwt, takeSegment_up hok hdn, hcl]
      exact congrArg Host.Outcome.next (answerOut_served hs)
    · obtain ⟨hgt, hlt, heq⟩ := takeSegment_down (data := data) hok hdn
      rw [execSdoSegment_open toggle data hm hc hs hx hcl hxs hwt]
      refine ⟨fun h => ?_, fun h => ?_, fun h => ?_⟩
      · rw [hgt h, hcl]
        exact congrArg Host.Outcome.next (answerOut_served hs)
      · rw [hlt h, hcl]
        exact congrArg Host.Outcome.next (answerOut_served hs)
      · rw [heq h, runXfer, hcl]
        rfl
    · rw [execSdoSegmentTimeout_open hm hx hxs hwt, hcl]
      exact congrArg Host.Outcome.next (answerOut_served hs)
    · rw [execSdoSegmentTimeout_open hm hx hxs hwt, hcl]
      exact congrArg Host.Outcome.next (if_neg (by rw [served_chans, show sessServed s (clientSess port client) = false from hs]; decide))

end Sys2Proof.Machine

end

section

namespace Sys2Proof.Machine

/-! ## Control-held objects (O29) -/

/-- A table of which the entries of some keys are kept, in whatever order it lists them. -/
theorem Tbl.read_filter_any {α : Type} {d : Nat → α} (t : Tbl α) (p : Nat → Bool) (k : Nat) :
    Tbl.read d (t.filter fun e => p e.1) k = if p k then Tbl.read d t k else d k := by
  induction t with
  | nil => simp [Tbl.read]
  | cons e t ih =>
    obtain ⟨j, v⟩ := e
    by_cases hj : k = j
    · subst hj
      by_cases hp : p k = true
      · simp [hp, Tbl.read]
      · rw [List.filter_cons, if_neg hp, ih, if_neg hp, if_neg hp]
    · by_cases hp : p j = true
      · simp [hp, Tbl.read, hj, ih]
      · rw [List.filter_cons, if_neg hp, ih]
        simp [Tbl.read, hj]

theorem Tbl.read_write_value {α : Type} [DecidableEq α] {d : Nat → α} (t : Tbl α) (k : Nat) {v : α} (hv : v ≠ d k) :
    Tbl.read d (Tbl.write d t k v) k = v := by
  rw [Tbl.write, if_neg hv, Tbl.read_insert_any, if_pos rfl]

theorem odKey_index {i k : Nat} (hk : k < 256) : odKey i k / 256 = i := by rw [odKey]; omega

/-- The state but for what sending a PDO changes, for which v stands. -/
def State.sansTpdo (v : Vector TpdoRt 16) (s : State) : State := { s with node.tpdos := v, out := [] }

section
variable (v : Vector TpdoRt 16) (s : State)

theorem sendTpdo_sansTpdo (i : Fin 16) : (sendTpdo s i).sansTpdo v = s.sansTpdo v := by
  unfold sendTpdo
  extract_lets n es data port fd t
  have ht : t.sansTpdo v = s.sansTpdo v := rfl
  refine ite_view (V := State.sansTpdo v) (Eq.trans (b := t.sansTpdo v) ?_ ht) ht
  exact ite_view (V := State.sansTpdo v) rfl rfl

theorem tpdoChanged_sansTpdo (i : Fin 16) : (tpdoChanged s i).sansTpdo v = s.sansTpdo v := by
  unfold tpdoChanged
  extract_lets ty n u t
  have hu : u.sansTpdo v = s.sansTpdo v := rfl
  have ht : t.sansTpdo v = u.sansTpdo v := sendTpdo_sansTpdo ..
  exact ite_view (V := State.sansTpdo v) ((Eq.trans (b := t.sansTpdo v) rfl ht).trans hu) hu

theorem tpdoScan_sansTpdo (ty : Nat → Bool) (p : MapEntry → Bool) : (tpdoScan s ty p).sansTpdo v = s.sansTpdo v :=
  foldl_view (V := State.sansTpdo v) (fun _ _ => ite_view (V := State.sansTpdo v) (tpdoChanged_sansTpdo ..) rfl) ..

end

theorem tpdoScan_keeps (s : State) (ty : Nat → Bool) (p : MapEntry → Bool) :
    (tpdoScan s ty p).node.images = s.node.images ∧ (tpdoScan s ty p).node.regs = s.node.regs ∧
    (tpdoScan s ty p).mem = s.mem ∧ (tpdoScan s ty p).cleatA = s.cleatA := by
  have h := tpdoScan_sansTpdo s.node.tpdos s ty p
  generalize tpdoScan s ty p = t at h ⊢
  generalize s.node.tpdos = v at h
  exact ⟨(congrArg (fun t : State => t.node.images) h :), (congrArg (fun t : State => t.node.regs) h :),
    (congrArg (fun t : State => t.mem) h :), (congrArg (fun t : State => t.cleatA) h :)⟩

/-- An abort passed on carries a code of the table, its own when it is one. -/
theorem tableAnswer_abort (c : Nat) : ∃ k ∈ abortCodes, (c ∈ abortCodes → k = c) ∧ tableAnswer (.abort c) = .abort k := by
  by_cases h : c ∈ abortCodes
  · exact ⟨c, h, fun _ => rfl, congrArg Answer.abort (if_pos (List.contains_iff_mem.2 h))⟩
  · refine ⟨_, ?_, fun hc => absurd hc h, congrArg Answer.abort (if_neg fun hc => h (List.contains_iff_mem.1 hc))⟩
    have hlt : Config.freeOf .unspecified [0x102, c] % 16 < abortCodes.length := Nat.mod_lt _ (by decide)
    rw [List.getD_eq_getElem _ _ hlt]
    exact List.getElem_mem hlt

theorem awaits_open {s : State} {w : Session} (h : s.awaits w) : s.open_ w := by
  cases w with
  | host => exact h.2
  | can p c => exact h

theorem reqCode (r : DictReq) : BitVec.ofNat 32 (0xFF02 % 65536 + 65536 * (0xFF : Byte).toNat +
    2 ^ 24 * (byteAt (toLE 2 r.index.toNat ++ [r.sub]) 0).toNat) = BitVec.ofNat 32 (0xFFFF02 + 2 ^ 24 * (r.index.toNat % 256)) := by
  have h : (byteAt (toLE 2 r.index.toNat ++ [r.sub]) 0).toNat = r.index.toNat % 256 := BitVec.toNat_ofNat ..
  rw [h]
  rfl

theorem emcyQueue_stats (s : State) (f : Bytes) (k : Fin 6) (hk : k ≠ 3) : (emcyQueue s f).node.stats.get k = s.node.stats.get k := by
  unfold emcyQueue
  split
  · rfl
  · exact vmod_get_other _ _ hk

/-- A request that Mast firmware does not answer in time: it ends, it is counted, and its asker hears it. -/
theorem dictReqTimeout_gives {s : State} {r : DictReq} (hm : mgcUp s = true)
    (hr : (s.node.reqs.find? fun x => x.tag == r.tag) = some r) : Gives (.dictReqTimeout r.tag) s fun t =>
      t.node.stats.get 0 = s.node.stats.get 0 + 1 ∧ t.node.reqs = s.node.reqs.erase r ∧
      (BitVec.ofNat 32 (0xFFFF02 + 2 ^ 24 * (r.index.toNat % 256))) ∈ t.node.history ∧
      (∀ w : Session, r.origin = .sess w → s.awaits w →
        s.answeredTo t w r.index.toNat r.sub.toNat (.abort 0x08000020)) := by
  generalize hz : ({ s with node.reqs := s.node.reqs.erase r, node.stats := vmod s.node.stats 0 (· + 1) } : State) = z
  generalize ht : raiseEmcy z 0xFF02 0xFF (toLE 2 r.index.toNat ++ [r.sub]) = t
  have he : exec (.dictReqTimeout r.tag) s = .next (answerOrigin t r.origin r.index.toNat r.sub.toNat (.abort abLate)) := by
    rw [exec, execDictReqTimeout, hr, ← ht, ← hz]
    exact if_pos hm
  have hzr : z.node.reqs = s.node.reqs.erase r := hz ▸ rfl
  have hzo : z.out = s.out := hz ▸ rfl
  have hzc : z.cleatA = s.cleatA := hz ▸ rfl
  have hnode := answerOrigin_reply t r.origin r.index.toNat r.sub.toNat (.abort abLate)
  have hstats : t.node.stats.get 0 = s.node.stats.get 0 + 1 := by
    rw [← ht]
    refine (emcyQueue_stats _ _ 0 (by decide)).trans ?_
    rw [← hz]
    exact vmod_get_same ..
  have hreqs : t.node.reqs = s.node.reqs.erase r := by
    rw [← ht]
    exact (congrArg (fun n : Node => n.reqs) (raiseEmcy_node z 0xFF02 0xFF _) :).trans hzr
  refine Gives.intro he ⟨(congrArg (fun u : State => u.node.stats.get 0) hnode :).trans hstats,
    (congrArg (fun u : State => u.node.reqs) hnode :).trans hreqs, ?_, fun w hw ha => ?_⟩
  · have hh : (answerOrigin t r.origin r.index.toNat r.sub.toNat (.abort abLate)).node.history = t.node.history := (congrArg (fun u : State => u.node.history) hnode :)
    rw [hh, ← ht, raiseEmcy_history]
    exact List.mem_cons.2 (.inl (reqCode r).symm)
  · rw [hw]
    have hopen : z.open_ w := by
      rw [← hz]
      cases w with
      | host => exact ha.2
      | can p c => exact ha
    obtain ⟨hn, ho, hc⟩ := raiseEmcy_emcyOnly z 0xFF02 0xFF (toLE 2 r.index.toNat ++ [r.sub])
    rw [ht] at hn ho hc
    exact answerSess_answered (open_of_emcy hopen hn) (ho.trans hzo) (hc.trans hzc) ..

/-- Settles O29, by the branches of each message and the answer that a request draws. -/
theorem controlHeldObjects : Obligations.ControlHeldObjects := by
  intro s u m
  refine ⟨fun h => ⟨fun hok => ?_, fun hok => ?_⟩, fun h => ⟨fun hok => ?_, fun hok => ?_⟩, fun h => ?_, fun h htag => ⟨fun hr => ?_, fun r hr => ?_⟩, fun r hm hr => ?_⟩
  · rw [exec, execAppReg, h]
    exact if_pos hok
  · rw [exec, execAppReg, h]
    exact if_neg (by simp [hok])
  · have hread : ∀ i k : Nat, k < 256 → Tbl.read (fun _ => ([] : Bytes)) (u.node.images.filter fun e =>
        (unregAll (m.payload.length / 8) m.payload u.node.regs 0).2.any fun g => g.index.toNat == e.1 / 256) (odKey i k) =
        if (unregAll (m.payload.length / 8) m.payload u.node.regs 0).2.any (fun g => g.index.toNat == i) then
          Tbl.read (fun _ => ([] : Bytes)) u.node.images (odKey i k) else [] := fun i k hk => by
      have h := Tbl.read_filter_any (d := fun _ => ([] : Bytes)) u.node.images
        (fun k => (unregAll (m.payload.length / 8) m.payload u.node.regs 0).2.any fun g => g.index.toNat == k / 256) (odKey i k)
      rw [odKey_index hk] at h
      exact h
    refine Gives.intro (t := appRsp { u with
      node.regs := (unregAll (m.payload.length / 8) m.payload u.node.regs 0).2,
      node.images := u.node.images.filter fun e =>
        (unregAll (m.payload.length / 8) m.payload u.node.regs 0).2.any fun g => g.index.toNat == e.1 / 256 } m.tag
      (unregAll (m.payload.length / 8) m.payload u.node.regs 0).1) ?_ ?_
    · rw [exec, execAppUnreg, h]
      exact if_pos hok
    · rw [appRsp, m2cSend_node]
      refine ⟨rfl, fun i k _ hk hno => ?_, fun i k _ hk hsome => ?_⟩
      · exact (hread i k hk).trans (if_neg (by simpa using hno))
      · exact (hread i k hk).trans (if_pos (by simpa using hsome))
  · rw [exec, execAppUnreg, h]
    exact if_neg (by simp [hok])
  · intro v
    refine ⟨fun hmap hv => ?_, fun hmap => ?_⟩
    · refine Gives.intro (t := tpdoScan { u with
        node.images := Tbl.write (fun _ => []) u.node.images (odKey (fieldLE m.payload 0 2) (byteAt m.payload 2).toNat) v }
        (fun _ => true) fun e => e.index == fieldLE m.payload 0 2 && e.sub == (byteAt m.payload 2).toNat) ?_ ?_
      · rw [exec, execImageUpdate, h]
        exact if_pos hmap
      · clear_value v
        obtain ⟨himg, hregs, hmem, hca⟩ := tpdoScan_keeps { u with
          node.images := Tbl.write (fun _ => []) u.node.images (odKey (fieldLE m.payload 0 2) (byteAt m.payload 2).toNat) v }
          (fun _ => true) fun e => e.index == fieldLE m.payload 0 2 && e.sub == (byteAt m.payload 2).toNat
        rw [himg, hregs, hmem, hca]
        exact ⟨Tbl.read_write_value _ _ hv, rfl, rfl, rfl⟩
    · rw [exec, execImageUpdate, h]
      exact if_neg (by simp [hmap])
  · rw [exec, execDictRsp, h]
    exact congrArg Host.Outcome.next ((if_neg htag).trans (by rw [dictAnswer, hr]; rfl))
  · have hd : exec .dictRsp s = .next (dictAnswer u m) := by
      rw [exec, execDictRsp, h]
      exact congrArg Host.Outcome.next (if_neg htag)
    intro e i sub
    refine ⟨fun h3 => ?_, fun h3 hn => ?_, fun d h3 hn => ?_⟩
    · obtain ⟨k, hk, hc, ht⟩ := tableAnswer_abort (fieldLE m.payload 4 4)
      refine ⟨k, hk, hc, ?_⟩
      rw [hd, dictAnswer, hr, ← ht]
      exact congrArg Host.Outcome.next (if_neg h3)
    · rw [hd, dictAnswer, hr]
      dsimp only
      rw [if_pos h3, hn]
    · rw [hd, dictAnswer, hr]
      dsimp only
      rw [if_pos h3, hn]
  · exact dictReqTimeout_gives hm hr

end Sys2Proof.Machine

end

section

namespace Sys2Proof.Machine

/-! ## Polling of sensor nodes and the host mailbox (O30) -/

/-! ### Serving a port -/

/-- An entry that a port could serve. -/
def pollWaits (s : State) (p : CanPort) (k : Fin 96) : Bool :=
  (s.node.polls.get k).due && pollEnabled s.node k && decide (pollPort s.node k = p)

theorem pollServe_busy {s : State} {p : CanPort} (h : s.node.client.get p ≠ none) : pollServe s p = s :=
  if_pos (Option.isSome_iff_ne_none.2 h)

/-- A free port at which no entry waits. -/
theorem pollServe_idle {s : State} {p : CanPort} (h : ∀ k, pollWaits s p k = false) : pollServe s p = s := by
  have hf : ((List.finRange 96).find? fun k =>
      (s.node.polls.get k).due && pollEnabled s.node k && decide (pollPort s.node k = p)) = none :=
    List.find?_eq_none.2 fun k _ hk => Bool.false_ne_true ((h k).symm.trans hk)
  unfold pollServe
  rw [hf]
  split <;> rfl

/-- What leaves when an entry is requested. -/
def pollRequest (s : State) (k : Fin 96) : Output :=
  .poll (pollPort s.node k) (byteAt (pollBytes s.node k) 0) (BitVec.ofNat 16 (fieldLE (pollBytes s.node k) 2 2))
    (byteAt (pollBytes s.node k) 4)

/-- A free port serves the first entry that waits. -/
theorem pollServe_first {s : State} {p : CanPort} {e : Fin 96} (hc : s.node.client.get p = none) (he : pollWaits s p e = true) :
    ∃ k : Fin 96, k ≤ e ∧ pollPort s.node k = p ∧
      pollServe s p = pollSend { s with node.polls := vmod s.node.polls k fun r => { r with due := false } } k := by
  cases hf : (List.finRange 96).find? fun k =>
      (s.node.polls.get k).due && pollEnabled s.node k && decide (pollPort s.node k = p) with
  | none => exact absurd he (List.find?_eq_none.1 hf e (List.mem_finRange e))
  | some k =>
    have hk := List.find?_some hf
    simp only [Bool.and_eq_true, decide_eq_true_eq] at hk
    refine ⟨k, ?_, hk.2, ?_⟩
    · obtain ⟨-, as, bs, hl, has⟩ := List.find?_eq_some_iff_append.1 hf
      have hm := List.mem_finRange e
      have hsorted := List.pairwise_lt_finRange 96
      rw [hl] at hm hsorted
      rcases List.mem_append.1 hm with h | h
      · exact absurd (has e h) (by rw [show (_ && _ && _ : Bool) = true from he]; decide)
      · rcases List.mem_cons.1 h with rfl | h
        · exact le_refl _
        · exact le_of_lt ((List.pairwise_cons.1 (List.pairwise_append.1 hsorted).2.1).1 e h)
    · unfold pollServe
      rw [hc, hf]
      rfl

/-- What serving a port leaves: what stands, memory, Cleat A, and of an entry all but that it is due. -/
theorem pollServe_keeps (s : State) (p : CanPort) : (pollServe s p).health = s.health ∧ (pollServe s p).mem = s.mem ∧
    (pollServe s p).cleatA = s.cleatA ∧ (pollServe s p).node.stats = s.node.stats ∧
    ∀ k : Fin 96, (pollServe s p).node.polls.get k = { s.node.polls.get k with due := ((pollServe s p).node.polls.get k).due } := by
  unfold pollServe
  split
  · exact ⟨rfl, rfl, rfl, rfl, fun k => rfl⟩
  · split
    · next e _ =>
      refine ⟨rfl, rfl, rfl, rfl, fun k => ?_⟩
      have hp : (pollSend { s with node.polls := vmod s.node.polls e fun r => { r with due := false } } e).node.polls =
          vmod s.node.polls e fun r => { r with due := false } := rfl
      rw [hp, vmod_get]
      split
      · next h => subst h; rfl
      · rfl
    · exact ⟨rfl, rfl, rfl, rfl, fun k => rfl⟩

/-! ### The end of a request -/

/-- A message sent: into the ring, or behind those that wait for room. -/
theorem m2cSend_eq (s : State) (m : Msg) : m2cSend s m =
    if s.cleatA.backlog.isEmpty then
      if ringUsed s.cleatA.m2cWr s.cleatA.m2cRd + (msgEntries m).length ≤ 64 then { s with
        mem := writeEntries m2cRing s.mem s.cleatA.m2cWr (msgEntries m),
        cleatA.m2cWr := s.cleatA.m2cWr + BitVec.ofNat 7 (msgEntries m).length }
      else { s with cleatA.backlog := [m], cleatA.fullEvents := s.cleatA.fullEvents + 1 }
    else { s with cleatA.backlog := s.cleatA.backlog ++ [m] } := by
  unfold m2cSend
  split
  · by_cases h : ringUsed s.cleatA.m2cWr s.cleatA.m2cRd + (msgEntries m).length ≤ 64
    · simp only [m2cPut, if_pos h]
    · simp only [m2cPut, if_neg h]
  · rfl

/-- A message sent reads memory and Cleat A alone. -/
theorem m2cSend_congr {s t : State} (hm : t.mem = s.mem) (hc : t.cleatA = s.cleatA) (m : Msg) :
    (m2cSend t m).mem = (m2cSend s m).mem ∧ (m2cSend t m).cleatA = (m2cSend s m).cleatA := by
  rw [m2cSend_eq, m2cSend_eq, hm, hc]
  split_ifs <;> exact ⟨rfl, rfl⟩

/-- A TAG 0 write reads nothing of the node but the registrations. -/
theorem tag0Write_congr {s t : State} (hm : t.mem = s.mem) (hc : t.cleatA = s.cleatA) (hr : t.node.regs = s.node.regs)
    (hst : t.node.stats = s.node.stats) (i k : Nat) (v : Bytes) : (tag0Write t i k v).mem = (tag0Write s i k v).mem ∧
      (tag0Write t i k v).cleatA = (tag0Write s i k v).cleatA ∧ (tag0Write t i k v).node.stats = (tag0Write s i k v).node.stats := by
  unfold tag0Write
  rw [hr]
  split
  · obtain ⟨h1, h2⟩ := m2cSend_congr hm hc { kind := 0x81, tag := 0, payload := toLE 2 i ++ [BitVec.ofNat 8 k, 1] ++ toLE 4 v.length ++ v }
    exact ⟨h1, h2, by rw [m2cSend_node, m2cSend_node, hst]⟩
  · exact ⟨hm, hc, by rw [hst]⟩

theorem tag0Write_od (s : State) (i k : Nat) (v : Bytes) (e : Fin 96) :
    pollEnabled (tag0Write s i k v).node e = pollEnabled s.node e ∧ pollPort (tag0Write s i k v).node e = pollPort s.node e ∧
    (tag0Write s i k v).node.polls = s.node.polls ∧ (tag0Write s i k v).node.client = s.node.client ∧
    (tag0Write s i k v).out = s.out := by
  unfold tag0Write
  split
  · rw [m2cSend_node, m2cSend_out]
    exact ⟨rfl, rfl, rfl, rfl, rfl⟩
  · exact ⟨rfl, rfl, rfl, rfl, rfl⟩

theorem clearStanding_stats (s : State) (code key : Nat) {k : Fin 6} (hk : k ≠ 3) :
    (clearStanding s code key).node.stats.get k = s.node.stats.get k := by
  unfold clearStanding
  split
  · rfl
  · exact emcyQueue_stats _ _ k hk

section
variable {s : State} {e : Fin 96} {p : CanPort}

/-- A period of an enabled entry. -/
theorem pollDue_gives (hr : pollRuns s = true) (hen : pollEnabled s.node e = true) (hp : p = pollPort s.node e) :
    Gives (.pollDue e) s fun t =>
      (t.node.polls.get e).overruns = (if (s.node.polls.get e).due then (s.node.polls.get e).overruns + 1
        else (s.node.polls.get e).overruns) ∧
      (s.node.client.get p ≠ none → (t.node.polls.get e).due = true ∧ t.out = s.out) ∧
      (s.node.client.get p = none → ∃ k : Fin 96, t.node.client.get p = some k ∧ k ≤ e ∧
        (t.node.polls.get k).due = false ∧ t.out = s.out ++ [.poll p (byteAt (pollBytes s.node k) 0)
          (BitVec.ofNat 16 (fieldLE (pollBytes s.node k) 2 2)) (byteAt (pollBytes s.node k) 4)]) := by
  subst hp
  generalize hx : ({ s.node.polls.get e with
    due := true, overruns := if (s.node.polls.get e).due then (s.node.polls.get e).overruns + 1 else (s.node.polls.get e).overruns,
    st := if (s.node.polls.get e).st = 0 then 1 else (s.node.polls.get e).st } : PollRt) = x
  have he : exec (.pollDue e) s = .next (pollServe { s with node.polls := vput s.node.polls e x } (pollPort s.node e)) := by
    rw [← hx]
    exact if_pos (by simp [hr, hen])
  have hover : x.overruns = if (s.node.polls.get e).due then (s.node.polls.get e).overruns + 1 else (s.node.polls.get e).overruns := by
    rw [← hx]
  have hdue : x.due = true := by rw [← hx]
  refine Gives.intro he ⟨?_, fun hc => ?_, fun hc => ?_⟩
  · obtain ⟨-, -, -, -, hk⟩ := pollServe_keeps { s with node.polls := vput s.node.polls e x } (pollPort s.node e)
    rw [hk e]
    exact (congrArg PollRt.overruns (vput_get_same ..) :).trans hover
  · rw [pollServe_busy (by exact hc)]
    exact ⟨(congrArg PollRt.due (vput_get_same ..) :).trans hdue, rfl⟩
  · obtain ⟨k, hk, hport, hs⟩ := pollServe_first (s := { s with node.polls := vput s.node.polls e x }) (e := e) hc (by
      rw [pollWaits]
      dsimp only
      rw [vput_get_same, hdue]
      simp only [Bool.true_and, Bool.and_eq_true, decide_eq_true_eq]
      exact ⟨hen, rfl⟩)
    have hport' : pollPort s.node k = pollPort s.node e := hport
    rw [hs]
    refine ⟨k, ?_, hk, ?_, ?_⟩
    · rw [← hport']
      exact vput_get_same ..
    · exact congrArg PollRt.due (vmod_get_same ..)
    · rw [← hport']
      rfl

/-- A port whose entries do not wait, whatever state one of them has come to. -/
theorem pollIdle_waits {u : State} {x : PollRt} (hpolls : u.node.polls = vput s.node.polls e x)
    (hdue : x.due = (s.node.polls.get e).due)
    (hn : ∀ k, pollEnabled u.node k = pollEnabled s.node k ∧ pollPort u.node k = pollPort s.node k)
    (hidle : ∀ k : Fin 96, (s.node.polls.get k).due = true → pollEnabled s.node k = false ∨ pollPort s.node k ≠ p) (k : Fin 96) :
    pollWaits u p k = false := by
  have hd : (u.node.polls.get k).due = (s.node.polls.get k).due := by
    rw [hpolls, vput_get]
    split
    · next h => rw [h]; exact hdue
    · rfl
  rw [pollWaits, hd, (hn k).1, (hn k).2]
  by_cases h : (s.node.polls.get k).due = true
  · rcases hidle k h with h | h <;> simp [h]
  · simp [h]

/-- The failure of a request. -/
theorem pollFail_spec (hp : p = pollPort s.node e) (hc : s.node.client.get p = some e) :
    let r := s.node.polls.get e
    let retries := bits (byteAt (pollBytes s.node e) 5).toNat 0 4
    (r.fails < retries → ((pollFail s p e).node.polls.get e).fails = r.fails + 1 ∧ (pollFail s p e).node.client.get p = some e ∧
      (pollFail s p e).out = s.out ++ [.poll p (byteAt (pollBytes s.node e) 0)
        (BitVec.ofNat 16 (fieldLE (pollBytes s.node e) 2 2)) (byteAt (pollBytes s.node e) 4)]) ∧
    (retries ≤ r.fails → ((pollFail s p e).node.polls.get e).st = 3 ∧ stands (pollFail s p e) 0xFF03 (e.val + 1) = true ∧
      ((∀ k : Fin 96, (s.node.polls.get k).due = true → pollEnabled s.node k = false ∨ pollPort s.node k ≠ p) →
        (pollFail s p e).node.client.get p = none ∧ (pollFail s p e).out = s.out)) := by
  subst hp
  intro r retries
  refine ⟨fun hlt => ?_, fun hle => ?_⟩
  · have he : pollFail s (pollPort s.node e) e = pollSend { s with
        node.polls := vput s.node.polls e { r with st := if r.st = 3 then 3 else 2, fails := r.fails + 1 } } e := if_neg (Nat.not_lt.2 hlt)
    rw [he]
    exact ⟨(congrArg PollRt.fails (vput_get_same ..) :), vput_get_same .., rfl⟩
  · generalize hx : ({ r with st := 3, fails := 0 } : PollRt) = x
    have hst : x.st = 3 := by rw [← hx]
    have hdue : x.due = r.due := by rw [← hx]
    generalize hz : ({ s with
      node.client := vput s.node.client (pollPort s.node e) none, node.polls := vput s.node.polls e x } : State) = z
    have he : pollFail s (pollPort s.node e) e =
        pollServe (raiseStanding z 0xFF03 0xFF (e.val + 1) (toLE 2 (e.val + 1))) (pollPort s.node e) := by
      rw [← hz, ← hx]
      exact if_pos (Nat.lt_succ_of_le hle)
    have hz1 : z.node.polls = vput s.node.polls e x := hz ▸ rfl
    have hz2 : z.node.client = vput s.node.client (pollPort s.node e) none := hz ▸ rfl
    have hz3 : z.out = s.out := hz ▸ rfl
    have hz4 : ∀ k, pollEnabled z.node k = pollEnabled s.node k ∧ pollPort z.node k = pollPort s.node k := fun k => hz ▸ ⟨rfl, rfl⟩
    have hn := raiseStanding_node z 0xFF03 0xFF (e.val + 1) (toLE 2 (e.val + 1))
    have ho : (raiseStanding z 0xFF03 0xFF (e.val + 1) (toLE 2 (e.val + 1))).out = z.out := raiseStanding_out ..
    have hs := stands_raiseStanding z (code := 0xFF03) (by decide) 0xFF (e.val + 1) (toLE 2 (e.val + 1))
    rw [he]
    generalize raiseStanding z 0xFF03 0xFF (e.val + 1) (toLE 2 (e.val + 1)) = u at hn ho hs ⊢
    have hu1 : u.node.polls = vput s.node.polls e x := (congrArg (fun n : Node => n.polls) hn :).trans hz1
    have hu2 : u.node.client = vput s.node.client (pollPort s.node e) none := (congrArg (fun n : Node => n.client) hn :).trans hz2
    have hu4 : ∀ k, pollEnabled u.node k = pollEnabled s.node k ∧ pollPort u.node k = pollPort s.node k := fun k =>
      ⟨(congrArg (fun n : Node => pollEnabled n k) hn :).trans (hz4 k).1, (congrArg (fun n : Node => pollPort n k) hn :).trans (hz4 k).2⟩
    obtain ⟨hh, -, -, -, hk⟩ := pollServe_keeps u (pollPort s.node e)
    refine ⟨?_, (stands_congr (congrArg Health.standing hh) ..).trans hs, fun hidle => ?_⟩
    · rw [hk e, hu1, vput_get_same]
      exact hst
    · rw [pollServe_idle (pollIdle_waits (hu1.trans rfl) hdue hu4 hidle), hu2, vput_get_same]
      exact ⟨rfl, ho.trans hz3⟩

/-- A response with a value. -/
theorem pollDone_spec (hp : p = pollPort s.node e) (value : Bytes) :
    let b := pollBytes s.node e
    let z := tag0Write s (fieldLE b 8 2) (byteAt b 10).toNat (toLE 8 (ntNow s.pht).toNat ++ value.take 64)
    ((pollDone s p e value).node.polls.get e).fails = 0 ∧ ((pollDone s p e value).node.polls.get e).st = 1 ∧
    stands (pollDone s p e value) 0xFF03 (e.val + 1) = false ∧ (pollDone s p e value).mem = z.mem ∧
    (pollDone s p e value).cleatA = z.cleatA ∧ (pollDone s p e value).node.stats.get 5 = z.node.stats.get 5 ∧
    ((∀ k : Fin 96, (s.node.polls.get k).due = true → pollEnabled s.node k = false ∨ pollPort s.node k ≠ p) →
      (pollDone s p e value).node.client.get p = none ∧ (pollDone s p e value).out = s.out) := by
  subst hp
  intro b w
  have hwd : w = tag0Write s (fieldLE b 8 2) (byteAt b 10).toNat (toLE 8 (ntNow s.pht).toNat ++ value.take 64) := rfl
  clear_value w
  generalize hv : toLE 8 (ntNow s.pht).toNat ++ value.take 64 = v at hwd
  generalize hx : ({ s.node.polls.get e with st := 1, fails := 0 } : PollRt) = x
  have hst : x.st = 1 := by rw [← hx]
  have hfl : x.fails = 0 := by rw [← hx]
  have hdue : x.due = (s.node.polls.get e).due := by rw [← hx]
  generalize hz : ({ s with
    node.client := vput s.node.client (pollPort s.node e) none, node.polls := vput s.node.polls e x } : State) = z
  have he : pollDone s (pollPort s.node e) e value =
      pollServe (clearStanding (tag0Write z (fieldLE b 8 2) (byteAt b 10).toNat v) 0xFF03 (e.val + 1)) (pollPort s.node e) := by
    rw [← hz, ← hx, ← hv]
    rfl
  have hz1 : z.node.polls = vput s.node.polls e x := hz ▸ rfl
  have hz2 : z.node.client = vput s.node.client (pollPort s.node e) none := hz ▸ rfl
  have hz3 : z.out = s.out := hz ▸ rfl
  have hz4 : ∀ k, pollEnabled z.node k = pollEnabled s.node k ∧ pollPort z.node k = pollPort s.node k := fun k => hz ▸ ⟨rfl, rfl⟩
  have hw := fun k => tag0Write_od z (fieldLE b 8 2) (byteAt b 10).toNat v k
  obtain ⟨hm, hc, hs⟩ := tag0Write_congr (s := s) (t := z) (hz ▸ rfl) (hz ▸ rfl) (hz ▸ rfl) (hz ▸ rfl) (fieldLE b 8 2) (byteAt b 10).toNat v
  rw [he]
  rw [← hwd] at hm hc hs
  generalize tag0Write z (fieldLE b 8 2) (byteAt b 10).toNat v = y at hw hm hc hs ⊢
  have hn := clearStanding_node y 0xFF03 (e.val + 1)
  have ho : (clearStanding y 0xFF03 (e.val + 1)).out = y.out := clearStanding_out ..
  have hm' : (clearStanding y 0xFF03 (e.val + 1)).mem = y.mem := clearStanding_mem ..
  have hc' : (clearStanding y 0xFF03 (e.val + 1)).cleatA = y.cleatA := clearStanding_cleatA ..
  have hst5 : (clearStanding y 0xFF03 (e.val + 1)).node.stats.get 5 = y.node.stats.get 5 := clearStanding_stats y _ _ (by decide)
  have hcl := stands_clearStanding y 0xFF03 (e.val + 1)
  generalize clearStanding y 0xFF03 (e.val + 1) = u at hn ho hm' hc' hst5 hcl ⊢
  have hu1 : u.node.polls = vput s.node.polls e x :=
    (congrArg (fun n : Node => n.polls) hn :).trans ((hw e).2.2.1.trans hz1)
  have hu2 : u.node.client = vput s.node.client (pollPort s.node e) none :=
    (congrArg (fun n : Node => n.client) hn :).trans ((hw e).2.2.2.1.trans hz2)
  have hu4 : ∀ k, pollEnabled u.node k = pollEnabled s.node k ∧ pollPort u.node k = pollPort s.node k := fun k =>
    ⟨(congrArg (fun n : Node => pollEnabled n k) hn :).trans ((hw k).1.trans (hz4 k).1),
      (congrArg (fun n : Node => pollPort n k) hn :).trans ((hw k).2.1.trans (hz4 k).2)⟩
  obtain ⟨hh, hmem, hca, hstats, hk⟩ := pollServe_keeps u (pollPort s.node e)
  refine ⟨?_, ?_, (stands_congr (congrArg Health.standing hh) ..).trans hcl, hmem.trans (hm'.trans hm), hca.trans (hc'.trans hc),
    ?_, fun hidle => ?_⟩
  · rw [hk e, hu1, vput_get_same]
    exact hfl
  · rw [hk e, hu1, vput_get_same]
    exact hst
  · rw [hstats, hst5, hs]
  · rw [pollServe_idle (pollIdle_waits hu1 hdue hu4 hidle), hu2, vput_get_same]
    exact ⟨rfl, ho.trans ((hw e).2.2.2.2.trans hz3)⟩

end

/-! ### The mailbox -/

theorem msixRaise_node (s : State) (v : Fin 32) : (msixRaise s v).node = s.node := by
  unfold msixRaise; split <;> rfl

theorem msixRaise_cleatA (s : State) (v : Fin 32) : (msixRaise s v).cleatA = s.cleatA := by
  unfold msixRaise; split <;> rfl

theorem hmbDoorbell_go {s : State} {v : W32} (hp : pcieUp s = true) (hb : s.node.hmb.busy = false) (hv : v.getLsbD 0 = true)
    (hok : hmbOk s.node.hmb.req = true) (hl : s.cleatA.hostReq.length < 8) : exec (.hmbDoorbell v) s = .next (hostServe { s with
      node.hmb.busy := true, cleatA.hostReq := s.cleatA.hostReq ++ [s.node.hmb.req] }) :=
  (if_pos hp).trans (congrArg Host.Outcome.next ((if_neg (by simp [hb])).trans ((if_neg (by rw [hv]; decide)).trans
    (if_neg (by simp [hok]; omega)))))

/-- Settles O30: by the cases of the poll entry's current request and of the mailbox's doorbell; serving the
port's next entry leaves what the statement names. -/
theorem pollsAndMailbox : Obligations.PollsAndMailbox := by
  refine ⟨fun e s hr => ?_, fun s hp => ⟨fun v => ⟨fun hb => ?_, fun hb hv => ?_, fun hb hv => ⟨fun h => ?_, fun h1 h2 => ?_, fun n h1 h2 hn => ?_⟩⟩, fun r rs hm hq hb => ?_⟩⟩
  · intro p r b idle
    refine ⟨fun hen => pollDue_gives hr hen rfl, fun hc => ⟨fun value => ?_, fun c hcc => ?_⟩⟩
    · refine Gives.intro ?_ (pollDone_spec rfl value)
      rw [exec, execPollResponse, hc]
      exact if_pos hr
    · have he : exec c s = .next (pollFail s p e) := by
        rcases hcc with rfl | ⟨k, rfl⟩
        · rw [exec, execPollTimeout, hc]
          exact congrArg Host.Outcome.next (if_pos hr)
        · rw [exec, execPollResponse, hc]
          exact if_pos hr
      exact Gives.intro he (pollFail_spec rfl hc)
  · exact (if_pos hp).trans (congrArg Host.Outcome.next (if_pos hb))
  · exact (if_pos hp).trans (congrArg Host.Outcome.next ((if_neg (by simp [hb])).trans (if_pos (by rw [hv]; rfl))))
  · exact (if_pos hp).trans (congrArg Host.Outcome.next ((if_neg (by simp [hb])).trans ((if_neg (by rw [hv]; decide)).trans
      (if_pos (by simpa using h)))))
  · exact hmbDoorbell_go hp hb hv h1 h2
  · intro b
    rw [hmbDoorbell_go hp hb hv h1 (by rw [h2]; decide), hostServe]
    dsimp only
    rw [h2, List.nil_append, hn]
    have hca : ({ s.cleatA with hostReq := [] } : CleatA) = s.cleatA := by rw [← h2]
    exact congrArg (fun c : CleatA => Host.Outcome.next (sessAccess { s with node := n, cleatA := c } .host (fieldLE b 0 2) (byteAt b 2).toNat
      (if byteAt b 3 = 1 then some (slice b 8 (fieldLE b 4 4)) else none))) hca
  · refine Gives.intro (t := let t := { s with
        cleatA.hostRsp := rs,
        node.hmb := { s.node.hmb with rsp := padTo 448 r, busy := false, done := true, seq := s.node.hmb.seq + 1 } }
      if s.node.hmb.irqEn then msixRaise t 0 else t) ?_ ?_
    · rw [exec, execHmbResponse, hq]
      exact if_pos (by simp [hm, hp, hb])
    · extract_lets _ _ _ u
      have hn : (if s.node.hmb.irqEn then msixRaise u 0 else u).node = u.node :=
        (apply_ite State.node ..).trans ((congrArg (ite _ · _) (msixRaise_node u 0)).trans (ite_self _))
      have hc : (if s.node.hmb.irqEn then msixRaise u 0 else u).cleatA = u.cleatA :=
        (apply_ite State.cleatA ..).trans ((congrArg (ite _ · _) (msixRaise_cleatA u 0)).trans (ite_self _))
      rw [hn, hc]
      exact ⟨rfl, rfl, rfl, rfl, rfl, rfl⟩

end Sys2Proof.Machine

end

section

namespace Sys2Proof.Machine

/-! ## What accesses to memory leave -/

/-- The state but for what an access to memory, here or on another chip, changes. -/
def State.sansAccess (s : State) : State :=
  { s with mem := [], act.denials := 0, act.log := [], fab.homeRes := [], fab.nextTag := 0, fab.remotes := [],
           health.lastRaised := [], node := s.node.sansEmcy, out := [], shl := Vector.replicate 8 ShlPort.reset, free := 0 }

theorem access_of_shl {s t : State} (h : t.sansShl = s.sansShl) : t.sansAccess = s.sansAccess := by
  rw [eq_of_shl h]
  rfl

theorem raiseEmcy_access (s : State) (code : Nat) (unit : Byte) (d : Bytes) :
    (raiseEmcy s code unit d).sansAccess = s.sansAccess := ite_view (V := State.sansAccess) rfl rfl

theorem actDeny_access (s : State) (init acc entry a : Nat) : (actDeny s init acc entry a).sansAccess = s.sansAccess := by
  unfold actDeny raiseLimited
  extract_lets r l
  clear_value r l
  exact ite_view (V := State.sansAccess) rfl ((raiseEmcy_access ..).trans rfl)

theorem actCheck_access {s t : State} {init acc a n : Nat} (h : actCheck s init acc a n = some t) :
    t.sansAccess = s.sansAccess := by
  unfold actCheck at h
  split at h
  · cases h
    exact actDeny_access ..
  · split at h
    · cases h
    · cases h
      exact actDeny_access ..

theorem ramRead_access (s : State) (init a n : Nat) : (ramRead s init a n).2.sansAccess = s.sansAccess := by
  unfold ramRead
  split
  · rfl
  · split
    · exact actCheck_access ‹_›
    · split <;> rfl

theorem ramWrite_access (s : State) (init a : Nat) (bs : Bytes) : (ramWrite s init a bs).2.sansAccess = s.sansAccess := by
  unfold ramWrite
  split
  · rfl
  · split
    · exact actCheck_access ‹_›
    · split <;> rfl

theorem remoteSend_access (s : State) (w : RemWait) (home : ChipId) (mk off b12 b13 : Nat) (data : Bytes) :
    (remoteSend s w home mk off b12 b13 data).sansAccess = s.sansAccess := by
  unfold remoteSend
  extract_lets tag m
  exact (access_of_shl (sendOwn_shl ..)).trans rfl

theorem remoteWrite_access (s : State) (w : RemWait) (home : ChipId) (b13 off : Nat) (bs : Bytes) :
    (remoteWrite s w home b13 off bs).2.sansAccess = s.sansAccess := by
  unfold remoteWrite
  split
  · rfl
  · exact foldl_view (V := State.sansAccess) (fun _ _ => remoteSend_access ..) _ s

theorem seqRead_access (s : State) (init : Nat) (own : Option CoreId) (a n : Nat) :
    (seqRead s init own a n).2.sansAccess = s.sansAccess := by
  unfold seqRead
  split
  · split <;> rfl
  · split
    all_goals
      split
      · rfl
      · exact ramRead_access ..

theorem seqWrite_access (s : State) (init : Nat) (own : Option CoreId) (a : Nat) (bs : Bytes) :
    (seqWrite s init own a bs).2.sansAccess = s.sansAccess := by
  unfold seqWrite
  split
  · split
    · rfl
    · exact remoteWrite_access ..
  · split
    all_goals
      split
      · rfl
      · exact ramWrite_access ..

/-- A sequencer's computation leaves all but what accesses to memory change. -/
theorem SeqKeeps.access {α : Type} {x : SeqM α} (h : SeqKeeps x) (q : SeqRun) : (x q).2.s.sansAccess = q.s.sansAccess :=
  h (fun t => t.sansAccess = q.s.sansAccess) q
    ⟨⟨fun h _ _ _ _ => (seqRead_access ..).trans h⟩, fun h _ _ _ _ => (seqWrite_access ..).trans h⟩ rfl

/-- Whether an access is denied rests on the entries in force alone. -/
theorem actCheck_none_congr {s t : State} (h : t.act = s.act) {init acc a n : Nat} (hs : actCheck s init acc a n = none) :
    actCheck t init acc a n = none := by
  unfold actCheck at hs ⊢
  split at hs
  · cases hs
  · rw [h, if_neg ‹_›]
    split at hs
    · rfl
    · cases hs

theorem domUp_congr {s t : State} (hb : t.dev = s.dev) (hr : t.reef = s.reef) (d : DomId) : domUp t d = domUp s d := by
  unfold domUp mgcUp domOf
  rw [hb, hr]

/-- Whether memory answers rests on the domains, on DRAM and on the device's phase. -/
theorem ramErr_congr {s t : State} (hb : t.dev = s.dev) (hr : t.reef = s.reef) (hd : t.ddr = s.ddr) (a n : Nat) :
    ramErr t a n = ramErr s a n := by
  unfold ramErr dramUsable
  simp only [domUp_congr hb hr, hd]

theorem ramRead_of_free {s : State} {init a n : Nat} (hf : initFenced s init = false) (hc : actCheck s init accLoad a n = none)
    (he : ramErr s a n = none) : ramRead s init a n = (.ok (s.rd a n), s) := by
  rw [ramRead, hf, if_neg Bool.false_ne_true, hc]
  dsimp only
  rw [he]

theorem ramWrite_of_free {s : State} {init a : Nat} {bs : Bytes} (hf : initFenced s init = false)
    (hc : actCheck s init accStore a bs.length = none) (he : ramErr s a bs.length = none) :
    ramWrite s init a bs = (none, noteHomeWrite (s.wr a bs) a bs.length) := by
  rw [ramWrite, hf, if_neg Bool.false_ne_true, hc]
  dsimp only
  rw [he]

/-- A write of a unit changes no byte but those it names. -/
theorem ramWrite_mem_out {s : State} {init a x : Nat} {bs : Bytes} (hw : s.memWf = true) (hx : x < a ∨ a + bs.length ≤ x) :
    memRead (ramWrite s init a bs).2.mem x = memRead s.mem x := by
  unfold ramWrite
  split
  · rfl
  · split
    · rw [(actCheck_fields ‹_›).1]
    · split
      · rfl
      · exact memRead_memWriteN_out hw hx

end Sys2Proof.Machine

end

section

namespace Sys2Proof.Machine

/-! ## The Eaves engine (O39) -/

theorem fenceFault_line {s : State} {u : Nat} (code : W16) (hu : u ≤ 0x19) (hd : s.boot.dprActive = false) :
    (fenceFault s u code).cleatC.lines.getLsbD u = true := by
  cases hl : s.cleatC.lines.getLsbD u with
  | true => rwa [fenceFault, if_pos (by simp [hl])]
  | false =>
    have h := congrArg (fun v : State => v.cleatC.lines) (fenceFault_power code hu hd hl)
    change (fenceFault s u code).cleatC.lines = s.cleatC.lines ||| (1#40 <<< u) at h
    rw [h, BitVec.getLsbD_or, hl, Bool.false_or]
    simp
    omega

theorem initFenced_eaves {s : State} (h : eeUp s = true) : initFenced s eeInit = false := by
  rw [eeUp, Bool.and_eq_true] at h
  exact Bool.not_eq_true' .. ▸ h.2

/-- How a descriptor's end leaves the engine. -/
theorem eeEnd_ee (s : State) (a st rd : Nat) : (eeEnd s a st rd).ee =
    { s.ee with state := 0, running := none, done := true, desc := satAdd32 s.ee.desc 1 } := by
  have h := congrArg State.ee ((ramWrite_access (ramWrite s eeInit (a + 0x60) (toLE 1 st)).2 eeInit (a + 0x68) (toLE 8 rd)).trans
    (ramWrite_access ..))
  exact congrArg (fun e : Ee => { e with state := 0, running := none, done := true, desc := satAdd32 e.desc 1 }) h

theorem eeEnd_status {s : State} {a st rd : Nat} (hw : s.memWf = true) (hu : initFenced s eeInit = false)
    (hc : actCheck s eeInit accStore (a + 0x60) 1 = none) (he : ramErr s (a + 0x60) 1 = none) :
    memRead (eeEnd s a st rd).mem (a + 0x60) = BitVec.ofNat 8 st := by
  have hl : (toLE 1 st).length = 1 := toLE_length ..
  have h1 : ramWrite s eeInit (a + 0x60) (toLE 1 st) = _ := ramWrite_of_free hu (by rwa [hl]) (by rwa [hl])
  have hb : memRead (ramWrite s eeInit (a + 0x60) (toLE 1 st)).2.mem (a + 0x60) = BitVec.ofNat 8 st ∧
      (ramWrite s eeInit (a + 0x60) (toLE 1 st)).2.memWf = true := by
    rw [h1]
    exact ⟨(memRead_memWriteN_in (i := 0) hw (by rw [hl]; decide)).trans (by simp [toLE]), memWriteN_wf _ _ hw⟩
  exact (ramWrite_mem_out hb.2 (.inl (by omega))).trans hb.1

theorem eeDescriptor_taken {s u : State} {a : Nat} {b : Bytes} (ho : s.ee.offered = some a) (hu : eeUp s = true)
    (hs : s.ee.state = 0) (hok : ramRead { s with ee.offered := none } eeInit a 128 = (.ok b, u)) :
    exec .eeDescriptor s = if !(convDesc b).eavesOk then .next (eeEnd { u with ee.mode := decide (8 < (convDesc b).cin) } a 2 0)
      else if (convDesc b).isEmpty then .next (eeEnd { u with ee.mode := decide (8 < (convDesc b).cin) } a 1 0)
      else .next { u with ee.mode := decide (8 < (convDesc b).cin), ee.state := 1, ee.running := some a, ee.edesc := b } := by
  rw [exec, execEeDescriptor, ho]
  refine (if_neg (by simp [hu, hs])).trans ?_
  dsimp only
  rw [hok]

theorem eeDescriptorEnd_ends {s : State} {a : Nat} (hr : s.ee.running = some a) (hu : eeUp s = true) (hs : s.ee.state = 1) :
    ∃ t x y, exec .eeDescriptorEnd s = .next (eeEnd t a x y) ∧ t.ee.desc = s.ee.desc := by
  have hrun : SeqKeeps (do
      if ← blockOk eeUnit (convDesc s.ee.edesc) then
        runUnit eeUnit (convDesc s.ee.edesc) (convDesc s.ee.edesc).oy0 0
          ((convDesc s.ee.edesc).rowEnd - (convDesc s.ee.edesc).oy0)
        pure true
      else pure false : SeqM Bool) :=
    .bind .blockOk fun _ => .ite (.bind .runUnit fun _ => .pure) .pure
  have hd := congrArg (fun v : State => v.ee.desc) (hrun.access (eeStart s))
  rw [exec, execEeDescriptorEnd, hr]
  dsimp only
  rw [if_neg (by simp [hu, hs])]
  dsimp only [ExceptT.run] at hd ⊢
  split
  rename_i e
  rw [e] at hd
  split
  · exact ⟨_, _, _, rfl, rfl⟩
  · exact ⟨_, _, _, rfl, hd⟩
  · exact ⟨_, _, _, rfl, hd⟩

/-- Settles O39: by the cases of the descriptor taken; the sequencer leaves the engine's own registers to its end. -/
theorem eavesEngine : Obligations.EavesEngine := by
  intro s
  refine ⟨fun h => ?_, fun a ho hu hs hw hc he => ?_, fun a hr hu hs => ?_, fun hu mac => ?_⟩
  · rw [exec, execEeDescriptor]
    split
    · rfl
    · exact if_pos (by rcases h with h | h | h <;> simp_all)
  · intro d
    obtain ⟨u, hse⟩ : ∃ u : State, u = { s with ee.offered := none } := ⟨_, rfl⟩
    have hc' (acc x n : Nat) (h : actCheck s eeInit acc x n = none) : actCheck u eeInit acc x n = none :=
      actCheck_none_congr (by rw [hse]) h
    have he' (x n : Nat) : ramErr u x n = ramErr s x n := ramErr_congr (by rw [hse]) (by rw [hse]) (by rw [hse]) ..
    have hf : initFenced u eeInit = false := hse ▸ initFenced_eaves hu
    have hm : u.mem = s.mem := by rw [hse]
    have hd' : u.ee.desc = s.ee.desc := by rw [hse]
    have ho' : u.ee.offered = none := by rw [hse]
    have hok : ramRead u eeInit a 128 = (.ok (s.rd a 128), u) := by
      rw [ramRead_of_free hf (hc' _ _ _ hc) ((he' ..).trans he), State.rd, hm, State.rd]
    have hx : exec .eeDescriptor s = if !d.eavesOk then .next (eeEnd { u with ee.mode := decide (8 < d.cin) } a 2 0)
        else if d.isEmpty then .next (eeEnd { u with ee.mode := decide (8 < d.cin) } a 1 0)
        else .next { u with ee.mode := decide (8 < d.cin), ee.state := 1, ee.running := some a, ee.edesc := s.rd a 128 } :=
      eeDescriptor_taken ho hu hs (hse ▸ hok)
    clear_value d
    refine ⟨fun h1 h2 => Gives.intro (hx.trans ((if_neg (by rw [h1]; decide)).trans (if_neg (by rw [h2]; decide))))
      ⟨rfl, rfl, ho', rfl, rfl, hm⟩, fun h => ?_⟩
    have hend : exec .eeDescriptor s = .next (eeEnd { u with ee.mode := decide (8 < d.cin) } a (if d.eavesOk then 1 else 2) 0) := by
      refine hx.trans ?_
      cases hk : d.eavesOk with
      | false => exact if_pos rfl
      | true => exact (if_neg (by decide)).trans (if_pos (by simpa [hk] using h))
    refine Gives.intro hend ?_
    obtain ⟨v, hv⟩ : ∃ v : State, v = { u with ee.mode := decide (8 < d.cin) } := ⟨_, rfl⟩
    have hv1 : v.ee.desc = s.ee.desc := by rw [hv, hd']
    have hv2 : v.memWf = true := by rw [State.memWf, hv, hm]; exact hw
    rw [← hv, eeEnd_ee]
    refine ⟨rfl, rfl, rfl, by rw [hv1], fun h1 h2 => (eeEnd_status hv2 (by rw [hv]; exact hf) (actCheck_none_congr (by rw [hv])
      (hc' _ _ _ h1)) ((ramErr_congr (by rw [hv]) (by rw [hv]) (by rw [hv]) ..).trans ((he' ..).trans h2))).trans ?_⟩
    exact apply_ite (BitVec.ofNat 8) ..
  · rw [Gives]
    obtain ⟨t, x, y, he, hd⟩ := eeDescriptorEnd_ends hr hu hs
    refine ⟨_, he, ?_⟩
    rw [eeEnd_ee, hd]
    exact ⟨rfl, rfl, rfl, rfl⟩
  · refine Gives.intro (if_pos hu) ⟨fun hd => fenceFault_line _ (by decide) ?_, fun hl => (reportFault_of_room _ _ _ _ hl).1⟩
    have hm (u : State) (code : W16) : (mgcReport u 0x10 1 code 0).boot = u.boot := rfl
    exact (congrArg Boot.dprActive ((apply_ite State.boot ..).trans ((congrArg (ite _ · _) (hm ..)).trans (ite_self _)))).trans
      ((congrArg Boot.dprActive (cleatCPut_boot ..)).trans hd)

end Sys2Proof.Machine

end

section

namespace Sys2Proof.Machine

/-! ## Changes of one two-wire port -/

theorem twMod_get_same (s : State) (n : TwId) (f : TwPort → TwPort) : (twMod s n f).tw.get n = f (s.tw.get n) :=
  vmod_get_same ..

theorem twMod_get_other (s : State) {n m : TwId} (f : TwPort → TwPort) (h : m ≠ n) :
    (twMod s n f).tw.get m = s.tw.get m := vmod_get_other _ _ h

theorem twMod_twMod (s : State) (n : TwId) (f g : TwPort → TwPort) : twMod (twMod s n f) n g = twMod s n (g ∘ f) := by
  unfold twMod vmod
  simp

/-- The state but for the two-wire ports and what the end of a transfer changes beside them. -/
def State.sansXfer (s : State) : State := { s.sansReply with free := 0, tw := Vector.replicate 6 TwPort.reset }

theorem xfer_of_reply {s t : State} (h : t.sansReply = s.sansReply) : t.sansXfer = s.sansXfer := by
  have hv : ∀ u : State, u.sansXfer = u.sansReply.sansXfer := fun _ => rfl
  rw [hv, h, ← hv]

theorem twMod_xfer (s : State) (n : TwId) (f : TwPort → TwPort) : (twMod s n f).sansXfer = s.sansXfer := rfl

/-- A port after a transfer of it has ended. -/
def TwPort.ended (p : TwPort) (x : TwXfer) (stamp : Bytes) (result bytes attempts : Nat) (rd : Bytes) : TwPort :=
  let p := ({ p with
    result := BitVec.ofNat 4 result, bytes := BitVec.ofNat 8 bytes, attempts := BitVec.ofNat 4 attempts,
    rxbuf := overwrite p.rxbuf 0 (rd.take 64) } : TwPort).count 0
  match x.origin with
  | .cmd => { p with cmdBusy := false, done := true }
  | .obj _ => { p with objRes := toLE 1 result ++ toLE 1 bytes ++ toLE 1 attempts ++ [0] ++ rd }
  | .ctx c => { p with polled := p.polled ++ [(c, stamp, if result = 0 then some rd else none)] }

/-- The end of a transfer leaves what is due, in progress, and the states of the port. -/
theorem TwPort.ended_eq (p : TwPort) (x : TwXfer) (stamp : Bytes) (r b a : Nat) (rd : Bytes) :
    ∃ cmdBusy done objRes polled, p.ended x stamp r b a rd = { p with
      result := BitVec.ofNat 4 r, bytes := BitVec.ofNat 8 b, attempts := BitVec.ofNat 4 a,
      rxbuf := overwrite p.rxbuf 0 (rd.take 64), stats := vmod p.stats 0 (· + 1),
      cmdBusy := cmdBusy, done := done, objRes := objRes, polled := polled } := by
  unfold TwPort.ended
  split <;> exact ⟨_, _, _, _, rfl⟩

theorem answerOrigin_tw (s : State) (o : Origin) (i k : Nat) (a : Answer) : (answerOrigin s o i k a).tw = s.tw :=
  (congrArg State.tw (answerOrigin_reply s o i k a) :)

theorem xferEnd_tw (s : State) (n : TwId) (x : TwXfer) (stamp : Bytes) (r b a : Nat) (rd : Bytes) :
    (xferEnd s n x stamp r b a rd).tw = vmod s.tw n (·.ended x stamp r b a rd) := by
  have h (f g : TwPort → TwPort) : (twMod (twMod s n f) n g).tw = vmod s.tw n (g ∘ f) := congrArg State.tw (twMod_twMod ..)
  obtain ⟨o, ad, wd, rl⟩ := x
  cases o with
  | cmd => exact h ..
  | obj o => exact (answerOrigin_tw ..).trans (h ..)
  | ctx c => exact h ..

theorem xferEnd_xfer (s : State) (n : TwId) (x : TwXfer) (stamp : Bytes) (r b a : Nat) (rd : Bytes) :
    (xferEnd s n x stamp r b a rd).sansXfer = s.sansXfer := by
  unfold xferEnd
  dsimp only
  split
  · rfl
  · exact (xfer_of_reply (answerOrigin_reply ..)).trans rfl
  · rfl

theorem curEnd_of_none {s : State} {n : TwId} (h : (s.tw.get n).cur = none) (r b : Nat) (rd : Bytes) :
    curEnd s n r b rd = s := by
  unfold curEnd twPort
  rw [h]

theorem curEnd_of_some {s : State} {n : TwId} {c : TwCur} (h : (s.tw.get n).cur = some c) (r b : Nat) (rd : Bytes) :
    curEnd s n r b rd = xferEnd (twMod s n fun p => { p with cur := none }) n c.x c.stamp r b c.attempts rd := by
  unfold curEnd twPort
  rw [h]

theorem curEnd_xfer (s : State) (n : TwId) (r b : Nat) (rd : Bytes) : (curEnd s n r b rd).sansXfer = s.sansXfer := by
  unfold curEnd
  split
  · rfl
  · exact (xferEnd_xfer ..).trans rfl

/-- The ports after the transfer in progress has ended. -/
theorem curEnd_tw {s : State} {n : TwId} {c : TwCur} (h : (s.tw.get n).cur = some c) (r b : Nat) (rd : Bytes) :
    (curEnd s n r b rd).tw = vmod s.tw n fun p => { p with cur := none }.ended c.x c.stamp r b c.attempts rd := by
  rw [curEnd_of_some h, xferEnd_tw]
  exact congrArg State.tw (twMod_twMod s n _ fun p => p.ended c.x c.stamp r b c.attempts rd)

theorem curCut_of_none {s : State} {n : TwId} (h : (s.tw.get n).cur = none) (r : Nat) : curCut s n r = s := by
  unfold curCut twPort
  rw [h]

theorem curCut_of_some {s : State} {n : TwId} {c : TwCur} (h : (s.tw.get n).cur = some c) (r : Nat) :
    ∃ b rd, curCut s n r = curEnd (afterDraw s) n r b rd := by
  unfold curCut twPort
  rw [h]
  exact ⟨_, _, rfl⟩

theorem curCut_xfer (s : State) (n : TwId) (r : Nat) : (curCut s n r).sansXfer = s.sansXfer := by
  unfold curCut
  split
  · rfl
  · exact (curEnd_xfer ..).trans rfl

/-- The ports after the transfer in progress was cut short: how many bytes it counts, and which, is open. -/
theorem curCut_tw {s : State} {n : TwId} {c : TwCur} (h : (s.tw.get n).cur = some c) (r : Nat) : ∃ b rd,
    (curCut s n r).tw = vmod s.tw n fun p => { p with cur := none }.ended c.x c.stamp r b c.attempts rd := by
  obtain ⟨b, rd, he⟩ := curCut_of_some h r
  exact ⟨b, rd, he ▸ curEnd_tw (s := afterDraw s) h r b rd⟩

end Sys2Proof.Machine

end

section

namespace Sys2Proof.Machine

/-! ## The target engine and the states of a two-wire port (O53) -/

/-- One port becomes y; the other ports, memory, capture and the node stay. -/
def Gives.portOnly (c : Instr) (s : State) (n : TwId) (y : TwPort) : Prop := Gives c s fun t =>
  t.tw.get n = y ∧ (∀ m : TwId, m ≠ n → t.tw.get m = s.tw.get m) ∧ t.mem = s.mem ∧ t.cap = s.cap ∧ t.node = s.node

theorem portOnly_of_mod {c : Instr} {s : State} {n : TwId} {y : TwPort} (f : TwPort → TwPort)
    (h : exec c s = .next (twMod s n f)) (hy : f (s.tw.get n) = y) : Gives.portOnly c s n y :=
  Gives.intro h ⟨(twMod_get_same ..).trans hy, fun _ hm => twMod_get_other _ _ hm, rfl, rfl, rfl⟩

theorem portOnly_of_sent {c : Instr} {s : State} {n : TwId} {y : TwPort} (f : TwPort → TwPort) (o : Output)
    (h : exec c s = .next (emit (twMod s n f) o)) (hy : f (s.tw.get n) = y) : Gives.portOnly c s n y :=
  Gives.intro h ⟨(twMod_get_same ..).trans hy, fun _ hm => twMod_get_other _ _ hm, rfl, rfl, rfl⟩

theorem canPort_twId {k : CanPort} {n : TwId} (h : k.val = n.val) : Fin.ofNat 6 k.val = n :=
  Fin.ext ((Nat.mod_eq_of_lt (by omega)).trans h)

theorem named_iff {p : TwPort} {a : Byte} : p.named a = true ↔ a.toNat / 2 = p.taddr.toNat := by simp [TwPort.named]

theorem twUp_mgcUp {s : State} {n : TwId} (h : twUp s n = true) : mgcUp s = true := by
  unfold twUp at h
  split at h
  · exact h
  · simp only [domRuns, Bool.and_eq_true] at h
    exact h.1.1.1

section
variable {s : State} {n : TwId} (hu : twUp s n = true)
include hu

theorem targetAddress_serves {a : Byte} (hs : (s.tw.get n).asleep = false)
    (ht : ((s.tw.get n).targetOn && (s.tw.get n).named a) = true)
    (hc : ∀ c, (s.tw.get n).cur = some c → c.waiting = true) :
    exec (.twTargetAddress n a) s = .next (emit (targetBegin s n a) (.tw n [])) := by
  refine (if_neg (by simp [hu, twPort, hs])).trans (if_pos (Bool.and_eq_true_iff.2 ⟨ht, ?_⟩))
  change (match (s.tw.get n).cur with | some c => c.waiting | none => true) = true
  cases h : (s.tw.get n).cur with
  | none => rfl
  | some c => exact hc c h

theorem targetAddress_busy {a : Byte} (hs : (s.tw.get n).asleep = false)
    (h : ((s.tw.get n).targetOn && (s.tw.get n).named a) = false ∨ ∃ c, (s.tw.get n).cur = some c ∧ c.waiting = false) :
    exec (.twTargetAddress n a) s = .next (twMod s n fun p => { p with busy := true }) := by
  refine (if_neg (by simp [hu, twPort, hs])).trans (if_neg fun hc => ?_)
  obtain ⟨ht, hw⟩ := Bool.and_eq_true_iff.1 hc
  change (match (s.tw.get n).cur with | some c => c.waiting | none => true) = true at hw
  rcases h with h | ⟨c, h, hcw⟩
  · exact absurd (h.symm.trans ht) (by decide)
  · rw [h] at hw
    exact absurd (hcw.symm.trans hw) (by decide)

theorem targetWriteByte_pointer {t : TwTarget} {b : Byte} (ht : (s.tw.get n).target = some t) (hr : t.read = false)
    (hf : t.first = true) : exec (.twTargetWriteByte n b) s = .next (emit (twMod s n fun q =>
      { q with ptr := b, target := some { t with first := false, firstPtr := b, lastPtr := b } }) (.tw n [])) := by
  rw [exec, execTwTargetWriteByte, twPort, ht]
  exact (if_neg (by simp [hu, hr])).trans (if_pos hf)

theorem targetWriteByte_stored {t : TwTarget} {b : Byte} {prot : Bool} (ht : (s.tw.get n).target = some t)
    (hr : t.read = false) (hf : t.first = false) (hp : lineProtected (s.tw.get n) (s.tw.get n).ptr = prot) :
    exec (.twTargetWriteByte n b) s = .next (emit (twMod s n fun q => { q with
      win := if prot then q.win else overwrite q.win q.ptr.toNat [b], ptr := q.ptr + 1,
      target := some { t with lastPtr := q.ptr, count := if prot then t.count else t.count + 1 } }) (.tw n [])) := by
  subst hp
  rw [exec, execTwTargetWriteByte, twPort, ht]
  refine (if_neg (by simp [hu, hr])).trans ((if_neg (by simp [hf])).trans ?_)
  rfl

theorem targetReadByte_given {t : TwTarget} {r : Bool} (ht : (s.tw.get n).target = some t) (hr : t.read = true)
    (hf : t.first = true) : exec (.twTargetReadByte n r) s = .next (emit (twMod s n fun q =>
      { q with ptr := q.ptr + 1, target := some { t with first := r } }) (.tw n [byteAt (s.tw.get n).win (s.tw.get n).ptr.toNat])) := by
  rw [exec, execTwTargetReadByte, twPort, ht]
  exact if_neg (by simp [hu, hr, hf])

theorem stop_write {t : TwTarget} {r : Bool} (ht : (s.tw.get n).target = some t) (hr : t.read = false) :
    exec (.twStop n r) s = .next (twMod s n fun q => { q with
      target := none, winFirst := t.firstPtr, winLast := t.lastPtr, winCount := t.count, winWr := true,
      busy := q.busy || r }) := by
  rw [exec, execTwStop, twPort, ht]
  exact (if_neg (by simp [hu])).trans (if_neg (by simp [hr]))

theorem stop_read {t : TwTarget} {r : Bool} (ht : (s.tw.get n).target = some t) (hr : t.read = true) :
    exec (.twStop n r) s = .next (twMod s n fun q => { applyDeferred q with target := none, busy := q.busy || r }) := by
  rw [exec, execTwStop, twPort, ht]
  exact (if_neg (by simp [hu])).trans (if_pos hr)

theorem enableWrite_off {v : W32} (hv : v.getLsbD 0 = false) :
    exec (.twEnableWrite n v) s = .next (twMod (curCut s n trAborted) n fun p => { applyDeferred p with
      cfg := v.extractLsb' 0 24, target := none, asleep := false, gateAt := none }) :=
  (if_pos hu).trans (congrArg Host.Outcome.next ((if_neg (by rw [hv, Bool.and_false]; decide)).trans (if_neg (by rw [hv]; decide))))

omit hu

theorem twStop_of_none (ht : (s.tw.get n).target = none) (b : Byte) (r : Bool) :
    exec (.twTargetWriteByte n b) s = .next s ∧ exec (.twTargetReadByte n r) s = .next s ∧ exec (.twStop n r) s = .next s := by
  simp only [exec, execTwTargetWriteByte, execTwTargetReadByte, execTwStop, twPort, ht, and_self]

/-- Whether an external read of the window is in progress. -/
def TwPort.reading (p : TwPort) : Bool := p.target.any (·.read)

theorem reading_iff {p : TwPort} : p.reading = true ↔ ∃ t, p.target = some t ∧ t.read = true := by
  simp [TwPort.reading, Option.any_eq_true]

theorem windowWrite_eq (s : State) (n : TwId) (off : Byte) (d : Bytes) : windowWrite s n off d =
    if (s.tw.get n).reading = false then twMod s n fun p => { p with win := overwrite p.win off.toNat d }
    else if (s.tw.get n).deferred.length < 8 then twMod s n fun p => { p with deferred := p.deferred ++ [(off, d)] }
    else twMod s n fun p => { p with win := overwrite p.win off.toNat d, torn := true } := by
  have hr : (match (s.tw.get n).target with | some t => t.read | none => false) = (s.tw.get n).reading := by
    rw [TwPort.reading]
    cases (s.tw.get n).target <;> rfl
  change (if (!match (s.tw.get n).target with | some t => t.read | none => false) = true then _ else _) = _
  rw [hr]
  cases (s.tw.get n).reading <;> rfl

theorem busFree_inUse (h : (s.tw.get n).target.isSome = true ∨ ∃ c, (s.tw.get n).cur = some c ∧ c.waiting = false) :
    exec (.twBusFree n) s = .next s := by
  rw [exec, execTwBusFree]
  refine if_pos ?_
  unfold twPort
  rcases h with h | ⟨c, h, hw⟩
  · simp [h]
  · simp [h, hw]

theorem busFree_free (hu : twUp s n = true) (ht : (s.tw.get n).target = none)
    (hc : ∀ c, (s.tw.get n).cur = some c → c.waiting = true) :
    exec (.twBusFree n) s = .next (twMod s n fun p => sleepNow n { p with
      busy := false, sclLow := false, modeNow := BitVec.ofNat 2 (bits p.cfg.toNat 3 2),
      gfNow := BitVec.ofNat 4 (bits p.cfg.toNat 5 4), timNow := p.tim }) := by
  rw [exec, execTwBusFree]
  refine if_neg ?_
  unfold twPort
  cases h : (s.tw.get n).cur with
  | none => simp [hu, ht]
  | some c => simp [hu, ht, hc c h]

end

theorem doze_eq {s : State} {n : TwId} {k : CanPort} (hk : k.val = n.val) : exec (.twDoze k) s =
    if mgcUp s && (s.tw.get n).en && (s.tw.get n).sleepBit && !(s.tw.get n).busy && (s.tw.get n).queue.isEmpty &&
      (s.tw.get n).cur.isNone then .next (twMod s n fun p => { p with asleep := true, gateAt := some s.pht.cycles })
    else .next s := by
  obtain rfl := canPort_twId hk
  rfl

theorem dozeWake_eq {s : State} {n : TwId} {k : CanPort} (hm : mgcUp s = true) (hk : k.val = n.val)
    (hs : (s.tw.get n).asleep = true) (a : Byte) : exec (.twDozeWake k a) s =
    if (s.tw.get n).targetOn && (s.tw.get n).named a then
      .next (emit (twMod s n fun p =>
        let q := ({ p with asleep := false, gateAt := none, wake := true, wakeCnt := satInc16 p.wakeCnt } : TwPort).count 5
        { q with busy := true, target := some { read := a.getLsbD 0, first := true, firstPtr := q.ptr, lastPtr := q.ptr, count := 0 } })
        (.tw n []))
    else .next (twMod s n fun p => { p with busy := true, gateAt := none }) := by
  obtain rfl := canPort_twId hk
  rw [exec, execTwDozeWake]
  refine (if_neg (by rw [hm, twPort, hs]; decide)).trans ?_
  unfold targetBegin
  rw [twMod_twMod]
  rfl

/-- Settles O53, by one equation for each command of the port. -/
theorem twoWireTarget : Obligations.TwoWireTarget := by
  intro s n hu p is_ counts
  have hp : twPort s n = p := rfl
  have hmg := twUp_mgcUp hu
  refine ⟨fun a => ?_, fun t b r ht => ?_, fun ht b r => twStop_of_none ht b r, fun off d => ?_, fun ht hc => ?_,
    busFree_inUse, fun v => ?_, fun k hk => ?_, fun hn => ?_, fun hn => ?_, ?_⟩
  · intro open_ serve
    have ho : open_ ↔ (p.targetOn && p.named a) = true := by rw [Bool.and_eq_true, named_iff]
    have hno (h : ¬ open_) : (p.targetOn && p.named a) = false := by rwa [ho, Bool.not_eq_true] at h
    refine ⟨fun hs h hc => portOnly_of_sent _ _ (targetAddress_serves hu hs (ho.1 h) hc) rfl,
      fun hs h => portOnly_of_mod _ (targetAddress_busy hu hs (h.imp_left hno)) rfl,
      fun hs => if_pos (by simp [hp, hs]), fun k hk hs => ⟨fun h => ?_, fun h => ?_⟩, fun h2 hs h => ?_, fun h => if_neg ?_⟩
    · exact portOnly_of_sent _ _ ((dozeWake_eq hmg hk hs a).trans (if_pos (ho.1 h))) rfl
    · exact portOnly_of_mod _ ((dozeWake_eq hmg hk hs a).trans (if_neg (by rw [hno h]; decide))) rfl
    · exact portOnly_of_mod _ (if_pos (by simp [hu, hp, hs, h2, named_iff, h])) rfl
    · simp only [hp, Bool.and_eq_true, named_iff, decide_eq_true_eq]
      rintro ⟨⟨⟨-, h2⟩, hs⟩, hn⟩
      rcases h with h | h | h
      · omega
      · exact absurd (hs.symm.trans h) (by decide)
      · exact h hn
  · refine ⟨fun hr => ⟨fun hf => ?_, fun hf hw => ?_, fun hf hw => ?_, ?_, ?_⟩, fun hr => ⟨fun hf => ⟨?_, ?_⟩, ?_, ?_⟩⟩
    · exact portOnly_of_sent _ _ (targetWriteByte_pointer hu ht hr hf) rfl
    · exact portOnly_of_sent _ _ (targetWriteByte_stored hu ht hr hf hw) rfl
    · exact portOnly_of_sent _ _ (targetWriteByte_stored hu ht hr hf hw) rfl
    · exact portOnly_of_mod _ (stop_write hu ht hr) rfl
    · rw [exec, execTwTargetReadByte, hp, ht]
      exact if_pos (by simp [hr])
    · exact portOnly_of_sent _ _ (targetReadByte_given hu ht hr hf) rfl
    · exact Gives.intro (targetReadByte_given hu ht hr hf) rfl
    · exact portOnly_of_mod _ (stop_read hu ht hr) rfl
    · rw [exec, execTwTargetWriteByte, hp, ht]
      exact if_pos (by simp [hr])
  · have hx : exec (.twWindowInternalWrite n off d) s = .next _ := (if_pos hu).trans (congrArg _ (windowWrite_eq ..))
    have hrd := reading_iff (p := p)
    refine ⟨fun h => portOnly_of_mod _ (hx.trans (congrArg _ (if_pos ?_))) rfl,
      fun h hl => portOnly_of_mod _ (hx.trans (congrArg _ ((if_neg ?_).trans (if_pos hl)))) rfl,
      fun h hl => portOnly_of_mod _ (hx.trans (congrArg _ ((if_neg ?_).trans (if_neg (Nat.not_lt.2 hl))))) rfl⟩
    · rwa [← hrd, Bool.not_eq_true] at h
    · rw [hrd.2 h]; decide
    · rw [hrd.2 h]; decide
  · exact portOnly_of_mod _ (busFree_free hu ht hc) (by simp [sleepNow, TwPort.sleepBit, TwPort.en, p])
  · refine ⟨fun hf hv => ?_, fun hf hv => ?_, fun hv hc => ?_, fun c hv hc => ?_⟩
    · exact (if_pos hu).trans (congrArg _ (if_pos (by simp [hp, hf, hv])))
    · refine portOnly_of_mod _ ((if_pos hu).trans (congrArg _ ((if_neg (by simp [hp, hf])).trans (if_pos hv)))) ?_
      have hf' : (s.tw.get n).fault = false := hf
      have h0 : v[0] = true := hv
      simp [sleepNow, TwPort.sleepBit, TwPort.en, p, hf', h0, Bool.and_assoc]
    · refine portOnly_of_mod _ ((enableWrite_off hu hv).trans (by rw [curCut_of_none hc])) rfl
    · obtain ⟨b, rd, he⟩ := curCut_tw hc trAborted
      refine Gives.intro (enableWrite_off hu hv) ?_
      rw [twMod_get_same, he, vmod_get_same]
      obtain ⟨x1, x2, x3, x4, h⟩ := TwPort.ended_eq { p with cur := none } c.x c.stamp trAborted b c.attempts rd
      rw [h]
      exact ⟨rfl, rfl, by simp only [TwPort.en, BitVec.getLsbD_extractLsb', Nat.add_zero, hv, Bool.and_false]⟩
  · refine ⟨fun he hs hb hq hc => ?_, fun h => ?_⟩
    · refine portOnly_of_mod (n := n) _ ((doze_eq hk).trans (if_pos ?_)) rfl
      simp [hmg, he, hs, hb, hq, hc, p]
    · refine (doze_eq hk).trans (if_neg fun hx => ?_)
      simp only [Bool.and_eq_true, Bool.not_eq_true', List.isEmpty_iff, Option.isNone_iff_eq_none] at hx
      obtain ⟨⟨⟨⟨⟨-, he⟩, hs⟩, hb⟩, hq⟩, hc⟩ := hx
      rcases h with h | h | h | h | h
      · exact absurd (hb.symm.trans h) (by decide)
      · exact absurd h (by rw [hc]; decide)
      · exact absurd (hs.symm.trans h) (by decide)
      · exact absurd (he.symm.trans h) (by decide)
      · exact h hq
  · refine portOnly_of_mod _ (if_pos (by simp [hu, hn])) ?_
    simp [sleepNow, TwPort.sleepBit, TwPort.en, hn, p]
  · exact if_neg (by simp; omega)
  · exact portOnly_of_mod _ (if_neg (by simp [hu])) rfl

end Sys2Proof.Machine

end

section

namespace Sys2Proof.Machine

/-! ## The controller of a two-wire port (O52) -/

theorem TwPort.count_stats_other (p : TwPort) {i : Fin 6} (h : i ≠ 0) : (p.count i).stats.get 0 = p.stats.get 0 :=
  vmod_get_other _ _ h.symm

/-- A port whose transfer in progress, if any, has ended with RESULT r. -/
structure TwPort.Cut (p y : TwPort) (r : Nat) : Prop where
  result : p.cur.isSome = true → y.result = BitVec.ofNat 4 r
  count : y.stats.get 0 = p.stats.get 0 + BitVec.ofNat 32 (b2n p.cur.isSome)
  rest : y = { p with cur := none, result := y.result, bytes := y.bytes, attempts := y.attempts, rxbuf := y.rxbuf,
                      stats := y.stats, cmdBusy := y.cmdBusy, done := y.done, objRes := y.objRes, polled := y.polled }

theorem TwPort.Cut.keeps {p y : TwPort} {r : Nat} (h : p.Cut y r) : y.cur = none ∧ y.queue = p.queue ∧ y.fault = p.fault ∧
    y.timeoutCnt = p.timeoutCnt ∧ y.recovCnt = p.recovCnt := by
  rw [h.rest]
  exact ⟨rfl, rfl, rfl, rfl, rfl⟩

theorem TwPort.cut_of_none {p : TwPort} (h : p.cur = none) (r : Nat) : p.Cut p r where
  result hs := by rw [h] at hs; cases hs
  count := by rw [h]; simp [b2n]
  rest := by rw [← h]

theorem TwPort.cut_of_some {p : TwPort} (h : p.cur.isSome = true) (x : TwXfer) (stamp : Bytes) (r b a : Nat) (rd : Bytes) :
    p.Cut ({ p with cur := none }.ended x stamp r b a rd) r := by
  obtain ⟨x1, x2, x3, x4, he⟩ := TwPort.ended_eq { p with cur := none } x stamp r b a rd
  rw [he]
  exact ⟨fun _ => rfl, (vmod_get_same ..).trans (by rw [h]; rfl), rfl⟩

theorem curCut_cut (s : State) (n : TwId) (r : Nat) : (s.tw.get n).Cut ((curCut s n r).tw.get n) r := by
  cases h : (s.tw.get n).cur with
  | none =>
    rw [curCut_of_none h]
    exact TwPort.cut_of_none h r
  | some c =>
    obtain ⟨b, rd, he⟩ := curCut_tw h r
    rw [he, vmod_get_same]
    exact TwPort.cut_of_some (by rw [h]; rfl) ..

theorem curCut_others (s : State) {n m : TwId} (r : Nat) (hm : m ≠ n) : (curCut s n r).tw.get m = s.tw.get m := by
  cases h : (s.tw.get n).cur with
  | none => rw [curCut_of_none h]
  | some c =>
    obtain ⟨b, rd, he⟩ := curCut_tw h r
    rw [he, vmod_get_other _ _ hm]

/-! ### Conditions of a port -/

theorem twCondition_tw (s : State) (n : TwId) (code : Nat) :
    ∃ c, (twCondition s n code).tw = vmod s.tw n fun p => { p with cond := c } := by
  have hid : s.tw = vmod s.tw n fun p => { p with cond := (s.tw.get n).cond } := (vput_self ..).symm
  unfold twCondition
  dsimp only
  split
  · exact ⟨_, raiseStanding_tw ..⟩
  · exact ⟨_, raiseStanding_tw ..⟩
  · unfold raiseLimited
    split
    · exact ⟨_, hid⟩
    · exact ⟨_, (raiseEmcy_tw ..).trans hid⟩
  · exact ⟨_, raiseStanding_tw ..⟩
  · exact ⟨_, clearStanding_tw ..⟩
  · exact ⟨_, hid⟩

theorem twCondition_cap (s : State) (n : TwId) (code : Nat) : (twCondition s n code).cap = s.cap := by
  unfold twCondition raiseLimited
  dsimp only
  split
  · simp
  · simp
  · split <;> simp
  · simp
  · simp
  · rfl

/-- A port's condition is the MGC's at once, or after a report that finds room; one that finds none is lost. -/
theorem twReport_condition (s : State) (n : TwId) (code : Nat) :
    (∃ t k, twReport s n code = twCondition t n k ∧ t.tw = s.tw ∧ t.cap = s.cap) ∨
      (twReport s n code).tw = s.tw ∧ (twReport s n code).cap = s.cap := by
  unfold twReport
  split
  · exact .inl ⟨s, code, rfl, rfl, rfl⟩
  · rename_i hn
    have hu : twUnit n = BitVec.ofNat 8 (0x12 + n.val) := if_neg hn
    have hr (t : State) (c : W16) : mgcReport t (twUnit n) 5 c 0 = twCondition (countClass t 5) n c.toNat := by
      have hv : (twUnit n).toNat = 0x12 + n.val := by
        rw [hu, BitVec.toNat_ofNat]
        omega
      have hb : 0x14 ≤ (twUnit n).toNat ∧ (twUnit n).toNat ≤ 0x17 := by omega
      have hn' : Fin.ofNat 6 ((twUnit n).toNat - 0x12) = n := Fin.ext (by simp [hv])
      exact (if_pos hb).trans (by rw [hn'])
    unfold reportFault
    rw [if_neg (by decide)]
    by_cases hl : s.cleatC.fifo.length < 32
    · exact .inl ⟨_, _, (if_pos (decide_eq_true hl)).trans (hr ..), (cleatCPut_tw ..).trans rfl, (cleatCPut_cap ..).trans rfl⟩
    · rw [if_neg (by rw [decide_eq_true_eq]; exact hl)]
      exact .inr ⟨cleatCPut_tw .., cleatCPut_cap ..⟩

theorem twReport_tw (s : State) (n : TwId) (code : Nat) :
    ∃ c, (twReport s n code).tw = vmod s.tw n fun p => { p with cond := c } := by
  obtain ⟨t, k, he, htw, -⟩ | ⟨htw, -⟩ := twReport_condition s n code
  · obtain ⟨c, hc⟩ := twCondition_tw t n k
    exact ⟨c, by rw [he, hc, htw]⟩
  · exact ⟨(s.tw.get n).cond, htw.trans (vput_self ..).symm⟩

theorem twReport_cap (s : State) (n : TwId) (code : Nat) : (twReport s n code).cap = s.cap := by
  obtain ⟨t, k, he, -, hc⟩ | ⟨-, hc⟩ := twReport_condition s n code
  · rw [he, twCondition_cap, hc]
  · exact hc

/-! ### FAULT -/

/-- A port in FAULT with nothing in progress, k transfers ended. -/
structure TwPort.Faulted (p : TwPort) (cause : BitVec 2) (k : W32) : Prop where
  fault : p.fault = true
  cause : p.fcause = cause
  target : p.target = none
  cur : p.cur = none
  queue : p.queue = []
  count : p.stats.get 0 = k

theorem TwPort.Faulted.ended {p : TwPort} {cause : BitVec 2} {k : W32} (h : p.Faulted cause k) (x : TwXfer) (stamp : Bytes)
    (r b a : Nat) (rd : Bytes) : (p.ended x stamp r b a rd).Faulted cause (k + 1) := by
  obtain ⟨x1, x2, x3, x4, he⟩ := TwPort.ended_eq p x stamp r b a rd
  rw [he]
  exact ⟨h.fault, h.cause, h.target, h.cur, h.queue, (vmod_get_same ..).trans (by rw [h.count])⟩

/-- The transfers due of a port in FAULT end one after another. -/
theorem faultQueue_spec (l : List TwXfer) {t : State} {n : TwId} {cause : BitVec 2} {k : W32}
    (h : (t.tw.get n).Faulted cause k) :
    let u := l.foldl (fun t x => xferEnd t n x [] trFault 0 0 []) t
    (u.tw.get n).Faulted cause (k + BitVec.ofNat 32 l.length) ∧
      (l ≠ [] ∨ (t.tw.get n).result = 5 → (u.tw.get n).result = 5) := by
  induction l generalizing t k with
  | nil => exact ⟨by simpa using h, fun hr => hr.resolve_left (· rfl)⟩
  | cons x l ih =>
    have hp : (xferEnd t n x [] trFault 0 0 []).tw.get n = (t.tw.get n).ended x [] trFault 0 0 [] := by
      rw [xferEnd_tw, vmod_get_same]
    obtain ⟨hf, hr⟩ := ih (hp ▸ h.ended x [] trFault 0 0 [])
    refine ⟨?_, fun _ => hr (.inr ?_)⟩
    · rw [BitVec.add_assoc] at hf
      rw [List.length_cons, Nat.add_comm, BitVec.ofNat_add]
      exact hf
    · obtain ⟨x1, x2, x3, x4, he⟩ := TwPort.ended_eq (t.tw.get n) x [] trFault 0 0 []
      rw [hp, he]
      rfl

theorem faultQueue_xfer (l : List TwXfer) (t : State) (n : TwId) :
    (l.foldl (fun t x => xferEnd t n x [] trFault 0 0 []) t).sansXfer = t.sansXfer :=
  foldl_view (V := State.sansXfer) (fun _ _ => xferEnd_xfer ..) l t

/-- A port that enters FAULT: every transfer due ends, and the contexts on it lose their source. -/
theorem twFault_spec (s : State) (n : TwId) (cause : Nat) :
    let p := s.tw.get n
    let t := twFault s n cause
    (t.tw.get n).Faulted (BitVec.ofNat 2 cause)
        (p.stats.get 0 + BitVec.ofNat 32 (p.queue.length + b2n p.cur.isSome)) ∧
      (p.queue ≠ [] → (t.tw.get n).result = 5) ∧
      ∀ e ∈ s.cap.ctxs, e.2.en = true → ctxTw e.2 = some n → (e.1, { e.2 with st := 3 }) ∈ t.cap.ctxs := by
  intro p
  unfold twFault twPort
  extract_lets a b q d
  have ha : a.tw.get n = { applyDeferred p with fault := true, fcause := BitVec.ofNat 2 cause, target := none, asleep := false } :=
    twMod_get_same ..
  have hc : (a.tw.get n).Cut (b.tw.get n) trFault := curCut_cut ..
  have hb : b.cap = s.cap := (congrArg State.cap (curCut_xfer a n trFault) :)
  clear_value a b
  have hq : q = p.queue := (congrArg TwPort.queue hc.rest).trans (by rw [ha]; rfl)
  have h0 : ((twMod b n fun p => { p with queue := [] }).tw.get n).Faulted (BitVec.ofNat 2 cause)
      (p.stats.get 0 + BitVec.ofNat 32 (b2n p.cur.isSome)) := by
    rw [twMod_get_same]
    have hk := hc.count
    rw [hc.rest] at hk ⊢
    rw [ha] at hk ⊢
    exact ⟨rfl, rfl, rfl, rfl, rfl, hk⟩
  obtain ⟨hf, hr⟩ := faultQueue_spec q h0
  have hd : d.cap = s.cap := (congrArg State.cap (faultQueue_xfer q (twMod b n fun p => { p with queue := [] }) n) :).trans hb
  change (d.tw.get n).Faulted _ _ at hf
  change _ → (d.tw.get n).result = 5 at hr
  clear_value d
  obtain ⟨k, hk⟩ := twReport_tw (twContextsLost d n) n cause
  have hp : (twReport (twContextsLost d n) n cause).tw.get n = { d.tw.get n with cond := k } := by
    rw [hk, vmod_get_same]
    rfl
  rw [hp, twReport_cap]
  refine ⟨⟨hf.fault, hf.cause, hf.target, hf.cur, hf.queue, hf.count.trans ?_⟩, fun h => hr (.inl (hq ▸ h)), fun e he h1 h2 => ?_⟩
  · rw [BitVec.add_assoc, ← BitVec.ofNat_add, hq, Nat.add_comm]
  · refine List.mem_map.2 ⟨e, hd ▸ he, if_pos ?_⟩
    simp [h1, h2]

/-! ### Commands -/

theorem twCommand_go {s : State} {n : TwId} {v : W32} (hu : twUp s n = true) (hg : v.getLsbD 7 = true)
    (hb : (s.tw.get n).cmdBusy = false) : exec (.twCommand n v) s = .next (xferDue (twMod s n fun p => { p with
      cmdAddr := v.extractLsb' 0 7, wlen := v.extractLsb' 8 8, rlen := v.extractLsb' 16 8,
      cmdBusy := true, asleep := false, gateAt := none }) n
        { origin := .cmd, addr := v.extractLsb' 0 7,
          wdata := slice (s.tw.get n).txbuf 0 (min 64 (bits v.toNat 8 8)), rlen := min 64 (bits v.toNat 16 8) }) := by
  refine (if_pos hu).trans (congrArg Host.Outcome.next ((if_neg (by rw [twPort, hb]; simp)).trans ((if_pos hg).trans ?_)))
  rw [twMod_twMod]
  rfl

theorem xferDue_of_fault {s : State} {n : TwId} (x : TwXfer) (h : (s.tw.get n).fault = true) :
    xferDue s n x = xferEnd s n x [] trFault 0 0 [] := if_pos h

theorem xferDue_of_ok {s : State} {n : TwId} (x : TwXfer) (h : (s.tw.get n).fault = false) :
    xferDue s n x = twMod s n fun p => { p with queue := p.queue ++ [x] } := if_neg (by rw [twPort, h]; decide)

/-- A command that puts out a START of a transfer. -/
theorem starts_of {c : Instr} {s u : State} {n : TwId} {x : TwCur} {q : List TwXfer} (h : exec c s = .next (xferStart u n x))
    (hq : (u.tw.get n).queue = q) (ho : u.out = s.out) (hm : u.mem = s.mem) (hp : u.pht = s.pht) : Gives c s fun t =>
      (t.tw.get n).cur = some { x with attempts := x.attempts + 1, waiting := false, stamp := stampNow s } ∧
      (t.tw.get n).busy = true ∧ (t.tw.get n).queue = q ∧ t.out = s.out ++ [.tw n (xferBytes x.x)] ∧ t.mem = s.mem := by
  have hst : stampNow u = stampNow s := by rw [stampNow, hp, stampNow]
  have hport : (xferStart u n x).tw.get n = _ := twMod_get_same u n fun p => { p with
    busy := true, cur := some { x with attempts := x.attempts + 1, waiting := false, stamp := stampNow u } }
  refine Gives.intro h ?_
  rw [hport, hst]
  exact ⟨rfl, rfl, hq, congrArg (· ++ _) ho, hm⟩

/-- A command that ends the transfer in progress. -/
theorem ends_of {c : Instr} {s u : State} {n : TwId} {x : TwCur} {r b : Nat} {rd : Bytes}
    (h : exec c s = .next (curEnd u n r b rd)) (hc : (u.tw.get n).cur = some x)
    (hs : (u.tw.get n).stats.get 0 = (s.tw.get n).stats.get 0) (ho : ∀ m, m ≠ n → u.tw.get m = s.tw.get m) :
    Gives c s fun t => (t.tw.get n).cur = none ∧ (t.tw.get n).result = BitVec.ofNat 4 r ∧
      (t.tw.get n).bytes = BitVec.ofNat 8 b ∧ (t.tw.get n).stats.get 0 = (s.tw.get n).stats.get 0 + 1 ∧
      ∀ m : TwId, m ≠ n → t.tw.get m = s.tw.get m := by
  refine Gives.intro h ?_
  rw [curEnd_tw hc]
  refine ⟨?_, ?_, ?_, ?_, fun m hm => (vmod_get_other _ _ hm).trans (ho m hm)⟩
  all_goals
    rw [vmod_get_same]
    obtain ⟨x1, x2, x3, x4, he⟩ := TwPort.ended_eq { u.tw.get n with cur := none } x.x x.stamp r b x.attempts rd
    rw [he]
  exact (vmod_get_same ..).trans (by rw [hs])

section
variable {s : State} {n : TwId} {c : TwCur} (hc : (s.tw.get n).cur = some c) (hu : twUp s n = true) (hw : c.waiting = false)
include hc hu hw

theorem transferEnd_acked (rd : Bytes) : exec (.twTransferEnd n (.acked rd)) s =
    .next (curEnd s n trOk (c.x.wdata.length + c.x.rlen) (padTo c.x.rlen rd)) := by
  rw [exec, execTwTransferEnd, twPort, hc]
  exact if_neg (by simp [hu, hw])

theorem transferEnd_nackData (k : Nat) : exec (.twTransferEnd n (.nackData k)) s =
    .next (curEnd (twMod s n fun p => ({ p with nackCnt := satInc16 p.nackCnt } : TwPort).count 1) n trNackData
          (min k c.x.wdata.length) []) := by
  rw [exec, execTwTransferEnd, twPort, hc]
  exact if_neg (by simp [hu, hw])

theorem transferEnd_nackAddr (second : Bool) : exec (.twTransferEnd n (.nackAddr second)) s =
    if c.nacks < (s.tw.get n).nakRetry then
      .next (xferStart (twMod s n fun p => ({ p with nackCnt := satInc16 p.nackCnt } : TwPort).count 1) n
        { c with nacks := c.nacks + 1 })
    else .next (curEnd (twMod s n fun p => ({ p with nackCnt := satInc16 p.nackCnt } : TwPort).count 1) n trNackAddr
          (if second then c.x.wdata.length else 0) []) := by
  rw [exec, execTwTransferEnd, twPort, hc]
  exact if_neg (by simp [hu, hw])

/-- The state once a lost arbitration is noted (R440). -/
def arbNoted (s : State) (n : TwId) (c : TwCur) (byte bit : Nat) : State :=
  twMod s n fun p => ({ p with
    arbLost := true, arbByte := BitVec.ofNat 8 byte, arbBit := BitVec.ofNat 4 bit,
    arbAttempt := BitVec.ofNat 4 c.attempts, arbCount := p.arbCount + 1, busy := true } : TwPort).count 2

theorem arbLost_eq (byte bit : Nat) (a : Byte) : exec (.twArbLost n byte bit a) s =
    if (decide (byte = 0) || (decide (byte = 1 + c.x.wdata.length) && decide (c.x.wdata ≠ [])))
        && (s.tw.get n).targetOn && (s.tw.get n).named a then
      .next (emit (targetBegin (twMod (arbNoted s n c byte bit) n fun p => { p with cur := some { c with waiting := true } }) n a)
        (.tw n []))
    else if (s.tw.get n).retry ≤ c.losses then
      .next (curEnd (arbNoted s n c byte bit) n trArbLost (dataAmong c.x (byte + if bit = 8 then 1 else 0))
        (openBytes (arbNoted s n c byte bit) (dataAmong c.x (byte + if bit = 8 then 1 else 0) - c.x.wdata.length)))
    else .next (twMod (arbNoted s n c byte bit) n fun p => { p with cur := some { c with waiting := true, losses := c.losses + 1 } }) := by
  rw [exec, execTwArbLost, twPort, hc]
  exact if_neg (by simp [hu, hw])

end

theorem busTimeout_eq {s : State} {n : TwId} (h : twTimers s n = true) : exec (.twBusTimeout n) s = .next (twReport
    (twMod (if (s.tw.get n).cur.any (fun c => !c.waiting) = true then curCut s n trTimeout else s) n fun p => ({ applyDeferred p with
      target := none, timeout := true, sclLow := true, timeoutCnt := satInc16 p.timeoutCnt } : TwPort).count 3) n 3) := by
  rw [exec, execTwBusTimeout]
  refine (if_neg (by rw [h]; decide)).trans ?_
  unfold twPort
  cases (s.tw.get n).cur <;> rfl

/-- The state once the clock pulses have ended the transfer in progress (R457). -/
def recovering (s : State) (n : TwId) : State :=
  twMod (curCut s n trTimeout) n fun p => ({ p with recovCnt := satInc16 p.recovCnt } : TwPort).count 4

theorem recovery_eq {s : State} {n : TwId} (h : twTimers s n = true) (hc : (s.tw.get n).ctl = true) (freed : Bool) :
    exec (.twRecovery n freed) s = .next (if freed then recovering s n else twFault (recovering s n) n 1) :=
  if_neg (by rw [h, twPort, hc]; decide)

theorem recovering_spec (s : State) (n : TwId) :
    let p := s.tw.get n
    let y := (recovering s n).tw.get n
    (y.stats.get 0 = p.stats.get 0 + BitVec.ofNat 32 (b2n p.cur.isSome) ∧ y.queue = p.queue ∧ y.cur = none ∧
      y.recovCnt = satInc16 p.recovCnt ∧ y.fault = p.fault ∧ (p.cur.isSome = true → y.result = 4)) ∧
    (recovering s n).cap = s.cap := by
  intro p y
  have hcut := curCut_cut s n trTimeout
  have hy : y = _ := twMod_get_same ..
  refine ⟨?_, (congrArg State.cap (curCut_xfer s n trTimeout) :)⟩
  rw [hy]
  obtain ⟨hcur, hq, hf, -, hr⟩ := hcut.keeps
  exact ⟨(TwPort.count_stats_other _ (by decide)).trans hcut.count, hq, hcur, congrArg satInc16 hr, hf, hcut.result⟩

theorem asked_port (s : State) (w : Session) (i k : Nat) (n : TwId) :
    ((s.asked w i k).tw.get n).fault = (s.tw.get n).fault ∧
      ((s.asked w i k).tw.get n).queue.length = (s.tw.get n).queue.length ∧ ((s.asked w i k).tw.get n).cfg = (s.tw.get n).cfg := by
  cases w with
  | host => exact ⟨rfl, rfl, rfl⟩
  | can p c =>
    have h : ((s.asked (.can p c) i k).tw.get n) = { s.tw.get n with
        queue := (s.tw.get n).queue.map fun x => x.leave (· == .can p c),
        cur := (s.tw.get n).cur.map fun y => { y with x := y.x.leave (· == .can p c) } } := vector_get_map ..
    rw [h]
    exact ⟨rfl, List.length_map .., rfl⟩

theorem twObjectWrite_length {o : Origin} {k : CanPort} {d : Bytes} {s : State}
    (h : d.length < 4 ∨ 68 < d.length ∨ d.length ≠ 4 + (byteAt d 1).toNat) : twObjectWrite o k d s = (abLength, s) := if_pos h

theorem twObjectWrite_range {o : Origin} {k : CanPort} {d : Bytes} {s : State}
    (h : ¬ (d.length < 4 ∨ 68 < d.length ∨ d.length ≠ 4 + (byteAt d 1).toNat))
    (hr : 64 < (byteAt d 1).toNat ∨ 64 < (byteAt d 2).toNat ∨ 127 < (byteAt d 0).toNat) :
    twObjectWrite o k d s = (abRange, s) := (if_neg h).trans (if_pos hr)

theorem twObjectWrite_ok {o : Origin} {k : CanPort} {d : Bytes} {s : State}
    (h : ¬ (d.length < 4 ∨ 68 < d.length ∨ d.length ≠ 4 + (byteAt d 1).toNat))
    (hr : ¬ (64 < (byteAt d 1).toNat ∨ 64 < (byteAt d 2).toNat ∨ 127 < (byteAt d 0).toNat)) : twObjectWrite o k d s =
      (0, xferDue (twMod s (Fin.ofNat 6 k.val) fun p => { p with asleep := false, gateAt := none }) (Fin.ofNat 6 k.val)
        { origin := .obj o, addr := (byteAt d 0).setWidth 7, wdata := d.drop 4, rlen := (byteAt d 2).toNat }) :=
  (if_neg h).trans (if_neg hr)

theorem transferObject_eq {s : State} {w : Session} {k : CanPort} {n : TwId} (hk : k.val = n.val) (hm : s.mayAsk w)
    (hs : isService s.node w = true) (d : Bytes) : exec (.twTransferObject w k d) s = .next
      (if (twObjectWrite (.sess w) k d (s.asked w 0x2505 (n.val + 1))).1 = 0 then
        (twObjectWrite (.sess w) k d (s.asked w 0x2505 (n.val + 1))).2
      else answerSess (twObjectWrite (.sess w) k d (s.asked w 0x2505 (n.val + 1))).2 w 0x2505 (n.val + 1)
        (.abort (twObjectWrite (.sess w) k d (s.asked w 0x2505 (n.val + 1))).1)) := by
  rw [exec, execTwTransferObject, openAccess_of_mayAsk hm, hk]
  exact congrArg Host.Outcome.next (if_pos ((isService_asked ..).trans hs))

theorem twReenableWrite_fault {s : State} {n : TwId} (hf : (s.tw.get n).fault = true) (hu : twUp s n = true) :
    twReenableWrite n 1 s = (0, clearStanding (twMod s n fun p => { p with
      fault := false, fcause := 0, busy := true, cond := p.cond &&& 0xF8 }) 0xFF80 n.val) :=
  (if_neg (by decide)).trans (if_pos (by rw [twPort, hf, hu]; rfl))

theorem TwPort.ended_result (p : TwPort) (x : TwXfer) (stamp : Bytes) (r b a : Nat) (rd : Bytes) :
    (p.ended x stamp r b a rd).result = BitVec.ofNat 4 r := by
  obtain ⟨x1, x2, x3, x4, he⟩ := TwPort.ended_eq p x stamp r b a rd
  rw [he]

theorem TwPort.ended_queue (p : TwPort) (x : TwXfer) (stamp : Bytes) (r b a : Nat) (rd : Bytes) :
    (p.ended x stamp r b a rd).queue = p.queue := by
  obtain ⟨x1, x2, x3, x4, he⟩ := TwPort.ended_eq p x stamp r b a rd
  rw [he]

theorem xferEnd_mem (s : State) (n : TwId) (x : TwXfer) (stamp : Bytes) (r b a : Nat) (rd : Bytes) :
    (xferEnd s n x stamp r b a rd).mem = s.mem := (congrArg State.mem (xferEnd_xfer s n x stamp r b a rd) :)

/-- The end of a transfer that a session's write of 0x2505 asked for answers that write. -/
theorem xferEnd_answered {s t : State} {w : Session} {n : TwId} {x : TwXfer} (hx : x.origin = .obj (.sess w)) (h : t.open_ w)
    (ho : t.out = s.out) (hc : t.cleatA = s.cleatA) (stamp : Bytes) (r b a : Nat) (rd : Bytes) :
    s.answeredTo (xferEnd t n x stamp r b a rd) w 0x2505 (n.val + 1) (.data []) := by
  unfold xferEnd
  rw [hx]
  exact answerSess_answered (t := twMod (twMod t n _) n _) h ho hc ..

/-- Settles O52, by one equation for each command; what the end of a transfer, a report and FAULT leave of the port. -/
theorem twoWireController : Obligations.TwoWireController := by
  intro s n p is_ ends starts
  have hp : twPort s n = p := rfl
  refine ⟨fun hu v => ?_, fun hu v e b k j a => ?_, fun w k d hk hm hs => ?_, fun hu he hct hf hb hsl hc ht => ⟨fun x q hq => ?_, fun hq => ?_⟩,
    fun h => ?_, fun c hc hu => ⟨fun hw => ⟨fun rd => ⟨?_, fun ho => ?_⟩, fun k => ?_, fun second => ⟨fun hn => ?_, fun hn => ?_⟩, fun byte bit a => ?_, ?_⟩, fun hw hb ht => ?_⟩,
    fun hc e k j a => ?_, fun h b => ?_, fun hu he hf hsl => have htm : twTimers s n = true := (by simp [twTimers, hu, hp, he, hf, hsl]); ⟨?_, ?_, fun hl => ?_, fun hct => ?_, fun hct hl => ?_⟩,
    fun hu hl => ?_, fun w hm hs hu hf => ?_⟩
  · intro y x
    refine ⟨fun hg => ?_, fun hg hb => ?_, fun hg hb hf => ?_, fun hg hb hf => ?_⟩
    · refine Gives.intro ((if_pos hu).trans (congrArg Host.Outcome.next ((if_neg (by rw [hg]; simp)).trans (if_neg (by rw [hg]; decide))))) ?_
      exact ⟨twMod_get_same .., fun m hm => twMod_get_other _ _ hm, rfl⟩
    · exact (if_pos hu).trans (congrArg Host.Outcome.next (if_pos (by rw [hg, hp, hb]; rfl)))
    · refine Gives.intro ((twCommand_go hu hg hb).trans (congrArg Host.Outcome.next ((xferDue_of_ok _ ?_).trans (twMod_twMod ..)))) ?_
      · rw [twMod_get_same]; exact hf
      · exact ⟨twMod_get_same .., fun m hm => twMod_get_other _ _ hm, rfl⟩
    · refine Gives.intro ((twCommand_go hu hg hb).trans (congrArg Host.Outcome.next (xferDue_of_fault _ ?_))) ?_
      · rw [twMod_get_same]; exact hf
      · rw [xferEnd_tw, vmod_get_same, twMod_get_same]
        exact ⟨rfl, rfl, rfl, rfl⟩
  · have hue : ¬ twUp s n = true := by rw [hu]; decide
    have htm : ¬ (twTimers s n = true) := by simp [twTimers, hu]
    intro x hx
    simp only [List.mem_cons, List.not_mem_nil, or_false] at hx
    rcases hx with rfl | rfl | rfl | rfl | rfl | rfl | rfl | rfl | rfl | rfl
    · exact if_neg hue
    · exact if_pos (by simp [hu])
    · rw [exec, execTwTransferEnd]
      split
      · rfl
      · exact if_pos (by simp [hu])
    · rw [exec, execTwArbLost]
      split
      · rfl
      · exact if_pos (by simp [hu])
    · rw [exec, execTwArbRetry]
      split
      · exact if_neg (by simp [hu])
      · rfl
    · exact if_pos (by simp [htm])
    · exact if_neg (by simp [htm])
    · exact if_pos (by simp [htm])
    · exact if_neg (by simp [htm])
    · exact if_neg (by simp [hu])
  · intro wl rl
    have hx := transferObject_eq hk hm hs d
    have hport : ((s.asked w 0x2505 (n.val + 1)).tw.get n).fault = p.fault ∧
        ((s.asked w 0x2505 (n.val + 1)).tw.get n).queue.length = p.queue.length := ⟨(asked_port ..).1, (asked_port ..).2.1⟩
    refine ⟨fun h => ?_, fun hl hw => ⟨fun h => ?_, fun hr ha => ⟨fun hf => ?_, fun hf => ?_⟩⟩⟩
    · refine hx.trans (congrArg Host.Outcome.next ?_)
      rw [twObjectWrite_length h]
      rfl
    · refine hx.trans (congrArg Host.Outcome.next ?_)
      rw [twObjectWrite_range (by omega) (by omega)]
      rfl
    · refine hx.trans (congrArg Host.Outcome.next ?_)
      rw [twObjectWrite_ok (by omega) (by omega), canPort_twId hk, xferDue_of_ok _ (by rw [twMod_get_same]; exact hport.1.trans hf), twMod_twMod]
      rfl
    · rw [twObjectWrite_ok (by omega) (by omega), canPort_twId hk,
        xferDue_of_fault _ (by rw [twMod_get_same]; exact hport.1.trans hf)] at hx
      refine Gives.intro (hx.trans (congrArg Host.Outcome.next (if_pos rfl))) ?_
      have hopen : (twMod (s.asked w 0x2505 (n.val + 1)) n fun p => { p with asleep := false, gateAt := none }).open_ w :=
        asked_open hm 0x2505 (n.val + 1)
      have hmem := (congrArg (fun v : State => v.mem) (asked_ask s w 0x2505 (n.val + 1)) :)
      refine ⟨?_, ?_, ?_, ?_⟩
      · rw [xferEnd_tw, vmod_get_same]
        exact (TwPort.ended_result ..)
      · rw [xferEnd_tw, vmod_get_same, TwPort.ended_queue, twMod_get_same]
        exact hport.2
      · exact xferEnd_answered rfl hopen (asked_out ..) (asked_cleatA ..) ..
      · exact (xferEnd_mem ..).trans hmem
  · refine starts_of (u := twMod s n fun p => { p with queue := q }) ?_ ?_ rfl rfl rfl
    · rw [exec, execTwTransferStart, hp]
      refine (if_neg (by simp [hu, he, hct, hf, hb, hsl, hc, ht])).trans ?_
      rw [hq]
    · rw [twMod_get_same]
  · rw [exec, execTwTransferStart, hp]
    refine (if_neg (by simp [hu, he, hct, hf, hb, hsl, hc, ht])).trans ?_
    rw [hq]
  · refine if_pos ?_
    rw [hp]
    rcases h with h | h | h | h
    · simp [h]
    · simp [h]
    · simp [h]
    · obtain ⟨c, hc⟩ := Option.isSome_iff_exists.1 h
      simp [hc]
  · exact ends_of (transferEnd_acked hc hu hw rd) hc rfl fun _ _ => rfl
  · refine Gives.intro (transferEnd_acked hc hu hw rd) ?_
    rw [curEnd_tw hc, vmod_get_same, TwPort.ended, ho]
    exact ⟨rfl, rfl, rfl⟩
  · refine ends_of (x := c) (transferEnd_nackData hc hu hw k) ?_ ?_ fun m hm => twMod_get_other _ _ hm
    · exact (congrArg TwPort.cur (twMod_get_same ..)).trans hc
    · rw [twMod_get_same]; exact TwPort.count_stats_other _ (by decide)
  · refine ends_of (x := c) ((transferEnd_nackAddr hc hu hw second).trans (if_neg (Nat.not_lt.2 hn))) ?_ ?_ fun m hm => twMod_get_other _ _ hm
    · exact (congrArg TwPort.cur (twMod_get_same ..)).trans hc
    · rw [twMod_get_same]; exact TwPort.count_stats_other _ (by decide)
  · refine starts_of ((transferEnd_nackAddr hc hu hw second).trans (if_pos hn)) ?_ rfl rfl rfl
    rw [twMod_get_same]; rfl
  · intro inAddr served noted
    have hsv : served ↔ ((decide (byte = 0) || (decide (byte = 1 + c.x.wdata.length) && decide (c.x.wdata ≠ [])))
        && p.targetOn && p.named a) = true := by
      simp only [served, inAddr, Bool.and_eq_true, Bool.or_eq_true, decide_eq_true_eq, named_iff, and_assoc]
    have hx := arbLost_eq hc hu hw byte bit a
    refine ⟨fun h => Gives.intro (hx.trans (if_pos (hsv.1 h))) ?_,
      fun h hr => Gives.intro (hx.trans ((if_neg fun hh => h (hsv.2 hh)).trans (if_pos hr))) ?_,
      fun h hr => Gives.intro (hx.trans ((if_neg fun hh => h (hsv.2 hh)).trans (if_neg (Nat.not_le.2 hr)))) ?_⟩
    · dsimp only [noted]
      rw [emit_tw, targetBegin, twMod_twMod, arbNoted, twMod_twMod, twMod_get_same]
      exact ⟨⟨rfl, rfl, rfl, rfl, rfl⟩, rfl, rfl⟩
    · have hcn : ((arbNoted s n c byte bit).tw.get n).cur = some c := by rw [arbNoted, twMod_get_same]; exact hc
      obtain ⟨x1, x2, x3, x4, he⟩ := TwPort.ended_eq { (arbNoted s n c byte bit).tw.get n with cur := none } c.x c.stamp trArbLost
        (dataAmong c.x (byte + if bit = 8 then 1 else 0)) c.attempts
        (openBytes (arbNoted s n c byte bit) (dataAmong c.x (byte + if bit = 8 then 1 else 0) - c.x.wdata.length))
      dsimp only [noted]
      rw [curEnd_tw hcn, vmod_get_same, he, arbNoted, twMod_get_same]
      exact ⟨⟨rfl, rfl, rfl, rfl, rfl⟩, rfl, rfl, rfl⟩
    · dsimp only [noted]
      rw [arbNoted, twMod_twMod, twMod_get_same]
      exact ⟨⟨rfl, rfl, rfl, rfl, rfl⟩, rfl⟩
  · rw [exec, execTwArbRetry, hp, hc]
    exact if_neg (by simp [hw])
  · refine starts_of (u := s) ?_ rfl rfl rfl rfl
    rw [exec, execTwArbRetry, hp, hc]
    exact if_pos (by simp [hu, hw, hb, ht])
  · rw [exec, exec, exec, execTwTransferEnd, execTwArbLost, execTwArbRetry, hp, hc]
    exact ⟨rfl, rfl, rfl⟩
  · have htm : twTimers s n = false := by
      rw [twTimers, hp]
      rcases h with h | h | h <;> simp [h]
    intro x hx
    simp only [List.mem_cons, List.not_mem_nil, or_false] at hx
    rcases hx with rfl | rfl | rfl | rfl
    · exact if_pos (by simp [htm])
    · exact if_neg (by simp [htm])
    · exact if_pos (by simp [htm])
    · exact if_neg (by simp [htm])
  · have hx := busTimeout_eq htm
    by_cases hl : (s.tw.get n).cur.any (fun c => !c.waiting) = true
    · rw [if_pos hl] at hx
      have hcut := curCut_cut s n trTimeout
      obtain ⟨k, hk⟩ := twReport_tw (twMod (curCut s n trTimeout) n fun p => ({ applyDeferred p with
        target := none, timeout := true, sclLow := true, timeoutCnt := satInc16 p.timeoutCnt } : TwPort).count 3) n 3
      refine Gives.intro hx ?_
      rw [hk, vmod_get_same, twMod_get_same]
      obtain ⟨hcur, -, hfl, ht, -⟩ := hcut.keeps
      exact ⟨rfl, rfl, rfl, congrArg satInc16 ht, hfl.trans hf,
        fun c hc _ => ⟨hcur, hcut.result (by rw [show (s.tw.get n).cur = some c from hc]; rfl)⟩⟩
    · rw [if_neg hl] at hx
      obtain ⟨k, hk⟩ := twReport_tw (twMod s n fun p => ({ applyDeferred p with
        target := none, timeout := true, sclLow := true, timeoutCnt := satInc16 p.timeoutCnt } : TwPort).count 3) n 3
      refine Gives.intro hx ?_
      rw [hk, vmod_get_same, twMod_get_same]
      refine ⟨rfl, rfl, rfl, rfl, hf, fun c hc hw => absurd ?_ hl⟩
      rw [show (s.tw.get n).cur = some c from hc, Option.any_some, hw]
      rfl
  · refine ⟨fun hl => ?_, fun hct => ?_⟩
    · obtain ⟨hft, hr, hx⟩ := twFault_spec s n 2
      refine Gives.intro (if_pos (by simp [htm, hp, hl])) ⟨hft.fault, hft.cause, hft.target, hft.cur, hft.queue, hft.count, hr, hx⟩
    · obtain ⟨hport, hcap⟩ := recovering_spec s n
      obtain ⟨hft, hr, hx⟩ := twFault_spec (recovering s n) n 1
      rw [hport.2.1, hport.1, hport.2.2.1] at hft
      rw [hport.2.1] at hr
      rw [hcap] at hx
      refine Gives.intro ((recovery_eq htm hct false).trans (congrArg Host.Outcome.next (if_neg (by decide))))
        ⟨hft.fault, hft.cause, hft.target, hft.cur, hft.queue, hft.count.trans ?_, hr, hx⟩
      rw [BitVec.add_assoc, ← BitVec.ofNat_add]
      simp [b2n, Nat.add_comm, p]
  · exact if_neg (by simp [hp, hl])
  · obtain ⟨-, -, hcur, hcnt, hfl, hres⟩ := (recovering_spec s n).1
    exact Gives.intro ((recovery_eq htm hct true).trans (congrArg Host.Outcome.next (if_pos rfl))) ⟨hcnt, hcur, hfl.trans hf, hres⟩
  · obtain ⟨k, hk⟩ := twReport_tw (twMod s n fun p => { p with sdaLow := true }) n 4
    refine Gives.intro (if_pos (by simp [htm, hp, hct, hl])) ?_
    rw [hk, vmod_get_same, twMod_get_same]
    exact ⟨rfl, hf, rfl⟩
  · obtain ⟨k, hk⟩ := twReport_tw (twMod s n fun p => { p with sdaLow := false }) n 5
    refine Gives.intro (if_pos (by simp [hu, hp, hl])) ?_
    rw [hk, vmod_get_same, twMod_get_same]
    exact ⟨rfl, rfl⟩
  · have hup : twUp (s.asked w 0x2501 (n.val + 1)) n = true := by
      have hx := asked_ask s w 0x2501 (n.val + 1)
      exact (congrArg (fun v : State => twUp v n) hx :).trans hu
    have hfa := (asked_port s w 0x2501 (n.val + 1) n).1.trans hf
    have hx : exec (.twReenable w n 1) s = .next _ := objCmd_service hm hs 0x2501 (n.val + 1) (twReenableWrite n 1)
    rw [twReenableWrite_fault hfa hup] at hx
    refine Gives.intro hx ?_
    obtain ⟨u, hse⟩ : ∃ u : State, u = twMod (s.asked w 0x2501 (n.val + 1)) n fun p => { p with
      fault := false, fcause := 0, busy := true, cond := p.cond &&& 0xF8 } := ⟨_, rfl⟩
    have hport : u.tw.get n = { (s.asked w 0x2501 (n.val + 1)).tw.get n with
        fault := false, fcause := 0, busy := true, cond := ((s.asked w 0x2501 (n.val + 1)).tw.get n).cond &&& 0xF8 } := by
      rw [hse, twMod_get_same]
    have hopen : u.open_ w := hse ▸ asked_open hm 0x2501 (n.val + 1)
    have hout : u.out = s.out := hse ▸ asked_out s w 0x2501 (n.val + 1)
    have hca : u.cleatA = s.cleatA := hse ▸ asked_cleatA s w 0x2501 (n.val + 1)
    rw [← hse]
    obtain ⟨hn, ho, hc⟩ := clearStanding_emcyOnly u 0xFF80 n.val
    have htw : (clearStanding u 0xFF80 n.val).tw.get n = u.tw.get n := by rw [clearStanding_tw]
    have hst := stands_clearStanding u 0xFF80 n.val
    generalize clearStanding u 0xFF80 n.val = v at hn ho hc htw hst
    obtain ⟨o, l, ch, hv⟩ := answerSess_frame v w 0x2501 (n.val + 1) (codeAnswer 0)
    refine ⟨?_, ?_, ?_, ?_, ?_, answerSess_answered (open_of_emcy hopen hn) (ho.trans hout) (hc.trans hca) ..⟩
    all_goals rw [hv]
    · exact (congrArg TwPort.fault (htw.trans hport) :)
    · exact (congrArg TwPort.fcause (htw.trans hport) :)
    · exact (congrArg TwPort.busy (htw.trans hport) :)
    · exact (congrArg TwPort.cfg (htw.trans hport) :).trans (asked_port s w 0x2501 (n.val + 1) n).2.2
    · exact hst

end Sys2Proof.Machine

end

section

namespace Sys2Proof.Machine

/-! ## Accesses of a unit to memory of this chip -/

theorem placeOf_of_access {s t : State} (h : t.sansAccess = s.sansAccess) (a : Nat) : placeOf t a = placeOf s a :=
  (congrArg (fun v : State => placeOf v a) h :)

theorem seqRead_here {s : State} {init a p n : Nat} (hp : placeOf s (bits a 0 48) = .here p) :
    seqRead s init none a n = ramRead s init p n := by
  unfold seqRead
  rw [hp]
  exact if_neg Bool.false_ne_true

theorem seqWrite_here {s : State} {init a p : Nat} {bs : Bytes} (hp : placeOf s (bits a 0 48) = .here p) :
    seqWrite s init none a bs = ramWrite s init p bs := by
  unfold seqWrite
  rw [hp]
  exact if_neg Bool.false_ne_true

theorem seqRead_mem (s : State) (init : Nat) (own : Option CoreId) (a n : Nat) : (seqRead s init own a n).2.mem = s.mem := by
  unfold seqRead
  split
  · split <;> rfl
  · split
    all_goals
      split
      · rfl
      · exact ramRead_mem ..

/-- Part of the bytes written, read back. -/
theorem memReadN_memWriteN_part {m : Tbl Byte} {a o k : Nat} {bs : Bytes} (h : Tbl.wf memDflt m = true)
    (hk : o + k ≤ bs.length) : memReadN (memWriteN m a bs) (a + o) k = (bs.drop o).take k := by
  refine List.ext_getElem (by simp; omega) fun i h1 h2 => ?_
  rw [memReadN_length] at h1
  rw [memReadN_getElem, Nat.add_assoc, memRead_memWriteN_in h (by omega)]
  simp

theorem take_padTo {n : Nat} {bs : Bytes} (h : bs.length ≤ n) : (padTo n bs).take bs.length = bs := by
  refine List.ext_getElem (by simp [padTo_length, h]) fun i h1 h2 => ?_
  simp [padTo, slice, byteAt, h2]

theorem State.wr_mem (s : State) (a : Nat) (bs : Bytes) : (s.wr a bs).mem = memWriteN s.mem a bs := rfl

/-- What decides whether an access of a unit is served. -/
structure SameBus (s t : State) : Prop where
  act : t.act = s.act
  dev : t.dev = s.dev
  reef : t.reef = s.reef
  ddr : t.ddr = s.ddr
  cleatC : t.cleatC = s.cleatC

theorem SameBus.trans {s t u : State} (h : SameBus s t) (g : SameBus t u) : SameBus s u :=
  ⟨g.act.trans h.act, g.dev.trans h.dev, g.reef.trans h.reef, g.ddr.trans h.ddr, g.cleatC.trans h.cleatC⟩

section
variable {s t : State} (h : SameBus s t)
include h

theorem SameBus.place (a : Nat) : placeOf t a = placeOf s a := by
  unfold placeOf ownChip
  rw [h.dev]

theorem SameBus.fenced (init : Nat) : initFenced t init = initFenced s init := by
  unfold initFenced unitFenced
  rw [h.cleatC]

theorem SameBus.err (a n : Nat) : ramErr t a n = ramErr s a n := ramErr_congr h.dev h.reef h.ddr a n

theorem SameBus.check {init acc a n : Nat} (hc : actCheck s init acc a n = none) : actCheck t init acc a n = none :=
  actCheck_none_congr h.act hc

end

/-- An access that is served: of memory of this chip, at p, by a unit that is not fenced. -/
structure Served (s : State) (init acc a n p : Nat) : Prop where
  place : placeOf s (bits a 0 48) = .here p
  fenced : initFenced s init = false
  check : actCheck s init acc p n = none
  err : ramErr s p n = none

theorem Served.of_same {s t : State} {init acc a n p : Nat} (hs : Served s init acc a n p) (h : SameBus s t) :
    Served t init acc a n p :=
  ⟨(h.place _).trans hs.place, (h.fenced _).trans hs.fenced, h.check hs.check, (h.err ..).trans hs.err⟩

theorem seqRead_served {s : State} {init a n p : Nat} (h : Served s init accLoad a n p) :
    seqRead s init none a n = (.ok (s.rd p n), s) :=
  (seqRead_here h.place).trans (ramRead_of_free h.fenced h.check h.err)

theorem seqWrite_served {s : State} {init a p : Nat} {bs : Bytes} (h : Served s init accStore a bs.length p) :
    seqWrite s init none a bs = (none, noteHomeWrite (s.wr p bs) p bs.length) :=
  (seqWrite_here h.place).trans (ramWrite_of_free h.fenced h.check h.err)

theorem sameBus_noteHomeWrite_wr (s : State) (p n : Nat) (bs : Bytes) : SameBus s (noteHomeWrite (s.wr p bs) p n) :=
  ⟨rfl, rfl, rfl, rfl, rfl⟩

theorem sameBus_trimMod (s : State) (f : Trim → Trim) : SameBus s (trimMod s f) := ⟨rfl, rfl, rfl, rfl, rfl⟩

/-! ## What Trim's records change -/

/-- Trim but for what its journal and its exchange with peers change. -/
def Trim.sansExchange (t : Trim) : Trim :=
  { t with jlen := 0, jfull := false, ending := none, sent := Vector.replicate 8 0, copies := [], xrec := 0, rx := [],
           applied := Vector.replicate 8 none, finals := Vector.replicate 8 false }

/-- The state but for what Trim's journal and its exchange with peers change. -/
def State.sansExchange (s : State) : State := { s.sansAccess with trim := s.trim.sansExchange }

theorem exchange_of_access {s t : State} (h : t.sansAccess = s.sansAccess) : t.sansExchange = s.sansExchange := by
  have hv (u : State) : u.sansExchange = u.sansAccess.sansExchange := rfl
  rw [hv, h, ← hv]

theorem trim_of_exchange {s t : State} (h : t.sansExchange = s.sansExchange) : t.trim.sansExchange = s.trim.sansExchange :=
  (congrArg (fun v : State => v.trim) h :)

theorem trimEnd_exchange (s : State) (st : BitVec 4) : (trimEnd s st).sansExchange = s.sansExchange := rfl

theorem seqWrite_exchange (s : State) (init : Nat) (own : Option CoreId) (a : Nat) (bs : Bytes) :
    (seqWrite s init own a bs).2.sansExchange = s.sansExchange := exchange_of_access (seqWrite_access ..)

/-- A record that is not journaled. -/
theorem journalPut_none {s : State} {r : TrimRec}
    (h : s.trim.journalA = 0 ∨ s.trim.replay = true ∨ s.trim.jfull = true ∨ (r.kind = 2 ∧ r.n = 0)) : journalPut s r = s := by
  unfold journalPut
  exact if_pos h

/-- A record that finds room in the journal, its payload and its header written. -/
theorem journalPut_written {s : State} {r : TrimRec} {j : Nat} (hj : s.trim.journalA ≠ 0) (hr : s.trim.replay = false)
    (hf : s.trim.jfull = false) (hk : r.kind ≠ 2) (hp : (padded r.payload).length = 16)
    (hl : s.trim.jlen.toNat + 32 ≤ s.trim.jsize)
    (h1 : Served s trimInit accStore (s.trim.journalA + s.trim.jlen.toNat + 16) 16 (j + 16))
    (h2 : Served s trimInit accStore (s.trim.journalA + s.trim.jlen.toNat) 16 j)
    (hh : (recHeader s.trim.jrun.toNat r).length = 16) :
    ∃ u, journalPut s r = trimMod u (fun t => { t with jlen := t.jlen + 32 }) ∧ SameBus s u ∧ u.trim = s.trim ∧
      u.mem = memWriteN (memWriteN s.mem (j + 16) (padded r.payload)) j (recHeader s.trim.jrun.toNat r) := by
  have hne : (padded r.payload).isEmpty = false := by
    rw [Bool.eq_false_iff]
    intro h
    rw [List.isEmpty_iff.1 h] at hp
    cases hp
  have hs := sameBus_noteHomeWrite_wr s (j + 16) (padded r.payload).length (padded r.payload)
  have hw1 := seqWrite_served (s := s) (bs := padded r.payload) (by rw [hp]; exact h1)
  have hw2 := seqWrite_served (s := noteHomeWrite (s.wr (j + 16) (padded r.payload)) (j + 16) (padded r.payload).length)
    (bs := recHeader s.trim.jrun.toNat r) (by rw [hh]; exact h2.of_same hs)
  refine ⟨noteHomeWrite ((noteHomeWrite (s.wr (j + 16) (padded r.payload)) (j + 16) (padded r.payload).length).wr j
    (recHeader s.trim.jrun.toNat r)) j (recHeader s.trim.jrun.toNat r).length, ?_, hs.trans (sameBus_noteHomeWrite_wr ..), rfl, rfl⟩
  unfold journalPut
  extract_lets t p a
  refine (if_neg (by simp [t, hj, hr, hf, hk])).trans ((if_neg (by simp only [p, hp]; exact Nat.not_lt.2 hl)).trans ?_)
  rw [if_neg (by rw [hne]; decide), hw1]
  dsimp only
  rw [hw2]
  dsimp only
  rw [hp]
  rfl

theorem journalPut_exchange (s : State) (r : TrimRec) : (journalPut s r).sansExchange = s.sansExchange := by
  unfold journalPut
  extract_lets t p a
  refine ite_view (V := State.sansExchange) rfl (ite_view (V := State.sansExchange) rfl ?_)
  have h1 : (if p.isEmpty then (none, s) else seqWrite s trimInit none (a + 16) p).2.sansExchange = s.sansExchange := by
    split
    · rfl
    · exact seqWrite_exchange ..
  generalize (if p.isEmpty then (none, s) else seqWrite s trimInit none (a + 16) p) = x at h1
  obtain ⟨e1, s1⟩ := x
  cases e1 with
  | some e => exact (trimEnd_exchange ..).trans h1
  | none =>
    have h2 := (seqWrite_exchange s1 trimInit none a (recHeader t.jrun.toNat r)).trans h1
    dsimp only
    generalize seqWrite s1 trimInit none a (recHeader t.jrun.toNat r) = y at h2
    obtain ⟨e2, s2⟩ := y
    cases e2 with
    | some e => exact (trimEnd_exchange ..).trans h2
    | none => exact h2

theorem sendTrim_exchange (s : State) (p kind : Nat) (src : W32) (is : List Nat) :
    (sendTrim s p kind src is).sansExchange = s.sansExchange := by
  unfold sendTrim
  extract_lets t r b u
  have hu : u.sansExchange = s.sansExchange :=
    foldl_view (V := State.sansExchange) (fun _ _ => exchange_of_access (access_of_shl (sendOwn_shl ..))) _ s
  clear_value u
  exact hu

theorem sendAll_exchange (s : State) (kind : Nat) (src : W32) : (sendAll s kind src).sansExchange = s.sansExchange :=
  foldl_view (V := State.sansExchange) (fun _ _ => sendTrim_exchange ..) _ s

theorem applyRec_exchange (s : State) (peer n : Nat) (r : TrimRec) : (applyRec s peer n r).sansExchange = s.sansExchange :=
  journalPut_exchange ..

/-- What reads of operands leave. -/
theorem readClosed_of (s : State) : ReadClosed fun t => t.sansAccess = s.sansAccess ∧ t.mem = s.mem :=
  ⟨fun ⟨ha, hm⟩ _ _ _ _ => ⟨(seqRead_access ..).trans ha, (seqRead_mem ..).trans hm⟩⟩

theorem trimRead_keeps (s : State) (a n : Nat) :
    (trimRead s a n).2.sansAccess = s.sansAccess ∧ (trimRead s a n).2.mem = s.mem := (readClosed_of s).trimRead ⟨rfl, rfl⟩

theorem loadProblem_keeps (s : State) (t : Trim) :
    (loadProblem s t).2.sansAccess = s.sansAccess ∧ (loadProblem s t).2.mem = s.mem := (readClosed_of s).loadProblem ⟨rfl, rfl⟩

end Sys2Proof.Machine

end

section

namespace Sys2Proof.Machine

/-! ## Trim commands (O47) -/

theorem trimUp_runs {s : State} (h : trimUp s = true) : domRuns s 10 = true := (Bool.and_eq_true_iff.1 h).1

section
variable {s : State} (hd : domRuns s 10 = true) (a : Nat)
include hd

theorem trimCmd_load (h : trimAllowed s.trim 0 = true) : trimCmd s 0 a = trimLoad s a :=
  (if_neg (by rw [hd]; decide)).trans (if_neg (by rw [h]; decide))

theorem trimCmd_run (h : trimAllowed s.trim 1 = true) : trimCmd s 1 a = trimRun s :=
  (if_neg (by rw [hd]; decide)).trans (if_neg (by rw [h]; decide))

theorem trimCmd_replay (h : trimAllowed s.trim 2 = true) : trimCmd s 2 a = trimReplay s :=
  (if_neg (by rw [hd]; decide)).trans (if_neg (by rw [h]; decide))

theorem trimCmd_abort (h : trimAllowed s.trim 3 = true) : trimCmd s 3 a = trimAbort s :=
  (if_neg (by rw [hd]; decide)).trans (if_neg (by rw [h]; decide))

end

theorem trimCmd_refused {s : State} {fn : Nat} (a : Nat) (hd : domRuns s 10 = true) (h : trimAllowed s.trim fn = false) :
    trimCmd s fn a = trimMod s fun t => { t with cmdErr := true } := by
  unfold trimCmd
  rw [if_neg (by rw [hd]; decide), if_pos (by rw [h]; decide)]

theorem descA_bits (x : BitVec 48) : bits x.toNat 0 48 = x.toNat := by
  have := x.isLt
  unfold bits
  omega

theorem trimRead_here {s : State} {a p n : Nat} (hp : placeOf s (bits a 0 48) = .here p) (hf : initFenced s trimInit = false)
    (hc : actCheck s trimInit accLoad p n = none) (he : ramErr s p n = none) : trimRead s a n = (.ok (s.rd p n), s) := by
  unfold trimRead
  rw [seqRead_here hp, ramRead_of_free hf hc he]

/-- What RUN makes of the unit (R310). -/
theorem trimRun_exchange (s : State) : (trimRun s).trim.sansExchange = (runStart s.trim false).sansExchange := by
  unfold trimRun
  extract_lets a b
  have hb : b.trim.sansExchange = a.trim.sansExchange := trim_of_exchange (journalPut_exchange ..)
  clear_value b
  split
  · exact (trim_of_exchange (sendAll_exchange ..)).trans hb
  · exact hb

theorem trimRun_alone {s : State} (hj : s.trim.journalA = 0) (hs : s.trim.split = false) :
    trimRun s = trimMod s fun t => runStart t false := by
  unfold trimRun
  extract_lets a b
  have hb : b = a := journalPut_none (.inl hj)
  rw [hb]
  exact if_neg (by rw [show a.trim.split = s.trim.split from rfl, hs]; decide)

theorem journalRecs_nil (jrun : Nat) : journalRecs jrun (([] : Bytes).length + 1) [] = [] := by
  simp [journalRecs]

/-- A replay of a unit whose problem names no journal. -/
theorem trimReplay_noJournal {s : State} (h : s.trim.journalA = 0) : ∃ u, u.mem = s.mem ∧
    trimReplay s = trimMod u fun t => { t with status := tsInvalid, cause := 10 } := by
  have hm := (trimRead_keeps s s.trim.journalA s.trim.jsize).2
  unfold trimReplay
  dsimp only
  generalize trimRead s s.trim.journalA s.trim.jsize = y at hm
  obtain ⟨x, u⟩ := y
  refine ⟨u, hm, ?_⟩
  cases x with
  | error =>
    dsimp only
    rw [journalRecs_nil]
  | ok b =>
    dsimp only
    rw [if_pos h, journalRecs_nil]

/-- A replay of a journal that has records. -/
theorem trimReplay_records {s u : State} {b : Bytes} {r0 : TrimRec} {rs : List TrimRec} (h : s.trim.journalA ≠ 0)
    (hr : trimRead s s.trim.journalA s.trim.jsize = (.ok b, u))
    (hj : journalRecs (fieldLE (recOf b).payload 8 4) (b.length + 1) b = r0 :: rs) : trimReplay s =
      if r0.kind = 1 ∧ fieldLE r0.payload 0 8 = s.trim.seed ∧ fieldLE r0.payload 12 1 = s.trim.part then
        trimMod u fun t => { runStart t true with
          jrecs := rs.takeWhile fun r => r.kind ≠ 4, jEnd := rs.find? fun r => r.kind == 4,
          jLast := ((r0 :: rs.takeWhile fun r => r.kind ≠ 4).getLast?.getD r0).apply,
          runOf := BitVec.ofNat 32 (fieldLE (recOf b).payload 8 4) }
      else trimMod u fun t => { t with status := tsInvalid, cause := 10 } := by
  unfold trimReplay
  dsimp only
  rw [hr]
  dsimp only
  rw [if_neg h, hj]

theorem trimLoadDone_eq {s : State} (hu : trimUp s = true) (hs : s.trim.status = tsLoading) (hp : s.trim.prob.isSome = true) :
    (∀ c, descCause s s.trim = some c →
      exec .trimLoadDone s = .next (trimMod s fun t => { t with status := tsInvalid, cause := BitVec.ofNat 8 c })) ∧
    (∀ c u, descCause s s.trim = none → loadProblem s s.trim = (.error c, u) →
      exec .trimLoadDone s = .next (trimMod u fun t => { t with status := tsInvalid, cause := BitVec.ofNat 8 c })) ∧
    (∀ x u, descCause s s.trim = none → loadProblem s s.trim = (.ok x, u) →
      exec .trimLoadDone s = .next { u with trim := { x with status := tsReady, cause := 0 } }) := by
  have hn : ¬ s.trim.prob.isNone = true := by
    rw [Option.isNone_iff_eq_none]
    rintro h
    rw [h] at hp
    cases hp
  have hx : ¬ (!(trimUp s && s.trim.status == tsLoading)) = true := by rw [hu, hs]; decide
  refine ⟨fun c hc => ?_, fun c u hc hl => ?_, fun x u hc hl => ?_⟩
  all_goals
    rw [exec, execTrimLoadDone]
    refine (if_neg hx).trans ((if_neg hn).trans ?_)
    rw [hc]
  all_goals
    dsimp only
    rw [hl]

/-! ### The end of a run -/

/-- How a run's results leave the unit once its result area was written, with the status it then has. -/
def resultsGiven (s : State) (st : BitVec 4) : State :=
  let s := runCounted s st
  let s := trimMod s fun t => { t with
    status := st, ending := none, stopReq := none,
    rx := if st = tsDone ∨ t.replay then t.rx else [], rxPart := if st = tsDone ∨ t.replay then t.rxPart else [] }
  let s := if st = tsPeerTimeout ∨ st = tsPeerLost ∨ st = tsBusErr then
      reportFault s 0x18 3 (st.setWidth 16) 0 else s
  if s.trim.irqEn then mastEvent s 5 else s

/-- The statuses whose end is reported (R319, R327). -/
abbrev trimCut (st : BitVec 4) : Prop := st = tsPeerTimeout ∨ st = tsPeerLost ∨ st = tsBusErr

theorem trimReport_keeps (s : State) (code : W16) :
    (reportFault s 0x18 3 code 0).trim = s.trim ∧ (reportFault s 0x18 3 code 0).mem = s.mem := by
  have hm (u : State) : (mgcReport u 0x18 3 code 0).trim = u.trim ∧ (mgcReport u 0x18 3 code 0).mem = u.mem :=
    ⟨raiseEmcy_trim .., raiseEmcy_mem ..⟩
  unfold reportFault
  rw [if_neg (by decide)]
  split
  · exact ⟨(hm _).1.trans (cleatCPut_trim ..), (hm _).2.trans (cleatCPut_mem ..)⟩
  · exact ⟨cleatCPut_trim .., cleatCPut_mem ..⟩

theorem resultsGiven_spec (u : State) (st : BitVec 4) :
    let t := resultsGiven u st
    t.trim.status = st ∧ t.trim.ending = none ∧ t.trim.stopReq = none ∧ t.trim.jlen = u.trim.jlen ∧
      t.trim.stats = vmod u.trim.stats (if u.trim.replay then 2 else if st = tsDone then 0 else 1) (· + 1) ∧
      (u.trim.irqEn = true → t.mast.events.getLsbD 5 = true) ∧ t.mem = u.mem ∧
      (trimCut st → u.cleatC.fifo.length < 32 → t.cleatC.fifo = u.cleatC.fifo ++ [reportEntry u 0x18 3 (st.setWidth 16) 0]) ∧
      (¬ trimCut st → t.cleatC = u.cleatC) := by
  unfold resultsGiven
  extract_lets a b c t
  have hb : b.mem = u.mem ∧ b.cleatC = u.cleatC ∧ b.pht = u.pht := ⟨rfl, rfl, rfl⟩
  have hc : c.trim = b.trim ∧ c.mem = b.mem := by
    dsimp only [c]
    split
    · exact trimReport_keeps ..
    · exact ⟨rfl, rfl⟩
  have hcut : trimCut st → u.cleatC.fifo.length < 32 →
      c.cleatC.fifo = u.cleatC.fifo ++ [reportEntry u 0x18 3 (st.setWidth 16) 0] := fun h hl =>
    (congrArg (fun v : State => v.cleatC.fifo) (if_pos h)).trans (reportFault_of_room (s := b) _ _ _ _ hl).1
  have hno : ¬ trimCut st → c.cleatC = u.cleatC := fun h => (congrArg State.cleatC (if_neg h : c = b)).trans hb.2.1
  have ht : b.trim.status = st ∧ b.trim.ending = none ∧ b.trim.stopReq = none ∧ b.trim.jlen = u.trim.jlen ∧
      b.trim.stats = vmod u.trim.stats (if u.trim.replay then 2 else if st = tsDone then 0 else 1) (· + 1) ∧
      b.trim.irqEn = u.trim.irqEn := ⟨rfl, rfl, rfl, rfl, rfl, rfl⟩
  clear_value c b
  obtain ⟨h1, h2, h3, h4, h5, h6⟩ := ht
  rw [← hc.1] at h1 h2 h3 h4 h5 h6
  cases hi : c.trim.irqEn with
  | true =>
    rw [show t = mastEvent c 5 from if_pos hi]
    exact ⟨h1, h2, h3, h4, h5, fun _ => by simp [mastEvent], hc.2.trans hb.1, hcut, hno⟩
  | false =>
    rw [show t = c from if_neg (by rw [hi]; decide)]
    exact ⟨h1, h2, h3, h4, h5, fun h => absurd (hi.symm.trans (h6.trans h)) (by decide), hc.2.trans hb.1, hcut, hno⟩

/-- The state once the energy of the spins that stand is noted. -/
def resultsNoted (s : State) (st : BitVec 4) : State :=
  trimMod (if st = tsPeerTimeout ∨ st = tsPeerLost ∨ st = tsBusErr then trimMod s fun t => { t with spins := t.last } else s)
    Trim.noteEnergy

theorem resultsNoted_eq (s : State) (st : BitVec 4) : ∃ sp en, resultsNoted s st =
    { s with trim := { s.trim with spins := sp, energy := en } } ∧ (¬ trimCut st → en = BitVec.ofInt 48 s.trim.ePart) := by
  unfold resultsNoted
  by_cases h : trimCut st
  · rw [if_pos h]
    exact ⟨_, _, rfl, fun hn => absurd h hn⟩
  · rw [if_neg h]
    exact ⟨s.trim.spins, _, rfl, fun _ => rfl⟩

/-- The state whose result area is to be written, for a run that ended with status st. -/
def resultsReady (s : State) (st : BitVec 4) : State :=
  journalPut (resultsNoted s st) (endRec (resultsNoted s st).trim st)

/-- The status by which a run is written, which a refused write of its journal decides. -/
def resultsStatus (s : State) (st : BitVec 4) : BitVec 4 :=
  if (resultsReady s st).trim.ending = some tsBusErr then tsBusErr else st

theorem writeResults_eq {s u : State} {st : BitVec 4} {e : Option BusErr}
    (h : seqWrite (resultsReady s st) trimInit none (resultsReady s st).trim.resultA
      (resultArea (resultsReady s st).trim (resultsStatus s st)) = (e, u)) :
    writeResults s st = resultsGiven u (if e.isSome then tsBusErr else resultsStatus s st) := by
  unfold writeResults
  extract_lets a b c d
  have hc : resultsReady s st = c := rfl
  have hd : resultsStatus s st = d := by
    unfold resultsStatus
    rw [hc]
  rw [hd, hc] at h
  rw [hd]
  clear_value c d
  rw [h]
  rfl

theorem resultArea_cons (t : Trim) (st : BitVec 4) : ∃ rest, resultArea t st = BitVec.ofNat 8 st.toNat :: rest := by
  unfold resultArea
  dsimp only
  split
  all_goals exact ⟨_, rfl⟩

theorem resultArea_length {t : Trim} (st : BitVec 4) (h : t.recE.length = 64) : (resultArea t st).length = 1600 := by
  have hr : (t.recE.flatMap fun e => toLE 8 e.toNat).length = 512 := by
    simp [List.length_flatMap, toLE_length, h]
  unfold resultArea
  dsimp only
  split
  all_goals simp only [List.length_append, toLE_length, List.length_replicate, hr]

/-- The results of a run whose journal took its END record, or none, and whose result area is served. -/
theorem writeResults_served {s : State} {st : BitVec 4} {p : Nat} (he : (resultsReady s st).trim.ending = some st)
    (hr : (resultsReady s st).trim.recE.length = 64)
    (h : Served (resultsReady s st) trimInit accStore (resultsReady s st).trim.resultA 1600 p) :
    writeResults s st = resultsGiven (noteHomeWrite ((resultsReady s st).wr p (resultArea (resultsReady s st).trim st)) p 1600) st := by
  have hs : resultsStatus s st = st := by
    unfold resultsStatus
    rw [he]
    split
    · rename_i hb
      exact (Option.some.inj hb).symm
    · rfl
  have hl := resultArea_length st hr
  have hw := seqWrite_served (s := resultsReady s st) (bs := resultArea (resultsReady s st).trim st) (by rw [hl]; exact h)
  rw [hl] at hw
  have hw' : seqWrite (resultsReady s st) trimInit none (resultsReady s st).trim.resultA
      (resultArea (resultsReady s st).trim (resultsStatus s st)) = _ := (congrArg (fun x =>
    seqWrite (resultsReady s st) trimInit none (resultsReady s st).trim.resultA (resultArea (resultsReady s st).trim x)) hs).trans hw
  rw [writeResults_eq hw', hs]
  exact congrArg (resultsGiven _) (if_neg (by decide))

theorem resultsArea_mem {m : Tbl Byte} {t : Trim} {st : BitVec 4} {p : Nat} (hw : Tbl.wf memDflt m = true)
    (hr : t.recE.length = 64) : memRead (memWriteN m p (resultArea t st)) p = BitVec.ofNat 8 st.toNat ∧
      ∀ q : Nat, q < p ∨ p + 1600 ≤ q → memRead (memWriteN m p (resultArea t st)) q = memRead m q := by
  have hl := resultArea_length st hr
  obtain ⟨rest, hc⟩ := resultArea_cons t st
  refine ⟨(memRead_memWriteN_in (i := 0) hw (by rw [hl]; decide)).trans (by simp [hc]), fun q hq =>
    memRead_memWriteN_out hw (by rwa [hl])⟩

/-- What a run whose results are given leaves, whatever its writes came to. -/
theorem writeResults_spec (s : State) (st : BitVec 4) :
    let t := writeResults s st
    (t.trim.status = st ∨ t.trim.status = tsBusErr) ∧ t.trim.ending = none ∧ t.trim.stopReq = none ∧
      t.trim.stats = vmod s.trim.stats (if s.trim.replay then 2 else if t.trim.status = tsDone then 0 else 1) (· + 1) ∧
      (s.trim.irqEn = true → t.mast.events.getLsbD 5 = true) ∧
      (trimCut t.trim.status → s.cleatC.fifo.length < 32 →
        t.cleatC.fifo = s.cleatC.fifo ++ [reportEntry s 0x18 3 (t.trim.status.setWidth 16) 0]) := by
  have hx : (seqWrite (resultsReady s st) trimInit none (resultsReady s st).trim.resultA
      (resultArea (resultsReady s st).trim (resultsStatus s st))).2.sansExchange = (resultsNoted s st).sansExchange :=
    (seqWrite_exchange ..).trans (journalPut_exchange ..)
  obtain ⟨sp, en, hn, -⟩ := resultsNoted_eq s st
  rw [hn] at hx
  generalize hw : seqWrite (resultsReady s st) trimInit none (resultsReady s st).trim.resultA
      (resultArea (resultsReady s st).trim (resultsStatus s st)) = w at hx
  obtain ⟨e, u⟩ := w
  rw [writeResults_eq hw]
  obtain ⟨h1, h2, h3, -, h5, h6, -, h8, -⟩ := resultsGiven_spec u (if e.isSome then tsBusErr else resultsStatus s st)
  have hC : u.cleatC = s.cleatC := (congrArg (fun v : State => v.cleatC) hx :)
  have hP : u.pht = s.pht := (congrArg (fun v : State => v.pht) hx :)
  have hst : u.trim.stats = s.trim.stats := (congrArg (fun v : State => v.trim.stats) hx :)
  have hrp : u.trim.replay = s.trim.replay := (congrArg (fun v : State => v.trim.replay) hx :)
  have hiq : u.trim.irqEn = s.trim.irqEn := (congrArg (fun v : State => v.trim.irqEn) hx :)
  rw [hC, reportEntry, hP] at h8
  rw [hst, hrp] at h5
  rw [hiq] at h6
  have hor : (if e.isSome then tsBusErr else resultsStatus s st) = st ∨ (if e.isSome then tsBusErr else resultsStatus s st) = tsBusErr := by
    unfold resultsStatus
    split_ifs <;> simp
  dsimp only
  rw [h1]
  exact ⟨hor, h2, h3, h5, h6, h8⟩

/-- The results written from state v. -/
theorem writeResults_at {s v : State} {st : BitVec 4} {p : Nat} (hv : resultsReady s st = v) (he : v.trim.ending = some st)
    (hl : v.trim.recE.length = 64) (h : Served v trimInit accStore v.trim.resultA 1600 p) (hw : v.memWf = true) :
    let t := writeResults s st
    t.trim.status = st ∧ t.trim.jlen = v.trim.jlen ∧ memRead t.mem p = BitVec.ofNat 8 st.toNat ∧
      (∀ q : Nat, q < p ∨ p + 1600 ≤ q → memRead t.mem q = memRead v.mem q) ∧ (¬ trimCut st → t.cleatC = v.cleatC) := by
  have hs := writeResults_served (s := s) (st := st) (p := p) (by rw [hv]; exact he) (by rw [hv]; exact hl) (by rw [hv]; exact h)
  rw [hv] at hs
  clear hv
  rw [hs]
  clear hs
  obtain ⟨h1, -, -, h4, -, -, h7, -, h9⟩ := resultsGiven_spec (noteHomeWrite (v.wr p (resultArea v.trim st)) p 1600) st
  obtain ⟨hm, ho⟩ := resultsArea_mem (m := v.mem) (t := v.trim) (st := st) (p := p) hw hl
  refine ⟨h1, h4, ?_, fun q hq => ?_, h9⟩
  · rw [h7, noteHomeWrite_mem, State.wr_mem]; exact hm
  · rw [h7, noteHomeWrite_mem, State.wr_mem]; exact ho q hq

/-- A journal record's bytes once written, payload before header. -/
theorem journalBytes {m : Tbl Byte} {j : Nat} {P H : Bytes} (hw : Tbl.wf memDflt m = true) (hP : P.length = 16)
    (hH : H.length = 16) : let m' := memWriteN (memWriteN m (j + 16) P) j H
      Tbl.wf memDflt m' = true ∧ memRead m' j = byteAt H 0 ∧ memReadN m' (j + 16) 8 = P.take 8 := by
  have hw1 := memWriteN_wf (j + 16) P hw
  refine ⟨memWriteN_wf _ _ hw1, (memRead_memWriteN_in (i := 0) hw1 (by omega)).trans (by simp [byteAt, hH]), ?_⟩
  exact (memReadN_memWriteN_out hw1 (.inr (by omega))).trans (memReadN_memWriteN_part (o := 0) hw (by omega))

theorem endHeader_length (n : Nat) (t : Trim) (st : BitVec 4) : (recHeader n (endRec t st)).length = 16 := by
  simp [recHeader, recBody, toLE_length]

theorem endHeader_kind (n : Nat) (t : Trim) (st : BitVec 4) : byteAt (recHeader n (endRec t st)) 0 = 4 := rfl

theorem endPayload_padded (t : Trim) (st : BitVec 4) : (padded (endRec t st).payload).length = 16 ∧
    (padded (endRec t st).payload).take 8 = toLE 8 (wrapInt 64 t.energy.toInt) := by
  have hl : (endRec t st).payload.length = 8 := toLE_length ..
  have hp : padded (endRec t st).payload = padTo 16 (endRec t st).payload := by rw [padded, hl]
  rw [hp, padTo_length]
  have h := take_padTo (n := 16) (bs := (endRec t st).payload) (by omega)
  rw [hl] at h
  exact ⟨rfl, h⟩

/-- The END record enters the journal. -/
theorem resultsReady_journaled {s : State} {j : Nat} (st : BitVec 4) (hj : s.trim.journalA ≠ 0) (hr : s.trim.replay = false)
    (hf : s.trim.jfull = false) (hk : s.trim.jlen.toNat + 32 ≤ s.trim.jsize)
    (h1 : Served s trimInit accStore (s.trim.journalA + s.trim.jlen.toNat + 16) 16 (j + 16))
    (h2 : Served s trimInit accStore (s.trim.journalA + s.trim.jlen.toNat) 16 j) :
    ∃ n v : State, resultsReady s st = v ∧ SameBus s v ∧
      (∃ sp en, v.trim = { s.trim with spins := sp, energy := en, jlen := s.trim.jlen + 32 }) ∧
      v.mem = memWriteN (memWriteN s.mem (j + 16) (padded (endRec n.trim st).payload)) j (recHeader n.trim.jrun.toNat (endRec n.trim st)) ∧
      (¬ trimCut st → n.trim.energy = BitVec.ofInt 48 s.trim.ePart) := by
  obtain ⟨sp, en, hn, hen⟩ := resultsNoted_eq s st
  obtain ⟨n, hnn⟩ : ∃ n : State, n = { s with trim := { s.trim with spins := sp, energy := en } } := ⟨_, rfl⟩
  have hsame : SameBus s n := hnn ▸ ⟨rfl, rfl, rfl, rfl, rfl⟩
  have hready : resultsReady s st = journalPut n (endRec n.trim st) := by rw [resultsReady, hn, hnn]
  have htrim : n.trim = { s.trim with spins := sp, energy := en } := by rw [hnn]
  have hmem : n.mem = s.mem := by rw [hnn]
  obtain ⟨u, hu, hus, hut, hum⟩ := journalPut_written (s := n) (r := endRec n.trim st) (j := j) (by rw [htrim]; exact hj) (by rw [htrim]; exact hr)
    (by rw [htrim]; exact hf) (show (4 : Nat) ≠ 2 by decide) (endPayload_padded ..).1 (by rw [htrim]; exact hk)
    (by rw [htrim]; exact h1.of_same hsame) (by rw [htrim]; exact h2.of_same hsame) (endHeader_length ..)
  refine ⟨n, _, hready.trans hu, (hsame.trans hus).trans (sameBus_trimMod ..), ⟨sp, en, ?_⟩, ?_, fun hc => ?_⟩
  · change ({ u.trim with jlen := u.trim.jlen + 32 } : Trim) = _
    rw [hut, htrim]
  · rw [← hmem]
    exact hum
  · rw [htrim, hen hc]

section
variable {s : State} {st : BitVec 4} {p : Nat} (he : s.trim.ending = some st) (hl : s.trim.recE.length = 64)
  (h : Served s trimInit accStore s.trim.resultA 1600 p) (hw : s.memWf = true)
include he hl h hw

/-- The results of a run without a journal, or whose journal is full, or of a replay. -/
theorem writeResults_plain (hj : s.trim.journalA = 0 ∨ s.trim.replay = true ∨ s.trim.jfull = true) :
    let t := writeResults s st
    t.trim.status = st ∧ memRead t.mem p = BitVec.ofNat 8 st.toNat ∧
      (∀ q : Nat, q < p ∨ p + 1600 ≤ q → memRead t.mem q = memRead s.mem q) ∧ (¬ trimCut st → t.cleatC = s.cleatC) := by
  obtain ⟨sp, en, hn, -⟩ := resultsNoted_eq s st
  have hv : resultsReady s st = { s with trim := { s.trim with spins := sp, energy := en } } := by
    rw [resultsReady, hn]
    refine journalPut_none ?_
    rcases hj with hj | hj | hj
    · exact .inl hj
    · exact .inr (.inl hj)
    · exact .inr (.inr (.inl hj))
  obtain ⟨h1, -, h3, h4, h5⟩ := writeResults_at hv he hl (h.of_same ⟨rfl, rfl, rfl, rfl, rfl⟩) hw
  exact ⟨h1, h3, h4, h5⟩

/-- The results of a run whose journal takes its END record. -/
theorem writeResults_journaled {j : Nat} (hj : s.trim.journalA ≠ 0) (hr : s.trim.replay = false) (hf : s.trim.jfull = false)
    (hk : s.trim.jlen.toNat + 32 ≤ s.trim.jsize)
    (h1 : Served s trimInit accStore (s.trim.journalA + s.trim.jlen.toNat + 16) 16 (j + 16))
    (h2 : Served s trimInit accStore (s.trim.journalA + s.trim.jlen.toNat) 16 j) (hd : j + 32 ≤ p ∨ p + 1600 ≤ j) :
    let t := writeResults s st
    t.trim.status = st ∧ t.trim.jlen = s.trim.jlen + 32 ∧ memRead t.mem p = BitVec.ofNat 8 st.toNat ∧
      memRead t.mem j = 4 ∧ (¬ trimCut st → t.rd (j + 16) 8 = toLE 8 (wrapInt 64 (BitVec.ofInt 48 s.trim.ePart).toInt)) := by
  obtain ⟨n, u, hv, hus, ⟨sp, en, hut⟩, hum, hne⟩ := resultsReady_journaled st hj hr hf hk h1 h2
  have hH := endHeader_length n.trim.jrun.toNat n.trim st
  obtain ⟨hpl, hpt⟩ := endPayload_padded n.trim st
  obtain ⟨hmw, hb, hp⟩ := journalBytes (m := s.mem) (j := j) hw hpl hH
  rw [← hum] at hmw hb hp
  obtain ⟨g1, g2, g3, g4, -⟩ := writeResults_at (p := p) hv (by rw [hut]; exact he) (by rw [hut]; exact hl)
    (by rw [hut]; exact h.of_same hus) hmw
  refine ⟨g1, g2.trans (by rw [hut]), g3, (g4 j (by omega)).trans (hb.trans (endHeader_kind ..)), fun hc => ?_⟩
  calc memReadN (writeResults s st).mem (j + 16) 8
      = memReadN u.mem (j + 16) 8 := memReadN_congr fun x hx1 hx2 => g4 x (by omega)
    _ = toLE 8 (wrapInt 64 n.trim.energy.toInt) := hp.trans hpt
    _ = _ := by rw [hne hc]

end

theorem trimLoad_eq {s : State} (h : s.trim.status ≠ tsFenced) : ∃ r u, trimRead s s.trim.descA.toNat 128 = (r, u) ∧
    trimLoad s s.trim.descA.toNat = { u with trim := { u.trim with
      status := tsLoading, cause := 0, descA := s.trim.descA, prob := match r with
      | .ok b => some b
      | .error _ => none } } := by
  unfold trimLoad
  rw [if_neg h, BitVec.ofNat_toNat, BitVec.setWidth_eq]
  generalize trimRead s s.trim.descA.toNat 128 = x
  obtain ⟨r, u⟩ := x
  refine ⟨r, u, rfl, ?_⟩
  cases r <;> rfl

theorem trimAbort_running {s t : State} (hu : trimUp s = true) (hr : s.trim.status = tsRunning) (h : trimAbort s = t) :
    exec (.trimAbort .reg) s = .next t :=
  congrArg Host.Outcome.next ((trimCmd_abort (trimUp_runs hu) _ (by rw [trimAllowed, hr]; rfl)).trans h)

theorem reclaimStop_sweep {s : State} {g : Nat} (hu : trimUp s = true) (hr : (domOf s 10).reclaim.isSome = true)
    (hrun : s.trim.status = tsRunning) (hg : s.trim.phase = .sweep g) :
    exec .trimReclaimStop s = .next { s with trim := { s.trim with stopReq := some tsReclaimed } } := by
  refine (if_neg (by simp [hu, hr])).trans ((if_neg ?_).trans ((if_pos hrun).trans ?_))
  · rw [hrun]; decide
  · cases hp : s.trim.phase with
    | sweep g => rfl
    | between => rw [hg] at hp; cases hp
    | final => rw [hg] at hp; cases hp

/-- An error of the unit that is reported and fenced. -/
theorem trimError_keeps (s : State) : (reportFault s 0x18 1 1 0).mem = s.mem ∧
    (s.boot.dprActive = false → (reportFault s 0x18 1 1 0).cleatC.lines.getLsbD 0x18 = true) := by
  have hm (u : State) : (mgcReport u 0x18 1 1 0).mem = u.mem ∧ (mgcReport u 0x18 1 1 0).boot = u.boot := ⟨rfl, rfl⟩
  unfold reportFault
  extract_lets r room a b
  have ha : a.mem = s.mem ∧ a.boot = s.boot := ⟨cleatCPut_mem .., cleatCPut_boot ..⟩
  have hb : b.mem = s.mem ∧ b.boot = s.boot := by
    dsimp only [b]
    split
    · exact ⟨(hm a).1.trans ha.1, (hm a).2.trans ha.2⟩
    · exact ha
  clear_value b
  rw [if_pos rfl]
  refine ⟨?_, fun hd => fenceFault_line _ (by decide) (by rw [hb.2]; exact hd)⟩
  have hf (u : State) : (fenceFault u (0x18 : Byte).toNat 1).mem = u.mem := by
    unfold fenceFault
    exact ite_view (V := State.mem) rfl rfl
  exact (hf b).trans hb.1

theorem reclaimStop_results {s : State} (hu : trimUp s = true) (hr : (domOf s 10).reclaim.isSome = true)
    (hrun : s.trim.status = tsRunning) (hg : ∀ g, s.trim.phase ≠ .sweep g) :
    exec .trimReclaimStop s = .next (writeResults s (s.trim.ending.getD tsReclaimed)) := by
  refine (if_neg (by simp [hu, hr])).trans ((if_neg ?_).trans ((if_pos hrun).trans ?_))
  · rw [hrun]; decide
  · cases hp : s.trim.phase with
    | sweep g => exact absurd hp (hg g)
    | between => rfl
    | final => rfl

/-- Settles O47: one equation for each command and each end of it; a run's results are written from a state whose
journal, bus and memory are known. -/
theorem trimCommands : Obligations.TrimCommands := by
  intro s t0
  refine ⟨fun hd => ⟨fun e he hna => ?_, fun hf => ?_⟩, fun hu => ⟨fun ha hf => ?_, fun hl => ⟨fun hp => ?_, fun c hp hc => ?_, fun hm hp => ?_,
    fun x u hp hc hl' => ?_, fun c u hp hc hl' => ?_, ?_⟩, fun hl => ?_, fun ha => ?_, fun ha hj => ?_, fun b u r0 rs ha hj hr hrec => ?_,
    fun hrun => have hrun' : s.trim.status = tsRunning := hrun; ⟨fun g hg => ?_, fun hg he => ?_, fun hg => ?_, fun st he hst => ?_⟩, fun hr => ⟨fun hl => ?_, fun g hrun hg => ?_, fun hrun hg => ?_⟩,
    fun hr => ?_, ?_⟩⟩
  · simp only [List.mem_cons, List.not_mem_nil, or_false] at he
    rcases he with rfl | rfl | rfl | rfl
    all_goals exact congrArg Host.Outcome.next (trimCmd_refused _ hd hna)
  · have ha : trimAllowed s.trim 0 = true := by rw [trimAllowed, show s.trim.status = tsFenced from hf]; rfl
    refine congrArg Host.Outcome.next ((trimCmd_load hd _ ha).trans ((if_pos hf).trans ?_))
    rw [trimMod, BitVec.ofNat_toNat, BitVec.setWidth_eq]
  · have hx : exec (.trimLoad .reg) s = .next (trimLoad s s.trim.descA.toNat) :=
      congrArg Host.Outcome.next (trimCmd_load (trimUp_runs hu) _ ha)
    obtain ⟨r, u, hr, ht⟩ := trimLoad_eq hf
    obtain ⟨-, hm⟩ := trimRead_keeps s s.trim.descA.toNat 128
    rw [hr] at hm
    refine Gives.intro (hx.trans (congrArg Host.Outcome.next ht)) ⟨rfl, rfl, rfl, hm, fun p hp hf hc he => ?_⟩
    rw [trimRead_here (p := p) (by rw [descA_bits]; exact hp) hf hc he] at hr
    cases hr
    rfl
  · refine Gives.intro (t := { s with trim := { t0 with status := tsInvalid, cause := 9 } }) ?_ rfl
    exact (if_neg (by simp [hu, show s.trim.status = tsLoading from hl])).trans (if_pos (by rw [show s.trim.prob = none from hp]; rfl))
  · exact Gives.intro ((trimLoadDone_eq hu hl hp).1 c hc) rfl
  · exact Gives.intro ((trimLoadDone_eq hu hl hp).1 1 (if_pos hm)) ⟨rfl, rfl⟩
  · have hk := loadProblem_keeps s t0
    rw [hl'] at hk
    exact Gives.intro ((trimLoadDone_eq hu hl hp).2.2 x u hc hl') ⟨rfl, hk.2⟩
  · have hk := loadProblem_keeps s t0
    rw [hl'] at hk
    obtain ⟨ha, hm⟩ := hk
    have ht : u.trim = s.trim := (congrArg State.trim ha :)
    exact Gives.intro ((trimLoadDone_eq hu hl hp).2.1 c u hc hl') ⟨congrArg (fun x : Trim => { x with status := tsInvalid, cause := BitVec.ofNat 8 c }) ht, hm⟩
  · have ha : trimAllowed s.trim 3 = true := by rw [trimAllowed, show s.trim.status = tsLoading from hl]; rfl
    exact Gives.intro (congrArg Host.Outcome.next ((trimCmd_abort (trimUp_runs hu) _ ha).trans (if_pos hl))) ⟨rfl, rfl⟩
  · exact if_pos (by simp [show ¬ s.trim.status = tsLoading from hl])
  · refine Gives.intro (congrArg Host.Outcome.next (trimCmd_run (trimUp_runs hu) _ ha)) ?_
    have hx := trimRun_exchange s
    refine ⟨(congrArg Trim.status hx :), (congrArg Trim.sweep hx :), (congrArg Trim.jrun hx :), fun hj hs => ?_,
      (congrArg Trim.spins hx :), (congrArg Trim.phase hx :), (congrArg Trim.best hx :), fun i => ?_⟩
    · rw [trimRun_alone hj hs]
      exact ⟨rfl, rfl, rfl, rfl⟩
    · have hr : (trimRun s).trim.rng = _ := (congrArg Trim.rng hx :)
      rw [hr]
      exact vector_get_ofFn ..
  · obtain ⟨u, hm, hx⟩ := trimReplay_noJournal hj
    exact Gives.intro (congrArg Host.Outcome.next ((trimCmd_replay (trimUp_runs hu) _ ha).trans hx)) ⟨rfl, rfl, hm⟩
  · intro fits
    obtain ⟨hk, hm⟩ := trimRead_keeps s s.trim.journalA s.trim.jsize
    rw [hr] at hk hm
    have ht : u.trim = s.trim := (congrArg State.trim hk :)
    have hx := (trimCmd_replay (trimUp_runs hu) s.trim.descA.toNat ha).trans (trimReplay_records hj hr hrec)
    refine ⟨fun h => Gives.intro (congrArg Host.Outcome.next (hx.trans (if_pos h))) ?_,
      fun h => Gives.intro (congrArg Host.Outcome.next (hx.trans (if_neg h))) ⟨rfl, rfl, hm⟩⟩
    rw [trimMod, ht]
    refine ⟨rfl, rfl, rfl, rfl, rfl, rfl, rfl, rfl, fun i => ?_, hm⟩
    exact vector_get_ofFn ..
  · exact Gives.intro (trimAbort_running hu hrun (by rw [trimAbort, if_neg (by rw [hrun']; decide), show s.trim.phase = .sweep g from hg])) rfl
  · refine Gives.intro (trimAbort_running hu hrun (by rw [trimAbort, if_neg (by rw [hrun']; decide), show s.trim.phase = .between from hg])) ?_
    change ({ s.trim with ending := _ } : Trim) = _
    rw [show s.trim.ending = none from he]
  · exact Gives.intro (trimAbort_running hu hrun (by rw [trimAbort, if_neg (by rw [hrun']; decide), show s.trim.phase = .final from hg])) rfl
  · have hx : exec .trimRunEnd s = .next (writeResults s st) := by
      rw [exec, execTrimRunEnd, show s.trim.ending = some st from he]
      exact if_pos (by rw [hu, show s.trim.status = tsRunning from hrun]; rfl)
    obtain ⟨h1, h2, h3, h4, h5, h6⟩ := writeResults_spec s st
    refine Gives.intro hx ⟨h2, h3, h1, h4, h5, fun p hp hf hl hc herr hw => ⟨fun hj => ?_, fun j hj hr hjf hk hp1 hp2 hc1 hc2 he1 he2 hd => ?_⟩, fun hst hl => ?_⟩
    · obtain ⟨g1, g2, g3, g4⟩ := writeResults_plain he hl ⟨hp, hf, hc, herr⟩ hw hj
      refine ⟨g1, g2, g3, fun hst => g4 ?_⟩
      simp only [List.mem_cons, List.not_mem_nil, or_false] at hst
      rcases hst with rfl | rfl | rfl | rfl <;> decide
    · obtain ⟨g1, g2, g3, g4, g5⟩ := writeResults_journaled he hl ⟨hp, hf, hc, herr⟩ hw hj hr hjf hk ⟨hp2, hf, hc2, he2⟩ ⟨hp1, hf, hc1, he1⟩ hd
      refine ⟨g1, g2, g3, g4, fun hst => g5 fun hcut => hst ?_⟩
      simpa only [List.mem_cons, List.not_mem_nil, or_false] using hcut
    · exact h6 (by simpa only [List.mem_cons, List.not_mem_nil, or_false] using hst) hl
  · refine (if_neg (by simp [hu, hr])).trans (if_pos hl)
  · exact reclaimStop_sweep hu hr hrun hg
  · refine Gives.intro (reclaimStop_results hu hr hrun hg) ?_
    have hx := (writeResults_spec s (s.trim.ending.getD tsReclaimed)).1
    exact hx
  · exact if_pos (by simp [hr])
  · refine Gives.intro (if_pos hu) ⟨rfl, rfl, ?_, fun hd => ?_⟩
    · exact (trimError_keeps s).1
    · exact (trimError_keeps s).2 hd

end Sys2Proof.Machine

end

section

namespace Sys2Proof.Machine

/-! ## Parts of an access -/

theorem actDenied_part {t : Tbl W128} {init acc a n o k : Nat} (h : actDenied t init acc a n = none) (hk : o + k ≤ n) :
    actDenied t init acc (a + o) k = none := by
  induction n generalizing a o k with
  | zero =>
    obtain rfl : k = 0 := by omega
    rfl
  | succ n ih =>
    rw [actDenied] at h
    split at h
    · cases h
    · rename_i e he
      split at h
      · cases o with
        | succ o =>
          rw [show a + (o + 1) = a + 1 + o by omega]
          exact ih h (by omega)
        | zero =>
          cases k with
          | zero => rfl
          | succ k =>
            rw [actDenied, Nat.add_zero, he]
            dsimp only
            rw [if_pos ‹_›]
            exact ih (o := 0) h (by omega)
      · cases h

/-- Memory that answers an access answers each part of it, and lies below the management plane's. -/
theorem ramErr_part {s : State} {a n o k : Nat} (h : ramErr s a n = none) (h1 : 1 ≤ k) (hk : o + k ≤ n) :
    ramErr s (a + o) k = none ∧ a + n ≤ mgmtBase := by
  have hd : dramUsable s ≤ loftBase := by
    unfold dramUsable Config.fittedGiB loftBase
    dsimp only
    split <;> norm_num
  unfold ramErr at h
  dsimp only at h
  by_cases ha : a < loftBase
  · rw [if_pos ha] at h
    have hl : a + (n - 1) < dramUsable s := by
      by_contra hc
      rw [if_pos (Nat.not_lt.1 hc)] at h
      cases h
    rw [if_neg (Nat.not_le.2 hl)] at h
    refine ⟨?_, by unfold mgmtBase; unfold loftBase at hd; omega⟩
    unfold ramErr
    dsimp only
    rwa [if_pos (by omega), if_neg (by omega)]
  · rw [if_neg ha] at h
    by_cases hb : a < tcmBase
    · rw [if_pos hb] at h
      have hl : a + (n - 1) - loftBase < loftSize := by
        by_contra hc
        rw [if_pos (Nat.not_lt.1 hc)] at h
        cases h
      rw [if_neg (Nat.not_le.2 hl)] at h
      have ht : a + n ≤ tcmBase := by unfold loftSize at hl; unfold loftBase at hl ha; unfold tcmBase; omega
      refine ⟨?_, by unfold mgmtBase; unfold tcmBase at ht; omega⟩
      unfold ramErr
      dsimp only
      rw [if_neg (by omega), if_pos (by omega), if_neg (by omega)]
      split at h
      · cases h
      · rename_i h12
        rw [if_neg h12]
        split at h
        · cases h
        · rename_i h13
          refine if_neg fun hc => h13 ?_
          rw [Bool.and_eq_true, decide_eq_true_eq] at hc ⊢
          exact ⟨by omega, hc.2⟩
    · rw [if_neg hb] at h
      by_cases hp : a < periBase
      · rw [if_pos hp] at h
        have hc : (a - tcmBase) / 0x200000 < 16 := by
          by_contra hc
          rw [if_pos (Nat.not_lt.1 hc)] at h
          cases h
        rw [if_neg (Nat.not_le.2 hc)] at h
        have ho : (a - tcmBase) % 0x200000 + n ≤ 0x100000 ∨ (0x100000 ≤ (a - tcmBase) % 0x200000 ∧ (a - tcmBase) % 0x200000 + n ≤ 0x120000) := by
          by_contra hn
          rw [if_neg hn] at h
          cases h
        rw [if_pos ho] at h
        have hm : (a + o - tcmBase) % 0x200000 = (a - tcmBase) % 0x200000 + o := by unfold tcmBase at *; omega
        have hq : (a + o - tcmBase) / 0x200000 = (a - tcmBase) / 0x200000 := by unfold tcmBase at *; omega
        refine ⟨?_, by unfold mgmtBase; unfold tcmBase at *; omega⟩
        unfold ramErr
        dsimp only
        rw [if_neg (by omega), if_neg (by omega), if_pos (by unfold periBase; unfold tcmBase at *; omega), hm, hq, if_neg (by omega),
          if_pos (by omega)]
        exact h
      · rw [if_neg hp] at h
        by_cases hr : c2mRing ≤ a ∧ a + (n - 1) < m2cRing + 0x1000
        · refine ⟨?_, by unfold mgmtBase; unfold c2mRing m2cRing at hr; omega⟩
          unfold ramErr
          dsimp only
          rw [if_neg (by omega), if_neg (by omega), if_neg (by omega), if_pos (by omega)]
        · rw [if_neg hr] at h
          have hs : clbSlots ≤ a ∧ a + (n - 1) < clbSlots + 0x20000 := by
            by_contra hn
            rw [if_neg hn] at h
            cases h
          rw [if_pos hs] at h
          refine ⟨?_, by unfold mgmtBase; unfold clbSlots at hs; omega⟩
          unfold ramErr
          dsimp only
          rw [if_neg (by omega), if_neg (by omega), if_neg (by omega), if_neg (by unfold clbSlots at hs; unfold m2cRing; omega), if_pos (by omega)]
          exact h

theorem actCheck_part {s : State} {init acc a n o k : Nat} (h : actCheck s init acc a n = none) (hk : o + k ≤ n)
    (hm : a + o < mgmtBase) : actCheck s init acc (a + o) k = none := by
  unfold actCheck at h ⊢
  rw [if_neg (by omega)] at h ⊢
  split at h
  · rename_i hd
    rw [actDenied_part hd hk]
  · cases h

/-- Part of an access that is served, where memory places it so. -/
theorem Served.part {s : State} {init acc a n p b o k : Nat} (h : Served s init acc a n p) (h1 : 1 ≤ k) (hk : o + k ≤ n)
    (hb : placeOf s (bits b 0 48) = .here (p + o)) : Served s init acc b k (p + o) := by
  obtain ⟨he, hm⟩ := ramErr_part h.err h1 hk
  exact ⟨hb, h.fenced, actCheck_part h.check hk (by omega), he⟩

end Sys2Proof.Machine

end

section

namespace Sys2Proof.Machine

/-! ## Group steps of a Trim run (O48) -/

/-- The spin that lane l of block b decides in group step g. -/
def Trim.laneSpin (t : Trim) (g b l : Nat) : Nat := 256 * b + t.laneIndex g l

/-- The unit but for what one lane's decision changes. -/
def Trim.sansLane (t : Trim) : Trim := { t with rng := Vector.replicate 256 0, spins := 0, flips := 0 }

/-- Whether lane l of block b flips its spin (R308). -/
def Trim.flips1 (t : Trim) (cross : BitVec 4096) (g b l : Nat) : Bool :=
  let i := t.laneSpin g b l
  let d := t.deltaE t.spins cross i
  let e := (t.beta * d.toNat) >>> 9
  !t.clamp.getLsbD i && (decide (d ≤ 0) || (decide (e < 4096) && decide ((laneNext (t.rng.get (Fin.ofNat 256 (16 * b + l)))).2 < expt e)))

/-- A spin's cost rests on the problem and on the spins of its block. -/
theorem Trim.deltaE_congr {t u : Trim} (h : u.sansLane = t.sansLane) {s s' cross : BitVec 4096} {i : Nat}
    (hs : ∀ j, j / 256 = i / 256 → s'.getLsbD j = s.getLsbD j) : u.deltaE s' cross i = t.deltaE s cross i := by
  have hp : u.prob = t.prob := (congrArg Trim.prob h :)
  have hd : u.dense = t.dense := (congrArg Trim.dense h :)
  have hb : u.bias = t.bias := (congrArg Trim.bias h :)
  have hsp : u.sparse = t.sparse := (congrArg Trim.sparse h :)
  have hc : u.copies = t.copies := (congrArg Trim.copies h :)
  have hq : u.qubo = t.qubo := by unfold Trim.qubo Trim.mode Trim.fld; rw [hp]
  have hf : u.field s' cross i = t.field s cross i := by
    have hden : u.denseSum s' i = t.denseSum s i := by
      unfold Trim.denseSum Trim.coupling
      rw [hd, hq]
      refine List.foldl_ext _ _ _ fun a j hj => ?_
      rw [hs (256 * (i / 256) + j) (by have := List.mem_range.1 hj; omega)]
    have hspa : u.sparseSum cross i = t.sparseSum cross i := by
      unfold Trim.sparseSum
      rw [hsp, hc, hq]
    unfold Trim.field Trim.biasOf
    rw [hden, hspa, hb]
  unfold Trim.deltaE
  rw [hf, hq, hs i rfl]

theorem decide1_eq (t : Trim) (cross : BitVec 4096) (g b l : Nat) : ∃ fl, t.decide1 cross g b l = { t with
    rng := vmod t.rng (Fin.ofNat 256 (16 * b + l)) fun x => (laneNext x).1, flips := fl,
    spins := if t.flips1 cross g b l then t.spins ^^^ (1#4096 <<< t.laneSpin g b l) else t.spins } := by
  obtain ⟨v, hv⟩ : ∃ v : Trim, v = { t with rng := vmod t.rng (Fin.ofNat 256 (16 * b + l)) fun x => (laneNext x).1 } := ⟨_, rfl⟩
  have hd : v.deltaE v.spins cross (t.laneSpin g b l) = t.deltaE t.spins cross (t.laneSpin g b l) :=
    Trim.deltaE_congr (hv ▸ rfl) fun j _ => by rw [hv]
  have hb : v.beta = t.beta := hv ▸ rfl
  have hx : t.decide1 cross g b l = if v.clamp.getLsbD (t.laneSpin g b l) then v
      else if (if v.deltaE v.spins cross (t.laneSpin g b l) ≤ 0 then true
        else decide ((v.beta * (v.deltaE v.spins cross (t.laneSpin g b l)).toNat) >>> 9 < 4096) &&
          decide ((laneNext (t.rng.get (Fin.ofNat 256 (16 * b + l)))).2 < expt ((v.beta * (v.deltaE v.spins cross (t.laneSpin g b l)).toNat) >>> 9))) = true then
        { v with spins := v.spins ^^^ (1#4096 <<< t.laneSpin g b l),
                 flips := BitVec.ofNat 64 (min (2 ^ 64 - 1) (v.flips.toNat + 1)) }
      else v := hv ▸ rfl
  have hcl : v.clamp = t.clamp := hv ▸ rfl
  rw [hx, hd, hb, hcl]
  by_cases hc : t.clamp.getLsbD (t.laneSpin g b l) = true
  · exact ⟨t.flips, (if_pos hc).trans (by rw [hv, if_neg (by simp [Trim.flips1, hc])])⟩
  · rw [if_neg hc]
    have hor (d : Int) (x : Bool) : (if d ≤ 0 then true else x) = (decide (d ≤ 0) || x) := by split <;> simp [*]
    rw [hor]
    have hfl := Bool.true_and (decide (t.deltaE t.spins cross (t.laneSpin g b l) ≤ 0) ||
      decide ((t.beta * (t.deltaE t.spins cross (t.laneSpin g b l)).toNat) >>> 9 < 4096) &&
          decide ((laneNext (t.rng.get (Fin.ofNat 256 (16 * b + l)))).2 < expt ((t.beta * (t.deltaE t.spins cross (t.laneSpin g b l)).toNat) >>> 9)))
    have hf1 : t.flips1 cross g b l = _ := (congrArg (fun x => !x && _) (Bool.eq_false_iff.2 hc)).trans hfl
    rw [← hf1]
    by_cases hf : t.flips1 cross g b l = true
    · exact ⟨BitVec.ofNat 64 (min (2 ^ 64 - 1) (v.flips.toNat + 1)), (if_pos hf).trans (by rw [if_pos hf, hv])⟩
    · exact ⟨t.flips, (if_neg hf).trans (by rw [if_neg hf, hv])⟩

theorem spinBit (k i : Nat) : (1#4096 <<< k).getLsbD i = decide (i < 4096 ∧ i = k) := by
  rw [BitVec.getLsbD_shiftLeft, BitVec.getLsbD_one]
  simp only [Nat.zero_lt_succ, decide_true, Bool.true_and, ← decide_not, ← Bool.decide_and]
  exact decide_eq_decide.2 (by omega)

theorem decide1_sansLane (t : Trim) (cross : BitVec 4096) (g b l : Nat) : (t.decide1 cross g b l).sansLane = t.sansLane := by
  obtain ⟨fl, h⟩ := decide1_eq t cross g b l
  rw [h]
  rfl

theorem laneSpin_congr {t u : Trim} (h : u.sansLane = t.sansLane) (g b l : Nat) : u.laneSpin g b l = t.laneSpin g b l := by
  have hp : u.prob = t.prob := (congrArg Trim.prob h :)
  have hq : u.perm = t.perm := (congrArg Trim.perm h :)
  unfold Trim.laneSpin Trim.laneIndex Trim.orderPerm Trim.mode Trim.fld
  rw [hp, hq]

theorem decide1_rng (t : Trim) (cross : BitVec 4096) (g b l : Nat) (i : Fin 256) : (t.decide1 cross g b l).rng.get i =
    if i = Fin.ofNat 256 (16 * b + l) then (laneNext (t.rng.get i)).1 else t.rng.get i := by
  obtain ⟨fl, h⟩ := decide1_eq t cross g b l
  rw [h]
  dsimp only
  rw [vmod_get]
  split
  · rename_i hi
    rw [hi]
  · rfl

theorem decide1_spin_other (t : Trim) (cross : BitVec 4096) {g b l i : Nat} (hi : i ≠ t.laneSpin g b l) :
    (t.decide1 cross g b l).spins.getLsbD i = t.spins.getLsbD i := by
  obtain ⟨fl, h⟩ := decide1_eq t cross g b l
  rw [h]
  dsimp only
  split
  · rw [BitVec.getLsbD_xor, spinBit, decide_eq_false fun h => hi h.2, Bool.xor_false]
  · rfl

theorem decide1_spin (t : Trim) (cross : BitVec 4096) {g b l : Nat} (hi : t.laneSpin g b l < 4096) :
    (t.decide1 cross g b l).spins.getLsbD (t.laneSpin g b l) =
      (t.spins.getLsbD (t.laneSpin g b l) != t.flips1 cross g b l) := by
  obtain ⟨fl, h⟩ := decide1_eq t cross g b l
  rw [h]
  dsimp only
  split
  · rename_i hf
    rw [BitVec.getLsbD_xor, spinBit, hf, decide_eq_true ⟨hi, rfl⟩]
  · rename_i hf
    rw [Bool.eq_false_iff.2 hf]
    simp

/-! ### All lanes -/

/-- Lanes decide one after another. -/
def Trim.lanes (t : Trim) (cross : BitVec 4096) (g : Nat) (l : List (Nat × Nat)) : Trim :=
  l.foldl (fun t p => t.decide1 cross g p.1 p.2) t

/-- The lanes of n blocks, in order. -/
def laneList (n : Nat) : List (Nat × Nat) := (List.range n).flatMap fun b => (List.range 16).map fun l => (b, l)

theorem groupStep_eq (t : Trim) (g : Nat) : t.groupStep g = { t.lanes t.seen g (laneList t.nblk) with seen := t.spins } := by
  unfold Trim.groupStep Trim.lanes laneList
  simp only [List.foldl_flatMap, List.foldl_map]

theorem lanes_sansLane (t : Trim) (cross : BitVec 4096) (g : Nat) (l : List (Nat × Nat)) :
    (t.lanes cross g l).sansLane = t.sansLane := by
  induction l generalizing t with
  | nil => rfl
  | cons p l ih => exact (ih _).trans (decide1_sansLane ..)

theorem lanes_spin_other {t : Trim} {cross : BitVec 4096} {g i : Nat} {l : List (Nat × Nat)}
    (h : ∀ p ∈ l, i ≠ t.laneSpin g p.1 p.2) : (t.lanes cross g l).spins.getLsbD i = t.spins.getLsbD i := by
  induction l generalizing t with
  | nil => rfl
  | cons p l ih =>
    refine (ih fun q hq => ?_).trans (decide1_spin_other _ _ (h p List.mem_cons_self))
    rw [laneSpin_congr (decide1_sansLane ..)]
    exact h q (List.mem_cons_of_mem _ hq)

theorem lanes_clamped {t : Trim} {cross : BitVec 4096} {g i : Nat} {l : List (Nat × Nat)} (h : t.clamp.getLsbD i = true) :
    (t.lanes cross g l).spins.getLsbD i = t.spins.getLsbD i := by
  induction l generalizing t with
  | nil => rfl
  | cons p l ih =>
    have hc : (t.decide1 cross g p.1 p.2).clamp = t.clamp := (congrArg Trim.clamp (decide1_sansLane t cross g p.1 p.2) :)
    refine (ih (by rw [hc]; exact h)).trans ?_
    by_cases hi : i = t.laneSpin g p.1 p.2
    · obtain ⟨fl, hd⟩ := decide1_eq t cross g p.1 p.2
      refine (congrArg (fun u : Trim => u.spins.getLsbD i) hd).trans ?_
      dsimp only
      rw [if_neg (by rw [Trim.flips1, ← hi, h]; simp)]
    · exact decide1_spin_other _ _ hi

theorem lanes_rng_other {t : Trim} {cross : BitVec 4096} {g : Nat} {i : Fin 256} {l : List (Nat × Nat)}
    (h : ∀ p ∈ l, i ≠ Fin.ofNat 256 (16 * p.1 + p.2)) : (t.lanes cross g l).rng.get i = t.rng.get i := by
  induction l generalizing t with
  | nil => rfl
  | cons p l ih =>
    refine (ih fun q hq => h q (List.mem_cons_of_mem _ hq)).trans ?_
    exact (decide1_rng ..).trans (if_neg (h p List.mem_cons_self))

theorem lanes_append (t : Trim) (cross : BitVec 4096) (g : Nat) (l m : List (Nat × Nat)) :
    t.lanes cross g (l ++ m) = (t.lanes cross g l).lanes cross g m := List.foldl_append ..

/-- The order of lanes: by block, then by lane. -/
def laneBefore (p q : Nat × Nat) : Prop := p.1 < q.1 ∨ p.1 = q.1 ∧ p.2 < q.2

theorem mem_laneList {n : Nat} {p : Nat × Nat} : p ∈ laneList n ↔ p.1 < n ∧ p.2 < 16 := by
  simp only [laneList, List.mem_flatMap, List.mem_range, List.mem_map]
  constructor
  · rintro ⟨b, hb, l, hl, rfl⟩
    exact ⟨hb, hl⟩
  · rintro ⟨hb, hl⟩
    exact ⟨p.1, hb, p.2, hl, rfl⟩

theorem laneList_pairwise (n : Nat) : (laneList n).Pairwise laneBefore := by
  refine List.pairwise_flatMap.2 ⟨fun b _ => List.pairwise_map.2 ?_, ?_⟩
  · exact List.pairwise_lt_range.imp fun h => .inr ⟨rfl, h⟩
  · refine List.pairwise_lt_range.imp fun {a b} h x hx y hy => ?_
    obtain ⟨_, -, rfl⟩ := List.mem_map.1 hx
    obtain ⟨_, -, rfl⟩ := List.mem_map.1 hy
    exact .inl h

/-- One lane among the others. -/
theorem laneList_split {n b l : Nat} (hb : b < n) (hl : l < 16) : ∃ pre post, laneList n = pre ++ (b, l) :: post ∧
    (∀ q ∈ pre, laneBefore q (b, l)) ∧ (∀ q ∈ post, laneBefore (b, l) q) ∧
    (∀ q ∈ pre, q.1 < n ∧ q.2 < 16) ∧ ∀ q ∈ post, q.1 < n ∧ q.2 < 16 := by
  obtain ⟨pre, post, h⟩ := List.append_of_mem (mem_laneList.2 ⟨hb, hl⟩ : (b, l) ∈ laneList n)
  have hp := laneList_pairwise n
  rw [h, List.pairwise_append] at hp
  obtain ⟨-, hpost, hpre⟩ := hp
  refine ⟨pre, post, h, fun q hq => hpre q hq _ List.mem_cons_self, fun q hq => List.rel_of_pairwise_cons hpost hq,
    fun q hq => mem_laneList.1 ?_, fun q hq => mem_laneList.1 ?_⟩
  · rw [h]; exact List.mem_append_left _ hq
  · rw [h]; exact List.mem_append_right _ (List.mem_cons_of_mem _ hq)

/-- Every lane draws once. -/
theorem lanes_rng {t : Trim} {cross : BitVec 4096} {g n : Nat} (hn : n ≤ 16) (i : Fin 256) :
    (t.lanes cross g (laneList n)).rng.get i =
      if i.val / 16 < n then (laneNext (t.rng.get i)).1 else t.rng.get i := by
  split
  · rename_i hi
    obtain ⟨pre, post, h, hpre, hpost, hpb, hqb⟩ := laneList_split (n := n) (b := i.val / 16) (l := i.val % 16) hi (by omega)
    have hself : i = Fin.ofNat 256 (16 * (i.val / 16) + i.val % 16) := Fin.ext (by simp; omega)
    have hne (q : Nat × Nat) (hq : q.1 < n ∧ q.2 < 16) (hd : q.1 ≠ i.val / 16 ∨ q.2 ≠ i.val % 16) :
        i ≠ Fin.ofNat 256 (16 * q.1 + q.2) := fun he => by
      have := congrArg Fin.val he
      simp only [Fin.val_ofNat] at this
      omega
    rw [h, lanes_append, Trim.lanes, List.foldl_cons]
    refine (lanes_rng_other fun q hq => hne q (hqb q hq) ?_).trans ?_
    · rcases hpost q hq with h | h <;> dsimp only at h <;> omega
    · rw [decide1_rng, if_pos hself]
      refine congrArg (fun x => (laneNext x).1) (lanes_rng_other fun q hq => hne q (hpb q hq) ?_)
      rcases hpre q hq with h | h <;> dsimp only at h <;> omega
  · rename_i hi
    refine lanes_rng_other fun q hq he => ?_
    obtain ⟨h1, h2⟩ := mem_laneList.1 hq
    have := congrArg Fin.val he
    simp only [Fin.val_ofNat] at this
    omega

/-- The first lane of a block decides by the fields that stand before the group step. -/
theorem lanes_first {t : Trim} {cross : BitVec 4096} {g n b : Nat} (hb : b < n) (h16 : b < 16)
    (h0 : ∀ l : Nat, 0 < l → l < 16 → t.laneIndex g l ≠ t.laneIndex g 0) (hi : ∀ l : Nat, l < 16 → t.laneIndex g l < 256) :
    (t.lanes cross g (laneList n)).spins.getLsbD (t.laneSpin g b 0) =
      (t.spins.getLsbD (t.laneSpin g b 0) != t.flips1 cross g b 0) := by
  obtain ⟨pre, post, h, hpre, hpost, hpb, hqb⟩ := laneList_split (n := n) (b := b) (l := 0) hb (by decide)
  have hv := lanes_sansLane t cross g pre
  have hblock (q : Nat × Nat) (hq : q ∈ pre) : q.1 < b := by
    rcases hpre q hq with h | h
    · exact h
    · exact absurd h.2 (Nat.not_lt_zero _)
  have hspins (j : Nat) (hj : j / 256 = b) : (t.lanes cross g pre).spins.getLsbD j = t.spins.getLsbD j :=
    lanes_spin_other fun q hq he => by
      have h1 := hblock q hq
      have h2 := hi q.2 (hpb q hq).2
      unfold Trim.laneSpin at he
      omega
  have hself : t.laneSpin g b 0 / 256 = b := by
    have := hi 0 (by decide)
    unfold Trim.laneSpin
    omega
  have hlt : t.laneSpin g b 0 < 4096 := by
    have := hi 0 (by decide)
    unfold Trim.laneSpin
    omega
  have hls : (t.lanes cross g pre).laneSpin g b 0 = t.laneSpin g b 0 := laneSpin_congr hv ..
  have hflip : (t.lanes cross g pre).flips1 cross g b 0 = t.flips1 cross g b 0 := by
    have hc : (t.lanes cross g pre).clamp = t.clamp := (congrArg Trim.clamp hv :)
    have hbeta : (t.lanes cross g pre).beta = t.beta := (congrArg Trim.beta hv :)
    have hr : (t.lanes cross g pre).rng.get (Fin.ofNat 256 (16 * b + 0)) = t.rng.get (Fin.ofNat 256 (16 * b + 0)) :=
      lanes_rng_other fun q hq he => by
        have h1 := hblock q hq
        have h2 := (hpb q hq).2
        have := congrArg Fin.val he
        simp only [Fin.val_ofNat] at this
        omega
    unfold Trim.flips1
    dsimp only
    rw [hls, hc, hbeta, hr, Trim.deltaE_congr hv fun j hj => hspins j (hj.trans hself)]
  rw [h, lanes_append, Trim.lanes, List.foldl_cons]
  refine (lanes_spin_other fun q hq => ?_).trans ?_
  · rw [laneSpin_congr ((decide1_sansLane ..).trans hv)]
    have h1 := hi q.2 (hqb q hq).2
    have h2 := hi 0 (by decide)
    unfold Trim.laneSpin
    rcases hpost q hq with h | ⟨hb, hl⟩
    · dsimp only at h
      omega
    · have := h0 q.2 hl (hqb q hq).2
      dsimp only at hb
      omega
  · have hd := decide1_spin (t.lanes cross g pre) cross (g := g) (b := b) (l := 0) (by rw [hls]; exact hlt)
    rw [hls, hspins _ hself, hflip] at hd
    exact hd

/-! ## Sweeps and runs (O48) -/

theorem groupStep_gives {s : State} {g : Nat} (hu : trimUp s = true) (hr : s.trim.status = tsRunning)
    (hp : s.trim.phase = .sweep g) (hg : g < 16) : exec .trimGroupStep s = .next (afterDraw (trimMod s fun t => { t.groupStep g with
        phase := .sweep (g + 1), cyc := BitVec.ofNat 64 (min (2 ^ 64 - 1) (t.cyc.toNat + drawn s .cycles)) })) := by
  rw [exec, execTrimGroupStep, hp]
  exact if_pos (by rw [hu, hr, decide_eq_true hg]; rfl)

theorem groupStep_view (t : Trim) (g : Nat) : (t.groupStep g).sansLane = { t.sansLane with seen := t.spins } := by
  rw [groupStep_eq]
  exact congrArg (fun u : Trim => { u with seen := t.spins }) (lanes_sansLane t t.seen g (laneList t.nblk))

theorem groupStep_spins (t : Trim) (g : Nat) : (t.groupStep g).spins = (t.lanes t.seen g (laneList t.nblk)).spins := by
  rw [groupStep_eq]

/-! ### Exchange records -/

/-- The state but for Trim's copies of other spins and their count. -/
def State.sansCopies (s : State) : State := { s with trim := { s.trim with copies := [], xrec := 0 } }

theorem replayApply_copies {s : State} (h : s.trim.replay = true) (final : Bool) :
    (replayApply s final).sansCopies = s.sansCopies := by
  have hstep (l : List TrimRec) (u : State) (n : Nat) (hu : u.trim.replay = true) :
      (l.foldl (fun v r => applyRec v r.part.toNat n r) u).sansCopies = u.sansCopies := by
    induction l generalizing u with
    | nil => rfl
    | cons r l ih =>
      have hx : applyRec u r.part.toNat n r = trimMod u fun t => { copyIn t r.part.toNat r with xrec := satAdd32 t.xrec 1 } :=
        journalPut_none (.inr (.inl hu))
      rw [List.foldl_cons, hx]
      refine (ih _ ?_).trans rfl
      exact hu
  exact hstep _ s s.trim.sweep.toNat h

theorem applyPeer_exchange (k : Nat) (s : State) (p : Nat) : (applyPeer k s p).sansExchange = s.sansExchange := by
  induction k generalizing s with
  | zero => rfl
  | succ k ih =>
    rw [applyPeer]
    split
    · rfl
    · exact (ih _).trans ((applyRec_exchange ..).trans rfl)

theorem applyAll_exchange (s : State) : (applyAll s).sansExchange = s.sansExchange :=
  foldl_view (V := State.sansExchange) (fun _ _ => applyPeer_exchange ..) _ s

theorem applyFinals_exchange (s : State) : (applyFinals s).sansExchange = s.sansExchange := by
  refine foldl_view (V := State.sansExchange) (fun u p => ?_) _ s
  split
  · exact (applyRec_exchange ..).trans rfl
  · rfl

/-! ### The end of a schedule step -/

theorem Trim.ePart_congr {t u : Trim} (hp : u.prob = t.prob) (hd : u.dense = t.dense) (hb : u.bias = t.bias)
    (hsp : u.sparse = t.sparse) (hc : u.copies = t.copies) (hs : u.spins = t.spins) : u.ePart = t.ePart := by
  have hq : u.qubo = t.qubo := by unfold Trim.qubo Trim.mode Trim.fld; rw [hp]
  have hn : u.nspins = t.nspins := by unfold Trim.nspins Trim.nblk Trim.fld; rw [hp]
  have hf (a b : BitVec 4096) (i : Nat) : u.field a b i = t.field a b i := by
    unfold Trim.field Trim.biasOf Trim.denseSum Trim.sparseSum Trim.coupling
    rw [hd, hb, hsp, hc, hq]
  have hbi (i : Nat) : u.biasOf i = t.biasOf i := by unfold Trim.biasOf; rw [hb]
  unfold Trim.ePart
  rw [hn, hq, hs]
  simp only [hf, hbi]

/-- The unit but for what the end of a schedule step changes. -/
def Trim.sansStep (t : Trim) : Trim := { t with energy := 0, recE := [], best := none, steps := 0, stepSweeps := 0, step := 0 }

/-- The best of a run at the end of a step. -/
def Trim.bestNow (t : Trim) : Option (Nat × Int × BitVec 4096) :=
  if scBest (t.sched.getD t.steps 0) && t.best.all (fun b => decide ((BitVec.ofInt 48 t.ePart).toInt < b.2.1)) then
    some (t.steps, (BitVec.ofInt 48 t.ePart).toInt, t.spins)
  else t.best

theorem stepEnd_spec (t : Trim) : t.stepEnd.sansStep = t.sansStep ∧ t.stepEnd.steps = t.steps + 1 ∧ t.stepEnd.stepSweeps = 0 ∧
    (scRecord (t.sched.getD t.steps 0) = true → t.stepEnd.energy = BitVec.ofInt 48 t.ePart ∧
      t.stepEnd.recE = t.recE.set t.steps (BitVec.ofInt 64 (BitVec.ofInt 48 t.ePart).toInt)) ∧
    t.stepEnd.best = t.bestNow := by
  unfold Trim.stepEnd Trim.bestNow
  extract_lets e a b c
  have ha : a.sansStep = t.sansStep ∧ a.steps = t.steps ∧ a.best = t.best ∧ a.recE = t.recE ∧
      ((scRecord e || scBest e) = true → a.energy = BitVec.ofInt 48 t.ePart) := by
    by_cases h : (scRecord e || scBest e) = true
    · rw [show a = t.noteEnergy from if_pos h]
      exact ⟨rfl, rfl, rfl, rfl, fun _ => rfl⟩
    · rw [show a = t from if_neg h]
      exact ⟨rfl, rfl, rfl, rfl, fun h' => absurd h' h⟩
  clear_value a
  obtain ⟨ha1, ha2, ha3, ha4, ha5⟩ := ha
  have hb : b.sansStep = t.sansStep ∧ b.steps = t.steps ∧ b.best = t.best ∧ b.energy = a.energy ∧
      (scRecord e = true → b.recE = t.recE.set t.steps (BitVec.ofInt 64 a.energy.toInt)) := by
    by_cases h : scRecord e = true
    · rw [show b = { a with recE := a.recE.set a.steps (BitVec.ofInt 64 a.energy.toInt) } from if_pos h, ha2, ha4]
      exact ⟨ha1, rfl, ha3, rfl, fun _ => rfl⟩
    · rw [show b = a from if_neg h]
      exact ⟨ha1, ha2, ha3, rfl, fun h' => absurd h' h⟩
  clear_value b
  obtain ⟨hb1, hb2, hb3, hb4, hb5⟩ := hb
  have hbs : b.spins = t.spins := (congrArg Trim.spins hb1 :)
  have hm : (match b.best with
      | none => true
      | some x => decide (b.energy.toInt < x.2.1)) = b.best.all fun x => decide (b.energy.toInt < x.2.1) := by
    cases b.best <;> rfl
  have hc : c = if (scBest e && b.best.all fun x => decide (b.energy.toInt < x.2.1)) = true then
      { b with best := some (b.steps, b.energy.toInt, b.spins) } else b :=
    congrArg (fun x => if (scBest e && x) = true then
      { b with best := some (b.steps, b.energy.toInt, b.spins) } else b) hm
  have hcs : c.sansStep = t.sansStep ∧ c.steps = t.steps ∧ c.energy = b.energy ∧ c.recE = b.recE ∧ c.nstep = b.nstep ∧
      c.best = if (scBest e && t.best.all fun x => decide ((BitVec.ofInt 48 t.ePart).toInt < x.2.1)) = true then
        some (t.steps, (BitVec.ofInt 48 t.ePart).toInt, t.spins) else t.best := by
    rw [hc, ← hb3]
    cases hbe : scBest e with
    | false => exact ⟨hb1, hb2, rfl, rfl, rfl, rfl⟩
    | true =>
      have hen : b.energy = BitVec.ofInt 48 t.ePart := hb4.trans (ha5 (by rw [hbe, Bool.or_true]))
      rw [← hen]
      split
      · exact ⟨hb1, hb2, rfl, rfl, rfl, by rw [hb2, hbs]⟩
      · exact ⟨hb1, hb2, rfl, rfl, rfl, rfl⟩
  clear_value c
  obtain ⟨hc1, hc2, hc3, hc4, hc5, hc6⟩ := hcs
  refine ⟨hc1, by rw [← hc2], rfl, fun h => ?_, hc6⟩
  have hen := ha5 (by rw [show scRecord e = true from h, Bool.true_or])
  exact ⟨hc3.trans (hb4.trans hen), hc4.trans ((hb5 h).trans (by rw [hen]))⟩

/-! ### The end of a sweep -/

/-- What the end of a sweep makes of the unit, but for what it writes and sends. -/
def Trim.sweepEnd (t : Trim) : Trim :=
  let t := { t with last := t.spins, sweep := t.sweep + 1, stepSweeps := t.stepSweeps + 1 }
  let t := if t.stepSweeps = scSweeps (t.sched.getD t.steps 0) then t.stepEnd else t
  { t with phase := if t.steps = t.nstep then .final else .between }

/-- The unit but for what the end of a sweep changes. -/
def Trim.sansSweep (t : Trim) : Trim := { t.sansStep with last := 0, sweep := 0, phase := .between }

/-- A sweep that ends a schedule step. -/
def Trim.endsStep (t : Trim) : Prop := t.stepSweeps + 1 = scSweeps (t.sched.getD t.steps 0)

theorem sweepEnd_inner {t : Trim} (h : ¬ t.endsStep) : t.sweepEnd = { t with
    last := t.spins, sweep := t.sweep + 1, stepSweeps := t.stepSweeps + 1,
    phase := if t.steps = t.nstep then .final else .between } := by
  unfold Trim.sweepEnd
  extract_lets a b
  rw [show b = a from if_neg h]
  rfl

theorem sweepEnd_step {t : Trim} (h : t.endsStep) : t.sweepEnd.sansSweep = t.sansSweep ∧ t.sweepEnd.last = t.spins ∧
    t.sweepEnd.sweep = t.sweep + 1 ∧ t.sweepEnd.steps = t.steps + 1 ∧ t.sweepEnd.stepSweeps = 0 ∧
    t.sweepEnd.phase = (if t.steps + 1 = t.nstep then .final else .between) ∧
    (scRecord (t.sched.getD t.steps 0) = true → t.sweepEnd.energy = BitVec.ofInt 48 t.ePart ∧
      t.sweepEnd.recE = t.recE.set t.steps (BitVec.ofInt 64 (BitVec.ofInt 48 t.ePart).toInt)) ∧
    t.sweepEnd.best = t.bestNow := by
  unfold Trim.sweepEnd
  extract_lets a b
  rw [show b = a.stepEnd from if_pos h]
  obtain ⟨h1, h2, h3, h4, h5⟩ := stepEnd_spec a
  have he : a.ePart = t.ePart := Trim.ePart_congr rfl rfl rfl rfl rfl rfl
  have hb : a.bestNow = t.bestNow := by
    unfold Trim.bestNow
    rw [he]
  rw [he] at h4
  rw [hb] at h5
  have hn : a.stepEnd.nstep = t.nstep := by
    have hp : a.stepEnd.prob = t.prob := (congrArg Trim.prob h1 :)
    unfold Trim.nstep Trim.fld
    rw [hp]
  refine ⟨(congrArg (fun v : Trim => { v with last := 0, sweep := 0, phase := .between }) h1 :), (congrArg Trim.last h1 :),
    (congrArg Trim.sweep h1 :), h2, h3, ?_, h4, h5⟩
  dsimp only
  rw [h2, hn]

theorem sweepEnd_view (t : Trim) : t.sweepEnd.sansSweep = t.sansSweep ∧ t.sweepEnd.last = t.spins ∧
    t.sweepEnd.sweep = t.sweep + 1 := by
  by_cases h : t.endsStep
  · obtain ⟨h1, h2, h3, -⟩ := sweepEnd_step h
    exact ⟨h1, h2, h3⟩
  · rw [sweepEnd_inner h]
    exact ⟨rfl, rfl, rfl⟩

theorem bestNow_cases (t : Trim) : t.bestNow = t.best ∨ ∃ e, t.bestNow = some (t.steps, e, t.spins) := by
  unfold Trim.bestNow
  split
  · exact .inr ⟨_, rfl⟩
  · exact .inl rfl

theorem bestNow_first {t : Trim} (h : scBest (t.sched.getD t.steps 0) = true) (hb : t.best = none) :
    t.bestNow = some (t.steps, (BitVec.ofInt 48 t.ePart).toInt, t.spins) := by
  unfold Trim.bestNow
  rw [h, hb]
  rfl

theorem bestNow_next {t : Trim} {b : Nat × Int × BitVec 4096} (h : scBest (t.sched.getD t.steps 0) = true) (hb : t.best = some b) :
    t.bestNow = if (BitVec.ofInt 48 t.ePart).toInt < b.2.1 then
      some (t.steps, (BitVec.ofInt 48 t.ePart).toInt, t.spins) else some b := by
  unfold Trim.bestNow
  rw [h, hb]
  simp

/-! ### What the end of a sweep writes and sends -/

theorem trimEnd_of_none {s : State} (h : s.trim.ending = none) (st : BitVec 4) :
    trimEnd s st = { s with trim := { s.trim with ending := some st } } := by
  change ({ s with trim := { s.trim with ending := _ } } : State) = _
  rw [h]

theorem writeFields_exchange (l : List (Nat × Bytes)) (s : State) : (writeFields s l).sansExchange = s.sansExchange := by
  induction l generalizing s with
  | nil => rfl
  | cons x l ih =>
    obtain ⟨o, b⟩ := x
    have hx := seqWrite_exchange s trimInit none (s.trim.resultA + o) b
    rw [writeFields]
    generalize seqWrite s trimInit none (s.trim.resultA + o) b = y at hx
    obtain ⟨e, u⟩ := y
    cases e with
    | some e => exact (trimEnd_exchange ..).trans hx
    | none => exact (ih u).trans hx

theorem writeBest_exchange (was : Option (Nat × Int × BitVec 4096)) (s : State) :
    (writeBest was s).sansExchange = s.sansExchange := by
  unfold writeBest
  split
  · exact ite_view (V := State.sansExchange) rfl (writeFields_exchange ..)
  · rfl

theorem writeBest_same {was : Option (Nat × Int × BitVec 4096)} {s : State} (h : was = s.trim.best) : writeBest was s = s := by
  unfold writeBest
  split
  · exact if_pos h
  · rfl

/-- Fields of a result area that is served are written, one after another. -/
theorem writeFields_served {l : List (Nat × Bytes)} {s : State} {p : Nat} (h : ∀ x ∈ l, 1 ≤ x.2.length ∧ x.1 + x.2.length ≤ 1600)
    (hr : ∀ o : Nat, o < 1600 → placeOf s (bits (s.trim.resultA + o) 0 48) = .here (p + o))
    (hs : Served s trimInit accStore s.trim.resultA 1600 p) : (writeFields s l).trim = s.trim ∧
      (writeFields s l).mem = l.foldl (fun m x => memWriteN m (p + x.1) x.2) s.mem := by
  induction l generalizing s with
  | nil => exact ⟨rfl, rfl⟩
  | cons x l ih =>
    obtain ⟨o, b⟩ := x
    obtain ⟨h1, h2⟩ := h (o, b) List.mem_cons_self
    have hw := seqWrite_served (bs := b) (hs.part h1 h2 (hr o (by dsimp only at h1 h2; omega)))
    have hb := sameBus_noteHomeWrite_wr s (p + o) b.length b
    obtain ⟨u, hu⟩ : ∃ u, noteHomeWrite (s.wr (p + o) b) (p + o) b.length = u := ⟨_, rfl⟩
    have ht : u.trim = s.trim := hu ▸ rfl
    have hm : u.mem = memWriteN s.mem (p + o) b := by rw [← hu, noteHomeWrite_mem, State.wr_mem]
    rw [hu] at hw hb
    rw [writeFields, hw]
    obtain ⟨i1, i2⟩ := ih (s := u) (fun x hx => h x (List.mem_cons_of_mem _ hx))
      (fun o ho => by rw [ht, hb.place]; exact hr o ho) (by rw [ht]; exact hs.of_same hb)
    refine ⟨i1.trans ht, i2.trans ?_⟩
    rw [hm]
    rfl

/-- The state but for the flits that go and the spins sent. -/
def State.sansSent (s : State) : State := { s.sansShl with trim := { s.trim with sent := Vector.replicate 8 0 } }

theorem sendAll_sent (s : State) (kind : Nat) (src : W32) : (sendAll s kind src).sansSent = s.sansSent := by
  refine foldl_view (V := State.sansSent) (fun u p => ?_) _ s
  unfold sendTrim
  extract_lets all was t r b v
  have hv : v.sansShl = u.sansShl := foldl_view (V := State.sansShl) (fun _ _ => sendOwn_shl ..) _ u
  clear_value v
  exact (congrArg (fun w : State => { w with trim := { w.trim with sent := Vector.replicate 8 0 } }) hv :)

/-- The end of a sweep, up to what it writes. -/
theorem sweepEnd_gives {s w : State} (hu : trimUp s = true) (hr : s.trim.status = tsRunning) (hp : s.trim.phase = .sweep 16)
    (hw : writeBest s.trim.best { s with trim := s.trim.sweepEnd } = w) : ∃ t, exec .trimSweepEnd s = .next t ∧
      t.trim.sansExchange = s.trim.sweepEnd.sansExchange ∧ t.mem = w.mem ∧
      (w.trim.ending = none → t.trim.ending = s.trim.stopReq) := by
  obtain ⟨v, hv⟩ : ∃ v, (if s.trim.split ∧ ¬ s.trim.replay ∧ (s.trim.sweep.toNat + 1) % s.trim.xp = 0 then
    sendAll w 2 s.trim.sweep else w) = v := ⟨_, rfl⟩
  have hx : exec .trimSweepEnd s = match v.trim.stopReq with
      | some st => .next (trimEnd v st)
      | none => .next v := by
    subst hv hw
    rw [exec, execTrimSweepEnd]
    refine if_neg ?_
    rw [hu, hr, hp]
    decide
  have hwx : w.trim.sansExchange = s.trim.sweepEnd.sansExchange := trim_of_exchange (hw ▸ writeBest_exchange ..)
  have hvs : v.sansSent = w.sansSent := by
    rw [← hv]
    exact ite_view (V := State.sansSent) (sendAll_sent ..) rfl
  have hvx : v.trim.sansExchange = s.trim.sweepEnd.sansExchange := by
    refine Eq.trans ?_ hwx
    rw [← hv]
    split
    · exact trim_of_exchange (sendAll_exchange ..)
    · rfl
  have hm : v.mem = w.mem := (congrArg State.mem hvs :)
  have he : v.trim.ending = w.trim.ending := (congrArg (fun u : State => u.trim.ending) hvs :)
  have hq : v.trim.stopReq = s.trim.stopReq :=
    (congrArg Trim.stopReq hvx :).trans (congrArg Trim.stopReq (sweepEnd_view s.trim).1 :)
  rw [hq] at hx
  cases hs : s.trim.stopReq with
  | none =>
    rw [hs] at hx
    exact ⟨v, hx, hvx, hm, fun h => he.trans h⟩
  | some st =>
    rw [hs] at hx
    refine ⟨trimEnd v st, hx, hvx, hm, fun h => ?_⟩
    rw [trimEnd_of_none (he.trans h)]

/-- A new best reaches the result area. -/
theorem writeBest_served {was : Option (Nat × Int × BitVec 4096)} {s : State} {k p : Nat} {e : Int} {m : BitVec 4096}
    (hb : s.trim.best = some (k, e, m)) (hne : s.trim.best ≠ was) (hm : s.memWf = true)
    (hr : ∀ o : Nat, o < 1600 → placeOf s (bits (s.trim.resultA + o) 0 48) = .here (p + o))
    (hs : Served s trimInit accStore s.trim.resultA 1600 p) : (writeBest was s).trim = s.trim ∧
      memRead (writeBest was s).mem (p + 3) = BitVec.ofNat 8 k ∧
      memReadN (writeBest was s).mem (p + 0x440) 512 = toLE 512 m.toNat ∧
      ∀ q : Nat, q < p ∨ p + 1600 ≤ q → memRead (writeBest was s).mem q = memRead s.mem q := by
  have hx : writeBest was s = writeFields s [(0x003, toLE 1 k), (0x010, toLE 8 (wrapInt 64 e)), (0x440, toLE 512 m.toNat)] := by
    unfold writeBest
    rw [hb]
    exact if_neg fun h => hne (hb.trans h.symm)
  obtain ⟨ht, hmem⟩ := writeFields_served (l := [(0x003, toLE 1 k), (0x010, toLE 8 (wrapInt 64 e)), (0x440, toLE 512 m.toNat)])
    (by simp only [List.forall_mem_cons, toLE_length]; simp) hr hs
  rw [hx]
  refine ⟨ht, ?_⟩
  rw [hmem]
  have hl1 := toLE_length 1 k
  have hl2 := toLE_length 8 (wrapInt 64 e)
  have hl3 := toLE_length 512 m.toNat
  have hk : toLE 1 k = [BitVec.ofNat 8 k] := rfl
  rw [hk] at hl1 ⊢
  generalize toLE 8 (wrapInt 64 e) = b2 at hl2
  generalize toLE 512 m.toNat = b3 at hl3
  have hw1 := memWriteN_wf (p + 0x003) [BitVec.ofNat 8 k] hm
  have hw2 := memWriteN_wf (p + 0x010) b2 hw1
  simp only [List.foldl_cons, List.foldl_nil]
  refine ⟨?_, ?_, fun q hq => ?_⟩
  · rw [memRead_memWriteN_out hw2 (by omega), memRead_memWriteN_out hw1 (by omega)]
    exact memRead_memWriteN_in (a := p + 3) (i := 0) hm (by simp)
  · rw [← hl3]
    exact memReadN_memWriteN hw2
  · rw [memRead_memWriteN_out hw2 (by omega), memRead_memWriteN_out hw1 (by omega), memRead_memWriteN_out hm (by rw [hl1]; omega)]

theorem sweepEnd_written {s w : State} {p : Nat} (hw : writeBest s.trim.best { s with trim := s.trim.sweepEnd } = w) (hb : s.trim.sweepEnd.best ≠ s.trim.best) (hwf : s.memWf = true)
    (hf : initFenced s trimInit = false) (hpl : ∀ o : Nat, o < 1600 → placeOf s (bits (s.trim.resultA + o) 0 48) = .here (p + o))
    (hc : actCheck s trimInit accStore p 1600 = none) (herr : ramErr s p 1600 = none) :
    w.trim.ending = s.trim.ending ∧ memRead w.mem (p + 3) = BitVec.ofNat 8 s.trim.steps ∧
      memReadN w.mem (p + 0x440) 512 = toLE 512 s.trim.spins.toNat ∧
      ∀ q : Nat, q < p ∨ p + 1600 ≤ q → memRead w.mem q = memRead s.mem q := by
  obtain ⟨hv, -⟩ := sweepEnd_view s.trim
  have hprob : s.trim.sweepEnd.prob = s.trim.prob := (congrArg Trim.prob hv :)
  have hend : s.trim.sweepEnd.ending = s.trim.ending := (congrArg Trim.ending hv :)
  have hresA : s.trim.sweepEnd.resultA = s.trim.resultA := by
    unfold Trim.resultA Trim.fld
    rw [hprob]
  have he : s.trim.endsStep := by
    by_contra he
    exact hb (by rw [sweepEnd_inner he])
  obtain ⟨-, -, -, -, -, -, -, hnow⟩ := sweepEnd_step he
  obtain ⟨e, hnew⟩ := (bestNow_cases s.trim).resolve_left fun h => hb (hnow.trans h)
  obtain ⟨u, hu⟩ : ∃ u, ({ s with trim := s.trim.sweepEnd } : State) = u := ⟨_, rfl⟩
  have hbus : SameBus s u := hu ▸ ⟨rfl, rfl, rfl, rfl, rfl⟩
  have hut : u.trim = s.trim.sweepEnd := hu ▸ rfl
  have hum : u.mem = s.mem := hu ▸ rfl
  have hsv : Served s trimInit accStore s.trim.resultA 1600 p := ⟨by simpa using hpl 0 (by decide), hf, hc, herr⟩
  rw [hu] at hw
  obtain ⟨w1, w2, w3, w4⟩ := writeBest_served (was := s.trim.best) (s := u) (p := p) (by rw [hut, hnow, hnew])
    (by rw [hut]; exact hb) (by rw [State.memWf, hum]; exact hwf)
    (fun o ho => by rw [hut, hresA, hbus.place]; exact hpl o ho) (by rw [hut, hresA]; exact hsv.of_same hbus)
  rw [hw] at w1 w2 w3 w4
  exact ⟨(congrArg Trim.ending (w1.trans hut)).trans hend, w2, w3, fun q hq => (w4 q hq).trans (by rw [hum])⟩

/-! ### The start of a sweep, and waits -/

section
variable {s : State} (hu : trimUp s = true) (hr : s.trim.status = tsRunning)
include hu hr

theorem sweepStart_alone (hp : s.trim.phase = .between) (he : s.trim.ending = none) (h1 : s.trim.replay = false)
    (h2 : s.trim.split = false) : exec .trimSweepStart s = .next { s with trim := { s.trim with phase := .sweep 0 } } := by
  refine (if_neg (by simp [hu, hr, hp, he])).trans ((if_neg (by rw [h1]; decide)).trans (if_neg (by rw [h2]; decide)))

theorem sweepStart_split (hp : s.trim.phase = .between) (he : s.trim.ending = none) (h1 : s.trim.replay = false)
    (h2 : s.trim.split = true) : exec .trimSweepStart s = if staleOk (applyAll s).trim then
        .next (trimMod (applyAll s) fun t => { t with phase := .sweep 0 })
      else .next (afterDraw (trimMod (applyAll s) fun t => { t with
        xwait := BitVec.ofNat 64 (min (2 ^ 64 - 1) (t.xwait.toNat + drawn (applyAll s) .cycles)) })) :=
  (if_neg (by simp [hu, hr, hp, he])).trans ((if_neg (by rw [h1]; decide)).trans (if_pos h2))

theorem sweepStart_stop {st : BitVec 4} (hp : s.trim.phase = .between) (he : s.trim.ending = none) (h1 : s.trim.replay = true)
    (h2 : replayStop s.trim = some st) :
    exec .trimSweepStart s = .next (trimEnd (if st = tsReplayShort then s else replayApply s false) st) := by
  refine (if_neg (by simp [hu, hr, hp, he])).trans ((if_pos h1).trans ?_)
  rw [h2]

theorem sweepStart_replay (hp : s.trim.phase = .between) (he : s.trim.ending = none) (h1 : s.trim.replay = true)
    (h2 : replayStop s.trim = none) :
    exec .trimSweepStart s = .next (trimMod (replayApply s false) fun t => { t with phase := .sweep 0 }) := by
  refine (if_neg (by simp [hu, hr, hp, he])).trans ((if_pos h1).trans ?_)
  rw [h2]

end

theorem le_satCount (x : W64) (n : Nat) : x.toNat ≤ (BitVec.ofNat 64 (min (2 ^ 64 - 1) (x.toNat + n))).toNat := by
  have := x.isLt
  rw [BitVec.toNat_ofNat]
  omega

theorem peerTimeout_between {s : State} (hu : trimUp s = true) (hr : s.trim.status = tsRunning) (hp : s.trim.phase = .between)
    (he : s.trim.ending = none) (h1 : s.trim.replay = false) (h2 : s.trim.split = true) :
    exec .trimPeerTimeout s = .next (if staleOk (applyAll s).trim then applyAll s else trimEnd (applyAll s) tsPeerTimeout) := by
  refine (if_neg (by simp [hu, hr, he, h1, h2])).trans ?_
  rw [hp]

theorem peerTimeout_sweep {s : State} {g : Nat} (hp : s.trim.phase = .sweep g) : exec .trimPeerTimeout s = .next s := by
  rw [exec, execTrimPeerTimeout]
  refine ite_eq_left_iff.2 fun _ => ?_
  rw [hp]

section
variable {s : State} (hu : trimUp s = true) (hr : s.trim.status = tsRunning) (hp : s.trim.phase = .final)
  (he : s.trim.ending = none)
include hu hr hp he

theorem trimFinal_alone (h1 : s.trim.replay = false) (h2 : s.trim.split = false) :
    exec .trimFinal s = .next (runDone s tsDone) := by
  exact (if_neg (by simp [hu, hr, hp, he])).trans ((if_neg (by rw [h1]; decide)).trans (if_neg (by rw [h2]; decide)))

theorem trimFinal_short (h1 : s.trim.replay = true) (h2 : s.trim.jEnd = none) :
    exec .trimFinal s = .next (trimEnd s tsReplayShort) := by
  refine (if_neg (by simp [hu, hr, hp, he])).trans ((if_pos h1).trans ?_)
  rw [h2]

theorem trimFinal_replay {r : TrimRec} (h1 : s.trim.replay = true) (h2 : s.trim.jEnd = some r) :
    exec .trimFinal s = .next (runDone (replayApply s true) (endStatus r)) := by
  refine (if_neg (by simp [hu, hr, hp, he])).trans ((if_pos h1).trans ?_)
  rw [h2]

theorem trimFinal_split {u : State} (h1 : s.trim.replay = false) (h2 : s.trim.split = true)
    (h : applyFinals (if s.trim.finalSent then s
      else trimMod (sendAll s 3 s.trim.sweep) fun t => { t with finalSent := true }) = u) :
    exec .trimFinal s = if finalsIn u.trim then .next (runDone u tsDone)
      else .next (afterDraw (trimMod u fun t => { t with
        xwait := BitVec.ofNat 64 (min (2 ^ 64 - 1) (t.xwait.toNat + drawn u .cycles)) })) := by
  subst h
  exact (if_neg (by simp [hu, hr, hp, he])).trans ((if_neg (by rw [h1]; decide)).trans (if_pos h2))

end

theorem runDone_of_none {s : State} (h : s.trim.ending = none) (st : BitVec 4) :
    runDone s st = { s with trim := { s.trim with energy := BitVec.ofInt 48 s.trim.ePart, ending := some st } } :=
  trimEnd_of_none (s := trimMod s Trim.noteEnergy) h st

/-- Settles O48: every lane draws once and flips its own spin alone, records of peers keep what a sweep decides by, and the end of a sweep is `sweepEnd_step`. -/
theorem trimRuns : Obligations.TrimRuns := by
  intro s hu t0
  refine ⟨fun hr hp he => ⟨fun hrp hsp => ?_, fun hrp hsp => ?_, fun hrp hj hl => ?_, fun r hrp hj hl => ?_, fun hrp h => ?_,
    fun hrp hsp hen hstale => ?_⟩, fun g hr hp => ⟨fun hg => ?_, fun hg => ?_, fun hg => ?_, ?_⟩,
    fun hr hp he => ⟨fun hrp hsp => ?_, fun hrp hj => ?_, fun r hrp hj => ?_, ?_⟩, fun p b => ?_⟩
  · exact sweepStart_alone hu hr hp he hrp hsp
  · have hx := trim_of_exchange (applyAll_exchange s)
    have hph : (applyAll s).trim.phase = .between := (congrArg Trim.phase hx :).trans hp
    have hsw : (applyAll s).trim.sweep = t0.sweep := (congrArg Trim.sweep hx :)
    have hss : (applyAll s).trim.spins = t0.spins := (congrArg Trim.spins hx :)
    have hw : (applyAll s).trim.xwait = t0.xwait := (congrArg Trim.xwait hx :)
    have hst := sweepStart_split hu hr hp he hrp hsp
    cases hk : staleOk (applyAll s).trim with
    | true =>
      rw [if_pos hk] at hst
      exact Gives.intro hst ⟨rfl, hsw, hss, hw ▸ le_rfl⟩
    | false =>
      rw [if_neg (by rw [hk]; decide)] at hst
      refine Gives.intro hst ⟨hph, hsw, hss, ?_⟩
      rw [← hw]
      exact le_satCount ..
  · have hst : replayStop s.trim = some tsReplayShort := by
      rw [replayStop, show s.trim.jEnd = none from hj]
      exact if_pos hl
    refine (sweepStart_stop hu hr hp he hrp hst).trans (congrArg Host.Outcome.next ?_)
    rw [if_pos rfl, trimEnd_of_none he]
  · have hst : replayStop s.trim = some (endStatus r) := by
      rw [replayStop, show s.trim.jEnd = some r from hj]
      exact if_pos hl
    refine Gives.intro (sweepStart_stop hu hr hp he hrp hst) ?_
    have hv : (if endStatus r = tsReplayShort then s else replayApply s false).sansCopies = s.sansCopies :=
      ite_view (V := State.sansCopies) rfl (replayApply_copies hrp false)
    generalize (if endStatus r = tsReplayShort then s else replayApply s false) = u at hv
    have he' : u.trim.ending = none := (congrArg (fun v : State => v.trim.ending) hv :).trans he
    rw [trimEnd_of_none he']
    exact ⟨rfl, (congrArg (fun v : State => v.trim.spins) hv :), (congrArg (fun v : State => v.mem) hv :)⟩
  · have hst : replayStop s.trim = none := by
      rw [replayStop]
      rcases h with ⟨r, h1, h2⟩ | ⟨h1, h2⟩
      · rw [show s.trim.jEnd = some r from h1]
        exact if_neg (Nat.not_le.2 h2)
      · rw [show s.trim.jEnd = none from h1]
        exact if_neg (Nat.not_le.2 h2)
    have hv := replayApply_copies hrp false
    refine Gives.intro (sweepStart_replay hu hr hp he hrp hst) ?_
    generalize replayApply s false = u at hv
    exact ⟨rfl, (congrArg (fun v : State => v.trim.spins) hv :), (congrArg (fun v : State => v.trim.ending) hv :).trans he,
      (congrArg (fun v : State => v.mem) hv :)⟩
  · have hx := trim_of_exchange (applyAll_exchange s)
    have hst := peerTimeout_between hu hr hp he hrp hsp
    rw [if_neg (by rw [hstale]; decide), trimEnd_of_none hen] at hst
    exact Gives.intro hst ⟨rfl, (congrArg Trim.phase hx :).trans hp⟩
  · refine Gives.intro (groupStep_gives hu hr hp hg) ?_
    have hsp := groupStep_spins t0 g
    have hv := groupStep_view t0 g
    refine ⟨rfl, rfl, rfl, (congrArg Trim.energy hv :), fun hn i => ?_, fun i hi => ?_, fun i hi => ?_, fun b hb h16 h0 hi0 hi => ?_⟩
    · exact (congrArg (fun r : Vector W64 256 => r.get i) (congrArg Trim.rng (groupStep_eq t0 g) :)).trans (lanes_rng hn i)
    · exact (congrArg (BitVec.getLsbD · i) hsp).trans (lanes_spin_other fun p hp => hi _ _ (mem_laneList.1 hp).1 (mem_laneList.1 hp).2)
    · exact (congrArg (BitVec.getLsbD · i) hsp).trans (lanes_clamped hi)
    · intro i d u e hc
      have hf := (congrArg (BitVec.getLsbD · i) hsp).trans (lanes_first (cross := t0.seen) hb h16 h0 hi)
      have hfl : t0.flips1 t0.seen g b 0 = (decide (d ≤ 0) || (decide (e < 4096) && decide (u < expt e))) :=
        (congrArg (fun x => !x && _) hc).trans (Bool.true_and _)
      rw [hfl] at hf
      refine ⟨fun h => hf.trans ?_, fun h1 h2 => hf.trans ?_⟩
      · rw [show (decide (d ≤ 0) || (decide (e < 4096) && decide (u < expt e))) = true by simpa using h]
        exact Bool.bne_true ..
      · rw [show (decide (d ≤ 0) || (decide (e < 4096) && decide (u < expt e))) = false by simp; omega]
        exact Bool.bne_false ..
  · subst hg
    obtain ⟨w, hw⟩ : ∃ w, writeBest t0.best { s with trim := t0.sweepEnd } = w := ⟨_, rfl⟩
    obtain ⟨t, ht, hx, hm, hq⟩ := sweepEnd_gives hu hr hp hw
    obtain ⟨hv, hlast, hsweep⟩ := sweepEnd_view t0
    have hbest : t.trim.best = t0.sweepEnd.best := (congrArg Trim.best hx :)
    have hend : t0.sweepEnd.ending = t0.ending := (congrArg Trim.ending hv :)
    refine Gives.intro ht ⟨(congrArg Trim.last hx :).trans hlast, (congrArg Trim.spins hx :).trans (congrArg Trim.spins hv :),
      (congrArg Trim.sweep hx :).trans hsweep, fun hb => ?_, fun hb p hwf hf hpl hc herr => ?_, fun he => ?_, fun he => ?_,
      fun he hrec hlt => ?_, fun he hsc hb => ?_, fun b he hsc hb => ?_⟩
    · have hsame : w = { s with trim := t0.sweepEnd } := hw.symm.trans (writeBest_same (hb.symm.trans hbest))
      rw [hsame] at hm hq
      exact ⟨hm, fun he => hq (hend.trans he)⟩
    · obtain ⟨w1, w2, w3, w4⟩ := sweepEnd_written hw (fun h => hb (hbest.trans h)) hwf hf hpl hc herr
      rw [State.rd, hm]
      exact ⟨w2, w3, w4, fun he => hq (w1.trans he)⟩
    · obtain ⟨-, -, -, h4, h5, h6, -⟩ := sweepEnd_step he
      exact ⟨(congrArg Trim.steps hx :).trans h4, (congrArg Trim.stepSweeps hx :).trans h5, (congrArg Trim.phase hx :).trans h6⟩
    · have hi := sweepEnd_inner he
      rw [hi] at hx
      exact ⟨(congrArg Trim.steps hx :), (congrArg Trim.stepSweeps hx :), (congrArg Trim.recE hx :), (congrArg Trim.best hx :)⟩
    · obtain ⟨-, -, -, -, -, -, h7, -⟩ := sweepEnd_step he
      obtain ⟨h7, h8⟩ := h7 hrec
      refine ⟨(congrArg Trim.energy hx :).trans h7, ?_⟩
      have hrecE : t.trim.recE = t0.sweepEnd.recE := (congrArg Trim.recE hx :)
      rw [hrecE, h8]
      exact List.getElem?_set_self hlt
    · obtain ⟨-, -, -, -, -, -, -, hnow⟩ := sweepEnd_step he
      exact hbest.trans (hnow.trans (bestNow_first hsc hb))
    · obtain ⟨-, -, -, -, -, -, -, hnow⟩ := sweepEnd_step he
      exact hbest.trans (hnow.trans (bestNow_next hsc hb))
  · exact if_pos (by simp [show s.trim.phase = .sweep g from hp, hg])
  · exact peerTimeout_sweep hp
  · have hx := trimFinal_alone hu hr hp he hrp hsp
    rw [runDone_of_none he] at hx
    exact Gives.intro hx ⟨rfl, rfl⟩
  · have hx := trimFinal_short hu hr hp he hrp hj
    rw [trimEnd_of_none he] at hx
    exact Gives.intro hx ⟨rfl, rfl⟩
  · have hx := trimFinal_replay hu hr hp he hrp hj
    have hv := replayApply_copies hrp true
    generalize replayApply s true = u at hv hx
    have he' : u.trim.ending = none := (congrArg (fun v : State => v.trim.ending) hv :).trans he
    rw [runDone_of_none he'] at hx
    exact Gives.intro hx ⟨rfl, (congrArg (fun v : State => v.trim.spins) hv :), (congrArg (fun v : State => v.mem) hv :)⟩
  · intro u hrp hsp
    obtain ⟨v, hv⟩ : ∃ v, v = u := ⟨_, rfl⟩
    have hx := trimFinal_split hu hr hp he hrp hsp hv.symm
    have hpre : v.trim.finalSent = true ∧ v.trim.phase = .final := by
      have hfx := trim_of_exchange (applyFinals_exchange (if t0.finalSent then s
        else trimMod (sendAll s 3 t0.sweep) fun x => { x with finalSent := true }))
      rw [hv]
      refine ⟨(congrArg Trim.finalSent hfx :).trans ?_, (congrArg Trim.phase hfx :).trans ?_⟩
      · split
        · assumption
        · rfl
      · split
        · exact hp
        · exact (congrArg Trim.phase (trim_of_exchange (sendAll_exchange s 3 t0.sweep)) :).trans hp
    rw [← hv]
    refine ⟨fun hf => ?_, fun hf hen => ?_⟩
    · rw [if_neg (by rw [hf]; decide)] at hx
      exact Gives.intro hx hpre
    · rw [if_pos hf, runDone_of_none hen] at hx
      exact Gives.intro hx ⟨rfl, rfl⟩
  · exact if_pos hu

end Sys2Proof.Machine

end

section

namespace Sys2Proof.Machine

/-! ## Management records and routed accesses (O33) -/

/-- What the report of a management record changes. -/
theorem mgmtReport_eq (s : State) (kind : Nat) : ∃ c h, mgmtReport s kind = { s with cleatC := c, health := h } ∧
    c.lines = s.cleatC.lines ∧ h.standing = s.health.standing := by
  have hr : mgmtReport s kind = reportFault s 0x20 4 (BitVec.ofNat 16 (Config.freeOf .unspecified [0x20, kind]))
    (BitVec.ofNat 64 (Config.freeOf .unspecified [0x21, kind])) := rfl
  rw [hr]
  generalize BitVec.ofNat 16 (Config.freeOf .unspecified [0x20, kind]) = code
  generalize BitVec.ofNat 64 (Config.freeOf .unspecified [0x21, kind]) = detail
  unfold reportFault
  extract_lets r room a b
  have ha : ∃ c, a = { s with cleatC := c } ∧ c.lines = s.cleatC.lines := by
    dsimp only [a]
    rw [show eccCount s 0x20 4 detail = s from if_pos (by decide)]
    unfold cleatCPut
    split
    · exact ⟨_, rfl, rfl⟩
    · exact ⟨_, rfl, rfl⟩
  clear_value a
  obtain ⟨c, ha, hc⟩ := ha
  have hb : ∃ h, b = { a with health := h } ∧ h.standing = a.health.standing := by
    dsimp only [b]
    split
    · exact ⟨_, rfl, rfl⟩
    · exact ⟨_, rfl, rfl⟩
  clear_value b
  obtain ⟨h, hb, hs⟩ := hb
  refine ⟨c, h, ?_, hc, hs.trans (ha ▸ rfl)⟩
  rw [if_neg (by decide), hb, ha]

theorem mgmtReport_node (s : State) (kind : Nat) : (mgmtReport s kind).node = s.node := by
  obtain ⟨c, h, hr, -⟩ := mgmtReport_eq s kind
  rw [hr]

theorem mgmtReport_fab (s : State) (kind : Nat) : (mgmtReport s kind).fab = s.fab := by
  obtain ⟨c, h, hr, -⟩ := mgmtReport_eq s kind
  rw [hr]

/-! ### The answer of a routed access -/

/-- What is held for sessions stands apart from an answer. -/
theorem answerSess_held (s : State) (l : List (Session × ChipId × Bytes)) (w : Session) (i k : Nat) (a : Answer) :
    answerSess { s with node.held := l } w i k a = { answerSess s w i k a with node.held := l } := by
  have hout (u : State) (a : Answer) : answerOut { u with node.held := l } w i k a = { answerOut u w i k a with node.held := l } := by
    cases w with
    | host =>
      simp only [answerOut]
      split <;> rfl
    | can p c =>
      simp only [answerOut]
      have hs : sessServed { u with node.held := l } (.can p c) = sessServed u (.can p c) := rfl
      rw [hs]
      split <;> rfl
  cases w with
  | host => exact hout s a
  | can p c =>
    simp only [answerSess]
    cases s.node.chans.get p with
    | none => rfl
    | some x =>
      dsimp only
      split
      · rfl
      · cases a with
        | abort n => exact hout { s with node.chans := vput s.node.chans p none } _
        | data d =>
          dsimp only
          split
          · exact hout { s with node.chans := vput s.node.chans p (some { x with waiting := false, data := d }) } _
          · exact hout { s with node.chans := vput s.node.chans p none } _

/-- What an answer leaves of the routed accesses and of what is held. -/
theorem answerSess_routed (s : State) (w : Session) (i k : Nat) (a : Answer) :
    (answerSess s w i k a).node.routed = s.node.routed ∧ (answerSess s w i k a).node.held = s.node.held := by
  obtain ⟨o, l, ch, h⟩ := answerSess_frame s w i k a
  rw [h]
  exact ⟨rfl, rfl⟩

section
variable {s : State} {w : Session} {c : ChipId} {rd : Bool} {rest : List (Session × ChipId × Bool)}
  (hr : s.node.routed = (w, c, rd) :: rest) (ha : s.awaits w)
include hr

theorem routeAnswer_eq (a : Answer) : routeAnswer s w a =
    match a with
    | .data d => answerSess { s with node.routed := rest, node.held :=
        if rd then (s.node.held.filter fun h => h.1 != w) ++ [(w, c, d)] else s.node.held } w 0x2680 (c.val + 1) (.data [])
    | .abort k => answerSess { s with node.routed := rest } w 0x2680 (c.val + 1) (.abort k) := by
  unfold routeAnswer
  rw [hr, List.find?_cons_of_pos (by simp)]
  dsimp only
  rw [List.erase_cons_head]
  cases a with
  | abort k => rfl
  | data d => cases rd <;> rfl

theorem isRouted_first (hc : c ≠ ownChip s) : isRouted s ⟨w, c⟩ = true := by
  unfold isRouted
  rw [hr, decide_eq_true hc]
  simp

include ha

/-- The accesses that stand open are answered, whatever else of the routing changes. -/
theorem routed_answered (l : List (Session × ChipId × Bool)) (m : List (Session × ChipId × Bytes)) (a : Answer) :
    s.answeredTo (answerSess { s with node.routed := l, node.held := m } w 0x2680 (c.val + 1) a) w 0x2680 (c.val + 1) a := by
  have hopen : ({ s with node.routed := l, node.held := m } : State).open_ w := by
    have := awaits_open ha
    cases w <;> exact this
  exact answerSess_answered hopen rfl rfl ..

theorem routeAnswer_data (d : Bytes) : let t := routeAnswer s w (.data d)
    t.node.routed = rest ∧ s.answeredTo t w 0x2680 (c.val + 1) (.data []) ∧ (rd = true → (w, c, d) ∈ t.node.held) := by
  dsimp only
  rw [routeAnswer_eq hr]
  obtain ⟨h1, h2⟩ := answerSess_routed { s with node.routed := rest, node.held :=
        if rd then (s.node.held.filter fun h => h.1 != w) ++ [(w, c, d)] else s.node.held } w 0x2680 (c.val + 1) (.data [])
  refine ⟨h1, routed_answered hr ha .., fun h => ?_⟩
  rw [h2, h]
  simp

theorem routeAnswer_abort (k : Nat) : let t := routeAnswer s w (.abort k)
    t.node.routed = rest ∧ s.answeredTo t w 0x2680 (c.val + 1) (.abort k) ∧ t.node.held = s.node.held := by
  dsimp only
  rw [routeAnswer_eq hr]
  obtain ⟨h1, h2⟩ := answerSess_routed { s with node.routed := rest } w 0x2680 (c.val + 1) (.abort k)
  exact ⟨h1, routed_answered hr ha .., h2⟩

end

/-! ### A write of 0x2680 -/

theorem routeEnvelope_eq {s : State} {w : Session} (h : s.mayAsk w) (c : ChipId) (d : Bytes) :
    exec (.routeEnvelope w c d) s = .next (envelopeWrite (s.asked w 0x2680 (c.val + 1)) w c d) :=
  openAccess_of_mayAsk h 0x2680 (c.val + 1) fun u => envelopeWrite u w c d

/-- Beginning an access ends what was held for its session only. -/
theorem asked_held {s : State} {w : Session} (h : s.mayAsk w) (i k : Nat) :
    ((s.asked w i k).node.held.filter fun x => x.1 != w) = s.node.held.filter fun x => x.1 != w := by
  obtain ⟨-, -, ho, -⟩ := h
  obtain ⟨m, hm⟩ := Option.isSome_iff_exists.1 ho
  have hn : ((openSess s.node w).getD s.node).held = s.node.held := by
    rw [hm, Option.getD_some, openSess_rest hm]
  unfold State.asked
  generalize (openSess s.node w).getD s.node = n at hn
  rw [← hn]
  cases w <;> rfl

/-- The envelope of a write that is refused. -/
theorem envelope_refused {s : State} {w : Session} (h : s.mayAsk w) (c : ChipId) (k : Nat) :
    answerSess { s.asked w 0x2680 (c.val + 1) with
      node.held := (s.asked w 0x2680 (c.val + 1)).node.held.filter fun x => x.1 != w } w 0x2680 (c.val + 1) (.abort k) =
    { s.told w 0x2680 (c.val + 1) (.abort k) with node.held := s.node.held.filter fun x => x.1 != w } := by
  rw [answerSess_held, asked_held h]
  rfl

theorem envelopeOf_some {d : Bytes} (h4 : 4 ≤ d.length) (hl : d.length ≤ 1024) (h1 : (byteAt d 3).toNat ≤ 1) :
    envelopeOf d = some (fieldLE d 0 2, (byteAt d 2).toNat, if (byteAt d 3).toNat = 1 then some (d.drop 4) else none) :=
  if_neg (by omega)

theorem envelopeWrite_bad {s : State} {d : Bytes} (h : envelopeOf d = none) (w : Session) (c : ChipId) :
    envelopeWrite s w c d = answerSess { s with node.held := s.node.held.filter fun h => h.1 != w } w 0x2680 (c.val + 1)
      (.abort (if d.length < 4 ∨ 1024 < d.length then 0x06070010 else 0x06090030)) := by
  unfold envelopeWrite
  rw [h]
  rfl

section
variable {s : State} {d : Bytes} {x : Nat × Nat × Option Bytes} (h : envelopeOf d = some x) (w : Session) {c : ChipId}
  (hc : c ≠ ownChip s)
include h hc

theorem envelopeWrite_unroutable (hr : routable s c = false) : envelopeWrite s w c d =
    answerSess { s with node.held := s.node.held.filter fun h => h.1 != w } w 0x2680 (c.val + 1) (.abort 0x08000022) := by
  obtain ⟨i, sub, op⟩ := x
  unfold envelopeWrite
  rw [h]
  exact (if_neg hc).trans (if_neg (show ¬ routable s c = true by rw [hr]; decide))

theorem envelopeWrite_sent (hr : routable s c = true) : ∃ p o, envelopeWrite s w c d = { s with
    node.held := s.node.held.filter fun h => h.1 != w, node.routed := s.node.routed ++ [(w, c, x.2.2.isNone)],
    shl := p, out := o } := by
  obtain ⟨i, sub, op⟩ := x
  generalize hu : ({ s with node.held := s.node.held.filter fun h => h.1 != w,
                            node.routed := s.node.routed ++ [(w, c, op.isNone)] } : State) = u
  have hx : envelopeWrite s w c d = sendMgmt u mgEnvelope (b2n (isService s.node w) :: d.map fun x => x.toNat) c := by
    unfold envelopeWrite
    rw [h, ← hu]
    exact (if_neg hc).trans (if_pos hr)
  have hv := eq_of_shl (sendMgmt_shl u mgEnvelope (b2n (isService s.node w) :: d.map fun x => x.toNat) c)
  rw [← hx] at hv
  generalize envelopeWrite s w c d = v at hv
  rw [← hu] at hv
  exact ⟨v.shl, v.out, hv⟩

end

theorem routable_iff {s : State} {c : ChipId} :
    routable s c = true ↔ s.fab.role = 1 ∧ s.fab.members.getLsbD c.val = true ∧ s.fab.lost.getLsbD c.val = false := by
  simp [routable, and_assoc]

theorem routable_asked (s : State) (w : Session) (i k : Nat) (c : ChipId) : routable (s.asked w i k) c = routable s c := by
  have h : (s.asked w i k).fab = s.fab := (congrArg State.fab (asked_ask s w i k) :)
  unfold routable
  rw [h]

theorem ownChip_asked (s : State) (w : Session) (i k : Nat) : ownChip (s.asked w i k) = ownChip s := by
  have h : (s.asked w i k).dev = s.dev := (congrArg State.dev (asked_ask s w i k) :)
  unfold ownChip
  rw [h]

/-! ### NMT states and membership from the head -/

theorem dprStart_od (s : State) : (dprStart s).node.od = s.node.od := by
  unfold dprStart
  split
  · rfl
  · extract_lets a _ _ _ _ u v
    have ha : a.node.od = s.node.od := (congrArg (fun u : State => u.node.od) (abortTaken_jobs s) :)
    have hv : v.node.od = u.node.od := (congrArg (fun u : State => u.node.od) (dprDram_power u) :)
    generalize (allDoms.filter fun d => decide (d.val ≤ 13) && d != 11) = l
    exact ((congrArg (fun u : State => u.node.od) (dprOffs_power l v) :).trans hv).trans ha

theorem cprStart_od (s : State) : (cprStart s).node.od = s.node.od := by
  unfold cprStart
  split
  · rfl
  · have hf : (forget (forgetApps s) (· == .host)).sansForget = s.sansForget := (forget_forget ..).trans (forgetApps_forget s)
    exact (congrArg (fun u : State => u.node.od) hf :)

theorem planeReset_od (s : State) (v w : Nat) : (planeReset s v w).node.od = s.node.od := by
  unfold planeReset
  extract_lets a b
  have hb : b.node.od = s.node.od := (ite_view (V := fun u : State => u.node.od) (dprStart_od a) rfl).trans rfl
  exact ite_view (V := fun u : State => u.node.od) ((cprStart_od b).trans hb) hb

theorem resetParts_od (s : State) : (resetParts s).node.od = [] := by
  unfold resetParts
  extract_lets u
  generalize ({ u with node := applyPorts u.node } : State) = v
  exact (planeReset_od ..).trans (restoreObjects_defaults v).od

theorem resetParts_sessions (s : State) : (resetParts s).node.sessions = [] := by
  have h := (resetParts_spec s).1
  generalize resetParts s = u at h
  exact (congrArg (fun n : BitVec 7 × BitVec 2 × List Sess => n.2.2) h :)

theorem memberState_node (s : State) (st : Nmt) : (memberState s st).node = { s.node with nmt := st } := notice_node ..

theorem memberNmt_comm (s : State) : memberNmt s 0x82 = memberState (restoreComm s) .preOperational := rfl

theorem memberNmt_enter (s : State) : memberNmt s 4 = enterNmt s .stopped ∧ memberNmt s 5 = enterNmt s .operational ∧
    memberNmt s 0x7F = enterNmt s .preOperational := ⟨rfl, rfl, rfl⟩

theorem memberNmt_parts (s : State) : memberNmt s 0x81 = memberState (resetParts s) .preOperational := rfl

/-- The role that a chip takes, with its mode. -/
theorem setRole_fab (s : State) (r : BitVec 2) : (setRole s r).fab = { s.fab with role := r } := by
  unfold setRole
  extract_lets u
  have hu : u.fab = s.fab := ite_view (V := State.fab) rfl rfl
  exact congrArg (fun f : Fab => { f with role := r }) hu

theorem takeMembers_fab {s : State} {mask : W64} (h : s.fab.role = 0 ∨ s.fab.role = 2) (hm : mask.getLsbD (ownChip s).val = true)
    (head : ChipId) (id : BitVec 7) (routes : List Nat) : (takeMembers s mask head id routes).fab = { s.fab with
      role := 2, members := mask, head := some head, machineNode := id, lost := s.fab.lost &&& ~~~mask,
      routes := Vector.ofFn fun c : Fin 64 => BitVec.ofNat 4 (routes.getD c.val 0xF) } := by
  unfold takeMembers
  rw [if_neg (by rw [hm]; rcases h with h | h <;> rw [h] <;> decide), notice_fab, setRole_fab]

/-- Settles O33, by the report that every management record is and by what answers a routed access. -/
theorem routedAndRemote : Obligations.RoutedAndRemote := by
  intro s
  refine ⟨fun hf => ⟨fun r hr => ?_, fun h2 => ?_, fun code h2 => ?_, fun c svc d h2 => ?_, fun mask h id routes hrole hm => ?_⟩,
    fun w c d ha => ?_, fun w c rd rest hr ha hc => ?_, fun tag ht => ?_, fun w rest hm hr => ⟨fun h hw => ?_, fun c hw => ?_⟩,
    fun c h => rfl⟩
  · have hx : exec (.mgmt r) s = .next (mgmtReport s mgHeartbeat) := by
      rcases hr with ⟨c, rfl⟩ | rfl <;> exact if_pos hf
    refine Gives.intro hx ?_
    rw [mgmtReport_node, mgmtReport_fab]
    exact ⟨rfl, rfl, rfl⟩
  · have hx (code : Nat) : exec (.mgmt (.nmt code)) s = .next (memberNmt (mgmtReport s mgNmt) code) :=
      (if_pos hf).trans (congrArg Host.Outcome.next (if_pos h2))
    obtain ⟨e4, e5, e7⟩ := memberNmt_enter (mgmtReport s mgNmt)
    have hmem {code : Nat} {P : State → Prop} {u : State} (he : memberNmt (mgmtReport s mgNmt) code = u) (hp : P u) :
        Gives (.mgmt (.nmt code)) s P := Gives.intro (hx code) (he ▸ hp)
    refine ⟨hmem e4 (enterNmt_stopped _).1, hmem e5 (enterNmt_operational _).1, hmem e7 (enterNmt_preOperational _).1,
      hmem (memberNmt_comm _) ?_, hmem (memberNmt_parts _) ?_⟩
    · rw [memberState_node]
    · rw [memberState_node]
      dsimp only
      rw [resetParts_od, resetParts_sessions]
      exact ⟨rfl, rfl, rfl⟩
  · have hx : exec (.mgmt (.nmt code)) s = .next (mgmtReport s mgNmt) :=
      (if_pos hf).trans (congrArg Host.Outcome.next (if_neg h2))
    refine Gives.intro hx ?_
    rw [mgmtReport_node]
  · have hx : exec (.mgmt (.envelope c svc d)) s = .next (mgmtReport s mgEnvelope) := by
      refine (if_pos hf).trans (congrArg Host.Outcome.next (if_pos ?_))
      rw [mgmtReport_fab]
      exact h2
    refine Gives.intro hx ?_
    rw [mgmtReport_node]
    exact ⟨rfl, rfl⟩
  · have ho : ownChip (mgmtReport s mgMembers) = ownChip s := by
      obtain ⟨a, b, hr, -⟩ := mgmtReport_eq s mgMembers
      rw [hr]
      rfl
    refine Gives.intro (if_pos hf) ?_
    have ht := takeMembers_fab (s := mgmtReport s mgMembers) (mask := mask) (by rw [mgmtReport_fab]; exact hrole)
      (by rw [ho]; exact hm) h id routes
    refine ⟨(congrArg Fab.role ht :), (congrArg Fab.members ht :), (congrArg Fab.head ht :), (congrArg Fab.machineNode ht :), fun c => ?_⟩
    refine (congrArg (fun f : Fab => f.routes.get c) ht :).trans ?_
    exact vector_get_ofFn ..
  · intro u no
    have hx := routeEnvelope_eq ha c d
    refine ⟨fun hl => ?_, fun h4 hl => ⟨fun h1 => ?_, fun h1 hc => ⟨fun hn => ?_, fun hrole hmem hlost => ?_⟩⟩⟩
    · rw [hx, envelopeWrite_bad (if_pos (by omega)), if_pos hl, envelope_refused ha]
    · rw [hx, envelopeWrite_bad (if_pos (by omega)), if_neg (by omega), envelope_refused ha]
    · rw [hx, envelopeWrite_unroutable (envelopeOf_some h4 hl h1) w (by rw [ownChip_asked]; exact hc) ?_, envelope_refused ha]
      rw [routable_asked, Bool.eq_false_iff]
      intro hr
      obtain ⟨r1, r2, r3⟩ := routable_iff.1 hr
      rcases hn with h | h | h
      · exact h r1
      · rw [r2] at h; cases h
      · rw [r3] at h; cases h
    · obtain ⟨p, o, hs⟩ := envelopeWrite_sent (envelopeOf_some h4 hl h1) w (by rw [ownChip_asked]; exact hc)
        ((routable_asked s w 0x2680 (c.val + 1) c).trans (routable_iff.2 ⟨hrole, hmem, hlost⟩))
      have hop : (if (byteAt d 3).toNat = 1 then some (d.drop 4) else none).isNone = decide (byteAt d 3 = 0) := by
        by_cases h : (byteAt d 3).toNat = 1
        · rw [if_pos h, decide_eq_false fun h0 => by rw [h0] at h; cases h]
          rfl
        · rw [if_neg h, decide_eq_true (BitVec.eq_of_toNat_eq (show (byteAt d 3).toNat = 0 by omega))]
          rfl
      rw [hs] at hx
      refine Gives.intro hx ⟨?_, rfl⟩
      dsimp only
      rw [hop]
  · refine ⟨fun hf h1 => ⟨fun d => ?_, fun x => ?_⟩, fun hm => ?_⟩
    · have hx : exec (.routeAnswer ⟨w, c⟩ (.data d)) s = .next (routeAnswer s w (.data d)) :=
        if_pos (by rw [hf, isRouted_first hr hc, h1]; rfl)
      obtain ⟨a1, a2, a3⟩ := routeAnswer_data hr ha d
      exact Gives.intro hx ⟨⟨a1, a2⟩, a3⟩
    · obtain ⟨y, hy, hxy, hta⟩ := tableAnswer_abort x
      have hx : exec (.routeAnswer ⟨w, c⟩ (.abort x)) s = .next (routeAnswer s w (.abort y)) := by
        rw [← hta]
        exact if_pos (by rw [hf, isRouted_first hr hc, h1]; rfl)
      obtain ⟨a1, a2, a3⟩ := routeAnswer_abort hr ha y
      exact Gives.intro hx ⟨a3, y, hy, hxy, a1, a2⟩
    · have hx : exec (.routeTimeout ⟨w, c⟩) s = .next (routeAnswer s w (.abort 0x08000020)) :=
        if_pos (by rw [hm, isRouted_first hr hc]; rfl)
      obtain ⟨a1, a2, a3⟩ := routeAnswer_abort hr ha 0x08000020
      exact Gives.intro hx ⟨⟨a1, a2⟩, a3⟩
  · have hn : (s.fab.remotes.find? fun w => w.tag == tag) = none := List.find?_eq_none.2 fun w hw => by simpa using ht w hw
    rw [exec, execRemoteResponseTimeout, hn]
  · have hx : exec (.remoteResponseTimeout w.tag) s = .next (endRemote s w (.err 7)) := by
      rw [exec, execRemoteResponseTimeout, hr, List.find?_cons_of_pos (by simp)]
      exact if_pos hm
    rw [hx]
    obtain ⟨tag, home, wait⟩ := w
    cases hw
    unfold endRemote
    rw [hr, List.erase_cons_head]
  · have hx : exec (.remoteResponseTimeout w.tag) s = .next (endRemote s w (.err 7)) := by
      rw [exec, execRemoteResponseTimeout, hr, List.find?_cons_of_pos (by simp)]
      exact if_pos hm
    rw [hx]
    obtain ⟨tag, home, wait⟩ := w
    cases hw
    unfold endRemote
    rw [hr, List.erase_cons_head]

end Sys2Proof.Machine

end

section

namespace Sys2Proof.Machine

/-! ## What the loss of a chip and the end of a role leave -/

theorem trimPeerLost_eq (s : State) (p : Option ChipId) : ∃ x, trimPeerLost s p = { s with trim := x } := by
  unfold trimPeerLost
  extract_lets t hit
  clear_value hit
  split
  · exact ⟨_, rfl⟩
  · exact ⟨s.trim, rfl⟩

theorem routeAbort_reply (s : State) (p : ChipId → Bool) (code : Nat) : (routeAbort s p code).sansReply = s.sansReply :=
  foldl_view (V := State.sansReply) (fun _ _ => routeAnswer_reply ..) _ s

theorem cscChipLost_sched (s : State) (c : ChipId) : (cscChipLost s c).sansSched = s.sansSched := by
  unfold cscChipLost
  extract_lets a b d
  have hb : d.sansSched = s.sansSched := (abortStuck_sched b).trans rfl
  clear_value d
  refine (foldl_view (V := State.sansSched) (fun t k => ?_) allCores d).trans hb
  split
  · exact ite_view (V := State.sansSched) (recallCore_sched ..) rfl
  · rfl

/-- What names the chip and shows its conditions. -/
def State.seat (s : State) : Dev × CleatD × Health := (s.dev, s.cleatD, s.health)

theorem seat_of {s t : State} (hd : t.dev = s.dev) (hc : t.cleatD = s.cleatD) (hh : t.health = s.health) : t.seat = s.seat := by
  unfold State.seat
  rw [hd, hc, hh]

theorem chipGone_fab (s : State) (c : ChipId) : (chipGone s c).fab = { s.fab with
    lost := s.fab.lost ||| (1#64 <<< c.val), members := s.fab.members &&& ~~~(1#64 <<< c.val) } ∧
    (chipGone s c).seat = s.seat := by
  unfold chipGone
  extract_lets a f u
  have ha := routeAbort_reply s (· == c) abState
  have hf : a.fab = s.fab := (congrArg State.fab ha :)
  have hs : a.seat = s.seat := (congrArg State.seat ha :)
  clear_value a
  have hu : u.fab = { s.fab with lost := s.fab.lost ||| (1#64 <<< c.val), members := s.fab.members &&& ~~~(1#64 <<< c.val) } := by
    rw [← hf]
  have hus : u.seat = s.seat := hs
  clear_value u
  have hv := cscChipLost_sched u c
  obtain ⟨x, hx⟩ := trimPeerLost_eq (cscChipLost u c) (some c)
  rw [hx]
  generalize cscChipLost u c = v at hv ⊢
  exact ⟨(congrArg State.fab hv :).trans hu, (congrArg State.seat hv :).trans hus⟩

theorem setRole_mode (s : State) (r : BitVec 2) : (setRole s r).node.mode = r := rfl

theorem orphanEnter_spec {s : State} (h : s.fab.role ≠ 3) : (orphanEnter s).fab = { s.fab with role := 3 } ∧
    (orphanEnter s).node.mode = 3 := by
  unfold orphanEnter
  rw [if_neg h]
  extract_lets a
  have ha : a.fab = s.fab := (raiseEmcy_fab ..).trans (congrArg State.fab (routeAbort_reply s (fun _ => true) abState) :)
  clear_value a
  obtain ⟨x, hx⟩ := trimPeerLost_eq (notice (setRole a 3) noticeFabric [3]) none
  rw [hx]
  dsimp only
  rw [notice_fab, notice_node, setRole_fab, setRole_mode, ha]
  exact ⟨rfl, rfl⟩

/-! ## Bringing the node up leaves the fabric -/

theorem pertEnd_fab (s : State) (k : Fin 8) : (pertEnd s k).fab = s.fab := by
  unfold pertEnd
  split
  · extract_lets _ u
    have hu : u.fab = s.fab := rfl
    exact ite_view (V := State.fab) hu ((clearStanding_fab ..).trans hu)
  · rfl

theorem restoreBudget_fab (s : State) : (restoreBudget s).fab = s.fab := by
  unfold restoreBudget
  split
  · rfl
  · have hset : ∀ u : State, (setEff u).fab = u.fab := fun u => by
      unfold setEff
      extract_lets r e
      split <;> rfl
    unfold budgetWrite
    split
    · rfl
    · exact (notice_fab ..).trans (hset _)

theorem restoreObjects_fab (s : State) : (restoreObjects s).fab = s.fab := by
  have hc : ∀ (u : State) (c : Nat), (clearAllOf u c).fab = u.fab := fun u c => (congrArg State.fab (clearAllOf_notes u c) :)
  have hb : (restoreBudget (clearAllOf (clearAllOf (pertEndAll s) 0xFF03) 0x8130)).fab = s.fab := by
    rw [restoreBudget_fab, hc, hc]
    exact foldl_view (V := State.fab) pertEnd_fab ..
  unfold restoreObjects
  generalize restoreBudget (clearAllOf (clearAllOf (pertEndAll s) 0xFF03) 0x8130) = u at hb ⊢
  exact hb

theorem bootUp_fab (s : State) : (bootUp s).fab = s.fab := by
  unfold bootUp
  split
  · rfl
  · exact (notice_fab ..).trans (ite_view (V := State.fab) rfl rfl)

theorem nodeStart_fab (s : State) : (nodeStart s).fab = s.fab := by
  have h := restoreObjects_fab s
  unfold nodeStart
  generalize restoreObjects s = u at h ⊢
  exact (bootUp_fab _).trans h

/-! ## Membership -/

theorem toMembers_shl (s : State) (kind : Nat) (args : List Nat) : (toMembers s kind args).sansShl = s.sansShl :=
  foldl_view (V := State.sansShl) (fun _ _ => sendMgmt_shl ..) _ s

theorem distribute_shl (s : State) : (distribute s).sansShl = (reroute s).sansShl := toMembers_shl ..

/-- The state but for routes, for what has been sent, and for notices. -/
theorem distribute_fab (s : State) : (distribute s).fab = (reroute s).fab := (congrArg State.fab (distribute_shl s) :)

theorem distribute_node (s : State) : (distribute s).node = s.node := by
  have h := distribute_shl s
  obtain ⟨r, hr⟩ : ∃ r, reroute s = { s with fab.routes := r } := ⟨_, rfl⟩
  rw [hr] at h
  generalize distribute s = t at h
  exact (congrArg State.node h :)

theorem distribute_seat (s : State) : (distribute s).seat = s.seat := by
  have h := distribute_shl s
  obtain ⟨r, hr⟩ : ∃ r, reroute s = { s with fab.routes := r } := ⟨_, rfl⟩
  rw [hr] at h
  generalize distribute s = t at h
  exact (congrArg State.seat h :)

theorem routeTo_lost {s : State} {c : ChipId} (hc : c ≠ ownChip s) (hl : s.fab.lost.getLsbD c.val = true) :
    routeTo s c.val = 0xF := by
  unfold routeTo
  extract_lets own
  rw [if_neg fun h => hc (Fin.ext h), if_pos (by rw [carrier, hl]; simp)]

theorem chipBit (c k : ChipId) : (1#64 <<< c.val).getLsbD k.val = decide (k = c) := by
  rw [BitVec.getLsbD_shiftLeft, BitVec.getLsbD_one]
  have := k.isLt
  simp only [Nat.zero_lt_succ, decide_true, Bool.true_and, ← decide_not, ← Bool.decide_and]
  exact decide_eq_decide.2 ⟨fun h => Fin.ext (by omega), fun h => by subst h; omega⟩

theorem bitSet (m : W64) (c k : ChipId) : (m ||| (1#64 <<< c.val)).getLsbD k.val = (m.getLsbD k.val || decide (k = c)) := by
  rw [BitVec.getLsbD_or, chipBit]

theorem bitClear (m : W64) (c k : ChipId) : (m &&& ~~~(1#64 <<< c.val)).getLsbD k.val = (m.getLsbD k.val && !decide (k = c)) := by
  rw [BitVec.getLsbD_and, BitVec.getLsbD_not, chipBit, decide_eq_true k.isLt, Bool.true_and]

theorem maskOf (cs : List HelloRec) (m : W64) (c : ChipId) :
    (cs.foldl (fun (m : W64) r => m ||| (1#64 <<< r.chip.val)) m).getLsbD c.val = true ↔
      m.getLsbD c.val = true ∨ ∃ r ∈ cs, r.chip = c := by
  induction cs generalizing m with
  | nil => simp
  | cons r cs ih =>
    rw [List.foldl_cons, ih, bitSet, Bool.or_eq_true, decide_eq_true_eq, List.exists_mem_cons_iff, or_assoc, eq_comm (a := c)]

/-! ### Elections -/

theorem electHead_none {s : State} {cs : List HelloRec}
    (h : (cs.map fun r => r.chip).eraseDups.length < s.fab.expect.toNat / 2 + 1 ∨ ∀ r ∈ cs, r.healthy = false) :
    electHead s cs = none := by
  unfold electHead
  extract_lets ids
  by_cases hq : s.fab.expect.toNat / 2 + 1 ≤ ids.length
  · rw [if_pos hq]
    refine List.find?_eq_none.2 fun c _ hc => ?_
    obtain ⟨r, hr, hb⟩ := List.any_eq_true.1 hc
    rcases h with h | h
    · exact absurd hq (Nat.not_le.2 h)
    · rw [h r hr, Bool.and_false] at hb
      cases hb
  · rw [if_neg hq]

theorem electHead_some {s : State} {cs : List HelloRec} {c : ChipId} (h : electHead s cs = some c) : ∃ r ∈ cs, r.chip = c := by
  unfold electHead at h
  extract_lets ids at h
  split at h
  · have hc := List.find?_some (p := fun c => cs.any fun r => r.chip == c && r.healthy) h
    obtain ⟨r, hr, hb⟩ := List.any_eq_true.1 hc
    rw [Bool.and_eq_true, beq_iff_eq] at hb
    exact ⟨r, hr, hb.1⟩
  · cases h

theorem electHead_lowest {s : State} {cs : List HelloRec} {h : HelloRec} (hq : s.fab.expect.toNat / 2 + 1 ≤ (cs.map fun r => r.chip).eraseDups.length)
    (hm : h ∈ cs) (hh : h.healthy = true) (hl : ∀ r ∈ cs, r.healthy = true → h.chip ≤ r.chip) : electHead s cs = some h.chip := by
  unfold electHead
  extract_lets ids
  rw [if_pos hq, List.find?_ofFn_eq_some_of_injective (f := fun c : Fin 64 => c) Function.injective_id]
  refine ⟨List.any_eq_true.2 ⟨h, hm, by rw [beq_self_eq_true, hh]; rfl⟩, fun j hj hc => ?_⟩
  obtain ⟨r, hr, hb⟩ := List.any_eq_true.1 hc
  rw [Bool.and_eq_true, beq_iff_eq] at hb
  exact absurd (hb.1 ▸ hl r hr hb.2) (not_le.2 hj)

/-! ### The head -/

theorem nodeStart_named (v : State) : (nodeStart v).fab = v.fab ∧ (nodeStart v).node.nodeId = v.node.nodeId ∧
    (nodeStart v).node.mode = v.node.mode ∧ (nodeStart v).node.od = [] ∧
    (nodeSilent v.node = false → (nodeStart v).node.nmt = .preOperational) := by
  have hnames := (nodeStart_keeps v).1
  have hstart := (nodeStart_spec v).2.2
  have hod := (nodeStart_defaults v).od
  have hfab := nodeStart_fab v
  generalize nodeStart v = t at hnames hstart hod hfab
  exact ⟨hfab, (congrArg Prod.fst hnames :), (congrArg (fun n : BitVec 7 × BitVec 2 × List Sess => n.2.1) hnames :), hod,
    fun h => (hstart h).1⟩

theorem headSetup_spec (s : State) (mask : W64) :
    let id := if s.fab.machineNode = 0 then s.node.nodeId else s.fab.machineNode
    let t := headSetup s mask
    t.fab.role = 1 ∧ t.fab.head = some (ownChip s) ∧ t.fab.members = mask ∧ t.fab.machineNode = id ∧ t.fab.lost = s.fab.lost ∧
      t.node.mode = 1 ∧ t.node.nodeId = id ∧ t.node.od = [] ∧ (id ≠ 0 → t.node.nmt = .preOperational) := by
  intro id t
  obtain ⟨u, hu⟩ : ∃ u, setRole { s with
      fab.head := some (ownChip s), fab.members := mask, fab.machineNode := id, node.nodeId := id } 1 = u := ⟨_, rfl⟩
  obtain ⟨v, hv⟩ : ∃ v, notice (distribute u) noticeFabric [1] = v := ⟨_, rfl⟩
  have ht : t = nodeStart v := by
    rw [← hv, ← hu]
    rfl
  have huf : u.fab = { s.fab with head := some (ownChip s), members := mask, machineNode := id, role := 1 } := by
    rw [← hu, setRole_fab]
  have hun : u.node.nodeId = id ∧ u.node.mode = 1 := by
    rw [← hu]
    exact ⟨rfl, rfl⟩
  have hvf : v.fab = (reroute u).fab := by rw [← hv, notice_fab, distribute_fab]
  have hvn : v.node = u.node := by rw [← hv, notice_node, distribute_node]
  obtain ⟨hf, hid, hmode, hod, hnmt⟩ := nodeStart_named v
  rw [← ht] at hf hid hmode hod hnmt
  clear_value t
  rw [hvn] at hid hmode hnmt
  rw [hf, hvf]
  obtain ⟨r, hr⟩ : ∃ r, (reroute u).fab = { u.fab with routes := r } := ⟨_, rfl⟩
  rw [hr, huf]
  refine ⟨rfl, rfl, rfl, rfl, rfl, hmode.trans hun.2, hid.trans hun.1, hod, fun h => hnmt ?_⟩
  rw [nodeSilent, hun.1, hun.2, beq_eq_false_iff_ne.2 h]
  rfl

/-- The outcome of an election where no head is found. -/
theorem afterElection_none {s : State} {cs : List HelloRec} (h : electHead s cs = none) : afterElection s cs = orphanEnter s := by
  unfold afterElection
  rw [h]

theorem afterElection_own {s : State} {cs : List HelloRec} (h : electHead s cs = some (ownChip s)) :
    afterElection s cs = headSetup s (cs.foldl (fun (m : W64) r => m ||| (1#64 <<< r.chip.val)) 0) := by
  unfold afterElection
  rw [h]
  exact if_pos rfl

theorem afterElection_member {s : State} {cs : List HelloRec} {c : ChipId} (h : electHead s cs = some c) (hc : c ≠ ownChip s) :
    afterElection s cs = setRole { s with fab.head := some c } 2 := by
  unfold afterElection
  rw [h]
  exact if_neg hc

/-! ### A message of the agent's own goes out -/

theorem msgSlots_le (m : Bytes) : msgSlots m ≤ 5 := by
  unfold msgSlots
  omega

theorem closeFlit_length (b : Bytes) : (closeFlit b).length = 256 := by
  unfold closeFlit
  rw [List.length_append, padTo_length, toLE_length]

theorem sendSeq_spec (s : State) (p : ShlId) (m : Bytes) : ∃ f : Bytes, f.length = 256 ∧
    (sendSeq s p m).out = s.out ++ [.flit p f] ∧
    ((sendSeq s p m).shl.get p).replay = (s.shl.get p).replay ++ [((s.shl.get p).nextSeq, f)] ∧
    ((sendSeq s p m).shl.get p).txq = (s.shl.get p).txq := by
  unfold sendSeq
  extract_lets q ret f
  have hq : q.nextSeq = (s.shl.get p).nextSeq ∧ q.replay = (s.shl.get p).replay ∧ q.txq = (s.shl.get p).txq := ⟨rfl, rfl, rfl⟩
  clear_value q
  refine ⟨f, closeFlit_length _, rfl, ?_, ?_⟩
  · refine (congrArg ShlPort.replay (vmod_get_same ..)).trans ?_
    rw [← hq.1, ← hq.2.1]
  · refine (congrArg ShlPort.txq (vmod_get_same ..)).trans ?_
    exact hq.2.2

/-- A message that finds its port free leaves at once. -/
theorem enqueue_first {s : State} {p : ShlId} (hst : (s.shl.get p).st = .active) (hq : (s.shl.get p).txq = [])
    (hr : (s.shl.get p).replay.length < 64) (hc : ∀ k : Fin 8, 5 ≤ (s.shl.get p).credits.get k) (m : Bytes) :
    ∃ f : Bytes, f.length = 256 ∧ (enqueue s none p m).out = s.out ++ [.flit p f] ∧
      ((enqueue s none p m).shl.get p).replay = (s.shl.get p).replay ++ [((s.shl.get p).nextSeq, f)] := by
  unfold enqueue
  extract_lets t
  obtain ⟨x, hx⟩ : ∃ x : Option (ShlId × Fin 8) × Bytes, t.shl.get p = { s.shl.get p with txq := [x] } ∧ x.1 = none := by
    refine ⟨(none, egress s none p m), (vmod_get_same ..).trans ?_, rfl⟩
    rw [hq]
    rfl
  have ht : t.out = s.out := rfl
  clear_value t
  obtain ⟨hx, hxn⟩ := hx
  have hpick : pickMsg (t.shl.get p) (t.shl.get p).txq [] = some x := by
    rw [hx]
    exact (if_neg (by simp)).trans (if_pos ((msgSlots_le _).trans (hc _)))
  obtain ⟨u, hu⟩ : ∃ u, shlMod t p (fun q => { q with
    txq := q.txq.erase x, credits := vmod q.credits (msgPool x.2) (· - msgSlots x.2) }) = u := ⟨_, rfl⟩
  have hup : (u.shl.get p).txq = [] ∧ (u.shl.get p).replay = (s.shl.get p).replay ∧ (u.shl.get p).nextSeq = (s.shl.get p).nextSeq := by
    rw [← hu]
    have hg := vmod_get_same t.shl p fun q => { q with
      txq := q.txq.erase x, credits := vmod q.credits (msgPool x.2) (· - msgSlots x.2) }
    refine ⟨(congrArg ShlPort.txq hg).trans ?_, (congrArg ShlPort.replay hg).trans ?_, (congrArg ShlPort.nextSeq hg).trans ?_⟩
    · rw [hx]
      exact List.erase_cons_head (a := x) (l := [])
    · rw [hx]
    · rw [hx]
  have huo : u.out = s.out := hu ▸ ht
  have hpump : pumpAll t p = pump 63 (sendSeq u p x.2) p := by
    unfold pumpAll
    rw [pump]
    dsimp only
    rw [if_pos (by rw [hx]; simp [hst, hr]), hpick]
    dsimp only
    rw [hu, hxn]
    rfl
  obtain ⟨f, hl, ho, hrep, htx⟩ := sendSeq_spec u p x.2
  generalize sendSeq u p x.2 = v at hpump ho hrep htx
  have hstop : pump 63 v p = v := by
    rw [pump]
    dsimp only
    rw [htx, hup.1]
    exact ite_id _
  rw [hpump, hstop]
  exact ⟨f, hl, ho.trans (by rw [huo]), hrep.trans (by rw [hup.2.1, hup.2.2])⟩

theorem msgDst_mkMessage (mk : Nat) (c : ChipId) (src tag off b12 b13 b14 : Nat) (d : Bytes) :
    msgDst (mkMessage mk c.val src tag off b12 b13 b14 d) = c := by
  have hb : byteAt (mkMessage mk c.val src tag off b12 b13 b14 d) 2 = BitVec.ofNat 8 (c.val % 64) := rfl
  unfold msgDst
  rw [hb]
  apply Fin.ext
  have := c.isLt
  simp only [BitVec.toNat_ofNat, bits, Fin.val_ofNat]
  omega

/-! ### The loss of a chip -/

theorem remoteErr_lost {s : State} {c : ChipId} (hf : fabricMode s = true) (h3 : s.fab.role ≠ 3)
    (hl : s.fab.lost.getLsbD c.val = true) : remoteErr s c = some .noRoute := by
  unfold remoteErr
  rw [if_neg (by rw [hf, Bool.not_true, Bool.false_or, beq_iff_eq]; exact h3), if_pos hl]

theorem fabUp_mode {s : State} (h : fabUp s = true) : fabricMode s = true := by
  simp only [fabUp, Bool.and_eq_true] at h
  exact h.1.2

theorem fabricMode_seat {s t : State} (h : t.seat = s.seat) : fabricMode t = fabricMode s := by
  have hc : t.cleatD = s.cleatD := (congrArg (fun x => x.2.1) h :)
  unfold fabricMode
  rw [hc]

theorem ownChip_seat {s t : State} (h : t.seat = s.seat) : ownChip t = ownChip s := by
  have hd : t.dev = s.dev := (congrArg Prod.fst h :)
  unfold ownChip
  rw [hd]

theorem health_seat {s t : State} (h : t.seat = s.seat) : t.health = s.health := (congrArg (fun x => x.2.2) h :)

/-- What the head distributes and says after a loss leaves the conditions and the masks. -/
theorem lossTold_spec (v : State) (l : List Nat) : let t := notice (distribute v) noticeFabric l
    t.fab = (reroute v).fab ∧ t.seat = v.seat := by
  intro t
  have hf := distribute_fab v
  have hs := distribute_seat v
  obtain ⟨u, hu⟩ : ∃ u, distribute v = u := ⟨_, rfl⟩
  have ht : t = notice u noticeFabric l := by rw [← hu]
  rw [hu] at hf hs
  rw [ht]
  exact ⟨(notice_fab ..).trans hf, (seat_of (notice_dev u noticeFabric l) (notice_cleatD u noticeFabric l)
    (notice_health u noticeFabric l)).trans hs⟩

/-- What the masks say of a chip after its loss. -/
theorem lost_spec {v : State} {c : ChipId} (hf : fabricMode v = true) (h1 : v.fab.role = 1) (hc : c ≠ ownChip v)
    (hl : v.fab.lost.getLsbD c.val = true) (l : List Nat) : let t := notice (distribute v) noticeFabric l
    t.fab.members = v.fab.members ∧ t.fab.lost = v.fab.lost ∧ t.fab.routes.get c = 0xF ∧ t.fab.role = 1 ∧
      t.health = v.health ∧ remoteErr t c = some .noRoute := by
  intro t
  obtain ⟨htf, hts⟩ : t.fab = (reroute v).fab ∧ t.seat = v.seat := lossTold_spec v l
  clear_value t
  obtain ⟨r, hr⟩ : ∃ r : Vector (BitVec 4) 64, r = Vector.ofFn fun c : Fin 64 => routeTo v c.val := ⟨_, rfl⟩
  have htr : t.fab = { v.fab with routes := r } := htf.trans (by rw [hr]; rfl)
  have hrc : r.get c = 0xF := by
    rw [hr, vector_get_ofFn]
    exact routeTo_lost hc hl
  clear hr
  have h3 : t.fab.role ≠ 3 := by
    rw [htr, h1]
    decide
  rw [remoteErr_lost ((fabricMode_seat hts).trans hf) h3 (by rw [htr]; exact hl), htr]
  exact ⟨rfl, rfl, hrc, h1, health_seat hts, rfl⟩

theorem headLoses_spec {s : State} (hf : fabricMode s = true) (h1 : s.fab.role = 1) {c : ChipId} (hc : c ≠ ownChip s) :
    let t := headLoses s c
    t.fab.members = s.fab.members &&& ~~~(1#64 <<< c.val) ∧ t.fab.lost = s.fab.lost ||| (1#64 <<< c.val) ∧
      t.fab.routes.get c = 0xF ∧ t.fab.role = 1 ∧ stands t 0xFF41 c.val = true ∧ remoteErr t c = some .noRoute := by
  intro t
  obtain ⟨u, hu⟩ : ∃ u, toMembers s mgLost [c.val] = u := ⟨_, rfl⟩
  have hush : u.sansShl = s.sansShl := hu ▸ toMembers_shl ..
  have huf : u.fab = s.fab := (congrArg State.fab hush :)
  have hus : u.seat = s.seat := (congrArg State.seat hush :)
  obtain ⟨hg, hgs⟩ := chipGone_fab u c
  obtain ⟨w, hw⟩ : ∃ w, chipGone u c = w := ⟨_, rfl⟩
  rw [hw, huf] at hg
  rw [hw, hus] at hgs
  obtain ⟨v, hv⟩ : ∃ v, raiseStanding w 0xFF41 0x20 c.val [BitVec.ofNat 8 c.val] = v := ⟨_, rfl⟩
  have hvf : v.fab = w.fab := hv ▸ raiseStanding_fab ..
  have hvd : v.dev = s.dev := (hv ▸ raiseStanding_dev .. : v.dev = w.dev).trans (congrArg Prod.fst hgs :)
  have hvc : v.cleatD = s.cleatD := (hv ▸ raiseStanding_cleatD .. : v.cleatD = w.cleatD).trans (congrArg (fun x => x.2.1) hgs :)
  have hvs : stands v 0xFF41 c.val = true := hv ▸ stands_raiseStanding w (by decide) ..
  have ht : t = notice (distribute v) noticeFabric [1, c.val] := by
    rw [← hv, ← hw, ← hu]
    rfl
  rw [hg] at hvf
  obtain ⟨h2, h3, h4, h5, h6, h7⟩ := lost_spec (v := v) (c := c) (by rw [fabricMode, hvc]; exact hf) (by rw [hvf]; exact h1)
    (by rw [ownChip, hvd]; exact hc) (by rw [hvf, bitSet]; simp) [1, c.val]
  rw [← ht] at h2 h3 h4 h5 h6 h7
  rw [hvf] at h2 h3
  exact ⟨h2, h3, h4, h5, (stands_congr (congrArg Health.standing h6) ..).trans hvs, h7⟩

/-! ### Elections, losses and joins as commands -/

theorem sayHello_shl (r : HelloRec) (s : State) (p : ShlId) : (sayHello r s p).sansShl = s.sansShl := by
  unfold sayHello
  split
  · exact ite_view (V := State.sansShl) (enqueue_shl ..) rfl
  · rfl

theorem flood_shl (s : State) (r : HelloRec) : (flood s r).sansShl = s.sansShl :=
  foldl_view (V := State.sansShl) (fun _ _ => sayHello_shl ..) _ s

section
variable {s : State} (hf : fabUp s = true)
include hf

theorem election_orphan (hg : s.fab.go = true) (h0 : s.fab.role = 0) (hd : duplicated s (ownChip s) = true) :
    Gives .fabricElection s fun t => t.fab.role = 3 ∧ t.node.mode = 3 := by
  have hx : exec .fabricElection s = .next (orphanEnter (raiseEmcy s 0xFF43 0x20 [BitVec.ofNat 8 (ownChip s).val])) :=
    (if_pos (by rw [hf, hg, h0]; rfl)).trans (if_pos hd)
  have hr := raiseEmcy_fab s 0xFF43 0x20 [BitVec.ofNat 8 (ownChip s).val]
  generalize raiseEmcy s 0xFF43 0x20 [BitVec.ofNat 8 (ownChip s).val] = u at hx hr
  obtain ⟨h1, h2⟩ := orphanEnter_spec (s := u) (by rw [hr, h0]; decide)
  exact Gives.intro hx ⟨congrArg Fab.role h1, h2⟩

theorem election_gives (hg : s.fab.go = true) (h0 : s.fab.role = 0) (hd : duplicated s (ownChip s) = false) :
    exec .fabricElection s = .next (afterElection s ((chipsHeard s).filter fun r => !duplicated s r.chip)) :=
  (if_pos (by rw [hf, hg, h0]; rfl)).trans (if_neg (by rw [hd]; decide))

/-- What a chip makes of the loss of its head. -/
theorem headTimeout_gives {h : ChipId} (h2 : s.fab.role = 2) (hh : s.fab.head = some h) (hc : h ≠ ownChip s) :
    Gives .headHeartbeatTimeout s fun t => t.fab.lost.getLsbD h.val = true ∧
      (t.fab.role = 3 ∨ (t.fab.role = 2 ∧ ∃ k : ChipId, k ≠ h ∧ t.fab.head = some k) ∨
        (t.fab.role = 1 ∧ t.fab.head = some (ownChip s) ∧ t.fab.members.getLsbD h.val = false ∧
          stands t 0xFF41 h.val = true)) := by
  obtain ⟨w, hw⟩ : ∃ w, chipGone s h = w := ⟨_, rfl⟩
  obtain ⟨hg, hgs⟩ := chipGone_fab s h
  rw [hw] at hg hgs
  have hown := ownChip_seat hgs
  have hlost : w.fab.lost.getLsbD h.val = true := by rw [hg, bitSet]; simp
  have hmem : w.fab.members.getLsbD h.val = false := by rw [hg, bitClear]; simp
  have hrole : w.fab.role = 2 := by rw [hg]; exact h2
  obtain ⟨left, hl, hleft⟩ : ∃ left : List HelloRec, (∀ r ∈ left, r.chip ≠ h) ∧ left = ((chipsHeard w).filter fun r =>
      r.chip == ownChip w || (w.fab.members.getLsbD r.chip.val && (hops w (ownChip w).val r.chip.val).isSome)) := by
    refine ⟨_, fun r hr he => ?_, rfl⟩
    have hp := (List.mem_filter.1 hr).2
    rw [he, hmem, Bool.false_and, Bool.or_false, beq_iff_eq, hown] at hp
    exact hc hp
  obtain ⟨u, hu⟩ : ∃ u, afterElection w left = u := ⟨_, rfl⟩
  have hx : exec .headHeartbeatTimeout s = .next (if u.fab.role = 1 then
      raiseStanding { u with fab.lost := u.fab.lost ||| (1#64 <<< h.val) } 0xFF41 0x20 h.val [BitVec.ofNat 8 h.val] else u) := by
    rw [exec, execHeadHeartbeatTimeout, hh]
    dsimp only
    rw [if_pos (by rw [hf, h2]; rfl), hw, ← hleft, hu]
  refine Gives.intro hx ?_
  cases he : electHead w left with
  | none =>
    rw [afterElection_none he] at hu
    obtain ⟨hof, -⟩ := orphanEnter_spec (s := w) (by rw [hrole]; decide)
    rw [hu] at hof
    have h1 : u.fab.role ≠ 1 := by
      rw [congrArg Fab.role hof]
      exact (by decide : (3 : BitVec 2) ≠ 1)
    rw [if_neg h1, hof]
    exact ⟨hlost, .inl rfl⟩
  | some k =>
    obtain ⟨r, hr, hrk⟩ := electHead_some he
    by_cases hk : k = ownChip w
    · rw [hk] at he
      rw [afterElection_own he] at hu
      obtain ⟨s1, s2, s3, s4, s5, -⟩ := headSetup_spec w (left.foldl (fun (m : W64) r => m ||| (1#64 <<< r.chip.val)) 0)
      rw [hu] at s1 s2 s3 s5
      rw [if_pos s1]
      refine ⟨?_, .inr (.inr ⟨?_, ?_, ?_, stands_raiseStanding _ (by decide) ..⟩)⟩
      · rw [raiseStanding_fab, bitSet]
        simp
      · rw [raiseStanding_fab]
        exact s1
      · rw [raiseStanding_fab, ← hown]
        exact s2
      · rw [raiseStanding_fab, s3, Bool.eq_false_iff]
        intro hm
        rcases (maskOf ..).1 hm with h | ⟨q, hq, hqc⟩
        · simp at h
        · exact hl q hq hqc
    · rw [afterElection_member he hk] at hu
      have huf : u.fab = { w.fab with head := some k, role := 2 } := by rw [← hu, setRole_fab]
      have h1 : u.fab.role ≠ 1 := by
        rw [congrArg Fab.role huf]
        exact (by decide : (2 : BitVec 2) ≠ 1)
      rw [if_neg h1, huf]
      exact ⟨hlost, .inr (.inl ⟨rfl, k, fun hkh => hl r hr (hrk.trans hkh), rfl⟩)⟩

theorem join_gives {r : HelloRec} (h1 : s.fab.role = 1) (hm : s.fab.members.getLsbD r.chip.val = false) :
    Gives (.join r) s fun t => t.fab.members = s.fab.members ||| (1#64 <<< r.chip.val) ∧
      t.fab.lost = s.fab.lost &&& ~~~(1#64 <<< r.chip.val) ∧ t.fab.role = 1 ∧
      ((memberList t).length = s.fab.expect.toNat → ∀ k : Nat, stands t 0xFF41 k = false) := by
  obtain ⟨a, ha⟩ : ∃ a : State, ({ s with
      fab.lost := s.fab.lost &&& ~~~(1#64 <<< r.chip.val), fab.members := s.fab.members ||| (1#64 <<< r.chip.val),
      fab.hellos := (s.fab.hellos.filter fun q => q.chip ≠ r.chip) ++ [r] } : State) = a := ⟨_, rfl⟩
  obtain ⟨b, hb⟩ : ∃ b, toMembers a mgJoin [r.chip.val] = b := ⟨_, rfl⟩
  obtain ⟨c, hc⟩ : ∃ c, notice (distribute b) noticeFabric [1, r.chip.val] = c := ⟨_, rfl⟩
  have hx : exec (.join r) s = .next (if (memberList c).length = c.fab.expect.toNat then clearAllOf c 0xFF41 else c) := by
    rw [← hc, ← hb, ← ha]
    exact if_pos (by rw [hf, h1, hm]; rfl)
  have hbs : b.sansShl = a.sansShl := hb ▸ toMembers_shl ..
  have hbf : b.fab = a.fab := (congrArg State.fab hbs :)
  obtain ⟨hcf, -⟩ := lossTold_spec b [1, r.chip.val]
  rw [hc] at hcf
  obtain ⟨x, hxr⟩ : ∃ x, (reroute b).fab = { b.fab with routes := x } := ⟨_, rfl⟩
  have hfab : c.fab = { a.fab with routes := x } := hcf.trans (hxr.trans (by rw [hbf]))
  have hclear : (clearAllOf c 0xFF41).fab = c.fab := by
    have h := clearAllOf_notes c 0xFF41
    generalize clearAllOf c 0xFF41 = d at h
    exact (congrArg State.fab h :)
  obtain ⟨t, ht⟩ : ∃ t, (if (memberList c).length = c.fab.expect.toNat then clearAllOf c 0xFF41 else c) = t := ⟨_, rfl⟩
  have htf : t.fab = { a.fab with routes := x } := by
    rw [← hfab, ← ht]
    exact ite_view (V := State.fab) hclear rfl
  rw [ht] at hx
  refine Gives.intro hx ⟨?_, ?_, ?_, fun hn k => ?_⟩
  · rw [htf, ← ha]
  · rw [htf, ← ha]
  · rw [htf, ← ha]
    exact h1
  · have hml : memberList t = memberList c := by
      unfold memberList
      rw [htf, hfab]
    have he : c.fab.expect = s.fab.expect := by rw [hfab, ← ha]
    rw [← ht, if_pos (by rw [← hml, hn, he])]
    exact stands_clearAllOf ..

theorem memberHeartbeat_gives {h : ChipId} {p : ShlId} (h2 : s.fab.role = 2) (hh : s.fab.head = some h) (hc : h ≠ ownChip s)
    (hp : routePort s h = some p) (hst : (s.shl.get p).st = .active) (hq : (s.shl.get p).txq = [])
    (hr : (s.shl.get p).replay.length < 64) (hcr : ∀ k : Fin 8, 5 ≤ (s.shl.get p).credits.get k) :
    Gives .fabricHeartbeat s fun t => ∃ f : Bytes, f.length = 256 ∧ t.out = s.out ++ [.flit p f] ∧
      (t.shl.get p).replay = (s.shl.get p).replay ++ [((s.shl.get p).nextSeq, f)] := by
  obtain ⟨m, hm⟩ : ∃ m, sendMgmt s mgHeartbeat [(ownChip s).val] h = enqueue s none p m := by
    refine ⟨mkMessage mkMgmt h.val (ownChip s).val 0 0 0 0 0
      (toLE 64 (Config.freeOf .unspecified (0x4D :: mgHeartbeat :: [(ownChip s).val]))), ?_⟩
    unfold sendMgmt
    rw [if_neg hc]
    unfold sendOwn
    rw [msgDst_mkMessage, hp]
  have hx : exec .fabricHeartbeat s = .next (enqueue s none p m) := by
    rw [exec, execFabricHeartbeat, if_neg (by rw [hf]; decide), if_neg (by rw [h2]; decide), if_pos h2, hh]
    exact congrArg Host.Outcome.next hm
  exact Gives.intro hx (enqueue_first hst hq hr hcr m)

/-- LOST is reported, and then has its effect. -/
theorem lost_gives (hrole : s.fab.role = 1 ∨ s.fab.role = 2) (c : ChipId) : ∃ u : State, u.fab = s.fab ∧ u.dev = s.dev ∧
    u.cleatD = s.cleatD ∧ exec (.lost c) s = .next (if c = ownChip u then orphanEnter u else chipGone u c) := by
  obtain ⟨a, h, hr, -⟩ := mgmtReport_eq s mgLost
  refine ⟨mgmtReport s mgLost, mgmtReport_fab .., by rw [hr], by rw [hr], if_pos ?_⟩
  rw [hf]
  rcases hrole with h | h <;> rw [h] <;> rfl

end

/-- Settles O32: an election is `electHead` over the chips heard, and a loss or a join changes the masks alone, on which
routes, notices and conditions follow. -/
theorem fabricBringUp : Obligations.FabricBringUp := by
  refine ⟨fun s => ⟨fun v hu => if_pos hu, fun hf => ⟨fun r h3 => ⟨fun hc => ?_, fun hc => ?_⟩, fun hg h0 => ?_⟩⟩,
    fun s hf => ⟨fun c h1 hc hm => ?_, fun c hrole => ⟨fun hc => ?_, fun hc => ?_⟩, fun h h2 hh hc => headTimeout_gives hf h2 hh hc,
      fun r h1 hm => join_gives hf h1 hm, fun h p h2 hh hc hp hst hq hr hcr => memberHeartbeat_gives hf h2 hh hc hp hst hq hr hcr,
      fun h1 => ?_⟩⟩
  · exact (if_pos (by rw [hf, decide_eq_true h3]; rfl)).trans (if_pos hc)
  · obtain ⟨u, hu⟩ : ∃ u : State, ({ s with
        fab.hellos := (s.fab.hellos.filter fun q => !(q.chip == r.chip && q.serial == r.serial)) ++ [r] } : State) = u := ⟨_, rfl⟩
    have hx : exec (.hello r) s = .next (flood u r) := by
      rw [← hu]
      exact (if_pos (by rw [hf, decide_eq_true h3]; rfl)).trans (if_neg (by rw [hc]; decide))
    have hv := eq_of_shl (flood_shl u r)
    generalize flood u r = t at hx hv
    have hfab : t.fab = u.fab := (congrArg State.fab hv :)
    rw [← hu] at hv hfab
    refine Gives.intro hx ⟨(congrArg Fab.hellos hfab :), ?_, ?_⟩
    · rw [hfab]
      exact hv
    · rw [hfab]
  · intro cs chips
    refine ⟨fun hd => election_orphan hf hg h0 hd, fun hd => ?_⟩
    have hx := election_gives hf hg h0 hd
    refine ⟨fun hn => ?_, fun h hm hh hl hq => ⟨fun hown => ?_, fun hown => ?_⟩⟩
    · rw [afterElection_none (electHead_none hn)] at hx
      obtain ⟨h1, h2⟩ := orphanEnter_spec (s := s) (by rw [h0]; decide)
      exact Gives.intro hx ⟨congrArg Fab.role h1, h2⟩
    · have he : electHead s cs = some (ownChip s) := (electHead_lowest hq hm hh hl).trans (congrArg some hown)
      rw [afterElection_own he] at hx
      obtain ⟨s1, s2, s3, s4, s5, s6, s7, s8, s9⟩ := headSetup_spec s (cs.foldl (fun (m : W64) r => m ||| (1#64 <<< r.chip.val)) 0)
      refine Gives.intro hx ⟨s1, s6, s2.trans (congrArg some hown.symm), s8, s7.trans s4.symm, fun hn => s9 (s7 ▸ hn), s4, fun c => ?_⟩
      rw [s3, maskOf]
      simp
    · have he : electHead s cs = some h.chip := electHead_lowest hq hm hh hl
      rw [afterElection_member he hown] at hx
      refine Gives.intro hx ⟨setRole_fab .., rfl, rfl, fun x hx => ?_, rfl⟩
      have hp := (List.mem_filter.1 hx).2
      cases hw : x.who with
      | host => rfl
      | can p c => simp [hw] at hp
  · exact Gives.intro (if_pos (by rw [hf, h1, hm, decide_eq_true hc]; rfl)) (headLoses_spec (fabUp_mode hf) h1 hc)
  · obtain ⟨u, huf, hus, -, hx⟩ := lost_gives hf hrole c
    rw [if_pos (by rw [ownChip, hus]; exact hc)] at hx
    obtain ⟨h1, h2⟩ := orphanEnter_spec (s := u) (by rw [huf]; rcases hrole with h | h <;> rw [h] <;> decide)
    exact Gives.intro hx ⟨congrArg Fab.role h1, h2⟩
  · obtain ⟨u, huf, hus, huc, hx⟩ := lost_gives hf hrole c
    rw [if_neg (by rw [ownChip, hus]; exact hc)] at hx
    obtain ⟨h1, h2⟩ := chipGone_fab u c
    generalize chipGone u c = t at hx h1 h2
    rw [huf] at h1
    refine Gives.intro hx ⟨(congrArg Fab.members h1 :), (congrArg Fab.lost h1 :), (congrArg Fab.role h1 :), remoteErr_lost ?_ ?_ ?_⟩
    · rw [fabricMode_seat h2, fabricMode, huc]
      exact fabUp_mode hf
    · rw [h1]
      exact fun h3 => by rcases hrole with h | h <;> rw [h] at h3 <;> cases h3
    · rw [h1, bitSet]
      simp
  · have hx : exec .fabricHeartbeat s = .next (toMembers s mgHeartbeat [(ownChip s).val]) :=
      (if_neg (by rw [hf]; decide)).trans (if_pos h1)
    exact Gives.intro hx (eq_of_shl (toMembers_shl ..))

end Sys2Proof.Machine

end

section

namespace Sys2Proof.Machine

/-! ## A clean line that memory has moved away from (O45) -/

/-- A line of ones that is held clean, over memory of zeros. -/
def staleLine : CLine :=
  { data := List.replicate 64 1, dirty := false, inD0 := false, inD1 := false, inI0 := false, inI1 := false, held := false }

/-- A running control plane whose caches hold that line, with FLUSH_ALL in progress. -/
def flushesStale : State := { State.reset with
  dev.phase := .running, boot.control := .run,
  reef.doms := Vector.replicate 18 { Reef.reset.doms.get 0 with state := .run, waking := false },
  mast.cache := [(0, some staleLine)], mast.cmo := some true }

theorem flushesStale_runs : ctlUp flushesStale = true ∧ domRuns flushesStale 11 = true ∧ flushesStale.mast.cmo = some true ∧
    flushesStale.cacheWf = true ∧ flushesStale.memWf = true := by decide

/-- Memory has no dirty line to take back. -/
theorem flushesStale_backed : flushesStale.cacheBacked := by
  intro ln c hc hd
  have hmem : c = staleLine := by
    by_cases h : ln = 0
    · subst h
      exact (Option.some.inj hc).symm
    · have hn : lineGet flushesStale ln = none := by
        change Tbl.read (fun _ => none) [(0, some staleLine)] ln = none
        rw [Tbl.read_cons]
        exact if_neg h
      rw [hn] at hc
      cases hc
  rw [hmem] at hd
  cases hd

/-- What the harts see at address 0 once a command has run. -/
def seesZero : Host.Outcome State Fault Refusal → Bool
  | .next t => t.seen 0 == 0
  | _ => false

theorem flushesStale_loses : flushesStale.seen 0 = 1 ∧ seesZero (exec .cmoDone flushesStale) = true := by decide

/-- Refutes O45: the statement does not ask that a clean line agrees with memory. `flushesStale` holds a clean line of ones
over memory of zeros; FLUSH_ALL drops it unwritten, and the byte that the harts see at address 0 changes from 1 to 0. -/
theorem not_hartMemorySystem : ¬ Obligations.HartMemorySystem := by
  intro h
  obtain ⟨-, -, hflush, -⟩ := h
  obtain ⟨hc, hd, hm, hw, hmem⟩ := flushesStale_runs
  obtain ⟨t, he, -, -, hseen⟩ := hflush flushesStale true hc hd hm hw
  obtain ⟨h1, h0⟩ := flushesStale_loses
  rw [he] at h0
  have hz : t.seen 0 = 0 := by simpa [seesZero] using h0
  have := (hseen hmem flushesStale_backed 0).symm.trans hz
  rw [h1] at this
  cases this

end Sys2Proof.Machine

end

section

namespace Sys2Proof.Machine

/-! ## A set of the L2 full of clean lines that memory has moved away from (O44) -/

/-- The eight ways of the L2's set of line 0, full of lines of ones over memory of zeros: one that may be evicted, and
seven of the Mast image, which may not yet. -/
def staleSet : Tbl (Option CLine) :=
  (List.range 8).map fun k => (1024 * (k + 1), some { staleLine with held := decide (0 < k) })

/-- The store that the drain takes. -/
def oneByteStore : SbEntry := { addr := 0, bytes := [5], device := false, sup := false }

/-- A running control plane whose hart MC0 has one store buffered, to a line that is not held. -/
def drainsOverStale : State := { State.reset with
  dev.phase := .running, boot.control := .run,
  reef.doms := Vector.replicate 18 { Reef.reset.doms.get 0 with state := .run, waking := false },
  ddr.ready := true, mast.cache := staleSet,
  mast.harts := vmod Mast.reset.harts 0 fun x => { x with sb := [oneByteStore] } }

theorem drainsOverStale_runs : ctlUp drainsOverStale = true ∧ domRuns drainsOverStale 11 = true ∧
    (hartOf drainsOverStale 0).sb = [oneByteStore] ∧ placeOf drainsOverStale oneByteStore.addr = .here 0 ∧
    (∀ ln ∈ linesOf 0 oneByteStore.bytes.length, ramErr drainsOverStale (ln * 64) 64 = none) ∧
    drainsOverStale.memWf = true ∧ drainsOverStale.cacheWf = true := by decide

/-- A table of clean lines holds no dirty line. -/
theorem staleSet_clean {ln : Nat} {c : CLine} (h : Tbl.read (fun _ => none) staleSet ln = some c) : c.dirty = false := by
  have hm := Tbl.mem_of_read h (by simp)
  obtain ⟨k, -, hk⟩ := List.mem_map.1 hm
  cases hk
  rfl

/-- Memory has no dirty line to take back. -/
theorem drainsOverStale_backed : drainsOverStale.cacheBacked := by
  intro ln c hc hd
  rw [staleSet_clean hc] at hd
  cases hd

/-- The state once the store has left the buffer. -/
def drainTaken : State := hartMod drainsOverStale 0 fun x => { x with sb := [] }

/-- The set has one line that may go, so the victim does not rest on the free choice. -/
theorem drainTaken_room : makeRoom drainTaken 0 0 = dropLine (afterDraw drainTaken) 0 1024 true := by
  have hall : (setLines drainTaken Config.l2Sets 0 fun _ => true).length = 8 := by decide
  have hfree : (setLines drainTaken Config.l2Sets 0 fun c => !c.held) = [1024] := by decide
  unfold makeRoom
  dsimp only
  rw [hall, hfree, if_neg (by decide), List.length_singleton, Nat.mod_one]
  rfl

/-- The line that the store needs, as memory has it. -/
def zeroLine : CLine := { staleLine with data := List.replicate 64 0 }

/-- The state once that line is in the caches. -/
def drainFilled : State := enterL1 (linePut (dropLine (afterDraw drainTaken) 0 1024 true) 0 (some zeroLine)) 0 false 0 zeroLine

theorem drainTaken_fill : lineFill drainTaken 0 false 0 = .ok drainFilled := by
  have hget : lineGet drainTaken 0 = none := by decide
  have herr : ramErr drainTaken (0 * 64) 64 = none := by decide
  have hdata : (dropLine (afterDraw drainTaken) 0 1024 true).rd (0 * 64) 64 = List.replicate 64 0 := by decide
  unfold lineFill
  rw [hget, herr]
  dsimp only
  rw [drainTaken_room, hdata]
  rfl

/-- The state once the store has taken effect. -/
def drainDone : State := noteHomeWrite (noteMastWrite (lineStore drainFilled 0 0 0 [5]) 0 1) 0 1

theorem drainsOverStale_gives : exec (.storeBufferDrain 0) drainsOverStale = .next drainDone := by
  obtain ⟨hc, hd, hsb, hp, -⟩ := drainsOverStale_runs
  have hp' : placeOf drainTaken oneByteStore.addr = .here 0 := hp
  have hst : cachedStore drainTaken 0 0 [5] = (none, drainDone) := by
    unfold cachedStore
    rw [show linesOf 0 ([5] : Bytes).length = [0] by decide, storeLines, drainTaken_fill]
    rfl
  have hone : drainOne drainsOverStale 0 = some (drainDone, false) := by
    unfold drainOne
    rw [hsb]
    dsimp only
    rw [show (hartMod drainsOverStale 0 fun x => { x with sb := [] }) = drainTaken from rfl, hp']
    rw [show oneByteStore.bytes = [5] from rfl]
    dsimp only
    rw [if_neg (by decide), hst]
  rw [exec, execStoreBufferDrain, hc, hd, hone]
  rfl

theorem drainDone_loses : drainsOverStale.seen 65536 = 1 ∧ drainDone.seen 65536 = 0 := by decide

/-- Refutes O44: the statement does not ask that a clean line agrees with memory. In `drainsOverStale` the drain of a store to
line 0 finds the L2's set full of clean lines of ones over memory of zeros; the victim goes unwritten, and the byte that the
harts see at its first address, where the store has not written, changes from 1 to 0. -/
theorem not_hartMemory : ¬ Obligations.HartMemory := by
  intro h
  obtain ⟨-, hdrain⟩ := h
  obtain ⟨hc, hd, hsb, hp, herr, hmem, hw⟩ := drainsOverStale_runs
  obtain ⟨hdrains, -⟩ := hdrain drainsOverStale 0 oneByteStore [] 0 hc hd hsb hp rfl
  obtain ⟨t, he, -, hseen, -⟩ := hdrains herr hmem hw drainsOverStale_backed (by decide) (by decide)
  cases drainsOverStale_gives.symm.trans he
  obtain ⟨hone, hzero⟩ := drainDone_loses
  have hs := hseen 65536
  rw [if_neg (by simp [oneByteStore]), hone, hzero] at hs
  cases hs

end Sys2Proof.Machine

end

section

namespace Sys2Proof.Machine

/-! ## A Mast hart issues a word: what every class of words shares -/

section
variable {s t u : State} {h : HartId} {w : W32} {o : LuOp} {c : Instr} {P : Hart → Prop}

/-- A command of a word's class issues the word. -/
theorem runCls_of_issues {k : LuCls} (hi : HartIssues s t h w o) (hk : o.cls = k) :
    runCls s h k = (issueSpec t h w o).outcome h := by
  obtain ⟨hup, hst, herr, u, hw, rfl⟩ := hi
  unfold runCls issueWord
  simp only [hup, hst, herr, hw, hk, MemRes.bind, Bool.not_true, Bool.false_eq_true, if_false, if_true]

/-- Where no path is left untaken, nothing is speculated. -/
theorem issueSpec_of_none (hn : o.notTaken (hartOf t h) = none) : issueSpec t h w o = issueOp t h w o := by
  unfold issueSpec
  rw [hn]
  split <;> simp_all

/-- A word that has raised its exception has no other path. -/
theorem issueSpec_of_trap {cd d i : Nat} {b : Bool} {v : State} (hop : issueOp t h w o = .trap cd d i b v) :
    issueSpec t h w o = .trap cd d i b v := by
  unfold issueSpec
  rw [hop]

/-! ### The hart once a word has executed -/

/-- The hart after a word: at pc, its operations and a count of cycles added. -/
def Hart.retired (x : Hart) (ops n : Nat) (pc : W64) : Hart :=
  { x with pc := pc &&& ~~~3, rem := [], cntOps := x.cntOps + BitVec.ofNat 64 ops, cntCyc := x.cntCyc + BitVec.ofNat 64 n }

theorem hartOf_retire (s : State) (h : HartId) (ops : Nat) (pc : W64) :
    hartOf (retire s h ops pc) h = (hartOf s h).retired ops (drawn s .cycles) pc :=
  hartOf_hartMod_same s h _

theorem other_ne (h : HartId) : 1 - h ≠ h := by
  revert h
  decide

@[simp] theorem hartOf_hartMod_other (s : State) (h : HartId) (f : Hart → Hart) :
    hartOf (hartMod s h f) (1 - h) = hartOf s (1 - h) := by
  rw [hartOf_hartMod, if_neg (other_ne h)]

@[simp] theorem hartOf_retire_other (s : State) (h : HartId) (ops : Nat) (pc : W64) :
    hartOf (retire s h ops pc) (1 - h) = hartOf s (1 - h) :=
  hartOf_hartMod_other s h _

@[simp] theorem retire_mem (s : State) (h : HartId) (ops : Nat) (pc : W64) : (retire s h ops pc).mem = s.mem := rfl

@[simp] theorem retire_cache (s : State) (h : HartId) (ops : Nat) (pc : W64) :
    (retire s h ops pc).mast.cache = s.mast.cache := rfl

/-- A change of registers alone: the count, the level and the store buffer stay. -/
def Hart.RegsOf (x y : Hart) : Prop := y.cntOps = x.cntOps ∧ y.sup = x.sup ∧ y.sb = x.sb

theorem Hart.RegsOf.refl (x : Hart) : x.RegsOf x := ⟨rfl, rfl, rfl⟩

theorem Hart.regsOf_setX (x : Hart) (r : Xr) (v : W64) : x.RegsOf (x.setX r v) := by
  unfold Hart.setX
  split <;> exact ⟨rfl, rfl, rfl⟩

/-- A word that has changed registers alone. -/
theorem hartRan_retire {f : Hart → Hart} {ops : Nat} {pc : W64} (hf : (hartOf t h).RegsOf (f (hartOf t h)))
    (hP : ∀ n, P ((f (hartOf t h)).retired ops n pc)) :
    HartRan t (retire (hartMod t h f) h ops pc) h pc ops P := by
  obtain ⟨hops, hsup, hsb⟩ := hf
  have hy : hartOf (retire (hartMod t h f) h ops pc) h =
      (f (hartOf t h)).retired ops (drawn (hartMod t h f) .cycles) pc := by
    rw [hartOf_retire, hartOf_hartMod_same]
  unfold HartRan
  rw [hy]
  exact ⟨rfl, congrArg (· + BitVec.ofNat 64 ops) hops, hsup, hsb, by simp, rfl, hP _⟩

/-- A word that changes registers alone and goes on to pc. -/
theorem hartGoes_of_issue {f : Hart → Hart} {ops : Nat} {pc : W64} (hi : HartIssues s t h w o)
    (hc : exec c s = runCls s h o.cls) (hn : o.notTaken (hartOf t h) = none)
    (hop : issueOp t h w o = .done (retire (hartMod t h f) h ops pc))
    (hf : (hartOf t h).RegsOf (f (hartOf t h))) (hP : ∀ n, P ((f (hartOf t h)).retired ops n pc)) :
    HartGoes c s t h pc ops P := by
  refine ⟨_, ?_, hartRan_retire hf hP, rfl⟩
  rw [hc, runCls_of_issues hi rfl, issueSpec_of_none hn, hop]
  rfl

/-! ### Exceptions -/

/-- What an exception leaves of the machine (R360). -/
theorem hartTraps_of_exec {cd d i : Nat} {b : Bool} (hc : exec c s = .next (takeTrap t h cd d i b)) :
    HartTraps c s t h cd d i b := by
  refine ⟨_, hc, ?_⟩
  have hy : hartOf (takeTrap t h cd d i b) h = (hartOf t h).enter (hartOf t h).pc (causeOf cd d b false)
      (BitVec.ofNat 64 i) (hartOf t h).vecBase := hartOf_hartMod_same t h _
  dsimp only
  rw [hy]
  exact ⟨rfl, rfl, rfl, rfl, rfl, rfl, rfl, rfl, rfl, rfl, rfl, rfl, rfl, hartOf_hartMod_other t h _, rfl⟩

/-- A word that raises an exception. -/
theorem hartTraps_of_issue {cd d i : Nat} {b : Bool} (hi : HartIssues s t h w o) (hc : exec c s = runCls s h o.cls)
    (hop : issueOp t h w o = .trap cd d i b u) : HartTraps c s u h cd d i b :=
  hartTraps_of_exec (by rw [hc, runCls_of_issues hi rfl, issueSpec_of_trap hop]; rfl)

/-! ### Branches -/

@[simp] theorem hartOf_mispredicted (s : State) (h g : HartId) (pc : W64) : hartOf (mispredicted s h pc) g = hartOf s g := rfl

/-- What a cancelled path leaves behind is no part of a hart or of memory. -/
theorem hartRan_mispredicted {pc p : W64} {ops : Nat} (hr : HartRan t u h pc ops P) :
    HartRan t (mispredicted u h p) h pc ops P := hr

/-- A word that may have been predicted. -/
theorem issueSpec_ran {pc : W64} {ops : Nat} (hop : issueOp t h w o = .done u) (hr : HartRan t u h pc ops P)
    (hu : u.mast.cache = t.mast.cache) :
    ∃ v, issueSpec t h w o = .done v ∧ HartRan t v h pc ops P ∧
      (o.notTaken (hartOf t h) = none → v.mast.cache = t.mast.cache) := by
  cases hn : o.notTaken (hartOf t h) with
  | none => exact ⟨u, by rw [issueSpec_of_none hn, hop], hr, fun _ => hu⟩
  | some p =>
    refine ⟨mispredicted u h p, ?_, hartRan_mispredicted hr, nofun⟩
    unfold issueSpec
    rw [hop, hn]

theorem hartBranches_of_issue {pc : W64} {ops : Nat} (hi : HartIssues s t h w o) (hc : exec c s = runCls s h o.cls)
    (hop : issueOp t h w o = .done u) (hr : HartRan t u h pc ops P) (hu : u.mast.cache = t.mast.cache) :
    HartBranches c s t h o pc ops P := by
  obtain ⟨v, hv, hrv, hcv⟩ := issueSpec_ran hop hr hu
  exact ⟨v, by rw [hc, runCls_of_issues hi rfl, hv]; rfl, hrv, hcv⟩

end

end Sys2Proof.Machine

end

section

namespace Sys2Proof.Machine

/-! ## Words of a Mast hart that compute (O42) -/

section
variable {s t : State} {h : HartId} {w : W32} {o : LuOp} {c : Instr}

/-- y is x with v in rd, x0 apart. -/
def Hart.HasPut (x : Hart) (rd : Xr) (v : W64) (y : Hart) : Prop :=
  (∀ r : Xr, y.getX r = if r = 0 then 0 else if r = rd then v else x.getX r) ∧ y.f = x.f ∧ y.q = x.q ∧
    y.fpFlags = x.fpFlags ∧ y.qSat = x.qSat ∧ y.resv = x.resv

theorem Hart.hasPut_setX (x : Hart) (rd : Xr) (v : W64) (ops n : Nat) (pc : W64) :
    x.HasPut rd v ((x.setX rd v).retired ops n pc) := by
  refine ⟨fun r => x.getX_setX rd r v, ?_⟩
  unfold Hart.setX
  split <;> exact ⟨rfl, rfl, rfl, rfl, rfl⟩

/-- A word that puts v in rd and goes on to pc. -/
theorem hartPuts_of_issue {rd : Xr} {v pc : W64} (hi : HartIssues s t h w o) (hc : exec c s = runCls s h o.cls)
    (hn : o.notTaken (hartOf t h) = none) (f : Hart → Hart) (hf : f (hartOf t h) = (hartOf t h).setX rd v)
    (hop : issueOp t h w o = .done (retire (hartMod t h f) h 1 pc)) :
    HartGoes c s t h pc 1 ((hartOf t h).HasPut rd v) :=
  hartGoes_of_issue hi hc hn hop (hf ▸ Hart.regsOf_setX _ rd v) (hf ▸ fun n => Hart.hasPut_setX _ rd v 1 n pc)

/-! ### Values -/

theorem aluVal_slt (a b : W64) : aluVal 3 a b = if a.toInt < b.toInt then 1 else 0 := by
  unfold aluVal BitVec.slt b2n
  by_cases h : a.toInt < b.toInt <;> simp [h]

/-- R335: a division by zero gives all ones, the remainder the dividend. -/
theorem mulVal_zero_div (f : Nat) (a : W64) (hf : f = 4 ∨ f = 5) : mulVal f a 0 = -1 := by
  rcases hf with rfl | rfl <;> simp [mulVal, divS, divU]

theorem mulVal_zero_rem (f : Nat) (a : W64) (hf : f = 6 ∨ f = 7) : mulVal f a 0 = a := by
  rcases hf with rfl | rfl <;> exact BitVec.eq_of_toNat_eq (by simpa [mulVal, remS, remU] using a.isLt)

/-! ### Floating point -/

theorem Hart.regsOf_putFp (x : Hart) (rd : Xr) (r : FpRes) : x.RegsOf (x.putFp rd r) := by
  cases r with
  | f fm v k => exact ⟨rfl, rfl, rfl⟩
  | x v k => exact Hart.regsOf_setX x rd v

/-- What a floating-point result leaves of the registers. -/
def Hart.HasFp (x : Hart) (rd : Xr) (res : FpRes) (y : Hart) : Prop :=
  y.q = x.q ∧ y.resv = x.resv ∧
    match res with
    | .f g v k => y.x = x.x ∧ y.fpFlags = x.fpFlags ||| BitVec.ofNat 5 k ∧ ∀ r : Xr, y.getF r =
        if r = rd then (if g = fp32 then box32 v else BitVec.ofNat 64 v) else x.getF r
    | .x v k => y.f = x.f ∧ y.fpFlags = x.fpFlags ||| BitVec.ofNat 5 k ∧ ∀ r : Xr, y.getX r =
        if r = 0 then 0 else if r = rd then v else x.getX r

theorem Hart.hasFp_putFp (x : Hart) (rd : Xr) (res : FpRes) (ops n : Nat) (pc : W64) :
    x.HasFp rd res ((x.putFp rd res).retired ops n pc) := by
  cases res with
  | f g v k => exact ⟨rfl, rfl, rfl, rfl, fun r => x.getF_setF rd r _⟩
  | x v k =>
    obtain ⟨hx, hf, hq, hk, -, hr⟩ := Hart.hasPut_setX x rd v ops n pc
    exact ⟨hq, hr, hf, congrArg (· ||| BitVec.ofNat 5 k) hk, hx⟩

/-! ### Pairs (R336, R337) -/

theorem Hart.regsOf_slotWrite (x : Hart) (fx : SlotFx) : x.RegsOf (x.slotWrite fx none) := by
  unfold Hart.slotWrite
  split
  · exact Hart.regsOf_setX x _ _
  · exact .refl x

theorem Hart.RegsOf.trans {x y z : Hart} (h : x.RegsOf y) (g : y.RegsOf z) : x.RegsOf z :=
  ⟨g.1.trans h.1, g.2.1.trans h.2.1, g.2.2.trans h.2.2⟩

/-- A slot's write of a register. -/
theorem Hart.getX_slotWrite (x : Hart) (fx : SlotFx) (r : Xr) : (x.slotWrite fx none).getX r =
    if r = 0 then 0 else match fx.wr with
      | some (q, v) => if r = q then v else x.getX r
      | none => x.getX r := by
  unfold Hart.slotWrite
  cases fx.wr with
  | none =>
    by_cases hr : r = 0
    · simp [hr]
    · simp [hr]
  | some e => exact x.getX_setX e.1 r e.2

theorem Hart.slotWrite_f (x : Hart) (fx : SlotFx) : (x.slotWrite fx none).f = x.f ∧ (x.slotWrite fx none).q = x.q := by
  unfold Hart.slotWrite Hart.setX
  split
  · split <;> exact ⟨rfl, rfl⟩
  · exact ⟨rfl, rfl⟩

/-- A pair without memory writes what its slots write, slot B last. -/
theorem issuePair_regs {a b : ShortOp} (ha : (a.fx (hartOf t h)).mem = .none) (hb : (b.fx (hartOf t h)).mem = .none) :
    issuePair t h a b = .done (retire (hartMod t h fun x =>
      (x.slotWrite (a.fx (hartOf t h)) none).slotWrite (b.fx (hartOf t h)) none) h 2
        ((b.fx (hartOf t h)).target.getD ((hartOf t h).pc + 4))) := by
  unfold issuePair
  simp only [ha, hb, slotCheck, slotAsk, slotMem, slotPatch, MemRes.bind]

/-! ### Words with P = 1 are pairs -/

theorem decodeM_ne_pair (n : Nat) (a b : ShortOp) : decodeM n ≠ some (.pair a b) := by
  unfold decodeM
  dsimp only
  split
  · nofun
  · split
    · nofun
    · split <;> nofun

theorem decodeI_ne_pair (n : Nat) (a b : ShortOp) : decodeI n ≠ some (.pair a b) := by
  unfold decodeI
  dsimp only
  split
  · nofun
  · split
    · split <;> nofun
    · nofun

theorem decodeFp_ne_pair (n : Nat) (a b : ShortOp) : decodeFp n ≠ some (.pair a b) := by
  unfold decodeFp
  dsimp only
  split <;> nofun

theorem decodeAtomic_ne_pair (n : Nat) (a b : ShortOp) : decodeAtomic n ≠ some (.pair a b) := by
  unfold decodeAtomic
  dsimp only
  repeat' split
  all_goals nofun

theorem decodeC_ne_pair (n : Nat) (a b : ShortOp) : decodeC n ≠ some (.pair a b) := by
  unfold decodeC
  dsimp only
  repeat' split
  all_goals nofun

theorem decodeSync_ne_pair (n : Nat) (a b : ShortOp) : decodeSync n ≠ some (.pair a b) := by
  unfold decodeSync
  dsimp only
  repeat' split
  all_goals nofun

theorem decodeQ_ne_pair (n m : Nat) (a b : ShortOp) : decodeQ n m ≠ some (.pair a b) := by
  unfold decodeQ
  dsimp only
  repeat' split
  all_goals nofun

theorem decodeMajor_ne_pair (n m : Nat) (a b : ShortOp) : decodeMajor n m ≠ some (.pair a b) := by
  unfold decodeMajor
  dsimp only
  repeat' split
  all_goals first
    | exact decodeI_ne_pair n a b
    | exact decodeFp_ne_pair n a b
    | exact decodeAtomic_ne_pair n a b
    | exact decodeC_ne_pair n a b
    | exact decodeSync_ne_pair n a b
    | exact decodeQ_ne_pair n _ a b
    | nofun

/-- R336: only a word with P = 1 holds a pair. -/
theorem pair_bit {a b : ShortOp} (hw : luDecode w = some (.pair a b)) : w.getLsbD 0 = true := by
  by_contra hb
  have hbit : bitOf w.toNat 0 = false := by
    simpa [bitOf, BitVec.getLsbD] using hb
  unfold luDecode at hw
  simp only [hbit, Bool.false_eq_true, if_false] at hw
  split at hw
  · exact decodeM_ne_pair _ a b hw
  · exact decodeMajor_ne_pair _ _ a b hw

/-- The operation of a word that issues is its decoding. -/
theorem decode_of_issues (hi : HartIssues s t h w o) : luDecode w = some o := by
  obtain ⟨-, -, -, u, hw, -⟩ := hi
  unfold nextWord at hw
  split at hw
  · simp only [MemRes.ok.injEq, Prod.mk.injEq] at hw
    exact hw.1.1 ▸ hw.1.2
  · cases hw
  · cases hw

theorem execPairIssue_of_issues {a b : ShortOp} (hi : HartIssues s t h w (.pair a b)) :
    exec (.pairIssue h) s = runCls s h .pair := by
  have hb := pair_bit (decode_of_issues hi)
  obtain ⟨hup, -, -, u, hw, -⟩ := hi
  show execPairIssue h s = _
  unfold execPairIssue runCls
  simp only [hup, hw, hb, LuOp.cls, Bool.not_true, Bool.false_eq_true, if_false, if_true]

/-! ### Luaca-Q registers (R355) -/

theorem Hart.regsOf_setQ (x : Hart) (r : Xr) (v : Nat) : x.RegsOf (x.setQ r v) := by
  unfold Hart.setQ
  split <;> exact ⟨rfl, rfl, rfl⟩

theorem Hart.setQ_fields (x : Hart) (r : Xr) (v : Nat) : (x.setQ r v).x = x.x ∧ (x.setQ r v).fpFlags = x.fpFlags ∧
    (x.setQ r v).qSat = x.qSat ∧ (x.setQ r v).qMode = x.qMode := by
  unfold Hart.setQ
  split <;> exact ⟨rfl, rfl, rfl, rfl⟩

/-- Two halves of a register are the register. -/
theorem halves (v : Nat) : (BitVec.ofNat 64 v).toNat + 2 ^ 64 * (BitVec.ofNat 64 (v / 2 ^ 64)).toNat = v % 2 ^ 128 := by
  simp only [BitVec.toNat_ofNat]
  omega

/-- The two f registers of a q register are its own. -/
theorem qf_ne {r q : Xr} (hr : r.val < 16) (hq : q.val < 16) (hne : r ≠ q) :
    xr (2 * r.val) ≠ xr (2 * q.val) ∧ xr (2 * r.val) ≠ xr (2 * q.val + 1) ∧
      xr (2 * r.val + 1) ≠ xr (2 * q.val) ∧ xr (2 * r.val + 1) ≠ xr (2 * q.val + 1) := by
  have hv : r.val ≠ q.val := fun h => hne (Fin.ext h)
  simp only [xr, Fin.ofNat, ne_eq, Fin.mk.injEq]
  omega

/-- A write of a q register, read back. -/
theorem Hart.getQ_setQ (x : Hart) {r q : Xr} (v : Nat) (hr : x.qOk r = true) (hq : x.qOk q = true) :
    (x.setQ q v).getQ r = if r = q then v % 2 ^ 128 else x.getQ r := by
  have hm := (x.setQ_fields q v).2.2.2
  unfold Hart.getQ
  rw [hm]
  cases hx : x.qMode with
  | true =>
    have hset : (x.setQ q v).q = vput x.q q (BitVec.ofNat 128 v) := by unfold Hart.setQ; rw [hx]; rfl
    rw [if_pos rfl, if_pos rfl, hset, vput_get]
    split
    · exact BitVec.toNat_ofNat v 128
    · rfl
  | false =>
    have hset : ∀ g, (x.setQ q v).f.get g = if g = xr (2 * q.val + 1) then BitVec.ofNat 64 (v / 2 ^ 64)
        else if g = xr (2 * q.val) then BitVec.ofNat 64 v else x.f.get g := by
      intro g
      unfold Hart.setQ
      rw [hx]
      exact (Hart.getF_setF _ _ g _).trans (if_congr Iff.rfl rfl (x.getF_setF _ g _))
    have hr16 : r.val < 16 := by simpa [Hart.qOk, hx] using hr
    have hq16 : q.val < 16 := by simpa [Hart.qOk, hx] using hq
    simp only [Bool.false_eq_true, if_false]
    rw [hset, hset]
    by_cases he : r = q
    · subst he
      have hne : xr (2 * r.val) ≠ xr (2 * r.val + 1) := by
        simp only [xr, Fin.ofNat, ne_eq, Fin.mk.injEq]
        omega
      rw [if_neg hne, if_pos rfl, if_pos rfl, if_pos rfl]
      exact halves v
    · obtain ⟨h1, h2, h3, h4⟩ := qf_ne hr16 hq16 he
      rw [if_neg h2, if_neg h1, if_neg h4, if_neg h3, if_neg he]

/-- What a Luaca-Q word gives: its register, its flags and whether a lane saturated. -/
def Hart.HasQ (x : Hart) (qd : Xr) (v flags : Nat) (sat : Bool) (y : Hart) : Prop :=
  y.x = x.x ∧ y.fpFlags = x.fpFlags ||| BitVec.ofNat 5 flags ∧ y.qSat = (x.qSat || sat) ∧
    ∀ r : Xr, x.qOk r = true → y.getQ r = if r = qd then v % 2 ^ 128 else x.getQ r

/-- The hart that has taken the results of a Luaca-Q word. -/
def Hart.putQ (x : Hart) (qd : Xr) (v flags : Nat) (sat : Bool) : Hart :=
  { (x.setQ qd v).addFlags flags with qSat := x.qSat || sat }

theorem Hart.regsOf_putQ (x : Hart) (qd : Xr) (v flags : Nat) (sat : Bool) : x.RegsOf (x.putQ qd v flags sat) :=
  Hart.regsOf_setQ x qd v

theorem Hart.hasQ_putQ (x : Hart) {qd : Xr} (v flags : Nat) (sat : Bool) (hq : x.qOk qd = true) (ops n : Nat) (pc : W64) :
    x.HasQ qd v flags sat ((x.putQ qd v flags sat).retired ops n pc) := by
  obtain ⟨hx, hk, -, -⟩ := x.setQ_fields qd v
  exact ⟨hx, congrArg (· ||| BitVec.ofNat 5 flags) hk, rfl, fun r hr => x.getQ_setQ v hr hq⟩

theorem Hart.putQ_of_int (x : Hart) (qd : Xr) (v : Nat) (sat : Bool) :
    x.putQ qd v 0 sat = { x.setQ qd v with qSat := x.qSat || sat } := by
  unfold Hart.putQ Hart.addFlags
  simp

theorem Hart.putQ_of_fp (x : Hart) (qd : Xr) (v k : Nat) : x.putQ qd v k false = (x.setQ qd v).addFlags k := by
  obtain ⟨-, -, hs, -⟩ := x.setQ_fields qd v
  unfold Hart.putQ Hart.addFlags
  rw [Bool.or_false, ← hs]

theorem Hart.putQ_of_perm (x : Hart) (qd : Xr) (v : Nat) : x.putQ qd v 0 false = x.setQ qd v := by
  rw [x.putQ_of_fp]
  unfold Hart.addFlags
  simp

/-- A Luaca-Q word that writes qd. -/
theorem hartGivesQ_of_issue {major qf et : Nat} {qd qa qb : Xr} {v flags : Nat} {sat : Bool}
    (hi : HartIssues s t h w (.q major qf et qd qa qb)) (hq : (hartOf t h).qOk qd = true) (f : Hart → Hart)
    (hf : f (hartOf t h) = (hartOf t h).putQ qd v flags sat) (hop : issueQ t h w major qf et qd qa qb = step1 t h f) :
    HartGoes (.qOp h) s t h ((hartOf t h).pc + 4) 1 ((hartOf t h).HasQ qd v flags sat) :=
  hartGoes_of_issue hi rfl rfl hop (hf ▸ Hart.regsOf_putQ _ qd v flags sat)
    (hf ▸ fun n => Hart.hasQ_putQ _ v flags sat hq 1 n _)

/-- An integer or floating-point word that names a register its mode has not. -/
theorem issueQ_bad {major qf et : Nat} {qd qa qb : Xr} (hm : major = 0x30 ∨ major = 0x31)
    (hb : (hartOf t h).qOk qd = false ∨ (hartOf t h).qOk qa = false ∨ (hartOf t h).qOk qb = false) :
    issueQ t h w major qf et qd qa qb = illegal t w := by
  have hno : ((hartOf t h).qOk qd && (hartOf t h).qOk qa && (hartOf t h).qOk qb) = false := by
    rcases hb with hb | hb | hb <;> simp [hb]
  unfold issueQ
  rcases hm with rfl | rfl <;> simp [hno]

/-- A conditional branch. -/
theorem hartBranches_br {k : Nat} {a b : Xr} {ofs : Int} (hi : HartIssues s t h w (.br k a b ofs)) :
    HartBranches (.branch h) s t h (.br k a b ofs) (if brTaken k ((hartOf t h).getX a) ((hartOf t h).getX b)
      then (hartOf t h).pc + BitVec.ofInt 64 (4 * ofs) else (hartOf t h).pc + 4) 1
      fun y => y.x = (hartOf t h).x ∧ y.f = (hartOf t h).f ∧ y.q = (hartOf t h).q := by
  refine hartBranches_of_issue hi rfl rfl ?_ rfl
  unfold HartRan
  rw [hartOf_retire]
  exact ⟨rfl, rfl, rfl, rfl, hartOf_retire_other t h 1 _, rfl, rfl, rfl, rfl⟩

/-- A pair of slots without memory. -/
theorem hartBranches_pair {a b : ShortOp} (hi : HartIssues s t h w (.pair a b))
    (ha : (a.fx (hartOf t h)).mem = .none) (hb : (b.fx (hartOf t h)).mem = .none) :
    HartBranches (.pairIssue h) s t h (.pair a b) (((b.fx (hartOf t h)).target).getD ((hartOf t h).pc + 4)) 2 fun y =>
      y.f = (hartOf t h).f ∧ y.q = (hartOf t h).q ∧
      ∀ r : Xr, y.getX r = if r = 0 then 0 else match (b.fx (hartOf t h)).wr, (a.fx (hartOf t h)).wr with
          | some (rb, vb), some (ra, va) => if r = rb then vb else if r = ra then va else (hartOf t h).getX r
          | some (rb, vb), none => if r = rb then vb else (hartOf t h).getX r
          | none, some (ra, va) => if r = ra then va else (hartOf t h).getX r
          | none, none => (hartOf t h).getX r := by
  refine hartBranches_of_issue hi (execPairIssue_of_issues hi) (issuePair_regs ha hb) ?_ rfl
  refine hartRan_retire ((Hart.regsOf_slotWrite _ _).trans (Hart.regsOf_slotWrite _ _)) fun n => ?_
  obtain ⟨hfa, hqa⟩ := (hartOf t h).slotWrite_f (a.fx (hartOf t h))
  obtain ⟨hfb, hqb⟩ := ((hartOf t h).slotWrite (a.fx (hartOf t h)) none).slotWrite_f (b.fx (hartOf t h))
  refine ⟨hfb.trans hfa, hqb.trans hqa, fun r => ?_⟩
  refine (Hart.getX_slotWrite _ _ r).trans ?_
  rw [Hart.getX_slotWrite]
  by_cases hr : r = 0
  · rw [if_pos hr, if_pos hr]
  · rw [if_neg hr, if_neg hr, if_neg hr]
    cases (b.fx (hartOf t h)).wr <;> cases (a.fx (hartOf t h)).wr <;> rfl

end

/-- Settles O42, by the one lemma of a word that changes registers alone. -/
theorem hartComputes : Obligations.HartComputes := by
  intro s t h w o hi x next puts
  refine ⟨?_, ?_, ?_, ?_, ?_, ?_, ?_, ?_, ?_, ?_, ?_⟩
  · rintro f rd a b rfl
    have hp : puts (.integerOp h) next rd (aluVal f (x.getX a) (x.getX b)) := hartPuts_of_issue hi rfl rfl _ rfl rfl
    refine ⟨hp, ?_, ?_, ?_⟩
    · rintro rfl
      exact hp
    · rintro rfl
      exact hp
    · rintro rfl
      exact aluVal_slt (x.getX a) (x.getX b) ▸ hp
  · rintro f rd a imm rfl
    exact hartPuts_of_issue hi rfl rfl _ rfl rfl
  · rintro rd imm rfl
    exact hartPuts_of_issue hi rfl rfl _ rfl rfl
  · rintro rd imm rfl
    exact hartPuts_of_issue hi rfl rfl _ rfl rfl
  · rintro f rd a b rfl
    have hp : puts (.mulDivOp h) next rd (mulVal f (x.getX a) (x.getX b)) := hartPuts_of_issue hi rfl rfl _ rfl rfl
    refine ⟨hp, ?_, fun hz => ⟨fun hf => ?_, fun hf => ?_⟩⟩
    · rintro rfl
      exact hp
    · rw [hz, mulVal_zero_div f _ hf] at hp
      exact hp
    · rw [hz, mulVal_zero_rem f _ hf] at hp
      exact hp
  · rintro k a b ofs rfl
    exact hartBranches_br hi
  · rintro rd ofs rfl
    exact hartPuts_of_issue hi rfl rfl _ rfl rfl
  · rintro rd a imm rfl
    exact hartPuts_of_issue hi rfl rfl _ rfl rfl
  · rintro f dbl rm rd a b rfl fm cut
    exact hartGoes_of_issue hi rfl rfl rfl (Hart.regsOf_putFp _ _ _) fun n => Hart.hasFp_putFp _ _ _ _ n _
  · rintro a b rfl ha hb
    exact hartBranches_pair hi ha hb
  · rintro major qf et qd qa qb rfl gives
    refine ⟨fun hd ha hb => ⟨?_, ?_, ?_⟩, ?_, ?_⟩
    · rintro rfl
      refine hartGivesQ_of_issue hi hd (fun y => { y.setQ qd (qInt qf et (x.getQ qd) (x.getQ qa) (x.getQ qb)).1 with
        qSat := y.qSat || (qInt qf et (x.getQ qd) (x.getQ qa) (x.getQ qb)).2 }) (Hart.putQ_of_int _ _ _ _).symm ?_
      show issueQ t h w 0x30 qf et qd qa qb = _
      unfold issueQ
      rw [if_pos rfl, if_pos (by simp only [x] at hd ha hb; simp [hd, ha, hb])]
    · rintro rfl
      refine hartGivesQ_of_issue hi hd (fun y => (y.setQ qd (qFp x.fpRound.toNat qf et (x.getQ qd) (x.getQ qa)
        (x.getQ qb)).1).addFlags (qFp x.fpRound.toNat qf et (x.getQ qd) (x.getQ qa) (x.getQ qb)).2)
        (Hart.putQ_of_fp _ _ _ _).symm ?_
      unfold issueQ
      rw [if_neg (by decide), if_pos rfl, if_pos (by simp only [x] at hd ha hb; simp [hd, ha, hb])]
    · rintro rfl rfl
      refine hartGivesQ_of_issue hi hd (fun y => y.setQ qd (qPerm (x.getQ qa) (x.getQ qb)))
        (Hart.putQ_of_perm _ _ _).symm ?_
      unfold issueQ
      rw [if_neg (by decide), if_neg (by decide)]
      exact if_pos (by simp only [x] at hd ha hb; simp [hd, ha, hb])
    · rintro rfl rfl ha
      refine hartPuts_of_issue hi rfl rfl (fun y => y.setX qd (qMvx et (x.getQ qa) qb.val)) rfl ?_
      show issueQ t h w 0x32 2 et qd qa qb = _
      unfold issueQ
      rw [if_neg (by decide), if_neg (by decide)]
      exact if_pos ha
    · intro hm hbad
      exact hartTraps_of_issue hi rfl (issueQ_bad hm hbad)

end Sys2Proof.Machine

end

section

namespace Sys2Proof.Machine

/-! ## Control words, levels, traps and interrupts of a Mast hart (O43) -/

section
variable {s t : State} {h : HartId} {w : W32} {o : LuOp} {c : Instr}

/-! ### A write of a control word, field by field (Tables 10-13 to 10-15) -/

theorem Hart.writeQcfg_rest (x : Hart) (v : W64) : ∃ m st f q,
    x.writeQcfg v = { x with qMode := m, qSat := st, f := f, q := q } := by
  unfold Hart.writeQcfg
  split <;> exact ⟨_, _, _, _, rfl⟩

theorem Hart.writeCw_scr (x : Hart) (n : Nat) (v : W64) : (x.writeCw n v).scr = if n = 0x20C then v else x.scr := by
  obtain ⟨_, _, _, _, hq⟩ := x.writeQcfg_rest v
  unfold Hart.writeCw
  split <;> simp_all

theorem Hart.writeCw_epc (x : Hart) (n : Nat) (v : W64) : (x.writeCw n v).epc = if n = 0x210 then v else x.epc := by
  obtain ⟨_, _, _, _, hq⟩ := x.writeQcfg_rest v
  unfold Hart.writeCw
  split <;> simp_all

theorem Hart.writeCw_tcmp (x : Hart) (v : W64) : (x.writeCw 0x218 v).tcmp = v := rfl

theorem Hart.writeCw_ien (x : Hart) (n : Nat) (v : W64) :
    (x.writeCw n v).ien = if n = 0x204 then v &&& 0xFFF else x.ien := by
  obtain ⟨_, _, _, _, hq⟩ := x.writeQcfg_rest v
  unfold Hart.writeCw
  split <;> simp_all

theorem Hart.writeCw_stat (x : Hart) {n : Nat} (v : W64) (hn : n ≠ 0x200) : (x.writeCw n v).ie = x.ie ∧
    (x.writeCw n v).pie = x.pie ∧ (x.writeCw n v).plv = x.plv ∧ (x.writeCw n v).ucl = x.ucl := by
  obtain ⟨_, _, _, _, hq⟩ := x.writeQcfg_rest v
  unfold Hart.writeCw
  split <;> simp_all

theorem Hart.writeCw_qcfg (x : Hart) {n : Nat} (v : W64) (hn : n ≠ 0x300) : (x.writeCw n v).qMode = x.qMode ∧
    (x.writeCw n v).qSat = x.qSat ∧ (x.writeCw n v).f = x.f ∧ (x.writeCw n v).q = x.q := by
  unfold Hart.writeCw
  split <;> simp_all

/-- What no control word holds stays. -/
theorem Hart.writeCw_rest (x : Hart) (n : Nat) (v : W64) : (x.writeCw n v).x = x.x ∧ (x.writeCw n v).sup = x.sup := by
  obtain ⟨_, _, _, _, hq⟩ := x.writeQcfg_rest v
  unfold Hart.writeCw
  split <;> simp_all

/-- R355: a change of MODE clears the q and f registers and SAT. -/
theorem Hart.writeQcfg_mode (x : Hart) (v : W64) : (x.writeQcfg v).qMode = v.getLsbD 0 ∧
    (v.getLsbD 0 ≠ x.qMode → (x.writeQcfg v).qSat = false ∧
      ∀ r : Xr, (x.writeQcfg v).getF r = 0 ∧ (x.writeQcfg v).q.get r = 0) ∧
    (v.getLsbD 0 = x.qMode → (x.writeQcfg v).qSat = v.getLsbD 1 ∧ (x.writeQcfg v).f = x.f ∧ (x.writeQcfg v).q = x.q) := by
  unfold Hart.writeQcfg
  by_cases hm : v.getLsbD 0 = x.qMode
  · rw [if_neg (not_not.2 hm)]
    exact ⟨hm.symm, fun hn => absurd hm hn, fun _ => ⟨rfl, rfl, rfl⟩⟩
  · rw [if_pos hm]
    exact ⟨rfl, fun _ => ⟨rfl, fun r => ⟨vector_get_replicate 32 0 r, vector_get_replicate 32 0 r⟩⟩, fun he => absurd he hm⟩

/-- A write of an x register changes nothing else of a hart. -/
theorem Hart.setX_rest (x : Hart) (r : Xr) (v : W64) : ∃ b, x.setX r v = { x with x := b } := by
  unfold Hart.setX
  split
  · exact ⟨x.x, rfl⟩
  · exact ⟨_, rfl⟩

/-- What a write of a control word leaves in the hart's control fields. -/
def Hart.CwFields (x : Hart) (n : Nat) (new : W64) (y : Hart) : Prop :=
  (n = 0x20C → y.scr = new) ∧ (n ≠ 0x20C → y.scr = x.scr) ∧ (n = 0x210 → y.epc = new) ∧
  (n ≠ 0x210 → y.epc = x.epc) ∧ (n = 0x218 → y.tcmp = new) ∧ (n = 0x204 → y.ien = new &&& 0xFFF) ∧
  (n ≠ 0x204 → y.ien = x.ien) ∧ (n = 0x209 → y.cpen = new.setWidth 8) ∧
  (n = 0x200 → y.ie = new.getLsbD 0 ∧ y.pie = new.getLsbD 1 ∧ y.plv = new.getLsbD 2 ∧ y.ucl = new.getLsbD 3) ∧
  (n ≠ 0x200 → y.ie = x.ie ∧ y.pie = x.pie ∧ y.plv = x.plv ∧ y.ucl = x.ucl) ∧
  (n = 0x300 → y.qMode = new.getLsbD 0 ∧ (new.getLsbD 0 ≠ x.qMode → y.qSat = false ∧
    ∀ r : Xr, y.getF r = 0 ∧ y.q.get r = 0) ∧
    (new.getLsbD 0 = x.qMode → y.qSat = new.getLsbD 1 ∧ y.f = x.f ∧ y.q = x.q)) ∧
  (n ≠ 0x300 → y.qMode = x.qMode ∧ y.qSat = x.qSat ∧ y.f = x.f ∧ y.q = x.q)

theorem Hart.cwFields_writeCw (x : Hart) (n : Nat) (new : W64) (rd : Xr) (old : W64) {k : Nat} {pc : W64} :
    x.CwFields n new (((x.writeCw n new).setX rd old).retired 1 k pc) := by
  obtain ⟨b, hb⟩ := (x.writeCw n new).setX_rest rd old
  rw [hb]
  refine ⟨fun hn => (x.writeCw_scr n new).trans (if_pos hn), fun hn => (x.writeCw_scr n new).trans (if_neg hn),
    fun hn => (x.writeCw_epc n new).trans (if_pos hn), fun hn => (x.writeCw_epc n new).trans (if_neg hn), ?_,
    fun hn => (x.writeCw_ien n new).trans (if_pos hn), fun hn => (x.writeCw_ien n new).trans (if_neg hn), ?_, ?_,
    x.writeCw_stat new, ?_, x.writeCw_qcfg new⟩
  · rintro rfl
    exact x.writeCw_tcmp new
  · rintro rfl
    exact (BitVec.setWidth_eq_extractLsb' (by decide)).symm
  · rintro rfl
    exact ⟨rfl, rfl, rfl, rfl⟩
  · rintro rfl
    exact x.writeQcfg_mode new

theorem Hart.getX_writeCw_setX (x : Hart) (n : Nat) (new : W64) (rd : Xr) (old : W64) (r : Xr) :
    ((x.writeCw n new).setX rd old).getX r = if r = 0 then 0 else if r = rd then old else x.getX r := by
  rw [Hart.getX_setX]
  unfold Hart.getX
  rw [(x.writeCw_rest n new).1]

theorem Hart.writeCw_setX_sup (x : Hart) (n : Nat) (new : W64) (rd : Xr) (old : W64) :
    ((x.writeCw n new).setX rd old).sup = x.sup := by
  obtain ⟨b, hb⟩ := (x.writeCw n new).setX_rest rd old
  rw [hb]
  exact (x.writeCw_rest n new).2

/-- A word of a control word that the hart may reach, at its level. -/
theorem issueCw_of_read {f : Fin 3} {imm : Bool} {rd src : Xr} {n : Nat} {old : W64} (hr : cwRead t h n = some old)
    (hu : (hartOf t h).sup = true ∨ cwUser n = true) :
    issueCw t h w f imm rd src n = step1 t h fun x => (x.writeCw n (if f = 0
      then (if imm then BitVec.ofNat 64 src.val else (hartOf t h).getX src)
      else if f = 1 then old ||| (if imm then BitVec.ofNat 64 src.val else (hartOf t h).getX src)
      else old &&& ~~~(if imm then BitVec.ofNat 64 src.val else (hartOf t h).getX src))).setX rd old := by
  have hok : (!(hartOf t h).sup && !cwUser n) = false := by rcases hu with hu | hu <;> simp [hu]
  unfold issueCw
  rw [hr]
  dsimp only
  rw [hok, if_neg Bool.false_ne_true]
  match f with
  | 0 => rfl
  | 1 => rfl
  | 2 => rfl

theorem issueCw_illegal {f : Fin 3} {imm : Bool} {rd src : Xr} {n : Nat}
    (hb : cwRead t h n = none ∨ ((hartOf t h).sup = false ∧ cwUser n = false)) :
    issueCw t h w f imm rd src n = illegal t w := by
  unfold issueCw
  cases hr : cwRead t h n with
  | none => rfl
  | some old =>
    obtain ⟨hs, hu⟩ := hb.resolve_left (by simp [hr])
    dsimp only
    rw [hs, hu]
    rfl

/-- A word whose hart does not branch and that is done. -/
theorem gives_of_issue {f : Hart → Hart} {ops : Nat} {pc : W64} {P : State → Prop} (hi : HartIssues s t h w o)
    (hc : exec c s = runCls s h o.cls) (hn : o.notTaken (hartOf t h) = none)
    (hop : issueOp t h w o = .done (retire (hartMod t h f) h ops pc))
    (hP : P (retire (hartMod t h f) h ops pc)) : Gives c s P :=
  ⟨_, by rw [hc, runCls_of_issues hi rfl, issueSpec_of_none hn, hop]; rfl, hP⟩

/-- The hart of a word that changes its registers and is done. -/
theorem hartOf_retire_mod (t : State) (h : HartId) (f : Hart → Hart) (ops : Nat) (pc : W64) :
    hartOf (retire (hartMod t h f) h ops pc) h = (f (hartOf t h)).retired ops (drawn (hartMod t h f) .cycles) pc := by
  rw [hartOf_retire, hartOf_hartMod_same]

/-- The words that name control words, each with its command (Table 10-6). -/
theorem cw_command {f : Fin 3} {imm : Bool} (hm : (c, f, imm) ∈ [(Instr.cwswp h, (0 : Fin 3), false), (.cwset h, 1, false),
      (.cwclr h, 2, false), (.cwswpi h, 0, true), (.cwseti h, 1, true), (.cwclri h, 2, true)]) (rd src : Xr) (n : Nat) :
    exec c s = runCls s h (LuOp.cw f imm rd src n).cls := by
  simp only [List.mem_cons, Prod.mk.injEq, List.not_mem_nil, or_false] at hm
  rcases hm with ⟨rfl, rfl, rfl⟩ | ⟨rfl, rfl, rfl⟩ | ⟨rfl, rfl, rfl⟩ | ⟨rfl, rfl, rfl⟩ | ⟨rfl, rfl, rfl⟩ | ⟨rfl, rfl, rfl⟩ <;> rfl

/-- RETS at S level. -/
theorem issueRets_sup (hs : (hartOf t h).sup = true) : issueRets t h w =
    .done (retire (hartMod t h fun x => { x with ie := x.pie, sup := x.plv }) h 1 (hartOf t h).epc) := by
  exact if_neg (by simp [hs])

theorem issueRets_user (hs : (hartOf t h).sup = false) : issueRets t h w = illegal t w := by
  exact if_pos (by simp [hs])

theorem issueWaiti_sup (hs : (hartOf t h).sup = true) :
    issueWaiti t h w = step1 t h fun x => { x with waiti := true } := by
  unfold issueWaiti
  rw [hs]
  rfl

theorem issueWaiti_user (hs : (hartOf t h).sup = false) : issueWaiti t h w = illegal t w := by
  unfold issueWaiti
  rw [hs]
  rfl

/-! ### Interrupts (R361, Table 10-10) -/

theorem foldl_or_bit {p : Nat → Bool} {n : Nat} {l : List Nat} (hl : ∀ k ∈ l, k ≠ n) {m : W64} (hm : m.getLsbD n = false) :
    (l.foldl (fun (m : W64) k => if p k then m ||| (1#64 <<< k) else m) m).getLsbD n = false := by
  induction l generalizing m with
  | nil => exact hm
  | cons k l ih =>
    rw [List.foldl_cons]
    refine ih (fun j hj => hl j (List.mem_cons_of_mem _ hj)) ?_
    have hk := hl k List.mem_cons_self
    split
    · rw [BitVec.getLsbD_or, hm, Bool.false_or, BitVec.getLsbD_shiftLeft]
      by_cases hlt : n < k
      · simp [hlt]
      · have hpos : n - k ≠ 0 := by omega
        simp [hpos]
    · exact hm

/-- No source above 11 is ever pending. -/
theorem ipend_high (s : State) (h : HartId) {n : Nat} (hn : 12 ≤ n) : (ipend s h).getLsbD n = false := by
  refine foldl_or_bit (fun k hk => ?_) (by simp)
  have := List.mem_range.1 hk
  omega

/-- The interrupt that R361 takes: code 11 first, then the lowest. -/
theorem pickIrq_of_first {n : Nat} (hn : (ipend s h &&& (hartOf s h).ien).getLsbD n = true)
    (hf : n = 11 ∨ ((ipend s h &&& (hartOf s h).ien).getLsbD 11 = false ∧
      ∀ k : Nat, k < n → (ipend s h &&& (hartOf s h).ien).getLsbD k = false)) : pickIrq s h = some n := by
  unfold pickIrq
  dsimp only
  rcases hf with rfl | ⟨h11, hlow⟩
  · exact if_pos hn
  · rw [h11, if_neg Bool.false_ne_true, List.find?_range_eq_some]
    have hlt : n < 12 := by
      by_contra hge
      rw [BitVec.getLsbD_and, ipend_high s h (by omega)] at hn
      simp at hn
    have hne : n ≠ 11 := fun he => by rw [he, h11] at hn; cases hn
    exact ⟨hn, List.mem_range.2 (by omega), fun k hk => by simp [hlow k hk]⟩

theorem pickIrq_none (hm : ipend s h &&& (hartOf s h).ien = 0) : pickIrq s h = none := by
  unfold pickIrq
  rw [hm]
  rfl

/-- The hart once an interrupt has been taken. -/
theorem hartOf_takeIrq (s : State) (h : HartId) (n : Nat) : hartOf (takeIrq s h n) h = (hartOf s h).enter (hartOf s h).pc
    (causeOf n 0 false true) 0
    (if (hartOf s h).vec then (hartOf s h).vecBase + BitVec.ofNat 64 (64 * (n + 1)) else (hartOf s h).vecBase) :=
  hartOf_hartMod_same _ h _

end

/-- Settles O43, with one lemma for each class of words and one for the choice among pending interrupts. -/
theorem hartControl : Obligations.HartControl := by
  refine ⟨?_, ?_, ?_, ?_, ?_⟩
  · intro s t h w o hi x next
    refine ⟨?_, ?_, ?_, ?_, ?_, ?_⟩
    · rintro c f imm hm rd src n rfl
      have hc := cw_command (s := s) hm rd src n
      refine ⟨fun old hr hu => ?_, fun hb => hartTraps_of_issue hi hc (issueCw_illegal hb)⟩
      intro v new
      refine gives_of_issue hi hc rfl (issueCw_of_read hr hu) ?_
      dsimp only
      rw [hartOf_retire_mod]
      exact ⟨x.getX_writeCw_setX n new rd old, rfl, x.writeCw_setX_sup n new rd old,
        by rw [hartOf_retire_other, hartOf_hartMod_other], rfl, x.cwFields_writeCw n new rd old⟩
    · rintro rfl
      exact hartTraps_of_issue hi rfl rfl
    · rintro rfl
      exact hartTraps_of_issue hi rfl rfl
    · rintro rfl
      exact hartTraps_of_issue hi rfl rfl
    · rintro rfl
      refine ⟨fun hs => gives_of_issue hi rfl rfl (issueRets_sup hs) ?_,
        fun hs => hartTraps_of_issue hi rfl (issueRets_user hs)⟩
      rw [hartOf_retire_mod]
      exact ⟨rfl, rfl, rfl, rfl, rfl, rfl, rfl, by simp, rfl⟩
    · rintro rfl
      exact ⟨fun hs => hartGoes_of_issue hi rfl rfl (issueWaiti_sup hs) (.refl _) fun n => ⟨rfl, rfl, rfl⟩,
        fun hs => hartTraps_of_issue hi rfl (issueWaiti_user hs)⟩
  · intro s h hup
    refine ⟨fun c d i b t ht => hartTraps_of_exec ?_, fun hno => ?_, fun w t hw hst herr => hartTraps_of_exec ?_⟩
    · show execMastTrap h s = _
      unfold execMastTrap
      rw [hup, ht]
      rfl
    · show execMastTrap h s = _
      unfold execMastTrap
      rw [hup, if_neg (by decide)]
      split
      · exact absurd ‹_› (hno _ _ _ _ _)
      · rfl
    · show execMastTrap h s = _
      unfold execMastTrap issueWord
      rw [hup, hst, herr, hw]
      rfl
  · intro s h hup x m hrem hcp hlev
    have hgo : (hartUp s h && x.rem.isEmpty && x.cpWait.isNone && (!x.sup || x.ie)) = true := by
      rcases hlev with hl | hl <;> simp [hup, hrem, hcp, hl]
    refine ⟨fun n hn hf => ⟨takeIrq s h n, ?_, ?_⟩, fun hm => ?_⟩
    · show execMastInterrupt h s = _
      refine (if_pos hgo).trans ?_
      rw [pickIrq_of_first hn hf]
    · dsimp only
      rw [hartOf_takeIrq]
      exact ⟨rfl, rfl, rfl, rfl, rfl, rfl, rfl, rfl, rfl, rfl, rfl, rfl, rfl, rfl, hartOf_hartMod_other _ h _, rfl, rfl⟩
    · show execMastInterrupt h s = _
      refine (if_pos hgo).trans ?_
      rw [pickIrq_none hm]
  · intro s h g hg
    refine ⟨dropResv s h, ?_, hartOf_hartMod_same s h _, hartOf_hartMod_other s h _, rfl⟩
    show execReservationExpire h s = _
    unfold execReservationExpire
    rw [hg]
  · intro s v hctl hdom
    refine ⟨⟨ipiWrite s v, if_pos (by simp [hctl, hdom]), fun h => ?_, rfl, rfl⟩, if_pos (by simp [hctl, hdom])⟩
    have hy : hartOf (ipiWrite s v) h = { hartOf s h with soft := (hartOf s h).soft || v.getLsbD h.val } :=
      vector_get_ofFn _ h
    rw [hy]
    exact ⟨rfl, rfl, rfl⟩

end Sys2Proof.Machine

end

section

namespace Sys2Proof.Machine

/-! ## What bringing lines into the caches leaves as it was (R345, R373) -/

section
variable {s t u : State} {h : HartId} {K L : Nat → Prop}

/-- The state without what a fill may change: memory, caches, harts, store errors and the count of free choices. -/
def State.sansCaches (s : State) : State :=
  { s with mem := [], free := 0, mast.cache := [], mast.sterr := Vector.replicate 2 0, mast.harts := Mast.reset.harts }

/-- From s to t the caches may have filled and written back, and reservations ended; the bytes of K's lines look as
before. -/
structure Fills (K : Nat → Prop) (s t : State) : Prop where
  rest : t.sansCaches = s.sansCaches
  hart : ∀ g : HartId, ∃ r, hartOf t g = { hartOf s g with resv := r }
  memWf : t.memWf = true
  cacheWf : t.cacheWf = true
  seen : ∀ a : Nat, K (a / 64) → t.seen a = s.seen a

theorem Fills.refl (hm : s.memWf = true) (hc : s.cacheWf = true) : Fills K s s :=
  ⟨rfl, fun g => ⟨(hartOf s g).resv, rfl⟩, hm, hc, fun _ _ => rfl⟩

theorem Fills.trans (h₁ : Fills K s t) (h₂ : Fills K t u) : Fills K s u where
  rest := h₂.rest.trans h₁.rest
  hart g := by
    obtain ⟨r, hr⟩ := h₂.hart g
    obtain ⟨q, hq⟩ := h₁.hart g
    exact ⟨r, by rw [hr, hq]⟩
  memWf := h₂.memWf
  cacheWf := h₂.cacheWf
  seen a ha := (h₂.seen a ha).trans (h₁.seen a ha)

theorem Fills.mono (h₁ : Fills K s t) (hl : ∀ l, L l → K l) : Fills L s t :=
  ⟨h₁.rest, h₁.hart, h₁.memWf, h₁.cacheWf, fun a ha => h₁.seen a (hl _ ha)⟩

/-! ### One line put in its place -/

theorem linePut_wf {c : Option CLine} (ln : Nat) (hc : s.cacheWf = true) (hd : ∀ d, c = some d → d.data.length = 64) :
    (linePut s ln c).cacheWf = true := by
  obtain ⟨hw, hl⟩ := cacheWf_iff.1 hc
  refine cacheWf_iff.2 ⟨Tbl.wf_write ln c hw, fun k x hx => ?_⟩
  rw [lineGet_linePut ln k c hc] at hx
  split at hx
  · exact hd x hx
  · exact hl k x hx

/-- A line that is held shows its bytes. -/
theorem seen_of_line {c : CLine} {a : Nat} (hl : lineGet s (a / 64) = some c) : s.seen a = byteAt c.data (a % 64) := by
  unfold State.seen
  rw [hl]

/-- One that is not shows memory's. -/
theorem seen_of_none {a : Nat} (hl : lineGet s (a / 64) = none) : s.seen a = memRead s.mem a := by
  unfold State.seen
  rw [hl]

/-- A line put in its place shows no other line's bytes. -/
theorem seen_linePut_other {ln a : Nat} (c : Option CLine) (hc : s.cacheWf = true) (ha : a / 64 ≠ ln) :
    (linePut s ln c).seen a = s.seen a := by
  unfold State.seen
  rw [lineGet_linePut ln _ c hc, if_neg ha]
  rfl

theorem seen_linePut_same {ln a : Nat} (d : CLine) (hc : s.cacheWf = true) (ha : a / 64 = ln) :
    (linePut s ln (some d)).seen a = byteAt d.data (a % 64) :=
  seen_of_line (by rw [lineGet_linePut ln _ _ hc, if_pos ha])

/-- A line put in a place whose bytes are none of K's, or shown as before. -/
theorem fills_linePut {ln : Nat} {c : Option CLine} (hm : s.memWf = true) (hc : s.cacheWf = true)
    (hd : ∀ d, c = some d → d.data.length = 64)
    (hs : K ln → ∀ a, a / 64 = ln → (linePut s ln c).seen a = s.seen a) : Fills K s (linePut s ln c) where
  rest := rfl
  hart g := ⟨(hartOf s g).resv, rfl⟩
  memWf := hm
  cacheWf := linePut_wf ln hc hd
  seen a ha := by
    by_cases he : a / 64 = ln
    · exact hs (he ▸ ha) a he
    · exact seen_linePut_other c hc he

/-- A line whose marks alone change. -/
theorem fills_marks {ln : Nat} {c d : CLine} (hm : s.memWf = true) (hc : s.cacheWf = true) (hl : lineGet s ln = some c)
    (hd : d.data = c.data) : Fills K s (linePut s ln (some d)) :=
  fills_linePut hm hc (fun e he => by cases he; rw [hd]; exact (cacheWf_iff.1 hc).2 ln c hl)
    fun _ a ha => by rw [seen_linePut_same d hc ha, seen_of_line (ha ▸ hl), hd]

/-- A byte of a line as memory has it. -/
theorem byteAt_line {ln a : Nat} (ha : a / 64 = ln) : byteAt (s.rd (ln * 64) 64) (a % 64) = memRead s.mem a := by
  have hlt : a % 64 < (memReadN s.mem (ln * 64) 64).length := by
    rw [memReadN_length]
    exact Nat.mod_lt _ (by decide)
  unfold State.rd byteAt
  rw [List.getD_eq_getElem _ _ hlt, memReadN_getElem]
  congr 1
  omega

/-- A line brought from memory. -/
theorem fills_fresh {ln : Nat} {d : CLine} (hm : s.memWf = true) (hc : s.cacheWf = true) (hl : lineGet s ln = none)
    (hd : d.data = s.rd (ln * 64) 64) : Fills K s (linePut s ln (some d)) :=
  fills_linePut hm hc (fun e he => by cases he; rw [hd]; exact memReadN_length ..)
    fun _ a ha => by rw [seen_linePut_same d hc ha, seen_of_none (ha ▸ hl), hd, byteAt_line ha]

/-! ### Victims -/

theorem fills_resvEvict (hm : s.memWf = true) (hc : s.cacheWf = true) (g : HartId) (ln : Nat) :
    Fills K s (resvEvict s g ln) := by
  unfold resvEvict
  split
  · refine ⟨rfl, fun k => ?_, hm, hc, fun _ _ => rfl⟩
    have hk : hartOf (dropResv s g) k = if k = g then { hartOf s g with resv := none } else hartOf s k :=
      hartOf_hartMod s g k _
    rw [hk]
    split
    · next he => exact ⟨none, by rw [he]⟩
    · exact ⟨_, rfl⟩
  · exact .refl hm hc

theorem fills_afterDraw (hm : s.memWf = true) (hc : s.cacheWf = true) : Fills K s (afterDraw s) :=
  ⟨rfl, fun g => ⟨(hartOf s g).resv, rfl⟩, hm, hc, fun _ _ => rfl⟩

/-- A line's way back to memory changes its own bytes there alone. -/
theorem fills_writeBack {ln : Nat} {c : CLine} (hm : s.memWf = true) (hc : s.cacheWf = true)
    (hd : c.data.length = 64) : Fills (· ≠ ln) s (writeBack s h ln c) := by
  unfold writeBack
  split
  · split
    · refine ⟨rfl, fun g => ⟨(hartOf s g).resv, rfl⟩, memWriteN_wf _ _ hm, hc, fun a ha => ?_⟩
      have hmem : memRead (s.wr (ln * 64) c.data).mem a = memRead s.mem a :=
        memRead_memWriteN_out hm (by omega)
      unfold State.seen
      rw [hmem]
      rfl
    · exact ⟨rfl, fun g => ⟨(hartOf s g).resv, rfl⟩, hm, hc, fun _ _ => rfl⟩
  · exact .refl hm hc

/-- A line that leaves the caches takes no other line's bytes with it. -/
theorem fills_dropLine (hm : s.memWf = true) (hc : s.cacheWf = true) (ln : Nat) (b : Bool) :
    Fills (· ≠ ln) s (dropLine s h ln b) := by
  unfold dropLine
  split
  · exact .refl hm hc
  · next c hl =>
    have h₁ : Fills (· ≠ ln) s (if b then writeBack s h ln c else s) := by
      split
      · exact fills_writeBack hm hc ((cacheWf_iff.1 hc).2 ln c hl)
      · exact .refl hm hc
    refine h₁.trans ?_
    have h₂ := fills_linePut (K := (· ≠ ln)) (ln := ln) (c := none) h₁.memWf h₁.cacheWf nofun fun hk => absurd rfl hk
    refine h₂.trans ?_
    have h₃ := fills_resvEvict (K := (· ≠ ln)) h₂.memWf h₂.cacheWf 0 ln
    exact h₃.trans (fills_resvEvict h₃.memWf h₃.cacheWf 1 ln)

@[simp] theorem lineGet_resvEvict (s : State) (g : HartId) (ln l : Nat) :
    lineGet (resvEvict s g ln) l = lineGet s l := by
  unfold resvEvict
  split <;> rfl

@[simp] theorem writeBack_cache (s : State) (g : HartId) (ln : Nat) (c : CLine) :
    (writeBack s g ln c).mast.cache = s.mast.cache := by
  unfold writeBack
  split
  · split <;> rfl
  · rfl

theorem lineGet_dropLine_other {l : Nat} (hc : s.cacheWf = true) (ln : Nat) (b : Bool) (hne : l ≠ ln) :
    lineGet (dropLine s h ln b) l = lineGet s l := by
  unfold dropLine
  split
  · rfl
  · next c _ =>
    have hcache : (if b then writeBack s h ln c else s).mast.cache = s.mast.cache := by split <;> simp
    have hw : (if b then writeBack s h ln c else s).cacheWf = true := by
      unfold State.cacheWf
      rw [hcache]
      exact hc
    dsimp only [resvEvictAll]
    rw [lineGet_resvEvict, lineGet_resvEvict, lineGet_linePut ln l none hw, if_neg hne]
    unfold lineGet
    rw [hcache]

/-- A line found in a set is held there. -/
theorem of_mem_setLines {n ln v : Nat} {p : CLine → Bool} (hc : s.cacheWf = true) (hv : v ∈ setLines s n ln p) :
    v % n = ln % n ∧ ∃ c, lineGet s v = some c := by
  unfold setLines at hv
  obtain ⟨⟨k, o⟩, he, hp⟩ := List.mem_filterMap.1 hv
  cases o with
  | none => cases hp
  | some c =>
    dsimp only at hp
    split at hp
    · next hcond =>
      cases hp
      exact ⟨hcond.1, c, Tbl.read_of_mem (cacheWf_iff.1 hc).1 he⟩
    · cases hp

/-- R373: the victim of a set is a line of that set, and none that was asked for. -/
theorem fills_makeRoom {ln : Nat} (hm : s.memWf = true) (hc : s.cacheWf = true) (hl : lineGet s ln = none) :
    Fills (fun l => l = ln ∨ l % Config.l2Sets ≠ ln % Config.l2Sets) s (makeRoom s h ln) ∧
      lineGet (makeRoom s h ln) ln = none := by
  unfold makeRoom
  dsimp only
  split
  · exact ⟨.refl hm hc, hl⟩
  · split
    · next v hv =>
      obtain ⟨hset, c, hline⟩ := of_mem_setLines hc (List.mem_of_getElem? hv)
      have hne : ln ≠ v := fun he => by rw [he, hline] at hl; cases hl
      have h₁ := fills_afterDraw (K := fun l => l = ln ∨ l % Config.l2Sets ≠ ln % Config.l2Sets) hm hc
      refine ⟨h₁.trans ((fills_dropLine h₁.memWf h₁.cacheWf v true).mono fun l hk he => ?_), ?_⟩
      · rcases hk with rfl | hk
        · exact hne he
        · exact hk (he ▸ hset)
      · exact (lineGet_dropLine_other h₁.cacheWf v true hne).trans hl
    · exact ⟨.refl hm hc, hl⟩

/-! ### Fills -/

@[simp] theorem mark_data (instr b : Bool) (g : HartId) (c : CLine) :
    (if instr then setI g b c else setD g b c).data = c.data := by
  split <;> simp

/-- A held line put back with other marks, once other marks have changed. -/
theorem Fills.put_marks {ln : Nat} {c d : CLine} (hf : Fills (fun _ => True) s u) (hc : s.cacheWf = true)
    (hl : lineGet s ln = some c) (hd : d.data = c.data) : Fills (fun _ => True) s (linePut u ln (some d)) :=
  hf.trans (fills_linePut hf.memWf hf.cacheWf (fun e he => by cases he; rw [hd]; exact (cacheWf_iff.1 hc).2 ln c hl)
    fun _ a ha => by
      rw [seen_linePut_same d hf.cacheWf ha, hf.seen a trivial, seen_of_line (ha ▸ hl), hd])

/-- A line that is held enters a hart's L1. -/
theorem fills_enterL1 {ln : Nat} {c : CLine} (instr : Bool) (hm : s.memWf = true) (hc : s.cacheWf = true)
    (hl : lineGet s ln = some c) : Fills (fun _ => True) s (enterL1 s h instr ln c) := by
  unfold enterL1
  by_cases hin : (if instr = true then inI h c else inD h c) = true
  · rw [if_pos hin]
    exact .refl hm hc
  · rw [if_neg hin]
    extract_lets ls full v evicted
    refine Fills.put_marks ?_ hc hl (mark_data instr true h c)
    unfold evicted
    by_cases hfull : full = true
    · rw [if_pos hfull]
      split
      · next d hd =>
        have h₁ : Fills (fun _ => True) s (afterDraw s) := fills_afterDraw hm hc
        have h₂ := h₁.put_marks hc hd (mark_data instr false h d)
        extract_lets u
        by_cases hi : instr = true
        · rw [if_pos hi]
          exact h₂
        · rw [if_neg hi]
          exact h₂.trans (fills_resvEvict h₂.memWf h₂.cacheWf h v)
      · exact .refl hm hc
    · rw [if_neg hfull]
      exact .refl hm hc

/-- A line just brought from memory. -/
def freshLine (b : Bytes) : CLine :=
  { data := b, dirty := false, inD0 := false, inD1 := false, inI0 := false, inI1 := false, held := false }

/-- R373: a fill of a line leaves the bytes of that line, and of every line of another set, as they look. -/
theorem fills_lineFill {ln : Nat} (instr : Bool) (hm : s.memWf = true) (hc : s.cacheWf = true)
    (hf : lineFill s h instr ln = .ok t) :
    Fills (fun l => l = ln ∨ l % Config.l2Sets ≠ ln % Config.l2Sets) s t := by
  unfold lineFill at hf
  split at hf
  · next c hl =>
    cases hf
    exact (fills_enterL1 instr hm hc hl).mono fun _ _ => trivial
  · next hl =>
    split at hf
    · cases hf
    · cases hf
      obtain ⟨h₁, hl₁⟩ := fills_makeRoom (h := h) hm hc hl
      refine h₁.trans ?_
      have h₂ := fills_fresh (K := fun _ => True) (d := freshLine ((makeRoom s h ln).rd (ln * 64) 64))
        h₁.memWf h₁.cacheWf hl₁ rfl
      exact (h₂.trans (fills_enterL1 instr h₂.memWf h₂.cacheWf (by
        rw [lineGet_linePut ln ln _ h₁.cacheWf, if_pos rfl, freshLine]))).mono fun _ _ => trivial

/-- Lines of sets of their own, brought in one after the other. -/
theorem fills_fillAll {ls : List Nat} (instr : Bool) (hm : s.memWf = true) (hc : s.cacheWf = true)
    (hK : ∀ x ∈ ls, ∀ l, K l → l = x ∨ l % Config.l2Sets ≠ x % Config.l2Sets) (hf : fillAll s h instr ls = .ok t) :
    Fills K s t := by
  induction ls generalizing s with
  | nil =>
    cases hf
    exact .refl hm hc
  | cons x xs ih =>
    unfold fillAll at hf
    split at hf
    · cases hf
    · next u hu =>
      have h₁ := (fills_lineFill instr hm hc hu).mono (hK x List.mem_cons_self)
      exact h₁.trans (ih h₁.memWf h₁.cacheWf (fun y hy => hK y (List.mem_cons_of_mem _ hy)) hf)

/-- The lines of a short range lie in sets of their own. -/
theorem linesOf_sets {a n x y : Nat} (hn : n ≤ 64) (hx : x ∈ linesOf a n) (hy : y ∈ linesOf a n) :
    y = x ∨ y % Config.l2Sets ≠ x % Config.l2Sets := by
  obtain ⟨i, hi, rfl⟩ := List.mem_map.1 hx
  obtain ⟨j, hj, rfl⟩ := List.mem_map.1 hy
  have hi' := List.mem_range.1 hi
  have hj' := List.mem_range.1 hj
  dsimp only [Config.l2Sets]
  omega

theorem mem_linesOf {a n k : Nat} (hk : k < n) : (a + k) / 64 ∈ linesOf a n :=
  List.mem_map.2 ⟨(a + k) / 64 - a / 64, List.mem_range.2 (by omega), by omega⟩

/-- The bytes of a short range as they look, once its lines are in. -/
theorem cachedBytes_fillAll {a n : Nat} (instr : Bool) (hn : n ≤ 64) (hm : s.memWf = true) (hc : s.cacheWf = true)
    (hf : fillAll s h instr (linesOf a n) = .ok t) : Fills (· ∈ linesOf a n) s t ∧
      cachedBytes t a n = (List.range n).map fun k => s.seen (a + k) := by
  have h₁ : Fills (· ∈ linesOf a n) s t := fills_fillAll instr hm hc (fun x hx l hl => linesOf_sets hn hx hl) hf
  exact ⟨h₁, List.map_congr_left fun k hk => h₁.seen _ (mem_linesOf (List.mem_range.1 hk))⟩

end

end Sys2Proof.Machine

end

section

namespace Sys2Proof.Machine

/-! ## Coprocessor words of a Mast hart (O46) -/

section
variable {s t u : State} {h : HartId} {w : W32} {n : Fin 8} {fn : Nat} {rd a1 a2 : Xr} {c : Instr}

/-- The registers, pc included, of hart h are the same in t and u. -/
def SameRegs (t u : State) (h : HartId) : Prop :=
  (hartOf u h).pc = (hartOf t h).pc ∧ (hartOf u h).x = (hartOf t h).x ∧ (hartOf u h).f = (hartOf t h).f ∧
    (hartOf u h).q = (hartOf t h).q

theorem sameRegs_of_eq (hu : hartOf u h = hartOf t h) : SameRegs t u h := by
  unfold SameRegs
  rw [hu]
  exact ⟨rfl, rfl, rfl, rfl⟩

/-- The hart whose coprocessor word gave v. -/
def CpGave (t u : State) (h : HartId) (rd : Xr) (v : W64) : Prop :=
  (hartOf u h).pc = ((hartOf t h).pc + 4) &&& ~~~3 ∧
    (∀ r : Xr, (hartOf u h).getX r = if r = 0 then 0 else if r = rd then v else (hartOf t h).getX r) ∧
    (hartOf u h).f = (hartOf t h).f ∧ (hartOf u h).q = (hartOf t h).q

/-- The state that a result leaves. -/
def cpAfter (u : State) (h : HartId) (rd : Xr) (v : W64) : State :=
  retire (hartMod u h fun x => x.setX rd v) h 1 ((hartOf u h).pc + 4)

theorem cpDone_eq (u : State) (h : HartId) (rd : Xr) (v : W64) : cpDone u h rd v = .done (cpAfter u h rd v) := rfl

theorem cpAfter_trim (u : State) (h : HartId) (rd : Xr) (v : W64) : (cpAfter u h rd v).trim = u.trim := rfl

theorem cpAfter_pht (u : State) (h : HartId) (rd : Xr) (v : W64) : (cpAfter u h rd v).pht = u.pht := rfl

theorem cpAfter_mem (u : State) (h : HartId) (rd : Xr) (v : W64) : (cpAfter u h rd v).mem = u.mem := rfl

theorem cpAfter_cleatB (u : State) (h : HartId) (rd : Xr) (v : W64) : (cpAfter u h rd v).cleatB = u.cleatB := rfl

theorem cpAfter_rd (u : State) (h : HartId) (rd : Xr) (v : W64) (a n : Nat) : (cpAfter u h rd v).rd a n = u.rd a n := rfl

theorem cpGave_cpAfter {v : W64} (hs : SameRegs t u h) : CpGave t (cpAfter u h rd v) h rd v := by
  obtain ⟨hpc, hx, hf, hq⟩ := hs
  obtain ⟨hg, hf', hq', -, -, -⟩ := Hart.hasPut_setX (hartOf u h) rd v 1
    (drawn (hartMod u h fun x => x.setX rd v) .cycles) ((hartOf u h).pc + 4)
  unfold CpGave cpAfter
  rw [hartOf_retire_mod]
  refine ⟨by rw [← hpc]; rfl, fun r => (hg r).trans ?_, hf'.trans hf, hq'.trans hq⟩
  unfold Hart.getX
  rw [hx]

/-- A coprocessor word that gives a result. -/
theorem gives_of_cp {v : W64} {P : State → Prop} (hi : HartIssues s t h w (.cp n fn rd a1 a2))
    (hc : exec c s = runCls s h (LuOp.cp n fn rd a1 a2).cls) (hop : issueCp t h w n fn rd a1 a2 = cpDone u h rd v)
    (hP : P (cpAfter u h rd v)) : Gives c s P :=
  ⟨_, by rw [hc, runCls_of_issues hi rfl, issueSpec_of_none rfl]
         exact congrArg (Issue.outcome h) hop, hP⟩

/-- The same with what it leaves in the hart. -/
theorem gave_of_cp {v : W64} {P : State → Prop} (hi : HartIssues s t h w (.cp n fn rd a1 a2))
    (hc : exec c s = runCls s h (LuOp.cp n fn rd a1 a2).cls) (hop : issueCp t h w n fn rd a1 a2 = cpDone u h rd v)
    (hs : SameRegs t u h) (hP : P (cpAfter u h rd v)) : Gives c s fun y =>
      (hartOf y h).pc = ((hartOf t h).pc + 4) &&& ~~~3 ∧
      (∀ r : Xr, (hartOf y h).getX r = if r = 0 then 0 else if r = rd then v else (hartOf t h).getX r) ∧
      (hartOf y h).f = (hartOf t h).f ∧ (hartOf y h).q = (hartOf t h).q ∧ P y := by
  obtain ⟨hpc, hg, hf, hq⟩ := cpGave_cpAfter (rd := rd) (v := v) hs
  exact gives_of_cp hi hc hop ⟨hpc, hg, hf, hq, hP⟩

/-! ### Which coprocessor takes the word (R352, R353) -/

/-- A coprocessor that SV_CPEN, or the level, opens. -/
def CpOpen (t : State) (h : HartId) (n : Fin 8) : Prop := (hartOf t h).sup = true ∨ (hartOf t h).cpen.getLsbD n.val = true

theorem CpOpen.closed (ho : CpOpen t h n) : (!(hartOf t h).sup && !(hartOf t h).cpen.getLsbD n.val) = false := by
  rcases ho with ho | ho <;> simp only [ho, Bool.not_true, Bool.false_and, Bool.and_false]

theorem issueCp_closed (hs : (hartOf t h).sup = false) (hn : (hartOf t h).cpen.getLsbD n.val = false) :
    issueCp t h w n fn rd a1 a2 = illegal t w := by
  unfold issueCp
  dsimp only
  split
  · rfl
  · exact if_pos (by rw [hs, hn]; rfl)

theorem issueCp_zero (ho : CpOpen t h 0) : issueCp t h w 0 fn rd a1 a2 = issueCp0 t h w fn rd a1 :=
  if_neg (by rw [ho.closed]; exact Bool.false_ne_true)

theorem issueCp_one (ho : CpOpen t h 1) : issueCp t h w 1 fn rd a1 a2 = issueCp1 t h w fn rd a1 a2 :=
  if_neg (by rw [ho.closed]; exact Bool.false_ne_true)

theorem issueCp_two (ho : CpOpen t h 2) : issueCp t h w 2 fn rd a1 a2 = issueCp2 t h w fn rd a1 a2 :=
  if_neg (by rw [ho.closed]; exact Bool.false_ne_true)

theorem issueCp_customer (hn : 4 ≤ n.val) (ho : CpOpen t h n) : issueCp t h w n fn rd a1 a2 =
    if cpxPresent t (Fin.ofNat 4 (n.val - 4)) then issueCpx t h n.val fn rd ((hartOf t h).getX a1) ((hartOf t h).getX a2)
    else illegal t w := by
  have hclosed := ho.closed
  unfold issueCp
  dsimp only
  rw [if_neg (by rintro rfl; revert hn; decide), if_neg (by rw [hclosed]; exact Bool.false_ne_true)]
  split
  · exact absurd hn (by decide)
  · exact absurd hn (by decide)
  · exact absurd hn (by decide)
  · rfl

/-- The command of each listed operation runs its class. -/
theorem cp_command (s : State) (h : HartId) (rd a1 a2 : Xr) (fn : Nat) {e : Fin 8 × Nat × Instr}
    (he : e ∈ [((0 : Fin 8), 0, Instr.cp0Post h), (0, 1, .cp0Qstat h), (0, 2, .cp0Doorbell h), (1, 0, .trimLoad (.cp1 h)),
        (1, 1, .trimRun (.cp1 h)), (1, 2, .trimReplay (.cp1 h)), (1, 3, .trimAbort (.cp1 h)), (1, 4, .trimStatus h),
        (1, 5, .trimEnergy h), (1, 6, .trimRdreg h), (1, 7, .trimWrreg h), (2, 0, .cp2Rdreg h), (2, 1, .cp2Wrreg h),
        (2, 2, .cp2Ntstep h), (2, 3, .cp2Rdnow h)]) (hf : fn % 16 = e.2.1) :
    exec e.2.2 s = runCls s h (LuOp.cp e.1 fn rd a1 a2).cls := by
  have h0 : ∀ k, fn % 16 = k → runCls s h (.cp0 k) = runCls s h (.cp0 (fn % 16)) := fun k hk => by rw [hk]
  have h1 : ∀ k, fn % 16 = k → runCls s h (.cp1 k) = runCls s h (.cp1 (fn % 16)) := fun k hk => by rw [hk]
  have h2 : ∀ k, fn % 16 = k → runCls s h (.cp2 k) = runCls s h (.cp2 (fn % 16)) := fun k hk => by rw [hk]
  revert hf
  revert e
  simp only [List.forall_mem_cons, List.not_mem_nil, false_imp_iff, implies_true, and_true]
  exact ⟨h0 0, h0 1, h0 2, h1 0, h1 1, h1 2, h1 3, h1 4, h1 5, h1 6, h1 7, h2 0, h2 1, h2 2, h2 3⟩

/-! ### CP0: queues and doorbells -/

theorem issueCp0_qstat (hf : fn % 16 = 1) : issueCp0 t h w fn rd a1 =
    cpDone t h rd (BitVec.ofNat 64 (clbStat (t.cleatB.get (Fin.ofNat 8 (fn / 16))))) := by
  unfold issueCp0
  rw [hf]
  rfl

theorem issueCp0_doorbell (hf : fn % 16 = 2) : issueCp0 t h w fn rd a1 =
    if !domUp t 12 then .trap 0x07 2 (cpInfo 0 fn) false t
    else cpDone (allCores.foldl (fun u c => if bitOf ((hartOf t h).getX a1).toNat c.val && domUp u (sparDom c)
      then irqRaise u c 4 else u) t) h rd 0 := by
  unfold issueCp0
  rw [hf]
  rfl

/-- The cores that a doorbell names and that have power take it. -/
theorem doorbell_irq {p : CoreId → Bool} {l : List CoreId} (hl : l.Nodup) (t : State) (c : CoreId) :
    (coreOf (l.foldl (fun u c => if p c && domUp u (sparDom c) then irqRaise u c 4 else u) t) c).irq =
      if c ∈ l ∧ (p c && domUp t (sparDom c)) = true then (coreOf t c).irq ||| (1#5 <<< 4) else (coreOf t c).irq := by
  induction l generalizing t with
  | nil => simp
  | cons d l ih =>
    obtain ⟨hd, hl⟩ := List.nodup_cons.1 hl
    rw [List.foldl_cons, ih hl]
    have hup : domUp (if p d && domUp t (sparDom d) then irqRaise t d 4 else t) (sparDom c) = domUp t (sparDom c) := by
      split <;> rfl
    rw [hup]
    by_cases hc : c = d
    · subst hc
      rw [if_neg (fun hm => hd hm.1)]
      by_cases hon : (p c && domUp t (sparDom c)) = true
      · rw [if_pos hon, if_pos ⟨List.mem_cons_self, hon⟩]
        exact congrArg SparCore.irq (coreOf_coreMod_same t c _)
      · rw [if_neg hon, if_neg (fun hm => hon hm.2)]
    · have hcore : coreOf (if p d && domUp t (sparDom d) then irqRaise t d 4 else t) c = coreOf t c := by
        split
        · exact (coreOf_coreMod t d c _).trans (if_neg hc)
        · rfl
      rw [hcore]
      refine if_congr ?_ rfl rfl
      simp [hc]

theorem issueCp0_misaligned (hf : fn % 16 = 0) (ha : ((hartOf t h).getX a1).toNat % 8 ≠ 0) :
    issueCp0 t h w fn rd a1 = .trap 0x05 0 ((hartOf t h).getX a1).toNat false t := by
  unfold issueCp0
  rw [hf]
  exact if_pos ha

theorem issueCp0_notOwner (hf : fn % 16 = 0) (ha : ((hartOf t h).getX a1).toNat % 8 = 0)
    (ho : (t.cleatB.get (Fin.ofNat 8 (fn / 16))).owner ≠ 3) : issueCp0 t h w fn rd a1 = cpDone
      { t with cleatB := vmod t.cleatB (Fin.ofNat 8 (fn / 16)) fun y => { y with ownerErr := true } } h rd (-2) := by
  unfold issueCp0
  rw [hf]
  exact (if_neg (not_not.2 ha)).trans (if_pos ho)

theorem issueCp0_full (hf : fn % 16 = 0) (ha : ((hartOf t h).getX a1).toNat % 8 = 0)
    (ho : (t.cleatB.get (Fin.ofNat 8 (fn / 16))).owner = 3)
    (hu : 256 ≤ ((t.cleatB.get (Fin.ofNat 8 (fn / 16))).post - (t.cleatB.get (Fin.ofNat 8 (fn / 16))).read).toNat) :
    issueCp0 t h w fn rd a1 = cpDone
      { t with cleatB := vmod t.cleatB (Fin.ofNat 8 (fn / 16)) fun y => { y with ovf := true } } h rd (-1) := by
  unfold issueCp0
  rw [hf]
  exact ((if_neg (not_not.2 ha)).trans (if_neg (not_not.2 ho))).trans (if_pos hu)

/-- The job record at an address of plain memory, as the caches show it once its lines are in. -/
theorem loadHere_plain {p k : Nat} (hk : k ≤ 64) (hm : t.memWf = true) (hc : t.cacheWf = true)
    (hd : deviceAt t h (hartOf t h).sup p k = false) (hsb : (hartOf t h).sb = []) :
    ∃ u, loadHere t h p k = ((List.range k).map fun i => t.seen (p + i), u) ∧ Fills (· ∈ linesOf p k) t u := by
  unfold loadHere
  rw [hd, hsb, if_neg Bool.false_ne_true]
  dsimp only [youngest, List.zipIdx_nil, List.foldl_nil]
  split
  · next u hf =>
    obtain ⟨hfill, hb⟩ := cachedBytes_fillAll false hk hm hc hf
    exact ⟨u, by rw [hb], hfill⟩
  · exact ⟨t, rfl, .refl hm hc⟩

theorem loadCheck_plain {q : Bool} {a p k : Nat} (hhi : a < 2 ^ 48) (hp : placeOf t a = .here p)
    (hact : actCheck t (hartInit h (hartOf t h).sup) accLoad p k = none) (hd : deviceAt t h (hartOf t h).sup p k = false)
    (hbus : busErr t p k = none) : loadCheck t h q a k = .ok () t := by
  unfold loadCheck
  dsimp only
  rw [if_neg (by simpa [highAddr] using hhi), hp]
  dsimp only
  rw [hact]
  dsimp only
  rw [hd, Bool.and_false, Bool.false_and, if_neg Bool.false_ne_true, hbus]

theorem drainAll_empty (hsb : (hartOf t h).sb = []) : drainAll t h = t := by
  unfold drainAll
  rw [hsb]
  rfl

/-- R22: a queue with room takes the job. -/
theorem cp0Post_room {q : QueueId} {b : Bytes} (hu : ((t.cleatB.get q).post - (t.cleatB.get q).read).toNat < 256) :
    cp0Post t q b = some ((t.cleatB.get q).post.toNat % 256, { t.wr (slotAddr q (t.cleatB.get q).post) b with
      cleatB := vput t.cleatB q { t.cleatB.get q with post := (t.cleatB.get q).post + 1 } }) :=
  if_neg (by
    have h1 : (t.cleatB.get q).post + 1 - (t.cleatB.get q).read = (t.cleatB.get q).post - (t.cleatB.get q).read + 1 := by ring
    rw [h1, BitVec.toNat_add]
    have := Nat.mod_le (((t.cleatB.get q).post - (t.cleatB.get q).read).toNat + (1 : BitVec 9).toNat) (2 ^ 9)
    have h2 : (1 : BitVec 9).toNat = 1 := rfl
    omega)

/-- A POST with room, of a record in plain memory with nothing buffered. -/
theorem issueCp0_posted {p : Nat} (hf : fn % 16 = 0) (ha : ((hartOf t h).getX a1).toNat % 8 = 0)
    (ho : (t.cleatB.get (Fin.ofNat 8 (fn / 16))).owner = 3)
    (hu : ((t.cleatB.get (Fin.ofNat 8 (fn / 16))).post - (t.cleatB.get (Fin.ofNat 8 (fn / 16))).read).toNat < 256)
    (hhi : ((hartOf t h).getX a1).toNat < 2 ^ 48) (hp : placeOf t ((hartOf t h).getX a1).toNat = .here p)
    (hact : actCheck t (hartInit h (hartOf t h).sup) accLoad p 56 = none)
    (hd : deviceAt t h (hartOf t h).sup p 56 = false) (hsb : (hartOf t h).sb = []) (hbus : busErr t p 56 = none)
    (hm : t.memWf = true) (hc : t.cacheWf = true) : ∃ y : State, SameRegs t y h ∧
      y.cleatB = vput t.cleatB (Fin.ofNat 8 (fn / 16)) { t.cleatB.get (Fin.ofNat 8 (fn / 16)) with
        post := (t.cleatB.get (Fin.ofNat 8 (fn / 16))).post + 1 } ∧
      y.rd (slotAddr (Fin.ofNat 8 (fn / 16)) (t.cleatB.get (Fin.ofNat 8 (fn / 16))).post) 56 =
        ((List.range 56).map fun i => t.seen (p + i)) ∧
      issueCp0 t h w fn rd a1 =
        cpDone y h rd (BitVec.ofNat 64 ((t.cleatB.get (Fin.ofNat 8 (fn / 16))).post.toNat % 256)) := by
  obtain ⟨u, hload, hfill⟩ := loadHere_plain (k := 56) (by decide) hm hc hd hsb
  have hlen : ((List.range 56).map fun i => t.seen (p + i)).length = 56 := by rw [List.length_map, List.length_range]
  generalize ((List.range 56).map fun i => t.seen (p + i)) = bs at *
  have hq : u.cleatB = t.cleatB := by
    show u.sansCaches.cleatB = t.sansCaches.cleatB
    rw [hfill.rest]
  have hdo : doLoad t h ((hartOf t h).getX a1).toNat 56 = .ok bs u := by
    unfold doLoad
    rw [hp]
    dsimp only
    rw [hload]
  have hpost := cp0Post_room (t := u) (q := Fin.ofNat 8 (fn / 16)) (b := bs) (by rw [hq]; exact hu)
  rw [hq] at hpost
  obtain ⟨r, hr⟩ := hfill.hart h
  refine ⟨{ u.wr (slotAddr (Fin.ofNat 8 (fn / 16)) (t.cleatB.get (Fin.ofNat 8 (fn / 16))).post) bs with
    cleatB := vput t.cleatB (Fin.ofNat 8 (fn / 16)) { t.cleatB.get (Fin.ofNat 8 (fn / 16)) with
      post := (t.cleatB.get (Fin.ofNat 8 (fn / 16))).post + 1 } }, ?_, rfl, ?_, ?_⟩
  · show (hartOf u h).pc = _ ∧ (hartOf u h).x = _ ∧ (hartOf u h).f = _ ∧ (hartOf u h).q = _
    rw [hr]
    exact ⟨rfl, rfl, rfl, rfl⟩
  · rw [← hlen]
    exact State.rd_wr _ bs hfill.memWf
  · unfold issueCp0
    rw [hf]
    refine ((if_neg (not_not.2 ha)).trans (if_neg (not_not.2 ho))).trans ((if_neg (by omega)).trans ?_)
    rw [loadCheck_plain hhi hp hact hd hbus]
    dsimp only [MemRes.bind]
    rw [drainAll_empty hsb, hdo]
    dsimp only [MemRes.bind]
    rw [hpost]

/-! ### CP1: Trim (Table 9-4) -/

theorem issueCp1_off (hf : fn % 16 < 8) (hd : domUp t 10 = false) :
    issueCp1 t h w fn rd a1 a2 = .trap 0x07 2 (cpInfo 1 fn) false t := by
  unfold issueCp1
  dsimp only
  rw [if_neg (by omega), hd]
  rfl

/-- The unit answers. -/
theorem issueCp1_on (hf : fn % 16 < 8) (hd : domUp t 10 = true) : issueCp1 t h w fn rd a1 a2 =
    match fn % 16 with
    | 4 => cpDone t h rd (BitVec.ofNat 64 (trmStat t.trim))
    | 5 => cpDone t h rd (BitVec.ofInt 64 t.trim.energy.toInt)
    | 6 => cpDone t h rd (BitVec.ofNat 64 (trmRegRead t ((hartOf t h).getX a1).toNat))
    | 7 => cpDone (trmRegWrite t ((hartOf t h).getX a1).toNat ((hartOf t h).getX a2)) h rd
        (BitVec.ofNat 64 (Config.freeOf .unspecified [0xC1, fn, ((hartOf t h).getX a1).toNat]))
    | k => cpDone (trimCmd t k (((hartOf t h).getX a1).toNat % 2 ^ 48)) h rd
        (BitVec.ofNat 64 (Config.freeOf .unspecified [0xC1, fn, ((hartOf t h).getX a1).toNat])) := by
  unfold issueCp1
  dsimp only
  rw [if_neg (by omega), hd, if_neg (by decide)] <;> rfl

/-- Functions 0 to 3 are the commands. -/
theorem issueCp1_command (hf : fn % 16 < 4) (hd : domUp t 10 = true) : issueCp1 t h w fn rd a1 a2 =
    cpDone (trimCmd t (fn % 16) (((hartOf t h).getX a1).toNat % 2 ^ 48)) h rd
      (BitVec.ofNat 64 (Config.freeOf .unspecified [0xC1, fn, ((hartOf t h).getX a1).toNat])) := by
  rw [issueCp1_on (by omega) hd]
  split <;> first | omega | rfl

theorem issueCp1_status (hf : fn % 16 = 4) (hd : domUp t 10 = true) :
    issueCp1 t h w fn rd a1 a2 = cpDone t h rd (BitVec.ofNat 64 (trmStat t.trim)) := by
  rw [issueCp1_on (by omega) hd]
  simp only [hf]

theorem issueCp1_energy (hf : fn % 16 = 5) (hd : domUp t 10 = true) :
    issueCp1 t h w fn rd a1 a2 = cpDone t h rd (BitVec.ofInt 64 t.trim.energy.toInt) := by
  rw [issueCp1_on (by omega) hd]
  simp only [hf]

theorem issueCp1_read (hf : fn % 16 = 6) (hd : domUp t 10 = true) : issueCp1 t h w fn rd a1 a2 =
    cpDone t h rd (BitVec.ofNat 64 (trmRegRead t ((hartOf t h).getX a1).toNat)) := by
  rw [issueCp1_on (by omega) hd]
  simp only [hf]

theorem issueCp1_write (hf : fn % 16 = 7) (hd : domUp t 10 = true) : issueCp1 t h w fn rd a1 a2 =
    cpDone (trmRegWrite t ((hartOf t h).getX a1).toNat ((hartOf t h).getX a2)) h rd
      (BitVec.ofNat 64 (Config.freeOf .unspecified [0xC1, fn, ((hartOf t h).getX a1).toNat])) := by
  rw [issueCp1_on (by omega) hd]
  simp only [hf]

/-! ### CP2: PHT (chapter 2) -/

theorem issueCp2_read (hf : fn % 16 = 0) : issueCp2 t h w fn rd a1 a2 =
    cpDone (phtRegRead t ((hartOf t h).getX a1).toNat).2 h rd
      (BitVec.ofNat 64 (phtRegRead t ((hartOf t h).getX a1).toNat).1) := by
  unfold issueCp2
  rw [hf]
  rfl

theorem issueCp2_write (hf : fn % 16 = 1) : issueCp2 t h w fn rd a1 a2 =
    cpDone (phtRegWrite t ((hartOf t h).getX a1).toNat (((hartOf t h).getX a2).extractLsb' 0 32)) h rd 0 := by
  unfold issueCp2
  rw [hf]
  rfl

theorem issueCp2_step (hf : fn % 16 = 2) : issueCp2 t h w fn rd a1 a2 =
    cpDone { t with pht := t.pht.stepNt ((hartOf t h).getX a1).toInt } h rd 0 := by
  unfold issueCp2
  rw [hf]
  rfl

theorem issueCp2_now (hf : fn % 16 = 3) : issueCp2 t h w fn rd a1 a2 =
    if bits fn 4 3 ≤ 4 then cpDone t h rd (BitVec.ofNat 64 (rdNow t (bits fn 4 3))) else illegal t w := by
  unfold issueCp2
  rw [hf]
  rfl

theorem phtRegWrite_mem (t : State) (a : Nat) (v : W32) : (phtRegWrite t a v).mem = t.mem := by
  unfold phtRegWrite
  split <;> rfl

theorem phtRegWrite_hart (t : State) (a : Nat) (v : W32) (g : HartId) : hartOf (phtRegWrite t a v) g = hartOf t g := by
  unfold phtRegWrite
  split <;> rfl

/-! ### CP4 to CP7: customer logic -/

/-- The state once an operation has gone out. -/
def cpxSent (t : State) (h : HartId) (n : Fin 8) (fn : Nat) (rd a1 a2 : Xr) : State :=
  enqueue (emit { t with
      fab.nextTag := t.fab.nextTag + 1,
      fab.remotes := t.fab.remotes ++ [{ tag := t.fab.nextTag, home := ownChip t,
                                         wait := .cp h (Fin.ofNat 8 n.val) fn (if rd = 0 then none else some rd) }] }
    (.attach (attachPort (Fin.ofNat 4 (n.val - 4))) h (toLE 1 n.val ++ toLE 2 fn ++ toLE 8 ((hartOf t h).getX a1).toNat ++
      toLE 8 ((hartOf t h).getX a2).toNat))) none (attachPort (Fin.ofNat 4 (n.val - 4)))
    (mkMessage mkCpx (ownChip t).val (ownChip t).val t.fab.nextTag.toNat 0 0 (b2n (hartOf t h).sup) 0
      (toLE 16 (Config.freeOf .unspecified [0xC4, n.val, fn, ((hartOf t h).getX a1).toNat, ((hartOf t h).getX a2).toNat])))

theorem issueCpx_sent (hw : ¬ (rd = 0 ∧ 4 ≤ (hartOf t h).cpOut)) (hr : t.fab.remotes.length < 256) :
    issueCpx t h n.val fn rd ((hartOf t h).getX a1) ((hartOf t h).getX a2) =
      if rd = 0 then step1 (cpxSent t h n fn rd a1 a2) h fun x => { x with cpOut := x.cpOut + 1 }
      else .done (hartMod (cpxSent t h n fn rd a1 a2) h fun x => { x with cpWait := some rd }) :=
  (if_neg hw).trans (if_neg (by omega))

theorem issueCpx_waits (hw : rd = 0 ∧ 4 ≤ (hartOf t h).cpOut) (a b : W64) : issueCpx t h n.val fn rd a b = .wait t :=
  if_pos hw

theorem cpxSent_remotes (t : State) (h : HartId) (n : Fin 8) (fn : Nat) (rd a1 a2 : Xr) :
    (cpxSent t h n fn rd a1 a2).fab.remotes = t.fab.remotes ++
      [{ tag := t.fab.nextTag, home := ownChip t, wait := .cp h n fn (if rd = 0 then none else some rd) }] := by
  have hn : Fin.ofNat 8 n.val = n := Fin.ext (Nat.mod_eq_of_lt n.isLt)
  show (cpxSent t h n fn rd a1 a2).sansShl.fab.remotes = _
  rw [cpxSent, enqueue_shl, hn]
  rfl

theorem cpxSent_hart (t : State) (h : HartId) (n : Fin 8) (fn : Nat) (rd a1 a2 : Xr) :
    hartOf (cpxSent t h n fn rd a1 a2) h = hartOf t h := by
  show (cpxSent t h n fn rd a1 a2).sansShl.mast.harts.get h = _
  rw [cpxSent, enqueue_shl]
  rfl

/-! ### Answers of customer logic (R349, R350) -/

/-- The answer of a request that is waited for. -/
theorem cpxresp_found {tag : BitVec 12} {r : Remote} {q : Option Xr} (a : Answer) (hctl : ctlUp s = true)
    (hr : (s.fab.remotes.find? fun r => r.tag == tag) = some r) (hw : r.wait = .cp h n fn q) :
    exec (.cpxresp tag a) s = .next (cpxEnd { s with fab.remotes := s.fab.remotes.erase r } h n fn q a) := by
  show execCpxresp tag a s = _
  unfold execCpxresp
  rw [hr]
  dsimp only
  rw [hw]
  exact if_pos hctl

theorem cpxresp_other {tag : BitVec 12} (a : Answer)
    (hno : ∀ r : Remote, (s.fab.remotes.find? fun r => r.tag == tag) = some r →
      ∀ (h : HartId) (n : Fin 8) (fn : Nat) (rd : Option Xr), r.wait ≠ .cp h n fn rd) :
    exec (.cpxresp tag a) s = .next s := by
  show execCpxresp tag a s = _
  unfold execCpxresp
  split
  · next r hr =>
    split
    · next h n fn rd hw => exact absurd hw (hno r hr h n fn rd)
    · rfl
  · rfl

/-- Every listed function is below 8. -/
theorem cp_command_lt (h : HartId) {e : Fin 8 × Nat × Instr}
    (he : e ∈ [((0 : Fin 8), 0, Instr.cp0Post h), (0, 1, .cp0Qstat h), (0, 2, .cp0Doorbell h), (1, 0, .trimLoad (.cp1 h)),
        (1, 1, .trimRun (.cp1 h)), (1, 2, .trimReplay (.cp1 h)), (1, 3, .trimAbort (.cp1 h)), (1, 4, .trimStatus h),
        (1, 5, .trimEnergy h), (1, 6, .trimRdreg h), (1, 7, .trimWrreg h), (2, 0, .cp2Rdreg h), (2, 1, .cp2Wrreg h),
        (2, 2, .cp2Ntstep h), (2, 3, .cp2Rdnow h)]) : e.2.1 < 8 := by
  revert he
  revert e
  simp only [List.forall_mem_cons, List.not_mem_nil, false_imp_iff, implies_true, and_true]
  decide

/-- The Trim command of a function is one of those listed. -/
theorem trim_command (hc : c ∈ [Instr.trimLoad (.cp1 h), .trimRun (.cp1 h), .trimReplay (.cp1 h), .trimAbort (.cp1 h)][fn % 16]?) :
    fn % 16 < 4 ∧ ((1 : Fin 8), fn % 16, c) ∈ [((0 : Fin 8), 0, Instr.cp0Post h), (0, 1, .cp0Qstat h), (0, 2, .cp0Doorbell h),
        (1, 0, .trimLoad (.cp1 h)), (1, 1, .trimRun (.cp1 h)), (1, 2, .trimReplay (.cp1 h)), (1, 3, .trimAbort (.cp1 h)),
        (1, 4, .trimStatus h), (1, 5, .trimEnergy h), (1, 6, .trimRdreg h), (1, 7, .trimWrreg h), (2, 0, .cp2Rdreg h),
        (2, 1, .cp2Wrreg h), (2, 2, .cp2Ntstep h), (2, 3, .cp2Rdnow h)] := by
  generalize fn % 16 = k at hc
  match k with
  | 0 => cases hc; exact ⟨by decide, by simp⟩
  | 1 => cases hc; exact ⟨by decide, by simp⟩
  | 2 => cases hc; exact ⟨by decide, by simp⟩
  | 3 => cases hc; exact ⟨by decide, by simp⟩
  | k + 4 => cases hc

theorem rdNow_phase {i : Fin 4} (hk : bits fn 4 3 = i.val) :
    BitVec.ofNat 64 (rdNow t (bits fn 4 3)) = (t.pht.record.phases.get i).setWidth 64 := by
  have hi : Fin.ofNat 4 i.val = i := Fin.ext (Nat.mod_eq_of_lt i.isLt)
  rw [hk, rdNow, if_pos i.isLt, hi, BitVec.ofNat_toNat]

theorem rdNow_nt : BitVec.ofNat 64 (rdNow t 4) = t.pht.record.nt := by
  rw [rdNow, if_neg (by decide)]
  simp [BitVec.ofNat_toNat]

theorem cpx_cls (hn : 4 ≤ n.val) : (LuOp.cp n fn rd a1 a2).cls = .cpx := by
  match n, hn with
  | 4, _ => rfl
  | 5, _ => rfl
  | 6, _ => rfl
  | 7, _ => rfl

/-! ### Each operation as the hart runs it -/

theorem cp0_run {k : Nat} (hf : fn % 16 = k) (hc : exec c s = runCls s h (.cp0 k)) :
    exec c s = runCls s h (LuOp.cp 0 fn rd a1 a2).cls := hc.trans (congrArg (fun k => runCls s h (.cp0 k)) hf.symm)

theorem cp1_run {k : Nat} (hf : fn % 16 = k) (hc : exec c s = runCls s h (.cp1 k)) :
    exec c s = runCls s h (LuOp.cp 1 fn rd a1 a2).cls := hc.trans (congrArg (fun k => runCls s h (.cp1 k)) hf.symm)

theorem cp2_run {k : Nat} (hf : fn % 16 = k) (hc : exec c s = runCls s h (.cp2 k)) :
    exec c s = runCls s h (LuOp.cp 2 fn rd a1 a2).cls := hc.trans (congrArg (fun k => runCls s h (.cp2 k)) hf.symm)

/-- A coprocessor word has given v, and P holds of what it leaves. -/
def CpWith (c : Instr) (s t : State) (h : HartId) (rd : Xr) (v : W64) (P : State → Prop) : Prop :=
  Gives c s fun y =>
    (hartOf y h).pc = ((hartOf t h).pc + 4) &&& ~~~3 ∧
    (∀ r : Xr, (hartOf y h).getX r = if r = 0 then 0 else if r = rd then v else (hartOf t h).getX r) ∧
    (hartOf y h).f = (hartOf t h).f ∧ (hartOf y h).q = (hartOf t h).q ∧ P y

theorem cp0_with {k : Nat} {v : W64} {P : State → Prop} (hi : HartIssues s t h w (.cp 0 fn rd a1 a2)) (ho : CpOpen t h 0)
    (hf : fn % 16 = k) (hc : exec c s = runCls s h (.cp0 k)) (hop : issueCp0 t h w fn rd a1 = cpDone u h rd v)
    (hs : SameRegs t u h) (hP : P (cpAfter u h rd v)) : CpWith c s t h rd v P :=
  gave_of_cp hi (cp0_run hf hc) ((issueCp_zero ho).trans hop) hs hP

theorem cp1_with {k : Nat} {v : W64} {P : State → Prop} (hi : HartIssues s t h w (.cp 1 fn rd a1 a2)) (ho : CpOpen t h 1)
    (hf : fn % 16 = k) (hc : exec c s = runCls s h (.cp1 k)) (hop : issueCp1 t h w fn rd a1 a2 = cpDone u h rd v)
    (hs : SameRegs t u h) (hP : P (cpAfter u h rd v)) : CpWith c s t h rd v P :=
  gave_of_cp hi (cp1_run hf hc) ((issueCp_one ho).trans hop) hs hP

theorem cp2_with {k : Nat} {v : W64} {P : State → Prop} (hi : HartIssues s t h w (.cp 2 fn rd a1 a2)) (ho : CpOpen t h 2)
    (hf : fn % 16 = k) (hc : exec c s = runCls s h (.cp2 k)) (hop : issueCp2 t h w fn rd a1 a2 = cpDone u h rd v)
    (hs : SameRegs t u h) (hP : P (cpAfter u h rd v)) : CpWith c s t h rd v P :=
  gave_of_cp hi (cp2_run hf hc) ((issueCp_two ho).trans hop) hs hP

/-- The cores' line 4 after a doorbell. -/
theorem cp0Doorbell_rings (hi : HartIssues s t h w (.cp 0 fn rd a1 a2)) (ho : CpOpen t h 0) (hf : fn % 16 = 2)
    (hd : domUp t 12 = true) : CpWith (.cp0Doorbell h) s t h rd 0 fun u => u.mem = t.mem ∧ ∀ c : CoreId,
      (coreOf u c).irq = if bitOf ((hartOf t h).getX a1).toNat c.val && domUp t (sparDom c)
        then (coreOf t c).irq ||| (1#5 <<< 4) else (coreOf t c).irq := by
  have hop := (issueCp0_doorbell (h := h) (w := w) (rd := rd) (a1 := a1) hf).trans (if_neg (by rw [hd]; decide))
  have hirq := doorbell_irq (p := fun c => bitOf ((hartOf t h).getX a1).toNat c.val) (l := allCores)
    (List.nodup_ofFn.2 fun _ _ he => he) t
  have hview : ∀ l : List CoreId, (fun v : State => (v.mast, v.mem)) (l.foldl (fun u c =>
      if bitOf ((hartOf t h).getX a1).toNat c.val && domUp u (sparDom c) then irqRaise u c 4 else u) t) = (t.mast, t.mem) :=
    fun l => foldl_view (V := fun v : State => (v.mast, v.mem)) (fun u c => by split <;> rfl) l t
  specialize hview allCores
  generalize allCores.foldl (fun u c =>
    if bitOf ((hartOf t h).getX a1).toNat c.val && domUp u (sparDom c) then irqRaise u c 4 else u) t = u at *
  obtain ⟨hmast, hmem⟩ := Prod.mk.inj hview
  refine cp0_with hi ho hf rfl hop (sameRegs_of_eq (congrArg (fun m : Mast => m.harts.get h) hmast)) ⟨hmem, fun c => ?_⟩
  exact (hirq c).trans (if_congr (and_iff_right (List.mem_ofFn.2 ⟨c, rfl⟩)) rfl rfl)

/-- R22: a job of plain memory posted. -/
theorem cp0Post_posts {p : Nat} (hi : HartIssues s t h w (.cp 0 fn rd a1 a2)) (ho : CpOpen t h 0) (hf : fn % 16 = 0)
    (ha : ((hartOf t h).getX a1).toNat % 8 = 0) (hown : (t.cleatB.get (Fin.ofNat 8 (fn / 16))).owner = 3)
    (hu : ((t.cleatB.get (Fin.ofNat 8 (fn / 16))).post - (t.cleatB.get (Fin.ofNat 8 (fn / 16))).read).toNat < 256)
    (hhi : ((hartOf t h).getX a1).toNat < 2 ^ 48) (hp : placeOf t ((hartOf t h).getX a1).toNat = .here p)
    (hact : actCheck t (hartInit h (hartOf t h).sup) accLoad p 56 = none)
    (hd : deviceAt t h (hartOf t h).sup p 56 = false) (hsb : (hartOf t h).sb = []) (hbus : busErr t p 56 = none)
    (hm : t.memWf = true) (hc : t.cacheWf = true) : CpWith (.cp0Post h) s t h rd
      (BitVec.ofNat 64 ((t.cleatB.get (Fin.ofNat 8 (fn / 16))).post.toNat % 256)) fun u =>
        u.cleatB = vput t.cleatB (Fin.ofNat 8 (fn / 16)) { t.cleatB.get (Fin.ofNat 8 (fn / 16)) with
          post := (t.cleatB.get (Fin.ofNat 8 (fn / 16))).post + 1 } ∧
        u.rd (slotAddr (Fin.ofNat 8 (fn / 16)) (t.cleatB.get (Fin.ofNat 8 (fn / 16))).post) 56 =
          (List.range 56).map fun k => t.seen (p + k) := by
  obtain ⟨u, hregs, hq, hrd, hop⟩ := issueCp0_posted (w := w) (rd := rd) hf ha hown hu hhi hp hact hd hsb hbus hm hc
  exact cp0_with hi ho hf rfl hop hregs ⟨(cpAfter_cleatB ..).trans hq, (cpAfter_rd ..).trans hrd⟩

/-- A write of a PHT register. -/
theorem cp2Wrreg_writes (hi : HartIssues s t h w (.cp 2 fn rd a1 a2)) (ho : CpOpen t h 2) (hf : fn % 16 = 1) :
    CpWith (.cp2Wrreg h) s t h rd 0 fun u =>
      u.pht = (phtRegWrite t ((hartOf t h).getX a1).toNat (((hartOf t h).getX a2).extractLsb' 0 32)).pht ∧ u.mem = t.mem :=
  cp2_with hi ho hf rfl (issueCp2_write hf) (sameRegs_of_eq (phtRegWrite_hart ..)) ⟨cpAfter_pht .., (cpAfter_mem ..).trans (phtRegWrite_mem ..)⟩

/-- A phase or the network time of the newest record. -/
theorem cp2Rdnow_reads (hi : HartIssues s t h w (.cp 2 fn rd a1 a2)) (ho : CpOpen t h 2) (hf : fn % 16 = 3)
    (hk : bits fn 4 3 ≤ 4) : CpWith (.cp2Rdnow h) s t h rd (BitVec.ofNat 64 (rdNow t (bits fn 4 3))) fun u => u.pht = t.pht :=
  cp2_with hi ho hf rfl ((issueCp2_now hf).trans (if_pos hk)) (sameRegs_of_eq rfl) rfl

/-! ### Operations of customer logic -/

theorem cpx_run (hn : 4 ≤ n.val) : exec (.cpx h) s = runCls s h (LuOp.cp n fn rd a1 a2).cls := by
  rw [cpx_cls hn]
  rfl

/-- A fifth operation without rd waits. -/
theorem cpx_waits (hi : HartIssues s t h w (.cp n fn rd a1 a2)) (hn : 4 ≤ n.val) (ho : CpOpen t h n)
    (hp : cpxPresent t (Fin.ofNat 4 (n.val - 4)) = true) (hw : rd = 0 ∧ 4 ≤ (hartOf t h).cpOut) :
    exec (.cpx h) s = .next t := by
  rw [cpx_run hn, runCls_of_issues hi rfl, issueSpec_of_none rfl]
  show (issueCp t h w n fn rd a1 a2).outcome h = _
  rw [issueCp_customer hn ho, if_pos hp, issueCpx_waits hw]
  rfl

/-- One that goes out. -/
theorem cpx_sends (hi : HartIssues s t h w (.cp n fn rd a1 a2)) (hn : 4 ≤ n.val) (ho : CpOpen t h n)
    (hp : cpxPresent t (Fin.ofNat 4 (n.val - 4)) = true) (hr : t.fab.remotes.length < 256)
    (hw : ¬ (rd = 0 ∧ 4 ≤ (hartOf t h).cpOut)) : exec (.cpx h) s = .next (if rd = 0
      then retire (hartMod (cpxSent t h n fn rd a1 a2) h fun x => { x with cpOut := x.cpOut + 1 }) h 1
        ((hartOf (cpxSent t h n fn rd a1 a2) h).pc + 4)
      else hartMod (cpxSent t h n fn rd a1 a2) h fun x => { x with cpWait := some rd }) := by
  rw [cpx_run hn, runCls_of_issues hi rfl, issueSpec_of_none rfl]
  show (issueCp t h w n fn rd a1 a2).outcome h = _
  rw [issueCp_customer hn ho, if_pos hp, issueCpx_sent hw hr]
  split <;> rfl

theorem cpx_goes_on (hi : HartIssues s t h w (.cp n fn rd a1 a2)) (hn : 4 ≤ n.val) (ho : CpOpen t h n)
    (hp : cpxPresent t (Fin.ofNat 4 (n.val - 4)) = true) (hr : t.fab.remotes.length < 256) (h0 : rd = 0)
    (h4 : (hartOf t h).cpOut < 4) : Gives (.cpx h) s fun u => (hartOf u h).cpOut = (hartOf t h).cpOut + 1 ∧
      (hartOf u h).pc = ((hartOf t h).pc + 4) &&& ~~~3 ∧ (hartOf u h).x = (hartOf t h).x ∧
      u.fab.remotes = t.fab.remotes ++ [{ tag := t.fab.nextTag, home := ownChip t, wait := .cp h n fn none }] := by
  refine Gives.intro ((cpx_sends hi hn ho hp hr fun hb => absurd hb.2 (by omega)).trans (by rw [if_pos h0])) ?_
  rw [hartOf_retire_mod, cpxSent_hart]
  exact ⟨rfl, rfl, rfl, (cpxSent_remotes t h n fn rd a1 a2).trans (by rw [if_pos h0])⟩

theorem cpx_waits_for (hi : HartIssues s t h w (.cp n fn rd a1 a2)) (hn : 4 ≤ n.val) (ho : CpOpen t h n)
    (hp : cpxPresent t (Fin.ofNat 4 (n.val - 4)) = true) (hr : t.fab.remotes.length < 256) (h0 : rd ≠ 0) :
    Gives (.cpx h) s fun u => (hartOf u h).cpWait = some rd ∧ (hartOf u h).pc = (hartOf t h).pc ∧
      (hartOf u h).x = (hartOf t h).x ∧
      u.fab.remotes = t.fab.remotes ++ [{ tag := t.fab.nextTag, home := ownChip t, wait := .cp h n fn (some rd) }] := by
  refine Gives.intro ((cpx_sends hi hn ho hp hr fun hb => h0 hb.1).trans (by rw [if_neg h0])) ?_
  rw [hartOf_hartMod_same, cpxSent_hart]
  exact ⟨rfl, rfl, rfl, (cpxSent_remotes t h n fn rd a1 a2).trans (by rw [if_neg h0])⟩

/-! ### The answer ends the wait -/

/-- R350: rd takes the response and the hart goes on. -/
theorem cpxEnd_data (s : State) (h : HartId) (n : Fin 8) (fn : Nat) (q : Xr) (d : Bytes) :
    let t := cpxEnd s h n fn (some q) (.data d)
    (hartOf t h).cpWait = none ∧ (hartOf t h).pc = ((hartOf s h).pc + 4) &&& ~~~3 ∧
      (t.fab.remotes = s.fab.remotes ∧ t.mem = s.mem) ∧
      ∀ g : Xr, (hartOf t h).getX g = if g = 0 then 0 else if g = q then BitVec.ofNat 64 (leNat d) else (hartOf s h).getX g := by
  intro t
  have ht : hartOf t h = (({ hartOf s h with cpWait := none } : Hart).setX q (BitVec.ofNat 64 (leNat d))).retired 1
      (drawn (hartMod s h fun x => { x with cpWait := none }.setX q (BitVec.ofNat 64 (leNat d))) .cycles)
      ((hartOf s h).pc + 4) := hartOf_retire_mod s h _ 1 _
  rw [ht]
  obtain ⟨b, hb⟩ := ({ hartOf s h with cpWait := none } : Hart).setX_rest q (BitVec.ofNat 64 (leNat d))
  refine ⟨by rw [hb]; rfl, rfl, ⟨rfl, rfl⟩, fun g => ?_⟩
  exact ({ hartOf s h with cpWait := none } : Hart).getX_setX q g _

theorem cpxEnd_abort (s : State) (h : HartId) (n : Fin 8) (fn : Nat) (q : Xr) (k : Nat) :
    let t := cpxEnd s h n fn (some q) (.abort k)
    (hartOf t h).cpWait = none ∧ (hartOf t h).cause = causeOf 0x07 3 false false ∧ (hartOf t h).epc = (hartOf s h).pc ∧
      (hartOf t h).pc = (hartOf s h).vecBase ∧ (hartOf t h).x = (hartOf s h).x ∧
      (t.fab.remotes = s.fab.remotes ∧ t.mem = s.mem) := by
  intro t
  have ht : hartOf t h = ({ hartOf s h with cpWait := none } : Hart).enter (hartOf s h).pc (causeOf 0x07 3 false false)
      (BitVec.ofNat 64 (cpInfo n.val fn)) (hartOf s h).vecBase := by
    unfold t cpxEnd takeTrap
    rw [hartOf_hartMod_same, hartOf_hartMod_same]
  rw [ht]
  exact ⟨rfl, rfl, rfl, rfl, rfl, rfl, rfl⟩

/-- R349: one without rd is no longer outstanding; its error is kept. -/
theorem cpxEnd_unasked (s : State) (h : HartId) (n : Fin 8) (fn : Nat) (a : Answer) :
    let t := cpxEnd s h n fn none a
    (hartOf t h).cpOut = (hartOf s h).cpOut - 1 ∧ (hartOf t h).pc = (hartOf s h).pc ∧ (hartOf t h).x = (hartOf s h).x ∧
      (t.fab.remotes = s.fab.remotes ∧ t.mem = s.mem) ∧ (hartOf t h).cpErr = match a, (hartOf s h).cpErr with
        | .abort _, none => some (n.val, fn)
        | _, e => e := by
  intro t
  cases a with
  | data d =>
    have ht : hartOf t h = { hartOf s h with cpOut := (hartOf s h).cpOut - 1 } := hartOf_hartMod_same s h _
    rw [ht]
    exact ⟨rfl, rfl, rfl, ⟨rfl, rfl⟩, rfl⟩
  | abort k =>
    have ht : hartOf t h = { hartOf s h with
        cpOut := (hartOf s h).cpOut - 1, cpErr := match (hartOf s h).cpErr with
          | some e => some e
          | none => some (n.val, fn) } := hartOf_hartMod_same s h _
    rw [ht]
    refine ⟨rfl, rfl, rfl, ⟨rfl, rfl⟩, ?_⟩
    cases (hartOf s h).cpErr <;> rfl

end

/-- Settles O46, coprocessor by coprocessor; the record of a POST is what the caches show once its lines are in. -/
theorem hartCoprocessors : Obligations.HartCoprocessors := by
  refine ⟨?_, ?_, ?_⟩
  · intro s t h w n fn rd a1 a2 hi x a q b opens with_
    refine ⟨?_, ?_, ?_, ?_, ?_⟩
    · rintro e he rfl hf
      have hc := cp_command s h rd a1 a2 fn he hf
      refine ⟨fun hs hn => hartTraps_of_issue hi hc (issueCp_closed hs hn), fun ho h1 hd => ?_⟩
      have ho' : CpOpen t h 1 := h1 ▸ ho
      refine hartTraps_of_issue hi hc ?_
      show issueCp t h w e.1 fn rd a1 a2 = _
      rw [h1]
      exact (issueCp_one ho').trans (issueCp1_off (hf ▸ cp_command_lt h he) hd)
    · rintro ho rfl
      have htrap : ∀ {c k cd d i u}, fn % 16 = k → exec c s = runCls s h (.cp0 k) →
          issueCp0 t h w fn rd a1 = .trap cd d i false u → HartTraps c s u h cd d i false := fun hf hc hop =>
        hartTraps_of_issue hi (cp0_run hf hc) ((issueCp_zero (a2 := a2) ho).trans hop)
      refine ⟨fun hf => ⟨fun ha => htrap hf rfl (issueCp0_misaligned hf ha), fun ha hown => ?_, fun ha hown hfull => ?_, ?_⟩,
        fun hf => ?_, fun hf => ⟨fun hd => htrap hf rfl ?_, cp0Doorbell_rings hi ho hf⟩⟩
      · exact cp0_with hi ho hf rfl (issueCp0_notOwner hf ha hown) (sameRegs_of_eq rfl) ⟨rfl, rfl⟩
      · exact cp0_with hi ho hf rfl (issueCp0_full hf ha hown hfull) (sameRegs_of_eq rfl) ⟨rfl, rfl⟩
      · exact fun p ha hown hroom hhi hp hact hdev hsb hbus hm hc _ =>
          cp0Post_posts hi ho hf ha hown hroom hhi hp hact hdev hsb hbus hm hc
      · exact cp0_with hi ho hf rfl (issueCp0_qstat hf) (sameRegs_of_eq rfl) ⟨rfl, rfl⟩
      · rw [issueCp0_doorbell hf, hd]
        rfl
    · rintro ho rfl hd
      refine ⟨fun hf => ?_, fun hf => ?_, fun hf => ?_, fun hf => ?_, fun c hc => ?_⟩
      · exact cp1_with hi ho hf rfl (issueCp1_status hf hd) (sameRegs_of_eq rfl) ⟨rfl, rfl⟩
      · exact cp1_with hi ho hf rfl (issueCp1_energy hf hd) (sameRegs_of_eq rfl) ⟨rfl, rfl⟩
      · exact cp1_with hi ho hf rfl (issueCp1_read hf hd) (sameRegs_of_eq rfl) ⟨rfl, rfl⟩
      · exact gives_of_cp hi (cp1_run hf rfl) ((issueCp_one ho).trans (issueCp1_write hf hd)) ⟨cpAfter_trim .., cpAfter_mem ..⟩
      · obtain ⟨hlt, hmem⟩ := trim_command hc
        exact gives_of_cp hi (cp_command s h rd a1 a2 fn hmem rfl) ((issueCp_one ho).trans (issueCp1_command hlt hd))
          ⟨cpAfter_trim .., cpAfter_mem ..⟩
    · rintro ho rfl
      refine ⟨fun hf => ?_, cp2Wrreg_writes hi ho, fun hf ha => ?_, fun hf => ?_, fun hf => ?_⟩
      · exact cp2_with hi ho hf rfl (issueCp2_read hf) (sameRegs_of_eq rfl) ⟨rfl, rfl⟩
      · have hp : (phtRegWrite t a ((x.getX a2).extractLsb' 0 32)).pht = phtWrite t.pht a ((x.getX a2).extractLsb' 0 32) := by
          rw [phtRegWrite, if_neg ha]
        exact hp ▸ cp2Wrreg_writes hi ho hf
      · exact cp2_with hi ho hf rfl (issueCp2_step hf) (sameRegs_of_eq rfl) ⟨rfl, rfl⟩
      · intro k
        refine ⟨fun i hk => ?_, fun hk => ?_, fun hk => ?_⟩
        · rw [← rdNow_phase hk]
          exact cp2Rdnow_reads hi ho hf (by have := i.isLt; omega)
        · rw [← rdNow_nt, ← hk]
          exact cp2Rdnow_reads hi ho hf hk.le
        · exact hartTraps_of_issue hi (cp2_run hf rfl)
            ((issueCp_two (a2 := a2) ho).trans ((issueCp2_now hf).trans (if_neg (by omega))))
    · intro hn ho k
      refine ⟨fun hp => ?_, fun hp hr => ⟨fun h0 h4 => cpx_waits hi hn ho hp ⟨h0, h4⟩, cpx_goes_on hi hn ho hp hr,
        cpx_waits_for hi hn ho hp hr⟩⟩
      exact hartTraps_of_issue hi (cpx_run hn)
        ((issueCp_customer hn ho).trans (if_neg (by rw [hp]; exact Bool.false_ne_true)))
  · intro s tag
    refine ⟨fun hno a => cpxresp_other a hno, fun r h n fn rd hctl hr hw => ?_⟩
    have hx := fun a => cpxresp_found (s := s) a hctl hr hw
    refine ⟨?_, ?_, ?_⟩
    · rintro d q rfl
      exact Gives.intro (hx (.data d)) (cpxEnd_data ..)
    · rintro k q rfl
      exact Gives.intro (hx (.abort k)) (cpxEnd_abort ..)
    · rintro rfl a
      exact Gives.intro (hx a) (cpxEnd_unasked ..)
  · intro s h n fn hup hst herr
    refine hartTraps_of_exec ?_
    show execMastTrap h s = _
    unfold execMastTrap issueWord
    rw [hup, hst, herr]
    rfl

end Sys2Proof.Machine

end

section

namespace Sys2Proof.Machine

/-! ## DRAM, the PCIe endpoint and its BAR4 (O49) -/

section
variable {s t u : State}

/-! ### A coherent write from outside the harts (R345, R373) -/

/-- A held line with the bytes of a write that fall in it. -/
def CLine.patch (a : Nat) (bs : Bytes) (l : Nat) (c : CLine) : CLine :=
  { c with data := (List.range 64).map fun k =>
      let x := l * 64 + k
      if a ≤ x ∧ x < a + bs.length then byteAt bs (x - a) else byteAt c.data k }

/-- The held lines of a list take the write. -/
def patchLines (a : Nat) (bs : Bytes) (s : State) (ls : List Nat) : State :=
  ls.foldl (fun t l => match lineGet t l with
    | none => t
    | some c => linePut t l (some (c.patch a bs l))) s

theorem coherentWrite_eq (s : State) (a : Nat) (bs : Bytes) : coherentWrite s a bs =
    noteHomeWrite (noteMastWrite (patchLines a bs (s.wr a bs) (linesOf a bs.length)) a bs.length) a bs.length := rfl

/-- One line patched. -/
theorem patch_one {a x : Nat} {bs : Bytes} (hc : s.cacheWf = true) : ∃ u, (match lineGet s x with
      | none => s
      | some c => linePut s x (some (c.patch a bs x))) = u ∧ u.cacheWf = true ∧
    ∀ l, lineGet u l = if l = x then (lineGet s x).map (CLine.patch a bs x) else lineGet s l := by
  cases hx : lineGet s x with
  | none =>
    refine ⟨s, rfl, hc, fun l => ?_⟩
    split
    · next he => rw [he, hx]; rfl
    · rfl
  | some c =>
    refine ⟨_, rfl, linePut_wf x hc fun d hd => ?_, fun l => lineGet_linePut x l _ hc⟩
    cases hd
    exact (List.length_map _).trans List.length_range

/-- The lines of a list are patched, the others stay. -/
theorem lineGet_patchLines {a : Nat} {bs : Bytes} {ls : List Nat} (hn : ls.Nodup) (hc : s.cacheWf = true) (l : Nat) :
    lineGet (patchLines a bs s ls) l = if l ∈ ls then (lineGet s l).map (CLine.patch a bs l) else lineGet s l := by
  induction ls generalizing s with
  | nil => rfl
  | cons x xs ih =>
    obtain ⟨hx, hn⟩ := List.nodup_cons.1 hn
    obtain ⟨u, hu, hw, hl⟩ := patch_one (a := a) (x := x) (bs := bs) hc
    have hstep : patchLines a bs s (x :: xs) = patchLines a bs u xs := congrArg (fun v => patchLines a bs v xs) hu
    rw [hstep, ih hn hw, hl]
    by_cases he : l = x
    · subst he
      rw [if_neg hx, if_pos rfl, if_pos List.mem_cons_self]
    · rw [if_neg he]
      exact if_congr (by simp [he]) rfl rfl

theorem linesOf_nodup (a n : Nat) : (linesOf a n).Nodup :=
  List.Nodup.map (fun _ _ h => Nat.add_left_cancel h) List.nodup_range

/-- What a line's patch shows. -/
theorem byteAt_patch (a : Nat) (bs : Bytes) (c : CLine) (q : Nat) : byteAt (c.patch a bs (q / 64)).data (q % 64) =
    if a ≤ q ∧ q < a + bs.length then byteAt bs (q - a) else byteAt c.data (q % 64) := by
  have hlt : q % 64 < 64 := Nat.mod_lt _ (by decide)
  have hq : q / 64 * 64 + q % 64 = q := by omega
  unfold byteAt CLine.patch
  dsimp only
  rw [List.getD_eq_getElem _ _ (by rw [List.length_map, List.length_range]; exact hlt), List.getElem_map,
    List.getElem_range, hq]
  rfl

/-- A byte in memory after a write. -/
theorem memRead_wr (hm : s.memWf = true) (a : Nat) (bs : Bytes) (q : Nat) : memRead (s.wr a bs).mem q =
    if a ≤ q ∧ q < a + bs.length then byteAt bs (q - a) else memRead s.mem q := by
  by_cases hin : a ≤ q ∧ q < a + bs.length
  · rw [if_pos hin]
    have hi : q - a < bs.length := by omega
    have := memRead_memWriteN_in (m := s.mem) (a := a) hm hi
    rw [show a + (q - a) = q by omega] at this
    exact this.trans (List.getD_eq_getElem _ _ hi).symm
  · rw [if_neg hin]
    exact memRead_memWriteN_out hm (by omega)

/-- The harts see what is written, and elsewhere what they saw. -/
theorem seen_coherentWrite (hm : s.memWf = true) (hc : s.cacheWf = true) (a : Nat) (bs : Bytes) (q : Nat) :
    (coherentWrite s a bs).seen q = if a ≤ q ∧ q < a + bs.length then byteAt bs (q - a) else s.seen q := by
  have hmem : (patchLines a bs (s.wr a bs) (linesOf a bs.length)).mem = (s.wr a bs).mem :=
    foldl_view (V := State.mem) (fun u l => by split <;> rfl) _ _
  have hline := lineGet_patchLines (s := s.wr a bs) (a := a) (bs := bs) (linesOf_nodup a bs.length) hc (q / 64)
  rw [coherentWrite_eq]
  show (patchLines a bs (s.wr a bs) (linesOf a bs.length)).seen q = _
  unfold State.seen
  rw [hline, hmem]
  show (match (if q / 64 ∈ linesOf a bs.length then (lineGet s (q / 64)).map (CLine.patch a bs (q / 64))
    else lineGet s (q / 64)) with
      | some c => byteAt c.data (q % 64)
      | none => memRead (s.wr a bs).mem q) = _
  have hout : q / 64 ∉ linesOf a bs.length → ¬ (a ≤ q ∧ q < a + bs.length) := fun hn hin =>
    hn (by have := mem_linesOf (a := a) (n := bs.length) (k := q - a) (by omega); rwa [show a + (q - a) = q by omega] at this)
  cases hl : lineGet s (q / 64) with
  | none =>
    simp only [Option.map_none, ite_self]
    exact memRead_wr hm a bs q
  | some c =>
    by_cases hmem : q / 64 ∈ linesOf a bs.length
    · rw [if_pos hmem]
      exact byteAt_patch a bs c q
    · rw [if_neg hmem, if_neg (hout hmem)]

/-- A granule that is written is reserved no longer (R345). -/
theorem resv_noteMastWrite {a n g : Nat} (ht : touches g a n = true) (s : State) (h : HartId) :
    (hartOf (noteMastWrite s a n) h).resv ≠ some (.own g) := by
  have hh : hartOf (noteMastWrite s a n) h = (fun x : Hart => match x.resv with
      | some (.own g) => if touches g a n then { x with resv := none } else x
      | _ => x) (hartOf s h) := vector_get_map _ _ h
  rw [hh]
  dsimp only
  split
  · next k hk =>
    split
    · nofun
    · next hno =>
      rw [hk]
      intro he
      cases he
      exact hno ht
  · next hno => exact hno g

/-- The lines a write touches are reserved no longer. -/
theorem resv_coherentWrite {a g : Nat} {bs : Bytes} (hn : 0 < bs.length) (hg : g ∈ linesOf a bs.length) (h : HartId) :
    (hartOf (coherentWrite s a bs) h).resv ≠ some (.own g) := by
  have ht : touches g a bs.length = true := by
    obtain ⟨i, hi, rfl⟩ := List.mem_map.1 hg
    have := List.mem_range.1 hi
    simp only [touches, Bool.and_eq_true, decide_eq_true_eq]
    omega
  exact resv_noteMastWrite ht _ h

theorem coherentWrite_out (s : State) (a : Nat) (bs : Bytes) : (coherentWrite s a bs).out = s.out :=
  foldl_view (V := State.out) (fun u l => by split <;> rfl) _ (s.wr a bs)

/-! ### BAR4 -/

theorem bar4_read {a n : Nat} (hlen : a + n ≤ dramUsable s) (hact : actCheck s 25 accLoad a n = none)
    (herr : ramErr s a n = none) : bar4 s a none n = emit s (.host (.data (cachedBytes s a n))) := by
  unfold bar4
  dsimp only
  rw [if_neg (by omega)]
  show (match actCheck s 25 accLoad a n with | some t => _ | none => _) = _
  rw [hact]
  dsimp only
  rw [herr]

theorem bar4_write {a : Nat} {b : Bytes} (n : Nat) (hlen : a + b.length ≤ dramUsable s)
    (hact : actCheck s 25 accStore a b.length = none) (herr : ramErr s a b.length = none) :
    bar4 s a (some b) n = coherentWrite s a b := by
  unfold bar4
  dsimp only
  rw [if_neg (by omega)]
  show (match actCheck s 25 accStore a b.length with | some t => _ | none => _) = _
  rw [hact]
  dsimp only
  rw [herr]

theorem bar4_read_denied {a n : Nat} (hlen : a + n ≤ dramUsable s) (hact : actCheck s 25 accLoad a n = some u) :
    bar4 s a none n = hostRefused u n := by
  unfold bar4
  dsimp only
  rw [if_neg (by omega)]
  show (match actCheck s 25 accLoad a n with | some t => _ | none => _) = _
  rw [hact]

theorem bar4_write_denied {a : Nat} {b : Bytes} (n : Nat) (hlen : a + b.length ≤ dramUsable s)
    (hact : actCheck s 25 accStore a b.length = some u) : bar4 s a (some b) n = hostRefused u b.length := by
  unfold bar4
  dsimp only
  rw [if_neg (by omega)]
  show (match actCheck s 25 accStore a b.length with | some t => _ | none => _) = _
  rw [hact]

/-- An access within a page of an endpoint that is up. -/
theorem hostBar4_up {off n : Nat} {w : Option Bytes} (hup : pcieUp s = true) (hoff : off + n ≤ 2 ^ 28)
    (hw : ∀ b, w = some b → b.length = n) :
    exec (.hostBar4Access off w n) s = .next (bar4 s (s.pcie.ap4.toNat * 2 ^ 28 + off) w n) := by
  refine if_pos ?_
  rw [hup, Bool.true_and, decide_eq_true_eq]
  cases w with
  | none => exact hoff
  | some b =>
    show off + b.length ≤ 2 ^ 28
    rw [hw b rfl]
    exact hoff

/-! ### Scrubs and refresh -/

/-- An uncorrectable error of DRAM is counted, noted and reported, and asserts no line. -/
theorem dramScrub_bad (s : State) (code : W16) (d : W64) :
    (reportFault s 0x1B 1 code d).ddr.uncorrectable = s.ddr.uncorrectable + 1 ∧
    (reportFault s 0x1B 1 code d).ddr.lastBad = d ∧ (reportFault s 0x1B 1 code d).mem = s.mem ∧
    (reportFault s 0x1B 1 code d).cleatC.lines = s.cleatC.lines := by
  have hm (u : State) : (mgcReport u 0x1B 1 code d).ddr = u.ddr ∧ (mgcReport u 0x1B 1 code d).mem = u.mem ∧
      (mgcReport u 0x1B 1 code d).cleatC.lines = u.cleatC.lines := by
    have he : mgcReport u 0x1B 1 code d = raiseEmcy (countClass u 1) 0xFF25 0x1B (toLE 4 (d.toNat / 64)) := rfl
    rw [he, raiseEmcy_ddr, raiseEmcy_mem, raiseEmcy_cleatC]
    exact ⟨rfl, rfl, rfl⟩
  have hput (u : State) (r : Report) : (cleatCPut u r).cleatC.lines = u.cleatC.lines := by
    unfold cleatCPut
    split <;> rfl
  have hno (u : State) : fenceFault u 0x1B code = u := if_pos rfl
  unfold reportFault
  extract_lets r room a b
  have ha : a.ddr.uncorrectable = s.ddr.uncorrectable + 1 ∧ a.ddr.lastBad = d ∧ a.mem = s.mem ∧
      a.cleatC.lines = s.cleatC.lines := by
    dsimp only [a]
    rw [cleatCPut_ddr, cleatCPut_mem, hput]
    exact ⟨rfl, rfl, rfl, rfl⟩
  have hb : b = a ∨ b = mgcReport a 0x1B 1 code d := by
    dsimp only [b]
    split
    · exact .inr rfl
    · exact .inl rfl
  clear_value b a
  rw [if_pos rfl]
  show (fenceFault b 0x1B code).ddr.uncorrectable = _ ∧ (fenceFault b 0x1B code).ddr.lastBad = _ ∧
    (fenceFault b 0x1B code).mem = _ ∧ (fenceFault b 0x1B code).cleatC.lines = _
  rw [hno]
  obtain ⟨hd, hmem, hl⟩ := hm a
  rcases hb with rfl | rfl
  · exact ha
  · rw [hd, hmem, hl]
    exact ha

theorem stands_clearStanding_same (s : State) (code key : Nat) : stands (clearStanding s code key) code key = false := by
  rw [stands, clearStanding_standing, List.any_eq_false]
  intro x hx
  have := (List.mem_filter.1 hx).2
  simp only [Bool.not_eq_true'] at this
  rw [this]
  decide

/-! ### Training, scrubs and vectors -/

/-- HELLOs leave the memory, the node and the fabric's records. -/
theorem floodOwn_shl (s : State) : (floodOwn s).sansShl = s.sansShl := by
  unfold floodOwn
  split
  · exact flood_shl s _
  · rfl

/-- Without a part in a fabric no HELLO leaves. -/
theorem floodOwn_of_none (h : fabUp s = false ∨ s.fab.role = 3) : floodOwn s = s := by
  refine if_neg ?_
  rcases h with h | h <;> simp [h]

theorem ddrReady_gives (hd : domUp s 14 = true) (hb : s.ddr.busy = true) :
    Gives .ddrReady s fun t => t.ddr = { s.ddr with busy := false, ready := true } ∧
      t.mem = s.mem ∧ t.node = s.node ∧ t.fab = s.fab := by
  obtain ⟨u, hu⟩ : ∃ u : State, ({ s with ddr := { s.ddr with busy := false, ready := true } } : State) = u := ⟨_, rfl⟩
  have hx : exec .ddrReady s = .next (floodOwn u) := hu ▸ if_pos (by rw [hd, hb]; rfl)
  have hv := floodOwn_shl u
  refine Gives.intro hx ?_
  have hddr : (floodOwn u).ddr = u.ddr := (congrArg State.ddr hv :)
  have hmem : (floodOwn u).mem = u.mem := (congrArg State.mem hv :)
  have hnode : (floodOwn u).node = u.node := (congrArg State.node hv :)
  have hfab : (floodOwn u).fab = u.fab := (congrArg State.fab hv :)
  rw [hddr, hmem, hnode, hfab, ← hu]
  exact ⟨rfl, rfl, rfl, rfl⟩

/-- The guard of a scrub. -/
theorem scrub_guard {ln : Nat} (hup : dramUp s = true) (hln : ln * 64 < dramUsable s) (b : Bool) (hecc : s.ddr.cfg.getLsbD 5 = b) :
    (dramUp s && decide (ln * 64 < dramUsable s) && s.ddr.cfg.getLsbD 5) = b := by
  rw [hup, hecc, decide_eq_true hln]
  rfl

/-- A raised vector: sent, or pending while masked. -/
theorem msixRaise_cases (s : State) (k : Fin 32) :
    ((s.pcie.msix.get k).getLsbD 96 = false → msixRaise s k = { s with out := s.out ++ [.msix k] }) ∧
    ((s.pcie.msix.get k).getLsbD 96 = true → msixRaise s k =
      { s with pcie := { s.pcie with pend := s.pcie.pend ||| (1#32 <<< k.val) } }) :=
  ⟨fun h => if_neg (by rw [h]; decide), fun h => if_pos h⟩

/-- A hart's write that raises vector `k`. -/
theorem msixRaiseWrite_eq {v : W32} {k : Fin 32} (hk : k.val = bits v.toNat 0 5) (h9 : 9 ≤ bits v.toNat 0 5) :
    msixRaiseWrite s v = msixRaise s k := by
  have hf : Fin.ofNat 32 (bits v.toNat 0 5) = k := Fin.ext (by rw [← hk]; exact Nat.mod_eq_of_lt k.isLt)
  refine (if_neg (by omega)).trans ?_
  rw [hf]

/-- Bit 96 of a table entry is cleared. -/
theorem unmasked_bit (e : BitVec 128) : (e &&& ~~~(1#128 <<< 96)).getLsbD 96 = false := by
  simp

theorem pend_cleared (p : W32) (k : Fin 32) : (p &&& ~~~(1#32 <<< k.val)).getLsbD k.val = false := by
  simp

theorem msixUnmask_gives (hup : pcieUp s = true) (k : Fin 32) : Gives (.msixUnmask k) s fun t =>
    (t.pcie.msix.get k).getLsbD 96 = false ∧ t.pcie.pend.getLsbD k.val = false ∧
    (∀ j : Fin 32, j ≠ k → t.pcie.msix.get j = s.pcie.msix.get j) ∧
    t.out = if s.pcie.pend.getLsbD k.val then s.out ++ [.msix k] else s.out := by
  have hnot : ¬ (!pcieUp s) = true := by rw [hup]; decide
  have hmask : ((vmod s.pcie.msix k fun e => e &&& ~~~(1#128 <<< 96)).get k).getLsbD 96 = false := by
    rw [vmod_get_same]
    exact unmasked_bit _
  have hrest (j : Fin 32) (hj : j ≠ k) : (vmod s.pcie.msix k fun e => e &&& ~~~(1#128 <<< 96)).get j = s.pcie.msix.get j :=
    vmod_get_other _ _ hj
  cases hp : s.pcie.pend.getLsbD k.val with
  | true =>
    exact Gives.intro ((if_neg hnot).trans (if_pos hp)) ⟨hmask, pend_cleared _ k, hrest, rfl⟩
  | false =>
    exact Gives.intro ((if_neg hnot).trans (if_neg (by rw [hp]; decide))) ⟨hmask, hp, hrest, rfl⟩

end

/-- Settles O49; a coherent write is seen line by line, held or not. -/
theorem dramAndPcie : Obligations.DramAndPcie := by
  intro s
  refine ⟨fun hd v => ⟨fun hv hr => ?_, fun hv => ?_, fun hb => ⟨ddrReady_gives hd hb, fun hf => ?_⟩, fun hb => ?_⟩, fun hmgc hrun => ?_,
    fun hup ln hln => ⟨fun hecc => ⟨?_, ?_, ?_⟩, fun hecc k => ?_⟩, fun hup ch => ⟨?_, ?_, fun hst => ?_⟩,
    fun hup off n hoff => ?_, fun hup off n b => ?_, fun hctl hd v => ?_, msixUnmask_gives, ?_, ?_⟩
  · refine (if_pos hd).trans (congrArg _ (if_pos ?_))
    rw [hv, hr]
    rfl
  · refine (if_pos hd).trans (congrArg _ (if_neg ?_))
    rcases hv with hv | hv <;> rw [hv]
    · exact nofun
    · rw [Bool.not_true, Bool.and_false]
      exact nofun
  · exact (if_pos (by rw [hd, hb]; rfl)).trans (congrArg _ (floodOwn_of_none hf))
  · exact if_neg (by rw [hb, Bool.and_false]; decide)
  · cases he : s.ddr.exiting with
    | true => exact if_pos (by rw [he, hmgc, hrun]; rfl)
    | false =>
      refine (if_neg (by rw [he]; exact nofun)).trans (congrArg Host.Outcome.next ?_)
      rw [← he]
  · exact if_pos (scrub_guard hup hln _ hecc)
  · exact if_pos (scrub_guard hup hln _ hecc)
  · exact Gives.intro (if_pos (scrub_guard hup hln _ hecc)) (dramScrub_bad s _ _)
  · exact if_neg (by rw [scrub_guard hup hln _ hecc]; decide)
  · exact Gives.intro (if_pos hup) ⟨stands_raiseStanding s (by decide) _ _ _, raiseStanding_mem ..⟩
  · exact Gives.intro (if_pos hup) ⟨stands_clearStanding_same s _ _, clearStanding_mem ..⟩
  · exact (if_pos hup).trans (congrArg _ (if_pos hst))
  · intro a ha
    refine ⟨fun herr => ⟨fun hact => ?_, fun b hb hn hact hm hc => ?_⟩, fun u hact => ?_, fun u b hb hact => ?_⟩
    · exact ⟨_, hostBar4_up hup hoff nofun, by rw [bar4_read ha hact herr]; exact ⟨rfl, rfl, rfl⟩⟩
    · subst hb
      refine ⟨_, hostBar4_up hup hoff fun b hb => by cases hb; rfl, ?_⟩
      rw [bar4_write _ ha hact herr]
      exact ⟨seen_coherentWrite hm hc a b, fun h g hg => resv_coherentWrite hn hg h, coherentWrite_out s a b⟩
    · exact ⟨_, hostBar4_up hup hoff nofun, by rw [bar4_read_denied ha hact]; exact ⟨rfl, rfl, rfl⟩⟩
    · subst hb
      refine ⟨_, hostBar4_up hup hoff fun b hb => by cases hb; rfl, ?_⟩
      rw [bar4_write_denied _ ha hact]
      exact ⟨rfl, rfl, rfl⟩
  · exact if_neg (by rw [hup, Bool.false_and]; decide)
  · have hg : (ctlUp s && domUp s 17) = true := by rw [hctl, hd]; rfl
    intro n
    refine ⟨fun h9 => (if_pos hg).trans (congrArg _ (if_pos h9)), fun k hk h9 => ?_⟩
    have hx : exec (.pcieMsixRaise v) s = .next (msixRaise s k) :=
      (if_pos hg).trans (congrArg _ (msixRaiseWrite_eq hk h9))
    obtain ⟨hout, hpend⟩ := msixRaise_cases s k
    exact ⟨fun hm => hx.trans (congrArg _ (hout hm)), fun hm => hx.trans (congrArg _ (hpend hm))⟩
  · exact Gives.intro rfl ⟨rfl, rfl, rfl, rfl⟩
  · exact Gives.intro rfl ⟨rfl, rfl, rfl, rfl⟩

end Sys2Proof.Machine

end

section

namespace Sys2Proof.Machine

/-! ## What sending leaves of the ports -/

/-- A port but for what messages and flits change as they leave. -/
def ShlPort.sansTraffic (q : ShlPort) : ShlPort :=
  { q with nextSeq := 0, replay := [], credits := Vector.replicate 8 0, owed := Vector.replicate 8 0, late := [], txq := [] }

/-- From `s` to `t` the ports have at most sent, and only those that are ACTIVE. -/
structure Sends (s t : State) : Prop where
  port : ∀ r, (t.shl.get r).sansTraffic = (s.shl.get r).sansTraffic
  still : ∀ r, (s.shl.get r).st ≠ .active → (t.shl.get r).replay = (s.shl.get r).replay

namespace Sends

variable {s t u : State}

theorem st (h : Sends s t) (r : ShlId) : (t.shl.get r).st = (s.shl.get r).st := (congrArg ShlPort.st (h.port r) :)

theorem of_shl (h : t.shl = s.shl) : Sends s t := ⟨fun r => by rw [h], fun r _ => by rw [h]⟩

theorem refl (s : State) : Sends s s := of_shl rfl

theorem trans (h : Sends s t) (k : Sends t u) : Sends s u :=
  ⟨fun r => (k.port r).trans (h.port r), fun r hr => (k.still r (by rwa [h.st r])).trans (h.still r hr)⟩

theorem shlMod {p : ShlId} {f : ShlPort → ShlPort} (hf : (f (s.shl.get p)).sansTraffic = (s.shl.get p).sansTraffic)
    (hr : (s.shl.get p).st ≠ .active → (f (s.shl.get p)).replay = (s.shl.get p).replay) : Sends s (shlMod s p f) := by
  have hg (r : ShlId) : ((Machine.shlMod s p f).shl.get r) = if r = p then f (s.shl.get p) else s.shl.get r := vmod_get ..
  refine ⟨fun r => ?_, fun r hne => ?_⟩ <;> rw [hg]
  · by_cases h : r = p
    · rw [if_pos h, h, hf]
    · rw [if_neg h]
  · by_cases h : r = p
    · rw [if_pos h, hr (h ▸ hne), h]
    · rw [if_neg h]

theorem foldl {α : Type} {f : State → α → State} (h : ∀ s x, Sends s (f s x)) (l : List α) (s : State) : Sends s (l.foldl f s) := by
  induction l generalizing s with
  | nil => exact refl s
  | cons x l ih => exact (h s x).trans (ih _)

end Sends

theorem releaseLate_port (now : Nat) (q : ShlPort) : (releaseLate now q).sansTraffic = q.sansTraffic ∧
    (releaseLate now q).st = q.st ∧ (releaseLate now q).replay = q.replay := ⟨rfl, rfl, rfl⟩

theorem emit_sends (s : State) (o : Output) : Sends s (emit s o) := Sends.of_shl rfl

theorem sendSeq_sends {s : State} {p : ShlId} (h : (s.shl.get p).st = .active) (d : Bytes) : Sends s (sendSeq s p d) := by
  unfold sendSeq
  extract_lets q ret f
  have hq : q.sansTraffic = (s.shl.get p).sansTraffic := rfl
  clear_value q f
  exact Sends.trans (Sends.shlMod hq fun hn => absurd h hn) (emit_sends ..)

theorem oweCredit_sends (s : State) (p : ShlId) (k : Fin 8) (n : Nat) : Sends s (oweCredit s p k n) := by
  unfold oweCredit
  split
  · exact Sends.shlMod rfl fun _ => rfl
  · exact Sends.shlMod rfl fun _ => rfl

theorem creditFlit_sends (s : State) (p : ShlId) : Sends s (creditFlit s p) := by
  unfold creditFlit
  extract_lets q
  have hq : q.st = (s.shl.get p).st := rfl
  clear_value q
  split
  · next h =>
    simp only [Bool.and_eq_true, beq_iff_eq] at h
    exact sendSeq_sends (hq ▸ h.1.1) _
  · exact Sends.refl s

theorem freeSlots_sends (s : State) (o : Option (ShlId × Fin 8)) (n : Nat) : Sends s (freeSlots s o n) := by
  cases o with
  | none => exact Sends.refl s
  | some i => exact (oweCredit_sends ..).trans (creditFlit_sends ..)

theorem pump_sends (k : Nat) (s : State) (p : ShlId) : Sends s (pump k s p) := by
  induction k generalizing s with
  | zero => exact Sends.refl s
  | succ k ih =>
    unfold pump
    extract_lets q
    split
    · next h =>
      simp only [Bool.and_eq_true, beq_iff_eq] at h
      split
      · exact Sends.refl s
      · next m _ =>
        extract_lets n t
        have ht : Sends s t := Sends.shlMod rfl fun hn => absurd h.1 hn
        have hst : (t.shl.get p).st = .active := (ht.st p).trans h.1
        clear_value t
        exact ((ht.trans (sendSeq_sends hst _)).trans (freeSlots_sends ..)).trans (ih _)
    · exact Sends.refl s

/-- With nothing queued nothing leaves. -/
theorem pumpAll_of_empty {s : State} {p : ShlId} (h : (s.shl.get p).txq = []) : pumpAll s p = s := by
  unfold pumpAll
  rw [pump]
  dsimp only
  rw [h]
  exact ite_id _

theorem enqueue_sends (s : State) (i : Option ShlId) (p : ShlId) (m : Bytes) : Sends s (enqueue s i p m) :=
  Sends.trans (t := shlMod s p _) (Sends.shlMod rfl fun _ => rfl) (pump_sends ..)

theorem sendOwn_sends (s : State) (m : Bytes) : Sends s (sendOwn s m) := by
  unfold sendOwn
  split
  · exact enqueue_sends ..
  · exact Sends.refl s

theorem sendMgmt_sends (s : State) (kind : Nat) (args : List Nat) (c : ChipId) : Sends s (sendMgmt s kind args c) := by
  unfold sendMgmt
  split
  · exact Sends.refl s
  · exact sendOwn_sends ..

theorem distribute_sends (s : State) : Sends s (distribute s) := by
  have h : Sends s (reroute s) := by
    obtain ⟨r, hr⟩ : ∃ r, reroute s = { s with fab.routes := r } := ⟨_, rfl⟩
    rw [hr]
    exact Sends.of_shl rfl
  unfold distribute toMembers
  exact h.trans (Sends.foldl (fun _ _ => sendMgmt_sends ..) _ _)

theorem sayHello_sends (r : HelloRec) (s : State) (p : ShlId) : Sends s (sayHello r s p) := by
  unfold sayHello
  split
  · split
    · exact enqueue_sends ..
    · exact Sends.refl s
  · exact Sends.refl s

theorem greet_sends (s : State) (p : ShlId) : Sends s (greet s p) := by
  unfold greet
  split
  · exact Sends.foldl (fun _ _ => sayHello_sends ..) _ _
  · exact Sends.refl s

theorem greet_shl (s : State) (p : ShlId) : (greet s p).sansShl = s.sansShl := by
  unfold greet
  split
  · exact foldl_view (V := State.sansShl) (fun _ _ => sayHello_shl ..) _ _
  · rfl

/-- A chip without a part in a fabric, and a port to customer logic, send no HELLO. -/
theorem greet_of_none {s : State} {p : ShlId} {r : ShlPartner} (hp : (s.shl.get p).partner = some r)
    (h : fabUp s = false ∨ s.fab.role = 3 ∨ r.attach = true) : greet s p = s := by
  have hsay (x : HelloRec) (hr : r.attach = true) : sayHello x s p = s := by
    unfold sayHello
    rw [hp]
    exact if_neg (by rw [hr, Bool.not_true, Bool.and_false]; decide)
  unfold greet
  rcases h with h | h | h
  · exact if_neg (by rw [h]; exact nofun)
  · exact if_neg (by rw [h]; simp)
  · split
    · generalize chipsHeard s = l
      induction l with
      | nil => rfl
      | cons x l ih => rw [List.foldl_cons, hsay x h, ih]
    · rfl

/-! ### The loss of a port -/

theorem answerSess_ports (s : State) (w : Session) (i k : Nat) (a : Answer) : (answerSess s w i k a).shl = s.shl ∧
    (answerSess s w i k a).health = s.health := by
  obtain ⟨o, l, ch, h⟩ := answerSess_frame s w i k a
  rw [h]
  exact ⟨rfl, rfl⟩

theorem routeAnswer_ports (s : State) (w : Session) (a : Answer) : (routeAnswer s w a).shl = s.shl ∧ (routeAnswer s w a).health = s.health := by
  unfold routeAnswer
  split
  · exact ⟨rfl, rfl⟩
  · extract_lets _ u
    have hu : u.shl = s.shl ∧ u.health = s.health := ⟨rfl, rfl⟩
    clear_value u
    split
    · extract_lets v
      have hv : v.shl = s.shl ∧ v.health = s.health := by
        dsimp only [v]
        split
        · exact hu
        · exact hu
      clear_value v
      rwa [(answerSess_ports ..).1, (answerSess_ports ..).2]
    · rwa [(answerSess_ports ..).1, (answerSess_ports ..).2]

theorem routeAbort_ports (s : State) (p : ChipId → Bool) (code : Nat) : (routeAbort s p code).shl = s.shl ∧
    (routeAbort s p code).health = s.health :=
  ⟨foldl_view (V := State.shl) (fun _ _ => (routeAnswer_ports ..).1) _ s,
    foldl_view (V := State.health) (fun _ _ => (routeAnswer_ports ..).2) _ s⟩

/-- A role leaves the ports and the conditions that stand. -/
theorem setRole_ports (s : State) (r : BitVec 2) : (setRole s r).shl = s.shl ∧ (setRole s r).health = s.health := by
  unfold setRole
  extract_lets u
  have hu : u.shl = s.shl ∧ u.health = s.health := by
    dsimp only [u]
    split
    · exact ⟨rfl, rfl⟩
    · exact ⟨rfl, rfl⟩
  clear_value u
  exact hu

theorem orphanEnter_ports (s : State) : (orphanEnter s).shl = s.shl ∧ (orphanEnter s).health.standing = s.health.standing := by
  unfold orphanEnter
  split
  · exact ⟨rfl, rfl⟩
  · extract_lets a
    have ha : a.shl = s.shl ∧ a.health.standing = s.health.standing := by
      obtain ⟨h1, h2⟩ := routeAbort_ports s (fun _ => true) abState
      exact ⟨(raiseEmcy_shl ..).trans h1, (congrArg Health.standing (raiseEmcy_health ..)).trans (congrArg Health.standing h2)⟩
    clear_value a
    obtain ⟨x, hx⟩ := trimPeerLost_eq (notice (setRole a 3) noticeFabric [3]) none
    rw [hx]
    dsimp only
    rw [notice_shl, notice_health, (setRole_ports a 3).1, (setRole_ports a 3).2]
    exact ha

/-- A lost port makes the others send, and ends no condition. -/
theorem portLost_sends (s : State) (p : ShlId) : Sends s (portLost s p) ∧ (portLost s p).health.standing = s.health.standing := by
  have hd : (distribute s).health = s.health := by
    have h := distribute_shl s
    obtain ⟨r, hr⟩ : ∃ r, reroute s = { s with fab.routes := r } := ⟨_, rfl⟩
    rw [hr] at h
    generalize distribute s = t at h
    exact (congrArg State.health h :)
  unfold portLost
  split
  · exact ⟨Sends.refl s, rfl⟩
  · split
    · exact ⟨Sends.of_shl (orphanEnter_ports s).1, (orphanEnter_ports s).2⟩
    · split
      · exact ⟨distribute_sends s, congrArg _ hd⟩
      · exact ⟨Sends.refl s, rfl⟩

theorem portLost_of_up {s : State} {p : ShlId} (h : (s.shl.get p).st ≠ .down) : portLost s p = s := if_pos h

/-- The condition of a port that is DOWN. -/
theorem portGoDown_port (s : State) (p : ShlId) : ((portGoDown s p).shl.get p).st = .down ∧
    ((portGoDown s p).shl.get p).replay = [] ∧ ((portGoDown s p).shl.get p).downs = (s.shl.get p).downs + 1 ∧
    stands (portGoDown s p) 0xFF40 (2 * p.val + 1) = true := by
  unfold portGoDown
  extract_lets u
  have hu : (u.shl.get p).downs = (s.shl.get p).downs := (congrArg ShlPort.downs (vector_get_map _ s.shl p)).trans rfl
  clear_value u
  unfold raise40
  rw [raiseStanding_shl]
  have hg := vmod_get_same u.shl p fun q => { q with
    st := .down, width := 0, replay := [], txq := [], credits := Vector.replicate 8 0,
    owed := Vector.replicate 8 0, late := [], downs := q.downs + 1 }
  refine ⟨(congrArg ShlPort.st hg :), (congrArg ShlPort.replay hg :), (congrArg ShlPort.downs hg :).trans ?_,
    stands_raiseStanding _ (by decide) _ _ _⟩
  rw [← hu]

/-- DOWN, with what follows from it. -/
theorem lostDown_port (s : State) (p : ShlId) : let t := portLost (portGoDown s p) p
    (t.shl.get p).st = .down ∧ (t.shl.get p).replay = [] ∧ (t.shl.get p).downs = (s.shl.get p).downs + 1 ∧
    stands t 0xFF40 (2 * p.val + 1) = true := by
  obtain ⟨hst, hrep, hdowns, hstand⟩ := portGoDown_port s p
  generalize portGoDown s p = u at hst hrep hdowns hstand ⊢
  obtain ⟨hs, hh⟩ := portLost_sends u p
  refine ⟨(hs.st p).trans hst, (hs.still p (by rw [hst]; decide)).trans hrep,
    (congrArg ShlPort.downs (hs.port p) :).trans hdowns, ?_⟩
  unfold stands
  rw [hh]
  exact hstand

/-! ## States of a port -/

theorem effPort_st {s : State} {p : ShlId} {x : PortSt} (h : effPort s p = x) (hx : x ≠ .off) (hd : x ≠ .detect) :
    (s.shl.get p).st = x := by
  unfold effPort at h
  dsimp only at h
  split at h
  · exact absurd h.symm hx
  · split at h
    · exact absurd h.symm hd
    · exact h

/-- One port changes its state, and nothing else happens. -/
theorem shlMod_st {c : Instr} {s : State} {p : ShlId} (x : PortSt) (hx : exec c s = .next (shlMod s p fun q => { q with st := x })) :
    Gives c s fun t => (t.shl.get p).st = x ∧ (∀ r : ShlId, r ≠ p → t.shl.get r = s.shl.get r) ∧
      t.mem = s.mem ∧ t.node = s.node ∧ t.out = s.out :=
  Gives.intro hx ⟨congrArg ShlPort.st (vmod_get_same ..), fun _ hr => vmod_get_other _ _ hr, rfl, rfl, rfl⟩

/-! ### Training ends -/

/-- A condition of another key starts to stand. -/
theorem stands_raiseStanding_of_not {s : State} {c k code key : Nat} (h : stands s c k = false) (hk : key ≠ k) (unit : Byte)
    (d : Bytes) : stands (raiseStanding s code unit key d) c k = false := by
  rcases raiseStanding_cases s code unit key d with ⟨-, e⟩ | ⟨-, e⟩
  · rw [e, h]
  · rw [stands, e, List.any_append, ← stands, h]
    simp [hk]

/-- A trained port shows whether it is DEGRADED, and is DOWN no longer. -/
theorem trained_spec (s : State) (p : ShlId) : let z := (s.shl.get p)
    ((trained s p).shl.get p) = { z with degraded := z.degraded || z.width == 1 } ∧
    (z.width = 1 → stands (trained s p) 0xFF40 (2 * p.val) = true) ∧
    (z.width = 2 → stands (trained s p) 0xFF40 (2 * p.val) = false) ∧
    stands (trained s p) 0xFF40 (2 * p.val + 1) = false ∧ (trained s p).out = s.out := by
  intro z
  unfold trained
  extract_lets t
  have hshl : t.shl = s.shl := clearStanding_shl ..
  have hout : t.out = s.out := clearStanding_out ..
  have hdown : stands t 0xFF40 (2 * p.val + 1) = false := stands_clearStanding_same s _ _
  clear_value t
  have hz : t.shl.get p = z := congrArg (·.get p) hshl
  rw [hz]
  by_cases h1 : z.width = 1
  · rw [if_pos (by rw [h1]; rfl)]
    refine ⟨?_, fun _ => stands_raiseStanding _ (by decide) _ _ _, fun h2 => absurd (h1.symm.trans h2) (by decide), ?_, ?_⟩
    · unfold raise40
      rw [raiseStanding_shl]
      refine (vmod_get_same ..).trans ?_
      rw [hz, show (z.width == 1) = true from beq_iff_eq.2 h1, Bool.or_true]
    · have hshown (f : ShlPort → ShlPort) : stands (shlMod t p f) 0xFF40 (2 * p.val + 1) = false := hdown
      exact stands_raiseStanding_of_not (hshown _) (by unfold ff40Deg; simp) _ _
    · unfold raise40
      exact (raiseStanding_out ..).trans hout
  · rw [if_neg (by simpa using h1)]
    rw [clearStanding_shl, hz]
    refine ⟨?_, fun h => absurd h h1, fun _ => stands_clearStanding_same t _ _,
      stands_clearStanding_of_not hdown _ _, (clearStanding_out ..).trans hout⟩
    rw [beq_false_of_ne h1, Bool.or_false]

/-- The port's unacknowledged flits go out; nothing else happens. -/
theorem resend_eq (s : State) (p : ShlId) : resend s p = { s with
    out := s.out ++ (s.shl.get p).replay.map fun f => Output.flit p f.2 } := by
  unfold resend
  generalize (s.shl.get p).replay = l
  induction l generalizing s with
  | nil => rw [List.map_nil, List.append_nil]; rfl
  | cons f l ih =>
    rw [List.foldl_cons, ih]
    simp [emit]

/-- A port that enters RETRAIN. -/
def ShlPort.retraining (now : Nat) (q : ShlPort) : ShlPort :=
  { q with st := .retrain, retrainAt := recentRetrains now q, retrains := q.retrains + 1, noProgress := 0 }

/-- A port that replays. -/
def ShlPort.replayed (q : ShlPort) : ShlPort :=
  { q with replays := q.replays + 1, replayRc := q.replayRc + 1, noProgress := q.noProgress + 1 }

theorem portRetrain_few {s : State} {p : ShlId}
    (h : ((s.shl.get p).retrainAt.filter fun t => decide (s.pht.cycles < t + cyclesPerSecond)).length < 2) :
    portRetrain s p = shlMod s p (ShlPort.retraining s.pht.cycles) :=
  if_neg (by
    show ¬ 3 ≤ (_ :: _ : List Nat).length
    rw [List.length_cons]
    omega)

theorem portRetrain_many {s : State} {p : ShlId}
    (h : 2 ≤ ((s.shl.get p).retrainAt.filter fun t => decide (s.pht.cycles < t + cyclesPerSecond)).length) :
    portRetrain s p = portGoDown (shlMod s p (ShlPort.retraining s.pht.cycles)) p :=
  if_pos (by
    show 3 ≤ (_ :: _ : List Nat).length
    rw [List.length_cons]
    omega)

/-- The state but for the ports and for what conditions change. -/
def State.sansPorts (s : State) : State := { s.sansNotes with shl := Vector.replicate 8 ShlPort.reset }

theorem ports_of_notes {s t : State} (h : t.sansNotes = s.sansNotes) : t.sansPorts = s.sansPorts := by
  have hv (u : State) : u.sansPorts = { u.sansNotes with shl := Vector.replicate 8 ShlPort.reset } := rfl
  rw [hv, hv, h]

theorem trained_ports (s : State) (p : ShlId) : (trained s p).sansPorts = s.sansPorts := by
  unfold trained
  extract_lets t
  have ht : t.sansPorts = s.sansPorts := ports_of_notes (clearStanding_notes ..)
  clear_value t
  split
  · exact (ports_of_notes (raiseStanding_notes ..)).trans ht
  · exact (ports_of_notes (clearStanding_notes ..)).trans ht

/-- The port as a training with the partner `r` leaves it. -/
def ShlPort.fresh (q : ShlPort) (r : ShlPartner) : ShlPort :=
  { q with
    st := .active, width := if r.width = 4 then 2 else 1, partner := some r,
    nextSeq := 0, expSeq := 0, replay := [], nakSent := false, noProgress := 0,
    credits := Vector.ofFn fun i : Fin 8 => r.pools.getD i.val 0,
    owed := Vector.replicate 8 0, late := [] }

section
variable {s : State} {p : ShlId}

theorem portConfig_gives {r : ShlPartner} (he : effPort s p = .config) (hf : partnerFits (s.shl.get p) p r = true) :
    Gives (.portConfig p r) s fun t => let z := t.shl.get p
      z.st = .active ∧ z.width = (if r.width = 4 then 2 else 1) ∧ z.partner = some r ∧ z.expSeq = 0 ∧
      (z.width = 1 → z.degraded = true ∧ stands t 0xFF40 (2 * p.val) = true) ∧
      (z.width = 2 → stands t 0xFF40 (2 * p.val) = false) ∧ stands t 0xFF40 (2 * p.val + 1) = false ∧
      ((s.shl.get p).txq = [] → fabUp s = false ∨ s.fab.role = 3 ∨ r.attach = true →
        z.nextSeq = 0 ∧ z.replay = [] ∧ ∀ i : Fin 8, z.credits.get i = r.pools.getD i.val 0) := by
  obtain ⟨u, hu⟩ : ∃ u, shlMod s p (fun q => q.fresh r) = u := ⟨_, rfl⟩
  have hx : exec (.portConfig p r) s = .next (greet (pumpAll (trained u p) p) p) :=
    hu ▸ if_pos (by rw [he, hf]; rfl)
  have hq : u.shl.get p = (s.shl.get p).fresh r := hu ▸ vmod_get_same ..
  have hfab : fabUp u = fabUp s ∧ u.fab = s.fab := hu ▸ ⟨rfl, rfl⟩
  clear hu
  obtain ⟨htz, hdeg, hgood, hnd, -⟩ := trained_spec u p
  have hv := trained_ports u p
  have htf : fabUp (trained u p) = fabUp s ∧ (trained u p).fab = s.fab :=
    ⟨(congrArg fabUp hv :).trans hfab.1, (congrArg State.fab hv :).trans hfab.2⟩
  rw [hq] at htz hdeg hgood
  generalize trained u p = t at hx htz hdeg hgood hnd htf
  have hs : Sends t (greet (pumpAll t p) p) := (pump_sends 64 t p).trans (greet_sends _ p)
  have hh : (greet (pumpAll t p) p).health = t.health :=
    (congrArg State.health ((greet_shl (pumpAll t p) p).trans (pump_shl 64 t p)) :)
  have hquiet : (s.shl.get p).txq = [] → fabUp s = false ∨ s.fab.role = 3 ∨ r.attach = true → greet (pumpAll t p) p = t := by
    intro hq0 hf0
    have htx : (t.shl.get p).txq = [] := by
      rw [htz]
      exact hq0
    have hpart : (t.shl.get p).partner = some r := by
      rw [htz]
      rfl
    rw [pumpAll_of_empty htx, greet_of_none hpart (by rw [htf.1, htf.2]; exact hf0)]
  generalize greet (pumpAll t p) p = v at hx hs hh hquiet
  have hz := (hs.port p).trans (congrArg ShlPort.sansTraffic htz)
  have hw : (v.shl.get p).width = if r.width = 4 then 2 else 1 := (congrArg ShlPort.width hz :)
  have hsame (c k : Nat) : stands v c k = stands t c k := by
    unfold stands
    rw [hh]
  refine Gives.intro hx ⟨(congrArg ShlPort.st hz :), hw, (congrArg ShlPort.partner hz :), (congrArg ShlPort.expSeq hz :),
    fun h1 => ⟨(congrArg ShlPort.degraded hz :).trans ?_, (hsame _ _).trans (hdeg (hw.symm.trans h1))⟩,
    fun h2 => (hsame _ _).trans (hgood (hw.symm.trans h2)), (hsame _ _).trans hnd, fun hq0 hf0 => ?_⟩
  · have : ((s.shl.get p).fresh r).width = 1 := hw.symm.trans h1
    rw [this]
    exact Bool.or_true _
  · rw [hquiet hq0 hf0, htz]
    exact ⟨rfl, rfl, fun i => vector_get_ofFn _ i⟩

/-- A retrain that is not the third of a second keeps what the port has in flight. -/
theorem portRetrain_few_gives (he : effPort s p = .active)
    (h : ((s.shl.get p).retrainAt.filter fun t => decide (s.pht.cycles < t + cyclesPerSecond)).length < 2) :
    Gives (.portRetrain p) s fun t => let z := t.shl.get p
      z.st = .retrain ∧ z.replay = (s.shl.get p).replay ∧ z.nextSeq = (s.shl.get p).nextSeq ∧
      z.expSeq = (s.shl.get p).expSeq ∧ z.credits = (s.shl.get p).credits ∧
      z.retrains = (s.shl.get p).retrains + 1 ∧ t.mem = s.mem ∧ t.node = s.node := by
  have hr := portRetrain_few h
  have hg := vmod_get_same s.shl p (ShlPort.retraining s.pht.cycles)
  have hz : (portRetrain s p).shl.get p = _ := (congrArg (fun u : State => u.shl.get p) hr).trans hg
  have hup : ((portRetrain s p).shl.get p).st ≠ .down := by rw [hz]; exact nofun
  have hx : exec (.portRetrain p) s = .next (portRetrain s p) :=
    (if_pos (by rw [he]; rfl)).trans (congrArg _ (portLost_of_up hup))
  refine Gives.intro hx ?_
  dsimp only
  rw [hz, hr]
  exact ⟨rfl, rfl, rfl, rfl, rfl, rfl, rfl, rfl⟩

/-- What a port that goes DOWN, and what follows from it, come to. -/
def WentDown (s t : State) (p : ShlId) : Prop := (t.shl.get p).st = .down ∧ (t.shl.get p).replay = [] ∧
  (t.shl.get p).downs = (s.shl.get p).downs + 1 ∧ stands t 0xFF40 (2 * p.val + 1) = true

theorem portRetrain_many_down
    (h : 2 ≤ ((s.shl.get p).retrainAt.filter fun t => decide (s.pht.cycles < t + cyclesPerSecond)).length) :
    WentDown s (portLost (portRetrain s p) p) p := by
  rw [portRetrain_many h]
  obtain ⟨u, hu⟩ : ∃ u, (shlMod s p (ShlPort.retraining s.pht.cycles)) = u :=
    ⟨_, rfl⟩
  have hd : (u.shl.get p).downs = (s.shl.get p).downs := 
    hu ▸ (congrArg ShlPort.downs (vmod_get_same s.shl p (ShlPort.retraining s.pht.cycles))).trans rfl
  rw [hu]
  obtain ⟨hst, hrep, hdowns, hstand⟩ := lostDown_port u p
  exact ⟨hst, hrep, hdowns.trans (by rw [hd]), hstand⟩

/-- A retrained port is RETRAIN, or DOWN the third time. -/
theorem portRetrain_st (s : State) (p : ShlId) : ((portLost (portRetrain s p) p).shl.get p).st = .retrain ∨
    ((portLost (portRetrain s p) p).shl.get p).st = .down := by
  by_cases h : ((s.shl.get p).retrainAt.filter fun t => decide (s.pht.cycles < t + cyclesPerSecond)).length < 2
  · refine .inl (((portLost_sends ..).1.st p).trans ?_)
    rw [portRetrain_few h]
    exact congrArg ShlPort.st (vmod_get_same ..)
  · exact .inr (portRetrain_many_down (by omega)).1

/-- A finished retrain sends the unacknowledged flits again. -/
theorem portRetrainDone_gives (he : effPort s p = .retrain) : Gives (.portRetrainDone p) s fun t =>
    (t.shl.get p).st = .active ∧ (t.shl.get p).expSeq = (s.shl.get p).expSeq ∧
    ((s.shl.get p).txq = [] → (t.shl.get p).replay = (s.shl.get p).replay ∧ (t.shl.get p).credits = (s.shl.get p).credits ∧
      t.out = s.out ++ (s.shl.get p).replay.map fun f => Output.flit p f.2) := by
  obtain ⟨u, hu⟩ : ∃ u, shlMod s p (fun q => { q with st := .active }) = u := ⟨_, rfl⟩
  have hq : u.shl.get p = { s.shl.get p with st := .active } := hu ▸ vmod_get_same ..
  have hout : u.out = s.out := hu ▸ rfl
  have hx : exec (.portRetrainDone p) s = .next (pumpAll (resend (trained u p) p) p) := hu ▸ if_pos (by rw [he]; rfl)
  clear hu
  obtain ⟨htz, -, -, -, hto⟩ := trained_spec u p
  rw [hq] at htz
  rw [resend_eq] at hx
  rw [hout] at hto
  generalize trained u p = t at hx htz hto
  obtain ⟨w, hw⟩ : ∃ w : State, { t with out := t.out ++ (t.shl.get p).replay.map fun f => Output.flit p f.2 } = w := ⟨_, rfl⟩
  have hwz : w.shl.get p = t.shl.get p := hw ▸ rfl
  have hwo : w.out = s.out ++ (s.shl.get p).replay.map fun f => Output.flit p f.2 := by
    rw [← hw]
    dsimp only
    rw [htz, hto]
  rw [hw] at hx
  have hz := ((pump_sends 64 w p).port p).trans (congrArg ShlPort.sansTraffic (hwz.trans htz))
  refine Gives.intro hx ⟨(congrArg ShlPort.st hz :), (congrArg ShlPort.expSeq hz :), fun hq0 => ?_⟩
  rw [pumpAll_of_empty (by rw [hwz, htz]; exact hq0), hwz, htz]
  exact ⟨rfl, rfl, hwo⟩

/-! ## Acknowledgements -/

/-- An ACK that names a flit held frees those before it. -/
theorem ackTo_replay {q : ShlPort} {k : Nat} (hk : k < q.replay.length) (hl : q.replay.length < 4096) :
    (ackTo q (q.nextSeq - BitVec.ofNat 12 q.replay.length + BitVec.ofNat 12 (k + 1))).replay = q.replay.drop (k + 1) := by
  have hn : (q.nextSeq - BitVec.ofNat 12 q.replay.length + BitVec.ofNat 12 (k + 1)
      - (q.nextSeq - BitVec.ofNat 12 q.replay.length)).toNat = k + 1 := by
    generalize q.nextSeq - BitVec.ofNat 12 q.replay.length = b
    have : b + BitVec.ofNat 12 (k + 1) - b = BitVec.ofNat 12 (k + 1) := by
      rw [BitVec.add_comm, BitVec.add_sub_cancel]
    rw [this, BitVec.toNat_ofNat, Nat.mod_eq_of_lt (by omega)]
  unfold ackTo
  extract_lets n
  have hn : n = k + 1 := hn
  clear_value n
  subst hn
  rw [if_pos ⟨by omega, by omega⟩]

/-- An ACK leaves what the port waits to send, expects and has counted. -/
theorem ackTo_rest (q : ShlPort) (a : BitVec 12) : (ackTo q a).txq = q.txq ∧ (ackTo q a).st = q.st ∧
    (ackTo q a).expSeq = q.expSeq ∧ (ackTo q a).nakSent = q.nakSent ∧ (ackTo q a).replays = q.replays ∧
    (ackTo q a).partner = q.partner := by
  unfold ackTo
  extract_lets n
  split
  · exact ⟨rfl, rfl, rfl, rfl, rfl, rfl⟩
  · exact ⟨rfl, rfl, rfl, rfl, rfl, rfl⟩

/-! ## Replays -/

/-- A replay short of the eighth in vain sends the flits held again. -/
theorem replayNow_few (hst : (s.shl.get p).st = .active) (h : (s.shl.get p).noProgress < 7) :
    ∃ t, portLost (replayNow s p) p = t ∧
      t.shl.get p = (s.shl.get p).replayed ∧
      t.out = s.out ++ (s.shl.get p).replay.map (fun f => Output.flit p f.2) ∧ t.mem = s.mem := by
  obtain ⟨u, hu⟩ : ∃ u, shlMod s p ShlPort.replayed = u := ⟨_, rfl⟩
  have hg : u.shl.get p = (s.shl.get p).replayed := hu ▸ vmod_get_same ..
  have hrest : u.out = s.out ∧ u.mem = s.mem := hu ▸ ⟨rfl, rfl⟩
  have hnow : replayNow s p = resend u p := hu ▸ if_neg (by
    show ¬ 8 ≤ ((shlMod s p ShlPort.replayed).shl.get p).noProgress
    rw [hu, hg]
    exact Nat.not_le.2 (Nat.succ_lt_succ h))
  have hre := resend_eq u p
  refine ⟨_, rfl, ?_⟩
  rw [hnow, hre, portLost_of_up (by dsimp only; rw [hg]; exact fun e => absurd (hst.symm.trans e) (by decide))]
  dsimp only
  rw [hg, hrest.1, hrest.2]
  exact ⟨rfl, rfl, rfl⟩

/-- The eighth replay in vain makes the port retrain. -/
theorem replayNow_many (h : 7 ≤ (s.shl.get p).noProgress) : ((portLost (replayNow s p) p).shl.get p).st = .retrain ∨
    ((portLost (replayNow s p) p).shl.get p).st = .down := by
  obtain ⟨u, hu⟩ : ∃ u, shlMod s p ShlPort.replayed = u := ⟨_, rfl⟩
  have hg : (u.shl.get p).noProgress = (s.shl.get p).noProgress + 1 := 
    hu ▸ (congrArg ShlPort.noProgress (vmod_get_same s.shl p ShlPort.replayed)).trans rfl
  have hnow : replayNow s p = portRetrain u p := hu ▸ if_pos (by
    show 8 ≤ ((shlMod s p ShlPort.replayed).shl.get p).noProgress
    rw [hu, hg]
    exact Nat.succ_le_succ h)
  rw [hnow]
  exact portRetrain_st u p

/-! ## Flits that arrive -/

/-- The receiving side of a port is as it was, and what is no part of the Shroud ports too. -/
structure Hears (s t : State) (p : ShlId) : Prop where
  rest : t.sansShl = s.sansShl
  expSeq : (t.shl.get p).expSeq = (s.shl.get p).expSeq
  nakSent : (t.shl.get p).nakSent = (s.shl.get p).nakSent
  partner : (t.shl.get p).partner = (s.shl.get p).partner

theorem Hears.trans {t u : State} (h : Hears s t p) (k : Hears t u p) : Hears s u p :=
  ⟨k.rest.trans h.rest, k.expSeq.trans h.expSeq, k.nakSent.trans h.nakSent, k.partner.trans h.partner⟩

/-- What sends leaves the receiving side. -/
theorem Sends.hears {t : State} (h : Sends s t) (hr : t.sansShl = s.sansShl) (p : ShlId) : Hears s t p :=
  ⟨hr, (congrArg ShlPort.expSeq (h.port p) :), (congrArg ShlPort.nakSent (h.port p) :), (congrArg ShlPort.partner (h.port p) :)⟩

theorem pumpAll_hears (s : State) (p : ShlId) : Hears s (pumpAll s p) p := (pump_sends 64 s p).hears (pump_shl ..) p

theorem takeAck_hears (s : State) (p : ShlId) (f : Bytes) : Hears s (takeAck s p f) p := by
  unfold takeAck
  split
  · obtain ⟨u, hu⟩ : ∃ u, shlMod s p (fun q => ackTo q (flitAck f)) = u := ⟨_, rfl⟩
    have hg : u.shl.get p = ackTo (s.shl.get p) (flitAck f) := hu ▸ vmod_get_same ..
    have hr : u.sansShl = s.sansShl := hu ▸ shlMod_shl ..
    obtain ⟨-, -, he, hn, -, hp⟩ := ackTo_rest (s.shl.get p) (flitAck f)
    rw [hu]
    exact Hears.trans ⟨hr, by rw [hg, he], by rw [hg, hn], by rw [hg, hp]⟩ (pumpAll_hears u p)
  · exact ⟨rfl, rfl, rfl, rfl⟩

theorem acknowledge_hears (s : State) (p : ShlId) : Hears s (acknowledge s p) p := by
  unfold acknowledge
  extract_lets q
  split
  · exact (creditFlit_sends s p).hears (creditFlit_shl ..) p
  · exact ⟨rfl, rfl, rfl, rfl⟩

theorem sendResponse_hears (s : State) (p : ShlId) (m : Bytes) : Hears s (sendResponse s p m) p := by
  unfold sendResponse
  split
  · exact (enqueue_sends ..).hears (enqueue_shl ..) p
  · exact (enqueue_sends ..).hears (enqueue_shl ..) p

/-- The port once the flit it expects has come. -/
def ShlPort.advanced (q : ShlPort) (f : Bytes) : ShlPort :=
  { q with
    expSeq := q.expSeq + 1, nakSent := false,
    credits := Vector.ofFn fun i : Fin 8 => q.credits.get i + (flitCredits f).get i }

/-- The expected flit: its messages are taken from a state that differs from `s` in the ports alone. -/
theorem flitExpected (he : effPort s p = .active) {f : Bytes} (hok : flitOk f = true) (hsq : flitSeqd f = true)
    (hseq : flitSeq f = (s.shl.get p).expSeq) : ∃ u : State, u.sansShl = s.sansShl ∧
      (u.shl.get p).expSeq = (s.shl.get p).expSeq + 1 ∧ (u.shl.get p).nakSent = false ∧
      (u.shl.get p).partner = (s.shl.get p).partner ∧
      ∀ t, takeMessages p (flitMsgs 15 (slice f 11 240)) u = .next t →
        exec (.flitReceive p f) s = .next (acknowledge (pumpAll t p) p) := by
  obtain ⟨v, hv⟩ : ∃ v, shlMod s p (fun q => q.advanced f) = v := ⟨_, rfl⟩
  have hg : v.shl.get p = (s.shl.get p).advanced f := hv ▸ vmod_get_same ..
  have hr : v.sansShl = s.sansShl := hv ▸ shlMod_shl ..
  obtain ⟨hrest, hexp, hnak, hpart⟩ := takeAck_hears v p f
  refine ⟨takeAck v p f, hrest.trans hr, hexp.trans (by rw [hg]; rfl), hnak.trans (by rw [hg]; rfl), hpart.trans (by rw [hg]; rfl),
    fun t ht => ?_⟩
  have hx : exec (.flitReceive p f) s = (match takeMessages p (flitMsgs 15 (slice f 11 240)) (takeAck v p f) with
      | .next t => .next (acknowledge (pumpAll t p) p)
      | o => o) := by
    refine (if_pos (by rw [he]; rfl)).trans ?_
    show flitReceive s p f = _
    unfold flitReceive
    dsimp only
    rw [hok, hsq, if_neg (by decide), if_neg (by decide), if_pos hseq, ← hv] <;> rfl
  rw [hx, ht]

/-- A write to this chip's memory that the ACT and the memory let pass is performed and acknowledged. -/
theorem serveReq_write {m : Bytes} {n : Nat} (hmk : msgMk m = mkWr) (h3 : s.fab.role ≠ 3) (hoff : homeOff s = false)
    (hp : msgPriv m < 3) (hn : reqBytes m = some n) (hram : isRam (msgOff m) = true)
    (hact : actCheck s (27 + msgPriv m) accStore (msgOff m) n = none) (hbus : busErr s (msgOff m) n = none) :
    serveReq s m = .answer (responseTo s m mkWrAck 0 []) (noteHomeWrite (s.wr (msgOff m) ((msgData m).take n)) (msgOff m)
      ((msgData m).take n).length) := by
  have hacc : reqAccess m = accStore := by
    unfold reqAccess
    rw [hmk]
    rfl
  have hperf : performReq s m n = (responseTo s m mkWrAck 0 [], noteHomeWrite (s.wr (msgOff m) ((msgData m).take n)) (msgOff m)
      ((msgData m).take n).length) := by
    unfold performReq
    dsimp only
    rw [hmk, if_neg (by decide), if_pos rfl]
    unfold busWrite
    rw [if_pos hram]
    rfl
  unfold serveReq
  dsimp only
  rw [if_neg h3, hoff, if_neg (by decide), if_neg (by omega), hn]
  dsimp only
  rw [hacc, hact]
  dsimp only
  rw [hbus]
  dsimp only
  rw [hperf]

theorem homeOff_congr {t : State} (hb : t.boot = s.boot) (hd : t.dev = s.dev) (hr : t.reef = s.reef) : homeOff t = homeOff s := by
  unfold homeOff
  rw [hb, domUp_congr hd hr]

theorem busErr_ram_congr {t : State} {a : Nat} (hram : isRam a = true) (hd : t.dev = s.dev) (hr : t.reef = s.reef)
    (hm : t.ddr = s.ddr) (n : Nat) : busErr t a n = busErr s a n := by
  unfold busErr
  rw [if_pos hram, if_pos hram, ramErr_congr hd hr hm]

/-- A flit with one write to this chip. -/
theorem flitWrite_gives (he : effPort s p = .active) {f m : Bytes} {n : Nat} (hok : flitOk f = true) (hsq : flitSeqd f = true)
    (hseq : flitSeq f = (s.shl.get p).expSeq) (hmsgs : flitMsgs 15 (slice f 11 240) = [m]) (hdst : msgDst m = ownChip s)
    (hmk : msgMk m = mkWr) (h3 : s.fab.role ≠ 3) (hoff : homeOff s = false) (hatt : attached s p = false) (hp : msgPriv m < 3)
    (hn : reqBytes m = some n) (hram : isRam (msgOff m) = true)
    (hact : actCheck s (27 + msgPriv m) accStore (msgOff m) n = none) (hbus : busErr s (msgOff m) n = none)
    (hwf : s.memWf = true) :
    Gives (.flitReceive p f) s fun t =>
      (t.shl.get p).expSeq = (s.shl.get p).expSeq + 1 ∧ (n ≤ (msgData m).length → t.rd (msgOff m) n = (msgData m).take n) ∧
      ∀ a : Nat, a < msgOff m ∨ msgOff m + n ≤ a → memRead t.mem a = memRead s.mem a := by
  obtain ⟨u, hu, hexp, -, hpart, hx⟩ := flitExpected he hok hsq hseq
  have hfab : u.fab = s.fab := (congrArg State.fab hu :)
  have hdev : u.dev = s.dev := (congrArg State.dev hu :)
  have hreef : u.reef = s.reef := (congrArg State.reef hu :)
  have hboot : u.boot = s.boot := (congrArg State.boot hu :)
  have hddr : u.ddr = s.ddr := (congrArg State.ddr hu :)
  have hmem : u.mem = s.mem := (congrArg State.mem hu :)
  have hactT : u.act = s.act := (congrArg State.act hu :)
  have h3U : u.fab.role ≠ 3 := hfab ▸ h3
  have hoffU : homeOff u = false := (homeOff_congr hboot hdev hreef).trans hoff
  have hbusU : busErr u (msgOff m) n = none := (busErr_ram_congr hram hdev hreef hddr n).trans hbus
  have hactU := actCheck_none_congr hactT hact
  have hsrv := serveReq_write hmk h3U hoffU hp hn hram hactU hbusU
  obtain ⟨t, ht⟩ : ∃ t, noteHomeWrite (u.wr (msgOff m) ((msgData m).take n)) (msgOff m) ((msgData m).take n).length = t := ⟨_, rfl⟩
  have htm : t.mem = memWriteN s.mem (msgOff m) ((msgData m).take n) := by
    rw [← ht, ← hmem]
    rfl
  have hts : t.shl = u.shl := ht ▸ rfl
  rw [ht] at hsrv
  obtain ⟨w, hw⟩ : ∃ w, sendResponse (oweCredit t p (msgPool m) (msgSlots m)) p (responseTo u m mkWrAck 0 []) = w := ⟨_, rfl⟩
  have htake : takeMessages p (flitMsgs 15 (slice f 11 240)) u = .next w := by
    have hone : takeMessage p u m = .next w := by
      have hua : attached u p = false := (show attached u p = attached s p by unfold attached; rw [hpart]).trans hatt
      have huo : ownChip u = ownChip s := by unfold ownChip; rw [hdev]
      unfold takeMessage
      extract_lets freed
      rw [hua, if_neg (by rw [Bool.false_and]; decide), if_neg (by rw [huo, hdst]; exact fun h => h rfl),
        if_pos (by rw [hmk]; decide), hsrv]
      exact congrArg _ hw
    rw [hmsgs, takeMessages, hone]
    rfl
  have hear : Hears t (acknowledge (pumpAll w p) p) p := by
    have hw : Hears t w p := hw ▸ Hears.trans ((oweCredit_sends ..).hears (oweCredit_shl ..) p) (sendResponse_hears ..)
    exact (hw.trans (pumpAll_hears w p)).trans (acknowledge_hears ..)
  have hx := hx w htake
  generalize acknowledge (pumpAll w p) p = v at hear hx
  refine Gives.intro hx ?_
  have hfm : v.mem = memWriteN s.mem (msgOff m) ((msgData m).take n) :=
    (congrArg State.mem hear.rest :).trans htm
  refine ⟨hear.expSeq.trans (by rw [hts, hexp]), fun hlen => ?_, fun a ha => ?_⟩
  · have hl : ((msgData m).take n).length = n := by rw [List.length_take]; omega
    have := memReadN_memWriteN (a := msgOff m) (bs := (msgData m).take n) hwf
    rw [hl] at this
    show memReadN _ _ _ = _
    rw [hfm, this]
  · rw [hfm]
    refine memRead_memWriteN_out hwf ?_
    rw [List.length_take]
    omega

/-- A flit with no message. -/
theorem flitEmpty_gives (he : effPort s p = .active) {f : Bytes} (hok : flitOk f = true) (hsq : flitSeqd f = true)
    (hseq : flitSeq f = (s.shl.get p).expSeq) (hmsgs : flitMsgs 15 (slice f 11 240) = []) :
    Gives (.flitReceive p f) s fun t => (t.shl.get p).expSeq = (s.shl.get p).expSeq + 1 ∧ (t.shl.get p).nakSent = false ∧
      t.mem = s.mem ∧ t.node = s.node := by
  obtain ⟨u, hu, hexp, hnak, -, hx⟩ := flitExpected he hok hsq hseq
  have hear := (pumpAll_hears u p).trans (acknowledge_hears ..)
  have hv := hear.rest.trans hu
  have hx := hx u (by rw [hmsgs]; rfl)
  generalize acknowledge (pumpAll u p) p = v at hear hx hv
  exact Gives.intro hx ⟨hear.expSeq.trans hexp, hear.nakSent.trans hnak,
    (congrArg State.mem hv :), (congrArg State.node hv :)⟩

/-- A NAK leaves when none is out. -/
theorem sendNak_spec (s : State) (p : ShlId) : (sendNak s p).shl.get p = { s.shl.get p with nakSent := true } ∧
    (sendNak s p).out = (if (s.shl.get p).nakSent then s.out else s.out ++ [.flit p (ackFlit (s.shl.get p) true)]) ∧
    (sendNak s p).mem = s.mem := by
  unfold sendNak
  dsimp only
  cases h : (s.shl.get p).nakSent with
  | true =>
    rw [if_pos rfl, if_pos rfl, ← h]
    exact ⟨rfl, rfl, rfl⟩
  | false =>
    rw [if_neg (by decide), if_neg (by decide)]
    exact ⟨vmod_get_same .., rfl, rfl⟩

/-- A flit with a bad CRC. -/
theorem flitBad_gives (he : effPort s p = .active) {f : Bytes} (hok : flitOk f = false) : Gives (.flitReceive p f) s fun t =>
    t.shl.get p = { s.shl.get p with crcErrors := (s.shl.get p).crcErrors + 1, nakSent := true } ∧ t.mem = s.mem ∧
    t.out = if (s.shl.get p).nakSent then s.out else s.out ++ [.flit p (ackFlit (s.shl.get p) true)] := by
  obtain ⟨u, hu⟩ : ∃ u, shlMod s p (fun q => { q with crcErrors := q.crcErrors + 1 }) = u := ⟨_, rfl⟩
  have hg : u.shl.get p = { s.shl.get p with crcErrors := (s.shl.get p).crcErrors + 1 } := hu ▸ vmod_get_same ..
  have hrest : u.out = s.out ∧ u.mem = s.mem := hu ▸ ⟨rfl, rfl⟩
  have hx : exec (.flitReceive p f) s = .next (sendNak u p) := by
    refine (if_pos (by rw [he]; rfl)).trans ?_
    rw [← hu]
    exact if_pos (by rw [hok]; rfl)
  obtain ⟨hz, ho, hm⟩ := sendNak_spec u p
  rw [hg] at hz ho
  rw [hrest.1] at ho
  exact Gives.intro hx ⟨hz, hm.trans hrest.2, ho⟩

/-- A numbered flit that is not the one expected. -/
theorem flitOther (he : effPort s p = .active) {f : Bytes} (hok : flitOk f = true) (hsq : flitSeqd f = true)
    (hseq : flitSeq f ≠ (s.shl.get p).expSeq) : exec (.flitReceive p f) s =
      if ((s.shl.get p).expSeq - flitSeq f).toNat ≤ 2048 then .next (emit s (.flit p (ackFlit (s.shl.get p) false)))
      else .next (sendNak s p) := by
  refine (if_pos (by rw [he]; rfl)).trans ?_
  unfold flitReceive
  dsimp only
  rw [hok, hsq, if_neg (by decide), if_neg (by decide), if_neg hseq]

/-- An unnumbered acknowledgement. -/
theorem flitAck_gives (he : effPort s p = .active) {f : Bytes} (hok : flitOk f = true) (hsq : flitSeqd f = false)
    (hnak : flitNak f = false) (hq : (s.shl.get p).txq = []) : Gives (.flitReceive p f) s fun t =>
      (t.shl.get p).replay = (if flitAckOk f then (ackTo (s.shl.get p) (flitAck f)).replay else (s.shl.get p).replay) ∧
      t.mem = s.mem ∧ t.out = s.out := by
  have hx : exec (.flitReceive p f) s = .next (takeAck s p f) := by
    refine (if_pos (by rw [he]; rfl)).trans ?_
    show flitReceive s p f = _
    unfold flitReceive
    dsimp only
    rw [hok, hsq, hnak, if_neg (by decide), if_pos (by decide), if_neg (by decide)]
  refine Gives.intro hx ?_
  unfold takeAck
  split
  · obtain ⟨u, hu⟩ : ∃ u, shlMod s p (fun q => ackTo q (flitAck f)) = u := ⟨_, rfl⟩
    have hg : u.shl.get p = ackTo (s.shl.get p) (flitAck f) := hu ▸ vmod_get_same ..
    have hrest : u.mem = s.mem ∧ u.out = s.out := hu ▸ ⟨rfl, rfl⟩
    rw [hu, pumpAll_of_empty (by rw [hg, (ackTo_rest ..).1, hq]), hg]
    exact ⟨rfl, hrest⟩
  · exact ⟨rfl, rfl, rfl⟩

/-- A NAK with nothing to replay, and one short of the eighth replay in vain. -/
theorem nak_gives (he : effPort s p = .active) {f : Bytes} (hok : flitOk f = true) (hsq : flitSeqd f = false)
    (hnak : flitNak f = true) :
    ((ackTo (s.shl.get p) (flitAck f)).replay = [] → Gives (.nakReceive p f) s fun t =>
      t.shl.get p = ackTo (s.shl.get p) (flitAck f) ∧ t.out = s.out ∧ t.mem = s.mem) ∧
    ((ackTo (s.shl.get p) (flitAck f)).replay ≠ [] → (ackTo (s.shl.get p) (flitAck f)).noProgress < 7 →
      Gives (.nakReceive p f) s fun t => (t.shl.get p).replay = (ackTo (s.shl.get p) (flitAck f)).replay ∧
        (t.shl.get p).replays = (s.shl.get p).replays + 1 ∧
        (t.shl.get p).noProgress = (ackTo (s.shl.get p) (flitAck f)).noProgress + 1 ∧
        t.out = s.out ++ (ackTo (s.shl.get p) (flitAck f)).replay.map (fun g => Output.flit p g.2) ∧ t.mem = s.mem) := by
  obtain ⟨u, hu⟩ : ∃ u, shlMod s p (fun q => ackTo q (flitAck f)) = u := ⟨_, rfl⟩
  have hg : u.shl.get p = ackTo (s.shl.get p) (flitAck f) := hu ▸ vmod_get_same ..
  have hrest : u.out = s.out ∧ u.mem = s.mem := hu ▸ ⟨rfl, rfl⟩
  have hx : exec (.nakReceive p f) s = .next (if (u.shl.get p).replay.isEmpty then u else portLost (replayNow u p) p) :=
    hu ▸ if_pos (by rw [he, hok, hsq, hnak]; rfl)
  obtain ⟨-, hst, -, -, hcount, -⟩ := ackTo_rest (s.shl.get p) (flitAck f)
  rw [hg] at hx
  refine ⟨fun h0 => ?_, fun h0 h7 => ?_⟩
  · rw [if_pos (by rw [h0]; rfl)] at hx
    exact Gives.intro hx ⟨hg, hrest⟩
  · rw [if_neg (by rwa [List.isEmpty_iff])] at hx
    obtain ⟨t, ht, hz, ho, hm⟩ := replayNow_few (s := u) (p := p) (by rw [hg, hst]; exact effPort_st he (by decide) (by decide))
      (by rwa [hg])
    rw [ht] at hx
    rw [hg] at hz ho
    refine Gives.intro hx ?_
    rw [hz, ho, hm, hrest.1, hrest.2, ← hcount]
    exact ⟨rfl, rfl, rfl, rfl, rfl⟩

end

/-- Settles O51, by what sending can change of a port and by each event of training, retry and DOWN. -/
theorem portsAndFlits : Obligations.PortsAndFlits := by
  intro s p q st again
  refine ⟨fun b => ⟨fun he => ?_, fun he => ?_, fun he => ?_, fun he => ?_⟩, fun he => ?_, fun he => ?_, fun he => ?_, fun he => ?_,
    fun r => ⟨portConfig_gives, fun h => ?_⟩, fun he => ⟨portRetrain_few_gives he, fun h => ?_⟩,
    fun he => ⟨?_, ?_, fun f => ⟨?_, ?_⟩⟩, fun he => ⟨?_, portRetrainDone_gives he⟩, fun he => ⟨?_, ?_⟩, fun he f => ?_,
    fun k => ackTo_replay, fun he h0 => ⟨fun h7 => ?_, fun h7 => ?_⟩, fun h0 => ?_⟩
  · exact shlMod_st _ (if_pos (by rw [he]; rfl))
  · exact shlMod_st _ (if_pos (by rw [he]; rfl))
  · exact if_neg (by simpa using he)
  · exact if_neg (by simpa using he)
  · exact shlMod_st _ (if_pos (by rw [he]; rfl))
  · exact if_neg (by simpa using he)
  · exact shlMod_st _ (if_pos (by rw [he]; rfl))
  · exact if_neg (by simpa using he)
  · refine if_neg ?_
    rcases h with h | h
    · simp [h]
    · rw [h, Bool.and_false]
      decide
  · exact Gives.intro (if_pos (by rw [he]; rfl)) (portRetrain_many_down h)
  · exact if_neg (by simpa using he)
  · exact if_neg (by simp [he])
  · exact if_neg (by simpa using he)
  · exact if_neg (by simp [he])
  · exact Gives.intro (if_pos (by rw [he]; rfl)) (lostDown_port s p)
  · exact if_neg (by simpa using he)
  · exact if_neg (by simpa using he)
  · intro seq nak
    refine ⟨flitBad_gives he, fun hok hsq hne => ⟨fun h => ?_, fun h => ?_⟩, fun hok hsq hseq => ⟨fun hm => flitEmpty_gives he hok hsq hseq hm,
      fun m n hm hdst hmk h3 hoff hatt hp hn hram hact hbus hwf =>
        flitWrite_gives he hok hsq hseq hm hdst hmk h3 hoff hatt hp hn hram hact hbus hwf⟩,
      fun hok hsq hnak hq => flitAck_gives he hok hsq hnak hq, fun hok hsq hnak => nak_gives he hok hsq hnak, fun h => ?_⟩
    · exact (flitOther he hok hsq hne).trans (if_pos h)
    · obtain ⟨hz, ho, hm⟩ := sendNak_spec s p
      exact Gives.intro ((flitOther he hok hsq hne).trans (if_neg (Nat.not_le.2 h))) ⟨hz, ho, hm⟩
    · refine if_neg ?_
      rcases h with h | h | h <;> simp [h]
  · obtain ⟨t, ht, hz, ho, hm⟩ := replayNow_few (effPort_st he (by decide) (by decide)) h7
    refine Gives.intro (if_pos ?_) (ht ▸ ⟨hz, ho, hm⟩)
    rw [he, Bool.and_eq_true, Bool.not_eq_true', List.isEmpty_eq_false_iff]
    exact ⟨rfl, h0⟩
  · refine Gives.intro (if_pos ?_) (replayNow_many h7)
    rw [he, Bool.and_eq_true, Bool.not_eq_true', List.isEmpty_eq_false_iff]
    exact ⟨rfl, h0⟩
  · refine if_neg ?_
    rw [show (s.shl.get p).replay = [] from h0]
    simp

end Sys2Proof.Machine

end

section

namespace Sys2Proof.Machine

/-! ## Spar cores and the scheduler's bookkeeping -/

section
variable {s : State} {c d : CoreId}

/-- A core but for the course it works on and the interrupts that tell it of that. -/
def SparCore.sansTask (x : SparCore) : SparCore :=
  { x with cur := none, pre := none, done := false, recallTo := none, irq := 0, irqRpt := false }

theorem coreMod_task {f : SparCore → SparCore} (hf : ∀ x, (f x).sansTask = x.sansTask) (s : State) (c d : CoreId) :
    (coreOf (coreMod s c f) d).sansTask = (coreOf s d).sansTask := by
  rw [coreOf_coreMod]
  split
  · next h => rw [hf, h]
  · rfl

theorem courseMod_spar (s : State) (t : CourseTag) (f : Course → Course) : (courseMod s t f).spar = s.spar :=
  ite_view (V := State.spar) rfl rfl

theorem cancelPre_task (s : State) (c d : CoreId) : (coreOf (cancelPre s c) d).sansTask = (coreOf s d).sansTask := by
  unfold cancelPre
  split
  · rfl
  · next t _ =>
    obtain ⟨u, hu⟩ : ∃ u : State, ({ s with csc.cancels := s.csc.cancels ++
        [(c, if t.course = 0 then none else some t.upper)] } : State) = u := ⟨_, rfl⟩
    have hs : (coreOf u d) = coreOf s d := hu ▸ rfl
    rw [hu, ← hs]
    exact coreMod_task (f := fun x => { x with pre := none }) (fun _ => rfl) u c d

theorem returnPre_task (s : State) (c : CoreId) (drop : Bool) (d : CoreId) :
    (coreOf (returnPre s c drop) d).sansTask = (coreOf s d).sansTask := by
  unfold returnPre
  split
  · rfl
  · exact (cancelPre_task ..).trans (congrArg (fun v => SparCore.sansTask (v.get d)) (courseMod_spar ..))

theorem recallCore_task (s : State) (c : CoreId) (requeue : Bool) (d : CoreId) :
    (coreOf (recallCore s c requeue) d).sansTask = (coreOf s d).sansTask := by
  unfold recallCore
  split
  · rfl
  · split
    · rfl
    · extract_lets u
      have hu : u.spar = s.spar := courseMod_spar ..
      clear_value u
      refine (coreMod_task (f := fun x => { x with irq := x.irq ||| (1#5 <<< 0) }.noteRpt) (fun _ => rfl) _ c d).trans ?_
      refine (coreMod_task (f := fun x => { x with recallTo := some requeue }) (fun _ => rfl) u c d).trans ?_
      exact congrArg (fun v => SparCore.sansTask (v.get d)) hu

theorem obdCloseDropped_spar (s : State) (tag : W16) : (obdCloseDropped s tag).spar = s.spar := by
  unfold obdCloseDropped
  split <;> rfl

theorem stopJob_task (s : State) (tag : W16) (cause : BitVec 3) (fault : W32) (d : CoreId) :
    (coreOf (stopJob s tag cause fault) d).sansTask = (coreOf s d).sansTask := by
  have hget {u v : State} (h : u.spar = v.spar) : (coreOf u d).sansTask = (coreOf v d).sansTask :=
    congrArg (fun w => SparCore.sansTask (w.get d)) h
  unfold stopJob
  split
  · rfl
  · extract_lets a b e f
    have ha : (coreOf a d).sansTask = (coreOf s d).sansTask := hget rfl
    have hb : (coreOf b d).sansTask = (coreOf a d).sansTask :=
      foldl_view (V := fun u : State => (coreOf u d).sansTask)
        (fun u c => ite_view (V := fun u : State => (coreOf u d).sansTask) (returnPre_task ..) rfl) _ a
    have he : (coreOf e d).sansTask = (coreOf b d).sansTask :=
      foldl_view (V := fun u : State => (coreOf u d).sansTask)
        (fun u c => ite_view (V := fun u : State => (coreOf u d).sansTask) (recallCore_task ..) rfl) _ b
    have hf : (coreOf f d).sansTask = (coreOf e d).sansTask :=
      ite_view (V := fun u : State => (coreOf u d).sansTask) (hget (courseMod_spar ..)) rfl
    clear_value a b e f
    exact (hget (obdCloseDropped_spar ..)).trans ((hget rfl).trans (hf.trans (he.trans (hb.trans ha))))

/-! ### Plan faults -/

theorem discardObds_sched (s : State) (u : Option CoreId) (t : CourseTag) (requeue : Bool) :
    (discardObds s u t requeue).sansSched = s.sansSched ∧ (discardObds s u t requeue).spar = s.spar := by
  unfold discardObds
  extract_lets _ v
  have hv : v.sansSched = s.sansSched ∧ v.spar = s.spar := ⟨rfl, rfl⟩
  clear_value v
  split
  · exact hv
  · exact ⟨Eq.trans rfl hv.1, Eq.trans rfl hv.2⟩

/-- What a plan fault makes of the job leaves the core halted, and all but the scheduler and the cores as it was. -/
theorem planFaultJob_rest (s : State) (c : CoreId) (code : W16) (d : CoreId) :
    (coreOf (planFaultJob s c code) d).sansTask = (coreOf s d).sansTask ∧ (planFaultJob s c code).sansSched = s.sansSched := by
  unfold planFaultJob
  extract_lets x
  split
  · exact ⟨rfl, rfl⟩
  · next t _ =>
    extract_lets own a b e
    have ha : (coreOf a d).sansTask = (coreOf s d).sansTask ∧ a.sansSched = s.sansSched := by
      obtain ⟨h1, h2⟩ := discardObds_sched (obdRelease s c) (some c) t (!own && x.recallTo != some false)
      exact ⟨congrArg (fun w => SparCore.sansTask (w.get d)) (h2.trans rfl), h1.trans (obdRelease_sched ..)⟩
    have hb : (coreOf b d).sansTask = (coreOf a d).sansTask ∧ b.sansSched = a.sansSched := by
      dsimp only [b]
      split
      · exact ⟨congrArg (fun w => SparCore.sansTask (w.get d)) (courseMod_spar ..), courseMod_sched ..⟩
      · exact ⟨rfl, rfl⟩
    have he : (coreOf e d).sansTask = (coreOf b d).sansTask ∧ e.sansSched = b.sansSched :=
      ⟨coreMod_task (f := fun x => { x with cur := none, done := false, recallTo := none }) (fun _ => rfl) b c d, coreMod_sched ..⟩
    clear_value e b a
    have hall : (coreOf e d).sansTask = (coreOf s d).sansTask ∧ e.sansSched = s.sansSched :=
      ⟨he.1.trans (hb.1.trans ha.1), he.2.trans (hb.2.trans ha.2)⟩
    split
    · exact ⟨(stopJob_task ..).trans hall.1, (stopJob_sched ..).trans hall.2⟩
    · exact hall

/-- A report of no fence class leaves the cores and memory. -/
theorem reportFault_plan (s : State) (unit : Byte) (code : W16) (d : W64) :
    (reportFault s unit 2 code d).spar = s.spar ∧ (reportFault s unit 2 code d).mem = s.mem := by
  have hm (u : State) : (mgcReport u unit 2 code d).spar = u.spar ∧ (mgcReport u unit 2 code d).mem = u.mem := by
    have he : mgcReport u unit 2 code d = raiseEmcy (countClass u 2) 0xFF22 unit (toLE 2 code.toNat) := rfl
    rw [he, raiseEmcy_spar, raiseEmcy_mem]
    exact ⟨rfl, rfl⟩
  unfold reportFault
  extract_lets r room a b
  have ha : a.spar = s.spar ∧ a.mem = s.mem := ⟨cleatCPut_spar .., cleatCPut_mem ..⟩
  have hb : b.spar = a.spar ∧ b.mem = a.mem := by
    dsimp only [b]
    split
    · exact hm a
    · exact ⟨rfl, rfl⟩
  clear_value b a
  rw [if_neg (by decide), hb.1, hb.2]
  exact ha

/-- A plan fault halts the core with its code, ends its TILE, and leaves memory and the other cores' work as it was. -/
theorem planFault_spec (s : State) (c : CoreId) (code : W16) (detail : Nat) :
    (coreOf (planFault s c code detail) c).state = 2 ∧ (coreOf (planFault s c code detail) c).fcode = code ∧
    (coreOf (planFault s c code detail) c).tile.active = false ∧ (planFault s c code detail).mem = s.mem := by
  unfold planFault
  extract_lets u
  have hu : (coreOf u c).state = 2 ∧ (coreOf u c).fcode = code ∧ (coreOf u c).tile.active = false ∧ u.mem = s.mem := by
    dsimp only [u]
    rw [coreOf_coreMod_same]
    exact ⟨rfl, rfl, rfl, rfl⟩
  clear_value u
  obtain ⟨hs, hm⟩ := reportFault_plan u (BitVec.ofNat 8 c.val) code (BitVec.ofNat 64 detail)
  generalize reportFault u (BitVec.ofNat 8 c.val) 2 code (BitVec.ofNat 64 detail) = v at hs hm ⊢
  obtain ⟨ht, hr⟩ := planFaultJob_rest v c code c
  generalize planFaultJob v c code = w at ht hr ⊢
  have hv : coreOf v c = coreOf u c := congrArg (·.get c) hs
  rw [hv] at ht
  obtain ⟨h1, h2, h3, h4⟩ := hu
  exact ⟨(congrArg SparCore.state ht :).trans h1, (congrArg SparCore.fcode ht :).trans h2,
    (congrArg (fun x : SparCore => x.tile.active) ht :).trans h3, (congrArg State.mem hr :).trans (hm.trans h4)⟩

end

end Sys2Proof.Machine

end

section

namespace Sys2Proof.Machine

/-! ## Waits, interrupts, TILE and errors of a Spar core (O38) -/

section
variable {s : State} {c : CoreId}

/-- `passCycles` counts, and does nothing else. -/
theorem coreOf_passCycles (s : State) (c : CoreId) (i : Option (Fin 10)) : ∃ a b,
    coreOf (passCycles s c i) c = { coreOf s c with cnt64 := a, cnt32 := b } := by
  cases i with
  | none => exact ⟨_, _, coreOf_coreMod_same ..⟩
  | some i => exact ⟨_, _, coreOf_coreMod_same ..⟩

theorem passCycles_mem (s : State) (c : CoreId) (i : Option (Fin 10)) : (passCycles s c i).mem = s.mem := rfl

/-! ### WAITPH -/

/-- Where issue goes on rests on the program counter and the loops, and nothing else of the core changes. -/
theorem advance_congr {x y : SparCore} (hp : y.pc = x.pc) (hl : y.loops = x.loops) :
    advance y = { y with loops := (advance x).loops, pc := (advance x).pc } := by
  unfold advance
  rw [hp, hl]
  dsimp only
  generalize loopEnd (x.pc.toNat / 32) (x.loops.get 1) = e
  obtain ⟨l, b⟩ := e
  cases b with
  | true => rfl
  | false => rfl

theorem waitphPass_eq (x : SparCore) (n : PhtSlotId) (iw : Bool) : waitphPass x n iw =
    { x with loops := (advance x).loops, pc := (advance x).pc, pend := x.pend &&& ~~~(1#64 <<< n.val), wait := .none,
             irqHold := !iw } := by
  unfold waitphPass
  rw [advance_congr (x := x) (y := clearPend x n) rfl rfl]
  rfl

theorem waitphResume_gives {n : PhtSlotId} {iw due : Bool} (hr : sparRuns s c = true) (hw : (coreOf s c).wait = .ph n iw due)
    (hp : (coreOf s c).pend.getLsbD n.val = true) : Gives (.waitphResume c) s fun t => (coreOf t c).wait = .none ∧
      (coreOf t c).pend = (coreOf s c).pend &&& ~~~(1#64 <<< n.val) ∧ (coreOf t c).pc = (advance (coreOf s c)).pc ∧
      (coreOf t c).irqHold = !iw := by
  have hx : exec (.waitphResume c) s = .next (passCycles (coreMod s c fun x => waitphPass x n iw) c (some cStlPh)) := by
    show execWaitphResume c s = _
    unfold execWaitphResume
    rw [hw]
    exact if_pos (by rw [hr, hp]; rfl)
  refine Gives.intro hx ?_
  obtain ⟨a, b, h⟩ := coreOf_passCycles (coreMod s c fun x => waitphPass x n iw) c (some cStlPh)
  rw [h, coreOf_coreMod_same, waitphPass_eq]
  exact ⟨rfl, rfl, rfl, rfl⟩

/-! ### Interrupts -/

/-- An interrupt stands that nothing but a running TILE defers. -/
def SparCore.interruptible (x : SparCore) : Prop := x.gie = true ∧ x.irq &&& x.ie ≠ 0 ∧ x.inHandler = false ∧ x.irqHold = false ∧
  x.closing = false ∧ x.rptLeft = 0 ∧ x.recallTo = none ∧
  (x.wait = .none ∨ ∃ (n : PhtSlotId) (due : Bool), x.wait = .ph n true due)

theorem irqTakes_iff (x : SparCore) : irqTakes x = true ↔ x.interruptible := by
  unfold irqTakes irqReady irqPending SparCore.interruptible
  cases x.wait with
  | none => simp [and_assoc]
  | ph n iw due => simp [and_assoc, and_comm, and_left_comm]
  | ob => simp

theorem irqEnter_rest (x : SparCore) : (irqEnter x).gie = false ∧ (irqEnter x).inHandler = true ∧
    (irqEnter x).epc = BitVec.ofNat 64 x.pc.toNat ∧ (irqEnter x).irq = x.irq &&& ~~~(1#5 <<< irqLine x) ∧
    (irqEnter x).pc = BitVec.ofNat 32 (min 0xFFFFFFE0 ((x.ivec.toNat + 32 * irqLine x) / 32 * 32)) ∧
    (irqEnter x).v = x.v ∧ (irqEnter x).acc = x.acc ∧ (irqEnter x).d = x.d := by
  simp only [irqEnter, shadowSwap, and_self]

/-- a0 to a7 change places with the shadow set. -/
theorem irqEnter_shadow (x : SparCore) (i : Fin 8) : (irqEnter x).a.get (Fin.ofNat 16 i.val) = x.shA.get i ∧
    (irqEnter x).shA.get i = x.a.get (Fin.ofNat 16 i.val) := by
  refine ⟨(vector_get_ofFn _ _).trans ((if_pos ?_).trans (congrArg x.shA.get (Fin.ext ?_))), vector_get_ofFn _ _⟩
  · show i.val % 16 < 8
    omega
  · show i.val % 16 % 8 = i.val
    omega

theorem sparInterrupt_gives (hr : sparRuns s c = true) (h : (coreOf s c).interruptible) (ht : (coreOf s c).tile.active = false) :
    Gives (.sparInterrupt c) s fun t =>
      let x := coreOf s c
      let y := coreOf t c
      let n := irqLine x
      y.gie = false ∧ y.inHandler = true ∧ y.epc = BitVec.ofNat 64 x.pc.toNat ∧ y.irq.getLsbD n = false ∧
      (x.ivec.toNat + 32 * n < 0x20000 → y.pc.toNat = (x.ivec.toNat + 32 * n) / 32 * 32) ∧
      (∀ i : Fin 8, y.a.get (Fin.ofNat 16 i.val) = x.shA.get i ∧ y.shA.get i = x.a.get (Fin.ofNat 16 i.val)) ∧
      y.v = x.v ∧ y.acc = x.acc ∧ y.d = x.d ∧ t.mem = s.mem := by
  have hx : exec (.sparInterrupt c) s = .next (passCycles (coreMod s c fun x => (irqEnter x).bump cIrq 1) c none) :=
    if_pos (by rw [hr, irqMayEnter, (irqTakes_iff _).2 h, ht]; rfl)
  refine Gives.intro hx ?_
  obtain ⟨a, b, h⟩ := coreOf_passCycles (coreMod s c fun x => (irqEnter x).bump cIrq 1) c none
  dsimp only
  rw [h, coreOf_coreMod_same]
  obtain ⟨h1, h2, h3, h4, h5, h6, h7, h8⟩ := irqEnter_rest (coreOf s c)
  have hs := irqEnter_shadow (coreOf s c)
  generalize irqEnter (coreOf s c) = y at h1 h2 h3 h4 h5 h6 h7 h8 hs ⊢
  refine ⟨h1, h2, h3, ?_, fun hn => ?_, hs, h6, h7, h8, passCycles_mem ..⟩
  · show y.irq.getLsbD _ = false
    rw [h4]
    simp
  · show y.pc.toNat = _
    rw [h5, BitVec.toNat_ofNat]
    omega

/-! ### Fence-class faults -/

theorem or_bit_of_set {l : BitVec 40} {u : Nat} (h : l.getLsbD u = true) : l ||| (1#40 <<< u) = l := by
  refine BitVec.eq_of_getLsbD_eq fun i hi => ?_
  rw [BitVec.getLsbD_or]
  by_cases hiu : i = u
  · rw [hiu, h, Bool.true_or]
  · have : (1#40 <<< u).getLsbD i = false := by
      simp
      omega
    rw [this, Bool.or_false]

/-- A fence-class fault asserts its unit's line. -/
theorem fenceFault_lines (s : State) {u : Nat} (code : W16) (hu : u ≤ 0x19) (hd : s.boot.dprActive = false) :
    (fenceFault s u code).cleatC.lines = s.cleatC.lines ||| (1#40 <<< u) := by
  cases hl : s.cleatC.lines.getLsbD u with
  | true => rw [fenceFault, if_pos (by simp [hl]), or_bit_of_set hl]
  | false => exact congrArg (fun v : State => v.cleatC.lines) (fenceFault_power code hu hd hl)

/-- The MGC counts a core's fence-class fault, and does nothing more. -/
theorem mgcReport_core (s : State) (c : CoreId) (code : W16) (d : W64) :
    mgcReport s (BitVec.ofNat 8 c.val) 1 code d = countClass s 1 := by
  have hc := c.isLt
  have hn : (BitVec.ofNat 8 c.val).toNat = c.val := by
    rw [BitVec.toNat_ofNat]
    omega
  have hne {k : Byte} (hk : 16 ≤ k.toNat) : BitVec.ofNat 8 c.val ≠ k := fun h => by
    rw [← h, hn] at hk
    omega
  unfold mgcReport
  extract_lets u
  show (if BitVec.ofNat 8 c.val = 0x1A then _ else if BitVec.ofNat 8 c.val = 0x1B then _
    else if 0x20 ≤ (BitVec.ofNat 8 c.val).toNat ∧ (BitVec.ofNat 8 c.val).toNat ≤ 0x27 then _ else u) = u
  rw [if_neg (hne (by decide)), if_neg (hne (by decide)), if_neg (by omega)]

/-- A core's fence-class fault is reported, and asserts the core's line but during a data-plane reset. -/
theorem coreFault_fenced (s : State) (c : CoreId) (code : W16) (d : W64) :
    (s.boot.dprActive = false → (reportFault s (BitVec.ofNat 8 c.val) 1 code d).cleatC.lines = s.cleatC.lines ||| (1#40 <<< c.val)) ∧
    (s.cleatC.fifo.length < 32 → (reportFault s (BitVec.ofNat 8 c.val) 1 code d).cleatC.fifo = s.cleatC.fifo ++ [{
      unit := BitVec.ofNat 8 c.val, cls := 1, code := code, detail := d, nt := (ntNow s.pht).setWidth 32 }]) := by
  refine ⟨fun hd => ?_, fun hl => (reportFault_of_room _ _ _ _ hl).1⟩
  have hc := c.isLt
  have hn : (BitVec.ofNat 8 c.val).toNat = c.val := by
    rw [BitVec.toNat_ofNat]
    omega
  unfold reportFault
  extract_lets r room a b
  have ha : a.boot = s.boot ∧ a.cleatC.lines = s.cleatC.lines := by
    have hput (u : State) : (cleatCPut u r).cleatC.lines = u.cleatC.lines := by
      unfold cleatCPut
      split <;> rfl
    have hecc : (eccCount s (BitVec.ofNat 8 c.val) 1 d).boot = s.boot ∧
        (eccCount s (BitVec.ofNat 8 c.val) 1 d).cleatC = s.cleatC := by
      unfold eccCount
      split
      · exact ⟨rfl, rfl⟩
      · split
        · exact ⟨rfl, rfl⟩
        · split <;> exact ⟨rfl, rfl⟩
    exact ⟨(cleatCPut_boot ..).trans hecc.1, (hput _).trans (congrArg CleatC.lines hecc.2)⟩
  have hb : b.boot = a.boot ∧ b.cleatC.lines = a.cleatC.lines := by
    dsimp only [b]
    split
    · rw [mgcReport_core]
      exact ⟨rfl, rfl⟩
    · exact ⟨rfl, rfl⟩
  clear_value b a
  rw [if_pos rfl, fenceFault_lines b code (by omega) (by rw [hb.1, ha.1]; exact hd), hb.2, ha.2, hn]

/-! ### TILE -/

/-- What a run leaves of the sequencer's state. -/
theorem tileTake_tile (c : CoreId) (d : ConvDesc) (r : SeqRun) :
    (coreOf (tileTake c d r) c).tile = { (coreOf r.s c).tile with ws := r.ws } := by
  unfold tileTake
  extract_lets n
  refine (congrArg SparCore.tile (coreOf_coreMod_same r.s c _)).trans ?_
  rfl

/-- The rows computed leave the core's place in its descriptor. -/
theorem tileRows_spec (s : State) (c : CoreId) (n : Nat) :
    (∃ w, (coreOf (tileRows s c n).2 c).tile = { (coreOf s c).tile with ws := w }) ∧
    (s.memWf = true → (tileRows s c n).2.memWf = true) := by
  refine ⟨?_, (Keeps.tileRows (Keeps.refl s)).mem⟩
  have hrun : SeqKeeps (runUnit (tileUnit s c) (convDesc (coreOf s c).tdesc) (coreOf s c).tile.row.toNat
    (coreOf s c).tile.pass.toNat n) := .runUnit
  have hv := hrun.access (tileStart s c)
  unfold tileRows tileDo
  dsimp only [ExceptT.run]
  generalize runUnit (tileUnit s c) (convDesc (coreOf s c).tdesc) (coreOf s c).tile.row.toNat
    (coreOf s c).tile.pass.toNat n (tileStart s c) = e at hv ⊢
  obtain ⟨res, r⟩ := e
  have hspar : r.s.spar = s.spar := (congrArg State.spar hv :)
  have hcore : coreOf r.s c = coreOf s c := congrArg (·.get c) hspar
  refine ⟨r.ws, (tileTake_tile ..).trans (by rw [hcore])⟩

/-- STATUS of a descriptor as it is written. -/
theorem tileStatus_status (hm : s.memWf = true) (desc st rd : Nat) :
    memRead (tileStatus s c desc st rd).mem (dtcmBase c.val + 64 * desc + 0x60) = BitVec.ofNat 8 st := by
  have h1 : (toLE 1 st).length = 1 := toLE_length ..
  have hin := memRead_memWriteN_in (m := s.mem) (a := dtcmBase c.val + 64 * desc + 0x60) (i := 0) (bs := toLE 1 st) hm (by rw [h1]; decide)
  refine (memRead_memWriteN_out (memWriteN_wf _ _ hm) (.inl (by omega))).trans (hin.trans ?_)
  simp [toLE]

theorem tileEnd_spec (hm : s.memWf = true) (st : Nat) : (coreOf (tileEnd s c st) c).tile.active = false ∧
    (coreOf (tileEnd s c st) c).tile.susp = false ∧
    memRead (tileEnd s c st).mem (dtcmBase c.val + 64 * (coreOf s c).tile.desc.toNat + 0x60) = BitVec.ofNat 8 st := by
  unfold tileEnd
  extract_lets rd u
  have hu : memRead u.mem (dtcmBase c.val + 64 * (coreOf s c).tile.desc.toNat + 0x60) = BitVec.ofNat 8 st :=
    tileStatus_status (s := afterDraw s) hm ..
  clear_value u
  rw [coreOf_coreMod_same]
  exact ⟨rfl, rfl, hu⟩

/-- The descriptor's STATUS byte. -/
def tileStatusOf (s : State) (c : CoreId) (desc : BitVec 14) : Byte :=
  memRead s.mem (dtcmBase c.val + 64 * desc.toNat + 0x60)

/-- The TILE of a core has ended: its core has halted, or STATUS says OK or FORMAT. -/
def TileEnded (t : State) (c : CoreId) (desc : BitVec 14) : Prop := (coreOf t c).tile.active = false ∧
  ((coreOf t c).state = 2 ∨ (coreOf t c).tile.susp = false ∧ (tileStatusOf t c desc = 0 ∨ tileStatusOf t c desc = 3))

/-- What rows end in, where the rows computed are the last: the descriptor's end, or the core's. -/
theorem tileAfter_ends (hm : s.memWf = true) (n : Nat) {ok : State → State} (hok : ∀ t, ok t = tileEnd t c 0) :
    TileEnded (tileAfter c (tileRows s c n) ok) c (coreOf s c).tile.desc := by
  obtain ⟨⟨w, ht⟩, hwf⟩ := tileRows_spec s c n
  generalize tileRows s c n = e at ht hwf
  obtain ⟨res, t⟩ := e
  have hdesc : (coreOf t c).tile.desc = (coreOf s c).tile.desc := (congrArg TileState.desc ht :)
  have hend (st : Nat) (h : BitVec.ofNat 8 st = 0 ∨ BitVec.ofNat 8 st = 3) : TileEnded (tileEnd t c st) c (coreOf s c).tile.desc := by
    obtain ⟨ha, hs, hst⟩ := tileEnd_spec (s := t) (c := c) (hwf hm) st
    rw [hdesc] at hst
    refine ⟨ha, .inr ⟨hs, ?_⟩⟩
    unfold tileStatusOf
    rwa [hst]
  cases res with
  | ok u =>
    show TileEnded (ok t) c _
    rw [hok]
    exact hend 0 (.inl rfl)
  | error e =>
    cases e with
    | bus b a =>
      obtain ⟨h1, -, h2, -⟩ := planFault_spec t c fcBusErr a
      exact ⟨h2, .inl h1⟩
    | format => exact hend 3 (.inr rfl)

/-- What rows end in, where more are left: the core suspends, or the descriptor ends early. -/
theorem tileAfter_suspends (hm : s.memWf = true) (n : Nat) {ok : State → State} (hok : ∀ t, ok t = coreMod t c fun x => { x with
      tile := { x.tile with active := false, susp := true, row := x.tile.row + BitVec.ofNat 15 n, pass := 0 } }) :
    let t := tileAfter c (tileRows s c n) ok
    let y := (coreOf t c).tile
    y.active = false ∧ ((coreOf t c).state = 2 ∨ (y.susp = false ∧ tileStatusOf t c (coreOf s c).tile.desc = 3) ∨
      (y.susp = true ∧ y.row = (coreOf s c).tile.row + BitVec.ofNat 15 n ∧ y.pass = 0 ∧ y.desc = (coreOf s c).tile.desc)) := by
  obtain ⟨⟨w, ht⟩, hwf⟩ := tileRows_spec s c n
  generalize tileRows s c n = e at ht hwf ⊢
  obtain ⟨res, t⟩ := e
  cases res with
  | ok u =>
    have hgo : tileAfter c (.ok u, t) ok = _ := hok t
    dsimp only
    rw [hgo, coreOf_coreMod_same]
    dsimp only at ht ⊢
    rw [ht]
    exact ⟨rfl, .inr (.inr ⟨rfl, rfl, rfl, rfl⟩)⟩
  | error e =>
    cases e with
    | bus b a =>
      obtain ⟨h1, -, h2, -⟩ := planFault_spec t c fcBusErr a
      exact ⟨h2, .inl h1⟩
    | format =>
      obtain ⟨ha, hs, hst⟩ := tileEnd_spec (s := t) (c := c) (hwf hm) 3
      have hdesc : (coreOf t c).tile.desc = (coreOf s c).tile.desc := (congrArg TileState.desc ht :)
      rw [hdesc] at hst
      exact ⟨ha, .inr (.inl ⟨hs, hst⟩)⟩

end

/-- Settles O38, by the cases of each event; what rows end in is proved once for TILE_COMPLETE and TILE_SUSPEND. -/
theorem sparEvents : Obligations.SparEvents := by
  intro c s x ready
  refine ⟨fun hr n iw due hw => ⟨waitphResume_gives hr hw, fun hp => ?_⟩, fun hr => ⟨fun h ht => sparInterrupt_gives hr h ht, fun h => ?_⟩,
    ?_, fun hd v => ⟨fun hv => ?_, fun hv => ?_⟩, fun ht hm => ?_⟩
  · show execWaitphResume c s = _
    unfold execWaitphResume
    rw [hw]
    exact if_neg (by rw [hp, Bool.and_false]; decide)
  · refine if_neg ?_
    rw [hr, irqMayEnter, Bool.true_and, Bool.and_eq_true, irqTakes_iff, Bool.not_eq_true']
    rintro ⟨h1, h2⟩
    exact h.elim (fun hn => hn h1) fun ha => absurd (h2.symm.trans ha) (by decide)
  · intro fenced
    refine ⟨fun hr hw => Gives.intro (if_pos (by rw [hr, show (coreOf s c).waiting = false from hw]; rfl)) (coreFault_fenced s c fcWdt 0),
      fun hw => if_neg (by rw [show (coreOf s c).waiting = true from hw, Bool.not_true, Bool.and_false]; decide),
      fun hu => ⟨fun o => Gives.intro (if_neg (by rw [hu]; decide)) (coreFault_fenced s c fcTcm _),
        Gives.intro (if_neg (by rw [hu]; decide)) (coreFault_fenced s c fcMac 0),
        Gives.intro (if_neg (by rw [hu]; decide)) ⟨?_, rfl⟩⟩⟩
    exact congrArg SparCore.cnt32 (coreOf_coreMod_same s c _)
  · have hclear : spWrite (coreOf s c) true 0x0B v.toNat = (coreOf s c).clearCounters := if_pos hv
    refine Gives.intro (if_pos hd) ?_
    rw [coreOf_coreMod_same, hclear]
    exact ⟨fun i => vector_get_replicate 3 0 i, fun i => vector_get_replicate 10 0 i, rfl, rfl⟩
  · refine (if_pos hd).trans (congrArg Host.Outcome.next ?_)
    have hkeep : spWrite (coreOf s c) true 0x0B v.toNat = coreOf s c := if_neg (by
      show ¬ v.getLsbD 0 = true
      rw [hv]
      decide)
    have hspar : vput s.spar c (spWrite (coreOf s c) true 0x0B v.toNat) = s.spar := by
      rw [hkeep]
      exact vput_self ..
    exact congrArg (fun w => ({ s with spar := w } : State)) hspar
  · intro status ended
    refine ⟨Gives.intro (if_pos ht) (tileAfter_ends hm _ fun _ => rfl), fun rows => ?_⟩
    intro n
    have hguard (hr : sparRuns s c = true) (hrd : ready) : (tileActs s c && sparRuns s c && irqTakes (coreOf s c)) = true := by
      rw [ht, hr, (irqTakes_iff _).2 hrd]
      rfl
    refine ⟨fun hr hrd hn => Gives.intro (if_pos (hguard hr hrd)) (tileAfter_ends hm _ fun _ => if_pos hn),
      fun hr hrd hn => Gives.intro (if_pos (hguard hr hrd)) (tileAfter_suspends hm _ fun _ => if_neg (Nat.ne_of_lt hn)), fun hrd => if_neg ?_⟩
    rw [Bool.and_eq_true, irqTakes_iff]
    exact fun h => hrd h.2

end Sys2Proof.Machine

end

section

namespace Sys2Proof.Machine

/-! ## A Spar core issues a bundle (O37) -/

section
variable {s : State} {c : CoreId} {x : SparCore} {b : Bundle}

/-! ### Slots that are not valid -/

theorem lsActs_zero (x : SparCore) : lsActs x 0 = false := rfl

theorem lsPostInc_zero (x0 x : SparCore) : lsPostInc x0 0 x = x := rfl

theorem lsLoad_zero (x0 : SparCore) (c : CoreId) (x : SparCore) (s : State) : lsLoad x0 c 0 x s = (x, s) := rfl

theorem lsStore_zero (x : SparCore) (c : CoreId) (s : State) : lsStore x c 0 s = s := rfl

theorem lsAccesses_zero (x : SparCore) : lsAccesses x 0 = some [] := rfl

/-! ### From the fetch to the six slots -/

/-- The bundle at a core's program counter. -/
def fetched (s : State) (c : CoreId) : Bundle := bundleOf (s.rdLE (itcmBase c.val + (coreOf s c).pc.toNat / 32 * 32) 32)

/-- The core may issue, with no TILE and no RPT in the way. -/
structure MayIssue (s : State) (c : CoreId) : Prop where
  runs : sparRuns s c = true
  waiting : (coreOf s c).waiting = false
  closing : (coreOf s c).closing = false
  recallTo : (coreOf s c).recallTo = none
  active : (coreOf s c).tile.active = false
  susp : (coreOf s c).tile.susp = false
  rpt : (coreOf s c).rptLeft = 0

theorem MayIssue.exec_eq (h : MayIssue s c) : exec (.bundleIssue c) s = bundleIssue s c :=
  if_pos (by rw [h.runs, h.waiting, h.closing, h.recallTo]; rfl)

theorem MayIssue.noStall (h : MayIssue s c) (b : Bundle) : tileStalls (coreOf s c) b = false := by
  unfold tileStalls
  rw [h.active, h.susp]
  rfl

theorem MayIssue.fetchFault (h : MayIssue s c) (hp : 0x20000 ≤ (coreOf s c).pc.toNat) :
    exec (.bundleIssue c) s = .next (planFault s c fcFetch 0) := h.exec_eq.trans (if_pos hp)

theorem MayIssue.fault (h : MayIssue s c) (hp : (coreOf s c).pc.toNat < 0x20000) {code : W16} {det : Nat}
    (hf : bundleFault s c (coreOf s c) (fetched s c) = some (code, det)) :
    exec (.bundleIssue c) s = .next (planFault s c code det) := by
  rw [h.exec_eq]
  unfold bundleIssue
  dsimp only
  rw [if_neg (Nat.not_le.2 hp), show bundleOf (s.rdLE (itcmBase c.val + (coreOf s c).pc.toNat / 32 * 32) 32) = fetched s c from rfl]
  generalize fetched s c = b at hf ⊢
  rw [h.noStall, if_neg (by decide), hf]

theorem MayIssue.issues (h : MayIssue s c) (hp : (coreOf s c).pc.toNat < 0x20000) (hb : fetched s c = b)
    (hf : bundleFault s c (coreOf s c) b = none) (ha : accChecks c (bundleAccesses (coreOf s c) b) s = .ok s) (ht : b.tm = 0) :
    exec (.bundleIssue c) s = .next (bundleDo s c b (tmStoreData (coreOf s c) 0 [])) := by
  rw [h.exec_eq]
  unfold bundleIssue
  dsimp only
  rw [if_neg (Nat.not_le.2 hp), show bundleOf (s.rdLE (itcmBase c.val + (coreOf s c).pc.toNat / 32 * 32) 32) = b from hb,
    h.noStall, if_neg (by decide), hf]
  dsimp only
  rw [ha, ht]
  rfl

/-! ### What a bundle does to its core -/

/-- The core as its bundle leaves it but for counters: the registers `y` of its first five slots, then SB's. -/
def bundleCore (x0 : SparCore) (s : State) (c : CoreId) (w : Nat) (y : SparCore) : SparCore :=
  sbFlow x0 w { sbRegs x0 s c w { y with cnt64 := (coreOf s c).cnt64 } with irqHold := false, rem := [] }

/-- A bundle with an LS0, a VA0 and an SB slot, where the SB slot is no MOVF. -/
theorem bundleDo_eq (s : State) (c : CoreId) {b : Bundle} {data : Bytes × List Sat} (h1 : b.ls1 = 0) (h2 : b.va1 = 0) (h3 : b.tm = 0)
    (hm : slotOp b.sb ≠ 0x29) {y : SparCore} {t : State}
    (hl : lsLoad (coreOf s c) c b.ls0 (lsPostInc (coreOf s c) b.ls0 (coreOf s c)) s = (y, t)) :
    bundleDo s c b data = passIssue (sbAct (coreOf s c) c b.sb (lsStore (coreOf s c) c b.ls0
      (coreMod t c fun _ => ((bundleCore (coreOf s c) t c b.sb (vaExec (coreOf s c) b.va0 y)).bump64 1 1).noteRpt))) c := by
  unfold bundleDo
  dsimp only
  rw [h1, h2, h3, decide_eq_false hm, Bool.false_and, lsPostInc_zero, hl]
  rfl

/-- Issue counts its cycles, and does nothing else. -/
theorem coreOf_passIssue (s : State) (c : CoreId) : ∃ a n, coreOf (passIssue s c) c = { coreOf s c with cnt64 := a, cnt32 := n } ∧
    a.get 1 = (coreOf s c).cnt64.get 1 := by
  refine ⟨_, _, coreOf_coreMod_same .., ?_⟩
  exact vmod_get_other _ _ (by decide)

/-- No plan fault: the bundle is legal, its LS0 slot aligned, and its SB slot neither TRAP nor RPT nor a transfer out of the ITCM. -/
theorem bundleFault_none (h : MayIssue s c) (hl : bundleIllegal b = false) (ha : (lsAccesses (coreOf s c) b.ls0).isNone = false)
    (h1 : b.ls1 = 0) (h3 : b.tm = 0) (hop : slotOp b.sb ≠ 0x2C ∧ slotOp b.sb ≠ 0x25)
    (ht : ∀ t, sbTarget (coreOf s c) b.sb = some t → inItcm t = true) : bundleFault s c (coreOf s c) b = none := by
  unfold bundleFault
  extract_lets w
  have hw : w = b.sb := rfl
  rw [if_neg (by rw [hl, h.rpt]; simp), h1, ha, lsAccesses_zero, if_neg (by simp), h3, if_neg (by exact fun e => absurd e.1 (by decide)),
    if_neg (by exact fun e => absurd e.1 (by decide)), if_neg (fun e => hop.1 e.1), if_neg (fun e => hop.2 e.1), hw]
  split
  · next t e => exact if_pos (ht t e)
  · rfl

/-- A bundle without loads and stores, whose SB slot acts on its core alone. -/
theorem MayIssue.plain (h : MayIssue s c) (hp : (coreOf s c).pc.toNat < 0x20000) (hb : fetched s c = b)
    (hf : bundleFault s c (coreOf s c) b = none) (h0 : b.ls0 = 0) (h1 : b.ls1 = 0) (h2 : b.va1 = 0) (h3 : b.tm = 0)
    (hm : slotOp b.sb ≠ 0x29) : ∃ u : State, (∃ a n r, coreOf u c = { bundleCore (coreOf s c) s c b.sb (vaExec (coreOf s c) b.va0 (coreOf s c)) with
        cnt64 := a, cnt32 := n, irqRpt := r } ∧
      a.get 1 = (bundleCore (coreOf s c) s c b.sb (vaExec (coreOf s c) b.va0 (coreOf s c))).cnt64.get 1 + 1) ∧
      u.mem = s.mem ∧ u.out = s.out ∧ u.reef = s.reef ∧ u.fab = s.fab ∧ u.dev = s.dev ∧
      exec (.bundleIssue c) s = .next (passIssue (sbAct (coreOf s c) c b.sb u) c) := by
  have ha : accChecks c (bundleAccesses (coreOf s c) b) s = .ok s := by
    unfold bundleAccesses
    rw [h0, h1, h3]
    rfl
  have hl : lsLoad (coreOf s c) c b.ls0 (lsPostInc (coreOf s c) b.ls0 (coreOf s c)) s = (coreOf s c, s) := by
    rw [h0, lsPostInc_zero, lsLoad_zero]
  have hx := (h.issues hp hb hf ha h3).trans (congrArg _ (bundleDo_eq s c h1 h2 h3 hm hl))
  rw [h0, lsStore_zero] at hx
  refine ⟨coreMod s c fun _ => ((bundleCore (coreOf s c) s c b.sb (vaExec (coreOf s c) b.va0 (coreOf s c))).bump64 1 1).noteRpt,
    ⟨_, _, _, coreOf_coreMod_same .., ?_⟩, rfl, rfl, rfl, rfl, rfl, hx⟩
  exact vmod_get_same ..

/-- The core goes on as `bundleCore` says. -/
theorem MayIssue.goes (h : MayIssue s c) (hp : (coreOf s c).pc.toNat < 0x20000) (hb : fetched s c = b)
    (hf : bundleFault s c (coreOf s c) b = none) (h0 : b.ls0 = 0) (h1 : b.ls1 = 0) (h2 : b.va1 = 0) (h3 : b.tm = 0)
    (hm : slotOp b.sb ≠ 0x29) (hact : ∀ u, sbAct (coreOf s c) c b.sb u = u) : Gives (.bundleIssue c) s fun t =>
      (∃ a n r, coreOf t c = { bundleCore (coreOf s c) s c b.sb (vaExec (coreOf s c) b.va0 (coreOf s c)) with
        cnt64 := a, cnt32 := n, irqRpt := r } ∧
        a.get 1 = (bundleCore (coreOf s c) s c b.sb (vaExec (coreOf s c) b.va0 (coreOf s c))).cnt64.get 1 + 1) ∧
      t.mem = s.mem ∧ t.out = s.out ∧ t.reef = s.reef := by
  obtain ⟨u, ⟨a, n, r, hc, ha⟩, hmem, hout, hreef, -, -, hx⟩ := h.plain hp hb hf h0 h1 h2 h3 hm
  rw [hact] at hx
  obtain ⟨a', n', hc', ha'⟩ := coreOf_passIssue u c
  refine Gives.intro hx ⟨⟨a', n', r, by rw [hc', hc], by rw [ha', hc, ← ha]⟩, hmem, hout, hreef⟩

/-! ### The SB slot -/

section
variable {x0 y z : SparCore} {w : Nat}

/-- Operations that transfer control nowhere. -/
theorem sbTarget_none (h : slotOp w = 0 ∨ slotOp w = 0x10 ∨ slotOp w = 0x26 ∨ slotOp w = 0x2B ∨ slotOp w = 0x2C) (x0 : SparCore) :
    sbTarget x0 w = none := by
  unfold sbTarget
  split
  · rfl
  · rcases h with h | h | h | h | h <;> rw [h] <;> rfl

theorem sbTarget_branch (ha : sbActs x0 w = true) (h : slotOp w = 0x20) : sbTarget x0 w = some (brTarget x0 w) := by
  unfold sbTarget
  rw [ha, if_neg (by decide), h]
  rfl

/-- Operations that write no register. -/
theorem sbRegs_none (h : slotOp w = 0 ∨ slotOp w = 0x20 ∨ slotOp w = 0x26 ∨ slotOp w = 0x2B) (x0 : SparCore) (s : State) (c : CoreId)
    (y : SparCore) : sbRegs x0 s c w y = y := by
  unfold sbRegs
  dsimp only
  split
  · rfl
  · rcases h with h | h | h | h <;> rw [h] <;> rfl

theorem sbRegs_movi (ha : sbActs x0 w = true) (h : slotOp w = 0x10) (s : State) (c : CoreId) (y : SparCore) :
    sbRegs x0 s c w y = sbPut y (sbRd w) (sbImm w) := by
  have halu : sbAlu x0 w = sbImm w := by
    unfold sbAlu
    rw [h]
    rfl
  unfold sbRegs
  dsimp only
  rw [ha, if_neg (by decide), if_pos (by rw [h]; decide), halu]

/-- The next bundle follows. -/
theorem bundleCore_next (hr : x0.rptLeft = 0) (ht : sbTarget x0 w = none) (h24 : slotOp w ≠ 0x24) (h25 : slotOp w ≠ 0x25)
    (h26 : slotOp w ≠ 0x26) (hz : sbRegs x0 s c w { y with cnt64 := (coreOf s c).cnt64 } = z) (hp : z.pc = x0.pc)
    (hl : z.loops = x0.loops) : bundleCore x0 s c w y =
      { z with irqHold := false, rem := [], loops := (advance x0).loops, pc := (advance x0).pc } := by
  unfold bundleCore sbFlow sbLoop
  rw [if_neg (by omega), ht, hz]
  dsimp only
  rw [if_neg (fun e => h25 e.1), if_neg (fun e => h26 e.1), if_neg (fun e => h24 e.1)]
  exact advance_congr hp hl

/-- The bundle at a branch's target follows. -/
theorem bundleCore_jump {t : Int} (hr : x0.rptLeft = 0) (ht : sbTarget x0 w = some t)
    (hz : sbRegs x0 s c w { y with cnt64 := (coreOf s c).cnt64 } = z) : bundleCore x0 s c w y =
      { z with irqHold := false, rem := [], pc := alignPc t } := by
  unfold bundleCore sbFlow
  rw [if_neg (by omega), ht, hz]

theorem waitphPass_of (n : PhtSlotId) (iw : Bool) (hp : y.pc = x0.pc) (hl : y.loops = x0.loops) : waitphPass y n iw =
    { y with loops := (advance x0).loops, pc := (advance x0).pc, pend := y.pend &&& ~~~(1#64 <<< n.val), wait := .none,
             irqHold := !iw } := by
  unfold waitphPass
  rw [advance_congr (x := x0) (y := clearPend y n) hp hl]
  rfl

/-- WAITPH passes, or waits where it stands. -/
theorem bundleCore_waitph (hr : x0.rptLeft = 0) (ha : sbActs x0 w = true) (h : slotOp w = 0x26) (hp : y.pc = x0.pc)
    (hl : y.loops = x0.loops) : ∃ q, bundleCore x0 s c w y =
      (if y.pend.getLsbD (waitphOf w).1.val then { y with
          cnt64 := (coreOf s c).cnt64, rem := [], irqHold := q, loops := (advance x0).loops, pc := (advance x0).pc,
          pend := y.pend &&& ~~~(1#64 <<< (waitphOf w).1.val), wait := .none }
        else { y with cnt64 := (coreOf s c).cnt64, rem := [], irqHold := q, wait := .ph (waitphOf w).1 (waitphOf w).2 false }) := by
  have hreg := sbRegs_none (.inr (.inr (.inl h))) x0 s c { y with cnt64 := (coreOf s c).cnt64 }
  unfold bundleCore sbFlow
  rw [if_neg (by omega), sbTarget_none (.inr (.inr (.inl h))), hreg]
  dsimp only
  rw [if_neg (fun e => absurd (h.symm.trans e.1) (by decide)), if_pos ⟨h, ha⟩]
  generalize waitphOf w = e
  obtain ⟨n, iw⟩ := e
  by_cases hn : y.pend.getLsbD n.val = true
  · refine ⟨!iw, (if_pos hn).trans (Eq.trans ?_ (if_pos hn).symm)⟩
    exact waitphPass_of n iw hp hl
  · exact ⟨false, (if_neg hn).trans (if_neg hn).symm⟩

/-- What a scalar write changes. -/
theorem sbGet_sbPut (x : SparCore) {r q : Fin 32} (v : Int) (h : q ≠ r) : sbGet (sbPut x r v) q = sbGet x q := by
  have hne (hq : (16 : Nat) ≤ q.val ↔ 16 ≤ r.val) : Fin.ofNat 16 q.val ≠ Fin.ofNat 16 r.val := fun e => h (Fin.ext (by
    have := congrArg Fin.val e
    simp only [Fin.ofNat] at this
    omega))
  unfold sbPut sbGet
  by_cases hr : r.val < 16
  · rw [if_pos hr]
    by_cases hq : q.val < 16
    · rw [if_pos hq, if_pos hq]
      exact congrArg BitVec.toNat (vput_get_other _ _ (hne (by omega)))
    · rw [if_neg hq, if_neg hq]
  · rw [if_neg hr]
    by_cases hq : q.val < 16
    · rw [if_pos hq, if_pos hq]
    · rw [if_neg hq, if_neg hq]
      exact congrArg BitVec.toNat (vput_get_other _ _ (hne (by omega)))

theorem sbGetInt_sbPut (x : SparCore) (r : Fin 32) {v : Int} (h1 : -2 ^ 31 ≤ v) (h2 : v < 2 ^ 31) : sbGetInt (sbPut x r v) r = v := by
  unfold sbPut sbGetInt
  by_cases hr : r.val < 16
  · rw [if_pos hr, if_pos hr]
    refine (congrArg BitVec.toInt (vput_get_same ..)).trans ?_
    rw [BitVec.toInt_ofInt]
    exact Int.bmod_eq_of_le (by omega) (by omega)
  · rw [if_neg hr, if_neg hr]
    refine (congrArg BitVec.toInt (vput_get_same ..)).trans ?_
    rw [BitVec.toInt_ofInt]
    exact Int.bmod_eq_of_le (by omega) (by omega)

end

/-! ### Vector additions -/

/-- A number put together from digits of `k` bits, lowest first. -/
def joinLanes (k : Nat) (l : List Nat) : Nat := l.foldr (fun v a => v + 2 ^ k * a) 0

theorem joinLanes_lt {k : Nat} {l : List Nat} (h : ∀ v ∈ l, v < 2 ^ k) : joinLanes k l < 2 ^ (k * l.length) := by
  induction l with
  | nil => simp [joinLanes]
  | cons v l ih =>
    have hv := h v List.mem_cons_self
    have hl := ih fun u hu => h u (List.mem_cons_of_mem _ hu)
    show v + 2 ^ k * joinLanes k l < _
    rw [List.length_cons, Nat.mul_succ, Nat.add_comm (k * l.length), Nat.pow_add]
    calc v + 2 ^ k * joinLanes k l < 2 ^ k * (joinLanes k l + 1) := by rw [Nat.mul_succ]; omega
      _ ≤ 2 ^ k * 2 ^ (k * l.length) := Nat.mul_le_mul_left _ hl

theorem bits_joinLanes {k : Nat} {l : List Nat} (h : ∀ v ∈ l, v < 2 ^ k) {i : Nat} (hi : i < l.length) :
    bits (joinLanes k l) (k * i) k = l[i] := by
  induction l generalizing i with
  | nil => exact absurd hi (Nat.not_lt_zero _)
  | cons v l ih =>
    have hv := h v List.mem_cons_self
    show ((v + 2 ^ k * joinLanes k l) >>> (k * i)) % 2 ^ k = _
    cases i with
    | zero =>
      rw [Nat.mul_zero, Nat.shiftRight_zero, Nat.add_mul_mod_self_left, Nat.mod_eq_of_lt hv]
      rfl
    | succ i =>
      have hdiv : (v + 2 ^ k * joinLanes k l) / 2 ^ k = joinLanes k l := by
        rw [Nat.add_mul_div_left _ _ (Nat.two_pow_pos k), Nat.div_eq_of_lt hv, Nat.zero_add]
      rw [Nat.mul_succ, Nat.add_comm (k * i), Nat.shiftRight_add, Nat.shiftRight_eq_div_pow _ k, hdiv]
      exact ih (fun u hu => h u (List.mem_cons_of_mem _ hu)) (Nat.lt_of_succ_lt_succ hi)

/-- Lane `i` of a register put together from lanes. -/
theorem laneBits_join {k : Nat} {f : Nat → Nat} (hf : ∀ i, f i < 2 ^ k) (hk : k * (512 / k) ≤ 512) {i : Nat} (hi : i < 512 / k) :
    laneBits (BitVec.ofNat 512 ((List.range (512 / k)).foldr (fun i a => f i + 2 ^ k * a) 0)) k i = f i := by
  have hjoin : (List.range (512 / k)).foldr (fun i a => f i + 2 ^ k * a) 0 = joinLanes k ((List.range (512 / k)).map f) := by
    unfold joinLanes
    rw [List.foldr_map]
  have hmem : ∀ v ∈ (List.range (512 / k)).map f, v < 2 ^ k := fun v hv => by
    obtain ⟨j, -, rfl⟩ := List.mem_map.1 hv
    exact hf j
  have hlen : ((List.range (512 / k)).map f).length = 512 / k := by rw [List.length_map, List.length_range]
  have hlt := joinLanes_lt hmem
  rw [hlen] at hlt
  unfold laneBits
  rw [hjoin, BitVec.toNat_ofNat, Nat.mod_eq_of_lt (hlt.trans_le (Nat.pow_le_pow_right (by decide) hk)),
    bits_joinLanes hmem (by rw [hlen]; exact hi), List.getElem_map, List.getElem_range]

theorem satInt_lt (k : Nat) (sat : Bool) (v : Int) : satInt k sat v < 2 ^ k := by
  unfold satInt
  split
  · exact (BitVec.ofInt k _).isLt
  · exact (BitVec.ofInt k _).isLt

theorem etBits_div {et : Nat} : etBits et * (512 / etBits et) ≤ 512 := Nat.mul_div_le _ _

/-- The lanes of an integer addition. -/
theorem vaVector_add (x : SparCore) {w : Nat} (hop : slotOp w = 1) (het : vaEt w ≤ 2) {i : Nat} (hi : i < 512 / etBits (vaEt w)) :
    laneBits (vaVector x w) (etBits (vaEt w)) i = if (slotPred x w).getLsbD i then
        satInt (etBits (vaEt w)) (vaSat w) (sext (etBits (vaEt w)) (laneBits (x.v.get (vaA w)) (etBits (vaEt w)) i) +
          sext (etBits (vaEt w)) (laneBits (x.v.get (vaB w)) (etBits (vaEt w)) i))
      else laneBits (x.v.get (Fin.ofNat 32 (vaVd w))) (etBits (vaEt w)) i := by
  have hlane (sh a b : Nat) : vaLane (slotOp w) (vaEt w) (vaSat w) sh a b =
      some (satInt (etBits (vaEt w)) (vaSat w) (sext (etBits (vaEt w)) a + sext (etBits (vaEt w)) b)) := by
    unfold vaLane
    rw [hop]
    dsimp only
    rw [if_neg (by omega)]
    rfl
  unfold vaVector
  dsimp only
  simp only [hlane, Nat.mod_eq_of_lt (satInt_lt ..)]
  refine (laneBits_join (f := fun i => _) (fun i => ?_) etBits_div hi).trans ?_
  · split
    · exact Nat.mod_lt _ (Nat.two_pow_pos _)
    · exact satInt_lt ..
  · cases (slotPred x w).getLsbD i <;> rfl

/-- An addition writes its register and no other. -/
theorem vaExec_add (x0 x : SparCore) {w : Nat} (hop : slotOp w = 1) :
    vaExec x0 w x = { x with v := vput x.v (Fin.ofNat 32 (vaVd w)) (vaVector x0 w) } := by
  unfold vaExec
  dsimp only
  rw [hop]
  rfl

/-! ### Loads and stores of the core's own TCM -/

section
variable {w p A : Nat}

/-- The address of an LS slot without post-increment. -/
def lsOwn (x : SparCore) (w : Nat) : Nat := wrapInt 48 ((x.a.get (lsAb w)).toNat + lsOfs w)

theorem lsAddr_own (x : SparCore) (ham : lsAm w = 0) : lsAddr x w = some (lsOwn x w, none) := by
  unfold lsAddr
  dsimp only
  rw [ham]
  rfl

theorem lsActs_always (x : SparCore) (hop : slotOp w ≠ 0) (hen : bitOf w 10 = false) : slotPred x w = ~~~0#64 ∧ lsActs x w = true := by
  have hp : slotPred x w = ~~~0#64 := if_neg (by rw [hen]; decide)
  refine ⟨hp, ?_⟩
  unfold lsActs
  rw [hp, decide_eq_true hop]
  split <;> decide

theorem lsSz_pos (w : Nat) : lsSz w ≠ 0 := by
  unfold lsSz
  split <;> decide

/-- The one access of such a slot. -/
theorem lsAccesses_own (x : SparCore) (ham : lsAm w = 0) (hen : bitOf w 10 = false) (hop : slotOp w ≠ 0) (hlow : slotOp w < 0x10)
    (hn : lsBytes w ≠ 0) : lsAccesses x w = some [(!lsIsLoad w, lsOwn x w, lsBytes w)] := by
  unfold lsAccesses
  rw [(lsActs_always x hop hen).2, if_neg (by decide), lsAddr_own x ham]
  dsimp only
  have hal : lsAligned w (lsOwn x w) = true := by
    unfold lsAligned
    rw [decide_eq_false (by omega)]
    rfl
  rw [hal, if_pos rfl]
  unfold lsPieces
  rw [if_neg hn, if_neg (by omega)]
  rfl

theorem lsPostInc_own (x0 x : SparCore) (ham : lsAm w = 0) : lsPostInc x0 w x = x := by
  unfold lsPostInc
  rw [lsAddr_own x0 ham]
  exact ite_id _

/-- The core's own TCM is not checked. -/
theorem accChecks_own {n : Nat} (store : Bool) (hp : placeOf s A = .here p) (ho : ownTcm c p n = true) :
    accChecks c [(store, A, n)] s = .ok s := by
  have h : accCheck s c store A n = .ok s := by
    unfold accCheck
    rw [hp]
    exact if_pos ho
  rw [accChecks, h]
  rfl

theorem sparPut_own {bs : Bytes} (hp : placeOf s A = .here p) (ho : ownTcm c p bs.length = true) :
    sparPut s c A bs = noteHomeWrite (s.wr p bs) p bs.length := by
  unfold sparPut
  rw [hp]
  exact if_pos ho

/-- A vector store of the core's own TCM. -/
theorem lsStore_own (x : SparCore) (hop : slotOp w = 0x02) (ham : lsAm w = 0) (hen : bitOf w 10 = false)
    (hp : placeOf s (lsOwn x w) = .here p) (ho : ownTcm c p (lsSz w) = true) : lsStore x c w s =
      noteHomeWrite (s.wr p (toLE (lsSz w) (x.v.get (Fin.ofNat 32 (lsReg w))).toNat)) p (lsSz w) := by
  have hdata : lsStoreData x w = toLE (lsSz w) (x.v.get (Fin.ofNat 32 (lsReg w))).toNat := by
    unfold lsStoreData
    rw [hop]
    rfl
  have hlen : (toLE (lsSz w) (x.v.get (Fin.ofNat 32 (lsReg w))).toNat).length = lsSz w := toLE_length ..
  have hbytes : lsBytes w = lsSz w := by
    unfold lsBytes
    rw [hop]
    rfl
  have hload : lsIsLoad w = false := by
    unfold lsIsLoad
    rw [hop]
    rfl
  obtain ⟨hpred, hacts⟩ := lsActs_always x (w := w) (by rw [hop]; decide) hen
  unfold lsStore
  rw [hacts, hload, hop, lsAddr_own x ham, if_neg (by decide)]
  dsimp only
  rw [hpred, if_neg (by simp), hdata, hbytes]
  unfold lsPieces
  rw [if_neg (lsSz_pos w), if_neg (by omega)]
  rw [sparPutAll, sparPutAll, List.take_of_length_le (by rw [hlen]), sparPut_own hp (by rw [hlen]; exact ho), hlen]

/-- A scalar load of the core's own TCM. -/
theorem lsLoad_own (x0 x : SparCore) (hop : slotOp w = 0x04) (ham : lsAm w = 0) (hen : bitOf w 10 = false)
    (hp : placeOf s (lsOwn x0 w) = .here p) (ho : ownTcm c p 4 = true) : lsLoad x0 c w x s =
      ({ x with d := vput x.d (Fin.ofNat 16 (lsReg w)) (BitVec.ofNat 32 (s.rdLE p 4)) }, s) := by
  have hbytes : lsBytes w = 4 := by
    unfold lsBytes
    rw [hop]
    rfl
  have hload : lsIsLoad w = true := by
    unfold lsIsLoad
    rw [hop]
    rfl
  have hget : sparGetAll c [(lsOwn x0 w, 4)] s = (s.rd p 4, s) := by
    have h : sparGet s c (lsOwn x0 w) 4 = (s.rd p 4, s) := by
      unfold sparGet
      rw [hp]
      exact if_pos ho
    rw [sparGetAll, h]
    dsimp only
    rw [sparGetAll, List.append_nil]
  have hpieces : lsPieces x0 w (lsOwn x0 w) (lsBytes w) = [(lsOwn x0 w, 4)] := by
    unfold lsPieces
    rw [hbytes, if_neg (by decide), if_neg (by omega)]
  unfold lsLoad
  rw [(lsActs_always x0 (w := w) (by rw [hop]; decide) hen).2, hload, if_neg (by decide), lsAddr_own x0 ham]
  dsimp only
  rw [hpieces, hget]
  dsimp only
  unfold lsLoadInto
  dsimp only
  rw [hop]
  rfl

end

end

/-! ### The bundles of the statement -/

section
variable {s : State} {c : CoreId} {b : Bundle}

/-- The core halts with a code. -/
def Halts (s : State) (c : CoreId) (code : W16) : Prop := Gives (.bundleIssue c) s fun t =>
  (coreOf t c).state = 2 ∧ (coreOf t c).fcode = code ∧ t.mem = s.mem

theorem halts_of_fault {code : W16} {det : Nat} (hx : exec (.bundleIssue c) s = .next (planFault s c code det)) : Halts s c code := by
  obtain ⟨h1, h2, -, h3⟩ := planFault_spec s c code det
  exact Gives.intro hx ⟨h1, h2, h3⟩

/-- A bundle whose only slot may be SB. -/
structure OnlySb (b : Bundle) : Prop where
  ls0 : b.ls0 = 0
  ls1 : b.ls1 = 0
  va0 : b.va0 = 0
  va1 : b.va1 = 0
  tm : b.tm = 0

theorem OnlySb.noFault (ho : OnlySb b) (h : MayIssue s c) (hl : bundleIllegal b = false) (hop : slotOp b.sb ≠ 0x2C ∧ slotOp b.sb ≠ 0x25)
    (ht : ∀ t, sbTarget (coreOf s c) b.sb = some t → inItcm t = true) : bundleFault s c (coreOf s c) b = none :=
  bundleFault_none h hl (by rw [ho.ls0]; rfl) ho.ls1 ho.tm hop ht

theorem vaExec_zero (x0 x : SparCore) : vaExec x0 0 x = x := rfl

/-- The core goes on as `z` says, where the SB slot has no further effect. -/
theorem OnlySb.goes (ho : OnlySb b) (h : MayIssue s c) (hp : (coreOf s c).pc.toNat < 0x20000) (hb : fetched s c = b)
    (hf : bundleFault s c (coreOf s c) b = none) (hm : slotOp b.sb ≠ 0x29) (hact : ∀ u, sbAct (coreOf s c) c b.sb u = u)
    {z : SparCore} (hz : bundleCore (coreOf s c) s c b.sb (coreOf s c) = z) : Gives (.bundleIssue c) s fun t =>
      (∃ a n r, coreOf t c = { z with cnt64 := a, cnt32 := n, irqRpt := r } ∧ a.get 1 = z.cnt64.get 1 + 1) ∧
      t.mem = s.mem ∧ t.out = s.out ∧ t.reef = s.reef := by
  have hg := h.goes hp hb hf ho.ls0 ho.ls1 ho.va1 ho.tm hm hact
  rw [ho.va0, vaExec_zero, hz] at hg
  exact hg

/-- The SB slot acts on its core alone. -/
theorem sbAct_none {w : Nat} (h : slotOp w ≠ 0x27 ∧ slotOp w ≠ 0x2B ∧ slotOp w ≠ 0x2D) (x0 : SparCore) (c : CoreId) (u : State) :
    sbAct x0 c w u = u := by
  obtain ⟨h1, h2, h3⟩ := h
  unfold sbAct
  split
  · rfl
  · split
    · next e => exact absurd e h1
    · next e => exact absurd e h2
    · next e => exact absurd e h3
    · rfl

/-- A NOP. -/
theorem OnlySb.nop (ho : OnlySb b) (h : MayIssue s c) (hp : (coreOf s c).pc.toNat < 0x20000) (hb : fetched s c = b)
    (hl : bundleIllegal b = false) (h0 : b.sb = 0) : Gives (.bundleIssue c) s fun t =>
      (coreOf t c).pc = (advance (coreOf s c)).pc ∧ (coreOf t c).v = (coreOf s c).v ∧ (coreOf t c).acc = (coreOf s c).acc ∧
      (coreOf t c).d = (coreOf s c).d ∧ (coreOf t c).a = (coreOf s c).a ∧ (coreOf t c).p = (coreOf s c).p ∧
      (coreOf t c).cnt64.get 1 = (coreOf s c).cnt64.get 1 + 1 ∧ t.mem = s.mem ∧ t.out = s.out ∧ t.reef = s.reef := by
  have hop : slotOp b.sb = 0 := by rw [h0]; rfl
  have ht := sbTarget_none (.inl hop) (coreOf s c)
  have hf := ho.noFault h hl ⟨by rw [hop]; decide, by rw [hop]; decide⟩ (fun t e => by rw [ht] at e; cases e)
  have hz := bundleCore_next (s := s) (c := c) (y := coreOf s c) h.rpt ht (by rw [hop]; decide) (by rw [hop]; decide) (by rw [hop]; decide)
    (sbRegs_none (.inl hop) _ s c _) rfl rfl
  obtain ⟨t, hx, ⟨a, n, r, hc, ha⟩, hmem, hout, hreef⟩ := ho.goes h hp hb hf (by rw [hop]; decide)
    (sbAct_none ⟨by rw [hop]; decide, by rw [hop]; decide, by rw [hop]; decide⟩ _ c) hz
  refine Gives.intro hx ?_
  rw [hc]
  exact ⟨rfl, rfl, rfl, rfl, rfl, rfl, ha, hmem, hout, hreef⟩

theorem sbImm_range (w : Nat) : -2 ^ 31 ≤ sbImm w ∧ sbImm w < 2 ^ 31 := by
  unfold sbImm sext
  have h1 := BitVec.toInt_lt (x := BitVec.ofNat 11 (bits w 21 11))
  have h2 := BitVec.le_toInt (x := BitVec.ofNat 11 (bits w 21 11))
  omega

/-- MOVI. -/
theorem OnlySb.movi (ho : OnlySb b) (h : MayIssue s c) (hp : (coreOf s c).pc.toNat < 0x20000) (hb : fetched s c = b)
    (hl : bundleIllegal b = false) (hacts : sbActs (coreOf s c) b.sb = true) (hop : slotOp b.sb = 0x10) :
    Gives (.bundleIssue c) s fun t => sbGetInt (coreOf t c) (sbRd b.sb) = sbImm b.sb ∧
      (∀ r : Fin 32, r ≠ sbRd b.sb → sbGet (coreOf t c) r = sbGet (coreOf s c) r) ∧
      (coreOf t c).pc = (advance (coreOf s c)).pc ∧ t.mem = s.mem := by
  have ht := sbTarget_none (.inr (.inl hop)) (coreOf s c)
  have hf := ho.noFault h hl ⟨by rw [hop]; decide, by rw [hop]; decide⟩ (fun t e => by rw [ht] at e; cases e)
  have hput (x : SparCore) (r : Fin 32) (v : Int) : (sbPut x r v).pc = x.pc ∧ (sbPut x r v).loops = x.loops := by
    unfold sbPut
    split <;> exact ⟨rfl, rfl⟩
  have hz := bundleCore_next (s := s) (c := c) (y := coreOf s c) h.rpt ht (by rw [hop]; decide) (by rw [hop]; decide) (by rw [hop]; decide)
    (sbRegs_movi hacts hop s c _) (hput ..).1 (hput ..).2
  obtain ⟨t, hx, ⟨a, n, r, hc, -⟩, hmem, -, -⟩ := ho.goes h hp hb hf (by rw [hop]; decide)
    (sbAct_none ⟨by rw [hop]; decide, by rw [hop]; decide, by rw [hop]; decide⟩ _ c) hz
  obtain ⟨i1, i2⟩ := sbImm_range b.sb
  refine Gives.intro hx ?_
  rw [hc]
  exact ⟨sbGetInt_sbPut { coreOf s c with cnt64 := (coreOf s c).cnt64 } _ i1 i2, fun q hq => sbGet_sbPut _ _ hq, rfl, hmem⟩

/-- A branch. -/
theorem OnlySb.branch (ho : OnlySb b) (h : MayIssue s c) (hp : (coreOf s c).pc.toNat < 0x20000) (hb : fetched s c = b)
    (hl : bundleIllegal b = false) (hacts : sbActs (coreOf s c) b.sb = true) (hop : slotOp b.sb = 0x20) :
    (inItcm (brTarget (coreOf s c) b.sb) = true → Gives (.bundleIssue c) s fun t =>
      (coreOf t c).pc = alignPc (brTarget (coreOf s c) b.sb) ∧ (coreOf t c).loops = (coreOf s c).loops ∧ t.mem = s.mem) ∧
    (inItcm (brTarget (coreOf s c) b.sb) = false → Halts s c fcFetch) := by
  have ht := sbTarget_branch hacts hop
  refine ⟨fun hin => ?_, fun hin => ?_⟩
  · have hf := ho.noFault h hl ⟨by rw [hop]; decide, by rw [hop]; decide⟩ (fun t e => by rw [ht] at e; cases e; exact hin)
    have hz := bundleCore_jump (s := s) (c := c) (y := coreOf s c) h.rpt ht (sbRegs_none (.inr (.inl hop)) _ s c _)
    obtain ⟨t, hx, ⟨a, n, r, hc, -⟩, hmem, -, -⟩ := ho.goes h hp hb hf (by rw [hop]; decide)
      (sbAct_none ⟨by rw [hop]; decide, by rw [hop]; decide, by rw [hop]; decide⟩ _ c) hz
    refine Gives.intro hx ?_
    rw [hc]
    exact ⟨rfl, rfl, hmem⟩
  · refine halts_of_fault (det := 0) (h.fault hp ?_)
    rw [hb]
    unfold bundleFault
    extract_lets w
    have hw : w = b.sb := rfl
    rw [if_neg (by rw [hl, h.rpt]; simp), ho.ls0, ho.ls1, lsAccesses_zero, if_neg (by simp), ho.tm,
      if_neg (by exact fun e => absurd e.1 (by decide)), if_neg (by exact fun e => absurd e.1 (by decide)), hw,
      if_neg (fun e => absurd (hop.symm.trans e.1) (by decide)), if_neg (fun e => absurd (hop.symm.trans e.1) (by decide)), ht]
    exact if_neg (by rw [hin]; decide)

/-- TRAP. -/
theorem OnlySb.trap (ho : OnlySb b) (h : MayIssue s c) (hp : (coreOf s c).pc.toNat < 0x20000) (hb : fetched s c = b)
    (hl : bundleIllegal b = false) (hacts : sbActs (coreOf s c) b.sb = true) (hop : slotOp b.sb = 0x2C) : Halts s c fcTrap := by
  refine halts_of_fault (det := bits b.sb 21 11) (h.fault hp ?_)
  rw [hb]
  unfold bundleFault
  extract_lets w
  have hw : w = b.sb := rfl
  rw [if_neg (by rw [hl, h.rpt]; simp), ho.ls0, ho.ls1, lsAccesses_zero, if_neg (by simp), ho.tm,
    if_neg (by exact fun e => absurd e.1 (by decide)), if_neg (by exact fun e => absurd e.1 (by decide)), hw]
  exact if_pos ⟨hop, hacts⟩

/-- WAITPH. -/
theorem OnlySb.waitph (ho : OnlySb b) (h : MayIssue s c) (hp : (coreOf s c).pc.toNat < 0x20000) (hb : fetched s c = b)
    (hl : bundleIllegal b = false) (hacts : sbActs (coreOf s c) b.sb = true) (hop : slotOp b.sb = 0x26) :
    let n := (waitphOf b.sb).1
    ((coreOf s c).pend.getLsbD n.val = true → Gives (.bundleIssue c) s fun t => (coreOf t c).wait = .none ∧
      (coreOf t c).pend = (coreOf s c).pend &&& ~~~(1#64 <<< n.val) ∧ (coreOf t c).pc = (advance (coreOf s c)).pc) ∧
    ((coreOf s c).pend.getLsbD n.val = false → Gives (.bundleIssue c) s fun t =>
      (coreOf t c).wait = .ph n (waitphOf b.sb).2 false ∧ (coreOf t c).pc = (coreOf s c).pc) := by
  intro n
  have ht := sbTarget_none (.inr (.inr (.inl hop))) (coreOf s c)
  have hf := ho.noFault h hl ⟨by rw [hop]; decide, by rw [hop]; decide⟩ (fun t e => by rw [ht] at e; cases e)
  obtain ⟨q, hz⟩ := bundleCore_waitph (s := s) (c := c) (y := coreOf s c) h.rpt hacts hop rfl rfl
  obtain ⟨t, hx, ⟨a, m, r, hc, -⟩, -, -, -⟩ := ho.goes h hp hb hf (by rw [hop]; decide)
    (sbAct_none ⟨by rw [hop]; decide, by rw [hop]; decide, by rw [hop]; decide⟩ _ c) hz
  refine ⟨fun hn => Gives.intro hx ?_, fun hn => Gives.intro hx ?_⟩
  · rw [if_pos hn] at hc
    rw [hc]
    exact ⟨rfl, rfl, rfl⟩
  · rw [if_neg (by rw [hn]; decide)] at hc
    rw [hc]
    exact ⟨rfl, rfl⟩

/-- DONE. -/
theorem OnlySb.done (ho : OnlySb b) (h : MayIssue s c) (hp : (coreOf s c).pc.toNat < 0x20000) (hb : fetched s c = b)
    (hl : bundleIllegal b = false) (hacts : sbActs (coreOf s c) b.sb = true) (hop : slotOp b.sb = 0x2B) :
    (sparStoresOut s c = false → Gives (.bundleIssue c) s fun t => (coreOf t c).state = 0 ∧
      (coreOf t c).done = true ∧ t.mem = s.mem) ∧
    (sparStoresOut s c = true → Gives (.bundleIssue c) s fun t => (coreOf t c).state = 1 ∧
      (coreOf t c).done = (coreOf s c).done ∧ t.mem = s.mem ∧ exec (.bundleIssue c) t = .next t) := by
  have ht := sbTarget_none (.inr (.inr (.inr (.inl hop)))) (coreOf s c)
  have hf := ho.noFault h hl ⟨by rw [hop]; decide, by rw [hop]; decide⟩ (fun t e => by rw [ht] at e; cases e)
  have hz := bundleCore_next (s := s) (c := c) (y := coreOf s c) h.rpt ht (by rw [hop]; decide) (by rw [hop]; decide) (by rw [hop]; decide)
    (sbRegs_none (.inr (.inr (.inr hop))) _ s c _) rfl rfl
  obtain ⟨u, ⟨a, n, r, hc, -⟩, hmem, -, -, hfab, -, hx⟩ := h.plain hp hb hf ho.ls0 ho.ls1 ho.va1 ho.tm (by rw [hop]; decide)
  rw [ho.va0, vaExec_zero, hz] at hc
  have hact : sbAct (coreOf s c) c b.sb u = doneIssue u c := by
    unfold sbAct
    rw [hacts, if_neg (by decide), hop]
    rfl
  have hout : sparStoresOut u c = sparStoresOut s c := by
    unfold sparStoresOut
    rw [hfab]
  rw [hact] at hx
  have hst : (coreOf s c).state = 1 := by
    have := h.runs
    unfold sparRuns at this
    rw [Bool.and_eq_true, beq_iff_eq] at this
    exact this.2
  obtain ⟨a', n', hc', -⟩ := coreOf_passIssue (doneIssue u c) c
  have hm : (passIssue (doneIssue u c) c).mem = (doneIssue u c).mem := rfl
  refine ⟨fun hs => Gives.intro hx ?_, fun hs => Gives.intro hx ?_⟩
  · have hd : doneIssue u c = doneEnd u c := if_neg (by rw [hout, hs]; decide)
    have hcore : coreOf (doneEnd u c) c = _ := coreOf_coreMod_same (obdRelease u c) c _
    rw [hc', hm, hd, hcore]
    exact ⟨rfl, rfl, hmem⟩
  · have hd : doneIssue u c = coreMod u c fun x => { x with closing := true } := if_pos (by rw [hout, hs])
    have hcore : coreOf (doneIssue u c) c = _ := (congrArg (coreOf · c) hd).trans (coreOf_coreMod_same u c _)
    rw [hcore, hc] at hc'
    have hclosing : (coreOf (passIssue (doneIssue u c) c) c).closing = true := by rw [hc']
    have hstuck : exec (.bundleIssue c) (passIssue (doneIssue u c) c) = .next (passIssue (doneIssue u c) c) :=
      if_neg (by rw [hclosing]; simp)
    refine ⟨by rw [hc']; exact hst, by rw [hc'], ?_, hstuck⟩
    rw [hm, hd]
    exact hmem

/-- An integer vector addition. -/
theorem MayIssue.add (h : MayIssue s c) (hp : (coreOf s c).pc.toNat < 0x20000) (hb : fetched s c = b) (hl : bundleIllegal b = false)
    (h0 : b.ls0 = 0) (h1 : b.ls1 = 0) (h2 : b.va1 = 0) (h3 : b.tm = 0) (hsb : b.sb = 0) (hop : slotOp b.va0 = 0x01)
    (het : vaEt b.va0 ≤ 2) : Gives (.bundleIssue c) s fun t =>
      let x := coreOf s c
      let k := etBits (vaEt b.va0)
      let vd : Fin 32 := Fin.ofNat 32 (vaVd b.va0)
      (∀ i : Nat, i < 512 / k → laneBits ((coreOf t c).v.get vd) k i =
        if (slotPred x b.va0).getLsbD i then
          satInt k (vaSat b.va0) (sext k (laneBits (x.v.get (vaA b.va0)) k i) + sext k (laneBits (x.v.get (vaB b.va0)) k i))
        else laneBits (x.v.get vd) k i) ∧
      (∀ r : Fin 32, r ≠ vd → (coreOf t c).v.get r = x.v.get r) ∧ (coreOf t c).acc = x.acc ∧ (coreOf t c).d = x.d ∧
      (coreOf t c).a = x.a ∧ (coreOf t c).p = x.p ∧ (coreOf t c).cb = x.cb ∧ (coreOf t c).stage = x.stage ∧
      t.mem = s.mem := by
  have hs : slotOp b.sb = 0 := by rw [hsb]; rfl
  have ht := sbTarget_none (.inl hs) (coreOf s c)
  have hf := bundleFault_none h hl (by rw [h0]; rfl) h1 h3 ⟨by rw [hs]; decide, by rw [hs]; decide⟩ (fun t e => by rw [ht] at e; cases e)
  obtain ⟨t, hx, ⟨a, n, r, hc, -⟩, hmem, -, -⟩ := h.goes hp hb hf h0 h1 h2 h3 (by rw [hs]; decide)
    (sbAct_none ⟨by rw [hs]; decide, by rw [hs]; decide, by rw [hs]; decide⟩ _ c)
  have hz := bundleCore_next (s := s) (c := c)
    (y := { coreOf s c with v := vput (coreOf s c).v (Fin.ofNat 32 (vaVd b.va0)) (vaVector (coreOf s c) b.va0) }) h.rpt ht
    (by rw [hs]; decide) (by rw [hs]; decide) (by rw [hs]; decide) (sbRegs_none (.inl hs) _ s c _) rfl rfl
  rw [vaExec_add _ _ hop, hz] at hc
  refine Gives.intro hx ?_
  dsimp only
  rw [hc]
  refine ⟨fun i hi => ?_, fun q hq => vput_get_other _ _ hq, rfl, rfl, rfl, rfl, rfl, rfl, hmem⟩
  dsimp only
  rw [vput_get_same]
  exact vaVector_add (coreOf s c) hop het hi

/-- An LS0 slot alone in its bundle, of the core's own TCM. -/
structure OnlyLs (s : State) (c : CoreId) (b : Bundle) (p n : Nat) : Prop where
  ls1 : b.ls1 = 0
  va0 : b.va0 = 0
  va1 : b.va1 = 0
  tm : b.tm = 0
  sb : b.sb = 0
  am : lsAm b.ls0 = 0
  en : bitOf b.ls0 10 = false
  op : slotOp b.ls0 ≠ 0 ∧ slotOp b.ls0 < 0x10
  bytes : lsBytes b.ls0 = n ∧ n ≠ 0
  place : placeOf s (lsOwn (coreOf s c) b.ls0) = .here p
  own : ownTcm c p n = true

/-- Such a bundle issues, and the core goes on to the next. -/
theorem OnlyLs.issues {p n : Nat} (ho : OnlyLs s c b p n) (h : MayIssue s c) (hp : (coreOf s c).pc.toNat < 0x20000) (hb : fetched s c = b)
    (hl : bundleIllegal b = false) {y : SparCore} (hy : lsLoad (coreOf s c) c b.ls0 (coreOf s c) s = (y, s))
    (hpc : y.pc = (coreOf s c).pc) (hloops : y.loops = (coreOf s c).loops) :
    ∃ z : SparCore, z.v = y.v ∧ z.a = y.a ∧ z.d = y.d ∧
      exec (.bundleIssue c) s = .next (passIssue (lsStore (coreOf s c) c b.ls0 (coreMod s c fun _ => z)) c) := by
  have hop : slotOp b.sb = 0 := by rw [ho.sb]; rfl
  have ht := sbTarget_none (.inl hop) (coreOf s c)
  have hacc := lsAccesses_own (coreOf s c) ho.am ho.en ho.op.1 ho.op.2 (by rw [ho.bytes.1]; exact ho.bytes.2)
  have hf := bundleFault_none h hl (by rw [hacc]; rfl) ho.ls1 ho.tm ⟨by rw [hop]; decide, by rw [hop]; decide⟩
    (fun t e => by rw [ht] at e; cases e)
  have ha : accChecks c (bundleAccesses (coreOf s c) b) s = .ok s := by
    unfold bundleAccesses
    rw [hacc, ho.ls1, ho.tm, ho.bytes.1]
    exact accChecks_own _ ho.place ho.own
  have hload : lsLoad (coreOf s c) c b.ls0 (lsPostInc (coreOf s c) b.ls0 (coreOf s c)) s = (y, s) := by
    rw [lsPostInc_own _ _ ho.am, hy]
  have hx := (h.issues hp hb hf ha ho.tm).trans (congrArg _ (bundleDo_eq s c ho.ls1 ho.va1 ho.tm (by rw [hop]; decide) hload))
  have hz := bundleCore_next (s := s) (c := c) (y := y) h.rpt ht (by rw [hop]; decide) (by rw [hop]; decide) (by rw [hop]; decide)
    (sbRegs_none (.inl hop) _ s c _) hpc hloops
  rw [ho.va0, vaExec_zero, sbAct_none ⟨by rw [hop]; decide, by rw [hop]; decide, by rw [hop]; decide⟩ _ c] at hx
  generalize bundleCore (coreOf s c) s c b.sb y = q at hz hx
  exact ⟨(q.bump64 1 1).noteRpt, (congrArg SparCore.v hz :), (congrArg SparCore.a hz :), (congrArg SparCore.d hz :), hx⟩

/-- A vector store. -/
theorem OnlyLs.store {p : Nat} (ho : OnlyLs s c b p (lsSz b.ls0)) (h : MayIssue s c) (hp : (coreOf s c).pc.toNat < 0x20000)
    (hb : fetched s c = b) (hl : bundleIllegal b = false) (hop : slotOp b.ls0 = 0x02) (hwf : s.memWf = true) :
    Gives (.bundleIssue c) s fun t =>
      t.rd p (lsSz b.ls0) = toLE (lsSz b.ls0) ((coreOf s c).v.get (Fin.ofNat 32 (lsReg b.ls0))).toNat ∧
      (∀ q : Nat, q < p ∨ p + lsSz b.ls0 ≤ q → memRead t.mem q = memRead s.mem q) ∧
      (coreOf t c).v = (coreOf s c).v ∧ (coreOf t c).a = (coreOf s c).a := by
  have hno : lsLoad (coreOf s c) c b.ls0 (coreOf s c) s = (coreOf s c, s) := by
    have hload : lsIsLoad b.ls0 = false := by
      unfold lsIsLoad
      rw [hop]
      rfl
    unfold lsLoad
    rw [hload]
    exact if_pos (Bool.or_true _)
  obtain ⟨z, hv, ha, -, hx⟩ := ho.issues h hp hb hl hno rfl rfl
  obtain ⟨u, hu⟩ : ∃ u, coreMod s c (fun _ => z) = u := ⟨_, rfl⟩
  have hum : u.mem = s.mem := hu ▸ rfl
  have huc : coreOf u c = z := hu ▸ coreOf_coreMod_same ..
  have hplace : placeOf u (lsOwn (coreOf s c) b.ls0) = .here p := hu ▸ ho.place
  obtain ⟨bs, hbs⟩ : ∃ bs, toLE (lsSz b.ls0) ((coreOf s c).v.get (Fin.ofNat 32 (lsReg b.ls0))).toNat = bs := ⟨_, rfl⟩
  have hlen : bs.length = lsSz b.ls0 := hbs ▸ toLE_length ..
  rw [hu, lsStore_own (coreOf s c) hop ho.am ho.en hplace ho.own, hbs] at hx
  obtain ⟨a', n', hc', -⟩ := coreOf_passIssue (noteHomeWrite (u.wr p bs) p (lsSz b.ls0)) c
  have hcore : coreOf (noteHomeWrite (u.wr p bs) p (lsSz b.ls0)) c = coreOf u c := rfl
  rw [hcore, huc] at hc'
  have hm : (passIssue (noteHomeWrite (u.wr p bs) p (lsSz b.ls0)) c).mem = memWriteN s.mem p bs :=
    (show _ = memWriteN u.mem p bs from rfl).trans (by rw [hum])
  generalize passIssue (noteHomeWrite (u.wr p bs) p (lsSz b.ls0)) c = t at hx hc' hm
  refine Gives.intro hx ⟨?_, fun q hq => ?_, ?_, ?_⟩
  · show memReadN t.mem p _ = _
    rw [hm, hbs, ← hlen]
    exact memReadN_memWriteN hwf
  · rw [hm]
    exact memRead_memWriteN_out hwf (by rw [hlen]; omega)
  · rw [hc']
    exact hv
  · rw [hc']
    exact ha

/-- A scalar load. -/
theorem OnlyLs.load {p : Nat} (ho : OnlyLs s c b p 4) (h : MayIssue s c) (hp : (coreOf s c).pc.toNat < 0x20000)
    (hb : fetched s c = b) (hl : bundleIllegal b = false) (hop : slotOp b.ls0 = 0x04) : Gives (.bundleIssue c) s fun t =>
      (coreOf t c).d = vput (coreOf s c).d (Fin.ofNat 16 (lsReg b.ls0)) (BitVec.ofNat 32 (s.rdLE p 4)) ∧
      (coreOf t c).v = (coreOf s c).v ∧ (coreOf t c).a = (coreOf s c).a ∧ t.mem = s.mem := by
  obtain ⟨z, hv, ha, hd, hx⟩ := ho.issues h hp hb hl (lsLoad_own (coreOf s c) (coreOf s c) hop ho.am ho.en ho.place ho.own) rfl rfl
  have hno : lsStore (coreOf s c) c b.ls0 (coreMod s c fun _ => z) = coreMod s c fun _ => z := by
    have hload : lsIsLoad b.ls0 = true := by
      unfold lsIsLoad
      rw [hop]
      rfl
    unfold lsStore
    rw [hload]
    exact if_pos (by simp)
  rw [hno] at hx
  obtain ⟨a', n', hc', -⟩ := coreOf_passIssue (coreMod s c fun _ => z) c
  rw [coreOf_coreMod_same] at hc'
  refine Gives.intro hx ?_
  rw [hc']
  exact ⟨hd, hv, ha, rfl⟩

end

/-- Settles O37, slot by slot: what a slot that is not valid does, what SB, VA0 and LS0 do alone. -/
theorem bundleIssued : Obligations.BundleIssued := by
  intro c s h1 h2 h3 h4 h5 h6 h7 x b halts
  have h : MayIssue s c := ⟨h1, h2, h3, h4, h5, h6, h7⟩
  have hb : fetched s c = b := rfl
  clear_value b
  refine ⟨fun hp => halts_of_fault (h.fetchFault hp), fun hp hill => halts_of_fault (det := 0) (h.fault hp ?_),
    fun hp hl hva1 hls1 htm => ⟨fun hls0 hva0 => ?_, fun hls0 hsb hop het => h.add hp hb hl hls0 hls1 hva1 htm hsb hop het,
      fun hva0 hsb ham hen hwf p hplace => ⟨fun hop hown => ?_, fun hop hown => ?_⟩⟩⟩
  · rw [hb]
    exact if_pos (.inl hill)
  · have ho : OnlySb b := ⟨hls0, hls1, hva0, hva1, htm⟩
    exact ⟨ho.nop h hp hb hl, fun ha => ⟨ho.movi h hp hb hl ha, ho.branch h hp hb hl ha, ho.waitph h hp hb hl ha,
      ho.trap h hp hb hl ha, ho.done h hp hb hl ha⟩⟩
  · have hbytes : lsBytes b.ls0 = lsSz b.ls0 := by
      unfold lsBytes
      rw [hop]
      rfl
    exact OnlyLs.store ⟨hls1, hva0, hva1, htm, hsb, ham, hen, ⟨by rw [hop]; decide, by rw [hop]; decide⟩, ⟨hbytes, lsSz_pos _⟩, hplace, hown⟩
      h hp hb hl hop hwf
  · have hbytes : lsBytes b.ls0 = 4 := by
      unfold lsBytes
      rw [hop]
      rfl
    exact OnlyLs.load ⟨hls1, hva0, hva1, htm, hsb, ham, hen, ⟨by rw [hop]; decide, by rw [hop]; decide⟩, ⟨hbytes, by decide⟩, hplace, hown⟩
      h hp hb hl hop

end Sys2Proof.Machine

end

section

namespace Sys2Proof.Machine

/-! ## What a sample's admission and its bytes leave -/

/-- Everything but what an admission and CAP's stores may change: memory and its reservations, the ACT's log, conditions
and EMCYs, contexts and windows. -/
def State.sansSample (s : State) : State :=
  { s with mem := [], act.denials := 0, act.log := [], fab.homeRes := [], health.lastRaised := [], health.standing := [],
           node := s.node.sansEmcy, cap.ctxs := [], cap.windows := [] }

/-- Everything but the slots and the sets, frames and counts that follow them. -/
def State.sansSlots (s : State) : State :=
  { s with cap.ctxs := [], cap.csi := [], cap.sets := [], cap.stats := Vector.replicate 8 0 }

section
variable (s : State) (n k : Nat)

theorem raiseEmcy_sample (code : Nat) (unit : Byte) (d : Bytes) : (raiseEmcy s code unit d).sansSample = s.sansSample :=
  ite_view (V := State.sansSample) rfl rfl

theorem raiseLimited_sample (code key : Nat) (unit : Byte) (d : Bytes) :
    (raiseLimited s code key unit d).sansSample = s.sansSample :=
  ite_view (V := State.sansSample) rfl ((raiseEmcy_sample ..).trans rfl)

theorem clearStanding_sample (code key : Nat) : (clearStanding s code key).sansSample = s.sansSample := by
  unfold clearStanding
  split
  · rfl
  · exact ite_view (V := State.sansSample) rfl rfl

theorem actCheck_sample {s t : State} {init acc a m : Nat} (h : actCheck s init acc a m = some t) :
    t.sansSample = s.sansSample := by
  have hd : ∀ e b, (actDeny s init acc e b).sansSample = s.sansSample := fun e b => by
    unfold actDeny
    extract_lets r l
    exact (raiseLimited_sample ..).trans rfl
  unfold actCheck at h
  split at h
  · exact Option.some.inj h ▸ hd ..
  · split at h
    · cases h
    · exact Option.some.inj h ▸ hd ..

theorem ramWrite_sample (init a : Nat) (bs : Bytes) : (ramWrite s init a bs).2.sansSample = s.sansSample := by
  unfold ramWrite
  split
  · rfl
  · split
    · exact actCheck_sample ‹_›
    · split <;> rfl

theorem ramWrite_cap (init a : Nat) (bs : Bytes) : (ramWrite s init a bs).2.cap = s.cap :=
  (congrArg State.cap (ramWrite_access s init a bs) :)

@[simp] theorem capStore_cap (a : Nat) (bs : Bytes) : (capStore s a bs).cap = s.cap := ramWrite_cap ..

@[simp] theorem jduStore_cap (a : Nat) (bs : Bytes) : (jduStore s a bs).cap = s.cap := ramWrite_cap ..

@[simp] theorem slotStore_cap (off : Nat) (bs : Bytes) : (slotStore s n k off bs).cap = s.cap := ramWrite_cap ..

theorem capStore_sample (a : Nat) (bs : Bytes) : (capStore s a bs).sansSample = s.sansSample := ramWrite_sample ..

theorem slotStore_sample (off : Nat) (bs : Bytes) : (slotStore s n k off bs).sansSample = s.sansSample :=
  ramWrite_sample ..

theorem noteAdmission_sample (t : CapSlot) : (noteAdmission s n t).sansSample = s.sansSample :=
  ite_view (V := State.sansSample) ((clearStanding_sample ..).trans rfl) ((clearStanding_sample ..).trans rfl)

theorem admitFrame_sample (st : Bytes) (sense : Option W64) (host : Bool) :
    (admitFrame s n k st sense host).sansSample = s.sansSample :=
  (noteAdmission_sample ..).trans ((capStore_sample ..).trans rfl)

theorem overrun_sample : (overrun s n).sansSample = s.sansSample := (raiseLimited_sample ..).trans rfl

end

/-! ## Contexts after CAP's operations -/

theorem ctxOf_congr {s t : State} (h : t.cap = s.cap) (n : Nat) : ctxOf t n = ctxOf s n := by
  rw [ctxOf, ctxOf, h]

theorem capWf_congr {s t : State} (h : t.cap = s.cap) : t.capWf = s.capWf := by
  rw [State.capWf, State.capWf, h]

theorem slotAt_empty_of_le {c : Ctx} {k : Nat} (h : c.slots.length ≤ k) : slotAt c k = CapSlot.empty := by
  rw [slotAt, List.getD_eq_getElem?_getD, List.getElem?_eq_none h]
  rfl

/-- A slot that can be taken is one of the ring's. -/
theorem oldest_mem (l : List (CapSlot × Nat)) (b : Option (Nat × Nat)) {x : Nat × Nat}
    (h : l.foldl (fun (b : Option (Nat × Nat)) p =>
      match b with
      | none => some (p.1.order, p.2)
      | some (o, k) => if p.1.order < o then some (p.1.order, p.2) else some (o, k)) b = some x) :
    b = some x ∨ ∃ p ∈ l, p.2 = x.2 := by
  induction l generalizing b with
  | nil => exact .inl h
  | cons p l ih =>
    rw [List.foldl_cons] at h
    obtain h | ⟨q, hq, hx⟩ := ih _ h
    · cases b with
      | none => exact .inr ⟨p, List.mem_cons_self .., congrArg Prod.snd (Option.some.inj h)⟩
      | some y =>
        dsimp only at h
        split at h
        · exact .inr ⟨p, List.mem_cons_self .., congrArg Prod.snd (Option.some.inj h)⟩
        · exact .inl h
    · exact .inr ⟨q, List.mem_cons_of_mem _ hq, hx⟩

theorem pickSlot_lt {c : Ctx} {k : Nat} (h : pickSlot c = some k) : k < c.slots.length := by
  unfold pickSlot at h
  split at h
  · next hk =>
    obtain rfl := Option.some.inj h
    obtain ⟨hlt, _⟩ := List.findIdx?_eq_some_iff_getElem.1 hk
    exact hlt
  · split at h
    · obtain ⟨x, hx, rfl⟩ := Option.map_eq_some_iff.1 h
      obtain h0 | ⟨p, hp, hpx⟩ := oldest_mem _ none hx
      · cases h0
      · rw [← hpx]
        have := List.snd_lt_of_mem_zipIdx (List.mem_filter.1 hp).1
        omega
    · cases h

/-- A context that has admitted one sample more. -/
def Ctx.noted (c : Ctx) : Ctx := { c with st := 2, admitted := c.admitted + 1, roiAge := c.roiAge + 1 }

/-- A context with a sample admitted to slot k. -/
def Ctx.taking (c : Ctx) (k : Nat) (st : Bytes) (sense : Option W64) (host : Bool) : Ctx :=
  (slotSet c k { st := .filling, order := c.admitted.toNat, stamp := st, sense := sense,
                 group := 0, decoded := false, done := false, host := host }).noted

/-- A context whose slot k is FREE again. -/
def Ctx.free (c : Ctx) (k : Nat) : Ctx :=
  { slotSet c k CapSlot.empty with asm := c.asm.filter fun a => a.slot ≠ some k }

theorem noteAdmission_ctxs (s : State) (n : Nat) (t : CapSlot) :
    (noteAdmission s n t).cap.ctxs = (ctxPut s n (ctxOf s n).noted).cap.ctxs := by
  rw [← clearStanding_cap (ctxPut s n (ctxOf s n).noted) 0xFF30 n]
  unfold noteAdmission
  split <;> rfl

/-- The context's open sample is abandoned when it fills the slot. -/
def asmLeave (s : State) (n k : Nat) : State :=
  match (ctxOf s n).asm with
  | some a => if a.slot = some k then ctxPut s n { ctxOf s n with asm := none } else s
  | none => s

theorem slotFree_eq (s : State) (n k : Nat) : slotFree s n k =
    let t := asmLeave (slotMod s n k fun _ => CapSlot.empty) n k
    { t with
      cap.csi := t.cap.csi.filter fun f => !(f.ctx == n && f.slot == k)
      cap.sets := t.cap.sets.map fun x =>
        if (n, k) ∈ x.members then { x with members := x.members.filter (· ≠ (n, k)), missing := true } else x } := rfl

theorem asmLeave_slots (s : State) (n k : Nat) : (asmLeave s n k).sansSlots = s.sansSlots := by
  unfold asmLeave
  split
  · exact ite_view (V := State.sansSlots) rfl rfl
  · rfl

section
variable {s : State} (n k m : Nat) (hw : s.capWf = true)
include hw

theorem ctxOf_overrun : ctxOf (overrun s n) m =
    if m = n then { ctxOf s n with ovr := (ctxOf s n).ovr + 1 } else ctxOf s m := by
  rw [overrun, ctxOf_congr (raiseLimited_cap ..), ctxOf_ctxPut _ _ _ hw]

theorem overrun_capWf : (overrun s n).capWf = true := by
  rw [overrun, capWf_congr (raiseLimited_cap ..)]
  exact ctxPut_capWf _ _ hw

theorem ctxOf_noteAdmission (t : CapSlot) : ctxOf (noteAdmission s n t) m =
    if m = n then (ctxOf s n).noted else ctxOf s m := by
  rw [← ctxOf_ctxPut _ _ _ hw, ctxOf, noteAdmission_ctxs]
  rfl

theorem noteAdmission_capWf (t : CapSlot) : (noteAdmission s n t).capWf = true := by
  have hl : (noteAdmission s n t).cap.lastSet = s.cap.lastSet :=
    (congrArg (fun s => s.cap.lastSet) (noteAdmission_sample s n t) :)
  rw [State.capWf, noteAdmission_ctxs, hl]
  exact ctxPut_capWf n (ctxOf s n).noted hw

theorem ctxOf_admitFrame (st : Bytes) (sense : Option W64) (host : Bool) :
    ctxOf (admitFrame s n k st sense host) m = if m = n then (ctxOf s n).taking k st sense host else ctxOf s m := by
  unfold admitFrame
  extract_lets c t hdr u
  have hu : u.cap = (ctxPut s n (slotSet c k t)).cap := capStore_cap ..
  rw [ctxOf_noteAdmission n m ((capWf_congr hu).trans (ctxPut_capWf _ _ hw)), ctxOf_congr hu, ctxOf_congr hu,
    ctxOf_ctxPut _ _ _ hw, ctxOf_ctxPut _ _ _ hw, if_pos rfl]
  by_cases hm : m = n
  · rw [if_pos hm, if_pos hm]
    rfl
  · rw [if_neg hm, if_neg hm, if_neg hm]

theorem admitFrame_capWf (st : Bytes) (sense : Option W64) (host : Bool) :
    (admitFrame s n k st sense host).capWf = true :=
  noteAdmission_capWf n ((capWf_congr (capStore_cap ..)).trans (ctxPut_capWf _ _ hw)) _

theorem asmLeave_capWf : (asmLeave s n k).capWf = true := by
  unfold asmLeave
  split
  · split
    · exact ctxPut_capWf _ _ hw
    · exact hw
  · exact hw

theorem ctxOf_asmLeave : ctxOf (asmLeave s n k) m =
    if m = n then { ctxOf s n with asm := (ctxOf s n).asm.filter fun a => a.slot ≠ some k } else ctxOf s m := by
  have hself : ∀ o, (ctxOf s n).asm = o →
      ctxOf s m = if m = n then { ctxOf s n with asm := o } else ctxOf s m := fun o ho => by
    subst ho
    split
    · next h => rw [h]
    · rfl
  unfold asmLeave
  split
  · next a ha =>
    by_cases hk : a.slot = some k
    · have he : (ctxOf s n).asm.filter (fun a => a.slot ≠ some k) = none := by rw [ha]; simp [hk]
      rw [if_pos hk, ctxOf_ctxPut _ _ _ hw, he]
    · have he : (ctxOf s n).asm.filter (fun a => a.slot ≠ some k) = some a := by rw [ha]; simp [hk]
      rw [if_neg hk, he]
      exact hself _ ha
  · next ha =>
    rw [ha]
    exact hself _ ha

theorem ctxOf_slotFree : ctxOf (slotFree s n k) m = if m = n then (ctxOf s n).free k else ctxOf s m := by
  have hs : (slotMod s n k fun _ => CapSlot.empty).capWf = true := slotMod_capWf _ _ _ hw
  refine (ctxOf_asmLeave (s := slotMod s n k fun _ => CapSlot.empty) n k m hs).trans ?_
  have hc : ∀ m, ctxOf (slotMod s n k fun _ => CapSlot.empty) m =
      if m = n then slotSet (ctxOf s n) k CapSlot.empty else ctxOf s m := fun m => ctxOf_ctxPut _ _ _ hw
  rw [hc, hc, if_pos rfl]
  by_cases hm : m = n
  · rw [if_pos hm, if_pos hm]
    rfl
  · rw [if_neg hm, if_neg hm, if_neg hm]

theorem slotFree_capWf : (slotFree s n k).capWf = true := by
  have := asmLeave_capWf (s := slotMod s n k fun _ => CapSlot.empty) n k (slotMod_capWf _ _ _ hw)
  exact this

end

theorem slotAt_free (c : Ctx) (k j : Nat) : slotAt (c.free k) j = if j = k then CapSlot.empty else slotAt c j := by
  show slotAt (slotSet c k CapSlot.empty) j = _
  rw [slotAt_slotSet]
  by_cases hj : j = k
  · subst hj
    by_cases hk : j < c.slots.length
    · rw [if_pos ⟨rfl, hk⟩, if_pos rfl]
    · rw [if_neg (fun h => hk h.2), if_pos rfl, slotAt_empty_of_le (Nat.le_of_not_lt hk)]
  · rw [if_neg (fun h => hj h.1), if_neg hj]

theorem slotAt_taking {c : Ctx} {k : Nat} (hk : k < c.slots.length) (st : Bytes) (sense : Option W64) (host : Bool) :
    slotAt (c.taking k st sense host) k =
      { st := .filling, order := c.admitted.toNat, stamp := st, sense := sense, group := 0, decoded := false,
        done := false, host := host } := by
  show slotAt (slotSet c k _) k = _
  rw [slotAt_slotSet, if_pos ⟨rfl, hk⟩]

theorem slotFree_slots (s : State) (n k : Nat) : (slotFree s n k).sansSlots = s.sansSlots :=
  (asmLeave_slots (slotMod s n k fun _ => CapSlot.empty) n k).trans rfl

theorem slotMod_slots (s : State) (n k : Nat) (f : CapSlot → CapSlot) : (slotMod s n k f).sansSlots = s.sansSlots := rfl

end Sys2Proof.Machine

end

section

namespace Sys2Proof.Machine

/-! ## Contexts, host slots and alignment sets (O35) -/

/-! ### Ends of samples -/

section
variable {s : State} (n k : Nat) (hw : s.capWf = true)

theorem noteBad_ctxs (s : State) (n st : Nat) : (noteBad s n st).cap.ctxs = s.cap.ctxs := by
  unfold noteBad
  extract_lets t
  split
  · rw [raiseLimited_cap]
    rfl
  · rfl

theorem noteBad_stats {st : Nat} (h : st ≠ 3) : (noteBad s n st).cap.stats.get 4 = s.cap.stats.get 4 + 1 := by
  rw [noteBad, if_neg h]
  exact vmod_get_same ..

theorem hostRingPut_ctxs (s : State) (g : Nat) (hdr data : Bytes) : (hostRingPut s g hdr data).cap.ctxs = s.cap.ctxs := by
  unfold hostRingPut
  extract_lets i b base size rt len wr tail pad used
  split
  · rw [raiseLimited_cap]
  · next u at_ v _ _ =>
    have hu : u.cap = s.cap := by
      unfold u
      split
      · rfl
      · exact capStore_cap ..
    show v.cap.ctxs = _
    rw [capStore_cap, hu]

theorem ctxOf_ctxs {s t : State} (h : t.cap.ctxs = s.cap.ctxs) (n : Nat) : ctxOf t n = ctxOf s n := by
  rw [ctxOf, ctxOf, h]

theorem divertedEnd_ctxs (s : State) (n : Nat) (a : CapAsm) (full : Bool) (got : Nat) (d : Bytes) (gaps : List (Nat × Nat)) :
    (divertedEnd s n a full got d gaps).cap.ctxs = s.cap.ctxs := by
  unfold divertedEnd
  extract_lets st u
  rw [hostRingPut_ctxs]
  unfold u
  split
  · rfl
  · exact noteBad_ctxs ..

theorem slotReady_asm (hw : s.capWf = true) : (ctxOf (slotReady s n k) n).asm = (ctxOf s n).asm := by
  rw [slotReady, slotMod, ctxOf_ctxPut _ _ _ hw, if_pos rfl]
  rfl

theorem ctxOf_slotBad (hw : s.capWf = true) (st m : Nat) :
    ctxOf (slotBad s n k st) m = if m = n then (ctxOf s n).free k else ctxOf s m := by
  rw [slotBad, ctxOf_ctxs (noteBad_ctxs ..), ctxOf_slotFree n k m hw]

theorem slotBad_asm (hw : s.capWf = true) (st : Nat) (ha : (ctxOf s n).asm = none) :
    (ctxOf (slotBad s n k st) n).asm = none := by
  rw [ctxOf_slotBad n k hw, if_pos rfl]
  show (ctxOf s n).asm.filter _ = none
  rw [ha]
  rfl

theorem jpegComplete_asm (hw : s.capWf = true) (len : Nat) (gaps : List (Nat × Nat)) (ha : (ctxOf s n).asm = none) :
    (ctxOf (jpegComplete s n k len gaps) n).asm = none := by
  unfold jpegComplete
  extract_lets c
  split
  · exact slotBad_asm n k hw _ ha
  · exact (slotReady_asm n k hw).trans ha

theorem asmEnd_asm (hw : s.capWf = true) (a : CapAsm) : (ctxOf (asmEnd s n a) n).asm = none := by
  have h1 : (ctxPut s n { ctxOf s n with asm := none }).capWf = true := ctxPut_capWf _ _ hw
  have h2 : (ctxOf (ctxPut s n { ctxOf s n with asm := none }) n).asm = none := by
    rw [ctxOf_ctxPut _ _ _ hw, if_pos rfl]
  unfold asmEnd
  extract_lets c got len full gaps u
  split
  · rw [ctxOf_ctxs (divertedEnd_ctxs ..)]
    exact h2
  · next k _ =>
    extract_lets v
    have hc : v.cap = u.cap := slotStore_cap ..
    have h3 : v.capWf = true := (capWf_congr hc).trans h1
    have h4 : (ctxOf v n).asm = none := by rw [ctxOf_congr hc]; exact h2
    split
    · split
      · exact (slotReady_asm n k h3).trans h4
      · exact slotBad_asm n k h3 _ h4
    · split
      · exact jpegComplete_asm n k h3 _ _ h4
      · exact (slotReady_asm n k h3).trans h4

theorem slotFree_stats (s : State) (n k : Nat) : (slotFree s n k).cap.stats = s.cap.stats := by
  have h : ∀ u : State, (asmLeave u n k).cap.stats = u.cap.stats := fun u => by
    unfold asmLeave
    split
    · split <;> rfl
    · rfl
  exact (h _).trans rfl

/-- A KIND 0 sample that has not all its bytes is bad. -/
theorem asmEnd_partial (a : CapAsm) (hk : (ctxOf s n).kind = 0) (ha : a.slot = some k)
    (hl : ∀ l, a.len = some l → covered a.ranges l = false) :
    ∃ u : State, asmEnd s n a = slotBad u n k 6 ∧ u.cap = (ctxPut s n { ctxOf s n with asm := none }).cap := by
  unfold asmEnd
  extract_lets c got len full gaps u
  rw [ha]
  have hf : full = false := by
    show (a.len.isSome && covered a.ranges (a.len.getD got)) = false
    cases h : a.len with
    | none => rfl
    | some l => exact hl l h
  have h0 : c.kind = 0 := hk
  dsimp only
  rw [if_pos h0, hf, if_neg Bool.false_ne_true]
  exact ⟨_, rfl, slotStore_cap ..⟩

theorem assemblyTimeout_spec (ctx : BitVec 12) (hw : s.capWf = true) (hu : capUp s = true) :
    let n := ctx.toNat
    let c := ctxOf s n
    (c.asm = none → exec (.assemblyTimeout ctx) s = .next s) ∧
    (∀ a : CapAsm, c.asm = some a → Gives (.assemblyTimeout ctx) s fun t => (ctxOf t n).asm = none ∧
      (∀ k : Nat, c.kind = 0 → a.slot = some k → (∀ l : Nat, a.len = some l → covered a.ranges l = false) →
        (slotAt (ctxOf t n) k).st = .free ∧ t.cap.stats.get 4 = s.cap.stats.get 4 + 1)) := by
  intro n c
  have he : exec (.assemblyTimeout ctx) s = execAssemblyTimeout ctx s := rfl
  refine ⟨fun h => ?_, fun a h => .intro (he.trans ?_) ⟨asmEnd_asm n hw a, fun k hk ha hl => ?_⟩⟩
  · rw [he, execAssemblyTimeout, show (ctxOf s ctx.toNat).asm = none from h]
  · rw [execAssemblyTimeout, show (ctxOf s ctx.toNat).asm = some a from h]
    exact if_pos hu
  · obtain ⟨u, hu, hc⟩ := asmEnd_partial (s := s) n k a hk ha hl
    have hcw : u.capWf = true := (capWf_congr hc).trans (ctxPut_capWf _ _ hw)
    rw [hu, ctxOf_slotBad n k hcw, if_pos rfl, slotAt_free, if_pos rfl]
    refine ⟨rfl, ?_⟩
    rw [slotBad, noteBad_stats n (by decide), slotFree_stats, hc]
    rfl

end

/-! ### Host slots -/

section
variable {s : State}

theorem capAcq_taken (hu : capUp s = true) {n k : Nat} (hen : (ctxOf s n).en = true) (hk : (ctxOf s n).kind = 5 ∨ (ctxOf s n).kind = 6)
    (hp : pickSlot (ctxOf s n) = some k) : capAcq s n = (k, admitFrame s n k (stampNow s) none true) := by
  unfold capAcq
  extract_lets c
  rw [if_pos (by rw [hu]; simp [c, hen, hk]), tryAdmit, hp]

theorem capAcq_full (hu : capUp s = true) {n : Nat} (hen : (ctxOf s n).en = true) (hk : (ctxOf s n).kind = 5 ∨ (ctxOf s n).kind = 6)
    (hp : pickSlot (ctxOf s n) = none) : capAcq s n = (0xFFFF, overrun s n) := by
  unfold capAcq
  extract_lets c
  rw [if_pos (by rw [hu]; simp [c, hen, hk]), tryAdmit, hp]

theorem exec_capAcq (hu : capUp s = true) {by_ : RegParty} {ctx : BitVec 12} (hby : capParty s by_ = true) : exec (.capAcq by_ ctx) s =
    .next (emit (capAcq s ctx.toNat).2 (.answer (.data (toLE 4 (capAcq s ctx.toNat).1)))) :=
  if_pos (by rw [hby, hu]; rfl)

theorem capAcq_spec (hw : s.capWf = true) (hu : capUp s = true) (ctx : BitVec 12) (by_ : RegParty) (hby : capParty s by_ = true) :
    let n := ctx.toNat
    let c := ctxOf s n
    (c.en = false ∨ (c.kind ≠ 5 ∧ c.kind ≠ 6) →
      exec (.capAcq by_ ctx) s = .next (emit s (.answer (.data (toLE 4 0xFFFF))))) ∧
    (c.en = true → c.kind = 5 ∨ c.kind = 6 →
      (pickSlot c = none → Gives (.capAcq by_ ctx) s fun t =>
        t.out = s.out ++ [.answer (.data (toLE 4 0xFFFF))] ∧ (ctxOf t n).ovr = c.ovr + 1 ∧
        (ctxOf t n).slots = c.slots) ∧
      (∀ k : Nat, pickSlot c = some k → Gives (.capAcq by_ ctx) s fun t =>
        t.out = s.out ++ [.answer (.data (toLE 4 k))] ∧ (slotAt (ctxOf t n) k).st = .filling ∧
        (slotAt (ctxOf t n) k).host = true)) := by
  intro n c
  have he := exec_capAcq hu (ctx := ctx) hby
  refine ⟨fun h => ?_, fun hen hk => ⟨fun hp => ?_, fun k hp => ?_⟩⟩
  · have hn : capAcq s n = (0xFFFF, s) := if_neg (by
      rcases h with h | h
      · rw [show (ctxOf s n).en = false from h]; simp
      · simp [c] at h; simp [h])
    rw [he, hn]
  · rw [capAcq_full hu hen hk hp] at he
    have hc : ctxOf (emit (overrun s n) (.answer (.data (toLE 4 0xFFFF)))) n = { c with ovr := c.ovr + 1 } :=
      (ctxOf_overrun n n hw).trans (if_pos rfl)
    have ho : (overrun s n).out = s.out := (congrArg State.out (overrun_sample s n) :)
    refine .intro he ⟨?_, ?_, ?_⟩
    · exact congrArg (· ++ _) ho
    · rw [hc]
    · rw [hc]
  · rw [capAcq_taken hu hen hk hp] at he
    have hc : ctxOf (emit (admitFrame s n k (stampNow s) none true) (.answer (.data (toLE 4 k)))) n =
        c.taking k (stampNow s) none true := (ctxOf_admitFrame n k n hw ..).trans (if_pos rfl)
    have ho : (admitFrame s n k (stampNow s) none true).out = s.out :=
      (congrArg State.out (admitFrame_sample s n k (stampNow s) none true) :)
    refine .intro he ⟨congrArg (· ++ _) ho, ?_, ?_⟩
    · rw [hc, slotAt_taking (pickSlot_lt hp)]
    · rw [hc, slotAt_taking (pickSlot_lt hp)]

/-- The push of a host sample that is no JPEG: its slot is stamped and becomes READY. -/
theorem capPush_raw (hu : capUp s = true) {r : Bytes} {n k : Nat} (hn : fieldLE r 0 2 % 4096 = n) (hk : (byteAt r 2).toNat = k)
    (hh : (slotAt (ctxOf s n) k).host = true) (hs : (slotAt (ctxOf s n) k).st = .filling) (h5 : (ctxOf s n).kind = 5) :
    ∃ (u : State) (x : Option W64), capPush s r = slotReady u n k ∧
      u.cap.lastSet = s.cap.lastSet ∧
      u.cap.ctxs = (slotMod s n k fun t => { t with stamp := stampNow s, sense := x, host := false }).cap.ctxs := by
  subst hn hk
  unfold capPush
  extract_lets n k c t sense s1 s2 s3 a s4 s5 len s6
  have h2 : s3.cap = s1.cap := (slotStore_cap ..).trans (slotStore_cap ..)
  have h4 : s4.cap = s3.cap := by
    unfold s4
    split
    · exact capStore_cap ..
    · rfl
  have h6 : s6.cap = s5.cap := slotStore_cap ..
  have hne : c.kind ≠ 6 := by rw [show c.kind = 5 from h5]; decide
  rw [if_pos (by rw [hu, show t.host = true from hh, show t.st = .filling from hs]; rfl), if_neg hne]
  refine ⟨s6, sense, rfl, ?_, ?_⟩
  · rw [h6]
    show s4.cap.lastSet = _
    rw [h4, h2]
    rfl
  · rw [h6]
    show s4.cap.ctxs = _
    rw [h4, h2]

theorem capWf_of_tables {t : State} (hw : s.capWf = true) (hl : t.cap.lastSet = s.cap.lastSet)
    (hc : Tbl.wf (fun _ => Ctx.reset) t.cap.ctxs = true) : t.capWf = true := by
  have h := hw
  simp only [State.capWf, Bool.and_eq_true] at h ⊢
  exact ⟨hc, hl ▸ h.2⟩

theorem capPush_spec (hw : s.capWf = true) (hu : capUp s = true) {n : Nat} (by_ : RegParty) (hby : capParty s by_ = true)
    (r : Bytes) (hn : fieldLE r 0 2 % 4096 = n) :
    let c := ctxOf s n
    let k := (byteAt r 2).toNat
    ((slotAt c k).host = true → (slotAt c k).st = .filling → k < c.slots.length → c.kind = 5 →
      Gives (.capPush by_ r) s fun t =>
        (slotAt (ctxOf t n) k).st = .ready ∧ (slotAt (ctxOf t n) k).stamp = stampNow s ∧
        (slotAt (ctxOf t n) k).host = false) ∧
    ((slotAt c k).host = false ∨ (slotAt c k).st ≠ .filling → exec (.capPush by_ r) s = .next s) := by
  intro c k
  have he : exec (.capPush by_ r) s = .next (capPush s r) := if_pos (by rw [hby, hu]; rfl)
  refine ⟨fun hh hs hlt h5 => .intro he ?_, fun h => he.trans (congrArg _ ?_)⟩
  · obtain ⟨u, x, hp, hl, hc⟩ := capPush_raw hu hn (rfl : _ = k) hh hs h5
    have hsw := slotMod_capWf n k (fun t => { t with stamp := stampNow s, sense := x, host := false }) hw
    have huw : u.capWf = true := capWf_of_tables hw hl (hc ▸ capWf_ctxs hsw)
    have hs1 : slotAt (ctxOf u n) k = { slotAt c k with stamp := stampNow s, sense := x, host := false } := by
      rw [ctxOf_ctxs hc, slotAt_slotMod n k n k _ hw hlt, if_pos ⟨rfl, rfl⟩]
    have hlen : k < (ctxOf u n).slots.length := by
      rw [ctxOf_ctxs hc, slotMod_slots_length n k n _ hw]
      exact hlt
    rw [hp, slotReady, slotAt_slotMod n k n k _ huw hlen, if_pos ⟨rfl, rfl⟩, hs1]
    exact ⟨if_pos hs, rfl, rfl⟩
  · subst hn
    refine if_neg (fun hb => ?_)
    simp only [Bool.and_eq_true, beq_iff_eq] at hb
    rcases h with h | h
    · exact Bool.false_ne_true (h.symm.trans hb.1.2)
    · exact h hb.2

theorem hostSlotTimeout_spec (hw : s.capWf = true) (hu : capUp s = true) (ctx : BitVec 12) (slot : Byte) :
    let n := ctx.toNat
    let c := ctxOf s n
    ((slotAt c slot.toNat).host = true → (slotAt c slot.toNat).st = .filling →
      Gives (.hostSlotTimeout ctx slot) s fun t => (slotAt (ctxOf t n) slot.toNat).st = .free) ∧
    ((slotAt c slot.toNat).host = false → exec (.hostSlotTimeout ctx slot) s = .next s) := by
  intro n c
  refine ⟨fun hh hs => .intro (if_pos (by rw [hu, hh, hs]; rfl)) ?_, fun hh => if_neg (by rw [hh]; simp)⟩
  rw [ctxOf_slotFree n slot.toNat n hw, if_pos rfl, slotAt_free, if_pos rfl]
  rfl

theorem capRel_spec (hw : s.capWf = true) (hu : capUp s = true) {n : Nat} (v : W32) (hn : bits v.toNat 0 12 = n) :
    let c := ctxOf s n
    let k := bits v.toNat 16 8
    ((slotAt c k).st = .ready ∨ (slotAt c k).st = .held → Gives (.capRel v) s fun t =>
      (slotAt (ctxOf t n) k).st = .free ∧
      (∀ m j : Nat, (m, j) ≠ (n, k) → slotAt (ctxOf t m) j = slotAt (ctxOf s m) j)) ∧
    ((slotAt c k).st = .free ∨ (slotAt c k).st = .filling → exec (.capRel v) s = .next s) := by
  subst hn
  intro c k
  have he : exec (.capRel v) s = .next (capRelease s (bits v.toNat 0 12) k) := if_pos hu
  refine ⟨fun h => .intro (he.trans (congrArg _ (if_pos h))) ⟨?_, fun m j hmj => ?_⟩, fun h => he.trans (congrArg _ (if_neg ?_))⟩
  · rw [ctxOf_slotFree _ k _ hw, if_pos rfl, slotAt_free, if_pos rfl]
    rfl
  · rw [ctxOf_slotFree _ k _ hw]
    split
    · next hm =>
      subst hm
      rw [slotAt_free, if_neg (fun h => hmj (by rw [h]))]
    · rfl
  · intro h'
    have h1 : (slotAt c k).st = .ready ∨ (slotAt c k).st = .held := h'
    rcases h with h | h <;> rw [h] at h1 <;> simp at h1

theorem capRoiCommit_spec (hw : s.capWf = true) (hu : capUp s = true) (ctx : BitVec 12) (hi : W32) :
    Gives (.capRoiCommit ctx hi) s fun t => (ctxOf t ctx.toNat).roiNow = some (hi ++ (ctxOf s ctx.toNat).roiStage) ∧
      (ctxOf t ctx.toNat).roiAge = 0 ∧ (∀ m : Nat, m ≠ ctx.toNat → ctxOf t m = ctxOf s m) := by
  have hc : ∀ m, ctxOf (roiCommit s ctx.toNat hi) m = _ := fun m => ctxOf_ctxPut ctx.toNat m _ hw
  refine .intro (if_pos hu) ⟨?_, ?_, fun m hm => ?_⟩
  · rw [hc, if_pos rfl]
  · rw [hc, if_pos rfl]
  · rw [hc, if_neg hm]

theorem sourceLossTimeout_spec (hw : s.capWf = true) (hu : capUp s = true) (ctx : BitVec 12)
    (hen : (ctxOf s ctx.toNat).en = true) (hl : (ctxOf s ctx.toNat).lossMs ≠ 0) (hs : (ctxOf s ctx.toNat).st ≠ 3) :
    Gives (.sourceLossTimeout ctx) s fun t => (ctxOf t ctx.toNat).st = 3 ∧ stands t 0xFF30 ctx.toNat = true := by
  refine .intro (if_pos (by rw [hu, hen, decide_eq_true hl, decide_eq_true hs]; rfl)) ⟨?_, stands_raiseStanding (hc := by decide) ..⟩
  rw [ctxOf_congr (raiseStanding_cap ..), ctxOf_ctxPut _ _ _ hw, if_pos rfl]

end

/-! ### Context fields -/

/-- The two-wire port that a context takes its samples from is in FAULT. -/
def Ctx.portFault (s : State) (c : Ctx) : Bool :=
  match ctxTw c with
  | some p => (s.tw.get p).fault
  | none => false

/-- A context as it is stored: one that waits on a port in FAULT has lost its source. -/
def Ctx.settled (s : State) (c : Ctx) : Ctx := if c.st = 1 ∧ c.portFault s then { c with st := 3 } else c

section
variable {s : State} {c : Ctx}

theorem ctxOf_ctxPutNew (hw : s.capWf = true) (n m : Nat) (c : Ctx) :
    ctxOf (ctxPutNew s n c) m = if m = n then c.settled s else ctxOf s m := ctxOf_ctxPut n m (c.settled s) hw

theorem settled_cases (s : State) (c : Ctx) : c.settled s = c ∨ c.st = 1 ∧ c.settled s = { c with st := 3 } := by
  unfold Ctx.settled
  split
  · next h => exact .inr ⟨h.1, rfl⟩
  · exact .inl rfl

theorem ctxRead_settled {g : Nat} (h : g ≠ 13 ∨ c.st ≠ 1) : ctxRead (c.settled s) g = ctxRead c g := by
  obtain hs | ⟨h1, hs⟩ := settled_cases s c
  · rw [hs]
  · rw [hs]
    have hg : g ≠ 13 := h.resolve_right (fun h => h h1)
    unfold ctxRead
    split <;> first | rfl | exact absurd rfl hg

/-- What a field other than CFG reads once it is written. -/
theorem ctxRead_ctxStore {f : Nat} (h2 : 2 ≤ f) (h12 : f ≤ 12) (v : W64) : ctxRead (ctxStore c f v).2 f =
    (if f = 5 then v.toNat else if f = 12 then v.toNat % 8 else v.toNat % 2 ^ 32) := by
  have hx : (v.extractLsb' 0 32).toNat = v.toNat % 2 ^ 32 := by simp
  have h7 : (v.extractLsb' 0 32 &&& 7).toNat = v.toNat % 8 := by
    rw [BitVec.toNat_and, hx]
    exact (Nat.and_two_pow_sub_one_eq_mod (v.toNat % 2 ^ 32) 3).trans (Nat.mod_mod_of_dvd _ (by decide))
  by_cases h5 : f = 5
  · subst h5; rfl
  · rw [if_neg h5]
    by_cases hf : f = 12
    · subst hf; exact h7
    · rw [if_neg hf]
      interval_cases f <;> first | exact hx | exact absurd rfl h5 | exact absurd rfl hf

/-- A write of a field other than CFG leaves what the others read. -/
theorem ctxRead_ctxStore_other {f g : Nat} (h2 : 2 ≤ f) (h12 : f ≤ 12) (hg : g ≠ f) (h1 : 1 ≤ g) (h15 : g ≤ 15) (v : W64) :
    ctxRead (ctxStore c f v).2 g = ctxRead c g := by
  interval_cases f <;> interval_cases g <;> first | rfl | exact absurd rfl hg

theorem ctxStore_ok {f : Nat} (h2 : 2 ≤ f) (h12 : f ≤ 12) (v : W64) :
    (ctxStore c f v).1 = 0 ∧ (ctxStore c f v).2.st = c.st := by
  interval_cases f <;> exact ⟨rfl, rfl⟩

theorem exec_contextWrite {ctx : BitVec 12} {f : Fin 16} {v : W64} (hu : capUp s = true) (hc : ctlUp s = true) {d : Ctx}
    (h : ctxWrite (ctxOf s ctx.toNat) f.val v = (0, d)) :
    exec (.contextWrite ctx f v) s = .next (ctxPutNew s ctx.toNat d) := by
  refine (if_pos (by rw [hu, hc]; rfl) : execContextWrite ctx f v s = _).trans ?_
  rw [h] <;> rfl

theorem exec_contextWrite_abort {ctx : BitVec 12} {f : Fin 16} {v : W64} (hu : capUp s = true) (hc : ctlUp s = true)
    {e : Nat} {d : Ctx} (h : ctxWrite (ctxOf s ctx.toNat) f.val v = (e + 1, d)) :
    exec (.contextWrite ctx f v) s = .next (emit s (.answer (.abort (e + 1)))) := by
  refine (if_pos (by rw [hu, hc]; rfl) : execContextWrite ctx f v s = _).trans ?_
  rw [h] <;> rfl

theorem ctxWrite_free {f : Nat} {v : W64} (h : c.en = false ∨ f = 0 ∨ 13 ≤ f ∨ (9 ≤ f ∧ f ≤ 11)) :
    ctxWrite c f v = ctxStore c f v := if_neg (by
  rintro ⟨hen, h1, h12, hn⟩
  rcases h with h | h
  · exact Bool.false_ne_true (h.symm.trans hen)
  · omega)

theorem ctxCfg_fields (c : Ctx) (v : W64) :
    (ctxCfg c (v.extractLsb' 0 32)).cfg = v.extractLsb' 0 32 &&& 0x3FFF7FFF ∧
    (ctxCfg c (v.extractLsb' 0 32)).slots.length = bits (v.extractLsb' 0 32 &&& 0x3FFF7FFF).toNat 16 8 ∧
    (ctxCfg c (v.extractLsb' 0 32)).st = if (v.extractLsb' 0 32 &&& 0x3FFF7FFF).getLsbD 0 then 1 else 0 := by
  unfold ctxCfg
  extract_lets d e
  have hl : e.slots.length = bits (v.extractLsb' 0 32 &&& 0x3FFF7FFF).toNat 16 8 := by
    show (fitSlots _ _).length = _
    rw [fitSlots, List.length_map, List.length_range]
    rfl
  by_cases he : (v.extractLsb' 0 32 &&& 0x3FFF7FFF).getLsbD 0 = true
  · rw [if_pos (show e.en = true from he), if_pos he]
    exact ⟨rfl, hl, rfl⟩
  · rw [if_neg (show ¬ e.en = true from he), if_neg he]
    exact ⟨rfl, (List.length_map ..).trans hl, rfl⟩

theorem cfg_slots (v : W64) : bits (v.extractLsb' 0 32 &&& 0x3FFF7FFF).toNat 16 8 = bits v.toNat 16 8 := by
  have hx : (v.extractLsb' 0 32).toNat = v.toNat % 2 ^ 32 := by simp
  have h8 : ∀ a : Nat, a % 2 ^ 8 &&& 255 = a % 2 ^ 8 := fun a =>
    (Nat.and_two_pow_sub_one_eq_mod _ 8).trans (Nat.mod_mod _ _)
  unfold bits
  rw [BitVec.toNat_and, hx, Nat.shiftRight_and_distrib, Nat.and_mod_two_pow]
  refine (h8 _).trans ?_
  rw [Nat.shiftRight_eq_div_pow, Nat.shiftRight_eq_div_pow]
  omega

theorem cfg_en (v : W64) : (v.extractLsb' 0 32 &&& 0x3FFF7FFF).getLsbD 0 = v.getLsbD 0 := by
  simp

theorem contextWrite_spec (hw : s.capWf = true) (hu : capUp s = true) (ctx : BitVec 12) (hc : ctlUp s = true) (f : Fin 16)
    (v : W64) :
    let n := ctx.toNat
    let c := ctxOf s n
    (c.en = true → 1 ≤ f.val → f.val ≤ 12 → (f.val < 9 ∨ 11 < f.val) →
      exec (.contextWrite ctx f v) s = .next (emit s (.answer (.abort 0x08000022)))) ∧
    (13 ≤ f.val → exec (.contextWrite ctx f v) s = .next (emit s (.answer (.abort 0x06010002)))) ∧
    (f.val = 0 → exec (.contextWrite ctx f v) s = .next (emit s (.answer (.abort 0x06090011)))) ∧
    ((c.en = false ∧ 2 ≤ f.val ∧ f.val ≤ 12) ∨ (9 ≤ f.val ∧ f.val ≤ 11) → Gives (.contextWrite ctx f v) s fun t =>
      ctxRead (ctxOf t n) f.val = (if f.val = 5 then v.toNat else if f.val = 12 then v.toNat % 8 else v.toNat % 2 ^ 32) ∧
      (∀ g : Nat, 1 ≤ g → g ≤ 15 → g ≠ f.val → g ≠ 13 ∨ c.st ≠ 1 → ctxRead (ctxOf t n) g = ctxRead c g) ∧
      (∀ m : Nat, m ≠ n → ctxOf t m = ctxOf s m)) := by
  intro n c
  refine ⟨fun hen h1 h12 hn => ?_, fun h13 => ?_, fun h0 => ?_, fun h => ?_⟩
  · exact exec_contextWrite_abort hu hc (if_pos ⟨hen, h1, h12, by omega⟩)
  · refine exec_contextWrite_abort hu hc (d := c) ((ctxWrite_free (.inr (.inr (.inl h13)))).trans ?_)
    obtain ⟨f, hf⟩ := f
    dsimp only at h13 ⊢
    interval_cases f <;> rfl
  · refine exec_contextWrite_abort hu hc (d := c) ((ctxWrite_free (.inr (.inl h0))).trans ?_)
    rw [h0]
    rfl
  · have h2 : 2 ≤ f.val := by omega
    have h12 : f.val ≤ 12 := by omega
    obtain ⟨ho, hst⟩ := ctxStore_ok (c := c) h2 h12 v
    have hwr : ctxWrite c f.val v = (0, (ctxStore c f.val v).2) :=
      (ctxWrite_free (h.imp (fun h => h.1) (fun h => .inr (.inr h)))).trans (Prod.ext ho rfl)
    refine .intro (exec_contextWrite hu hc hwr) ⟨?_, fun g h1 h15 hg h13 => ?_, fun m hm => ?_⟩
    · rw [ctxOf_ctxPutNew hw, if_pos rfl, ctxRead_settled (.inl (by omega)), ctxRead_ctxStore h2 h12]
    · rw [ctxOf_ctxPutNew hw, if_pos rfl, ctxRead_settled (hst ▸ h13), ctxRead_ctxStore_other h2 h12 hg h1 h15]
    · rw [ctxOf_ctxPutNew hw, if_neg hm]

theorem portFault_some {p : TwId} (h : ctxTw c = some p) : c.portFault s = (s.tw.get p).fault := by
  rw [Ctx.portFault, h]

theorem portFault_none (h : ctxTw c = none) : c.portFault s = false := by
  rw [Ctx.portFault, h]

theorem settled_st (h : c.st = 0 ∨ c.st = 1) :
    (c.settled s).st = if c.st = 0 then 0 else if c.portFault s then 3 else 1 := by
  unfold Ctx.settled
  rcases h with h | h
  · rw [if_neg (fun h' => by rw [h] at h'; exact absurd h'.1 (by decide)), if_pos h, h]
  · rw [if_neg (show ¬ c.st = 0 from by rw [h]; decide)]
    by_cases hp : c.portFault s
    · rw [if_pos ⟨h, hp⟩, if_pos hp]
    · rw [if_neg (fun h' => hp h'.2), if_neg hp, h]

theorem contextCfg_spec (hw : s.capWf = true) (hu : capUp s = true) (ctx : BitVec 12) (hc : ctlUp s = true) (f : Fin 16)
    (v : W64) (hen : (ctxOf s ctx.toNat).en = false) (hf : f.val = 1) :
    Gives (.contextWrite ctx f v) s fun t =>
      let y := ctxOf t ctx.toNat
      y.en = v.getLsbD 0 ∧ y.slots.length = bits v.toNat 16 8 ∧
      y.st = (if v.getLsbD 0 = false then 0 else if y.portFault s then 3 else 1) ∧
      (∀ m : Nat, m ≠ ctx.toNat → ctxOf t m = ctxOf s m) := by
  have hwr : ctxWrite (ctxOf s ctx.toNat) f.val v = (0, ctxCfg (ctxOf s ctx.toNat) (v.extractLsb' 0 32)) := by
    rw [ctxWrite_free (.inl hen), hf]
    rfl
  obtain ⟨hcfg, hsl, hst⟩ := ctxCfg_fields (ctxOf s ctx.toNat) v
  rw [cfg_slots] at hsl
  rw [cfg_en] at hst
  refine .intro (exec_contextWrite hu hc hwr) ?_
  have hy : ctxOf (ctxPutNew s ctx.toNat (ctxCfg (ctxOf s ctx.toNat) (v.extractLsb' 0 32))) ctx.toNat =
    (ctxCfg (ctxOf s ctx.toNat) (v.extractLsb' 0 32)).settled s := (ctxOf_ctxPutNew hw ..).trans (if_pos rfl)
  intro y
  rw [show y = _ from hy]
  generalize ctxCfg (ctxOf s ctx.toNat) (v.extractLsb' 0 32) = d at *
  have hsame : (d.settled s).cfg = d.cfg ∧ (d.settled s).slots = d.slots := by
    obtain h | ⟨_, h⟩ := settled_cases s d <;> rw [h] <;> exact ⟨rfl, rfl⟩
  have hpf : (d.settled s).portFault s = d.portFault s := by
    unfold Ctx.portFault ctxTw Ctx.port
    rw [hsame.1]
  refine ⟨?_, ?_, ?_, fun m hm => ?_⟩
  · rw [Ctx.en, hsame.1, hcfg, cfg_en]
  · rw [hsame.2, hsl]
  · rw [hpf, settled_st (by rw [hst]; split <;> simp), hst]
    cases v.getLsbD 0 <;> rfl
  · rw [ctxOf_ctxPutNew hw, if_neg hm]

end

/-! ### Alignment windows and sets -/

section
variable {s : State}

theorem slotFree_sets_length (s : State) (n k : Nat) : (slotFree s n k).cap.sets.length = s.cap.sets.length := by
  have h : (asmLeave (slotMod s n k fun _ => CapSlot.empty) n k).cap.sets = s.cap.sets := by
    unfold asmLeave
    split
    · split <;> rfl
    · rfl
  exact (List.length_map ..).trans (congrArg List.length h)

theorem slotMod_sets (s : State) (n k : Nat) (f : CapSlot → CapSlot) : (slotMod s n k f).cap.sets = s.cap.sets := rfl

theorem slotFree_windows (s : State) (n k : Nat) : (slotFree s n k).cap.windows = s.cap.windows :=
  (congrArg (fun s => s.cap.windows) (slotFree_slots s n k) :)

/-- The slots of a set go back to FREE. -/
def freeAll (s : State) (l : List (Nat × Nat)) : State := l.foldl (fun t p => slotFree t p.1 p.2) s

theorem freeAll_slots (s : State) (l : List (Nat × Nat)) : (freeAll s l).sansSlots = s.sansSlots :=
  foldl_view (V := State.sansSlots) (fun _ _ => slotFree_slots ..) l s

theorem freeAll_sets_length (s : State) (l : List (Nat × Nat)) : (freeAll s l).cap.sets.length = s.cap.sets.length :=
  foldl_view (V := fun s => s.cap.sets.length) (fun _ _ => slotFree_sets_length ..) l s

theorem slotFree_keeps_empty (hw : s.capWf = true) (n k : Nat) {m j : Nat} (h : slotAt (ctxOf s m) j = CapSlot.empty) :
    slotAt (ctxOf (slotFree s n k) m) j = CapSlot.empty := by
  rw [ctxOf_slotFree n k m hw]
  split
  · next hm =>
    subst hm
    rw [slotAt_free]
    split
    · rfl
    · exact h
  · exact h

theorem freeAll_keeps_empty (hw : s.capWf = true) (l : List (Nat × Nat)) {m j : Nat}
    (h : slotAt (ctxOf s m) j = CapSlot.empty) : slotAt (ctxOf (freeAll s l) m) j = CapSlot.empty := by
  induction l generalizing s with
  | nil => exact h
  | cons p l ih => exact ih (slotFree_capWf _ _ hw) (slotFree_keeps_empty hw _ _ h)

theorem slotAt_freeAll (hw : s.capWf = true) (l : List (Nat × Nat)) {p : Nat × Nat} (hp : p ∈ l) :
    (slotAt (ctxOf (freeAll s l) p.1) p.2).st = .free := by
  induction l generalizing s with
  | nil => cases hp
  | cons q l ih =>
    have hq := slotFree_capWf q.1 q.2 hw
    rcases List.mem_cons.1 hp with rfl | hp
    · have he : slotAt (ctxOf (slotFree s p.1 p.2) p.1) p.2 = CapSlot.empty := by
        rw [ctxOf_slotFree _ _ _ hw, if_pos rfl, slotAt_free, if_pos rfl]
      exact congrArg CapSlot.st (freeAll_keeps_empty hq l he)
    · exact ih hq hp

theorem setDiscard_eq (s : State) (g : Nat) (ms : List (Nat × Nat)) : setDiscard s g ms =
    { freeAll s ms with
      cap.alignLost := Tbl.write (fun _ => 0) (freeAll s ms).cap.alignLost g
        (Tbl.read (fun _ => 0) (freeAll s ms).cap.alignLost g + 1) } := rfl

theorem slotAt_setDiscard (hw : s.capWf = true) (g : Nat) (ms : List (Nat × Nat)) {p : Nat × Nat} (hp : p ∈ ms) :
    (slotAt (ctxOf (setDiscard s g ms) p.1) p.2).st = .free := slotAt_freeAll hw ms hp

/-- The samples of a group's members nearest to a key. -/
def selected (s : State) (b : Bytes) (g key : Nat) : List (Nat × Nat) :=
  (membersOf s g).filterMap fun e => (nearest b key e.2).map fun k => (e.1, k)

/-- A closed window: its samples are HELD for a new set, or discarded for want of one where PARTIAL = 0. -/
theorem windowClose_eq (s : State) (w : AWindow) : windowClose s w =
    if decide ((selected s (alignCfg s w.group) w.group w.key).length < (membersOf s w.group).length) &&
        !alignPartial (alignCfg s w.group)
    then setDiscard s w.group (selected s (alignCfg s w.group) w.group w.key)
    else
      let t := (selected s (alignCfg s w.group) w.group w.key).foldl
        (fun t p => slotMod t p.1 p.2 fun x => { x with st := .held, group := w.group }) s
      { t with
        cap.sets := t.cap.sets ++ [{
          group := w.group, key := w.key, members := selected s (alignCfg s w.group) w.group w.key,
          missing := decide ((selected s (alignCfg s w.group) w.group w.key).length < (membersOf s w.group).length) }] } := rfl

theorem alignWindowClose_spec (hw : s.capWf = true) (hu : capUp s = true) (g : Fin 64) (waited : Bool) (w : AWindow)
    (hf : (s.cap.windows.find? fun w => w.group == g.val) = some w) :
    let b := alignCfg s g.val
    let ms := membersOf s g.val
    let sel := ms.filterMap fun e => (nearest b w.key e.2).map fun k => (e.1, k)
    (windowPassed s b w.key = true ∨ (waited = true ∧ alignPhase b = true) → Gives (.alignWindowClose g waited) s fun t =>
      t.cap.windows = s.cap.windows.erase w ∧
      (sel.length = ms.length ∨ alignPartial b = true → t.cap.sets = s.cap.sets ++
        [{ group := g.val, key := w.key, members := sel, missing := decide (sel.length < ms.length) }]) ∧
      (sel.length < ms.length → alignPartial b = false → t.cap.sets.length = s.cap.sets.length ∧
        (∀ p ∈ sel, (slotAt (ctxOf t p.1) p.2).st = .free))) ∧
    (windowPassed s b w.key = false → alignPhase b = false → exec (.alignWindowClose g waited) s = .next s) := by
  intro b ms sel
  have hg : w.group = g.val := by simpa using List.find?_some hf
  have he : exec (.alignWindowClose g waited) s =
      if (capUp s && ((waited && alignPhase b) || windowPassed s b w.key)) = true
      then .next (windowClose { s with cap.windows := s.cap.windows.erase w } w) else .next s := by
    show execAlignWindowClose g waited s = _
    unfold execAlignWindowClose
    rw [hf]
  refine ⟨fun h => .intro (he.trans (if_pos ?_)) ?_, fun h1 h2 => he.trans (if_neg ?_)⟩
  · rw [hu]
    rcases h with h | h
    · simp [h]
    · simp [h.1, h.2]
  · rw [windowClose_eq, hg]
    have hsel : selected { s with cap.windows := s.cap.windows.erase w } (alignCfg s g.val) g.val w.key = sel := rfl
    rw [show alignCfg { s with cap.windows := s.cap.windows.erase w } g.val = b from rfl,
      show membersOf { s with cap.windows := s.cap.windows.erase w } g.val = ms from rfl, hsel]
    generalize hs1 : ({ s with cap.windows := s.cap.windows.erase w } : State) = s1
    have hwin : s1.cap.windows = s.cap.windows.erase w := by rw [← hs1]
    have hset : s1.cap.sets = s.cap.sets := by rw [← hs1]
    have hw1 : s1.capWf = true := by rw [← hs1]; exact hw
    clear_value sel ms b
    by_cases hd : (decide (sel.length < ms.length) && !alignPartial b) = true
    · rw [if_pos hd]
      refine ⟨?_, fun h => ?_, fun _ _ => ⟨?_, fun p hp => slotAt_setDiscard hw1 _ _ hp⟩⟩
      · exact (congrArg (fun s => s.cap.windows) (freeAll_slots s1 sel) :).trans hwin
      · simp only [Bool.and_eq_true, decide_eq_true_eq, Bool.not_eq_true'] at hd
        rcases h with h | h
        · omega
        · exact absurd (h.symm.trans hd.2) (by decide)
      · exact (freeAll_sets_length s1 sel).trans (by rw [hset])
    · rw [if_neg hd]
      have hv : ∀ l : List (Nat × Nat),
          (l.foldl (fun t p => slotMod t p.1 p.2 fun x => { x with st := .held, group := g.val }) s1).sansSlots =
            s1.sansSlots ∧
          (l.foldl (fun t p => slotMod t p.1 p.2 fun x => { x with st := .held, group := g.val }) s1).cap.sets =
            s1.cap.sets := fun l =>
        ⟨foldl_view (V := State.sansSlots) (fun _ _ => slotMod_slots ..) l s1,
          foldl_view (V := fun s => s.cap.sets) (fun u p => slotMod_sets u p.1 p.2 _) l s1⟩
      obtain ⟨hv1, hv2⟩ := hv sel
      refine ⟨(congrArg (fun s => s.cap.windows) hv1 :).trans hwin, fun _ => ?_, fun h1 h2 => ?_⟩
      · dsimp only
        rw [hv2, hset]
      · exact absurd (by rw [h2]; simpa using h1) hd
  · rw [h1, h2]
    simp

theorem releaseStale_slots (s : State) (g key : Nat) : (releaseStale s g key).sansSlots = s.sansSlots := by
  have h1 : ∀ (t : State) (n k : Nat), (capStat (slotFree t n k) 1).sansSlots = t.sansSlots := fun t n k =>
    (slotFree_slots t n k : _).symm ▸ rfl
  exact foldl_view (V := State.sansSlots) (fun _ _ => foldl_view (V := State.sansSlots) (fun _ _ => h1 ..) _ _) _ s

theorem markMissing_cap (s : State) (l : List (Nat × Nat)) : (markMissing s l).cap = s.cap :=
  foldl_view (V := State.cap) (fun _ _ => capStore_cap ..) l s

theorem setOffer_fields (s : State) (x : ASet) :
    (setOffer s x).cap.offered = s.cap.offered ++
      [{ group := x.group, seq := Tbl.read (fun _ => 0) s.cap.lastSet x.group + 1, members := x.members }] ∧
    (setOffer s x).cap.lastSet = Tbl.write (fun _ => 0) s.cap.lastSet x.group
      (Tbl.read (fun _ => 0) s.cap.lastSet x.group + 1) := by
  unfold setOffer
  extract_lets n t u
  have ht : t.cap = s.cap := foldl_view (V := State.cap) (fun _ _ => slotStore_cap ..) x.members s
  have hu : u.cap = s.cap := by
    unfold u
    split
    · exact (markMissing_cap ..).trans ht
    · exact ht
  have hr : ∀ v : State, (releaseStale v x.group x.key).cap.offered = v.cap.offered ∧
      (releaseStale v x.group x.key).cap.lastSet = v.cap.lastSet := fun v =>
    have h := releaseStale_slots v x.group x.key
    ⟨(congrArg (fun s => s.cap.offered) h :), (congrArg (fun s => s.cap.lastSet) h :)⟩
  obtain ⟨h1, h2⟩ := hr { u with
    cap.lastSet := Tbl.write (fun _ => 0) u.cap.lastSet x.group n
    cap.offered := u.cap.offered ++ [{ group := x.group, seq := n, members := x.members }] }
  refine ⟨h1.trans ?_, h2.trans ?_⟩ <;> dsimp only <;> rw [hu]

theorem alignSetOffer_spec (hw : s.capWf = true) (hu : capUp s = true) (g : Fin 64) (x : ASet)
    (hf : (s.cap.sets.find? fun x => x.group == g.val) = some x) :
    let lost := x.missing = true ∧ (alignPartial (alignCfg s g.val) = false ∨ x.members = [])
    ((x.members.all fun p => (slotAt (ctxOf s p.1) p.2).done) = true → lost → Gives (.alignSetOffer g) s fun t =>
      t.cap.offered = s.cap.offered ∧ t.cap.sets.length + 1 = s.cap.sets.length ∧
      t.cap.alignLost = Tbl.write (fun _ => 0) s.cap.alignLost g.val
        (Tbl.read (fun _ => 0) s.cap.alignLost g.val + 1) ∧
      (∀ p ∈ x.members, (slotAt (ctxOf t p.1) p.2).st = .free)) ∧
    ((x.members.all fun p => (slotAt (ctxOf s p.1) p.2).done) = true → ¬ lost → Gives (.alignSetOffer g) s fun t =>
      t.cap.offered = s.cap.offered ++
        [{ group := g.val, seq := Tbl.read (fun _ => 0) s.cap.lastSet g.val + 1, members := x.members }] ∧
      Tbl.read (fun _ => 0) t.cap.lastSet g.val = Tbl.read (fun _ => 0) s.cap.lastSet g.val + 1) ∧
    ((x.members.all fun p => (slotAt (ctxOf s p.1) p.2).done) = false → exec (.alignSetOffer g) s = .next s) := by
  intro lost
  have hg : x.group = g.val := by simpa using List.find?_some hf
  have hx : x ∈ s.cap.sets := List.mem_of_find?_eq_some hf
  have he : exec (.alignSetOffer g) s =
      if (capUp s && x.members.all fun p => (slotAt (ctxOf s p.1) p.2).done) = true
      then .next (if (x.missing && (!alignPartial (alignCfg s g.val) || x.members.isEmpty)) = true
        then setDiscard { s with cap.sets := s.cap.sets.erase x } g.val x.members
        else setOffer { s with cap.sets := s.cap.sets.erase x } x)
      else .next s := by
    show execAlignSetOffer g s = _
    unfold execAlignSetOffer
    rw [hf]
  have hl : (x.missing && (!alignPartial (alignCfg s g.val) || x.members.isEmpty)) = true ↔ lost := by
    simp only [lost, Bool.and_eq_true, Bool.or_eq_true, Bool.not_eq_true', List.isEmpty_iff]
  refine ⟨fun hd h => .intro (t := setDiscard { s with cap.sets := s.cap.sets.erase x } g.val x.members) (he.trans ?_) ?_,
    fun hd h => .intro (t := setOffer { s with cap.sets := s.cap.sets.erase x } x) (he.trans ?_) ?_,
    fun hd => he.trans (if_neg ?_)⟩
  · rw [if_pos (by rw [hu, hd]; rfl), if_pos (hl.2 h)]
  · obtain ⟨s1, hs1⟩ : ∃ s1 : State, { s with cap.sets := s.cap.sets.erase x } = s1 := ⟨_, rfl⟩
    have hw1 : s1.capWf = true := by subst hs1; exact hw
    have ho1 : s1.cap.offered = s.cap.offered := by subst hs1; rfl
    have hs1' : s1.cap.sets = s.cap.sets.erase x := by subst hs1; rfl
    have ha1 : s1.cap.alignLost = s.cap.alignLost := by subst hs1; rfl
    rw [hs1]
    have hv := freeAll_slots s1 x.members
    refine ⟨(congrArg (fun s => s.cap.offered) hv :).trans ho1, ?_, ?_, fun p hp => slotAt_setDiscard hw1 _ _ hp⟩
    · have hlen : (setDiscard s1 g.val x.members).cap.sets.length = (s.cap.sets.erase x).length :=
        (freeAll_sets_length s1 x.members).trans (congrArg List.length hs1')
      rw [hlen, List.length_erase_of_mem hx]
      have := List.length_pos_of_mem hx
      omega
    · have ha : (freeAll s1 x.members).cap.alignLost = s.cap.alignLost :=
        (congrArg (fun s => s.cap.alignLost) hv :).trans ha1
      rw [setDiscard_eq]
      dsimp only
      rw [ha]
  · rw [if_pos (by rw [hu, hd]; rfl), if_neg (fun h' => h (hl.1 h'))]
  · obtain ⟨h1, h2⟩ := setOffer_fields { s with cap.sets := s.cap.sets.erase x } x
    rw [hg] at h1 h2
    refine ⟨h1, ?_⟩
    rw [h2]
    have hls := hw
    simp only [State.capWf, Bool.and_eq_true] at hls
    exact Tbl.read_write_same _ _ hls.2
  · rw [hd]
    simp

end

/-- Settles O35, command by command from what each leaves of a context and its slots. -/
theorem contextCommands : Obligations.ContextCommands := by
  unfold Obligations.ContextCommands
  intro s hw hu
  refine ⟨fun ctx => ?_, fun g waited w hf => alignWindowClose_spec hw hu g waited w hf,
    fun g x hf => alignSetOffer_spec hw hu g x hf⟩
  obtain ⟨ha1, ha2⟩ := assemblyTimeout_spec ctx hw hu
  intro n c
  refine ⟨ha1, ha2, fun by_ hby => ?_, fun slot => hostSlotTimeout_spec hw hu ctx slot, fun v hv => capRel_spec hw hu v hv,
    capRoiCommit_spec hw hu ctx, fun hc f v => ?_, sourceLossTimeout_spec hw hu ctx⟩
  · obtain ⟨h1, h2⟩ := capAcq_spec hw hu ctx by_ hby
    exact ⟨h1, h2, fun r hr => capPush_spec hw hu by_ hby r hr⟩
  · obtain ⟨h1, h2, h3, h4⟩ := contextWrite_spec hw hu ctx hc f v
    refine ⟨h1, h2, h3, h4, fun hen hf => ?_⟩
    obtain ⟨t, he, hy1, hy2, hy3, hy4⟩ := contextCfg_spec hw hu ctx hc f v hen hf
    refine .intro he ⟨hy1, hy2, hy3.trans ?_, hy4⟩
    split
    · rfl
    · cases hp : ctxTw (ctxOf t ctx.toNat) with
      | none => rw [portFault_none hp]; simp
      | some p => rw [portFault_some hp]

end Sys2Proof.Machine

end

section

namespace Sys2Proof.Machine

/-! ## CSI-2 frames, JPEG decoding and two-wire polls (O36) -/

/-! ### What rows, lines and damage leave -/

section
variable (s : State) (n k : Nat)

theorem storeRow_cap (line : Nat) (px : Nat → Bytes) : (storeRow s n k line px).cap = s.cap := by
  unfold storeRow
  extract_lets c r y u
  split
  · exact (slotStore_cap ..).trans (capStore_cap ..)
  · rfl

theorem notePrevGrey_cap : (notePrevGrey s n k).cap = s.cap := by
  unfold notePrevGrey
  extract_lets c a
  split
  · exact capStore_cap ..
  · rfl

theorem csiConcealLine_cap (line : Nat) : (csiConcealLine s n k line).cap = s.cap := by
  unfold csiConcealLine
  extract_lets r
  exact (notePrevGrey_cap ..).trans (storeRow_cap ..)

theorem csiMissing_cap (m line : Nat) : (csiMissing s n k m line).cap = s.cap := by
  induction m generalizing s line with
  | zero => rfl
  | succ m ih => exact (ih ..).trans (csiConcealLine_cap ..)

theorem jduRow_cap (f : JduJob) : (jduRow s f).cap = s.cap := by
  unfold jduRow
  extract_lets c r rs t u
  refine (jduStore_cap ..).trans ?_
  have ht : t.cap = s.cap := jduStore_cap ..
  unfold u
  split
  · exact (notePrevGrey_cap ..).trans ht
  · exact ht

theorem jduDamage_cap (f : JduJob) : (jduDamage s f).cap = s.cap :=
  (jduStore_cap ..).trans ((jduStore_cap ..).trans (jduStore_cap ..))

end

/-! ### Frames of a receiver -/

section
variable {s : State} {rx vc : SrcId}

theorem csiFind_congr {s t : State} (h : t.cap.csi = s.cap.csi) : csiFind t rx vc = csiFind s rx vc := by
  rw [csiFind, csiFind, h]

theorem csiFind_csiDrop (s : State) (rx vc : SrcId) : csiFind (csiDrop s rx vc) rx vc = none := by
  refine List.find?_eq_none.2 fun f hf => ?_
  have := (List.mem_filter.1 hf).2
  rw [Bool.not_eq_true'] at this
  exact Bool.eq_false_iff.1 this

theorem csiFind_csiPut (s : State) (f : CsiFrame) : csiFind (csiPut s f) f.rx f.vc = some f := by
  refine (List.find?_append ..).trans ?_
  rw [show List.find? _ _ = _ from csiFind_csiDrop s f.rx f.vc]
  simp

theorem ctxOf_csiPut (s : State) (f : CsiFrame) (n : Nat) : ctxOf (csiPut s f) n = ctxOf s n := rfl

theorem csiPut_stats (s : State) (f : CsiFrame) : (csiPut s f).cap.stats = s.cap.stats := rfl

theorem csiFind_eq {f : CsiFrame} (h : csiFind s rx vc = some f) : f.rx = rx ∧ f.vc = vc := by
  simpa using List.find?_some h

/-- A frame's end writes its damage, drops the frame and makes its slot READY and decoded. -/
theorem csiFinish_eq (s : State) (f : CsiFrame) : ∃ u : State, u.cap = s.cap ∧ csiFinish s f =
    slotMod (slotReady (csiDrop u f.rx f.vc) f.ctx f.slot) f.ctx f.slot fun t => { t with decoded := true } := by
  unfold csiFinish
  extract_lets c miss s1 recs dmg s2 s3 s4 s5
  exact ⟨s4, (slotStore_cap ..).trans ((slotStore_cap ..).trans ((slotStore_cap ..).trans (csiMissing_cap ..))), rfl⟩

theorem csiFinish_spec (hw : s.capWf = true) {f : CsiFrame} (hf : csiFind s rx vc = some f)
    (hk : f.slot < (ctxOf s f.ctx).slots.length) :
    csiFind (csiFinish s f) rx vc = none ∧ (slotAt (ctxOf (csiFinish s f) f.ctx) f.slot).decoded = true ∧
    (slotAt (ctxOf (csiFinish s f) f.ctx) f.slot).done = true := by
  obtain ⟨u, hu, he⟩ := csiFinish_eq s f
  obtain ⟨rfl, rfl⟩ := csiFind_eq hf
  have hd : (csiDrop u f.rx f.vc).capWf = true := (capWf_congr hu).trans hw
  have hl : f.slot < (ctxOf (csiDrop u f.rx f.vc) f.ctx).slots.length := (congrArg (fun c => f.slot < c.slots.length)
    (ctxOf_congr hu f.ctx)).mpr hk
  have hr : (slotReady (csiDrop u f.rx f.vc) f.ctx f.slot).capWf = true := slotMod_capWf _ _ _ hd
  have hl2 : f.slot < (ctxOf (slotReady (csiDrop u f.rx f.vc) f.ctx f.slot) f.ctx).slots.length := by
    rw [slotReady, slotMod_slots_length _ _ _ _ hd]
    exact hl
  have hs : slotAt (ctxOf (csiFinish s f) f.ctx) f.slot =
      { slotAt (ctxOf (slotReady (csiDrop u f.rx f.vc) f.ctx f.slot) f.ctx) f.slot with decoded := true } := by
    rw [he, slotAt_slotMod _ _ _ _ _ hr hl2, if_pos ⟨rfl, rfl⟩]
  refine ⟨?_, ?_, ?_⟩
  · rw [he]
    exact csiFind_csiDrop u f.rx f.vc
  · rw [hs]
  · rw [hs]
    show (slotAt (ctxOf (slotReady (csiDrop u f.rx f.vc) f.ctx f.slot) f.ctx) f.slot).done = true
    rw [slotReady, slotAt_slotMod _ _ _ _ _ hd hl, if_pos ⟨rfl, rfl⟩]

/-- The context that a receiver's virtual channel feeds. -/
def csiCtx (s : State) (rx vc : SrcId) : Option Nat :=
  findCtx s fun c => c.kind == 3 && c.port == 3 + rx.val && bits c.match1.toNat 0 2 == vc.val

theorem csiStart_unmatched (hn : csiFind s rx vc = none) (ho : csiCtx s rx vc = none) : csiStart s rx vc = capStat s 0 := by
  unfold csiStart
  rw [hn]
  unfold csiCtx at ho
  dsimp only
  rw [ho]

theorem csiStart_matched (hn : csiFind s rx vc = none) {n : Nat} (ho : csiCtx s rx vc = some n) : csiStart s rx vc =
    match tryAdmit s n (stampNow s) none false with
    | (some k, t) => csiPut t { rx := rx, vc := vc, ctx := n, slot := k, lines := 0, embedded := 0, damaged := 0, ranges := [] }
    | (none, t) => t := by
  unfold csiStart
  rw [hn]
  unfold csiCtx at ho
  dsimp only
  rw [ho] <;> rfl

theorem csiStart_full (hn : csiFind s rx vc = none) {n : Nat} (ho : csiCtx s rx vc = some n)
    (hp : pickSlot (ctxOf s n) = none) : csiStart s rx vc = overrun s n := by
  rw [csiStart_matched hn ho, tryAdmit, hp]

theorem csiStart_taken (hn : csiFind s rx vc = none) {n k : Nat} (ho : csiCtx s rx vc = some n)
    (hp : pickSlot (ctxOf s n) = some k) : csiStart s rx vc = csiPut (admitFrame s n k (stampNow s) none false)
      { rx := rx, vc := vc, ctx := n, slot := k, lines := 0, embedded := 0, damaged := 0, ranges := [] } := by
  rw [csiStart_matched hn ho, tryAdmit, hp]

theorem csiStart_full_spec (hw : s.capWf = true) (hn : csiFind s rx vc = none) {n : Nat} (ho : csiCtx s rx vc = some n)
    (hp : pickSlot (ctxOf s n) = none) : (ctxOf (csiStart s rx vc) n).ovr = (ctxOf s n).ovr + 1 ∧
      csiFind (csiStart s rx vc) rx vc = none ∧ (csiStart s rx vc).cap.stats = s.cap.stats := by
  rw [csiStart_full hn ho hp]
  have hv := overrun_sample s n
  refine ⟨?_, ?_, (congrArg (fun s => s.cap.stats) hv :)⟩
  · rw [ctxOf_overrun n n hw, if_pos rfl]
  · have hc : (overrun s n).cap.csi = s.cap.csi := (congrArg (fun s => s.cap.csi) hv :)
    rw [csiFind_congr hc, hn]

theorem csiStart_taken_spec (hw : s.capWf = true) (hn : csiFind s rx vc = none) {n k : Nat} (ho : csiCtx s rx vc = some n)
    (hp : pickSlot (ctxOf s n) = some k) :
    csiFind (csiStart s rx vc) rx vc =
      some { rx := rx, vc := vc, ctx := n, slot := k, lines := 0, embedded := 0, damaged := 0, ranges := [] } ∧
    (slotAt (ctxOf (csiStart s rx vc) n) k).st = .filling ∧ (slotAt (ctxOf (csiStart s rx vc) n) k).stamp = stampNow s ∧
    (csiStart s rx vc).cap.stats = s.cap.stats := by
  rw [csiStart_taken hn ho hp]
  have hc : ctxOf (admitFrame s n k (stampNow s) none false) n = (ctxOf s n).taking k (stampNow s) none false :=
    (ctxOf_admitFrame n k n hw ..).trans (if_pos rfl)
  have hs := (congrArg (slotAt · k) hc).trans (slotAt_taking (pickSlot_lt hp) (stampNow s) none false)
  have ht : (admitFrame s n k (stampNow s) none false).cap.stats = s.cap.stats :=
    (congrArg (fun s => s.cap.stats) (admitFrame_sample s n k (stampNow s) none false) :)
  rw [ctxOf_csiPut, csiPut_stats, ht]
  refine ⟨csiFind_csiPut _ _, ?_, ?_, rfl⟩
  · exact (congrArg CapSlot.st hs :)
  · exact (congrArg CapSlot.stamp hs :)

/-- A line of a frame that still has room for it is counted, and counts as damaged with a bad CRC or too few pixels. -/
theorem csiLine_eq (s : State) (f : CsiFrame) (p : CsiPacket) (h : f.lines < (ctxOf s f.ctx).height) :
    ∃ (u : State) (g : CsiFrame), csiLine s f p = csiPut u g ∧ u.cap = s.cap ∧ g.rx = f.rx ∧ g.vc = f.vc ∧
      g.lines = f.lines + 1 ∧ g.slot = f.slot ∧ g.damaged = f.damaged + b2n (!p.crcOk ||
        decide ((csiPixels (ctxOf s f.ctx) p.dataType.toNat p.payload).length < (ctxOf s f.ctx).width)) := by
  unfold csiLine
  extract_lets c px short
  rw [if_neg (Nat.not_le.2 h)]
  by_cases hc : p.crcOk = true
  · rw [if_neg (by rw [hc]; decide)]
    rename_i r s1 s2
    refine ⟨s2, _, rfl, ?_, rfl, rfl, rfl, rfl, by rw [hc]; rfl⟩
    have h1 : s1.cap = s.cap := storeRow_cap ..
    unfold s2
    split
    · exact (notePrevGrey_cap ..).trans h1
    · exact h1
  · rw [Bool.not_eq_true] at hc
    rw [if_pos (by rw [hc]; rfl)]
    exact ⟨_, _, rfl, csiConcealLine_cap .., rfl, rfl, rfl, rfl, by rw [hc]; rfl⟩

/-! ### CSI-2 commands -/

/-- The state in which a header with fewer than two errors is taken: one corrected error is counted. -/
def csiCorrected (s : State) (errs : Nat) : State :=
  if errs = 1 then { s with cap.stats := vmod s.cap.stats 7 (· + 1) } else s

theorem csiHeader_of_le {errs : Nat} (h : errs ≤ 1) (f : State → State) : csiHeader s errs f = f (csiCorrected s errs) :=
  if_neg (by omega)

theorem csiCorrected_cases (s : State) (errs : Nat) :
    csiCorrected s errs = { s with cap.stats := vmod s.cap.stats 7 (· + 1) } ∨ csiCorrected s errs = s := by
  unfold csiCorrected
  split
  · exact .inl rfl
  · exact .inr rfl

/-- A corrected header leaves all but the count. -/
theorem csiCorrected_same (s : State) (errs : Nat) : (csiCorrected s errs).capWf = s.capWf ∧
    (∀ n, ctxOf (csiCorrected s errs) n = ctxOf s n) ∧ (∀ rx vc, csiFind (csiCorrected s errs) rx vc = csiFind s rx vc) ∧
    (∀ rx vc, csiCtx (csiCorrected s errs) rx vc = csiCtx s rx vc) ∧ stampNow (csiCorrected s errs) = stampNow s := by
  obtain h | h := csiCorrected_cases s errs <;> rw [h] <;> exact ⟨rfl, fun _ => rfl, fun _ _ => rfl, fun _ _ => rfl, rfl⟩

theorem csiCorrected_stats (s : State) {errs : Nat} (h : errs ≤ 1) :
    (csiCorrected s errs).cap.stats.get 7 = s.cap.stats.get 7 + BitVec.ofNat 32 errs := by
  obtain rfl | rfl : errs = 0 ∨ errs = 1 := by omega
  · simp [csiCorrected]
  · exact (vmod_get_same ..).trans rfl

theorem exec_csiFrameStart (hu : capUp s = true) {errs : Nat} (he : errs ≤ 1) :
    exec (.csiFrameStart rx ⟨errs, vc⟩) s = .next (csiStart (csiCorrected s errs) rx vc) :=
  (if_pos hu : execCsiFrameStart rx ⟨errs, vc⟩ s = _).trans (congrArg _ (csiHeader_of_le he _))

theorem exec_csiFrameEnd_none (hu : capUp s = true) {errs : Nat} (he : errs ≤ 1) (hf : csiFind s rx vc = none) :
    exec (.csiFrameEnd rx ⟨errs, vc⟩) s = .next (csiCorrected s errs) := by
  refine (if_pos hu : execCsiFrameEnd rx ⟨errs, vc⟩ s = _).trans ?_
  rw [csiHeader_of_le he]
  have h : csiFind (csiCorrected s errs) rx vc = none := ((csiCorrected_same s errs).2.2.1 rx vc).trans hf
  dsimp only
  rw [h]

theorem exec_csiFrameEnd_some (hu : capUp s = true) {errs : Nat} (he : errs ≤ 1) {f : CsiFrame}
    (hf : csiFind s rx vc = some f) :
    exec (.csiFrameEnd rx ⟨errs, vc⟩) s = .next (csiFinish (csiCorrected s errs) f) := by
  refine (if_pos hu : execCsiFrameEnd rx ⟨errs, vc⟩ s = _).trans ?_
  rw [csiHeader_of_le he]
  have h : csiFind (csiCorrected s errs) rx vc = some f := ((csiCorrected_same s errs).2.2.1 rx vc).trans hf
  dsimp only
  rw [h]

theorem exec_csiPacket (hu : capUp s = true) {p : CsiPacket} (he : p.headerErrs ≤ 1) :
    exec (.csiPacket rx p) s = .next (csiTake (csiCorrected s p.headerErrs) rx p) :=
  (if_pos hu : execCsiPacket rx p s = _).trans (congrArg _ (csiHeader_of_le he _))

theorem csiTake_line {p : CsiPacket} {f : CsiFrame} (hf : csiFind s rx p.vc = some f)
    (hd : p.dataType ∈ [0x2A, 0x2B, 0x2C, 0x1E]) : csiTake s rx p = csiLine s f p := by
  have hn : p.dataType.toNat = 0x2A ∨ p.dataType.toNat = 0x2B ∨ p.dataType.toNat = 0x2C ∨ p.dataType.toNat = 0x1E := by
    simp only [List.mem_cons, List.not_mem_nil, or_false] at hd
    rcases hd with h | h | h | h <;> rw [h] <;> decide
  unfold csiTake
  extract_lets dt
  have hdt : dt = p.dataType.toNat := rfl
  rw [if_neg (by omega), if_neg (by omega), hf]
  exact if_neg (by omega)

theorem csiTake_short {p : CsiPacket} (hd : p.dataType = 0x02 ∨ p.dataType = 0x03) : csiTake s rx p = s :=
  if_pos (by rcases hd with h | h <;> rw [h] <;> decide)

theorem csiTake_unlisted {p : CsiPacket} (hd : p.dataType ∉ [0x02, 0x03, 0x2A, 0x2B, 0x2C, 0x1E, 0x12]) :
    csiTake s rx p = capStat s 5 := by
  have hne : ∀ x ∈ ([0x02, 0x03, 0x2A, 0x2B, 0x2C, 0x1E, 0x12] : List (BitVec 6)), p.dataType.toNat ≠ x.toNat :=
    fun x hx h => hd (BitVec.eq_of_toNat_eq h ▸ hx)
  simp only [List.forall_mem_cons] at hne
  obtain ⟨h1, h2, h3, h4, h5, h6, h7, _⟩ := hne
  refine (if_neg (not_or.2 ⟨h1, h2⟩)).trans (if_pos ?_)
  rintro (h | h | h | h | h)
  · exact h3 h
  · exact h4 h
  · exact h5 h
  · exact h6 h
  · exact h7 h

theorem csiFrameStart_spec (hw : s.capWf = true) (hu : capUp s = true) {errs : Nat} (he : errs ≤ 1)
    (hn : csiFind s rx vc = none) (o : Option Nat) (ho : csiCtx s rx vc = o) :
    let u := csiCorrected s errs
    (o = none → exec (.csiFrameStart rx ⟨errs, vc⟩) s = .next { u with cap.stats := vmod u.cap.stats 0 (· + 1) }) ∧
    (∀ n : Nat, o = some n → pickSlot (ctxOf s n) = none → Gives (.csiFrameStart rx ⟨errs, vc⟩) s fun t =>
      (ctxOf t n).ovr = (ctxOf s n).ovr + 1 ∧ csiFind t rx vc = none ∧ t.cap.stats = u.cap.stats) ∧
    (∀ n k : Nat, o = some n → pickSlot (ctxOf s n) = some k → Gives (.csiFrameStart rx ⟨errs, vc⟩) s fun t =>
      csiFind t rx vc = some { rx := rx, vc := vc, ctx := n, slot := k, lines := 0, embedded := 0, damaged := 0, ranges := [] } ∧
      (slotAt (ctxOf t n) k).st = .filling ∧ (slotAt (ctxOf t n) k).stamp = stampNow s ∧
      t.cap.stats = u.cap.stats) := by
  intro u
  have hex := exec_csiFrameStart (rx := rx) (vc := vc) hu he
  obtain ⟨h1, h2, h3, h4, h5⟩ := csiCorrected_same s errs
  have hwu : u.capWf = true := h1.trans hw
  have hnu : csiFind u rx vc = none := (h3 rx vc).trans hn
  have hou : csiCtx u rx vc = o := (h4 rx vc).trans ho
  refine ⟨fun h => hex.trans (congrArg _ (csiStart_unmatched hnu (hou.trans h))), fun n h hp => .intro hex ?_,
    fun n k h hp => .intro hex ?_⟩
  · rw [← h2 n] at hp ⊢
    exact csiStart_full_spec hwu hnu (hou.trans h) hp
  · rw [← h2 n] at hp
    rw [← h5]
    exact csiStart_taken_spec hwu hnu (hou.trans h) hp

theorem csiFrameEnd_spec (hw : s.capWf = true) (hu : capUp s = true) {errs : Nat} (he : errs ≤ 1) {f : CsiFrame}
    (hf : csiFind s rx vc = some f) (hk : f.slot < (ctxOf s f.ctx).slots.length) :
    Gives (.csiFrameEnd rx ⟨errs, vc⟩) s fun t => csiFind t rx vc = none ∧
      (slotAt (ctxOf t f.ctx) f.slot).decoded = true ∧ (slotAt (ctxOf t f.ctx) f.slot).done = true := by
  obtain ⟨h1, h2, h3, _, _⟩ := csiCorrected_same s errs
  exact .intro (exec_csiFrameEnd_some hu he hf)
    (csiFinish_spec (h1.trans hw) ((h3 rx vc).trans hf) (by rw [h2]; exact hk))

theorem csiPacket_spec (hu : capUp s = true) (p : CsiPacket) :
    (2 ≤ p.headerErrs → exec (.csiPacket rx p) s = .next { s with cap.stats := vmod s.cap.stats 5 (· + 1) }) ∧
    (p.headerErrs = 0 → p.dataType = 0x02 ∨ p.dataType = 0x03 → exec (.csiPacket rx p) s = .next s) ∧
    (p.headerErrs = 0 → p.dataType ∉ [0x02, 0x03, 0x2A, 0x2B, 0x2C, 0x1E, 0x12] →
      exec (.csiPacket rx p) s = .next { s with cap.stats := vmod s.cap.stats 5 (· + 1) }) ∧
    (∀ f : CsiFrame, csiFind s rx p.vc = some f → f.lines < (ctxOf s f.ctx).height → p.headerErrs ≤ 1 →
      p.dataType ∈ [0x2A, 0x2B, 0x2C, 0x1E] → Gives (.csiPacket rx p) s fun t =>
        t.cap.stats.get 7 = s.cap.stats.get 7 + BitVec.ofNat 32 p.headerErrs ∧
        ∃ g : CsiFrame, csiFind t rx p.vc = some g ∧ g.lines = f.lines + 1 ∧ g.slot = f.slot ∧
          g.damaged = f.damaged + b2n (!p.crcOk || decide
            ((csiPixels (ctxOf s f.ctx) p.dataType.toNat p.payload).length < (ctxOf s f.ctx).width))) := by
  have h0 : p.headerErrs = 0 → exec (.csiPacket rx p) s = .next (csiTake s rx p) := fun h =>
    (exec_csiPacket hu (by omega)).trans (by rw [h]; rfl)
  refine ⟨fun h => (if_pos hu : execCsiPacket rx p s = _).trans (congrArg _ (if_pos h)),
    fun h hd => (h0 h).trans (congrArg _ (csiTake_short hd)), fun h hd => (h0 h).trans (congrArg _ (csiTake_unlisted hd)),
    fun f hf hl he hd => ?_⟩
  obtain ⟨_, h2, h3, _, _⟩ := csiCorrected_same s p.headerErrs
  have hfu : csiFind (csiCorrected s p.headerErrs) rx p.vc = some f := (h3 rx p.vc).trans hf
  obtain ⟨u, g, hline, hc, hrx, hvc, hgl, hgs, hgd⟩ := csiLine_eq (csiCorrected s p.headerErrs) f p (by rw [h2]; exact hl)
  rw [h2] at hgd
  obtain ⟨hfr, hfv⟩ := csiFind_eq hf
  refine .intro ((exec_csiPacket hu he).trans (congrArg _ ((csiTake_line hfu hd).trans hline))) ⟨?_, g, ?_, hgl, hgs, hgd⟩
  · rw [csiPut_stats, hc, csiCorrected_stats s he]
  · have := csiFind_csiPut u g
    rw [hrx, hvc, hfr, hfv] at this
    exact this

end

/-! ### JPEG decoding -/

section
variable {s : State} {j : CanPort}

theorem jpegDecodeStart_none (hq : s.cap.jpegQ.find? (jpegMayStart s) = none) :
    exec (.jpegDecodeStart j) s = .next s := by
  show execJpegDecodeStart j s = _
  unfold execJpegDecodeStart
  split
  · rw [hq]
  · rfl

theorem pertFlip_jdu (s : State) (n : Nat) : (pertFlip s n).2.cap.jdu = s.cap.jdu := by
  unfold pertFlip
  extract_lets p c
  split
  · split <;> rfl
  · rfl

theorem pertFlip_inactive (n : Nat) (h : s.pert.active.get 6 = false) : (pertFlip s n).1 = none := by
  unfold pertFlip
  extract_lets p c
  rw [h]
  rfl

theorem jpegDecodeStart_some (hu : jduUp s j = true) (h : s.cap.jdu.get j = none) {f : JduJob}
    (hq : s.cap.jpegQ.find? (jpegMayStart s) = some f) :
    exec (.jpegDecodeStart j) s = .next { (pertFlip s f.ctx).2 with
      cap.jpegQ := s.cap.jpegQ.erase f,
      cap.jdu := vput (pertFlip s f.ctx).2.cap.jdu j (some { f with flip := (pertFlip s f.ctx).1 }) } := by
  refine (if_pos (by rw [hu, h]; rfl) : execJpegDecodeStart j s = _).trans ?_
  rw [hq]

theorem jpegRowDecoded_running (hu : jduUp s j = true) {f : JduJob} (h : s.cap.jdu.get j = some f) :
    exec (.jpegRowDecoded j) s = if f.row < (slotRoi s f.ctx f.slot).h
      then .next { jduRow s f with cap.jdu := vput (jduRow s f).cap.jdu j (some { f with row := f.row + 1 }) }
      else .next s := by
  show execJpegRowDecoded j s = _
  unfold execJpegRowDecoded
  rw [h]
  dsimp only
  rw [hu]
  simp

theorem jpegDecodeEnd_running (hu : jduUp s j = true) {f : JduJob} (h : s.cap.jdu.get j = some f) :
    exec (.jpegDecodeEnd j) s = if (slotRoi s f.ctx f.slot).h ≤ f.row
      then .next { slotMod (jduDamage s f) f.ctx f.slot (fun x => { x with decoded := true }) with
        cap.jdu := vput (jduDamage s f).cap.jdu j none }
      else .next s := by
  show execJpegDecodeEnd j s = _
  unfold execJpegDecodeEnd
  rw [h]
  dsimp only
  rw [hu]
  simp only [Bool.true_and, decide_eq_true_eq]
  rfl

theorem jdu_spec (hw : s.capWf = true) (hu : jduUp s j = true) :
    (s.cap.jdu.get j = none → s.cap.jpegQ.find? (jpegMayStart s) = none → exec (.jpegDecodeStart j) s = .next s) ∧
    (∀ f : JduJob, s.cap.jdu.get j = none → s.cap.jpegQ.find? (jpegMayStart s) = some f →
      Gives (.jpegDecodeStart j) s fun t => t.cap.jpegQ = s.cap.jpegQ.erase f ∧
        ∃ x : Option (Nat × Byte), t.cap.jdu.get j = some { f with flip := x } ∧ (s.pert.active.get 6 = false → x = none)) ∧
    (∀ f : JduJob, s.cap.jdu.get j = some f →
      exec (.jpegDecodeStart j) s = .next s ∧
      (f.row < (slotRoi s f.ctx f.slot).h → exec (.jpegDecodeEnd j) s = .next s ∧
        Gives (.jpegRowDecoded j) s fun t => t.cap.jdu.get j = some { f with row := f.row + 1 }) ∧
      ((slotRoi s f.ctx f.slot).h ≤ f.row → exec (.jpegRowDecoded j) s = .next s ∧
        (f.slot < (ctxOf s f.ctx).slots.length → Gives (.jpegDecodeEnd j) s fun t =>
          t.cap.jdu.get j = none ∧ (slotAt (ctxOf t f.ctx) f.slot).decoded = true))) := by
  refine ⟨fun _ => jpegDecodeStart_none, fun f h hq => .intro (jpegDecodeStart_some hu h hq)
    ⟨rfl, _, vput_get_same .., pertFlip_inactive _⟩, fun f h => ⟨if_neg (by rw [h]; simp), fun hr => ⟨?_, ?_⟩, fun hr => ⟨?_, fun hk => ?_⟩⟩⟩
  · exact (jpegDecodeEnd_running hu h).trans (if_neg (Nat.not_le.2 hr))
  · exact .intro ((jpegRowDecoded_running hu h).trans (if_pos hr)) (vput_get_same ..)
  · exact (jpegRowDecoded_running hu h).trans (if_neg (Nat.not_lt.2 hr))
  · have hc := jduDamage_cap s f
    refine .intro ((jpegDecodeEnd_running hu h).trans (if_pos hr)) ⟨vput_get_same .., ?_⟩
    have hs := slotAt_slotMod f.ctx f.slot f.ctx f.slot (fun x => { x with decoded := true })
      ((capWf_congr hc).trans hw) (by rw [ctxOf_congr hc]; exact hk)
    rw [if_pos ⟨rfl, rfl⟩] at hs
    exact (congrArg CapSlot.decoded hs :)

end

/-! ### Two-wire polls -/

section
variable {s : State} {ctx : BitVec 12} {i : TwId}

/-- The transfer that a due poll of a context queues. -/
def pollXfer (ctx : BitVec 12) (m : Nat) : TwXfer :=
  { origin := .ctx ctx.toNat, addr := BitVec.ofNat 7 (bits m 0 7), wdata := [BitVec.ofNat 8 (bits m 8 8)],
    rlen := bits m 16 8 + 1 }

theorem twPollDue_queued (hu : capUp s = true) (hen : (ctxOf s ctx.toNat).en = true) (hi : ctxTw (ctxOf s ctx.toNat) = some i)
    (hup : twUp s i = true) (hk : (ctxOf s ctx.toNat).kind = 4) (ht : (ctxOf s ctx.toNat).slotTrig = false)
    (hd : (ctxOf s ctx.toNat).twDue = false) (hf : (twPort s i).fault = false) : exec (.twPollDue ctx) s =
      .next (twMod (ctxPut s ctx.toNat { ctxOf s ctx.toNat with twDue := true }) i
        fun p => { p with queue := p.queue ++ [pollXfer ctx (ctxOf s ctx.toNat).match1.toNat] }) := by
  show execTwPollDue ctx s = _
  unfold execTwPollDue twPoll
  rw [ht, if_neg Bool.false_ne_true]
  extract_lets c
  rw [show ctxTw c = some i from hi]
  have hc : (!(capUp s && c.en && c.kind == 4 && twUp s i && !c.twDue)) = false := by
    rw [hu, show c.en = true from hen, show c.kind = 4 from hk, hup, show c.twDue = false from hd]
    rfl
  dsimp only
  rw [hc, if_neg Bool.false_ne_true]
  exact congrArg _ (if_neg (Bool.eq_false_iff.1 hf))

/-- The state in which a read's end is taken: it is off its port's list, and no read is due. -/
def pollTaken (s : State) (ctx : BitVec 12) (i : TwId) (e : Nat × Bytes × Option Bytes) : State :=
  ctxPut (twMod s i fun p => { p with polled := p.polled.erase e }) ctx.toNat { ctxOf s ctx.toNat with twDue := false }

theorem twPollDone_eq (hu : capUp s = true) (hen : (ctxOf s ctx.toNat).en = true) (hi : ctxTw (ctxOf s ctx.toNat) = some i)
    {st : Bytes} {d : Option Bytes} {rest : List (Nat × Bytes × Option Bytes)}
    (hp : (twPort s i).polled = (ctx.toNat, st, d) :: rest) :
    (d = none → exec (.twPollDone ctx) s = .next (pollTaken s ctx i (ctx.toNat, st, d))) ∧
    (∀ (b : Bytes) (k : Nat), d = some b → pickSlot (ctxOf (pollTaken s ctx i (ctx.toNat, st, d)) ctx.toNat) = some k →
      exec (.twPollDone ctx) s = .next (slotReady (slotStore (slotStore
        (admitFrame (pollTaken s ctx i (ctx.toNat, st, d)) ctx.toNat k st none false) ctx.toNat k 128 b)
        ctx.toNat k 0x30 (toLE 4 b.length)) ctx.toNat k)) := by
  have hf : ((twPort s i).polled.find? fun e => e.1 == ctx.toNat) = some (ctx.toNat, st, d) := by
    rw [hp, List.find?_cons, beq_self_eq_true]
  have hb : ¬ (!(capUp s && (ctxOf s ctx.toNat).en)) = true := by rw [hu, hen]; decide
  refine ⟨fun hd => ?_, fun b k hd hk => ?_⟩
  all_goals
    show execTwPollDone ctx s = _
    unfold execTwPollDone
    extract_lets c
    rw [show ctxTw c = some i from hi]
    dsimp only
    rw [hf]
    refine (if_neg hb).trans ?_
    subst hd
  · rfl
  · show (match tryAdmit (pollTaken s ctx i (ctx.toNat, st, some b)) ctx.toNat st none false with
      | (none, t) => .next t
      | (some k, t) =>
        .next (slotReady (slotStore (slotStore t ctx.toNat k 128 b) ctx.toNat k 0x30 (toLE 4 b.length)) ctx.toNat k) : Host.Outcome State Fault Refusal) = _
    rw [tryAdmit, hk]

theorem pollTaken_polled {st : Bytes} {d : Option Bytes} {rest : List (Nat × Bytes × Option Bytes)}
    (hp : (twPort s i).polled = (ctx.toNat, st, d) :: rest) :
    (twPort (pollTaken s ctx i (ctx.toNat, st, d)) i).polled = rest := by
  have h : twPort (pollTaken s ctx i (ctx.toNat, st, d)) i = _ := twMod_get_same s i _
  rw [h]
  show ((twPort s i).polled.erase _) = _
  rw [hp, List.erase_cons_head]

theorem ctxOf_pollTaken (hw : s.capWf = true) (e : Nat × Bytes × Option Bytes) :
    ctxOf (pollTaken s ctx i e) ctx.toNat = { ctxOf s ctx.toNat with twDue := false } :=
  (ctxOf_ctxPut (s := twMod s i fun p => { p with polled := p.polled.erase e }) _ _ _ hw).trans (if_pos rfl)

theorem pollTaken_capWf (hw : s.capWf = true) (e : Nat × Bytes × Option Bytes) : (pollTaken s ctx i e).capWf = true :=
  ctxPut_capWf (s := twMod s i fun p => { p with polled := p.polled.erase e }) _ _ hw

/-- A sample of a slot that is admitted, stored and made READY. -/
theorem sample_ready {u v : State} {n k : Nat} {st : Bytes} (hw : u.capWf = true) (hk : pickSlot (ctxOf u n) = some k)
    (hv : v.cap = (admitFrame u n k st none false).cap) :
    (ctxOf (slotReady v n k) n).twDue = (ctxOf u n).twDue ∧ (slotAt (ctxOf (slotReady v n k) n) k).st = .ready ∧
    (slotAt (ctxOf (slotReady v n k) n) k).stamp = st := by
  have hvw : v.capWf = true := (capWf_congr hv).trans (admitFrame_capWf n k hw ..)
  have hvc : ctxOf v n = (ctxOf u n).taking k st none false :=
    (ctxOf_congr hv n).trans ((ctxOf_admitFrame n k n hw ..).trans (if_pos rfl))
  have hc : ctxOf (slotReady v n k) n = slotSet (ctxOf v n) k
      { slotAt (ctxOf v n) k with
        st := if (slotAt (ctxOf v n) k).st = .filling then .ready else (slotAt (ctxOf v n) k).st, done := true } :=
    (ctxOf_ctxPut _ _ _ hvw).trans (if_pos rfl)
  have hs := slotAt_taking (pickSlot_lt hk) st none false
  have hl : k < ((ctxOf u n).taking k st none false).slots.length :=
    (slotSet_length (ctxOf u n) k _).symm ▸ pickSlot_lt hk
  have hr : slotAt (ctxOf (slotReady v n k) n) k = { slotAt (ctxOf v n) k with
      st := if (slotAt (ctxOf v n) k).st = .filling then .ready else (slotAt (ctxOf v n) k).st, done := true } := by
    rw [hc, slotAt_slotSet, if_pos ⟨rfl, hvc ▸ hl⟩]
  rw [hr, hc, hvc, hs]
  exact ⟨rfl, rfl, rfl⟩

theorem slotReady_tw (s : State) (n k : Nat) : (slotReady s n k).tw = s.tw := rfl

theorem twPolls_spec (hw : s.capWf = true) (hu : capUp s = true) (hen : (ctxOf s ctx.toNat).en = true)
    (hi : ctxTw (ctxOf s ctx.toNat) = some i) :
    let m := (ctxOf s ctx.toNat).match1.toNat
    ((ctxOf s ctx.toNat).slotTrig = true → exec (.twPollDue ctx) s = .next s) ∧
    (twUp s i = true → (ctxOf s ctx.toNat).kind = 4 → (ctxOf s ctx.toNat).slotTrig = false →
      (ctxOf s ctx.toNat).twDue = false → (twPort s i).fault = false →
      Gives (.twPollDue ctx) s fun t => (ctxOf t ctx.toNat).twDue = true ∧
        (twPort t i).queue = (twPort s i).queue ++ [pollXfer ctx m]) ∧
    (∀ (st : Bytes) (d : Option Bytes) (rest : List (Nat × Bytes × Option Bytes)),
      (twPort s i).polled = (ctx.toNat, st, d) :: rest →
      (d = none → Gives (.twPollDone ctx) s fun t => (twPort t i).polled = rest ∧
        (ctxOf t ctx.toNat).twDue = false ∧ (ctxOf t ctx.toNat).slots = (ctxOf s ctx.toNat).slots) ∧
      (∀ (b : Bytes) (k : Nat), d = some b → pickSlot (ctxOf s ctx.toNat) = some k →
        Gives (.twPollDone ctx) s fun t => (twPort t i).polled = rest ∧ (ctxOf t ctx.toNat).twDue = false ∧
          (slotAt (ctxOf t ctx.toNat) k).st = .ready ∧ (slotAt (ctxOf t ctx.toNat) k).stamp = st)) := by
  intro m
  refine ⟨fun ht => congrArg _ (if_pos ht), fun hup hk ht hd hf => .intro (twPollDue_queued hu hen hi hup hk ht hd hf) ⟨?_, ?_⟩,
    fun st d rest hp => ⟨fun hd => ?_, fun b k hd hk => ?_⟩⟩
  · have hc : ctxOf (ctxPut s ctx.toNat { ctxOf s ctx.toNat with twDue := true }) ctx.toNat = _ :=
      (ctxOf_ctxPut _ _ _ hw).trans (if_pos rfl)
    exact (congrArg Ctx.twDue hc :)
  · exact congrArg TwPort.queue (twMod_get_same (ctxPut s ctx.toNat { ctxOf s ctx.toNat with twDue := true }) i _)
  · subst hd
    refine .intro ((twPollDone_eq hu hen hi hp).1 rfl) ⟨pollTaken_polled hp, ?_, ?_⟩
    · rw [ctxOf_pollTaken hw]
    · rw [ctxOf_pollTaken hw]
  · subst hd
    obtain ⟨u, hue⟩ : ∃ u, pollTaken s ctx i (ctx.toNat, st, some b) = u := ⟨_, rfl⟩
    have huw : u.capWf = true := hue ▸ pollTaken_capWf hw _
    have huc : ctxOf u ctx.toNat = { ctxOf s ctx.toNat with twDue := false } := hue ▸ ctxOf_pollTaken hw _
    have hup : (twPort u i).polled = rest := hue ▸ pollTaken_polled hp
    have hku : pickSlot (ctxOf u ctx.toNat) = some k := by rw [huc]; exact hk
    have he := (twPollDone_eq hu hen hi hp).2 b k rfl (hue ▸ hku)
    rw [hue] at he
    have hcap := (slotStore_cap (slotStore (admitFrame u ctx.toNat k st none false) ctx.toNat k 128 b) ctx.toNat k 0x30
      (toLE 4 b.length)).trans (slotStore_cap ..)
    obtain ⟨h1, h2, h3⟩ := sample_ready huw hku hcap
    refine .intro he ⟨?_, h1.trans (by rw [huc]), h2, h3⟩
    have htw : (slotStore (slotStore (admitFrame u ctx.toNat k st none false) ctx.toNat k 128 b) ctx.toNat k 0x30
        (toLE 4 b.length)).tw = u.tw :=
      (congrArg State.tw ((slotStore_sample ..).trans ((slotStore_sample ..).trans (admitFrame_sample u ctx.toNat k st none false))) :)
    rw [twPort, slotReady_tw, htw]
    exact hup

end

/-- Settles O36: receivers, decoders and polls, each from what its command leaves of CAP. -/
theorem csiJpegAndPolls : Obligations.CsiJpegAndPolls := by
  unfold Obligations.CsiJpegAndPolls
  intro s hw
  refine ⟨fun hu rx vc => ⟨fun n hn c hc => ?_, fun errs he => ⟨fun hn o ho => csiFrameStart_spec hw hu he hn o ho,
    exec_csiFrameEnd_none hu he, fun f hf hk => csiFrameEnd_spec hw hu he hf hk⟩, fun p hp => ?_⟩,
    fun j hu => jdu_spec hw hu, fun ctx i hu hen hi => twPolls_spec hw hu hen hi⟩
  · obtain rfl | rfl := hc
    · exact (if_pos hu : execCsiFrameStart rx ⟨n, vc⟩ s = _).trans (congrArg _ (if_pos hn))
    · exact (if_pos hu : execCsiFrameEnd rx ⟨n, vc⟩ s = _).trans (congrArg _ (if_pos hn))
  · subst hp
    exact csiPacket_spec hu p

end Sys2Proof.Machine

end

section

namespace Sys2Proof.Machine

/-! ## Ethernet records, stream frames and RTP/JPEG packets (O34) -/

/-! ### CAP's stores -/

section
variable {s t : State}

/-- Whether an access is denied rests on the fields of the entries that are enforced. -/
theorem actCheck_none_force (h : t.act.force = s.act.force) {init acc a n : Nat} (hs : actCheck s init acc a n = none) :
    actCheck t init acc a n = none := by
  unfold actCheck at hs ⊢
  split at hs
  · cases hs
  · rw [h, if_neg ‹_›]
    split at hs
    · rfl
    · cases hs

theorem capUp_notFenced (h : capUp s = true) : initFenced s 18 = false := by
  simp only [capUp, Bool.and_eq_true, Bool.not_eq_true'] at h
  exact h.2

/-- A store of CAP's that the ACT allows and that memory takes. -/
theorem rd_capStore {a : Nat} {bs : Bytes} (hw : s.memWf = true) (hf : initFenced s 18 = false)
    (hc : actCheck s 18 accStore a bs.length = none) (he : ramErr s a bs.length = none) :
    (capStore s a bs).rd a bs.length = bs := by
  rw [capStore, ramWrite_of_free hf hc he]
  exact memReadN_memWriteN hw

theorem rd_capStore_out {a x n : Nat} {bs : Bytes} (hw : s.memWf = true) (hx : x + n ≤ a ∨ a + bs.length ≤ x) :
    (capStore s a bs).rd x n = s.rd x n :=
  memReadN_congr fun y h1 h2 => ramWrite_mem_out hw (by omega)

theorem capStore_memWf (hw : s.memWf = true) (a : Nat) (bs : Bytes) : (capStore s a bs).memWf = true :=
  ramWrite_keeps s 18 a bs hw

end

/-! ### A sample is opened -/

/-- The open sample that a fresh admission leaves. -/
def CapAsm.opened (c : Ctx) (k : Nat) (seq : W32) (len : Option Nat) (st : Bytes) (sense : Option W64) (rtp : RtpParams) : CapAsm :=
  { slot := some k, seq := seq, len := len, frags := [], ranges := [], buf := [], stamp := st, sense := sense,
    hdr := slotHeader c st sense (roiInForce c) 16, rtp := rtp, bad := 0 }

/-- A sample is admitted and its key is the context's newest. -/
def openSample (s : State) (n k : Nat) (seq : W32) (st : Bytes) (sense : Option W64) : State :=
  let t := admitFrame s n k st sense false
  ctxPut t n { ctxOf t n with newest := some seq }

section
variable {s : State} {n k : Nat} {seq : W32} {len : Option Nat} {st : Bytes} {sense : Option W64} {rtp : RtpParams}

theorem asmOpen_device (hg : (ctxOf s n).sgrp = 0) : asmOpen s n seq len st sense rtp =
    match tryAdmit s n st sense false with
    | (some k, t) => (some (CapAsm.opened (ctxOf s n) k seq len st sense rtp), ctxPut t n { ctxOf t n with newest := some seq })
    | (none, t) => (none, asmRefuse t n seq) := if_neg (fun h => h hg)

theorem asmOpen_full (hg : (ctxOf s n).sgrp = 0) (hp : pickSlot (ctxOf s n) = none) :
    asmOpen s n seq len st sense rtp = (none, asmRefuse (overrun s n) n seq) := by
  rw [asmOpen_device hg, tryAdmit, hp]

theorem asmOpen_taken (hg : (ctxOf s n).sgrp = 0) (hp : pickSlot (ctxOf s n) = some k) :
    asmOpen s n seq len st sense rtp =
      (some (CapAsm.opened (ctxOf s n) k seq len st sense rtp), openSample s n k seq st sense) := by
  rw [asmOpen_device hg, tryAdmit, hp]
  rfl

theorem openSample_sample : (openSample s n k seq st sense).sansSample = s.sansSample :=
  (show (openSample s n k seq st sense).sansSample = (admitFrame s n k st sense false).sansSample from rfl).trans
    (admitFrame_sample ..)

theorem openSample_capWf (hw : s.capWf = true) : (openSample s n k seq st sense).capWf = true :=
  ctxPut_capWf _ _ (admitFrame_capWf n k hw ..)

theorem ctxOf_openSample (hw : s.capWf = true) : ctxOf (openSample s n k seq st sense) n =
    { (ctxOf s n).taking k st sense false with newest := some seq } := by
  unfold openSample
  extract_lets t
  have ht : ctxOf t n = (ctxOf s n).taking k st sense false := (ctxOf_admitFrame n k n hw ..).trans (if_pos rfl)
  exact (ctxOf_ctxPut _ _ _ (admitFrame_capWf n k hw ..)).trans
    ((if_pos rfl).trans (congrArg (fun c : Ctx => { c with newest := some seq }) ht))

theorem admitFrame_memWf (hm : s.memWf = true) : (admitFrame s n k st sense false).memWf = true := by
  unfold admitFrame
  extract_lets c t hdr u
  have hn : (noteAdmission u n t).mem = u.mem := by
    unfold noteAdmission
    split
    · exact clearStanding_mem ..
    · exact clearStanding_mem ..
  have hu : u.memWf = true := capStore_memWf (s := ctxPut s n (slotSet c k t)) hm _ _
  rw [State.memWf, hn]
  exact hu

end

/-! ### Bytes of an open sample -/

section
variable {s : State} {n k : Nat} {a : CapAsm}

/-- An open sample with a range more. -/
def CapAsm.placed (a : CapAsm) (off size : Nat) (last : Option Nat) : CapAsm :=
  { a with ranges := a.ranges ++ [(off, size)], len := a.len.or last }

theorem asmPlace_eq (ha : a.slot = some k) (off : Nat) (d : Bytes) (last : Option Nat) :
    asmPlace s n a off d last = match a.len.or last with
      | some l => if covered (a.ranges ++ [(off, d.length)]) l
        then asmEnd (slotStore s n k (128 + off) d) n (a.placed off d.length last)
        else ctxPut (slotStore s n k (128 + off) d) n
          { ctxOf (slotStore s n k (128 + off) d) n with asm := some (a.placed off d.length last) }
      | none => ctxPut (slotStore s n k (128 + off) d) n
        { ctxOf (slotStore s n k (128 + off) d) n with asm := some (a.placed off d.length last) } := by
  cases a
  cases ha
  rfl

/-- A sample that still lacks bytes stays open. -/
theorem asmPlace_more (ha : a.slot = some k) (off : Nat) (d : Bytes) (last : Option Nat)
    (hl : ∀ l, a.len.or last = some l → covered (a.ranges ++ [(off, d.length)]) l = false) :
    asmPlace s n a off d last = ctxPut (slotStore s n k (128 + off) d) n
      { ctxOf (slotStore s n k (128 + off) d) n with asm := some (a.placed off d.length last) } := by
  rw [asmPlace_eq ha]
  cases h : a.len.or last with
  | none => rfl
  | some l => exact if_neg (Bool.eq_false_iff.1 (hl l h))

/-- A sample that has its bytes ends. -/
theorem asmPlace_last (ha : a.slot = some k) (off : Nat) (d : Bytes) (last : Option Nat) {l : Nat}
    (hl : a.len.or last = some l) (hc : covered (a.ranges ++ [(off, d.length)]) l = true) :
    asmPlace s n a off d last = asmEnd (slotStore s n k (128 + off) d) n (a.placed off d.length last) := by
  rw [asmPlace_eq ha, hl]
  exact if_pos hc

/-- A KIND 0 sample that has its bytes is READY. -/
theorem asmEnd_whole (hk : (ctxOf s n).kind = 0) (ha : a.slot = some k) {l : Nat} (hl : a.len = some l)
    (hc : covered a.ranges l = true) :
    ∃ bs : Bytes, bs.length = 4 ∧
      asmEnd s n a = slotReady (slotStore (ctxPut s n { ctxOf s n with asm := none }) n k 0x30 bs) n k := by
  unfold asmEnd
  extract_lets c got len full gaps u
  rw [ha]
  have hf : full = true := by
    show (a.len.isSome && covered a.ranges (a.len.getD got)) = true
    rw [hl]
    exact hc
  have h0 : c.kind = 0 := hk
  dsimp only
  rw [if_pos h0, if_pos hf]
  exact ⟨_, toLE_length .., rfl⟩

theorem covered_whole (l : Nat) : covered [(0, l)] l = true := by
  have h : firstGap [(0, l)] 1 0 = l := by
    simp only [firstGap, coverEnd, List.foldl_cons, List.foldl_nil]
    split_ifs <;> omega
  unfold covered
  rw [show ([(0, l)] : List (Nat × Nat)).length = 1 from rfl, h]
  simp

theorem covered_part {off size l : Nat} (h : size < l) : covered [(off, size)] l = false := by
  have h : firstGap [(off, size)] 1 0 < l := by
    simp only [firstGap, coverEnd, List.foldl_cons, List.foldl_nil]
    split_ifs <;> omega
  unfold covered
  rw [show ([(off, size)] : List (Nat × Nat)).length = 1 from rfl]
  exact decide_eq_false (Nat.not_le.2 h)

end

/-! ### Stream frames -/

section
variable {s : State} {n k : Nat} {h st : Bytes}

/-- The order of a fragment's sample, as its context's records hold it. -/
def sfSeq (h : Bytes) : W32 := BitVec.ofNat 32 (fieldBE h 8 2)

/-- The time of its taking that a fragment carries. -/
def sfSense (h : Bytes) : Option W64 := if (byteAt h 1).getLsbD 6 then some (BitVec.ofNat 64 (fieldBE h 16 8)) else none

def sfRtp : RtpParams := { ty := 0, q := 0, restart := 0, tables := none }

/-- The context takes the fragment as the first of a sample that fits its slots. -/
structure TakesSample (s : State) (n : Nat) (h : Bytes) : Prop where
  kind : (ctxOf s n).kind = 0
  asm : (ctxOf s n).asm = none
  newest : (ctxOf s n).newest = none
  split : (ctxOf s n).sgrp = 0
  refused : (ctxOf s n).refused ≠ some (sfSeq h)
  fits : fieldBE h 24 4 ≤ (ctxOf s n).slotSize.toNat - 128

theorem slice_length (b : Bytes) (o m : Nat) : (slice b o m).length = m := by
  rw [slice, List.length_map, List.length_range]

/-- The open sample after its first fragment. -/
def firstPart (s : State) (n k : Nat) (h st : Bytes) : CapAsm :=
  let a := CapAsm.opened (ctxOf s n) k (sfSeq h) (some (fieldBE h 24 4)) st (sfSense h) sfRtp
  { a with frags := [fieldBE h 10 2] }

theorem TakesSample.sfTake_eq (ht : TakesSample s n h) (st : Bytes) : sfTake s n h st =
    match asmOpen s n (sfSeq h) (some (fieldBE h 24 4)) st (sfSense h) sfRtp with
    | (some a, t) => sfPlace t n a h
    | (none, t) => t := by
  have h1 : sfTake s n h st = sfOpen s n h st := by
    unfold sfTake
    extract_lets c seq order
    rw [if_neg (show ¬ c.refused = some seq from ht.refused), show c.asm = none from ht.asm,
      show c.newest = none from ht.newest]
  have h2 : sfTooLong (ctxOf s n) (fieldBE h 24 4) = false := by
    rw [sfTooLong, if_pos ht.kind]
    exact decide_eq_false (Nat.not_lt.2 ht.fits)
  rw [h1]
  exact if_neg (Bool.eq_false_iff.1 h2)

theorem TakesSample.full (ht : TakesSample s n h) (hp : pickSlot (ctxOf s n) = none) (st : Bytes) :
    sfTake s n h st = asmRefuse (overrun s n) n (sfSeq h) := by
  rw [ht.sfTake_eq, asmOpen_full ht.split hp]

theorem sfPlace_first {a : CapAsm} (ha : a.frags = []) : sfPlace s n a h =
    asmPlace s n { a with frags := [fieldBE h 10 2] } (fieldBE h 12 4) (slice h 32 (fieldBE h 28 2)) none := by
  unfold sfPlace
  extract_lets f
  rw [if_neg (by rw [ha]; exact List.not_mem_nil), ha]

theorem TakesSample.taken (ht : TakesSample s n h) (hp : pickSlot (ctxOf s n) = some k) (st : Bytes) :
    sfTake s n h st = asmPlace (openSample s n k (sfSeq h) st (sfSense h)) n (firstPart s n k h st) (fieldBE h 12 4)
      (slice h 32 (fieldBE h 28 2)) none := by
  rw [ht.sfTake_eq, asmOpen_taken ht.split hp]
  exact sfPlace_first rfl

theorem refused_spec (hw : s.capWf = true) (n : Nat) (seq : W32) :
    (ctxOf (asmRefuse (overrun s n) n seq) n).ovr = (ctxOf s n).ovr + 1 ∧
    (ctxOf (asmRefuse (overrun s n) n seq) n).slots = (ctxOf s n).slots ∧
    (asmRefuse (overrun s n) n seq).mem = s.mem := by
  have hc : ctxOf (asmRefuse (overrun s n) n seq) n = { ctxOf (overrun s n) n with refused := some seq } :=
    (ctxOf_ctxPut _ _ _ (overrun_capWf n hw)).trans (if_pos rfl)
  have ho : ctxOf (overrun s n) n = { ctxOf s n with ovr := (ctxOf s n).ovr + 1 } := (ctxOf_overrun n n hw).trans (if_pos rfl)
  have hm : (overrun s n).mem = s.mem := raiseLimited_mem ..
  rw [hc]
  exact ⟨(congrArg Ctx.ovr ho :), (congrArg Ctx.slots ho :), hm⟩

/-- What an open sample's store leaves of its context. -/
theorem ctxOf_openStore (hw : s.capWf = true) (seq : W32) (st : Bytes) (sense : Option W64) (off : Nat) (d : Bytes) :
    ctxOf (slotStore (openSample s n k seq st sense) n k off d) n =
      { (ctxOf s n).taking k st sense false with newest := some seq } :=
  (ctxOf_congr (slotStore_cap ..) n).trans (ctxOf_openSample hw)

theorem openStore_capWf (hw : s.capWf = true) (seq : W32) (st : Bytes) (sense : Option W64) (off : Nat) (d : Bytes) :
    (slotStore (openSample s n k seq st sense) n k off d).capWf = true :=
  (capWf_congr (slotStore_cap ..)).trans (openSample_capWf hw)

/-- A part of a sample leaves its slot FILLING and the sample open. -/
theorem part_spec {u : State} (hu : u.capWf = true) {c : Ctx} {seq : W32} {sense : Option W64} (hk : k < c.slots.length)
    (hc : ctxOf u n = { c.taking k st sense false with newest := some seq }) (a : CapAsm) :
    let t := ctxPut u n { ctxOf u n with asm := some a }
    (slotAt (ctxOf t n) k).st = .filling ∧ (slotAt (ctxOf t n) k).stamp = st ∧ (ctxOf t n).asm = some a := by
  intro t
  have ht : ctxOf t n = { ctxOf u n with asm := some a } := (ctxOf_ctxPut _ _ _ hu).trans (if_pos rfl)
  have hs : slotAt (ctxOf t n) k = slotAt (c.taking k st sense false) k := by rw [ht, hc]; rfl
  rw [hs, slotAt_taking hk, ht]
  exact ⟨rfl, rfl, rfl⟩

theorem sfPart_spec (hw : s.capWf = true) (ht : TakesSample s n h) (hp : pickSlot (ctxOf s n) = some k)
    (hl : fieldBE h 28 2 < fieldBE h 24 4) :
    (slotAt (ctxOf (sfTake s n h st) n) k).st = .filling ∧ (slotAt (ctxOf (sfTake s n h st) n) k).stamp = st ∧
    ∃ a : CapAsm, (ctxOf (sfTake s n h st) n).asm = some a ∧ a.slot = some k ∧ a.len = some (fieldBE h 24 4) ∧
      a.ranges = [(fieldBE h 12 4, fieldBE h 28 2)] := by
  have he := ht.taken hp st
  rw [asmPlace_more (k := k) rfl _ _ none fun l hl' => by
    obtain rfl := Option.some.inj (hl'.symm.trans (rfl : _ = some (fieldBE h 24 4)))
    rw [slice_length]
    exact covered_part hl] at he
  rw [he]
  obtain ⟨h1, h2, h3⟩ := part_spec (openStore_capWf hw ..) (pickSlot_lt hp) (ctxOf_openStore hw ..) _
  refine ⟨h1, h2, _, h3, rfl, rfl, ?_⟩
  show [] ++ [(fieldBE h 12 4, (slice h 32 (fieldBE h 28 2)).length)] = _
  rw [slice_length]
  rfl

/-- The end of a whole sample: its slot is READY and nothing is open. -/
theorem whole_spec {u : State} (hu : u.capWf = true) {c : Ctx} {seq : W32} {sense : Option W64} (hk : k < c.slots.length)
    (hc : ctxOf u n = { c.taking k st sense false with newest := some seq }) (bs : Bytes) :
    let t := slotReady (slotStore (ctxPut u n { ctxOf u n with asm := none }) n k 0x30 bs) n k
    (slotAt (ctxOf t n) k).st = .ready ∧ (slotAt (ctxOf t n) k).stamp = st ∧ (ctxOf t n).asm = none ∧
    (ctxOf t n).st = 2 ∧ (ctxOf t n).admitted = c.admitted + 1 := by
  intro t
  obtain ⟨v, hv⟩ : ∃ v, slotStore (ctxPut u n { ctxOf u n with asm := none }) n k 0x30 bs = v := ⟨_, rfl⟩
  have hvc : v.cap = (ctxPut u n { ctxOf u n with asm := none }).cap := hv ▸ slotStore_cap ..
  have hvw : v.capWf = true := (capWf_congr hvc).trans (ctxPut_capWf _ _ hu)
  have hcv : ctxOf v n = { c.taking k st sense false with newest := some seq, asm := none } := by
    refine (ctxOf_congr hvc n).trans ((ctxOf_ctxPut _ _ _ hu).trans ((if_pos rfl).trans ?_))
    exact (congrArg (fun c : Ctx => { c with asm := none }) hc :)
  have hl : k < (ctxOf v n).slots.length := by
    rw [hcv]
    exact (slotSet_length c k _).symm ▸ hk
  have hs : slotAt (ctxOf v n) k = slotAt (c.taking k st sense false) k := by rw [hcv]; rfl
  have hsr : slotAt (ctxOf t n) k = _ := (congrArg (fun v => slotAt (ctxOf (slotReady v n k) n) k) hv).trans
    ((slotAt_slotMod n k n k _ hvw hl).trans (if_pos ⟨rfl, rfl⟩))
  have hct : ctxOf t n = _ := (congrArg (fun v => ctxOf (slotReady v n k) n) hv).trans
    ((ctxOf_ctxPut _ _ _ hvw).trans (if_pos rfl))
  rw [hsr, hs, slotAt_taking hk, hct, hcv]
  exact ⟨rfl, rfl, rfl, rfl, rfl⟩

/-- The bytes of a whole sample stand from offset 128 of its slot. -/
theorem whole_rd {w : State} (hm : w.memWf = true) (hw : w.capWf = true) {d : Bytes} (hf : initFenced w 18 = false)
    (hc : actCheck w 18 accStore ((ctxOf w n).slotAddr k + 128) d.length = none)
    (he : ramErr w ((ctxOf w n).slotAddr k + 128) d.length = none) {bs : Bytes} (hb : bs.length = 4) :
    let u := slotStore w n k (128 + 0) d
    (slotReady (slotStore (ctxPut u n { ctxOf u n with asm := none }) n k 0x30 bs) n k).rd
      ((ctxOf w n).slotAddr k + 128) d.length = d := by
  intro u
  have hum : u.memWf = true := capStore_memWf hm _ _
  have hcu : ctxOf u n = ctxOf w n := ctxOf_congr (slotStore_cap ..) n
  have huw : u.capWf = true := (capWf_congr (slotStore_cap ..)).trans hw
  have ha : (ctxOf (ctxPut u n { ctxOf u n with asm := none }) n).slotAddr k = (ctxOf w n).slotAddr k := by
    rw [ctxOf_ctxPut _ _ _ huw, if_pos rfl, ← hcu]
    rfl
  refine (rd_capStore_out (s := ctxPut u n { ctxOf u n with asm := none }) hum (.inr ?_)).trans (rd_capStore hm hf hc he)
  rw [ha, hb]
  omega

theorem sfWhole_spec (hw : s.capWf = true) (hm : s.memWf = true) (hf : initFenced s 18 = false) (ht : TakesSample s n h)
    (hp : pickSlot (ctxOf s n) = some k) (h0 : fieldBE h 12 4 = 0) (hl : fieldBE h 28 2 = fieldBE h 24 4) :
    let t := sfTake s n h st
    (slotAt (ctxOf t n) k).st = .ready ∧ (slotAt (ctxOf t n) k).stamp = st ∧ (ctxOf t n).asm = none ∧
    (ctxOf t n).st = 2 ∧ (ctxOf t n).admitted = (ctxOf s n).admitted + 1 ∧
    (actCheck s 18 accStore ((ctxOf s n).slotAddr k + 128) (fieldBE h 28 2) = none →
      ramErr s ((ctxOf s n).slotAddr k + 128) (fieldBE h 28 2) = none →
      t.rd ((ctxOf s n).slotAddr k + 128) (fieldBE h 28 2) = slice h 32 (fieldBE h 28 2)) := by
  intro t
  obtain ⟨w, hwe⟩ : ∃ w, openSample s n k (sfSeq h) st (sfSense h) = w := ⟨_, rfl⟩
  obtain ⟨d, hd⟩ : ∃ d, slice h 32 (fieldBE h 28 2) = d := ⟨_, rfl⟩
  have hdl : d.length = fieldBE h 28 2 := hd ▸ slice_length ..
  have hww : w.capWf = true := hwe ▸ openSample_capWf hw
  have hwm : w.memWf = true := hwe ▸ admitFrame_memWf hm
  have hwc : ctxOf w n = { (ctxOf s n).taking k st (sfSense h) false with newest := some (sfSeq h) } :=
    hwe ▸ ctxOf_openSample hw
  have hv : w.sansSample = s.sansSample := hwe ▸ openSample_sample
  have hu : ctxOf (slotStore w n k (128 + 0) d) n = ctxOf w n := ctxOf_congr (slotStore_cap ..) n
  have huw : (slotStore w n k (128 + 0) d).capWf = true := (capWf_congr (slotStore_cap ..)).trans hww
  have hs : t = asmEnd (slotStore w n k (128 + 0) d) n ((firstPart s n k h st).placed 0 d.length none) := by
    show sfTake s n h st = _
    rw [ht.taken hp, hwe, hd, h0]
    exact asmPlace_last (a := firstPart s n k h st) (k := k) (l := fieldBE h 24 4) rfl 0 d none rfl
      (by rw [← hl, ← hdl]; exact covered_whole _)
  obtain ⟨bs, hbs, he⟩ := asmEnd_whole (s := slotStore w n k (128 + 0) d) (n := n) (k := k)
    (a := (firstPart s n k h st).placed 0 d.length none) (l := fieldBE h 24 4) (by rw [hu, hwc]; exact ht.kind) rfl rfl
    (by rw [← hl, ← hdl]; exact covered_whole _)
  obtain ⟨h1, h2, h3, h4, h5⟩ := whole_spec huw (pickSlot_lt hp) (hu.trans hwc) bs
  rw [hs, he]
  refine ⟨h1, h2, h3, h4, h5, fun hc hr => ?_⟩
  have haddr : (ctxOf w n).slotAddr k = (ctxOf s n).slotAddr k := by rw [hwc]; rfl
  have hdev : w.dev = s.dev := (congrArg State.dev hv :)
  have hreef : w.reef = s.reef := (congrArg State.reef hv :)
  have hddr : w.ddr = s.ddr := (congrArg State.ddr hv :)
  have hforce : w.act.force = s.act.force := (congrArg (fun s => s.act.force) hv :)
  have hfence : initFenced w 18 = initFenced s 18 := (congrArg (fun s => initFenced s 18) hv :)
  rw [hd]
  rw [← hdl, ← haddr] at hc hr ⊢
  exact whole_rd hwm hww (hfence.trans hf) (actCheck_none_force hforce hc) ((ramErr_congr hdev hreef hddr ..).trans hr) hbs

end

/-! ### RTP packets -/

section
variable {s : State} {n k : Nat} {r : Rtp} {st : Bytes}

theorem rtpTake_opens (ha : (ctxOf s n).asm = none) (hn : (ctxOf s n).newest = none) (hr : (ctxOf s n).refused ≠ some r.ts) :
    rtpTake s n r st = rtpOpen s n r st := by
  unfold rtpTake
  extract_lets c
  rw [if_neg (show ¬ c.refused = some r.ts from hr), show c.asm = none from ha, show c.newest = none from hn]

/-- The open frame after the packet that opens it. -/
def rtpFirst (s : State) (n k : Nat) (r : Rtp) (st : Bytes) : CapAsm :=
  let j := rtpJpeg (ctxOf s n) r.data
  let a := CapAsm.opened (ctxOf s n) k r.ts none st none j.params
  { a with hdr := overwrite a.hdr 0x28 (toLE 4 r.ts.toNat), rtp := { a.rtp with tables := a.rtp.tables.or j.params.tables } }

theorem rtpPlace_good {a : CapAsm} {j : RtpPart} (ha : a.slot = some k) (hj : j.status = 0)
    (hl : j.ofs + j.data.length ≤ (ctxOf s n).tofs.toNat - 128) : rtpPlace s n a false j =
      asmPlace s n { a with rtp := { a.rtp with tables := a.rtp.tables.or j.params.tables } } j.ofs j.data none := by
  have hst : (if j.status ≠ 0 then j.status
      else if (ctxOf s n).tofs.toNat - 128 < j.ofs + j.data.length then 3 else 0) = 0 := by
    rw [if_neg (by rw [hj]; decide : ¬ j.status ≠ 0), if_neg (Nat.not_lt.2 hl)]
  cases a
  cases ha
  exact if_pos hst

theorem rtpOpen_eq (hw : s.capWf = true) (hg : (ctxOf s n).sgrp = 0) (hp : pickSlot (ctxOf s n) = some k)
    (hj : (rtpJpeg (ctxOf s n) r.data).status = 0) (hm : r.marker = false)
    (hl : (rtpJpeg (ctxOf s n) r.data).ofs + (rtpJpeg (ctxOf s n) r.data).data.length ≤ (ctxOf s n).tofs.toNat - 128) :
    rtpOpen s n r st = asmPlace (slotStore (openSample s n k r.ts st none) n k 0x28 (toLE 4 r.ts.toNat)) n
      (rtpFirst s n k r st) (rtpJpeg (ctxOf s n) r.data).ofs (rtpJpeg (ctxOf s n) r.data).data none := by
  have ht : (ctxOf (slotStore (openSample s n k r.ts st none) n k 0x28 (toLE 4 r.ts.toNat)) n).tofs = (ctxOf s n).tofs := by
    rw [ctxOf_openStore hw]
    rfl
  have hl' := hl
  rw [← ht] at hl'
  unfold rtpOpen
  extract_lets j
  rw [asmOpen_taken hg hp, hm]
  exact rtpPlace_good (k := k) rfl hj hl'

theorem rtpTake_spec (hw : s.capWf = true) (ha : (ctxOf s n).asm = none) (hn : (ctxOf s n).newest = none)
    (hg : (ctxOf s n).sgrp = 0) (hr : (ctxOf s n).refused ≠ some r.ts) (hp : pickSlot (ctxOf s n) = some k)
    (hj : (rtpJpeg (ctxOf s n) r.data).status = 0) (hm : r.marker = false)
    (hl : (rtpJpeg (ctxOf s n) r.data).ofs + (rtpJpeg (ctxOf s n) r.data).data.length ≤ (ctxOf s n).tofs.toNat - 128) :
    (slotAt (ctxOf (rtpTake s n r st) n) k).st = .filling ∧ (slotAt (ctxOf (rtpTake s n r st) n) k).stamp = st ∧
    ∃ a : CapAsm, (ctxOf (rtpTake s n r st) n).asm = some a ∧ a.slot = some k ∧ a.seq = r.ts ∧ a.len = none := by
  have he := (rtpTake_opens ha hn hr).trans (rtpOpen_eq (st := st) hw hg hp hj hm hl)
  rw [asmPlace_more (k := k) rfl _ _ none (fun l h => by cases h)] at he
  rw [he]
  have hc := ctxOf_openStore (n := n) (k := k) hw r.ts st none 0x28 (toLE 4 r.ts.toNat)
  have hcw := openStore_capWf (n := n) (k := k) hw r.ts st none 0x28 (toLE 4 r.ts.toNat)
  obtain ⟨h1, h2, h3⟩ := part_spec ((capWf_congr (slotStore_cap ..)).trans hcw) (pickSlot_lt hp)
    ((ctxOf_congr (slotStore_cap ..) n).trans hc) _
  exact ⟨h1, h2, _, h3, rfl, rfl, rfl⟩

end

/-! ### Records and packets of a port -/

section
variable {s : State} {e : CanPort}

theorem ingressRecord_spec (hd : domUp s 17 = true) (r : Bytes) :
    (capUp s = false → exec (.ingressRecord e r) s = .next { s with cap.stats := vmod s.cap.stats 6 (· + 1) }) ∧
    (capUp s = true → actCheck s 26 accStore (capBase + 0x40000 + e.val * 0x10000) (ingressSize r) = none →
      (ingressUsed (s.cap.ingress.get e) + ingressSize r ≤ 0x10000 → exec (.ingressRecord e r) s = .next { s with
        cap.ingress := vput s.cap.ingress e (s.cap.ingress.get e ++ [(r, stampAt s (fieldLE r 0 8))]) }) ∧
      (0x10000 < ingressUsed (s.cap.ingress.get e) + ingressSize r →
        exec (.ingressRecord e r) s = .next { s with cap.stats := vmod s.cap.stats 6 (· + 1) })) ∧
    (∀ u : State, capUp s = true →
      actCheck s 26 accStore (capBase + 0x40000 + e.val * 0x10000) (ingressSize r) = some u →
      exec (.ingressRecord e r) s = .next u) := by
  have he : exec (.ingressRecord e r) s = if !capUp s then .next (capStat s 6) else
      match actCheck s 26 accStore (capBase + 0x40000 + e.val * 0x10000) (ingressSize r) with
      | some t => .next t
      | none =>
        if ingressUsed (s.cap.ingress.get e) + ingressSize r ≤ 0x10000 then
          .next { s with cap.ingress := vput s.cap.ingress e (s.cap.ingress.get e ++ [(r, stampAt s (fieldLE r 0 8))]) }
        else .next (capStat s 6) := if_neg (by rw [hd]; decide)
  refine ⟨fun hu => ?_, fun hu hc => ⟨fun hl => ?_, fun hl => ?_⟩, fun u hu hc => ?_⟩
  · rw [hu] at he
    exact he
  · rw [hu, hc] at he
    exact he.trans (if_pos hl)
  · rw [hu, hc] at he
    exact he.trans (if_neg (Nat.not_le.2 hl))
  · rw [hu, hc] at he
    exact he

theorem exec_sframeFragment (hu : capUp s = true) : exec (.sframeFragment e) s =
    match ingressHead s e with
    | .sf u st => .next (sframe (ingressPop s e) e.val u st)
    | .bad => .next (capStat (ingressPop s e) 2)
    | .other => .next (ingressPop s e)
    | _ => .next s := if_pos hu

theorem exec_rtpPacket_rtp (hu : capUp s = true) {u : Udp} {st : Bytes} (h : ingressHead s e = .rtp u st) :
    exec (.rtpPacket e) s = match rtpOf u.data with
      | none => .next (capStat (ingressPop s e) 0)
      | some r =>
        match findCtx (ingressPop s e) fun c => c.kind == 2 && ethFits e.val u.src c && c.match1.toNat == r.ssrc with
        | none => .next (capStat (ingressPop s e) 0)
        | some n => .next (rtpTake (ingressPop s e) n r st) := by
  refine (if_pos hu : execRtpPacket e s = _).trans ?_
  rw [h] <;> rfl

theorem unexamined_spec (hu : capUp s = true) :
    (ingressHead s e = .none → exec (.sframeFragment e) s = .next s ∧ exec (.rtpPacket e) s = .next s) ∧
    (ingressHead s e = .bad → exec (.sframeFragment e) s = .next (capStat (ingressPop s e) 2) ∧
      exec (.rtpPacket e) s = .next (capStat (ingressPop s e) 2)) ∧
    (ingressHead s e = .other → exec (.sframeFragment e) s = .next (ingressPop s e) ∧
      exec (.rtpPacket e) s = .next (ingressPop s e)) ∧
    (∀ u st, ingressHead s e = .sf u st → exec (.rtpPacket e) s = .next s) := by
  have h1 := exec_sframeFragment (e := e) hu
  have h2 : ∀ i, ingressHead s e = i → exec (.rtpPacket e) s = _ := fun i h =>
    (if_pos hu : execRtpPacket e s = _).trans (by rw [h])
  refine ⟨fun h => ⟨?_, h2 _ h⟩, fun h => ⟨?_, h2 _ h⟩, fun h => ⟨?_, h2 _ h⟩, fun u st h => h2 _ h⟩
  all_goals
    rw [h] at h1
    exact h1

end

/-- Settles O34: what CAP makes of the oldest record of a port, from a sample's opening to its end. -/
theorem ingressAndFrames : Obligations.IngressAndFrames := by
  unfold Obligations.IngressAndFrames
  intro e s hw hm
  refine ⟨fun hd r => ingressRecord_spec hd r, fun hu => ?_⟩
  obtain ⟨hnone, hbad, hother, hrtp⟩ := unexamined_spec (e := e) hu
  have hfree := capUp_notFenced hu
  intro popped counted
  have hpw : popped.capWf = true := hw
  refine ⟨hnone, hbad, hother, fun u st hi => ?_, fun u st hi => ?_⟩
  · have he := exec_sframeFragment (e := e) hu
    rw [hi] at he
    have hsf : sfHeaderOk u = true → ∀ o, (findCtx popped fun c => (c.kind == 0 || c.kind == 1) && ethFits e.val u.src c &&
        c.match1.toNat == fieldBE u.data 4 4) = o → sframe popped e.val u st = match o with
          | none => capStat popped 0
          | some n => if (byteAt u.data 2 == 0x10) != ((ctxOf popped n).kind == 1) then capStat popped 3
            else sfTake popped n u.data st := fun ho o hf => by
      unfold sframe
      rw [ho, if_neg (by decide), hf] <;> rfl
    refine ⟨fun ho => he.trans (congrArg _ (if_pos (by rw [ho]; rfl))), fun ho n => ?_,
      fun ho hf => he.trans (congrArg _ (hsf ho none hf)), hrtp u st hi⟩
    intro c len here hf hk hb ha hn hg hr hl
    have ht : TakesSample popped n u.data := ⟨hk, ha, hn, hg, hr, hl⟩
    have hte : exec (.sframeFragment e) s = .next (sfTake popped n u.data st) := by
      refine he.trans (congrArg _ ((hsf ho (some n) hf).trans (if_neg ?_)))
      rw [show (ctxOf popped n).kind = 0 from hk, beq_eq_false_iff_ne.2 hb]
      decide
    refine ⟨fun hp => .intro hte ?_, fun k hp => ⟨fun h0 hhl => .intro hte ?_, fun hhl => .intro hte ?_⟩⟩
    · rw [ht.full hp]
      exact refused_spec hpw n _
    · obtain ⟨h1, h2, h3, h4, h5, h6⟩ := sfWhole_spec (s := popped) (st := st) hpw hm hfree ht hp h0 hhl
      exact ⟨h1, h2, h3, h4, h5, fun hc hr => h6 (actCheck_none_force (s := s) (t := popped) rfl hc) ((ramErr_congr (s := s) (t := popped) rfl rfl rfl _ _).trans hr)⟩
    · exact sfPart_spec hpw ht hp hhl
  · have he := exec_rtpPacket_rtp hu hi
    refine ⟨fun h => ?_, fun r h hf => ?_, fun r n k h hf => ?_⟩
    · rw [h] at he
      exact he
    · rw [h] at he
      dsimp only at he
      exact he.trans (by rw [show findCtx (ingressPop s e) _ = none from hf] <;> rfl)
    · intro c j ha hn hg hr hp hj hmk hl
      rw [h] at he
      dsimp only at he
      refine .intro (he.trans (by rw [show findCtx (ingressPop s e) _ = some n from hf])) ?_
      exact rtpTake_spec hpw ha hn hg hr hp hj hmk hl

end Sys2Proof.Machine

end

section

namespace Sys2Proof.Machine

/-! ## Jobs and their courses -/

section
variable {s : State}

theorem jobOf_tag {tag : W16} {j : Job} (h : jobOf s tag = some j) : j.tag = tag := by
  simpa using List.find?_some h

theorem jobOf_congr {s t : State} (h : t.csc.jobs = s.csc.jobs) (tag : W16) : jobOf t tag = jobOf s tag := by
  rw [jobOf, jobOf, h]

/-- A job after one of the jobs is changed. -/
theorem jobOf_jobMod (s : State) {f : Job → Job} (hf : ∀ j, (f j).tag = j.tag) (tag t : W16) :
    jobOf (jobMod s tag f) t = if t = tag then (jobOf s t).map f else jobOf s t := by
  have ht : ∀ j : Job, (if j.tag = tag then f j else j).tag = j.tag := fun j => by
    split
    · exact hf j
    · rfl
  unfold jobOf jobMod
  dsimp only
  rw [List.find?_map]
  have hp : ((fun j : Job => j.tag == t) ∘ fun j => if j.tag = tag then f j else j) = fun j => j.tag == t := by
    funext j
    exact congrArg (· == t) (ht j)
  rw [hp]
  cases h : s.csc.jobs.find? fun j => j.tag == t with
  | none => split <;> rfl
  | some j =>
    have hj : j.tag = t := by simpa using List.find?_some h
    subst hj
    split <;> simp_all

theorem jobOf_jobMod_same {f : Job → Job} (hf : ∀ j, (f j).tag = j.tag) {tag : W16} {j : Job} (h : jobOf s tag = some j) :
    jobOf (jobMod s tag f) tag = some (f j) := by
  rw [jobOf_jobMod s hf, if_pos rfl, h]
  rfl

theorem setCourse_tag (j : Job) (g k : Nat) (f : Course → Course) : (j.setCourse g k f).tag = j.tag := rfl

/-- A course of this chip after it is changed. -/
theorem jobOf_courseMod {q : CourseTag} (ho : q.isOwn s = true) {j : Job} (h : jobOf s q.job = some j) (f : Course → Course) :
    jobOf (courseMod s q f) q.job = some (j.setCourse q.group.val q.course.toNat f) := by
  rw [courseMod, if_pos ho]
  exact jobOf_jobMod_same (fun j => setCourse_tag j _ _ f) h

theorem course_setCourse (j : Job) {g k : Nat} (f : Course → Course) (hk : k < (j.groups.getD g []).length) :
    (j.setCourse g k f).course g k = f (j.course g k) := by
  have hg : g < j.groups.length := by
    by_contra h
    rw [List.getD_eq_getElem?_getD, List.getElem?_eq_none (Nat.le_of_not_lt h)] at hk
    exact absurd hk (Nat.not_lt_zero _)
  rw [List.getD_eq_getElem?_getD, List.getElem?_eq_getElem hg] at hk
  unfold Job.course Job.setCourse
  simp only [List.getD_eq_getElem?_getD, List.getElem?_modify]
  simp only [List.getElem?_eq_getElem hg, Option.map_eq_map, Option.map_some, Option.getD_some, if_true] at hk ⊢
  rw [List.getElem?_modify, List.getElem?_eq_getElem hk]
  simp only [Option.map_eq_map, Option.map_some, if_true]
  rfl

theorem tagOf_isOwn (s : State) (j : Job) (g k : Nat) : (tagOf s j g k).isOwn s = true := beq_self_eq_true _

theorem tagOf_group (s : State) (j : Job) {g : Nat} (hg : g < 64) (k : Nat) : (tagOf s j g k).group.val = g :=
  Nat.mod_eq_of_lt hg

theorem tagOf_course (s : State) (j : Job) (g : Nat) {k : Nat} (hk : k < 4096) : (tagOf s j g k).course.toNat = k :=
  Nat.mod_eq_of_lt hk

end

/-! ## What leaves every job its deadline's outcome -/

/-- Every job of a state is in the other, with the same end, and DEGRADED where it was. -/
def JobsKeep (s t : State) : Prop := ∀ tag j, jobOf s tag = some j →
  ∃ k, jobOf t tag = some k ∧ k.expired = j.expired ∧ k.stop = j.stop ∧ (j.degraded = true → k.degraded = true)

section
variable {s t u : State}

theorem JobsKeep.refl (s : State) : JobsKeep s s := fun _ j h => ⟨j, h, rfl, rfl, id⟩

theorem JobsKeep.trans (h1 : JobsKeep s t) (h2 : JobsKeep t u) : JobsKeep s u := fun tag j h => by
  obtain ⟨k, hk, e1, e2, e3⟩ := h1 tag j h
  obtain ⟨l, hl, f1, f2, f3⟩ := h2 tag k hk
  exact ⟨l, hl, f1.trans e1, f2.trans e2, fun hd => f3 (e3 hd)⟩

theorem JobsKeep.of_jobs (h : t.csc.jobs = s.csc.jobs) : JobsKeep s t := fun tag j hj =>
  ⟨j, (jobOf_congr h tag).trans hj, rfl, rfl, id⟩

theorem JobsKeep.jobMod (tag : W16) {f : Job → Job} (hf : ∀ j, (f j).tag = j.tag ∧ (f j).expired = j.expired ∧
    (f j).stop = j.stop ∧ (j.degraded = true → (f j).degraded = true)) : JobsKeep s (jobMod s tag f) := fun t j h => by
  rw [jobOf_jobMod s fun j => (hf j).1, h]
  split
  · exact ⟨f j, rfl, (hf j).2⟩
  · exact ⟨j, rfl, rfl, rfl, id⟩

theorem JobsKeep.courseMod (q : CourseTag) (f : Course → Course) : JobsKeep s (courseMod s q f) := by
  unfold Machine.courseMod
  split
  · exact JobsKeep.jobMod _ fun _ => ⟨rfl, rfl, rfl, id⟩
  · exact .refl s

theorem JobsKeep.foldl {α : Type} {f : State → α → State} (hf : ∀ u a, JobsKeep u (f u a)) (l : List α) (s : State) :
    JobsKeep s (l.foldl f s) := by
  induction l generalizing s with
  | nil => exact .refl s
  | cons a l ih => exact (hf s a).trans (ih _)

theorem cancelPre_keepJobs (s : State) (c : CoreId) : JobsKeep s (cancelPre s c) := by
  unfold cancelPre
  split
  · exact .refl s
  · exact .of_jobs rfl

theorem returnPre_keepJobs (s : State) (c : CoreId) (drop : Bool) : JobsKeep s (returnPre s c drop) := by
  unfold returnPre
  split
  · exact .refl s
  · exact (JobsKeep.courseMod _ _).trans (cancelPre_keepJobs _ _)

theorem recallCore_keepJobs (s : State) (c : CoreId) (rq : Bool) : JobsKeep s (recallCore s c rq) := by
  unfold recallCore
  split
  · exact .refl s
  · split
    · exact .refl s
    · exact (JobsKeep.courseMod _ _).trans (.of_jobs rfl)

theorem obdCloseDropped_keepJobs (s : State) (tag : W16) : JobsKeep s (obdCloseDropped s tag) := by
  unfold obdCloseDropped
  split
  · exact .refl s
  · exact .of_jobs rfl

/-- What stopping a job does after the job's end is set. -/
theorem stopJob_keepJobs {tag : W16} {j : Job} (h : jobOf s tag = some j) (cause : BitVec 3) (fault : W32) :
    JobsKeep (jobMod s tag fun j => j.end_ cause fault) (stopJob s tag cause fault) := by
  unfold stopJob
  rw [h]
  dsimp only
  refine .trans ?_ (obdCloseDropped_keepJobs _ _)
  refine .trans ?_ (JobsKeep.jobMod _ fun _ => ⟨rfl, rfl, rfl, id⟩)
  have hf : ∀ (u : State), JobsKeep u (allCores.foldl (fun t c => if workFor t (coreOf t c).cur tag then recallCore t c false else t)
      (allCores.foldl (fun t c => if workFor t (coreOf t c).pre tag then returnPre t c true else t) u)) := fun u =>
    (JobsKeep.foldl (fun u c => by
      split
      · exact returnPre_keepJobs _ _ _
      · exact .refl u) _ _).trans (JobsKeep.foldl (fun u c => by
      split
      · exact recallCore_keepJobs _ _ _
      · exact .refl u) _ _)
  split
  · exact (hf _).trans (JobsKeep.courseMod _ _)
  · exact hf _

theorem end_tag (j : Job) (cause : BitVec 3) (fault : W32) : (j.end_ cause fault).tag = j.tag := by
  unfold Job.end_
  split
  · split <;> rfl
  · rfl

theorem end_expired (j : Job) (cause : BitVec 3) (fault : W32) : (j.end_ cause fault).expired = j.expired := by
  unfold Job.end_
  split
  · split <;> rfl
  · rfl

theorem end_degraded (j : Job) (cause : BitVec 3) (fault : W32) : (j.end_ cause fault).degraded = j.degraded := by
  unfold Job.end_
  split
  · split <;> rfl
  · rfl

/-- A job that is stopped keeps its place: it ends with the higher of the two causes. -/
theorem jobOf_stopJob {tag : W16} {j : Job} (h : jobOf s tag = some j) (cause : BitVec 3) (fault : W32) :
    ∃ k, jobOf (stopJob s tag cause fault) tag = some k ∧ k.expired = j.expired ∧ k.stop = (j.end_ cause fault).stop ∧
      (j.degraded = true → k.degraded = true) := by
  obtain ⟨k, hk, e1, e2, e3⟩ := stopJob_keepJobs h cause fault tag _
    (jobOf_jobMod_same (f := fun j => j.end_ cause fault) (fun j => end_tag j cause fault) h)
  exact ⟨k, hk, e1.trans (end_expired ..), e2, fun hd => e3 ((end_degraded ..).trans hd)⟩

end

/-! ## What the CSC's accesses to memory leave -/

section
variable (s : State)

theorem seqRead_csc (init : Nat) (own : Option CoreId) (a n : Nat) : (seqRead s init own a n).2.csc = s.csc :=
  (congrArg State.csc (seqRead_access s init own a n) :)

theorem seqWrite_csc (init : Nat) (own : Option CoreId) (a : Nat) (bs : Bytes) :
    (seqWrite s init own a bs).2.csc = s.csc := (congrArg State.csc (seqWrite_access s init own a bs) :)

theorem seqRead_spar (init : Nat) (own : Option CoreId) (a n : Nat) : (seqRead s init own a n).2.spar = s.spar :=
  (congrArg State.spar (seqRead_access s init own a n) :)

end

end Sys2Proof.Machine

end

section

namespace Sys2Proof.Machine

/-! ## Plans, jobs and deadlines (O40) -/

/-! ### Plan slots -/

section
variable {s : State} {p : PhtSlotId} {v : W32}

theorem planOf_planMod (s : State) (p q : PhtSlotId) (f : PlanSlot → PlanSlot) :
    planOf (planMod s p f) q = if q = p then f (planOf s p) else planOf s q := vmod_get ..

theorem exec_planLoad (hu : cscUp s = true) : exec (.planLoad p v) s = .next (planLoadWrite s p v) := if_pos hu

theorem planLoadWrite_load (hv : v.getLsbD 0 = true) (hb : planBusy s p = false) : planLoadWrite s p v = planLoad s p :=
  if_pos (by rw [hv, hb]; rfl)

theorem planLoadWrite_ignored (h : v.getLsbD 0 = false ∨ planBusy s p = true) : planLoadWrite s p v = s := by
  refine if_neg (fun hc => ?_)
  simp only [Bool.and_eq_true, Bool.not_eq_true'] at hc
  rcases h with h | h
  · exact Bool.false_ne_true (h.symm.trans hc.1)
  · exact Bool.false_ne_true (hc.2.symm.trans h)

/-- The slot that a LOAD which fails leaves. -/
def planInvalid (t : State) (p : PhtSlotId) : State := planMod t p fun x => { x with state := 2, groups := [] }

theorem planInvalid_spec (t : State) (p : PhtSlotId) : (planOf (planInvalid t p) p).state = 2 ∧
    (planOf (planInvalid t p) p).groups = [] := by
  rw [planInvalid, planOf_planMod, if_pos rfl]
  exact ⟨rfl, rfl⟩

/-- A plan's header is not one that can be run. -/
def badHeader (h : Bytes) : Prop :=
  fieldLE h 0 4 ≠ 0x574A504C ∨ fieldLE h 4 2 ≠ 1 ∨ fieldLE h 6 2 < 1 ∨ 64 < fieldLE h 6 2 ∨
    120 * 1024 < fieldLE h 0xC 4 ∨ 2048 < fieldLE h 0x14 4

theorem planLoad_unread {e : BusErr} {u : State} (hr : seqRead s 20 none (planOf s p).image.toNat 64 = (.error e, u)) :
    planLoad s p = planInvalid u p := by
  unfold planLoad
  extract_lets img bad
  rw [show seqRead s cscInit none img 64 = _ from hr] <;> rfl

theorem planLoad_badHeader {h : Bytes} {u : State}
    (hr : seqRead s 20 none (planOf s p).image.toNat 64 = (.ok h, u)) (hb : badHeader h) :
    planLoad s p = planInvalid u p := by
  unfold planLoad
  extract_lets img bad
  rw [show seqRead s cscInit none img 64 = _ from hr]
  exact if_pos hb

/-- The group records of a plan. -/
def planRecords (gs : Bytes) (n : Nat) : List Bytes := (List.range n).map fun i => slice gs (64 * i) 64

/-- Every record of a plan can be run. -/
def planRecordsOk (s : State) (gs : Bytes) (n : Nat) : Bool :=
  (planRecords gs n).all fun b => (groupOf b).ok b n s.csc.stgSize.toNat

theorem planLoad_badRecord {h gs : Bytes} {u w : State}
    (hr : seqRead s 20 none (planOf s p).image.toNat 64 = (.ok h, u)) (hb : ¬ badHeader h)
    (hg : seqRead u 20 none ((planOf s p).image.toNat + fieldLE h 0x18 4) (64 * fieldLE h 6 2) = (.ok gs, w))
    (ho : planRecordsOk s gs (fieldLE h 6 2) = false) : planLoad s p = planInvalid w p := by
  unfold planLoad
  extract_lets img bad
  rw [show seqRead s cscInit none img 64 = _ from hr]
  refine (if_neg hb).trans ?_
  rw [show seqRead u cscInit none _ _ = _ from hg]
  exact if_neg (Bool.eq_false_iff.1 ho)

/-- A plan slot that has taken a plan. -/
def PlanSlot.loaded (x : PlanSlot) (h gs : Bytes) : PlanSlot :=
  { x with
    state := 1, codeOff := BitVec.ofNat 32 (fieldLE h 8 4), codeLen := BitVec.ofNat 32 (fieldLE h 0xC 4),
    srfOff := BitVec.ofNat 32 (fieldLE h 0x10 4), srfN := BitVec.ofNat 32 (fieldLE h 0x14 4),
    rptLimit := BitVec.ofNat 16 (fieldLE h 0x1C 2), haloWait := BitVec.ofNat 16 (fieldLE h 0x1E 2),
    hash := BitVec.ofNat 64 (fieldLE h 0x20 8), groups := (planRecords gs (fieldLE h 6 2)).map groupOf }

theorem planLoad_good {h gs : Bytes} {u w : State}
    (hr : seqRead s 20 none (planOf s p).image.toNat 64 = (.ok h, u)) (hb : ¬ badHeader h)
    (hg : seqRead u 20 none ((planOf s p).image.toNat + fieldLE h 0x18 4) (64 * fieldLE h 6 2) = (.ok gs, w))
    (ho : planRecordsOk s gs (fieldLE h 6 2) = true) : planLoad s p =
      { planMod w p (·.loaded h gs) with
        spar := (planMod w p (·.loaded h gs)).spar.map fun x => if x.plan = some p then { x with plan := none } else x } := by
  unfold planLoad
  extract_lets img bad
  rw [show seqRead s cscInit none img 64 = _ from hr]
  refine (if_neg hb).trans ?_
  rw [show seqRead u cscInit none _ _ = _ from hg]
  exact if_pos ho

theorem planLoad_spec (hu : cscUp s = true) (hv : v.getLsbD 0 = true) (hb : planBusy s p = false) {h : Bytes} {u : State}
    (hr : seqRead s 20 none (planOf s p).image.toNat 64 = (.ok h, u)) :
    let invalid := Gives (.planLoad p v) s fun t => (planOf t p).state = 2 ∧ (planOf t p).groups = []
    (badHeader h → invalid) ∧
    (¬ badHeader h → ∀ (gs : Bytes) (w : State),
      seqRead u 20 none ((planOf s p).image.toNat + fieldLE h 0x18 4) (64 * fieldLE h 6 2) = (.ok gs, w) →
      (planRecordsOk s gs (fieldLE h 6 2) = false → invalid) ∧
      (planRecordsOk s gs (fieldLE h 6 2) = true → Gives (.planLoad p v) s fun t => (planOf t p).state = 1 ∧
        (planOf t p).hash = BitVec.ofNat 64 (fieldLE h 0x20 8) ∧
        (planOf t p).groups = (planRecords gs (fieldLE h 6 2)).map groupOf ∧
        ∀ q : PhtSlotId, q ≠ p → planOf t q = planOf s q)) := by
  have he : exec (.planLoad p v) s = .next (planLoad s p) :=
    (exec_planLoad hu).trans (congrArg _ (planLoadWrite_load hv hb))
  refine ⟨fun hh => .intro (he.trans (congrArg _ (planLoad_badHeader hr hh))) (planInvalid_spec u p), fun hh gs w hg =>
    ⟨fun ho => .intro (he.trans (congrArg _ (planLoad_badRecord hr hh hg ho))) (planInvalid_spec w p), fun ho => .intro he ?_⟩⟩
  have hw : w.csc = s.csc := by
    have h1 := seqRead_csc s 20 none (planOf s p).image.toNat 64
    have h2 := seqRead_csc u 20 none ((planOf s p).image.toNat + fieldLE h 0x18 4) (64 * fieldLE h 6 2)
    rw [hr] at h1
    rw [hg] at h2
    exact h2.trans h1
  have hp : ∀ q, planOf (planLoad s p) q = if q = p then (planOf w p).loaded h gs else planOf w q := fun q => by
    rw [planLoad_good hr hh hg ho]
    exact planOf_planMod w p q _
  rw [hp, if_pos rfl]
  refine ⟨rfl, rfl, rfl, fun q hq => ?_⟩
  rw [hp, if_neg hq, planOf, planOf, hw]

end

/-! ### A plan on a core -/

section
variable {s : State}

theorem planCoreLoad_ok {c : CoreId} {p : PhtSlotId} {code tab : Bytes} {u w : State}
    (h1 : seqRead s 20 none ((planOf s p).image.toNat + (planOf s p).codeOff.toNat) (planOf s p).codeLen.toNat = (.ok code, u))
    (h2 : seqRead u 20 none ((planOf s p).image.toNat + (planOf s p).srfOff.toNat) (4 * (planOf s p).srfN.toNat) = (.ok tab, w)) :
    ∃ f : SparCore → SparCore, planCoreLoad s c p = some (coreMod (w.wr (itcmBase c.val) code) c f) ∧
      ∀ x, (f x).plan = some p := by
  unfold planCoreLoad
  extract_lets x img
  rw [show seqRead s cscInit none _ _ = _ from h1]
  dsimp only
  rw [show seqRead u cscInit none _ _ = _ from h2]
  exact ⟨_, rfl, fun x => rfl⟩

theorem planCoreLoad_spec (hu : cscUp s = true) {c : CoreId} {j : Job} {gi k e : Nat} {g : Group}
    {rest : List (Job × Nat × Nat)} {code tab : Bytes} {u w : State} (hf : coreFree s c = true)
    (hl : readyList s = (j, gi, k) :: rest) (hg : planGroup s j gi = some g) (he : sparEntry s g = some e)
    (hp : (coreOf s c).plan ≠ some j.plan) (hm : s.memWf = true)
    (h1 : seqRead s 20 none ((planOf s j.plan).image.toNat + (planOf s j.plan).codeOff.toNat)
      (planOf s j.plan).codeLen.toNat = (.ok code, u))
    (h2 : seqRead u 20 none ((planOf s j.plan).image.toNat + (planOf s j.plan).srfOff.toNat)
      (4 * (planOf s j.plan).srfN.toNat) = (.ok tab, w)) :
    Gives (.planCoreLoad c) s fun t => (coreOf t c).plan = some j.plan ∧ t.rd (itcmBase c.val) code.length = code ∧
      (∀ d : CoreId, d ≠ c → coreOf t d = coreOf s d) := by
  obtain ⟨f, hpl, hpf⟩ := planCoreLoad_ok (c := c) h1 h2
  have hx : exec (.planCoreLoad c) s = .next (coreMod (w.wr (itcmBase c.val) code) c f) := by
    refine (if_neg (by rw [hu, hf]; decide) : execPlanCoreLoad c s = _).trans ?_
    rw [hl, List.find?_cons_of_pos (by dsimp only; rw [hg]; dsimp only; rw [he]; simpa using hp)]
    dsimp only
    rw [hpl]
  have hmem : w.mem = s.mem := by
    have e1 := seqRead_mem s 20 none ((planOf s j.plan).image.toNat + (planOf s j.plan).codeOff.toNat)
      (planOf s j.plan).codeLen.toNat
    have e2 := seqRead_mem u 20 none ((planOf s j.plan).image.toNat + (planOf s j.plan).srfOff.toNat)
      (4 * (planOf s j.plan).srfN.toNat)
    rw [h1] at e1
    rw [h2] at e2
    exact e2.trans e1
  have hspar : w.spar = s.spar := by
    have e1 := seqRead_spar s 20 none ((planOf s j.plan).image.toNat + (planOf s j.plan).codeOff.toNat)
      (planOf s j.plan).codeLen.toNat
    have e2 := seqRead_spar u 20 none ((planOf s j.plan).image.toNat + (planOf s j.plan).srfOff.toNat)
      (4 * (planOf s j.plan).srfN.toNat)
    rw [h1] at e1
    rw [h2] at e2
    exact e2.trans e1
  refine .intro hx ⟨?_, ?_, fun d hd => ?_⟩
  · rw [coreOf_coreMod_same]
    exact hpf _
  · have hwm : Tbl.wf memDflt w.mem = true := hmem ▸ hm
    exact State.rd_wr (s := w) (itcmBase c.val) code hwm
  · have hc : coreOf (coreMod (w.wr (itcmBase c.val) code) c f) d = coreOf w d :=
      (coreOf_coreMod ..).trans (if_neg hd)
    rw [hc, coreOf, coreOf, hspar]

end

/-! ### Jobs taken and completed -/

section
variable (s : State)

theorem advanceDone_taken (n : Nat) (x : Queue) : (x.advanceDone n).taken = x.taken := by
  induction n generalizing x with
  | zero => rfl
  | succ n ih =>
    unfold Queue.advanceDone
    split
    · exact ih _
    · rfl

/-- The parts of a state that a slot's completion and the count of late jobs leave. -/
theorem completeSlot_fields (q : QueueId) (i : BitVec 9) : (completeSlot s q i).csc = s.csc ∧
    (completeSlot s q i).mem = s.mem ∧ ((completeSlot s q i).cleatB.get q).taken = (s.cleatB.get q).taken := by
  unfold completeSlot
  extract_lets x y t
  have ht : (t.cleatB.get q).taken = (s.cleatB.get q).taken :=
    (congrArg Queue.taken (vput_get_same s.cleatB q y)).trans (advanceDone_taken ..)
  split
  · unfold msixRaise
    split <;> exact ⟨rfl, rfl, ht⟩
  · exact ⟨rfl, rfl, ht⟩

theorem countLate_fields (j : Job) : (countLate s j).csc = s.csc ∧ (countLate s j).mem = s.mem ∧
    (countLate s j).cleatB = s.cleatB := by
  unfold countLate
  split
  · exact ⟨raiseLimited_csc .., raiseLimited_mem .., raiseLimited_cleatB ..⟩
  · exact ⟨rfl, rfl, rfl⟩

/-- What a completed job leaves: its record stands in its slot, it is no job any more, and its queue counts it. -/
theorem completeJob_fields (j : Job) :
    (completeJob s j).csc.lastTag = s.csc.lastTag ∧
    (completeJob s j).csc.jobs = s.csc.jobs.filter (fun k => k.tag ≠ j.tag) ∧
    (completeJob s j).csc.jobsDone.get j.queue = s.csc.jobsDone.get j.queue + 1 ∧
    ((completeJob s j).cleatB.get j.queue).taken = (s.cleatB.get j.queue).taken ∧
    (completeJob s j).mem = (s.wr (slotAddr j.queue j.idx + 56) (completionRecord s j)).mem := by
  unfold completeJob
  extract_lets r a b _ _ c
  have hb : b.sansSlots = a.sansSlots := freeAll_slots a j.held
  have hbc : b.csc = s.csc := (congrArg State.csc hb :).trans rfl
  have hbm : b.mem = a.mem := (congrArg State.mem hb :)
  have hbq : b.cleatB = s.cleatB := (congrArg State.cleatB hb :).trans rfl
  obtain ⟨h1, h2, h3⟩ := countLate_fields (completeSlot c j.queue j.idx) j
  obtain ⟨g1, g2, g3⟩ := completeSlot_fields c j.queue j.idx
  have hc1 : c.csc.lastTag = b.csc.lastTag := rfl
  have hc2 : c.csc.jobs = b.csc.jobs.filter (fun k => k.tag ≠ j.tag) := rfl
  have hc3 : c.csc.jobsDone.get j.queue = b.csc.jobsDone.get j.queue + 1 := vmod_get_same ..
  have hc4 : c.cleatB = b.cleatB := rfl
  have hc5 : c.mem = b.mem := rfl
  clear_value b c
  refine ⟨?_, ?_, ?_, ?_, ?_⟩
  · rw [h1, g1, hc1, hbc]
  · rw [h1, g1, hc2, hbc]
  · rw [h1, g1, hc3, hbc]
  · rw [h3, g3, hc4, hbq]
  · rw [h2, g2, hc5, hbm]

/-- What taking a head leaves: the job is the last, under the last tag, and its queue's next job follows. -/
theorem takeHead_fields (q : QueueId) (j : Job) (o : Option ASetOffered) :
    (takeHead s q j o).csc = { s.csc with lastTag := j.tag, jobs := s.csc.jobs ++ [j] } ∧
    ((takeHead s q j o).cleatB.get q).taken = (s.cleatB.get q).taken + 1 ∧
    ((takeHead s q j o).cleatB.get q).done = (s.cleatB.get q).done ∧ (takeHead s q j o).mem = s.mem ∧
    (takeHead s q j o).cleatC = s.cleatC := by
  unfold takeHead
  extract_lets x _ a b
  have hb : b.sansSlots = a.sansSlots := foldl_view (V := State.sansSlots) (fun _ _ => slotMod_slots ..) j.held a
  have h1 : b.csc = a.csc := (congrArg State.csc hb :)
  have h2 : b.mem = a.mem := (congrArg State.mem hb :)
  have h3 : b.cleatB = a.cleatB := (congrArg State.cleatB hb :)
  have h4 : b.cleatC = a.cleatC := (congrArg State.cleatC hb :)
  have hq : ∀ y : Queue, (vput s.cleatB q y).get q = y := fun y => vput_get_same ..
  have hall : b.csc = { s.csc with lastTag := j.tag, jobs := s.csc.jobs ++ [j] } ∧
      (b.cleatB.get q).taken = (s.cleatB.get q).taken + 1 ∧ (b.cleatB.get q).done = (s.cleatB.get q).done ∧
      b.mem = s.mem ∧ b.cleatC = s.cleatC := by
    rw [h1, h2, h3, h4]
    refine ⟨rfl, ?_, ?_, rfl, rfl⟩
    · exact congrArg Queue.taken (hq _)
    · exact (congrArg Queue.done (hq _)).trans rfl
  cases o with
  | none => exact hall
  | some a => exact hall

end

section
variable {s : State}

theorem jobTake_none (hn : pickHead s = none) : exec .jobTake s = .next s := by
  show execJobTake s = _
  unfold execJobTake
  split
  · rfl
  · rw [hn]

theorem exec_jobTake (hu : cscUp s = true) (hen : s.csc.en = true) {q : QueueId} {b : Bytes} (hp : pickHead s = some q)
    (hh : headJob s q = some b) : exec .jobTake s =
      if badJob s b = true then
        .next (completeJob (takeHead s q { newJob s q b [] with stop := some 6, groups := [], held := [] } none)
          { newJob s q b [] with stop := some 6, groups := [], held := [] })
      else match jobInput s b with
        | none => .next s
        | some (held, o) =>
          let j := newJob s q b held
          let late := deadlinePassed s j.deadline
          if late ∧ j.drop then
            .next (completeJob (takeHead s q { j with stop := some 2, groups := [] } o) { j with stop := some 2, groups := [] })
          else
            .next (abortIfStuck (takeHead s q
              { j with expired := late, deadline := if late then .none else j.deadline } o)
              { j with expired := late, deadline := if late then .none else j.deadline }) := by
  show execJobTake s = _
  unfold execJobTake
  rw [if_neg (by rw [hu, hen]; decide), hp]
  dsimp only
  rw [hh] <;> rfl

theorem record_status (s : State) (j : Job) : ∃ l, completionRecord s j = BitVec.ofNat 8 j.status :: l ∧ l.length = 7 := by
  refine ⟨_, rfl, ?_⟩
  simp [toLE_length]

theorem jobTake_bad (hu : cscUp s = true) (hen : s.csc.en = true) {q : QueueId} {b : Bytes} (hp : pickHead s = some q)
    (hh : headJob s q = some b) (hb : badJob s b = true) (hm : s.memWf = true) : Gives .jobTake s fun t =>
      t.csc.lastTag = s.csc.lastTag + 1 ∧ (t.cleatB.get q).taken = (s.cleatB.get q).taken + 1 ∧
      memRead t.mem (slotAddr q (s.cleatB.get q).taken + 56) = 6 ∧
      t.csc.jobsDone.get q = s.csc.jobsDone.get q + 1 := by
  refine .intro ((exec_jobTake hu hen hp hh).trans (if_pos hb)) ?_
  obtain ⟨j, hj⟩ : ∃ j, { newJob s q b [] with stop := some 6, groups := [], held := [] } = j := ⟨_, rfl⟩
  have hjt : j.tag = s.csc.lastTag + 1 := hj ▸ rfl
  have hjq : j.queue = q := hj ▸ rfl
  have hji : j.idx = (s.cleatB.get q).taken := hj ▸ rfl
  have hjs : j.status = 6 := hj ▸ rfl
  rw [hj]
  obtain ⟨h1, h2, h3, h4, h5⟩ := takeHead_fields s q j none
  obtain ⟨g1, g2, g3, g4, g5⟩ := completeJob_fields (takeHead s q j none) j
  rw [hjq] at g3 g4
  refine ⟨?_, g4.trans h2, ?_, ?_⟩
  · rw [g1, h1]
    exact hjt
  · obtain ⟨l, hl, _⟩ := record_status (takeHead s q j none) j
    rw [g5, hjq, hji, hl, State.wr, h4]
    refine (memRead_memWriteN_in (i := 0) hm (by simp)).trans ?_
    rw [hjs]
    rfl
  · rw [g3, h1]

theorem abortIfStuck_free (h1 : unitFenced s 0x10 = false) (h2 : allSparFenced s = false) (j : Job) : abortIfStuck s j = s :=
  if_neg (by rw [h1, h2]; simp)

theorem unitFenced_congr {t : State} (h : t.cleatC = s.cleatC) (u : Nat) : unitFenced t u = unitFenced s u := by
  rw [unitFenced, unitFenced, h]

theorem allSparFenced_congr {t : State} (h : t.cleatC = s.cleatC) : allSparFenced t = allSparFenced s := by
  unfold allSparFenced
  simp only [unitFenced_congr h]

theorem jobTake_good (hu : cscUp s = true) (hen : s.csc.en = true) {q : QueueId} {b : Bytes} (hp : pickHead s = some q)
    (hh : headJob s q = some b) {held : List (Nat × Nat)} {o : Option ASetOffered} (hb : badJob s b = false)
    (hi : jobInput s b = some (held, o)) (hd : jobDeadline s q b = .none) (h1 : unitFenced s 0x10 = false)
    (h2 : allSparFenced s = false) : exec .jobTake s = .next (takeHead s q (newJob s q b held) o) := by
  refine (exec_jobTake hu hen hp hh).trans ((if_neg (Bool.eq_false_iff.1 hb)).trans ?_)
  rw [hi]
  have hdj : (newJob s q b held).deadline = .none := hd
  have hj : newJob s q b held = { newJob s q b held with expired := false, deadline := .none } := by
    conv => lhs; rw [show newJob s q b held = { newJob s q b held with
      expired := (newJob s q b held).expired, deadline := (newJob s q b held).deadline } from rfl, hdj]
    rfl
  obtain ⟨h3, h4, h5, h6, h7⟩ := takeHead_fields s q (newJob s q b held) o
  have hab := abortIfStuck_free ((unitFenced_congr h7 0x10).trans h1) ((allSparFenced_congr h7).trans h2) (newJob s q b held)
  have hp : deadlinePassed s (newJob s q b held).deadline = false := by rw [hdj]; rfl
  dsimp only
  rw [hp, hdj]
  refine (if_neg (fun h => Bool.false_ne_true h.1)).trans ?_
  rw [if_neg Bool.false_ne_true, ← hj, hab]

theorem jobTake_spec (hu : cscUp s = true) (hen : s.csc.en = true) :
    (pickHead s = none → exec .jobTake s = .next s) ∧
    (∀ (q : QueueId) (b : Bytes), pickHead s = some q → headJob s q = some b →
      (badJob s b = true → s.memWf = true → Gives .jobTake s fun t =>
        t.csc.lastTag = s.csc.lastTag + 1 ∧ (t.cleatB.get q).taken = (s.cleatB.get q).taken + 1 ∧
        memRead t.mem (slotAddr q (s.cleatB.get q).taken + 56) = 6 ∧
        t.csc.jobsDone.get q = s.csc.jobsDone.get q + 1) ∧
      (∀ (held : List (Nat × Nat)) (o : Option ASetOffered), badJob s b = false → jobInput s b = some (held, o) →
        jobDeadline s q b = .none → unitFenced s 0x10 = false → allSparFenced s = false → Gives .jobTake s fun t =>
          t.csc.jobs = s.csc.jobs ++ [newJob s q b held] ∧ (newJob s q b held).tag = s.csc.lastTag + 1 ∧
          t.csc.lastTag = s.csc.lastTag + 1 ∧ (t.cleatB.get q).taken = (s.cleatB.get q).taken + 1 ∧
          (t.cleatB.get q).done = (s.cleatB.get q).done ∧ t.mem = s.mem)) := by
  refine ⟨jobTake_none, fun q b hp hh => ⟨fun hb hm => jobTake_bad hu hen hp hh hb hm, fun held o hb hi hd h1 h2 => ?_⟩⟩
  obtain ⟨h3, h4, h5, h6, _⟩ := takeHead_fields s q (newJob s q b held) o
  refine .intro (jobTake_good hu hen hp hh hb hi hd h1 h2) ⟨?_, rfl, ?_, h4, h5, h6⟩
  · rw [h3]
  · rw [h3]
    rfl

end

/-! ### Completion and deadlines -/

section
variable {s : State} {tag : W16} {j : Job}

theorem completionRecord_length (s : State) (j : Job) : (completionRecord s j).length = 8 := by
  obtain ⟨l, hl, hlen⟩ := record_status s j
  rw [hl, List.length_cons, hlen]

theorem exec_jobComplete (hu : cscUp s = true) (hj : jobOf s tag = some j) :
    exec (.jobComplete tag) s = if jobDone s j = true then .next (completeJob s j) else .next s := by
  show execJobComplete tag s = _
  unfold execJobComplete
  rw [hj]
  dsimp only
  rw [hu, Bool.true_and]

theorem jobComplete_spec (hu : cscUp s = true) (hj : jobOf s tag = some j) :
    (jobDone s j = false → exec (.jobComplete tag) s = .next s) ∧
    (jobDone s j = true → s.memWf = true → Gives (.jobComplete tag) s fun t => jobOf t tag = none ∧
      t.csc.jobsDone.get j.queue = s.csc.jobsDone.get j.queue + 1 ∧
      t.rd (slotAddr j.queue j.idx + 56) 8 = completionRecord s j ∧
      (∀ a : Nat, a < slotAddr j.queue j.idx + 56 ∨ slotAddr j.queue j.idx + 64 ≤ a → memRead t.mem a = memRead s.mem a)) := by
  refine ⟨fun hd => (exec_jobComplete hu hj).trans (if_neg (Bool.eq_false_iff.1 hd)),
    fun hd hm => .intro ((exec_jobComplete hu hj).trans (if_pos hd)) ?_⟩
  obtain ⟨h1, h2, h3, h4, h5⟩ := completeJob_fields s j
  have hlen := completionRecord_length s j
  have hrd : (completeJob s j).rd (slotAddr j.queue j.idx + 56) 8 =
      (s.wr (slotAddr j.queue j.idx + 56) (completionRecord s j)).rd (slotAddr j.queue j.idx + 56) 8 := by
    rw [State.rd, h5]
    rfl
  refine ⟨?_, h3, ?_, fun a ha => ?_⟩
  · refine List.find?_eq_none.2 fun k hk => ?_
    rw [h2] at hk
    have hne := (List.mem_filter.1 hk).2
    rw [jobOf_tag hj] at hne
    simpa using hne
  · rw [hrd]
    have hwr := State.rd_wr (s := s) (slotAddr j.queue j.idx + 56) (completionRecord s j) hm
    rw [hlen] at hwr
    exact hwr
  · rw [h5]
    exact memRead_memWriteN_out hm (by rw [hlen]; omega)

theorem deadlinePhaseCross_spec (hu : cscUp s = true) (hj : jobOf s tag = some j) {src : Fin 5} {tgt : BitVec 40} {ns : W32}
    (hd : j.deadline = .phase src tgt ns) :
    ((recordPhase s src - tgt).toNat < 2 ^ 39 → Gives (.deadlinePhaseCross tag) s fun t =>
      jobOf t tag = some { j with deadline := .time (s.pht.record.nt + ns.setWidth 64) }) ∧
    (2 ^ 39 ≤ (recordPhase s src - tgt).toNat → exec (.deadlinePhaseCross tag) s = .next s) := by
  have he : exec (.deadlinePhaseCross tag) s = if (cscUp s && recordCrossed s src tgt) = true
      then .next (jobMod s tag fun j => { j with deadline := .time (s.pht.record.nt + ns.setWidth 64) }) else .next s := by
    show execDeadlinePhaseCross tag s = _
    unfold execDeadlinePhaseCross
    rw [hj]
    dsimp only
    rw [hd]
  refine ⟨fun h => .intro (he.trans (if_pos (by rw [hu, recordCrossed, decide_eq_true h]; rfl))) ?_,
    fun h => he.trans (if_neg (by rw [recordCrossed, decide_eq_false (Nat.not_lt.2 h)]; simp))⟩
  exact jobOf_jobMod_same (f := fun j => { j with deadline := .time (s.pht.record.nt + ns.setWidth 64) }) (fun _ => rfl) hj

theorem exec_deadlineExpire (hj : jobOf s tag = some j) {d : W64} (hd : j.deadline = .time d) :
    exec (.deadlineExpire tag) s = if (cscUp s && decide (d ≤ s.pht.record.nt)) = true
      then .next (if allCommitted j = true then jobMod s tag fun j => { j with deadline := .none } else expireJob s j)
      else .next s := by
  show execDeadlineExpire tag s = _
  unfold execDeadlineExpire
  rw [hj]
  dsimp only
  rw [hd]

theorem deadlineExpire_spec (hu : cscUp s = true) (hj : jobOf s tag = some j) {d : W64} (hd : j.deadline = .time d)
    (hle : d ≤ s.pht.record.nt) :
    (allCommitted j = true → Gives (.deadlineExpire tag) s fun t => jobOf t tag = some { j with deadline := .none }) ∧
    (allCommitted j = false → j.drop = false → Gives (.deadlineExpire tag) s fun t =>
      jobOf t tag = some { j with expired := true, deadline := .none }) ∧
    (allCommitted j = false → j.drop = true → Gives (.deadlineExpire tag) s fun t =>
      ∃ k : Job, jobOf t tag = some k ∧ k.expired = true ∧ k.stop = (j.end_ 2 0).stop) := by
  have he := (exec_deadlineExpire hj hd).trans (if_pos (by rw [hu, decide_eq_true hle]; rfl))
  have hone : jobOf (jobMod s tag fun j => { j with expired := true, deadline := .none }) tag =
      some { j with expired := true, deadline := .none } :=
    jobOf_jobMod_same (f := fun j => { j with expired := true, deadline := .none }) (fun _ => rfl) hj
  refine ⟨fun hc => .intro (he.trans (congrArg _ (if_pos hc))) ?_, fun hc hdr => .intro (he.trans (congrArg _ ?_)) hone,
    fun hc hdr => .intro
      (t := stopJob (jobMod s tag fun j => { j with expired := true, deadline := .none }) tag 2 0)
      (he.trans (congrArg _ ?_)) ?_⟩
  · exact jobOf_jobMod_same (f := fun j => { j with deadline := .none }) (fun _ => rfl) hj
  · refine (if_neg (Bool.eq_false_iff.1 hc)).trans ?_
    unfold expireJob
    rw [jobOf_tag hj]
    exact if_neg (by rw [hdr]; decide)
  · refine (if_neg (Bool.eq_false_iff.1 hc)).trans ?_
    unfold expireJob
    rw [jobOf_tag hj]
    exact if_pos hdr
  · obtain ⟨k, hk, h1, h2, _⟩ := jobOf_stopJob hone 2 0
    refine ⟨k, hk, h1, h2.trans ?_⟩
    unfold Job.end_
    dsimp only
    split
    · split <;> rfl
    · rfl

end

/-- Settles O40: plan slots, the taking and the completion of jobs, and what becomes of their deadlines. -/
theorem plansAndJobs : Obligations.PlansAndJobs := by
  unfold Obligations.PlansAndJobs
  intro s hu
  refine ⟨fun p v => ⟨fun h => (exec_planLoad hu).trans (congrArg _ (planLoadWrite_ignored h)),
    fun hv hb h u hr => ?_, fun hv hb e u hr => ?_⟩, ?_, fun hen => jobTake_spec hu hen, fun tag j hj => ?_⟩
  · obtain ⟨h1, h2⟩ := planLoad_spec hu hv hb hr
    intro bad invalid
    refine ⟨h1, fun hbad gs w hg => ?_⟩
    obtain ⟨h3, h4⟩ := h2 hbad gs w hg
    have hgood : ((List.range (fieldLE h 6 2)).all fun i =>
        (groupOf (slice gs (64 * i) 64)).ok (slice gs (64 * i) 64) (fieldLE h 6 2) s.csc.stgSize.toNat) =
        planRecordsOk s gs (fieldLE h 6 2) := by
      rw [planRecordsOk, planRecords, List.all_map]
      rfl
    rw [planRecords, List.map_map] at h4
    intro good
    rw [show good = _ from hgood]
    exact ⟨h3, h4⟩
  · exact .intro ((exec_planLoad hu).trans (congrArg _ ((planLoadWrite_load hv hb).trans (planLoad_unread hr))))
      (planInvalid_spec u p)
  · intro c j gi k e g rest code tab u w x hf hl hg he hp hm h1 h2
    exact planCoreLoad_spec hu hf hl hg he hp hm h1 h2
  · obtain ⟨h1, h2⟩ := jobComplete_spec hu hj
    refine ⟨h1, h2, fun src tgt ns hd => deadlinePhaseCross_spec hu hj hd, fun d hd hle => ?_, fun d hd hlt => ?_⟩
    · obtain ⟨h3, h4, h5⟩ := deadlineExpire_spec hu hj hd hle
      refine ⟨h3, h4, fun hc hdr => ?_⟩
      obtain ⟨t, he, k, hk, hx, hs⟩ := h5 hc hdr
      refine ⟨t, he, k, hk, hx, hs.trans ?_⟩
      unfold Job.end_
      cases hst : j.stop with
      | none => rfl
      | some c =>
        dsimp only
        split
        · rfl
        · exact hst
    · exact (exec_deadlineExpire hj hd).trans (if_neg (by rw [decide_eq_false (BitVec.not_le.2 hlt)]; simp))

end Sys2Proof.Machine

end

section

namespace Sys2Proof.Machine

/-! ## Courses are dispatched, committed, recalled and stolen (O41) -/

/-! ### Dispatch -/

/-- A core but for its next course and the interrupts that tell it of that. -/
def SparCore.sansPre (x : SparCore) : SparCore := { x with pre := none, irq := 0, irqRpt := false }

section
variable {s : State}

theorem coreMod_view {β : Type} {V : SparCore → β} {f : SparCore → SparCore} (hf : ∀ x, V (f x) = V x) (s : State)
    (c d : CoreId) : V (coreOf (coreMod s c f) d) = V (coreOf s d) := by
  rw [coreOf_coreMod]
  split
  · next h => rw [hf, h]
  · rfl

theorem coreOf_congr {t : State} (h : t.spar = s.spar) (d : CoreId) : coreOf t d = coreOf s d := by
  rw [coreOf, coreOf, h]

theorem irqRaise_pre (s : State) (c : CoreId) (n : Nat) (d : CoreId) :
    (coreOf (irqRaise s c n) d).sansPre = (coreOf s d).sansPre := by
  unfold irqRaise
  refine coreMod_view (V := SparCore.sansPre) ?_ s c d
  exact fun x => rfl

theorem fetchUpper_pre (s : State) (c : CoreId) (o : Obd) (d : CoreId) :
    (coreOf (fetchUpper s c o) d).sansPre = (coreOf s d).sansPre := by
  have hs := seqRead_spar s c.val (some c) o.addr o.size
  unfold fetchUpper
  split
  · next b u h =>
    rw [h] at hs
    exact (irqRaise_pre ..).trans (congrArg SparCore.sansPre (coreOf_congr (s := s) (t := dtcmPut u c _ b) hs d))
  · next e u h =>
    rw [h] at hs
    exact congrArg SparCore.sansPre (coreOf_congr hs d)

/-- Giving a core its next course leaves the one it works on. -/
theorem preAssign_pre (s : State) (c d : CoreId) : (coreOf (preAssign s c) d).sansPre = (coreOf s d).sansPre := by
  unfold preAssign
  split
  · rfl
  · next j gi k _ =>
    split
    · rfl
    · next g _ =>
      extract_lets t s1 s2 u s3 src s4
      have h1 : coreOf s1 d = coreOf s d := coreOf_congr (courseMod_spar ..) d
      have h2 : (coreOf s2 d).sansPre = (coreOf s1 d).sansPre :=
        coreMod_view (V := SparCore.sansPre) (f := fun x => { x with pre := some t }) (fun _ => rfl) s1 c d
      have h3 : (coreOf s3 d).sansPre = (coreOf s2 d).sansPre := by
        unfold s3
        split
        · split
          · next o _ =>
            have hu : coreOf u d = coreOf s2 d := rfl
            split
            · exact (fetchUpper_pre u c o d).trans (congrArg _ hu)
            · exact congrArg _ hu
          · rfl
        · rfl
      have h4 : (coreOf s4 d).sansPre = (coreOf s3 d).sansPre := irqRaise_pre ..
      have hall : (coreOf s4 d).sansPre = (coreOf s d).sansPre := h4.trans (h3.trans (h2.trans (congrArg _ h1)))
      split
      · exact hall
      · have hr := seqRead_spar s4 c.val (some c) src g.pfBytes.toNat
        split
        · next b u h =>
          rw [h] at hr
          exact (irqRaise_pre ..).trans ((congrArg SparCore.sansPre
            (coreOf_congr (s := s4) (t := dtcmPut u c (64 * g.pfOfs.toNat) b) hr d)).trans hall)
        · next e u h =>
          rw [h] at hr
          exact (congrArg SparCore.sansPre (coreOf_congr hr d)).trans hall

theorem afterStart_pre (s : State) (j : Job) (c d : CoreId) : (coreOf (afterStart s j c) d).sansPre = (coreOf s d).sansPre := by
  unfold afterStart
  split
  · rfl
  · exact preAssign_pre ..

theorem ownCourse_spar (s : State) (t : CourseTag) (u : Option CoreId) (r size : Nat) :
    (ownCourse s t u r .notFused size).spar = s.spar := courseMod_spar s t _

variable {j : Job} {g : Group} {gi k e r : Nat} {c : CoreId}

/-- A core that starts a course. -/
theorem startCourse_core (s : State) (j : Job) (g : Group) (gi k : Nat) (c : CoreId) (e r : Nat) :
    coreOf (startCourse s j g gi k c e r .notFused) c =
      { (coreOf s c).clearRegs with
        state := 1, pc := BitVec.ofNat 32 (32 * e), crs := crsOf s j g gi k r 0 false, cur := some (tagOf s j gi k),
        started := s.csc.seq, pre := none } := by
  unfold startCourse
  extract_lets t ob crs n
  rw [coreOf_coreMod_same, coreOf_congr (ownCourse_spar ..)]
  rfl

theorem startCourse_other (s : State) (j : Job) (g : Group) (gi k : Nat) {c d : CoreId} (h : d ≠ c) (e r : Nat) :
    coreOf (startCourse s j g gi k c e r .notFused) d = coreOf s d := by
  unfold startCourse
  extract_lets t ob crs n
  rw [coreOf_coreMod, if_neg h, coreOf_congr (ownCourse_spar ..)]

theorem tryCore_held (hg : planGroup s j gi = some g) (he : sparEntry s g = some e) (hr : freeRegion s (some c) = some r)
    (ho : obPlan s j g k = .notFused) (hp : (coreOf s c).plan = some j.plan) :
    tryCore s j gi k c = some (startCourse s j g gi k c e r .notFused) := by
  unfold tryCore
  rw [hg]
  dsimp only
  rw [he, hr, ho, if_pos hp]

theorem tryEaves_spar (hg : planGroup s j gi = some g) (he : g.eaves = false) : tryEaves s j gi k = none := by
  unfold tryEaves
  rw [hg]
  split
  · next g' _ h _ =>
    obtain rfl := Option.some.inj h
    exact if_pos (by rw [he]; rfl)
  · rfl

theorem courseDispatch_idle (h1 : ownPre s = none) (h2 : firstReady s = none) : exec .courseDispatch s = .next s := by
  show execCourseDispatch s = _
  unfold execCourseDispatch
  split
  · rfl
  · rw [h1]
    dsimp only
    rw [h2]

theorem courseDispatch_spec (hu : cscUp s = true) {cs : List CoreId} {rest : List (Job × Nat × Nat)} (h1 : ownPre s = none)
    (hl : readyList s = (j, gi, k) :: rest) (hg : planGroup s j gi = some g) (hee : g.eaves = false)
    (he : sparEntry s g = some e) (hc : coreOrder s j.plan = c :: cs) (hp : (coreOf s c).plan = some j.plan)
    (hr : freeRegion s (some c) = some r) (ho : obPlan s j g k = .notFused) : Gives .courseDispatch s fun t =>
      (coreOf t c).cur = some (tagOf s j gi k) ∧ (coreOf t c).state = 1 ∧
      (coreOf t c).pc = BitVec.ofNat 32 (32 * e) ∧ (coreOf t c).crs = crsOf s j g gi k r 0 false := by
  have hf : firstReady s = some (afterStart (startCourse s j g gi k c e r .notFused) j c) := by
    unfold firstReady
    rw [hl, List.findSome?_cons]
    dsimp only
    rw [tryEaves_spar hg hee, hc, List.findSome?_cons, tryCore_held hg he hr ho hp]
    rfl
  have hx : exec .courseDispatch s = .next (afterStart (startCourse s j g gi k c e r .notFused) j c) := by
    refine (if_neg (by rw [hu]; decide) : execCourseDispatch s = _).trans ?_
    rw [h1]
    dsimp only
    rw [hf]
  have hv := (afterStart_pre (startCourse s j g gi k c e r .notFused) j c c).trans
    (congrArg SparCore.sansPre (startCourse_core s j g gi k c e r))
  exact .intro hx ⟨(congrArg SparCore.cur hv :), (congrArg SparCore.state hv :), (congrArg SparCore.pc hv :),
    (congrArg SparCore.crs hv :)⟩

/-! ### Local stealing -/

theorem ownCourse_stats (s : State) (t : CourseTag) (u : Option CoreId) (r size : Nat) :
    (ownCourse s t u r .notFused size).csc.stats = vmod s.csc.stats nDispatched (· + 1) := by
  have h : ∀ f, (courseMod s t f).csc.stats = s.csc.stats := fun f =>
    ite_view (V := fun s => s.csc.stats) rfl rfl
  exact congrArg (vmod · nDispatched (· + 1)) (h _)

theorem courseStealLocal_idle (h : readyList s ≠ [] ∨ stealVictim s = none) : exec .courseStealLocal s = .next s := by
  show execCourseStealLocal s = _
  unfold execCourseStealLocal
  by_cases hr : readyList s = []
  · rw [h.resolve_left (fun h => h hr)]
    split <;> rfl
  · refine if_pos ?_
    cases hl : readyList s with
    | nil => exact absurd hl hr
    | cons => simp

theorem courseStealLocal_spec (hu : cscUp s = true) {thief v : CoreId} {ths : List CoreId} {q : CourseTag}
    (hl : readyList s = []) (ht : (allCores.filter fun c => coreFree s c && (coreOf s c).pre.isNone) = thief :: ths)
    (hv : stealVictim s = some v) (hq : (coreOf s v).pre = some q) (hj : jobOf s q.job = some j)
    (hg : planGroup s j q.group.val = some g) (hob : g.obBytes = 0) (he : sparEntry s g = some e)
    (hp : (coreOf s thief).plan = some j.plan) (hr : freeRegion s (some thief) = some r) : Gives .courseStealLocal s fun t =>
      (coreOf t thief).cur = some (tagOf s j q.group.val q.course.toNat) ∧ (coreOf t thief).state = 1 ∧
      (coreOf t v).pre = none ∧ t.csc.stats.get nLocalSteal = s.csc.stats.get nLocalSteal + 1 := by
  obtain ⟨x, hx⟩ : ∃ x : State, { s with csc.cancels := s.csc.cancels ++
      [(v, if q.course = 0 then none else some q.upper)] } = x := ⟨_, rfl⟩
  have hcp : cancelPre s v = cscStat (coreMod x v fun y => { y with pre := none }) nCancel := by
    unfold cancelPre
    rw [hq, ← hx]
  have hpre : (coreOf (cancelPre s v) v).pre = none := by
    rw [hcp]
    exact congrArg SparCore.pre (coreOf_coreMod_same x v fun y => { y with pre := none })
  have hst : (cancelPre s v).csc.stats = vmod s.csc.stats nCancel (· + 1) := by rw [hcp, ← hx]; rfl
  have hg' : planGroup (cancelPre s v) j q.group.val = some g := by rw [hcp, ← hx]; exact hg
  have he' : sparEntry (cancelPre s v) g = some e := by rw [hcp, ← hx]; exact he
  have hr' : freeRegion (cancelPre s v) (some thief) = some r := by rw [hcp, ← hx]; exact hr
  have ho' : obPlan (cancelPre s v) j g q.course.toNat = .notFused := if_pos (.inl hob)
  have hp' : (coreOf (cancelPre s v) thief).plan = some j.plan :=
    (congrArg SparCore.plan (cancelPre_task s v thief) :).trans hp
  have htag : tagOf (cancelPre s v) j q.group.val q.course.toNat = tagOf s j q.group.val q.course.toNat := by
    rw [hcp, ← hx]
    rfl
  have htry := tryCore_held hg' he' hr' ho' hp'
  have hex : exec .courseStealLocal s = .next (cscStat
      (startCourse (cancelPre s v) j g q.group.val q.course.toNat thief e r .notFused) nLocalSteal) := by
    refine (if_neg (by rw [hu, hl]; decide) : execCourseStealLocal s = _).trans ?_
    rw [hv]
    dsimp only
    rw [hq]
    dsimp only
    rw [hj]
    dsimp only
    rw [ht, List.findSome?_cons, htry]
  have hcore := startCourse_core (cancelPre s v) j g q.group.val q.course.toNat thief e r
  rw [htag] at hcore
  refine .intro hex ⟨(congrArg SparCore.cur hcore :), (congrArg SparCore.state hcore :), ?_, ?_⟩
  · by_cases hvt : v = thief
    · subst hvt
      exact (congrArg SparCore.pre hcore :)
    · exact (congrArg SparCore.pre (startCourse_other (cancelPre s v) j g q.group.val q.course.toNat hvt e r) :).trans hpre
  · have h1 : (startCourse (cancelPre s v) j g q.group.val q.course.toNat thief e r .notFused).csc.stats =
        vmod (vmod s.csc.stats nCancel (· + 1)) nDispatched (· + 1) :=
      (ownCourse_stats ..).trans (congrArg (vmod · nDispatched (· + 1)) hst)
    refine (vmod_get_same ..).trans ?_
    rw [h1, vmod_get_other _ _ (by decide), vmod_get_other _ _ (by decide)]

/-! ### Commit -/

theorem commitCourse_fields (s : State) (t : CourseTag) : (commitCourse s t).spar = s.spar ∧ (commitCourse s t).ee = s.ee ∧
    ∃ n : Nat, (commitCourse s t).csc.copies = s.csc.copies ++ [{ tag := t, region := n, sent := false }] := by
  unfold commitCourse
  extract_lets n a _ b
  have ha : a.spar = s.spar ∧ a.ee = s.ee ∧ a.csc.copies = s.csc.copies :=
    ⟨courseMod_spar .., ite_view (V := State.ee) rfl rfl, ite_view (V := fun s => s.csc.copies) rfl rfl⟩
  obtain ⟨h1, h2, h3⟩ := ha
  have hb : b.spar = s.spar ∧ b.ee = s.ee ∧ ∃ n : Nat, b.csc.copies = s.csc.copies ++ [{ tag := t, region := n, sent := false }] :=
    ⟨h1, h2, n, congrArg (· ++ _) h3⟩
  split
  · exact hb
  · exact hb

theorem discardObds_csc (s : State) (u : Option CoreId) (t : CourseTag) (rq : Bool) :
    (discardObds s u t rq).csc = { s.csc with obds := (discardObds s u t rq).csc.obds } ∧
    (discardObds s u t rq).ee = s.ee := by
  unfold discardObds
  extract_lets _ v
  split <;> exact ⟨rfl, rfl⟩

/-- A buffer that a discarded course leaves is one from before, which it was not filling, with the same readers. -/
theorem mem_discardObds {u : Option CoreId} {t : CourseTag} {rq : Bool} {o : Obd}
    (h : o ∈ (discardObds s u t rq).csc.obds) : ∃ p ∈ s.csc.obds, ¬ (p.tag = t ∧ p.st = .writing ∧ p.producer = u) ∧
      o.tag = p.tag ∧ o.st = p.st ∧ o.producer = p.producer ∧ o.readers = p.readers := by
  have hf : ∀ p ∈ s.csc.obds.filter (fun o => !(o.tag == t && o.st == .writing && o.producer == u)),
      p ∈ s.csc.obds ∧ ¬ (p.tag = t ∧ p.st = .writing ∧ p.producer = u) := fun p hp => by
    obtain ⟨h1, h2⟩ := List.mem_filter.1 hp
    refine ⟨h1, fun ⟨a, b, c⟩ => ?_⟩
    rw [a, b, c] at h2
    simp at h2
  unfold discardObds at h
  extract_lets _ v at h
  split at h
  · obtain ⟨h1, h2⟩ := hf o h
    exact ⟨o, h1, h2, rfl, rfl, rfl, rfl⟩
  · obtain ⟨p, hp, hpo⟩ := List.mem_map.1 (List.mem_filter.1 h).1
    obtain ⟨h1, h2⟩ := hf p hp
    refine ⟨p, h1, h2, ?_⟩
    rw [← hpo]
    split <;> exact ⟨rfl, rfl, rfl, rfl⟩

/-- A core whose course is committed or discarded. -/
def coreEnded (s : State) (c : CoreId) : State :=
  coreMod s c fun x => { x with cur := none, done := false, recallTo := none }

theorem exec_courseCommit (hu : cscUp s = true) {n : Fin 17} (hn : n.val = c.val) {q : CourseTag}
    (hq : (coreOf s c).cur = some q) (hd : (coreOf s c).done = true) : exec (.courseCommit n) s =
      .next (if (ownerIs s q (some c) && !unitFenced s c.val && (coreOf s c).recallTo.isNone) = true
        then commitCourse (coreEnded s c) q
        else discardObds (coreEnded s c) (some c) q ((coreOf s c).recallTo != some false)) := by
  have hc : (Fin.ofNat 16 n.val : CoreId) = c := Fin.ext ((Nat.mod_eq_of_lt (hn ▸ c.isLt)).trans hn)
  have h16 : n ≠ 16 := fun h => by
    have := c.isLt
    rw [h] at hn
    omega
  refine (if_neg (by rw [hu]; decide) : execCourseCommit n s = _).trans ((if_neg h16).trans ?_)
  rw [hc]
  dsimp only
  rw [hq]
  exact if_pos hd

theorem courseCommit_idle {n : Fin 17} (hn : n.val = c.val) (h : (coreOf s c).cur = none ∨ (coreOf s c).done = false) :
    exec (.courseCommit n) s = .next s := by
  have hc : (Fin.ofNat 16 n.val : CoreId) = c := Fin.ext ((Nat.mod_eq_of_lt (hn ▸ c.isLt)).trans hn)
  have h16 : n ≠ 16 := fun h => by
    have := c.isLt
    rw [h] at hn
    omega
  by_cases hu : (!cscUp s) = true
  · exact if_pos hu
  · refine (if_neg hu : execCourseCommit n s = _).trans ((if_neg h16).trans ?_)
    rw [hc]
    dsimp only
    split
    · next q hq =>
      rcases h with h | h
      · cases h.symm.trans hq
      · exact if_neg (Bool.eq_false_iff.1 h)
    · rfl

theorem courseCommit_spec (hu : cscUp s = true) (n : Fin 17) (c : CoreId) (hn : n.val = c.val) :
    ((coreOf s c).cur = none ∨ (coreOf s c).done = false → exec (.courseCommit n) s = .next s) ∧
    (∀ q : CourseTag, (coreOf s c).cur = some q → (coreOf s c).done = true →
      (ownerIs s q (some c) = true → unitFenced s c.val = false → (coreOf s c).recallTo = none →
        Gives (.courseCommit n) s fun t => (coreOf t c).cur = none ∧ ∃ n : Nat,
          t.csc.copies = s.csc.copies ++ [{ tag := q, region := n, sent := false }]) ∧
      (ownerIs s q (some c) = false ∨ unitFenced s c.val = true ∨ (coreOf s c).recallTo ≠ none →
        Gives (.courseCommit n) s fun t => (coreOf t c).cur = none ∧ t.csc = { s.csc with obds := t.csc.obds } ∧
          ∀ o ∈ t.csc.obds, ¬ (o.tag = q ∧ o.st = .writing ∧ o.producer = some c))) := by
  have hcur : ∀ {t : State}, t.spar = (coreEnded s c).spar → (coreOf t c).cur = none := fun h => by
    rw [coreOf_congr h, coreEnded, coreOf_coreMod_same]
  refine ⟨courseCommit_idle hn, fun q hq hd => ⟨fun h1 h2 h3 => ?_, fun h => ?_⟩⟩
  · obtain ⟨g1, _, g3⟩ := commitCourse_fields (coreEnded s c) q
    exact .intro ((exec_courseCommit hu hn hq hd).trans (congrArg _ (if_pos (by rw [h1, h2, h3]; rfl)))) ⟨hcur g1, g3⟩
  · have hneg : ¬ (ownerIs s q (some c) && !unitFenced s c.val && (coreOf s c).recallTo.isNone) = true := fun hb => by
      simp only [Bool.and_eq_true, Bool.not_eq_true', Option.isNone_iff_eq_none] at hb
      rcases h with h | h | h
      · exact Bool.false_ne_true (h.symm.trans hb.1.1)
      · exact Bool.false_ne_true (hb.1.2.symm.trans h)
      · exact h hb.2
    refine .intro ((exec_courseCommit hu hn hq hd).trans (congrArg _ (if_neg hneg))) ⟨hcur (discardObds_sched ..).2, ?_, ?_⟩
    · exact (discardObds_csc (coreEnded s c) (some c) q _).1
    · intro o ho ⟨a, b, d⟩
      obtain ⟨p, _, hp, e1, e2, e3, _⟩ := mem_discardObds ho
      exact hp ⟨e1.symm.trans a, e2.symm.trans b, e3.symm.trans d⟩

/-- The Eaves engine once its course is committed or discarded. -/
def eeEnded (s : State) : State := { s with ee.cur := none, ee.done := false }

theorem exec_courseCommit_ee (hu : cscUp s = true) {q : CourseTag} (hq : s.ee.cur = some q) (hd : s.ee.done = true) :
    exec (.courseCommit 16) s = .next (if (ownerIs s q none && !fencing s 0x10) = true then commitCourse (eeEnded s) q
      else discardObds (eeEnded s) none q true) := by
  refine (if_neg (by rw [hu]; decide) : execCourseCommit 16 s = _).trans ((if_pos rfl).trans ?_)
  rw [hq]
  exact if_pos hd

theorem courseCommit_ee_spec (hu : cscUp s = true) :
    (s.ee.cur = none ∨ s.ee.done = false → exec (.courseCommit 16) s = .next s) ∧
    (∀ q : CourseTag, s.ee.cur = some q → s.ee.done = true →
      (ownerIs s q none = true → fencing s 0x10 = false → Gives (.courseCommit 16) s fun t =>
        t.ee.cur = none ∧ t.ee.done = false ∧
        ∃ n : Nat, t.csc.copies = s.csc.copies ++ [{ tag := q, region := n, sent := false }]) ∧
      (ownerIs s q none = false ∨ fencing s 0x10 = true → Gives (.courseCommit 16) s fun t =>
        t.ee.cur = none ∧ t.ee.done = false ∧ t.csc = { s.csc with obds := t.csc.obds })) := by
  have hee : ∀ {t : State}, t.ee = (eeEnded s).ee → t.ee.cur = none ∧ t.ee.done = false := fun h => by
    rw [h]
    exact ⟨rfl, rfl⟩
  refine ⟨fun h => ?_, fun q hq hd => ⟨fun h1 h2 => ?_, fun h => ?_⟩⟩
  · refine (if_neg (by rw [hu]; decide) : execCourseCommit 16 s = _).trans ((if_pos rfl).trans ?_)
    split
    · next q hq =>
      rcases h with h | h
      · cases h.symm.trans hq
      · exact if_neg (Bool.eq_false_iff.1 h)
    · rfl
  · obtain ⟨_, g2, g3⟩ := commitCourse_fields (eeEnded s) q
    obtain ⟨h3, h4⟩ := hee g2
    exact .intro ((exec_courseCommit_ee hu hq hd).trans (congrArg _ (if_pos (by rw [h1, h2]; rfl)))) ⟨h3, h4, g3⟩
  · have hneg : ¬ (ownerIs s q none && !fencing s 0x10) = true := fun hb => by
      simp only [Bool.and_eq_true, Bool.not_eq_true'] at hb
      rcases h with h | h
      · exact Bool.false_ne_true (h.symm.trans hb.1)
      · exact Bool.false_ne_true (hb.2.symm.trans h)
    obtain ⟨g1, g2⟩ := discardObds_csc (eeEnded s) none q true
    obtain ⟨h3, h4⟩ := hee g2
    exact .intro ((exec_courseCommit_ee hu hq hd).trans (congrArg _ (if_neg hneg))) ⟨h3, h4, g1⟩

/-! ### Prefetches and halo waits -/

/-- The state after a cancelled prefetch has given up its registration. -/
def cancelled (s : State) (c : CoreId) (e : CoreId × Option CourseTag) : State :=
  match e.2 with
  | none => { s with csc.cancels := s.csc.cancels.erase e }
  | some t => obdSweep (obdMod { s with csc.cancels := s.csc.cancels.erase e } t
      fun o => { o with readers := o.readers.filter (· ≠ c) })

theorem prefetchCancelDone_spec (c : CoreId) (e : CoreId × Option CourseTag)
    (hf : (s.csc.cancels.find? fun e => e.1 == c) = some e) :
    Gives (.prefetchCancelDone c) s fun t => t.csc.cancels = s.csc.cancels.erase e ∧
      ∀ q : CourseTag, e.2 = some q → ∀ o ∈ t.csc.obds, o.tag = q → o.st ≠ .dead → c ∉ o.readers := by
  have hx : exec (.prefetchCancelDone c) s = .next (cancelled s c e) := by
    show execPrefetchCancelDone c s = _
    unfold execPrefetchCancelDone
    split
    · next h => cases h.symm.trans hf
    · next d h =>
      obtain rfl := Option.some.inj (h.symm.trans hf)
      obtain ⟨d, q⟩ := d
      cases q <;> rfl
  refine .intro hx ?_
  unfold cancelled
  split
  · next h => exact ⟨rfl, fun q hq => by cases h.symm.trans hq⟩
  · next t h =>
    refine ⟨rfl, fun q hq o ho ht hd hc => ?_⟩
    obtain rfl := Option.some.inj (h.symm.trans hq)
    obtain ⟨p, _, hpo⟩ := List.mem_map.1 (List.mem_filter.1 ho).1
    split at hpo
    · subst hpo
      have := (List.mem_filter.1 hc).2
      simp at this
    · next hn =>
      subst hpo
      exact hn ⟨ht, hd⟩

/-- A wait that ends tells the core its outcome, and the buffer's address when it is READY. -/
theorem endWait_core (s : State) (c : CoreId) (rd rs : Fin 32) (n a : Nat) : coreOf (endWait s c rd rs n a) c =
    { coreOf s c with
      wait := .none, d := vput (coreOf s c).d (Fin.ofNat 16 rd.val) (BitVec.ofNat 32 n),
      a := if n = 0 then vput (coreOf s c).a (Fin.ofNat 16 rs.val) (BitVec.ofNat 48 a) else (coreOf s c).a } :=
  coreOf_coreMod_same ..

theorem obdClose_spar (s : State) (t : CourseTag) : (obdClose s t).spar = s.spar := rfl

theorem waitRecompute_spar (s : State) (c : CoreId) (t : CourseTag) (rd rs : Fin 32) :
    (waitRecompute s c t rd rs).spar = (endWait s c rd rs 1 0).spar := by
  unfold waitRecompute
  extract_lets a b d
  have hb : b.spar = a.spar := obdMod_spar ..
  have hd : d.spar = a.spar := by
    unfold d
    split
    · exact (courseMod_spar ..).trans hb
    · exact hb
  rw [cscStat_spar, jobMod_spar, obdClose_spar]
  exact hd

/-- A halo wait with no READY buffer that can be used goes on without limit. -/
def waitOn (s : State) (c : CoreId) (t : CourseTag) (rd rs : Fin 32) : State :=
  cscStat (jobMod { coreMod s c (fun x => { x with wait := .ob t rd rs true }) with csc.unbounded := true } t.job
    fun j => { j with unbounded := true }) nUnbounded

theorem exec_haloWaitExpiry {c : CoreId} {q : CourseTag} {rd rs : Fin 32} {j : Job} {g : Group}
    (hw : (coreOf s c).wait = .ob q rd rs false) (hr : sparRuns s c = true) (ht : tagGroup s q = some (j, g)) :
    exec (.haloWaitExpiry c) s = match obdFind (passCycles s c (some cStlOb)) q with
      | some o =>
        if o.st = .ready ∧ ¬ obForced (passCycles s c (some cStlOb)) then
          .next (endWait (passCycles s c (some cStlOb)) c rd rs 0 o.addr)
        else if recompOk j g then .next (waitRecompute (passCycles s c (some cStlOb)) c q rd rs)
        else .next (waitOn (passCycles s c (some cStlOb)) c q rd rs)
      | none =>
        if recompOk j g then .next (waitRecompute (passCycles s c (some cStlOb)) c q rd rs)
        else .next (waitOn (passCycles s c (some cStlOb)) c q rd rs) := by
  show execHaloWaitExpiry c s = _
  unfold execHaloWaitExpiry
  rw [hw]
  dsimp only
  rw [hr, if_neg (by decide), ht]
  rfl

theorem haloWaitExpiry_spec {c : CoreId} {q : CourseTag} {rd rs : Fin 32} {j : Job} {g : Group}
    (hw : (coreOf s c).wait = .ob q rd rs false) (hr : sparRuns s c = true) (ht : tagGroup s q = some (j, g)) :
    (∀ o : Obd, obdFind s q = some o → o.st = .ready → obForced s = false → Gives (.haloWaitExpiry c) s fun t =>
      (coreOf t c).wait = .none ∧ (coreOf t c).d.get (Fin.ofNat 16 rd.val) = 0 ∧
      (coreOf t c).a.get (Fin.ofNat 16 rs.val) = BitVec.ofNat 48 o.addr) ∧
    ((∀ o : Obd, obdFind s q = some o → o.st = .ready → obForced s = true) →
      (recompOk j g = true → Gives (.haloWaitExpiry c) s fun t => (coreOf t c).wait = .none ∧
        (coreOf t c).d.get (Fin.ofNat 16 rd.val) = 1 ∧ (coreOf t c).a = (coreOf s c).a) ∧
      (recompOk j g = false → Gives (.haloWaitExpiry c) s fun t => (coreOf t c).wait = .ob q rd rs true ∧
        t.csc.unbounded = true)) := by
  have hx := exec_haloWaitExpiry hw hr ht
  obtain ⟨u, hu⟩ : ∃ u, passCycles s c (some cStlOb) = u := ⟨_, rfl⟩
  have hf : obdFind u q = obdFind s q := hu ▸ rfl
  have ho : obForced u = obForced s := hu ▸ rfl
  have ha : (coreOf u c).a = (coreOf s c).a := by
    obtain ⟨a, b, h⟩ := coreOf_passCycles s c (some cStlOb)
    rw [← hu, h]
  rw [hu, hf, ho] at hx
  have hrest : (∀ o : Obd, obdFind s q = some o → o.st = .ready → obForced s = true) → exec (.haloWaitExpiry c) s =
      if recompOk j g = true then .next (waitRecompute u c q rd rs) else .next (waitOn u c q rd rs) := fun hn => by
    refine hx.trans ?_
    cases h : obdFind s q with
    | none => rfl
    | some o => exact if_neg (fun hc => hc.2 (hn o h hc.1))
  refine ⟨fun o h1 h2 h3 => .intro (t := endWait u c rd rs 0 o.addr) (hx.trans ?_) ?_,
    fun hn => ⟨fun hr => .intro ((hrest hn).trans (if_pos hr)) ?_,
      fun hr => .intro ((hrest hn).trans (if_neg (Bool.eq_false_iff.1 hr))) ⟨?_, rfl⟩⟩⟩
  · rw [h1]
    exact if_pos ⟨h2, Bool.eq_false_iff.1 h3⟩
  · rw [endWait_core]
    exact ⟨rfl, vput_get_same .., vput_get_same ..⟩
  · rw [coreOf_congr (waitRecompute_spar ..), endWait_core]
    exact ⟨rfl, vput_get_same .., ha⟩
  · exact congrArg SparCore.wait (coreOf_coreMod_same u c fun x => { x with wait := .ob q rd rs true })

/-! ### Recall -/

/-- A core whose course is recalled. -/
def SparCore.recalled (x : SparCore) : SparCore :=
  { x with
    state := if x.state = 3 then 3 else 0, wait := .none, tile := TileState.zero, cur := none, done := false,
    closing := false, recallTo := none, rem := [], rptLeft := 0 }

theorem courseRecall_spec (c : CoreId) (rq : Bool) (q : CourseTag) (h1 : (coreOf s c).recallTo = some rq)
    (h2 : (coreOf s c).cur = some q) (h3 : domUp s (sparDom c) = true) :
    (0 < (coreOf s c).rptLeft → (coreOf s c).state = 1 → exec (.courseRecall c) s = .next s) ∧
    ((coreOf s c).rptLeft = 0 ∨ (coreOf s c).state ≠ 1 → Gives (.courseRecall c) s fun t =>
      (coreOf t c).cur = none ∧ (coreOf t c).recallTo = none ∧ (coreOf t c).wait = .none ∧
      (coreOf t c).rptLeft = 0 ∧ (coreOf t c).tile = TileState.zero ∧
      (coreOf t c).state = (if (coreOf s c).state = 3 then 3 else 0) ∧ ∀ o ∈ t.csc.obds, c ∉ o.readers) := by
  obtain ⟨u, hu⟩ : ∃ u, discardObds (obdRelease s c) (some c) q rq = u := ⟨_, rfl⟩
  have hx : exec (.courseRecall c) s =
      if (!domUp s (sparDom c) || (decide (0 < (coreOf s c).rptLeft) && (coreOf s c).state == 1)) = true then .next s
      else .next (coreMod u c SparCore.recalled) := by
    show execCourseRecall c s = _
    unfold execCourseRecall
    extract_lets x
    rw [show x.recallTo = _ from h1, show x.cur = _ from h2, ← hu]
    rfl
  refine ⟨fun hr hst => hx.trans (if_pos (by rw [h3, hst, decide_eq_true hr]; rfl)), fun h => .intro (hx.trans (if_neg ?_)) ?_⟩
  · rw [h3]
    rcases h with h | h
    · rw [h]
      simp
    · rw [beq_eq_false_iff_ne.2 h]
      simp
  · have hsp : u.spar = s.spar := hu ▸ (discardObds_sched ..).2.trans rfl
    rw [coreOf_coreMod_same, coreOf_congr hsp]
    refine ⟨rfl, rfl, rfl, rfl, rfl, rfl, fun o ho hc => ?_⟩
    have ho' : o ∈ (discardObds (obdRelease s c) (some c) q rq).csc.obds := hu ▸ ho
    obtain ⟨p, hp, _, _, _, _, hrd⟩ := mem_discardObds ho'
    obtain ⟨p', _, hpp⟩ := List.mem_map.1 (List.mem_filter.1 hp).1
    rw [hrd, ← hpp] at hc
    have := (List.mem_filter.1 hc).2
    simp at this

theorem courseRecall_none (c : CoreId) (h : (coreOf s c).recallTo = none) : exec (.courseRecall c) s = .next s := by
  show execCourseRecall c s = _
  unfold execCourseRecall
  extract_lets x
  rw [show x.recallTo = none from h]

/-! ### Copies -/

theorem copyRow_access (s : State) (g : Group) (src dst b k r : Nat) : (copyRow s g src dst b k r).sansAccess = s.sansAccess := by
  unfold copyRow
  extract_lets p
  have hr := seqRead_access s cscInit none (src + (b * g.ch.toNat + r) * p) p
  split
  · next bs t h =>
    rw [h] at hr
    exact (seqWrite_access ..).trans hr
  · next t h =>
    rw [h] at hr
    exact hr

theorem copyCourse_access (s : State) (j : Job) (g : Group) (k region : Nat) :
    (copyCourse s j g k region).sansAccess = s.sansAccess :=
  foldl_view (V := State.sansAccess) (fun _ _ =>
    foldl_view (V := State.sansAccess) (fun _ _ => copyRow_access ..) _ _) _ s

theorem tagGroup_spec {t : CourseTag} {j : Job} {g : Group} (h : tagGroup s t = some (j, g)) :
    t.isOwn s = true ∧ jobOf s t.job = some j := by
  unfold tagGroup at h
  split at h
  · next ho =>
    split at h
    · cases h
    · next i hi =>
      obtain ⟨g', _, hg⟩ := Option.map_eq_some_iff.1 h
      exact ⟨ho, hi.trans (congrArg some (congrArg Prod.fst hg))⟩
  · cases h

theorem courseMod_mem (s : State) (t : CourseTag) (f : Course → Course) : (courseMod s t f).mem = s.mem :=
  ite_view (V := State.mem) rfl rfl

theorem courseMod_copies (s : State) (t : CourseTag) (f : Course → Course) : (courseMod s t f).csc.copies = s.csc.copies :=
  ite_view (V := fun s => s.csc.copies) rfl rfl

/-- The state in which the end of the oldest copy is taken. -/
def copied (s : State) (k : Copy) (j : Job) (g : Group) : State :=
  if k.sent then s else copyCourse s j g k.tag.course.toNat k.region

theorem copied_access (s : State) (k : Copy) (j : Job) (g : Group) : (copied s k j g).sansAccess = s.sansAccess :=
  ite_view (V := State.sansAccess) rfl (copyCourse_access ..)

theorem exec_commitCopyDone (hu : cscUp s = true) {k : Copy} {ks : List Copy} {j : Job} {g : Group}
    (hc : s.csc.copies = k :: ks) (ht : tagGroup s k.tag = some (j, g)) : exec .commitCopyDone s =
      if cscStoresOut (copied s k j g) = true
      then .next { copied s k j g with csc.copies := { k with sent := true } :: ks }
      else .next (courseMod { copied s k j g with csc.copies := ks } k.tag fun q => { q with st := .visible }) := by
  refine (if_neg (by rw [hu]; decide) : execCommitCopyDone s = _).trans ?_
  rw [hc]
  dsimp only
  rw [ht]
  rfl

theorem commitCopyDone_spec (hu : cscUp s = true) {k : Copy} {ks : List Copy} {j : Job} {g : Group}
    (hc : s.csc.copies = k :: ks) (ht : tagGroup s k.tag = some (j, g))
    (hk : k.tag.course.toNat < (j.groups.getD k.tag.group.val []).length) :
    Gives .commitCopyDone s fun t => t.mem = (copied s k j g).mem ∧
      (cscStoresOut (copied s k j g) = true → t.csc.copies = { k with sent := true } :: ks ∧ t.csc.jobs = s.csc.jobs) ∧
      (cscStoresOut (copied s k j g) = false → t.csc.copies = ks ∧ ∃ i : Job, jobOf t k.tag.job = some i ∧
        (i.course k.tag.group.val k.tag.course.toNat).st = .visible) := by
  have hx := exec_commitCopyDone hu hc ht
  have hv := copied_access s k j g
  obtain ⟨ho, hj⟩ := tagGroup_spec ht
  obtain ⟨u, hue⟩ : ∃ u, copied s k j g = u := ⟨_, rfl⟩
  rw [hue] at hx hv ⊢
  have hjobs : u.csc.jobs = s.csc.jobs := (congrArg (fun s => s.csc.jobs) hv :)
  cases hs : cscStoresOut u with
  | true =>
    rw [hs, if_pos rfl] at hx
    exact .intro hx ⟨rfl, fun _ => ⟨rfl, hjobs⟩, fun h => by cases h⟩
  | false =>
    rw [hs, if_neg Bool.false_ne_true] at hx
    have hou : k.tag.isOwn { u with csc.copies := ks } = true := by
      have hd : u.dev = s.dev := (congrArg State.dev hv :)
      unfold CourseTag.isOwn ownChip at ho ⊢
      rw [hd]
      exact ho
    have hju : jobOf { u with csc.copies := ks } k.tag.job = some j :=
      (jobOf_congr (s := s) (t := { u with csc.copies := ks }) hjobs _).trans hj
    refine .intro hx ⟨courseMod_mem .., (fun h => by cases h), fun _ => ⟨courseMod_copies .., _, jobOf_courseMod hou hju _, ?_⟩⟩
    rw [course_setCourse j _ hk]

/-! ### Stealing between chips -/

theorem remoteSteal_spec (hu : cscUp s = true) (hfm : fabricMode s = true) (hd : s.boot.dprActive = false)
    (hr : s.fab.role ≠ 3) (hn : 0 < min 4 s.csc.npeer.toNat) (hs : s.csc.steal = none) :
    let n := min 4 s.csc.npeer.toNat
    let p := peerOf s (s.csc.nextPeer % n)
    (starved s = true → remoteErr s p = none →
      (s.fab.remotes.length < 256 → Gives .remoteStealRequest s fun t => t.csc.steal = some (s.fab.nextTag, p) ∧
        t.fab.remotes = s.fab.remotes ++ [{ tag := s.fab.nextTag, home := p, wait := .steal }]) ∧
      (256 ≤ s.fab.remotes.length → exec .remoteStealRequest s = .next s)) ∧
    (starved s = true → ∀ e : BusErr, remoteErr s p = some e →
      exec .remoteStealRequest s = .next { s with csc.nextPeer := (s.csc.nextPeer + 1) % n }) ∧
    (starved s = false → exec .remoteStealRequest s = .next s) := by
  intro n p
  have hcond : starved s = true → (cscUp s && fabricMode s && !s.boot.dprActive && decide (s.fab.role ≠ 3) &&
      decide (0 < n) && s.csc.steal.isNone && starved s) = true := fun h => by
    rw [hu, hfm, hd, hs, h, decide_eq_true hr, decide_eq_true hn]
    rfl
  obtain ⟨d, hdd⟩ : ∃ d, toLE 16 (Config.freeOf .unspecified [20, s.csc.nextPeer]) = d := ⟨_, rfl⟩
  have he : starved s = true → exec .remoteStealRequest s = match remoteRequest s .steal p mkSteal 0 0 2 d with
      | .sent tag t => .next (cscStat { t with csc.steal := some (tag, p) } nRemoteOut)
      | .err _ => .next { s with csc.nextPeer := (s.csc.nextPeer + 1) % n }
      | .full => .next s := fun h => by
    rw [← hdd]
    exact (if_pos (hcond h) : execRemoteStealRequest s = _)
  refine ⟨fun h hre => ⟨fun hl => ?_, fun hl => ?_⟩, fun h e hre => ?_, fun h => ?_⟩
  · have hreq : remoteRequest s .steal p mkSteal 0 0 2 d = .sent s.fab.nextTag (remoteSend s .steal p mkSteal 0 0 2 d) := by
      unfold remoteRequest
      rw [hre]
      exact if_neg (Nat.not_le.2 hl)
    have hx := he h
    rw [hreq] at hx
    refine .intro hx ⟨rfl, ?_⟩
    unfold remoteSend
    extract_lets tag m
    have hv := sendOwn_shl { s with
      fab.nextTag := tag + 1, fab.remotes := s.fab.remotes ++ [{ tag := tag, home := p, wait := .steal }] } m
    exact (congrArg (fun s => s.fab.remotes) hv :)
  · have hreq : remoteRequest s .steal p mkSteal 0 0 2 d = .full := by
      unfold remoteRequest
      rw [hre]
      exact if_pos hl
    have hx := he h
    rw [hreq] at hx
    exact hx
  · have hreq : remoteRequest s .steal p mkSteal 0 0 2 d = .err e := by
      unfold remoteRequest
      rw [hre]
    have hx := he h
    rw [hreq] at hx
    exact hx
  · exact if_neg (by rw [h]; simp)

/-- A ready course is one of its job's. -/
theorem mem_readyList {j : Job} {g k : Nat} (h : (j, g, k) ∈ readyList s) : k < (j.groups.getD g []).length := by
  unfold readyList at h
  obtain ⟨p, _, hp⟩ := List.mem_flatMap.1 h
  obtain ⟨i, _, hi⟩ := List.mem_flatMap.1 hp
  have hall : ∀ x ∈ (List.range i.groups.length).flatMap (fun g =>
      (List.range (i.groups.getD g []).length).filterMap fun k =>
        if (i.course g k).st = .unassigned then
          match planGroup s i g with
          | some p => if courseReady s i p k then some (i, g, k) else none
          | none => none
        else none), x.2.2 < (x.1.groups.getD x.2.1 []).length := fun x hx => by
    obtain ⟨g', _, hg'⟩ := List.mem_flatMap.1 hx
    obtain ⟨k', hk', hx'⟩ := List.mem_filterMap.1 hg'
    split at hx'
    · split at hx'
      · split at hx'
        · obtain rfl := Option.some.inj hx'
          exact List.mem_range.1 hk'
        · cases hx'
      · cases hx'
    · cases hx'
  unfold jobReady at hi
  split at hi
  · cases hi
  · obtain hi | hi := List.mem_append.1 hi
    · exact hall _ (List.mem_filter.1 hi).1
    · exact hall _ (List.mem_filter.1 hi).1

/-- The answer of a home that is asked for a course. -/
def stealAnswer (t : State) (thief : ChipId) (k : List Nat) : State :=
  sendOwn t (mkMessage mkStealResp thief.val (ownChip t).val (Config.freeOf .unspecified (21 :: k)) 0 0 0 0
    (toLE 16 (Config.freeOf .unspecified (22 :: k))))

theorem steal_none {thief : ChipId} {core : Fin 16} {hashes : List (PhtSlotId × W64)} (hf : fabricMode s = true)
    (hr : s.fab.role ≠ 3) (h : cscUp s = false ∨ s.boot.dprActive = true ∨ (readyList s).filter (stealable s hashes) = []) :
    exec (.steal thief core hashes) s = .next (stealAnswer s thief []) := by
  refine (if_neg (by rw [hf, beq_eq_false_iff_ne.2 hr]; decide) : execSteal thief core hashes s = _).trans ?_
  by_cases hc : (!cscUp s || s.boot.dprActive) = true
  · exact if_pos hc
  · refine (if_neg hc).trans ?_
    have hn : (readyList s).filter (stealable s hashes) = [] := by
      rcases h with h | h | h
      · exact absurd (by rw [h]; rfl) hc
      · exact absurd (by rw [h]; simp) hc
      · exact h
    rw [hn]
    rfl

/-- The course that a home gives away, noted as the thief's. -/
def stolenAway (s : State) (thief : ChipId) (core : Fin 16) (j : Job) (g k : Nat) : State :=
  jobMod (courseMod s (tagOf s j g k) fun q => { q with st := .remote thief core, stolen := true, first := false }) j.tag
    fun j => { j with remoteRan := true }

theorem steal_some {thief : ChipId} {core : Fin 16} {hashes : List (PhtSlotId × W64)} (hf : fabricMode s = true)
    (hr : s.fab.role ≠ 3) (hu : cscUp s = true) (hd : s.boot.dprActive = false) {j : Job} {g k : Nat}
    (hl : ((readyList s).filter (stealable s hashes)).getLast? = some (j, g, k)) : exec (.steal thief core hashes) s =
      .next (stealAnswer (cscStat (stolenAway s thief core j g k) nRemoteIn) thief [j.tag.toNat, g, k]) := by
  refine (if_neg (by rw [hf, beq_eq_false_iff_ne.2 hr]; decide) : execSteal thief core hashes s = _).trans
    ((if_neg (by rw [hu, hd]; decide)).trans ?_)
  rw [hl]
  rfl

theorem steal_spec (thief : ChipId) (core : Fin 16) (hashes : List (PhtSlotId × W64)) (hf : fabricMode s = true)
    (hr : s.fab.role ≠ 3) :
    (cscUp s = false ∨ s.boot.dprActive = true ∨ ((readyList s).filter (stealable s hashes)) = [] →
      Gives (.steal thief core hashes) s fun t => t = { s with shl := t.shl, out := t.out }) ∧
    (∀ (j : Job) (g k : Nat), ((readyList s).filter (stealable s hashes)).getLast? = some (j, g, k) →
      cscUp s = true → s.boot.dprActive = false → g < 64 → k < 4096 → jobOf s j.tag = some j →
        Gives (.steal thief core hashes) s fun t =>
          ∃ i : Job, jobOf t j.tag = some i ∧ i.remoteRan = true ∧ (i.course g k).st = .remote thief core) := by
  refine ⟨fun h => .intro (steal_none hf hr h) (eq_of_shl (sendOwn_shl ..)), fun j g k hl hu hd hg hk hj =>
    .intro (steal_some hf hr hu hd hl) ?_⟩
  have hlen := mem_readyList (List.mem_filter.1 (List.mem_of_getLast? hl)).1
  have h1 := jobOf_courseMod (q := tagOf s j g k) (tagOf_isOwn s j g k) hj
    (fun q => { q with st := .remote thief core, stolen := true, first := false })
  rw [tagOf_group s j hg, tagOf_course s j g hk] at h1
  have h2 := jobOf_jobMod_same (f := fun j => { j with remoteRan := true }) (fun _ => rfl) h1
  obtain ⟨u, hue⟩ : ∃ u, cscStat (stolenAway s thief core j g k) nRemoteIn = u := ⟨_, rfl⟩
  have h3 := (congrArg (jobOf · j.tag) hue).symm.trans h2
  rw [hue]
  have hv : (stealAnswer u thief [j.tag.toNat, g, k]).csc.jobs = u.csc.jobs :=
    (congrArg (fun s => s.csc.jobs) (sendOwn_shl ..) :)
  refine ⟨_, (jobOf_congr hv _).trans h3, rfl, ?_⟩
  exact congrArg Course.st (course_setCourse j
    (fun q => { q with st := .remote thief core, stolen := true, first := false }) hlen)

/-- The state in which a steal request has been answered. -/
def stealAnswered (s : State) (tag : BitVec 12) : State :=
  { s with csc.steal := none, fab.remotes := s.fab.remotes.filter fun r => r.tag ≠ tag }

theorem stealresp_spec (hu : cscUp s = true) {tag : BitVec 12} {p : ChipId} (hs : s.csc.steal = some (tag, p)) :
    (Gives (.stealresp p none) s fun t => t.csc.steal = none ∧
      t.csc.nextPeer = (s.csc.nextPeer + 1) % max 1 (min 4 s.csc.npeer.toNat) ∧ t.spar = s.spar) ∧
    (∀ (b : Bytes) (c : CoreId) (cs : List CoreId) (g : Group) (e : Nat),
      (allCores.filter fun c => coreFree s c && (coreOf s c).pre.isNone) = c :: cs →
      (coreOf s c).plan = some (Fin.ofNat 64 (stolenField b 0)) →
      (planOf s (Fin.ofNat 64 (stolenField b 0))).groups[(stolenTag p b).group.val]? = some g →
      sparEntry s g = some e → Gives (.stealresp p (some b)) s fun t => t.csc.steal = none ∧
        (coreOf t c).state = 1 ∧ (coreOf t c).pc = BitVec.ofNat 32 (32 * e) ∧
        (coreOf t c).cur = some (stolenTag p b) ∧ (coreOf t c).crs = stolenCrs g (stolenTag p b) b) := by
  have hneg : ¬ (p ≠ p ∨ cscUp s = false) := fun h => h.elim (fun h => h rfl) (fun h => by rw [hu] at h; cases h)
  constructor
  · have hx : exec (.stealresp p none) s = .next { stealAnswered s tag with
        csc.nextPeer := (s.csc.nextPeer + 1) % max 1 (min 4 s.csc.npeer.toNat) } := by
      show execStealresp p none s = _
      unfold execStealresp
      rw [hs]
      exact if_neg hneg
    exact .intro hx ⟨rfl, rfl, rfl⟩
  · intro b c cs g e hc hp hg he
    obtain ⟨u, hue⟩ : ∃ u, stealAnswered s tag = u := ⟨_, rfl⟩
    have hcu : (allCores.filter fun c => coreFree u c && (coreOf u c).pre.isNone) = c :: cs := hue ▸ hc
    have hpu : (coreOf u c).plan = some (Fin.ofNat 64 (stolenField b 0)) := hue ▸ hp
    have hgu : (planOf u (Fin.ofNat 64 (stolenField b 0))).groups[(stolenTag p b).group.val]? = some g := hue ▸ hg
    have heu : sparEntry u g = some e := hue ▸ he
    have hsu : u.csc.steal = none := hue ▸ rfl
    obtain ⟨t, ht, hts, htc⟩ : ∃ t, startStolen u p b = some t ∧ t.csc.steal = none ∧ coreOf t c =
        { (coreOf u c).clearRegs with
          state := 1, pc := BitVec.ofNat 32 (32 * e), crs := stolenCrs g (stolenTag p b) b, cur := some (stolenTag p b),
          started := u.csc.seq } := by
      refine ⟨coreMod { u with csc.seq := u.csc.seq + 1, csc.nextPeer := 0 } c fun x => { x.clearRegs with
          state := 1, pc := BitVec.ofNat 32 (32 * e), crs := stolenCrs g (stolenTag p b) b, cur := some (stolenTag p b),
          started := u.csc.seq }, ?_, hsu, coreOf_coreMod_same ..⟩
      unfold startStolen
      extract_lets pl tg
      rw [show (planOf u pl).groups[tg.group.val]? = _ from hgu]
      dsimp only
      rw [heu]
      dsimp only
      rw [hcu, List.findSome?_cons, if_pos (show (coreOf u c).plan = some pl from hpu)]
      rfl
    have hx : exec (.stealresp p (some b)) s = .next t := by
      show execStealresp p (some b) s = _
      unfold execStealresp
      rw [hs]
      refine (if_neg hneg).trans ?_
      show (match startStolen (stealAnswered s tag) p b with
        | some t => .next t
        | none => .next (stealAnswered s tag) : Host.Outcome State Fault Refusal) = _
      rw [hue, ht]
    refine .intro hx ⟨hts, ?_, ?_, ?_, ?_⟩ <;> rw [htc]

/-! ### Pulled courses -/

/-- Every job of a state is in the other, and DEGRADED where it was. -/
def JobsStay (s t : State) : Prop := ∀ tag j, jobOf s tag = some j →
  ∃ k, jobOf t tag = some k ∧ (j.degraded = true → k.degraded = true)

theorem JobsKeep.stay {s t : State} (h : JobsKeep s t) : JobsStay s t := fun tag j hj => by
  obtain ⟨k, hk, _, _, hd⟩ := h tag j hj
  exact ⟨k, hk, hd⟩

theorem JobsStay.trans {s t u : State} (h1 : JobsStay s t) (h2 : JobsStay t u) : JobsStay s u := fun tag j hj => by
  obtain ⟨k, hk, hd⟩ := h1 tag j hj
  obtain ⟨l, hl, he⟩ := h2 tag k hk
  exact ⟨l, hl, fun h => he (hd h)⟩

theorem JobsStay.jobMod {s : State} (tag : W16) {f : Job → Job}
    (hf : ∀ j, (f j).tag = j.tag ∧ (j.degraded = true → (f j).degraded = true)) : JobsStay s (jobMod s tag f) := fun t j h => by
  rw [jobOf_jobMod s fun j => (hf j).1, h]
  split
  · exact ⟨f j, rfl, (hf j).2⟩
  · exact ⟨j, rfl, id⟩

theorem stopJob_stay (s : State) (tag : W16) (cause : BitVec 3) (fault : W32) : JobsStay s (stopJob s tag cause fault) := by
  cases hj : jobOf s tag with
  | none =>
    have he : stopJob s tag cause fault = s := by
      unfold stopJob
      rw [hj]
    rw [he]
    exact (JobsKeep.refl s).stay
  | some j =>
    exact (JobsStay.jobMod (f := fun j => j.end_ cause fault) tag fun j =>
      ⟨end_tag j cause fault, fun h => (end_degraded j cause fault).trans h⟩).trans (stopJob_keepJobs hj cause fault).stay

theorem abortIfStuck_stay (s : State) (j : Job) : JobsStay s (abortIfStuck s j) := by
  unfold abortIfStuck
  split
  · exact (JobsStay.jobMod (f := fun j => { j with degraded := true }) j.tag fun _ => ⟨rfl, fun _ => rfl⟩).trans
      (stopJob_stay _ _ _ _)
  · exact (JobsKeep.refl s).stay

theorem abortStuck_stay (s : State) : JobsStay s (abortStuck s) := by
  have h : ∀ (l : List Job) (u : State), JobsStay u (l.foldl abortIfStuck u) := fun l => by
    induction l with
    | nil => exact fun u => (JobsKeep.refl u).stay
    | cons j l ih => exact fun u => (abortIfStuck_stay u j).trans (ih _)
  exact h _ s

theorem abortStuck_free (h1 : unitFenced s 0x10 = false) (h2 : allSparFenced s = false) : abortStuck s = s := by
  have h : ∀ l : List Job, l.foldl abortIfStuck s = s := fun l => by
    induction l with
    | nil => rfl
    | cons j l ih => rw [List.foldl_cons, abortIfStuck_free h1 h2, ih]
  exact h _

theorem pullRows_access (s : State) (j : Job) (g : Group) (k : Nat) : (pullRows s j g k).sansAccess = s.sansAccess := by
  unfold pullRows
  refine foldl_view (V := State.sansAccess) (fun t b => foldl_view (V := State.sansAccess) (fun t r => ?_) _ t) _ s
  exact (seqWrite_access ..).trans rfl

/-- The state in which the rows of a course have been pulled: it is visible, or waits for its stores. -/
def pulled (u : State) (t : CourseTag) : State :=
  if cscStoresOut u then
    { courseMod u t (fun q => { q with st := .committed, region := 35 }) with
      csc.copies := u.csc.copies ++ [{ tag := t, region := 35, sent := true }] }
  else courseMod u t fun q => { q with st := .visible }

/-- A course whose pull failed is unassigned again, its job DEGRADED. -/
def pullFailed (s : State) (tag : W16) (t : CourseTag) : State :=
  jobMod (courseMod s t fun q => { q with st := .unassigned, first := true, stolen := false }) tag
    fun j => { j with degraded := true }

theorem exec_remotePullDone (hu : cscUp s = true) (ok : Bool) {tag : W16} {group : Fin 64} {k : Nat} {j : Job} {g : Group}
    {chip : ChipId} {core : CoreId} (hj : jobOf s tag = some j) (hc : (j.course group.val k).st = .remote chip core)
    (hg : planGroup s j group.val = some g) : exec (.remotePullDone ok tag group k) s =
      if ok = true then
        .next (if k = 0 then pulled (pullRows s j g k) (tagOf s j group.val k)
          else obdClose (pulled (pullRows s j g k) (tagOf s j group.val k)) (tagOf s j group.val k).upper)
      else .next (abortStuck (pullFailed s tag (tagOf s j group.val k))) := by
  show execRemotePullDone ok tag group k s = _
  unfold execRemotePullDone
  rw [hj]
  dsimp only
  rw [hc, hg]
  dsimp only
  rw [if_neg (by rw [hu]; decide)]
  rfl

theorem pulled_spec {u : State} {t : CourseTag} (ho : t.isOwn u = true) {j : Job} (hj : jobOf u t.job = some j)
    (hk : t.course.toNat < (j.groups.getD t.group.val []).length) : (pulled u t).mem = u.mem ∧
      ∃ i : Job, jobOf (pulled u t) t.job = some i ∧
        (cscStoresOut u = true → (i.course t.group.val t.course.toNat).st = .committed ∧
          (pulled u t).csc.copies = u.csc.copies ++ [{ tag := t, region := 35, sent := true }]) ∧
        (cscStoresOut u = false → (i.course t.group.val t.course.toNat).st = .visible) := by
  unfold pulled
  cases hs : cscStoresOut u with
  | true =>
    rw [if_pos rfl]
    have h1 := jobOf_courseMod ho hj fun q => { q with st := .committed, region := 35 }
    refine ⟨courseMod_mem u t _, _, h1, fun _ => ⟨?_, rfl⟩, fun h => by cases h⟩
    rw [course_setCourse j _ hk]
  | false =>
    rw [if_neg Bool.false_ne_true]
    have h1 := jobOf_courseMod ho hj fun q => { q with st := .visible }
    refine ⟨courseMod_mem u t _, _, h1, (fun h => by cases h), fun _ => ?_⟩
    rw [course_setCourse j _ hk]

theorem remotePull_ok (hu : cscUp s = true) {tag : W16} {group : Fin 64} {k : Nat} {j : Job} {g : Group} {chip : ChipId}
    {core : CoreId} (hj : jobOf s tag = some j) (hc : (j.course group.val k).st = .remote chip core)
    (hg : planGroup s j group.val = some g) (hk : k < 4096) (hlen : k < (j.groups.getD group.val []).length) :
    let u := pullRows s j g k
    Gives (.remotePullDone true tag group k) s fun t => t.mem = u.mem ∧ ∃ i : Job, jobOf t tag = some i ∧
      (cscStoresOut u = true → (i.course group.val k).st = .committed ∧
        t.csc.copies = s.csc.copies ++ [{ tag := tagOf s j group.val k, region := 35, sent := true }]) ∧
      (cscStoresOut u = false → (i.course group.val k).st = .visible) := by
  have hjt : j.tag = tag := jobOf_tag hj
  have hgr := tagOf_group s j group.isLt k
  have hco := tagOf_course s j group.val hk
  intro u
  have hv : u.sansAccess = s.sansAccess := pullRows_access s j g k
  have hcsc : u.csc = s.csc := (congrArg State.csc hv :)
  have hd : u.dev = s.dev := (congrArg State.dev hv :)
  obtain ⟨t, ht⟩ : ∃ t, tagOf s j group.val k = t := ⟨_, rfl⟩
  have htj : t.job = tag := ht ▸ hjt
  have hto : t.isOwn u = true := by
    have := tagOf_isOwn s j group.val k
    rw [ht] at this
    unfold CourseTag.isOwn ownChip at this ⊢
    rw [hd]
    exact this
  rw [ht] at hgr hco
  have hju : jobOf u t.job = some j := by
    rw [htj, jobOf, hcsc]
    exact hj
  obtain ⟨h1, i, h2, h3, h4⟩ := pulled_spec hto hju (by rw [hgr, hco]; exact hlen)
  rw [hgr, hco] at h3 h4
  rw [htj] at h2
  rw [hcsc] at h3
  have hx := (exec_remotePullDone hu true hj hc hg).trans (if_pos rfl)
  rw [show pullRows s j g k = u from rfl, ht] at hx
  rw [ht]
  obtain ⟨w, hw⟩ : ∃ w, pulled u t = w := ⟨_, rfl⟩
  rw [hw] at hx h1 h2 h3
  refine .intro hx ?_
  split
  · exact ⟨h1, i, h2, h3, h4⟩
  · exact ⟨h1, i, h2, h3, h4⟩

theorem remotePull_failed (hu : cscUp s = true) {tag : W16} {group : Fin 64} {k : Nat} {j : Job} {g : Group} {chip : ChipId}
    {core : CoreId} (hj : jobOf s tag = some j) (hc : (j.course group.val k).st = .remote chip core)
    (hg : planGroup s j group.val = some g) (hk : k < 4096) (hlen : k < (j.groups.getD group.val []).length) :
    Gives (.remotePullDone false tag group k) s fun t =>
      ∃ i : Job, jobOf t tag = some i ∧ i.degraded = true ∧
        (unitFenced s 0x10 = false → allSparFenced s = false → (i.course group.val k).st = .unassigned) := by
  have hjt : j.tag = tag := jobOf_tag hj
  have hgr := tagOf_group s j group.isLt k
  have hco := tagOf_course s j group.val hk
  have hx := (exec_remotePullDone hu false hj hc hg).trans (if_neg Bool.false_ne_true)
  have h1 := jobOf_courseMod (q := tagOf s j group.val k) (tagOf_isOwn s j group.val k) (hjt ▸ hj)
    (fun q => { q with st := .unassigned, first := true, stolen := false })
  rw [hgr, hco, show (tagOf s j group.val k).job = tag from hjt] at h1
  have h2 := jobOf_jobMod_same (f := fun j => { j with degraded := true }) (fun _ => rfl) h1
  have hcl : (pullFailed s tag (tagOf s j group.val k)).cleatC = s.cleatC :=
    (show (pullFailed s tag (tagOf s j group.val k)).cleatC = _ from rfl).trans
      (ite_view (V := State.cleatC) rfl rfl)
  refine .intro hx ?_
  by_cases hf : unitFenced s 0x10 = false ∧ allSparFenced s = false
  · rw [abortStuck_free ((unitFenced_congr hcl 0x10).trans hf.1) ((allSparFenced_congr hcl).trans hf.2)]
    refine ⟨_, h2, rfl, fun _ _ => ?_⟩
    exact congrArg Course.st (course_setCourse j
      (fun q => { q with st := .unassigned, first := true, stolen := false }) hlen)
  · obtain ⟨i, hi, hdg⟩ := abortStuck_stay _ tag _ h2
    exact ⟨i, hi, hdg rfl, fun h3 h4 => absurd ⟨h3, h4⟩ hf⟩

end

/-- Settles O41: what each of the scheduler's events makes of a course, its core and its job. -/
theorem coursesRun : Obligations.CoursesRun := by
  unfold Obligations.CoursesRun
  intro s
  refine ⟨fun hu => ⟨courseDispatch_idle, ?_, courseStealLocal_idle, ?_, fun u c hn => courseCommit_spec hu u c hn, ?_⟩,
    fun c => ⟨prefetchCancelDone_spec c, ?_, courseRecall_spec c, courseRecall_none c⟩, ?_, ?_,
    fun thief core hashes hf hr => steal_spec thief core hashes hf hr, fun tag p hs hu => stealresp_spec hu hs, ?_⟩
  · intro c cs j gi k e r g rest h1 hl hg hee he hc hp hr ho
    exact courseDispatch_spec hu h1 hl hg hee he hc hp hr ho
  · intro thief v ths q j g e r hl ht hv hq hj hg hob he hp hr
    exact courseStealLocal_spec hu hl ht hv hq hj hg hob he hp hr
  · intro u h16
    subst h16
    exact courseCommit_ee_spec hu
  · intro q rd rs j g hw hr ht
    exact haloWaitExpiry_spec hw hr ht
  · intro k ks j g hu hc ht _ hk
    exact commitCopyDone_spec hu hc ht hk
  · intro n p hu hfm hd hr hn hs
    exact remoteSteal_spec hu hfm hd hr hn hs
  · intro tag group k j g chip core hu hj hc hg hk hlen
    exact ⟨remotePull_ok hu hj hc hg hk hlen, remotePull_failed hu hj hc hg hk hlen⟩

end Sys2Proof.Machine

end
